-- ==== Sys2Proof/Word.lean ====
section
/-! DEFINITION. The words of the window: 32-bit registers and bytes, and the plainest arithmetic on them. -/

namespace Sys2Proof

/-- A 32-bit register word, little-endian in BAR0 (chapter 00, Register access). -/
abbrev Word := BitVec 32

/-- One byte. -/
abbrev Byte := BitVec 8

/-- The two's-complement reading of the low `w` bits of `n`. -/
def toSigned (w n : Nat) : Int :=
  let m := n % 2 ^ w
  if m < 2 ^ (w - 1) then (m : Int) else (m : Int) - (2 ^ w : Nat)

/-- The `w`-bit two's-complement code of `i`, wrapped. -/
def ofSigned (w : Nat) (i : Int) : Nat := (i % ((2 ^ w : Nat) : Int)).toNat

/-- `i` limited to the closed range `lo` to `hi`. -/
def clampInt (lo hi i : Int) : Int := if i < lo then lo else if hi < i then hi else i

/-- `n` limited to the closed range `lo` to `hi`. -/
def clampNat (lo hi n : Nat) : Nat := if n < lo then lo else if hi < n then hi else n

end Sys2Proof
end

