-- ==== Sys2Proof/Message.lean ====
section
/-! DEFINITION. The operands of the commands: request headers and TLVs, queue items, messages and frames as they arrive. -/

namespace Sys2Proof

/-- The header of a Suosh request (R352), as its command sees it: the channel it came on (R359), tag, flags and target. -/
structure Req where
  channel : Nat
  tag : Nat
  atomic : Bool
  ordered : Bool
  fence : Bool
  noReply : Bool
  sealed : Bool
  direct : Bool
  seq : Nat
  device : Nat
  all : Bool
  waitMs : Nat
  noWait : Bool
deriving DecidableEq, Repr

/-- One TLV of a request's parameters (R355): its type, the length of its value in bytes, and those bytes read as one
little-endian number. -/
structure Tlv where
  ty : Nat
  len : Nat
  val : Nat
deriving DecidableEq, Repr

/-- One item of a queue (R221): its first entry of 16 bytes (an event record, or an item header) and the bytes that follow
it in further entries of 16. -/
structure QItem where
  hdr : List Byte
  body : List Byte
deriving DecidableEq, Repr

/-- A submit descriptor (R403): address, length, flag byte (bit 0 EOP, 1 STAMP, 2 SEG, 3 IPV6, 4 UDP), HDR_LEN, MSS, COOKIE. -/
structure Desc where
  addr : Nat
  len : Nat
  flags : Nat
  hdrLen : Nat
  mss : Nat
  cookie : Nat
deriving DecidableEq, Repr

/-- What the surroundings bring to one pass of Anvil (R254): source rows whose seal does not hold as they are loaded, results whose
residue does not match (destination d, or 8192 + b for bus b), playback sets whose block fails as it is read, destination rows whose
seal does not hold as an orbit transmitter or a record writer reads them, the 16 values of the sense block, and its
seal; playback sets whose read of the deep store meets an uncorrectable error, and logical banks in which the reads of the pass meet a
corrected one; and arithmetic units found failed within the pass, by watchdog, test or host, as (unit, cause, the result it was about to deliver). -/
structure PassFacts where
  rows : List Nat
  residues : List Nat
  play : List Nat
  dests : List Nat
  sense : List Int
  senseSeal : Nat
  playUe : List Nat
  ce : List Nat
  fails : List (Nat × Nat × Nat)
deriving DecidableEq, Repr

/-- The fields of a received Announce that best-master selection and the data sets use: source port identity (clock
identity × 2^16 + port number), domain, grandmaster identity and quality, priorities, steps removed, time source, UTC
offset, currentUtcOffsetValid, the timeTraceable and frequencyTraceable flags, the two leap flags and ptpTimescale. -/
structure Announce where
  src : Nat
  domain : Nat
  gm : Nat
  prio1 : Nat
  cls : Nat
  acc : Nat
  var : Nat
  prio2 : Nat
  steps : Nat
  timeSource : Nat
  utcOffset : Nat
  utcValid : Bool
  traceable : Bool
  freqTraceable : Bool
  leap61 : Bool
  leap59 : Bool
  ptpScale : Bool
deriving DecidableEq, Repr

/-- A received Sync, Follow_Up or Delay_Resp: source port identity, domain, sequenceId, the time it carries in ns since the
epoch, its correctionField in 2^−16 ns, and whether a Sync is two-step. -/
structure PtpMsg where
  src : Nat
  domain : Nat
  seq : Nat
  time : Nat
  corr : Int
  twoStep : Bool
deriving DecidableEq, Repr

/-- A frame as it reaches its end on the wire of a port: its bytes from the first of the destination address to the last of
the FCS, whether the PCS reported an error in it or it was cut off, whether its FCS holds, and the raw receive stamp in
2^−16 ns (R58, R129). -/
structure WireFrame where
  bytes : List Byte
  codeErr : Bool
  fcsOk : Bool
  stamp : Int
deriving DecidableEq, Repr

/-- What an HTTP request asks of the NMOS APIs (R385): of IS-04 the node, a collection, or the resource of a kind (2 source, 3 flow, 4 sender, 5
receiver) of a stream; of IS-05 the active or staged parameters or the transport file of a sender (direction 1) or receiver (0), or a PATCH of the
staged ones, as parameters of STREAM_TX_SET or STREAM_RX_SET, with master_enable; or what is not there. -/
inductive NmosRes where
  | self
  | devices
  | sources
  | flows
  | senders
  | receivers
  | one (kind : Nat) (i : Nat)
  | active (dir : Nat) (i : Nat)
  | staged (dir : Nat) (i : Nat)
  | file (i : Nat)
  | patch (dir : Nat) (i : Nat) (p : List Tlv) (enable : Option Bool)
  | absent
deriving DecidableEq, Repr

/-- The TCP connection an HTTP answer leaves on: IP version 6, the header template of its next segment, and its MSS (R143). -/
structure HttpConn where
  ip6 : Bool
  hdr : List Byte
  mss : Nat
deriving DecidableEq, Repr

end Sys2Proof
end

