-- ==== Sys2Proof/Syntax.lean ====
section
/-! DEFINITION. The commands the block takes, one constructor per row of spec/opcode_table.json.
A Suosh command carries its request header and its parameters as TLVs (R352, R355); a host access carries the word written;
an event carries what happened outside the block (the frame received, the stamp taken, the edge seen). -/

namespace Sys2Proof

/-- The commands, in the order of the table. -/
inductive Instr where
  /-- NOP (R377): Completes OK with no payload. -/
  | nop (r : Req) (p : List Tlv)
  /-- SYS_INFO_GET (R377): Returns device identity, firmware version, behaviour level, life-cycle state, index, privilege, free tags and open sessions. -/
  | sysInfoGet (r : Req) (p : List Tlv)
  /-- SESSION_LIST_GET (R377): Returns one record for each open UDP session. -/
  | sessionListGet (r : Req) (p : List Tlv)
  /-- SESSION_CLOSE (R377): Closes the named session, or closes the requesting session after its reply. -/
  | sessionClose (r : Req) (p : List Tlv)
  /-- CMD_STATUS_GET (R377): Returns the CMD counters from one snapshot and optionally zeroes them. -/
  | cmdStatusGet (r : Req) (p : List Tlv)
  /-- CMD_CHANNEL_GET (R377): Returns the tags in flight, the ORDERED waits and the FENCE state of one channel. -/
  | cmdChannelGet (r : Req) (p : List Tlv)
  /-- DS_STATUS_GET (R233): Returns the deep-store status, the bank map, the pool state and the per-bank counters from one snapshot. -/
  | dsStatusGet (r : Req) (p : List Tlv)
  /-- BANK_QUARANTINE (R217): Declares the named bank failed with cause 4, so that it is handled under R218. -/
  | bankQuarantine (r : Req) (p : List Tlv)
  /-- BANK_RELEASE (R220): Returns a tested quarantined bank as SPARE, or to carry an absent logical bank. -/
  | bankRelease (r : Req) (p : List Tlv)
  /-- QUEUE_SET (R227): Writes EN, CAP and LEVEL of a queue, subject to the limit on the spill region. -/
  | queueSet (r : Req) (p : List Tlv)
  /-- QUEUE_STATUS_GET (R233): Returns the status and counters of the queues named. -/
  | queueStatusGet (r : Req) (p : List Tlv)
  /-- BELLOWS_SET (R230): Writes the fields of a Bellows unit, refusing a queue that another enabled unit already binds. -/
  | bellowsSet (r : Req) (p : List Tlv)
  /-- RING_INFO_GET (R233): Returns the ring length, rows and pages of an enabled receive stream, with POOL_FREE. -/
  | ringInfoGet (r : Req) (p : List Tlv)
  /-- SEAL_STATUS_GET (R252): Returns the seal registers and counters, and optionally clears the counters. -/
  | sealStatusGet (r : Req) (p : List Tlv)
  /-- SEAL_SET (R252): Writes EVT_HOLDOFF and PLAY_HOST_SEAL of SEAL_CTRL. -/
  | sealSet (r : Req) (p : List Tlv)
  /-- SEAL_INJECT (R252): Arms the complementing of the stored seals of the next blocks that reach a check point. -/
  | sealInject (r : Req) (p : List Tlv)
  /-- SYS_RESET (R538): Places its reply and then arms a warm reset or a power-on reset. -/
  | sysReset (r : Req) (p : List Tlv)
  /-- BOOT_STATUS_GET (R538): Returns the boot status, the reset cause, the ready time, the boot failures, the supply state and Tj. -/
  | bootStatusGet (r : Req) (p : List Tlv)
  /-- DORMANT_ENTER (R535): Checks the entry conditions, arms the wake detector and begins the stop towards dormant mode. -/
  | dormantEnter (r : Req) (p : List Tlv)
  /-- CFG_REJECT_GET (R538): Returns the record of the last refused write and the refusal count, and optionally clears them. -/
  | cfgRejectGet (r : Req) (p : List Tlv)
  /-- TIME_GET (R84): Returns the counter, the short time, both media counters and the servo status from one snapshot. -/
  | timeGet (r : Req) (p : List Tlv)
  /-- PTP_PORT_SET (R54): Configures the PTP instance of a media port, applying profile defaults when PROFILE changes. -/
  | ptpPortSet (r : Req) (p : List Tlv)
  /-- SERVO_SET (R84): Writes the named servo and detector fields of TIME under their update classes. -/
  | servoSet (r : Req) (p : List Tlv)
  /-- ASYM_SET (R84): Writes TIME.PORTn_ASYM. -/
  | asymSet (r : Req) (p : List Tlv)
  /-- TIME_SET (R82): Performs a time load, an armed 1PPS load or a validation of media time. -/
  | timeSet (r : Req) (p : List Tlv)
  /-- PATH_RESUME (R79): Resumes the servo from PATH_SETTLE into ACQUIRE. -/
  | pathResume (r : Req) (p : List Tlv)
  /-- SERVO_PORT_SELECT (R84): Makes an eligible port the servo's active port, with cause 2. -/
  | servoPortSelect (r : Req) (p : List Tlv)
  /-- PTP_DATASET_GET (R84): Returns one IEEE 1588 dataset of a port. -/
  | ptpDatasetGet (r : Req) (p : List Tlv)
  /-- CLOCK_QUALITY_SET (R84): Overrides the announced clock quality and writes CLK.TRACE. -/
  | clockQualitySet (r : Req) (p : List Tlv)
  /-- CLK_STATUS_GET (R118): Returns the reference, DPLL and output status from one snapshot. -/
  | clkStatusGet (r : Req) (p : List Tlv)
  /-- REF_SET (R118): Writes the configuration, frequency and phase offset of a reference. -/
  | refSet (r : Req) (p : List Tlv)
  /-- MON_SET (R118): Writes the monitor limits of a reference, or the global DISAGREE_THR and FM_BASE. -/
  | monSet (r : Req) (p : List Tlv)
  /-- DPLL_SET (R108): Writes the fields of a DPLL, with FAMILY of DPLL0 refused while anything runs. -/
  | dpllSet (r : Req) (p : List Tlv)
  /-- DPLL_MODE (R101): Writes MODE and MAN_REF of a DPLL and replies after the selection evaluation. -/
  | dpllMode (r : Req) (p : List Tlv)
  /-- STEER_SET (R111): Writes the STEER of a DPLL. -/
  | steerSet (r : Req) (p : List Tlv)
  /-- OUTPUT_SET (R118): Writes the configuration of a word-clock output or of PPS_OUT. -/
  | outputSet (r : Req) (p : List Tlv)
  /-- OUTPUT_ALIGN (R116): Arms the re-alignment of the outputs named. -/
  | outputAlign (r : Req) (p : List Tlv)
  /-- SUSPECT_CLEAR (R97): Clears SUSPECT of the references named. -/
  | suspectClear (r : Req) (p : List Tlv)
  /-- PORT_SET (R153): Writes the named fields of a network port. -/
  | portSet (r : Req) (p : List Tlv)
  /-- PORT_STATUS_GET (R153): Returns the control, status and interrupt registers of a port from one snapshot. -/
  | portStatusGet (r : Req) (p : List Tlv)
  /-- FILTER_SET (R153): Writes a host entry of the perfect-match table. -/
  | filterSet (r : Req) (p : List Tlv)
  /-- DISPATCH_SET (R132): Writes the destination of one protocol class in a port's dispatch table. -/
  | dispatchSet (r : Req) (p : List Tlv)
  /-- STATS_GET (R153): Returns the 42 counters of a port and optionally clears the STAT_HALF registers. -/
  | statsGet (r : Req) (p : List Tlv)
  /-- WAKE_SET (R153): Writes the wake-detector registers of CPA. -/
  | wakeSet (r : Req) (p : List Tlv)
  /-- IP_SET (R380): Writes the IPv4 and IPv6 configuration of a port and restarts addressing. -/
  | ipSet (r : Req) (p : List Tlv)
  /-- IP_STATUS_GET (R380): Returns the addresses in use and their leases. -/
  | ipStatusGet (r : Req) (p : List Tlv)
  /-- MCAST_JOIN (R379): Joins a multicast group on a port, using an engine filter entry. -/
  | mcastJoin (r : Req) (p : List Tlv)
  /-- MCAST_LEAVE (R380): Leaves a group joined by MCAST_JOIN. -/
  | mcastLeave (r : Req) (p : List Tlv)
  /-- MCAST_STATUS_GET (R380): Returns each multicast group held on a port. -/
  | mcastStatusGet (r : Req) (p : List Tlv)
  /-- NEIGHBOR_GET (R380): Returns entries of a port's neighbour cache. -/
  | neighborGet (r : Req) (p : List Tlv)
  /-- STREAM_RX_SET (R192): Writes a receive stream entry. -/
  | streamRxSet (r : Req) (p : List Tlv)
  /-- STREAM_TX_SET (R192): Writes a transmit stream entry. -/
  | streamTxSet (r : Req) (p : List Tlv)
  /-- STREAM_ENABLE (R192): Enables or disables up to 32 streams, each index one part. -/
  | streamEnable (r : Req) (p : List Tlv)
  /-- STREAM_STATUS_GET (R192): Returns the status word and leg words of a stream. -/
  | streamStatusGet (r : Req) (p : List Tlv)
  /-- STREAM_COUNTERS_GET (R192): Returns the counters of a stream and optionally clears them. -/
  | streamCountersGet (r : Req) (p : List Tlv)
  /-- LANE_STATUS_GET (R192): Returns the lane map, the Hammer status, the last fault and the fault map. -/
  | laneStatusGet (r : Req) (p : List Tlv)
  /-- LANE_QUARANTINE (R185): Declares the named Hammer failed with cause 4. -/
  | laneQuarantine (r : Req) (p : List Tlv)
  /-- LANE_RELEASE (R189): Returns a tested quarantined Hammer to carry an empty lane or as SPARE. -/
  | laneRelease (r : Req) (p : List Tlv)
  /-- AM824_CS_SET (R165): Sets the channel-status block of a transmit AM824 channel from the next block start. -/
  | am824CsSet (r : Req) (p : List Tlv)
  /-- AM824_CS_GET (R165): Returns the last complete channel-status block of a receive channel. -/
  | am824CsGet (r : Req) (p : List Tlv)
  /-- ROUTE_SET (R279): Enables routes with source, gain, ramp and dither, as one Anvil commit. -/
  | routeSet (r : Req) (p : List Tlv)
  /-- GAIN_SET (R279): Sets a new gain and ramp on routes or terms, as one Anvil commit. -/
  | gainSet (r : Req) (p : List Tlv)
  /-- ROUTE_CLEAR (R259): Ramps routes to 0 and then clears their EN. -/
  | routeClear (r : Req) (p : List Tlv)
  /-- BUS_SET (R287): Sets a mix bus and its terms, moving term ranges in the pool if needed. -/
  | busSet (r : Req) (p : List Tlv)
  /-- FABRIC_LOAD (R278): Loads a list of route entries in one or more commits. -/
  | fabricLoad (r : Req) (p : List Tlv)
  /-- FABRIC_GET (R287): Returns table entries in force, with GAIN_NOW, from one pass. -/
  | fabricGet (r : Req) (p : List Tlv)
  /-- ALIGN_SET (R268): Sets a new presentation offset for an alignment group, with a fade where streams are enabled. -/
  | alignSet (r : Req) (p : List Tlv)
  /-- CONCEAL_SET (R271): Writes the concealment entry of a receive stream. -/
  | concealSet (r : Req) (p : List Tlv)
  /-- GEN_SET (R265): Writes the fields of a generator. -/
  | genSet (r : Req) (p : List Tlv)
  /-- ANVIL_STATUS_GET (R287): Returns Anvil status, unit map, counters and clip bits, and optionally clears them. -/
  | anvilStatusGet (r : Req) (p : List Tlv)
  /-- MU_QUARANTINE (R283): Declares the named arithmetic unit failed with cause 4. -/
  | muQuarantine (r : Req) (p : List Tlv)
  /-- MU_RELEASE (R285): Returns a tested quarantined arithmetic unit. -/
  | muRelease (r : Req) (p : List Tlv)
  /-- TDM_GROUP_SET (R318): Writes the configuration and RATE_TOL of a clock group. -/
  | tdmGroupSet (r : Req) (p : List Tlv)
  /-- TDM_PORT_SET (R318): Writes the format and zero-crossing fields of a port. -/
  | tdmPortSet (r : Req) (p : List Tlv)
  /-- TDM_MASK_SET (R309): Writes the mask shadows and replies once the applied frame opens. -/
  | tdmMaskSet (r : Req) (p : List Tlv) (late : Bool)
  /-- TDM_START (R307): Sets PORT_EN for each port named, each port one part. -/
  | tdmStart (r : Req) (p : List Tlv)
  /-- TDM_STOP (R307): Clears PORT_EN for each port named and replies when each is DISABLED. -/
  | tdmStop (r : Req) (p : List Tlv)
  /-- TDM_STATUS_GET (R318): Returns group and port status, masks and counters. -/
  | tdmStatusGet (r : Req) (p : List Tlv)
  /-- AMP_FREQ_SET (R332): Writes the frequency-selection fields and optionally runs the selection. -/
  | ampFreqSet (r : Req) (p : List Tlv)
  /-- AMP_CH_SET (R346): Writes the named fields of an amplifier channel. -/
  | ampChSet (r : Req) (p : List Tlv)
  /-- AMP_COEF_SET (R329): Writes the shadow coefficient bank and optionally swaps it in. -/
  | ampCoefSet (r : Req) (p : List Tlv)
  /-- AMP_START (R333): Sets EN for each channel named and replies when each is RUN or has failed. -/
  | ampStart (r : Req) (p : List Tlv)
  /-- AMP_STOP (R333): Clears EN for each channel named and replies when each is OFF. -/
  | ampStop (r : Req) (p : List Tlv)
  /-- AMP_MUTE (R335): Writes MUTE for the channels named. -/
  | ampMute (r : Req) (p : List Tlv)
  /-- AMP_UNLOCK (R337): Unlocks each channel named from LOCKOUT. -/
  | ampUnlock (r : Req) (p : List Tlv)
  /-- AMP_QUENCH_SET (R339): Writes the thresholds and gain floor of a temperature sensor. -/
  | ampQuenchSet (r : Req) (p : List Tlv)
  /-- AMP_STATUS_GET (R346): Returns the amplifier status, the sensors and the channel counters from one snapshot. -/
  | ampStatusGet (r : Req) (p : List Tlv)
  /-- CLUSTER_STATUS_GET (R459): Returns the orbit status, the moon table and the link status. -/
  | clusterStatusGet (r : Req) (p : List Tlv)
  /-- MOON_SET (R436): Writes an entry of the moon table. -/
  | moonSet (r : Req) (p : List Tlv)
  /-- MOON_START (R438): Sends START to the moons named, spaced by START_GAP. -/
  | moonStart (r : Req) (p : List Tlv)
  /-- ORB_LINK_SET (R459): Writes EN, FWD and ASYM of an orbit link. -/
  | orbLinkSet (r : Req) (p : List Tlv)
  /-- PAIR_SET (R442): Writes PAIR_EN and the pair MAC of each port. -/
  | pairSet (r : Req) (p : List Tlv)
  /-- PAIR_RESIGN (R449): Makes the active unit resign to the synced standby, replying once the peer has promoted. -/
  | pairResign (r : Req) (p : List Tlv)
  /-- PAIR_FORCE_ACTIVE (R446): Forces a unit in INIT or SILENT into SOLO. -/
  | pairForceActive (r : Req) (p : List Tlv)
  /-- PAIR_STATUS_GET (R459): Returns the pair status, the lease, the pulse age, the resync phase and the counters. -/
  | pairStatusGet (r : Req) (p : List Tlv)
  /-- PAIR_RESYNC (R456): Restarts a resync at phase 1, on the standby or by request to the peer. -/
  | pairResync (r : Req) (p : List Tlv)
  /-- TEST_STATUS_GET (R484): Returns the Temper status, slice result, progress and counters. -/
  | testStatusGet (r : Req) (p : List Tlv)
  /-- TEST_SCHED_SET (R474): Writes SETS_EN and GAP of the schedule. -/
  | testSchedSet (r : Req) (p : List Tlv)
  /-- TEST_RUN (R478): Starts a commanded test run on a target and replies when it ends. -/
  | testRun (r : Req) (p : List Tlv)
  /-- TEST_STOP (R481): Ends the commanded run with outcome STOPPED. -/
  | testStop (r : Req) (p : List Tlv)
  /-- TEST_RESULT_GET (R484): Returns a unit's test record and its last slice result. -/
  | testResultGet (r : Req) (p : List Tlv)
  /-- LIFE_STATUS_GET (R516): Returns the Ephemeris status, the calendar, the identity, the counters, the wear and the margins. -/
  | lifeStatusGet (r : Req) (p : List Tlv)
  /-- FAULT_LOG_GET (R516): Returns fault-history ring entries or the unit quarantine records. -/
  | faultLogGet (r : Req) (p : List Tlv)
  /-- MARGIN_TREND_GET (R516): Returns stored margin samples. -/
  | marginTrendGet (r : Req) (p : List Tlv)
  /-- CAL_SET (R494): Loads the calendar seconds and sets CAL_VALID. -/
  | calSet (r : Req) (p : List Tlv)
  /-- LC_NONCE_GET (R504): Issues a new 16-byte token nonce. -/
  | lcNonceGet (r : Req) (p : List Tlv)
  /-- LC_TRANSITION (R501): Makes a life-cycle transition, checking its token where one is needed. -/
  | lcTransition (r : Req) (p : List Tlv)
  /-- OWNERSHIP_TAKE (R501): Installs the owner key, generates the unit key pair and moves to OWNED. -/
  | ownershipTake (r : Req) (p : List Tlv)
  /-- UNIT_CERT_SET (R516): Installs the unit certificate once its owner signature verifies. -/
  | unitCertSet (r : Req) (p : List Tlv)
  /-- KEY_SET (R505): Writes a session key slot and closes the sessions opened under it. -/
  | keySet (r : Req) (p : List Tlv)
  /-- IDENTITY_SET (R506): Replaces the unit identity from the next warm reset. -/
  | identitySet (r : Req) (p : List Tlv)
  /-- CONFIG_STORE (R508): Writes the configuration in force as a signed image and makes its slot current. -/
  | configStore (r : Req) (p : List Tlv)
  /-- CONFIG_EXPORT (R516): Returns bytes of a stored image. -/
  | configExport (r : Req) (p : List Tlv)
  /-- CONFIG_IMPORT (R509): Receives an image chunk and checks the whole image at the final chunk. -/
  | configImport (r : Req) (p : List Tlv)
  /-- CONFIG_APPLY (R510): Makes a slot current, optionally adopts its identity, and then warm-resets the unit. -/
  | configApply (r : Req) (p : List Tlv)
  /-- FW_WRITE (R514): Writes a firmware chunk into the slot not running and verifies the image at the end. -/
  | fwWrite (r : Req) (p : List Tlv) (signed : Bool)
  /-- FW_ACTIVATE (R514): Marks the written slot preferred and on trial. -/
  | fwActivate (r : Req) (p : List Tlv)
  /-- FW_CONFIRM (R514): Ends the trial and raises the fused security count. -/
  | fwConfirm (r : Req) (p : List Tlv)
  /-- NODE_SET (R387): Writes the hostname, the labels, the service ports, the NMOS mode and the registry. -/
  | nodeSet (r : Req) (p : List Tlv)
  /-- SDP_GET (R381): Generates the SDP description of a stream. -/
  | sdpGet (r : Req) (p : List Tlv)
  /-- SDP_APPLY (R382): Parses an SDP description into a receive entry and optionally enables it. -/
  | sdpApply (r : Req) (p : List Tlv)
  /-- SAP_SET (R383): Sets the SAP announcement and listening of transmit streams. -/
  | sapSet (r : Req) (p : List Tlv)
  /-- SAP_LIST_GET (R387): Returns heard SAP entries. -/
  | sapListGet (r : Req) (p : List Tlv)
  /-- SAP_SDP_GET (R387): Returns the SDP text of a heard announcement. -/
  | sapSdpGet (r : Req) (p : List Tlv)
  /-- BROWSE_GET (R384): Browses for a DNS-SD service type for 1 s and returns the instances found. -/
  | browseGet (r : Req) (p : List Tlv)
  /-- NMOS_STATUS_GET (R387): Returns the NMOS mode and the registration state. -/
  | nmosStatusGet (r : Req) (p : List Tlv)
  /-- NMOS_EXPOSE_SET (R387): Writes the NMOS exposure and label of a stream. -/
  | nmosExposeSet (r : Req) (p : List Tlv)
  /-- N5_ROUTE (R390): NC512 route command, carried out as ROUTE_SET. -/
  | n5Route (r : Req) (p : List Byte)
  /-- N5_GAIN (R390): NC512 gain command, carried out as GAIN_SET. -/
  | n5Gain (r : Req) (p : List Byte)
  /-- N5_UNROUTE (R390): NC512 unroute command, carried out as ROUTE_CLEAR. -/
  | n5Unroute (r : Req) (p : List Byte)
  /-- N5_MIX_SET (R390): NC512 mix command, carried out as BUS_SET. -/
  | n5MixSet (r : Req) (p : List Byte)
  /-- N5_STREAM_RX (R390): NC512 receive stream command, carried out as STREAM_RX_SET then STREAM_ENABLE. -/
  | n5StreamRx (r : Req) (p : List Byte)
  /-- N5_STREAM_TX (R390): NC512 transmit stream command, carried out as STREAM_TX_SET then STREAM_ENABLE. -/
  | n5StreamTx (r : Req) (p : List Byte)
  /-- N5_TDM_PORT (R390): NC512 TDM port command, carried out as TDM_PORT_SET then start or stop. -/
  | n5TdmPort (r : Req) (p : List Byte)
  /-- N5_CLOCK_REF (R390): NC512 clock reference command, carried out as DPLL_SET of the ranks of DPLL0. -/
  | n5ClockRef (r : Req) (p : List Byte)
  /-- N5_STATUS (R390): Returns status in the NC512 layout. -/
  | n5Status (r : Req) (p : List Byte)
  /-- N5_MEMTEST (R484): Runs a MARCH_CM test run on each bank named in the mask. -/
  | n5Memtest (r : Req) (p : List Byte)
  /-- REGISTER_WRITE (R18): A host write to a field without behaviour of its own, applied under its type and update class or refused. -/
  | registerWrite (source off : Nat) (v : Word)
  /-- SPLIT_LO_READ (R19): A read of a LO register snapshots the quantity and latches its HI half. -/
  | splitLoRead (off : Nat)
  /-- TIME_NOW_READ (R67): A read of TIME.NOW_FRAC snapshots the counter and latches NOW_NS and NOW_SEC. -/
  | timeNowRead
  /-- CAL_SUB_READ (R492): A read of CAL_SUB snapshots the calendar and latches its seconds. -/
  | calSubRead
  /-- PEAK_OCC_READ (R237): A read of PEAK_OCC returns the peak and restarts it from the present OCC. -/
  | peakOccRead (q : Nat)
  /-- PEAK_TAGS_READ (R421): A read of PEAK_TAGS returns the peak and restarts it from the tags in use. -/
  | peakTagsRead
  /-- TIME_SET_APPLY (R82): A write of SET_CTRL.APPLY loads the counter now, subject to MEDIA_VALID and FORCE. -/
  | timeSetApply (source : Nat) (v : Word)
  /-- TIME_SET_APPLY_PPS (R82): A write of SET_CTRL.APPLY_PPS arms a load at the next 1PPS edge. -/
  | timeSetApplyPps (source : Nat) (v : Word)
  /-- TIME_SET_CANCEL (R82): A write of SET_CTRL.CANCEL drops a pending 1PPS load. -/
  | timeSetCancel (source : Nat) (v : Word)
  /-- TIME_VALIDATE (R74): A write of SET_CTRL.VALIDATE sets MEDIA_VALID. -/
  | timeValidate (source : Nat) (v : Word)
  /-- PC_RESUME_WRITE (R79): A write of PC_CFG.RESUME resumes the servo from PATH_SETTLE. -/
  | pcResumeWrite (source : Nat) (v : Word)
  /-- DPLL_MODE_WRITE (R101): A write of MODE or MAN_REF of a DPLL starts a selection evaluation that applies it. -/
  | dpllModeWrite (source d : Nat) (v : Word)
  /-- DPLL_ENABLE_WRITE (R103): A write of ENABLE of DPLL1–DPLL3 starts or stops that DPLL and its output. -/
  | dpllEnableWrite (source d : Nat) (v : Word)
  /-- REF_ENABLE_WRITE (R95): A write of a reference's ENABLE starts its monitors or disables it. -/
  | refEnableWrite (source n : Nat) (v : Word)
  /-- SUSPECT_CLEAR_WRITE (R97): A write of 1 to REFn_STATUS.SUSPECT clears the suspicion. -/
  | suspectClearWrite (source n : Nat)
  /-- OUT_ALIGN_WRITE (R116): A write of OUT_ALIGN arms the re-alignment of the outputs named. -/
  | outAlignWrite (source : Nat) (v : Word)
  /-- WCLK_OUT_ENABLE (R114): Setting EN of a word-clock output starts it at the next aligned boundary. -/
  | wclkOutEnable (source n : Nat) (v : Word)
  /-- PPS_OUT_ENABLE (R115): Setting EN of PPS_OUT starts it on the counter's next second. -/
  | ppsOutEnable (source : Nat) (v : Word)
  /-- PORT_ENABLE_WRITE (R127): A write of PORT_EN starts the PCS of a port or disables it and flushes its buffers. -/
  | portEnableWrite (source p : Nat) (v : Word)
  /-- STAT_SNAP_WRITE (R146): A write of STAT_SNAP copies all 42 counters of a port on one cycle. -/
  | statSnapWrite (source p : Nat) (v : Word)
  /-- STREAM_TBL_READ (R197): TBL_CTRL.OP = 1 copies a stream entry or counter set into TBL_DATA. -/
  | streamTblRead (source table idx : Nat)
  /-- STREAM_TBL_WRITE (R197): TBL_CTRL.OP = 2 copies TBL_DATA into a stream entry, with checks when ENABLE is set. -/
  | streamTblWrite (source table idx : Nat)
  /-- STREAM_TBL_CLEAR (R197): TBL_CTRL.OP = 3 clears a stream's counter set. -/
  | streamTblClear (source table idx : Nat)
  /-- QUEUE_EN_WRITE (R227): A write of a queue's EN enables it or discards its contents. -/
  | queueEnWrite (source q : Nat) (v : Word)
  /-- BELLOWS_EN_WRITE (R230): A write of EN of a Bellows unit binds or releases its queue. -/
  | bellowsEnWrite (source b : Nat) (v : Word)
  /-- FABRIC_TBL_READ (R291): ANVIL TBL_CTRL.OP = 1 reads an entry in force into TBL_DATA. -/
  | fabricTblRead (source table idx : Nat)
  /-- FABRIC_TBL_ADD (R277): ANVIL TBL_CTRL.OP = 2 adds TBL_DATA to the HOST list as one entry. -/
  | fabricTblAdd (source table idx : Nat)
  /-- BATCH_COMMIT (R277): BATCH_CTRL.COMMIT commits the HOST list to Anvil. -/
  | batchCommit (source : Nat)
  /-- BATCH_DISCARD (R277): BATCH_CTRL.DISCARD empties the HOST list. -/
  | batchDiscard (source : Nat)
  /-- TDM_PORT_EN_WRITE (R307): A write of a TDM port's PORT_EN starts or stops the port. -/
  | tdmPortEnWrite (source p : Nat) (v : Word)
  /-- TDM_MASK_WRITE (R309): A write of RX_MASK, TX_MASK or TX_MUTE fills the shadow and fixes its applied frame. -/
  | tdmMaskWrite (source p idx : Nat) (v : Word) (late : Bool)
  /-- AMP_EN_WRITE (R333): A write of a channel's EN starts or stops the channel. -/
  | ampEnWrite (source n : Nat) (v : Word)
  /-- AMP_MUTE_WRITE (R335): A write of MUTE starts a zero-crossing wait for the mute gate. -/
  | ampMuteWrite (source n : Nat) (v : Word)
  /-- AMP_UNLOCK_WRITE (R337): A write of UNLOCK leaves LOCKOUT. -/
  | ampUnlockWrite (source n : Nat) (v : Word)
  /-- FREQ_SEL_RUN (R332): A write of FREQ_SEL.RUN starts the selection of the switching period. -/
  | freqSelRun (source : Nat) (v : Word)
  /-- COEF_SWAP_WRITE (R329): A write of COEF_CTRL.SWAP arms the copy of the shadow bank. -/
  | coefSwapWrite (source n : Nat) (v : Word)
  /-- ORB_LINK_EN_WRITE (R425): A write of an orbit link's EN starts it or stops it. -/
  | orbLinkEnWrite (source n : Nat) (v : Word)
  /-- FWD_WRITE (R429): A write of FWDq sets the forwarding of an inbound group, or flags FWD_ERR. -/
  | fwdWrite (source n : Nat) (v : Word)
  /-- PAIR_EN_WRITE (R446): Applying PAIR_EN = 1 moves the unit from ALONE to INIT and starts pulses. -/
  | pairEnWrite (source : Nat) (v : Word)
  /-- PAIR_FORCE_ACTIVE_WRITE (R446): A write of PAIR.CTRL.FORCE_ACTIVE forces SOLO. -/
  | pairForceActiveWrite (source : Nat)
  /-- PAIR_RESIGN_WRITE (R449): A write of PAIR.CTRL.RESIGN resigns the active role. -/
  | pairResignWrite (source : Nat)
  /-- WARM_RESET_WRITE (R531): A write of WARM_RESET with the key starts a warm reset. -/
  | warmResetWrite (source : Nat) (v : Word)
  /-- RING_EN_WRITE (R402): A write of a ring's EN resets its indices and runs it, or disables it. -/
  | ringEnWrite (source idx : Nat) (v : Word)
  /-- RING_INDEX_WRITE (R402): A host index write acts as a doorbell, or puts the ring in ERROR if invalid. -/
  | ringIndexWrite (source idx : Nat) (v : Word)
  /-- SET_EN_WRITE (R412): A write of EN of a record or playback set starts or stops it, subject to overlap and buffer limits. -/
  | setEnWrite (source dir k : Nat) (v : Word)
  /-- REC_RD_IDX_WRITE (R414): The host frees record blocks by advancing RD_IDX. -/
  | recRdIdxWrite (source k : Nat) (v : Word)
  /-- PLAY_WR_IDX_WRITE (R415): The host offers playback blocks by advancing WR_IDX. -/
  | playWrIdxWrite (source k : Nat) (v : Word)
  /-- EVT_ROUTE_WRITE (R411): A write of EVT_ROUTE sends events to EVR or to the CSP, between two records. -/
  | evtRouteWrite (source : Nat) (v : Word)
  /-- CSP_WRITE (R397): A CSP WRITE transaction writes BAR0 words. -/
  | cspWrite (off : Nat) (ws : List Word)
  /-- CSP_READ (R397): A CSP READ transaction returns BAR0 words after 0xA5. -/
  | cspRead (off n : Nat)
  /-- CSP_MBOX_WRITE (R398): A CSP MBOX_WRITE places a request in the input mailbox, or is refused. -/
  | cspMboxWrite (len : Nat) (b : List Byte)
  /-- CSP_MBOX_READ (R398): A CSP MBOX_READ sends the waiting reply, removing it once fully clocked out. -/
  | cspMboxRead (n : Nat)
  /-- CSP_EVT_READ (R398): A CSP EVT_READ pops up to 64 event records. -/
  | cspEvtRead (n bytes : Nat)
  /-- SYNC_RX (R64): A Sync from the parent is stamped and, with a valid delay pair, yields an exchange. -/
  | syncRx (p : Nat) (m : PtpMsg) (raw : Int)
  /-- FOLLOW_UP_RX (R64): A Follow_Up is matched to its Sync and completes the exchange. -/
  | followUpRx (p : Nat) (m : PtpMsg)
  /-- FOLLOW_UP_TIMEOUT (R64): A Sync whose Follow_Up has not come within one Sync interval is discarded. -/
  | followUpTimeout (p seq : Nat)
  /-- DELAY_REQ_TX (R64): The port's own Delay_Req departs and its stamp is kept as t3. -/
  | delayReqTx (p : Nat) (raw : Int)
  /-- DELAY_RESP_RX (R64): A Delay_Resp is matched to its Delay_Req and forms a delay pair. -/
  | delayRespRx (p : Nat) (m : PtpMsg) (mine : Bool)
  /-- DELAY_PAIR_EXPIRY (R65): A delay pair loses its validity four Delay_Req intervals after its t4. -/
  | delayPairExpiry (p : Nat)
  /-- DELAY_REQ_RX (R57): A Delay_Req reaching a MASTER port is answered, or dropped above the rate limit. -/
  | delayReqRx (p domain seq src : Nat) (corr raw : Int)
  /-- ANNOUNCE_RX (R55): An Announce is received and the best-master algorithm runs. -/
  | announceRx (p : Nat) (a : Announce)
  /-- ANNOUNCE_RECEIPT_TIMEOUT (R55): No Announce within announceReceiptTimeout changes the port state. -/
  | announceReceiptTimeout (p : Nat)
  /-- ANNOUNCE_TX (R56): A MASTER port sends an Announce with its clockClass. -/
  | announceTx (p : Nat)
  /-- SYNC_TX (R60): A MASTER port sends a Sync, one-step or two-step. -/
  | syncTx (p : Nat) (raw : Int)
  /-- FOLLOW_UP_TX (R62): The Follow_Up of a two-step Sync is sent with the captured departure time. -/
  | followUpTx (p : Nat)
  /-- EXCHANGE_LOSS (R75): No valid exchange on the active port for four Sync intervals switches port or enters HOLD. -/
  | exchangeLoss (p : Nat)
  /-- PATH_SETTLE_TIMEOUT (R75): PC_CFG.TIMEOUT expires in PATH_SETTLE and the servo enters ACQUIRE. -/
  | pathSettleTimeout
  /-- PPS_EDGE_LOAD (R82): A 1PPS edge performs the armed time load. -/
  | ppsEdgeLoad (n : Nat)
  /-- APPLY_PPS_TIMEOUT (R82): No 1PPS edge within 2 s of arming drops the load. -/
  | applyPpsTimeout
  /-- XO_LOSS (R89): No XO_IN edge for 1 µs stops the derived clocks and disqualifies references. -/
  | xoLoss
  /-- XO_RESTORE (R89): XO_IN has run 1 ms without a gap and every DPLL and reference restarts. -/
  | xoRestore
  /-- REF_ACTIVITY_LOSS (R93): A reference misses 3 nominal periods, loses PCS lock or stops being active. -/
  | refActivityLoss (n : Nat)
  /-- REF_ACTIVITY_GAIN (R93): A reference has had edges for 3 nominal periods and starts qualifying. -/
  | refActivityGain (n : Nat)
  /-- FREQ_GATE_CLOSE (R94): A frequency measurement gate closes and the qualification and persistence timers are evaluated. -/
  | freqGateClose (n : Nat) (ofs : Int)
  /-- DRIFT_WINDOW_CLOSE (R97): A 1,000 s drift window closes and the drift rate is checked against DRIFT_LIM. -/
  | driftWindowClose (n : Nat)
  /-- WTR_EXPIRY (R101): A wait-to-restore timer expires. -/
  | wtrExpiry (d r : Nat)
  /-- SELECTION_EVALUATION (R101): A DPLL evaluates its reference selection and moves its state machine. -/
  | selectionEvaluation (d : Nat)
  /-- DPLL_COMPARE (R104): A DPLL compares phase, updates its loop, steps its bandwidth or detects unlock. -/
  | dpllCompare (d : Nat) (err : Int)
  /-- HOLDOVER_SECOND (R110): A second passes: holdover learning and HO_AGE advance, and HO_IN_SPEC may fall. -/
  | holdoverSecond (d : Nat)
  /-- OUTPUT_REALIGN (R116): An output with ALIGN_PEND re-aligns at its next aligned instant. -/
  | outputRealign (n : Nat)
  /-- LINK_UP (R127): Lock and auto-negotiation have held for 10 ms and the port is UP. -/
  | linkUp (p speed : Nat)
  /-- LINK_LOSS (R127): Block lock or sync is lost, or the partner restarts auto-negotiation, and the port goes DOWN. -/
  | linkLoss (p cause : Nat) (part : Bool)
  /-- FRAME_RECEIVE (R129): A frame reaches its end on the wire, is admitted or not, and gets its reception status. -/
  | frameReceive (p : Nat) (f : WireFrame)
  /-- FRAME_DISPATCH (R130): A frame leaves the receive buffer through the classifier, the filter and the dispatch table. -/
  | frameDispatch (p : Nat)
  /-- PAUSE_REPEAT (R142): Half the pause time has passed with RX_FILL above XON and the PAUSE frame is repeated. -/
  | pauseRepeat (p : Nat)
  /-- PAUSE_TIMER_EXPIRY (R141): The pause timer reaches zero and the paused classes resume. -/
  | pauseTimerExpiry (p : Nat)
  /-- PAUSE_ALARM (R141): TX_PAUSED has lasted PAUSE_ALARM µs and INT.PAUSE_LONG is set. -/
  | pauseAlarm (p : Nat)
  /-- TX_FRAME_BOUNDARY (R137): A frame ends on the wire and the MAC starts the next permitted frame. -/
  | txFrameBoundary (p : Nat) (raw : Int)
  /-- DORMANT_WAKE (R536): A match, a link wake or WRST_N in dormant mode starts the warm start. -/
  | dormantWake (why : Nat) (f : WireFrame)
  /-- PLACE_COMMIT (R171): A receive packet finishes PLACE and its frames are written, or it is discarded. -/
  | placeCommit (h : Nat) (damaged : Bool) (rows : List (Nat × Option Nat)) (ce : List Nat)
  /-- PRESENT_FETCH (R174): At a period boundary PRESENT fetches each stream's frames and marks holes. -/
  | presentFetch (ue : List (Nat × Nat × Nat)) (damaged : List (Nat × Nat)) (ce : List Nat)
  /-- LEG_TIMEOUT (R173): A leg has had no packet accepted within LEG_TIMEOUT and goes down. -/
  | legTimeout (idx l : Nat)
  /-- RING_PAGES_FREE (R206): A disabled stream's ring pages return to the pool. -/
  | ringPagesFree (idx : Nat)
  /-- TX_STREAM_START (R181): A transmit stream's ENABLE takes effect at a packet boundary. -/
  | txStreamStart (idx : Nat)
  /-- SCHEDULE_GATHER (R177): The staged samples of a packet are ready and GATHER starts in its Hammer. -/
  | scheduleGather (idx : Nat) (ue damaged : List (Nat × Nat)) (ce : List Nat)
  /-- TX_PACKET_FRAME (R159): PACK completes and FRAME places the frame in the STREAM partition. -/
  | txPacketFrame (h : Nat)
  /-- LAUNCH_STAMP (R178): STAMP releases a stream frame at its launch instant. -/
  | launchStamp (p : Nat) (raw : Int) (damaged : Bool)
  /-- LAUNCH_STALE (R178): A frame not started within SPP ÷ r of its L is discarded as stale. -/
  | launchStale (p : Nat)
  /-- HAMMER_WATCHDOG (R185): A packet has been in a Hammer for 10 µs and the Hammer is declared failed. -/
  | hammerWatchdog (h : Nat)
  /-- HAMMER_FAIL (R186): A Hammer fails and the spare takes its lane or its legs are re-homed. -/
  | hammerFail (h cause : Nat)
  /-- LANE_HANDOVER (R184): Temper moves a logical lane to the spare Hammer. -/
  | laneHandover (j : Nat)
  /-- HAMMER_DRAIN_DONE (R184): A draining Hammer finishes its last packet and becomes SPARE. -/
  | hammerDrainDone (h : Nat)
  /-- SCRUB_READ (R205): The patrol scrub reads one line of each working bank. -/
  | scrubRead (ce ue : List Nat)
  /-- BANK_WATCHDOG (R217): A bank has not answered a request within 1 µs. -/
  | bankWatchdog (h : Nat)
  /-- BANK_FAILURE (R218): A bank fails and the spare takes its logical bank, or it becomes absent. -/
  | bankFailure (h cause : Nat)
  /-- BANK_HANDOVER (R216): Temper starts moving a logical bank to the spare by copying. -/
  | bankHandover (h : Nat)
  /-- BANK_HANDOVER_DONE (R216): The last line is copied and the bank map switches to the new bank. -/
  | bankHandoverDone (ue : List Nat) (ce : Nat)
  /-- QUEUE_PUSH (R223): A producer pushes an item, which is accepted or dropped. -/
  | queuePush (q : Nat) (it : QItem)
  /-- BELLOWS_PIN_HOLD (R231): The 8-cycle hold of a Bellows pin ends and the pin follows LIVE. -/
  | bellowsPinHold (b : Nat)
  /-- QUEUE_POP (R223): The consumer pops the entry at RD. -/
  | queuePop (q : Nat)
  /-- QUEUE_POP_REL (R223): The consumer pops and releases, unless a mark is held. -/
  | queuePopRel (q : Nat)
  /-- QUEUE_MARK (R223): The consumer sets the mark at RD. -/
  | queueMark (q : Nat)
  /-- QUEUE_REWIND (R223): The consumer returns RD to the mark. -/
  | queueRewind (q : Nat)
  /-- QUEUE_RELEASE (R223): The consumer releases every popped entry and drops the mark. -/
  | queueRelease (q : Nat)
  /-- SPILL_REFILL (R228): A spilled group of entries is refilled and checked, or discarded as lost. -/
  | spillRefill (q : Nat) (ue : Bool) (ce : List Nat)
  /-- ANVIL_PASS (R254): Anvil runs the pass of a base period: LOAD, BUS, ROUTE and WRITE. -/
  | anvilPass (f : PassFacts)
  /-- BATCH_APPLY (R275): Commits due are applied to the tables between two passes. -/
  | batchApply
  /-- DIRECT_FAST_PATH (R370): The hardware fast path checks a direct opcode and replies with its pass. -/
  | directFastPath (opcode : Nat) (r : Req) (p : List Tlv)
  /-- MU_FAILURE (R284): An arithmetic unit fails and the spare takes over or W drops. -/
  | muFailure (u cause : Nat)
  /-- MU_HANDOVER (R282): Temper moves a logical unit to the spare between passes. -/
  | muHandover (j : Nat)
  /-- TDM_FRAME_OPEN (R307): A TDM frame opens and the port's state, gates and masks advance. -/
  | tdmFrameOpen (p : Nat) (raw : List Nat) (badIn badOut : Bool) (rows : List Nat)
  /-- TDM_ZC_TIMEOUT (R306): A gate change reaches ZC_TIMEOUT frames and takes effect. -/
  | tdmZcTimeout (p : Nat)
  /-- FOLLOWER_FRAME (R300): A follower group's lead frame is checked as valid or invalid. -/
  | followerFrame (g bits : Nat)
  /-- FOLLOWER_CLOCK_LOSS (R300): A follower group loses BCLK or FSYNC and its ports halt. -/
  | followerClockLoss (g cause : Nat)
  /-- FS_MEAS_GATE (R300): A 100 ms gate yields FS_MEAS and its tolerance check. -/
  | fsMeasGate (g meas : Nat)
  /-- ASRC_LOCK (R305): The ratio estimate has been stable for 50 ms and the converter is LOCKED. -/
  | asrcLock (g ratio : Nat)
  /-- ASRC_UNLOCK (R305): The group clock is lost or the ratio steps and the converter unlocks. -/
  | asrcUnlock (g : Nat)
  /-- AMP_LOOP_UPDATE (R328): A channel updates its loop at a carrier valley or peak. -/
  | ampLoopUpdate (n : Nat) (valley : Bool) (v idx : Int) (damaged : Bool)
  /-- CURRENT_LIMIT (R336): The shunt current crosses ILIM and the high sides turn off for the half-cycle. -/
  | currentLimit (n : Nat) (shunt : Int) (pos : Nat)
  /-- AMP_FAULT_PIN (R338): FLT_N is qualified active and the channel acts on FLT_ACTION. -/
  | ampFaultPin (n : Nat)
  /-- AMP_FAULT_PIN_RELEASE (R338): FLT_N returns inactive, starting the RETRY_MS wait under FLT_ACTION 2. -/
  | ampFaultPinRelease (n : Nat)
  /-- AMP_RETRY_DUE (R337): RETRY_MS expires and the channel restarts, or the retry fails. -/
  | ampRetryDue (n : Nat)
  /-- AMP_RETRY_CLEAR (R337): A retry has run CLEAR_MS without a short and RETRY_CNT returns to 0. -/
  | ampRetryClear (n : Nat)
  /-- NTC_CONVERSION (R339): A sensor conversion updates H, Quench and the thermal state. -/
  | ntcConversion (idx ratio : Nat)
  /-- DC_FAULT (R341): The filtered output has stayed above DC_THR for DC_TIME and the channel locks out. -/
  | dcFault (n : Nat) (value : Int)
  /-- AMP_CALIBRATION_DONE (R334): After 1 ms of calibration the offsets are checked and the boot phase starts. -/
  | ampCalibrationDone (n : Nat)
  /-- AMP_BOOT_DONE (R334): BOOT_CYC cycles end and both legs start switching at half duty. -/
  | ampBootDone (n : Nat)
  /-- AMP_RAMP_DONE (R334): The start ramp completes and the channel enters RUN. -/
  | ampRampDone (n : Nat)
  /-- AMP_STOP_DONE (R333): The mute ramp and 1 ms at zero end and the channel goes OFF. -/
  | ampStopDone (n : Nat)
  /-- AMP_ZC_TIMEOUT (R335): No zero crossing within ZC_TIMEOUT passes and the mute change starts. -/
  | ampZcTimeout (n : Nat)
  /-- PWM_CLOCK_RESUME (R333): The PWM clock has run for 1 ms and halted channels restart. -/
  | pwmClockResume
  /-- FREQ_SELECT_DONE (R332): The switching-frequency selection completes and writes SEL_P. -/
  | freqSelectDone
  /-- COEF_SWAP_APPLY (R329): The shadow coefficients are copied in at the next PWM cycle boundary. -/
  | coefSwapApply (n : Nat)
  /-- REQUEST_ARRIVE (R360): A transport pushes a request into CMD_IN. -/
  | requestArrive (ch : Nat) (b : List Byte)
  /-- REQUEST_START (R365): The engine takes a request from CMD_IN with a tag and checks it. -/
  | requestStart
  /-- REQUEST_COMPLETE (R366): A request completes and its reply enters CMD_OUT. -/
  | requestComplete (ch tag : Nat)
  /-- REQUEST_TIMEOUT (R369): A request's waits exceed WAIT_MS and it completes with TIMEOUT. -/
  | requestTimeout (ch tag : Nat)
  /-- UDP_DATAGRAM_RX (R361): A Suosh UDP datagram is authenticated and carried, or discarded. -/
  | udpDatagramRx (p : Nat)
  /-- SESSION_OPEN (R362): An OPEN datagram opens a session and ACCEPT is sent. -/
  | sessionOpen (p nd : Nat)
  /-- SESSION_CLOSE_DATAGRAM (R362): A CLOSE datagram closes its session. -/
  | sessionCloseDatagram (p : Nat)
  /-- SESSION_IDLE_TIMEOUT (R362): A session has had no valid datagram for 60 s and closes. -/
  | sessionIdleTimeout (id : Nat)
  /-- ENGINE_FRAME_RX (R378): The engine handles a control frame such as ARP, NDP, IGMP, mDNS or SAP. -/
  | engineFrameRx (p : Nat)
  /-- ARP_PROBE (R378): An address probe is sent, 1 s apart, before use. -/
  | arpProbe (p ip : Nat)
  /-- DHCP_TIMER (R378): A DHCP renewal, fallback or retry falls due. -/
  | dhcpTimer (p kind : Nat)
  /-- SAP_ANNOUNCE (R383): A SAP announcement of a transmit stream falls due. -/
  | sapAnnounce (idx : Nat)
  /-- SAP_ENTRY_EXPIRY (R383): A heard announcement not repeated for 10 intervals is dropped. -/
  | sapEntryExpiry (n : Nat)
  /-- NMOS_HTTP_REQUEST (R385): An NMOS HTTP request is served. -/
  | nmosHttpRequest (p len : Nat) (opens closes : Bool) (res : NmosRes) (conn : HttpConn)
  /-- NMOS_HEARTBEAT (R385): A registry heartbeat falls due, and registration restarts after failures. -/
  | nmosHeartbeat (answer : Nat)
  /-- IS05_ACTIVATION (R386): An IS-05 activation is carried out as one ATOMIC request on channel 48. -/
  | is05Activation (port dir idx : Nat) (p : List Tlv) (file : List Byte) (ports : Nat) (enable : Option Bool) (due : Option Nat) (conn : HttpConn)
  /-- CRQ_FETCH (R404): A command request item is fetched from a CRQ ring and pushed into CMD_IN. -/
  | crqFetch (r : Nat) (descs : List Desc) (data : List Byte)
  /-- TXD_ITEM_FETCH (R405): A transmit item is fetched from a TXD ring into the HOST partition. -/
  | txdItemFetch (p : Nat) (descs : List Desc) (data : List Byte)
  /-- TX_COMPLETION_WRITE (R405): The transmit completion of an item is written. -/
  | txCompletionWrite (p : Nat)
  /-- RX_ITEM_DELIVER (R406): A frame or reply is written into claimed buffers with its completions. -/
  | rxItemDeliver (p : Nat) (bufs : List Nat)
  /-- RX_GAP_ENTRY (R409): A popped gap marker is written as a GAP completion entry. -/
  | rxGapEntry (p : Nat)
  /-- REPLY_DELIVER (R410): The head reply of CMD_OUT is delivered to its channel. -/
  | replyDeliver (bufs : List Nat)
  /-- REPLY_WAIT_EXPIRY (R410): A reply has waited REPLY_WAIT ms and is discarded. -/
  | replyWaitExpiry
  /-- EVENT_TO_EVR (R411): Event records move from the EVENT queue into EVR. -/
  | eventToEvr (n : Nat)
  /-- DMA_READ_ERROR (R395): A DMA read fails and its ring or set enters ERROR. -/
  | dmaReadError (unit cause addr : Nat) (cookie : Option Nat)
  /-- HOST_LOST (R393): The host side is lost and DMA stops. -/
  | hostLost (cause : Nat)
  /-- HOST_RESTORED (R393): The link is up with Bus Master Enable in D0 and HOST_LOST clears. -/
  | hostRestored
  /-- RECORD_BLOCK_WRITE (R414): A finished record block is read back and written to the host ring, or discarded. -/
  | recordBlockWrite (k : Nat) (ue damaged : Bool) (ce : List Nat)
  /-- PLAYBACK_BLOCK_FETCH (R415): A playback block is read from the host, checked and stored. -/
  | playbackBlockFetch (k : Nat) (bytes : List Byte)
  /-- MSIX_MODERATION_END (R416): A vector's moderation interval ends and a pending message is sent. -/
  | msixModerationEnd (v : Nat)
  /-- PCIE_PERST (R550): PCIE_PERST_N takes the link down and resets the configuration space. -/
  | pciePerst
  /-- ORB_BLOCK_LOCK (R425): An orbit link gains block lock and starts sending HELLO. -/
  | orbBlockLock (n : Nat)
  /-- ORB_LINK_UP (R425): Lock has held 1 ms with a valid HELLO and the link is UP. -/
  | orbLinkUp (n eui role index hops : Nat)
  /-- ORB_LINK_LOSS (R425): Block lock is lost or no frame comes for 20 µs and the link goes DOWN. -/
  | orbLinkLoss (n cause : Nat)
  /-- ORB_IDLE_FRAME (R425): A link with nothing to send sends HELLO or CONTROL every 5 µs. -/
  | orbIdleFrame (n : Nat)
  /-- ORB_SAMPLE_RX (R431): A SAMPLE frame is checked and written to its slot or forwarded. -/
  | orbSampleRx (n q tag : Nat) (vals : List Int) (sealw : Nat)
  /-- ORB_TIME_TX (R433): An UP link sends a TIME frame every 125 µs. -/
  | orbTimeTx (n : Nat) (raw : Int)
  /-- ORB_TIME_RX (R433): A TIME frame gives the link delay and offset for time transfer. -/
  | orbTimeRx (n : Nat) (t1 t2 : Int) (t4 : Option Int) (drives : Bool) (moon : Nat)
  /-- ORB_COMMAND_RX (R439): A COMMAND frame is carried out, forwarded or returned as a reply. -/
  | orbCommandRx (n id d via kind : Nat) (b : List Byte)
  /-- ORB_EVENT_RX (R441): A moon's event records enter the primary's EVENT queue. -/
  | orbEventRx (n d : Nat) (record : List Byte)
  /-- MOON_ASSIGN_RX (R437): A moon receives ASSIGN and records its index. -/
  | moonAssignRx (n side index hops : Nat)
  /-- MOON_START_RX (R437): A moon receives START and runs its remaining start rows. -/
  | moonStartRx
  /-- MOON_START_SEND (R438): The next START falls due after START_GAP. -/
  | moonStartSend
  /-- MOON_CONFIG_APPLY (R437): A moon completes its start and the primary applies its configuration. -/
  | moonConfigApply (d family : Nat)
  /-- MOON_UPLINK_LOSS (R437): Every uplink of a moon has been down for 1 ms. -/
  | moonUplinkLoss (d : Nat)
  /-- PULSE_SEND (R445): A pair member sends a pulse every 1 µs. -/
  | pulseSend
  /-- PULSE_RX (R446): A pulse from the peer is checked and drives the role state machine. -/
  | pulseRx (b : List Byte)
  /-- PAIR_INIT_TIMEOUT (R446): Side A has heard no valid pulse for 100 ms in INIT and enters SOLO. -/
  | pairInitTimeout
  /-- LEASE_EXPIRY (R447): The active unit's lease expires and it falls SILENT. -/
  | leaseExpiry
  /-- PROMOTION_INSTANT (R448): The standby reaches its promotion instant. -/
  | promotionInstant
  /-- RESYNC_NO_PULSE (R446): No valid pulse for 11 µs in RESYNC abandons the resync. -/
  | resyncNoPulse
  /-- MIRROR_ROW_RX (R453): The standby takes a mirrored source row in place of its own. -/
  | mirrorRowRx (g tag : Nat) (vals : List Int) (sealw : Nat)
  /-- MIRROR_STATE_RX (R454): The standby applies a mirrored change at its boundary. -/
  | mirrorStateRx (b : List Byte)
  /-- DIGEST_RX (R455): The standby compares the driving unit's pass digest with its own. -/
  | digestRx (pass digest : Nat)
  /-- RESYNC_PHASE_DONE (R456): A resync phase completes, and the last one enters STANDBY. -/
  | resyncPhaseDone
  /-- LOCKSTEP_MISMATCH (R446): The Suosh engine's lockstep mismatches; the unit falls silent and warm-resets. -/
  | lockstepMismatch
  /-- TEMPER_TURN (R474): A scheduled turn falls due, GAP after the last, and a slice starts on a set's TEST unit. -/
  | temperTurn
  /-- SLICE_END (R470): A slice completes its count and its outcome is decided. -/
  | sliceEnd (sig expect : Nat) (bad : Bool)
  /-- SLICE_WATCHDOG (R469): A slice not complete after 200 µs ends INCOMPLETE. -/
  | sliceWatchdog
  /-- SLICE_REPEAT (R471): A mismatched slice is repeated with the same seed and index. -/
  | sliceRepeat
  /-- COMMANDED_SLICE_START (R478): The next slice of a commanded run starts 250 µs after the last. -/
  | commandedSliceStart
  /-- AON_MINUTE (R497): A minute passes and the lifetime counters and temperature bands advance. -/
  | aonMinute
  /-- CHECKPOINT_HOURLY (R496): Every 60 power-on minutes the counters are checkpointed to MRAM. -/
  | checkpointHourly
  /-- TJ_SAMPLE (R498): The junction temperature is sampled and thermal cycles are counted. -/
  | tjSample (t : Int)
  /-- MARGIN_MEASURE (R499): Every 1,440 power-on minutes the replica path margins are measured. -/
  | marginMeasure (margins : List Nat)
  /-- CAL_SYNC (R493): At the counter's second boundary the calendar is synchronised and trimmed. -/
  | calSync
  /-- VBAK_LOW (R491): VBAK falls below 2.1 V. -/
  | vbakLow
  /-- SERVICE_EXPIRY (R502): SERVICE_LEFT reaches 0 and the unit returns to FIELD. -/
  | serviceExpiry
  /-- NONCE_EXPIRY (R504): A token nonce expires after 10 minutes. -/
  | nonceExpiry
  /-- FW_TRIAL_TIMEOUT (R514): No FW_CONFIRM within 600 s of ready abandons the slot on trial. -/
  | fwTrialTimeout
  /-- PORST_ASSERT (R521): PORST_N has been low for 1 µs; outputs are released and a power-on reset follows. -/
  | porstAssert
  /-- PORST_RELEASE (R524): PORST_N rises and the start sequence begins at row 1. -/
  | porstRelease (straps : Nat)
  /-- WRST_ASSERT (R521): WRST_N has been low for 1 µs; outputs are released and a warm reset follows. -/
  | wrstAssert
  /-- WRST_RELEASE (R532): WRST_N rises and the warm start begins. -/
  | wrstRelease
  /-- START_ROW_COMPLETE (R524): A row of the start sequence completes and the next row starts. -/
  | startRowComplete
  /-- START_UNIT_TIMEOUT (R526): A unit does not complete its start row in twice its time and is quarantined. -/
  | startUnitTimeout (kind unit : Nat) (check : Bool)
  /-- START_WATCHDOG (R528): A start does not reach ready within 1 s of row 7 and is abandoned. -/
  | startWatchdog
  /-- SYS_RESET_ACT (R538): The reset of SYS_RESET acts once its reply is delivered or 10 ms have passed. -/
  | sysResetAct (straps : Nat)
  /-- BROWNOUT_WARNING (R533): A rail stays below its warning threshold for WARN_FILT and a checkpoint is written. -/
  | brownoutWarning (r : Nat) (busy : Bool)
  /-- BROWNOUT_RECOVER (R533): The rail stays above its warning threshold for 100 µs and the warning clears. -/
  | brownoutRecover (r : Nat) (inRange : Bool)
  /-- BROWNOUT_RESET (R533): A rail crosses its reset threshold and a power-on reset follows. -/
  | brownoutReset (r straps : Nat)
  /-- DORMANT_FORCE_STOP (R535): Ports and channels not yet stopped are forced to DISABLED or OFF. -/
  | dormantForceStop
  /-- DORMANT_POWER_DOWN (R535): The checkpoint is written and the power islands are switched off. -/
  | dormantPowerDown
  /-- PTP_QUALIFICATION_TIMEOUT (R55): The qualification timeout of a port in PRE_MASTER expires and the port enters MASTER under the IEEE 1588-2019 state machine. -/
  | ptpQualificationTimeout (p : Nat)
  /-- PPS_EDGE_REJECT (R93): A 1PPS reference edge more than 1 µs from its expected instant is not used and is counted in REFn_PPS_REJECT. -/
  | ppsEdgeReject (n : Nat) (used : Bool)
  /-- VDD_AON_LOSS (R519): VDD_AON falls below 1.55 V and the AON domain runs from VBAK, or stops if VBAK is absent. -/
  | vddAonLoss (vbak : Bool)
  /-- VDD_AON_RETURN (R519): VDD_AON returns above its threshold and the AON domain leaves VBAK. -/
  | vddAonReturn
  /-- VBAK_RECOVER (R491): VBAK rises back above 2.1 V and STATUS.VBAK_LOW returns to 0. -/
  | vbakRecover
  /-- ORB_CONTROL_FRAME_RX (R425): A CONTROL frame, or a frame of unknown type or failing its check, arrives on an orbit link, restarting the 20 µs no-frame timer or counting FCHK_ERR. -/
  | orbControlFrameRx (n : Nat) (ok : Bool) (hello : Option (Nat × Nat)) (resync : Bool)
  /-- MEMBERSHIP_REPORT (R379): An unsolicited IGMPv3 or MLDv2 membership report falls due, 1 s after the last, under the robustness variable of 2. -/
  | membershipReport (p ip addr : Nat)
  /-- FEC_CODEWORD_UNCORRECTABLE (R148): An RS-FEC codeword is corrected or found uncorrectable, counting in FEC_CORR or FEC_UNCORR and setting INT.FEC_UNCORR. -/
  | fecCodewordUncorrectable (p : Nat) (corrected : Bool)
deriving DecidableEq, Repr

end Sys2Proof
end

