-- ==== Sys2Proof/Config.lean ====
section
/-! DEFINITION. What one part fixes and what the spec leaves open: opaque constants, so that no proof can see a value.
A free value is `Config.free` applied to the state's counter of free values drawn so far. -/

namespace Sys2Proof

/-- The free values: nothing is known of them. The `n`th value drawn in a run is `Config.free n`. -/
opaque Config.free : Nat → Nat

/-- The interpolation of an amplifier channel's destination values to its update rate (R328), which the spec does not give:
from the values of the passes in force, newest first, and the position in the base period (2^−32 ns), a Q7.32 value. -/
opaque Config.ampInterp : List Int → Nat → Int

/-- The frequency error of the CORE clock at a cycle, in ppt from nominal as the local oscillator of Hearth sees it (R88), which the spec does not give. -/
opaque Config.coreErr : Nat → Int

/-- The PCI-SIG vendor identifier of Holtile (R392), which the spec does not give. -/
opaque Config.pciVendor : Nat

/-- The 128-bit identifiers of NMOS resources, generated from the identity EUI-64 (R506) in a way that the spec does not give: of the EUI-64, the kind of
resource (0 node, 1 device, 2 source, 3 flow, 4 sender, 5 receiver) and the stream. -/
opaque Config.nmosId : Nat → Nat → Nat → Nat

end Sys2Proof
end

