-- ==== Sys2Proof/Machine/RegFile.lean ====
section
/-! DEFINITION. The register file: one canonical list of (key, value) pairs for every register field of the window and
every entry of the indirect tables. A field that is not listed holds its reset value, so equal register files are equal
lists. Access types are those of R14, update classes those of R18. -/

namespace Sys2Proof.Machine

/-- One register field: byte offset of its word in the window (entries of the indirect tables stand above the window, at
0x40_0000 and up), lowest bit, width in bits, value at reset. -/
structure Fld where
  off : Nat
  lo : Nat
  w : Nat
  reset : Nat
deriving DecidableEq, Repr

/-- The key a field's value is stored under. -/
def Fld.key (f : Fld) : Nat := f.off * 32 + f.lo

/-- The access types of R14. -/
inductive Ty where
  | ro | rw | wo | w1c | w1s | rc | cp
deriving DecidableEq, Repr

/-- The update classes of R18: live, static, or a boundary named by the field's description. -/
inductive Upd where
  | none | live | static
  | servo | offset | loop | selection | txPacket | rxPacket | rxFrame | txFrame | pass | frameSync
  | zeroCross | swap | pwmCycle | eventRecord | timeFrame | commit | turn
deriving DecidableEq, Repr

/-- A row of a register table: a field, or `count` fields `stride` bytes apart. -/
structure FldSpec where
  fld : Nat → Fld
  count : Nat
  stride : Nat
  ty : Nat → Ty
  upd : Nat → Upd

/-- A row of one field. -/
def FldSpec.one (f : Fld) (t : Ty) (u : Upd) : FldSpec := ⟨fun _ => f, 1, 4, fun _ => t, fun _ => u⟩

/-- A row of `count` fields, `stride` bytes apart. -/
def FldSpec.arr (f : Nat → Fld) (count stride : Nat) (t : Nat → Ty) (u : Nat → Upd) : FldSpec :=
  ⟨f, count, stride, t, u⟩

/-- The field of the row that lies in the word at `off`, with its type and class. -/
def FldSpec.atOff (r : FldSpec) (off : Nat) : Option (Fld × Ty × Upd) :=
  let o := (r.fld 0).off
  if o ≤ off ∧ (off - o) % r.stride = 0 ∧ (off - o) / r.stride < r.count then
    let i := (off - o) / r.stride
    some (r.fld i, r.ty i, r.upd i)
  else Option.none

/-- Field values by key: keys strictly rising, no value equal to its field's reset value. -/
abbrev RegFile := List (Nat × Nat)

/-- The value stored under `k`, if one is. -/
def RegFile.lookup (k : Nat) : RegFile → Option Nat
  | [] => Option.none
  | (a, b) :: t => if a = k then some b else RegFile.lookup k t

/-- Remove key `k`. -/
def RegFile.erase (k : Nat) : RegFile → RegFile
  | [] => []
  | (a, b) :: t => if a = k then RegFile.erase k t else (a, b) :: RegFile.erase k t

/-- Insert key `k` in its place, `k` being absent. -/
def RegFile.insert (k v : Nat) : RegFile → RegFile
  | [] => [(k, v)]
  | (a, b) :: t => if a < k then (a, b) :: RegFile.insert k v t else (k, v) :: (a, b) :: t

/-- The value of field `f`, which has `f.w` bits. -/
def RegFile.get (rf : RegFile) (f : Fld) : Nat := (RegFile.lookup f.key rf).getD f.reset % 2 ^ f.w

/-- Store `v`, cut to the field's width. -/
def RegFile.set (rf : RegFile) (f : Fld) (v : Nat) : RegFile :=
  let v := v % 2 ^ f.w
  if v = f.reset then RegFile.erase f.key rf else RegFile.insert f.key v (RegFile.erase f.key rf)

/-- Give every field with a key in `lo ≤ key < hi` its reset value. -/
def RegFile.resetRange (rf : RegFile) (lo hi : Nat) : RegFile :=
  rf.filter (fun p => decide (p.1 < lo ∨ hi ≤ p.1))

/-- Keys strictly rising. -/
def RegFile.wf : RegFile → Bool
  | [] => true
  | [_] => true
  | (a, _) :: (b, v) :: t => decide (a < b) && RegFile.wf ((b, v) :: t)

/-- DMA rings the host produces for (R401): command requests and reply buffers 0–31, transmit 48–51, receive buffers 56–59. -/
def ringHostProduced (i : Nat) : Bool := decide (i ≤ 31) || decide (48 ≤ i ∧ i ≤ 51) || decide (56 ≤ i ∧ i ≤ 59)

end Sys2Proof.Machine
end

