-- ==== Sys2Proof/Machine/Msix.lean ====
section
/-! DEFINITION. The MSI-X table and its pending-bit array (R392, R416). Their places in BAR0 are those of R392; the layout inside
them and the mask bit that reads 1 after reset are those of the PCI standard (PRESUMED, assumption 36). -/

namespace Sys2Proof.Machine

/-- Message address of vector v. -/
def MSIX.ADDR_LO (v : Nat) : Fld := ⟨0x30000 + 16 * v, 2, 30, 0⟩
def MSIX.ADDR_HI (v : Nat) : Fld := ⟨0x30004 + 16 * v, 0, 32, 0⟩
/-- Message data of vector v. -/
def MSIX.DATA (v : Nat) : Fld := ⟨0x30008 + 16 * v, 0, 32, 0⟩
/-- Mask bit of vector v. -/
def MSIX.MASK (v : Nat) : Fld := ⟨0x3000C + 16 * v, 0, 1, 1⟩
/-- Pending bits of vectors 32w to 32w + 31. -/
def MSIX.PENDING (w : Nat) : Fld := ⟨0x38000 + 4 * w, 0, 32, 0⟩

/-- Fields of the table and the array. -/
def MSIX.fields : List FldSpec := [
  FldSpec.arr MSIX.ADDR_LO 64 16 (fun _ => .rw) (fun _ => .live),
  FldSpec.arr MSIX.ADDR_HI 64 16 (fun _ => .rw) (fun _ => .live),
  FldSpec.arr MSIX.DATA 64 16 (fun _ => .rw) (fun _ => .live),
  FldSpec.arr MSIX.MASK 64 16 (fun _ => .rw) (fun _ => .live),
  FldSpec.arr MSIX.PENDING 2 4 (fun _ => .ro) (fun _ => .none)]

end Sys2Proof.Machine
end

