-- ==== Sys2Proof/Machine/RegsAudio.lean ====
section
/-! DEFINITION. Registers and table entries of Anvil, registers of the audio ports and the amplifier (chapters 08 to 10).
Each field is written from the register tables of spec/ (the rule is named at each): its offset in the window, lowest bit,
width and reset value. Resets the spec leaves to the part, the fuses, the MRAM, the AON domain or a strap are those the
assumption log names (entry 1). -/

namespace Sys2Proof.Machine

/-! ## ANVIL -/

/-- Bit of ANVIL.INT (R289): 0x0607 -/
def ANVIL.INT_CLIP : Nat := 6
/-- Bit of ANVIL.INT (R289): 0x0606 -/
def ANVIL.INT_ALIGN_DONE : Nat := 5
/-- Bit of ANVIL.INT (R289): 0x0605 -/
def ANVIL.INT_BATCH_REFUSED : Nat := 4
/-- Bit of ANVIL.INT (R289): 0x0604 -/
def ANVIL.INT_ARITH : Nat := 3
/-- Bit of ANVIL.INT (R289): 0x0603 -/
def ANVIL.INT_RUN_STATE : Nat := 2
/-- Bit of ANVIL.INT (R289): 0x0602 -/
def ANVIL.INT_MU_RELEASED : Nat := 1
/-- Bit of ANVIL.INT (R289): 0x0601 -/
def ANVIL.INT_MU_FAULT : Nat := 0
/-- R289: ms; 0 none (R286) -/
def ANVIL.CTRL_EVT_HOLDOFF : Fld := ⟨0x140000, 24, 8, 0x64⟩
/-- R289: R283 -/
def ANVIL.CTRL_ARITH_FAULT_N : Fld := ⟨0x140000, 8, 4, 4⟩
/-- R289: W -/
def ANVIL.STATUS_WORKING : Fld := ⟨0x140004, 16, 5, 0x10⟩
/-- R289: R284 -/
def ANVIL.STATUS_STOPPED : Fld := ⟨0x140004, 8, 1, 0⟩
/-- R289: Any group switching (R269) -/
def ANVIL.STATUS_SWITCHING : Fld := ⟨0x140004, 4, 1, 0⟩
/-- R289: R280 -/
def ANVIL.STATUS_SPARE_OK : Fld := ⟨0x140004, 0, 1, 1⟩
/-- R289: n of the last completed pass, [31:0]; latches HI -/
def ANVIL.LAST_PASS_LO : Fld := ⟨0x140010, 0, 32, 0⟩
/-- R289: [63:32] -/
def ANVIL.LAST_PASS_HI : Fld := ⟨0x140014, 0, 32, 0⟩
/-- R289: R272, R266 -/
def ANVIL.DITHER_SEED_LO : Fld := ⟨0x140018, 0, 32, 1⟩
/-- R289: Written after LO (R19) -/
def ANVIL.DITHER_SEED_HI : Fld := ⟨0x14001C, 0, 32, 0⟩
/-- R289: R273 -/
def ANVIL.SAT_ROUTE : Fld := ⟨0x140040, 0, 32, 0⟩
/-- R289: R273 -/
def ANVIL.SAT_BUS : Fld := ⟨0x140044, 0, 32, 0⟩
/-- R289: R273 -/
def ANVIL.SAT_OUT : Fld := ⟨0x140048, 0, 32, 0⟩
/-- R289: R281 -/
def ANVIL.ARITH_ERR : Fld := ⟨0x14004C, 0, 32, 0⟩
/-- R289: Commits applied, all lists -/
def ANVIL.BATCHES : Fld := ⟨0x140050, 0, 32, 0⟩
/-- R289: R276 -/
def ANVIL.BATCH_REFUSED_CNT : Fld := ⟨0x140054, 0, 32, 0⟩
/-- R289: Direct opcodes completed OK -/
def ANVIL.DIRECT_OPS : Fld := ⟨0x140058, 0, 32, 0⟩
/-- R289: w = 0–7; bit b of word w is bus 32w + b -/
def ANVIL.BUS_CLIP (w : Nat) : Fld := ⟨0x140080 + 4 * w, 0, 32, 0⟩
/-- R289: w = 0–3; bit b is destination group 32w + b -/
def ANVIL.DEST_CLIP (w : Nat) : Fld := ⟨0x1400A0 + 4 * w, 0, 32, 0⟩
/-- R289: Logical unit carried; u = 0–16 -/
def ANVIL.MU_LUNIT (u : Nat) : Fld := ⟨0x140100 + 4 * u, 4, 4, if u < 16 then u else 0⟩
/-- R289: R280 -/
def ANVIL.MU_ROLE (u : Nat) : Fld := ⟨0x140100 + 4 * u, 0, 3, if u = 16 then 1 else 0⟩
/-- R289: Failures of the unit, any cause -/
def ANVIL.MU_FAULTS (u : Nat) : Fld := ⟨0x140180 + 4 * u, 0, 32, 0⟩
/-- R289: i = 0–3; logical unit 4i + q; 0x1F none -/
def ANVIL.UNIT_MAP (i : Nat) : Fld := ⟨0x140200 + 4 * (i / 4), 8 * (i % 4), 5, i⟩
/-- R289: Last fault (R283) -/
def ANVIL.LASTF_CAUSE : Fld := ⟨0x140210, 16, 8, 0⟩
/-- R289: Logical unit of the last fault, 0xFF none -/
def ANVIL.LASTF_LUNIT : Fld := ⟨0x140210, 8, 8, 0⟩
/-- R289: Physical unit of the last fault -/
def ANVIL.LASTF_UNIT : Fld := ⟨0x140210, 0, 5, 0⟩
/-- R289: Short time of the last detection -/
def ANVIL.FAULT_TIME : Fld := ⟨0x140214, 0, 32, 0⟩
/-- R290: Group g = 0–63 (R269) -/
def ANVIL.ALIGN_SWITCHING (g : Nat) : Fld := ⟨0x140400 + 4 * g, 31, 1, 0⟩
/-- R290: Last D accepted by ALIGN_SET -/
def ANVIL.ALIGN_D_TARGET (g : Nat) : Fld := ⟨0x140400 + 4 * g, 16, 12, 0x60⟩
/-- R290: D in force in the pass -/
def ANVIL.ALIGN_D (g : Nat) : Fld := ⟨0x140400 + 4 * g, 0, 12, 0x60⟩
/-- R290: Generator g = 0–15 (R264) -/
def ANVIL.GEN_EN (g : Nat) : Fld := ⟨0x140600 + 0x10 * g, 31, 1, 0⟩
/-- R290: R264 -/
def ANVIL.GEN_TYPE (g : Nat) : Fld := ⟨0x140600 + 0x10 * g, 0, 3, 0⟩
/-- R290: Phase increment per pass -/
def ANVIL.GEN_INC (g : Nat) : Fld := ⟨0x140604 + 0x10 * g, 0, 32, 0⟩
/-- R290: Q3.20 -/
def ANVIL.GEN_AMPL (g : Nat) : Fld := ⟨0x140608 + 0x10 * g, 0, 24, 0⟩
/-- R290: Passes; 0 acts as 1 -/
def ANVIL.GEN_PERIOD (g : Nat) : Fld := ⟨0x14060C + 0x10 * g, 0, 16, 0xBB80⟩
/-- R290: Receive stream s = 0–511 (R271) -/
def ANVIL.CONC_RESUME_LEN (s : Nat) : Fld := ⟨0x140800 + 4 * s, 20, 10, 0x30⟩
/-- R290: R270 -/
def ANVIL.CONC_LEN (s : Nat) : Fld := ⟨0x140800 + 4 * s, 10, 10, 0x30⟩
/-- R290: R270 -/
def ANVIL.CONC_MODE (s : Nat) : Fld := ⟨0x140800 + 4 * s, 0, 2, 2⟩
/-- R291: Copy in progress -/
def ANVIL.TBL_BUSY : Fld := ⟨0x141000, 31, 1, 0⟩
/-- R291: 0 none, 1 index out of range, 2 HOST list full, 3 commit pending (R277) -/
def ANVIL.TBL_ERR : Fld := ⟨0x141000, 28, 3, 0⟩
/-- R291: 0 route, 1 term, 2 bus; 3 acts as 0 -/
def ANVIL.TBL_TABLE : Fld := ⟨0x141000, 24, 2, 0⟩
/-- R291: 1 read the entry in force into TBL_DATA; 2 add TBL_DATA to the HOST list -/
def ANVIL.TBL_OP : Fld := ⟨0x141000, 16, 2, 0⟩
/-- R291: Entry -/
def ANVIL.TBL_INDEX : Fld := ⟨0x141000, 0, 14, 0⟩
/-- R291: HOST commit awaiting application -/
def ANVIL.BATCH_COMMIT_PENDING : Fld := ⟨0x141004, 31, 1, 0⟩
/-- R291: Entries in the HOST list, 0–1,024 -/
def ANVIL.BATCH_PEND_COUNT : Fld := ⟨0x141004, 16, 11, 0⟩
/-- R291: Empties the HOST list -/
def ANVIL.BATCH_DISCARD : Fld := ⟨0x141004, 1, 1, 0⟩
/-- R291: Commits the HOST list (R275) -/
def ANVIL.BATCH_COMMIT : Fld := ⟨0x141004, 0, 1, 0⟩
/-- R291: Last HOST commit: 0 applied, 1 overlap, 2 tier, 3 TERM_COUNT or range (R262) -/
def ANVIL.BATCH_ERR : Fld := ⟨0x141008, 28, 4, 0⟩
/-- R291: First offending index -/
def ANVIL.BATCH_INDEX : Fld := ⟨0x141008, 0, 14, 0⟩
/-- R291: Pass of the last HOST commit, [31:0]; latches HI -/
def ANVIL.BATCH_APPLY_PASS_LO : Fld := ⟨0x14100C, 0, 32, 0⟩
/-- R291: [63:32] -/
def ANVIL.BATCH_APPLY_PASS_HI : Fld := ⟨0x141010, 0, 32, 0⟩
/-- R291: Word w = 0–3 -/
def ANVIL.TBL_DATA (w : Nat) : Fld := ⟨0x141020 + 4 * w, 0, 32, 0⟩
/-- R289: Interrupt enables, laid out as INT -/
def ANVIL.INT_EN : Fld := ⟨0x14000C, 0, 7, 0x7F⟩
/-- R289: Interrupt flags; bits: CLIP [6], ALIGN_DONE [5], BATCH_REFUSED [4], ARITH [3], RUN_STATE [2], MU_RELEASED [1], MU_FAULT [0] -/
def ANVIL.INT : Fld := ⟨0x140008, 0, 7, 0⟩

/-! ## ROUTE -/

/-- R292: R258 -/
def ROUTE.EN (i : Nat) : Fld := ⟨0x800000 + 0x10 * i, 31, 1, 0⟩
/-- R292: R272 -/
def ROUTE.DITHER (i : Nat) : Fld := ⟨0x800000 + 0x10 * i, 30, 1, 0⟩
/-- R292: Source slot -/
def ROUTE.SRC (i : Nat) : Fld := ⟨0x800000 + 0x10 * i, 0, 13, 0⟩
/-- R292: Q3.20 target -/
def ROUTE.GAIN (i : Nat) : Fld := ⟨0x800004 + 0x10 * i, 0, 24, 0x100000⟩
/-- R292: Passes -/
def ROUTE.RAMP (i : Nat) : Fld := ⟨0x800008 + 0x10 * i, 0, 10, 0⟩
/-- R292: R260 -/
def ROUTE.GAIN_NOW (i : Nat) : Fld := ⟨0x80000C + 0x10 * i, 0, 24, 0⟩

/-! ## TERM -/

/-- R292: Source slot -/
def TERM.SRC (i : Nat) : Fld := ⟨0x900000 + 0x10 * i, 0, 13, 0⟩
/-- R292: Q3.20 target -/
def TERM.GAIN (i : Nat) : Fld := ⟨0x900004 + 0x10 * i, 0, 24, 0⟩
/-- R292: Passes -/
def TERM.RAMP (i : Nat) : Fld := ⟨0x900008 + 0x10 * i, 0, 10, 0⟩
/-- R292: R260 -/
def TERM.GAIN_NOW (i : Nat) : Fld := ⟨0x90000C + 0x10 * i, 0, 24, 0⟩

/-! ## BUS -/

/-- R292: R261 -/
def BUS.EN (i : Nat) : Fld := ⟨0xA00000 + 0x10 * i, 31, 1, 0⟩
/-- R292: R262 -/
def BUS.TIER (i : Nat) : Fld := ⟨0xA00000 + 0x10 * i, 24, 2, 0⟩
/-- R292: 0–64 -/
def BUS.TERM_COUNT (i : Nat) : Fld := ⟨0xA00000 + 0x10 * i, 16, 7, 0⟩
/-- R292: First term -/
def BUS.TERM_BASE (i : Nat) : Fld := ⟨0xA00000 + 0x10 * i, 0, 14, 0⟩

/-! ## TDM -/

/-- Bit of TDM.INT (R320): 0x0706 -/
def TDM.INT_ZC_TIMEOUT : Nat := 6
/-- Bit of TDM.INT (R320): 0x0705 -/
def TDM.INT_ASRC : Nat := 5
/-- Bit of TDM.INT (R320): 0x0703 -/
def TDM.INT_SLIP : Nat := 4
/-- Bit of TDM.INT (R320): 0x0704 -/
def TDM.INT_FRAME_ERR : Nat := 3
/-- Bit of TDM.INT (R320): 0x0707 -/
def TDM.INT_PORT_STATE : Nat := 2
/-- Bit of TDM.INT (R320): 0x0702 -/
def TDM.INT_CLK_OK : Nat := 1
/-- Bit of TDM.INT (R320): 0x0701 -/
def TDM.INT_CLK_LOST : Nat := 0
/-- R320: ms; 0 none (R317) -/
def TDM.CTRL_EVT_HOLDOFF : Fld := ⟨0x180000, 24, 8, 0x64⟩
/-- R320: Bit p: port p in RUNNING -/
def TDM.RUNNING : Fld := ⟨0x180010, 0, 32, 0⟩
/-- R320: Bit p: MASK_PENDING of port p -/
def TDM.MASK_PENDING : Fld := ⟨0x180014, 0, 32, 0⟩
/-- R321: R301 -/
def TDM.G_OFFER (g : Nat) : Fld := ⟨0x180100 + 0x40 * g, 16, 1, 0⟩
/-- R321: R299 -/
def TDM.G_ECHO (g : Nat) : Fld := ⟨0x180100 + 0x40 * g, 12, 1, 0⟩
/-- R321: Lead port within the group (R299) -/
def TDM.G_LEAD (g : Nat) : Fld := ⟨0x180100 + 0x40 * g, 8, 3, 0⟩
/-- R321: FOLLOW_ASYNC: 0 48 kHz, 1 44.1 kHz -/
def TDM.G_FAMILY (g : Nat) : Fld := ⟨0x180100 + 0x40 * g, 6, 1, 0⟩
/-- R321: k: 0 1×, 1 2×, 2 4×; 3 sets CFG_ERR in every port of the group -/
def TDM.G_RATE (g : Nat) : Fld := ⟨0x180100 + 0x40 * g, 4, 2, 0⟩
/-- R321: DPLL for MASTER (R296) -/
def TDM.G_CLK_SRC (g : Nat) : Fld := ⟨0x180100 + 0x40 * g, 2, 2, 0⟩
/-- R321: R296 -/
def TDM.G_MODE (g : Nat) : Fld := ⟨0x180100 + 0x40 * g, 0, 2, 0⟩
/-- R321: ppm; 0 acts as 1 (R300) -/
def TDM.G_RATE_TOL (g : Nat) : Fld := ⟨0x180104 + 0x40 * g, 0, 16, 0x1F4⟩
/-- R321: 0 OFF, 1 ABSENT, 2 CHECKING, 3 PRESENT -/
def TDM.G_CLK_STATE (g : Nat) : Fld := ⟨0x180108 + 0x40 * g, 16, 3, 0⟩
/-- R321: 0 OFF, 1 UNLOCKED, 2 ACQUIRE, 3 LOCKED -/
def TDM.G_ASRC_STATE (g : Nat) : Fld := ⟨0x180108 + 0x40 * g, 12, 2, 0⟩
/-- R321: R304 -/
def TDM.G_ASRC_CH (g : Nat) : Fld := ⟨0x180108 + 0x40 * g, 0, 9, 0⟩
/-- R321: mHz (R300) -/
def TDM.G_FS_MEAS (g : Nat) : Fld := ⟨0x18010C + 0x40 * g, 0, 32, 0⟩
/-- R321: Q2.30 (R305) -/
def TDM.G_RATIO (g : Nat) : Fld := ⟨0x180110 + 0x40 * g, 0, 32, 0⟩
/-- R321: Input slip buffer, frames (R303) -/
def TDM.G_IN_FILL (g : Nat) : Fld := ⟨0x180114 + 0x40 * g, 16, 8, 0⟩
/-- R321: Output slip buffer, frames -/
def TDM.G_OUT_FILL (g : Nat) : Fld := ⟨0x180114 + 0x40 * g, 0, 8, 0⟩
/-- R321: R300, R314 -/
def TDM.G_CLK_LOSS (g : Nat) : Fld := ⟨0x180120 + 0x40 * g, 0, 32, 0⟩
/-- R321: R303 -/
def TDM.G_IN_REPEAT (g : Nat) : Fld := ⟨0x180124 + 0x40 * g, 0, 32, 0⟩
/-- R321: R303 -/
def TDM.G_IN_DROP (g : Nat) : Fld := ⟨0x180128 + 0x40 * g, 0, 32, 0⟩
/-- R321: R303 -/
def TDM.G_OUT_REPEAT (g : Nat) : Fld := ⟨0x18012C + 0x40 * g, 0, 32, 0⟩
/-- R321: R303 -/
def TDM.G_OUT_DROP (g : Nat) : Fld := ⟨0x180130 + 0x40 * g, 0, 32, 0⟩
/-- R321: R305 -/
def TDM.G_ASRC_UNLOCK (g : Nat) : Fld := ⟨0x180134 + 0x40 * g, 0, 32, 0⟩
/-- R322: R307 -/
def TDM.P_PORT_EN (p : Nat) : Fld := ⟨0x181000 + 0x80 * p, 31, 1, 0⟩
/-- R322: R293 -/
def TDM.P_FORMAT (p : Nat) : Fld := ⟨0x181000 + 0x80 * p, 26, 2, 0⟩
/-- R322: Unmasked output slots: 0 driven 0, 1 high impedance -/
def TDM.P_TX_IDLE (p : Nat) : Fld := ⟨0x181000 + 0x80 * p, 24, 1, 0⟩
/-- R322: R293 -/
def TDM.P_BCLK_POL (p : Nat) : Fld := ⟨0x181000 + 0x80 * p, 22, 1, 0⟩
/-- R322: R293 -/
def TDM.P_FSYNC_POL (p : Nat) : Fld := ⟨0x181000 + 0x80 * p, 21, 1, 0⟩
/-- R322: TDM format only -/
def TDM.P_DELAY (p : Nat) : Fld := ⟨0x181000 + 0x80 * p, 20, 1, 1⟩
/-- R322: R293 -/
def TDM.P_FS_WIDTH (p : Nat) : Fld := ⟨0x181000 + 0x80 * p, 16, 2, 0⟩
/-- R322: 0 16, 1 24, 2 32 bits; 3 sets CFG_ERR -/
def TDM.P_WL (p : Nat) : Fld := ⟨0x181000 + 0x80 * p, 12, 2, 1⟩
/-- R322: As WL -/
def TDM.P_SW (p : Nat) : Fld := ⟨0x181000 + 0x80 * p, 8, 2, 2⟩
/-- R322: 2–32; other values set CFG_ERR -/
def TDM.P_SLOTS (p : Nat) : Fld := ⟨0x181000 + 0x80 * p, 0, 6, 2⟩
/-- R322: Frames; 0 no wait (R306) -/
def TDM.P_ZC_TIMEOUT (p : Nat) : Fld := ⟨0x181004 + 0x80 * p, 0, 10, 0x30⟩
/-- R322: R309 -/
def TDM.P_RX_MASK (p : Nat) : Fld := ⟨0x181008 + 0x80 * p, 0, 32, 0xFFFFFFFF⟩
/-- R322: R309 -/
def TDM.P_TX_MASK (p : Nat) : Fld := ⟨0x18100C + 0x80 * p, 0, 32, 0xFFFFFFFF⟩
/-- R322: R308 -/
def TDM.P_TX_MUTE (p : Nat) : Fld := ⟨0x181010 + 0x80 * p, 0, 32, 0⟩
/-- R322: 0 DISABLED, 1 STARTING, 2 RUNNING, 3 STOPPING, 4 HALTED -/
def TDM.P_STATE (p : Nat) : Fld := ⟨0x181014 + 0x80 * p, 16, 3, 0⟩
/-- R322: R294, R296 -/
def TDM.P_CFG_ERR (p : Nat) : Fld := ⟨0x181014 + 0x80 * p, 8, 1, 0⟩
/-- R322: R309 -/
def TDM.P_MASK_PENDING (p : Nat) : Fld := ⟨0x181014 + 0x80 * p, 1, 1, 0⟩
/-- R322: R306 -/
def TDM.P_ZC_WAIT (p : Nat) : Fld := ⟨0x181014 + 0x80 * p, 0, 1, 0⟩
/-- R322: Mask in force -/
def TDM.P_RX_MASK_NOW (p : Nat) : Fld := ⟨0x181018 + 0x80 * p, 0, 32, 0xFFFFFFFF⟩
/-- R322: Mask in force -/
def TDM.P_TX_MASK_NOW (p : Nat) : Fld := ⟨0x18101C + 0x80 * p, 0, 32, 0xFFFFFFFF⟩
/-- R322: Mute in force -/
def TDM.P_TX_MUTE_NOW (p : Nat) : Fld := ⟨0x181020 + 0x80 * p, 0, 32, 0⟩
/-- R322: Number of the frame now on the pins (R307) -/
def TDM.P_FRAME_NO (p : Nat) : Fld := ⟨0x181024 + 0x80 * p, 0, 32, 0⟩
/-- R323: A frame opens while the port is RUNNING or STOPPING -/
def TDM.P_FRAMES (p : Nat) : Fld := ⟨0x181040 + 0x80 * p, 0, 32, 0⟩
/-- R323: An invalid frame is seen on the lead port (R300); counted by the lead port only -/
def TDM.P_FRAME_ERR (p : Nat) : Fld := ⟨0x181044 + 0x80 * p, 0, 32, 0⟩
/-- R323: A gate change takes effect by timeout, once per slot (R306) -/
def TDM.P_ZC_TIMEOUTS (p : Nat) : Fld := ⟨0x181048 + 0x80 * p, 0, 32, 0⟩
/-- R323: The port enters HALTED (R307) -/
def TDM.P_HALTS (p : Nat) : Fld := ⟨0x18104C + 0x80 * p, 0, 32, 0⟩
/-- R320: Interrupt enables, laid out as INT -/
def TDM.INT_EN : Fld := ⟨0x18000C, 0, 7, 0x7F⟩
/-- R320: Interrupt flags; bits: ZC_TIMEOUT [6], ASRC [5], SLIP [4], FRAME_ERR [3], PORT_STATE [2], CLK_OK [1], CLK_LOST [0] -/
def TDM.INT : Fld := ⟨0x180008, 0, 7, 0⟩

/-! ## AMP -/

/-- Bit of AMP.INT (R348): 0x080A -/
def AMP.INT_LIMIT : Nat := 9
/-- Bit of AMP.INT (R348): 0x0809 -/
def AMP.INT_ZC_TIMEOUT : Nat := 8
/-- Bit of AMP.INT (R348): 0x0808 -/
def AMP.INT_FREQ : Nat := 7
/-- Bit of AMP.INT (R348): 0x0807 -/
def AMP.INT_DC : Nat := 6
/-- Bit of AMP.INT (R348): 0x0806 -/
def AMP.INT_THERMAL : Nat := 5
/-- Bit of AMP.INT (R348): 0x0805 -/
def AMP.INT_QUENCH : Nat := 4
/-- Bit of AMP.INT (R348): 0x0804 -/
def AMP.INT_EXT_FAULT : Nat := 3
/-- Bit of AMP.INT (R348): 0x0803 -/
def AMP.INT_LOCKOUT : Nat := 2
/-- Bit of AMP.INT (R348): 0x0802 -/
def AMP.INT_SHORT : Nat := 1
/-- Bit of AMP.INT (R348): 0x0801 -/
def AMP.INT_STATE : Nat := 0
/-- R348: ms; 0 none (R345) -/
def AMP.CTRL_EVT_HOLDOFF : Fld := ⟨0x1A0000, 24, 8, 0x64⟩
/-- R348: R325 -/
def AMP.CTRL_IDLE_HIZ : Fld := ⟨0x1A0000, 0, 1, 0⟩
/-- R348: PWM clock running -/
def AMP.STATUS_PWM_OK : Fld := ⟨0x1A0004, 16, 1, 1⟩
/-- R348: Bit n: channel n in LOCKOUT -/
def AMP.STATUS_LOCKED_OUT : Fld := ⟨0x1A0004, 8, 8, 0⟩
/-- R348: Bit n: channel n's gates switching -/
def AMP.STATUS_SWITCHING : Fld := ⟨0x1A0004, 0, 8, 0⟩
/-- R348: PWM clocks; values outside 320–1,536 act as the nearer limit -/
def AMP.P_MIN : Fld := ⟨0x1A0010, 16, 11, 0x140⟩
/-- R348: As P_MIN -/
def AMP.P_MAX : Fld := ⟨0x1A0010, 0, 11, 0x600⟩
/-- R348: R332 -/
def AMP.P_PREF : Fld := ⟨0x1A0014, 16, 11, 0x300⟩
/-- R348: 0 acts as 1 -/
def AMP.P_STEP : Fld := ⟨0x1A0014, 0, 8, 0x10⟩
/-- R348: 100 Hz units -/
def AMP.GUARD : Fld := ⟨0x1A0018, 0, 16, 0x64⟩
/-- R348: Runs R332 -/
def AMP.FREQ_RUN : Fld := ⟨0x1A001C, 0, 1, 0⟩
/-- R348: Selection in progress -/
def AMP.FREQ_BUSY : Fld := ⟨0x1A0020, 31, 1, 0⟩
/-- R348: R332 -/
def AMP.FREQ_CLEAR : Fld := ⟨0x1A0020, 30, 1, 1⟩
/-- R348: Carrier entry, 0x1F none -/
def AMP.FREQ_WORST : Fld := ⟨0x1A0020, 16, 5, 0x1F⟩
/-- R348: R326 -/
def AMP.FREQ_SEL_P : Fld := ⟨0x1A0020, 0, 11, 0x300⟩
/-- R348: Signed Hz -/
def AMP.FREQ_SEL_MARGIN : Fld := ⟨0x1A0024, 0, 32, 0x7FFFFFFF⟩
/-- R348: Carrier c = 0–15 -/
def AMP.CAR_EN (c : Nat) : Fld := ⟨0x1A0040 + 4 * c, 31, 1, 0⟩
/-- R348: 100 Hz units -/
def AMP.CAR_FREQ (c : Nat) : Fld := ⟨0x1A0040 + 4 * c, 8, 19, 0⟩
/-- R348: 100 Hz units -/
def AMP.CAR_HALFW (c : Nat) : Fld := ⟨0x1A0040 + 4 * c, 0, 8, 0x32⟩
/-- R348: Sensor i = 0–3 (R339) -/
def AMP.SEN_WARN (i : Nat) : Fld := ⟨0x1A0100 + 0x20 * i, 16, 16, 0x9C40⟩
/-- R348: R339 -/
def AMP.SEN_SHUT (i : Nat) : Fld := ⟨0x1A0100 + 0x20 * i, 0, 16, 0xBB80⟩
/-- R348: R339 -/
def AMP.SEN_REC (i : Nat) : Fld := ⟨0x1A0104 + 0x20 * i, 16, 16, 0x8CA0⟩
/-- R348: R339; idle while both channels of the pair are idle -/
def AMP.SEN_DIR (i : Nat) : Fld := ⟨0x1A0104 + 0x20 * i, 0, 1, 0⟩
/-- R348: Q3.20 (R340) -/
def AMP.SEN_G_MIN (i : Nat) : Fld := ⟨0x1A0108 + 0x20 * i, 0, 24, 0x40000⟩
/-- R348: Heat code -/
def AMP.SEN_H (i : Nat) : Fld := ⟨0x1A010C + 0x20 * i, 16, 16, 0⟩
/-- R348: Last conversion -/
def AMP.SEN_RATIO (i : Nat) : Fld := ⟨0x1A010C + 0x20 * i, 0, 16, 0⟩
/-- R348: R340 -/
def AMP.SEN_GAIN_Q (i : Nat) : Fld := ⟨0x1A0110 + 0x20 * i, 0, 24, 0x100000⟩
/-- R348: R339 -/
def AMP.SEN_NTC_FAULT (i : Nat) : Fld := ⟨0x1A0114 + 0x20 * i, 0, 1, 0⟩
/-- R349: R333 -/
def AMP.CH_EN (n : Nat) : Fld := ⟨0x1A0400 + 0x100 * n, 31, 1, 0⟩
/-- R349: R335 -/
def AMP.CH_MUTE (n : Nat) : Fld := ⟨0x1A0400 + 0x100 * n, 30, 1, 0⟩
/-- R349: 0 AD, 1 BD (R327) -/
def AMP.CH_MOD (n : Nat) : Fld := ⟨0x1A0400 + 0x100 * n, 28, 1, 1⟩
/-- R349: Eighths of a cycle (R326) -/
def AMP.CH_PHASE (n : Nat) : Fld := ⟨0x1A0400 + 0x100 * n, 24, 3, n⟩
/-- R349: 0 as short, 1 lockout, 2 automatic; 3 acts as 1 (R338) -/
def AMP.CH_FLT_ACTION (n : Nat) : Fld := ⟨0x1A0400 + 0x100 * n, 20, 2, 0⟩
/-- R349: PWM clocks -/
def AMP.CH_FLT_FILT (n : Nat) : Fld := ⟨0x1A0400 + 0x100 * n, 8, 8, 8⟩
/-- R349: PWM clocks; values below 2 act as 2 -/
def AMP.CH_DEADTIME (n : Nat) : Fld := ⟨0x1A0400 + 0x100 * n, 0, 8, 12⟩
/-- R349: R329 -/
def AMP.CH_VGAIN (n : Nat) : Fld := ⟨0x1A0404 + 0x100 * n, 0, 24, 0x100000⟩
/-- R349: R329 -/
def AMP.CH_DMAX (n : Nat) : Fld := ⟨0x1A0408 + 0x100 * n, 0, 16, 0xF333⟩
/-- R349: R337 -/
def AMP.CH_RETRY_N (n : Nat) : Fld := ⟨0x1A040C + 0x100 * n, 24, 4, 3⟩
/-- R349: 0 acts as 1 -/
def AMP.CH_SHORT_N (n : Nat) : Fld := ⟨0x1A040C + 0x100 * n, 16, 8, 8⟩
/-- R349: Units of 125 mV ÷ 4,096; 0 acts as 1 (R336) -/
def AMP.CH_ILIM (n : Nat) : Fld := ⟨0x1A040C + 0x100 * n, 0, 12, 0xCCD⟩
/-- R349: ms; values below 10 act as 10 -/
def AMP.CH_RETRY_MS (n : Nat) : Fld := ⟨0x1A0410 + 0x100 * n, 16, 16, 0x1F4⟩
/-- R349: ms (R337) -/
def AMP.CH_CLEAR_MS (n : Nat) : Fld := ⟨0x1A0410 + 0x100 * n, 0, 16, 0x3E8⟩
/-- R349: ms (R334) -/
def AMP.CH_START_RAMP (n : Nat) : Fld := ⟨0x1A0414 + 0x100 * n, 20, 12, 10⟩
/-- R349: Passes; 0 no wait -/
def AMP.CH_ZC_TIMEOUT (n : Nat) : Fld := ⟨0x1A0414 + 0x100 * n, 10, 10, 0x30⟩
/-- R349: Passes (R335) -/
def AMP.CH_MUTE_RAMP (n : Nat) : Fld := ⟨0x1A0414 + 0x100 * n, 0, 10, 0x30⟩
/-- R349: Q0.16 of voltage full scale (R341) -/
def AMP.CH_DC_THR (n : Nat) : Fld := ⟨0x1A0418 + 0x100 * n, 16, 16, 0xCCD⟩
/-- R349: ms; 0 disables -/
def AMP.CH_DC_TIME (n : Nat) : Fld := ⟨0x1A0418 + 0x100 * n, 0, 16, 0xC8⟩
/-- R349: Units of full scale ÷ 256 (R334) -/
def AMP.CH_OFS_MAX (n : Nat) : Fld := ⟨0x1A041C + 0x100 * n, 8, 8, 4⟩
/-- R349: PWM cycles; 0 acts as 1 -/
def AMP.CH_BOOT_CYC (n : Nat) : Fld := ⟨0x1A041C + 0x100 * n, 0, 8, 0x10⟩
/-- R349: 0 none, 1 short, 2 external fault, 3 DC, 4 offset, 5 thermal, 6 NTC fault, 7 PWM clock -/
def AMP.CH_CAUSE (n : Nat) : Fld := ⟨0x1A0420 + 0x100 * n, 28, 4, 0⟩
/-- R349: R337 -/
def AMP.CH_RETRY_CNT (n : Nat) : Fld := ⟨0x1A0420 + 0x100 * n, 24, 4, 0⟩
/-- R349: R333 -/
def AMP.CH_CFG_ERR (n : Nat) : Fld := ⟨0x1A0420 + 0x100 * n, 20, 1, 0⟩
/-- R349: Of the channel's sensor -/
def AMP.CH_NTC_FAULT (n : Nat) : Fld := ⟨0x1A0420 + 0x100 * n, 19, 1, 0⟩
/-- R349: R340 -/
def AMP.CH_QUENCH_ACTIVE (n : Nat) : Fld := ⟨0x1A0420 + 0x100 * n, 18, 1, 0⟩
/-- R349: R336 -/
def AMP.CH_LIMITING (n : Nat) : Fld := ⟨0x1A0420 + 0x100 * n, 17, 1, 0⟩
/-- R349: R338 -/
def AMP.CH_FLT_PIN (n : Nat) : Fld := ⟨0x1A0420 + 0x100 * n, 16, 1, 0⟩
/-- R349: R335 -/
def AMP.CH_ZC_WAIT (n : Nat) : Fld := ⟨0x1A0420 + 0x100 * n, 13, 1, 0⟩
/-- R349: R335 -/
def AMP.CH_MUTED (n : Nat) : Fld := ⟨0x1A0420 + 0x100 * n, 12, 1, 0⟩
/-- R349: 0 OFF, 1 START, 2 RUN, 3 STOPPING, 4 SHORT, 5 LOCKOUT, 6 THERMAL, 7 HALTED -/
def AMP.CH_STATE (n : Nat) : Fld := ⟨0x1A0420 + 0x100 * n, 0, 4, 0⟩
/-- R349: Quench gain in force -/
def AMP.CH_GAIN_Q (n : Nat) : Fld := ⟨0x1A0424 + 0x100 * n, 0, 24, 0x100000⟩
/-- R349: Signed, full scale ÷ 32,768 -/
def AMP.CH_OFS_I (n : Nat) : Fld := ⟨0x1A0428 + 0x100 * n, 16, 16, 0⟩
/-- R349: As OFS_I -/
def AMP.CH_OFS_V (n : Nat) : Fld := ⟨0x1A0428 + 0x100 * n, 0, 16, 0⟩
/-- R349: R337 -/
def AMP.CH_UNLOCK (n : Nat) : Fld := ⟨0x1A042C + 0x100 * n, 0, 1, 0⟩
/-- R350: Shadow coefficients -/
def AMP.CH_BQ (n j : Nat) : Fld := ⟨0x1A0440 + 0x100 * n + 4 * j, 0, 32, if j % 5 = 0 then 0x40000000 else 0⟩
/-- R350: Q8.24 -/
def AMP.CH_KP_I (n : Nat) : Fld := ⟨0x1A047C + 0x100 * n, 0, 32, 0⟩
/-- R350: Q8.24 -/
def AMP.CH_KI_I (n : Nat) : Fld := ⟨0x1A0480 + 0x100 * n, 0, 32, 0⟩
/-- R350: Q3.20 -/
def AMP.CH_FF (n : Nat) : Fld := ⟨0x1A0484 + 0x100 * n, 0, 24, 0x100000⟩
/-- R350: R329 -/
def AMP.CH_COEF_PEND (n : Nat) : Fld := ⟨0x1A0488 + 0x100 * n, 8, 1, 0⟩
/-- R350: R329 -/
def AMP.CH_SWAP (n : Nat) : Fld := ⟨0x1A0488 + 0x100 * n, 0, 1, 0⟩
/-- R351: A limited cycle ends (R336) -/
def AMP.CH_LIMIT_CYC (n : Nat) : Fld := ⟨0x1A04C0 + 0x100 * n, 0, 32, 0⟩
/-- R351: A short is made (R337) -/
def AMP.CH_SHORTS (n : Nat) : Fld := ⟨0x1A04C4 + 0x100 * n, 0, 32, 0⟩
/-- R351: FLT_N is qualified active (R338) -/
def AMP.CH_EXT_FAULTS (n : Nat) : Fld := ⟨0x1A04C8 + 0x100 * n, 0, 32, 0⟩
/-- R351: LOCKOUT is entered -/
def AMP.CH_LOCKOUTS (n : Nat) : Fld := ⟨0x1A04CC + 0x100 * n, 0, 32, 0⟩
/-- R351: THERMAL is entered (R340) -/
def AMP.CH_THERMAL_SHUTS (n : Nat) : Fld := ⟨0x1A04D0 + 0x100 * n, 0, 32, 0⟩
/-- R351: R341 -/
def AMP.CH_DC_FAULTS (n : Nat) : Fld := ⟨0x1A04D4 + 0x100 * n, 0, 32, 0⟩
/-- R351: R335 -/
def AMP.CH_ZC_TIMEOUTS (n : Nat) : Fld := ⟨0x1A04D8 + 0x100 * n, 0, 32, 0⟩
/-- R351: A loop update clamps m (R328) -/
def AMP.CH_DUTY_CLAMP (n : Nat) : Fld := ⟨0x1A04DC + 0x100 * n, 0, 32, 0⟩
/-- R351: A restart or start reaches row 3 of R334 -/
def AMP.CH_RESTARTS (n : Nat) : Fld := ⟨0x1A04E0 + 0x100 * n, 0, 32, 0⟩
/-- R348: Interrupt enables, laid out as INT -/
def AMP.INT_EN : Fld := ⟨0x1A000C, 0, 10, 0x3FF⟩
/-- R348: Interrupt flags; bits: LIMIT [9], ZC_TIMEOUT [8], FREQ [7], DC [6], THERMAL [5], QUENCH [4], EXT_FAULT [3], LOCKOUT [2], SHORT [1], STATE [0] -/
def AMP.INT : Fld := ⟨0x1A0008, 0, 10, 0⟩

/-- Fields of ANVIL, part 0, with access type and update class. -/
def ANVIL.fields0 : List FldSpec := [
  FldSpec.one ANVIL.CTRL_EVT_HOLDOFF .rw .live,
  FldSpec.one ANVIL.CTRL_ARITH_FAULT_N .rw .live,
  FldSpec.one ANVIL.STATUS_WORKING .ro .none,
  FldSpec.one ANVIL.STATUS_STOPPED .ro .none,
  FldSpec.one ANVIL.STATUS_SWITCHING .ro .none,
  FldSpec.one ANVIL.STATUS_SPARE_OK .ro .none,
  FldSpec.one ANVIL.LAST_PASS_LO .ro .none,
  FldSpec.one ANVIL.LAST_PASS_HI .ro .none,
  FldSpec.one ANVIL.DITHER_SEED_LO .rw .pass,
  FldSpec.one ANVIL.DITHER_SEED_HI .rw .pass,
  FldSpec.one ANVIL.SAT_ROUTE .ro .none,
  FldSpec.one ANVIL.SAT_BUS .ro .none,
  FldSpec.one ANVIL.SAT_OUT .ro .none,
  FldSpec.one ANVIL.ARITH_ERR .ro .none,
  FldSpec.one ANVIL.BATCHES .ro .none,
  FldSpec.one ANVIL.BATCH_REFUSED_CNT .ro .none]
/-- Fields of ANVIL, part 1, with access type and update class. -/
def ANVIL.fields1 : List FldSpec := [
  FldSpec.one ANVIL.DIRECT_OPS .ro .none,
  FldSpec.arr ANVIL.BUS_CLIP 8 4 (fun _ => .w1c) (fun _ => .none),
  FldSpec.arr ANVIL.DEST_CLIP 4 4 (fun _ => .w1c) (fun _ => .none),
  FldSpec.arr ANVIL.MU_LUNIT 17 4 (fun _ => .ro) (fun _ => .none),
  FldSpec.arr ANVIL.MU_ROLE 17 4 (fun _ => .ro) (fun _ => .none),
  FldSpec.arr ANVIL.MU_FAULTS 17 4 (fun _ => .ro) (fun _ => .none),
  FldSpec.one ANVIL.LASTF_CAUSE .ro .none,
  FldSpec.one ANVIL.LASTF_LUNIT .ro .none,
  FldSpec.one ANVIL.LASTF_UNIT .ro .none,
  FldSpec.one ANVIL.FAULT_TIME .ro .none,
  FldSpec.arr ANVIL.ALIGN_SWITCHING 64 4 (fun _ => .ro) (fun _ => .none),
  FldSpec.arr ANVIL.ALIGN_D_TARGET 64 4 (fun _ => .cp) (fun _ => .none),
  FldSpec.arr ANVIL.ALIGN_D 64 4 (fun _ => .ro) (fun _ => .none),
  FldSpec.arr ANVIL.GEN_EN 16 0x10 (fun _ => .rw) (fun _ => .pass),
  FldSpec.arr ANVIL.GEN_TYPE 16 0x10 (fun _ => .rw) (fun _ => .pass),
  FldSpec.arr ANVIL.GEN_INC 16 0x10 (fun _ => .rw) (fun _ => .pass)]
/-- Fields of ANVIL, part 2, with access type and update class. -/
def ANVIL.fields2 : List FldSpec := [
  FldSpec.arr ANVIL.GEN_AMPL 16 0x10 (fun _ => .rw) (fun _ => .pass),
  FldSpec.arr ANVIL.GEN_PERIOD 16 0x10 (fun _ => .rw) (fun _ => .pass),
  FldSpec.arr ANVIL.CONC_RESUME_LEN 512 4 (fun _ => .rw) (fun _ => .pass),
  FldSpec.arr ANVIL.CONC_LEN 512 4 (fun _ => .rw) (fun _ => .pass),
  FldSpec.arr ANVIL.CONC_MODE 512 4 (fun _ => .rw) (fun _ => .pass),
  FldSpec.one ANVIL.TBL_BUSY .ro .none,
  FldSpec.one ANVIL.TBL_ERR .ro .none,
  FldSpec.one ANVIL.TBL_TABLE .rw .live,
  FldSpec.one ANVIL.TBL_OP .wo .live,
  FldSpec.one ANVIL.TBL_INDEX .rw .live,
  FldSpec.one ANVIL.BATCH_COMMIT_PENDING .ro .none,
  FldSpec.one ANVIL.BATCH_PEND_COUNT .ro .none,
  FldSpec.one ANVIL.BATCH_DISCARD .wo .live,
  FldSpec.one ANVIL.BATCH_COMMIT .wo .live,
  FldSpec.one ANVIL.BATCH_ERR .ro .none,
  FldSpec.one ANVIL.BATCH_INDEX .ro .none]
/-- Fields of ANVIL, part 3, with access type and update class. -/
def ANVIL.fields3 : List FldSpec := [
  FldSpec.one ANVIL.BATCH_APPLY_PASS_LO .ro .none,
  FldSpec.one ANVIL.BATCH_APPLY_PASS_HI .ro .none,
  FldSpec.arr ANVIL.TBL_DATA 4 4 (fun _ => .rw) (fun _ => .live),
  FldSpec.one ANVIL.INT_EN .rw .live,
  FldSpec.one ANVIL.INT .w1c .none]
/-- Fields of ANVIL, part 4, with access type and update class. -/
def ANVIL.fields4 : List FldSpec := (List.range 16).map (fun i => FldSpec.one (ANVIL.UNIT_MAP i) .ro .none)
/-- Every field of ANVIL. -/
def ANVIL.fields : List FldSpec := List.flatten [ANVIL.fields0, ANVIL.fields1, ANVIL.fields2, ANVIL.fields3, ANVIL.fields4]
/-- Fields of TDM, part 0, with access type and update class. -/
def TDM.fields0 : List FldSpec := [
  FldSpec.one TDM.CTRL_EVT_HOLDOFF .rw .live,
  FldSpec.one TDM.RUNNING .ro .none,
  FldSpec.one TDM.MASK_PENDING .ro .none,
  FldSpec.arr TDM.G_OFFER 4 0x40 (fun _ => .rw) (fun _ => .live),
  FldSpec.arr TDM.G_ECHO 4 0x40 (fun _ => .rw) (fun _ => .static),
  FldSpec.arr TDM.G_LEAD 4 0x40 (fun _ => .rw) (fun _ => .static),
  FldSpec.arr TDM.G_FAMILY 4 0x40 (fun _ => .rw) (fun _ => .static),
  FldSpec.arr TDM.G_RATE 4 0x40 (fun _ => .rw) (fun _ => .static),
  FldSpec.arr TDM.G_CLK_SRC 4 0x40 (fun _ => .rw) (fun _ => .static),
  FldSpec.arr TDM.G_MODE 4 0x40 (fun _ => .rw) (fun _ => .static),
  FldSpec.arr TDM.G_RATE_TOL 4 0x40 (fun _ => .rw) (fun _ => .live),
  FldSpec.arr TDM.G_CLK_STATE 4 0x40 (fun _ => .ro) (fun _ => .none),
  FldSpec.arr TDM.G_ASRC_STATE 4 0x40 (fun _ => .ro) (fun _ => .none),
  FldSpec.arr TDM.G_ASRC_CH 4 0x40 (fun _ => .ro) (fun _ => .none),
  FldSpec.arr TDM.G_FS_MEAS 4 0x40 (fun _ => .ro) (fun _ => .none),
  FldSpec.arr TDM.G_RATIO 4 0x40 (fun _ => .ro) (fun _ => .none)]
/-- Fields of TDM, part 1, with access type and update class. -/
def TDM.fields1 : List FldSpec := [
  FldSpec.arr TDM.G_IN_FILL 4 0x40 (fun _ => .ro) (fun _ => .none),
  FldSpec.arr TDM.G_OUT_FILL 4 0x40 (fun _ => .ro) (fun _ => .none),
  FldSpec.arr TDM.G_CLK_LOSS 4 0x40 (fun _ => .ro) (fun _ => .none),
  FldSpec.arr TDM.G_IN_REPEAT 4 0x40 (fun _ => .ro) (fun _ => .none),
  FldSpec.arr TDM.G_IN_DROP 4 0x40 (fun _ => .ro) (fun _ => .none),
  FldSpec.arr TDM.G_OUT_REPEAT 4 0x40 (fun _ => .ro) (fun _ => .none),
  FldSpec.arr TDM.G_OUT_DROP 4 0x40 (fun _ => .ro) (fun _ => .none),
  FldSpec.arr TDM.G_ASRC_UNLOCK 4 0x40 (fun _ => .ro) (fun _ => .none),
  FldSpec.arr TDM.P_PORT_EN 32 0x80 (fun _ => .rw) (fun _ => .live),
  FldSpec.arr TDM.P_FORMAT 32 0x80 (fun _ => .rw) (fun _ => .static),
  FldSpec.arr TDM.P_TX_IDLE 32 0x80 (fun _ => .rw) (fun _ => .static),
  FldSpec.arr TDM.P_BCLK_POL 32 0x80 (fun _ => .rw) (fun _ => .static),
  FldSpec.arr TDM.P_FSYNC_POL 32 0x80 (fun _ => .rw) (fun _ => .static),
  FldSpec.arr TDM.P_DELAY 32 0x80 (fun _ => .rw) (fun _ => .static),
  FldSpec.arr TDM.P_FS_WIDTH 32 0x80 (fun _ => .rw) (fun _ => .static),
  FldSpec.arr TDM.P_WL 32 0x80 (fun _ => .rw) (fun _ => .static)]
/-- Fields of TDM, part 2, with access type and update class. -/
def TDM.fields2 : List FldSpec := [
  FldSpec.arr TDM.P_SW 32 0x80 (fun _ => .rw) (fun _ => .static),
  FldSpec.arr TDM.P_SLOTS 32 0x80 (fun _ => .rw) (fun _ => .static),
  FldSpec.arr TDM.P_ZC_TIMEOUT 32 0x80 (fun _ => .rw) (fun _ => .live),
  FldSpec.arr TDM.P_RX_MASK 32 0x80 (fun _ => .rw) (fun _ => .frameSync),
  FldSpec.arr TDM.P_TX_MASK 32 0x80 (fun _ => .rw) (fun _ => .frameSync),
  FldSpec.arr TDM.P_TX_MUTE 32 0x80 (fun _ => .rw) (fun _ => .frameSync),
  FldSpec.arr TDM.P_STATE 32 0x80 (fun _ => .ro) (fun _ => .none),
  FldSpec.arr TDM.P_CFG_ERR 32 0x80 (fun _ => .ro) (fun _ => .none),
  FldSpec.arr TDM.P_MASK_PENDING 32 0x80 (fun _ => .ro) (fun _ => .none),
  FldSpec.arr TDM.P_ZC_WAIT 32 0x80 (fun _ => .ro) (fun _ => .none),
  FldSpec.arr TDM.P_RX_MASK_NOW 32 0x80 (fun _ => .ro) (fun _ => .none),
  FldSpec.arr TDM.P_TX_MASK_NOW 32 0x80 (fun _ => .ro) (fun _ => .none),
  FldSpec.arr TDM.P_TX_MUTE_NOW 32 0x80 (fun _ => .ro) (fun _ => .none),
  FldSpec.arr TDM.P_FRAME_NO 32 0x80 (fun _ => .ro) (fun _ => .none),
  FldSpec.arr TDM.P_FRAMES 32 0x80 (fun _ => .ro) (fun _ => .none),
  FldSpec.arr TDM.P_FRAME_ERR 32 0x80 (fun _ => .ro) (fun _ => .none)]
/-- Fields of TDM, part 3, with access type and update class. -/
def TDM.fields3 : List FldSpec := [
  FldSpec.arr TDM.P_ZC_TIMEOUTS 32 0x80 (fun _ => .ro) (fun _ => .none),
  FldSpec.arr TDM.P_HALTS 32 0x80 (fun _ => .ro) (fun _ => .none),
  FldSpec.one TDM.INT_EN .rw .live,
  FldSpec.one TDM.INT .w1c .none]
/-- Every field of TDM. -/
def TDM.fields : List FldSpec := List.flatten [TDM.fields0, TDM.fields1, TDM.fields2, TDM.fields3]
/-- Fields of AMP, part 0, with access type and update class. -/
def AMP.fields0 : List FldSpec := [
  FldSpec.one AMP.CTRL_EVT_HOLDOFF .rw .live,
  FldSpec.one AMP.CTRL_IDLE_HIZ .rw .static,
  FldSpec.one AMP.STATUS_PWM_OK .ro .none,
  FldSpec.one AMP.STATUS_LOCKED_OUT .ro .none,
  FldSpec.one AMP.STATUS_SWITCHING .ro .none,
  FldSpec.one AMP.P_MIN .rw .static,
  FldSpec.one AMP.P_MAX .rw .static,
  FldSpec.one AMP.P_PREF .rw .static,
  FldSpec.one AMP.P_STEP .rw .static,
  FldSpec.one AMP.GUARD .rw .static,
  FldSpec.one AMP.FREQ_RUN .wo .live,
  FldSpec.one AMP.FREQ_BUSY .ro .none,
  FldSpec.one AMP.FREQ_CLEAR .ro .none,
  FldSpec.one AMP.FREQ_WORST .ro .none,
  FldSpec.one AMP.FREQ_SEL_P .ro .none,
  FldSpec.one AMP.FREQ_SEL_MARGIN .ro .none]
/-- Fields of AMP, part 1, with access type and update class. -/
def AMP.fields1 : List FldSpec := [
  FldSpec.arr AMP.CAR_EN 16 4 (fun _ => .rw) (fun _ => .static),
  FldSpec.arr AMP.CAR_FREQ 16 4 (fun _ => .rw) (fun _ => .static),
  FldSpec.arr AMP.CAR_HALFW 16 4 (fun _ => .rw) (fun _ => .static),
  FldSpec.arr AMP.SEN_WARN 4 0x20 (fun _ => .rw) (fun _ => .live),
  FldSpec.arr AMP.SEN_SHUT 4 0x20 (fun _ => .rw) (fun _ => .live),
  FldSpec.arr AMP.SEN_REC 4 0x20 (fun _ => .rw) (fun _ => .live),
  FldSpec.arr AMP.SEN_DIR 4 0x20 (fun _ => .rw) (fun _ => .static),
  FldSpec.arr AMP.SEN_G_MIN 4 0x20 (fun _ => .rw) (fun _ => .live),
  FldSpec.arr AMP.SEN_H 4 0x20 (fun _ => .ro) (fun _ => .none),
  FldSpec.arr AMP.SEN_RATIO 4 0x20 (fun _ => .ro) (fun _ => .none),
  FldSpec.arr AMP.SEN_GAIN_Q 4 0x20 (fun _ => .ro) (fun _ => .none),
  FldSpec.arr AMP.SEN_NTC_FAULT 4 0x20 (fun _ => .ro) (fun _ => .none),
  FldSpec.arr AMP.CH_EN 8 0x100 (fun _ => .rw) (fun _ => .live),
  FldSpec.arr AMP.CH_MUTE 8 0x100 (fun _ => .rw) (fun _ => .zeroCross),
  FldSpec.arr AMP.CH_MOD 8 0x100 (fun _ => .rw) (fun _ => .static),
  FldSpec.arr AMP.CH_PHASE 8 0x100 (fun _ => .rw) (fun _ => .static)]
/-- Fields of AMP, part 2, with access type and update class. -/
def AMP.fields2 : List FldSpec := [
  FldSpec.arr AMP.CH_FLT_ACTION 8 0x100 (fun _ => .rw) (fun _ => .static),
  FldSpec.arr AMP.CH_FLT_FILT 8 0x100 (fun _ => .rw) (fun _ => .static),
  FldSpec.arr AMP.CH_DEADTIME 8 0x100 (fun _ => .rw) (fun _ => .static),
  FldSpec.arr AMP.CH_VGAIN 8 0x100 (fun _ => .rw) (fun _ => .static),
  FldSpec.arr AMP.CH_DMAX 8 0x100 (fun _ => .rw) (fun _ => .static),
  FldSpec.arr AMP.CH_RETRY_N 8 0x100 (fun _ => .rw) (fun _ => .live),
  FldSpec.arr AMP.CH_SHORT_N 8 0x100 (fun _ => .rw) (fun _ => .live),
  FldSpec.arr AMP.CH_ILIM 8 0x100 (fun _ => .rw) (fun _ => .live),
  FldSpec.arr AMP.CH_RETRY_MS 8 0x100 (fun _ => .rw) (fun _ => .live),
  FldSpec.arr AMP.CH_CLEAR_MS 8 0x100 (fun _ => .rw) (fun _ => .live),
  FldSpec.arr AMP.CH_START_RAMP 8 0x100 (fun _ => .rw) (fun _ => .live),
  FldSpec.arr AMP.CH_ZC_TIMEOUT 8 0x100 (fun _ => .rw) (fun _ => .live),
  FldSpec.arr AMP.CH_MUTE_RAMP 8 0x100 (fun _ => .rw) (fun _ => .live),
  FldSpec.arr AMP.CH_DC_THR 8 0x100 (fun _ => .rw) (fun _ => .live),
  FldSpec.arr AMP.CH_DC_TIME 8 0x100 (fun _ => .rw) (fun _ => .live),
  FldSpec.arr AMP.CH_OFS_MAX 8 0x100 (fun _ => .rw) (fun _ => .static)]
/-- Fields of AMP, part 3, with access type and update class. -/
def AMP.fields3 : List FldSpec := [
  FldSpec.arr AMP.CH_BOOT_CYC 8 0x100 (fun _ => .rw) (fun _ => .static),
  FldSpec.arr AMP.CH_CAUSE 8 0x100 (fun _ => .ro) (fun _ => .none),
  FldSpec.arr AMP.CH_RETRY_CNT 8 0x100 (fun _ => .ro) (fun _ => .none),
  FldSpec.arr AMP.CH_CFG_ERR 8 0x100 (fun _ => .ro) (fun _ => .none),
  FldSpec.arr AMP.CH_NTC_FAULT 8 0x100 (fun _ => .ro) (fun _ => .none),
  FldSpec.arr AMP.CH_QUENCH_ACTIVE 8 0x100 (fun _ => .ro) (fun _ => .none),
  FldSpec.arr AMP.CH_LIMITING 8 0x100 (fun _ => .ro) (fun _ => .none),
  FldSpec.arr AMP.CH_FLT_PIN 8 0x100 (fun _ => .ro) (fun _ => .none),
  FldSpec.arr AMP.CH_ZC_WAIT 8 0x100 (fun _ => .ro) (fun _ => .none),
  FldSpec.arr AMP.CH_MUTED 8 0x100 (fun _ => .ro) (fun _ => .none),
  FldSpec.arr AMP.CH_STATE 8 0x100 (fun _ => .ro) (fun _ => .none),
  FldSpec.arr AMP.CH_GAIN_Q 8 0x100 (fun _ => .ro) (fun _ => .none),
  FldSpec.arr AMP.CH_OFS_I 8 0x100 (fun _ => .ro) (fun _ => .none),
  FldSpec.arr AMP.CH_OFS_V 8 0x100 (fun _ => .ro) (fun _ => .none),
  FldSpec.arr AMP.CH_UNLOCK 8 0x100 (fun _ => .wo) (fun _ => .live),
  FldSpec.arr AMP.CH_KP_I 8 0x100 (fun _ => .rw) (fun _ => .swap)]
/-- Fields of AMP, part 4, with access type and update class. -/
def AMP.fields4 : List FldSpec := [
  FldSpec.arr AMP.CH_KI_I 8 0x100 (fun _ => .rw) (fun _ => .swap),
  FldSpec.arr AMP.CH_FF 8 0x100 (fun _ => .rw) (fun _ => .swap),
  FldSpec.arr AMP.CH_COEF_PEND 8 0x100 (fun _ => .ro) (fun _ => .none),
  FldSpec.arr AMP.CH_SWAP 8 0x100 (fun _ => .wo) (fun _ => .pwmCycle),
  FldSpec.arr AMP.CH_LIMIT_CYC 8 0x100 (fun _ => .ro) (fun _ => .none),
  FldSpec.arr AMP.CH_SHORTS 8 0x100 (fun _ => .ro) (fun _ => .none),
  FldSpec.arr AMP.CH_EXT_FAULTS 8 0x100 (fun _ => .ro) (fun _ => .none),
  FldSpec.arr AMP.CH_LOCKOUTS 8 0x100 (fun _ => .ro) (fun _ => .none),
  FldSpec.arr AMP.CH_THERMAL_SHUTS 8 0x100 (fun _ => .ro) (fun _ => .none),
  FldSpec.arr AMP.CH_DC_FAULTS 8 0x100 (fun _ => .ro) (fun _ => .none),
  FldSpec.arr AMP.CH_ZC_TIMEOUTS 8 0x100 (fun _ => .ro) (fun _ => .none),
  FldSpec.arr AMP.CH_DUTY_CLAMP 8 0x100 (fun _ => .ro) (fun _ => .none),
  FldSpec.arr AMP.CH_RESTARTS 8 0x100 (fun _ => .ro) (fun _ => .none),
  FldSpec.one AMP.INT_EN .rw .live,
  FldSpec.one AMP.INT .w1c .none]
/-- Fields of AMP, part 5, with access type and update class. -/
def AMP.fields5 : List FldSpec := (List.range 8).map (fun n => FldSpec.arr (AMP.CH_BQ n) 15 4 (fun _ => .rw) (fun _ => .swap))
/-- Every field of AMP. -/
def AMP.fields : List FldSpec := List.flatten [AMP.fields0, AMP.fields1, AMP.fields2, AMP.fields3, AMP.fields4, AMP.fields5]
/-- Fields of entry i of ROUTE, part 0, with access type and update class. -/
def ROUTE.entry0 (i : Nat) : List FldSpec := [
  FldSpec.one (ROUTE.EN i) .rw .commit,
  FldSpec.one (ROUTE.DITHER i) .rw .commit,
  FldSpec.one (ROUTE.SRC i) .rw .commit,
  FldSpec.one (ROUTE.GAIN i) .rw .commit,
  FldSpec.one (ROUTE.RAMP i) .rw .commit,
  FldSpec.one (ROUTE.GAIN_NOW i) .ro .none]
/-- Every field of entry i of ROUTE. -/
def ROUTE.entry (i : Nat) : List FldSpec := List.flatten [ROUTE.entry0 i]
/-- Fields of entry i of TERM, part 0, with access type and update class. -/
def TERM.entry0 (i : Nat) : List FldSpec := [
  FldSpec.one (TERM.SRC i) .rw .commit,
  FldSpec.one (TERM.GAIN i) .rw .commit,
  FldSpec.one (TERM.RAMP i) .rw .commit,
  FldSpec.one (TERM.GAIN_NOW i) .ro .none]
/-- Every field of entry i of TERM. -/
def TERM.entry (i : Nat) : List FldSpec := List.flatten [TERM.entry0 i]
/-- Fields of entry i of BUS, part 0, with access type and update class. -/
def BUS.entry0 (i : Nat) : List FldSpec := [
  FldSpec.one (BUS.EN i) .rw .commit,
  FldSpec.one (BUS.TIER i) .rw .commit,
  FldSpec.one (BUS.TERM_COUNT i) .rw .commit,
  FldSpec.one (BUS.TERM_BASE i) .rw .commit]
/-- Every field of entry i of BUS. -/
def BUS.entry (i : Nat) : List FldSpec := List.flatten [BUS.entry0 i]

end Sys2Proof.Machine
end

