-- ==== Sys2Proof/Machine/RegsNet.lean ====
section
/-! DEFINITION. Registers of TIME, CLK and the four network ports (chapters 02 to 04).
Each field is written from the register tables of spec/ (the rule is named at each): its offset in the window, lowest bit,
width and reset value. Resets the spec leaves to the part, the fuses, the MRAM, the AON domain or a strap are those the
assumption log names (entry 1). -/

namespace Sys2Proof.Machine

/-! ## TIME -/

/-- Bit of TIME.INT (R85): Either port's grandmaster changed -/
def TIME.INT_GM_CHANGED : Nat := 10
/-- Bit of TIME.INT (R85): R82 -/
def TIME.INT_SET_TIMEOUT : Nat := 9
/-- Bit of TIME.INT (R85): R63, either port -/
def TIME.INT_TS_OVF : Nat := 8
/-- Bit of TIME.INT (R85): R75 -/
def TIME.INT_SETTLE_EXIT : Nat := 7
/-- Bit of TIME.INT (R85): R75 -/
def TIME.INT_MASTER_LOST : Nat := 6
/-- Bit of TIME.INT (R85): R75 -/
def TIME.INT_PORT_SWITCH : Nat := 5
/-- Bit of TIME.INT (R85): Path change confirmed on either port -/
def TIME.INT_ASYMMETRY_SUSPECT : Nat := 4
/-- Bit of TIME.INT (R85): Counter stepped or loaded -/
def TIME.INT_STEPPED : Nat := 3
/-- Bit of TIME.INT (R85): TRACK left for ACQUIRE -/
def TIME.INT_UNLOCKED : Nat := 2
/-- Bit of TIME.INT (R85): TRACK entered -/
def TIME.INT_LOCKED : Nat := 1
/-- Bit of TIME.INT (R85): Either port changed PORT_STATE -/
def TIME.INT_PTP_STATE : Nat := 0
/-- R85: Allows the acquisition step of R74 -/
def TIME.CTRL_STEP_EN : Fld := ⟨0x80000, 7, 1, 1⟩
/-- R85: 0 MPA, 1 MPB (R80) -/
def TIME.CTRL_SERVO_PORT_PREF : Fld := ⟨0x80000, 4, 1, 0⟩
/-- R85: Permits switching between ports (R75) -/
def TIME.CTRL_AUTO_SWITCH : Fld := ⟨0x80000, 3, 1, 1⟩
/-- R85: 0 AUTO, 1 FOLLOW (R71) -/
def TIME.CTRL_MODE : Fld := ⟨0x80000, 0, 1, 0⟩
/-- R85: 0 MONITOR, 1 ACQUIRE, 2 TRACK, 3 PATH_SETTLE, 4 HOLD -/
def TIME.STATUS_SERVO_STATE : Fld := ⟨0x80004, 16, 3, 0⟩
/-- R85: 0 MPA, 1 MPB -/
def TIME.STATUS_ACTIVE_PORT : Fld := ⟨0x80004, 8, 1, 0⟩
/-- R85: INCR driven by the servo -/
def TIME.STATUS_DISCIPLINED : Fld := ⟨0x80004, 3, 1, 0⟩
/-- R85: APPLY_PPS load armed -/
def TIME.STATUS_SET_PENDING : Fld := ⟨0x80004, 2, 1, 0⟩
/-- R85: Servo in TRACK -/
def TIME.STATUS_LOCKED : Fld := ⟨0x80004, 1, 1, 0⟩
/-- R85: R74 -/
def TIME.STATUS_MEDIA_VALID : Fld := ⟨0x80004, 0, 1, 0⟩
/-- R85: Sub-ns fraction; the read takes the snapshot of R67 -/
def TIME.NOW_FRAC : Fld := ⟨0x80010, 0, 16, 0⟩
/-- R85: Latched nanoseconds -/
def TIME.NOW_NS : Fld := ⟨0x80014, 0, 30, 0⟩
/-- R85: Latched seconds [31:0] -/
def TIME.NOW_SEC_LO : Fld := ⟨0x80018, 0, 32, 0⟩
/-- R85: Latched seconds [47:32] -/
def TIME.NOW_SEC_HI : Fld := ⟨0x8001C, 0, 16, 0⟩
/-- R85: Short time at the read (R68) -/
def TIME.SHORT : Fld := ⟨0x80020, 0, 32, 0⟩
/-- R85: MEDIA48 [31:0]; latches HI -/
def TIME.MEDIA48_LO : Fld := ⟨0x80024, 0, 32, 0⟩
/-- R85: MEDIA48 [63:32] -/
def TIME.MEDIA48_HI : Fld := ⟨0x80028, 0, 32, 0⟩
/-- R85: MEDIA44 [31:0]; latches HI -/
def TIME.MEDIA44_LO : Fld := ⟨0x8002C, 0, 32, 0⟩
/-- R85: MEDIA44 [63:32] -/
def TIME.MEDIA44_HI : Fld := ⟨0x80030, 0, 32, 0⟩
/-- R85: INCR [31:0]; latches HI -/
def TIME.INCR_LO : Fld := ⟨0x80034, 0, 32, 0x40000000⟩
/-- R85: INCR [35:32] -/
def TIME.INCR_HI : Fld := ⟨0x80038, 0, 4, 1⟩
/-- R85: Rate of the INCR in force against nominal, signed ppt, rounded to the nearest ppt, saturating; not the correction requested (R66) -/
def TIME.FREQ_ADJ : Fld := ⟨0x8003C, 0, 32, 0⟩
/-- R85: Nanoseconds to load -/
def TIME.LOAD_SET_NS : Fld := ⟨0x80040, 0, 30, 0⟩
/-- R85: Seconds [31:0] to load -/
def TIME.LOAD_SET_SEC_LO : Fld := ⟨0x80044, 0, 32, 0⟩
/-- R85: Seconds [47:32] to load -/
def TIME.LOAD_SET_SEC_HI : Fld := ⟨0x80048, 0, 16, 0⟩
/-- R85: Drops a pending APPLY_PPS -/
def TIME.LOAD_CANCEL : Fld := ⟨0x8004C, 6, 1, 0⟩
/-- R85: REFIN index for APPLY_PPS -/
def TIME.LOAD_PPS_SRC : Fld := ⟨0x8004C, 4, 2, 0⟩
/-- R85: Permits a load while MEDIA_VALID = 1 -/
def TIME.LOAD_FORCE : Fld := ⟨0x8004C, 3, 1, 0⟩
/-- R85: Sets MEDIA_VALID -/
def TIME.LOAD_VALIDATE : Fld := ⟨0x8004C, 2, 1, 0⟩
/-- R85: Load at the next 1PPS edge -/
def TIME.LOAD_APPLY_PPS : Fld := ⟨0x8004C, 1, 1, 0⟩
/-- R85: Load now -/
def TIME.LOAD_APPLY : Fld := ⟨0x8004C, 0, 1, 0⟩
/-- R85: ACQUIRE g_p, Q0.16 -/
def TIME.SERVO_ACQ_KP : Fld := ⟨0x80050, 16, 16, 0x4000⟩
/-- R85: ACQUIRE g_i, Q0.16 -/
def TIME.SERVO_ACQ_KI : Fld := ⟨0x80050, 0, 16, 0x400⟩
/-- R85: TRACK g_p, Q0.16 -/
def TIME.SERVO_TRK_KP : Fld := ⟨0x80054, 16, 16, 0x800⟩
/-- R85: TRACK g_i, Q0.16 -/
def TIME.SERVO_TRK_KI : Fld := ⟨0x80054, 0, 16, 0x20⟩
/-- R85: ns, R74 -/
def TIME.SERVO_THR_STEP : Fld := ⟨0x80058, 0, 32, 0x2710⟩
/-- R85: Exchanges, 1–255; 0 is treated as 1 -/
def TIME.SERVO_LOCK_N : Fld := ⟨0x8005C, 16, 8, 0x10⟩
/-- R85: ns -/
def TIME.SERVO_THR_LOCK : Fld := ⟨0x8005C, 0, 16, 0x64⟩
/-- R85: ns -/
def TIME.SERVO_THR_UNLOCK : Fld := ⟨0x80060, 0, 32, 0x3E8⟩
/-- R85: ppt; values above 10,000,000 act as 10,000,000 -/
def TIME.SERVO_SLEW_MAX : Fld := ⟨0x80064, 0, 24, 0x989680⟩
/-- R85: ppm, 1–200; 0 acts as 1, values above 200 act as 200 -/
def TIME.SERVO_FREQ_RANGE : Fld := ⟨0x80068, 0, 8, 0x64⟩
/-- R85: ns, R77 -/
def TIME.SERVO_DLY_THR : Fld := ⟨0x8006C, 16, 16, 0x1F4⟩
/-- R85: ns, R77 -/
def TIME.SERVO_OFS_THR : Fld := ⟨0x8006C, 0, 16, 0x1F4⟩
/-- R85: s in PATH_SETTLE before exit; 0 never -/
def TIME.SERVO_PC_TIMEOUT : Fld := ⟨0x80070, 16, 16, 0x3C⟩
/-- R85: ns, R77 -/
def TIME.SERVO_PC_MATCH : Fld := ⟨0x80070, 8, 8, 0x64⟩
/-- R85: Confirming exchanges, 1–15; 0 acts as 1 -/
def TIME.SERVO_PC_COUNT : Fld := ⟨0x80070, 4, 4, 3⟩
/-- R85: Host resume from PATH_SETTLE -/
def TIME.SERVO_PC_RESUME : Fld := ⟨0x80070, 2, 1, 0⟩
/-- R85: Enables the detector -/
def TIME.SERVO_PC_EN : Fld := ⟨0x80070, 0, 1, 1⟩
/-- R85: domainNumber -/
def TIME.PORT_DOMAIN (p : Nat) : Fld := ⟨0x80100 + 0x80 * p, 24, 8, 0⟩
/-- R85: 0 default, 1 ST 2059-2, 2 AES67 -/
def TIME.PORT_PROFILE (p : Nat) : Fld := ⟨0x80100 + 0x80 * p, 20, 4, 0⟩
/-- R85: slaveOnly -/
def TIME.PORT_SLAVE_ONLY (p : Nat) : Fld := ⟨0x80100 + 0x80 * p, 19, 1, 0⟩
/-- R85: R60 -/
def TIME.PORT_ONE_STEP (p : Nat) : Fld := ⟨0x80100 + 0x80 * p, 18, 1, 0⟩
/-- R85: Transport -/
def TIME.PORT_IPV6 (p : Nat) : Fld := ⟨0x80100 + 0x80 * p, 17, 1, 0⟩
/-- R85: Instance running -/
def TIME.PORT_ENABLE (p : Nat) : Fld := ⟨0x80100 + 0x80 * p, 16, 1, 0⟩
/-- R85: Signed -/
def TIME.PORT_LOG_SYNC (p : Nat) : Fld := ⟨0x80100 + 0x80 * p, 8, 8, 0⟩
/-- R85: Signed -/
def TIME.PORT_LOG_DREQ (p : Nat) : Fld := ⟨0x80100 + 0x80 * p, 0, 8, 0⟩
/-- R85: R55 -/
def TIME.PORT_STATE (p : Nat) : Fld := ⟨0x80104 + 0x80 * p, 0, 4, 1⟩
/-- R85: Signed, 2^−16 ns; stamps captured after the write -/
def TIME.PORT_RX_LAT (p : Nat) : Fld := ⟨0x80108 + 0x80 * p, 0, 32, 0⟩
/-- R85: Signed, 2^−16 ns; stamps captured after the write -/
def TIME.PORT_TX_LAT (p : Nat) : Fld := ⟨0x8010C + 0x80 * p, 0, 32, 0⟩
/-- R85: Signed, 2^−16 ns -/
def TIME.PORT_ASYM (p : Nat) : Fld := ⟨0x80110 + 0x80 * p, 0, 32, 0⟩
/-- R85: Last θ, non-negative fractional part in 2^−16 ns, so that θ = OFS_NS + OFS_FRAC × 2^−16 ns; latches OFS_NS -/
def TIME.PORT_OFS_FRAC (p : Nat) : Fld := ⟨0x80114 + 0x80 * p, 0, 16, 0⟩
/-- R85: Last θ, signed ns, the floor of θ: −1.5 ns reads −2 with OFS_FRAC 0x8000; saturating -/
def TIME.PORT_OFS_NS (p : Nat) : Fld := ⟨0x80118 + 0x80 * p, 0, 32, 0⟩
/-- R85: Last mean path delay, non-negative fractional part in 2^−16 ns, as OFS_FRAC; latches MPD_NS -/
def TIME.PORT_MPD_FRAC (p : Nat) : Fld := ⟨0x8011C + 0x80 * p, 0, 16, 0⟩
/-- R85: Last mean path delay, signed ns, the floor, as OFS_NS; saturating -/
def TIME.PORT_MPD_NS (p : Nat) : Fld := ⟨0x80120 + 0x80 * p, 0, 32, 0⟩
/-- R86: A Sync from the parent is stamped -/
def TIME.PORT_SYNC_RX (p : Nat) : Fld := ⟨0x80124 + 0x80 * p, 0, 32, 0⟩
/-- R86: A Follow_Up is matched to its Sync -/
def TIME.PORT_FUP_RX (p : Nat) : Fld := ⟨0x80128 + 0x80 * p, 0, 32, 0⟩
/-- R86: The port's own Delay_Req departs -/
def TIME.PORT_DREQ_TX (p : Nat) : Fld := ⟨0x8012C + 0x80 * p, 0, 32, 0⟩
/-- R86: A Delay_Resp is matched to its Delay_Req -/
def TIME.PORT_DRESP_RX (p : Nat) : Fld := ⟨0x80130 + 0x80 * p, 0, 32, 0⟩
/-- R86: A Delay_Req is accepted as MASTER -/
def TIME.PORT_DREQ_RX (p : Nat) : Fld := ⟨0x80134 + 0x80 * p, 0, 32, 0⟩
/-- R86: A Delay_Req is dropped under R57 -/
def TIME.PORT_DREQ_DROP (p : Nat) : Fld := ⟨0x80138 + 0x80 * p, 0, 32, 0⟩
/-- R86: An Announce is received in the port's domain -/
def TIME.PORT_ANN_RX (p : Nat) : Fld := ⟨0x8013C + 0x80 * p, 0, 32, 0⟩
/-- R86: An exchange of the port is applied by the servo or passed to monitoring (R77), whether or not the port is active -/
def TIME.PORT_EXCH_USED (p : Nat) : Fld := ⟨0x80140 + 0x80 * p, 0, 32, 0⟩
/-- R86: An exchange is discarded under R63, R64, R65 or R78 -/
def TIME.PORT_EXCH_DISCARD (p : Nat) : Fld := ⟨0x80144 + 0x80 * p, 0, 32, 0⟩
/-- R86: An exchange is held as suspect under R78 -/
def TIME.PORT_EXCH_HELD (p : Nat) : Fld := ⟨0x80148 + 0x80 * p, 0, 32, 0⟩
/-- R86: A stamp is discarded under R63 -/
def TIME.PORT_TS_OVF (p : Nat) : Fld := ⟨0x8014C + 0x80 * p, 0, 32, 0⟩
/-- R86: A path change is confirmed under R77 -/
def TIME.PORT_PC_DETECT (p : Nat) : Fld := ⟨0x80150 + 0x80 * p, 0, 32, 0⟩
/-- R85: Interrupt enables, laid out as INT -/
def TIME.INT_EN : Fld := ⟨0x8000C, 0, 11, 0x7FF⟩
/-- R85: Interrupt flags; bits: GM_CHANGED [10], SET_TIMEOUT [9], TS_OVF [8], SETTLE_EXIT [7], MASTER_LOST [6], PORT_SWITCH [5], ASYMMETRY_SUSPECT [4], STEPPED -/
def TIME.INT : Fld := ⟨0x80008, 0, 11, 0⟩

/-! ## CLK -/

/-- Bit of CLK.INT (R120): R89 -/
def CLK.INT_XO_LOST : Nat := 9
/-- Bit of CLK.INT (R120): R116 -/
def CLK.INT_MISALIGN : Nat := 8
/-- Bit of CLK.INT (R120): R110 -/
def CLK.INT_HO_SPEC : Nat := 7
/-- Bit of CLK.INT (R120): R101 -/
def CLK.INT_SWITCH : Nat := 6
/-- Bit of CLK.INT (R120): R103 -/
def CLK.INT_LOCK_LOSS : Nat := 5
/-- Bit of CLK.INT (R120): R103 -/
def CLK.INT_STATE : Nat := 4
/-- Bit of CLK.INT (R120): R100 -/
def CLK.INT_DISAGREE : Nat := 3
/-- Bit of CLK.INT (R120): R97 -/
def CLK.INT_SUSPECT : Nat := 2
/-- Bit of CLK.INT (R120): R95 -/
def CLK.INT_DISQ : Nat := 1
/-- Bit of CLK.INT (R120): R95 -/
def CLK.INT_QUAL : Nat := 0
/-- R120: R94 -/
def CLK.CTRL_FM_BASE : Fld := ⟨0xA0000, 1, 1, 0⟩
/-- R120: R113 -/
def CLK.CTRL_PINS_EN : Fld := ⟨0xA0000, 0, 1, 1⟩
/-- R120: R89 -/
def CLK.XO_OK : Fld := ⟨0xA0004, 0, 1, 1⟩
/-- R120: One bit per reference -/
def CLK.SUM_SUSPECT : Fld := ⟨0xA0010, 24, 8, 0⟩
/-- R120: One bit per reference -/
def CLK.SUM_QUALIFIED : Fld := ⟨0xA0010, 16, 8, 0⟩
/-- R120: One bit per reference -/
def CLK.SUM_ACTIVE : Fld := ⟨0xA0010, 8, 8, 0⟩
/-- R120: One bit per reference -/
def CLK.SUM_ENABLED : Fld := ⟨0xA0010, 0, 8, 0x40⟩
/-- R120: R110 -/
def CLK.TRACE : Fld := ⟨0xA0014, 0, 8, 0⟩
/-- R120: ppt, R100 -/
def CLK.DISAGREE_THR : Fld := ⟨0xA0018, 0, 27, 0x1E8480⟩
/-- R121: Reference 7 only (R90); ignored elsewhere -/
def CLK.REF_SRC (n : Nat) : Fld := ⟨0xA0100 + 0x40 * n, 12, 4, 0⟩
/-- R121: 0 BUILD_OUT, 1 ALIGN; fixed modes read their value and ignore writes -/
def CLK.REF_PHASE_MODE (n : Nat) : Fld := ⟨0xA0100 + 0x40 * n, 8, 1, if n = 4 ∨ n = 5 then 0 else 1⟩
/-- R121: 0 rising, 1 falling -/
def CLK.REF_EDGE (n : Nat) : Fld := ⟨0xA0100 + 0x40 * n, 7, 1, 0⟩
/-- R121: R91; indices 0–3 only -/
def CLK.REF_TYPE (n : Nat) : Fld := ⟨0xA0100 + 0x40 * n, 4, 3, 0⟩
/-- R121: R95 -/
def CLK.REF_ENABLE (n : Nat) : Fld := ⟨0xA0100 + 0x40 * n, 0, 1, if n = 6 then 1 else 0⟩
/-- R121: Hz, R91 -/
def CLK.REF_FREQ (n : Nat) : Fld := ⟨0xA0104 + 0x40 * n, 0, 25, 0xBB80⟩
/-- R121: Signed ns, R102 -/
def CLK.REF_PHASE_OFS (n : Nat) : Fld := ⟨0xA0108 + 0x40 * n, 0, 32, 0⟩
/-- R121: ppt; values above 100,000,000 act as 100,000,000 -/
def CLK.REF_ACCEPT (n : Nat) : Fld := ⟨0xA010C + 0x40 * n, 0, 27, 0x7A1200⟩
/-- R121: ppt; capped as ACCEPT; R96 -/
def CLK.REF_REJECT (n : Nat) : Fld := ⟨0xA0110 + 0x40 * n, 0, 27, 0xB71B00⟩
/-- R121: Units of 100 ms -/
def CLK.REF_QUAL_TIME (n : Nat) : Fld := ⟨0xA0114 + 0x40 * n, 16, 16, 0x14⟩
/-- R121: ms -/
def CLK.REF_PERSIST (n : Nat) : Fld := ⟨0xA0114 + 0x40 * n, 0, 16, 0x64⟩
/-- R121: R98 -/
def CLK.REF_DRIFT_ACT (n : Nat) : Fld := ⟨0xA0118 + 0x40 * n, 31, 1, 0⟩
/-- R121: ppt/s; 0 disables -/
def CLK.REF_DRIFT_LIM (n : Nat) : Fld := ⟨0xA0118 + 0x40 * n, 0, 24, 0x32⟩
/-- R121: 0 DISABLED, 1 INACTIVE, 2 QUALIFYING, 3 QUALIFIED -/
def CLK.REF_QSTATE (n : Nat) : Fld := ⟨0xA011C + 0x40 * n, 16, 3, 0⟩
/-- R121: As byte 8 of event 0x0302; 0 none -/
def CLK.REF_LAST_CAUSE (n : Nat) : Fld := ⟨0xA011C + 0x40 * n, 12, 4, 0⟩
/-- R121: R97 -/
def CLK.REF_SUSPECT (n : Nat) : Fld := ⟨0xA011C + 0x40 * n, 8, 1, 0⟩
/-- R121: R91 -/
def CLK.REF_CFG_ERR (n : Nat) : Fld := ⟨0xA011C + 0x40 * n, 4, 1, 0⟩
/-- R121: Latest measurement outside ±REJECT -/
def CLK.REF_OUT_REJECT (n : Nat) : Fld := ⟨0xA011C + 0x40 * n, 2, 1, 0⟩
/-- R121: Latest measurement inside ±ACCEPT -/
def CLK.REF_IN_ACCEPT (n : Nat) : Fld := ⟨0xA011C + 0x40 * n, 1, 1, 0⟩
/-- R121: R93 -/
def CLK.REF_ACTIVE (n : Nat) : Fld := ⟨0xA011C + 0x40 * n, 0, 1, 0⟩
/-- R121: Signed ppt, saturating -/
def CLK.REF_FREQ_OFS (n : Nat) : Fld := ⟨0xA0120 + 0x40 * n, 0, 32, 0⟩
/-- R121: Signed ppt/s, saturating -/
def CLK.REF_DRIFT_RATE (n : Nat) : Fld := ⟨0xA0124 + 0x40 * n, 0, 32, 0⟩
/-- R123: R103 -/
def CLK.DPLL_ENABLE (d : Nat) : Fld := ⟨0xA0400 + 0x80 * d, 31, 1, if d = 0 then 1 else 0⟩
/-- R123: R99 -/
def CLK.DPLL_REVERTIVE (d : Nat) : Fld := ⟨0xA0400 + 0x80 * d, 28, 1, 0⟩
/-- R123: s -/
def CLK.DPLL_WTR (d : Nat) : Fld := ⟨0xA0400 + 0x80 * d, 20, 8, 10⟩
/-- R123: R104 -/
def CLK.DPLL_TRK_BW (d : Nat) : Fld := ⟨0xA0400 + 0x80 * d, 16, 4, 4⟩
/-- R123: R104 -/
def CLK.DPLL_ACQ_BW (d : Nat) : Fld := ⟨0xA0400 + 0x80 * d, 12, 4, 8⟩
/-- R123: R99; the write itself starts the evaluation (R101) -/
def CLK.DPLL_MAN_REF (d : Nat) : Fld := ⟨0xA0400 + 0x80 * d, 8, 3, 0⟩
/-- R123: 0 AUTO, 1 MANUAL, 2 HOLDOVER, 3 FREERUN; the write itself starts the evaluation (R101) -/
def CLK.DPLL_MODE (d : Nat) : Fld := ⟨0xA0400 + 0x80 * d, 4, 2, 0⟩
/-- R123: 0 48 kHz, 1 44.1 kHz (R108) -/
def CLK.DPLL_FAMILY (d : Nat) : Fld := ⟨0xA0400 + 0x80 * d, 0, 1, 0⟩
/-- R123: Rank of reference n; 8–15 exclude it -/
def CLK.DPLL_RANK (d n : Nat) : Fld := ⟨0xA0404 + 0x80 * d, 4 * n, 4, if d = 0 ∧ n = 6 then 0 else 15⟩
/-- R123: s -/
def CLK.DPLL_HO_EXCL (d : Nat) : Fld := ⟨0xA0408 + 0x80 * d, 24, 8, 10⟩
/-- R123: s; 0 acts as 1 -/
def CLK.DPLL_HO_AVG (d : Nat) : Fld := ⟨0xA0408 + 0x80 * d, 0, 16, 0x12C⟩
/-- R123: s; 0 means never in specification -/
def CLK.DPLL_HO_SPEC_TIME (d : Nat) : Fld := ⟨0xA040C + 0x80 * d, 0, 32, 0⟩
/-- R123: Signed ppt, R111 -/
def CLK.DPLL_STEER (d : Nat) : Fld := ⟨0xA0410 + 0x80 * d, 0, 32, 0⟩
/-- R123: ms -/
def CLK.DPLL_LOCK_TIME (d : Nat) : Fld := ⟨0xA0414 + 0x80 * d, 16, 16, 0x3E8⟩
/-- R123: ns -/
def CLK.DPLL_LOCK_THR (d : Nat) : Fld := ⟨0xA0414 + 0x80 * d, 0, 16, 0x64⟩
/-- R123: ns -/
def CLK.DPLL_UNLOCK_THR (d : Nat) : Fld := ⟨0xA0418 + 0x80 * d, 0, 32, 0x3E8⟩
/-- R123: ppt; capped at 10,000,000 for d = 0 and 100,000,000 otherwise -/
def CLK.DPLL_PULL_MAX (d : Nat) : Fld := ⟨0xA041C + 0x80 * d, 0, 27, 0x989680⟩
/-- R123: Code in force -/
def CLK.DPLL_BW (d : Nat) : Fld := ⟨0xA0420 + 0x80 * d, 16, 4, 8⟩
/-- R123: R100 -/
def CLK.DPLL_REF_DISAGREE (d : Nat) : Fld := ⟨0xA0420 + 0x80 * d, 14, 1, 0⟩
/-- R123: R110 -/
def CLK.DPLL_HO_IN_SPEC (d : Nat) : Fld := ⟨0xA0420 + 0x80 * d, 13, 1, 0⟩
/-- R123: R110 -/
def CLK.DPLL_HO_VALID (d : Nat) : Fld := ⟨0xA0420 + 0x80 * d, 12, 1, 0⟩
/-- R123: R99 -/
def CLK.DPLL_WTR_RUN (d : Nat) : Fld := ⟨0xA0420 + 0x80 * d, 11, 1, 0⟩
/-- R123: Selected index, valid while SEL_VALID = 1 -/
def CLK.DPLL_SEL_REF (d : Nat) : Fld := ⟨0xA0420 + 0x80 * d, 8, 3, 0⟩
/-- R123: A reference is selected -/
def CLK.DPLL_SEL_VALID (d : Nat) : Fld := ⟨0xA0420 + 0x80 * d, 7, 1, 0⟩
/-- R123: 0 FREERUN, 1 ACQUIRE, 2 LOCKED, 3 HOLDOVER -/
def CLK.DPLL_STATE (d : Nat) : Fld := ⟨0xA0420 + 0x80 * d, 0, 3, 0⟩
/-- R123: Signed ps, saturating -/
def CLK.DPLL_PHASE_ERR (d : Nat) : Fld := ⟨0xA0424 + 0x80 * d, 0, 32, 0⟩
/-- R123: Output, signed ppt against the local oscillator -/
def CLK.DPLL_FREQ (d : Nat) : Fld := ⟨0xA0428 + 0x80 * d, 0, 32, 0⟩
/-- R123: Signed ppt. Before HO_VALID is 1, it reads the mean of the learning seconds gathered so far, or 0 if there are none. R94, R97 and R99 use it only whil -/
def CLK.DPLL_HO_FREQ (d : Nat) : Fld := ⟨0xA042C + 0x80 * d, 0, 32, 0⟩
/-- R123: s in HOLDOVER; 0 otherwise -/
def CLK.DPLL_HO_AGE (d : Nat) : Fld := ⟨0xA0430 + 0x80 * d, 0, 32, 0⟩
/-- R125: WCLK_OUTn inverted -/
def CLK.WCLK_INVERT (n : Nat) : Fld := ⟨0xA0800 + 4 * n, 6, 1, 0⟩
/-- R125: 0 1×, 1 2×, 2 4×, 3 256×, 4 512× (R114) -/
def CLK.WCLK_MULT (n : Nat) : Fld := ⟨0xA0800 + 4 * n, 3, 3, 0⟩
/-- R125: Source DPLL -/
def CLK.WCLK_SRC (n : Nat) : Fld := ⟨0xA0800 + 4 * n, 1, 2, 0⟩
/-- R125: R114 -/
def CLK.WCLK_EN (n : Nat) : Fld := ⟨0xA0800 + 4 * n, 0, 1, 0⟩
/-- R125: PPS_OUT pulse, ms, 1–500; 0 acts as 1, values above 500 act as 500 -/
def CLK.PPS_WIDTH : Fld := ⟨0xA0810, 8, 9, 0x64⟩
/-- R125: R115 -/
def CLK.PPS_EN : Fld := ⟨0xA0810, 0, 1, 0⟩
/-- R125: Bits 0–3 WCLK_OUT0–WCLK_OUT3, bit 4 PPS_OUT (R116) -/
def CLK.OUT_ALIGN : Fld := ⟨0xA0814, 0, 5, 0⟩
/-- R125: Re-alignment armed, same bit order -/
def CLK.OUT_ALIGN_PEND : Fld := ⟨0xA0818, 8, 5, 0⟩
/-- R125: R116, same bit order -/
def CLK.OUT_MISALIGNED : Fld := ⟨0xA0818, 0, 5, 0⟩
/-- R122: The reference qualifies -/
def CLK.REF_QUAL_CNT (n : Nat) : Fld := ⟨0xA0128 + 0x40 * n, 0, 32, 0⟩
/-- R122: The reference is disqualified, for any cause -/
def CLK.REF_DISQ_CNT (n : Nat) : Fld := ⟨0xA012C + 0x40 * n, 0, 32, 0⟩
/-- R122: Activity is lost in QUALIFYING or QUALIFIED -/
def CLK.REF_ACT_LOSS_CNT (n : Nat) : Fld := ⟨0xA0130 + 0x40 * n, 0, 32, 0⟩
/-- R122: A 1PPS edge is not used (R93) -/
def CLK.REF_PPS_REJECT (n : Nat) : Fld := ⟨0xA0134 + 0x40 * n, 0, 32, 0⟩
/-- R122: A window's drift rate exceeds DRIFT_LIM (R97), whether or not SUSPECT was already set -/
def CLK.REF_SUSPECT_CNT (n : Nat) : Fld := ⟨0xA0138 + 0x40 * n, 0, 32, 0⟩
/-- R124: Selection changes (R101) -/
def CLK.DPLL_SWITCH_CNT (d : Nat) : Fld := ⟨0xA0434 + 0x80 * d, 0, 32, 0⟩
/-- R124: HOLDOVER is entered from ACQUIRE or LOCKED -/
def CLK.DPLL_HOLD_CNT (d : Nat) : Fld := ⟨0xA0438 + 0x80 * d, 0, 32, 0⟩
/-- R124: LOCKED is left for any state but FREERUN -/
def CLK.DPLL_LOCK_LOSS_CNT (d : Nat) : Fld := ⟨0xA043C + 0x80 * d, 0, 32, 0⟩
/-- R120: Interrupt enables, laid out as INT -/
def CLK.INT_EN : Fld := ⟨0xA000C, 0, 10, 0x3FF⟩
/-- R120: Interrupt flags; bits: XO_LOST [9], MISALIGN [8], HO_SPEC [7], SWITCH [6], LOCK_LOSS [5], STATE [4], DISAGREE [3], SUSPECT [2], DISQ [1], QUAL [0] -/
def CLK.INT : Fld := ⟨0xA0008, 0, 10, 0⟩

/-! ## PORT -/

/-- Bit of PORT.INT (R155): CPA only, R150 and R151 -/
def PORT.INT_WAKE : Nat := 6
/-- Bit of PORT.INT (R155): R148 -/
def PORT.INT_FEC_UNCORR : Nat := 5
/-- Bit of PORT.INT (R155): R147 -/
def PORT.INT_STAT_HALF : Nat := 4
/-- Bit of PORT.INT (R155): R141 -/
def PORT.INT_PAUSE_LONG : Nat := 3
/-- Bit of PORT.INT (R155): R128 -/
def PORT.INT_RX_OVF : Nat := 2
/-- Bit of PORT.INT (R155): R127 -/
def PORT.INT_LINK_DOWN : Nat := 1
/-- Bit of PORT.INT (R155): R127 -/
def PORT.INT_LINK_UP : Nat := 0
/-- R155: R146 -/
def PORT.STAT_SNAP (p : Nat) : Fld := ⟨0x40000 + 0x10000 * p, 14, 1, 0⟩
/-- R155: R146 -/
def PORT.STAT_SNAP_MODE (p : Nat) : Fld := ⟨0x40000 + 0x10000 * p, 13, 1, 0⟩
/-- R155: CP only, R142 -/
def PORT.TX_PAUSE_EN (p : Nat) : Fld := ⟨0x40000 + 0x10000 * p, 12, 1, 0⟩
/-- R155: R141 -/
def PORT.PAUSE_MODE (p : Nat) : Fld := ⟨0x40000 + 0x10000 * p, 10, 2, if p < 2 then 2 else 1⟩
/-- R155: R131 -/
def PORT.BCAST_EN (p : Nat) : Fld := ⟨0x40000 + 0x10000 * p, 9, 1, 1⟩
/-- R155: R131 -/
def PORT.PROMISC (p : Nat) : Fld := ⟨0x40000 + 0x10000 * p, 8, 1, 0⟩
/-- R155: R134 -/
def PORT.BAD_DELIVER (p : Nat) : Fld := ⟨0x40000 + 0x10000 * p, 7, 1, 0⟩
/-- R155: R130 -/
def PORT.VLAN_EN (p : Nat) : Fld := ⟨0x40000 + 0x10000 * p, 6, 1, 1⟩
/-- R155: R126 -/
def PORT.AN_EN (p : Nat) : Fld := ⟨0x40000 + 0x10000 * p, 5, 1, 1⟩
/-- R155: MP only, 25GBASE-R -/
def PORT.FEC_EN (p : Nat) : Fld := ⟨0x40000 + 0x10000 * p, 4, 1, if p < 2 then 1 else 0⟩
/-- R155: R126 -/
def PORT.LINE_MODE (p : Nat) : Fld := ⟨0x40000 + 0x10000 * p, 1, 3, if p < 2 then 1 else 2⟩
/-- R155: R127 -/
def PORT.PORT_EN (p : Nat) : Fld := ⟨0x40000 + 0x10000 * p, 0, 1, 0⟩
/-- R155: Bytes in the receive buffer -/
def PORT.RX_FILL (p : Nat) : Fld := ⟨0x40004 + 0x10000 * p, 0, 19, 0⟩
/-- R155: R141 -/
def PORT.TX_PAUSED (p : Nat) : Fld := ⟨0x40008 + 0x10000 * p, 7, 1, 0⟩
/-- R155: RS-FEC alignment held -/
def PORT.FEC_LOCK (p : Nat) : Fld := ⟨0x40008 + 0x10000 * p, 6, 1, 0⟩
/-- R155: 0 10, 1 100, 2 1000 Mbit/s; 2 in modes 0–2 -/
def PORT.SPEED (p : Nat) : Fld := ⟨0x40008 + 0x10000 * p, 4, 2, 2⟩
/-- R155: Clause 37 or SGMII auto-negotiation complete -/
def PORT.AN_DONE (p : Nat) : Fld := ⟨0x40008 + 0x10000 * p, 2, 1, 0⟩
/-- R155: Block lock or code-group sync -/
def PORT.PCS_LOCK (p : Nat) : Fld := ⟨0x40008 + 0x10000 * p, 1, 1, 0⟩
/-- R155: R127 -/
def PORT.LINK_UP (p : Nat) : Fld := ⟨0x40008 + 0x10000 * p, 0, 1, 0⟩
/-- R155: Bytes, 64–9,600; values outside act as the nearer limit -/
def PORT.RX_MAX_LEN (p : Nat) : Fld := ⟨0x40018 + 0x10000 * p, 0, 14, 0x5F2⟩
/-- R155: As RX_MAX_LEN -/
def PORT.TX_MAX_LEN (p : Nat) : Fld := ⟨0x4001C + 0x10000 * p, 0, 14, 0x5F2⟩
/-- R155: Address bytes 2–5; byte 5 in [7:0] -/
def PORT.STATION_MAC_LO (p : Nat) : Fld := ⟨0x40020 + 0x10000 * p, 0, 32, 0⟩
/-- R155: Address bytes 0–1; byte 0 in [15:8] -/
def PORT.STATION_MAC_HI (p : Nat) : Fld := ⟨0x40024 + 0x10000 * p, 0, 16, 0⟩
/-- R155: CP only, R142 -/
def PORT.PAUSE_TX_QUANTA (p : Nat) : Fld := ⟨0x40028 + 0x10000 * p, 0, 16, if p < 2 then 0 else 0xFFFF⟩
/-- R155: CP only, 64-byte units -/
def PORT.XOFF (p : Nat) : Fld := ⟨0x4002C + 0x10000 * p, 16, 16, if p < 2 then 0 else 768⟩
/-- R155: CP only, 64-byte units -/
def PORT.XON (p : Nat) : Fld := ⟨0x4002C + 0x10000 * p, 0, 16, if p < 2 then 0 else 256⟩
/-- R155: µs; 0 disables -/
def PORT.PAUSE_ALARM (p : Nat) : Fld := ⟨0x40030 + 0x10000 * p, 0, 24, 0x3E8⟩
/-- R155: Class c in [2c+1:2c], R132 -/
def PORT.DISPATCH (p : Nat) : Fld := ⟨0x40034 + 0x10000 * p, 0, 24, if p < 2 then 0x00A15555 else 0x00A55955⟩
/-- R155: R132 -/
def PORT.NMOS_PORT (p : Nat) : Fld := ⟨0x40038 + 0x10000 * p, 16, 16, 0x50⟩
/-- R155: R132 -/
def PORT.SUOSH_PORT (p : Nat) : Fld := ⟨0x40038 + 0x10000 * p, 0, 16, 0xB860⟩
/-- R155: CP only; signed, 2^−16 ns (R135) -/
def PORT.RX_LAT (p : Nat) : Fld := ⟨0x4003C + 0x10000 * p, 0, 32, 0⟩
/-- R155: CP only; signed, 2^−16 ns (R135) -/
def PORT.TX_LAT (p : Nat) : Fld := ⟨0x40040 + 0x10000 * p, 0, 32, 0⟩
/-- R155: MP only; ns (R138) -/
def PORT.LAUNCH_GUARD (p : Nat) : Fld := ⟨0x40044 + 0x10000 * p, 0, 16, if p < 2 then 32 else 0⟩
/-- R155: R147, counters 0–31 -/
def PORT.STAT_HALF_LO (p : Nat) : Fld := ⟨0x40380 + 0x10000 * p, 0, 32, 0⟩
/-- R155: R147, counters 32–41 -/
def PORT.STAT_HALF_HI (p : Nat) : Fld := ⟨0x40384 + 0x10000 * p, 0, 10, 0⟩
/-- R156: Address bytes 2–5, as STATION_MAC_LO -/
def PORT.MATCH_ADDR_LO (p e : Nat) : Fld := ⟨0x40100 + 0x10000 * p + 8 * e, 0, 32, 0⟩
/-- R156: Entry enabled -/
def PORT.MATCH_EN (p e : Nat) : Fld := ⟨0x40104 + 0x10000 * p + 8 * e, 31, 1, 0⟩
/-- R156: Address bytes 0–1 -/
def PORT.MATCH_ADDR_HI (p e : Nat) : Fld := ⟨0x40104 + 0x10000 * p + 8 * e, 0, 16, 0⟩
/-- R157: R151 -/
def PORT.WAKE_LINK_WAKE : Fld := ⟨0x60800, 19, 1, 0⟩
/-- R157: R150 -/
def PORT.WAKE_AWAKE_EVT : Fld := ⟨0x60800, 18, 1, 0⟩
/-- R157: R149 -/
def PORT.WAKE_DA_CHECK : Fld := ⟨0x60800, 17, 1, 0⟩
/-- R157: One bit per filter -/
def PORT.WAKE_FILT_EN : Fld := ⟨0x60800, 8, 8, 0⟩
/-- R157: R149 -/
def PORT.WAKE_MAGIC_EN : Fld := ⟨0x60800, 0, 1, 0⟩
/-- R157: As STATION_MAC_LO -/
def PORT.WAKE_MAC_LO : Fld := ⟨0x60804, 0, 32, 0⟩
/-- R157: As STATION_MAC_HI -/
def PORT.WAKE_MAC_HI : Fld := ⟨0x60808, 0, 16, 0⟩
/-- R157: Length of the recorded frame; 0 for cause 3 -/
def PORT.WAKE_LENGTH : Fld := ⟨0x6080C, 16, 16, 0⟩
/-- R157: Filter recorded under R149 -/
def PORT.WAKE_FILTER : Fld := ⟨0x6080C, 8, 3, 0⟩
/-- R157: 0 none, 1 magic packet, 2 filter, 3 link up -/
def PORT.WAKE_CAUSE : Fld := ⟨0x6080C, 0, 4, 0⟩
/-- R157: Filter f, bytes 4k to 4k + 3, byte 4k in [7:0]; k = 0–31 -/
def PORT.WAKE_PATTERN (f k : Nat) : Fld := ⟨0x61000 + 0x100 * f + 4 * k, 0, 32, 0⟩
/-- R157: Filter f, bit i covers byte 32k + i; k = 0–3 -/
def PORT.WAKE_MASK (f k : Nat) : Fld := ⟨0x61080 + 0x100 * f + 4 * k, 0, 32, 0⟩
/-- R155: Interrupt enables, laid out as INT -/
def PORT.INT_EN (p : Nat) : Fld := ⟨0x40014 + 0x10000 * p, 0, if p = 2 then 7 else 6, if p = 2 then 0x7F else 0x3F⟩
/-- R155: Interrupt flags; bits: WAKE [6], FEC_UNCORR [5], STAT_HALF [4], PAUSE_LONG [3], RX_OVF [2], LINK_DOWN [1], LINK_UP [0] -/
def PORT.INT (p : Nat) : Fld := ⟨0x40010 + 0x10000 * p, 0, 7, 0⟩

/-- R148: statistics counter `n` of port `p` (LO at 0x0400 + 8n, HI above it), held as one count of 32 bits, or 48 for the octet counters. -/
def PORT.STAT (p n : Nat) : Fld := ⟨0x40400 + 0x10000 * p + 8 * n, 0, if n = 1 ∨ n = 27 then 48 else 32, 0⟩
/-- R148: index of the counter; counts: A frame ends with status OK -/
def Stat.RX_FRAMES_OK : Nat := 0
/-- R148: index of the counter; counts: By the length of each frame counted in n = 0 -/
def Stat.RX_OCTETS_OK : Nat := 1
/-- R148: index of the counter; counts: Individual destination address -/
def Stat.RX_UCAST : Nat := 2
/-- R148: index of the counter; counts: Group destination address other than broadcast -/
def Stat.RX_MCAST : Nat := 3
/-- R148: index of the counter; counts: Broadcast destination -/
def Stat.RX_BCAST : Nat := 4
/-- R148: index of the counter; counts: The stream classifier claims a frame (R130) -/
def Stat.RX_STREAM : Nat := 5
/-- R148: index of the counter; counts: Status FCS_ERR -/
def Stat.RX_FCS_ERR : Nat := 6
/-- R148: index of the counter; counts: Status CODE_ERR, or a partial frame is discarded (R127) -/
def Stat.RX_CODE_ERR : Nat := 7
/-- R148: index of the counter; counts: Status RUNT -/
def Stat.RX_RUNT : Nat := 8
/-- R148: index of the counter; counts: Status OVERSIZE -/
def Stat.RX_OVERSIZE : Nat := 9
/-- R148: index of the counter; counts: Status LEN_ERR -/
def Stat.RX_LEN_ERR : Nat := 10
/-- R148: index of the counter; counts: Status PAUSE -/
def Stat.RX_PAUSE : Nat := 11
/-- R148: index of the counter; counts: A valid PAUSE frame arrives in IGNORE -/
def Stat.RX_PAUSE_IGNORED : Nat := 12
/-- R148: index of the counter; counts: A frame is not admitted (R128) -/
def Stat.RX_OVF_FRAMES : Nat := 13
/-- R148: index of the counter; counts: Dropped by the filter, dispatched to DROP, or a non-PAUSE MAC control frame -/
def Stat.RX_FILTER_DROP : Nat := 14
/-- R148: index of the counter; counts: Tagged frame dropped under R130 -/
def Stat.RX_VLAN_DROP : Nat := 15
/-- R148: index of the counter; counts: Dropped by the host receive queue (R133) -/
def Stat.RX_HOST_DROP : Nat := 16
/-- R148: index of the counter; counts: Dropped by the engine receive queue (R133) -/
def Stat.RX_ENG_DROP : Nat := 17
/-- R148: index of the counter; counts: Bad frame given to the host (R134) -/
def Stat.RX_BAD_DELIVERED : Nat := 18
/-- R148: index of the counter; counts: Length 64 -/
def Stat.RX_64 : Nat := 19
/-- R148: index of the counter; counts: Length 65–127 -/
def Stat.RX_65_127 : Nat := 20
/-- R148: index of the counter; counts: Length 128–255 -/
def Stat.RX_128_255 : Nat := 21
/-- R148: index of the counter; counts: Length 256–511 -/
def Stat.RX_256_511 : Nat := 22
/-- R148: index of the counter; counts: Length 512–1,023 -/
def Stat.RX_512_1023 : Nat := 23
/-- R148: index of the counter; counts: Length 1,024–1,518 -/
def Stat.RX_1024_1518 : Nat := 24
/-- R148: index of the counter; counts: Length 1,519 to RX_MAX_LEN -/
def Stat.RX_1519_MAX : Nat := 25
/-- R148: index of the counter; counts: A frame's last byte leaves, including generated PAUSE frames -/
def Stat.TX_FRAMES : Nat := 26
/-- R148: index of the counter; counts: By the length of each frame counted in n = 26 -/
def Stat.TX_OCTETS : Nat := 27
/-- R148: index of the counter; counts: Frame counted in n = 26 with an individual destination -/
def Stat.TX_UCAST : Nat := 28
/-- R148: index of the counter; counts: Frame counted in n = 26 with a group destination other than broadcast -/
def Stat.TX_MCAST : Nat := 29
/-- R148: index of the counter; counts: Frame counted in n = 26 with a broadcast destination -/
def Stat.TX_BCAST : Nat := 30
/-- R148: index of the counter; counts: A generated PAUSE frame leaves (R142) -/
def Stat.TX_PAUSE : Nat := 31
/-- R148: index of the counter; counts: A frame leaves with a stomped FCS (R136) -/
def Stat.TX_STOMPED : Nat := 32
/-- R148: index of the counter; counts: A segmented send completes (R145) -/
def Stat.TX_SEG_SENDS : Nat := 33
/-- R148: index of the counter; counts: A segment leaves -/
def Stat.TX_SEGMENTS : Nat := 34
/-- R148: index of the counter; counts: R141 -/
def Stat.TX_PAUSED_US : Nat := 35
/-- R148: index of the counter; counts: R138 -/
def Stat.TX_GUARD_DEFER : Nat := 36
/-- R148: index of the counter; counts: R139 -/
def Stat.TX_DISCARD : Nat := 37
/-- R148: index of the counter; counts: UP is left (R127) -/
def Stat.LINK_DOWN : Nat := 38
/-- R148: index of the counter; counts: An RS-FEC codeword is corrected -/
def Stat.FEC_CORR : Nat := 39
/-- R148: index of the counter; counts: An RS-FEC codeword is uncorrectable; sets INT.FEC_UNCORR -/
def Stat.FEC_UNCORR : Nat := 40
/-- R148: index of the counter; counts: CPA only: the wake detector matches a frame, awake or dormant -/
def Stat.WAKE_MATCH : Nat := 41

/-- Fields of TIME, part 0, with access type and update class. -/
def TIME.fields0 : List FldSpec := [
  FldSpec.one TIME.CTRL_STEP_EN .rw .live,
  FldSpec.one TIME.CTRL_SERVO_PORT_PREF .rw .live,
  FldSpec.one TIME.CTRL_AUTO_SWITCH .rw .live,
  FldSpec.one TIME.CTRL_MODE .rw .servo,
  FldSpec.one TIME.STATUS_SERVO_STATE .ro .none,
  FldSpec.one TIME.STATUS_ACTIVE_PORT .ro .none,
  FldSpec.one TIME.STATUS_DISCIPLINED .ro .none,
  FldSpec.one TIME.STATUS_SET_PENDING .ro .none,
  FldSpec.one TIME.STATUS_LOCKED .ro .none,
  FldSpec.one TIME.STATUS_MEDIA_VALID .ro .none,
  FldSpec.one TIME.NOW_FRAC .ro .none,
  FldSpec.one TIME.NOW_NS .ro .none,
  FldSpec.one TIME.NOW_SEC_LO .ro .none,
  FldSpec.one TIME.NOW_SEC_HI .ro .none,
  FldSpec.one TIME.SHORT .ro .none,
  FldSpec.one TIME.MEDIA48_LO .ro .none]
/-- Fields of TIME, part 1, with access type and update class. -/
def TIME.fields1 : List FldSpec := [
  FldSpec.one TIME.MEDIA48_HI .ro .none,
  FldSpec.one TIME.MEDIA44_LO .ro .none,
  FldSpec.one TIME.MEDIA44_HI .ro .none,
  FldSpec.one TIME.INCR_LO .ro .none,
  FldSpec.one TIME.INCR_HI .ro .none,
  FldSpec.one TIME.FREQ_ADJ .ro .none,
  FldSpec.one TIME.LOAD_SET_NS .rw .live,
  FldSpec.one TIME.LOAD_SET_SEC_LO .rw .live,
  FldSpec.one TIME.LOAD_SET_SEC_HI .rw .live,
  FldSpec.one TIME.LOAD_CANCEL .wo .live,
  FldSpec.one TIME.LOAD_PPS_SRC .rw .live,
  FldSpec.one TIME.LOAD_FORCE .wo .live,
  FldSpec.one TIME.LOAD_VALIDATE .wo .live,
  FldSpec.one TIME.LOAD_APPLY_PPS .wo .live,
  FldSpec.one TIME.LOAD_APPLY .wo .live,
  FldSpec.one TIME.SERVO_ACQ_KP .rw .servo]
/-- Fields of TIME, part 2, with access type and update class. -/
def TIME.fields2 : List FldSpec := [
  FldSpec.one TIME.SERVO_ACQ_KI .rw .servo,
  FldSpec.one TIME.SERVO_TRK_KP .rw .servo,
  FldSpec.one TIME.SERVO_TRK_KI .rw .servo,
  FldSpec.one TIME.SERVO_THR_STEP .rw .live,
  FldSpec.one TIME.SERVO_LOCK_N .rw .live,
  FldSpec.one TIME.SERVO_THR_LOCK .rw .live,
  FldSpec.one TIME.SERVO_THR_UNLOCK .rw .live,
  FldSpec.one TIME.SERVO_SLEW_MAX .rw .servo,
  FldSpec.one TIME.SERVO_FREQ_RANGE .rw .servo,
  FldSpec.one TIME.SERVO_DLY_THR .rw .live,
  FldSpec.one TIME.SERVO_OFS_THR .rw .live,
  FldSpec.one TIME.SERVO_PC_TIMEOUT .rw .live,
  FldSpec.one TIME.SERVO_PC_MATCH .rw .live,
  FldSpec.one TIME.SERVO_PC_COUNT .rw .live,
  FldSpec.one TIME.SERVO_PC_RESUME .wo .live,
  FldSpec.one TIME.SERVO_PC_EN .rw .live]
/-- Fields of TIME, part 3, with access type and update class. -/
def TIME.fields3 : List FldSpec := [
  FldSpec.arr TIME.PORT_DOMAIN 2 0x80 (fun _ => .cp) (fun _ => .none),
  FldSpec.arr TIME.PORT_PROFILE 2 0x80 (fun _ => .cp) (fun _ => .none),
  FldSpec.arr TIME.PORT_SLAVE_ONLY 2 0x80 (fun _ => .cp) (fun _ => .none),
  FldSpec.arr TIME.PORT_ONE_STEP 2 0x80 (fun _ => .cp) (fun _ => .none),
  FldSpec.arr TIME.PORT_IPV6 2 0x80 (fun _ => .cp) (fun _ => .none),
  FldSpec.arr TIME.PORT_ENABLE 2 0x80 (fun _ => .cp) (fun _ => .none),
  FldSpec.arr TIME.PORT_LOG_SYNC 2 0x80 (fun _ => .cp) (fun _ => .none),
  FldSpec.arr TIME.PORT_LOG_DREQ 2 0x80 (fun _ => .cp) (fun _ => .none),
  FldSpec.arr TIME.PORT_STATE 2 0x80 (fun _ => .cp) (fun _ => .none),
  FldSpec.arr TIME.PORT_RX_LAT 2 0x80 (fun _ => .rw) (fun _ => .live),
  FldSpec.arr TIME.PORT_TX_LAT 2 0x80 (fun _ => .rw) (fun _ => .live),
  FldSpec.arr TIME.PORT_ASYM 2 0x80 (fun _ => .rw) (fun _ => .offset),
  FldSpec.arr TIME.PORT_OFS_FRAC 2 0x80 (fun _ => .ro) (fun _ => .none),
  FldSpec.arr TIME.PORT_OFS_NS 2 0x80 (fun _ => .ro) (fun _ => .none),
  FldSpec.arr TIME.PORT_MPD_FRAC 2 0x80 (fun _ => .ro) (fun _ => .none),
  FldSpec.arr TIME.PORT_MPD_NS 2 0x80 (fun _ => .ro) (fun _ => .none)]
/-- Fields of TIME, part 4, with access type and update class. -/
def TIME.fields4 : List FldSpec := [
  FldSpec.arr TIME.PORT_SYNC_RX 2 0x80 (fun _ => .ro) (fun _ => .none),
  FldSpec.arr TIME.PORT_FUP_RX 2 0x80 (fun _ => .ro) (fun _ => .none),
  FldSpec.arr TIME.PORT_DREQ_TX 2 0x80 (fun _ => .ro) (fun _ => .none),
  FldSpec.arr TIME.PORT_DRESP_RX 2 0x80 (fun _ => .ro) (fun _ => .none),
  FldSpec.arr TIME.PORT_DREQ_RX 2 0x80 (fun _ => .ro) (fun _ => .none),
  FldSpec.arr TIME.PORT_DREQ_DROP 2 0x80 (fun _ => .ro) (fun _ => .none),
  FldSpec.arr TIME.PORT_ANN_RX 2 0x80 (fun _ => .ro) (fun _ => .none),
  FldSpec.arr TIME.PORT_EXCH_USED 2 0x80 (fun _ => .ro) (fun _ => .none),
  FldSpec.arr TIME.PORT_EXCH_DISCARD 2 0x80 (fun _ => .ro) (fun _ => .none),
  FldSpec.arr TIME.PORT_EXCH_HELD 2 0x80 (fun _ => .ro) (fun _ => .none),
  FldSpec.arr TIME.PORT_TS_OVF 2 0x80 (fun _ => .ro) (fun _ => .none),
  FldSpec.arr TIME.PORT_PC_DETECT 2 0x80 (fun _ => .ro) (fun _ => .none),
  FldSpec.one TIME.INT_EN .rw .live,
  FldSpec.one TIME.INT .w1c .none]
/-- Every field of TIME. -/
def TIME.fields : List FldSpec := List.flatten [TIME.fields0, TIME.fields1, TIME.fields2, TIME.fields3, TIME.fields4]
/-- Fields of CLK, part 0, with access type and update class. -/
def CLK.fields0 : List FldSpec := [
  FldSpec.one CLK.CTRL_FM_BASE .rw .live,
  FldSpec.one CLK.CTRL_PINS_EN .rw .live,
  FldSpec.one CLK.XO_OK .ro .none,
  FldSpec.one CLK.SUM_SUSPECT .ro .none,
  FldSpec.one CLK.SUM_QUALIFIED .ro .none,
  FldSpec.one CLK.SUM_ACTIVE .ro .none,
  FldSpec.one CLK.SUM_ENABLED .ro .none,
  FldSpec.one CLK.TRACE .cp .none,
  FldSpec.one CLK.DISAGREE_THR .rw .live,
  FldSpec.arr CLK.REF_SRC 8 0x40 (fun _ => .rw) (fun _ => .static),
  FldSpec.arr CLK.REF_PHASE_MODE 8 0x40 (fun _ => .rw) (fun _ => .static),
  FldSpec.arr CLK.REF_EDGE 8 0x40 (fun _ => .rw) (fun _ => .static),
  FldSpec.arr CLK.REF_TYPE 8 0x40 (fun _ => .rw) (fun _ => .static),
  FldSpec.arr CLK.REF_ENABLE 8 0x40 (fun _ => .rw) (fun _ => .live),
  FldSpec.arr CLK.REF_FREQ 8 0x40 (fun _ => .rw) (fun _ => .static),
  FldSpec.arr CLK.REF_PHASE_OFS 8 0x40 (fun _ => .rw) (fun _ => .loop)]
/-- Fields of CLK, part 1, with access type and update class. -/
def CLK.fields1 : List FldSpec := [
  FldSpec.arr CLK.REF_ACCEPT 8 0x40 (fun _ => .rw) (fun _ => .live),
  FldSpec.arr CLK.REF_REJECT 8 0x40 (fun _ => .rw) (fun _ => .live),
  FldSpec.arr CLK.REF_QUAL_TIME 8 0x40 (fun _ => .rw) (fun _ => .live),
  FldSpec.arr CLK.REF_PERSIST 8 0x40 (fun _ => .rw) (fun _ => .live),
  FldSpec.arr CLK.REF_DRIFT_ACT 8 0x40 (fun _ => .rw) (fun _ => .live),
  FldSpec.arr CLK.REF_DRIFT_LIM 8 0x40 (fun _ => .rw) (fun _ => .live),
  FldSpec.arr CLK.REF_QSTATE 8 0x40 (fun _ => .ro) (fun _ => .none),
  FldSpec.arr CLK.REF_LAST_CAUSE 8 0x40 (fun _ => .ro) (fun _ => .none),
  FldSpec.arr CLK.REF_SUSPECT 8 0x40 (fun _ => .w1c) (fun _ => .none),
  FldSpec.arr CLK.REF_CFG_ERR 8 0x40 (fun _ => .ro) (fun _ => .none),
  FldSpec.arr CLK.REF_OUT_REJECT 8 0x40 (fun _ => .ro) (fun _ => .none),
  FldSpec.arr CLK.REF_IN_ACCEPT 8 0x40 (fun _ => .ro) (fun _ => .none),
  FldSpec.arr CLK.REF_ACTIVE 8 0x40 (fun _ => .ro) (fun _ => .none),
  FldSpec.arr CLK.REF_FREQ_OFS 8 0x40 (fun _ => .ro) (fun _ => .none),
  FldSpec.arr CLK.REF_DRIFT_RATE 8 0x40 (fun _ => .ro) (fun _ => .none),
  FldSpec.arr CLK.DPLL_ENABLE 4 0x80 (fun d => (if d = 0 then .ro else .rw)) (fun _ => .live)]
/-- Fields of CLK, part 2, with access type and update class. -/
def CLK.fields2 : List FldSpec := [
  FldSpec.arr CLK.DPLL_REVERTIVE 4 0x80 (fun _ => .rw) (fun _ => .live),
  FldSpec.arr CLK.DPLL_WTR 4 0x80 (fun _ => .rw) (fun _ => .live),
  FldSpec.arr CLK.DPLL_TRK_BW 4 0x80 (fun _ => .rw) (fun _ => .loop),
  FldSpec.arr CLK.DPLL_ACQ_BW 4 0x80 (fun _ => .rw) (fun _ => .loop),
  FldSpec.arr CLK.DPLL_MAN_REF 4 0x80 (fun _ => .rw) (fun _ => .selection),
  FldSpec.arr CLK.DPLL_MODE 4 0x80 (fun _ => .rw) (fun _ => .selection),
  FldSpec.arr CLK.DPLL_FAMILY 4 0x80 (fun d => (if d = 0 then .cp else .rw)) (fun d => (if d = 0 then .none else .static)),
  FldSpec.arr CLK.DPLL_HO_EXCL 4 0x80 (fun _ => .rw) (fun _ => .live),
  FldSpec.arr CLK.DPLL_HO_AVG 4 0x80 (fun _ => .rw) (fun _ => .live),
  FldSpec.arr CLK.DPLL_HO_SPEC_TIME 4 0x80 (fun _ => .rw) (fun _ => .live),
  FldSpec.arr CLK.DPLL_STEER 4 0x80 (fun _ => .rw) (fun _ => .live),
  FldSpec.arr CLK.DPLL_LOCK_TIME 4 0x80 (fun _ => .rw) (fun _ => .live),
  FldSpec.arr CLK.DPLL_LOCK_THR 4 0x80 (fun _ => .rw) (fun _ => .live),
  FldSpec.arr CLK.DPLL_UNLOCK_THR 4 0x80 (fun _ => .rw) (fun _ => .live),
  FldSpec.arr CLK.DPLL_PULL_MAX 4 0x80 (fun _ => .rw) (fun _ => .loop),
  FldSpec.arr CLK.DPLL_BW 4 0x80 (fun _ => .ro) (fun _ => .none)]
/-- Fields of CLK, part 3, with access type and update class. -/
def CLK.fields3 : List FldSpec := [
  FldSpec.arr CLK.DPLL_REF_DISAGREE 4 0x80 (fun _ => .ro) (fun _ => .none),
  FldSpec.arr CLK.DPLL_HO_IN_SPEC 4 0x80 (fun _ => .ro) (fun _ => .none),
  FldSpec.arr CLK.DPLL_HO_VALID 4 0x80 (fun _ => .ro) (fun _ => .none),
  FldSpec.arr CLK.DPLL_WTR_RUN 4 0x80 (fun _ => .ro) (fun _ => .none),
  FldSpec.arr CLK.DPLL_SEL_REF 4 0x80 (fun _ => .ro) (fun _ => .none),
  FldSpec.arr CLK.DPLL_SEL_VALID 4 0x80 (fun _ => .ro) (fun _ => .none),
  FldSpec.arr CLK.DPLL_STATE 4 0x80 (fun _ => .ro) (fun _ => .none),
  FldSpec.arr CLK.DPLL_PHASE_ERR 4 0x80 (fun _ => .ro) (fun _ => .none),
  FldSpec.arr CLK.DPLL_FREQ 4 0x80 (fun _ => .ro) (fun _ => .none),
  FldSpec.arr CLK.DPLL_HO_FREQ 4 0x80 (fun _ => .ro) (fun _ => .none),
  FldSpec.arr CLK.DPLL_HO_AGE 4 0x80 (fun _ => .ro) (fun _ => .none),
  FldSpec.arr CLK.WCLK_INVERT 4 4 (fun _ => .rw) (fun _ => .static),
  FldSpec.arr CLK.WCLK_MULT 4 4 (fun _ => .rw) (fun _ => .static),
  FldSpec.arr CLK.WCLK_SRC 4 4 (fun _ => .rw) (fun _ => .static),
  FldSpec.arr CLK.WCLK_EN 4 4 (fun _ => .rw) (fun _ => .live),
  FldSpec.one CLK.PPS_WIDTH .rw .static]
/-- Fields of CLK, part 4, with access type and update class. -/
def CLK.fields4 : List FldSpec := [
  FldSpec.one CLK.PPS_EN .rw .live,
  FldSpec.one CLK.OUT_ALIGN .wo .live,
  FldSpec.one CLK.OUT_ALIGN_PEND .ro .none,
  FldSpec.one CLK.OUT_MISALIGNED .ro .none,
  FldSpec.arr CLK.REF_QUAL_CNT 8 0x40 (fun _ => .ro) (fun _ => .none),
  FldSpec.arr CLK.REF_DISQ_CNT 8 0x40 (fun _ => .ro) (fun _ => .none),
  FldSpec.arr CLK.REF_ACT_LOSS_CNT 8 0x40 (fun _ => .ro) (fun _ => .none),
  FldSpec.arr CLK.REF_PPS_REJECT 8 0x40 (fun _ => .ro) (fun _ => .none),
  FldSpec.arr CLK.REF_SUSPECT_CNT 8 0x40 (fun _ => .ro) (fun _ => .none),
  FldSpec.arr CLK.DPLL_SWITCH_CNT 4 0x80 (fun _ => .ro) (fun _ => .none),
  FldSpec.arr CLK.DPLL_HOLD_CNT 4 0x80 (fun _ => .ro) (fun _ => .none),
  FldSpec.arr CLK.DPLL_LOCK_LOSS_CNT 4 0x80 (fun _ => .ro) (fun _ => .none),
  FldSpec.one CLK.INT_EN .rw .live,
  FldSpec.one CLK.INT .w1c .none]
/-- Fields of CLK, part 5, with access type and update class. -/
def CLK.fields5 : List FldSpec := (List.range 8).map (fun n => FldSpec.arr (fun d => CLK.DPLL_RANK d n) 4 0x80 (fun _ => .rw) (fun _ => .live))
/-- Every field of CLK. -/
def CLK.fields : List FldSpec := List.flatten [CLK.fields0, CLK.fields1, CLK.fields2, CLK.fields3, CLK.fields4, CLK.fields5]
/-- Fields of PORT, part 0, with access type and update class. -/
def PORT.fields0 : List FldSpec := [
  FldSpec.arr PORT.STAT_SNAP 4 0x10000 (fun _ => .wo) (fun _ => .live),
  FldSpec.arr PORT.STAT_SNAP_MODE 4 0x10000 (fun _ => .rw) (fun _ => .live),
  FldSpec.arr PORT.TX_PAUSE_EN 4 0x10000 (fun p => (if p < 2 then .ro else .rw)) (fun _ => .live),
  FldSpec.arr PORT.PAUSE_MODE 4 0x10000 (fun _ => .rw) (fun _ => .txFrame),
  FldSpec.arr PORT.BCAST_EN 4 0x10000 (fun _ => .rw) (fun _ => .rxFrame),
  FldSpec.arr PORT.PROMISC 4 0x10000 (fun _ => .rw) (fun _ => .rxFrame),
  FldSpec.arr PORT.BAD_DELIVER 4 0x10000 (fun _ => .rw) (fun _ => .rxFrame),
  FldSpec.arr PORT.VLAN_EN 4 0x10000 (fun _ => .rw) (fun _ => .rxFrame),
  FldSpec.arr PORT.AN_EN 4 0x10000 (fun _ => .rw) (fun _ => .static),
  FldSpec.arr PORT.FEC_EN 4 0x10000 (fun p => (if p < 2 then .rw else .ro)) (fun _ => .static),
  FldSpec.arr PORT.LINE_MODE 4 0x10000 (fun _ => .rw) (fun _ => .static),
  FldSpec.arr PORT.PORT_EN 4 0x10000 (fun _ => .rw) (fun _ => .live),
  FldSpec.arr PORT.RX_FILL 4 0x10000 (fun _ => .ro) (fun _ => .none),
  FldSpec.arr PORT.TX_PAUSED 4 0x10000 (fun _ => .ro) (fun _ => .none),
  FldSpec.arr PORT.FEC_LOCK 4 0x10000 (fun _ => .ro) (fun _ => .none),
  FldSpec.arr PORT.SPEED 4 0x10000 (fun _ => .ro) (fun _ => .none)]
/-- Fields of PORT, part 1, with access type and update class. -/
def PORT.fields1 : List FldSpec := [
  FldSpec.arr PORT.AN_DONE 4 0x10000 (fun _ => .ro) (fun _ => .none),
  FldSpec.arr PORT.PCS_LOCK 4 0x10000 (fun _ => .ro) (fun _ => .none),
  FldSpec.arr PORT.LINK_UP 4 0x10000 (fun _ => .ro) (fun _ => .none),
  FldSpec.arr PORT.RX_MAX_LEN 4 0x10000 (fun _ => .rw) (fun _ => .static),
  FldSpec.arr PORT.TX_MAX_LEN 4 0x10000 (fun _ => .rw) (fun _ => .static),
  FldSpec.arr PORT.STATION_MAC_LO 4 0x10000 (fun _ => .cp) (fun _ => .none),
  FldSpec.arr PORT.STATION_MAC_HI 4 0x10000 (fun _ => .cp) (fun _ => .none),
  FldSpec.arr PORT.PAUSE_TX_QUANTA 4 0x10000 (fun p => (if p < 2 then .ro else .rw)) (fun _ => .live),
  FldSpec.arr PORT.XOFF 4 0x10000 (fun p => (if p < 2 then .ro else .rw)) (fun _ => .live),
  FldSpec.arr PORT.XON 4 0x10000 (fun p => (if p < 2 then .ro else .rw)) (fun _ => .live),
  FldSpec.arr PORT.PAUSE_ALARM 4 0x10000 (fun _ => .rw) (fun _ => .live),
  FldSpec.arr PORT.DISPATCH 4 0x10000 (fun _ => .rw) (fun _ => .rxFrame),
  FldSpec.arr PORT.NMOS_PORT 4 0x10000 (fun _ => .cp) (fun _ => .none),
  FldSpec.arr PORT.SUOSH_PORT 4 0x10000 (fun _ => .cp) (fun _ => .none),
  FldSpec.arr PORT.RX_LAT 4 0x10000 (fun p => (if p < 2 then .ro else .rw)) (fun _ => .live),
  FldSpec.arr PORT.TX_LAT 4 0x10000 (fun p => (if p < 2 then .ro else .rw)) (fun _ => .live)]
/-- Fields of PORT, part 2, with access type and update class. -/
def PORT.fields2 : List FldSpec := [
  FldSpec.arr PORT.LAUNCH_GUARD 4 0x10000 (fun p => (if p < 2 then .rw else .ro)) (fun _ => .live),
  FldSpec.arr PORT.STAT_HALF_LO 4 0x10000 (fun _ => .w1c) (fun _ => .none),
  FldSpec.arr PORT.STAT_HALF_HI 4 0x10000 (fun _ => .w1c) (fun _ => .none),
  FldSpec.one PORT.WAKE_LINK_WAKE .rw .live,
  FldSpec.one PORT.WAKE_AWAKE_EVT .rw .live,
  FldSpec.one PORT.WAKE_DA_CHECK .rw .live,
  FldSpec.one PORT.WAKE_FILT_EN .rw .live,
  FldSpec.one PORT.WAKE_MAGIC_EN .rw .live,
  FldSpec.one PORT.WAKE_MAC_LO .rw .live,
  FldSpec.one PORT.WAKE_MAC_HI .rw .live,
  FldSpec.one PORT.WAKE_LENGTH .ro .none,
  FldSpec.one PORT.WAKE_FILTER .ro .none,
  FldSpec.one PORT.WAKE_CAUSE .ro .none,
  FldSpec.arr PORT.INT_EN 4 0x10000 (fun _ => .rw) (fun _ => .live),
  FldSpec.arr PORT.INT 4 0x10000 (fun _ => .w1c) (fun _ => .none)]
/-- Fields of PORT, part 3, with access type and update class. -/
def PORT.fields3 : List FldSpec := (List.range 4).map (fun p => FldSpec.arr (PORT.MATCH_ADDR_LO p) 32 8 (fun e => (if e < 16 then .cp else .rw)) (fun e => (if e < 16 then .none else .rxFrame)))
/-- Fields of PORT, part 4, with access type and update class. -/
def PORT.fields4 : List FldSpec := (List.range 4).map (fun p => FldSpec.arr (PORT.MATCH_EN p) 32 8 (fun e => (if e < 16 then .cp else .rw)) (fun e => (if e < 16 then .none else .rxFrame)))
/-- Fields of PORT, part 5, with access type and update class. -/
def PORT.fields5 : List FldSpec := (List.range 4).map (fun p => FldSpec.arr (PORT.MATCH_ADDR_HI p) 32 8 (fun e => (if e < 16 then .cp else .rw)) (fun e => (if e < 16 then .none else .rxFrame)))
/-- Fields of PORT, part 6, with access type and update class. -/
def PORT.fields6 : List FldSpec := (List.range 8).map (fun f => FldSpec.arr (PORT.WAKE_PATTERN f) 32 4 (fun _ => .rw) (fun _ => .live))
/-- Fields of PORT, part 7, with access type and update class. -/
def PORT.fields7 : List FldSpec := (List.range 8).map (fun f => FldSpec.arr (PORT.WAKE_MASK f) 4 4 (fun _ => .rw) (fun _ => .live))
/-- Every field of PORT. -/
def PORT.fields : List FldSpec := List.flatten [PORT.fields0, PORT.fields1, PORT.fields2, PORT.fields3, PORT.fields4, PORT.fields5, PORT.fields6, PORT.fields7]


end Sys2Proof.Machine
end

