-- ==== Sys2Proof/Machine/RegsStream.lean ====
section
/-! DEFINITION. Registers and table entries of the stream engine, registers of the deep store (chapters 05, 06).
Each field is written from the register tables of spec/ (the rule is named at each): its offset in the window, lowest bit,
width and reset value. Resets the spec leaves to the part, the fuses, the MRAM, the AON domain or a strap are those the
assumption log names (entry 1). -/

namespace Sys2Proof.Machine

/-! ## STRM -/

/-- Bit of STRM.INT (R195): 0x050A -/
def STRM.INT_LAUNCH : Nat := 9
/-- Bit of STRM.INT (R195): 0x0509 -/
def STRM.INT_CMP : Nat := 8
/-- Bit of STRM.INT (R195): 0x0508 -/
def STRM.INT_SSRC : Nat := 7
/-- Bit of STRM.INT (R195): 0x0507 -/
def STRM.INT_LEG_UP : Nat := 6
/-- Bit of STRM.INT (R195): 0x0506 -/
def STRM.INT_LEG_DOWN : Nat := 5
/-- Bit of STRM.INT (R195): 0x0505 -/
def STRM.INT_RESUME : Nat := 4
/-- Bit of STRM.INT (R195): 0x0504 -/
def STRM.INT_HOLE : Nat := 3
/-- Bit of STRM.INT (R195): 0x0503 -/
def STRM.INT_NO_LANE : Nat := 2
/-- Bit of STRM.INT (R195): 0x0502 -/
def STRM.INT_RELEASED : Nat := 1
/-- Bit of STRM.INT (R195): 0x0501 -/
def STRM.INT_LANE_FAULT : Nat := 0
/-- R194: ms; 0 none (R191) -/
def STRM.CTRL_EVT_HOLDOFF : Fld := ⟨0xC0000, 24, 8, 0x64⟩
/-- R194: ms, 1–255; 0 acts as 1 (R173) -/
def STRM.CTRL_LEG_TIMEOUT : Fld := ⟨0xC0000, 16, 8, 10⟩
/-- R194: R185 -/
def STRM.CTRL_SEAL_FAULT_N : Fld := ⟨0xC0000, 8, 4, 4⟩
/-- R194: Lanes carried by a Hammer -/
def STRM.STATUS_WORKING : Fld := ⟨0xC0004, 4, 5, 0x10⟩
/-- R194: R182 -/
def STRM.STATUS_SPARE_OK : Fld := ⟨0xC0004, 0, 1, 1⟩
/-- R194: R161 -/
def STRM.NOT_VALID_DROP : Fld := ⟨0xC0010, 0, 32, 0⟩
/-- R194: R160 -/
def STRM.CLS_HOLD : Fld := ⟨0xC0014, 0, 32, 0⟩
/-- R194: R188 -/
def STRM.NO_LANE_STOPS : Fld := ⟨0xC0018, 0, 32, 0⟩
/-- R194: i = 0–3; lane 4i + q, q = 0–3; Hammer index, 0x1F none -/
def STRM.LANE_MAP (i : Nat) : Fld := ⟨0xC0020 + 4 * (i / 4), 8 * (i % 4), 5, i⟩
/-- R194: Last fault (R185) -/
def STRM.LASTF_CAUSE : Fld := ⟨0xC00F0, 16, 8, 0⟩
/-- R194: Last fault lane, 0xFF none -/
def STRM.LASTF_LANE : Fld := ⟨0xC00F0, 8, 8, 0⟩
/-- R194: Last fault Hammer -/
def STRM.LASTF_HAMMER : Fld := ⟨0xC00F0, 0, 5, 0⟩
/-- R194: Short time of the last detection -/
def STRM.FAULT_TIME : Fld := ⟨0xC00F4, 0, 32, 0⟩
/-- R194: w = 0–31; bit 32w + b is set for each stream that lost a packet in the last fault. Streams 0–511 are receive, and 512 + s is transmit stream s -/
def STRM.FAULT_MAP (w : Nat) : Fld := ⟨0xC0200 + 4 * w, 0, 32, 0⟩
/-- R196: Load of the lane carried: the exact sum of its legs' r ÷ SPP, rounded to the nearest kpps, ties upward. The capacity test of R183 uses the exact sum -/
def STRM.HAMMER_LOAD (h : Nat) : Fld := ⟨0xC0040 + 4 * h, 16, 12, 0⟩
/-- R196: Packets held, 0–8 -/
def STRM.HAMMER_INFLIGHT (h : Nat) : Fld := ⟨0xC0040 + 4 * h, 8, 4, 0⟩
/-- R196: Lane carried in WORKING -/
def STRM.HAMMER_LANE (h : Nat) : Fld := ⟨0xC0040 + 4 * h, 4, 4, if h < 16 then h else 0⟩
/-- R196: R182 -/
def STRM.HAMMER_ROLE (h : Nat) : Fld := ⟨0xC0040 + 4 * h, 0, 3, if h = 16 then 1 else 0⟩
/-- R197: Copy in progress -/
def STRM.TBL_BUSY : Fld := ⟨0xC0300, 31, 1, 0⟩
/-- R197: 0 none; 1 limits or legs (R163, R173); 2 slots or budget: BASE_SLOT alignment, slot range, overlap, budget (R164) or ring pages (R206); 3 key (R166); -/
def STRM.TBL_ERR : Fld := ⟨0xC0300, 28, 3, 0⟩
/-- R197: 0 receive entry, 1 transmit entry, 2 receive counters, 3 transmit counters -/
def STRM.TBL_TABLE : Fld := ⟨0xC0300, 24, 2, 0⟩
/-- R197: 1 read into TBL_DATA, 2 write from TBL_DATA (tables 0, 1), 3 clear (tables 2, 3) -/
def STRM.TBL_OP : Fld := ⟨0xC0300, 16, 2, 0⟩
/-- R197: Stream -/
def STRM.TBL_INDEX : Fld := ⟨0xC0300, 0, 9, 0⟩
/-- R197: Word w -/
def STRM.TBL_DATA (w : Nat) : Fld := ⟨0xC0400 + 4 * w, 0, 32, 0⟩
/-- R195: Interrupt enables, laid out as INT -/
def STRM.INT_EN : Fld := ⟨0xC000C, 0, 10, 0x3FF⟩
/-- R195: Interrupt flags; bits: LAUNCH [9], CMP [8], SSRC [7], LEG_UP [6], LEG_DOWN [5], RESUME [4], HOLE [3], NO_LANE [2], RELEASED [1], LANE_FAULT [0] -/
def STRM.INT : Fld := ⟨0xC0008, 0, 10, 0⟩
/-- R196: Failures of that Hammer, for any cause -/
def STRM.HAMMER_FAULTS (h : Nat) : Fld := ⟨0xC00A0 + 4 * h, 0, 32, 0⟩

/-! ## RXE -/

/-- R198: R175: applied in the CORE cycle in which the write is applied -/
def RXE.ENABLE (i : Nat) : Fld := ⟨0x400000 + 0x80 * i, 31, 1, 0⟩
/-- R198: R163 -/
def RXE.WIDE (i : Nat) : Fld := ⟨0x400000 + 0x80 * i, 30, 1, 0⟩
/-- R198: R173 -/
def RXE.REDUNDANT (i : Nat) : Fld := ⟨0x400000 + 0x80 * i, 29, 1, 0⟩
/-- R198: R172 -/
def RXE.COMPARE (i : Nat) : Fld := ⟨0x400000 + 0x80 * i, 28, 1, 0⟩
/-- R198: R168 -/
def RXE.SSRC_LOCK (i : Nat) : Fld := ⟨0x400000 + 0x80 * i, 27, 1, 0⟩
/-- R198: R168 -/
def RXE.PT_CHECK (i : Nat) : Fld := ⟨0x400000 + 0x80 * i, 26, 1, 1⟩
/-- R198: R162 -/
def RXE.ENC (i : Nat) : Fld := ⟨0x400000 + 0x80 * i, 24, 2, 1⟩
/-- R198: k: 0 1×, 1 2×, 2 4×; 3 refused -/
def RXE.RATE (i : Nat) : Fld := ⟨0x400000 + 0x80 * i, 20, 2, 0⟩
/-- R198: 1–256 -/
def RXE.CHANNELS (i : Nat) : Fld := ⟨0x400000 + 0x80 * i, 0, 9, 0⟩
/-- R198: R163 -/
def RXE.SPP (i : Nat) : Fld := ⟨0x400004 + 0x80 * i, 16, 11, 0⟩
/-- R198: R164 -/
def RXE.BASE_SLOT (i : Nat) : Fld := ⟨0x400004 + 0x80 * i, 0, 11, 0⟩
/-- R198: Alignment group, 0–63 -/
def RXE.GROUP (i : Nat) : Fld := ⟨0x400008 + 0x80 * i, 16, 6, 0⟩
/-- R198: R168 -/
def RXE.PT (i : Nat) : Fld := ⟨0x400008 + 0x80 * i, 0, 7, 0x60⟩
/-- R198: R168 -/
def RXE.SSRC (i : Nat) : Fld := ⟨0x40000C + 0x80 * i, 0, 32, 0⟩
/-- R198: R70 -/
def RXE.RTP_OFFSET (i : Nat) : Fld := ⟨0x400010 + 0x80 * i, 0, 32, 0⟩
/-- R198: Base periods, R171 -/
def RXE.EARLY_WIN (i : Nat) : Fld := ⟨0x400014 + 0x80 * i, 0, 16, 0x60⟩
/-- R198: Lane carrying leg B -/
def RXE.LANE_B (i : Nat) : Fld := ⟨0x400018 + 0x80 * i, 12, 4, 0⟩
/-- R198: Lane carrying leg A -/
def RXE.LANE_A (i : Nat) : Fld := ⟨0x400018 + 0x80 * i, 8, 4, 0⟩
/-- R198: Leg B stopped under R188 -/
def RXE.LEG_B_STOPPED (i : Nat) : Fld := ⟨0x400018 + 0x80 * i, 5, 1, 0⟩
/-- R198: Leg A stopped under R188 -/
def RXE.LEG_A_STOPPED (i : Nat) : Fld := ⟨0x400018 + 0x80 * i, 4, 1, 0⟩
/-- R198: R173 -/
def RXE.LEG_B_UP (i : Nat) : Fld := ⟨0x400018 + 0x80 * i, 3, 1, 0⟩
/-- R198: R173 -/
def RXE.LEG_A_UP (i : Nat) : Fld := ⟨0x400018 + 0x80 * i, 2, 1, 0⟩
/-- R198: R174 -/
def RXE.PLACED_ONCE (i : Nat) : Fld := ⟨0x400018 + 0x80 * i, 1, 1, 0⟩
/-- R198: R174 -/
def RXE.STARVED (i : Nat) : Fld := ⟨0x400018 + 0x80 * i, 0, 1, 0⟩
/-- R198: Leg present -/
def RXE.LEG_VALID (i l : Nat) : Fld := ⟨0x400020 + 0x80 * i + 0x30 * l, 31, 1, 0⟩
/-- R198: R183 -/
def RXE.LEG_LANE_AUTO (i l : Nat) : Fld := ⟨0x400020 + 0x80 * i + 0x30 * l, 12, 1, 1⟩
/-- R198: Pinned lane -/
def RXE.LEG_LANE (i l : Nat) : Fld := ⟨0x400020 + 0x80 * i + 0x30 * l, 8, 4, 0⟩
/-- R198: R166 -/
def RXE.LEG_SRC_FILT (i l : Nat) : Fld := ⟨0x400020 + 0x80 * i + 0x30 * l, 4, 1, 0⟩
/-- R198: IP version -/
def RXE.LEG_IPV6 (i l : Nat) : Fld := ⟨0x400020 + 0x80 * i + 0x30 * l, 2, 1, 0⟩
/-- R198: 0 MPA, 1 MPB -/
def RXE.LEG_PORT (i l : Nat) : Fld := ⟨0x400020 + 0x80 * i + 0x30 * l, 0, 1, 0⟩
/-- R198: R166 -/
def RXE.LEG_UDP_DPORT (i l : Nat) : Fld := ⟨0x400024 + 0x80 * i + 0x30 * l, 0, 16, 0⟩
/-- R198: IPv6: bytes 0–3 in L+2, 4–7 in L+3, 8–11 in L+4, 12–15 in L+5. IPv4: the address in L+2; L+3 to L+5 are ignored, and you must write them as 0. Within -/
def RXE.LEG_DEST_IP (i l k : Nat) : Fld := ⟨0x400028 + 0x80 * i + 0x30 * l + 4 * k, 0, 32, 0⟩
/-- R198: As DEST_IP -/
def RXE.LEG_SRC_IP (i l k : Nat) : Fld := ⟨0x400038 + 0x80 * i + 0x30 * l + 4 * k, 0, 32, 0⟩

/-! ## TXE -/

/-- R199: R181 -/
def TXE.ENABLE (i : Nat) : Fld := ⟨0x500000 + 0x80 * i, 31, 1, 0⟩
/-- R199: R163 -/
def TXE.WIDE (i : Nat) : Fld := ⟨0x500000 + 0x80 * i, 30, 1, 0⟩
/-- R199: R180 -/
def TXE.REDUNDANT (i : Nat) : Fld := ⟨0x500000 + 0x80 * i, 29, 1, 0⟩
/-- R199: AM824 V (R165) -/
def TXE.VALIDITY (i : Nat) : Fld := ⟨0x500000 + 0x80 * i, 27, 1, 0⟩
/-- R199: R162 -/
def TXE.ENC (i : Nat) : Fld := ⟨0x500000 + 0x80 * i, 24, 2, 1⟩
/-- R199: As receive -/
def TXE.RATE (i : Nat) : Fld := ⟨0x500000 + 0x80 * i, 20, 2, 0⟩
/-- R199: 1–256 -/
def TXE.CHANNELS (i : Nat) : Fld := ⟨0x500000 + 0x80 * i, 0, 9, 0⟩
/-- R199: R163 -/
def TXE.SPP (i : Nat) : Fld := ⟨0x500004 + 0x80 * i, 16, 11, 0⟩
/-- R199: R164 -/
def TXE.BASE_SLOT (i : Nat) : Fld := ⟨0x500004 + 0x80 * i, 0, 11, 0⟩
/-- R199: R176 -/
def TXE.SEQ_INIT (i : Nat) : Fld := ⟨0x500008 + 0x80 * i, 16, 16, 0⟩
/-- R199: R176 -/
def TXE.PT (i : Nat) : Fld := ⟨0x500008 + 0x80 * i, 0, 7, 0x60⟩
/-- R199: R176 -/
def TXE.SSRC (i : Nat) : Fld := ⟨0x50000C + 0x80 * i, 0, 32, 0⟩
/-- R199: R176 -/
def TXE.RTP_OFFSET (i : Nat) : Fld := ⟨0x500010 + 0x80 * i, 0, 32, 0⟩
/-- R199: ns; values outside 10,000–1,000,000 act as the nearer limit -/
def TXE.LAUNCH_OFS (i : Nat) : Fld := ⟨0x500014 + 0x80 * i, 0, 20, 0x2710⟩
/-- R199: Lane carrying leg B -/
def TXE.LANE_B (i : Nat) : Fld := ⟨0x500018 + 0x80 * i, 12, 4, 0⟩
/-- R199: Lane carrying leg A -/
def TXE.LANE_A (i : Nat) : Fld := ⟨0x500018 + 0x80 * i, 8, 4, 0⟩
/-- R199: Leg B stopped under R188 -/
def TXE.LEG_B_STOPPED (i : Nat) : Fld := ⟨0x500018 + 0x80 * i, 5, 1, 0⟩
/-- R199: Leg A stopped under R188 -/
def TXE.LEG_A_STOPPED (i : Nat) : Fld := ⟨0x500018 + 0x80 * i, 4, 1, 0⟩
/-- R199: Leg present -/
def TXE.LEG_VALID (i l : Nat) : Fld := ⟨0x500020 + 0x80 * i + 0x30 * l, 31, 1, 0⟩
/-- R199: IP version -/
def TXE.LEG_IPV6 (i l : Nat) : Fld := ⟨0x500020 + 0x80 * i + 0x30 * l, 30, 1, 0⟩
/-- R199: 0 MPA, 1 MPB -/
def TXE.LEG_PORT (i l : Nat) : Fld := ⟨0x500020 + 0x80 * i + 0x30 * l, 29, 1, 0⟩
/-- R199: R183 -/
def TXE.LEG_LANE_AUTO (i l : Nat) : Fld := ⟨0x500020 + 0x80 * i + 0x30 * l, 28, 1, 1⟩
/-- R199: Pinned lane -/
def TXE.LEG_LANE (i l : Nat) : Fld := ⟨0x500020 + 0x80 * i + 0x30 * l, 24, 4, 0⟩
/-- R199: Send an 802.1Q tag -/
def TXE.LEG_VLAN_EN (i l : Nat) : Fld := ⟨0x500020 + 0x80 * i + 0x30 * l, 23, 1, 0⟩
/-- R199: Tag priority -/
def TXE.LEG_PCP (i l : Nat) : Fld := ⟨0x500020 + 0x80 * i + 0x30 * l, 20, 3, 0⟩
/-- R199: Tag VLAN -/
def TXE.LEG_VLAN_ID (i l : Nat) : Fld := ⟨0x500020 + 0x80 * i + 0x30 * l, 0, 12, 0⟩
/-- R199: IP DSCP -/
def TXE.LEG_DSCP (i l : Nat) : Fld := ⟨0x500024 + 0x80 * i + 0x30 * l, 26, 6, 0x22⟩
/-- R199: TTL or hop limit -/
def TXE.LEG_TTL (i l : Nat) : Fld := ⟨0x500024 + 0x80 * i + 0x30 * l, 16, 8, 0x40⟩
/-- R199: 1 computes the checksum; 0 sends 0 over IPv4. Over IPv6 the checksum is always computed -/
def TXE.LEG_UDP_CSUM (i l : Nat) : Fld := ⟨0x500024 + 0x80 * i + 0x30 * l, 0, 1, 0⟩
/-- R199: Source port -/
def TXE.LEG_UDP_SPORT (i l : Nat) : Fld := ⟨0x500028 + 0x80 * i + 0x30 * l, 16, 16, 0x138C⟩
/-- R199: Destination port -/
def TXE.LEG_UDP_DPORT (i l : Nat) : Fld := ⟨0x500028 + 0x80 * i + 0x30 * l, 0, 16, 0x138C⟩
/-- R199: As receive, from L+3: IPv4 in L+3 with L+4 to L+6 ignored and written as 0; IPv6 bytes 0–3 in L+3 and so on; network order within each word, the first -/
def TXE.LEG_DEST_IP (i l k : Nat) : Fld := ⟨0x50002C + 0x80 * i + 0x30 * l + 4 * k, 0, 32, 0⟩
/-- R199: As STATION_MAC_LO (R155) -/
def TXE.LEG_DEST_MAC_LO (i l : Nat) : Fld := ⟨0x50003C + 0x80 * i + 0x30 * l, 0, 32, 0⟩
/-- R199: As STATION_MAC_HI -/
def TXE.LEG_DEST_MAC_HI (i l : Nat) : Fld := ⟨0x500040 + 0x80 * i + 0x30 * l, 0, 16, 0⟩

/-! ## RXC -/

/-- R200: A packet of the leg is claimed -/
def RXC.PKTS (i l : Nat) : Fld := ⟨0x600000 + 0x80 * i + 4 * l, 0, 32, 0⟩
/-- R200: R171 -/
def RXC.PLACED (i l : Nat) : Fld := ⟨0x600008 + 0x80 * i + 4 * l, 0, 32, 0⟩
/-- R200: R171 -/
def RXC.DUP (i l : Nat) : Fld := ⟨0x600010 + 0x80 * i + 4 * l, 0, 32, 0⟩
/-- R200: R171 -/
def RXC.LATE (i l : Nat) : Fld := ⟨0x600018 + 0x80 * i + 4 * l, 0, 32, 0⟩
/-- R200: R171 -/
def RXC.EARLY (i l : Nat) : Fld := ⟨0x600020 + 0x80 * i + 4 * l, 0, 32, 0⟩
/-- R200: R168 -/
def RXC.RTP_ERR (i l : Nat) : Fld := ⟨0x600028 + 0x80 * i + 4 * l, 0, 32, 0⟩
/-- R200: By g (R169) -/
def RXC.SEQ_GAP (i l : Nat) : Fld := ⟨0x600030 + 0x80 * i + 4 * l, 0, 32, 0⟩
/-- R200: R169 -/
def RXC.SEQ_REORDER (i l : Nat) : Fld := ⟨0x600038 + 0x80 * i + 4 * l, 0, 32, 0⟩
/-- R200: R167 -/
def RXC.UDP_CSUM (i l : Nat) : Fld := ⟨0x600040 + 0x80 * i + 4 * l, 0, 32, 0⟩
/-- R200: R167 -/
def RXC.SEAL_ERR (i l : Nat) : Fld := ⟨0x600048 + 0x80 * i + 4 * l, 0, 32, 0⟩
/-- R200: A packet is lost under R186 or R188 -/
def RXC.LANE_LOST (i l : Nat) : Fld := ⟨0x600050 + 0x80 * i + 4 * l, 0, 32, 0⟩
/-- R200: By each late frame (R171) -/
def RXC.LATE_FRAMES (i : Nat) : Fld := ⟨0x600058 + 0x80 * i, 0, 32, 0⟩
/-- R200: By each concealed frame (R174) -/
def RXC.HOLE_FRAMES (i : Nat) : Fld := ⟨0x60005C + 0x80 * i, 0, 32, 0⟩
/-- R200: STARVED rises -/
def RXC.HOLES (i : Nat) : Fld := ⟨0x600060 + 0x80 * i, 0, 32, 0⟩
/-- R200: R172 -/
def RXC.CMP_MISMATCH (i : Nat) : Fld := ⟨0x600064 + 0x80 * i, 0, 32, 0⟩
/-- R200: R168 -/
def RXC.SSRC_CHANGE (i : Nat) : Fld := ⟨0x600068 + 0x80 * i, 0, 32, 0⟩
/-- R200: R165 -/
def RXC.AM824_PARITY (i : Nat) : Fld := ⟨0x60006C + 0x80 * i, 0, 32, 0⟩

/-! ## TXC -/

/-- R201: A frame of the leg leaves -/
def TXC.SENT (i l : Nat) : Fld := ⟨0x700000 + 0x80 * i + 4 * l, 0, 32, 0⟩
/-- R201: R178 -/
def TXC.LAUNCH_LATE (i l : Nat) : Fld := ⟨0x700008 + 0x80 * i + 4 * l, 0, 32, 0⟩
/-- R201: R179, R180 -/
def TXC.LINK_DROP (i l : Nat) : Fld := ⟨0x700010 + 0x80 * i + 4 * l, 0, 32, 0⟩
/-- R201: R186, R188 -/
def TXC.LANE_LOST (i l : Nat) : Fld := ⟨0x700018 + 0x80 * i + 4 * l, 0, 32, 0⟩
/-- R201: R178 -/
def TXC.STALE (i l : Nat) : Fld := ⟨0x700020 + 0x80 * i + 4 * l, 0, 32, 0⟩
/-- R201: Largest departure error, ns -/
def TXC.MAX_ERR (i l : Nat) : Fld := ⟨0x700028 + 0x80 * i + 4 * l, 0, 32, 0⟩
/-- R201: A packet uses its sequence number (R176). This happens once at each packet boundary from the first packet after ENABLE (R181), while ENABLE is 1, whet -/
def TXC.PACKETS (i : Nat) : Fld := ⟨0x700030 + 0x80 * i, 0, 32, 0⟩

/-! ## QUE -/

/-- Bit of QUE.INT (R235): Any rise of LIVE (R231) -/
def QUE.INT_BELLOWS_HIGH : Nat := 4
/-- Bit of QUE.INT (R235): Any bit of LVL_X rises, including queue 0; the enable gates 0x0112 together with LVL_EN (R229) -/
def QUE.INT_QUEUE_LEVEL : Nat := 3
/-- Bit of QUE.INT (R235): R228 -/
def QUE.INT_SPILL_LOST : Nat := 2
/-- Bit of QUE.INT (R235): R220 -/
def QUE.INT_BANK_RELEASED : Nat := 1
/-- Bit of QUE.INT (R235): R218 -/
def QUE.INT_BANK_FAULT : Nat := 0
/-- R235: R217 -/
def QUE.UE_FAULT_N : Fld := ⟨0x100000, 12, 4, 2⟩
/-- R235: R205 -/
def QUE.SCRUB_EN : Fld := ⟨0x100000, 8, 1, 1⟩
/-- R235: Bit j: logical bank j absent (R218) -/
def QUE.STATUS_ABSENT_MAP : Fld := ⟨0x100004, 8, 8, 0⟩
/-- R235: A handover under R216 is in progress -/
def QUE.STATUS_HANDOVER : Fld := ⟨0x100004, 4, 1, 0⟩
/-- R235: R214 -/
def QUE.STATUS_SPARE_OK : Fld := ⟨0x100004, 0, 1, 1⟩
/-- R235: Physical bank carrying logical bank j; 0xF absent -/
def QUE.BANK_MAP (j : Nat) : Fld := ⟨0x100010, 4 * j, 4, j⟩
/-- R235: R216 -/
def QUE.COPY_LINE : Fld := ⟨0x100014, 0, 16, 0⟩
/-- R235: Free ring-pool pages (R206) -/
def QUE.POOL_FREE : Fld := ⟨0x100020, 0, 13, 0x1800⟩
/-- R235: Last fault (R217) -/
def QUE.LASTF_CAUSE : Fld := ⟨0x100030, 16, 8, 0⟩
/-- R235: Logical bank of the last fault, 0xFF none -/
def QUE.LASTF_LBANK : Fld := ⟨0x100030, 8, 8, 0⟩
/-- R235: Physical bank of the last fault -/
def QUE.LASTF_BANK : Fld := ⟨0x100030, 0, 4, 0⟩
/-- R235: Short time of the last detection -/
def QUE.FAULT_TIME : Fld := ⟨0x100034, 0, 32, 0⟩
/-- R235: Logical bank carried; h = 0–8 -/
def QUE.BANK_LBANK (h : Nat) : Fld := ⟨0x100040 + 4 * h, 4, 3, if h < 8 then h else 0⟩
/-- R235: R214 -/
def QUE.BANK_ROLE (h : Nat) : Fld := ⟨0x100040 + 4 * h, 0, 3, if h = 8 then 1 else 0⟩
/-- R236: Corrected errors (R202) -/
def QUE.BANK_CE (h : Nat) : Fld := ⟨0x100080 + 4 * h, 0, 32, 0⟩
/-- R236: Uncorrectable errors (R202) -/
def QUE.BANK_UE (h : Nat) : Fld := ⟨0x1000C0 + 4 * h, 0, 32, 0⟩
/-- R236: Failures, any cause (R217) -/
def QUE.BANK_FAULTS (h : Nat) : Fld := ⟨0x100100 + 4 * h, 0, 32, 0⟩
/-- R236: Sticky crossing per queue (R229) -/
def QUE.LVL_X : Fld := ⟨0x100200, 0, 16, 0⟩
/-- R236: Event enable per queue -/
def QUE.LVL_EN : Fld := ⟨0x100204, 0, 16, 0xFFFF⟩
/-- R236: Live OCC > LEVEL per queue -/
def QUE.LVL_ABOVE : Fld := ⟨0x100208, 0, 16, 0⟩
/-- R236: Sticky rise of LIVE per unit (R231) -/
def QUE.BLW_X : Fld := ⟨0x100210, 0, 8, 0⟩
/-- R236: LIVE per unit (R230) -/
def QUE.BLW_STATE_LIVE : Fld := ⟨0x100218, 8, 8, 0⟩
/-- R236: Pin asserted per unit, before POL -/
def QUE.BLW_STATE_PIN : Fld := ⟨0x100218, 0, 8, 0⟩
/-- R237: R227 -/
def QUE.Q_EN (q : Nat) : Fld := ⟨0x101000 + 0x40 * q, 31, 1, 1⟩
/-- R237: Entries, 32–32,768 (R227); 32,768 is written as 0 -/
def QUE.Q_CAP (q : Nat) : Fld := ⟨0x101000 + 0x40 * q, 0, 16, if 7 ≤ q then 8192 else 4096⟩
/-- R237: R229 -/
def QUE.Q_LEVEL (q : Nat) : Fld := ⟨0x101004 + 0x40 * q, 0, 16, 0xFFFF⟩
/-- R237: R222 -/
def QUE.Q_OCC (q : Nat) : Fld := ⟨0x101008 + 0x40 * q, 16, 16, 0⟩
/-- R237: R222 -/
def QUE.Q_DEPTH (q : Nat) : Fld := ⟨0x101008 + 0x40 * q, 0, 16, 0⟩
/-- R237: R225 -/
def QUE.Q_MARKER_QUEUED (q : Nat) : Fld := ⟨0x10100C + 0x40 * q, 2, 1, 0⟩
/-- R237: R223 -/
def QUE.Q_MARK_HELD (q : Nat) : Fld := ⟨0x10100C + 0x40 * q, 1, 1, 0⟩
/-- R237: As LVL_ABOVE -/
def QUE.Q_ABOVE (q : Nat) : Fld := ⟨0x10100C + 0x40 * q, 0, 1, 0⟩
/-- R237: Highest OCC since the last read. The read restarts it from the OCC of the cycle in which the read reaches the block, so a read that follows at once re -/
def QUE.Q_PEAK_OCC (q : Nat) : Fld := ⟨0x101020 + 0x40 * q, 0, 16, 0⟩
/-- R239: R231 -/
def QUE.BLW_EN (b : Nat) : Fld := ⟨0x100800 + 0x20 * b, 31, 1, 0⟩
/-- R239: 0 asserted high, 1 asserted low -/
def QUE.BLW_POL (b : Nat) : Fld := ⟨0x100800 + 0x20 * b, 8, 1, 0⟩
/-- R239: Queue bound (R230) -/
def QUE.BLW_QUEUE (b : Nat) : Fld := ⟨0x100800 + 0x20 * b, 0, 4, 0⟩
/-- R239: Entries (R230) -/
def QUE.BLW_HI (b : Nat) : Fld := ⟨0x100804 + 0x20 * b, 0, 16, 0xFFFF⟩
/-- R239: Entries (R230) -/
def QUE.BLW_LO (b : Nat) : Fld := ⟨0x100808 + 0x20 * b, 0, 16, 0⟩
/-- R239: Rises of LIVE (R231) -/
def QUE.BLW_XCNT (b : Nat) : Fld := ⟨0x10080C + 0x20 * b, 0, 32, 0⟩
/-- R239: R230 -/
def QUE.BLW_LIVE (b : Nat) : Fld := ⟨0x100810 + 0x20 * b, 1, 1, 0⟩
/-- R239: Pin asserted, before POL -/
def QUE.BLW_PIN (b : Nat) : Fld := ⟨0x100810 + 0x20 * b, 0, 1, 0⟩
/-- R238: A push is dropped, once per item (R225, R227) -/
def QUE.Q_DROP_CNT (q : Nat) : Fld := ⟨0x101010 + 0x40 * q, 0, 32, 0⟩
/-- R238: A gap marker is placed (R225) -/
def QUE.Q_MARKERS (q : Nat) : Fld := ⟨0x101014 + 0x40 * q, 0, 32, 0⟩
/-- R238: OCC crosses LEVEL upward (R229) -/
def QUE.Q_LVL_XCNT (q : Nat) : Fld := ⟨0x101018 + 0x40 * q, 0, 32, 0⟩
/-- R238: By each entry discarded under R228 -/
def QUE.Q_SPILL_LOST (q : Nat) : Fld := ⟨0x10101C + 0x40 * q, 0, 32, 0⟩
/-- R235: Interrupt enables, laid out as INT -/
def QUE.INT_EN : Fld := ⟨0x10000C, 0, 5, 0x1F⟩
/-- R235: Interrupt flags; bits: BELLOWS_HIGH [4], QUEUE_LEVEL [3], SPILL_LOST [2], BANK_RELEASED [1], BANK_FAULT [0] -/
def QUE.INT : Fld := ⟨0x100008, 0, 5, 0⟩

/-- Fields of STRM, part 0, with access type and update class. -/
def STRM.fields0 : List FldSpec := [
  FldSpec.one STRM.CTRL_EVT_HOLDOFF .rw .live,
  FldSpec.one STRM.CTRL_LEG_TIMEOUT .rw .live,
  FldSpec.one STRM.CTRL_SEAL_FAULT_N .rw .live,
  FldSpec.one STRM.STATUS_WORKING .ro .none,
  FldSpec.one STRM.STATUS_SPARE_OK .ro .none,
  FldSpec.one STRM.NOT_VALID_DROP .ro .none,
  FldSpec.one STRM.CLS_HOLD .ro .none,
  FldSpec.one STRM.NO_LANE_STOPS .ro .none,
  FldSpec.one STRM.LASTF_CAUSE .ro .none,
  FldSpec.one STRM.LASTF_LANE .ro .none,
  FldSpec.one STRM.LASTF_HAMMER .ro .none,
  FldSpec.one STRM.FAULT_TIME .ro .none,
  FldSpec.arr STRM.FAULT_MAP 32 4 (fun _ => .ro) (fun _ => .none),
  FldSpec.arr STRM.HAMMER_LOAD 17 4 (fun _ => .ro) (fun _ => .none),
  FldSpec.arr STRM.HAMMER_INFLIGHT 17 4 (fun _ => .ro) (fun _ => .none),
  FldSpec.arr STRM.HAMMER_LANE 17 4 (fun _ => .ro) (fun _ => .none)]
/-- Fields of STRM, part 1, with access type and update class. -/
def STRM.fields1 : List FldSpec := [
  FldSpec.arr STRM.HAMMER_ROLE 17 4 (fun _ => .ro) (fun _ => .none),
  FldSpec.one STRM.TBL_BUSY .ro .none,
  FldSpec.one STRM.TBL_ERR .ro .none,
  FldSpec.one STRM.TBL_TABLE .rw .live,
  FldSpec.one STRM.TBL_OP .wo .live,
  FldSpec.one STRM.TBL_INDEX .rw .live,
  FldSpec.arr STRM.TBL_DATA 32 4 (fun _ => .rw) (fun _ => .live),
  FldSpec.one STRM.INT_EN .rw .live,
  FldSpec.one STRM.INT .w1c .none,
  FldSpec.arr STRM.HAMMER_FAULTS 17 4 (fun _ => .ro) (fun _ => .none)]
/-- Fields of STRM, part 2, with access type and update class. -/
def STRM.fields2 : List FldSpec := (List.range 16).map (fun i => FldSpec.one (STRM.LANE_MAP i) .ro .none)
/-- Every field of STRM. -/
def STRM.fields : List FldSpec := List.flatten [STRM.fields0, STRM.fields1, STRM.fields2]
/-- Fields of QUE, part 0, with access type and update class. -/
def QUE.fields0 : List FldSpec := [
  FldSpec.one QUE.UE_FAULT_N .rw .live,
  FldSpec.one QUE.SCRUB_EN .rw .live,
  FldSpec.one QUE.STATUS_ABSENT_MAP .ro .none,
  FldSpec.one QUE.STATUS_HANDOVER .ro .none,
  FldSpec.one QUE.STATUS_SPARE_OK .ro .none,
  FldSpec.one QUE.COPY_LINE .ro .none,
  FldSpec.one QUE.POOL_FREE .ro .none,
  FldSpec.one QUE.LASTF_CAUSE .ro .none,
  FldSpec.one QUE.LASTF_LBANK .ro .none,
  FldSpec.one QUE.LASTF_BANK .ro .none,
  FldSpec.one QUE.FAULT_TIME .ro .none,
  FldSpec.arr QUE.BANK_LBANK 9 4 (fun _ => .ro) (fun _ => .none),
  FldSpec.arr QUE.BANK_ROLE 9 4 (fun _ => .ro) (fun _ => .none),
  FldSpec.arr QUE.BANK_CE 9 4 (fun _ => .ro) (fun _ => .none),
  FldSpec.arr QUE.BANK_UE 9 4 (fun _ => .ro) (fun _ => .none),
  FldSpec.arr QUE.BANK_FAULTS 9 4 (fun _ => .ro) (fun _ => .none)]
/-- Fields of QUE, part 1, with access type and update class. -/
def QUE.fields1 : List FldSpec := [
  FldSpec.one QUE.LVL_X .w1c .none,
  FldSpec.one QUE.LVL_EN .rw .live,
  FldSpec.one QUE.LVL_ABOVE .ro .none,
  FldSpec.one QUE.BLW_X .w1c .none,
  FldSpec.one QUE.BLW_STATE_LIVE .ro .none,
  FldSpec.one QUE.BLW_STATE_PIN .ro .none,
  FldSpec.arr QUE.Q_EN 11 0x40 (fun _ => .rw) (fun _ => .live),
  FldSpec.arr QUE.Q_CAP 11 0x40 (fun _ => .rw) (fun _ => .static),
  FldSpec.arr QUE.Q_LEVEL 11 0x40 (fun _ => .rw) (fun _ => .live),
  FldSpec.arr QUE.Q_OCC 11 0x40 (fun _ => .ro) (fun _ => .none),
  FldSpec.arr QUE.Q_DEPTH 11 0x40 (fun _ => .ro) (fun _ => .none),
  FldSpec.arr QUE.Q_MARKER_QUEUED 11 0x40 (fun _ => .ro) (fun _ => .none),
  FldSpec.arr QUE.Q_MARK_HELD 11 0x40 (fun _ => .ro) (fun _ => .none),
  FldSpec.arr QUE.Q_ABOVE 11 0x40 (fun _ => .ro) (fun _ => .none),
  FldSpec.arr QUE.Q_PEAK_OCC 11 0x40 (fun _ => .rc) (fun _ => .none),
  FldSpec.arr QUE.BLW_EN 8 0x20 (fun _ => .rw) (fun _ => .live)]
/-- Fields of QUE, part 2, with access type and update class. -/
def QUE.fields2 : List FldSpec := [
  FldSpec.arr QUE.BLW_POL 8 0x20 (fun _ => .rw) (fun _ => .static),
  FldSpec.arr QUE.BLW_QUEUE 8 0x20 (fun _ => .rw) (fun _ => .static),
  FldSpec.arr QUE.BLW_HI 8 0x20 (fun _ => .rw) (fun _ => .live),
  FldSpec.arr QUE.BLW_LO 8 0x20 (fun _ => .rw) (fun _ => .live),
  FldSpec.arr QUE.BLW_XCNT 8 0x20 (fun _ => .ro) (fun _ => .none),
  FldSpec.arr QUE.BLW_LIVE 8 0x20 (fun _ => .ro) (fun _ => .none),
  FldSpec.arr QUE.BLW_PIN 8 0x20 (fun _ => .ro) (fun _ => .none),
  FldSpec.arr QUE.Q_DROP_CNT 11 0x40 (fun _ => .ro) (fun _ => .none),
  FldSpec.arr QUE.Q_MARKERS 11 0x40 (fun _ => .ro) (fun _ => .none),
  FldSpec.arr QUE.Q_LVL_XCNT 11 0x40 (fun _ => .ro) (fun _ => .none),
  FldSpec.arr QUE.Q_SPILL_LOST 11 0x40 (fun _ => .ro) (fun _ => .none),
  FldSpec.one QUE.INT_EN .rw .live,
  FldSpec.one QUE.INT .w1c .none]
/-- Fields of QUE, part 3, with access type and update class. -/
def QUE.fields3 : List FldSpec := (List.range 8).map (fun j => FldSpec.one (QUE.BANK_MAP j) .ro .none)
/-- Every field of QUE. -/
def QUE.fields : List FldSpec := List.flatten [QUE.fields0, QUE.fields1, QUE.fields2, QUE.fields3]
/-- Fields of entry i of RXE, part 0, with access type and update class. -/
def RXE.entry0 (i : Nat) : List FldSpec := [
  FldSpec.one (RXE.ENABLE i) .rw .live,
  FldSpec.one (RXE.WIDE i) .rw .static,
  FldSpec.one (RXE.REDUNDANT i) .rw .static,
  FldSpec.one (RXE.COMPARE i) .rw .rxPacket,
  FldSpec.one (RXE.SSRC_LOCK i) .rw .rxPacket,
  FldSpec.one (RXE.PT_CHECK i) .rw .rxPacket,
  FldSpec.one (RXE.ENC i) .rw .static,
  FldSpec.one (RXE.RATE i) .rw .static,
  FldSpec.one (RXE.CHANNELS i) .rw .static,
  FldSpec.one (RXE.SPP i) .rw .static,
  FldSpec.one (RXE.BASE_SLOT i) .rw .static,
  FldSpec.one (RXE.GROUP i) .rw .static,
  FldSpec.one (RXE.PT i) .rw .rxPacket,
  FldSpec.one (RXE.SSRC i) .rw .rxPacket,
  FldSpec.one (RXE.RTP_OFFSET i) .rw .static,
  FldSpec.one (RXE.EARLY_WIN i) .rw .static]
/-- Fields of entry i of RXE, part 1, with access type and update class. -/
def RXE.entry1 (i : Nat) : List FldSpec := [
  FldSpec.one (RXE.LANE_B i) .ro .none,
  FldSpec.one (RXE.LANE_A i) .ro .none,
  FldSpec.one (RXE.LEG_B_STOPPED i) .ro .none,
  FldSpec.one (RXE.LEG_A_STOPPED i) .ro .none,
  FldSpec.one (RXE.LEG_B_UP i) .ro .none,
  FldSpec.one (RXE.LEG_A_UP i) .ro .none,
  FldSpec.one (RXE.PLACED_ONCE i) .ro .none,
  FldSpec.one (RXE.STARVED i) .ro .none,
  FldSpec.arr (RXE.LEG_VALID i) 2 0x30 (fun _ => .rw) (fun _ => .static),
  FldSpec.arr (RXE.LEG_LANE_AUTO i) 2 0x30 (fun _ => .rw) (fun _ => .static),
  FldSpec.arr (RXE.LEG_LANE i) 2 0x30 (fun _ => .rw) (fun _ => .static),
  FldSpec.arr (RXE.LEG_SRC_FILT i) 2 0x30 (fun _ => .rw) (fun _ => .static),
  FldSpec.arr (RXE.LEG_IPV6 i) 2 0x30 (fun _ => .rw) (fun _ => .static),
  FldSpec.arr (RXE.LEG_PORT i) 2 0x30 (fun _ => .rw) (fun _ => .static),
  FldSpec.arr (RXE.LEG_UDP_DPORT i) 2 0x30 (fun _ => .rw) (fun _ => .static),
  FldSpec.arr (RXE.LEG_DEST_IP i 0) 4 4 (fun _ => .rw) (fun _ => .static)]
/-- Fields of entry i of RXE, part 2, with access type and update class. -/
def RXE.entry2 (i : Nat) : List FldSpec := [
  FldSpec.arr (RXE.LEG_DEST_IP i 1) 4 4 (fun _ => .rw) (fun _ => .static),
  FldSpec.arr (RXE.LEG_SRC_IP i 0) 4 4 (fun _ => .rw) (fun _ => .static),
  FldSpec.arr (RXE.LEG_SRC_IP i 1) 4 4 (fun _ => .rw) (fun _ => .static)]
/-- Every field of entry i of RXE. -/
def RXE.entry (i : Nat) : List FldSpec := List.flatten [RXE.entry0 i, RXE.entry1 i, RXE.entry2 i]
/-- Fields of entry i of TXE, part 0, with access type and update class. -/
def TXE.entry0 (i : Nat) : List FldSpec := [
  FldSpec.one (TXE.ENABLE i) .rw .txPacket,
  FldSpec.one (TXE.WIDE i) .rw .static,
  FldSpec.one (TXE.REDUNDANT i) .rw .static,
  FldSpec.one (TXE.VALIDITY i) .rw .txPacket,
  FldSpec.one (TXE.ENC i) .rw .static,
  FldSpec.one (TXE.RATE i) .rw .static,
  FldSpec.one (TXE.CHANNELS i) .rw .static,
  FldSpec.one (TXE.SPP i) .rw .static,
  FldSpec.one (TXE.BASE_SLOT i) .rw .static,
  FldSpec.one (TXE.SEQ_INIT i) .rw .static,
  FldSpec.one (TXE.PT i) .rw .static,
  FldSpec.one (TXE.SSRC i) .rw .static,
  FldSpec.one (TXE.RTP_OFFSET i) .rw .static,
  FldSpec.one (TXE.LAUNCH_OFS i) .rw .static,
  FldSpec.one (TXE.LANE_B i) .ro .none,
  FldSpec.one (TXE.LANE_A i) .ro .none]
/-- Fields of entry i of TXE, part 1, with access type and update class. -/
def TXE.entry1 (i : Nat) : List FldSpec := [
  FldSpec.one (TXE.LEG_B_STOPPED i) .ro .none,
  FldSpec.one (TXE.LEG_A_STOPPED i) .ro .none,
  FldSpec.arr (TXE.LEG_VALID i) 2 0x30 (fun _ => .rw) (fun _ => .static),
  FldSpec.arr (TXE.LEG_IPV6 i) 2 0x30 (fun _ => .rw) (fun _ => .static),
  FldSpec.arr (TXE.LEG_PORT i) 2 0x30 (fun _ => .rw) (fun _ => .static),
  FldSpec.arr (TXE.LEG_LANE_AUTO i) 2 0x30 (fun _ => .rw) (fun _ => .static),
  FldSpec.arr (TXE.LEG_LANE i) 2 0x30 (fun _ => .rw) (fun _ => .static),
  FldSpec.arr (TXE.LEG_VLAN_EN i) 2 0x30 (fun _ => .rw) (fun _ => .static),
  FldSpec.arr (TXE.LEG_PCP i) 2 0x30 (fun _ => .rw) (fun _ => .txPacket),
  FldSpec.arr (TXE.LEG_VLAN_ID i) 2 0x30 (fun _ => .rw) (fun _ => .static),
  FldSpec.arr (TXE.LEG_DSCP i) 2 0x30 (fun _ => .rw) (fun _ => .txPacket),
  FldSpec.arr (TXE.LEG_TTL i) 2 0x30 (fun _ => .rw) (fun _ => .static),
  FldSpec.arr (TXE.LEG_UDP_CSUM i) 2 0x30 (fun _ => .rw) (fun _ => .static),
  FldSpec.arr (TXE.LEG_UDP_SPORT i) 2 0x30 (fun _ => .rw) (fun _ => .static),
  FldSpec.arr (TXE.LEG_UDP_DPORT i) 2 0x30 (fun _ => .rw) (fun _ => .static),
  FldSpec.arr (TXE.LEG_DEST_IP i 0) 4 4 (fun _ => .rw) (fun _ => .static)]
/-- Fields of entry i of TXE, part 2, with access type and update class. -/
def TXE.entry2 (i : Nat) : List FldSpec := [
  FldSpec.arr (TXE.LEG_DEST_IP i 1) 4 4 (fun _ => .rw) (fun _ => .static),
  FldSpec.arr (TXE.LEG_DEST_MAC_LO i) 2 0x30 (fun _ => .cp) (fun _ => .none),
  FldSpec.arr (TXE.LEG_DEST_MAC_HI i) 2 0x30 (fun _ => .cp) (fun _ => .none)]
/-- Every field of entry i of TXE. -/
def TXE.entry (i : Nat) : List FldSpec := List.flatten [TXE.entry0 i, TXE.entry1 i, TXE.entry2 i]
/-- Fields of entry i of RXC, part 0, with access type and update class. -/
def RXC.entry0 (i : Nat) : List FldSpec := [
  FldSpec.arr (RXC.PKTS i) 2 4 (fun _ => .ro) (fun _ => .none),
  FldSpec.arr (RXC.PLACED i) 2 4 (fun _ => .ro) (fun _ => .none),
  FldSpec.arr (RXC.DUP i) 2 4 (fun _ => .ro) (fun _ => .none),
  FldSpec.arr (RXC.LATE i) 2 4 (fun _ => .ro) (fun _ => .none),
  FldSpec.arr (RXC.EARLY i) 2 4 (fun _ => .ro) (fun _ => .none),
  FldSpec.arr (RXC.RTP_ERR i) 2 4 (fun _ => .ro) (fun _ => .none),
  FldSpec.arr (RXC.SEQ_GAP i) 2 4 (fun _ => .ro) (fun _ => .none),
  FldSpec.arr (RXC.SEQ_REORDER i) 2 4 (fun _ => .ro) (fun _ => .none),
  FldSpec.arr (RXC.UDP_CSUM i) 2 4 (fun _ => .ro) (fun _ => .none),
  FldSpec.arr (RXC.SEAL_ERR i) 2 4 (fun _ => .ro) (fun _ => .none),
  FldSpec.arr (RXC.LANE_LOST i) 2 4 (fun _ => .ro) (fun _ => .none),
  FldSpec.one (RXC.LATE_FRAMES i) .ro .none,
  FldSpec.one (RXC.HOLE_FRAMES i) .ro .none,
  FldSpec.one (RXC.HOLES i) .ro .none,
  FldSpec.one (RXC.CMP_MISMATCH i) .ro .none,
  FldSpec.one (RXC.SSRC_CHANGE i) .ro .none]
/-- Fields of entry i of RXC, part 1, with access type and update class. -/
def RXC.entry1 (i : Nat) : List FldSpec := [
  FldSpec.one (RXC.AM824_PARITY i) .ro .none]
/-- Every field of entry i of RXC. -/
def RXC.entry (i : Nat) : List FldSpec := List.flatten [RXC.entry0 i, RXC.entry1 i]
/-- Fields of entry i of TXC, part 0, with access type and update class. -/
def TXC.entry0 (i : Nat) : List FldSpec := [
  FldSpec.arr (TXC.SENT i) 2 4 (fun _ => .ro) (fun _ => .none),
  FldSpec.arr (TXC.LAUNCH_LATE i) 2 4 (fun _ => .ro) (fun _ => .none),
  FldSpec.arr (TXC.LINK_DROP i) 2 4 (fun _ => .ro) (fun _ => .none),
  FldSpec.arr (TXC.LANE_LOST i) 2 4 (fun _ => .ro) (fun _ => .none),
  FldSpec.arr (TXC.STALE i) 2 4 (fun _ => .ro) (fun _ => .none),
  FldSpec.arr (TXC.MAX_ERR i) 2 4 (fun _ => .ro) (fun _ => .none),
  FldSpec.one (TXC.PACKETS i) .ro .none]
/-- Every field of entry i of TXC. -/
def TXC.entry (i : Nat) : List FldSpec := List.flatten [TXC.entry0 i]

end Sys2Proof.Machine
end

