-- ==== Sys2Proof/Machine/RegsSys.lean ====
section
/-! DEFINITION. Registers of SYS, CMD and DMA (chapters 00, 07, 12, 16).
Each field is written from the register tables of spec/ (the rule is named at each): its offset in the window, lowest bit,
width and reset value. Resets the spec leaves to the part, the fuses, the MRAM, the AON domain or a strap are those the
assumption log names (entry 1). -/

namespace Sys2Proof.Machine

/-! ## SYS -/

/-- Bit of SYS.INT (R539): 0x0144 -/
def SYS.INT_CFG_REJECT : Nat := 4
/-- Bit of SYS.INT (R539): 0x0143 -/
def SYS.INT_START_FAULT : Nat := 3
/-- Bit of SYS.INT (R539): 0x0142 -/
def SYS.INT_BROWNOUT : Nat := 2
/-- Bit of SYS.INT (R539): 0x0141 -/
def SYS.INT_RECOVERY : Nat := 1
/-- Bit of SYS.INT (R539): 0x0140 -/
def SYS.INT_READY : Nat := 0
/-- R3: Part number -/
def SYS.DEVICE_ID_PART : Fld := ⟨0, 16, 16, 0x2048⟩
/-- R3: 0x1: NC2048-AI; 0x2: NC2048-NI; other values are not issued -/
def SYS.DEVICE_ID_VARIANT : Fld := ⟨0, 12, 4, 1⟩
/-- R3: Silicon stepping, from 0x1 upwards -/
def SYS.DEVICE_ID_STEP : Fld := ⟨0, 8, 4, 1⟩
/-- R3: Highest behaviour level this part implements. Parts described by this edition read 1 or more. -/
def SYS.DEVICE_ID_BLMAX : Fld := ⟨0, 0, 8, 1⟩
/-- R253: ms; 0 none (R251) -/
def SYS.SEAL_EVT_HOLDOFF : Fld := ⟨0x400, 16, 8, 0x64⟩
/-- R253: Host supplies playback seals (R246) -/
def SYS.SEAL_PLAY_HOST_SEAL : Fld := ⟨0x400, 0, 1, 1⟩
/-- R253: Bit i: failure at check point i -/
def SYS.SEAL_INT : Fld := ⟨0x408, 0, 16, 0⟩
/-- R253: Event enable per check point -/
def SYS.SEAL_INT_EN : Fld := ⟨0x40C, 0, 16, 0xFFFF⟩
/-- R253: Last failure carried the uncorrectable mark -/
def SYS.SEAL_MARK : Fld := ⟨0x410, 24, 1, 0⟩
/-- R253: Check point of the last failure -/
def SYS.SEAL_POINT : Fld := ⟨0x410, 16, 5, 0⟩
/-- R253: Unit of the last failure (R246) -/
def SYS.SEAL_UNIT : Fld := ⟨0x410, 0, 11, 0⟩
/-- R253: Short time of the last failure -/
def SYS.SEAL_LAST_TIME : Fld := ⟨0x414, 0, 32, 0⟩
/-- R253: Injections still pending (R252) -/
def SYS.SEAL_INJ_LEFT : Fld := ⟨0x418, 0, 8, 0⟩
/-- R253: Check point of the pending injection -/
def SYS.SEAL_INJ_POINT : Fld := ⟨0x418, 8, 5, 0⟩
/-- R253: Failures at check point i, i = 0–15 (R246) -/
def SYS.SEAL_CNT (i : Nat) : Fld := ⟨0x440 + 4 * i, 0, 32, 0⟩
/-- R253: R247 -/
def SYS.SEAL_MARKED : Fld := ⟨0x480, 0, 32, 0⟩
/-- R539: R527 -/
def SYS.STATUS_READY : Fld := ⟨4, 31, 1, 0⟩
/-- R539: R529 -/
def SYS.STATUS_RECOVERY : Fld := ⟨4, 30, 1, 0⟩
/-- R539: Row of R524 in progress; 12 at ready -/
def SYS.STATUS_STEP : Fld := ⟨4, 24, 4, 0⟩
/-- R539: R522 -/
def SYS.STATUS_BOOT_SRC : Fld := ⟨4, 2, 1, 0⟩
/-- R539: R422 -/
def SYS.STATUS_PAIR_SIDE : Fld := ⟨4, 1, 1, 0⟩
/-- R539: R422 -/
def SYS.STATUS_CLUSTER_ROLE : Fld := ⟨4, 0, 1, 0⟩
/-- R539: A refusal is recorded -/
def SYS.REJ_VALID : Fld := ⟨0x10, 31, 1, 0⟩
/-- R539: 0 PCIe, 1 CSP, 2 a write that the Suosh engine makes itself; a command refused with a status is not recorded (R17) -/
def SYS.REJ_SOURCE : Fld := ⟨0x10, 28, 2, 0⟩
/-- R539: BAR0 offset of the last refused write -/
def SYS.REJ_OFFSET : Fld := ⟨0x10, 0, 22, 0⟩
/-- R539: Short time of that write -/
def SYS.CFG_REJECT_TIME : Fld := ⟨0x14, 0, 32, 0⟩
/-- R539: Refused writes -/
def SYS.CFG_REJECT_CNT : Fld := ⟨0x18, 0, 32, 0⟩
/-- R539: Sticky causes since last cleared, kept over warm reset: [0] PORST_N, [1] BROWNOUT, [2] WRST_N, [3] SYS_RESET warm, [4] SYS_RESET power-on, [5] WARM_CT -/
def SYS.RESET_CAUSE : Fld := ⟨0x20, 0, 10, 0⟩
/-- R539: µs from the release of the internal reset to ready -/
def SYS.READY_TIME : Fld := ⟨0x24, 0, 32, 0⟩
/-- R539: 0 bootable, 1 empty, 2 signature, 3 security version, 4 level (R513) -/
def SYS.BOOT_SLOT1_RESULT : Fld := ⟨0x28, 8, 4, 0⟩
/-- R539: As SLOT1_RESULT -/
def SYS.BOOT_SLOT0_RESULT : Fld := ⟨0x28, 4, 4, 0⟩
/-- R539: Consecutive abandoned starts (R528) -/
def SYS.BOOT_FAILS : Fld := ⟨0x28, 0, 3, 0⟩
/-- R539: Bit r: rail r below its warning threshold (R533) -/
def SYS.RAIL_WARN : Fld := ⟨0x30, 16, 6, 0⟩
/-- R539: Bit r: rail r within its operating range -/
def SYS.RAIL_IN_RANGE : Fld := ⟨0x30, 0, 7, 0x7F⟩
/-- R539: µs; 0 acts as 1 -/
def SYS.WARN_FILT : Fld := ⟨0x34, 0, 8, 2⟩
/-- R539: Junction temperature, signed, 0.01 °C -/
def SYS.TJ : Fld := ⟨0x38, 0, 16, 0⟩
/-- R539: Must be 0x5752 in the same write as WARM_RESET -/
def SYS.WRST_KEY : Fld := ⟨0x3C, 16, 16, 0⟩
/-- R539: R531 -/
def SYS.WRST_WARM_RESET : Fld := ⟨0x3C, 0, 1, 0⟩
/-- R539: Warnings of rail r, r = 0–5 -/
def SYS.BO_WARN (r : Nat) : Fld := ⟨0x80 + 4 * r, 0, 32, 0⟩
/-- R539: Interrupt enables, laid out as INT -/
def SYS.INT_EN : Fld := ⟨12, 0, 5, 0x1F⟩
/-- R539: Interrupt flags; bits: CFG_REJECT [4], START_FAULT [3], BROWNOUT [2], RECOVERY [1], READY [0] -/
def SYS.INT : Fld := ⟨8, 0, 5, 0⟩

/-! ## CMD -/

/-- R421: 0 EVR, 1 CSP (R411) -/
def CMD.EVT_ROUTE : Fld := ⟨0x10000, 0, 1, 0⟩
/-- R421: INT_STAT; R396, R400 -/
def CMD.STATUS_MB_IN_FREE : Fld := ⟨0x10008, 3, 1, 1⟩
/-- R421: R396 -/
def CMD.STATUS_MB_OUT_READY : Fld := ⟨0x10008, 2, 1, 0⟩
/-- R421: QUE.LVL_X bit 0 -/
def CMD.STATUS_EVT_LEVEL : Fld := ⟨0x10008, 1, 1, 0⟩
/-- R421: R396 -/
def CMD.STATUS_EVT_PENDING : Fld := ⟨0x10008, 0, 1, 0⟩
/-- R421: Bit per INT_STAT bit (R399, R400) -/
def CMD.INT_EN : Fld := ⟨0x1000C, 0, 4, 7⟩
/-- R421: Most tags in use since the last read. The read restarts it from the tags in use when the read reaches the block -/
def CMD.PEAK_TAGS : Fld := ⟨0x10014, 16, 10, 0⟩
/-- R421: Tags in use -/
def CMD.TAGS : Fld := ⟨0x10014, 0, 10, 0⟩
/-- R421: Requests taken from CMD_IN -/
def CMD.REQUESTS : Fld := ⟨0x10040, 0, 32, 0⟩
/-- R421: Replies placed in CMD_OUT -/
def CMD.REPLIES : Fld := ⟨0x10044, 0, 32, 0⟩
/-- R421: R365 -/
def CMD.DUP_TAG : Fld := ⟨0x10048, 0, 32, 0⟩
/-- R421: R365, R404 -/
def CMD.MALFORMED : Fld := ⟨0x1004C, 0, 32, 0⟩
/-- R421: R361, MAC, session or OPEN rate -/
def CMD.AUTH_DROP : Fld := ⟨0x10050, 0, 32, 0⟩
/-- R421: R361, counter -/
def CMD.REPLAY_DROP : Fld := ⟨0x10054, 0, 32, 0⟩
/-- R421: Completions with TIMEOUT (R369) -/
def CMD.TIMEOUTS : Fld := ⟨0x10058, 0, 32, 0⟩
/-- R421: Requests carried by the fast path (R370) -/
def CMD.DIRECT : Fld := ⟨0x1005C, 0, 32, 0⟩
/-- R421: R398 -/
def CMD.CSP_MB_BUSY : Fld := ⟨0x10060, 0, 32, 0⟩

/-! ## DMA -/

/-- Bit of DMA.INT (R418): 0x0164 -/
def DMA.INT_PLAY_GAP : Nat := 4
/-- Bit of DMA.INT (R418): 0x0163 -/
def DMA.INT_REC_OVERRUN : Nat := 3
/-- Bit of DMA.INT (R418): 0x0162 -/
def DMA.INT_REPLY_DISCARD : Nat := 2
/-- Bit of DMA.INT (R418): 0x0161 -/
def DMA.INT_RING_STARVED : Nat := 1
/-- Bit of DMA.INT (R418): 0x0160; HOST_LINK is raised whatever these bits hold -/
def DMA.INT_DMA_ERR : Nat := 0
/-- R418: ms, R410; 0 acts as 1 -/
def DMA.REPLY_WAIT : Fld := ⟨0x20000, 16, 16, 0x64⟩
/-- R418: Read tags, R394; values above 128 act as 128 -/
def DMA.PLAY_RESERVE : Fld := ⟨0x20000, 0, 8, 0x40⟩
/-- R418: Reads in flight -/
def DMA.STATUS_READS : Fld := ⟨0x20004, 16, 9, 0⟩
/-- R418: Bus Master Enable -/
def DMA.STATUS_BME : Fld := ⟨0x20004, 2, 1, 0⟩
/-- R418: PCIe link up -/
def DMA.STATUS_LINK_UP : Fld := ⟨0x20004, 1, 1, 0⟩
/-- R418: R393 -/
def DMA.STATUS_HOST_LOST : Fld := ⟨0x20004, 0, 1, 1⟩
/-- R418: R395; latches HI -/
def DMA.ERR_ADDR_LO : Fld := ⟨0x20010, 0, 32, 0⟩
/-- R418: [63:32] -/
def DMA.ERR_ADDR_HI : Fld := ⟨0x20014, 0, 32, 0⟩
/-- R418: As UNIT of 0x0160 -/
def DMA.ERR_UNIT : Fld := ⟨0x20018, 16, 9, 0⟩
/-- R418: As byte 8 of 0x0160 -/
def DMA.ERR_CAUSE : Fld := ⟨0x20018, 0, 4, 0⟩
/-- R418: R393, R410 -/
def DMA.REPLY_DISCARD : Fld := ⟨0x20080, 0, 32, 0⟩
/-- R418: Source s = 0–28 (R416) -/
def DMA.SRC_EN (s : Nat) : Fld := ⟨0x20100 + 4 * s, 31, 1, 1⟩
/-- R418: Vector -/
def DMA.SRC_VEC (s : Nat) : Fld := ⟨0x20100 + 4 * s, 0, 6, s⟩
/-- R418: Vector v = 0–63, µs -/
def DMA.MOD_US (v : Nat) : Fld := ⟨0x20200 + 4 * v, 0, 10, 0⟩
/-- R418: R408 -/
def DMA.RX_STARVED_DROP (p : Nat) : Fld := ⟨0x20300 + 0x10 * p, 0, 32, 0⟩
/-- R418: R408 -/
def DMA.RX_NO_FIT (p : Nat) : Fld := ⟨0x20304 + 0x10 * p, 0, 32, 0⟩
/-- R419: R402 -/
def DMA.RING_EN (i : Nat) : Fld := ⟨0x21000 + 0x40 * i, 31, 1, 0⟩
/-- R419: R402 -/
def DMA.RING_WB_EN (i : Nat) : Fld := ⟨0x21000 + 0x40 * i, 8, 1, 1⟩
/-- R419: 4–12; values outside act as the nearer limit -/
def DMA.RING_SIZE_LOG2 (i : Nat) : Fld := ⟨0x21000 + 0x40 * i, 0, 4, 8⟩
/-- R419: Address [31:12] -/
def DMA.RING_BASE_LO (i : Nat) : Fld := ⟨0x21004 + 0x40 * i, 12, 20, 0⟩
/-- R419: Address [63:32] -/
def DMA.RING_BASE_HI (i : Nat) : Fld := ⟨0x21008 + 0x40 * i, 0, 32, 0⟩
/-- R419: Writeback address [31:2] -/
def DMA.RING_WB_LO (i : Nat) : Fld := ⟨0x2100C + 0x40 * i, 2, 30, 0⟩
/-- R419: [63:32] -/
def DMA.RING_WB_HI (i : Nat) : Fld := ⟨0x21010 + 0x40 * i, 0, 32, 0⟩
/-- R419: R402 -/
def DMA.RING_PI (i : Nat) : Fld := ⟨0x21014 + 0x40 * i, 0, 12, 0⟩
/-- R419: R402 -/
def DMA.RING_CI (i : Nat) : Fld := ⟨0x21018 + 0x40 * i, 0, 12, 0⟩
/-- R419: RPB and RXB only; 256–65,536, multiple of 64 -/
def DMA.RING_BUF_SIZE (i : Nat) : Fld := ⟨0x2101C + 0x40 * i, 0, 17, 0x800⟩
/-- R419: As byte 8 of 0x0160 -/
def DMA.RING_ERR_CAUSE (i : Nat) : Fld := ⟨0x21020 + 0x40 * i, 8, 8, 0⟩
/-- R419: RXB only, R408 -/
def DMA.RING_NO_FIT (i : Nat) : Fld := ⟨0x21020 + 0x40 * i, 5, 1, 0⟩
/-- R419: RXB only, R408 -/
def DMA.RING_STARVED (i : Nat) : Fld := ⟨0x21020 + 0x40 * i, 4, 1, 0⟩
/-- R419: 0 DISABLED, 1 RUN, 2 ERROR -/
def DMA.RING_STATE (i : Nat) : Fld := ⟨0x21020 + 0x40 * i, 0, 2, 0⟩
/-- R420: R412 -/
def DMA.REC_EN (s : Nat) : Fld := ⟨0x24000 + 0x40 * s, 31, 1, 0⟩
/-- R420: R412 -/
def DMA.PLAY_EN (s : Nat) : Fld := ⟨0x25000 + 0x40 * s, 31, 1, 0⟩
/-- R420: R413 -/
def DMA.REC_FORMAT (s : Nat) : Fld := ⟨0x24000 + 0x40 * s, 28, 2, 1⟩
/-- R420: R413 -/
def DMA.PLAY_FORMAT (s : Nat) : Fld := ⟨0x25000 + 0x40 * s, 28, 2, 1⟩
/-- R420: N, 16–2,048; values outside act as the nearer limit -/
def DMA.REC_PERIODS (s : Nat) : Fld := ⟨0x24000 + 0x40 * s, 16, 12, 0x30⟩
/-- R420: N, 16–2,048; values outside act as the nearer limit -/
def DMA.PLAY_PERIODS (s : Nat) : Fld := ⟨0x25000 + 0x40 * s, 16, 12, 0x30⟩
/-- R420: R412 -/
def DMA.REC_FIRST_CH (s : Nat) : Fld := ⟨0x24000 + 0x40 * s, 0, 10, 0⟩
/-- R420: R412 -/
def DMA.PLAY_FIRST_CH (s : Nat) : Fld := ⟨0x25000 + 0x40 * s, 0, 10, 0⟩
/-- R420: 1–256 -/
def DMA.REC_CHANNELS (s : Nat) : Fld := ⟨0x24004 + 0x40 * s, 0, 9, 1⟩
/-- R420: 1–256 -/
def DMA.PLAY_CHANNELS (s : Nat) : Fld := ⟨0x25004 + 0x40 * s, 0, 9, 1⟩
/-- R420: Address [31:6] -/
def DMA.REC_BASE_LO (s : Nat) : Fld := ⟨0x24008 + 0x40 * s, 6, 26, 0⟩
/-- R420: Address [31:6] -/
def DMA.PLAY_BASE_LO (s : Nat) : Fld := ⟨0x25008 + 0x40 * s, 6, 26, 0⟩
/-- R420: [63:32] -/
def DMA.REC_BASE_HI (s : Nat) : Fld := ⟨0x2400C + 0x40 * s, 0, 32, 0⟩
/-- R420: [63:32] -/
def DMA.PLAY_BASE_HI (s : Nat) : Fld := ⟨0x2500C + 0x40 * s, 0, 32, 0⟩
/-- R420: 2–65,535 -/
def DMA.REC_NBLK (s : Nat) : Fld := ⟨0x24010 + 0x40 * s, 0, 16, 2⟩
/-- R420: 2–65,535 -/
def DMA.PLAY_NBLK (s : Nat) : Fld := ⟨0x25010 + 0x40 * s, 0, 16, 2⟩
/-- R420: Bytes [23:6] -/
def DMA.REC_STRIDE (s : Nat) : Fld := ⟨0x24014 + 0x40 * s, 6, 18, 0⟩
/-- R420: Bytes [23:6] -/
def DMA.PLAY_STRIDE (s : Nat) : Fld := ⟨0x25014 + 0x40 * s, 6, 18, 0⟩
/-- R420: Index writeback address -/
def DMA.REC_WB_LO (s : Nat) : Fld := ⟨0x24018 + 0x40 * s, 2, 30, 0⟩
/-- R420: Index writeback address -/
def DMA.PLAY_WB_LO (s : Nat) : Fld := ⟨0x25018 + 0x40 * s, 2, 30, 0⟩
/-- R420: [63:32] -/
def DMA.REC_WB_HI (s : Nat) : Fld := ⟨0x2401C + 0x40 * s, 0, 32, 0⟩
/-- R420: [63:32] -/
def DMA.PLAY_WB_HI (s : Nat) : Fld := ⟨0x2501C + 0x40 * s, 0, 32, 0⟩
/-- R420: R414, R415 -/
def DMA.REC_WR_IDX (s : Nat) : Fld := ⟨0x24020 + 0x40 * s, 0, 32, 0⟩
/-- R420: R414, R415 -/
def DMA.PLAY_WR_IDX (s : Nat) : Fld := ⟨0x25020 + 0x40 * s, 0, 32, 0⟩
/-- R420: R414, R415 -/
def DMA.REC_RD_IDX (s : Nat) : Fld := ⟨0x24024 + 0x40 * s, 0, 32, 0⟩
/-- R420: R414, R415 -/
def DMA.PLAY_RD_IDX (s : Nat) : Fld := ⟨0x25024 + 0x40 * s, 0, 32, 0⟩
/-- R420: Playback: the last pass had no block -/
def DMA.REC_GAP_FLAG (s : Nat) : Fld := ⟨0x24028 + 0x40 * s, 4, 1, 0⟩
/-- R420: Playback: the last pass had no block -/
def DMA.PLAY_GAP_FLAG (s : Nat) : Fld := ⟨0x25028 + 0x40 * s, 4, 1, 0⟩
/-- R420: As ring STATE -/
def DMA.REC_STATE (s : Nat) : Fld := ⟨0x24028 + 0x40 * s, 0, 2, 0⟩
/-- R420: As ring STATE -/
def DMA.PLAY_STATE (s : Nat) : Fld := ⟨0x25028 + 0x40 * s, 0, 2, 0⟩
/-- R420: Blocks discarded, or periods without a block -/
def DMA.REC_OVERRUN_CNT (s : Nat) : Fld := ⟨0x2402C + 0x40 * s, 0, 32, 0⟩
/-- R420: Blocks discarded, or periods without a block -/
def DMA.PLAY_GAP_CNT (s : Nat) : Fld := ⟨0x2502C + 0x40 * s, 0, 32, 0⟩
/-- R420: Playback only, R415 -/
def DMA.PLAY_BAD (s : Nat) : Fld := ⟨0x25030 + 0x40 * s, 0, 32, 0⟩
/-- R420: Blocks delivered or stored -/
def DMA.REC_BLOCKS (s : Nat) : Fld := ⟨0x24034 + 0x40 * s, 0, 32, 0⟩
/-- R420: Blocks delivered or stored -/
def DMA.PLAY_BLOCKS (s : Nat) : Fld := ⟨0x25034 + 0x40 * s, 0, 32, 0⟩
/-- R418: Interrupt enables, laid out as INT -/
def DMA.INT_EN : Fld := ⟨0x2000C, 0, 5, 0x1F⟩
/-- R418: Interrupt flags; bits: PLAY_GAP [4], REC_OVERRUN [3], REPLY_DISCARD [2], RING_STARVED [1], DMA_ERR [0] -/
def DMA.INT : Fld := ⟨0x20008, 0, 5, 0⟩

/-- Fields of SYS, part 0, with access type and update class. -/
def SYS.fields0 : List FldSpec := [
  FldSpec.one SYS.DEVICE_ID_PART .ro .none,
  FldSpec.one SYS.DEVICE_ID_VARIANT .ro .none,
  FldSpec.one SYS.DEVICE_ID_STEP .ro .none,
  FldSpec.one SYS.DEVICE_ID_BLMAX .ro .none,
  FldSpec.one SYS.SEAL_EVT_HOLDOFF .rw .live,
  FldSpec.one SYS.SEAL_PLAY_HOST_SEAL .rw .static,
  FldSpec.one SYS.SEAL_INT .w1c .none,
  FldSpec.one SYS.SEAL_INT_EN .rw .live,
  FldSpec.one SYS.SEAL_MARK .ro .none,
  FldSpec.one SYS.SEAL_POINT .ro .none,
  FldSpec.one SYS.SEAL_UNIT .ro .none,
  FldSpec.one SYS.SEAL_LAST_TIME .ro .none,
  FldSpec.one SYS.SEAL_INJ_LEFT .ro .none,
  FldSpec.one SYS.SEAL_INJ_POINT .ro .none,
  FldSpec.arr SYS.SEAL_CNT 16 4 (fun _ => .ro) (fun _ => .none),
  FldSpec.one SYS.SEAL_MARKED .ro .none]
/-- Fields of SYS, part 1, with access type and update class. -/
def SYS.fields1 : List FldSpec := [
  FldSpec.one SYS.STATUS_READY .ro .none,
  FldSpec.one SYS.STATUS_RECOVERY .ro .none,
  FldSpec.one SYS.STATUS_STEP .ro .none,
  FldSpec.one SYS.STATUS_BOOT_SRC .ro .none,
  FldSpec.one SYS.STATUS_PAIR_SIDE .ro .none,
  FldSpec.one SYS.STATUS_CLUSTER_ROLE .ro .none,
  FldSpec.one SYS.REJ_VALID .ro .none,
  FldSpec.one SYS.REJ_SOURCE .ro .none,
  FldSpec.one SYS.REJ_OFFSET .ro .none,
  FldSpec.one SYS.CFG_REJECT_TIME .ro .none,
  FldSpec.one SYS.CFG_REJECT_CNT .ro .none,
  FldSpec.one SYS.RESET_CAUSE .w1c .none,
  FldSpec.one SYS.READY_TIME .ro .none,
  FldSpec.one SYS.BOOT_SLOT1_RESULT .ro .none,
  FldSpec.one SYS.BOOT_SLOT0_RESULT .ro .none,
  FldSpec.one SYS.BOOT_FAILS .ro .none]
/-- Fields of SYS, part 2, with access type and update class. -/
def SYS.fields2 : List FldSpec := [
  FldSpec.one SYS.RAIL_WARN .ro .none,
  FldSpec.one SYS.RAIL_IN_RANGE .ro .none,
  FldSpec.one SYS.WARN_FILT .rw .live,
  FldSpec.one SYS.TJ .ro .none,
  FldSpec.one SYS.WRST_KEY .wo .live,
  FldSpec.one SYS.WRST_WARM_RESET .wo .live,
  FldSpec.arr SYS.BO_WARN 6 4 (fun _ => .ro) (fun _ => .none),
  FldSpec.one SYS.INT_EN .rw .live,
  FldSpec.one SYS.INT .w1c .none]
/-- Every field of SYS. -/
def SYS.fields : List FldSpec := List.flatten [SYS.fields0, SYS.fields1, SYS.fields2]
/-- Fields of CMD, part 0, with access type and update class. -/
def CMD.fields0 : List FldSpec := [
  FldSpec.one CMD.EVT_ROUTE .rw .eventRecord,
  FldSpec.one CMD.STATUS_MB_IN_FREE .ro .none,
  FldSpec.one CMD.STATUS_MB_OUT_READY .ro .none,
  FldSpec.one CMD.STATUS_EVT_LEVEL .ro .none,
  FldSpec.one CMD.STATUS_EVT_PENDING .ro .none,
  FldSpec.one CMD.INT_EN .rw .live,
  FldSpec.one CMD.PEAK_TAGS .rc .none,
  FldSpec.one CMD.TAGS .ro .none,
  FldSpec.one CMD.REQUESTS .ro .none,
  FldSpec.one CMD.REPLIES .ro .none,
  FldSpec.one CMD.DUP_TAG .ro .none,
  FldSpec.one CMD.MALFORMED .ro .none,
  FldSpec.one CMD.AUTH_DROP .ro .none,
  FldSpec.one CMD.REPLAY_DROP .ro .none,
  FldSpec.one CMD.TIMEOUTS .ro .none,
  FldSpec.one CMD.DIRECT .ro .none]
/-- Fields of CMD, part 1, with access type and update class. -/
def CMD.fields1 : List FldSpec := [
  FldSpec.one CMD.CSP_MB_BUSY .ro .none]
/-- Every field of CMD. -/
def CMD.fields : List FldSpec := List.flatten [CMD.fields0, CMD.fields1]
/-- Fields of DMA, part 0, with access type and update class. -/
def DMA.fields0 : List FldSpec := [
  FldSpec.one DMA.REPLY_WAIT .rw .live,
  FldSpec.one DMA.PLAY_RESERVE .rw .live,
  FldSpec.one DMA.STATUS_READS .ro .none,
  FldSpec.one DMA.STATUS_BME .ro .none,
  FldSpec.one DMA.STATUS_LINK_UP .ro .none,
  FldSpec.one DMA.STATUS_HOST_LOST .ro .none,
  FldSpec.one DMA.ERR_ADDR_LO .ro .none,
  FldSpec.one DMA.ERR_ADDR_HI .ro .none,
  FldSpec.one DMA.ERR_UNIT .ro .none,
  FldSpec.one DMA.ERR_CAUSE .ro .none,
  FldSpec.one DMA.REPLY_DISCARD .ro .none,
  FldSpec.arr DMA.SRC_EN 29 4 (fun _ => .rw) (fun _ => .live),
  FldSpec.arr DMA.SRC_VEC 29 4 (fun _ => .rw) (fun _ => .live),
  FldSpec.arr DMA.MOD_US 64 4 (fun _ => .rw) (fun _ => .live),
  FldSpec.arr DMA.RX_STARVED_DROP 4 0x10 (fun _ => .ro) (fun _ => .none),
  FldSpec.arr DMA.RX_NO_FIT 4 0x10 (fun _ => .ro) (fun _ => .none)]
/-- Fields of DMA, part 1, with access type and update class. -/
def DMA.fields1 : List FldSpec := [
  FldSpec.arr DMA.RING_EN 65 0x40 (fun _ => .rw) (fun _ => .live),
  FldSpec.arr DMA.RING_WB_EN 65 0x40 (fun _ => .rw) (fun _ => .static),
  FldSpec.arr DMA.RING_SIZE_LOG2 65 0x40 (fun _ => .rw) (fun _ => .static),
  FldSpec.arr DMA.RING_BASE_LO 65 0x40 (fun _ => .rw) (fun _ => .static),
  FldSpec.arr DMA.RING_BASE_HI 65 0x40 (fun _ => .rw) (fun _ => .static),
  FldSpec.arr DMA.RING_WB_LO 65 0x40 (fun _ => .rw) (fun _ => .static),
  FldSpec.arr DMA.RING_WB_HI 65 0x40 (fun _ => .rw) (fun _ => .static),
  FldSpec.arr DMA.RING_PI 65 0x40 (fun i => (if ringHostProduced i then .rw else .ro)) (fun _ => .live),
  FldSpec.arr DMA.RING_CI 65 0x40 (fun i => (if ringHostProduced i then .ro else .rw)) (fun _ => .live),
  FldSpec.arr DMA.RING_BUF_SIZE 65 0x40 (fun _ => .rw) (fun _ => .static),
  FldSpec.arr DMA.RING_ERR_CAUSE 65 0x40 (fun _ => .ro) (fun _ => .none),
  FldSpec.arr DMA.RING_NO_FIT 65 0x40 (fun _ => .w1c) (fun _ => .none),
  FldSpec.arr DMA.RING_STARVED 65 0x40 (fun _ => .ro) (fun _ => .none),
  FldSpec.arr DMA.RING_STATE 65 0x40 (fun _ => .ro) (fun _ => .none),
  FldSpec.arr DMA.REC_EN 64 0x40 (fun _ => .rw) (fun _ => .live),
  FldSpec.arr DMA.PLAY_EN 64 0x40 (fun _ => .rw) (fun _ => .live)]
/-- Fields of DMA, part 2, with access type and update class. -/
def DMA.fields2 : List FldSpec := [
  FldSpec.arr DMA.REC_FORMAT 64 0x40 (fun _ => .rw) (fun _ => .static),
  FldSpec.arr DMA.PLAY_FORMAT 64 0x40 (fun _ => .rw) (fun _ => .static),
  FldSpec.arr DMA.REC_PERIODS 64 0x40 (fun _ => .rw) (fun _ => .static),
  FldSpec.arr DMA.PLAY_PERIODS 64 0x40 (fun _ => .rw) (fun _ => .static),
  FldSpec.arr DMA.REC_FIRST_CH 64 0x40 (fun _ => .rw) (fun _ => .static),
  FldSpec.arr DMA.PLAY_FIRST_CH 64 0x40 (fun _ => .rw) (fun _ => .static),
  FldSpec.arr DMA.REC_CHANNELS 64 0x40 (fun _ => .rw) (fun _ => .static),
  FldSpec.arr DMA.PLAY_CHANNELS 64 0x40 (fun _ => .rw) (fun _ => .static),
  FldSpec.arr DMA.REC_BASE_LO 64 0x40 (fun _ => .rw) (fun _ => .static),
  FldSpec.arr DMA.PLAY_BASE_LO 64 0x40 (fun _ => .rw) (fun _ => .static),
  FldSpec.arr DMA.REC_BASE_HI 64 0x40 (fun _ => .rw) (fun _ => .static),
  FldSpec.arr DMA.PLAY_BASE_HI 64 0x40 (fun _ => .rw) (fun _ => .static),
  FldSpec.arr DMA.REC_NBLK 64 0x40 (fun _ => .rw) (fun _ => .static),
  FldSpec.arr DMA.PLAY_NBLK 64 0x40 (fun _ => .rw) (fun _ => .static),
  FldSpec.arr DMA.REC_STRIDE 64 0x40 (fun _ => .rw) (fun _ => .static),
  FldSpec.arr DMA.PLAY_STRIDE 64 0x40 (fun _ => .rw) (fun _ => .static)]
/-- Fields of DMA, part 3, with access type and update class. -/
def DMA.fields3 : List FldSpec := [
  FldSpec.arr DMA.REC_WB_LO 64 0x40 (fun _ => .rw) (fun _ => .static),
  FldSpec.arr DMA.PLAY_WB_LO 64 0x40 (fun _ => .rw) (fun _ => .static),
  FldSpec.arr DMA.REC_WB_HI 64 0x40 (fun _ => .rw) (fun _ => .static),
  FldSpec.arr DMA.PLAY_WB_HI 64 0x40 (fun _ => .rw) (fun _ => .static),
  FldSpec.arr DMA.REC_WR_IDX 64 0x40 (fun _ => .ro) (fun _ => .live),
  FldSpec.arr DMA.PLAY_WR_IDX 64 0x40 (fun _ => .rw) (fun _ => .live),
  FldSpec.arr DMA.REC_RD_IDX 64 0x40 (fun _ => .rw) (fun _ => .live),
  FldSpec.arr DMA.PLAY_RD_IDX 64 0x40 (fun _ => .ro) (fun _ => .live),
  FldSpec.arr DMA.REC_GAP_FLAG 64 0x40 (fun _ => .ro) (fun _ => .none),
  FldSpec.arr DMA.PLAY_GAP_FLAG 64 0x40 (fun _ => .ro) (fun _ => .none),
  FldSpec.arr DMA.REC_STATE 64 0x40 (fun _ => .ro) (fun _ => .none),
  FldSpec.arr DMA.PLAY_STATE 64 0x40 (fun _ => .ro) (fun _ => .none),
  FldSpec.arr DMA.REC_OVERRUN_CNT 64 0x40 (fun _ => .ro) (fun _ => .none),
  FldSpec.arr DMA.PLAY_GAP_CNT 64 0x40 (fun _ => .ro) (fun _ => .none),
  FldSpec.arr DMA.PLAY_BAD 64 0x40 (fun _ => .ro) (fun _ => .none),
  FldSpec.arr DMA.REC_BLOCKS 64 0x40 (fun _ => .ro) (fun _ => .none)]
/-- Fields of DMA, part 4, with access type and update class. -/
def DMA.fields4 : List FldSpec := [
  FldSpec.arr DMA.PLAY_BLOCKS 64 0x40 (fun _ => .ro) (fun _ => .none),
  FldSpec.one DMA.INT_EN .rw .live,
  FldSpec.one DMA.INT .w1c .none]
/-- Every field of DMA. -/
def DMA.fields : List FldSpec := List.flatten [DMA.fields0, DMA.fields1, DMA.fields2, DMA.fields3, DMA.fields4]


end Sys2Proof.Machine
end

