-- ==== Sys2Proof/Machine/RegsUnit.lean ====
section
/-! DEFINITION. Registers of the cluster, pair, self-test and lifetime blocks (chapters 13 to 15).
Each field is written from the register tables of spec/ (the rule is named at each): its offset in the window, lowest bit,
width and reset value. Resets the spec leaves to the part, the fuses, the MRAM, the AON domain or a strap are those the
assumption log names (entry 1). -/

namespace Sys2Proof.Machine

/-! ## ORB -/

/-- Bit of ORB.INT (R460): 0x0907 -/
def ORB.INT_MOON_STARTED : Nat := 6
/-- Bit of ORB.INT (R460): 0x0906 -/
def ORB.INT_BLK_MISSING : Nat := 5
/-- Bit of ORB.INT (R460): 0x0905 -/
def ORB.INT_LINK_DOWN : Nat := 4
/-- Bit of ORB.INT (R460): 0x0904 -/
def ORB.INT_LINK_UP : Nat := 3
/-- Bit of ORB.INT (R460): 0x0903 -/
def ORB.INT_MOON_UNKNOWN : Nat := 2
/-- Bit of ORB.INT (R460): 0x0902 -/
def ORB.INT_MOON_LOST : Nat := 1
/-- Bit of ORB.INT (R460): 0x0901 -/
def ORB.INT_MOON_JOINED : Nat := 0
/-- R460: ms; 0 none (R458) -/
def ORB.CTRL_EVT_HOLDOFF : Fld := ⟨0x1C0000, 24, 8, 0x64⟩
/-- R460: R436 -/
def ORB.CTRL_AUTO_INDEX : Fld := ⟨0x1C0000, 4, 1, 1⟩
/-- R460: R438 -/
def ORB.CTRL_START_AUTO : Fld := ⟨0x1C0000, 0, 1, 1⟩
/-- R460: CLUSTER_ROLE (R422) -/
def ORB.STATUS_ROLE_STRAP : Fld := ⟨0x1C0004, 31, 1, 0⟩
/-- R460: R423 -/
def ORB.STATUS_OWN_INDEX : Fld := ⟨0x1C0004, 24, 4, 0⟩
/-- R460: 0 DETACHED, 1 WAIT_START, 2 STARTING, 3 TIME_ACQ, 4 JOINED, 5 ORPHAN -/
def ORB.STATUS_JOIN_STATE : Fld := ⟨0x1C0004, 20, 3, 0⟩
/-- R460: Hops to the primary by TIME_UP -/
def ORB.STATUS_HOPS : Fld := ⟨0x1C0004, 16, 3, 0⟩
/-- R460: UPB recorded -/
def ORB.STATUS_UPB_VALID : Fld := ⟨0x1C0004, 13, 1, 0⟩
/-- R460: 0 UPA, 1 UPB (R433) -/
def ORB.STATUS_TIME_UP : Fld := ⟨0x1C0004, 12, 1, 0⟩
/-- R460: R436 -/
def ORB.STATUS_UPB : Fld := ⟨0x1C0004, 10, 2, 0⟩
/-- R460: R436 -/
def ORB.STATUS_UPA : Fld := ⟨0x1C0004, 8, 2, 0⟩
/-- R460: Bit d: moon d past DETACHED -/
def ORB.PRESENT : Fld := ⟨0x1C0010, 0, 16, 0⟩
/-- R460: Bit d: moon d JOINED -/
def ORB.JOINED : Fld := ⟨0x1C0014, 0, 16, 0⟩
/-- R460: µs; values below 2,000 act as 2,000 -/
def ORB.START_GAP : Fld := ⟨0x1C0018, 0, 16, 0x7D0⟩
/-- R460: Moon: last uplink offset, signed ps, saturating -/
def ORB.OFFSET : Fld := ⟨0x1C001C, 0, 32, 0⟩
/-- R461: R425 -/
def ORB.LINK_EN (n : Nat) : Fld := ⟨0x1C0100 + 0x80 * n, 31, 1, 1⟩
/-- R461: 1 for ORB3 while PAIR_EN = 1 (R442) -/
def ORB.LINK_MIRROR (n : Nat) : Fld := ⟨0x1C0100 + 0x80 * n, 8, 1, 0⟩
/-- R461: R429 -/
def ORB.LINK_FWD_ERR (n : Nat) : Fld := ⟨0x1C0104 + 0x80 * n, 24, 1, 0⟩
/-- R461: Cluster index of the peer -/
def ORB.LINK_PEER_INDEX (n : Nat) : Fld := ⟨0x1C0104 + 0x80 * n, 16, 4, 0⟩
/-- R461: 0 none, 1 standalone primary, 2 primary driving outputs, 3 primary not driving, 4 moon -/
def ORB.LINK_PEER_ROLE (n : Nat) : Fld := ⟨0x1C0104 + 0x80 * n, 12, 3, 0⟩
/-- R461: 64b/66b block lock -/
def ORB.LINK_BLOCK_LOCK (n : Nat) : Fld := ⟨0x1C0104 + 0x80 * n, 4, 1, 0⟩
/-- R461: 0 DISABLED, 1 DOWN, 2 LOCKING, 3 UP; reads 1 from reset while EN = 1 -/
def ORB.LINK_LINK_STATE (n : Nat) : Fld := ⟨0x1C0104 + 0x80 * n, 0, 2, 1⟩
/-- R461: EUI-64 bytes 4–7, byte 7 in [7:0] -/
def ORB.LINK_PEER_EUI_LO (n : Nat) : Fld := ⟨0x1C0108 + 0x80 * n, 0, 32, 0⟩
/-- R461: EUI-64 bytes 0–3, byte 0 in [31:24] -/
def ORB.LINK_PEER_EUI_HI (n : Nat) : Fld := ⟨0x1C010C + 0x80 * n, 0, 32, 0⟩
/-- R461: Group q = 0–7: 0 local; 1–4 forward to link FWDq − 1; 5–7 act as 0 (R429) -/
def ORB.LINK_FWD (n q : Nat) : Fld := ⟨0x1C0110 + 0x80 * n, 4 * q, 3, 0⟩
/-- R461: Signed, 2^−16 ns (R433) -/
def ORB.LINK_ASYM (n : Nat) : Fld := ⟨0x1C0114 + 0x80 * n, 0, 32, 0⟩
/-- R461: Mean link delay, ps -/
def ORB.LINK_DELAY (n : Nat) : Fld := ⟨0x1C0118 + 0x80 * n, 0, 32, 0⟩
/-- R461: Bit q: inbound group q delivered a block last period -/
def ORB.LINK_EXPECT (n : Nat) : Fld := ⟨0x1C011C + 0x80 * n, 0, 8, 0⟩
/-- R462: As PEER_EUI_LO -/
def ORB.MOON_EUI_LO (d : Nat) : Fld := ⟨0x1C0800 + 0x10 * d, 0, 32, 0⟩
/-- R462: As PEER_EUI_HI -/
def ORB.MOON_EUI_HI (d : Nat) : Fld := ⟨0x1C0804 + 0x10 * d, 0, 32, 0⟩
/-- R462: R436 -/
def ORB.MOON_EN (d : Nat) : Fld := ⟨0x1C0808 + 0x10 * d, 31, 1, 0⟩
/-- R462: Primary's link on the path in use -/
def ORB.MOON_LINK (d : Nat) : Fld := ⟨0x1C0808 + 0x10 * d, 16, 2, 0⟩
/-- R462: Hops on that path -/
def ORB.MOON_HOPS (d : Nat) : Fld := ⟨0x1C0808 + 0x10 * d, 8, 3, 0⟩
/-- R462: As JOIN_STATE -/
def ORB.MOON_STATE (d : Nat) : Fld := ⟨0x1C0808 + 0x10 * d, 0, 3, 0⟩
/-- R462: Short time of the last valid frame from the moon -/
def ORB.MOON_LAST_SEEN (d : Nat) : Fld := ⟨0x1C080C + 0x10 * d, 0, 32, 0⟩
/-- R461: A frame leaves -/
def ORB.LINK_FRAMES_TX (n : Nat) : Fld := ⟨0x1C0140 + 0x80 * n, 0, 32, 0⟩
/-- R461: A frame is received whole -/
def ORB.LINK_FRAMES_RX (n : Nat) : Fld := ⟨0x1C0144 + 0x80 * n, 0, 32, 0⟩
/-- R461: A frame is discarded under R426 -/
def ORB.LINK_FCHK_ERR (n : Nat) : Fld := ⟨0x1C0148 + 0x80 * n, 0, 32, 0⟩
/-- R461: R431 -/
def ORB.LINK_BLK_MISSING (n : Nat) : Fld := ⟨0x1C014C + 0x80 * n, 0, 32, 0⟩
/-- R461: R431, R437 -/
def ORB.LINK_BLK_LATE (n : Nat) : Fld := ⟨0x1C0150 + 0x80 * n, 0, 32, 0⟩
/-- R461: R431 -/
def ORB.LINK_BLK_DUP (n : Nat) : Fld := ⟨0x1C0154 + 0x80 * n, 0, 32, 0⟩
/-- R461: R425 -/
def ORB.LINK_LINK_DOWN (n : Nat) : Fld := ⟨0x1C0158 + 0x80 * n, 0, 32, 0⟩
/-- R461: A valid TIME frame is received -/
def ORB.LINK_TIME_RX (n : Nat) : Fld := ⟨0x1C015C + 0x80 * n, 0, 32, 0⟩
/-- R460: Interrupt enables, laid out as INT -/
def ORB.INT_EN : Fld := ⟨0x1C000C, 0, 7, 0x7F⟩
/-- R460: Interrupt flags; bits: MOON_STARTED [6], BLK_MISSING [5], LINK_DOWN [4], LINK_UP [3], MOON_UNKNOWN [2], MOON_LOST [1], MOON_JOINED [0] -/
def ORB.INT : Fld := ⟨0x1C0008, 0, 7, 0⟩

/-! ## PAIR -/

/-- Bit of PAIR.INT (R463): 0x0915 -/
def PAIR.INT_PULSE_ERR : Nat := 5
/-- Bit of PAIR.INT (R463): 0x0914 -/
def PAIR.INT_RESYNC_DONE : Nat := 4
/-- Bit of PAIR.INT (R463): 0x0913 -/
def PAIR.INT_LOCKSTEP : Nat := 3
/-- Bit of PAIR.INT (R463): 0x0912 -/
def PAIR.INT_SILENT : Nat := 2
/-- Bit of PAIR.INT (R463): 0x0911 -/
def PAIR.INT_PROMOTED : Nat := 1
/-- Bit of PAIR.INT (R463): 0x0910 -/
def PAIR.INT_ROLE : Nat := 0
/-- R463: ms; 0 none (R458) -/
def PAIR.CTRL_EVT_HOLDOFF : Fld := ⟨0x1D0000, 24, 8, 0x64⟩
/-- R463: R442 -/
def PAIR.CTRL_PAIR_EN : Fld := ⟨0x1D0000, 8, 1, 0⟩
/-- R463: R446 -/
def PAIR.CTRL_FORCE_ACTIVE : Fld := ⟨0x1D0000, 4, 1, 0⟩
/-- R463: R449 -/
def PAIR.CTRL_RESIGN : Fld := ⟨0x1D0000, 0, 1, 0⟩
/-- R463: ROLE of the last valid peer pulse -/
def PAIR.STATUS_PEER_ROLE : Fld := ⟨0x1D0004, 16, 3, 0⟩
/-- R463: ORB3 UP with PAIR_EN = 1 -/
def PAIR.STATUS_MIRROR_UP : Fld := ⟨0x1D0004, 14, 1, 0⟩
/-- R463: R445, R446 -/
def PAIR.STATUS_SYNCED : Fld := ⟨0x1D0004, 13, 1, 0⟩
/-- R463: Level of PAIR_ACT (R450) -/
def PAIR.STATUS_DRIVE : Fld := ⟨0x1D0004, 12, 1, 1⟩
/-- R463: R447 -/
def PAIR.STATUS_LEASE_VALID : Fld := ⟨0x1D0004, 11, 1, 0⟩
/-- R463: A valid pulse within the last 11 µs -/
def PAIR.STATUS_PEER_SEEN : Fld := ⟨0x1D0004, 10, 1, 0⟩
/-- R463: PAIR_SIDE -/
def PAIR.STATUS_SIDE : Fld := ⟨0x1D0004, 8, 1, 0⟩
/-- R463: 0 ALONE, 1 INIT, 2 SOLO, 3 ACTIVE, 4 RESYNC, 5 STANDBY, 6 SILENT -/
def PAIR.STATUS_ROLE : Fld := ⟨0x1D0004, 0, 3, 0⟩
/-- R463: ns, 0–8,000 -/
def PAIR.LEASE_LEFT : Fld := ⟨0x1D0010, 0, 14, 0⟩
/-- R463: ns since the last valid peer pulse, saturating -/
def PAIR.PULSE_AGE : Fld := ⟨0x1D0014, 0, 16, 0xFFFF⟩
/-- R463: 0 none, 1–4 as R456 -/
def PAIR.RESYNC_PHASE : Fld := ⟨0x1D0018, 0, 3, 0⟩
/-- R463: ns (R449) -/
def PAIR.LAST_GAP : Fld := ⟨0x1D001C, 0, 32, 0⟩
/-- R463: Pair MAC of port p, as STATION_MAC_LO (R155) -/
def PAIR.PORT_MAC_LO (p : Nat) : Fld := ⟨0x1D0020 + 8 * p, 0, 32, 0⟩
/-- R463: As STATION_MAC_HI -/
def PAIR.PORT_MAC_HI (p : Nat) : Fld := ⟨0x1D0024 + 8 * p, 0, 16, 0⟩
/-- R464: A pulse is sent -/
def PAIR.PULSE_TX : Fld := ⟨0x1D0040, 0, 32, 0⟩
/-- R464: A valid pulse is received -/
def PAIR.PULSE_RX : Fld := ⟨0x1D0044, 0, 32, 0⟩
/-- R464: An invalid pulse is received (R445) -/
def PAIR.PULSE_BAD : Fld := ⟨0x1D0048, 0, 32, 0⟩
/-- R464: R449 -/
def PAIR.PROMOTIONS : Fld := ⟨0x1D004C, 0, 32, 0⟩
/-- R464: R446 -/
def PAIR.SILENCES : Fld := ⟨0x1D0050, 0, 32, 0⟩
/-- R464: R446 -/
def PAIR.HANDOVERS : Fld := ⟨0x1D0054, 0, 32, 0⟩
/-- R464: R455 -/
def PAIR.DIGEST_DIFF : Fld := ⟨0x1D0058, 0, 32, 0⟩
/-- R464: R453 -/
def PAIR.MIRROR_MISS : Fld := ⟨0x1D005C, 0, 32, 0⟩
/-- R464: R444 -/
def PAIR.WITHHELD : Fld := ⟨0x1D0060, 0, 32, 0⟩
/-- R464: R452 -/
def PAIR.LATE_SENT : Fld := ⟨0x1D0064, 0, 32, 0⟩
/-- R463: Interrupt enables, laid out as INT -/
def PAIR.INT_EN : Fld := ⟨0x1D000C, 0, 6, 0x3F⟩
/-- R463: Interrupt flags; bits: PULSE_ERR [5], RESYNC_DONE [4], LOCKSTEP [3], SILENT [2], PROMOTED [1], ROLE [0] -/
def PAIR.INT : Fld := ⟨0x1D0008, 0, 6, 0⟩

/-! ## TEST -/

/-- Bit of TEST.INT (R486): 0x0A06 -/
def TEST.INT_TRANSIENT : Nat := 5
/-- Bit of TEST.INT (R486): 0x0A05 -/
def TEST.INT_CYCLE_DONE : Nat := 4
/-- Bit of TEST.INT (R486): 0x0A04 -/
def TEST.INT_SCHED : Nat := 3
/-- Bit of TEST.INT (R486): 0x0A03 -/
def TEST.INT_RUN_DONE : Nat := 2
/-- Bit of TEST.INT (R486): 0x0A02 -/
def TEST.INT_STOPPED : Nat := 1
/-- Bit of TEST.INT (R486): 0x0A01 -/
def TEST.INT_FAIL : Nat := 0
/-- R486: ms; 0 none (R483) -/
def TEST.CTRL_EVT_HOLDOFF : Fld := ⟨0x1E0000, 24, 8, 0x64⟩
/-- R486: ms, 2–1,000; values outside act as the nearer limit -/
def TEST.GAP : Fld := ⟨0x1E0010, 16, 10, 10⟩
/-- R486: Bit s: schedule of set s (R474) -/
def TEST.SETS_EN : Fld := ⟨0x1E0010, 0, 3, 7⟩
/-- R486: 0 none, 1 scheduled only, 2 full (R482) -/
def TEST.STATUS_ACCESS : Fld := ⟨0x1E0004, 24, 2, 0⟩
/-- R486: Set of the slice in progress; 7 none -/
def TEST.STATUS_SLICE_SET : Fld := ⟨0x1E0004, 20, 3, 7⟩
/-- R486: Unit of the slice in progress; 0x1F none. The unit of the last slice is SLICE_UNIT at 0x0040 -/
def TEST.STATUS_SLICE_UNIT_NOW : Fld := ⟨0x1E0004, 15, 5, 0x1F⟩
/-- R486: Bit s: set s paused (R475) -/
def TEST.STATUS_PAUSED : Fld := ⟨0x1E0004, 8, 3, 0⟩
/-- R486: Commanded run in progress -/
def TEST.STATUS_CMD_RUN : Fld := ⟨0x1E0004, 4, 1, 0⟩
/-- R486: A slice is running -/
def TEST.STATUS_SLICE_ACTIVE : Fld := ⟨0x1E0004, 0, 1, 0⟩
/-- R486: R484 -/
def TEST.RUN_SET : Fld := ⟨0x1E0020, 28, 3, 0⟩
/-- R486: R484 -/
def TEST.RUN_UNIT : Fld := ⟨0x1E0020, 16, 5, 0⟩
/-- R486: R465 -/
def TEST.RUN_MODE : Fld := ⟨0x1E0020, 8, 2, 0⟩
/-- R486: R468 -/
def TEST.RUN_REFERENCE : Fld := ⟨0x1E0020, 0, 1, 1⟩
/-- R486: Used with REFERENCE = 0 -/
def TEST.RUN_SEED : Fld := ⟨0x1E0024, 0, 32, 0⟩
/-- R486: Slices ended in the run -/
def TEST.RUN_DONE : Fld := ⟨0x1E0028, 16, 16, 0⟩
/-- R486: Slices requested -/
def TEST.RUN_SLICES : Fld := ⟨0x1E0028, 0, 16, 0⟩
/-- R486: 0 none, 1 running, 2 PASS, 3 FAIL, 4 DONE, 5 STOPPED -/
def TEST.RUN_OUTCOME : Fld := ⟨0x1E002C, 0, 3, 0⟩
/-- R486: R470 -/
def TEST.LAST_SIG_VALID : Fld := ⟨0x1E0040, 31, 1, 0⟩
/-- R486: R470; 0 no slice yet -/
def TEST.LAST_OUTCOME : Fld := ⟨0x1E0040, 24, 3, 0⟩
/-- R486: Set of the last slice -/
def TEST.LAST_SET : Fld := ⟨0x1E0040, 20, 3, 0⟩
/-- R486: Unit of the last or running slice -/
def TEST.LAST_SLICE_UNIT : Fld := ⟨0x1E0040, 8, 5, 0⟩
/-- R486: The last slice was a repeat (R471) -/
def TEST.LAST_REPEAT : Fld := ⟨0x1E0040, 1, 1, 0⟩
/-- R486: The last slice belonged to a commanded run -/
def TEST.LAST_COMMANDED : Fld := ⟨0x1E0040, 0, 1, 0⟩
/-- R486: Patterns, or operations ÷ 16, completed -/
def TEST.LAST_DONE_COUNT : Fld := ⟨0x1E0044, 16, 16, 0⟩
/-- R486: Index within its run -/
def TEST.LAST_SLICE_INDEX : Fld := ⟨0x1E0044, 0, 16, 0⟩
/-- R486: Signature [31:0]; latches HI -/
def TEST.LAST_SIG_LO : Fld := ⟨0x1E0048, 0, 32, 0⟩
/-- R486: [63:32] -/
def TEST.LAST_SIG_HI : Fld := ⟨0x1E004C, 0, 32, 0⟩
/-- R486: Expected signature [31:0]; latches HI; 0 in memory modes -/
def TEST.LAST_EXP_LO : Fld := ⟨0x1E0050, 0, 32, 0⟩
/-- R486: [63:32] -/
def TEST.LAST_EXP_HI : Fld := ⟨0x1E0054, 0, 32, 0⟩
/-- R486: Short time of the start -/
def TEST.LAST_SLICE_START : Fld := ⟨0x1E0058, 0, 32, 0⟩
/-- R486: ns, from start to stop -/
def TEST.LAST_SLICE_DUR : Fld := ⟨0x1E005C, 0, 18, 0⟩
/-- R487: Unit in the reference run; 0x1F none -/
def TEST.SET_UNIT (s : Nat) : Fld := ⟨0x1E0100 + 0x10 * s, 16, 5, 0x1F⟩
/-- R487: Next slice index of that run -/
def TEST.SET_NEXT_SLICE (s : Nat) : Fld := ⟨0x1E0100 + 0x10 * s, 0, 16, 0⟩
/-- R487: R473 -/
def TEST.SET_CYCLES (s : Nat) : Fld := ⟨0x1E0104 + 0x10 * s, 0, 32, 0⟩
/-- R487: Duration of the last cycle, s -/
def TEST.SET_LAST_CYCLE (s : Nat) : Fld := ⟨0x1E0108 + 0x10 * s, 0, 32, 0⟩
/-- R487: R479 -/
def TEST.REC_PASSED_SINCE_Q (r : Nat) : Fld := ⟨0x1E0200 + 4 * r, 31, 1, 0⟩
/-- R487: 0 none, 1 PASS, 2 FAIL, 3 ended before its count -/
def TEST.REC_LAST_RUN (r : Nat) : Fld := ⟨0x1E0200 + 4 * r, 28, 2, 0⟩
/-- R487: A FAIL is recorded for the unit (R471) -/
def TEST.REC_FAILED (r : Nat) : Fld := ⟨0x1E0200 + 4 * r, 27, 1, 0⟩
/-- R487: Runs ended, saturating -/
def TEST.REC_RUNS (r : Nat) : Fld := ⟨0x1E0200 + 4 * r, 0, 16, 0⟩
/-- R488: A slice starts -/
def TEST.SLICES : Fld := ⟨0x1E0080, 0, 32, 0⟩
/-- R488: A slice ends PASS -/
def TEST.SLICES_PASS : Fld := ⟨0x1E0084, 0, 32, 0⟩
/-- R488: A slice ends FAIL -/
def TEST.SLICES_FAIL : Fld := ⟨0x1E0088, 0, 32, 0⟩
/-- R488: A slice ends DONE -/
def TEST.SLICES_DONE : Fld := ⟨0x1E008C, 0, 32, 0⟩
/-- R488: A slice ends INCOMPLETE -/
def TEST.SLICES_INCOMPLETE : Fld := ⟨0x1E0090, 0, 32, 0⟩
/-- R488: A slice ends ABORTED -/
def TEST.SLICES_ABORTED : Fld := ⟨0x1E0094, 0, 32, 0⟩
/-- R488: R471 -/
def TEST.TRANSIENTS : Fld := ⟨0x1E0098, 0, 32, 0⟩
/-- R488: R480 -/
def TEST.HELD_CMDS : Fld := ⟨0x1E009C, 0, 32, 0⟩
/-- R488: R480 -/
def TEST.BUSY_REFUSED : Fld := ⟨0x1E00A0, 0, 32, 0⟩
/-- R486: Interrupt enables, laid out as INT -/
def TEST.INT_EN : Fld := ⟨0x1E000C, 0, 6, 0x3F⟩
/-- R486: Interrupt flags; bits: TRANSIENT [5], CYCLE_DONE [4], SCHED [3], RUN_DONE [2], STOPPED [1], FAIL [0] -/
def TEST.INT : Fld := ⟨0x1E0008, 0, 6, 0⟩

/-! ## LIFE -/

/-- Bit of LIFE.INT (R517): 0x0B09 -/
def LIFE.INT_IDENTITY : Nat := 8
/-- Bit of LIFE.INT (R517): 0x0B08 -/
def LIFE.INT_CONFIG : Nat := 7
/-- Bit of LIFE.INT (R517): 0x0B07 -/
def LIFE.INT_FW : Nat := 6
/-- Bit of LIFE.INT (R517): 0x0B06 -/
def LIFE.INT_LC : Nat := 5
/-- Bit of LIFE.INT (R517): 0x0B05 -/
def LIFE.INT_MARGIN : Nat := 4
/-- Bit of LIFE.INT (R517): 0x0B04 -/
def LIFE.INT_WEAR : Nat := 3
/-- Bit of LIFE.INT (R517): 0x0B03 -/
def LIFE.INT_CAL_LOST : Nat := 2
/-- Bit of LIFE.INT (R517): 0x0B02 -/
def LIFE.INT_VBAK_LOW : Nat := 1
/-- Bit of LIFE.INT (R517): 0x0B01 -/
def LIFE.INT_CAL_SYNC : Nat := 0
/-- R517: R495 -/
def LIFE.CTRL_CAL_SEED : Fld := ⟨0x1F0000, 8, 1, 1⟩
/-- R517: R493 -/
def LIFE.CTRL_AUTO_TRIM : Fld := ⟨0x1F0000, 4, 1, 1⟩
/-- R517: R493 -/
def LIFE.CTRL_CAL_SYNC_EN : Fld := ⟨0x1F0000, 0, 1, 1⟩
/-- R517: 0 BLANK, 1 FACTORY, 2 OWNED, 3 FIELD, 4 SERVICE, 5 RETIRED -/
def LIFE.STATUS_LC_STATE : Fld := ⟨0x1F0004, 28, 4, 1⟩
/-- R517: Behaviour level in force -/
def LIFE.STATUS_BL : Fld := ⟨0x1F0004, 16, 8, 1⟩
/-- R517: 0 factory or set, 1 adopted -/
def LIFE.STATUS_IDENTITY_SRC : Fld := ⟨0x1F0004, 12, 1, 0⟩
/-- R517: Unit certificate installed -/
def LIFE.STATUS_CERT_VALID : Fld := ⟨0x1F0004, 10, 1, 0⟩
/-- R517: Current configuration slot -/
def LIFE.STATUS_CONFIG_SLOT : Fld := ⟨0x1F0004, 9, 1, 0⟩
/-- R517: An image is stored -/
def LIFE.STATUS_CONFIG_VALID : Fld := ⟨0x1F0004, 8, 1, 0⟩
/-- R517: R514 -/
def LIFE.STATUS_FW_TRIAL : Fld := ⟨0x1F0004, 6, 1, 0⟩
/-- R517: Slot running -/
def LIFE.STATUS_FW_SLOT : Fld := ⟨0x1F0004, 5, 1, 0⟩
/-- R517: R491 -/
def LIFE.STATUS_VBAK_LOW : Fld := ⟨0x1F0004, 2, 1, 0⟩
/-- R517: R496 -/
def LIFE.STATUS_AON_RESTORED : Fld := ⟨0x1F0004, 1, 1, 0⟩
/-- R517: R491 -/
def LIFE.STATUS_CAL_VALID : Fld := ⟨0x1F0004, 0, 1, 0⟩
/-- R517: Fraction; latches CAL_SEC (R492) -/
def LIFE.CAL_SUB : Fld := ⟨0x1F0010, 0, 15, 0⟩
/-- R517: Seconds [31:0] -/
def LIFE.CAL_SEC_LO : Fld := ⟨0x1F0014, 0, 32, 0⟩
/-- R517: Seconds [47:32] -/
def LIFE.CAL_SEC_HI : Fld := ⟨0x1F0018, 0, 16, 0⟩
/-- R517: Signed s -/
def LIFE.UTC_OFFSET : Fld := ⟨0x1F001C, 0, 16, 0⟩
/-- R517: Signed ppb, ±200,000; values outside act as the nearer limit -/
def LIFE.TRIM : Fld := ⟨0x1F0020, 0, 32, 0⟩
/-- R517: s; 0 acts as 1 -/
def LIFE.SYNC_PERIOD : Fld := ⟨0x1F0024, 0, 32, 0xE10⟩
/-- R517: Calendar seconds [31:0] -/
def LIFE.LAST_SYNC : Fld := ⟨0x1F0028, 0, 32, 0⟩
/-- R517: Signed, 1/32,768 s, saturating -/
def LIFE.CAL_STEP : Fld := ⟨0x1F002C, 0, 32, 0⟩
/-- R517: Hours; 0xFFFF unlimited (R502) -/
def LIFE.SERVICE_LEFT : Fld := ⟨0x1F0030, 0, 16, 0⟩
/-- R517: As PEER_EUI_LO (R461) -/
def LIFE.HW_EUI_LO : Fld := ⟨0x1F0040, 0, 32, 0⟩
/-- R517: As PEER_EUI_HI -/
def LIFE.HW_EUI_HI : Fld := ⟨0x1F0044, 0, 32, 0⟩
/-- R517: Identity EUI-64 (R506) -/
def LIFE.ID_EUI_LO : Fld := ⟨0x1F0048, 0, 32, 0⟩
/-- R517: — -/
def LIFE.ID_EUI_HI : Fld := ⟨0x1F004C, 0, 32, 0⟩
/-- R517: Signed, 0.01 °C (R498) -/
def LIFE.TJ_MAX : Fld := ⟨0x1F0140, 0, 16, 0⟩
/-- R517: As TJ_MAX -/
def LIFE.TJ_MIN : Fld := ⟨0x1F0144, 0, 16, 0⟩
/-- R517: As TJ_MAX -/
def LIFE.TJ_MEAN : Fld := ⟨0x1F0148, 0, 16, 0⟩
/-- R517: °C, 10–100; values outside act as the nearer limit -/
def LIFE.THERM_DT : Fld := ⟨0x1F014C, 0, 8, 0x28⟩
/-- R517: r = 0–5 (R490) -/
def LIFE.WEAR (r : Nat) : Fld := ⟨0x1F0200 + 8 * r, 0, 32, 0⟩
/-- R517: 0.01 %, saturating at 0xFFFF -/
def LIFE.WEAR_PCT (r : Nat) : Fld := ⟨0x1F0204 + 8 * r, 0, 16, 0⟩
/-- R517: ps (R499) -/
def LIFE.MARGIN_MIN : Fld := ⟨0x1F0300, 0, 16, 0⟩
/-- R517: ps -/
def LIFE.BASELINE : Fld := ⟨0x1F0304, 0, 16, 0⟩
/-- R517: Signed, ps per 10,000 h -/
def LIFE.TREND : Fld := ⟨0x1F0308, 0, 32, 0⟩
/-- R517: R499 -/
def LIFE.PROJ_YEARS : Fld := ⟨0x1F030C, 0, 8, 0xFF⟩
/-- R517: ps -/
def LIFE.MARGIN_WARN : Fld := ⟨0x1F0310, 0, 16, 0x1E⟩
/-- R517: m = 0–15 -/
def LIFE.MARGIN (m : Nat) : Fld := ⟨0x1F0340 + 4 * m, 0, 16, 0⟩
/-- R518: R497 -/
def LIFE.POWER_ON_MIN : Fld := ⟨0x1F0100, 0, 32, 0⟩
/-- R518: R497 -/
def LIFE.DORMANT_MIN : Fld := ⟨0x1F0104, 0, 32, 0⟩
/-- R518: R497 -/
def LIFE.VBAK_MIN : Fld := ⟨0x1F0108, 0, 32, 0⟩
/-- R518: R497 -/
def LIFE.POWER_CYCLES : Fld := ⟨0x1F010C, 0, 32, 0⟩
/-- R518: R497 -/
def LIFE.WARM_RESETS : Fld := ⟨0x1F0110, 0, 32, 0⟩
/-- R518: R497 -/
def LIFE.BROWNOUTS : Fld := ⟨0x1F0114, 0, 32, 0⟩
/-- R518: R498 -/
def LIFE.THERMAL_CYCLES : Fld := ⟨0x1F0118, 0, 32, 0⟩
/-- R518: R498, b = 0–7 -/
def LIFE.TJ_BAND (b : Nat) : Fld := ⟨0x1F0120 + 4 * b, 0, 32, 0⟩
/-- R517: Interrupt enables, laid out as INT -/
def LIFE.INT_EN : Fld := ⟨0x1F000C, 0, 9, 0x1FF⟩
/-- R517: Interrupt flags; bits: IDENTITY [8], CONFIG [7], FW [6], LC [5], MARGIN [4], WEAR [3], CAL_LOST [2], VBAK_LOW [1], CAL_SYNC [0] -/
def LIFE.INT : Fld := ⟨0x1F0008, 0, 9, 0⟩

/-- Fields of ORB, part 0, with access type and update class. -/
def ORB.fields0 : List FldSpec := [
  FldSpec.one ORB.CTRL_EVT_HOLDOFF .rw .live,
  FldSpec.one ORB.CTRL_AUTO_INDEX .rw .live,
  FldSpec.one ORB.CTRL_START_AUTO .rw .live,
  FldSpec.one ORB.STATUS_ROLE_STRAP .ro .none,
  FldSpec.one ORB.STATUS_OWN_INDEX .ro .none,
  FldSpec.one ORB.STATUS_JOIN_STATE .ro .none,
  FldSpec.one ORB.STATUS_HOPS .ro .none,
  FldSpec.one ORB.STATUS_UPB_VALID .ro .none,
  FldSpec.one ORB.STATUS_TIME_UP .ro .none,
  FldSpec.one ORB.STATUS_UPB .ro .none,
  FldSpec.one ORB.STATUS_UPA .ro .none,
  FldSpec.one ORB.PRESENT .ro .none,
  FldSpec.one ORB.JOINED .ro .none,
  FldSpec.one ORB.START_GAP .rw .live,
  FldSpec.one ORB.OFFSET .ro .none,
  FldSpec.arr ORB.LINK_EN 4 0x80 (fun _ => .rw) (fun _ => .live)]
/-- Fields of ORB, part 1, with access type and update class. -/
def ORB.fields1 : List FldSpec := [
  FldSpec.arr ORB.LINK_MIRROR 4 0x80 (fun _ => .ro) (fun _ => .none),
  FldSpec.arr ORB.LINK_FWD_ERR 4 0x80 (fun _ => .ro) (fun _ => .none),
  FldSpec.arr ORB.LINK_PEER_INDEX 4 0x80 (fun _ => .ro) (fun _ => .none),
  FldSpec.arr ORB.LINK_PEER_ROLE 4 0x80 (fun _ => .ro) (fun _ => .none),
  FldSpec.arr ORB.LINK_BLOCK_LOCK 4 0x80 (fun _ => .ro) (fun _ => .none),
  FldSpec.arr ORB.LINK_LINK_STATE 4 0x80 (fun _ => .ro) (fun _ => .none),
  FldSpec.arr ORB.LINK_PEER_EUI_LO 4 0x80 (fun _ => .ro) (fun _ => .none),
  FldSpec.arr ORB.LINK_PEER_EUI_HI 4 0x80 (fun _ => .ro) (fun _ => .none),
  FldSpec.arr ORB.LINK_ASYM 4 0x80 (fun _ => .rw) (fun _ => .timeFrame),
  FldSpec.arr ORB.LINK_DELAY 4 0x80 (fun _ => .ro) (fun _ => .none),
  FldSpec.arr ORB.LINK_EXPECT 4 0x80 (fun _ => .ro) (fun _ => .none),
  FldSpec.arr ORB.MOON_EUI_LO 16 0x10 (fun _ => .rw) (fun _ => .static),
  FldSpec.arr ORB.MOON_EUI_HI 16 0x10 (fun _ => .rw) (fun _ => .static),
  FldSpec.arr ORB.MOON_EN 16 0x10 (fun _ => .rw) (fun _ => .live),
  FldSpec.arr ORB.MOON_LINK 16 0x10 (fun _ => .ro) (fun _ => .none),
  FldSpec.arr ORB.MOON_HOPS 16 0x10 (fun _ => .ro) (fun _ => .none)]
/-- Fields of ORB, part 2, with access type and update class. -/
def ORB.fields2 : List FldSpec := [
  FldSpec.arr ORB.MOON_STATE 16 0x10 (fun _ => .ro) (fun _ => .none),
  FldSpec.arr ORB.MOON_LAST_SEEN 16 0x10 (fun _ => .ro) (fun _ => .none),
  FldSpec.arr ORB.LINK_FRAMES_TX 4 0x80 (fun _ => .ro) (fun _ => .none),
  FldSpec.arr ORB.LINK_FRAMES_RX 4 0x80 (fun _ => .ro) (fun _ => .none),
  FldSpec.arr ORB.LINK_FCHK_ERR 4 0x80 (fun _ => .ro) (fun _ => .none),
  FldSpec.arr ORB.LINK_BLK_MISSING 4 0x80 (fun _ => .ro) (fun _ => .none),
  FldSpec.arr ORB.LINK_BLK_LATE 4 0x80 (fun _ => .ro) (fun _ => .none),
  FldSpec.arr ORB.LINK_BLK_DUP 4 0x80 (fun _ => .ro) (fun _ => .none),
  FldSpec.arr ORB.LINK_LINK_DOWN 4 0x80 (fun _ => .ro) (fun _ => .none),
  FldSpec.arr ORB.LINK_TIME_RX 4 0x80 (fun _ => .ro) (fun _ => .none),
  FldSpec.one ORB.INT_EN .rw .live,
  FldSpec.one ORB.INT .w1c .none]
/-- Fields of ORB, part 3, with access type and update class. -/
def ORB.fields3 : List FldSpec := (List.range 8).map (fun q => FldSpec.arr (fun n => ORB.LINK_FWD n q) 4 0x80 (fun _ => .rw) (fun _ => .pass))
/-- Every field of ORB. -/
def ORB.fields : List FldSpec := List.flatten [ORB.fields0, ORB.fields1, ORB.fields2, ORB.fields3]
/-- Fields of PAIR, part 0, with access type and update class. -/
def PAIR.fields0 : List FldSpec := [
  FldSpec.one PAIR.CTRL_EVT_HOLDOFF .rw .live,
  FldSpec.one PAIR.CTRL_PAIR_EN .rw .static,
  FldSpec.one PAIR.CTRL_FORCE_ACTIVE .wo .live,
  FldSpec.one PAIR.CTRL_RESIGN .wo .live,
  FldSpec.one PAIR.STATUS_PEER_ROLE .ro .none,
  FldSpec.one PAIR.STATUS_MIRROR_UP .ro .none,
  FldSpec.one PAIR.STATUS_SYNCED .ro .none,
  FldSpec.one PAIR.STATUS_DRIVE .ro .none,
  FldSpec.one PAIR.STATUS_LEASE_VALID .ro .none,
  FldSpec.one PAIR.STATUS_PEER_SEEN .ro .none,
  FldSpec.one PAIR.STATUS_SIDE .ro .none,
  FldSpec.one PAIR.STATUS_ROLE .ro .none,
  FldSpec.one PAIR.LEASE_LEFT .ro .none,
  FldSpec.one PAIR.PULSE_AGE .ro .none,
  FldSpec.one PAIR.RESYNC_PHASE .ro .none,
  FldSpec.one PAIR.LAST_GAP .ro .none]
/-- Fields of PAIR, part 1, with access type and update class. -/
def PAIR.fields1 : List FldSpec := [
  FldSpec.arr PAIR.PORT_MAC_LO 4 8 (fun _ => .cp) (fun _ => .none),
  FldSpec.arr PAIR.PORT_MAC_HI 4 8 (fun _ => .cp) (fun _ => .none),
  FldSpec.one PAIR.PULSE_TX .ro .none,
  FldSpec.one PAIR.PULSE_RX .ro .none,
  FldSpec.one PAIR.PULSE_BAD .ro .none,
  FldSpec.one PAIR.PROMOTIONS .ro .none,
  FldSpec.one PAIR.SILENCES .ro .none,
  FldSpec.one PAIR.HANDOVERS .ro .none,
  FldSpec.one PAIR.DIGEST_DIFF .ro .none,
  FldSpec.one PAIR.MIRROR_MISS .ro .none,
  FldSpec.one PAIR.WITHHELD .ro .none,
  FldSpec.one PAIR.LATE_SENT .ro .none,
  FldSpec.one PAIR.INT_EN .rw .live,
  FldSpec.one PAIR.INT .w1c .none]
/-- Every field of PAIR. -/
def PAIR.fields : List FldSpec := List.flatten [PAIR.fields0, PAIR.fields1]
/-- Fields of TEST, part 0, with access type and update class. -/
def TEST.fields0 : List FldSpec := [
  FldSpec.one TEST.CTRL_EVT_HOLDOFF .rw .live,
  FldSpec.one TEST.GAP .rw .turn,
  FldSpec.one TEST.SETS_EN .rw .turn,
  FldSpec.one TEST.STATUS_ACCESS .ro .none,
  FldSpec.one TEST.STATUS_SLICE_SET .ro .none,
  FldSpec.one TEST.STATUS_SLICE_UNIT_NOW .ro .none,
  FldSpec.one TEST.STATUS_PAUSED .ro .none,
  FldSpec.one TEST.STATUS_CMD_RUN .ro .none,
  FldSpec.one TEST.STATUS_SLICE_ACTIVE .ro .none,
  FldSpec.one TEST.RUN_SET .cp .none,
  FldSpec.one TEST.RUN_UNIT .cp .none,
  FldSpec.one TEST.RUN_MODE .cp .none,
  FldSpec.one TEST.RUN_REFERENCE .cp .none,
  FldSpec.one TEST.RUN_SEED .cp .none,
  FldSpec.one TEST.RUN_DONE .ro .none,
  FldSpec.one TEST.RUN_SLICES .cp .none]
/-- Fields of TEST, part 1, with access type and update class. -/
def TEST.fields1 : List FldSpec := [
  FldSpec.one TEST.RUN_OUTCOME .ro .none,
  FldSpec.one TEST.LAST_SIG_VALID .ro .none,
  FldSpec.one TEST.LAST_OUTCOME .ro .none,
  FldSpec.one TEST.LAST_SET .ro .none,
  FldSpec.one TEST.LAST_SLICE_UNIT .ro .none,
  FldSpec.one TEST.LAST_REPEAT .ro .none,
  FldSpec.one TEST.LAST_COMMANDED .ro .none,
  FldSpec.one TEST.LAST_DONE_COUNT .ro .none,
  FldSpec.one TEST.LAST_SLICE_INDEX .ro .none,
  FldSpec.one TEST.LAST_SIG_LO .ro .none,
  FldSpec.one TEST.LAST_SIG_HI .ro .none,
  FldSpec.one TEST.LAST_EXP_LO .ro .none,
  FldSpec.one TEST.LAST_EXP_HI .ro .none,
  FldSpec.one TEST.LAST_SLICE_START .ro .none,
  FldSpec.one TEST.LAST_SLICE_DUR .ro .none,
  FldSpec.arr TEST.SET_UNIT 3 0x10 (fun _ => .ro) (fun _ => .none)]
/-- Fields of TEST, part 2, with access type and update class. -/
def TEST.fields2 : List FldSpec := [
  FldSpec.arr TEST.SET_NEXT_SLICE 3 0x10 (fun _ => .ro) (fun _ => .none),
  FldSpec.arr TEST.SET_CYCLES 3 0x10 (fun _ => .ro) (fun _ => .none),
  FldSpec.arr TEST.SET_LAST_CYCLE 3 0x10 (fun _ => .ro) (fun _ => .none),
  FldSpec.arr TEST.REC_PASSED_SINCE_Q 224 4 (fun _ => .ro) (fun _ => .none),
  FldSpec.arr TEST.REC_LAST_RUN 224 4 (fun _ => .ro) (fun _ => .none),
  FldSpec.arr TEST.REC_FAILED 224 4 (fun _ => .ro) (fun _ => .none),
  FldSpec.arr TEST.REC_RUNS 224 4 (fun _ => .ro) (fun _ => .none),
  FldSpec.one TEST.SLICES .ro .none,
  FldSpec.one TEST.SLICES_PASS .ro .none,
  FldSpec.one TEST.SLICES_FAIL .ro .none,
  FldSpec.one TEST.SLICES_DONE .ro .none,
  FldSpec.one TEST.SLICES_INCOMPLETE .ro .none,
  FldSpec.one TEST.SLICES_ABORTED .ro .none,
  FldSpec.one TEST.TRANSIENTS .ro .none,
  FldSpec.one TEST.HELD_CMDS .ro .none,
  FldSpec.one TEST.BUSY_REFUSED .ro .none]
/-- Fields of TEST, part 3, with access type and update class. -/
def TEST.fields3 : List FldSpec := [
  FldSpec.one TEST.INT_EN .rw .live,
  FldSpec.one TEST.INT .w1c .none]
/-- Every field of TEST. -/
def TEST.fields : List FldSpec := List.flatten [TEST.fields0, TEST.fields1, TEST.fields2, TEST.fields3]
/-- Fields of LIFE, part 0, with access type and update class. -/
def LIFE.fields0 : List FldSpec := [
  FldSpec.one LIFE.CTRL_CAL_SEED .rw .live,
  FldSpec.one LIFE.CTRL_AUTO_TRIM .rw .live,
  FldSpec.one LIFE.CTRL_CAL_SYNC_EN .rw .live,
  FldSpec.one LIFE.STATUS_LC_STATE .ro .none,
  FldSpec.one LIFE.STATUS_BL .ro .none,
  FldSpec.one LIFE.STATUS_IDENTITY_SRC .ro .none,
  FldSpec.one LIFE.STATUS_CERT_VALID .ro .none,
  FldSpec.one LIFE.STATUS_CONFIG_SLOT .ro .none,
  FldSpec.one LIFE.STATUS_CONFIG_VALID .ro .none,
  FldSpec.one LIFE.STATUS_FW_TRIAL .ro .none,
  FldSpec.one LIFE.STATUS_FW_SLOT .ro .none,
  FldSpec.one LIFE.STATUS_VBAK_LOW .ro .none,
  FldSpec.one LIFE.STATUS_AON_RESTORED .ro .none,
  FldSpec.one LIFE.STATUS_CAL_VALID .ro .none,
  FldSpec.one LIFE.CAL_SUB .ro .none,
  FldSpec.one LIFE.CAL_SEC_LO .ro .none]
/-- Fields of LIFE, part 1, with access type and update class. -/
def LIFE.fields1 : List FldSpec := [
  FldSpec.one LIFE.CAL_SEC_HI .ro .none,
  FldSpec.one LIFE.UTC_OFFSET .cp .none,
  FldSpec.one LIFE.TRIM .rw .live,
  FldSpec.one LIFE.SYNC_PERIOD .rw .live,
  FldSpec.one LIFE.LAST_SYNC .ro .none,
  FldSpec.one LIFE.CAL_STEP .ro .none,
  FldSpec.one LIFE.SERVICE_LEFT .ro .none,
  FldSpec.one LIFE.HW_EUI_LO .ro .none,
  FldSpec.one LIFE.HW_EUI_HI .ro .none,
  FldSpec.one LIFE.ID_EUI_LO .ro .none,
  FldSpec.one LIFE.ID_EUI_HI .ro .none,
  FldSpec.one LIFE.TJ_MAX .ro .none,
  FldSpec.one LIFE.TJ_MIN .ro .none,
  FldSpec.one LIFE.TJ_MEAN .ro .none,
  FldSpec.one LIFE.THERM_DT .rw .live,
  FldSpec.arr LIFE.WEAR 6 8 (fun _ => .ro) (fun _ => .none)]
/-- Fields of LIFE, part 2, with access type and update class. -/
def LIFE.fields2 : List FldSpec := [
  FldSpec.arr LIFE.WEAR_PCT 6 8 (fun _ => .ro) (fun _ => .none),
  FldSpec.one LIFE.MARGIN_MIN .ro .none,
  FldSpec.one LIFE.BASELINE .ro .none,
  FldSpec.one LIFE.TREND .ro .none,
  FldSpec.one LIFE.PROJ_YEARS .ro .none,
  FldSpec.one LIFE.MARGIN_WARN .rw .live,
  FldSpec.arr LIFE.MARGIN 16 4 (fun _ => .ro) (fun _ => .none),
  FldSpec.one LIFE.POWER_ON_MIN .ro .none,
  FldSpec.one LIFE.DORMANT_MIN .ro .none,
  FldSpec.one LIFE.VBAK_MIN .ro .none,
  FldSpec.one LIFE.POWER_CYCLES .ro .none,
  FldSpec.one LIFE.WARM_RESETS .ro .none,
  FldSpec.one LIFE.BROWNOUTS .ro .none,
  FldSpec.one LIFE.THERMAL_CYCLES .ro .none,
  FldSpec.arr LIFE.TJ_BAND 8 4 (fun _ => .ro) (fun _ => .none),
  FldSpec.one LIFE.INT_EN .rw .live]
/-- Fields of LIFE, part 3, with access type and update class. -/
def LIFE.fields3 : List FldSpec := [
  FldSpec.one LIFE.INT .w1c .none]
/-- Every field of LIFE. -/
def LIFE.fields : List FldSpec := List.flatten [LIFE.fields0, LIFE.fields1, LIFE.fields2, LIFE.fields3]


end Sys2Proof.Machine
end

