-- ==== Sys2Proof/Machine/State.lean ====
section
/-! DEFINITION. The state of the block: the register file, and what the chapters give each unit besides its registers. Plain
data throughout; State.reset is the unit right after a power-on reset. -/

namespace Sys2Proof.Machine

/-- Why a step can stop with a fault. No meaning raises one: the spec gives every command an effect in every state, so the
type has one constructor that stands for an internal contradiction and is never answered (safe). -/
inductive Fault where
  /-- Never raised. -/
  | unreachable
deriving DecidableEq, Repr

/-- Why a step can be refused. -/
inductive Refusal where
  /-- Raised by an arm of `exec` for a command that has no meaning yet (safe: nothing is claimed of it). -/
  | notModelled (mnemonic : String)
deriving DecidableEq, Repr

/-- A class-B field with a written value waiting for its boundary (R18): the key of the field, the value in force until
then, and the boundary. The register itself reads the value last written. -/
structure Held where
  key : Nat
  val : Nat
  upd : Upd
deriving DecidableEq, Repr

/-- The last instant (CORE cycle count) at which a rate-limited event of `code` was raised for `unit`, and how many
occurrences have come since without an event. -/
structure Holdoff where
  code : Nat
  unit : Nat
  last : Nat
  missed : Nat
deriving DecidableEq, Repr

/-- A Sync waiting for its Follow_Up (R64): source, sequenceId, correctionField and receive stamp (2^−16 ns units). -/
structure PendSync where
  src : Nat
  seq : Nat
  corr : Int
  t2 : Int
deriving DecidableEq, Repr

/-- The delay pair in use (R64, R65), in 2^−16 ns. -/
structure DelayPair where
  t3 : Int
  t4 : Int
  corr : Int
deriving DecidableEq, Repr

/-- A foreign master heard on a port: its last Announce, and the cycles at which its Announces were heard, as far back as the
qualification window reaches (newest first). -/
structure Foreign where
  msg : Announce
  times : List Nat
deriving DecidableEq, Repr

/-- One PTP instance (R53, R54) besides its registers. Offsets and delays are exact, in 2^−17 ns. `traced` is the timeTraceable
flag of the last parent, kept when it is lost (R56); `lastAt` the cycle of the last valid exchange; `confirmed` says that a path
change was confirmed since the last servo update (R81). -/
structure PtpPort where
  prio1 : Nat
  prio2 : Nat
  dscp : Nat
  logAnnounce : Int
  receiptTimeout : Nat
  parent : Option Announce
  traced : Bool
  foreign : List Foreign
  syncs : List PendSync
  dreqs : List (Nat × Int)
  pair : Option DelayPair
  baseline : List (Int × Int)
  suspects : Nat
  confirmed : Bool
  lastOfs : Int
  recent : Bool
  lastAt : Nat
  lockRun : Nat
  dreqSec : Nat
  dreqCount : Nat
  seqSync : Nat
  seqDreq : Nat
  seqAnnounce : Nat
  followUp : Option (Nat × Int)
deriving DecidableEq, Repr

/-- A time load armed by APPLY_PPS (R82). -/
structure PpsLoad where
  sec : Nat
  ns : Nat
  src : Nat
  force : Bool
  validate : Bool
  source : Nat
deriving DecidableEq, Repr

/-- A PTP message of the engine: port, kind (0 Sync, 1 Follow_Up, 2 Delay_Req, 3 Delay_Resp, 4 Announce), sequenceId, the
whole-nanosecond time it carries, its correctionField, the clockClass of an Announce, the requestingPortIdentity of a Delay_Resp,
and the frame, without its FCS. -/
structure PtpSent where
  port : Nat
  kind : Nat
  seq : Nat
  time : Int
  corr : Int
  cls : Nat
  req : Nat
  bytes : List Byte
deriving DecidableEq, Repr

/-- A message in the PTP partition of a port (R137), and whether R138 has deferred it. -/
structure PtpFrame where
  msg : PtpSent
  deferred : Bool
deriving DecidableEq, Repr

/-- The time engine besides its registers: the two instances; the servo's integral I (2^−33 ns) and its runs of
exchanges; the armed load; the clock quality set by CLOCK_QUALITY_SET; the last message sent by each kind. -/
structure TimeState where
  ports : Vector PtpPort 2
  integral : Int
  incr : Nat
  runLock : Nat
  runUnlock : Nat
  runMonitor : Nat
  pps : Option PpsLoad
  cls : List (Option Nat)
  accuracy : Nat
  variance : Nat
  timeSource : Nat
  sent : List PtpSent
deriving DecidableEq, Repr

/-- A row of a receive ring (R209): the record's STATE (1 WRITTEN, 2 HOLE) and LAP, the channels' 40-bit words as signed
numbers, whether the row lies in lost lines or in an absent bank, so that every read of it carries the mark (R245), whether it was written since a bank
handover started (R216), the lines of the row, counted from its first, in which a stored word is
uncorrectable until the row is written again (R202), and its seal (R242). -/
structure RingRow where
  state : Nat
  lap : Nat
  data : List Int
  bad : Bool
  mirrored : Bool
  ue : List Nat
  crc : Nat
deriving DecidableEq, Repr

/-- A receive ring (R206): RING_LEN, number of rows, pages in use, and the rows that are not EMPTY, by row index. -/
structure Ring where
  len : Nat
  rows : Nat
  pages : List Nat
  cells : List (Nat × RingRow)
deriving DecidableEq, Repr

/-- A receive leg in use: sequence number and SSRC of the last packet accepted (R168, R169). -/
structure LegRun where
  seq : Option Nat
  ssrc : Option Nat
deriving DecidableEq, Repr

/-- The channel status of one AM824 channel (R165): the media time of the block start, the bits collected since (newest
last), and the last complete block of 24 bytes. -/
structure CsRun where
  since : Nat
  bits : List Bool
  last : List Byte
deriving DecidableEq, Repr

/-- An enabled receive stream, or one whose ring is still held: its ring, legs, the frames concealed in the hole in
progress, the last base period fetched, and its channel-status blocks. -/
structure RxRun where
  stream : Nat
  ring : Ring
  legA : LegRun
  legB : LegRun
  hole : Nat
  maxB : Option Nat
  cs : List CsRun
  closing : Bool
deriving DecidableEq, Repr

/-- An enabled transmit stream: the media time of its next packet once started, the sequence number of that packet, and
whether ENABLE has been cleared (no packet beyond `stopAt`). -/
structure TxRun where
  stream : Nat
  nextM : Option Nat
  seq : Nat
  applied : Nat
  stopAt : Option Nat
deriving DecidableEq, Repr

/-- A packet inside a Hammer (R160): physical Hammer, logical lane, direction (0 receive, 1 transmit), stream, leg, the
cycle it entered, for receive its frame without the FCS and its receive stamp, for transmit the media time and sequence number of the
packet and its payload of converted samples; and the seal of its wire block or packet block (R242). A receive packet of an earlier enable of its stream
has sequence number 1. -/
structure Flight where
  hammer : Nat
  lane : Nat
  dir : Nat
  stream : Nat
  leg : Nat
  entered : Nat
  payload : List Byte
  stamp : Int
  m : Nat
  seq : Nat
  crc : Nat
deriving DecidableEq, Repr

/-- A frame of the STREAM partition waiting for its launch instant (R177, R178): L in ns, stream, leg and the
frame's bytes without the FCS, and the seal of its packet block (R242). -/
structure LaunchFrame where
  launch : Nat
  stream : Nat
  leg : Nat
  bytes : List Byte
  crc : Nat
deriving DecidableEq, Repr

/-- The stream engine besides its registers and tables. `sealTimes` holds the fresh seal failures of the
last millisecond as (Hammer, cycle), `csTx` the channel-status blocks set by AM824_CS_SET as (stream, channel, block in force,
block waiting for the next block start). `took` is the last time a failing Hammer's lane took the spare: cycle, lane, Hammer (R187). -/
structure StrmState where
  rx : List RxRun
  tx : List TxRun
  flights : List Flight
  sealTimes : List (Nat × Nat)
  csTx : List (Nat × Nat × List Byte × Option (List Byte))
  took : Option (Nat × Nat × Nat)
deriving DecidableEq, Repr

/-- A candidate reference besides its registers (R93 to R97): the qualification timer and the persistence timer in ms since
they started, the sum and count of FREQ_OFS − HO_FREQ in the drift window in progress, the same of the window before it,
the 1PPS edges not used in a row, and the last measurement against nominal (R97, R107). -/
structure RefState where
  qualMs : Option Nat
  persistMs : Option Nat
  driftSum : Int
  driftCount : Nat
  prevDrift : Option (Int × Nat)
  rejectRun : Nat
  ofs : Int
deriving DecidableEq, Repr

/-- One second of a DPLL's life: LOCKED throughout, a learning second (R110), and the output frequency in it (ppt). -/
structure ClkSecond where
  locked : Bool
  learn : Bool
  freq : Int
deriving DecidableEq, Repr

/-- A DPLL besides its registers: references selectable continuously for WTR (bit per reference), the index last selected,
compares in the dwell in progress and whether all of them were within LOCK_THR, compares beyond UNLOCK_THR in a row, the
seconds since reset (newest first), whether the second in progress was LOCKED and not SUSPECT so far, the frequency it
moves towards in HOLDOVER, whether HOLDOVER was entered with HO_VALID, and whether its output was stopped by a loss of
XO_IN; the phase difference recorded at selection and held under BUILD_OUT (R102), once measured; and the output frequencies in force at the compares
of the second in progress, as sum and count. -/
structure DpllState where
  wtrDone : Nat
  lastSel : Option Nat
  dwell : Nat
  bad : Nat
  secs : List ClkSecond
  secLocked : Bool
  secClean : Bool
  target : Int
  enteredValid : Bool
  moved : Bool
  held : Option Int
  freqSum : Int
  freqN : Nat
deriving DecidableEq, Repr

/-- Hearth besides its registers: references, DPLLs, the levels of CKS_LOCK, CKS_HOLD and CKS_SEL; for WCLK_OUT0 to WCLK_OUT3 and
PPS_OUT a rising edge from which the output's cadence counts, as an instant of the master time counter (2^−32 ns; R114 to R116), and the levels of the
five pins, bit per output. -/
structure ClkState where
  refs : Vector RefState 8
  dplls : Vector DpllState 4
  cksLock : Nat
  cksHold : Nat
  cksSel : Nat
  outEdge : Vector Int 5
  outPins : Nat
deriving DecidableEq, Repr

/-- A frame in a port's receive buffer (R128, R129): its bytes from destination address to FCS, cut to RX_MAX_LEN, its
receive stamp (2^−16 ns), its reception status (0 OK, 1 PAUSE, 2 CODE_ERR, 3 RUNT, 4 OVERSIZE, 5 FCS_ERR, 6 LEN_ERR) and
whether the drain has been held back for it already (R160). -/
structure RxFrame where
  bytes : List Byte
  stamp : Int
  status : Nat
  heldBack : Bool
deriving DecidableEq, Repr

/-- A frame in a transmit partition other than STREAM (R137): its bytes without the FCS, the host ring item it belongs to (ring
index and the item's number), whether it is a segment, the last segment of its send, and whether R138 has deferred it. -/
structure TxFrame where
  bytes : List Byte
  host : Option (Nat × Nat)
  segment : Bool
  lastSeg : Bool
  deferred : Bool
deriving DecidableEq, Repr

/-- A port besides its registers: link state (0 DISABLED, 1 DOWN, 2 UP), receive buffer, the STREAM, PTP, SERVICE and HOST partitions,
the changes of RX_FILL that a frame still arriving may have met (cycle, bytes held from then, newest first; R128), the base page the port
advertises under Clause 37 (R126), generated PAUSE frames waiting to leave (their pause_time), the pause timer in quanta and the cycle TX_PAUSED rose, the
cycles left over from TX_PAUSED_US, whether the port is pausing its partner, the statistics copied by STAT_SNAP, and the last
frame sent with its departure stamp. -/
structure PortState where
  link : Nat
  rx : List RxFrame
  stream : List LaunchFrame
  ptp : List PtpFrame
  service : List TxFrame
  host : List TxFrame
  pauses : List Nat
  timer : Nat
  pausedAt : Nat
  pausedRem : Nat
  pausing : Bool
  snap : List Nat
  sent : Option (List Byte × Int)
  fills : List (Nat × Nat)
  advert : Nat
deriving DecidableEq, Repr

/-- One entry of a queue (R221, R225): the first entry of an item, a further entry of it, or the gap marker with its count
and first-drop time. -/
inductive QCell where
  | head (it : QItem)
  | cont
  | gap (count first : Nat)
deriving DecidableEq, Repr

/-- An entry with the mark that its spilled copy was lost with its bank (R228). -/
structure QEntry where
  cell : QCell
  lost : Bool
deriving DecidableEq, Repr

/-- A queue (R222): entries popped and not yet released, oldest first (REL to RD); entries ready to pop (RD to WR); the
position of MARK counted from REL, while a mark is held. -/
structure Queue where
  popped : List QEntry
  ready : List QEntry
  mark : Option Nat
deriving DecidableEq, Repr

/-- A bank handover in progress (R216): the working bank `src` of logical bank `lbank`, the spare `dst` in COPY, the cycle and
the base media time at which it started, and lines of the bank written since then whose rows the rings no longer tell. -/
structure Handover where
  src : Nat
  dst : Nat
  lbank : Nat
  start : Nat
  media : Nat
  written : List Nat
deriving DecidableEq, Repr

/-- What one queue has seen in the CORE cycle `cycle` (R223, R229): OCC at its start, whether a crossing of LEVEL has been counted in it, the entries
pushed in it, and a push that found no room, with the queue, DROP_CNT and MARKERS as they were before it. -/
structure QCycle where
  queue : Nat
  cycle : Nat
  occ : Nat
  crossed : Bool
  fresh : Nat
  dropped : Option (QItem × Queue × Nat × Nat)
deriving DecidableEq, Repr

/-- The deep store's state besides its registers: the queues 0 to 10, the entry each queue's consumer last received, and
handover in progress, when each Bellows pin last changed, the uncorrectable errors of the last millisecond as (bank, cycle),
the cycle in which an event record last entered queue 0, with how many entered in that cycle (R41), and what each queue has seen in the present
cycle. -/
structure QueState where
  queues : Vector Queue 11
  out : List (Nat × QCell)
  handover : Option Handover
  pinSince : Vector Nat 8
  ueTimes : List (Nat × Nat)
  raised : Nat × Nat
  now : List QCycle
deriving DecidableEq, Repr

/-- The seals besides their registers: failures at each check point since its last event 0x0130 (R251), and the destination
rows whose stored seal an injection has complemented, as (check point, group, base period) (R252). -/
structure SealState where
  since : Vector Nat 16
  marks : List (Nat × Nat × Nat)
deriving DecidableEq, Repr

/-- The reply a command leaves (R353, R358): status code, part mask, the failing TLV and its offset, the parts whose undo
failed, the status of each part of a split command, and the payload of an OK reply. -/
structure Reply where
  status : Nat
  partMask : Nat
  errTlv : Nat
  errOffset : Nat
  undoFail : Nat
  partStatus : List Nat
  payload : List Byte
deriving DecidableEq, Repr

/-- The outcome of a request that has been carried out and has not yet been completed by REQUEST_COMPLETE. -/
structure Result where
  channel : Nat
  tag : Nat
  opcode : Nat
  reply : Reply
deriving DecidableEq, Repr

/-- A request holding its tag (R366): header, opcode, its whole packet, the cycle it left CMD_IN, and whether it has started. -/
structure InFlight where
  req : Req
  opcode : Nat
  packet : List Byte
  since : Nat
  started : Bool
deriving DecidableEq, Repr

/-- An open UDP session (R362, R363): its channel (32 to 47), identifier, key slot, privilege, control port, client address and port, the two keys,
the highest counter received and the counters received below it, the counter last sent, the kept replies by SEQ (newest
first), the cycle of the last valid datagram, and whether it closes once the reply to its own SESSION_CLOSE has left. -/
structure Session where
  chan : Nat
  id : Nat
  slot : Nat
  priv : Nat
  port : Nat
  addr : Nat
  cport : Nat
  kcd : List Byte
  kdc : List Byte
  rxHigh : Nat
  rxSeen : List Nat
  txCtr : Nat
  kept : List (Nat × List Byte)
  lastRx : Nat
  closing : Bool
deriving DecidableEq, Repr

/-- A split command, or one whose reply waits for a condition (R366, R369, R371): its header and opcode; its kind (0 TDM_START,
1 TDM_STOP, 2 AMP_START, 3 AMP_STOP, 4 TDM_MASK_SET, 5 AMP_FREQ_SET, 6 AMP_COEF_SET, 7 AMP_MUTE, 8 PAIR_RESIGN, 9 AMP_UNLOCK,
10 STREAM_ENABLE, 11 SDP_APPLY, 12 BROWSE_GET, 13 MOON_START, 14 a request split over devices, 15 N5_MEMTEST); the TLV type a failure
names; for each part its bit, its index, its status (0xFFFF while it waits), the offset of its TLV and the value its undo restores;
an argument of the kind; and the payload of an OK reply. REQUEST_COMPLETE ends it. -/
structure Wait where
  req : Req
  opcode : Nat
  kind : Nat
  ty : Nat
  bits : List Nat
  parts : List Nat
  sts : List Nat
  offs : List Nat
  aux : List Nat
  arg : Nat
  pay : List Byte
deriving DecidableEq, Repr

/-- The command processor: the tag table, the outcomes waiting for completion, the sessions, the identifier given to the
next session, datagrams sent (port, client address, client port, bytes), the cycles of OPEN datagrams in the last second
by control port, the replies that wait, and whether INT_N is asserted (R399). -/
structure CmdState where
  inflight : List InFlight
  results : List Result
  sessions : List Session
  nextSession : Nat
  sent : List (Nat × Nat × Nat × List Byte)
  opens : List (Nat × Nat)
  waits : List Wait
  intN : Bool
deriving DecidableEq, Repr

/-- A port's addressing as IP_SET writes it (R380). -/
structure IpCfg where
  v4Mode : Nat
  v4Addr : Nat
  v4Prefix : Nat
  v4Gw : Nat
  v6En : Nat
  v6Slaac : Nat
  v6Addrs : List (Nat × Nat)
deriving DecidableEq, Repr

/-- A port's addresses in use (R378): the IPv4 candidate and how many ARP probes it has sent, the IPv4 address
in use, the seconds left and in all of the lease held, and the IPv6 addresses under duplicate address detection and in use. -/
structure IpState where
  cand : Nat
  probes : Nat
  v4Use : Nat
  leaseLeft : Nat
  leaseTotal : Nat
  v6Cand : List Nat
  v6Use : List Nat
deriving DecidableEq, Repr

/-- A neighbour cache entry (R378). -/
structure Neighbour where
  ip : Nat
  mac : Nat
  st : Nat
deriving DecidableEq, Repr

/-- A multicast group held on a port (R379): IP version and address, the row of the table that joined it (0 stream leg, 1 PTP,
2 mDNS or SAP, 3 IPv6 all-nodes or solicited-node, 4 MCAST_JOIN), the mode (0 include, 1 exclude) and sources, how many
users hold it, and the unsolicited reports still to be sent. -/
structure Group where
  ip : Nat
  addr : Nat
  reason : Nat
  mode : Nat
  sources : List Nat
  users : Nat
  left : Nat
deriving DecidableEq, Repr

/-- A heard SAP announcement (R383): origin, message hash, the cycle heard, its interval in cycles and its text. -/
structure SapEntry where
  origin : Nat
  hash : Nat
  heard : Nat
  interval : Nat
  sdp : List Byte
deriving DecidableEq, Repr

/-- NMOS exposure of a stream: direction (0 receive, 1 transmit), index, label, resource version, and the parameters staged
by IS-05 and the master_enable staged, with the active ones kept in the entry itself; `snap` is the entry as the version describes it. -/
structure Expose where
  dir : Nat
  stream : Nat
  expose : Nat
  label : List Byte
  version : Nat
  snap : List Nat
  staged : List Tlv
  enable : Option Bool
deriving DecidableEq, Repr

/-- One port's network services: addressing, addresses in use, neighbour cache, groups held, version in use for IPv4 and
IPv6 membership reports (3 or 2 for IGMP, 2 or 1 for MLD), open HTTP connections. -/
structure PortSvc where
  cfg : IpCfg
  ip : IpState
  neigh : List Neighbour
  groups : List Group
  igmp : Nat
  mld : Nat
  http : Nat
deriving DecidableEq, Repr

/-- The services of the engine (R381 to R387). -/
structure SvcState where
  ports : Vector PortSvc 4
  hostname : List Byte
  label : List Byte
  description : List Byte
  suffix : Nat
  servicePorts : Nat
  nmosMode : Nat
  registry : Nat
  registryPort : Nat
  regState : Nat
  registries : List (Nat × Nat × Nat)
  missed : Nat
  sapStreams : Nat
  sapAnnounce : Nat
  sapGroup : Nat
  sapInterval : Nat
  sapListen : Nat
  sap : List SapEntry
  sapSent : List (Nat × List Byte)
  browse : List (List Byte × Nat × Nat)
  exposed : List Expose
  httpOut : List (Nat × Nat × List Byte)
  posted : List (List Byte)
  sdpText : List (Nat × Nat × List Byte × Nat)
deriving DecidableEq, Repr

/-- What PRESENT fetched of a receive stream for a pass (R174): the pass, the base period, and for each phase the channels'
values, or none where the frame is to be concealed. -/
structure NetFrame where
  pass : Nat
  stream : Nat
  base : Nat
  frames : List (Option (List Int))
deriving DecidableEq, Repr

/-- Concealment of a receive stream (R270, R271), for each phase of a base period: passes of the hole in progress, passes of the
resumption in progress; and the values last loaded into its slots outside a hole. -/
structure ConcRun where
  stream : Nat
  hole : List Nat
  resume : List (Option Nat)
  last : List Int
deriving DecidableEq, Repr

/-- A gain ramp in progress (R260), of route d (index d) or of term i (index 8192 + i): gain before it, target, its length
and the passes done; the second half of a dip (R259): new source, target and length; and whether EN clears at its end. -/
structure RampRun where
  index : Nat
  g0 : Int
  g1 : Int
  n : Nat
  k : Nat
  dip : Option (Nat × Int × Nat)
  clear : Bool
deriving DecidableEq, Repr

/-- An entry of a pending list (R274): table (0 route, 1 term, 2 bus), index and words 0 to 2; a ROUTE_CLEAR; and for a term
moved to another place of the pool, the place it comes from. -/
structure TblEntry where
  table : Nat
  index : Nat
  w0 : Nat
  w1 : Nat
  w2 : Nat
  clear : Bool
  moved : Option Nat
deriving DecidableEq, Repr

/-- A commit waiting for its pass (R275): its list (0 HOST, 1 ENGINE, 2 DIRECT), entries, the cycle it reached Anvil, its
pass, the channel it was asked on (64 for the host's own list), and the request that waits for it. -/
structure Commit where
  list : Nat
  entries : List TblEntry
  arrived : Nat
  due : Nat
  chan : Nat
  reply : Option Result
  more : List TblEntry
deriving DecidableEq, Repr

/-- A row of transmit staging (R213): group, base period, 64 values, and its seal (R242). -/
structure StageRow where
  group : Nat
  period : Nat
  vals : List Int
  crc : Nat
deriving DecidableEq, Repr

/-- Rows of transmit staging lost with a bank (R218, R219): those of periods up to `upTo`, save those written from period
`since` on, from line `line` of the bank. -/
structure StageLoss where
  upTo : Nat
  since : Nat
  line : Nat
deriving DecidableEq, Repr

/-- A group's change of presentation offset (R268, R269): accepted and waiting for its batch (start none), or fading from
pass `start`. -/
structure AlignRun where
  group : Nat
  old : Nat
  new : Nat
  due : Nat
  start : Option Nat
deriving DecidableEq, Repr

/-- Anvil besides its registers and tables: frames fetched for the next pass, concealment, ramps, the HOST pending list (those of the
engine and of the direct opcodes are committed as they are filled), the commits waiting, transmit staging, the base periods
whose rows were written there, its rows (group, period) with an uncorrectable error stored in them (R202), rows lost with a bank, changes of D, the destination values of the last pass by slot (silence is not listed), the base period of that pass, the arithmetic units'
mismatches of the last millisecond as (unit, cycle), and the pass before which a handover last took place (R282). -/
structure AnvilState where
  net : List NetFrame
  conc : List ConcRun
  ramps : List RampRun
  host : List TblEntry
  commits : List Commit
  stage : List StageRow
  passes : List Nat
  rowUe : List (Nat × Nat)
  losses : List StageLoss
  align : List AlignRun
  dest : List (Nat × Int)
  ran : Option Nat
  arith : List (Nat × Nat)
  handed : Option Nat
deriving DecidableEq, Repr

/-- A biquad's states (R328): x[k−1], x[k−2], y[k−1], y[k−2], in the Q7.32 scale. -/
structure Biquad where
  x1 : Int
  x2 : Int
  y1 : Int
  y2 : Int
deriving DecidableEq, Repr

/-- A leg of a bridge in the present half-cycle, in steps of 1/16 PWM clock (R327): whether its high side was called for as the half-cycle began, and for how
long that had been so; what is called for first and the step at which that turns; the last two errors of the duty's quantiser. -/
structure Leg where
  lev : Bool
  age : Nat
  first : Bool
  split : Nat
  err1 : Int
  err2 : Int
deriving DecidableEq, Repr

/-- An amplifier channel besides its registers: the phase of START (0 calibration, 1 boot, 2 ramp); loop updates since row 3 of
R334; the loop's biquads, accumulator and last m (Q7.32); the mute gate: gain at the start of its ramp, target (both Q3.20),
length and steps done, and the pass from which a change waits for a crossing; the cause of a thermal shut-down whose ramp
runs; consecutive limited cycles, whether the present cycle is limited; whether a retry runs (R337); the pass last
checked at check point 11, and the passes whose input that made silence; the legs, and the step of the half-cycle at which the current
limit acted; the SEL_P it started with; the sense samples of the calibration phase: how many, and their sums; an UNLOCK and a retry that
wait for the PWM clock; and the cycle and priority of the fault last taken (R344). -/
structure AmpCh where
  phase : Nat
  updates : Nat
  bq : List Biquad
  acc : Int
  m : Int
  g0 : Nat
  g1 : Nat
  n : Nat
  k : Nat
  wait : Option Nat
  therm : Option Nat
  run : Nat
  limited : Bool
  retry : Bool
  seen : Option Nat
  silent : List Nat
  legA : Leg
  legB : Leg
  cut : Option Nat
  period : Nat
  calN : Nat
  calV : Int
  calI : Int
  unlock : Bool
  due : Bool
  fault : Option (Nat × Nat)
deriving DecidableEq, Repr

/-- Destination row 80 of a pass, with its seal (R242). -/
structure AmpRow where
  period : Nat
  vals : List Int
  crc : Nat
deriving DecidableEq, Repr

/-- The amplifier controller: channels, the last 16 conversions of each sensor (newest first) with its target gain, and the
input rows of the last passes, newest first. -/
structure AmpState where
  chs : Vector AmpCh 8
  conv : List (List Nat)
  target : List Nat
  ins : List AmpRow
deriving DecidableEq, Repr

/-- A per-slot gate of a serial audio port (R306): whether it passes the sample, and the change that waits with its applied
frame. -/
structure Gate where
  opened : Bool
  change : Option (Bool × Nat)
deriving DecidableEq, Repr

/-- When a written mask applies (R309): from the frame the port counts as `frame f`, or from the first frame after the port's next entry to RUNNING. -/
inductive MaskFrom where
  | frame (f : Nat)
  | first
deriving DecidableEq, Repr

/-- A serial audio port besides its registers: output and input gates; the samples of the frame now on the pins; when a written
RX_MASK, TX_MASK and TX_MUTE apply; the count of the next frame since the port started; whether the gates are to be open (R307);
the cycle STARTING was entered; whether every gate is closed, so that the frame on the pins is the last; the identity of that
frame, whether its input is silence, and what SDO carries in it, slot by slot (none where it is at high impedance); the last bit of the
frame before on SDO; the count at which frame numbers began from 0; and the seal of the output frame. -/
structure TdmPort where
  outG : List Gate
  inG : List Gate
  curOut : Option (List Int)
  curIn : Option (List Int)
  pend : List (Option MaskFrom)
  next : Nat
  run : Bool
  since : Nat
  last : Bool
  frame : Nat
  bad : Bool
  sdo : List (Option Int)
  tail : Option Bool
  zero : Nat
  outSeal : Nat
deriving DecidableEq, Repr

/-- The input of one frame of a port: its source values by slot, whether it fails check point 3, its number, the samples it is sealed over and the
seal. In a MASTER group on DPLL0 the frame's identity is 4 × base period + phase; in a follower group frames are numbered as the
lead's edges come. -/
structure TdmIn where
  port : Nat
  frame : Nat
  vals : List Int
  bad : Bool
  num : Nat
  codes : List Int
  crc : Nat
deriving DecidableEq, Repr

/-- A clock group besides its registers (R300, R303): consecutive valid frames, consecutive invalid ones, the number of the
lead's frame, the frames in the input slip buffer and those of the period last used, the frames (pass, phase) in the
output slip buffer and those of the period last shifted, and the frame being shifted. -/
structure TdmGroup where
  valid : Nat
  invalid : Nat
  frame : Nat
  inBuf : List Nat
  inLast : List Nat
  outBuf : List (Option (Nat × Nat))
  outLast : List (Option (Nat × Nat))
  outNow : Option (Nat × Nat)
deriving DecidableEq, Repr

/-- The destination rows 32 to 47 of a pass: the values of destinations 2048 to 3071, and the seals of the rows that hold any, by group (R242). -/
structure TdmOut where
  period : Nat
  vals : List (Nat × Int)
  crcs : List (Nat × Nat)
deriving DecidableEq, Repr

/-- The serial audio ports: ports, groups, input frames not yet used, and the destination rows by pass. -/
structure TdmState where
  ports : Vector TdmPort 32
  groups : Vector TdmGroup 4
  ins : List TdmIn
  outs : List TdmOut
deriving DecidableEq, Repr

/-- A slice in progress, or one that is to be repeated (R469 to R471): set, unit, index in its run, MODE, whether it belongs
to a commanded run, whether it is a repeat, and the cycle it started. -/
structure Slice where
  set : Nat
  unit : Nat
  index : Nat
  mode : Nat
  cmd : Bool
  rep : Bool
  start : Nat
deriving DecidableEq, Repr

/-- The rotation of a replicated set (R473): units that have passed a reference run since the last cycle ended, the cycle
count at which that was, and whether a handover to the next unit is in progress. -/
structure SetRun where
  passed : List Nat
  since : Nat
  handover : Bool
deriving DecidableEq, Repr

/-- A commanded run (R478): the request that waits for its end, target, parameters, slices ended PASS, the first slice that
was not, whether one failed, the last valid signature, whether it waits for a handover, and the banks still to be run and
the outcomes so far of an N5_MEMTEST. -/
structure CmdRun where
  channel : Nat
  tag : Nat
  opcode : Nat
  set : Nat
  unit : Nat
  mode : Nat
  ref : Bool
  passes : Nat
  first : Nat
  failed : Bool
  stopped : Bool
  lastSig : Nat
  wait : Bool
  banks : List Nat
  done : List Nat
deriving DecidableEq, Repr

/-- Temper besides its registers: the slice in progress and one to be repeated; the rotation of the sets, the set whose turn is next, whether
the schedule has begun; the commanded run; and host writes held until the slice ends, as (path, offset, word) (R480). -/
structure TestState where
  slice : Option Slice
  rep : Option Slice
  sets : Vector SetRun 3
  turn : Nat
  sched : Bool
  run : Option CmdRun
  writes : List (Nat × Nat × Nat)
deriving DecidableEq, Repr

/-- An entry of the fault ring (R500): calendar seconds, power-on minute and the first 16 bytes of the event record. -/
structure FaultEntry where
  sec : Nat
  minute : Nat
  record : List Byte
deriving DecidableEq, Repr

/-- The quarantine record of a replicated unit (R500). -/
structure Quarantine where
  set : Nat
  unit : Nat
  cause : Nat
  sec : Nat
  passed : Bool
deriving DecidableEq, Repr

/-- A stored margin sample (R499): calendar seconds and the 16 margins in ps. -/
structure MarginSample where
  sec : Nat
  margins : List Nat
deriving DecidableEq, Repr

/-- Junction temperature statistics (R498), in 0.01 °C: sum and count of the samples of the minute in progress, sum and count
of minute means, whether TJ_MAX and TJ_MIN hold a sample, and the cycle detector: its phase (false waiting for a rise),
the lowest value since the last fall and the highest since that rise. -/
structure TjState where
  sum : Int
  count : Nat
  meanSum : Int
  meanCount : Nat
  any : Bool
  risen : Bool
  low : Int
  high : Int
deriving DecidableEq, Repr

/-- A firmware slot (R513): its bytes, version, security version, level, and whether its signature holds. -/
structure FwSlot where
  bytes : List Byte
  version : Nat
  security : Nat
  level : Nat
  signed : Bool
deriving DecidableEq, Repr

/-- The unit's identity (R506): EUI-64, the four STATION_MACs, HOSTNAME, and whether it was adopted. -/
structure Identity where
  eui : Nat
  macs : Vector Nat 4
  hostname : List Byte
  adopted : Bool
deriving DecidableEq, Repr

/-- Ephemeris besides its registers: the calendar in 1/32,768 s and the correction accumulated towards the next count (R492),
the calendar seconds of the last synchronisation since the start, the fault ring and the quarantine records, the checkpoint
of the counters with its calendar and the power-on minutes since it, temperature statistics, margin samples, keys, nonce,
configuration slots, firmware slots with the preferred one, the fused security count and the
write in progress, the identity in use and the one set for the next warm reset, minutes of the SERVICE hour in progress,
whether VDD_AON is absent and whether VBAK is present, the seed of the unit key, whether an adopted identity has still to be announced (R511), the blocks
written in region 4, and whether the AON domain has lost all supply since the last start. -/
structure LifeState where
  cal : Nat
  trimAcc : Int
  lastSync : Option Nat
  ring : List FaultEntry
  quar : List Quarantine
  ckpt : List Nat
  ckptCal : Nat
  sinceCkpt : Nat
  tj : TjState
  samples : List MarginSample
  kept : List MarginSample
  sampleNo : Nat
  owner : List Byte
  unitPub : List Byte
  cert : List Byte
  keys : Vector (Nat × List Byte) 4
  nonce : List Byte
  cfg : Vector (List Byte) 2
  fw : Vector FwSlot 2
  preferred : Nat
  secCount : Nat
  fwImp : List Byte
  ident : Identity
  nextIdent : Option Identity
  serviceMin : Nat
  aonLost : Bool
  vbak : Bool
  unitSeed : List Byte
  adopting : Bool
  lifeWrites : Nat
  aonDead : Bool
deriving DecidableEq, Repr

/-- A transmit item (R405): its number, port, ring position of its first descriptor, COOKIE, whether a stamp was asked for, whether it is a
segmented send, its frames (without FCS) not yet in the HOST partition, frames still to leave, frames that have left, and the stamp
of the first of them. -/
structure TxItem where
  id : Nat
  port : Nat
  desc : Nat
  cookie : Nat
  stamp : Bool
  seg : Bool
  frames : List (List Byte)
  left : Nat
  sent : Nat
  first : Option Int
deriving DecidableEq, Repr

/-- A transmit completion waiting to be written (R405). -/
structure TxDone where
  port : Nat
  entry : List Byte
deriving DecidableEq, Repr

/-- A record block complete and not yet written to the host (R413, R414): START, its sample bytes, whether its seal is marked, and whether its
bank was lost while it lay there. -/
structure RecBlock where
  start : Nat
  bytes : List Byte
  marked : Bool
  lost : Bool
deriving DecidableEq, Repr

/-- A running record set (R414): START of the block in progress, the sample bytes written so far, whether one of its rows failed
check point 12, whether its bank was lost, blocks complete and not yet written to the host, whether the next block delivered carries GAP_BEFORE, and whether its first block has begun. -/
structure RecRun where
  set : Nat
  start : Nat
  bytes : List Byte
  bad : Bool
  lost : Bool
  full : List RecBlock
  gap : Bool
  begun : Bool
deriving DecidableEq, Repr

/-- A playback block in the deep store (R415): START, PERIODS, the words of its periods channel by channel, whether its bank was lost, the base
media time at which it was stored, and whether a stored word of it is uncorrectable (R202). -/
structure PlayBlock where
  start : Nat
  n : Nat
  vals : List (List Int)
  bad : Bool
  stored : Nat
  ue : Bool
deriving DecidableEq, Repr

/-- A running playback set: the blocks it holds, the end of the block stored last, and whether the last pass was supplied. -/
structure PlayRun where
  set : Nat
  blocks : List PlayBlock
  last : Option Nat
  fed : Bool
deriving DecidableEq, Repr

/-- Bytes the device has written to host memory, and the address of each piece of them. -/
structure HostWrite where
  purpose : Nat
  addrs : List Nat
  bytes : List Byte
deriving DecidableEq, Repr

/-- The DMA engine besides its registers: transmit items and the number of the next, completions waiting, record and playback sets, the cycle of the last
message on each vector that sent one and how many it has sent, and the last bytes written to host memory for each purpose: the
entry of ring i (i), the block of record set s (256 + s), the index of ring i (512 + i), of record set s (768 + s) or playback set s
(1024 + s), and the buffers filled for the items of ring i (2048 + i); and the address and length of the last read of each ring or set, by UNIT of
event 0x0160. -/
structure DmaState where
  items : List TxItem
  nextItem : Nat
  done : List TxDone
  rec' : List RecRun
  play : List PlayRun
  msi : List (Nat × Nat × Nat)
  wrote : List HostWrite
  asked : List (Nat × Nat × Nat)
deriving DecidableEq, Repr

/-- The CSP's mailboxes (R398): the request waiting to be pushed, the reply waiting, and MB_OVERRUN; and the bytes the last
transaction clocked out on CSP_MISO. -/
structure CspState where
  inBox : Option (List Byte)
  outBox : Option (List Byte)
  overrun : Bool
  miso : List Byte
deriving DecidableEq, Repr


/-- Power and start (chapter 16): whether the unit is dormant; the row of R535 reached on the way there; the kind of the start in progress
(0 power-on, 1 warm, 2 wake); the cycles at which the internal reset was released and row 7 began; the firmware slot of this start;
the consecutive abandoned starts of each slot; a reset that waits to act (kind 0 warm, 1 power-on; its bit of RESET_CAUSE); PORST_N and
WRST_N qualified low; the SerDes and amplifier channels that did not start, as (3 or 4, unit); the cause byte of event 0x0B08; and whether a
wake came during the entry to dormant mode; whether WRST_N holds the internal reset; and whether a moon has come to the rows it runs on START only
(R530). -/
structure BootState where
  dormant : Bool
  phase : Nat
  kind : Nat
  released : Nat
  row7 : Nat
  slot : Nat
  fails : Vector Nat 2
  arm : Option (Nat × Nat)
  porst : Bool
  wrst : Bool
  down : List (Nat × Nat)
  cfgCause : Nat
  wake : Bool
  held : Bool
  parked : Bool
deriving DecidableEq, Repr


/-- A frame sent on an orbit link (R426): TYPE, GROUP, TAG and payload without the trailing check. -/
structure OrbFrame where
  type : Nat
  group : Nat
  tag : Nat
  pay : List Byte
deriving DecidableEq, Repr

/-- A group's block in its slot (R431): link, group, base period and the 64 channel values. -/
structure OrbSlot where
  link : Nat
  group : Nat
  period : Nat
  vals : List Int
deriving DecidableEq, Repr

/-- An orbit link besides its registers: sequence numbers of the next frame of each type; departure of the last TIME frame sent;
departure, on the peer's counter, and arrival here of the last TIME frame received (2^−16 ns); the
link's last offset (2^−17 ns); the last frame sent of each type, and the CORE
cycle of the last valid frame received. -/
structure OrbLink where
  seqs : Vector Nat 9
  txTime : Option Int
  rxTime : Option (Int × Int)
  offset : Option Int
  sent : List OrbFrame
  lastRx : Nat
  drives : Bool
deriving DecidableEq, Repr

/-- A request forwarded to a moon and not yet answered (R439): number of its COMMAND frame, device, channel and tag; on a unit that
carries it out, the link it came on. -/
structure OrbFwd where
  id : Nat
  device : Nat
  channel : Nat
  tag : Nat
  link : Nat
deriving DecidableEq, Repr

/-- The orbit links: links; forwards that are not applied because another link forwards the same group to the same link
(link, group); slots; requests forwarded or being carried out for the primary; the number of the next COMMAND frame; moons that MOON_START
named and not yet started; the cycle of the last START; consecutive TIME frames within 100 ns; whether the moon's banks, lanes
and channels are held unstarted (R437); and, for each ATOMIC request from the primary, its tag, its opcode and the registers as they were before
it, as keys and values in turn (R373, R374); a moon's hops to the primary by UPA and by UPB; and whether its first valid offset has loaded the counter
(R434). -/
structure OrbState where
  links : Vector OrbLink 4
  blocked : List (Nat × Nat)
  slots : List OrbSlot
  fwd : List OrbFwd
  nextId : Nat
  starts : List Nat
  lastStart : Option Nat
  timeRun : Nat
  held : Bool
  undo : List (Nat × Nat × List Nat)
  hops : Nat × Nat
  loaded : Bool
deriving DecidableEq, Repr

/-- The pair besides its registers (R442 to R456): number of the next pulse and of the last valid one received; the pulses sent within the last lease by
(number, cycle); the cycle the lease expires; the receipt cycles of the last valid pulse, of the last one in ACTIVE, and of the last in ACTIVE
confirmed; whether the peer showed SYNCED; whether pulses are stopped;
the cycle RESYNC was entered; TIME frames within 100 ns, digests matched and mismatched in a row;
mirrored rows (source group, base period, values); digests of the last passes; the last pulse sent; and the configuration received from the peer
in a resync (R456). -/
structure PairState where
  seq : Nat
  echo : Option Nat
  sent : List (Nat × Nat)
  lease : Option Nat
  lastRx : Option Nat
  lastActive : Option Nat
  conf : Option Nat
  peerSynced : Bool
  stopped : Bool
  since : Nat
  timeRun : Nat
  matched : Nat
  differ : Nat
  rows : List (Nat × Nat × List Int)
  digests : List (Nat × Nat)
  pulse : List Byte
  config : List Byte
deriving DecidableEq, Repr


/-- The state of the block. -/
structure State where
  /-- Every register field and every entry of the indirect tables. -/
  regs : RegFile
  /-- Class-B fields whose written value waits for its boundary (R18). -/
  held : List Held
  /-- HI halves latched by reads of LO (R19), by offset of HI. -/
  latch : List (Nat × Nat)
  /-- The word the last host read returned. -/
  rd : Nat
  /-- CORE cycles since reset: the model's measure of elapsed time. -/
  cycles : Nat
  /-- The master time counter (R66), in 2^−32 ns since the epoch. -/
  ctr : Nat
  /-- Free values drawn so far. The model's own field, not the spec's. -/
  freeCtr : Nat
  /-- Rate-limited events (EVT_HOLDOFF fields). -/
  holdoff : List Holdoff
  que : QueState
  cmd : CmdState
  svc : SvcState
  time : TimeState
  clk : ClkState
  ports : Vector PortState 4
  strm : StrmState
  seals : SealState
  tdm : TdmState
  amp : AmpState
  anvil : AnvilState
  dma : DmaState
  csp : CspState
  boot : BootState
  orb : OrbState
  pair : PairState
  test : TestState
  life : LifeState
  /-- The commands waiting, first in first out. -/
  pending : List Instr
deriving DecidableEq, Repr

def Queue.empty : Queue := ⟨[], [], Option.none⟩

def PortSvc.reset : PortSvc :=
  ⟨⟨0, 0, 0, 0, 0, 0, []⟩, ⟨0, 0, 0, 0, 0, [], []⟩, [], [], 3, 2, 0⟩

/-- The instance after reset. The spec gives no reset value for priority1, priority2, DSCP, clockAccuracy, offsetScaledLogVariance
and timeSource: the defaults of IEEE 1588-2019 stand (PRESUMED, assumption 99). -/
def PtpPort.reset : PtpPort :=
  { prio1 := 128, prio2 := 128, dscp := 0, logAnnounce := 1, receiptTimeout := 3, parent := none, traced := false,
    foreign := [], syncs := [], dreqs := [], pair := none, baseline := [], suspects := 0, confirmed := false, lastOfs := 0,
    recent := false, lastAt := 0, lockRun := 0,
    dreqSec := 0, dreqCount := 0, seqSync := 0, seqDreq := 0, seqAnnounce := 0, followUp := none }

def TimeState.reset : TimeState :=
  { ports := #v[PtpPort.reset, PtpPort.reset], integral := 0, incr := 0x140000000, runLock := 0, runUnlock := 0,
    runMonitor := 0, pps := none, cls := [none, none, none, none], accuracy := 0xFE, variance := 0xFFFF,
    timeSource := 0xA0, sent := [] }

def RefState.reset : RefState := ⟨none, none, 0, 0, none, 0, 0⟩

def DpllState.reset : DpllState := ⟨0, none, 0, 0, [], true, true, 0, false, false, none, 0, 0⟩

def PortState.reset : PortState := ⟨0, [], [], [], [], [], [], 0, 0, 0, false, [], none, [], 0⟩

def ClkState.reset : ClkState :=
  ⟨Vector.replicate 8 RefState.reset, Vector.replicate 4 DpllState.reset, 1, 1, 0, Vector.replicate 5 0, 0⟩

def TdmPort.reset : TdmPort :=
  ⟨List.replicate 32 ⟨false, none⟩, List.replicate 32 ⟨false, none⟩, none, none, [none, none, none], 0, false, 0, false, 0, false, [], none, 0, 0⟩

def TdmGroup.reset : TdmGroup := ⟨0, 0, 0, [], [], [], [], none⟩

def TdmState.reset : TdmState := ⟨Vector.replicate 32 TdmPort.reset, Vector.replicate 4 TdmGroup.reset, [], []⟩

def AmpCh.reset : AmpCh :=
  ⟨0, 0, List.replicate 3 ⟨0, 0, 0, 0⟩, 0, 0, 0x100000, 0x100000, 0, 0, none, none, 0, false, false, none, [], ⟨false, 0, false, 0, 0, 0⟩, ⟨false, 0, false, 0, 0, 0⟩, none, 768, 0, 0, 0,
    false, false, none⟩

def AmpState.reset : AmpState :=
  ⟨Vector.replicate 8 AmpCh.reset, List.replicate 4 [], List.replicate 4 0x100000, []⟩

def TestState.reset : TestState := ⟨none, none, Vector.replicate 3 ⟨[], 0, false⟩, 0, false, none, []⟩

def LifeState.reset : LifeState :=
  { cal := 0, trimAcc := 0, lastSync := none, ring := [], quar := [], ckpt := [], ckptCal := 0, sinceCkpt := 0,
    tj := ⟨0, 0, 0, 0, false, false, 0, 0⟩, samples := [], kept := [], sampleNo := 0, owner := [], unitPub := [], cert := [],
    keys := Vector.replicate 4 (0, []), nonce := [], cfg := #v[[], []],
    fw := #v[⟨[0], 1, 0, 1, true⟩, ⟨[], 0, 0, 0, false⟩],
    preferred := 0, secCount := 0, fwImp := [], ident := ⟨0, #v[0, 0, 0, 0], [], false⟩, nextIdent := none, serviceMin := 0,
    aonLost := false, vbak := true, unitSeed := [], adopting := false, lifeWrites := 0, aonDead := false }

def SvcState.reset : SvcState :=
  { ports := Vector.replicate 4 PortSvc.reset, hostname := [], label := [], description := [], suffix := 0, servicePorts := 0,
    nmosMode := 0, registry := 0, registryPort := 0, regState := 0, registries := [], missed := 0, sapStreams := 0,
    sapAnnounce := 0, sapGroup := 0, sapInterval := 30, sapListen := 0, sap := [], sapSent := [], browse := [], exposed := [],
    httpOut := [], posted := [], sdpText := [] }

def BootState.reset : BootState :=
  { dormant := false, phase := 0, kind := 0, released := 0, row7 := 0, slot := 0, fails := #v[0, 0], arm := none, porst := true,
    wrst := false, down := [], cfgCause := 0, wake := false, held := false, parked := false }

def OrbLink.reset : OrbLink := ⟨Vector.replicate 9 0, none, none, none, [], 0, false⟩

def PairState.reset : PairState :=
  { seq := 0, echo := none, sent := [], lease := none, lastRx := none, lastActive := none, conf := none, peerSynced := false,
    stopped := false, since := 0, timeRun := 0, matched := 0, differ := 0, rows := [], digests := [], pulse := [], config := [] }

/-- The unit right after a power-on reset, PORST_N still low. Every register holds its reset value (the list of registers is empty); every queue is
empty; the counter is at zero with INCR nominal (R66); nothing is in flight. -/
def State.reset : State :=
  { regs := [], held := [], latch := [], rd := 0, cycles := 0, ctr := 0, freeCtr := 0, holdoff := [],
    que := ⟨Vector.replicate 11 Queue.empty, [], none, Vector.replicate 8 0, [], (0, 0), []⟩,
    cmd := ⟨[], [], [], 1, [], [], [], false⟩, svc := SvcState.reset, time := TimeState.reset, clk := ClkState.reset,
    ports := Vector.replicate 4 PortState.reset, strm := ⟨[], [], [], [], [], none⟩, seals := ⟨Vector.replicate 16 0, []⟩,
    tdm := TdmState.reset, amp := AmpState.reset, anvil := ⟨[], [], [], [], [], [], [], [], [], [], [], none, [], none⟩,
    dma := ⟨[], 0, [], [], [], [], [], []⟩, csp := ⟨none, none, false, []⟩, boot := BootState.reset,
    orb := ⟨Vector.replicate 4 OrbLink.reset, [], [], [], 0, [], none, 0, false, [], (0, 0), false⟩, pair := PairState.reset,
    test := TestState.reset, life := LifeState.reset, pending := [] }

end Sys2Proof.Machine
end

