-- ==== Sys2Proof/Machine/Ops.lean ====
section
/-! DEFINITION. The named operations over the state: register fields (R13 to R20), time (R43, R67, R68), free values, the
queues (R221 to R231), and the event records that go into queue 0 (R38 to R42). -/

namespace Sys2Proof.Machine

/-! ## Register fields -/

/-- The value a register field reads. -/
def State.get (s : State) (f : Fld) : Nat := s.regs.get f

/-- Store a value in a field, cut to its width. -/
def State.set (s : State) (f : Fld) (v : Nat) : State := { s with regs := s.regs.set f v }

/-- A field read as a two's-complement number. -/
def State.geti (s : State) (f : Fld) : Int := toSigned f.w (s.get f)

/-- Store a signed number in a field, saturating at the field's range. -/
def State.seti (s : State) (f : Fld) (i : Int) : State :=
  s.set f (ofSigned f.w (clampInt (-(2 ^ (f.w - 1) : Nat)) (((2 ^ (f.w - 1) : Nat) : Int) - 1) i))

/-- A one-bit field as a truth value. -/
def State.on (s : State) (f : Fld) : Bool := decide (s.get f ≠ 0)

/-- Store a truth value. -/
def State.setOn (s : State) (f : Fld) (b : Bool) : State := s.set f (if b then 1 else 0)

/-- Bit `i` of a field. -/
def State.bit (s : State) (f : Fld) (i : Nat) : Bool := (s.get f).testBit i

/-- Set or clear bit `i` of a field. -/
def State.setBit (s : State) (f : Fld) (i : Nat) (b : Bool) : State :=
  let v := s.get f
  s.set f (if b then v ||| 2 ^ i else if v.testBit i then v - 2 ^ i else v)

/-- A counter that wraps to zero (R20). -/
def State.countBy (s : State) (f : Fld) (n : Nat) : State := s.set f (s.get f + n)

/-- A counter that wraps, by one. -/
def State.count (s : State) (f : Fld) : State := s.countBy f 1

/-- A counter that saturates. -/
def State.countSat (s : State) (f : Fld) : State :=
  if s.get f + 1 < 2 ^ f.w then s.set f (s.get f + 1) else s.set f (2 ^ f.w - 1)

/-- The value of a class-B field in force: the value before the waiting write, while one waits (R18). -/
def State.eff (s : State) (f : Fld) : Nat :=
  match s.held.find? (fun h => h.key == f.key) with
  | some h => h.val
  | none => s.get f

def State.effi (s : State) (f : Fld) : Int := toSigned f.w (s.eff f)

def State.effOn (s : State) (f : Fld) : Bool := decide (s.eff f ≠ 0)

/-- Write a class-B field (R18): the register reads the value written, the value in force stays until the boundary. A
write that comes while an earlier one waits replaces it. -/
def State.setB (s : State) (f : Fld) (u : Upd) (v : Nat) : State :=
  if s.held.any (fun h => h.key == f.key) then
    { s.set f v with held := s.held.map (fun h => if h.key = f.key then { h with upd := u } else h) }
  else if v % 2 ^ f.w = s.get f then s
  else { s.set f v with held := s.held ++ [⟨f.key, s.get f, u⟩] }

/-- Write the LO half of a split quantity (R19): the value in force stays until HI is written. -/
def State.setLo (s : State) (f : Fld) (v : Nat) : State :=
  if s.held.any (fun h => h.key == f.key) then
    { s.set f v with held := s.held.map (fun h => if h.key = f.key then { h with upd := .none } else h) }
  else { s.set f v with held := s.held ++ [⟨f.key, s.get f, .none⟩] }

/-- HI of a split quantity is written: its LO half takes effect with it, under the class `u` of the quantity. -/
def State.joinLo (s : State) (f : Fld) (u : Upd) : State :=
  if u = .live then { s with held := s.held.filter (fun h => h.key != f.key) }
  else { s with held := s.held.map (fun h => if h.key = f.key then { h with upd := u } else h) }

/-- The boundary of class `u` comes for the fields whose key `p` accepts: their written values are in force. -/
def State.boundary (s : State) (u : Upd) (p : Nat → Bool) : State :=
  { s with held := s.held.filter (fun h => !(h.upd == u && p h.key)) }

/-- Write a field under its update class, a class-S field being accepted. -/
def State.write (s : State) (f : Fld) (u : Upd) (v : Nat) : State :=
  match u with
  | .none | .live | .static => s.set f v
  | u => s.setB f u v

/-- Keys of the words at offsets `lo ≤ off < hi`. -/
def inOffs (lo hi : Nat) (k : Nat) : Bool := decide (lo * 32 ≤ k ∧ k < hi * 32)

/-- Draw a free value of `w` bits: a value the spec leaves open (Config.free). -/
def State.fresh (s : State) (w : Nat) : Nat × State :=
  (Config.free s.freeCtr % 2 ^ w, { s with freeCtr := s.freeCtr + 1 })

/-- The `i`th element of a list of units, or the given one. -/
def nth {α : Type} (l : List α) (i : Nat) (d : α) : α := (l[i]?).getD d

/-- The `i`th of a fixed number of units; an index beyond them reads as the given one. -/
def unitAt {α : Type} {n : Nat} (l : Vector α n) (i : Nat) (d : α) : α := (l[i]?).getD d

/-! ## Time -/

/-- CORE cycles in a microsecond (R26). -/
def cyclesPerUs : Nat := 800

/-- Units of the master time counter in a second: 10^9 × 2^32. -/
def ctrPerSec : Nat := 4294967296000000000

/-- Whole nanoseconds of the master time counter. -/
def State.nowNs (s : State) : Nat := s.ctr / 2 ^ 32

/-- The counter in 2^−16 ns, the resolution of stamps (R58). -/
def State.now16 (s : State) : Int := ((s.ctr / 2 ^ 16 : Nat) : Int)

/-- Short time (R68). -/
def State.shortTime (s : State) : Nat := s.nowNs % 2 ^ 32

/-- MEDIA48 (R69): floor of master time × 48,000. -/
def State.media48 (s : State) : Nat := s.ctr * 48000 / ctrPerSec % 2 ^ 64

/-- MEDIA44 (R69). -/
def State.media44 (s : State) : Nat := s.ctr * 44100 / ctrPerSec % 2 ^ 64

/-- The base rate of the active family, that of DPLL0 (R8, R24). -/
def State.base (s : State) : Nat := if s.get (CLK.DPLL_FAMILY 0) = 0 then 48000 else 44100

/-- Media time of the active family. -/
def State.media (s : State) : Nat := if s.get (CLK.DPLL_FAMILY 0) = 0 then s.media48 else s.media44

/-! ## Bytes -/

/-- `v` in `n` bytes, least significant first. -/
def le (n v : Nat) : List Byte := (List.range n).map (fun i => BitVec.ofNat 8 (v >>> (8 * i)))

/-- `v` in `n` bytes, most significant first (network order). -/
def be (n v : Nat) : List Byte := (le n v).reverse

/-- Bytes read as a little-endian number. -/
def ofLe : List Byte → Nat
  | [] => 0
  | b :: t => b.toNat + 256 * ofLe t

/-- Bytes read as a big-endian number. -/
def ofBe (l : List Byte) : Nat := ofLe l.reverse

/-- Bytes `i` to `i + n − 1` as a little-endian number. -/
def leAt (l : List Byte) (i n : Nat) : Nat := ofLe ((l.drop i).take n)

/-- Bytes `i` to `i + n − 1` as a big-endian number. -/
def beAt (l : List Byte) (i n : Nat) : Nat := ofBe ((l.drop i).take n)

/-- A list cut or zero-filled to `n` bytes. -/
def padTo (n : Nat) (l : List Byte) : List Byte := (l ++ List.replicate n 0#8).take n

/-- Reverse the order of the `n` bytes of a number: from a TLV's little-endian reading to network order (R356). -/
def swapBytes (n v : Nat) : Nat := ofBe (le n v)

/-- Two's-complement bytes of a signed number. -/
def leI (n : Nat) (i : Int) : List Byte := le n (ofSigned (8 * n) i)

/-! ## Interrupt messages (R416) -/

/-- A message on vector v is held back: masked, or within VEC_MOD of the last one. -/
def State.msiHeld (s : State) (v : Nat) : Bool :=
  s.on (MSIX.MASK v) || (match s.dma.msi.find? (fun x => x.1 == v) with
    | some x => decide (s.cycles < x.2.1 + s.get (DMA.MOD_US v) * cyclesPerUs)
    | none => false)

/-- The message of vector v leaves: its pending bit clears and its interval begins. -/
def State.msiSend (s : State) (v : Nat) : State :=
  let n := match s.dma.msi.find? (fun x => x.1 == v) with
    | some x => x.2.2
    | none => 0
  let s := s.setBit (MSIX.PENDING (v / 32)) (v % 32) false
  { s with dma := { s.dma with msi := s.dma.msi.filter (fun x => x.1 != v) ++ [(v, s.cycles, n + 1)] } }

/-- Interrupt source `src` fires (R416): nothing is sent while the host is lost, and a message held back sets the pending bit. -/
def State.fire (s : State) (src : Nat) : State :=
  let v := s.get (DMA.SRC_VEC src)
  if s.on DMA.STATUS_HOST_LOST || !s.on (DMA.SRC_EN src) then s
  else if s.msiHeld v then s.setBit (MSIX.PENDING (v / 32)) (v % 32) true
  else s.msiSend v

/-! ## Queues -/

/-- An item's entries (R221): its first, and ceil(length ÷ 16) more. -/
def itemEntries (it : QItem) : List QEntry :=
  ⟨.head it, false⟩ :: List.replicate ((it.body.length + 15) / 16) ⟨.cont, false⟩

def QEntry.isGap (e : QEntry) : Bool :=
  match e.cell with
  | .gap _ _ => true
  | _ => false

/-- Data entries held: every entry but the gap marker. -/
def Queue.data (q : Queue) : Nat := q.popped.length + (q.ready.filter (fun e => !e.isGap)).length

/-- OCC (R222): WR − REL, a queued gap marker counted. -/
def Queue.occ (q : Queue) : Nat := q.popped.length + q.ready.length

/-- DEPTH: WR − RD. -/
def Queue.depth (q : Queue) : Nat := q.ready.length

def Queue.hasGap (q : Queue) : Bool := q.ready.any QEntry.isGap

/-- Count a drop in the queued marker, or place one after the last entry accepted (R225). -/
def Queue.markDrop (q : Queue) (t : Nat) : Queue :=
  if q.hasGap then
    { q with ready := q.ready.map (fun e => match e.cell with
        | .gap c f => { e with cell := .gap (if c + 1 < 2 ^ 32 then c + 1 else 2 ^ 32 - 1) f }
        | _ => e) }
  else { q with ready := q.ready ++ [⟨.gap 1 t, false⟩] }

def State.queue (s : State) (i : Nat) : Queue := unitAt s.que.queues i Queue.empty

def State.setQueue (s : State) (i : Nat) (q : Queue) : State :=
  { s with que := { s.que with queues := s.que.queues.setIfInBounds i q } }

/-- CAP in force (R227, R237): 0 stands for 32,768; values outside 32 to 32,768 act as the nearer limit. -/
def capEff (c : Nat) : Nat := if c = 0 then 32768 else clampNat 32 32768 c

/-- Index in the cluster, the DEVICE of the unit's events (R39); 0 when standalone. -/
def State.ownIndex (s : State) : Nat := s.get ORB.STATUS_OWN_INDEX

/-- An event record (R38 to R40). -/
def State.eventRec (s : State) (code block unit : Nat) (detail : List Byte) : QItem :=
  ⟨le 4 s.shortTime ++ le 2 (code + 4096 * s.ownIndex) ++ le 2 (block * 2048 + unit) ++ padTo 8 detail, []⟩

/-- The unit is strapped as a moon (R422). -/
def State.isMoon (s : State) : Bool := s.on ORB.STATUS_ROLE_STRAP

/-- Row 9 of the start has completed (R524); a moon runs rows 5 and 6 after it (R530). -/
def State.row9Done (s : State) : Bool :=
  let n := s.get SYS.STATUS_STEP
  !s.on SYS.STATUS_RECOVERY && (decide (10 ≤ n) || (s.isMoon && (s.boot.parked || n == 5 || n == 6)))

/-- PAIR_ACT is high, so that the unit may drive its outputs (R450): DRIVE is set, and row 9 of the start has completed (R542). -/
def State.mayDrive (s : State) : Bool := s.on PAIR.STATUS_DRIVE && s.row9Done

/-- Pin BLWb under R231: held deasserted while EN is 0 or the unit may not drive; otherwise it follows LIVE once its level
has lasted 8 CORE cycles. -/
def State.bellowsPin (s : State) (b : Nat) : State :=
  let pin := s.on (QUE.BLW_PIN b)
  let want := s.on (QUE.BLW_LIVE b) && s.on (QUE.BLW_EN b) && s.mayDrive
  let forced := !(s.on (QUE.BLW_EN b) && s.mayDrive)
  if pin = want then s
  else if forced || decide (8 ≤ s.cycles - unitAt s.que.pinSince b 0) then
    let s := (s.setOn (QUE.BLW_PIN b) want).setBit QUE.BLW_STATE_PIN b want
    { s with que := { s.que with pinSince := s.que.pinSince.setIfInBounds b s.cycles } }
  else s

/-- LIVE of unit b after OCC of its queue has changed (R230, R231), and the event of a rise. -/
def State.bellows (s : State) (b : Nat) : State × List QItem :=
  if s.on (QUE.BLW_EN b) then
    let q := s.get (QUE.BLW_QUEUE b)
    let occ := (s.queue q).occ
    let hi := s.get (QUE.BLW_HI b)
    let lo := if s.get (QUE.BLW_LO b) < hi then s.get (QUE.BLW_LO b) else hi - 1
    let live := s.on (QUE.BLW_LIVE b)
    let live' := if hi < occ then true else if occ ≤ lo then false else live
    let s := (s.setOn (QUE.BLW_LIVE b) live').setBit QUE.BLW_STATE_LIVE b live'
    if live' && !live then
      let s := s.count (QUE.BLW_XCNT b)
      let s := s.setBit QUE.BLW_X b true
      let s := s.setBit QUE.INT QUE.INT_BELLOWS_HIGH true
      let ev := if s.bit QUE.INT_EN QUE.INT_BELLOWS_HIGH then
        [s.eventRec 0x0113 10 b (le 4 q ++ le 4 (s.get (QUE.BLW_XCNT b)))] else []
      (s.bellowsPin b, ev)
    else (s.bellowsPin b, [])
  else
    let s := (s.setOn (QUE.BLW_LIVE b) false).setBit QUE.BLW_STATE_LIVE b false
    (s.bellowsPin b, [])

/-- The enabled unit bound to queue i, if one is (R230). -/
def State.bellowsOf (s : State) (i : Nat) : Option Nat :=
  (List.range 8).find? (fun b => s.on (QUE.BLW_EN b) && s.get (QUE.BLW_QUEUE b) == i)

/-- Entries of a queue that lie in the spill region: behind the 16 head registers and before the 16 tail registers (R226). -/
def Queue.loseSpill (q : Queue) : Queue :=
  let n := q.ready.length
  { q with ready := q.ready.take 16 ++ ((q.ready.drop 16).take (n - 32)).map (fun e => { e with lost := !e.isGap }) ++
      (q.ready.drop 16).drop (n - 32) }

/-- Logical bank j is absent (R218). -/
def State.absent (s : State) (j : Nat) : Bool := s.bit QUE.STATUS_ABSENT_MAP j

/-- What queue i has seen in the present CORE cycle: of a new cycle, nothing yet. -/
def State.queueCycle (s : State) (i : Nat) : QCycle :=
  match s.que.now.find? (fun c => c.queue == i && c.cycle == s.cycles) with
  | some c => c
  | none => ⟨i, s.cycles, (s.queue i).occ, false, 0, none⟩

/-- Note what queue i has seen in the present cycle. -/
def State.noteCycle (s : State) (c : QCycle) : State :=
  { s with que := { s.que with now := s.que.now.filter (fun x => x.queue != c.queue) ++ [c] } }

/-- Put queue i into the given state: its status registers, the level crossing of R229 and its Bellows unit. OCC is compared with its value at the start
of the CORE cycle, and a cycle has at most one crossing. While the bank of the spill region is absent, what is spilled is lost (R218, R228). The events
that this raises are answered, not yet pushed. -/
def State.putQueue (s : State) (i : Nat) (q : Queue) : State × List QItem :=
  let q := if s.absent 7 then q.loseSpill else q
  let c := s.queueCycle i
  let occ0 := c.occ
  let occ := q.occ
  let s := s.setQueue i q
  let s := ((s.set (QUE.Q_OCC i) occ).set (QUE.Q_DEPTH i) q.depth).setOn (QUE.Q_MARK_HELD i) q.mark.isSome
  let s := s.setOn (QUE.Q_MARKER_QUEUED i) q.hasGap
  let s := if s.get (QUE.Q_PEAK_OCC i) < occ then s.set (QUE.Q_PEAK_OCC i) occ else s
  let level := s.get (QUE.Q_LEVEL i)
  let s := (s.setOn (QUE.Q_ABOVE i) (decide (level < occ))).setBit QUE.LVL_ABOVE i (decide (level < occ))
  let cross := decide (occ0 ≤ level ∧ level < occ) && !c.crossed
  let s := s.noteCycle { c with crossed := c.crossed || cross }
  let rise := cross && !(s.bit QUE.LVL_X i)
  let s := if cross then (s.setBit QUE.LVL_X i true).count (QUE.Q_LVL_XCNT i) else s
  let s := if rise then s.setBit QUE.INT QUE.INT_QUEUE_LEVEL true else s
  let s := if rise && i == 0 then s.fire 25 else s
  let ev := if rise && decide (i ≠ 0) && s.bit QUE.LVL_EN i && s.bit QUE.INT_EN QUE.INT_QUEUE_LEVEL then
      [s.eventRec 0x0112 10 i (le 4 occ ++ le 4 (s.get (QUE.Q_LVL_XCNT i)))] else []
  match s.bellowsOf i with
  | some b => let (s, ev') := s.bellows b; (s, ev ++ ev')
  | none => (s, ev)

/-- CAP of queue i in force. A moon that waits for START holds entries in head and tail registers only, 31 of them (R530). -/
def State.capOf (s : State) (i : Nat) : Nat :=
  let c := capEff (s.get (QUE.Q_CAP i))
  if s.boot.parked then min c 32 else c

/-- Room for an item of e entries: the data entries held plus e do not exceed CAP − 1 (R223). -/
def State.hasRoom (s : State) (i e : Nat) : Bool :=
  s.on (QUE.Q_EN i) && decide ((s.queue i).data + e ≤ s.capOf i - 1)

/-- A producer pushes an item into queue i (R223, R225, R227). -/
def State.pushItem (s : State) (i : Nat) (it : QItem) : State × List QItem :=
  let q := s.queue i
  if !(s.on (QUE.Q_EN i)) then (s.count (QUE.Q_DROP_CNT i), [])
  else if s.hasRoom i (itemEntries it).length then s.putQueue i { q with ready := q.ready ++ itemEntries it }
  else
    let s := s.count (QUE.Q_DROP_CNT i)
    let s := if q.hasGap then s else s.count (QUE.Q_MARKERS i)
    s.putQueue i (q.markDrop s.shortTime)

/-- SOURCE of an event record: BLOCK above UNIT (R40). -/
def recSource (it : QItem) : Nat := leAt it.hdr 6 2

/-- A record goes before the entries of its own cycle that have a higher BLOCK, or the same BLOCK and a higher UNIT, and behind every other (R41). -/
def placeRecord (it : QItem) : List QEntry → List QEntry
  | [] => [⟨.head it, false⟩]
  | e :: t => match e.cell with
    | .head x => if recSource it < recSource x then ⟨.head it, false⟩ :: e :: t else e :: placeRecord it t
    | _ => e :: placeRecord it t

/-- A record without a body enters the EVENT queue among the records of the same CORE cycle (R41); where it finds no room it is dropped (R42). -/
def State.enterRecord (s : State) (it : QItem) : State × List QItem :=
  let n := if s.que.raised.1 = s.cycles then s.que.raised.2 else 0
  let q := s.queue 0
  if it.body = [] ∧ !q.hasGap ∧ s.hasRoom 0 1 then
    let k := q.ready.length - n
    let s : State := { s with que := { s.que with raised := (s.cycles, n + 1) } }
    s.putQueue 0 { q with ready := q.ready.take k ++ placeRecord it (q.ready.drop k) }
  else s.pushItem 0 it

/-- A record enters the EVENT queue; a Bellows unit bound to that queue may add its own record behind it. -/
def State.raiseItem (s : State) (it : QItem) : State :=
  let (s, ev) := s.enterRecord it
  ev.foldl (fun s e => (s.enterRecord e).1) s

/-- Raise an event: CODE, block code, unit and DETAIL bytes from byte 8. -/
def State.raise (s : State) (code block unit : Nat) (detail : List Byte) : State :=
  s.raiseItem (s.eventRec code block unit detail)

/-- Push an item and raise what the push raises. -/
def State.push (s : State) (i : Nat) (it : QItem) : State :=
  let (s, ev) := s.pushItem i it
  ev.foldl State.raiseItem s

/-- Put queue i and raise what that raises. -/
def State.updQueue (s : State) (i : Nat) (q : Queue) : State :=
  let (s, ev) := s.putQueue i q
  ev.foldl State.raiseItem s

/-! ## Rate-limited events -/

/-- True when `window` cycles have passed since the last event of this code and unit, or none was raised. -/
def State.holdoffClear (s : State) (code unit window : Nat) : Bool :=
  match s.holdoff.find? (fun h => h.code == code && h.unit == unit) with
  | some h => decide (h.last + window ≤ s.cycles)
  | none => true

/-- Note an event of this code and unit at the present cycle. -/
def State.holdoffMark (s : State) (code unit : Nat) : State :=
  { s with holdoff := s.holdoff.filter (fun h => !(h.code == code && h.unit == unit)) ++ [⟨code, unit, s.cycles, 0⟩] }

/-- Count an occurrence without an event. -/
def State.holdoffMiss (s : State) (code unit : Nat) : State :=
  { s with holdoff := s.holdoff.map (fun h => if h.code == code && h.unit == unit then { h with missed := h.missed + 1 } else h) }

/-- Occurrences without an event since the last one. -/
def State.missed (s : State) (code unit : Nat) : Nat :=
  match s.holdoff.find? (fun h => h.code == code && h.unit == unit) with
  | some h => h.missed
  | none => 0

/-! ## Refused writes -/

/-- SYS.CFG_REJECT (R17): the register offset, the short time and the path of a refused write; event 0x0144 at most once
in 100 ms (R537). -/
def State.cfgReject (s : State) (source off : Nat) : State :=
  let s := ((s.set SYS.REJ_VALID 1).set SYS.REJ_SOURCE source).set SYS.REJ_OFFSET off
  let s := (s.set SYS.CFG_REJECT_TIME s.shortTime).count SYS.CFG_REJECT_CNT
  let s := s.setBit SYS.INT SYS.INT_CFG_REJECT true
  if s.bit SYS.INT_EN SYS.INT_CFG_REJECT && s.holdoffClear 0x0144 0 (100000 * cyclesPerUs) then
    (s.holdoffMark 0x0144 0).raise 0x0144 0 0 (le 4 off ++ [BitVec.ofNat 8 source])
  else s

end Sys2Proof.Machine
end

