-- ==== Sys2Proof/Machine/Flags.lean ====
section
/-! DEFINITION. Interrupt flags and the events they raise. Every block has INT (write 1 to clear) and INT_EN of one layout.
A flag sets whatever INT_EN holds; the event is raised at each occurrence while the enable bit is 1, whether or not the
flag was already set, unless the chapter says otherwise. -/

namespace Sys2Proof.Machine

/-- Set flag `bit` of INT, and raise the event if INT_EN allows it. -/
def State.signal (s : State) (int en : Fld) (bit code block unit : Nat) (detail : List Byte) : State :=
  let s := s.setBit int bit true
  if s.bit en bit then s.raise code block unit detail else s

/-- As `signal`, with at most one event per unit in `window` cycles (EVT_HOLDOFF). -/
def State.signalHeld (s : State) (int en : Fld) (bit code block unit window : Nat) (detail : List Byte) : State :=
  let s := s.setBit int bit true
  if s.bit en bit then
    if s.holdoffClear code unit window then (s.holdoffMark code unit).raise code block unit detail
    else s.holdoffMiss code unit
  else s

/-- As `signal`, raising the event only when the flag was 0. -/
def State.signalRise (s : State) (int en : Fld) (bit code block unit : Nat) (detail : List Byte) : State :=
  if s.bit int bit then s
  else s.signal int en bit code block unit detail

/-- As `signalHeld`, raising the event only when the flag was 0. -/
def State.signalRiseHeld (s : State) (int en : Fld) (bit code block unit window : Nat) (detail : List Byte) : State :=
  if s.bit int bit then s
  else s.signalHeld int en bit code block unit window detail

/-- An event with no flag. -/
def State.signalPlain (s : State) (code block unit : Nat) (detail : List Byte) : State :=
  s.raise code block unit detail

end Sys2Proof.Machine
end

