-- ==== Sys2Proof/Machine/Opcodes.lean ====
section
/-! DEFINITION. The opcode map with its privileges (R364, R376), and the rules that bar a request wherever it comes from: the privilege of its channel
(R364), RETIRED (R503), recovery (R529), the way to dormant mode (R535), a moon in the cluster (R424) and a standby (R444). -/

namespace Sys2Proof.Machine

/-- Every opcode of the map with the least privilege that may use it: 0 MONITOR, 1 CONTROL, 2 OWNER. N5_MEMTEST takes that of
TEST_RUN, which it is carried out as (DEDUCED, assumption 29). -/
def opcodes : List (Nat × Nat) := List.flatten [
  [(0x0101, 0), (0x0102, 0), (0x0103, 0), (0x0104, 1), (0x0105, 0), (0x0106, 0), (0x0120, 0), (0x0121, 2), (0x0122, 2),
   (0x0123, 1), (0x0124, 0), (0x0125, 1), (0x0126, 0), (0x0130, 0), (0x0131, 1), (0x0132, 2)],
  [(0x0140, 1), (0x0141, 0), (0x0142, 1), (0x0143, 0), (0x0201, 0), (0x0202, 1), (0x0203, 1), (0x0204, 1), (0x0205, 1),
   (0x0206, 1), (0x0207, 1), (0x0208, 0), (0x0209, 1), (0x0301, 0), (0x0302, 1), (0x0303, 1)],
  [(0x0304, 1), (0x0305, 1), (0x0306, 1), (0x0307, 1), (0x0308, 1), (0x0309, 1), (0x0401, 1), (0x0402, 0), (0x0403, 1),
   (0x0404, 1), (0x0405, 0), (0x0406, 1), (0x0410, 2), (0x0411, 0), (0x0412, 1), (0x0413, 1)],
  [(0x0414, 0), (0x0415, 0), (0x0501, 1), (0x0502, 1), (0x0503, 1), (0x0504, 0), (0x0505, 0), (0x0506, 0), (0x0507, 2),
   (0x0508, 2), (0x0509, 1), (0x050A, 0), (0x0601, 1), (0x0602, 1), (0x0603, 1), (0x0604, 1)],
  [(0x0605, 1), (0x0606, 0), (0x0607, 1), (0x0608, 1), (0x0609, 1), (0x060A, 0), (0x060B, 2), (0x060C, 2), (0x0701, 1),
   (0x0702, 1), (0x0703, 1), (0x0704, 1), (0x0705, 1), (0x0706, 0), (0x0801, 1), (0x0802, 1)],
  [(0x0803, 1), (0x0804, 1), (0x0805, 1), (0x0806, 1), (0x0807, 1), (0x0808, 1), (0x0809, 0), (0x0901, 0), (0x0902, 1),
   (0x0903, 1), (0x0904, 1), (0x0910, 1), (0x0911, 1), (0x0912, 1), (0x0913, 0), (0x0914, 1)],
  [(0x0A01, 0), (0x0A02, 2), (0x0A03, 2), (0x0A04, 2), (0x0A05, 0), (0x0B01, 0), (0x0B02, 0), (0x0B03, 0), (0x0B04, 2),
   (0x0B05, 0), (0x0B06, 2), (0x0B07, 2), (0x0B08, 2), (0x0B09, 2), (0x0B0A, 2), (0x0B0B, 2)],
  [(0x0B0C, 2), (0x0B0D, 2), (0x0B0E, 2), (0x0B0F, 2), (0x0B10, 2), (0x0B11, 2), (0x0C01, 1), (0x0C02, 0), (0x0C03, 1),
   (0x0C04, 1), (0x0C05, 0), (0x0C06, 0), (0x0C07, 0), (0x0C08, 0), (0x0C09, 1), (0x1001, 1)],
  [(0x1002, 1), (0x1003, 1), (0x1004, 1), (0x1010, 1), (0x1011, 1), (0x1020, 1), (0x1030, 1), (0x1040, 1), (0x1050, 2)]]

/-- The privilege an opcode needs; none where it is not defined. -/
def opPriv (op : Nat) : Option Nat := (opcodes.find? (fun x => x.1 == op)).map Prod.snd

/-- Opcodes that are themselves split (R371): ALL is refused on them (R374). -/
def splitOps : List Nat := [0x0503, 0x0704, 0x0705, 0x0804, 0x0805, 0x0806, 0x0807, 0x0903, 0x0C03]

/-- The direct opcodes (R370). -/
def isDirectOp (op : Nat) : Bool := decide (0x0601 ≤ op ∧ op ≤ 0x0603)

/-- An NC512 opcode (R388). -/
def isN5 (op : Nat) : Bool := decide (0x1000 ≤ op ∧ op ≤ 0x1FFF)

/-- An opcode permitted to MONITOR: NOP and every opcode whose name ends in _GET (R364). -/
def isGet (op : Nat) : Bool := opPriv op == some 0

/-- The channel on which the model carries out what a driving peer mirrors (R454); the spec gives it to no transport. -/
def mirrorChan : Nat := 50

/-- The privilege of a channel (R364). -/
def State.chanPriv (s : State) (ch : Nat) : Nat :=
  if ch ≤ 16 ∨ ch = 49 ∨ ch = mirrorChan then 2
  else match s.cmd.sessions.find? (fun x => x.chan == ch) with
    | some x => x.priv
    | none => if ch = 48 then 1 else 0

/-- Opcodes that the ROM loader serves in recovery (R529). -/
def recoveryOps : List Nat := [0x0101, 0x0102, 0x0141, 0x0B0F, 0x0B10, 0x0140]

/-- A channel of the unit's own transports. -/
def ownChan (ch : Nat) : Bool := decide (ch ≤ 16) || decide (32 ≤ ch ∧ ch ≤ 48)

/-- The unit is a moon in the cluster. -/
def State.inCluster (s : State) : Bool := s.isMoon && s.on ORB.STATUS_JOIN_STATE

/-- The unit is in RESYNC or STANDBY. -/
def State.standsBy (s : State) : Bool := s.get PAIR.STATUS_ROLE == 4 || s.get PAIR.STATUS_ROLE == 5

/-- The status a request is refused with before its parameters are looked at: none where nothing bars it. -/
def State.barred (s : State) (op : Nat) (r : Req) : Option Nat :=
  if s.chanPriv r.channel < (opPriv op).getD 3 then some 0x0040
  else if s.get LIFE.STATUS_LC_STATE = 5 ∧ !isGet op ∧ r.channel ≠ mirrorChan then some 0x0021
  else if s.on SYS.STATUS_RECOVERY ∧ !(recoveryOps.contains op && decide (r.channel ≤ 16)) then some 0x0021
  else if 1 ≤ s.boot.phase then some 0x0021
  else if s.inCluster ∧ ownChan r.channel ∧ !isGet op then some 0x0021
  else if s.standsBy ∧ ownChan r.channel ∧ !(isGet op || op == 0x0913 || op == 0x0914) then some 0x0021
  else if s.isMoon ∧ op = 0x0202 then some 0x0021
  else none

end Sys2Proof.Machine
end

