-- ==== Sys2Proof/Machine/Operands.lean ====
section
/-! DEFINITION. The operand forms of a Suosh command: parameter TLVs and their checks (R355, R356, R365 check 8), the writing
of register fields by a command under their update classes, and the reply a command leaves (R353, R358, R372, R375). -/

namespace Sys2Proof.Machine

/-! ## Status codes (R375) -/

def Status.ok : Nat := 0x0000
def Status.partial' : Nat := 0x0001
def Status.partialUndone : Nat := 0x0002
def Status.badOpcode : Nat := 0x0010
def Status.badParam : Nat := 0x0011
def Status.badLength : Nat := 0x0012
def Status.busyTest : Nat := 0x0020
def Status.notInState : Nat := 0x0021
def Status.noResource : Nat := 0x0030
def Status.authFail : Nat := 0x0040
def Status.timeout : Nat := 0x0050
def Status.unreachable : Nat := 0x0060
def Status.internal : Nat := 0x00F0

/-! ## Parameters -/

/-- One parameter type of a command: TYPE, length in bytes, least and greatest value, whether it must be present,
whether it may repeat, for a signed field its width in bits (0 for any other), and a second length the value may have
(an address: 4 or 16 bytes). -/
structure PSpec where
  ty : Nat
  len : Nat
  lo : Nat
  hi : Nat
  req : Bool
  rep : Bool
  sgn : Nat
  alt : Nat
deriving DecidableEq, Repr

/-- A parameter that must be present. -/
def preq (ty len lo hi : Nat) : PSpec := ⟨ty, len, lo, hi, true, false, 0, len⟩
/-- A parameter that may be left out. -/
def popt (ty len lo hi : Nat) : PSpec := ⟨ty, len, lo, hi, false, false, 0, len⟩
/-- A parameter that may repeat. -/
def prep (ty len lo hi : Nat) : PSpec := ⟨ty, len, lo, hi, false, true, 0, len⟩
/-- A flag: LEN = 0, presence means 1. -/
def pflag (ty : Nat) : PSpec := ⟨ty, 0, 0, 0, false, false, 0, 0⟩

/-- A signed field of `w` bits that may be left out: its value arrives sign-extended to its bytes. -/
def psig (ty len w : Nat) : PSpec := ⟨ty, len, 0, 2 ^ (8 * len) - 1, false, false, w, len⟩

/-- An IP address that may be left out: 4 or 16 bytes in network order. -/
def pip (ty : Nat) : PSpec := ⟨ty, 4, 0, 2 ^ 128 - 1, false, false, 0, 16⟩

/-- The smallest of 1, 2, 4 or 8 bytes that holds a field of `w` bits (R356). -/
def fieldLen (w : Nat) : Nat := if w ≤ 8 then 1 else if w ≤ 16 then 2 else if w ≤ 32 then 4 else 8

/-- A signed field of `w` bits arrives sign-extended to its bytes: its code in `w` bits, or none if it does not fit. -/
def signedCode (w len val : Nat) : Option Nat :=
  let i := toSigned (8 * len) val
  if -(2 ^ (w - 1) : Nat) ≤ i ∧ i < (2 ^ (w - 1) : Nat) then some (ofSigned w i) else none

/-- A universal TLV (R357): WAIT_MS or NO_WAIT, of the length it should have and in range. -/
def universalOk (t : Tlv) : Bool :=
  (t.ty == 0xF001 && t.len == 4 && decide (1 ≤ t.val ∧ t.val ≤ 60000)) || (t.ty == 0xF002 && t.len == 0)

/-- One TLV against a command's parameter list. -/
def tlvOk (sch : List PSpec) (t : Tlv) : Bool :=
  universalOk t ||
  match sch.find? (fun p => p.ty == t.ty) with
  | some p => (p.len == t.len || p.alt == t.len) && decide (p.lo ≤ t.val ∧ t.val ≤ p.hi) &&
      (p.sgn == 0 || (signedCode p.sgn p.len t.val).isSome)
  | none => false

/-- A TLV of a type that may not repeat, seen before in the same parameters. -/
def tlvRepeats (sch : List PSpec) (before : List Tlv) (t : Tlv) : Bool :=
  before.any (fun u => u.ty == t.ty) && !(sch.any (fun p => p.ty == t.ty && p.rep))

/-- Bytes a TLV takes, padding included (R355). -/
def Tlv.size (t : Tlv) : Nat := 4 + (t.len + 3) / 4 * 4

/-- The first TLV that fails check 8: its type and its byte offset. -/
def firstBad (sch : List PSpec) : List Tlv → List Tlv → Nat → Option (Nat × Nat)
  | _, [], _ => none
  | before, t :: rest, off =>
    if tlvOk sch t && !(tlvRepeats sch before t) then firstBad sch (before ++ [t]) rest (off + Tlv.size t)
    else some (t.ty, off)

/-- The parameters a command was given. -/
abbrev Params := List Tlv

/-- The value of the parameter of type `ty`, if present. -/
def Params.val? (p : Params) (ty : Nat) : Option Nat := (p.find? (fun t => t.ty == ty)).map Tlv.val

/-- The value, or 0. -/
def Params.val (p : Params) (ty : Nat) : Nat := (Params.val? p ty).getD 0

def Params.has (p : Params) (ty : Nat) : Bool := p.any (fun t => t.ty == ty)

/-- Every value of a repeating parameter, in order. -/
def Params.all (p : Params) (ty : Nat) : List Nat := (p.filter (fun t => t.ty == ty)).map Tlv.val

/-- Byte offset of the first TLV of a type, 0 if there is none. -/
def Params.offset : Params → Nat → Nat → Nat
  | [], _, _ => 0
  | t :: rest, ty, off => if t.ty = ty then off else Params.offset rest ty (off + Tlv.size t)

/-! ## Replies -/

def Reply.ok (payload : List Byte) : Reply := ⟨0, 1, 0, 0, 0, [], payload⟩

/-- A reply with a status other than OK and no TLV named. -/
def Reply.err (status : Nat) : Reply := ⟨status, 0, 0, 0, 0, [], []⟩

/-- A failure that names the TLV of type `ty`. -/
def Reply.errAt (status : Nat) (p : Params) (ty : Nat) : Reply :=
  if Params.has p ty then ⟨status, 0, ty, Params.offset p ty 0, 0, [], []⟩ else Reply.err status

/-- Record a request's outcome; REQUEST_COMPLETE sends it. -/
def State.finish (s : State) (r : Req) (opcode : Nat) (rep : Reply) : State :=
  { s with cmd := { s.cmd with results := s.cmd.results ++ [⟨r.channel, r.tag, opcode, rep⟩] } }

/-- Check 8 of R365 on a command's parameters: none where they pass, otherwise the reply that refuses them. -/
def checkParams (sch : List PSpec) (p : Params) : Option Reply :=
  match firstBad sch [] p 0 with
  | some (ty, off) => some ⟨Status.badParam, 0, ty, off, 0, [], []⟩
  | none => if sch.all (fun q => !q.req || Params.has p q.ty) then none else some (Reply.err Status.badParam)

/-- The reply that refuses a request: what bars it, or check 8. -/
def State.refuses (s : State) (r : Req) (op : Nat) (sch : List PSpec) (p : Params) : Option Reply :=
  match s.barred op r with
  | some st => some (Reply.err st)
  | none => checkParams sch p

/-- Carry out a command: check 8, then the command's own body, then the record of its outcome. -/
def runCmd (opcode : Nat) (sch : List PSpec) (body : Params → State → Reply × State) (r : Req) (p : Params) (s : State) :
    Host.Outcome State Fault Refusal :=
  match s.refuses r opcode sch p with
  | some e => .next (s.finish r opcode e)
  | none => let (rep, s') := body p s; .next (s'.finish r opcode rep)

/-- A body that only reads. -/
def getBody (payload : Params → State → List Byte) : Params → State → Reply × State :=
  fun p s => (Reply.ok (payload p s), s)

/-! ## Writing fields by a command -/

/-- A field a command's parameter writes: TYPE, field, update class, and whether the field is signed. -/
structure PFld where
  ty : Nat
  fld : Fld
  upd : Upd
deriving DecidableEq, Repr

/-- A class-S field that the parameters would change (R18). -/
def changesStatic (s : State) (p : Params) (fs : List PFld) : Option Nat :=
  (fs.find? (fun f => f.upd == .static && match Params.val? p f.ty with
    | some v => v % 2 ^ f.fld.w != s.get f.fld
    | none => false)).map PFld.ty

/-- Write every field whose parameter is present, in order. -/
def writeFlds (s : State) (p : Params) (fs : List PFld) : State :=
  fs.foldl (fun s f => match Params.val? p f.ty with
    | some v => s.write f.fld f.upd v
    | none => s) s

/-- Write the named fields, or refuse with NOT_IN_STATE where the block is not idle and a class-S field would change. -/
def setFlds (idle : Bool) (fs : List PFld) (p : Params) (s : State) : Reply × State :=
  match (if idle then none else changesStatic s p fs) with
  | some ty => (Reply.errAt Status.notInState p ty, s)
  | none => (Reply.ok [], writeFlds s p fs)

/-! ## Split commands (R371 to R373) -/

/-- The outcome of one part: its status, and the state after it. -/
abbrev PartRun := Nat → State → Nat × State

/-- Try every part in order, and gather the status of each. -/
def runParts (f : PartRun) : List Nat → State → List Nat × State
  | [], s => ([], s)
  | i :: rest, s =>
    let (st, s) := f i s
    let (sts, s) := runParts f rest s
    (st :: sts, s)

/-- Bit i set for each part that took effect. -/
def maskOf : Nat → List Nat → Nat
  | _, [] => 0
  | k, st :: rest => (if st = 0 then 2 ^ k else 0) + maskOf (k + 1) rest

/-- Undo the parts that took effect, in reverse order: the parts whose undo failed, and the state. -/
def undoParts (g : PartRun) : List (Nat × Nat × Nat) → State → Nat × State
  | [], s => (0, s)
  | (k, i, st) :: rest, s =>
    let (bad, s) := undoParts g rest s
    if st = 0 then
      let (u, s) := g i s
      (if u = 0 then bad else bad + 2 ^ k, s)
    else (bad, s)

/-! ## Replies that wait (R366, R369) -/

/-- A part that still waits. -/
def waiting : Nat := 0xFFFF

/-- The outcome of a command whose parts have all ended (R371 to R373): `g` undoes a part. -/
def concludeParts (w : Wait) (g : PartRun) (s : State) : Reply × State :=
  let mask := ((w.bits.zip w.sts).map (fun x => if x.2 = 0 then 2 ^ x.1 else 0)).sum
  match w.sts.findIdx? (fun st => st != 0) with
  | none => (⟨0, mask, 0, 0, 0, w.sts, w.pay⟩, s)
  | some k =>
    let at' := nth w.offs k 0
    if mask = 0 then (⟨nth w.sts k 0, 0, w.ty, at', 0, w.sts, []⟩, s)
    else if w.req.atomic then
      let (bad, s) := undoParts g ((w.bits.zip (w.parts.zip w.sts)).map (fun x => (x.1, x.2.1, x.2.2))) s
      if bad = 0 then (⟨Status.partialUndone, 0, w.ty, at', 0, w.sts, []⟩, s)
      else (⟨Status.internal, bad, w.ty, at', bad, w.sts, []⟩,
        s.raise 0x0155 1 w.req.channel (le 2 w.opcode ++ le 2 w.req.tag ++ le 4 bad))
    else (⟨Status.partial', mask, w.ty, at', 0, w.sts, []⟩, s)

/-- Parts of the waits of these kinds that `st` settles get their status; a wait that so ends takes its payload. -/
def State.settleWaits (s : State) (kinds : List Nat) (st : Wait → Nat → Option Nat) (pay : Wait → List Byte) : State :=
  let step : Wait → Wait := fun w =>
    if kinds.contains w.kind && w.sts.contains waiting then
      let sts := (w.parts.zip w.sts).map (fun x => if x.2 = waiting then (st w x.1).getD waiting else x.2)
      { w with sts := sts, pay := if sts.contains waiting then w.pay else pay w }
    else w
  { s with cmd := { s.cmd with waits := s.cmd.waits.map step } }

/-- A reply is to wait. -/
def State.addWait (s : State) (w : Wait) : State := { s with cmd := { s.cmd with waits := s.cmd.waits ++ [w] } }

/-- The bits of a bitmap of n. -/
def bitsOf (n v : Nat) : List Nat := (List.range n).filter (fun i => v.testBit i)

/-- Byte offset of the kth TLV of a type. -/
def Params.offsetOf : Params → Nat → Nat → Nat → Nat
  | [], _, _, _ => 0
  | t :: rest, ty, k, off =>
    if t.ty = ty then (if k = 0 then off else Params.offsetOf rest ty (k - 1) (off + Tlv.size t))
    else Params.offsetOf rest ty k (off + Tlv.size t)

/-! ## Register words -/

/-- The fields of the table `specs` that lie in the word at `off`. -/
def fieldsAt (specs : List FldSpec) (off : Nat) : List (Fld × Ty × Upd) := specs.filterMap (fun r => r.atOff off)

/-- The 32-bit word at `off` as a read assembles it: WO fields read 0. -/
def State.word (s : State) (specs : List FldSpec) (off : Nat) : Nat :=
  (fieldsAt specs off).foldl (fun acc f => if f.2.1 = .wo then acc else acc + s.get f.1 * 2 ^ f.1.lo) 0

end Sys2Proof.Machine
end

