-- ==== Sys2Proof/Machine/Queues.lean ====
section
/-! DEFINITION. The item queues and the Bellows units (chapter 06, R221 to R231) and their commands of R233. -/

namespace Sys2Proof.Machine

/-- The answer of a meaning: the commands all have an effect in every state. -/
abbrev Out := Host.Outcome State Fault Refusal

/-! ## Consumer operations (R223) -/

/-- POP: the entry at RD, and the queue with RD advanced. A popped marker frees its entry at once (R225). -/
def Queue.pop (q : Queue) : Option QCell × Queue :=
  match q.ready with
  | [] => (none, q)
  | e :: t =>
    if e.isGap then (some e.cell, { q with ready := t })
    else (some e.cell, { q with ready := t, popped := q.popped ++ [e] })

/-- POP_REL: as POP, and without a mark every entry popped is released. -/
def Queue.popRel (q : Queue) : Option QCell × Queue :=
  let (e, q) := q.pop
  if q.mark.isSome then (e, q) else (e, { q with popped := [] })

def Queue.setMark (q : Queue) : Queue := { q with mark := some q.popped.length }

/-- REWIND: RD back at MARK, while a mark is held. -/
def Queue.rewind (q : Queue) : Queue :=
  match q.mark with
  | some m => { q with ready := q.popped.drop m ++ q.ready, popped := q.popped.take m }
  | none => q

def Queue.release (q : Queue) : Queue := { q with popped := [], mark := none }

/-- The record of the event queue's own gap marker (R42): its SHORT_TIME is the instant the marker leaves. -/
def State.gapRecord (s : State) (c f : Nat) : List Byte := (s.eventRec 0x0101 10 0 (le 4 c ++ le 4 f)).hdr

/-- The marker of queue i, with its count and first-drop time, leaves as event 0x0101 (R42, R225); that of the EVENT queue is itself the
record. -/
def State.gapEvent (s : State) (i c f : Nat) : State := if i = 0 then s else s.raise 0x0101 10 i (le 4 c ++ le 4 f)

/-- The entry as the consumer of queue i receives it: the marker of the EVENT queue is the record of R42. -/
def State.asReceived (s : State) (i : Nat) (c : QCell) : QCell :=
  match c with
  | .gap n f => if i = 0 then .head ⟨s.gapRecord n f, []⟩ else c
  | _ => c

/-- Hand the consumer of queue i the entry it received. -/
def State.deliver (s : State) (i : Nat) (c : Option QCell) : State :=
  match c with
  | some c =>
    let c := s.asReceived i c
    let s : State := { s with que := { s.que with out := s.que.out.filter (fun p => p.1 != i) ++ [(i, c)] } }
    match c with
    | .gap n f => s.gapEvent i n f
    | _ => s
  | none => s

/-! ## Spill (R226, R228) -/

/-- Entries grouped by item; a marker is a group of its own, and entries without their first stand in front. -/
def groupItems : List QEntry → List (List QEntry)
  | [] => []
  | e :: t =>
    match groupItems t with
    | (c :: cs) :: gs => if c.cell = .cont then (e :: c :: cs) :: gs else [e] :: (c :: cs) :: gs
    | gs => [e] :: gs

/-- The items that no entry of positions `a` to `a + 15` belongs to, and how many items were cut. -/
def cutItems (a : Nat) : Nat → List (List QEntry) → List QEntry × Nat
  | _, [] => ([], 0)
  | pos, g :: gs =>
    let (rest, n) := cutItems a (pos + g.length) gs
    if pos < a + 16 ∧ a < pos + g.length ∧ !(g.any QEntry.isGap) then (rest, n + 1) else (g ++ rest, n)

/-- The group of 16 entries from position `a` on fails its check: it is discarded with every item it cuts, its entries are counted, and the loss is
recorded in the gap marker (R228). -/
def State.loseGroup (s : State) (q a : Nat) : State :=
  let qu := s.queue q
  let group := (qu.ready.drop a).take 16
  let (kept, n) := cutItems a 0 (groupItems qu.ready)
  let lost := (group.filter (fun e => !e.isGap)).length
  let s := s.countBy (QUE.Q_SPILL_LOST q) lost
  let s := s.countBy (QUE.Q_DROP_CNT q) n
  let qu1 := { qu with ready := kept }
  let s := if qu1.hasGap || decide (n = 0) then s else s.count (QUE.Q_MARKERS q)
  let qu2 := (List.range n).foldl (fun u _ => u.markDrop s.shortTime) qu1
  let s := s.updQueue q qu2
  s.signal QUE.INT QUE.INT_EN QUE.INT_SPILL_LOST 0x0114 10 q (le 4 lost)

/-- Spilled entries that were lost with their bank come to the head registers: their groups fail their check and are discarded (R226, R228), at most `n`
of them. -/
def State.dropLost (q : Nat) : Nat → State → State
  | 0, s => s
  | n + 1, s =>
    match ((s.queue q).ready.take 16).findIdx? QEntry.lost with
    | some p => State.dropLost q n (s.loseGroup q p)
    | none => s

/-- Every lost entry among the head registers of queue q is discarded with its group. -/
def State.refill (s : State) (q : Nat) : State := State.dropLost q (s.queue q).ready.length s

/-! ## Taking items -/

/-- Take the whole item at the head of queue i and release it: a marker, an item, or nothing. -/
def State.takeItem (s : State) (i : Nat) : Option QCell × State :=
  let q := s.queue i
  match q.ready with
  | [] => (none, s)
  | e :: t =>
    match e.cell with
    | .gap c f => (some (.gap c f), ((s.updQueue i { q with ready := t }).refill i).gapEvent i c f)
    | .head it => (some (.head it), (s.updQueue i { q with ready := t.drop ((it.body.length + 15) / 16), popped := [] }).refill i)
    | .cont => (some .cont, (s.updQueue i { q with ready := t, popped := [] }).refill i)

/-- The queues 0 to 10 exist (R221). -/
def queueOk (q : Nat) : Bool := decide (q ≤ 10)

/-- QUEUE_PUSH (R223): a push to queue q. Commands with no CORE cycle between them belong to one cycle (DESIGN CHOICE, assumption 98): the entries accepted can
be popped from the next cycle on, and a push that finds no room is kept, to be tested again where the consumer's operation of the same cycle frees space. -/
def execQueuePush (q : Nat) (it : QItem) (s : State) : Out :=
  .next (if queueOk q then
      let n := (itemEntries it).length
      let t := s.push q it
      let c := t.queueCycle q
      if s.hasRoom q n then t.noteCycle { c with fresh := c.fresh + n }
      else if s.on (QUE.Q_EN q) then t.noteCycle { c with dropped := some (it, s.queue q, s.get (QUE.Q_DROP_CNT q), s.get (QUE.Q_MARKERS q)) }
      else t
    else s)

/-- The entries of queue q that a pop finds: none that was pushed in the present cycle (R223, R224). -/
def State.poppable (s : State) (q : Nat) : Bool := decide ((s.queueCycle q).fresh < (s.queue q).ready.length)

/-- A push of the present cycle that found no room is taken back, so that the consumer's operation comes before it (R223). -/
def State.untryPush (s : State) (q : Nat) : State :=
  match (s.queueCycle q).dropped with
  | some (_, before, drops, marks) => ((s.setQueue q before).set (QUE.Q_DROP_CNT q) drops).set (QUE.Q_MARKERS q) marks
  | none => s

/-- The push taken back is tested again. -/
def State.retryPush (s : State) (q : Nat) (c : QCycle) : State :=
  match c.dropped with
  | some (it, _) =>
    let s := s.noteCycle { s.queueCycle q with dropped := none }
    nextQ (execQueuePush q it s)
  | none => s
where
  nextQ : Out → State
    | .next t => t
    | _ => s

/-- An operation of the consumer that frees space: `f` answers the entry received and the queue after it. -/
def State.consume (s : State) (q : Nat) (f : Queue → Option QCell × Queue) : State :=
  let c := s.queueCycle q
  let s := s.untryPush q
  let (e, q') := f (s.queue q)
  (((s.updQueue q q').refill q).retryPush q c).deliver q e

/-- QUEUE_POP. -/
def execQueuePop (q : Nat) (s : State) : Out :=
  if queueOk q && s.poppable q then
    let (e, q') := (s.queue q).pop
    .next (((s.updQueue q q').refill q).deliver q e)
  else .next s

/-- QUEUE_POP_REL: on a queue that holds nothing to pop, what was popped before is still released (R223). -/
def execQueuePopRel (q : Nat) (s : State) : Out :=
  if queueOk q then .next (s.consume q (fun u => if s.poppable q then u.popRel else (none, if u.mark.isSome then u else { u with popped := [] })))
  else .next s

/-- QUEUE_MARK. -/
def execQueueMark (q : Nat) (s : State) : Out :=
  .next (if queueOk q then s.updQueue q (s.queue q).setMark else s)

/-- QUEUE_REWIND. -/
def execQueueRewind (q : Nat) (s : State) : Out :=
  .next (if queueOk q then s.updQueue q (s.queue q).rewind else s)

/-- QUEUE_RELEASE. -/
def execQueueRelease (q : Nat) (s : State) : Out :=
  .next (if queueOk q then s.consume q (fun u => (none, u.release)) else s)

/-- BELLOWS_PIN_HOLD (R231): the pin's level has lasted 8 CORE cycles; the pin follows LIVE. -/
def execBellowsPinHold (b : Nat) (s : State) : Out :=
  if b < 8 then
    .next ({ s with que := { s.que with pinSince := s.que.pinSince.setIfInBounds b (s.cycles - 8) } }.bellowsPin b)
  else .next s

/-- PEAK_OCC_READ (R14, R16, R237): returns the peak and restarts it from the present OCC. -/
def execPeakOccRead (q : Nat) (s : State) : Out :=
  if queueOk q then
    .next ({ s with rd := s.get (QUE.Q_PEAK_OCC q) }.set (QUE.Q_PEAK_OCC q) (s.queue q).occ)
  else .next { s with rd := 0 }

/-! ## Configuration (R227, R230, R233) -/

/-- The sum of CAP − 32 over the enabled queues, queue q having EN = en and CAP = cap (R227). -/
def State.capSum (s : State) (q : Nat) (en : Bool) (cap : Nat) : Nat :=
  ((List.range 11).map (fun i =>
    let on := if i = q then en else s.on (QUE.Q_EN i)
    let c := if i = q then cap else s.get (QUE.Q_CAP i)
    if on then capEff c - 32 else 0)).sum

/-- Write EN and CAP of queue q, nothing being refused; clearing EN discards the contents. -/
def State.queueWrite (s : State) (q : Nat) (en : Bool) (cap : Nat) : State :=
  let was := s.on (QUE.Q_EN q)
  let s := (s.setOn (QUE.Q_EN q) en).set (QUE.Q_CAP q) cap
  if was && !en then s.updQueue q Queue.empty else s

/-- QUEUE_EN_WRITE (R227): a host write of QUEUEq_CFG. A CAP that changes while EN reads 1 is refused (class S); an enable or
CAP that would break the limit of R227 is ignored; both are recorded. -/
def hostQueueEnWrite (source q : Nat) (v : Word) (s : State) : Out :=
  if queueOk q then
    let off := 0x101000 + 0x40 * q
    let en := v.toNat.testBit 31
    let cap := v.toNat % 2 ^ 16
    let staticBad := s.on (QUE.Q_EN q) && decide (cap ≠ s.get (QUE.Q_CAP q))
    let cap := if staticBad then s.get (QUE.Q_CAP q) else cap
    let s := if staticBad then s.cfgReject source off else s
    if s.capSum q en cap ≤ 65536 then .next (s.queueWrite q en cap) else .next (s.cfgReject source off)
  else .next s

/-- QUEUE_SET's parameters: Queue; EN; CAP; LEVEL. -/
def queueSetParams : List PSpec := [preq 1 1 0 10, popt 2 1 0 1, popt 3 2 0 0xFFFF, popt 4 2 0 0xFFFF]

def queueSetBody (p : Params) (s : State) : Reply × State :=
  let q := Params.val p 1
  let en := ((Params.val? p 2).map (fun v => decide (v = 1))).getD (s.on (QUE.Q_EN q))
  let cap := (Params.val? p 3).getD (s.get (QUE.Q_CAP q))
  if s.on (QUE.Q_EN q) && decide (cap ≠ s.get (QUE.Q_CAP q)) then (Reply.errAt Status.notInState p 3, s)
  else if 65536 < s.capSum q en cap then (Reply.err Status.noResource, s)
  else
    let s := s.queueWrite q en cap
    let s := match Params.val? p 4 with
      | some v => s.set (QUE.Q_LEVEL q) v
      | none => s
    (Reply.ok [], s.updQueue q (s.queue q))

/-- QUEUE_SET (R233). -/
def execQueueSet (r : Req) (p : List Tlv) (s : State) : Out := runCmd 0x0123 queueSetParams queueSetBody r p s

/-- STATUS, STATUS2 and the counters of queue q. -/
def queueStatus (s : State) (q : Nat) : List Byte :=
  le 4 (s.get (QUE.Q_OCC q) * 2 ^ 16 + s.get (QUE.Q_DEPTH q)) ++
  le 4 (s.get (QUE.Q_MARKER_QUEUED q) * 4 + s.get (QUE.Q_MARK_HELD q) * 2 + s.get (QUE.Q_ABOVE q)) ++
  le 4 (s.get (QUE.Q_DROP_CNT q)) ++ le 4 (s.get (QUE.Q_MARKERS q)) ++ le 4 (s.get (QUE.Q_LVL_XCNT q)) ++
  le 4 (s.get (QUE.Q_SPILL_LOST q))

/-- QUEUE_STATUS_GET (R233): a bitmap that names a queue above 10 is refused. -/
def execQueueStatusGet (r : Req) (p : List Tlv) (s : State) : Out :=
  runCmd 0x0124 [preq 1 2 0 0x7FF] (getBody (fun p s =>
    ((List.range 11).filter (fun i => (Params.val p 1).testBit i)).flatMap (queueStatus s))) r p s

/-- Another enabled unit binds queue q (R230). -/
def State.boundElsewhere (s : State) (b q : Nat) : Bool :=
  (List.range 8).any (fun c => c != b && s.on (QUE.BLW_EN c) && s.get (QUE.BLW_QUEUE c) == q)

/-- BELLOWS_EN_WRITE (R230, R231): a host write of BLWb_CFG. -/
def hostBellowsEnWrite (source b : Nat) (v : Word) (s : State) : Out :=
  if b < 8 then
    let off := 0x100800 + 0x20 * b
    let w := v.toNat
    let en := w.testBit 31
    let pol := if w.testBit 8 then 1 else 0
    let q := w % 16
    let busy := s.on (QUE.BLW_EN b)
    let changes := decide (pol ≠ s.get (QUE.BLW_POL b)) || decide (q ≠ s.get (QUE.BLW_QUEUE b))
    let s := if busy && changes then s.cfgReject source off else s
    let pol := if busy then s.get (QUE.BLW_POL b) else pol
    let q := if busy then s.get (QUE.BLW_QUEUE b) else q
    if en && s.boundElsewhere b q then .next (s.cfgReject source off)
    else
      let s := ((s.setOn (QUE.BLW_EN b) en).set (QUE.BLW_POL b) pol).set (QUE.BLW_QUEUE b) q
      let (s, ev) := s.bellows b
      .next (ev.foldl State.raiseItem s)
  else .next s

/-- BELLOWS_SET's parameters: Unit; EN; QUEUE; HI; LO; POL. -/
def bellowsSetParams : List PSpec :=
  [preq 1 1 0 7, popt 2 1 0 1, popt 3 1 0 10, popt 4 2 0 0xFFFF, popt 5 2 0 0xFFFF, popt 6 1 0 1]

/-- The fields BELLOWS_SET writes. -/
def bellowsFlds (b : Nat) : List PFld :=
  [⟨2, QUE.BLW_EN b, .live⟩, ⟨3, QUE.BLW_QUEUE b, .static⟩, ⟨4, QUE.BLW_HI b, .live⟩, ⟨5, QUE.BLW_LO b, .live⟩,
   ⟨6, QUE.BLW_POL b, .static⟩]

def bellowsSetBody (p : Params) (s : State) : Reply × State :=
  let b := Params.val p 1
  let en := (Params.val? p 2).getD (s.get (QUE.BLW_EN b))
  let q := (Params.val? p 3).getD (s.get (QUE.BLW_QUEUE b))
  if en = 1 ∧ s.boundElsewhere b q then (Reply.errAt Status.badParam p 3, s)
  else
    let (rep, s1) := setFlds (!(s.on (QUE.BLW_EN b))) (bellowsFlds b) p s
    let (s2, ev) := s1.bellows b
    if rep.status = 0 then (rep, ev.foldl State.raiseItem s2) else (rep, s)

/-- BELLOWS_SET (R233). -/
def execBellowsSet (r : Req) (p : List Tlv) (s : State) : Out := runCmd 0x0125 bellowsSetParams bellowsSetBody r p s

end Sys2Proof.Machine
end

