-- ==== Sys2Proof/Machine/Record.lean ====
section
/-! DEFINITION. What every unit shares with Temper and Ephemeris: the fault ring and quarantine records (R500), the pausing of a
set (R475), the end of a slice that is pre-empted (R470, R477) and the end of a commanded run (R478, R481). -/

namespace Sys2Proof.Machine

/-- Life-cycle states (R517). -/
def State.lifecycle (s : State) : Nat := s.get LIFE.STATUS_LC_STATE

/-- FACTORY or SERVICE (R189, R220, R252, R285). -/
def State.inService (s : State) : Bool := s.lifecycle == 1 || s.lifecycle == 4

/-- Calendar seconds. -/
def State.calSec (s : State) : Nat := s.life.cal / 32768

/-! ## The fault history (R500) -/

/-- Write counts of a region's most-written block go up by n (R490): WEAR_PCT is in 0.01 % of 10^8 writes, and its rise through 50, 80 or
100 % sets INT.WEAR. -/
def State.wear (s : State) (r n : Nat) : State :=
  let old := s.get (LIFE.WEAR_PCT r)
  let w := min (s.get (LIFE.WEAR r) + n) 0xFFFFFFFF
  let pct := min (w / 10000) 0xFFFF
  let s := (s.set (LIFE.WEAR r) w).set (LIFE.WEAR_PCT r) pct
  if [5000, 8000, 10000].any (fun t => decide (old < t ∧ t ≤ pct)) then
    s.signal LIFE.INT LIFE.INT_EN LIFE.INT_WEAR 0x0B04 17 r ([0, 0, 0, 0] ++ le 4 pct)
  else s

/-- n blocks are written in region 4, in rotation over its 256 blocks. -/
def State.wearLife (s : State) (n : Nat) : State :=
  let w := s.life.lifeWrites
  let s : State := { s with life := { s.life with lifeWrites := w + n } }
  s.wear 4 ((w + n + 255) / 256 - (w + 255) / 256)

/-- Append an entry to the fault ring; the oldest of 4,096 is overwritten. -/
def State.faultRing (s : State) (record : List Byte) : State :=
  let e : FaultEntry := ⟨s.calSec, s.get LIFE.POWER_ON_MIN, padTo 16 record⟩
  let l := s.life.ring ++ [e]
  { s with life := { s.life with ring := l.drop (l.length - 4096) } }.wearLife 1

/-- Append the event record of this code to the ring. -/
def State.faultEvent (s : State) (code block unit : Nat) (detail : List Byte) : State :=
  s.faultRing (s.eventRec code block unit detail).hdr

/-- Index of a unit's Temper record (R487). -/
def tRec (set unit : Nat) : Nat := 32 * set + unit

/-- The quarantine of a replicated unit is recorded, before the map changes. -/
def State.quarantine (s : State) (set unit cause : Nat) : State :=
  let l := s.life.quar.filter (fun q => !(q.set == set && q.unit == unit))
  let e : Quarantine := ⟨set, unit, cause, s.calSec, false⟩
  let s : State := { s with life := { s.life with quar := l ++ [e] } }.wearLife 1
  s.set (TEST.REC_PASSED_SINCE_Q (tRec set unit)) 0

/-- A release clears QUARANTINED and PASSED_SINCE_Q in the same write. -/
def State.unquarantine (s : State) (set unit : Nat) : State :=
  let l := s.life.quar.filter (fun q => !(q.set == set && q.unit == unit))
  let s : State := { s with life := { s.life with quar := l } }.wearLife 1
  s.set (TEST.REC_PASSED_SINCE_Q (tRec set unit)) 0

/-- PASSED_SINCE_Q of a quarantined unit (R479). -/
def State.passedSinceQ (s : State) (set unit : Nat) : Bool := s.on (TEST.REC_PASSED_SINCE_Q (tRec set unit))

/-! ## Sets (R465, R475) -/

/-- The ROLE field of a unit of a replicated set. -/
def roleFld (set unit : Nat) : Fld :=
  if set = 0 then STRM.HAMMER_ROLE unit else if set = 1 then QUE.BANK_ROLE unit else ANVIL.MU_ROLE unit

/-- Units of a set. -/
def setUnits (set : Nat) : Nat :=
  if set = 0 then 17 else if set = 1 then 9 else if set = 2 then 17 else if set = 3 then 4 else if set = 4 then 8 else 4

def State.role (s : State) (set unit : Nat) : Nat := s.get (roleFld set unit)

/-- The unit that is SPARE or TEST, if one is. -/
def State.spareOf (s : State) (set : Nat) : Option Nat :=
  (List.range (setUnits set)).find? (fun u => s.role set u == 1 || s.role set u == 2)

def State.setRun (s : State) (set : Nat) : SetRun := unitAt s.test.sets set ⟨[], 0, false⟩

def State.putSetRun (s : State) (set : Nat) (x : SetRun) : State :=
  { s with test := { s.test with sets := s.test.sets.setIfInBounds set x } }

/-- The reference run of a set ends; a new one starts from slice 0 (R475). -/
def State.dropRun (s : State) (set : Nat) : State :=
  (s.set (TEST.SET_UNIT set) 0x1F).set (TEST.SET_NEXT_SLICE set) 0

/-- PAUSED follows the set; each change sets INT.SCHED and raises event 0x0A04 (R475). -/
def State.pauseCheck (s : State) (set : Nat) : State :=
  let p := (s.spareOf set).isNone && !(s.setRun set).handover
  if s.bit TEST.STATUS_PAUSED set = p then s
  else
    ((s.setBit TEST.STATUS_PAUSED set p).dropRun set).signal TEST.INT TEST.INT_EN TEST.INT_SCHED 0x0A04 16 (32 * set)
      [BitVec.ofNat 8 set, if p then 1 else 0]

/-! ## Slices and runs -/

/-- Nanoseconds a slice takes for one pattern of LBIST, by set: (L + 6) × 5 ns (R466, R468). -/
def patternNs (set : Nat) : Nat :=
  if set = 0 then 1950 else if set = 2 then 1300 else if set = 3 then 980 else if set = 4 then 1620 else if set = 5 then 2260 else 1460

/-- Patterns, or operations ÷ 16, done after `ns` nanoseconds of a slice. -/
def doneAfter (set ns : Nat) : Nat :=
  if set = 1 then (ns - 6000) * 4 / 5 / 16 else (ns - 4000) / patternNs set

/-- TEST.STATUS shows no slice. -/
def State.noSlice (s : State) : State :=
  ({ s with test := { s.test with slice := none } }.set TEST.STATUS_SLICE_ACTIVE 0).set TEST.STATUS_SLICE_SET 7
    |>.set TEST.STATUS_SLICE_UNIT_NOW 0x1F

/-- UNIT of Temper's events. -/
def testUnit (set unit : Nat) : Nat := 32 * set + unit

/-- SLICE_RESULT names this slice as the last one. -/
def State.lastSlice (s : State) (c : Slice) : State :=
  let s := ((s.set TEST.LAST_SET c.set).set TEST.LAST_SLICE_UNIT c.unit).set TEST.LAST_SLICE_INDEX c.index
  (s.setOn TEST.LAST_REPEAT c.rep).setOn TEST.LAST_COMMANDED c.cmd

/-- A slice of the commanded run has ended: `pass` or not; `sig` is its signature where SIG_VALID is 1. -/
def State.noteSlice (s : State) (c : Slice) (pass : Bool) (sig : Option Nat) : State :=
  if !c.cmd then s
  else match s.test.run with
    | some x =>
      let y := if pass then { x with passes := x.passes + 1 } else { x with first := if x.first = 0xFFFF then c.index else x.first }
      let y := { y with lastSig := sig.getD y.lastSig }
      { s with test := { s.test with run := some y } }.countSat TEST.RUN_DONE
    | none => s

/-- A slice stops before its count: outcome 4 INCOMPLETE or 5 ABORTED, with its cause (R470, R483). SIG shows what the
signature register held, a free value. -/
def State.stopSlice (s : State) (outcome cause : Nat) : State :=
  match s.test.slice with
  | none => s
  | some c =>
    let ns := (s.cycles - c.start) * 5 / 4
    let (sig, s) := s.fresh 64
    let done := doneAfter c.set ns
    let s := s.noSlice.lastSlice c
    let s := { s with test := { s.test with rep := none } }
    let s := s.count (if outcome = 4 then TEST.SLICES_INCOMPLETE else TEST.SLICES_ABORTED)
    let s := ((s.set TEST.LAST_SIG_VALID 0).set TEST.LAST_OUTCOME outcome).set TEST.LAST_DONE_COUNT done
    let s := ((s.set TEST.LAST_SIG_LO sig).set TEST.LAST_SIG_HI (sig / 2 ^ 32)).set TEST.LAST_SLICE_DUR ns
    let s := if c.cmd then s.noteSlice c false none else if outcome = 5 then s.dropRun c.set else s
    s.signalHeld TEST.INT TEST.INT_EN TEST.INT_STOPPED 0x0A02 16 (testUnit c.set c.unit)
      (s.get TEST.CTRL_EVT_HOLDOFF * 1000 * cyclesPerUs)
      ([BitVec.ofNat 8 c.set, BitVec.ofNat 8 c.unit, BitVec.ofNat 8 outcome, BitVec.ofNat 8 cause] ++ le 2 c.index ++
        le 2 (if done < 65536 then done else 65535))

/-- Set 3–6 targets return to idle by themselves; a replicated TEST unit of a commanded run returns to SPARE unless it
failed (R478, R481). -/
def State.runTargetIdle (s : State) (set unit : Nat) : State :=
  if set < 3 ∧ s.role set unit = 2 then s.set (roleFld set unit) 1 else s

/-- The reply payload of TEST_RUN (R484). -/
def runPayload (s : State) (x : CmdRun) (outcome : Nat) : List Byte :=
  le 1 outcome ++ le 1 0 ++ le 2 (s.get TEST.RUN_DONE) ++ le 2 x.passes ++ le 2 x.first ++ le 8 x.lastSig

/-- The quarantine record of a unit notes a passed run. -/
def Quarantine.notePass (set unit : Nat) (q : Quarantine) : Quarantine :=
  if q.set == set && q.unit == unit then { q with passed := true } else q

/-- The channel of an outcome that nobody waits for any more (R369). -/
def noChan : Nat := 63

/-- The outcome of a request that was waiting. -/
def State.post (s : State) (x : Result) : State :=
  if x.channel = noChan ∨ x.channel = mirrorChan then s else { s with cmd := { s.cmd with results := s.cmd.results ++ [x] } }

/-- The run of a target is over with these part statuses: the next bank of an N5_MEMTEST follows, or the reply. -/
def State.nextBank (s : State) (x : CmdRun) (done : List Nat) (outcome : Nat) : State :=
  match x.banks with
  | [] =>
    let rep := if x.opcode = 0x0A03 then Reply.ok (runPayload s x outcome)
      else
        let bad := done.findIdx? (fun t => t != 0)
        let mask := maskOf 0 done
        match bad with
        | none => ⟨0, mask, 0, 0, 0, done, []⟩
        | some k => ⟨if mask = 0 then nth done k 0 else Status.partial', mask, 0, 0, 0, done, []⟩
    let s := ({ s with test := { s.test with run := none } }).post ⟨x.channel, x.tag, x.opcode, rep⟩
    s.set TEST.STATUS_CMD_RUN 0
  | b :: rest =>
    let y := { x with unit := b, banks := rest, done := done, passes := 0, first := 0xFFFF, failed := false }
    let y := { y with stopped := false, lastSig := 0, wait := true }
    ({ s with test := { s.test with run := some y } }.set TEST.RUN_UNIT b).set TEST.RUN_DONE 0 |>.set TEST.RUN_OUTCOME 1

/-- A commanded run ends with an outcome: 2 PASS, 3 FAIL, 4 DONE, 5 STOPPED (R478, R479, R487). The next bank of an
N5_MEMTEST follows. -/
def State.endRun (s : State) (outcome : Nat) : State :=
  match s.test.run with
  | none => s
  | some x =>
    let i := tRec x.set x.unit
    let s := s.set TEST.RUN_OUTCOME outcome
    let last := if outcome = 2 then 1 else if outcome = 3 then 2 else if outcome = 5 then 3 else s.get (TEST.REC_LAST_RUN i)
    let s := (s.set (TEST.REC_LAST_RUN i) last).countSat (TEST.REC_RUNS i)
    let s := if outcome = 2 ∧ s.life.quar.any (fun q => q.set == x.set && q.unit == x.unit) then
        let s : State := { s with life := { s.life with quar := s.life.quar.map (Quarantine.notePass x.set x.unit) } }
        s.set (TEST.REC_PASSED_SINCE_Q i) 1
      else s
    let s := s.runTargetIdle x.set x.unit
    let s := s.signal TEST.INT TEST.INT_EN TEST.INT_RUN_DONE 0x0A03 16 (testUnit x.set x.unit)
      ([BitVec.ofNat 8 x.set, BitVec.ofNat 8 x.unit, BitVec.ofNat 8 outcome, 0] ++ le 2 (s.get TEST.RUN_DONE) ++ le 2 x.passes)
    s.nextBank x (x.done ++ [if outcome = 2 then 0 else Status.internal]) outcome

/-- A commanded run on this non-replicated target is in progress (R480). -/
def State.underRun (s : State) (set unit : Nat) : Bool :=
  match s.test.run with
  | some x => decide (3 ≤ set) && x.set == set && x.unit == unit
  | none => false

/-- A target may not be started: in RETIRED (R503), in recovery (R529), or under a commanded run (R480). Set 7 stands for streams. -/
def State.noStart (s : State) (set unit : Nat) : Bool := s.lifecycle == 5 || s.on SYS.STATUS_RECOVERY || s.underRun set unit

/-- The unit is taken into service (cause 4) or declared failed (cause 5): a slice on it is ABORTED (R470, R477), and a
commanded run on it ends. -/
def State.preempt (s : State) (set unit cause : Nat) : State :=
  let s := match s.test.slice with
    | some c => if c.set = set ∧ c.unit = unit then s.stopSlice 5 cause else s
    | none => s
  let s := match s.test.rep with
    | some c => if c.set = set ∧ c.unit = unit then { s with test := { s.test with rep := none } } else s
    | none => s
  match s.test.run with
  | some x => if x.set = set ∧ x.unit = unit ∧ !x.wait ∧ !x.failed ∧ s.role set unit ≠ 4 then s.endRun 5 else s
  | none => s

/-- Temper's schedule may run (R482). -/
def State.schedules (s : State) : Bool := s.test.sched && decide (1 ≤ s.lifecycle ∧ s.lifecycle ≤ 4)

/-- A handover has vacated unit u of a set: it becomes TEST for a commanded run that waited for it, or for the schedule (R473, R478). -/
def State.vacated (s : State) (set u : Nat) : State :=
  let wanted := match s.test.run with
    | some x => x.set == set && x.unit == u && x.wait
    | none => false
  if wanted then
    let go := fun (x : CmdRun) => { x with wait := false }
    { s with test := { s.test with run := s.test.run.map go } }.set (roleFld set u) 2
  else if s.schedules ∧ s.bit TEST.SETS_EN set then
    ((s.set (roleFld set u) 2).set (TEST.SET_UNIT set) u).set (TEST.SET_NEXT_SLICE set) 0
  else s

end Sys2Proof.Machine
end

