-- ==== Sys2Proof/Machine/Seals.lean ====
section
/-! DEFINITION. Seals (chapter 07): the CRC-32C of R240, the check points of R246 with their counters and events, the
injection of R252, and the commands of R252. -/

namespace Sys2Proof.Machine

/-! ## The check (R240, R241) -/

/-- One bit of a reflected CRC over the polynomial `poly` (bit-reversed). -/
def crcBit (poly c : Nat) : Nat := if c % 2 = 1 then (c / 2) ^^^ poly else c / 2

def crcByte (poly c : Nat) (b : Byte) : Nat :=
  let c := c ^^^ b.toNat
  crcBit poly (crcBit poly (crcBit poly (crcBit poly (crcBit poly (crcBit poly (crcBit poly (crcBit poly c)))))))

/-- A reflected 32-bit CRC with initial value and final XOR of all ones. -/
def crc32 (poly : Nat) (l : List Byte) : Nat := (l.foldl (crcByte poly) 0xFFFFFFFF) ^^^ 0xFFFFFFFF

/-- CRC-32C (R240): 0x1EDC_6F41 bit-reversed is 0x82F6_3B78. -/
def crc32c (l : List Byte) : Nat := crc32 0x82F63B78 l

/-- The key of a block (R241): kind, index, time. -/
def sealKey (kind index time : Nat) : List Byte := le 1 kind ++ le 2 index ++ le 8 time

/-- A seal over key and block. -/
def sealOf (key block : List Byte) : Nat := crc32c (key ++ block)

/-- The bytes of a block of channel values (R48). -/
def orbBytes (vals : List Int) : List Byte := vals.flatMap (leI 5)

/-- The seal of a block of this kind (R241, R242). -/
def blockSeal (kind index time : Nat) (vals : List Int) : Nat := sealOf (sealKey kind index time) (orbBytes vals)

/-- A marked seal: the complement of the correct one (R247). -/
def markedSeal (correct : Nat) : Nat := 0xFFFFFFFF - correct

/-! ## Check points (R246, R251) -/

/-- A failure at check point i of a unit (R246, R251): counter, flag, SEAL_LAST and event 0x0130. `marked` says that the data
carried the uncorrectable mark. -/
def State.sealFail (s : State) (i unit : Nat) (marked : Bool) : State :=
  let s := (s.count (SYS.SEAL_CNT i)).setBit SYS.SEAL_INT i true
  let s := ((s.setOn SYS.SEAL_MARK marked).set SYS.SEAL_POINT i).set SYS.SEAL_UNIT unit
  let s := s.set SYS.SEAL_LAST_TIME s.shortTime
  let n := unitAt s.seals.since i 0 + 1
  if s.bit SYS.SEAL_INT_EN i && s.holdoffClear 0x0130 i (s.get SYS.SEAL_EVT_HOLDOFF * 1000 * cyclesPerUs) then
    let s := { s with seals := { s.seals with since := s.seals.since.setIfInBounds i 0 } }
    (s.holdoffMark 0x0130 i).raise 0x0130 0 i (le 2 unit ++ [if marked then 1 else 0, 0] ++ le 4 n)
  else { s with seals := { s.seals with since := s.seals.since.setIfInBounds i n } }

/-- An injection is pending at check point i (R252). -/
def State.injecting (s : State) (i : Nat) : Bool := decide (0 < s.get SYS.SEAL_INJ_LEFT) && s.get SYS.SEAL_INJ_POINT == i

/-- Event 0x0131 once the last injected block has been handled (R251). -/
def State.injectDone (s : State) (took : Bool) : State :=
  if took && s.get SYS.SEAL_INJ_LEFT == 0 then s.raise 0x0131 0 (s.get SYS.SEAL_INJ_POINT) [] else s

/-- A block that only one consumer reads reaches check point i: whether it fails, whether fresh, and the state after the
count, the events and any injection. `marked`: the data carries the uncorrectable mark; `damaged`: its bytes do not match. -/
def State.checkSeal (s : State) (i unit : Nat) (marked damaged : Bool) : Bool × Bool × State :=
  let inj := s.injecting i
  let s := if inj then s.set SYS.SEAL_INJ_LEFT (s.get SYS.SEAL_INJ_LEFT - 1) else s
  let fails := marked || damaged || inj
  let s := if fails then s.sealFail i unit marked else s
  (fails, fails && !marked, s.injectDone inj)

/-- Destination row (g, p) is read at check point i: one stored seal, however many consumers read it (R252). -/
def State.checkRow (s : State) (i unit g p : Nat) (marked damaged : Bool) : Bool × Bool × State :=
  let known := s.seals.marks.contains (i, g, p)
  let inj := s.injecting i && !known
  let s := if inj then
      { s with seals := { s.seals with marks := (s.seals.marks.drop (s.seals.marks.length - 1023)) ++ [(i, g, p)] } }.set
        SYS.SEAL_INJ_LEFT (s.get SYS.SEAL_INJ_LEFT - 1)
    else s
  let fails := marked || damaged || known || inj
  let s := if fails then s.sealFail i unit marked else s
  (fails, fails && !marked, s.injectDone inj)

/-! ## Commands (R252) -/

/-- A playback channel runs: a playback set is not DISABLED. -/
def State.playRuns (s : State) : Bool := (List.range 64).any (fun k => s.get (DMA.PLAY_STATE k) != 0)

/-- SEAL_STATUS_GET: CLEAR. -/
def execSealStatusGet (r : Req) (p : List Tlv) (s : State) : Out :=
  runCmd 0x0130 [popt 1 1 0 1] (fun p s =>
    let pay := le 4 (s.get SYS.SEAL_EVT_HOLDOFF * 2 ^ 16 + s.get SYS.SEAL_PLAY_HOST_SEAL) ++ le 4 (s.get SYS.SEAL_INT) ++
      le 4 (s.get SYS.SEAL_MARK * 2 ^ 24 + s.get SYS.SEAL_POINT * 2 ^ 16 + s.get SYS.SEAL_UNIT) ++
      le 4 (s.get SYS.SEAL_LAST_TIME) ++ (List.range 16).flatMap (fun i => le 4 (s.get (SYS.SEAL_CNT i))) ++
      le 4 (s.get SYS.SEAL_MARKED)
    let s := if Params.val p 1 = 1 then ((List.range 16).foldl (fun s i => s.set (SYS.SEAL_CNT i) 0) s).set SYS.SEAL_MARKED 0
      else s
    (Reply.ok pay, s)) r p s

/-- SEAL_SET: EVT_HOLDOFF; PLAY_HOST_SEAL. -/
def execSealSet (r : Req) (p : List Tlv) (s : State) : Out :=
  runCmd 0x0131 [popt 1 1 0 255, popt 2 1 0 1] (fun p s =>
    setFlds (!s.playRuns) [⟨2, SYS.SEAL_PLAY_HOST_SEAL, .static⟩, ⟨1, SYS.SEAL_EVT_HOLDOFF, .live⟩] p s) r p s

/-- SEAL_INJECT: check point; count. -/
def execSealInject (r : Req) (p : List Tlv) (s : State) : Out :=
  runCmd 0x0132 [preq 1 1 0 15, preq 2 1 1 255] (fun p s =>
    if !s.inService || decide (0 < s.get SYS.SEAL_INJ_LEFT) then (Reply.err Status.notInState, s)
    else (Reply.ok [], (s.set SYS.SEAL_INJ_POINT (Params.val p 1)).set SYS.SEAL_INJ_LEFT (Params.val p 2))) r p s

end Sys2Proof.Machine
end

