-- ==== Sys2Proof/Machine/Words.lean ====
section
/-! DEFINITION. A host write of a 32-bit word under the types and update classes of its fields (R13 to R18). -/

namespace Sys2Proof.Machine

/-- The part of word `w` that a field takes. -/
def Fld.part (f : Fld) (w : Nat) : Nat := w / 2 ^ f.lo % 2 ^ f.w

/-- A class-S field of the word would change. -/
def wordStatic (s : State) (fs : List (Fld × Ty × Upd)) (w : Nat) : Bool :=
  fs.any (fun f => f.2.1 == .rw && f.2.2 == .static && f.1.part w != s.get f.1)

/-- Write one field of a word: RO, WO, RC and CP fields keep their values here; W1C and W1S bits change where 1 is written; a
class-S field changes only while its block is idle (R14, R18). -/
def State.writeFld (s : State) (idle : Bool) (f : Fld × Ty × Upd) (w : Nat) : State :=
  let v := f.1.part w
  match f.2.1 with
  | .rw => if f.2.2 = .static ∧ !idle then s else s.write f.1 f.2.2 v
  | .w1c => s.set f.1 (s.get f.1 - (s.get f.1 &&& v))
  | .w1s => s.set f.1 (s.get f.1 ||| v)
  | .ro | .wo | .rc | .cp => s

/-- Write word `w` at `off`; a refused class-S field, and any write that meets a CP field, is recorded
in CFG_REJECT (R17, R18). -/
def State.writeWord (s : State) (specs : List FldSpec) (idle : Bool) (source off w : Nat) : State :=
  let fs := fieldsAt specs off
  let bad := (!idle && wordStatic s fs w) || fs.any (fun f => f.2.1 == .cp)
  let s := fs.foldl (fun s f => s.writeFld idle f w) s
  if bad then s.cfgReject source off else s

end Sys2Proof.Machine
end

