-- ==== Sys2Proof/Machine/Frames.lean ====
section
/-! DEFINITION. Frames as bytes: reading Ethernet, 802.1Q, IPv4, IPv6, UDP and TCP headers (R130, R158), Internet checksums and
the FCS, and building frames. The layouts of these headers are those of their standards (PRESUMED, assumption 8). -/

namespace Sys2Proof.Machine

/-- What the headers of a frame say: destination and source address, 802.1Q tag present, length/type after the tag and where
its data starts; IP version (0 for none), whether the packet is a fragment, protocol, addresses, where the L4 header starts
and the length of L4; UDP or TCP ports; whether IPv6 extension headers stand before L4. -/
structure Hdrs where
  dst : Nat
  src : Nat
  tagged : Bool
  etype : Nat
  l3 : Nat
  ip : Nat
  frag : Bool
  proto : Nat
  ipSrc : Nat
  ipDst : Nat
  l4 : Nat
  l4len : Nat
  sport : Nat
  dport : Nat
  ext : Bool
deriving DecidableEq, Repr

/-- Walk the extension headers of an IPv6 packet from `o`: the protocol behind them, where it starts, whether a fragment header was met, and whether
any header was (RFC 8200). -/
def ip6Walk (b : List Byte) : Nat → Nat → Nat → Nat × Nat × Bool × Bool
  | 0, proto, o => (proto, o, false, false)
  | n + 1, proto, o =>
    if proto = 0 ∨ proto = 43 ∨ proto = 60 ∨ proto = 51 then
      let len := if proto = 51 then 4 * (beAt b (o + 1) 1 + 2) else 8 * (beAt b (o + 1) 1 + 1)
      let (p, e, f, _) := ip6Walk b n (beAt b o 1) (o + len)
      (p, e, f, true)
    else if proto = 44 then
      let (p, e, f, _) := ip6Walk b n (beAt b o 1) (o + 8)
      (p, e, f || beAt b (o + 2) 2 / 8 != 0 || (beAt b (o + 2) 2).testBit 0, true)
    else (proto, o, false, false)

/-- Read the headers of a frame. -/
def headers (b : List Byte) : Hdrs :=
  let tagged := beAt b 12 2 == 0x8100
  let et := if tagged then beAt b 16 2 else beAt b 12 2
  let l3 := if tagged then 18 else 14
  let ver := beAt b l3 1 / 16
  let ihl := beAt b l3 1 % 16
  if et = 0x0800 ∧ ver = 4 ∧ 5 ≤ ihl then
    let l4 := l3 + 4 * ihl
    { dst := beAt b 0 6, src := beAt b 6 6, tagged := tagged, etype := et, l3 := l3, ip := 4,
      frag := beAt b (l3 + 6) 2 % 2 ^ 14 != 0, proto := beAt b (l3 + 9) 1, ipSrc := beAt b (l3 + 12) 4,
      ipDst := beAt b (l3 + 16) 4, l4 := l4, l4len := beAt b (l3 + 2) 2 - 4 * ihl, sport := beAt b l4 2,
      dport := beAt b (l4 + 2) 2, ext := false }
  else if et = 0x86DD ∧ ver = 6 then
    let (proto, l4, frag, ext) := ip6Walk b 8 (beAt b (l3 + 6) 1) (l3 + 40)
    { dst := beAt b 0 6, src := beAt b 6 6, tagged := tagged, etype := et, l3 := l3, ip := 6, frag := frag,
      proto := proto, ipSrc := beAt b (l3 + 8) 16, ipDst := beAt b (l3 + 24) 16, l4 := l4,
      l4len := beAt b (l3 + 4) 2 - (l4 - (l3 + 40)), sport := beAt b l4 2, dport := beAt b (l4 + 2) 2, ext := ext }
  else
    { dst := beAt b 0 6, src := beAt b 6 6, tagged := tagged, etype := et, l3 := l3, ip := 0, frag := false, proto := 0,
      ipSrc := 0, ipDst := 0, l4 := l3, l4len := 0, sport := 0, dport := 0, ext := false }

/-- A whole UDP packet. -/
def Hdrs.isUdp (h : Hdrs) : Bool := h.ip != 0 && h.proto == 17 && !h.frag

/-- Sum of the 16-bit words of a list, odd bytes padded. -/
def sum16 : List Byte → Nat
  | [] => 0
  | [a] => a.toNat * 256
  | a :: b :: t => a.toNat * 256 + b.toNat + sum16 t

/-- Fold a sum into 16 bits with end-around carry. -/
def fold16 (n : Nat) : Nat :=
  let n := n % 65536 + n / 65536
  let n := n % 65536 + n / 65536
  n % 65536 + n / 65536

/-- The Internet checksum of bytes. -/
def inetSum (l : List Byte) : Nat := 65535 - fold16 (sum16 l)

/-- The pseudo-header of UDP and TCP. -/
def pseudo (ip src dst proto len : Nat) : List Byte :=
  if ip = 4 then be 4 src ++ be 4 dst ++ [0, BitVec.ofNat 8 proto] ++ be 2 len
  else be 16 src ++ be 16 dst ++ be 4 len ++ [0, 0, 0, BitVec.ofNat 8 proto]

/-- The UDP payload: the bytes after the UDP header, as many as its length says. -/
def udpPayload (b : List Byte) (h : Hdrs) : List Byte := (b.drop (h.l4 + 8)).take (beAt b (h.l4 + 4) 2 - 8)

/-- A UDP checksum that is zero, or holds. -/
def udpSumOk (b : List Byte) (h : Hdrs) : Bool :=
  let n := beAt b (h.l4 + 4) 2
  beAt b (h.l4 + 6) 2 == 0 ||
    fold16 (sum16 (pseudo h.ip h.ipSrc h.ipDst 17 n ++ (b.drop h.l4).take n)) == 65535

/-- The FCS of a frame: the CRC-32 of IEEE 802.3 (PRESUMED), sent least significant byte first. -/
def fcs (l : List Byte) : List Byte := le 4 (crc32 0xEDB88320 l)

/-- The complement of the correct FCS (R246, check point 13). -/
def stompedFcs (l : List Byte) : List Byte := le 4 (0xFFFFFFFF - crc32 0xEDB88320 l)

/-- Pad a frame to the 60 bytes that stand before the FCS of the shortest frame. -/
def padFrame (l : List Byte) : List Byte := l ++ List.replicate (60 - l.length) 0#8

/-- An Ethernet header, with an 802.1Q tag where one is given. -/
def ethHdr (dst src : Nat) (tag : Option Nat) (etype : Nat) : List Byte :=
  be 6 dst ++ be 6 src ++ (match tag with
    | some t => be 2 0x8100 ++ be 2 t
    | none => []) ++ be 2 etype

/-- A UDP datagram with its checksum: computed, or 0 where `sum` is false. -/
def udpBytes (ip src dst sport dport : Nat) (sum : Bool) (pay : List Byte) : List Byte :=
  let n := pay.length + 8
  let h := be 2 sport ++ be 2 dport ++ be 2 n
  let c := inetSum (pseudo ip src dst 17 n ++ h ++ [0, 0] ++ pay)
  h ++ (if sum then be 2 (if c = 0 then 0xFFFF else c) else [0, 0]) ++ pay

/-- An IPv4 header without options and the data behind it. -/
def ip4Bytes (src dst proto ttl dscp ident : Nat) (data : List Byte) : List Byte :=
  let h1 := [0x45, BitVec.ofNat 8 (4 * dscp)] ++ be 2 (20 + data.length) ++ be 2 ident ++ [0x40, 0, BitVec.ofNat 8 ttl,
    BitVec.ofNat 8 proto]
  let h2 := be 4 src ++ be 4 dst
  h1 ++ be 2 (inetSum (h1 ++ [0, 0] ++ h2)) ++ h2 ++ data

/-- An IPv6 header and the data behind it. -/
def ip6Bytes (src dst proto hop dscp : Nat) (data : List Byte) : List Byte :=
  be 4 (6 * 2 ^ 28 + dscp * 2 ^ 22) ++ be 2 data.length ++ [BitVec.ofNat 8 proto, BitVec.ofNat 8 hop] ++ be 16 src ++
    be 16 dst ++ data

/-- The broadcast address. -/
def bcastMac : Nat := 0xFFFFFFFFFFFF

/-- A group address: bit 0 of its first byte. -/
def isGroup (mac : Nat) : Bool := (mac / 2 ^ 40).testBit 0

/-- The multicast MAC address of an IPv4 or IPv6 group. -/
def groupMac (ip addr : Nat) : Nat := if ip = 4 then 0x01005E000000 + addr % 2 ^ 23 else 0x333300000000 + addr % 2 ^ 32

/-! ## Port statistics (R147, R148) -/

/-- STATION_MAC of a port. -/
def State.stationMac (s : State) (p : Nat) : Nat := s.get (PORT.STATION_MAC_HI p) * 2 ^ 32 + s.get (PORT.STATION_MAC_LO p)

/-- BLOCK code of a port's events (R152). -/
def portBlock (p : Nat) : Nat := 3 + p

/-- Raise a port's event when its flag changes from 0 to 1 (R152). -/
def State.portEvent (s : State) (p bit code : Nat) (detail : List Byte) : State :=
  s.signalRise (PORT.INT p) (PORT.INT_EN p) bit code (portBlock p) 0 detail

/-- Counter n of port p grows by k; a change of its top bit sets its bit of STAT_HALF (R147). -/
def State.statBy (s : State) (p n k : Nat) : State :=
  let f := PORT.STAT p n
  let top := (s.get f).testBit (f.w - 1)
  let s := s.countBy f k
  if (s.get f).testBit (f.w - 1) = top then s
  else
    let s := if n < 32 then s.setBit (PORT.STAT_HALF_LO p) n true else s.setBit (PORT.STAT_HALF_HI p) (n - 32) true
    s.portEvent p PORT.INT_STAT_HALF 0x0405 (le 4 (s.get (PORT.STAT_HALF_LO p)) ++ le 4 (s.get (PORT.STAT_HALF_HI p)))

def State.stat (s : State) (p n : Nat) : State := s.statBy p n 1

/-- A limit of a frame length register in force (R155). -/
def lenEff (v : Nat) : Nat := clampNat 64 9600 v

/-- A frame, without its FCS, is longer than TX_MAX_LEN of port p allows (R139). -/
def State.txTooLong (s : State) (p : Nat) (b : List Byte) : Bool := decide (lenEff (s.get (PORT.TX_MAX_LEN p)) < b.length + 4)

/-- A frame's last byte leaves port p: its length, from destination address to FCS, and destination (R148). -/
def State.txCount (s : State) (p len dst : Nat) : State :=
  let s := (s.stat p Stat.TX_FRAMES).statBy p Stat.TX_OCTETS len
  s.stat p (if dst = bcastMac then Stat.TX_BCAST else if isGroup dst then Stat.TX_MCAST else Stat.TX_UCAST)

/-! ## ARP (RFC 826) and NDP (RFC 4861) -/

/-- An ARP message: operation, sender and target. -/
def arpFrame (dst srcMac op spa tha tpa : Nat) : List Byte :=
  ethHdr dst srcMac none 0x0806 ++ be 2 1 ++ be 2 0x0800 ++ [6, 4] ++ be 2 op ++ be 6 srcMac ++ be 4 spa ++ be 6 tha ++ be 4 tpa

/-- An ICMPv6 message with its checksum; `m` has its checksum field zero. -/
def icmp6Frame (dstMac srcMac src dst : Nat) (m : List Byte) : List Byte :=
  let c := inetSum (pseudo 6 src dst 58 m.length ++ m)
  ethHdr dstMac srcMac none 0x86DD ++ ip6Bytes src dst 58 255 0 (m.take 2 ++ be 2 c ++ m.drop 4)

/-- The all-nodes group, and the solicited-node group of an address. -/
def allNodes : Nat := 0xFF02 * 2 ^ 112 + 1
def solicited (a : Nat) : Nat := 0xFF02 * 2 ^ 112 + 2 ^ 32 + 0xFF000000 + a % 2 ^ 24

end Sys2Proof.Machine
end

