-- ==== Sys2Proof/Machine/Groups.lean ====
section
/-! DEFINITION. Multicast membership of the ports (R379): the groups held, the engine's filter entries (R131) and the reports of
IGMP (RFC 3376, RFC 2236) and MLD (RFC 3810, RFC 2710), whose layouts are PRESUMED from those standards (assumption 8). -/

namespace Sys2Proof.Machine

def State.port (s : State) (p : Nat) : PortState := unitAt s.ports p PortState.reset
def State.setPort (s : State) (p : Nat) (x : PortState) : State := { s with ports := s.ports.setIfInBounds p x }
def State.psvc (s : State) (p : Nat) : PortSvc := unitAt s.svc.ports p PortSvc.reset
def State.setPsvc (s : State) (p : Nat) (x : PortSvc) : State :=
  { s with svc := { s.svc with ports := s.svc.ports.setIfInBounds p x } }

/-- The Suosh engine puts a frame, without its FCS, in the SERVICE partition of port p (R137); a port that is not UP sends
nothing, and one longer than TX_MAX_LEN is discarded (R139). -/
def State.sendService (s : State) (p : Nat) (b : List Byte) : State :=
  if s.on (PORT.LINK_UP p) then
    let x := s.port p
    if s.txTooLong p (padFrame b) then s.stat p Stat.TX_DISCARD else
    let f : TxFrame := ⟨padFrame b, none, false, false, false⟩
    s.setPort p { x with service := x.service ++ [f] }
  else s

/-- The IPv4 address in use on port p, 0 if none. -/
def State.ip4 (s : State) (p : Nat) : Nat := (s.psvc p).ip.v4Use

/-- The link-local IPv6 address of port p: fe80::/64 and the modified EUI-64 of STATION_MAC (PRESUMED). -/
def State.linkLocal (s : State) (p : Nat) : Nat :=
  let m := s.stationMac p
  0xFE80 * 2 ^ 112 + ((m / 2 ^ 24) ^^^ (2 ^ 17)) * 2 ^ 40 + 0xFFFE * 2 ^ 24 + m % 2 ^ 24

/-! ## Reports -/

/-- An IPv4 header with the Router Alert option, TTL 1, and the IGMP message behind it. -/
def igmpFrame (srcMac src dst : Nat) (msg : List Byte) : List Byte :=
  let h1 := [0x46, 0xC0] ++ be 2 (24 + msg.length) ++ [0, 0, 0x40, 0, 1, 2]
  let h2 := be 4 src ++ be 4 dst ++ [0x94, 4, 0, 0]
  ethHdr (groupMac 4 dst) srcMac none 0x0800 ++ h1 ++ be 2 (inetSum (h1 ++ [0, 0] ++ h2)) ++ h2 ++ msg

/-- An IPv6 header with a Hop-by-Hop Router Alert and the ICMPv6 message behind it; `msg` has its checksum field zero. -/
def mldFrame (srcMac src dst : Nat) (msg : List Byte) : List Byte :=
  let c := inetSum (pseudo 6 src dst 58 msg.length ++ msg)
  let m := msg.take 2 ++ be 2 c ++ msg.drop 4
  ethHdr (groupMac 6 dst) srcMac none 0x86DD ++ ip6Bytes src dst 0 1 0 ([58, 0, 5, 2, 0, 0, 1, 0] ++ m)

/-- The filter a port reports for a group that several hold (RFC 3376 section 3.2, RFC 3810 section 4.2): mode and sources. One that excludes nothing
but its sources makes the group exclude the sources that all of those exclude and none includes. -/
def State.groupFilter (s : State) (p ip addr : Nat) : Nat × List Nat :=
  let gs := (s.psvc p).groups.filter (fun g => g.ip == ip && g.addr == addr)
  let wanted := (gs.filter (fun g => g.mode == 0)).flatMap Group.sources
  match gs.filter (fun g => g.mode != 0) with
  | [] => (0, wanted.dedup)
  | g :: t => (1, (g.sources.filter (fun a => t.all (fun h => h.sources.contains a) && !wanted.contains a)).dedup)

/-- One entry of each group of a list. -/
def firstOfEach : List Group → List Group
  | [] => []
  | g :: t => g :: (firstOfEach t).filter (fun h => h.ip != g.ip || h.addr != g.addr)

/-- A report of group g: joining with the filter in force, or leaving it. -/
def State.sendReport (s : State) (p : Nat) (g : Group) (leave : Bool) : State :=
  let f := s.groupFilter p g.ip g.addr
  let g := { g with mode := f.1, sources := f.2 }
  let mac := s.stationMac p
  let ty := if leave then 3 else if g.mode = 0 then 3 else 4
  let srcs := if leave then [] else g.sources
  if g.ip = 4 then
    let sum := fun (m : List Byte) => m.take 2 ++ be 2 (inetSum m) ++ m.drop 4
    if (s.psvc p).igmp = 3 then
      let m := [0x22, 0, 0, 0, 0, 0, 0, 1, BitVec.ofNat 8 ty, 0] ++ be 2 srcs.length ++ be 4 g.addr ++ srcs.flatMap (be 4)
      s.sendService p (igmpFrame mac (s.ip4 p) 0xE0000016 (sum m))
    else if leave then s.sendService p (igmpFrame mac (s.ip4 p) 0xE0000002 (sum ([0x17, 0, 0, 0] ++ be 4 g.addr)))
    else s.sendService p (igmpFrame mac (s.ip4 p) g.addr (sum ([0x16, 0, 0, 0] ++ be 4 g.addr)))
  else
    let src := s.linkLocal p
    if (s.psvc p).mld = 2 then
      s.sendService p (mldFrame mac src (0xFF02 * 2 ^ 112 + 0x16)
        ([143, 0, 0, 0, 0, 0, 0, 1, BitVec.ofNat 8 ty, 0] ++ be 2 srcs.length ++ be 16 g.addr ++ srcs.flatMap (be 16)))
    else if leave then
      s.sendService p (mldFrame mac src (0xFF02 * 2 ^ 112 + 2) ([132, 0, 0, 0, 0, 0, 0, 0] ++ be 16 g.addr))
    else s.sendService p (mldFrame mac src g.addr ([131, 0, 0, 0, 0, 0, 0, 0] ++ be 16 g.addr))

/-! ## Engine entries (R131) -/

/-- MAC address of filter entry e. -/
def State.entryMac (s : State) (p e : Nat) : Nat := s.get (PORT.MATCH_ADDR_HI p e) * 2 ^ 32 + s.get (PORT.MATCH_ADDR_LO p e)

def State.setEntry (s : State) (p e mac : Nat) (on : Bool) : State :=
  ((s.set (PORT.MATCH_ADDR_LO p e) mac).set (PORT.MATCH_ADDR_HI p e) (mac / 2 ^ 32)).setOn (PORT.MATCH_EN p e) on

/-- The engine entry a group needs is there already, or a free one exists. -/
def State.entryFor (s : State) (p mac : Nat) : Option Nat :=
  match (List.range 16).find? (fun e => s.on (PORT.MATCH_EN p e) && s.entryMac p e == mac) with
  | some e => some e
  | none => (List.range 16).find? (fun e => !(s.on (PORT.MATCH_EN p e)))

/-! ## Joining and leaving -/

/-- The entry that a user of a group holds: legs with different filters hold entries of their own (R166). -/
def Group.serves (g : Group) (ip addr reason mode : Nat) (sources : List Nat) : Bool :=
  g.ip == ip && g.addr == addr && g.reason == reason && (reason != 0 || (g.mode == mode && g.sources == sources))

/-- The filter of a group has changed since it was `old`, and is reported. -/
def State.reportChange (s : State) (p : Nat) (g : Group) (old : Nat × List Nat) : State :=
  if s.groupFilter p g.ip g.addr = old then s else s.sendReport p g false

/-- Join a group for a reason: its entry in the list, its filter entry for every reason but a stream leg, and the first
report; a second follows 1 s later. -/
def State.joinGroup (s : State) (p ip addr reason mode : Nat) (sources : List Nat) : State :=
  let x := s.psvc p
  let s := if reason = 0 then s else match s.entryFor p (groupMac ip addr) with
    | some e => s.setEntry p e (groupMac ip addr) true
    | none => s
  let old := s.groupFilter p ip addr
  match x.groups.find? (fun g => g.serves ip addr reason mode sources) with
  | some g =>
    let g' := { g with users := g.users + 1, sources := g.sources ++ sources.filter (fun a => !g.sources.contains a) }
    (s.setPsvc p { x with groups := x.groups.map (fun h => if h = g then g' else h) }).reportChange p g' old
  | none =>
    let g : Group := ⟨ip, addr, reason, mode, sources, 1, 1⟩
    (s.setPsvc p { x with groups := x.groups ++ [g] }).sendReport p g false

/-- An entry of the list loses a user: the last user's going removes it, and its filter entry where no other group needs that. The group is reported as
left when nothing holds it any more, and with its new filter where that has changed. -/
def State.dropGroup (s : State) (p : Nat) (g : Group) : State :=
  let x := s.psvc p
  if 1 < g.users then
    s.setPsvc p { x with groups := x.groups.map (fun h => if h = g then { g with users := g.users - 1 } else h) }
  else
    let old := s.groupFilter p g.ip g.addr
    let rest := x.groups.filter (fun h => h != g)
    let s := s.setPsvc p { x with groups := rest }
    let mac := groupMac g.ip g.addr
    let s := if rest.any (fun h => h.reason != 0 && groupMac h.ip h.addr == mac) then s
      else match (List.range 16).find? (fun e => s.on (PORT.MATCH_EN p e) && s.entryMac p e == mac) with
        | some e => if g.reason = 0 then s else s.setEntry p e 0 false
        | none => s
    if rest.any (fun h => h.ip == g.ip && h.addr == g.addr) then s.reportChange p g old else s.sendReport p g true

/-- Leave a group for a reason. -/
def State.leaveGroup (s : State) (p ip addr reason : Nat) : State :=
  match (s.psvc p).groups.find? (fun g => g.ip == ip && g.addr == addr && g.reason == reason) with
  | none => s
  | some g => s.dropGroup p g

/-- A leg with this filter leaves a group. -/
def State.legLeaves (s : State) (p ip addr mode : Nat) (sources : List Nat) : State :=
  match (s.psvc p).groups.find? (fun g => g.serves ip addr 0 mode sources) with
  | none => s
  | some g => s.dropGroup p g

/-- MEMBERSHIP_REPORT (R379): the next unsolicited report of a group falls due, 1 s after the last. -/
def execMembershipReport (p ip addr : Nat) (s : State) : Out :=
  let x := s.psvc p
  match x.groups.find? (fun g => g.ip == ip && g.addr == addr && decide (0 < g.left)) with
  | some g =>
    .next ((s.setPsvc p { x with groups := x.groups.map (fun h => if h = g then { g with left := g.left - 1 } else h) }).sendReport
      p g false)
  | none => .next s

end Sys2Proof.Machine
end

