-- ==== Sys2Proof/Machine/Store.lean ====
section
/-! DEFINITION. The deep store (chapter 06): banks, their failure, handover and release (R202 to R220), the ring pool (R206,
R209) and what the loss of a bank does to rings, staging and queues (R215, R218, R219). -/

namespace Sys2Proof.Machine

/-! ## Where data lies -/

/-- The (logical bank, line in the bank) pairs that bytes `off` to `off + len − 1` of a ring touch, in order. A page is 4 KiB,
64 lines; 1,024 pages make a bank (R203, R206). -/
def ringLines (pages : List Nat) (off len : Nat) : List (Nat × Nat) :=
  let first := off / 64
  (List.range ((off + len - 1) / 64 - first + 1)).map (fun i =>
    let line := first + i
    let page := nth pages (line / 64) 0
    (page / 1024, page % 1024 * 64 + line % 64))

/-- The lines of row `row` of a ring with `ch` channels (R209). -/
def Ring.rowLines (g : Ring) (ch row : Nat) : List (Nat × Nat) := ringLines g.pages (row * (5 + 5 * ch)) (5 + 5 * ch)

/-- Lines of logical bank j from line `c` on. -/
def inLoss (j c : Nat) (l : Nat × Nat) : Bool := l.1 == j && decide (c ≤ l.2)

/-- What a loss of bank j from line `c` on does to one row: a lost record reads EMPTY, and lost data fails its seal (R215). `keep`: the spare took the bank
in COPY, and what was written since the handover started is there (R218). -/
def lostCell (keep : Bool) (g : Ring) (ch j c : Nat) (x : Nat × RingRow) : Option (Nat × RingRow) :=
  if keep && x.2.mirrored then some x
  else
    let ls := g.rowLines ch x.1
    if (ls.take 1).any (inLoss j c) then none
    else if ls.any (inLoss j c) then some (x.1, { x.2 with bad := true })
    else some x

def RxRun.lose (s : State) (keep : Bool) (j c : Nat) (r : RxRun) : RxRun :=
  { r with ring := { r.ring with cells := r.ring.cells.filterMap (lostCell keep r.ring (s.get (RXE.CHANNELS r.stream)) j c) } }

/-- Record set x's buffers that `lost` names are lost: 4 × set for the block in progress, then those complete, oldest first. -/
def RecRun.lose (lost : Nat → Bool) (x : RecRun) : RecRun :=
  { x with lost := x.lost || lost (4 * x.set),
           full := x.full.zipIdx.map (fun b => { b.1 with lost := b.1.lost || lost (4 * x.set + 1 + b.2) }) }

/-- Playback set x's buffers that `lost` names are lost: 256 + 4 × set onward. -/
def PlayRun.lose (lost : Nat → Bool) (x : PlayRun) : PlayRun :=
  { x with blocks := x.blocks.zipIdx.map (fun b => { b.1 with bad := b.1.bad || lost (256 + 4 * x.set + b.2) }) }

/-- The host buffers lie in lines 0 to 49,151 of logical bank 7; where each set's lie is left open: a free value says which are lost
where only part of the bank is (R203, R219). -/
def State.loseBuffers (s : State) (c : Nat) : State :=
  let put := fun (s : State) (lost : Nat → Bool) =>
    ({ s with dma := { s.dma with rec' := s.dma.rec'.map (RecRun.lose lost), play := s.dma.play.map (PlayRun.lose lost) } } : State)
  if c = 0 then put s (fun _ => true)
  else if 49152 ≤ c then s
  else
    let (v, s) := s.fresh 512
    put s (fun i => v.testBit i)

/-- The loss of logical bank j from line `c` on, by region (R203, R219); rows written since period `since` are kept, and with `keep` every word written
since the handover started. Where a handover kept part of the queue spill, which entries lie in it is left open: a free value for each queue. -/
def State.loseBank (s : State) (keep : Bool) (j c since : Nat) : State :=
  if j < 6 then { s with strm := { s.strm with rx := s.strm.rx.map (RxRun.lose s keep j c) } }
  else if j = 6 then
    { s with anvil := { s.anvil with losses := s.anvil.losses ++ [⟨s.media, since, c⟩] } }
  else if !keep then { s.loseBuffers 0 with que := { s.que with queues := s.que.queues.map Queue.loseSpill } }
  else (List.range 11).foldl (fun s i =>
    let (v, s) := s.fresh 1
    if v = 1 then s.setQueue i (s.queue i).loseSpill else s) (s.loseBuffers (max c 1))

/-! ## Failure (R217, R218) -/

/-- The line the copier has reached: one every 4 CORE cycles (R216). -/
def State.copyLine (s : State) : Nat :=
  match s.que.handover with
  | some h => min ((s.cycles - h.start) / 4) 65536
  | none => s.get QUE.COPY_LINE

/-- Bring COPY_LINE up to date. -/
def State.showCopy (s : State) : State := s.set QUE.COPY_LINE (min s.copyLine 65535)

/-- The Temper set of the banks notes whether a handover is in progress. -/
def State.bankHandover (s : State) (on : Bool) : State :=
  let x := s.setRun 1
  (s.putSetRun 1 { x with handover := on }).setOn QUE.STATUS_HANDOVER on

/-- Rows no longer count as written since the handover. -/
def RxRun.unmirror (r : RxRun) : RxRun :=
  { r with ring := { r.ring with cells := r.ring.cells.map (fun x => (x.1, { x.2 with mirrored := false })) } }

/-- The handover ends, finished or abandoned. -/
def State.endHandover (s : State) : State :=
  let s := s.showCopy
  { s with strm := { s.strm with rx := s.strm.rx.map RxRun.unmirror },
           que := { s.que with handover := none } }.bankHandover false

/-- Bank u carries logical bank j. -/
def State.carry (s : State) (u j : Nat) : State :=
  ((s.set (QUE.BANK_ROLE u) 0).set (QUE.BANK_LBANK u) j).set (QUE.BANK_MAP j) u

/-- Lines of logical bank j from line `c` on that the rows of a ring written since the handover started touch. -/
def RxRun.writtenLines (s : State) (j c : Nat) (r : RxRun) : List Nat :=
  (r.ring.cells.filter (fun x => x.2.mirrored)).flatMap (fun x =>
    let ls := r.ring.rowLines (s.get (RXE.CHANNELS r.stream)) x.1
    ((if x.2.state = 2 then ls.take 1 else ls).filter (inLoss j c)).map Prod.snd)

/-- Lines of transmit staging written since period `since`, from line `c` on. -/
def State.stageLines (s : State) (c since : Nat) : List Nat :=
  (s.anvil.passes.filter (fun p => decide (since ≤ p))).flatMap (fun p => (List.range 32).flatMap (fun g =>
    let b := (256 * g + p % 256) * 324
    ((List.range ((b + 323) / 64 - b / 64 + 1)).map (fun i => b / 64 + i)).filter (fun l => decide (c ≤ l))))

/-- Lines of the bank in handover that were neither copied nor written since it started (R218, R232). Where the host buffers and the queues' entries lie in
bank 7 is left open: a free number. -/
def State.linesLost (s : State) (x : Handover) : Nat × State :=
  let c := s.copyLine
  if x.lbank = 7 then
    let (v, s) := s.fresh 17
    (v % (65536 - c + 1), s)
  else
    let written := if x.lbank = 6 then s.stageLines c (x.media + 1)
      else s.strm.rx.flatMap (RxRun.writtenLines s x.lbank c) ++ x.written.filter (fun l => decide (c ≤ l))
    (65536 - c - written.dedup.length, s)

/-- The working bank h fails: what becomes of its logical bank; the outcome and lines lost of event 0x0110 (R218). -/
def State.replaceBank (s : State) (h : Nat) : Nat × Nat × State :=
  let j := s.get (QUE.BANK_LBANK h)
  match s.que.handover with
  | some x =>
    if x.lbank = j then
      let (lost, s) := s.linesLost x
      (2, lost, ((s.loseBank true j s.copyLine (x.media + 1)).endHandover).carry x.dst j)
    else (0, 65536, ((s.loseBank false j 0 (s.media + 1)).endHandover).carry x.dst j)
  | none =>
    match s.spareOf 1 with
    | some u => (0, 65536, ((s.preempt 1 u 4).loseBank false j 0 (s.media + 1)).carry u j)
    | none => (1, 65536, ((s.loseBank false j 0 (s.media + 1)).set (QUE.BANK_MAP j) 0xF).setBit QUE.STATUS_ABSENT_MAP j true)

/-- Lines of logical bank j are written: a handover of that bank notes them (R216). -/
def State.noteLines (s : State) (ls : List (Nat × Nat)) : State :=
  match s.que.handover with
  | some x =>
    let x := { x with written := x.written ++ (ls.filter (fun l => l.1 == x.lbank)).map Prod.snd }
    { s with que := { s.que with handover := some x } }
  | none => s

/-- The lines of the write records of a ring. -/
def Ring.recordLines (g : Ring) (ch : Nat) : List (Nat × Nat) := (List.range g.rows).flatMap (fun r => (g.rowLines ch r).take 1)

/-- Physical bank h is declared failed (R217, R218). -/
def State.bankFail (s : State) (h cause : Nat) : State :=
  let role := s.get (QUE.BANK_ROLE h)
  if 8 < h ∨ role = 4 then s
  else
    let j := if role = 0 then s.get (QUE.BANK_LBANK h) else 0xFF
    let (outcome, lost, s) :=
      if role = 0 then s.replaceBank h
      else (3, 0, if role = 3 then s.endHandover else s.preempt 1 h 5)
    let s := ((s.set (QUE.BANK_ROLE h) 4).set (QUE.BANK_LBANK h) 0).count (QUE.BANK_FAULTS h)
    let s := (s.quarantine 1 h cause).set QUE.STATUS_SPARE_OK 0
    let s := ((s.set QUE.LASTF_CAUSE cause).set QUE.LASTF_LBANK j).set QUE.LASTF_BANK h
    let s := s.set QUE.FAULT_TIME s.shortTime
    let detail := [BitVec.ofNat 8 h, BitVec.ofNat 8 j, BitVec.ofNat 8 cause, BitVec.ofNat 8 outcome] ++ le 4 lost
    let s := s.faultEvent 0x0110 10 h detail
    (s.signal QUE.INT QUE.INT_EN QUE.INT_BANK_FAULT 0x0110 10 h detail).pauseCheck 1

/-- A read of bank h meets an uncorrectable error: it is counted, and UE_FAULT_N of them in 1 ms fail the bank (R202, R217). -/
def State.bankUe (s : State) (h : Nat) : State :=
  let s := s.count (QUE.BANK_UE h)
  let l := s.que.ueTimes.filter (fun x => decide (s.cycles < x.2 + 1000 * cyclesPerUs)) ++ [(h, s.cycles)]
  let s := { s with que := { s.que with ueTimes := l } }
  let n := s.get QUE.UE_FAULT_N
  if n ≠ 0 ∧ n ≤ (l.filter (fun x => x.1 == h)).length then s.bankFail h 1 else s

/-- A read of logical bank j meets an uncorrectable error. -/
def State.lbankUe (s : State) (j : Nat) : State :=
  if s.absent j then s else s.bankUe (s.get (QUE.BANK_MAP j))

/-- A read of the deep store meets corrected errors: one in each logical bank named, counted in the bank that carries it (R202). -/
def State.readCe (s : State) (ce : List Nat) : State :=
  ce.foldl (fun s j => if s.absent j || decide (7 < j) then s else s.count (QUE.BANK_CE (s.get (QUE.BANK_MAP j)))) s

/-- SPILL_REFILL (R226, R228): the group of 16 entries behind the head registers is read back; `ue`: the read meets an uncorrectable error, counted in the
bank of the spill region; `ce`: logical banks of corrected errors. -/
def execSpillRefill (q : Nat) (ue : Bool) (ce : List Nat) (s : State) : Out :=
  let s := s.readCe ce
  let qu := s.queue q
  let group := (qu.ready.drop 16).take 16
  if queueOk q && decide (32 < qu.ready.length) && (ue || group.any QEntry.lost) then
    let s := s.loseGroup q 16
    .next (if ue then s.lbankUe 7 else s)
  else .next s


/-! ## Events -/

/-- SCRUB_READ (R202, R205): one line of every working bank is read; `ce` and `ue` name a bank once for each error met. -/
def execScrubRead (ce ue : List Nat) (s : State) : Out :=
  if s.on QUE.SCRUB_EN then
    let ok := fun (s : State) (h : Nat) => decide (h < 9) && s.get (QUE.BANK_ROLE h) == 0
    let s := ce.foldl (fun s h => if ok s h then s.count (QUE.BANK_CE h) else s) s
    .next (ue.foldl (fun s h => if ok s h then s.bankUe h else s) s)
  else .next s

/-- BANK_WATCHDOG (R217, cause 2). -/
def execBankWatchdog (h : Nat) (s : State) : Out := .next (s.bankFail h 2)

/-- BANK_FAILURE (R217, R218): a bank is found failed on one of the causes. -/
def execBankFailure (h cause : Nat) (s : State) : Out :=
  .next (if 1 ≤ cause ∧ cause ≤ 4 then s.bankFail h cause else s)

/-- The handover of working bank h to the spare starts (R216). -/
def State.startHandover (s : State) (h : Nat) : State :=
  match s.spareOf 1, s.que.handover with
  | some u, none =>
    if h < 9 ∧ s.role 1 h = 0 ∧ s.role 1 u = 1 then
      let s := (s.set (QUE.BANK_ROLE u) 3).set QUE.COPY_LINE 0
      let x : Handover := ⟨h, u, s.get (QUE.BANK_LBANK h), s.cycles, s.media, []⟩
      { s with que := { s.que with handover := some x } }.bankHandover true
    else s
  | _, _ => s

/-- BANK_HANDOVER (R216). -/
def execBankHandover (h : Nat) (s : State) : Out := .next (s.startHandover h)

/-- The rows of a ring in the lines of bank j that the copier wrote with uncorrectable check bits; what traffic has written since the handover started is
not copied (R216). -/
def RxRun.markUe (s : State) (j : Nat) (lines : List Nat) (r : RxRun) : RxRun :=
  { r with ring := { r.ring with cells := r.ring.cells.map (fun x =>
      let hit := ((r.ring.rowLines (s.get (RXE.CHANNELS r.stream)) x.1).zipIdx.filter (fun l =>
        l.1.1 == j && lines.contains l.1.2)).map Prod.snd
      if x.2.mirrored then x else (x.1, { x.2 with ue := (x.2.ue ++ hit).dedup })) } }

/-- Rows (group, period) of transmit staging that lie in the given lines, of periods up to `last`. -/
def State.stageIn (s : State) (lines : List Nat) (last : Nat) : List (Nat × Nat) :=
  (s.anvil.passes.filter (fun p => decide (p ≤ last))).flatMap (fun p => ((List.range 32).filter (fun g =>
    let b := (256 * g + p % 256) * 324
    lines.any (fun l => decide (b / 64 ≤ l ∧ l ≤ (b + 323) / 64)))).map (fun g => (g, p)))

/-- Words of the lines `lines` of the bank in handover go to the spare with check bits that decode as uncorrectable (R216). In bank 7 which buffers
and entries lie in them is left open: free values, as for lost lines. -/
def State.copyUe (s : State) (x : Handover) (lines : List Nat) : State :=
  if lines.isEmpty then s
  else if x.lbank < 6 then { s with strm := { s.strm with rx := s.strm.rx.map (RxRun.markUe s x.lbank lines) } }
  else if x.lbank = 6 then { s with anvil := { s.anvil with rowUe := (s.anvil.rowUe ++ s.stageIn lines x.media).dedup } }
  else s.loseBank true 7 (max 1 (lines.foldl min 65535)) 0

/-- BANK_HANDOVER_DONE (R216): the last line is valid and the map switches. `ue`: the lines in which the copier met an uncorrectable error in the working
bank; each is counted, carried to the spare, and may fail the bank. `ce`: corrected errors it met. -/
def execBankHandoverDone (ue : List Nat) (ce : Nat) (s : State) : Out :=
  match s.que.handover with
  | none => .next s
  | some x =>
    let s := (s.countBy (QUE.BANK_CE x.src) ce).copyUe x ue
    let s := ue.foldl (fun s _ => s.bankUe x.src) s
    match s.que.handover with
    | some y =>
      if y.src = x.src ∧ y.dst = x.dst then
        let s := { s with que := { s.que with handover := some { y with start := s.cycles - 4 * 65536 } } }.endHandover
        .next ((((s.carry x.dst x.lbank).set (QUE.BANK_ROLE x.src) 1).set (QUE.BANK_LBANK x.src) 0).vacated 1 x.src)
      else .next s
    | none => .next s

/-! ## Commands (R233) -/

/-- DS_STATUS_GET. -/
def execDsStatusGet (r : Req) (p : List Tlv) (s : State) : Out :=
  runCmd 0x0120 [] (fun _ s =>
    let s := s.showCopy
    let w := fun off => le 4 (s.word QUE.fields (0x100000 + off))
    (Reply.ok (w 4 ++ w 0x10 ++ w 0x14 ++ w 0x20 ++ w 0x30 ++ w 0x34 ++ (List.range 9).flatMap (fun h =>
      w (0x40 + 4 * h) ++ w (0x80 + 4 * h) ++ w (0xC0 + 4 * h) ++ w (0x100 + 4 * h))), s)) r p s

/-- BANK_QUARANTINE (R217, cause 4). -/
def execBankQuarantine (r : Req) (p : List Tlv) (s : State) : Out :=
  runCmd 0x0121 [preq 1 1 0 8] (fun p s =>
    let h := Params.val p 1
    if s.role 1 h = 4 then (Reply.err Status.notInState, s) else (Reply.ok [], s.bankFail h 4)) r p s

/-- The release of bank h (R220): refused where it may not be; otherwise SPARE, or carrying the lowest absent bank. -/
def State.bankRelease (s : State) (h : Nat) : Reply × State :=
  if s.role 1 h ≠ 4 ∨ !s.inService ∨ !s.passedSinceQ 1 h then (Reply.err Status.notInState, s)
  else
    match (List.range 8).find? s.absent with
    | some j =>
      let s := ((s.unquarantine 1 h).carry h j).setBit QUE.STATUS_ABSENT_MAP j false
      let s := s.loseBank false j 0 (s.media + 1)
      (Reply.ok [], s.signal QUE.INT QUE.INT_EN QUE.INT_BANK_RELEASED 0x0111 10 h [0, BitVec.ofNat 8 j])
    | none =>
      if (s.spareOf 1).isSome ∨ s.que.handover.isSome then (Reply.err Status.noResource, s)
      else
        let s := ((s.unquarantine 1 h).set (QUE.BANK_ROLE h) 1).set QUE.STATUS_SPARE_OK 1
        (Reply.ok [], (s.signal QUE.INT QUE.INT_EN QUE.INT_BANK_RELEASED 0x0111 10 h [1, 0xFF]).pauseCheck 1)

/-- BANK_RELEASE. -/
def execBankRelease (r : Req) (p : List Tlv) (s : State) : Out :=
  runCmd 0x0122 [preq 1 1 0 8] (fun p s => s.bankRelease (Params.val p 1)) r p s

/-! ## The ring pool (R206) -/

/-- The run of an enabled receive stream. -/
def State.rxRun (s : State) (i : Nat) : Option RxRun := s.strm.rx.find? (fun r => r.stream == i && !r.closing)

/-- Pages that no ring holds, lowest first. -/
def State.freePages (s : State) : List Nat :=
  let used := s.strm.rx.flatMap (fun r => r.ring.pages)
  (List.range 6144).filter (fun p => !used.contains p)

/-- POOL_FREE follows the rings. -/
def State.poolFree (s : State) : State :=
  s.set QUE.POOL_FREE (6144 - (s.strm.rx.map (fun r => r.ring.pages.length)).sum)

/-- RING_INFO_GET. -/
def execRingInfoGet (r : Req) (p : List Tlv) (s : State) : Out :=
  runCmd 0x0126 [preq 1 2 0 511] (fun p s =>
    match s.rxRun (Params.val p 1) with
    | some x => (Reply.ok (le 4 x.ring.len ++ le 4 x.ring.rows ++ le 2 x.ring.pages.length ++ le 2 (s.get QUE.POOL_FREE)), s)
    | none => (Reply.err Status.notInState, s)) r p s

/-- A ring's pages return to the pool: what was written in them since a handover started stays written (R216). -/
def State.noteRing (s : State) (r : RxRun) : State :=
  match s.que.handover with
  | some x => s.noteLines ((RxRun.writtenLines s x.lbank 0 r).map (fun l => (x.lbank, l)))
  | none => s

/-- RING_PAGES_FREE (R206): the last packet of a disabled stream has committed, and its pages return to the pool. -/
def execRingPagesFree (i : Nat) (s : State) : Out :=
  let gone := fun (r : RxRun) => r.stream == i && r.closing
  if s.strm.flights.any (fun f => f.dir == 0 && f.stream == i && (f.seq == 1 || (s.rxRun i).isNone)) then .next s
  else
    let s := (s.strm.rx.filter gone).foldl State.noteRing s
    .next { s with strm := { s.strm with rx := s.strm.rx.filter (fun r => !gone r) } }.poolFree

end Sys2Proof.Machine
end

