-- ==== Sys2Proof/Machine/Media.lean ====
section
/-! DEFINITION. What a change of the master time does to the rest of the block: jumps (R564, R65, R116) and MEDIA_VALID
(R74, R161). -/

namespace Sys2Proof.Machine

/-- Packets and frames built for a launch before a jump are discarded, uncounted, since none is launched across it (R564); packets received before it and
not yet placed are counted as CLASSIFY counts them (DESIGN CHOICE, assumption 97). -/
def State.flushMedia (s : State) : State :=
  let n := (s.strm.flights.filter (fun f => f.dir == 0)).length
  let s : State := { s with strm := { s.strm with flights := [] }, ports := s.ports.map (fun (x : PortState) => { x with stream := [] }) }
  s.countBy STRM.NOT_VALID_DROP n

/-- The write records of every enabled receive stream become EMPTY and PLACED_ONCE is cleared (R564). -/
def State.mediaJump (s : State) : State :=
  let s := s.flushMedia
  let streams := s.strm.rx.map RxRun.stream
  let s := (s.strm.rx.filter (fun r => !r.closing)).foldl (fun s r =>
    (s.noteRing r).noteLines (r.ring.recordLines (s.get (RXE.CHANNELS r.stream)))) s
  let s := { s with strm := { s.strm with
    rx := s.strm.rx.map (fun r => if r.closing then r else { r with ring := { r.ring with cells := [] }, maxB := none }) } }
  streams.foldl (fun s i => if s.on (RXE.ENABLE i) then s.set (RXE.PLACED_ONCE i) 0 else s) s

/-- Every enabled transmit stream starts as if it had just been enabled (R161). -/
def State.txAfresh (s : State) : State :=
  { s with strm := { s.strm with tx := s.strm.tx.map (fun r => { r with nextM := none, applied := s.nowNs }) } }

/-- MEDIA_VALID becomes 1 (R74, R161). -/
def State.mediaValid (s : State) : State :=
  if s.on TIME.STATUS_MEDIA_VALID then s else (s.set TIME.STATUS_MEDIA_VALID 1).txAfresh

/-- One output is misaligned by a step (R116). -/
def State.misalign (step : Int) (s : State) (n : Nat) : State :=
  (s.setBit CLK.OUT_MISALIGNED n true).signal CLK.INT CLK.INT_EN CLK.INT_MISALIGN 0x0308 8 n (leI 8 step)

/-- The outputs a step of the counter misaligns: PPS_OUT and each enabled WCLK_OUT of DPLL0 (R116). -/
def State.misalignAll (s : State) (step : Int) : State :=
  ((List.range 4).filter (fun n => s.on (CLK.WCLK_EN n) && s.get (CLK.WCLK_SRC n) == 0) ++ [4]).foldl
    (State.misalign step) s

/-- A port forgets every stamp and delay pair captured before a step (R65). -/
def PtpPort.forget (p : PtpPort) : PtpPort := { p with syncs := [], dreqs := [], pair := none }

/-- Put a PTP instance's state. -/
def State.setPtp (s : State) (p : Nat) (x : PtpPort) : State :=
  { s with time := { s.time with ports := s.time.ports.setIfInBounds p x } }

def State.ptp (s : State) (p : Nat) : PtpPort := unitAt s.time.ports p PtpPort.reset

/-- Discard what a port captured before a step, counting the waiting Syncs. -/
def State.forgetStamps (s : State) (p : Nat) : State :=
  let x := s.ptp p
  (s.countBy (TIME.PORT_EXCH_DISCARD p) x.syncs.length).setPtp p x.forget

/-- The counter's range: 48-bit seconds. -/
def ctrRange : Nat := 2 ^ 48 * ctrPerSec

/-- Step the counter by `delta` units of 2^−32 ns in one cycle (R74, R564): pairs and waiting Syncs end, rings empty,
outputs keep their cadence and are misaligned (R116), and event 0x0203 gives the step in ns (its floor). -/
def State.stepCtr (s : State) (delta : Int) : State :=
  let s := { s with ctr := ((((s.ctr : Nat) : Int) + delta) % ((ctrRange : Nat) : Int)).toNat }
  let s := ((s.forgetStamps 0).forgetStamps 1)
  let s := { s with time := { s.time with runMonitor := 0 }, clk := { s.clk with outEdge := s.clk.outEdge.map (fun (e : Int) => e + delta) } }
  let ns := delta / ((2 ^ 32 : Nat) : Int)
  let s := s.mediaJump.signal TIME.INT TIME.INT_EN TIME.INT_STEPPED 0x0203 7 2 (leI 8 ns)
  s.misalignAll ns

end Sys2Proof.Machine
end

