-- ==== Sys2Proof/Machine/TdmPins.lean ====
section
/-! DEFINITION. Serial audio ports: frame formats (R293, R294), what the four pins of a port carry (R293, R297, R299, R312), and the
seals of its frames (R242). -/

namespace Sys2Proof.Machine

/-! ## Formats -/

/-- k of group g (R294); RATE 3 is an error of its own (R321). -/
def State.tdmK (s : State) (g : Nat) : Nat := 2 ^ (s.get (TDM.G_RATE g) % 3)

/-- Slots of port p: 2 in the I2S and left-justified formats (R293). -/
def State.tdmSlots (s : State) (p : Nat) : Nat := if s.get (TDM.P_FORMAT p) < 2 then 2 else s.get (TDM.P_SLOTS p)

/-- Bits of a WL or SW code. -/
def tdmBits (c : Nat) : Nat := if c = 0 then 16 else if c = 1 then 24 else 32

def State.tdmWl (s : State) (p : Nat) : Nat := tdmBits (s.get (TDM.P_WL p))
def State.tdmSw (s : State) (p : Nat) : Nat := tdmBits (s.get (TDM.P_SW p))

/-- Bit clocks in a frame of port p (R293). -/
def State.tdmBpf (s : State) (p : Nat) : Nat := s.tdmSlots p * s.tdmSw p

/-- The lead port of group g. -/
def State.tdmLead (s : State) (g : Nat) : Nat := 8 * g + s.get (TDM.G_LEAD g)

/-! ## Ports -/

def State.tdmPort (s : State) (p : Nat) : TdmPort := unitAt s.tdm.ports p TdmPort.reset
def State.setTdmPort (s : State) (p : Nat) (x : TdmPort) : State :=
  { s with tdm := { s.tdm with ports := s.tdm.ports.setIfInBounds p x } }
def State.tdmGroup (s : State) (g : Nat) : TdmGroup := unitAt s.tdm.groups g TdmGroup.reset
def State.setTdmGroup (s : State) (g : Nat) (x : TdmGroup) : State :=
  { s with tdm := { s.tdm with groups := s.tdm.groups.setIfInBounds g x } }

/-! ## SDO, slot by slot (R308, R310, R312) -/

/-- SDO of the frame now on the pins; the empty list where every slot is at high impedance. -/
def State.sdoOf (s : State) (p : Nat) (x : TdmPort) : List (Option Int) :=
  if !s.mayDrive then []
  else (List.range (s.tdmSlots p)).map (fun i =>
    if s.bit (TDM.P_TX_MASK_NOW p) i then
      some (if (nth x.outG i ⟨false, none⟩).opened then nth (x.curOut.getD []) i 0 else 0)
    else if s.on (TDM.P_TX_IDLE p) then none else some 0)

/-- SDO of a halted port (R312): low, or at high impedance where TX_IDLE says so or the unit may not drive. -/
def State.tdmHaltedPins (s : State) (p : Nat) : List (Option Int) :=
  if s.on (TDM.P_TX_IDLE p) || !s.mayDrive then [] else List.replicate (s.tdmSlots p) (some 0)

/-- SDO of port p as its state has it. -/
def State.sdoNow (s : State) (p : Nat) (x : TdmPort) : List (Option Int) :=
  match s.get (TDM.P_STATE p) with
  | 0 => []
  | 4 => s.tdmHaltedPins p
  | _ => s.sdoOf p x

/-- SDO of every port follows whether the unit may drive (R312, R450). -/
def State.tdmDrive (s : State) : State :=
  (List.range 32).foldl (fun s p => s.setTdmPort p { s.tdmPort p with sdo := s.sdoNow p (s.tdmPort p) }) s

/-! ## The pins, bit clock by bit clock (R293, R297) -/

/-- Bit clocks from the active edge of FSYNC to the first data bit of slot 0. -/
def State.tdmDelay (s : State) (p : Nat) : Nat :=
  match s.get (TDM.P_FORMAT p) with
  | 0 => 1
  | 1 => 0
  | _ => s.get (TDM.P_DELAY p)

/-- The bits of a slot of SDO: the sample most significant bit first, then zeros up to SW. -/
def slotLevels (w sw : Nat) (v : Option Int) : List (Option Bool) :=
  match v with
  | none => List.replicate sw none
  | some v => (List.range sw).map (fun b => some (decide (b < w) && (ofSigned w v).testBit (w - 1 - b)))

/-- The data bits of the frame on SDO, in order. -/
def State.frameLevels (s : State) (p : Nat) (x : TdmPort) : List (Option Bool) :=
  x.sdo.flatMap (slotLevels (s.tdmWl p) (s.tdmSw p))

/-- SDO in bit clock j of the frame now on the pins: none at high impedance. With a DELAY of 1 the frame before sends its last bit in bit clock 0. -/
def State.sdoAt (s : State) (p j : Nat) : Option Bool :=
  let x := s.tdmPort p
  if j < s.tdmDelay p then x.tail else nth (s.frameLevels p x) (j - s.tdmDelay p) none

/-- The sample in a slot's SW bits as SDI carries them, the first the most significant: its first WL bits (R293, R45). -/
def State.sdiSample (s : State) (p word : Nat) : Int :=
  let (w, sw) := (s.tdmWl p, s.tdmSw p)
  toSigned w (word % 2 ^ sw / 2 ^ (sw - w))

/-- FSYNC in bit clock j of a frame of port p. -/
def State.fsyncAt (s : State) (p j : Nat) : Bool :=
  let (sw, bpf) := (s.tdmSw p, s.tdmBpf p)
  let level := match s.get (TDM.P_FORMAT p), s.get (TDM.P_FS_WIDTH p) with
    | 0, _ => decide (sw ≤ j)
    | 1, _ => decide (j < sw)
    | _, 1 => decide (j < sw)
    | _, 2 => decide (j < bpf / 2)
    | _, _ => j == 0
  level != s.on (TDM.P_FSYNC_POL p)

/-- The MEDIA cycle of a frame of `n` cycles at which bit clock j starts (R297). -/
def bitStart (n bpf j : Nat) : Nat := j * n / bpf

/-- BCLK of a MASTER group's port in MEDIA cycle c of its frame (R297). With BCLK_POL 1 the edges are exchanged. -/
def State.bclkAt (s : State) (p c : Nat) : Bool :=
  let (n, bpf) := (2048 / s.tdmK (p / 8), s.tdmBpf p)
  let j := ((c + 1) * bpf - 1) / n
  let start := bitStart n bpf j
  decide ((bitStart n bpf (j + 1) - start) / 2 ≤ c - start) != s.on (TDM.P_BCLK_POL p)

/-- What BCLK and FSYNC of a port are: at high impedance, the lead's input, an input that is ignored, copies of the lead's,
driven with the port's own frame, or driven low (R299, R312). -/
inductive ClkPins where
  | highZ
  | input
  | ignored
  | echo
  | driven
  | low
deriving DecidableEq, Repr

def State.tdmClkPins (s : State) (p : Nat) : ClkPins :=
  let g := p / 8
  if s.get (TDM.P_STATE p) = 0 then .highZ
  else if 2 ≤ s.get (TDM.G_MODE g) ∧ p = s.tdmLead g then .input
  else if 2 ≤ s.get (TDM.G_MODE g) ∧ !s.on (TDM.G_ECHO g) then .ignored
  else if !s.mayDrive then .highZ
  else if 2 ≤ s.get (TDM.G_MODE g) then .echo
  else if s.get (TDM.P_STATE p) = 4 then .low
  else .driven

/-! ## Seals of frames (R242) -/

/-- The seal of a frame of port p: kind 5 input, 6 output; `f` its number. Every slot lies in 4 bytes, little-endian (PRESUMED, assumption 119). -/
def frameSeal (kind p f w : Nat) (codes : List Int) : Nat :=
  sealOf (sealKey kind p f) (codes.flatMap (fun v => le 4 (ofSigned w v)))

end Sys2Proof.Machine
end

