-- ==== Sys2Proof/Machine/TdmClock.lean ====
section
/-! DEFINITION. Serial audio ports: CFG_ERR (R293 to R296), the group converter's states and channels (R304, R305),
and the loss and return of a group's clock (R314). -/

namespace Sys2Proof.Machine

/-! ## Formats -/

/-- Base rate of group g: its own FAMILY in FOLLOW_ASYNC, that of DPLL0 otherwise (R8, R296). -/
def State.tdmBase (s : State) (g : Nat) : Nat :=
  if s.get (TDM.G_MODE g) = 3 then (if s.on (TDM.G_FAMILY g) then 44100 else 48000) else s.base

def State.tdmFollows (s : State) (g : Nat) : Bool := decide (2 ≤ s.get (TDM.G_MODE g))

/-- Group g uses its converter (R296). -/
def State.tdmConverts (s : State) (g : Nat) : Bool :=
  s.get (TDM.G_MODE g) == 3 || (s.get (TDM.G_MODE g) == 1 && s.get (TDM.G_CLK_SRC g) != 0)

/-- CFG_ERR of port p (R294, R296, R321, R322). -/
def State.tdmCfgErr (s : State) (p : Nat) : Bool :=
  let g := p / 8
  let k := s.tdmK g
  let n := s.tdmSlots p
  let m := s.get (TDM.G_MODE g)
  let src := s.get (TDM.G_CLK_SRC g)
  decide (s.get (TDM.G_RATE g) = 3 ∨ s.get (TDM.P_WL p) = 3 ∨ s.get (TDM.P_SW p) = 3 ∨ n < 2 ∨ 32 < n ∨
    s.get (TDM.P_SW p) < s.get (TDM.P_WL p) ∨ 32 / k < n) ||
  (m == 1 && (decide (1024 < s.tdmBpf p * k) ||
    (src != 0 && (!s.on (CLK.DPLL_ENABLE src) || s.get (CLK.DPLL_FAMILY src) != s.get (CLK.DPLL_FAMILY 0))))) ||
  (s.tdmFollows g && (decide (50000000 < s.tdmBpf p * k * s.tdmBase g) || s.tdmBpf p != s.tdmBpf (s.tdmLead g)))

/-- Channels of a port with these masks: bits below SLOTS. -/
def State.tdmChans (s : State) (p rx tx : Nat) : Nat :=
  let n := s.tdmSlots p
  ((List.range n).filter (fun i => rx.testBit i)).length + ((List.range n).filter (fun i => tx.testBit i)).length

/-- Channels of group g by the masks last written, in force or waiting, of the ports that are not DISABLED: what a start or a mask change adds to (R304).
Ports of a group share their frames, so an earlier write is in force by the time a later one is. -/
def State.tdmGroupAsked (s : State) (g : Nat) : Nat :=
  (((List.range 8).filter (fun i => s.get (TDM.P_STATE (8 * g + i)) != 0)).map (fun i =>
    s.tdmChans (8 * g + i) (s.get (TDM.P_RX_MASK (8 * g + i))) (s.get (TDM.P_TX_MASK (8 * g + i))))).sum

/-- Channels of group g's running ports by the masks in force (R304). -/
def State.tdmGroupChans (s : State) (g : Nat) : Nat :=
  if s.tdmConverts g then
    (((List.range 8).filter (fun i => s.get (TDM.P_STATE (8 * g + i)) != 0)).map (fun i =>
      s.tdmChans (8 * g + i) (s.get (TDM.P_RX_MASK_NOW (8 * g + i))) (s.get (TDM.P_TX_MASK_NOW (8 * g + i))))).sum
  else 0

/-- CFG_ERR of every port and ASRC_CH of every group follow what they are made of. -/
def State.tdmStatus (s : State) : State :=
  let s := (List.range 32).foldl (fun s p => s.setOn (TDM.P_CFG_ERR p) (s.tdmCfgErr p)) s
  (List.range 4).foldl (fun s g => s.set (TDM.G_ASRC_CH g) (s.tdmGroupChans g)) s

/-! ## Ports -/

/-- Events 0x0703, 0x0704 and 0x0706 keep the hold-off of R317. -/
def State.tdmHeld (s : State) (bit code unit : Nat) (detail : List Byte) : State :=
  s.signalHeld TDM.INT TDM.INT_EN bit code 12 unit (s.get TDM.CTRL_EVT_HOLDOFF * 1000 * cyclesPerUs) detail

/-- A change of STATE (R307): INT.PORT_STATE and event 0x0707. -/
def State.tdmState (s : State) (p st : Nat) : State :=
  let old := s.get (TDM.P_STATE p)
  if old = st then s
  else
    let s := (s.set (TDM.P_STATE p) st).setBit TDM.RUNNING p (st == 2)
    s.signal TDM.INT TDM.INT_EN TDM.INT_PORT_STATE 0x0707 12 p [BitVec.ofNat 8 old, BitVec.ofNat 8 st]

def Gate.halt (g : Gate) : Gate := { g with change := none }

/-- A port halts with its group's clock (R307, R314): waiting gate changes are dropped, its input frames are no longer used. -/
def State.tdmHalt (s : State) (p : Nat) : State :=
  let st := s.get (TDM.P_STATE p)
  if st = 0 ∨ st = 4 then s
  else
    let x := s.tdmPort p
    let s := if st = 3 then s.tdmState p 0 else (s.tdmState p 4).count (TDM.P_HALTS p)
    let s := (s.set (TDM.P_ZC_WAIT p) 0).setTdmPort p { x with
      outG := x.outG.map Gate.halt, inG := x.inG.map Gate.halt, last := false, sdo := s.sdoNow p x }
    { s with tdm := { s.tdm with ins := s.tdm.ins.filter (fun f => f.port != p) } }

/-- Port p has entered STARTING: every gate is closed until its first frame (R307). -/
def State.tdmEnter (s : State) (p : Nat) : State :=
  let shut := List.replicate 32 (⟨false, none⟩ : Gate)
  let x := { s.tdmPort p with
    run := true, since := s.cycles, last := false, outG := shut, inG := shut, curOut := none, curIn := none, tail := none }
  s.setTdmPort p { x with sdo := s.sdoNow p x }

/-- Replies of TDM_START and TDM_STOP (R318). -/
def State.tdmWaits (s : State) : State :=
  let st := fun (s0 : State) (w : Wait) (p : Nat) =>
    let x := s0.get (TDM.P_STATE p)
    if w.kind = 0 then (if x = 2 ∨ x = 4 then some 0 else none) else if x = 0 then some 0 else none
  s.settleWaits [0, 1] (st s) (fun _ => [])

/-- A halted port's group clock is back (R307). -/
def State.tdmRestart (s : State) (p : Nat) : State :=
  if s.get (TDM.P_STATE p) = 4 ∧ s.on (TDM.P_PORT_EN p) ∧ !s.tdmCfgErr p then
    (s.tdmState p 1).tdmEnter p
  else s

/-! ## The group clock -/

/-- The group's clock is available (R305, R307). -/
def State.tdmAvail (s : State) (g : Nat) : Bool :=
  if s.get (TDM.G_MODE g) = 1 then s.on CLK.XO_OK && (s.get (TDM.G_CLK_SRC g) == 0 || s.on (CLK.DPLL_ENABLE (s.get (TDM.G_CLK_SRC g))))
  else s.get (TDM.G_CLK_STATE g) == 3

/-- A change of ASRC_STATE that R305 reports. -/
def State.asrcState (s : State) (g st : Nat) : State :=
  let old := s.get (TDM.G_ASRC_STATE g)
  (s.set (TDM.G_ASRC_STATE g) st).signal TDM.INT TDM.INT_EN TDM.INT_ASRC 0x0705 12 g
    ([BitVec.ofNat 8 old, BitVec.ofNat 8 st, 0, 0] ++ le 4 (s.get (TDM.G_RATIO g)))

/-- ACQUIRE or LOCKED is left for UNLOCKED. -/
def State.asrcUnlock (s : State) (g : Nat) : State :=
  if 2 ≤ s.get (TDM.G_ASRC_STATE g) then (s.count (TDM.G_ASRC_UNLOCK g)).asrcState g 1 else s

/-- The moves of R305 that follow the configuration and the clock at once: OFF, UNLOCKED, ACQUIRE. A group set to another clock, one it does not have,
has lost its clock. -/
def State.asrcFollow (s : State) (g : Nat) : State :=
  if !s.tdmConverts g then s.set (TDM.G_ASRC_STATE g) 0
  else
    let s := if s.get (TDM.G_ASRC_STATE g) = 0 then s.set (TDM.G_ASRC_STATE g) 1 else s
    if !s.tdmAvail g then s.asrcUnlock g
    else if s.get (TDM.G_ASRC_STATE g) = 1 then s.set (TDM.G_ASRC_STATE g) 2 else s

/-- The ports of group g. -/
def groupPorts (g : Nat) : List Nat := (List.range 8).map (fun i => 8 * g + i)

/-- Group g has lost its clock (R314): causes 0 no BCLK, 1 no FSYNC, 2 invalid frames, 3 rate, 4 media clock stopped. -/
def State.tdmClockLost (s : State) (g cause : Nat) : State :=
  let s := (groupPorts g).foldl State.tdmHalt s
  let s := (s.count (TDM.G_CLK_LOSS g)).signal TDM.INT TDM.INT_EN TDM.INT_CLK_LOST 0x0701 12 g [BitVec.ofNat 8 cause]
  (s.asrcUnlock g).tdmWaits.tdmStatus

/-- Group g has its clock again, if it has it. -/
def State.tdmClockBack (s : State) (g : Nat) : State :=
  if s.tdmAvail g then ((groupPorts g).foldl State.tdmRestart s).asrcFollow g else s

/-- MASTER groups whose clock comes from DPLL d. -/
def State.mastersOf (s : State) (d : Nat) : List Nat :=
  (List.range 4).filter (fun g => s.get (TDM.G_MODE g) == 1 && s.get (TDM.G_CLK_SRC g) == d)

/-- MEDIAd, which runs, stops: the MASTER groups on it lose their clock (R314). -/
def State.mediaStops (s : State) (d : Nat) : State :=
  ((s.mastersOf d).filter (fun g => s.tdmAvail g)).foldl (fun s g => s.tdmClockLost g 4) s

/-- MEDIAd runs again. -/
def State.mediaRuns (s : State) (d : Nat) : State := ((s.mastersOf d).foldl State.tdmClockBack s).tdmStatus

end Sys2Proof.Machine
end

