-- ==== Sys2Proof/Machine/Time.lean ====
section
/-! DEFINITION. Network time (chapter 02): the PTP instances, offset and delay, the servo and its state machine, path changes,
and setting the time. Stamps are in 2^−16 ns, offsets and delays exact in 2^−17 ns. -/

namespace Sys2Proof.Machine

/-! ## Rates and registers -/

/-- Nominal INCR (R66). -/
def incrNom : Nat := 0x140000000

/-- Division rounded to the nearest integer, halves away from zero. -/
def divRound (a : Int) (b : Nat) : Int :=
  if 0 ≤ a then (2 * a + b) / (2 * (b : Int)) else -((2 * (-a) + b) / (2 * (b : Int)))

/-- Put INCR in force; FREQ_ADJ reports its rate in ppt (R66). While XO_IN is lost the counter keeps its last INCR (R89). -/
def State.setIncr (s : State) (v : Int) : State :=
  if s.on CLK.XO_OK then
    let n := (clampInt 0 (2 ^ 36 - 1) v).toNat
    let s := { s with time := { s.time with incr := n } }
    let s := (s.set TIME.INCR_LO (n % 2 ^ 32)).set TIME.INCR_HI (n / 2 ^ 32)
    s.seti TIME.FREQ_ADJ (divRound (((n : Int) - incrNom) * 1000000000000) incrNom)
  else s

/-- log2 of the nominal Sync interval of port p. -/
def State.logSync (s : State) (p : Nat) : Int := s.geti (TIME.PORT_LOG_SYNC p)

/-- A quantity in 2^−33 ns divided by T = 2^ls seconds, in units of 1 ÷ (1000 × 2^34) ns per second (R72). -/
def perT (x : Int) (ls : Int) : Int :=
  if ls ≤ 1 then x * 2 ^ (1 - ls).toNat * 1000 else x * 1000 / 2 ^ (ls - 1).toNat

/-- INCR for a correction y in those units (R72). -/
def incrOf (y : Int) : Int := (incrNom : Int) + divRound y 3200000000000

/-- y held at its integral part (R75). -/
def State.holdY (s : State) : State :=
  s.setIncr (incrOf (-(perT s.time.integral (s.logSync (s.get TIME.STATUS_ACTIVE_PORT)))))

/-- I preloaded so that y equals the counter's present rate (R75): I = −y × T, exact in 2^−33 ns. -/
def State.preloadI (s : State) : State :=
  let ls := s.logSync (s.get TIME.STATUS_ACTIVE_PORT)
  let d := ((s.time.incr : Nat) : Int) - incrNom
  let i := if -7 ≤ ls then -(d * (12500000 * 2 ^ (ls + 7).toNat)) else -(d * 12500000 / 2 ^ (-(ls + 7)).toNat)
  { s with time := { s.time with integral := i } }

/-- Units of 2^−17 ns in a nanosecond. -/
def ns17 : Int := 131072

/-- |θ| ≤ the threshold in ns. -/
def within (th : Int) (ns : Nat) : Bool := decide (th ≤ ns * ns17) && decide (-(ns * ns17) ≤ th)

/-- A threshold of which 0 is treated as 1. -/
def atLeast1 (n : Nat) : Nat := if n = 0 then 1 else n

/-! ## The servo's state machine (R75) -/

/-- Four Sync intervals of port p, in CORE cycles. -/
def State.fourSyncs (s : State) (p : Nat) : Nat :=
  let ls := s.logSync p
  if 0 ≤ ls then 3200000000 * 2 ^ ls.toNat else 3200000000 / 2 ^ (-ls).toNat

/-- A port in UNCALIBRATED or SLAVE with a valid exchange in the last four Sync intervals. -/
def State.alive (s : State) (p : Nat) : Bool :=
  (s.get (TIME.PORT_STATE p) == 8 || s.get (TIME.PORT_STATE p) == 9) && (s.ptp p).recent

/-- Eligible (R75): alive, with no suspicion open. -/
def State.eligible (s : State) (p : Nat) : Bool := s.alive p && (s.ptp p).suspects == 0

/-- Reference 6 is active (R92, R76). -/
def State.ref6Active (s : State) : Bool :=
  (s.alive 0 || s.alive 1) && s.get TIME.STATUS_SERVO_STATE != 4

/-- The active port and its last offset, as events 0x0201 and 0x0202 carry them. -/
def State.servoDetail (s : State) : List Byte :=
  let a := s.get TIME.STATUS_ACTIVE_PORT
  [BitVec.ofNat 8 a, 0, 0, 0] ++ leI 4 ((s.ptp a).lastOfs / ns17)

/-- Clear the runs of exchanges. -/
def State.clearRuns (s : State) : State :=
  { s with time := { s.time with runLock := 0, runUnlock := 0, runMonitor := 0 } }

/-- Enter servo state `n`: 0 MONITOR, 1 ACQUIRE, 2 TRACK, 3 PATH_SETTLE, 4 HOLD, with the flags of R75. -/
def State.servoEnter (s : State) (n : Nat) : State :=
  let old := s.get TIME.STATUS_SERVO_STATE
  if old = n then s.clearRuns
  else
    let s := ((s.set TIME.STATUS_SERVO_STATE n).setOn TIME.STATUS_DISCIPLINED (n != 0)).setOn TIME.STATUS_LOCKED (n == 2)
    let s := s.clearRuns
    let s := if old = 2 ∧ n = 1 then s.signal TIME.INT TIME.INT_EN TIME.INT_UNLOCKED 0x0202 7 2 s.servoDetail else s
    let s := if n = 2 then (s.signal TIME.INT TIME.INT_EN TIME.INT_LOCKED 0x0201 7 2 s.servoDetail).mediaValid else s
    let s := if n = 3 ∨ n = 4 then s.holdY else s
    if n = 4 then
      s.signal TIME.INT TIME.INT_EN TIME.INT_MASTER_LOST 0x0206 7 2 [BitVec.ofNat 8 (s.get TIME.STATUS_ACTIVE_PORT)]
    else s

/-- The grandmaster of the parent of port p has changed (R80, R83). -/
def State.gmChanged (s : State) (p gm : Nat) : State :=
  s.signal TIME.INT TIME.INT_EN TIME.INT_GM_CHANGED 0x0208 7 p (be 8 gm)

/-- Switch ACTIVE_PORT (R75, R80). -/
def State.switchPort (s : State) (p cause : Nat) : State :=
  let old := s.get TIME.STATUS_ACTIVE_PORT
  let s := (s.set TIME.STATUS_ACTIVE_PORT p).clearRuns
  let s := s.signal TIME.INT TIME.INT_EN TIME.INT_PORT_SWITCH 0x0205 7 2
    [BitVec.ofNat 8 old, BitVec.ofNat 8 p, BitVec.ofNat 8 cause]
  match (s.ptp old).parent, (s.ptp p).parent with
  | some a, some b => if a.gm = b.gm then s else s.gmChanged p b.gm
  | _, _ => s

/-- Leave PATH_SETTLE for ACQUIRE: cause 0 host resume, 1 timeout, 2 port switch. -/
def State.settleExit (s : State) (cause : Nat) : State :=
  (s.signal TIME.INT TIME.INT_EN TIME.INT_SETTLE_EXIT 0x0209 7 2 [BitVec.ofNat 8 cause]).servoEnter 1

/-- Loss of exchanges on the active port (R75). -/
def State.lossCheck (s : State) : State :=
  let st := s.get TIME.STATUS_SERVO_STATE
  let a := s.get TIME.STATUS_ACTIVE_PORT
  if st = 0 ∨ st = 4 ∨ s.alive a then s
  else if s.eligible (1 - a) && s.on TIME.CTRL_AUTO_SWITCH then (s.switchPort (1 - a) 1).servoEnter 1
  else s.servoEnter 4

/-- In PATH_SETTLE, the other port becomes eligible (R75); `was` says that it was so before. -/
def State.settleCheck (s : State) (was : Bool) : State :=
  let a := s.get TIME.STATUS_ACTIVE_PORT
  if s.get TIME.STATUS_SERVO_STATE = 3 ∧ !was ∧ s.eligible (1 - a) ∧ s.on TIME.CTRL_AUTO_SWITCH then
    (s.switchPort (1 - a) 3).settleExit 2
  else s

/-- TIME.CTRL.MODE lets the servo discipline the counter; on a moon it acts as FOLLOW (R434). -/
def State.modeAuto (s : State) : Bool := s.eff TIME.CTRL_MODE == 0 && !s.isMoon

/-- The servo follows DPLL0's selection and MODE (R71, R75 first and last rows, R112). -/
def State.servoFollow (s : State) : State :=
  let st := s.get (CLK.DPLL_STATE 0)
  let onRef := s.on (CLK.DPLL_SEL_VALID 0) && s.get (CLK.DPLL_SEL_REF 0) == 6 && (st == 1 || st == 2)
  let auto := s.modeAuto
  if s.get TIME.STATUS_SERVO_STATE = 0 then
    if onRef && auto then
      let a := if s.eligible 0 && s.eligible 1 then s.get TIME.CTRL_SERVO_PORT_PREF
        else if s.eligible 0 then 0 else if s.eligible 1 then 1 else s.get TIME.STATUS_ACTIVE_PORT
      ((s.set TIME.STATUS_ACTIVE_PORT a).preloadI).servoEnter 1
    else s
  else if onRef && auto then s
  else s.servoEnter 0

/-- Where a servo-class write applies at once (R85), bring the fields written, which `k` names, into force. -/
def State.servoApply (s : State) (k : Nat → Bool) : State :=
  let st := s.get TIME.STATUS_SERVO_STATE
  let s := if st = 0 ∨ st = 4 ∨ !(s.ptp (s.get TIME.STATUS_ACTIVE_PORT)).recent then s.boundary .servo k else s
  s.servoFollow

/-! ## Port states (R55) -/

/-- Discard the exchanges held in an open suspicion (R78). -/
def State.dropHeld (s : State) (p : Nat) : State :=
  let x := s.ptp p
  (s.countBy (TIME.PORT_EXCH_DISCARD p) x.suspects).setPtp p { x with suspects := 0 }

/-- Put port p in a state; leaving UNCALIBRATED and SLAVE ends its exchanges. On a unit in RESYNC or STANDBY, PASSIVE stands for
PRE_MASTER and MASTER (R444). -/
def State.setPortState (s : State) (p n : Nat) : State :=
  let n := if s.isMoon && s.on ORB.STATUS_JOIN_STATE then 3 else n
  let n := if (n = 5 ∨ n = 6) ∧ (s.get PAIR.STATUS_ROLE = 4 ∨ s.get PAIR.STATUS_ROLE = 5) then 7 else n
  let old := s.get (TIME.PORT_STATE p)
  if old = n then s
  else
    let s := s.set (TIME.PORT_STATE p) n
    let s := s.signal TIME.INT TIME.INT_EN TIME.INT_PTP_STATE 0x0207 7 p [BitVec.ofNat 8 old, BitVec.ofNat 8 n]
    let x := s.ptp p
    if n = 8 ∨ n = 9 then
      if old = 8 ∨ old = 9 then s else s.setPtp p { x with lockRun := 0 }
    else
      let s := (s.dropHeld p)
      let x := s.ptp p
      let s := s.setPtp p { x.forget with recent := false, lockRun := 0, confirmed := false }
      if p = s.get TIME.STATUS_ACTIVE_PORT then s.lossCheck else s

/-- A port whose link is down is FAULTY; otherwise it goes through INITIALIZING to LISTENING. -/
def State.ptpStart (s : State) (p : Nat) : State :=
  let x := s.ptp p
  let s := s.setPtp p { x with parent := none, foreign := [] }
  let s := s.setPortState p 1
  if (unitAt s.ports p PortState.reset).link = 2 then s.setPortState p 4 else s.setPortState p 2

/-- The link of a media port came up or went down (R55). -/
def State.ptpLink (s : State) (p : Nat) (up : Bool) : State :=
  if p < 2 ∧ s.on (TIME.PORT_ENABLE p) then (if up then s.ptpStart p else s.setPortState p 2) else s

/-! ## Clock quality (R56) and best master selection (R55) -/

/-- Reference r is declared traceable (R110); bit 6 counts only while the active port's parent announces timeTraceable. -/
def State.traceable (s : State) (r : Nat) : Bool :=
  (s.get CLK.TRACE).testBit r && (r != 6 || match (s.ptp (s.get TIME.STATUS_ACTIVE_PORT)).parent with
    | some a => a.traceable
    | none => false)

/-- Reference r was traceable when it was last in use: bit 6 counts by the timeTraceable flag of the active port's last parent (R56, R110). -/
def State.wasTraceable (s : State) (r : Nat) : Bool :=
  (s.get CLK.TRACE).testBit r && (r != 6 || (s.ptp (s.get TIME.STATUS_ACTIVE_PORT)).traced)

/-- The condition of R56 that holds: 0 to 3. -/
def State.qualityCond (s : State) : Nat :=
  let st := s.get (CLK.DPLL_STATE 0)
  if st = 2 ∧ s.traceable (s.get (CLK.DPLL_SEL_REF 0)) then 0
  else if st = 3 ∧ ((unitAt s.clk.dplls 0 DpllState.reset).lastSel.map s.wasTraceable).getD false then
    (if s.on (CLK.DPLL_HO_IN_SPEC 0) then 1 else 2)
  else 3

/-- The clockClass port p announces (R56). -/
def State.clockClass (s : State) (p : Nat) : Nat :=
  if s.on (TIME.PORT_SLAVE_ONLY p) then 255
  else
    let c := s.qualityCond
    match nth s.time.cls c none with
    | some v => v
    | none => if c = 0 then 6 else if c = 1 then 7 else if c = 2 then 187 else 248

/-- The instance's own data set, as an Announce would carry it: on the PTP timescale, its UTC offset not declared valid and no leap second
announced (DESIGN CHOICE, assumption 102). -/
def State.ownAnnounce (s : State) (p : Nat) : Announce :=
  { src := s.life.ident.eui * 65536 + 1, domain := s.get (TIME.PORT_DOMAIN p), gm := s.life.ident.eui,
    prio1 := (s.ptp p).prio1, cls := s.clockClass p, acc := s.time.accuracy, var := s.time.variance,
    prio2 := (s.ptp p).prio2, steps := 0, timeSource := s.time.timeSource, utcOffset := s.get LIFE.UTC_OFFSET, utcValid := false,
    traceable := decide (s.qualityCond < 3), freqTraceable := decide (s.qualityCond < 3), leap61 := false, leap59 := false,
    ptpScale := true }

/-- The flags of the time properties as an Announce carries them: leap61, leap59, currentUtcOffsetValid, ptpTimescale, timeTraceable,
frequencyTraceable (IEEE 1588-2019). -/
def Announce.timeFlags (a : Announce) : Nat :=
  (if a.leap61 then 1 else 0) + (if a.leap59 then 2 else 0) + (if a.utcValid then 4 else 0) + (if a.ptpScale then 8 else 0) +
  (if a.traceable then 16 else 0) + (if a.freqTraceable then 32 else 0)

/-- The first difference of two lists of numbers decides. -/
def lexLt : List Nat → List Nat → Bool
  | a :: as, b :: bs => decide (a < b) || (a == b && lexLt as bs)
  | _, _ => false

/-- IEEE 1588-2019 data set comparison: `a` is better than `b`. -/
def annBetter (a b : Announce) : Bool :=
  if a.gm = b.gm then lexLt [a.steps, a.src] [b.steps, b.src]
  else lexLt [a.prio1, a.cls, a.acc, a.var, a.prio2, a.gm] [b.prio1, b.cls, b.acc, b.var, b.prio2, b.gm]

/-- The qualification window of foreign masters, four Announce intervals, in CORE cycles (IEEE 1588-2019). -/
def PtpPort.window (x : PtpPort) : Nat :=
  if 0 ≤ x.logAnnounce then 3200000000 * 2 ^ x.logAnnounce.toNat else 3200000000 / 2 ^ (-x.logAnnounce).toNat

/-- A foreign master is qualified at cycle `now`: two Announces heard within the window. -/
def Foreign.qualified (now win : Nat) (f : Foreign) : Bool := decide (2 ≤ (f.times.filter (fun t => decide (now ≤ t + win))).length)

/-- The best of a list of Announces. -/
def bestOfAnn : List Announce → Option Announce
  | [] => none
  | a :: t =>
    match bestOfAnn t with
    | some b => if annBetter b a then some b else some a
    | none => some a

/-- The best of the qualified foreign masters of port p. -/
def State.bestForeign (s : State) (p : Nat) : Option Announce :=
  let x := s.ptp p
  bestOfAnn ((x.foreign.filter (Foreign.qualified s.cycles x.window)).map Foreign.msg)

/-- Port p has no parent any more. The loss of one changes no grandmaster: event 0x0208 waits for the next (DESIGN CHOICE, assumption 101). -/
def State.dropParent (s : State) (p : Nat) : State := s.setPtp p { s.ptp p with parent := none }

/-- Take `a` as the port's parent: UNCALIBRATED where it is a new one. -/
def State.takeParent (s : State) (p : Nat) (a : Announce) : State :=
  let x := s.ptp p
  let st := s.get (TIME.PORT_STATE p)
  let same := match x.parent with
    | some b => b.src == a.src
    | none => false
  let newGm := match x.parent with
    | some b => b.gm != a.gm
    | none => true
  let s := s.setPtp p { x with parent := some a, traced := a.traceable }
  let s := if newGm then s.gmChanged p a.gm else s
  if same && (st == 8 || st == 9) then s
  else
    let s := if st = 8 ∨ st = 9 then s.forgetStamps p else s
    s.setPortState p 8

/-- The state decision of the best-master algorithm for a clock with one port; a port that becomes master, or passive, has itself for a parent. -/
def State.bmca (s : State) (p : Nat) : State :=
  let own := s.ownAnnounce p
  let st := s.get (TIME.PORT_STATE p)
  match s.bestForeign p with
  | none => s
  | some e =>
    if s.on (TIME.PORT_SLAVE_ONLY p) then s.takeParent p e
    else if annBetter own e then
      if st = 5 ∨ st = 6 then s else (s.dropParent p).setPortState p 5
    else if own.cls ≤ 127 then (s.dropParent p).setPortState p 7
    else s.takeParent p e

/-! ## Exchanges -/

/-- The mean of the last eight values against which an exchange is judged, times eight. -/
def sums (b : List (Int × Int)) : Int × Int := ((b.map Prod.fst).sum, (b.map Prod.snd).sum)

/-- Suspect under R77, against a baseline of eight exchanges. -/
def State.suspect (s : State) (x : PtpPort) (th d : Int) : Bool :=
  let (st, sd) := sums x.baseline
  let dt := (8 * th - st).natAbs
  let dd := (8 * d - sd).natAbs
  s.on TIME.SERVO_PC_EN && x.baseline.length == 8 &&
  decide (s.get TIME.SERVO_OFS_THR * 8 * 131072 < dt) && decide (s.get TIME.SERVO_DLY_THR * 8 * 131072 < dd) &&
  decide (dt - dd + (dd - dt) ≤ s.get TIME.SERVO_PC_MATCH * 8 * 131072)

/-- The computation of R72 on an exchange the servo accepts. -/
def State.servoCompute (s : State) (th : Int) : State :=
  let ls := s.logSync (s.get TIME.STATUS_ACTIVE_PORT)
  let acq := s.get TIME.STATUS_SERVO_STATE == 1
  let kp := if acq then s.eff TIME.SERVO_ACQ_KP else s.eff TIME.SERVO_TRK_KP
  let ki := if acq then s.eff TIME.SERVO_ACQ_KI else s.eff TIME.SERVO_TRK_KI
  let slew := ((if s.eff TIME.SERVO_SLEW_MAX ≤ 10000000 then s.eff TIME.SERVO_SLEW_MAX else 10000000) * 2 ^ 34 : Nat)
  let range := (clampNat 1 200 (s.eff TIME.SERVO_FREQ_RANGE) * 1000000 * 2 ^ 34 : Nat)
  let p := clampInt (-(slew : Int)) slew (perT (kp * th) ls)
  let iNew := s.time.integral + ki * th
  let y := -(p + perT iNew ls)
  if y.natAbs ≤ range then
    ({ s with time := { s.time with integral := iNew } }).setIncr (incrOf y)
  else s.setIncr (incrOf (if 0 < y then (range : Int) else -(range : Int)))

/-- The port whose exchanges MONITOR watches for the acquisition step and the run of LOCK_N: the active port, or the other while the active one has none.
The spec does not say which (DESIGN CHOICE, assumption 100). -/
def State.monitorPort (s : State) : Nat :=
  let a := s.get TIME.STATUS_ACTIVE_PORT
  if s.alive a || !(s.alive (1 - a)) then a else 1 - a

/-- What the servo does with an exchange that is not held (R75); `was` says that port p was eligible before it. -/
def State.servoExchange (s : State) (p : Nat) (was : Bool) (th : Int) : State :=
  let st := s.get TIME.STATUS_SERVO_STATE
  let small := within th (s.get TIME.SERVO_THR_LOCK)
  let lockN := atLeast1 (s.get TIME.SERVO_LOCK_N)
  if st = 0 then
    if p ≠ s.monitorPort then s
    else if !(s.on TIME.STATUS_MEDIA_VALID) && s.on TIME.CTRL_STEP_EN && !(within th (s.get TIME.SERVO_THR_STEP)) then
      s.stepCtr (-(th * 2 ^ 15))
    else
      let n := if small then s.time.runMonitor + 1 else 0
      let s := { s with time := { s.time with runMonitor := n } }
      if lockN ≤ n then s.mediaValid else s
  else if st = 4 then
    let a := if s.eligible 0 && s.eligible 1 then s.get TIME.CTRL_SERVO_PORT_PREF else p
    (s.set TIME.STATUS_ACTIVE_PORT a).servoEnter 1
  else if p ≠ s.get TIME.STATUS_ACTIVE_PORT then s.settleCheck was
  else if st = 1 then
    let s := s.servoCompute th
    let n := if small then s.time.runLock + 1 else 0
    let s := { s with time := { s.time with runLock := n } }
    if lockN ≤ n then s.servoEnter 2 else s
  else if st = 2 then
    let s := s.servoCompute th
    let n := if within th (s.get TIME.SERVO_THR_UNLOCK) then 0 else s.time.runUnlock + 1
    let s := { s with time := { s.time with runUnlock := n } }
    if 4 ≤ n then s.servoEnter 1 else s
  else s

/-- The active port has produced no valid exchange for four Sync intervals. -/
def State.lossDue (s : State) (a : Nat) : Bool := decide (s.fourSyncs a ≤ s.cycles - (s.ptp a).lastAt)

/-- A path change is confirmed on port p (R75, R77, R78). One servo update runs from one offset computation on the active port to the next (R85;
DEDUCED, assumption 103): with the other port's change confirmed in the same update the active port stays, and with a loss of exchanges due in it the
change is treated as that loss (R81). -/
def State.pathChange (s : State) (p : Nat) (was : Bool) (dth dd : Int) : State :=
  let s := (s.dropHeld p).count (TIME.PORT_PC_DETECT p)
  let s := s.setPtp p { s.ptp p with baseline := [], confirmed := true }
  let s := s.signal TIME.INT TIME.INT_EN TIME.INT_ASYMMETRY_SUSPECT 0x0204 7 p
    (leI 4 (dth / (8 * ns17)) ++ leI 4 (dd / (8 * ns17)))
  let st := s.get TIME.STATUS_SERVO_STATE
  if p = s.get TIME.STATUS_ACTIVE_PORT ∧ (st = 1 ∨ st = 2) then
    let q := 1 - p
    if s.lossDue p then (s.setPtp p { s.ptp p with recent := false }).lossCheck
    else if s.eligible q && s.on TIME.CTRL_AUTO_SWITCH && !(s.ptp q).confirmed then
      let s := s.switchPort q 0
      s.servoEnter (if within (s.ptp q).lastOfs (s.get TIME.SERVO_THR_LOCK) then 2 else 1)
    else s.servoEnter 3
  else if p ≠ s.get TIME.STATUS_ACTIVE_PORT then s.settleCheck was
  else s

/-- The servo update in progress ends. -/
def State.endUpdate (s : State) : State :=
  let s := s.setPtp 0 { s.ptp 0 with confirmed := false }
  s.setPtp 1 { s.ptp 1 with confirmed := false }

/-- Put an offset or a delay in its FRAC and NS registers: the floor in ns and the rest in 2^−16 ns (R85). -/
def State.putOfs (s : State) (ns frac : Fld) (x : Int) : State :=
  (s.seti ns (x / ns17)).set frac ((x % ns17).toNat / 2)

/-- One exchange of port p (R64, R77, R78): from t1 and t2, the correction of the Sync, and the port's delay pair. -/
def State.exchange (s : State) (p : Nat) (t1 t2 c : Int) : State :=
  match (s.ptp p).pair with
  | none => s.count (TIME.PORT_EXCH_DISCARD p)
  | some dp =>
    let s := s.boundary .offset (fun k => k == (TIME.PORT_ASYM p).key)
    let was := s.eligible p
    let active := p == s.get TIME.STATUS_ACTIVE_PORT
    let s := if active then (s.boundary .servo (fun _ => true)).servoFollow else s
    let a := t2 - t1 - c
    let b := dp.t4 - dp.t3 - dp.corr
    let mpd := a + b
    let th := a - b - 2 * s.geti (TIME.PORT_ASYM p)
    let s := s.putOfs (TIME.PORT_OFS_NS p) (TIME.PORT_OFS_FRAC p) th
    let s := s.putOfs (TIME.PORT_MPD_NS p) (TIME.PORT_MPD_FRAC p) mpd
    let x := s.ptp p
    let run := if within th (s.get TIME.SERVO_THR_LOCK) then x.lockRun + 1 else 0
    let s := s.setPtp p { x with lockRun := run }
    let s := if s.get (TIME.PORT_STATE p) = 8 ∧ atLeast1 (s.get TIME.SERVO_LOCK_N) ≤ run then s.setPortState p 9 else s
    let x := s.ptp p
    let s :=
      if s.suspect x th mpd then
        let s := (s.count (TIME.PORT_EXCH_HELD p)).setPtp p { x with suspects := x.suspects + 1 }
        if atLeast1 (s.get TIME.SERVO_PC_COUNT) ≤ x.suspects + 1 then
          let (st, sd) := sums x.baseline
          s.pathChange p was (8 * th - st) (8 * mpd - sd)
        else s
      else
        let s := (s.dropHeld p).count (TIME.PORT_EXCH_USED p)
        let x := s.ptp p
        let base := x.baseline ++ [(th, mpd)]
        let s := s.setPtp p { x with baseline := base.drop (base.length - 8), lastOfs := th, recent := true, lastAt := s.cycles }
        s.servoExchange p was th
    if active then s.endUpdate else s

/-- Stamps of port p awaiting pairing (R63). -/
def PtpPort.stamps (x : PtpPort) : Nat := x.syncs.length + x.dreqs.length

/-- A stamp that finds 16 held is discarded (R63). -/
def State.stampOverflow (s : State) (p : Nat) : State :=
  let s := (s.count (TIME.PORT_TS_OVF p)).count (TIME.PORT_EXCH_DISCARD p)
  s.signal TIME.INT TIME.INT_EN TIME.INT_TS_OVF 0x020A 7 p (le 4 (s.get (TIME.PORT_TS_OVF p)))

/-- Port p computes offsets: it runs in UNCALIBRATED or SLAVE. -/
def State.slaving (s : State) (p : Nat) : Bool :=
  decide (p < 2) && s.on (TIME.PORT_ENABLE p) && (s.get (TIME.PORT_STATE p) == 8 || s.get (TIME.PORT_STATE p) == 9)

/-- The message is in the port's domain and from its parent. -/
def State.fromParent (s : State) (p : Nat) (m : PtpMsg) : Bool :=
  m.domain == s.get (TIME.PORT_DOMAIN p) && match (s.ptp p).parent with
    | some a => a.src == m.src
    | none => false

/-- Whole nanoseconds in stamp units. -/
def t16 (ns : Nat) : Int := (ns : Int) * 65536

/-- SYNC_RX (R64): `raw` is the stamp at the ball, before RX_LAT. -/
def execSyncRx (p : Nat) (m : PtpMsg) (raw : Int) (s : State) : Out :=
  if s.slaving p && s.fromParent p m then
    let s := s.count (TIME.PORT_SYNC_RX p)
    let t2 := raw - s.geti (TIME.PORT_RX_LAT p)
    let x := s.ptp p
    if 16 ≤ x.stamps then .next (s.stampOverflow p)
    else if m.twoStep then .next (s.setPtp p { x with syncs := x.syncs ++ [⟨m.src, m.seq, m.corr, t2⟩] })
    else .next (s.exchange p (t16 m.time) t2 m.corr)
  else .next s

/-- FOLLOW_UP_RX (R64). -/
def execFollowUpRx (p : Nat) (m : PtpMsg) (s : State) : Out :=
  if s.slaving p && s.fromParent p m then
    let x := s.ptp p
    match x.syncs.find? (fun y => y.src == m.src && y.seq == m.seq) with
    | none => .next s
    | some y =>
      let s := (s.count (TIME.PORT_FUP_RX p)).setPtp p { x with syncs := x.syncs.erase y }
      .next (s.exchange p (t16 m.time) y.t2 (y.corr + m.corr))
  else .next s

/-- FOLLOW_UP_TIMEOUT (R64): the Sync `seq` has waited one Sync interval. -/
def execFollowUpTimeout (p seq : Nat) (s : State) : Out :=
  if p < 2 then
    let x := s.ptp p
    match x.syncs.find? (fun y => y.seq == seq) with
    | none => .next s
    | some y => .next ((s.count (TIME.PORT_EXCH_DISCARD p)).setPtp p { x with syncs := x.syncs.erase y })
  else .next s

/-- The PTP messages of a port leave through its PTP partition (R137): the body of message `m`, IEEE 1588-2019 (PRESUMED, assumption 104). -/
def State.ptpMessage (s : State) (m : PtpSent) : List Byte :=
  let p := m.port
  let x := s.ptp p
  let own := s.ownAnnounce p
  let id := s.life.ident.eui * 65536 + 1
  let (type, ctl, len) := match m.kind with
    | 0 => (0, 0, 44)
    | 1 => (8, 2, 44)
    | 2 => (1, 1, 44)
    | 3 => (9, 3, 54)
    | _ => (11, 5, 64)
  let interval := match m.kind with
    | 2 => 0x7F
    | 3 => s.get (TIME.PORT_LOG_DREQ p)
    | 4 => ofSigned 8 x.logAnnounce
    | _ => s.get (TIME.PORT_LOG_SYNC p)
  let flags := if m.kind = 0 ∧ !(s.on (TIME.PORT_ONE_STEP p)) then 0x200 else if m.kind = 4 then Announce.timeFlags own else 0
  let stamp := be 6 (m.time / 1000000000).toNat ++ be 4 (m.time % 1000000000).toNat
  be 1 type ++ be 1 0x12 ++ be 2 len ++ be 1 (s.get (TIME.PORT_DOMAIN p)) ++ be 1 0 ++ be 2 flags ++ be 8 (ofSigned 64 m.corr) ++ be 4 0 ++
    be 10 id ++ be 2 m.seq ++ be 1 ctl ++ be 1 interval ++ stamp ++
    (if m.kind = 3 then be 10 m.req
     else if m.kind = 4 then be 2 own.utcOffset ++ be 1 0 ++ be 1 own.prio1 ++ be 1 m.cls ++ be 1 own.acc ++ be 2 own.var ++ be 1 own.prio2 ++
       be 8 own.gm ++ be 2 0 ++ be 1 own.timeSource
     else [])

/-- Event messages: Sync and Delay_Req. -/
def PtpSent.isEvent (m : PtpSent) : Bool := m.kind == 0 || m.kind == 2

/-- The frame of a message without its FCS (R60, R61): a one-step Sync over IPv4 has UDP checksum 0; an event message over IPv6 carries two trailing
bytes that make up for what was written into it at departure, so that the checksum stands. -/
def State.ptpFrame (s : State) (m : PtpSent) : List Byte :=
  let p := m.port
  let msg := s.ptpMessage m
  let port := if m.isEvent then 319 else 320
  let dscp := (s.ptp p).dscp
  if s.on (TIME.PORT_IPV6 p) then
    let src := ((s.psvc p).ip.v6Use.head?).getD (s.linkLocal p)
    let dst := 0xFF0E * 2 ^ 112 + 0x181
    let u :=
      if m.isEvent then
        let plain := s.ptpMessage { m with time := 0, corr := 0 }
        let fill := (sum16 plain + 65535 * sum16 msg - sum16 msg) % 65535
        (udpBytes 6 src dst port port true (plain ++ [0, 0])).take 8 ++ msg ++ be 2 fill
      else udpBytes 6 src dst port port true msg
    padFrame (ethHdr (groupMac 6 dst) (s.stationMac p) none 0x86DD ++ ip6Bytes src dst 17 1 dscp u)
  else
    let (src, dst) := (s.ip4 p, 0xE0000181)
    let u := udpBytes 4 src dst port port (!(m.kind == 0 && s.on (TIME.PORT_ONE_STEP p))) msg
    padFrame (ethHdr (groupMac 4 dst) (s.stationMac p) none 0x0800 ++ ip4Bytes src dst 17 1 dscp 0 u)

/-- A message as it waits in the partition. -/
def State.ptpMake (s : State) (p kind seq : Nat) (time corr : Int) (req : Nat) : PtpSent :=
  let m : PtpSent := ⟨p, kind, seq, time, corr, if kind = 4 then s.clockClass p else 0, req, []⟩
  { m with bytes := s.ptpFrame m }

/-- Message `m` leaves at stamp `d` (R58 to R60, R62, R63): a one-step Sync takes its departure time, its frame and FCS made anew; a two-step one leaves it for
the Follow_Up; a Delay_Req is stamped as t3. -/
def State.ptpDepart (s : State) (m : PtpSent) (d : Int) : State :=
  let p := m.port
  let oneStep := m.kind == 0 && s.on (TIME.PORT_ONE_STEP p)
  let m := if oneStep then { m with time := d / 65536, corr := m.corr + d % 65536 } else m
  let m := if oneStep then { m with bytes := s.ptpFrame m } else m
  let s := s.txCount p (m.bytes.length + 4) (beAt m.bytes 0 6)
  let s := s.setPort p { s.port p with sent := some (m.bytes ++ fcs m.bytes, d) }
  let s : State := { s with time := { s.time with
    sent := s.time.sent.filter (fun y => !(y.port == p && y.kind == m.kind)) ++ [m] } }
  let x := s.ptp p
  if m.kind = 0 ∧ !oneStep then s.setPtp p { x with followUp := some (m.seq, d) }
  else if m.kind = 2 then
    let s := s.count (TIME.PORT_DREQ_TX p)
    if 16 ≤ x.stamps then s.stampOverflow p
    else s.setPtp p { x with dreqs := x.dreqs ++ [(m.seq, d)] }
  else s

/-- DELAY_RESP_RX (R64): `mine` says that requestingPortIdentity is the port's own. -/
def execDelayRespRx (p : Nat) (m : PtpMsg) (mine : Bool) (s : State) : Out :=
  if s.slaving p && s.fromParent p m && mine then
    let x := s.ptp p
    match x.dreqs.find? (fun y => y.1 == m.seq) with
    | none => .next s
    | some y =>
      .next ((s.count (TIME.PORT_DRESP_RX p)).setPtp p
        { x with dreqs := x.dreqs.erase y, pair := some ⟨y.2, t16 m.time, m.corr⟩ })
  else .next s

/-- DELAY_PAIR_EXPIRY (R65): four Delay_Req intervals have passed since t4 arrived. -/
def execDelayPairExpiry (p : Nat) (s : State) : Out :=
  .next (if p < 2 then s.setPtp p { s.ptp p with pair := none } else s)

/-- Note an Announce received at cycle `now` among the foreign masters, what lies before the window forgotten. -/
def noteForeign (now win : Nat) (a : Announce) : List Foreign → List Foreign
  | [] => [⟨a, [now]⟩]
  | f :: t =>
    if f.msg.src = a.src then ⟨a, now :: f.times.filter (fun c => decide (now ≤ c + win))⟩ :: t else f :: noteForeign now win a t

/-- ANNOUNCE_RX (R55, R493): one of the active port's parent with currentUtcOffsetValid gives UTC_OFFSET. -/
def execAnnounceRx (p : Nat) (a : Announce) (s : State) : Out :=
  let st := s.get (TIME.PORT_STATE p)
  if p < 2 ∧ s.on (TIME.PORT_ENABLE p) ∧ 4 ≤ st ∧ a.domain = s.get (TIME.PORT_DOMAIN p) then
    let s := s.count (TIME.PORT_ANN_RX p)
    if a.gm = s.life.ident.eui ∨ 255 ≤ a.steps then .next s
    else
      let x := s.ptp p
      let s := (s.setPtp p { x with foreign := noteForeign s.cycles x.window a x.foreign }).bmca p
      let ours := ((s.ptp p).parent.map (fun b => b.src == a.src)).getD false
      .next (if ours && a.utcValid && p == s.get TIME.STATUS_ACTIVE_PORT then s.set LIFE.UTC_OFFSET a.utcOffset else s)
  else .next s

/-- ANNOUNCE_RECEIPT_TIMEOUT (R55): no Announce from the parent within announceReceiptTimeout. The port takes the best of the other qualified masters, or is
MASTER (IEEE 1588-2019), or LISTENING where it is slaveOnly. -/
def execAnnounceReceiptTimeout (p : Nat) (s : State) : Out :=
  let st := s.get (TIME.PORT_STATE p)
  if p < 2 ∧ s.on (TIME.PORT_ENABLE p) ∧ (st = 4 ∨ st = 7 ∨ st = 8 ∨ st = 9) then
    let x := s.ptp p
    let left := match x.parent with
      | some a => x.foreign.filter (fun f => f.msg.src != a.src)
      | none => x.foreign
    let s := s.setPtp p { x with parent := none, foreign := left }
    match s.bestForeign p with
    | some _ => .next (s.bmca p)
    | none => .next (s.setPortState p (if s.on (TIME.PORT_SLAVE_ONLY p) then 4 else 6))
  else .next s

/-- PTP_QUALIFICATION_TIMEOUT (R55): PRE_MASTER becomes MASTER. -/
def execPtpQualificationTimeout (p : Nat) (s : State) : Out :=
  .next (if p < 2 ∧ s.get (TIME.PORT_STATE p) = 5 then s.setPortState p 6 else s)

/-- EXCHANGE_LOSS (R75): port p has produced no valid exchange for four Sync intervals. -/
def execExchangeLoss (p : Nat) (s : State) : Out :=
  if p < 2 then
    let s := s.setPtp p { s.ptp p with recent := false }
    .next s.lossCheck.servoFollow
  else .next s

/-- PATH_SETTLE_TIMEOUT (R75): PC_CFG.TIMEOUT has expired; it never does when it is 0. -/
def execPathSettleTimeout (s : State) : Out :=
  .next (if s.get TIME.STATUS_SERVO_STATE = 3 ∧ s.get TIME.SERVO_PC_TIMEOUT ≠ 0 then s.settleExit 1 else s)

/-! ## Setting time (R82) -/

/-- Offset of TIME.SET_CTRL. -/
def setCtrlOff : Nat := 0x8004C

/-- A load is permitted. -/
def State.loadPermitted (s : State) (force : Bool) : Bool :=
  force || (!(s.on TIME.STATUS_MEDIA_VALID) && !(s.modeAuto && s.on TIME.STATUS_DISCIPLINED))

/-- Load seconds and nanoseconds, the fraction cleared; a forced load clears MEDIA_VALID. -/
def State.loadTime (s : State) (sec ns : Nat) (force validate : Bool) : State :=
  let s := if force then s.set TIME.STATUS_MEDIA_VALID 0 else s
  let target : Nat := (sec * 1000000000 + ns) * 2 ^ 32
  let s := s.stepCtr ((target : Int) - (s.ctr : Nat))
  if validate then s.mediaValid else s

/-- Drop an armed load. -/
def State.dropPps (s : State) : State :=
  { s with time := { s.time with pps := none } }.set TIME.STATUS_SET_PENDING 0

/-- The value SET_SEC and SET_NS hold. -/
def State.setSec (s : State) : Nat := s.get TIME.LOAD_SET_SEC_LO + 2 ^ 32 * s.get TIME.LOAD_SET_SEC_HI

/-- Arm a load at the next 1PPS edge. -/
def State.armPps (s : State) (force validate : Bool) (source : Nat) : State :=
  ({ s with time := { s.time with
      pps := some ⟨s.setSec, s.get TIME.LOAD_SET_NS, s.get TIME.LOAD_PPS_SRC, force, validate, source⟩ } }).set
    TIME.STATUS_SET_PENDING 1

/-- A write of SET_CTRL (R82). -/
def State.setCtrl (s : State) (source w : Nat) : State :=
  let apply := w.testBit 0
  let pps := w.testBit 1
  let validate := w.testBit 2
  let force := w.testBit 3
  if apply && pps then s.cfgReject source setCtrlOff
  else
    let s := s.set TIME.LOAD_PPS_SRC (w / 16)
    let s := if w.testBit 6 then s.dropPps else s
    if apply then
      if s.loadPermitted force then s.loadTime s.setSec (s.get TIME.LOAD_SET_NS) force validate
      else s.cfgReject source setCtrlOff
    else if pps then
      if s.loadPermitted force then s.armPps force validate source else s.cfgReject source setCtrlOff
    else if validate then s.mediaValid
    else s

/-- PPS_EDGE_LOAD (R82): a rising edge of the 1PPS input REFIN[n]. -/
def execPpsEdgeLoad (n : Nat) (s : State) : Out :=
  match s.time.pps with
  | none => .next s
  | some l =>
    if l.src ≠ n then .next s
    else if s.dropPps.loadPermitted l.force then .next (s.dropPps.loadTime l.sec l.ns l.force l.validate)
    else .next (s.dropPps.cfgReject l.source setCtrlOff)

/-- APPLY_PPS_TIMEOUT (R82): no edge within 2 s of arming. -/
def execApplyPpsTimeout (s : State) : Out :=
  match s.time.pps with
  | none => .next s
  | some _ => .next (s.dropPps.signal TIME.INT TIME.INT_EN TIME.INT_SET_TIMEOUT 0x020B 7 2 [])

/-! ## Host accesses -/

/-- Latch the halves that belong with a read of LO (R19), by the offset of the register that returns them. -/
def State.latchAs (s : State) (off v : Nat) : State :=
  { s with latch := s.latch.filter (fun p => p.1 != off) ++ [(off, v)] }

/-- TIME_NOW_READ (R67): NOW_FRAC is returned, and NOW_NS, NOW_SEC_LO and NOW_SEC_HI are latched. -/
def execTimeNowRead (s : State) : Out :=
  let ns := s.nowNs
  let sec := ns / 1000000000
  let s := ((s.set TIME.NOW_NS (ns % 1000000000)).set TIME.NOW_SEC_LO (sec % 2 ^ 32)).set TIME.NOW_SEC_HI (sec / 2 ^ 32)
  .next { s with rd := s.ctr / 2 ^ 16 % 2 ^ 16 }

/-- A resume from the host (R75, R79). -/
def State.resume (s : State) : State :=
  if s.get TIME.STATUS_SERVO_STATE = 3 then s.settleExit 0 else s

/-- PC_RESUME_WRITE (R79): a write of PC_CFG with RESUME = 1, whose other fields are written too. -/
def hostPcResumeWrite (v : Word) (s : State) : Out :=
  let w := v.toNat
  let s := (((s.set TIME.SERVO_PC_TIMEOUT (w / 2 ^ 16)).set TIME.SERVO_PC_MATCH (w / 2 ^ 8)).set TIME.SERVO_PC_COUNT
    (w / 16)).set TIME.SERVO_PC_EN w
  .next s.resume

/-! ## Commands (R84) -/

/-- TIME_GET. -/
def execTimeGet (r : Req) (p : List Tlv) (s : State) : Out :=
  runCmd 0x0201 [] (getBody (fun _ s =>
    let ns := s.nowNs
    le 8 (ns / 1000000000) ++ le 4 (ns % 1000000000) ++ le 2 (s.ctr / 2 ^ 16 % 2 ^ 16) ++ le 4 s.shortTime ++
    le 8 s.media48 ++ le 8 s.media44 ++ le 1 (s.get TIME.STATUS_SERVO_STATE) ++
    le 1 (s.get TIME.STATUS_MEDIA_VALID + 2 * s.get TIME.STATUS_LOCKED + 4 * s.get TIME.STATUS_SET_PENDING +
      8 * s.get TIME.STATUS_DISCIPLINED))) r p s

/-- PTP_PORT_SET's parameters in the order of R84. -/
def ptpPortSetParams : List PSpec :=
  [preq 1 1 0 1, popt 2 1 0 1, popt 3 1 0 2, popt 4 1 0 127, popt 5 1 0 255, popt 6 1 0 255, popt 7 1 0 1, popt 8 1 0 1,
   popt 9 1 0 1, popt 10 1 0 63, popt 11 1 0 255, popt 12 1 0 255, popt 13 1 0 255, popt 14 1 2 10]

/-- A signed one-byte parameter within its range, or absent (R54). -/
def inRange8 (p : Params) (ty : Nat) (lo hi : Int) : Bool :=
  match Params.val? p ty with
  | some v => decide (lo ≤ toSigned 8 v) && decide (toSigned 8 v ≤ hi)
  | none => true

/-- The profile defaults of R54: domain, logAnnounce, logSync, logDreq, announceReceiptTimeout. -/
def profileDefaults (n : Nat) : Nat × Int × Int × Int × Nat :=
  if n = 1 then (127, -2, -3, -3, 3) else if n = 2 then (0, 1, -3, 0, 3) else (0, 1, 0, 0, 3)

/-- The PTP event and general group of a port, 224.0.1.129 or FF0E::181 (IEEE 1588-2019; R379). -/
def State.ptpGroup (s : State) (p : Nat) (join : Bool) : State :=
  let (ip, a) := if s.on (TIME.PORT_IPV6 p) then (6, 0xFF0E * 2 ^ 112 + 0x181) else (4, 0xE0000181)
  if join then s.joinGroup p ip a 1 1 [] else s.leaveGroup p ip a 1

def ptpPortSetBody (p : Params) (s : State) : Reply × State :=
  let n := Params.val p 1
  if !(inRange8 p 11 (-3) 4) then (Reply.errAt Status.badParam p 11, s)
  else if !(inRange8 p 12 (-7) 1) then (Reply.errAt Status.badParam p 12, s)
  else if !(inRange8 p 13 (-7) 5) then (Reply.errAt Status.badParam p 13, s)
  else
    let x := s.ptp n
    let prof := (Params.val? p 3).getD (s.get (TIME.PORT_PROFILE n))
    let newProf := prof != s.get (TIME.PORT_PROFILE n)
    let (d0, a0, s0, q0, r0) := profileDefaults prof
    let dom := (Params.val? p 4).getD (if newProf then d0 else s.get (TIME.PORT_DOMAIN n))
    let ann := ((Params.val? p 11).map (toSigned 8)).getD (if newProf then a0 else x.logAnnounce)
    let syn := ((Params.val? p 12).map (toSigned 8)).getD (if newProf then s0 else s.geti (TIME.PORT_LOG_SYNC n))
    let drq := ((Params.val? p 13).map (toSigned 8)).getD (if newProf then q0 else s.geti (TIME.PORT_LOG_DREQ n))
    let rct := (Params.val? p 14).getD (if newProf then r0 else x.receiptTimeout)
    let v6 := (Params.val? p 9).getD (s.get (TIME.PORT_IPV6 n))
    let en := (Params.val? p 2).getD (s.get (TIME.PORT_ENABLE n))
    let was := s.get (TIME.PORT_ENABLE n)
    let moved := newProf || dom != s.get (TIME.PORT_DOMAIN n) || v6 != s.get (TIME.PORT_IPV6 n)
    let s := s.setPtp n { x with
      prio1 := (Params.val? p 5).getD x.prio1, prio2 := (Params.val? p 6).getD x.prio2,
      dscp := (Params.val? p 10).getD x.dscp, logAnnounce := ann, receiptTimeout := rct }
    let s := (((s.set (TIME.PORT_PROFILE n) prof).set (TIME.PORT_DOMAIN n) dom).seti (TIME.PORT_LOG_SYNC n) syn).seti
      (TIME.PORT_LOG_DREQ n) drq
    let oldV6 := s.get (TIME.PORT_IPV6 n)
    let s := (s.set (TIME.PORT_SLAVE_ONLY n)
      ((Params.val? p 7).getD (s.get (TIME.PORT_SLAVE_ONLY n)))).set (TIME.PORT_ONE_STEP n)
      ((Params.val? p 8).getD (s.get (TIME.PORT_ONE_STEP n)))
    let s := if was = 1 ∧ (en = 0 ∨ v6 ≠ s.get (TIME.PORT_IPV6 n)) then s.ptpGroup n false else s
    let s := s.set (TIME.PORT_IPV6 n) v6
    let s := if en = 1 ∧ (was = 0 ∨ v6 ≠ oldV6) then s.ptpGroup n true else s
    let s := s.set (TIME.PORT_ENABLE n) en
    if en = 0 then (Reply.ok [], (s.setPtp n { s.ptp n with parent := none, foreign := [] }).setPortState n 3)
    else if was = 0 || moved then (Reply.ok [], s.ptpStart n)
    else (Reply.ok [], s)

/-- PTP_PORT_SET (R54, R55, R84). -/
def execPtpPortSet (r : Req) (p : List Tlv) (s : State) : Out := runCmd 0x0202 ptpPortSetParams ptpPortSetBody r p s

/-- SERVO_SET's parameters: MODE; STEP_EN; AUTO_SWITCH; SERVO_PORT_PREF; the gains; the thresholds; SLEW_MAX; FREQ_RANGE;
PC_THR; PC_CFG with its RESUME. -/
def servoSetParams : List PSpec :=
  [popt 1 1 0 1, popt 2 1 0 1, popt 3 1 0 1, popt 4 1 0 1, popt 5 2 0 0xFFFF, popt 6 2 0 0xFFFF, popt 7 2 0 0xFFFF,
   popt 8 2 0 0xFFFF, popt 9 4 0 0xFFFFFFFF, popt 10 1 0 0xFF, popt 11 2 0 0xFFFF, popt 12 4 0 0xFFFFFFFF,
   popt 13 4 0 0xFFFFFF, popt 14 1 0 0xFF, popt 15 2 0 0xFFFF, popt 16 2 0 0xFFFF, popt 17 2 0 0xFFFF, popt 18 1 0 0xFF,
   popt 19 1 0 15, popt 20 1 0 1, popt 21 1 0 1]

def servoSetFlds : List PFld :=
  [⟨1, TIME.CTRL_MODE, .servo⟩, ⟨2, TIME.CTRL_STEP_EN, .live⟩, ⟨3, TIME.CTRL_AUTO_SWITCH, .live⟩,
   ⟨4, TIME.CTRL_SERVO_PORT_PREF, .live⟩, ⟨5, TIME.SERVO_ACQ_KP, .servo⟩, ⟨6, TIME.SERVO_ACQ_KI, .servo⟩,
   ⟨7, TIME.SERVO_TRK_KP, .servo⟩, ⟨8, TIME.SERVO_TRK_KI, .servo⟩, ⟨9, TIME.SERVO_THR_STEP, .live⟩,
   ⟨10, TIME.SERVO_LOCK_N, .live⟩, ⟨11, TIME.SERVO_THR_LOCK, .live⟩, ⟨12, TIME.SERVO_THR_UNLOCK, .live⟩,
   ⟨13, TIME.SERVO_SLEW_MAX, .servo⟩, ⟨14, TIME.SERVO_FREQ_RANGE, .servo⟩, ⟨15, TIME.SERVO_DLY_THR, .live⟩,
   ⟨16, TIME.SERVO_OFS_THR, .live⟩, ⟨17, TIME.SERVO_PC_TIMEOUT, .live⟩, ⟨18, TIME.SERVO_PC_MATCH, .live⟩,
   ⟨19, TIME.SERVO_PC_COUNT, .live⟩, ⟨21, TIME.SERVO_PC_EN, .live⟩]

/-- SERVO_SET (R84). -/
def execServoSet (r : Req) (p : List Tlv) (s : State) : Out :=
  runCmd 0x0203 servoSetParams (fun p s =>
    let keys := (servoSetFlds.filter (fun f => Params.has p f.ty)).map (fun f => f.fld.key)
    let s := (writeFlds s p servoSetFlds).servoApply (fun k => keys.contains k)
    (Reply.ok [], if Params.val p 20 = 1 ∧ s.get TIME.STATUS_SERVO_STATE = 3 then s.resume else s)) r p s

/-- ASYM_SET (R84, R79). -/
def execAsymSet (r : Req) (p : List Tlv) (s : State) : Out :=
  runCmd 0x0204 [preq 1 1 0 1, { psig 2 4 32 with req := true }]
    (fun p s => (Reply.ok [], s.setB (TIME.PORT_ASYM (Params.val p 1)) .offset (Params.val p 2))) r p s

/-- TIME_SET's parameters: seconds; nanoseconds; APPLY; APPLY_PPS; PPS_SRC; FORCE; VALIDATE. -/
def timeSetParams : List PSpec :=
  [popt 1 8 0 (2 ^ 48 - 1), popt 2 4 0 999999999, pflag 3, pflag 4, popt 5 1 0 3, pflag 6, pflag 7]

def timeSetBody (p : Params) (s : State) : Reply × State :=
  let apply := Params.has p 3
  let pps := Params.has p 4
  let force := Params.has p 6
  if apply && pps then (Reply.errAt Status.badParam p 4, s)
  else if (apply || pps) && !(s.loadPermitted force) then (Reply.err Status.notInState, s)
  else
    let s := match Params.val? p 1 with
      | some v => (s.set TIME.LOAD_SET_SEC_LO (v % 2 ^ 32)).set TIME.LOAD_SET_SEC_HI (v / 2 ^ 32)
      | none => s
    let s := match Params.val? p 2 with
      | some v => s.set TIME.LOAD_SET_NS v
      | none => s
    let src := (Params.val? p 5).getD (s.get TIME.LOAD_PPS_SRC)
    (Reply.ok [], s.setCtrl 2 ((if apply then 1 else 0) + (if pps then 2 else 0) +
      (if Params.has p 7 then 4 else 0) + (if force then 8 else 0) + 16 * src))

/-- TIME_SET (R82, R84). -/
def execTimeSet (r : Req) (p : List Tlv) (s : State) : Out := runCmd 0x0205 timeSetParams timeSetBody r p s

/-- PATH_RESUME (R79). -/
def execPathResume (r : Req) (p : List Tlv) (s : State) : Out :=
  runCmd 0x0206 [] (fun _ s =>
    if s.get TIME.STATUS_SERVO_STATE = 3 then (Reply.ok [], s.resume) else (Reply.err Status.notInState, s)) r p s

/-- SERVO_PORT_SELECT (R84). -/
def execServoPortSelect (r : Req) (p : List Tlv) (s : State) : Out :=
  runCmd 0x0207 [preq 1 1 0 1] (fun p s =>
    let n := Params.val p 1
    if s.eligible n then
      (Reply.ok [], if n = s.get TIME.STATUS_ACTIVE_PORT then s else s.switchPort n 2)
    else (Reply.err Status.notInState, s)) r p s

/-- The data sets of IEEE 1588-2019 in their management layout, network order (R84). -/
def ptpDataset (s : State) (p n : Nat) : List Byte :=
  let x := s.ptp p
  let own := s.ownAnnounce p
  let par := x.parent.getD own
  if n = 0 then
    be 1 ((if s.on (TIME.PORT_ONE_STEP p) then 0 else 1) + 2 * s.get (TIME.PORT_SLAVE_ONLY p)) ++ be 1 0 ++ be 2 1 ++
    be 1 own.prio1 ++ be 1 own.cls ++ be 1 own.acc ++ be 2 own.var ++ be 1 own.prio2 ++ be 8 s.life.ident.eui ++
    be 1 own.domain ++ be 1 0
  else if n = 1 then
    be 2 (if x.parent.isSome then par.steps + 1 else 0) ++
    be 8 (ofSigned 64 (s.geti (TIME.PORT_OFS_NS p) * 65536 + s.get (TIME.PORT_OFS_FRAC p))) ++
    be 8 (ofSigned 64 (s.geti (TIME.PORT_MPD_NS p) * 65536 + s.get (TIME.PORT_MPD_FRAC p)))
  else if n = 2 then
    be 10 par.src ++ be 1 0 ++ be 1 0 ++ be 2 0xFFFF ++ be 4 0x7FFFFFFF ++ be 1 par.prio1 ++ be 1 par.cls ++
    be 1 par.acc ++ be 2 par.var ++ be 1 par.prio2 ++ be 8 par.gm
  else if n = 3 then
    be 2 par.utcOffset ++ be 1 (Announce.timeFlags par) ++ be 1 par.timeSource
  else
    be 10 (s.life.ident.eui * 65536 + 1) ++ be 1 (s.get (TIME.PORT_STATE p)) ++ be 1 (s.get (TIME.PORT_LOG_DREQ p)) ++
    be 8 0 ++ be 1 (ofSigned 8 x.logAnnounce) ++ be 1 x.receiptTimeout ++ be 1 (s.get (TIME.PORT_LOG_SYNC p)) ++
    be 1 1 ++ be 1 0 ++ be 1 2

/-- PTP_DATASET_GET (R84). -/
def execPtpDatasetGet (r : Req) (p : List Tlv) (s : State) : Out :=
  runCmd 0x0208 [preq 1 1 0 1, preq 2 1 0 4] (getBody (fun p s => ptpDataset s (Params.val p 1) (Params.val p 2))) r p s

/-- CLOCK_QUALITY_SET (R84, R110): condition index and its clockClass; clockAccuracy; offsetScaledLogVariance; timeSource;
TRACEABLE. -/
def execClockQualitySet (r : Req) (p : List Tlv) (s : State) : Out :=
  runCmd 0x0209 [popt 1 1 0 3, popt 2 1 0 255, popt 3 1 0 255, popt 4 2 0 0xFFFF, popt 5 1 0 255, popt 6 1 0 255]
    (fun p s =>
      if Params.has p 1 != Params.has p 2 then (Reply.err Status.badParam, s)
      else
        let cls := match Params.val? p 1 with
          | some c => s.time.cls.set c (Params.val? p 2)
          | none => s.time.cls
        let s := { s with time := { s.time with
          cls := cls, accuracy := (Params.val? p 3).getD s.time.accuracy,
          variance := (Params.val? p 4).getD s.time.variance,
          timeSource := (Params.val? p 5).getD s.time.timeSource } }
        (Reply.ok [], match Params.val? p 6 with
          | some v => s.set CLK.TRACE v
          | none => s)) r p s

end Sys2Proof.Machine
end

