-- ==== Sys2Proof/Machine/Clock.lean ====
section
/-! DEFINITION. Hearth (chapter 03): candidate references and their qualification, selection, the DPLL state machine, holdover,
outputs and status pins. Frequencies are in ppt from nominal as the local oscillator sees them. -/

namespace Sys2Proof.Machine

def State.refSt (s : State) (n : Nat) : RefState := unitAt s.clk.refs n RefState.reset
def State.setRefSt (s : State) (n : Nat) (x : RefState) : State :=
  { s with clk := { s.clk with refs := s.clk.refs.setIfInBounds n x } }
def State.dpll (s : State) (d : Nat) : DpllState := unitAt s.clk.dplls d DpllState.reset
def State.setDpll (s : State) (d : Nat) (x : DpllState) : State :=
  { s with clk := { s.clk with dplls := s.clk.dplls.setIfInBounds d x } }

/-! ## Reference types and rates (R90, R91, R94, R104) -/

/-- TYPE and FREQ stand in the table of R91. -/
def refTypeOk (type freq : Nat) : Bool :=
  match type with
  | 0 => [44100, 48000, 88200, 96000, 176400, 192000].contains freq
  | 1 => [44100, 48000, 88200, 96000, 176400, 192000].contains freq
  | 2 => true
  | 3 => true
  | 4 => decide (1 ≤ freq ∧ freq ≤ 25000000)
  | _ => false

/-- The phase mode of reference n is fixed at this value, or none where it is RW. -/
def fixedPhase (n type src : Nat) : Option Nat :=
  if n < 4 then (if type = 2 ∨ 4 ≤ type then some 0 else none)
  else if n = 4 ∨ n = 5 then some 0
  else if n = 6 then some 1
  else if src < 4 then some 1 else none

/-- The frequency Hearth sees from reference n, as a fraction in Hz. -/
def State.refFreq (s : State) (n : Nat) : Nat × Nat :=
  if n < 4 then
    match s.get (CLK.REF_TYPE n) with
    | 2 => (10000000, 1)
    | 3 => (1, 1)
    | _ => (s.get (CLK.REF_FREQ n), 1)
  else if n = 4 ∨ n = 5 then (1562500, 1)
  else if n = 6 then
    let ls := s.logSync (s.get TIME.STATUS_ACTIVE_PORT)
    if ls ≤ 0 then (2 ^ (-ls).toNat, 1) else (1, 2 ^ ls.toNat)
  else if s.get (CLK.REF_SRC 7) < 4 then (1562500, 1) else (s.get (CLK.REF_FREQ 7), 1)

/-- The compare rate (R104): the reference divided by the smallest k that makes it no more than 8,000 Hz. -/
def State.compareRate (s : State) (n : Nat) : Nat × Nat :=
  let (a, b) := s.refFreq n
  let k := (a + 8000 * b - 1) / (8000 * b)
  (a, b * (if k = 0 then 1 else k))

/-- The gate of the frequency monitor in ms (R94); reference 6 and 1PPS use 1 s. -/
def State.gateMs (s : State) (n : Nat) : Nat :=
  let (a, b) := s.compareRate n
  if n = 6 ∨ a < 100 * b then 1000 else 100

/-! ## Summary bits, events and pins -/

/-- REF_SUMMARY follows the references. -/
def State.refSum (s : State) (n : Nat) : State :=
  let s := (s.setBit CLK.SUM_ENABLED n (s.on (CLK.REF_ENABLE n))).setBit CLK.SUM_ACTIVE n (s.on (CLK.REF_ACTIVE n))
  (s.setBit CLK.SUM_QUALIFIED n (s.get (CLK.REF_QSTATE n) == 3)).setBit CLK.SUM_SUSPECT n (s.on (CLK.REF_SUSPECT n))

/-- CKS_LOCK, CKS_HOLD and CKS_SEL show DPLL0 (R113); without XO_IN they stand at their FREERUN levels (R89). -/
def State.cksPins (s : State) : State :=
  let sel := s.get (CLK.DPLL_SEL_REF 0)
  let st := s.get (CLK.DPLL_STATE 0)
  let c := s.clk
  let clk :=
    if s.get CLK.CTRL_PINS_EN = 0 then { c with cksLock := 0, cksHold := 0, cksSel := 0 }
    else if s.get CLK.XO_OK = 0 ∨ st = 0 then { c with cksLock := 1, cksHold := 1, cksSel := 0 }
    else if st = 1 then { c with cksLock := 0, cksHold := 0, cksSel := sel }
    else if st = 2 then { c with cksLock := 1, cksHold := 0, cksSel := sel }
    else { c with cksLock := 0, cksHold := 1, cksSel := (s.dpll 0).lastSel.getD 0 }
  { s with clk := clk }

/-- A member of a pair that follows its peer: in RESYNC or STANDBY (R444). -/
def State.standingBy (s : State) : Bool := s.get PAIR.STATUS_ROLE == 4 || s.get PAIR.STATUS_ROLE == 5

/-- The rank of reference r for DPLL d: RANKS, save that DPLL0 of a unit in RESYNC or STANDBY uses reference 7 alone (R444). -/
def State.rank (s : State) (d r : Nat) : Nat :=
  if d = 0 ∧ s.standingBy then (if r = 7 then 0 else 15) else s.get (CLK.DPLL_RANK d r)

/-- Reference r is selectable by DPLL d (R99). -/
def State.selectable (s : State) (d r : Nat) : Bool :=
  s.get (CLK.REF_QSTATE r) == 3 && decide (s.rank d r ≤ 7)

/-- The lowest rank in a list of references. -/
def lowestRank (s : State) (d : Nat) (l : List Nat) : Option Nat :=
  l.foldl (fun acc r => match acc with
    | some k => some (if s.rank d r < k then s.rank d r else k)
    | none => some (s.rank d r)) none

def State.selectables (s : State) (d : Nat) : List Nat := (List.range 8).filter (fun r => s.selectable d r)

/-- REF_DISAGREE of DPLL d follows the live condition; a rise sets INT.DISAGREE (R100). -/
def State.disagree (s : State) (d : Nat) : State :=
  let l := s.selectables d
  let k := if s.on (CLK.DPLL_SEL_VALID d) then some (s.rank d (s.get (CLK.DPLL_SEL_REF d))) else lowestRank s d l
  let v := (l.filter (fun r => some (s.rank d r) == k)).map (fun r => s.geti (CLK.REF_FREQ_OFS r))
  let diff := match v with
    | [] => 0
    | a :: t => (t.foldl max a - t.foldl min a).toNat
  let now := decide (2 ≤ v.length) && decide (s.get CLK.DISAGREE_THR < diff)
  let was := s.on (CLK.DPLL_REF_DISAGREE d)
  let s := s.setOn (CLK.DPLL_REF_DISAGREE d) now
  if now && !was then
    s.signal CLK.INT CLK.INT_EN CLK.INT_DISAGREE 0x0304 8 d ([BitVec.ofNat 8 (k.getD 0), 0, 0, 0] ++ le 4 diff)
  else s

def State.disagreeAll (s : State) : State := (List.range 4).foldl State.disagree s

/-- Reference n is no longer selectable continuously for WTR seconds. -/
def DpllState.notRestored (n : Nat) (x : DpllState) : DpllState :=
  { x with wtrDone := if x.wtrDone.testBit n then x.wtrDone - 2 ^ n else x.wtrDone }

/-- Disqualify reference n with a cause (R95): the record, the flag and event 0x0302. -/
def State.refDisqualify (s : State) (n cause : Nat) : State :=
  let s := (s.set (CLK.REF_LAST_CAUSE n) cause).count (CLK.REF_DISQ_CNT n)
  let s := { s with clk := { s.clk with dplls := s.clk.dplls.map (DpllState.notRestored n) } }
  s.signal CLK.INT CLK.INT_EN CLK.INT_DISQ 0x0302 8 n
    ([BitVec.ofNat 8 cause, 0, 0, 0] ++ le 4 (s.get (CLK.REF_FREQ_OFS n)))

/-- Put reference n in a qualification state, its timers and windows cleared; REF_DISAGREE follows (R100). -/
def State.refQState (s : State) (n q : Nat) : State :=
  let x := s.refSt n
  (((s.set (CLK.REF_QSTATE n) q).setRefSt n
    { RefState.reset with ofs := x.ofs, rejectRun := if q ≤ 1 then 0 else x.rejectRun }).refSum n).disagreeAll

/-- Activity of reference n is lost, at an enabled reference (R93, R95). -/
def State.refLost (s : State) (n : Nat) : State :=
  let q := s.get (CLK.REF_QSTATE n)
  let s := s.set (CLK.REF_ACTIVE n) 0
  let s := if q = 3 then s.refDisqualify n 1 else s
  let s := if q = 2 ∨ q = 3 then s.count (CLK.REF_ACT_LOSS_CNT n) else s
  s.refQState n 1

/-- Reference n loses its clock: where it was active, it is disqualified at once (R93). -/
def State.refGone (s : State) (n : Nat) : State := if s.on (CLK.REF_ENABLE n) ∧ 2 ≤ s.get (CLK.REF_QSTATE n) then s.refLost n else s

/-- The orbit link whose recovered clock reference 7 takes: ORB3 on a member that follows its peer (R444), the uplink in use on a moon (R434), else that of
SRC 0 to 3 (R90). -/
def State.ref7Link (s : State) : Option Nat :=
  if s.standingBy then some 3
  else if s.isMoon then some (if s.on ORB.STATUS_TIME_UP then s.get ORB.STATUS_UPB else s.get ORB.STATUS_UPA)
  else if s.get (CLK.REF_SRC 7) < 4 then some (s.get (CLK.REF_SRC 7))
  else none

/-- Reference 7 is lost where its link no longer has a clock. -/
def State.ref7Check (s : State) : State :=
  match s.ref7Link with
  | some n => if s.get (ORB.LINK_LINK_STATE n) < 2 then s.refGone 7 else s
  | none => s

/-- The clock of reference 7 may be active: an orbit clock, or the offered clock of a follower group (R92). -/
def State.ref7Offered (s : State) : Bool :=
  let src := s.get (CLK.REF_SRC 7)
  s.ref7Link.isSome || (src < 8 && s.on (TDM.G_OFFER (src - 4)) && s.get (TDM.G_CLK_STATE (src - 4)) == 3)

/-- REF_ACTIVITY_LOSS (R93, R95). For reference 6 it comes when R92 no longer holds. -/
def execRefActivityLoss (n : Nat) (s : State) : Out :=
  if n < 8 ∧ s.on (CLK.REF_ENABLE n) ∧ !(n == 6 && s.ref6Active) then .next (s.refLost n) else .next s

/-- REF_ACTIVITY_GAIN (R93, R95). -/
def execRefActivityGain (n : Nat) (s : State) : Out :=
  if n < 8 ∧ s.on (CLK.REF_ENABLE n) ∧ s.on CLK.XO_OK ∧ s.get (CLK.REF_CFG_ERR n) = 0 ∧ s.get (CLK.REF_QSTATE n) < 2 ∧
      (n ≠ 6 ∨ s.ref6Active) ∧ (n ≠ 7 ∨ s.ref7Offered) then
    .next ((s.set (CLK.REF_ACTIVE n) 1).refQState n 2)
  else .next s

/-- PPS_EDGE_REJECT (R93): an edge more than 1 µs from its instant; three in a row are a loss of activity. `used` says that an edge has been used since
the last one rejected. -/
def execPpsEdgeReject (n : Nat) (used : Bool) (s : State) : Out :=
  if n < 4 ∧ s.on (CLK.REF_ENABLE n) ∧ s.get (CLK.REF_TYPE n) = 3 then
    let s := s.count (CLK.REF_PPS_REJECT n)
    let x := s.refSt n
    let run := if used then 1 else x.rejectRun + 1
    if 3 ≤ run then .next (s.refLost n)
    else .next (s.setRefSt n { x with rejectRun := run })
  else .next s

/-! ## Monitors (R94 to R98) -/

/-- A limit capped at 100,000,000 ppt. -/
def capPpt (n : Nat) : Nat := if n ≤ 100000000 then n else 100000000

/-- The qualification timer at the close of a gate (R95, R96). -/
def State.qualGate (s : State) (n : Nat) (inAccept : Bool) : State :=
  let x := s.refSt n
  if !inAccept || (s.on (CLK.REF_SUSPECT n) && s.on (CLK.REF_DRIFT_ACT n)) then s.setRefSt n { x with qualMs := none }
  else
    let t := (x.qualMs.getD 0) + s.gateMs n
    if s.get (CLK.REF_QUAL_TIME n) * 100 ≤ t then
      let s := (s.count (CLK.REF_QUAL_CNT n)).refQState n 3
      s.signal CLK.INT CLK.INT_EN CLK.INT_QUAL 0x0301 8 n (le 4 (s.get (CLK.REF_FREQ_OFS n)))
    else s.setRefSt n { x with qualMs := some t }

/-- The persistence timer at the close of a gate of a QUALIFIED reference (R96). -/
def State.persistGate (s : State) (n : Nat) (outReject : Bool) : State :=
  let x := s.refSt n
  if !outReject then s.setRefSt n { x with persistMs := none }
  else
    let t := match x.persistMs with
      | some t => t + s.gateMs n
      | none => 0
    if s.get (CLK.REF_PERSIST n) ≤ t ∧ (x.persistMs.isSome ∨ s.get (CLK.REF_PERSIST n) = 0) then
      (s.refDisqualify n 2).refQState n 2
    else s.setRefSt n { x with persistMs := some t }

/-- The counter's frequency in ppt from nominal as the local oscillator sees it: the rate of INCR on a CORE clock whose error is left open (assumption 116). -/
def State.counterPpt (s : State) : Int :=
  divRound ((s.time.incr : Int) * (1000000000000 + Config.coreErr s.cycles) - (incrNom : Int) * 1000000000000) incrNom

/-- The rate of change of the offset on the active port, in ppt: the last two offsets a nominal Sync interval apart (DESIGN CHOICE, assumption 117). -/
def State.ofsRate (s : State) : Int :=
  let a := s.get TIME.STATUS_ACTIVE_PORT
  let ls := s.logSync a
  match (s.ptp a).baseline.reverse with
  | (x, _) :: (y, _) :: _ =>
    if ls ≤ 0 then divRound ((x - y) * 1000 * 2 ^ (-ls).toNat) 131072 else divRound ((x - y) * 1000) (131072 * 2 ^ ls.toNat)
  | _ => 0

/-- What the frequency monitor measures of reference n: `ofs` of a clock outside; for the virtual reference the counter's own frequency corrected by the
rate of change of the offset (R71). -/
def State.measured (s : State) (n : Nat) (ofs : Int) : Int := if n = 6 then s.counterPpt - s.ofsRate else ofs

/-- FREQ_GATE_CLOSE (R94 to R97): `ofs` is the mean offset against nominal over the gate, in ppt, of a reference but the virtual one. -/
def execFreqGateClose (n : Nat) (ofs : Int) (s : State) : Out :=
  if n < 8 ∧ s.on (CLK.REF_ENABLE n) ∧ s.on (CLK.REF_ACTIVE n) then
    let ofs := s.measured n ofs
    let hoValid := s.on (CLK.DPLL_HO_VALID 0)
    let ho := if hoValid then s.geti (CLK.DPLL_HO_FREQ 0) else 0
    let m := if s.on CLK.CTRL_FM_BASE && hoValid then ofs - ho else ofs
    let acc := capPpt (s.get (CLK.REF_ACCEPT n))
    let rej := max acc (capPpt (s.get (CLK.REF_REJECT n)))
    let s := s.seti (CLK.REF_FREQ_OFS n) m
    let inA := decide (m.natAbs ≤ acc)
    let outR := decide (rej < m.natAbs)
    let s := (s.setOn (CLK.REF_IN_ACCEPT n) inA).setOn (CLK.REF_OUT_REJECT n) outR
    let x := s.refSt n
    let s := s.setRefSt n { x with ofs := ofs }
    let s := match s.get (CLK.REF_QSTATE n) with
      | 2 => s.qualGate n inA
      | 3 =>
        let x := s.refSt n
        (s.setRefSt n { x with driftSum := x.driftSum + (ofs - ho), driftCount := x.driftCount + 1 }).persistGate n outR
      | _ => s
    .next s.disagreeAll
  else .next s

/-- DRIFT_WINDOW_CLOSE (R97, R98): a 1,000 s window of a QUALIFIED reference closes. The rate and D_k are rounded to the nearest ppt, halves away from zero
(DESIGN CHOICE, assumption 107). -/
def execDriftWindowClose (n : Nat) (s : State) : Out :=
  if n < 8 ∧ s.get (CLK.REF_QSTATE n) = 3 then
    let x := s.refSt n
    let (a, b) := (x.driftSum, x.driftCount)
    let s := s.setRefSt n { x with driftSum := 0, driftCount := 0, prevDrift := some (a, b) }
    match x.prevDrift with
    | none => .next s
    | some (c, d) =>
      let lim := s.get (CLK.REF_DRIFT_LIM n)
      let num := a * d - c * b
      if lim = 0 then .next s
      else
        let rk := divRound num (1000 * b * d)
        let s := s.seti (CLK.REF_DRIFT_RATE n) rk
        if lim * 1000 * b * d < num.natAbs then
          let s := ((s.set (CLK.REF_SUSPECT n) 1).count (CLK.REF_SUSPECT_CNT n)).refSum n
          let s := s.signal CLK.INT CLK.INT_EN CLK.INT_SUSPECT 0x0303 8 n (leI 4 rk ++ leI 4 (divRound a b))
          .next (if s.on (CLK.REF_DRIFT_ACT n) then (s.refDisqualify n 3).refQState n 2 else s)
        else .next s
  else .next s

/-! ## The DPLL state machine (R99 to R107, R110 to R112) -/

/-- Loop bandwidths in mHz by code (R104). -/
def bwTable : List Nat := [1, 3, 10, 30, 100, 300, 1000, 3000, 10000, 30000, 100000, 300000]

/-- The code in force for a selected code: capped by the compare rate ÷ 20. -/
def bwInForce (rate : Nat × Nat) (code : Nat) : Nat :=
  let c := if code < 12 then code else 11
  ((List.range (c + 1)).filter (fun i => nth bwTable i 0 * 20 * rate.2 ≤ rate.1 * 1000)).foldl max 0

/-- The codes in force for ACQ_BW and TRK_BW with reference r: an ACQ_BW narrower than TRK_BW acts as TRK_BW. -/
def State.bwCodes (s : State) (d r : Nat) : Nat × Nat :=
  let t := s.eff (CLK.DPLL_TRK_BW d)
  let a := s.eff (CLK.DPLL_ACQ_BW d)
  (bwInForce (s.compareRate r) (max a t), bwInForce (s.compareRate r) t)

/-- STEER clamped to ±100 ppm (R111). -/
def State.steer (s : State) (d : Nat) : Int := clampInt (-100000000) 100000000 (s.geti (CLK.DPLL_STEER d))

/-- Move DPLL d to a state (R103), with its flag, events and pins; DPLL0's state reaches the servo (R112). -/
def State.dpllState (s : State) (d st : Nat) : State :=
  let old := s.get (CLK.DPLL_STATE d)
  let s := s.set (CLK.DPLL_STATE d) st
  let s := if st = old then s else
    let s := if old = 2 ∧ st ≠ 0 then (s.count (CLK.DPLL_LOCK_LOSS_CNT d)).setBit CLK.INT CLK.INT_LOCK_LOSS true else s
    let sel := if s.on (CLK.DPLL_SEL_VALID d) then s.get (CLK.DPLL_SEL_REF d) else 0xFF
    s.signal CLK.INT CLK.INT_EN CLK.INT_STATE 0x0305 8 d [BitVec.ofNat 8 old, BitVec.ofNat 8 st, BitVec.ofNat 8 sel]
  let x := s.dpll d
  let s := s.setDpll d { x with secLocked := x.secLocked && st == 2, dwell := 0, bad := 0 }
  if d = 0 then s.servoFollow.cksPins else s

/-- Enter ACQUIRE on the selected reference: the loop at ACQ_BW, or at TRK_BW where lock was lost (R103, R106). -/
def State.acquire (s : State) (d : Nat) (track : Bool) : State :=
  let (a, t) := s.bwCodes d (s.get (CLK.DPLL_SEL_REF d))
  (s.set (CLK.DPLL_BW d) (if track then t else a)).dpllState d 1

/-- HO_IN_SPEC (R110). -/
def State.hoInSpec (s : State) (d : Nat) : State :=
  s.setOn (CLK.DPLL_HO_IN_SPEC d) (s.get (CLK.DPLL_STATE d) == 3 && (s.dpll d).enteredValid &&
    decide (s.get (CLK.DPLL_HO_AGE d) < s.get (CLK.DPLL_HO_SPEC_TIME d)))

/-- PULL_MAX in force (R107, R123). -/
def State.pullMax (s : State) (d : Nat) : Nat :=
  let cap := if d = 0 then 10000000 else 100000000
  if s.eff (CLK.DPLL_PULL_MAX d) ≤ cap then s.eff (CLK.DPLL_PULL_MAX d) else cap

/-- The output stays within PULL_MAX of its holdover or free-run target `t` (R107), which comes before the slewing of R110 and R111 (DEDUCED,
assumption 114). -/
def State.holdFreq (s : State) (d : Nat) (t f : Int) : State :=
  s.seti (CLK.DPLL_FREQ d) (clampInt (t - s.pullMax d) (t + s.pullMax d) f)

/-- Enter HOLDOVER (R110): the target is HO_FREQ, or the last LOCKED second before the exclusion, or the present
frequency. It is fixed at entry, whatever HO_FREQ becomes while the DPLL is in HOLDOVER (DESIGN CHOICE, assumption 109). -/
def State.enterHoldover (s : State) (d : Nat) : State :=
  let x := s.dpll d
  let valid := s.on (CLK.DPLL_HO_VALID d)
  let before := (x.secs.drop (s.get (CLK.DPLL_HO_EXCL d))).find? (fun c => c.locked)
  let target := if valid then s.geti (CLK.DPLL_HO_FREQ d) else match before with
    | some c => c.freq
    | none => s.geti (CLK.DPLL_FREQ d)
  let s := if s.get (CLK.DPLL_STATE d) = 1 ∨ s.get (CLK.DPLL_STATE d) = 2 then s.count (CLK.DPLL_HOLD_CNT d) else s
  let s := (s.setDpll d { x with target := target, enteredValid := valid }).set (CLK.DPLL_HO_AGE d) 0
  let s := s.holdFreq d (target + s.steer d) (s.geti (CLK.DPLL_FREQ d))
  (s.dpllState d 3).hoInSpec d

/-- Leave for FREERUN: HO_AGE reads 0 outside HOLDOVER. -/
def State.enterFreerun (s : State) (d : Nat) : State :=
  let s := s.holdFreq d (s.steer d) (s.geti (CLK.DPLL_FREQ d))
  ((s.set (CLK.DPLL_HO_AGE d) 0).dpllState d 0).hoInSpec d

/-- F of R99: the frequency a candidate's offset is compared with. -/
def State.chooseF (s : State) (d : Nat) : Int :=
  if s.on (CLK.DPLL_HO_VALID d) then s.geti (CLK.DPLL_HO_FREQ d) else s.geti (CLK.DPLL_FREQ d)

/-- choose(k) of R99: the reference of rank k whose FREQ_OFS is nearest to F, the lower index on a tie. -/
def State.choose (s : State) (d k : Nat) : Option Nat :=
  let f := s.chooseF d
  ((s.selectables d).filter (fun r => s.rank d r == k)).foldl (fun acc r => match acc with
    | some a => if (s.geti (CLK.REF_FREQ_OFS r) - f).natAbs < (s.geti (CLK.REF_FREQ_OFS a) - f).natAbs then some r else some a
    | none => some r) none

/-- The references DPLL d has found selectable for WTR seconds; with WTR = 0, every selectable one. -/
def State.restored (s : State) (d : Nat) : List Nat :=
  (s.selectables d).filter (fun r => s.get (CLK.DPLL_WTR d) == 0 || (s.dpll d).wtrDone.testBit r)

/-- The selection of R99: the reference, if any, and whether the move is a revertive one. -/
def State.selection (s : State) (d : Nat) : Option Nat × Bool :=
  let mode := s.eff (CLK.DPLL_MODE d)
  let cur := if s.on (CLK.DPLL_SEL_VALID d) then some (s.get (CLK.DPLL_SEL_REF d)) else none
  if mode = 2 ∨ mode = 3 then (none, false)
  else if mode = 1 then
    let m := s.eff (CLK.DPLL_MAN_REF d)
    (if s.selectable d m then some m else none, false)
  else
    let best := match lowestRank s d (s.selectables d) with
      | some k => s.choose d k
      | none => none
    match cur with
    | some c =>
      if s.selectable d c then
        if s.on (CLK.DPLL_REVERTIVE d) then
          match lowestRank s d (s.restored d) with
          | some k => if k < s.rank d c then (s.choose d k, true) else (some c, false)
          | none => (some c, false)
        else (some c, false)
      else (best, false)
    | none => (best, false)

/-- STATUS.WTR_RUN (R99). -/
def State.wtrRun (s : State) (d : Nat) : State :=
  let better := s.on (CLK.DPLL_REVERTIVE d) && s.on (CLK.DPLL_SEL_VALID d) && (s.selectables d).any (fun r =>
    decide (s.rank d r < s.rank d (s.get (CLK.DPLL_SEL_REF d))) && !((s.restored d).contains r))
  s.setOn (CLK.DPLL_WTR_RUN d) better

/-- One evaluation of selection by DPLL d (R101): written MODE and MAN_REF come into force, the selection of R99 is made,
and the DPLL passes through the state machine of R103. Event 0x0306 gives cause 2 after a write of MODE, MAN_REF or RANKS or an enable of the DPLL, and cause 0 also
where a reference is selected from none because it qualified, for which R117 lists no cause (DESIGN CHOICE, assumption 110). -/
def State.evaluate (s : State) (d : Nat) : State :=
  if !(s.on (CLK.DPLL_ENABLE d)) || !(s.on CLK.XO_OK) then s
  else
    let s := s.boundary .selection (fun k => k == (CLK.DPLL_MODE d).key || k == (CLK.DPLL_MAN_REF d).key)
    let mode := s.eff (CLK.DPLL_MODE d)
    let st := s.get (CLK.DPLL_STATE d)
    let old := if s.on (CLK.DPLL_SEL_VALID d) then some (s.get (CLK.DPLL_SEL_REF d)) else none
    let (sel, rev) := s.selection d
    let cause := if rev then 1 else if (s.dpll d).moved then 2 else 0
    let s := s.setDpll d { s.dpll d with
      moved := false, lastSel := if sel.isSome then sel else (s.dpll d).lastSel, held := if sel = old then (s.dpll d).held else none }
    let s := (s.setOn (CLK.DPLL_SEL_VALID d) sel.isSome).set (CLK.DPLL_SEL_REF d) (sel.getD 0)
    let s := if sel = old then s else
      (s.count (CLK.DPLL_SWITCH_CNT d)).signal CLK.INT CLK.INT_EN CLK.INT_SWITCH 0x0306 8 d
        [BitVec.ofNat 8 (old.getD 0xFF), BitVec.ofNat 8 (sel.getD 0xFF), BitVec.ofNat 8 cause]
    let s :=
      if mode = 3 then (if st = 0 then s else s.enterFreerun d)
      else if mode = 2 then (if st = 0 ∨ st = 3 then s else s.enterHoldover d)
      else match sel with
        | some _ => if st = 0 ∨ st = 3 ∨ sel ≠ old then ((s.set (CLK.DPLL_HO_AGE d) 0).acquire d false).hoInSpec d else s
        | none => if st = 1 ∨ st = 2 then s.enterHoldover d else s
    ((s.wtrRun d).disagree d).cksPins

/-- SELECTION_EVALUATION (R101). -/
def execSelectionEvaluation (d : Nat) (s : State) : Out := .next (if d < 4 then s.evaluate d else s)

/-- WTR_EXPIRY (R99, R101): reference r has been selectable by DPLL d for WTR seconds. -/
def execWtrExpiry (d r : Nat) (s : State) : Out :=
  if d < 4 ∧ r < 8 ∧ s.selectable d r then
    let x := s.dpll d
    .next ((s.setDpll d { x with wtrDone := x.wtrDone ||| 2 ^ r }).wtrRun d)
  else .next s

/-- The dwell of a code in µs: the greater of LOCK_TIME and 2 ÷ its bandwidth (R105). -/
def State.dwellUs (s : State) (d code : Nat) : Nat :=
  max (s.get (CLK.DPLL_LOCK_TIME d) * 1000) (2000000000 / nth bwTable code 1)

/-- What the DPLL regulates the phase difference to (R102), in ps: PHASE_OFS under ALIGN; under BUILD_OUT the difference recorded at selection, which the
first compare after it measures (DEDUCED, assumption 115). -/
def State.phaseTarget (s : State) (d r : Nat) (diff : Int) : Int :=
  if s.on (CLK.REF_PHASE_MODE r) then s.geti (CLK.REF_PHASE_OFS r) * 1000 else (s.dpll d).held.getD diff

/-- One compare of DPLL d (R102, R104 to R107): `diff` is the phase difference in ps. The output frequency is a free value within
PULL_MAX of the reference's, since the spec gives no loop filter. -/
def State.compare (s : State) (d : Nat) (diff : Int) : State :=
  let r := s.get (CLK.DPLL_SEL_REF d)
  let s := s.boundary .loop (fun k => inOffs (CLK.DPLL_MODE d).off ((CLK.DPLL_MODE d).off + 0x80) k ||
    k == (CLK.REF_PHASE_OFS r).key)
  let err := diff - s.phaseTarget d r diff
  let x := s.dpll d
  let s := s.setDpll d { x with held := some (x.held.getD diff), freqSum := x.freqSum + s.geti (CLK.DPLL_FREQ d), freqN := x.freqN + 1 }
  let s := s.seti (CLK.DPLL_PHASE_ERR d) err
  let pull := s.pullMax d
  let (v, s) := s.fresh 32
  let ofs := (s.refSt r).ofs
  let s := s.seti (CLK.DPLL_FREQ d) (clampInt (-100000000) 100000000 (ofs - pull + ((v % (2 * pull + 1) : Nat) : Int)))
  let inThr := decide (err.natAbs ≤ s.get (CLK.DPLL_LOCK_THR d) * 1000)
  let x := s.dpll d
  if s.get (CLK.DPLL_STATE d) = 1 then
    let n := if inThr then x.dwell + 1 else 0
    let code := s.get (CLK.DPLL_BW d)
    let (_, trk) := s.bwCodes d r
    let (a, b) := s.compareRate r
    if s.dwellUs d code * a ≤ n * 1000000 * b ∧ inThr then
      if code ≤ trk then s.dpllState d 2
      else (s.setDpll d { x with dwell := 0 }).set (CLK.DPLL_BW d) (code - 1)
    else s.setDpll d { x with dwell := n }
  else
    let n := if s.get (CLK.DPLL_UNLOCK_THR d) * 1000 < err.natAbs then x.bad + 1 else 0
    if 8 ≤ n then s.acquire d true
    else
      let s := s.set (CLK.DPLL_BW d) (s.bwCodes d r).2
      s.setDpll d { x with bad := n }

/-- While the servo does not drive INCR, the counter follows DPLL0 (R71): INCR is nearest to the rate that holds the counter's media boundaries on MEDIA0
edges, MEDIA0 running at DPLL0's FREQ and the CORE clock with its open error (DEDUCED, assumption 116). -/
def State.followIncr (s : State) (d : Nat) : State :=
  if d = 0 ∧ s.get TIME.STATUS_DISCIPLINED = 0 then
    s.setIncr (divRound ((incrNom : Int) * (1000000000000 + s.geti (CLK.DPLL_FREQ 0))) (1000000000000 + Config.coreErr s.cycles).toNat)
  else s

/-- DPLL_COMPARE (R104 to R107): `err` is the phase difference the detector sees, in ps. -/
def execDpllCompare (d : Nat) (err : Int) (s : State) : Out :=
  if d < 4 ∧ s.on (CLK.DPLL_ENABLE d) ∧ s.on CLK.XO_OK ∧ (s.get (CLK.DPLL_STATE d) = 1 ∨ s.get (CLK.DPLL_STATE d) = 2) then
    .next ((s.compare d err).followIncr d)
  else .next s

/-- HO_FREQ and HO_VALID from the learning seconds outside the exclusion; until HO_VALID is 1, HO_FREQ reads the mean of all learning seconds so far (R110,
R123). The mean is rounded to the nearest ppt, halves away from zero (DESIGN CHOICE, assumption 107). -/
def State.learnHoldover (s : State) (d : Nat) : State :=
  let avg := atLeast1 (s.get (CLK.DPLL_HO_AVG d))
  let secs := (s.dpll d).secs
  let l := ((secs.drop (s.get (CLK.DPLL_HO_EXCL d))).filter ClkSecond.learn).take avg
  let s := if avg ≤ l.length then s.set (CLK.DPLL_HO_VALID d) 1 else s
  let l := if s.on (CLK.DPLL_HO_VALID d) then l else secs.filter ClkSecond.learn
  if l.length = 0 then s else s.seti (CLK.DPLL_HO_FREQ d) (divRound (l.map ClkSecond.freq).sum l.length)

/-- The mean output frequency of the second that ends: over its compares, or the present frequency where it had none; rounded as the other means of Hearth
(assumption 107). -/
def State.secondFreq (s : State) (d : Nat) : Int :=
  let x := s.dpll d
  if x.freqN = 0 then s.geti (CLK.DPLL_FREQ d) else divRound x.freqSum x.freqN

/-- Move a frequency towards a target by no more than 1 ppm (R110, R111). -/
def slew1ppm (f t : Int) : Int := f + clampInt (-1000000) 1000000 (t - f)

/-- HOLDOVER_SECOND (R98, R107, R110, R111): a second of DPLL d passes. HO_AGE stops at its largest value (DESIGN CHOICE, assumption 108). -/
def execHoldoverSecond (d : Nat) (s : State) : Out :=
  if d < 4 ∧ s.on (CLK.DPLL_ENABLE d) ∧ s.on CLK.XO_OK then
    let st := s.get (CLK.DPLL_STATE d)
    let x := s.dpll d
    let locked := x.secLocked && st == 2
    let clean := x.secClean && !(s.on (CLK.REF_SUSPECT (s.get (CLK.DPLL_SEL_REF d))))
    let sec : ClkSecond := ⟨locked, locked && clean, s.secondFreq d⟩
    let s := s.setDpll d { x with secs := sec :: x.secs, secLocked := st == 2, secClean := true, freqSum := 0, freqN := 0 }
    let s := s.learnHoldover d
    let t := if st = 3 then (s.dpll d).target + s.steer d else s.steer d
    let s := if st = 3 ∨ st = 0 then s.holdFreq d t (slew1ppm (s.geti (CLK.DPLL_FREQ d)) t) else s
    let s := if st = 3 then
        let was := s.on (CLK.DPLL_HO_IN_SPEC d)
        let s := (s.countSat (CLK.DPLL_HO_AGE d)).hoInSpec d
        if was && !(s.on (CLK.DPLL_HO_IN_SPEC d)) then
          s.signal CLK.INT CLK.INT_EN CLK.INT_HO_SPEC 0x0307 8 d (le 4 (s.get (CLK.DPLL_HO_AGE d)))
        else s
      else s
    .next (if st = 0 ∨ st = 3 then s.followIncr d else s)
  else .next s

/-! ## Host writes -/

/-- SUSPECT of reference n is cleared by the host (R97); a fall of it may let a selected reference learn again. -/
def State.suspectClear (s : State) (n : Nat) : State :=
  if s.on (CLK.REF_SUSPECT n) then (s.set (CLK.REF_SUSPECT n) 0).refSum n else s

/-- While reference n is SUSPECT, the second in progress of a DPLL that uses it does not count (R98). -/
def State.spoilSecond (s : State) (n : Nat) : State :=
  (List.range 4).foldl (fun s d =>
    if s.on (CLK.DPLL_SEL_VALID d) && s.get (CLK.DPLL_SEL_REF d) == n && s.on (CLK.REF_SUSPECT n) then
      s.setDpll d { s.dpll d with secClean := false } else s) s

/-- SUSPECT_CLEAR_WRITE (R97): a host write of 1 to REFn_STATUS.SUSPECT. -/
def hostSuspectClearWrite (n : Nat) (s : State) : Out := .next (if n < 8 then (s.spoilSecond n).suspectClear n else s)

/-- CFG_ERR of reference n (R91). A fixed mode takes the place of the PHASE_MODE written before, which does not come back with a TYPE or SRC that lets it be
written (DESIGN CHOICE, assumption 112). -/
def State.refCfgErr (s : State) (n : Nat) : State :=
  let bad := decide (n < 4) && !(refTypeOk (s.get (CLK.REF_TYPE n)) (s.get (CLK.REF_FREQ n)))
  let s := s.setOn (CLK.REF_CFG_ERR n) bad
  match fixedPhase n (s.get (CLK.REF_TYPE n)) (s.get (CLK.REF_SRC n)) with
  | some v => s.set (CLK.REF_PHASE_MODE n) v
  | none => s

/-- ENABLE of reference n is written (R95). -/
def State.refEnable (s : State) (n : Nat) (en : Bool) : State :=
  let was := s.on (CLK.REF_ENABLE n)
  if en && !was then ((s.set (CLK.REF_ENABLE n) 1).refCfgErr n).refQState n 1
  else if was && !en then
    let s := if s.get (CLK.REF_QSTATE n) = 3 then s.refDisqualify n 4 else s
    let s := ((s.spoilSecond n).set (CLK.REF_SUSPECT n) 0).set (CLK.REF_ACTIVE n) 0
    (s.set (CLK.REF_ENABLE n) 0).refQState n 0
  else s

/-- Write the class-S fields of REFn_CFG: TYPE and EDGE, PHASE_MODE where it is not fixed, SRC of reference 7. -/
def State.refStatics (s : State) (n type edge mode src : Nat) : State :=
  let s := if n < 4 then s.set (CLK.REF_TYPE n) type else s
  let s := s.set (CLK.REF_EDGE n) edge
  let s := if n = 7 then s.set (CLK.REF_SRC 7) src else s
  let s := match fixedPhase n (s.get (CLK.REF_TYPE n)) (s.get (CLK.REF_SRC n)) with
    | some v => s.set (CLK.REF_PHASE_MODE n) v
    | none => s.set (CLK.REF_PHASE_MODE n) mode
  s.refCfgErr n

/-- The class-S fields of REFn_CFG would change. -/
def State.refStaticsDiffer (s : State) (n type edge mode src : Nat) : Bool :=
  let t := s.refStatics n type edge mode src
  t.get (CLK.REF_TYPE n) != s.get (CLK.REF_TYPE n) || t.get (CLK.REF_EDGE n) != s.get (CLK.REF_EDGE n) ||
  t.get (CLK.REF_PHASE_MODE n) != s.get (CLK.REF_PHASE_MODE n) || t.get (CLK.REF_SRC n) != s.get (CLK.REF_SRC n)

/-- REF_ENABLE_WRITE (R95, R119): a host write of REFn_CFG. -/
def hostRefEnableWrite (source n : Nat) (v : Word) (s : State) : Out :=
  if n < 8 then
    let w := v.toNat
    let (type, edge, mode, src) := (w / 16 % 8, w / 128 % 2, w / 256 % 2, w / 4096 % 16)
    if s.on (CLK.REF_ENABLE n) && s.refStaticsDiffer n type edge mode src then
      .next ((s.cfgReject source (CLK.REF_ENABLE n).off).refEnable n (w.testBit 0))
    else .next ((s.refStatics n type edge mode src).refEnable n (w.testBit 0))
  else .next s

/-- ENABLE of DPLL1 to DPLL3 is written (R103): a disabled DPLL stands in FREERUN with its output stopped, and the audio
groups on it lose their clock (R314). -/
def State.dpllEnable (s : State) (d : Nat) (en : Bool) : State :=
  let was := s.on (CLK.DPLL_ENABLE d)
  if d = 0 ∨ en = was then s
  else if en then
    ((((s.set (CLK.DPLL_ENABLE d) 1).seti (CLK.DPLL_FREQ d) (s.steer d)).setDpll d { s.dpll d with moved := true }).mediaRuns d).disagree d
  else
    let s := (((s.mediaStops d).set (CLK.DPLL_SEL_VALID d) 0).set (CLK.DPLL_SEL_REF d) 0).enterFreerun d
    (((s.set (CLK.DPLL_ENABLE d) 0).set (CLK.DPLL_WTR_RUN d) 0).set (CLK.DPLL_REF_DISAGREE d) 0).tdmStatus

/-- DPLL_MODE_WRITE (R99, R101): a host write of DPLLd_CFG's MODE and MAN_REF; the evaluation that applies it follows. -/
def State.dpllModeWrite (s : State) (d mode man : Nat) : State :=
  let s := (s.setB (CLK.DPLL_MODE d) .selection mode).setB (CLK.DPLL_MAN_REF d) .selection man
  s.setDpll d { s.dpll d with moved := true }

/-- WTR of DPLL d takes a value: after a longer one, no reference has yet been selectable for it (R99). -/
def State.wtrWrite (s : State) (d v : Nat) : State :=
  let s := if s.get (CLK.DPLL_WTR d) < v then s.setDpll d { s.dpll d with wtrDone := 0 } else s
  s.set (CLK.DPLL_WTR d) v

/-- The fields of DPLLd_CFG besides ENABLE: bandwidths, WTR, REVERTIVE, MODE, MAN_REF and, where it may change, FAMILY. FAMILY of DPLL0 is of type CP:
every host write of its word meets it, and is recorded (R17, R123). -/
def State.dpllCfgWrite (s : State) (source d w : Nat) : State :=
  let s := (s.set (CLK.DPLL_REVERTIVE d) (w / 2 ^ 28)).wtrWrite d (w / 2 ^ 20 % 256)
  let s := (s.setB (CLK.DPLL_TRK_BW d) .loop (w / 2 ^ 16 % 16)).setB (CLK.DPLL_ACQ_BW d) .loop (w / 2 ^ 12 % 16)
  let mode := w / 16 % 4
  let man := w / 256 % 8
  let s := if mode ≠ s.get (CLK.DPLL_MODE d) ∨ man ≠ s.get (CLK.DPLL_MAN_REF d) then s.dpllModeWrite d mode man else s
  let s := if d = 0 then s.cfgReject source (CLK.DPLL_MODE d).off
    else if s.get (CLK.DPLL_FAMILY d) = w % 2 then s
    else if s.on (CLK.DPLL_ENABLE d) then s.cfgReject source (CLK.DPLL_MODE d).off
    else (s.set (CLK.DPLL_FAMILY d) w).tdmStatus
  s.wtrRun d

/-- DPLL_ENABLE_WRITE (R103): a host write of DPLLd_CFG, d = 1 to 3, with its ENABLE. -/
def hostDpllEnableWrite (source d : Nat) (v : Word) (s : State) : Out :=
  let en := v.toNat.testBit (CLK.DPLL_ENABLE d).lo
  let fam := v.toNat / 2 ^ (CLK.DPLL_FAMILY d).lo % 2
  .next (if 1 ≤ d ∧ d < 4 then
      -- FAMILY may change in the write that sets ENABLE (R119)
      let s := if en && !s.on (CLK.DPLL_ENABLE d) then s.set (CLK.DPLL_FAMILY d) fam else s
      (s.dpllCfgWrite source d v.toNat).dpllEnable d en
    else s)

/-- DPLL_MODE_WRITE: a host write of DPLLd_CFG. -/
def hostDpllModeWrite (source d : Nat) (v : Word) (s : State) : Out :=
  .next (if d < 4 then s.dpllCfgWrite source d v.toNat else s)

/-! ## Word-clock and pulse outputs (R114 to R116) -/

/-- The base rate of DPLL d's family in Hz. -/
def State.dpllBase (s : State) (d : Nat) : Nat := if s.on (CLK.DPLL_FAMILY d) then 44100 else 48000

/-- The first instant of the counter, after now, at which a cycle of `rate` Hz counted from the epoch begins (2^−32 ns). -/
def State.nextEdge (s : State) (rate : Nat) : Int :=
  ((((s.ctr * rate / ctrPerSec + 1) * ctrPerSec + rate - 1) / rate : Nat) : Int)

/-- The last such instant, now included. -/
def State.lastEdge (s : State) (rate : Nat) : Int := ((((s.ctr * rate / ctrPerSec) * ctrPerSec + rate - 1) / rate : Nat) : Int)

def State.outEdge (s : State) (n : Nat) : Int := unitAt s.clk.outEdge n 0
def State.setEdge (s : State) (n : Nat) (e : Int) : State :=
  { s with clk := { s.clk with outEdge := s.clk.outEdge.setIfInBounds n e } }

/-- An output starts as its EN is set: PPS_OUT at the next second, a WCLK_OUT of DPLL0 at the counter's next media boundary. Where MEDIA1 to MEDIA3 stand
against the counter is left open: the next boundary of another DPLL comes at a free instant within one sample period (assumption 113). -/
def State.outStart (s : State) (n : Nat) : State :=
  if n = 4 then s.setEdge 4 (s.nextEdge 1)
  else
    let d := s.get (CLK.WCLK_SRC n)
    if d = 0 then s.setEdge n (s.nextEdge (s.dpllBase 0))
    else
      let (v, s) := s.fresh 64
      s.setEdge n ((s.ctr + v % (ctrPerSec / s.dpllBase d) : Nat) : Int)

/-- The multiple of MULT, or 0 where the pin is kept low. -/
def outMult (m : Nat) : Nat := nth [1, 2, 4, 256, 512] m 0

/-- WIDTH in force (R125), in ms. -/
def State.ppsWidth (s : State) : Nat := clampNat 1 500 (s.get CLK.PPS_WIDTH)

/-- The level of an output pin (R114, R115): low until the output has started, and while its MEDIA clock is stopped. -/
def State.outLevel (s : State) (n : Nat) : Bool :=
  let e := s.outEdge n
  let since := ((s.ctr : Int) - e).toNat
  if (s.ctr : Int) < e then false
  else if n = 4 then s.on CLK.PPS_EN && decide (since % ctrPerSec < s.ppsWidth * (ctrPerSec / 1000))
  else
    let d := s.get (CLK.WCLK_SRC n)
    let rate := s.dpllBase d * outMult (s.get (CLK.WCLK_MULT n))
    s.on (CLK.WCLK_EN n) && rate != 0 && s.on CLK.XO_OK && (d == 0 || s.on (CLK.DPLL_ENABLE d)) &&
      ((since * 2 * rate / ctrPerSec % 2 == 0) != s.on (CLK.WCLK_INVERT n))

/-- The five pins take their levels. -/
def State.drivePins (s : State) : State :=
  let v := ((List.range 5).map (fun n => if s.outLevel n then 2 ^ n else 0)).sum
  { s with clk := { s.clk with outPins := v } }

/-- OUT_ALIGN_WRITE (R116). -/
def hostOutAlignWrite (v : Word) (s : State) : Out :=
  .next (s.set CLK.OUT_ALIGN_PEND (s.get CLK.OUT_ALIGN_PEND ||| v.toNat % 32))

/-- OUTPUT_REALIGN (R116): output n re-aligns at its first aligned instant, which is now. -/
def execOutputRealign (n : Nat) (s : State) : Out :=
  if n < 5 ∧ s.bit CLK.OUT_ALIGN_PEND n then
    let s := if n = 4 then s.setEdge 4 (s.lastEdge 1)
      else if s.get (CLK.WCLK_SRC n) = 0 then s.setEdge n (s.lastEdge (s.dpllBase 0)) else s.setEdge n s.ctr
    .next ((s.setBit CLK.OUT_ALIGN_PEND n false).setBit CLK.OUT_MISALIGNED n false)
  else .next s

/-- The output starts where its EN has risen. -/
def State.outRise (s : State) (n : Nat) (was : Bool) : State :=
  if !was && s.on (if n = 4 then CLK.PPS_EN else CLK.WCLK_EN n) then s.outStart n else s

/-- Write WCLKn_CFG: class-S fields only while EN reads 0 (R119, R125). -/
def State.wclkWrite (s : State) (source n w : Nat) : State :=
  let (src, mult, inv) := (w / 2 % 4, w / 8 % 8, w / 64 % 2)
  let busy := s.on (CLK.WCLK_EN n)
  let differ := src != s.get (CLK.WCLK_SRC n) || mult != s.get (CLK.WCLK_MULT n) || inv != s.get (CLK.WCLK_INVERT n)
  let s := if busy && differ then s.cfgReject source (CLK.WCLK_EN n).off
    else ((s.set (CLK.WCLK_SRC n) src).set (CLK.WCLK_MULT n) mult).set (CLK.WCLK_INVERT n) inv
  (s.set (CLK.WCLK_EN n) w).outRise n busy

/-- PPS_OUT_ENABLE (R115): a host write of PPS_CFG. -/
def hostPpsOutEnable (source : Nat) (v : Word) (s : State) : Out :=
  let w := v.toNat
  let wid := w / 256 % 512
  let was := s.on CLK.PPS_EN
  let s := if s.on CLK.PPS_EN && wid != s.get CLK.PPS_WIDTH then s.cfgReject source CLK.PPS_EN.off else s.set CLK.PPS_WIDTH wid
  .next ((s.set CLK.PPS_EN w).outRise 4 was)

/-! ## Commands (R118) -/

/-- The STATUS word of reference n or DPLL d and the other words are read as the host reads them. -/
def clkWords (s : State) (offs : List Nat) : List Byte := offs.flatMap (fun o => le 4 (s.word CLK.fields (0xA0000 + o)))

/-- CLK_STATUS_GET. -/
def execClkStatusGet (r : Req) (p : List Tlv) (s : State) : Out :=
  runCmd 0x0301 [] (getBody (fun _ s =>
    clkWords s ([0x10] ++ (List.range 8).flatMap (fun n => [0x11C + 0x40 * n, 0x120 + 0x40 * n, 0x124 + 0x40 * n]) ++
      (List.range 4).flatMap (fun d => [0x420 + 0x80 * d, 0x424 + 0x80 * d, 0x428 + 0x80 * d, 0x42C + 0x80 * d,
        0x430 + 0x80 * d]) ++ [0x818]))) r p s

/-- REF_SET's parameters: Index; ENABLE; TYPE; FREQ; EDGE; SRC; PHASE_MODE; PHASE_OFS. -/
def refSetParams : List PSpec :=
  [preq 1 1 0 7, popt 2 1 0 1, popt 3 1 0 7, popt 4 4 0 0x1FFFFFF, popt 5 1 0 1, popt 6 1 0 15, popt 7 1 0 1, psig 8 4 32]

def refSetBody (p : Params) (s : State) : Reply × State :=
  let n := Params.val p 1
  let type := (Params.val? p 3).getD (s.get (CLK.REF_TYPE n))
  let freq := (Params.val? p 4).getD (s.get (CLK.REF_FREQ n))
  let edge := (Params.val? p 5).getD (s.get (CLK.REF_EDGE n))
  let src := (Params.val? p 6).getD (s.get (CLK.REF_SRC n))
  let mode := (Params.val? p 7).getD (s.get (CLK.REF_PHASE_MODE n))
  if n < 4 ∧ !(refTypeOk type freq) then (Reply.errAt Status.badParam p 3, s)
  else if s.on (CLK.REF_ENABLE n) && (s.refStaticsDiffer n type edge mode src || freq != s.get (CLK.REF_FREQ n)) then
    (Reply.err Status.notInState, s)
  else
    let s := (s.set (CLK.REF_FREQ n) freq).refStatics n type edge mode src
    let s := match Params.val? p 8 with
      | some v => s.setB (CLK.REF_PHASE_OFS n) .loop v
      | none => s
    (Reply.ok [], match Params.val? p 2 with
      | some e => s.refEnable n (e == 1)
      | none => s)

/-- REF_SET (R91, R118). -/
def execRefSet (r : Req) (p : List Tlv) (s : State) : Out := runCmd 0x0302 refSetParams refSetBody r p s

/-- MON_SET's parameters: Index; ACCEPT; REJECT; QUAL_TIME; PERSIST; DRIFT_LIM; DRIFT_ACT; DISAGREE_THR; FM_BASE. -/
def monSetParams : List PSpec :=
  [popt 1 1 0 7, popt 2 4 0 0x7FFFFFF, popt 3 4 0 0x7FFFFFF, popt 4 2 0 0xFFFF, popt 5 2 0 0xFFFF, popt 6 4 0 0xFFFFFF,
   popt 7 1 0 1, popt 8 4 0 0x7FFFFFF, popt 9 1 0 1]

def monSetFlds (n : Nat) : List PFld :=
  [⟨2, CLK.REF_ACCEPT n, .live⟩, ⟨3, CLK.REF_REJECT n, .live⟩, ⟨4, CLK.REF_QUAL_TIME n, .live⟩,
   ⟨5, CLK.REF_PERSIST n, .live⟩, ⟨6, CLK.REF_DRIFT_LIM n, .live⟩, ⟨7, CLK.REF_DRIFT_ACT n, .live⟩,
   ⟨8, CLK.DISAGREE_THR, .live⟩, ⟨9, CLK.CTRL_FM_BASE, .live⟩]

/-- MON_SET (R118): the fields of one reference need its index. -/
def execMonSet (r : Req) (p : List Tlv) (s : State) : Out :=
  runCmd 0x0303 monSetParams (fun p s =>
    if !(Params.has p 1) && [2, 3, 4, 5, 6, 7].any (fun t => Params.has p t) then (Reply.err Status.badParam, s)
    else (Reply.ok [], (writeFlds s p (monSetFlds (Params.val p 1))).disagreeAll)) r p s

/-- A stream, a master-mode audio port or an amplifier channel runs (R108). -/
def State.audioRuns (s : State) : Bool :=
  !(s.strm.rx.all (fun x => x.closing)) || !s.strm.tx.isEmpty ||
  (List.range 32).any (fun p => s.get (TDM.G_MODE (p / 8)) == 1 && s.get (TDM.P_STATE p) != 0) ||
  (List.range 8).any (fun c => [1, 2, 3].contains (s.get (AMP.CH_STATE c)))

/-- DPLL_SET's parameters: DPLL; ENABLE; FAMILY; RANKS, RANK7 to RANK0 (R355); REVERTIVE; WTR; ACQ_BW; TRK_BW; LOCK_THR; LOCK_TIME; UNLOCK_THR;
PULL_MAX; HO_AVG; HO_EXCL; HO_SPEC_TIME. -/
def dpllSetParams : List PSpec :=
  [preq 1 1 0 3, popt 2 1 0 1, popt 3 1 0 1, popt 4 1 0 15, popt 5 1 0 15, popt 6 1 0 15, popt 7 1 0 15, popt 8 1 0 15,
   popt 9 1 0 15, popt 10 1 0 15, popt 11 1 0 15, popt 12 1 0 1, popt 13 1 0 255, popt 14 1 0 15, popt 15 1 0 15,
   popt 16 2 0 0xFFFF, popt 17 2 0 0xFFFF, popt 18 4 0 0xFFFFFFFF, popt 19 4 0 0x7FFFFFF, popt 20 2 0 0xFFFF,
   popt 21 1 0 255, popt 22 4 0 0xFFFFFFFF]

def dpllSetFlds (d : Nat) : List PFld :=
  [⟨12, CLK.DPLL_REVERTIVE d, .live⟩, ⟨14, CLK.DPLL_ACQ_BW d, .loop⟩,
   ⟨15, CLK.DPLL_TRK_BW d, .loop⟩, ⟨16, CLK.DPLL_LOCK_THR d, .live⟩, ⟨17, CLK.DPLL_LOCK_TIME d, .live⟩,
   ⟨18, CLK.DPLL_UNLOCK_THR d, .live⟩, ⟨19, CLK.DPLL_PULL_MAX d, .loop⟩, ⟨20, CLK.DPLL_HO_AVG d, .live⟩,
   ⟨21, CLK.DPLL_HO_EXCL d, .live⟩, ⟨22, CLK.DPLL_HO_SPEC_TIME d, .live⟩]

/-- RANK7 to RANK0 as one word, absent ones keeping their values. -/
def State.ranksOf (s : State) (d : Nat) (p : Params) : Nat :=
  ((List.range 8).map (fun n => ((Params.val? p (11 - n)).getD (s.get (CLK.DPLL_RANK d n))) * 16 ^ n)).sum

/-- Write the eight ranks of DPLL d; the next evaluation applies them (R101). -/
def State.ranksWrite (s : State) (d v : Nat) : State :=
  let s := (List.range 8).foldl (fun s n => s.set (CLK.DPLL_RANK d n) (v / 16 ^ n)) s
  let s := (List.range 8).foldl (fun s n => if s.rank d n ≤ 7 then s else s.setDpll d ((s.dpll d).notRestored n)) s
  ((s.setDpll d { s.dpll d with moved := true }).wtrRun d).disagree d

def dpllSetBody (p : Params) (s : State) : Reply × State :=
  let d := Params.val p 1
  let fam := (Params.val? p 3).getD (s.get (CLK.DPLL_FAMILY d))
  let change := fam != s.get (CLK.DPLL_FAMILY d)
  if change && (if d = 0 then s.audioRuns else s.on (CLK.DPLL_ENABLE d)) then (Reply.errAt Status.notInState p 3, s)
  else if d = 0 ∧ Params.val? p 2 = some 0 then (Reply.errAt Status.notInState p 2, s)
  else
    let s := ((writeFlds s p (dpllSetFlds d)).set (CLK.DPLL_FAMILY d) fam).tdmStatus
    let s := match Params.val? p 13 with
      | some v => s.wtrWrite d v
      | none => s
    let s := if (List.range 8).any (fun n => Params.has p (4 + n)) then s.ranksWrite d (s.ranksOf d p) else s
    let s := match Params.val? p 2 with
      | some e => s.dpllEnable d (e == 1)
      | none => s
    (Reply.ok [], (s.wtrRun d).hoInSpec d)

/-- DPLL_SET (R108, R118). -/
def execDpllSet (r : Req) (p : List Tlv) (s : State) : Out := runCmd 0x0304 dpllSetParams dpllSetBody r p s

/-- DPLL_MODE (R101, R118): the evaluation is made before the reply, whose payload is STATUS. -/
def execDpllMode (r : Req) (p : List Tlv) (s : State) : Out :=
  runCmd 0x0305 [preq 1 1 0 3, popt 2 1 0 3, popt 3 1 0 7] (fun p s =>
    let d := Params.val p 1
    let s := (s.dpllModeWrite d ((Params.val? p 2).getD (s.get (CLK.DPLL_MODE d)))
      ((Params.val? p 3).getD (s.get (CLK.DPLL_MAN_REF d)))).evaluate d
    (Reply.ok (clkWords s [0x420 + 0x80 * d]), s)) r p s

/-- STEER_SET (R111). -/
def execSteerSet (r : Req) (p : List Tlv) (s : State) : Out :=
  runCmd 0x0306 [preq 1 1 0 3, psig 2 4 32] (fun p s =>
    (Reply.ok [], match Params.val? p 2 with
      | some v => s.set (CLK.DPLL_STEER (Params.val p 1)) v
      | none => s)) r p s

/-- OUTPUT_SET (R118): Output; EN; SRC; MULT; INVERT; WIDTH. -/
def execOutputSet (r : Req) (p : List Tlv) (s : State) : Out :=
  runCmd 0x0307 [preq 1 1 0 4, popt 2 1 0 1, popt 3 1 0 3, popt 4 1 0 7, popt 5 1 0 1, popt 6 2 0 511] (fun p s =>
    let n := Params.val p 1
    let was := s.on (if n = 4 then CLK.PPS_EN else CLK.WCLK_EN n)
    let (rep, s) := if n = 4 then setFlds (!was) [⟨6, CLK.PPS_WIDTH, .static⟩, ⟨2, CLK.PPS_EN, .live⟩] p s
      else setFlds (!was) [⟨3, CLK.WCLK_SRC n, .static⟩, ⟨4, CLK.WCLK_MULT n, .static⟩, ⟨5, CLK.WCLK_INVERT n, .static⟩,
        ⟨2, CLK.WCLK_EN n, .live⟩] p s
    (rep, s.outRise n was)) r p s

/-- OUTPUT_ALIGN (R116). -/
def execOutputAlign (r : Req) (p : List Tlv) (s : State) : Out :=
  runCmd 0x0308 [preq 1 1 0 31] (fun p s =>
    (Reply.ok [], s.set CLK.OUT_ALIGN_PEND (s.get CLK.OUT_ALIGN_PEND ||| Params.val p 1))) r p s

/-- SUSPECT_CLEAR (R97). -/
def execSuspectClear (r : Req) (p : List Tlv) (s : State) : Out :=
  runCmd 0x0309 [preq 1 1 0 255] (fun p s =>
    (Reply.ok [], ((List.range 8).filter (fun n => (Params.val p 1).testBit n)).foldl
      (fun s n => (s.spoilSecond n).suspectClear n) s)) r p s

end Sys2Proof.Machine
end

