-- ==== Sys2Proof/Machine/Rings.lean ====
section
/-! DEFINITION. The rings in host memory (R401, R402, R408): their indices, errors, and the head of a host receive queue. -/

namespace Sys2Proof.Machine

/-! ## Events of the DMA block (R416, R417) -/

/-- Raise an event of the DMA block when its flag rises; interrupt source 28 fires with it. -/
def State.dmaSignal (s : State) (bit code unit : Nat) (detail : List Byte) : State :=
  if s.bit DMA.INT bit || !s.bit DMA.INT_EN bit then s.setBit DMA.INT bit true
  else (s.signal DMA.INT DMA.INT_EN bit code 2 unit detail).fire 28

/-- ERR_ADDR and ERR_INFO record a failure, and event 0x0160 is raised (R395, R402, R403): `unit` as UNIT of the event, `addr` the address. -/
def State.dmaError (s : State) (unit cause addr : Nat) : State :=
  let s := ((s.set DMA.ERR_ADDR_LO addr).set DMA.ERR_ADDR_HI (addr / 2 ^ 32)).set DMA.ERR_UNIT unit
  (s.set DMA.ERR_CAUSE cause).dmaSignal DMA.INT_DMA_ERR 0x0160 unit ([BitVec.ofNat 8 cause, 0, 0, 0] ++ le 4 addr)

/-! ## Rings -/

/-- SIZE of ring i (R402, R419). -/
def State.ringCap (s : State) (i : Nat) : Nat := 2 ^ clampNat 4 12 (s.get (DMA.RING_SIZE_LOG2 i))

/-- Entries ring i holds: (PI − CI) mod SIZE. -/
def State.ringHeld (s : State) (i : Nat) : Nat :=
  let n := s.ringCap i
  (s.get (DMA.RING_PI i) % n + n - s.get (DMA.RING_CI i) % n) % n

/-- Entries that ring i has room for. -/
def State.ringRoom (s : State) (i : Nat) : Nat := s.ringCap i - 1 - s.ringHeld i

/-- Ring i is in RUN and the host side is there. -/
def State.ringRuns (s : State) (i : Nat) : Bool := s.get (DMA.RING_STATE i) == 1 && !s.on DMA.STATUS_HOST_LOST

/-- BASE of ring i. -/
def State.ringBase (s : State) (i : Nat) : Nat := s.get (DMA.RING_BASE_HI i) * 2 ^ 32 + s.eff (DMA.RING_BASE_LO i) * 2 ^ 12

/-- Bytes of an entry of ring i (R401). -/
def ringEntry (i : Nat) : Nat := if (16 ≤ i ∧ i < 32) ∨ (56 ≤ i ∧ i < 60) then 8 else 16

/-- The device writes bytes to host memory: the last for each purpose are kept. -/
def State.hostWrite (s : State) (key : Nat) (addrs : List Nat) (b : List Byte) : State :=
  { s with dma := { s.dma with wrote := s.dma.wrote.filter (fun x => x.purpose != key) ++ [⟨key, addrs, b⟩] } }

/-- The device reads host memory for ring or set `unit`: the last read of each is kept. -/
def State.hostRead (s : State) (unit addr len : Nat) : State :=
  { s with dma := { s.dma with asked := s.dma.asked.filter (fun x => x.1 != unit) ++ [(unit, addr, len)] } }

/-- A 64-bit address from its two fields, the low one holding the bits from `sh` up. -/
def State.addr64 (s : State) (lo hi : Fld) (sh : Nat) : Nat := s.get hi * 2 ^ 32 + s.eff lo * 2 ^ sh

/-- The device writes its own index of ring i back (R402). -/
def State.ringBack (s : State) (i v : Nat) : State :=
  if s.on (DMA.RING_WB_EN i) then s.hostWrite (512 + i) [s.addr64 (DMA.RING_WB_LO i) (DMA.RING_WB_HI i) 2] (le 4 v) else s

/-- The device has consumed n entries of ring i. -/
def State.ringTake (s : State) (i n : Nat) : State :=
  let v := (s.get (DMA.RING_CI i) + n) % s.ringCap i
  s.set (DMA.RING_CI i) v

/-- The device has produced n entries in ring i, the last of them `b`. -/
def State.ringPut (s : State) (i n : Nat) (b : List Byte) : State :=
  let v := (s.get (DMA.RING_PI i) + n) % s.ringCap i
  (s.hostWrite i [s.ringBase i + ringEntry i * s.get (DMA.RING_PI i)] b).set (DMA.RING_PI i) v

/-- Ring i enters ERROR (R395, R402). -/
def State.ringError (s : State) (i cause addr : Nat) : State :=
  ((s.set (DMA.RING_STATE i) 2).set (DMA.RING_ERR_CAUSE i) cause).dmaError i cause addr

/-- A host ring is enabled for port p (R133, R408): RXB p and RXC p are in RUN. -/
def State.hostRing (s : State) (p : Nat) : Bool :=
  s.get (DMA.RING_STATE (56 + p)) == 1 && s.get (DMA.RING_STATE (60 + p)) == 1

/-- BUF_SIZE of buffer ring i: a multiple of 64 from 256 to 65,536, values outside acting as the nearer limit (DEDUCED, assumption 37). -/
def State.bufSize (s : State) (i : Nat) : Nat := clampNat 256 65536 (s.get (DMA.RING_BUF_SIZE i) / 64 * 64)

/-- Buffers an item of n bytes needs from buffer ring i (R406). -/
def State.buffersFor (s : State) (i n : Nat) : Nat := (n + s.bufSize i - 1) / s.bufSize i

/-- The item at the head of HOST_RX p, with the queue behind it. -/
def State.headItem (s : State) (p : Nat) : Option QItem :=
  match (s.queue (7 + p)).ready with
  | ⟨.head it, _⟩ :: _ => some it
  | _ => none

/-- An item of n bytes can never be claimed from rings b and c (R408). -/
def State.noFit (s : State) (b c n : Nat) : Bool :=
  let k := s.buffersFor b n
  decide (s.ringCap b - 1 < k ∨ s.ringCap c - 1 < k)

/-- An item of n bytes can be claimed from buffer ring b and completion ring c (R406). -/
def State.claimable (s : State) (b c n : Nat) : Bool :=
  s.ringRuns b && s.ringRuns c && decide (s.buffersFor b n ≤ s.ringHeld b ∧ s.buffersFor b n ≤ s.ringRoom c)

/-- Items at the head of HOST_RX p that can never be claimed are removed (R408); at most `n`. -/
def State.dropNoFit (p : Nat) : Nat → State → State
  | 0, s => s
  | n + 1, s =>
    match s.headItem p with
    | some it =>
      if s.noFit (56 + p) (60 + p) it.body.length then
        State.dropNoFit p n (((s.takeItem (7 + p)).2.count (DMA.RX_NO_FIT p)).setOn (DMA.RING_NO_FIT (56 + p)) true)
      else s
    | none => s

/-- STARVED of port p follows the head of HOST_RX p (R408); each rise raises event 0x0161. -/
def State.hostHead (s : State) (p : Nat) : State :=
  if s.hostRing p then
    let s := State.dropNoFit p (s.queue (7 + p)).ready.length s
    let was := s.on (DMA.RING_STARVED (56 + p))
    match s.headItem p with
    | some it =>
      let now := !s.claimable (56 + p) (60 + p) it.body.length
      let s := s.setOn (DMA.RING_STARVED (56 + p)) now
      if now && !was then
        s.dmaSignal DMA.INT_RING_STARVED 0x0161 p (le 4 it.body.length ++ le 4 (s.ringHeld (56 + p)))
      else s
    | none => s.setOn (DMA.RING_STARVED (56 + p)) false
  else s.setOn (DMA.RING_STARVED (56 + p)) false

/-- The gap markers of an item queue reach the event queue as they are discarded (R42). -/
def State.gapsOf (s : State) (i : Nat) (q : Queue) : State :=
  q.ready.foldl (fun s e => match e.cell with
    | .gap c f => s.gapEvent i c f
    | _ => s) s

/-- Items already held in HOST_RX p are discarded and counted in RX_HOST_DROP, as a ring of port p leaves RUN (R408). -/
def State.flushHost (s : State) (p : Nat) : State :=
  let q := s.queue (7 + p)
  let n := (q.ready.filter (fun e => match e.cell with
    | .head _ => true
    | _ => false)).length
  let s := (s.updQueue (7 + p) { q with ready := [], popped := [], mark := none }).gapsOf (7 + p) q
  (if n = 0 then s else s.statBy p Stat.RX_HOST_DROP n).hostHead p

end Sys2Proof.Machine
end

