-- ==== Sys2Proof/Machine/Fixed.lean ====
section
/-! DEFINITION. The sample word and its conversions (R44 to R48), and the draws of dither and noise (R267). -/

namespace Sys2Proof.Machine

/-- Saturation to a 40-bit word (R44). -/
def sat40 (i : Int) : Int := clampInt (-549755813888) 549755813887 i

/-- Unity gain, Q3.20. -/
def unity : Int := 0x100000

/-- A gain's code in 24 bits as a number. -/
def gainOf (c : Nat) : Int := toSigned 24 c

/-- A sample by a gain (R47): exact, rounded with ties away from zero, saturated; and whether it saturated. -/
def mulGain (v g : Int) : Int × Bool :=
  let x := divRound (v * g) 1048576
  (sat40 x, decide (sat40 x ≠ x))

/-- A w-bit sample enters (R45): its code as a number times 2^(33 − w). -/
def fromWire (w : Nat) (code : Nat) : Int := toSigned w code * ((2 ^ (33 - w) : Nat) : Int)

/-- A word leaves for a w-bit format with dither d (R46): the output, and whether it saturated. -/
def toWire (w : Nat) (v d : Int) : Int × Bool :=
  let lsb : Int := ((2 ^ (33 - w) : Nat) : Int)
  let o := (v + d + lsb / 2) / lsb
  let c := clampInt (-((2 ^ (w - 1) : Nat) : Int)) (((2 ^ (w - 1) : Nat) : Int) - 1) o
  (c, decide (c ≠ o))

/-- H(t, x, i, m) of R267, on 64-bit unsigned numbers, with S = `seed`. -/
def hashH (seed t x i m : Nat) : Nat :=
  let w := 2 ^ 64
  let key := seed ^^^ (((t * 65536 + x) * 16 + i) * 0x9E3779B97F4A7C15 % w)
  let z := (m + key) % w
  let z := (z ^^^ (z / 2 ^ 30)) * 0xBF58476D1CE4E5B9 % w
  let z := (z ^^^ (z / 2 ^ 27)) * 0x94D049BB133111EB % w
  z ^^^ (z / 2 ^ 31)

/-- A dither draw u_(i+1) of destination d in pass n for width w (R267). -/
def ditherDraw (seed d i n w : Nat) : Int :=
  ((hashH seed 0 d i n / 2 ^ (31 + w) : Nat) : Int) - ((2 ^ (32 - w) : Nat) : Int)

/-- TPDF dither (R46, R272). -/
def dither (seed d n w : Nat) : Int := ditherDraw seed d 0 n w + ditherDraw seed d 1 n w

/-- DITHER_SEED in force. -/
def State.seed (s : State) : Nat := s.eff ANVIL.DITHER_SEED_LO + 2 ^ 32 * s.eff ANVIL.DITHER_SEED_HI

end Sys2Proof.Machine
end

