-- ==== Sys2Proof/Machine/Lanes.lean ====
section
/-! DEFINITION. The Hammer set (R182 to R189) and the enabling of streams: limits, slots, keys and lanes (R163, R164, R166, R173,
R175, R181, R183, R206). Direction 0 is receive, 1 transmit. -/

namespace Sys2Proof.Machine

/-! ## Entries -/

/-- k of RATE (R198): 1, 2 or 4. -/
def rateK (v : Nat) : Nat := 2 ^ v

/-- Bytes per sample of an encoding (R162). -/
def encBytes (e : Nat) : Nat := if e = 0 then 2 else if e = 1 then 3 else 4

/-- Width at which an encoding enters and leaves (R45, R162). -/
def encBits (e : Nat) : Nat := if e = 0 then 16 else if e = 2 then 32 else 24

/-- What an entry says, for both directions. -/
structure Entry where
  on : Bool
  wide : Bool
  red : Bool
  enc : Nat
  rate : Nat
  ch : Nat
  spp : Nat
  slot : Nat

def State.entry (s : State) (dir i : Nat) : Entry :=
  if dir = 0 then
    { on := s.on (RXE.ENABLE i), wide := s.on (RXE.WIDE i), red := s.on (RXE.REDUNDANT i), enc := s.get (RXE.ENC i),
      rate := s.get (RXE.RATE i), ch := s.get (RXE.CHANNELS i), spp := s.get (RXE.SPP i), slot := s.get (RXE.BASE_SLOT i) }
  else
    { on := s.on (TXE.ENABLE i), wide := s.on (TXE.WIDE i), red := s.on (TXE.REDUNDANT i), enc := s.get (TXE.ENC i),
      rate := s.get (TXE.RATE i), ch := s.get (TXE.CHANNELS i), spp := s.get (TXE.SPP i), slot := s.get (TXE.BASE_SLOT i) }

def Entry.k (e : Entry) : Nat := rateK e.rate

/-- Payload bytes of a packet (R163). -/
def Entry.payload (e : Entry) : Nat := e.ch * e.spp * encBytes e.enc

def laneFld (dir i l : Nat) : Fld :=
  if dir = 0 then (if l = 0 then RXE.LANE_A i else RXE.LANE_B i) else (if l = 0 then TXE.LANE_A i else TXE.LANE_B i)

def stopFld (dir i l : Nat) : Fld :=
  if dir = 0 then (if l = 0 then RXE.LEG_A_STOPPED i else RXE.LEG_B_STOPPED i)
  else (if l = 0 then TXE.LEG_A_STOPPED i else TXE.LEG_B_STOPPED i)

def validFld (dir i l : Nat) : Fld := if dir = 0 then RXE.LEG_VALID i l else TXE.LEG_VALID i l
def portFld (dir i l : Nat) : Fld := if dir = 0 then RXE.LEG_PORT i l else TXE.LEG_PORT i l
def ip6Fld (dir i l : Nat) : Fld := if dir = 0 then RXE.LEG_IPV6 i l else TXE.LEG_IPV6 i l

/-- The legs a stream uses, whether or not one was stopped (R173). -/
def State.legs (s : State) (dir i : Nat) : List Nat := if (s.entry dir i).red then [0, 1] else [0]

/-- The legs in use and not stopped (R188). -/
def State.liveLegs (s : State) (dir i : Nat) : List Nat := (s.legs dir i).filter (fun l => !s.on (stopFld dir i l))

/-- The enabled streams of a direction, by ascending index. -/
def State.streams (s : State) (dir : Nat) : List Nat :=
  if dir = 0 then (s.strm.rx.filter (fun r => !r.closing)).map RxRun.stream
  else (s.strm.tx.filter (fun r => r.stopAt.isNone)).map TxRun.stream

/-- A 16-byte address field: four words in network order; IPv4 stands in the first. -/
def State.addrOf (s : State) (f : Nat → Fld) (v6 : Bool) : Nat :=
  if v6 then ((s.get (f 0) * 2 ^ 32 + s.get (f 1)) * 2 ^ 32 + s.get (f 2)) * 2 ^ 32 + s.get (f 3) else s.get (f 0)

/-- Destination of a leg. -/
def State.legDest (s : State) (dir i l : Nat) : Nat :=
  if dir = 0 then s.addrOf (RXE.LEG_DEST_IP i l) (s.on (RXE.LEG_IPV6 i l))
  else s.addrOf (TXE.LEG_DEST_IP i l) (s.on (TXE.LEG_IPV6 i l))

def State.legSrc (s : State) (i l : Nat) : Nat := s.addrOf (RXE.LEG_SRC_IP i l) (s.on (RXE.LEG_IPV6 i l))

/-- A multicast address (IPv4 224.0.0.0/4, IPv6 ff00::/8). -/
def isMulticast (ip a : Nat) : Bool := if ip = 4 then a / 2 ^ 28 == 14 else a / 2 ^ 120 == 255

/-! ## Loads (R183) -/

/-- Load of a leg of stream i, in packets per second, exact. -/
def State.legLoad (s : State) (dir i : Nat) : ℚ :=
  let e := s.entry dir i
  (s.base * e.k : ℚ) / e.spp

/-- The legs in lane j, as (direction, stream, leg): receive first, by stream and leg. -/
def State.lane (s : State) (j : Nat) : List (Nat × Nat × Nat) :=
  [0, 1].flatMap (fun dir => (s.streams dir).flatMap (fun i =>
    ((s.liveLegs dir i).filter (fun l => s.get (laneFld dir i l) == j)).map (fun l => (dir, i, l))))

def State.laneLoad (s : State) (j : Nat) : ℚ := ((s.lane j).map (fun x => s.legLoad x.1 x.2.1)).sum

/-- LOAD in kpps, to the nearest, ties upward (R196). -/
def kpps (x : ℚ) : Nat := (x / 1000 + 1 / 2).floor.toNat

/-- HAMMERh_STATUS.LOAD and INFLIGHT follow. -/
def State.showLoads (s : State) : State :=
  (List.range 17).foldl (fun s h =>
    let s := s.set (STRM.HAMMER_LOAD h) (if s.get (STRM.HAMMER_ROLE h) = 0 then kpps (s.laneLoad (s.get (STRM.HAMMER_LANE h))) else 0)
    s.set (STRM.HAMMER_INFLIGHT h) (s.strm.flights.filter (fun f => f.hammer == h)).length) s

/-- Capacity of a lane: 2,048 kpps. -/
def laneCap : ℚ := 2048000

/-- Lane j is carried by a Hammer and has room for a load. -/
def State.laneFits (s : State) (j : Nat) (load : ℚ) : Bool :=
  s.get (STRM.LANE_MAP j) != 0x1F && decide (s.laneLoad j + load ≤ laneCap)

/-- The lane LANE_AUTO gives: the lowest load of those that fit and do not hold the stream's other leg; ties go to the lower. -/
def State.autoLane (s : State) (load : ℚ) (other : Option Nat) : Option Nat :=
  ((List.range 16).filter (fun j => some j != other && s.laneFits j load)).foldl (fun acc j => match acc with
    | some a => if s.laneLoad j < s.laneLoad a then some j else some a
    | none => some j) none

/-- The lane a leg takes when it is enabled: its pin, or LANE_AUTO (R183). -/
def State.pickLane (s : State) (dir i l : Nat) (other : Option Nat) : Option Nat :=
  let load := s.legLoad dir i
  let auto := if dir = 0 then s.on (RXE.LEG_LANE_AUTO i l) else s.on (TXE.LEG_LANE_AUTO i l)
  let pin := if dir = 0 then s.get (RXE.LEG_LANE i l) else s.get (TXE.LEG_LANE i l)
  if auto then s.autoLane load other
  else if some pin ≠ other ∧ s.laneFits pin load then some pin else none

/-! ## Checks of an enable -/

/-- Bytes of a stream frame of leg l, FCS included. -/
def State.frameLen (s : State) (dir i l : Nat) : Nat :=
  (s.entry dir i).payload + (if s.on (ip6Fld dir i l) then 78 else 58) +
    (if dir = 1 ∧ s.on (TXE.LEG_VLAN_EN i l) then 4 else 0)

/-- R163: the limits. -/
def State.limitsOk (s : State) (dir i : Nat) : Bool :=
  let e := s.entry dir i
  let r := s.base * e.k
  let fits := fun l =>
    let p := s.get (portFld dir i l)
    decide (s.frameLen dir i l ≤ lenEff (s.get (if dir = 0 then PORT.RX_MAX_LEN p else PORT.TX_MAX_LEN p)))
  e.rate != 3 && decide (1 ≤ e.ch ∧ e.ch ≤ if e.wide then 256 else 64) &&
    decide (r ≤ e.spp * 16000 ∧ e.spp * 250 ≤ r) && decide (e.payload ≤ if e.wide then 8940 else 1440) &&
    (!e.wide || (s.legs dir i).all fits)

/-- R173: the legs. -/
def State.legsOk (s : State) (dir i : Nat) : Bool := (s.legs dir i).all (fun l => s.on (validFld dir i l))

/-- R164: BASE_SLOT. -/
def State.slotsOk (s : State) (dir i : Nat) : Bool :=
  let e := s.entry dir i
  e.slot % e.k == 0 && decide (e.slot + e.ch * e.k ≤ 2048)

/-- Channel units of the enabled streams of a direction (R7). -/
def State.units (s : State) (dir : Nat) : Nat := ((s.streams dir).map (fun i => (s.entry dir i).ch * (s.entry dir i).k)).sum

/-- Slots of another enabled stream overlap, or the budget of R7 would be exceeded. -/
def State.slotsTaken (s : State) (dir i : Nat) : Bool :=
  let e := s.entry dir i
  (s.streams dir).any (fun o =>
    let f := s.entry dir o
    o != i && decide (e.slot < f.slot + f.ch * f.k ∧ f.slot < e.slot + e.ch * e.k)) ||
  decide (2048 < s.units dir + e.ch * e.k)

/-- D20 and D80 of the active family (R268). -/
def State.d20 (s : State) : Nat := s.base / 50
def State.d80 (s : State) : Nat := s.base * 8 / 100

/-- D in force for PRESENT and PLACE (R171, R269): the new D from the boundary that opens P0 + 31. -/
def State.fetchD (s : State) (g : Nat) : Nat :=
  match s.anvil.align.find? (fun a => a.group == g) with
  | some a => match a.start with
    | some p0 => if p0 + 31 ≤ s.media then a.new else a.old
    | none => a.old
  | none => s.get (ANVIL.ALIGN_D g)

/-- Some group has D above D20 (R268). -/
def State.longD (s : State) : Bool :=
  (List.range 64).any (fun g => decide (s.d20 < s.get (ANVIL.ALIGN_D g)) || decide (s.d20 < s.get (ANVIL.ALIGN_D_TARGET g)))

/-- Ring length, rows and pages of receive stream i (R206). -/
def State.ringSize (s : State) (i : Nat) : Nat × Nat × Nat :=
  let g := s.get (RXE.GROUP i)
  let d := max (s.get (ANVIL.ALIGN_D g)) (s.get (ANVIL.ALIGN_D_TARGET g))
  let len := 32 * ((d + s.get (RXE.EARLY_WIN i) + 2 + 31) / 32)
  let rows := len * rateK (s.get (RXE.RATE i))
  let bytes := rows * (5 + 5 * s.get (RXE.CHANNELS i))
  (len, rows, (bytes + 4095) / 4096)

/-- The key of a receive leg (R166). -/
def State.legKey (s : State) (i l : Nat) : Nat × Bool × Nat × Nat × Option Nat :=
  (s.get (RXE.LEG_PORT i l), s.on (RXE.LEG_IPV6 i l), s.legDest 0 i l, s.get (RXE.LEG_UDP_DPORT i l),
    if s.on (RXE.LEG_SRC_FILT i l) then some (s.legSrc i l) else none)

/-- A key of stream i is held by another enabled leg, or by its own other leg (R166). -/
def State.keyHeld (s : State) (i : Nat) : Bool :=
  let mine := (s.legs 0 i).map (s.legKey i)
  (s.streams 0).any (fun o => o != i && (s.liveLegs 0 o).any (fun l => mine.contains (s.legKey o l))) ||
    decide (mine.length = 2 ∧ mine[0]? = mine[1]?)

/-- The lanes of the legs of stream i, leg A first: none where one finds none (R183). -/
def State.pickLanes (s : State) (dir i : Nat) : Option (List Nat) :=
  match s.pickLane dir i 0 none with
  | none => none
  | some a =>
    if (s.entry dir i).red then
      match s.pickLane dir i 1 (some a) with
      | none => none
      | some b => some [a, b]
    else some [a]

/-- The first check that fails: status and ERR of the stream table (R163, R164, R166, R173, R183, R197, R206, R268). -/
def State.enableCheck (s : State) (dir i : Nat) : Nat × Nat :=
  if s.noStart 7 0 then (Status.notInState, 0)
  else if !(s.limitsOk dir i) || !(s.legsOk dir i) then (Status.badParam, 1)
  else if !(s.slotsOk dir i) then (Status.badParam, 2)
  else if s.slotsTaken dir i then (Status.noResource, 2)
  else if dir = 0 ∧ s.longD ∧ 512 < s.units 0 + (s.entry 0 i).ch * (s.entry 0 i).k then (Status.noResource, 2)
  else if dir = 0 ∧ s.freePages.length < (s.ringSize i).2.2 then (Status.noResource, 2)
  else if dir = 0 ∧ s.keyHeld i then (Status.badParam, 3)
  else if (s.pickLanes dir i).isNone then (Status.noResource, 4)
  else (0, 0)

/-! ## Neighbours (R180) -/

/-- An ARP request or Neighbor Solicitation for `ip` from port p. -/
def State.askNeighbour (s : State) (p : Nat) (v6 : Bool) (ip : Nat) : State :=
  let mac := s.stationMac p
  if v6 then
    let grp := 0xFF02 * 2 ^ 112 + 0x1FF000000 + ip % 2 ^ 24
    let src := s.linkLocal p
    let m := [135, 0, 0, 0, 0, 0, 0, 0] ++ be 16 ip ++ [1, 1] ++ be 6 mac
    let c := inetSum (pseudo 6 src grp 58 m.length ++ m)
    s.sendService p (ethHdr (groupMac 6 grp) mac none 0x86DD ++ ip6Bytes src grp 58 255 0 (m.take 2 ++ be 2 c ++ m.drop 4))
  else
    s.sendService p (ethHdr bcastMac mac none 0x0806 ++ be 2 1 ++ be 2 0x0800 ++ [6, 4] ++ be 2 1 ++ be 6 mac ++
      be 4 (s.ip4 p) ++ be 6 0 ++ be 4 ip)

/-- The next hop towards an IPv4 address: itself in the subnet, else the gateway. -/
def State.nextHop (s : State) (p : Nat) (ip : Nat) : Nat :=
  let c := (s.psvc p).cfg
  let sh := 32 - min c.v4Prefix 32
  if ip / 2 ^ sh = s.ip4 p / 2 ^ sh ∨ c.v4Gw = 0 then ip else c.v4Gw

/-- DEST_MAC of a unicast transmit leg comes from the neighbour cache; unknown, the engine asks for it. -/
def State.resolveLeg (s : State) (i l : Nat) : State :=
  let v6 := s.on (TXE.LEG_IPV6 i l)
  let d := s.legDest 1 i l
  let p := s.get (TXE.LEG_PORT i l)
  if isMulticast (if v6 then 6 else 4) d then s
  else
    let hop := if v6 then d else s.nextHop p d
    match (s.psvc p).neigh.find? (fun n => n.ip == hop) with
    | some n => (s.set (TXE.LEG_DEST_MAC_LO i l) n.mac).set (TXE.LEG_DEST_MAC_HI i l) (n.mac / 2 ^ 32)
    | none => ((s.set (TXE.LEG_DEST_MAC_LO i l) 0).set (TXE.LEG_DEST_MAC_HI i l) 0).askNeighbour p v6 hop

/-! ## Enabling and disabling -/

/-- Insert a run in its place, the list ascending by stream. -/
def insertRun {α : Type} (key : α → Nat) (x : α) : List α → List α
  | [] => [x]
  | a :: t => if key a < key x then a :: insertRun key x t else x :: a :: t

/-- A leg joins or leaves the group of its destination (R166, R379). -/
def State.legGroup (s : State) (join : Bool) (i l : Nat) : State :=
  let ip := if s.on (RXE.LEG_IPV6 i l) then 6 else 4
  let d := s.legDest 0 i l
  let p := s.get (RXE.LEG_PORT i l)
  let filt := s.on (RXE.LEG_SRC_FILT i l)
  if isMulticast ip d then
    let mode := if filt then 0 else 1
    let srcs := if filt then [s.legSrc i l] else []
    if join then s.joinGroup p ip d 0 mode srcs else s.legLeaves p ip d mode srcs
  else s

/-- Give the legs of stream i their lanes, none of them stopped. -/
def State.takeLanes (s : State) (dir i : Nat) (lanes : List Nat) : State :=
  let s := ((s.set (stopFld dir i 0) 0).set (stopFld dir i 1) 0)
  (s.set (laneFld dir i 0) (nth lanes 0 0)).set (laneFld dir i 1) (nth lanes 1 0)

def emptyCs : CsRun := ⟨0, [], List.replicate 24 0#8⟩

/-- Receive stream i is enabled (R175, R206, R209): its ring, its legs' lanes and groups. Packets of an earlier enable that are
still in a Hammer finish in the ring that is held for them. -/
def State.rxStart (s : State) (i : Nat) (lanes : List Nat) : State :=
  let (len, rows, pages) := s.ringSize i
  let run : RxRun := ⟨i, ⟨len, rows, s.freePages.take pages, []⟩, ⟨none, none⟩, ⟨none, none⟩, 0, none,
    List.replicate (s.get (RXE.CHANNELS i)) emptyCs, false⟩
  let old := fun (f : Flight) => if f.dir = 0 ∧ f.stream = i then { f with seq := 1 } else f
  let s := { s with strm := { s.strm with rx := insertRun RxRun.stream run s.strm.rx, flights := s.strm.flights.map old } }
  let s := s.noteLines (run.ring.recordLines (s.get (RXE.CHANNELS i)))
  let s := { s with anvil := { s.anvil with conc := s.anvil.conc.filter (fun c => c.stream != i) } }
  let s := ((s.set (RXE.ENABLE i) 1).set (RXE.PLACED_ONCE i) 0).set (RXE.STARVED i) 0
  let s := ((s.set (RXE.LEG_A_UP i) 0).set (RXE.LEG_B_UP i) 0).takeLanes 0 i lanes
  ((s.legs 0 i).foldl (fun s l => s.legGroup true i l) s).poolFree.showLoads

/-- Receive stream i is disabled (R175): no later frame is claimed, packets in a Hammer finish, and the ring's pages are held
until RING_PAGES_FREE. What was fetched for the present period is still used. -/
def State.rxStop (s : State) (i : Nat) : State :=
  let s := (s.liveLegs 0 i).foldl (fun s l => s.legGroup false i l) s
  let close : RxRun → RxRun := fun r => if r.stream = i then { r with closing := true } else r
  let s := { s with strm := { s.strm with rx := s.strm.rx.map close } }
  let s := { s with anvil := { s.anvil with net := s.anvil.net.filter (fun c => c.stream != i || decide (c.pass ≤ s.media)) } }
  let s := ((s.set (RXE.ENABLE i) 0).set (RXE.LEG_A_UP i) 0).set (RXE.LEG_B_UP i) 0
  ((s.set (RXE.PLACED_ONCE i) 0).set (RXE.STARVED i) 0).showLoads

/-- Transmit stream i is enabled (R181): its first packet is chosen at TX_STREAM_START. -/
def State.txStart (s : State) (i : Nat) (lanes : List Nat) : State :=
  let run : TxRun := ⟨i, none, s.get (TXE.SEQ_INIT i), s.nowNs, none⟩
  let rest := s.strm.tx.filter (fun r => r.stream != i)
  let s := { s with strm := { s.strm with tx := insertRun TxRun.stream run rest } }
  let s := (s.set (TXE.ENABLE i) 1).takeLanes 1 i lanes
  ((s.legs 1 i).foldl (State.resolveLeg · i ·) s).showLoads

/-- Media time at rate k × base at an instant in 2^−32 ns. -/
def State.mediaAt (s : State) (k ctr : Nat) : Nat := ctr * (s.base * k) / ctrPerSec

/-- Transmit stream i is disabled (R181): no packet is built whose M lies beyond this instant. -/
def State.txStop (s : State) (i : Nat) : State :=
  let m := s.mediaAt (s.entry 1 i).k s.ctr
  let stop : TxRun → TxRun := fun r => if r.stream = i ∧ r.stopAt.isNone then { r with stopAt := some m } else r
  let tx := (s.strm.tx.map stop).filter (fun r => r.stream != i || r.nextM.isSome)
  ({ s with strm := { s.strm with tx := tx } }.set (TXE.ENABLE i) 0).showLoads

/-- Apply ENABLE of a stream: the status, ERR of the stream table, and the state. -/
def State.enableStream (s : State) (dir i : Nat) (on : Bool) : Nat × Nat × State :=
  let was := (s.entry dir i).on
  if !on then (0, 0, if was then (if dir = 0 then s.rxStop i else s.txStop i) else s)
  else if was then (0, 0, s)
  else
    let (st, err) := s.enableCheck dir i
    match s.pickLanes dir i with
    | some lanes => if st = 0 then (0, 0, if dir = 0 then s.rxStart i lanes else s.txStart i lanes) else (st, err, s)
    | none => (st, err, s)

/-! ## Failure of a Hammer (R185 to R188) -/

/-- Bits of FAULT_MAP for the streams that lost a packet. -/
def State.faultMap (s : State) (l : List Flight) : State :=
  let s := (List.range 32).foldl (fun s w => s.set (STRM.FAULT_MAP w) 0) s
  l.foldl (fun s f =>
    let b := f.stream + 512 * f.dir
    s.setBit (STRM.FAULT_MAP (b / 32)) (b % 32) true) s

/-- Frames a lost packet leaves to conceal: those of a receive stream with no other leg in use. -/
def State.toConceal (s : State) (f : Flight) : Nat :=
  if f.dir = 0 ∧ (s.liveLegs 0 f.stream).length < 2 then s.get (RXE.SPP f.stream) else 0

/-- A packet is lost with its Hammer. -/
def State.losePacket (s : State) (f : Flight) : State :=
  s.count (if f.dir = 0 then RXC.LANE_LOST f.stream f.leg else TXC.LANE_LOST f.stream f.leg)

/-- Lanes carried by a Hammer, and SPARE_OK. -/
def State.laneStatus (s : State) : State :=
  let n := ((List.range 16).filter (fun j => s.get (STRM.LANE_MAP j) != 0x1F)).length
  (s.set STRM.STATUS_WORKING n).setOn STRM.STATUS_SPARE_OK (s.spareOf 0).isSome

/-- A leg of a lane without a Hammer is placed again, or stopped; a stream with no leg left is disabled (R188). -/
def State.rehome (s : State) (x : Nat × Nat × Nat) : State :=
  let (dir, i, l) := x
  let others := (s.liveLegs dir i).filter (fun o => o != l)
  let s1 := s.set (stopFld dir i l) 1
  match s1.autoLane (s.legLoad dir i) ((others.head?).map (fun o => s.get (laneFld dir i o))) with
  | some j => s.set (laneFld dir i l) j
  | none =>
    if others.isEmpty then
      let s := if dir = 0 then s.rxStop i else s.txStop i
      let s := (s.set (stopFld dir i l) 1).count STRM.NO_LANE_STOPS
      let s := { s with strm := { s.strm with tx := if dir = 1 then s.strm.tx.filter (fun r => r.stream != i) else s.strm.tx } }
      s.signal STRM.INT STRM.INT_EN STRM.INT_NO_LANE 0x0503 9 i [BitVec.ofNat 8 dir]
    else if dir = 0 then s1.legGroup false i l else s1

/-- Hammer u carries lane j. -/
def State.carryLane (s : State) (u j : Nat) : State :=
  ((s.set (STRM.HAMMER_ROLE u) 0).set (STRM.HAMMER_LANE u) j).set (STRM.LANE_MAP j) u

/-- The draining Hammer of a handover of lane j, if it still drains. -/
def State.drainerOf (s : State) (j : Nat) : Option Nat :=
  (List.range 17).find? (fun u => s.get (STRM.HAMMER_ROLE u) == 3 && s.get (STRM.HAMMER_LANE u) == j)

/-- The set's handover is over. -/
def State.laneHandover (s : State) (on : Bool) : State :=
  let x := s.setRun 0
  s.putSetRun 0 { x with handover := on }

/-- Lane j is left without a Hammer, and its legs are placed again (R188). -/
def State.dropLane (s : State) (j : Nat) : State :=
  let s := s.set (STRM.LANE_MAP j) 0x1F
  (s.lane j).foldl State.rehome s

/-- No other Hammer is SPARE or TEST for lane j. Where the spare was taken in this same CORE cycle for a higher lane, lane j takes it from that one (R187). -/
def State.noSpareFor (s : State) (j : Nat) : State :=
  match s.strm.took with
  | some (c, k, u) =>
    if c = s.cycles ∧ j < k ∧ s.get (STRM.LANE_MAP k) = u then
      let s := s.carryLane u j
      { s with strm := { s.strm with took := some (c, j, u) } }.dropLane k
    else s.dropLane j
  | none => s.dropLane j

/-- Hammer h is declared failed (R185 to R188). -/
def State.hammerFail (s : State) (h cause : Nat) : State :=
  let role := s.get (STRM.HAMMER_ROLE h)
  if 16 < h ∨ role = 4 then s
  else
    let j := s.get (STRM.HAMMER_LANE h)
    let lost := s.strm.flights.filter (fun f => f.hammer == h)
    let rx := (lost.filter (fun f => f.dir == 0)).length
    let tx := (lost.filter (fun f => f.dir == 1)).length
    let conc := (lost.map s.toConceal).sum
    let s := (lost.foldl State.losePacket s).faultMap lost
    let s := { s with strm := { s.strm with flights := s.strm.flights.filter (fun f => f.hammer != h),
                                            sealTimes := s.strm.sealTimes.filter (fun x => x.1 != h) } }
    let s := if role = 1 ∨ role = 2 then s.preempt 0 h 5 else if role = 3 then s.laneHandover false else s
    let s := (((s.set (STRM.HAMMER_ROLE h) 4).set (STRM.HAMMER_LANE h) 0).count (STRM.HAMMER_FAULTS h)).quarantine 0 h cause
    let s := if role ≠ 0 then s
      else match s.drainerOf j with
        | some u => (s.carryLane u j).laneHandover false
        | none => match s.spareOf 0 with
          | some u =>
            let s := (s.preempt 0 u 4).carryLane u j
            { s with strm := { s.strm with took := some (s.cycles, j, u) } }
          | none => s.noSpareFor j
    let lb := if role = 0 then j else 0xFF
    let s := ((s.set STRM.LASTF_CAUSE cause).set STRM.LASTF_LANE lb).set STRM.LASTF_HAMMER h
    let s := (s.set STRM.FAULT_TIME s.shortTime).laneStatus.showLoads
    let detail := [BitVec.ofNat 8 h, BitVec.ofNat 8 lb, BitVec.ofNat 8 cause, BitVec.ofNat 8 rx, BitVec.ofNat 8 tx, 0] ++
      le 2 (min conc 0xFFFF)
    let s := s.faultEvent 0x0501 9 h detail
    (s.signal STRM.INT STRM.INT_EN STRM.INT_LANE_FAULT 0x0501 9 h detail).pauseCheck 0

/-- A fresh seal failure at check point 0 or 8 counts towards cause 3 of the Hammer that found it (R185, R249). -/
def State.hammerSeal (s : State) (h : Nat) : State :=
  let l := s.strm.sealTimes.filter (fun x => decide (s.cycles < x.2 + 1000 * cyclesPerUs)) ++ [(h, s.cycles)]
  let s := { s with strm := { s.strm with sealTimes := l } }
  let n := s.get STRM.CTRL_SEAL_FAULT_N
  if n ≠ 0 ∧ n ≤ (l.filter (fun x => x.1 == h)).length then s.hammerFail h 3 else s

/-- HAMMER_WATCHDOG (R185, cause 1): a packet has been in the Hammer for 10 µs. -/
def execHammerWatchdog (h : Nat) (s : State) : Out :=
  .next (if s.strm.flights.any (fun f => f.hammer == h) then s.hammerFail h 1 else s)

/-- HAMMER_FAIL (R185 to R188). -/
def execHammerFail (h cause : Nat) (s : State) : Out :=
  .next (if 1 ≤ cause ∧ cause ≤ 5 then s.hammerFail h cause else s)

/-- Lane j moves to the spare (R184). -/
def State.startLane (s : State) (j : Nat) : State :=
  let h := s.get (STRM.LANE_MAP j)
  match s.spareOf 0 with
  | some u =>
    if j < 16 ∧ h ≠ 0x1F ∧ s.role 0 u = 1 ∧ !(s.setRun 0).handover then
      (((s.carryLane u j).set (STRM.HAMMER_ROLE h) 3).laneHandover true).laneStatus.showLoads
    else s
  | none => s

/-- LANE_HANDOVER (R184). -/
def execLaneHandover (j : Nat) (s : State) : Out := .next (s.startLane j)

/-- HAMMER_DRAIN_DONE (R184). -/
def execHammerDrainDone (h : Nat) (s : State) : Out :=
  if h < 17 ∧ s.role 0 h = 3 ∧ !(s.strm.flights.any (fun f => f.hammer == h)) then
    .next ((((s.set (STRM.HAMMER_ROLE h) 1).set (STRM.HAMMER_LANE h) 0).laneHandover false).laneStatus.showLoads.vacated 0 h)
  else .next s

/-! ## Commands (R192) -/

/-- LANE_STATUS_GET. -/
def execLaneStatusGet (r : Req) (p : List Tlv) (s : State) : Out :=
  runCmd 0x0506 [] (fun _ s =>
    let w := fun off => le 4 (s.word STRM.fields (0xC0000 + off))
    (Reply.ok ((List.range 4).flatMap (fun i => w (0x20 + 4 * i)) ++ (List.range 17).flatMap (fun h => w (0x40 + 4 * h)) ++
      w 0xF0 ++ (List.range 32).flatMap (fun i => w (0x200 + 4 * i))), s)) r p s

/-- LANE_QUARANTINE (R185, cause 4). -/
def execLaneQuarantine (r : Req) (p : List Tlv) (s : State) : Out :=
  runCmd 0x0507 [preq 1 1 0 16] (fun p s =>
    let h := Params.val p 1
    if s.role 0 h = 4 then (Reply.err Status.notInState, s) else (Reply.ok [], s.hammerFail h 4)) r p s

/-- The release of Hammer h (R189). -/
def State.laneRelease (s : State) (h : Nat) : Reply × State :=
  if s.role 0 h ≠ 4 ∨ !s.inService ∨ !s.passedSinceQ 0 h then (Reply.err Status.notInState, s)
  else
    let ev := fun (s : State) (role : Nat) =>
      (s.laneStatus.showLoads.signal STRM.INT STRM.INT_EN STRM.INT_RELEASED 0x0502 9 h [BitVec.ofNat 8 role]).pauseCheck 0
    match (List.range 16).find? (fun j => s.get (STRM.LANE_MAP j) == 0x1F) with
    | some j => (Reply.ok [], ev ((s.unquarantine 0 h).carryLane h j) 0)
    | none =>
      if (s.spareOf 0).isSome || (s.setRun 0).handover then (Reply.err Status.noResource, s)
      else (Reply.ok [], ev ((s.unquarantine 0 h).set (STRM.HAMMER_ROLE h) 1) 1)

/-- LANE_RELEASE. -/
def execLaneRelease (r : Req) (p : List Tlv) (s : State) : Out :=
  runCmd 0x0508 [preq 1 1 0 16] (fun p s => s.laneRelease (Params.val p 1)) r p s

end Sys2Proof.Machine
end

