-- ==== Sys2Proof/Machine/Place.lean ====
section
/-! DEFINITION. Receive streams (chapter 05): classification (R166), the RTP checks and placement (R168 to R172), leg state
(R173) and the fetch of each period (R174, R211, R212). -/

namespace Sys2Proof.Machine

/-! ## Classification (R158, R161, R166, R167) -/

/-- Leg (i, l) claims a frame with these headers on port p. -/
def State.legClaims (s : State) (p : Nat) (h : Hdrs) (i l : Nat) : Bool :=
  s.get (RXE.LEG_PORT i l) == p && (if s.on (RXE.LEG_IPV6 i l) then h.ip == 6 else h.ip == 4) &&
    s.legDest 0 i l == h.ipDst && s.get (RXE.LEG_UDP_DPORT i l) == h.dport &&
    (!s.on (RXE.LEG_SRC_FILT i l) || s.legSrc i l == h.ipSrc)

/-- The leg that claims a frame. Two keys that differ only in SRC_FILT can match one frame: the lowest stream, leg A first
(assumption 9). -/
def State.claim (s : State) (p : Nat) (h : Hdrs) : Option (Nat × Nat) :=
  if h.isUdp && !h.ext then
    ((s.streams 0).flatMap (fun i => (s.liveLegs 0 i).map (fun l => (i, l)))).find? (fun x => s.legClaims p h x.1 x.2)
  else none

/-- Packets a Hammer holds. -/
def State.held8 (s : State) (h : Nat) : Bool := decide (8 ≤ (s.strm.flights.filter (fun f => f.hammer == h)).length)

/-- A claimed frame goes to its lane's Hammer (R160) without its FCS and with its wire seal, its UDP checksum and MEDIA_VALID permitting (R161, R167). -/
def State.toLane (s : State) (i l : Nat) (b : List Byte) (h : Hdrs) (stamp : Int) : State :=
  let w := b.take (b.length - 4)
  let s := s.count (RXC.PKTS i l)
  if !s.on TIME.STATUS_MEDIA_VALID then s.count STRM.NOT_VALID_DROP
  else
    if !udpSumOk b h then s.count (RXC.UDP_CSUM i l)
    else
      let j := s.get (laneFld 0 i l)
      let f : Flight := ⟨s.get (STRM.LANE_MAP j), j, 0, i, l, s.cycles, w, stamp, 0, 0, crc32c w⟩
      { s with strm := { s.strm with flights := s.strm.flights ++ [f] } }.showLoads

/-! ## RTP (R168 to R170) -/

/-- An RTP packet: payload type, sequence number, timestamp, SSRC, and the payload without CSRC list, extension, padding. -/
structure Rtp where
  version : Nat
  pt : Nat
  seq : Nat
  ts : Nat
  ssrc : Nat
  pay : List Byte

/-- Read an RTP header (RFC 3550). -/
def rtpOf (b : List Byte) : Rtp :=
  let b0 := beAt b 0 1
  let off := 12 + 4 * (b0 % 16)
  let off := if b0.testBit 4 then off + 4 + 4 * beAt b (off + 2) 2 else off
  let body := b.drop off
  let pad := if b0.testBit 5 then ((body.getLast?).map BitVec.toNat).getD 0 else 0
  { version := b0 / 64, pt := beAt b 1 1 % 128, seq := beAt b 2 2, ts := beAt b 4 4, ssrc := beAt b 8 4,
    pay := body.take (body.length - pad) }

/-- The checks of R168, in order. -/
def State.rtpOk (s : State) (i : Nat) (r : Rtp) : Bool :=
  r.version == 2 && (!s.effOn (RXE.PT_CHECK i) || r.pt == s.eff (RXE.PT i)) && r.pay.length == (s.entry 0 i).payload &&
    (!s.effOn (RXE.SSRC_LOCK i) || r.ssrc == s.eff (RXE.SSRC i))

/-- Replace the run of stream i. -/
def State.setRx (s : State) (i : Nat) (x : RxRun) : State :=
  { s with strm := { s.strm with rx := s.strm.rx.map (fun r => if r.stream = i ∧ r.closing = x.closing then x else r) } }

def RxRun.leg (r : RxRun) (l : Nat) : LegRun := if l = 0 then r.legA else r.legB
def RxRun.setLeg (r : RxRun) (l : Nat) (x : LegRun) : RxRun := if l = 0 then { r with legA := x } else { r with legB := x }

def upFld (i l : Nat) : Fld := if l = 0 then RXE.LEG_A_UP i else RXE.LEG_B_UP i

/-- Hold-off of the stream engine's events (R191). -/
def State.strmEvent (s : State) (bit code unit : Nat) (detail : List Byte) : State :=
  s.signalHeld STRM.INT STRM.INT_EN bit code 9 unit (s.get STRM.CTRL_EVT_HOLDOFF * 1000 * cyclesPerUs) detail

/-- A leg has a packet accepted by R168: SSRC, sequence number and leg state (R168, R169, R173). -/
def State.accept (s : State) (x : RxRun) (l : Nat) (r : Rtp) : RxRun × State :=
  let i := x.stream
  let g := x.leg l
  let s := match g.ssrc with
    | some o => if o ≠ r.ssrc ∧ !s.effOn (RXE.SSRC_LOCK i) then
        (s.count (RXC.SSRC_CHANGE i)).strmEvent STRM.INT_SSRC 0x0508 i ([BitVec.ofNat 8 l, 0, 0, 0] ++ le 4 r.ssrc)
      else s
    | none => s
  let (q, s) := match g.seq with
    | none => (r.seq, s)
    | some q =>
      let d := (r.seq + 65536 - q - 1) % 65536
      if d < 32768 then (r.seq, s.countBy (RXC.SEQ_GAP i l) d) else (q, s.count (RXC.SEQ_REORDER i l))
  let s := if (s.legs 0 i).contains l ∧ !s.on (upFld i l) ∧ !x.closing then
      (s.set (upFld i l) 1).strmEvent STRM.INT_LEG_UP 0x0507 i [BitVec.ofNat 8 l]
    else s
  (x.setLeg l ⟨some q, some r.ssrc⟩, s)

/-! ## Samples (R45, R162, R165) -/

/-- Cut a list into pieces of n, `count` of them. -/
def pieces (n : Nat) : Nat → List Byte → List (List Byte)
  | 0, _ => []
  | c + 1, l => l.take n :: pieces n c (l.drop n)

/-- The word of one sample of a payload. -/
def decodeSample (enc : Nat) (b : List Byte) : Int := fromWire (encBits enc) (ofBe b % 2 ^ encBits enc)

/-- Frames of a payload: for each of `spp` frames, `ch` pieces. -/
def sampleFrames (enc ch : Nat) : Nat → List Byte → List (List (List Byte))
  | 0, _ => []
  | c + 1, l =>
    let n := ch * encBytes enc
    pieces (encBytes enc) ch (l.take n) :: sampleFrames enc ch c (l.drop n)

/-- Ones in the low `w` bits of n. -/
def popcount (w n : Nat) : Nat := ((List.range w).filter (fun i => n.testBit i)).length

/-- An AM824 subframe (ST 2110-31, PRESUMED): B in bit 29, F 28, P 27, C 26, U 25, V 24, audio in 23 to 0. -/
def csStep (m : Nat) (c : CsRun) (b : List Byte) : CsRun :=
  let w := ofBe b
  let bit := w.testBit 26
  let c := if w.testBit 29 then { c with since := m, bits := [bit] }
    else if c.bits ≠ [] ∧ m = c.since + c.bits.length then { c with bits := c.bits ++ [bit] }
    else { c with bits := [] }
  if c.bits.length = 192 then
    { c with bits := [], last := (List.range 24).map (fun i =>
        BitVec.ofNat 8 (((List.range 8).map (fun k => if (nth c.bits (8 * i + k) false) then 2 ^ k else 0)).sum)) }
  else c

/-- Parity errors of a frame: the bits 27 to 0 hold an odd number of ones. -/
def parityErrors (fr : List (List Byte)) : Nat := (fr.filter (fun b => popcount 28 (ofBe b) % 2 == 1)).length

/-! ## Placement (R171, R172, R209 to R211) -/

/-- The ring records a write for frame m, n being the base media time (R210). -/
def Ring.writes (g : Ring) (ew k n : Nat) (m : Int) : Option RingRow :=
  let b := m / (k : Int)
  if (n : Int) - g.len + ew + 2 ≤ b ∧ b ≤ (n : Int) + ew ∧ 0 ≤ m then
    let m := m.toNat
    match g.cells.find? (fun c => c.1 == m % g.rows) with
    | some c => if c.2.state = 1 ∧ c.2.lap = m / g.rows % 64 then some c.2 else none
    | none => none
  else none

/-- Put a row, in order of its index. -/
def putCell (row : Nat) (x : RingRow) : List (Nat × RingRow) → List (Nat × RingRow)
  | [] => [(row, x)]
  | (a, y) :: t => if a < row then (a, y) :: putCell row x t else if a = row then (row, x) :: t else (row, x) :: (a, y) :: t

/-- The seal of the row that holds the frame at m of stream i (R241, R242). -/
def rowSeal (i m : Nat) (data : List Int) : Nat := blockSeal 1 i m data

/-- Write a row of the ring of stream i: nothing reaches an absent bank, and a bank handover notes what traffic has written (R216, R218). -/
def State.writeRow (s : State) (g : Ring) (i ch m st : Nat) (data : List Int) : Ring :=
  let row := m % g.rows
  let ls := g.rowLines ch row
  if (ls.take 1).any (fun l => s.absent l.1) then { g with cells := g.cells.filter (fun c => c.1 != row) }
  else
    { g with cells := putCell row ⟨st, m / g.rows % 64, data, st == 1 && ls.any (fun l => s.absent l.1),
        s.que.handover.isSome, [], rowSeal i m data⟩ g.cells }

/-- What placing a packet's frames has come to. -/
structure Placing where
  ring : Ring
  cs : List CsRun
  wrote : Nat
  late : Nat
  mism : Nat
  first : Option Nat

/-- Treat one frame of stream i (R171, steps 2 to 4; R172). A row that fails its seal as it is read for the comparison is not compared (R250): one lost
with its bank, with an uncorrectable word, not matching its seal, or (`reads`) found damaged now. -/
def State.placeFrame (s : State) (i : Nat) (e : Entry) (cmp : Bool) (ew n d : Nat) (reads : Int → Bool) (a : Placing) (m : Int)
    (fr : List (List Byte)) : Placing :=
  let k := e.k
  let data := fr.map (decodeSample e.enc)
  match a.ring.writes ew k n m with
  | some row =>
    let sound := !row.bad && row.ue.isEmpty && row.crc == rowSeal i m.toNat row.data && !reads m
    if cmp ∧ sound ∧ row.data ≠ data then
      { a with mism := a.mism + 1, first := some (a.first.getD (m.toNat / k)) }
    else a
  | none =>
    if m / (k : Int) + d - 1 ≤ n then { a with late := a.late + 1 }
    else
      { a with ring := s.writeRow a.ring i e.ch m.toNat 1 data, wrote := a.wrote + 1,
               cs := if e.enc = 3 then a.cs.zipWith (csStep m.toNat) fr else a.cs }

/-- Treat the frames of a packet of stream i from media time m on. -/
def State.placeFrames (s : State) (i : Nat) (e : Entry) (cmp : Bool) (ew n d : Nat) (reads : Int → Bool) :
    Placing → Int → List (List (List Byte)) → Placing
  | a, _, [] => a
  | a, m, fr :: t => s.placeFrames i e cmp ew n d reads (s.placeFrame i e cmp ew n d reads a m fr) (m + 1) t

/-- Rows read for the comparison that meet an uncorrectable error: it stays in the row, and the logical bank of each (R202). `rows` names frames of the
packet at m, and the line of the row that holds the word. -/
def Ring.compareUe (g : Ring) (ch : Nat) (m : Int) (rows : List (Nat × Option Nat)) : Ring × List Nat :=
  let hits := rows.filterMap (fun r => r.2.map (fun l => ((m + (r.1 : Int)).toNat % g.rows, l)))
  ({ g with cells := g.cells.map (fun c => (c.1, { c.2 with ue := (c.2.ue ++ (hits.filter (fun h => h.1 == c.1)).map Prod.snd).dedup })) },
   (hits.filter (fun h => g.cells.any (fun c => c.1 == h.1))).map (fun h => (nth (g.rowLines ch h.1) h.2 (0, 0)).1))

/-- The media time of a packet's first sample (R70), at its receive stamp. -/
def State.packetTime (s : State) (i k : Nat) (stamp : Int) (ts : Nat) : Int :=
  let mNow := stamp * ((s.base * k : Nat) : Int) / ((1000000000 * 65536 : Nat) : Int)
  mNow + toSigned 32 (((ts : Int) - s.get (RXE.RTP_OFFSET i) - mNow) % ((2 ^ 32 : Nat) : Int)).toNat

/-- Place a packet that passed R168 (R170 to R172, R174). `rows`: frames whose row, read for the comparison, fails its seal; with a line, for an
uncorrectable error in it. Every frame of the packet has been decoded by then, so the parity errors of all count (R158, R165). -/
def State.place (s : State) (x : RxRun) (l : Nat) (stamp : Int) (r : Rtp) (rows : List (Nat × Option Nat)) : State :=
  let i := x.stream
  let e := s.entry 0 i
  let m := s.packetTime i e.k stamp r.ts
  let n := s.media
  let ew := s.get (RXE.EARLY_WIN i)
  let frames := sampleFrames e.enc e.ch e.spp r.pay
  let s := if e.enc = 3 then s.countBy (RXC.AM824_PARITY i) (frames.map parityErrors).sum else s
  if (n : Int) + ew < (m + e.spp - 1) / (e.k : Int) then (s.setRx i x).count (RXC.EARLY i l)
  else
    let cmp := s.effOn (RXE.COMPARE i)
    let (ring, banks) := if cmp then x.ring.compareUe e.ch m rows else (x.ring, [])
    let reads := fun (f : Int) => rows.any (fun q => m + (q.1 : Int) == f)
    let a := s.placeFrames i e cmp ew n (s.fetchD (s.get (RXE.GROUP i))) reads ⟨ring, x.cs, 0, 0, 0, none⟩ m frames
    let s := s.setRx i { x with ring := a.ring, cs := a.cs }
    let s := banks.foldl State.lbankUe s
    let s := s.countBy (RXC.LATE_FRAMES i) a.late
    let s := s.count (if 0 < a.wrote then RXC.PLACED i l else if 0 < a.late then RXC.LATE i l else RXC.DUP i l)
    let s := if 0 < a.wrote ∧ !x.closing then s.set (RXE.PLACED_ONCE i) 1 else s
    if 0 < a.mism then
      (s.countBy (RXC.CMP_MISMATCH i) a.mism).strmEvent STRM.INT_CMP 0x0509 i (le 8 (a.first.getD 0))
    else s

/-- Keys of the fields of receive entry i. -/
def rxKeys (i : Nat) : Nat → Bool := inOffs (0x400000 + 0x80 * i) (0x400000 + 0x80 * i + 0x80)

/-- The run a packet in a Hammer belongs to: a packet of an earlier enable to the ring that is still held for it (R175). -/
def State.runOf (s : State) (f : Flight) : Option RxRun :=
  if f.seq = 1 then s.strm.rx.find? (fun r => r.stream == f.stream && r.closing)
  else s.strm.rx.find? (fun r => r.stream == f.stream)

/-- PLACE_COMMIT (R167 to R172): the oldest receive packet in Hammer h finishes PLACE. `damaged`: its bytes no longer match
its wire seal. `rows`: frames whose ring row fails its seal as it is read for the comparison of R172. `ce`: logical banks of corrected errors. A packet still in a Hammer when MEDIA_VALID has
fallen is discarded (DESIGN CHOICE, assumption 97). -/
def execPlaceCommit (h : Nat) (damaged : Bool) (rows : List (Nat × Option Nat)) (ce : List Nat) (s : State) : Out :=
  match s.strm.flights.find? (fun f => f.hammer == h && f.dir == 0) with
  | none => .next s
  | some f =>
    let (i, l) := (f.stream, f.leg)
    let s := { s with strm := { s.strm with flights := s.strm.flights.erase f } }.showLoads
    let s := s.boundary .rxPacket (rxKeys i)
    match s.runOf f with
    | none => .next s
    | some x =>
     if !s.on TIME.STATUS_MEDIA_VALID then .next (s.count STRM.NOT_VALID_DROP)
     else
      let (fails, fresh, s) := s.checkSeal 0 i false (damaged || f.crc != crc32c f.payload)
      if fails then
        let s := s.count (RXC.SEAL_ERR i l)
        .next (if fresh then s.hammerSeal h else s)
      else
        let r := rtpOf (udpPayload f.payload (headers f.payload))
        if !s.rtpOk i r then .next (s.count (RXC.RTP_ERR i l))
        else
          let (x, s) := s.accept x l r
          .next ((s.place x l f.stamp r rows).readCe ce)

/-- LEG_TIMEOUT (R173): a leg in use has had no packet accepted within LEG_TIMEOUT. -/
def execLegTimeout (i l : Nat) (s : State) : Out :=
  if i < 512 ∧ l < 2 ∧ (s.streams 0).contains i ∧ (s.legs 0 i).contains l ∧ s.on (upFld i l) then
    .next ((s.set (upFld i l) 0).strmEvent STRM.INT_LEG_DOWN 0x0506 i [BitVec.ofNat 8 l])
  else .next s

/-! ## The fetch (R174, R211, R212) -/

/-- Fetch frame m of a stream (R211): its values, or none to be concealed; the logical banks of the uncorrectable errors it meets; the run and the state. `ue`:
the lines of the row in which the read meets one now; `damaged`: the row does not match its seal. A word stays uncorrectable until its row is written
again (R202). -/
def State.fetchFrame (s : State) (x : RxRun) (m : Nat) (ue : List Nat) (damaged : Bool) : Option (List Int) × List Nat × RxRun × State :=
  let i := x.stream
  let ch := s.get (RXE.CHANNELS i)
  let row := m % x.ring.rows
  let bank := fun (l : Nat) => (nth (x.ring.rowLines ch row) l (0, 0)).1
  match x.ring.cells.find? (fun c => c.1 == row && c.2.state == 1 && c.2.lap == m / x.ring.rows % 64) with
  | some c =>
    let hit := (c.2.ue ++ ue).dedup
    let x := { x with ring := { x.ring with cells := x.ring.cells.map (fun y => if y.1 = row then (y.1, { y.2 with ue := hit }) else y) } }
    let (fails, _, s) := s.checkSeal 1 i (c.2.bad || !hit.isEmpty) (damaged || c.2.crc != rowSeal i m c.2.data)
    if fails then (none, hit.map bank, x, s) else (some c.2.data, hit.map bank, x, s)
  | none => (none, ue.map bank, { x with ring := s.writeRow x.ring i ch m 2 [] }, s)

/-- What a fetch finds of a frame: the lines with an uncorrectable error, and whether the row does not match its seal. -/
abbrev RowRead := List Nat × Bool

/-- Fetch the frames of a period: their values, how many had no write, how many failed their seal, the banks of uncorrectable errors, and the states. -/
def State.fetchPeriod : List (Nat × RowRead) → RxRun → State → List (Option (List Int)) × Nat × Nat × List Nat × RxRun × State
  | [], x, s => ([], 0, 0, [], x, s)
  | (m, rd) :: t, x, s =>
    let written := x.ring.cells.any (fun c => c.1 == m % x.ring.rows && c.2.state == 1 && c.2.lap == m / x.ring.rows % 64)
    let (v, bs, x, s) := s.fetchFrame x m rd.1 rd.2
    let (vs, n, b, bs', x, s) := fetchPeriod t x s
    (v :: vs, if written then n else n + 1, if written && v.isNone then b + 1 else b, bs ++ bs', x, s)

/-- PRESENT fetches stream i at the boundary that opens the present period (R171, R174); the frames go to the pass of the next
period. A base period fetched before is not counted again (R269). -/
def State.presentStream (s : State) (ue : List (Nat × Nat × Nat)) (damaged : List (Nat × Nat)) (i : Nat) : State :=
  match s.rxRun i with
  | none => s
  | some x =>
    let k := (s.entry 0 i).k
    let d := s.fetchD (s.get (RXE.GROUP i))
    if s.media + 1 < d then s
    else
      let b := s.media + 1 - d
      let once := s.on (RXE.PLACED_ONCE i)
      let reads := (List.range k).map (fun j => (k * b + j, ((ue.filter (fun u => u.1 == i && u.2.1 == j)).map (fun u => u.2.2), damaged.contains (i, j))))
      let (vs, holes, bad, banks, x, s) := s.fetchPeriod reads x
      let again := match x.maxB with
        | some o => decide (b ≤ o)
        | none => false
      let x := { x with maxB := some (max b (x.maxB.getD 0)) }
      let s := s.setRx i x
      let s := if again then s else s.countBy (RXC.HOLE_FRAMES i) bad
      let s := banks.foldl State.lbankUe s
      if !once then s
      else
        let net : NetFrame := ⟨s.media + 1, i, b, vs⟩
        let s := { s with anvil := { s.anvil with net := s.anvil.net ++ [net] } }
        if again then s
        else if 0 < holes then
          let s := s.countBy (RXC.HOLE_FRAMES i) holes
          let x := (s.rxRun i).getD x
          if s.on (RXE.STARVED i) then s.setRx i { x with hole := x.hole + holes }
          else
            let s := ((s.setRx i { x with hole := holes }).set (RXE.STARVED i) 1).count (RXC.HOLES i)
            s.strmEvent STRM.INT_HOLE 0x0504 i (le 8 b)
        else if s.on (RXE.STARVED i) then
          (s.set (RXE.STARVED i) 0).strmEvent STRM.INT_RESUME 0x0505 i (le 4 x.hole)
        else s

/-- PRESENT_FETCH (R171, R174, R211, R212): at the boundary of a period, every enabled receive stream. `ue` names (stream, frame of the period, line of its
row) where the read meets an uncorrectable error, `damaged` (stream, frame) whose row does not match its seal, `ce` the logical banks of corrected
errors. -/
def execPresentFetch (ue : List (Nat × Nat × Nat)) (damaged : List (Nat × Nat)) (ce : List Nat) (s : State) : Out :=
  let s := s.readCe ce
  let s := { s with anvil := { s.anvil with net := s.anvil.net.filter (fun f => f.pass == s.media) } }
  .next ((s.streams 0).foldl (State.presentStream · ue damaged ·) s)

end Sys2Proof.Machine
end

