-- ==== Sys2Proof/Machine/Transmit.lean ====
section
/-! DEFINITION. Transmit streams (chapter 05): start (R181), gathering and packing (R159, R165, R176, R177), framing (R159, R180)
and launch (R178, R179), with the stream commands of R192. -/

namespace Sys2Proof.Machine

/-- The launch instant of the packet at M, in ns (R177). -/
def State.launchNs (s : State) (i m : Nat) : Nat :=
  let e := s.entry 1 i
  (divRound (((m + e.spp) * 1000000000 : Nat) : Int) (s.base * e.k)).toNat +
    clampNat 10000 1000000 (s.get (TXE.LAUNCH_OFS i))

/-- SPP ÷ r of stream i, in ns. -/
def State.packetNs (s : State) (i : Nat) : Nat :=
  let e := s.entry 1 i
  e.spp * 1000000000 / (s.base * e.k)

/-- The first M, a multiple of SPP, whose L lies at least 100 µs after `applied` and whose periods are not over (R181). -/
def State.firstM (s : State) (i applied : Nat) : Nat :=
  let e := s.entry 1 i
  let r := s.base * e.k
  let spp := atLeast1 e.spp
  let now := s.mediaAt e.k s.ctr
  let t := applied + 100000 - clampNat 10000 1000000 (s.get (TXE.LAUNCH_OFS i))
  let m0 := (t * r / 1000000000 - spp - 1) / spp * spp
  let m1 := now / spp * spp
  let ok := fun m => decide (applied + 100000 ≤ s.launchNs i m ∧ now < m + spp)
  let from' := max m0 m1
  ((List.range 4).map (fun n => from' + n * spp)).find? ok |>.getD (from' + 4 * spp)

def State.txRun (s : State) (i : Nat) : Option TxRun := s.strm.tx.find? (fun r => r.stream == i)

def State.setTx (s : State) (i : Nat) (x : TxRun) : State :=
  { s with strm := { s.strm with tx := s.strm.tx.map (fun r => if r.stream = i then x else r) } }

/-- TX_STREAM_START (R161, R181): the first packet of an enabled stream is chosen. -/
def execTxStreamStart (i : Nat) (s : State) : Out :=
  match s.txRun i with
  | some x =>
    if s.on TIME.STATUS_MEDIA_VALID ∧ x.nextM.isNone ∧ x.stopAt.isNone then
      .next (s.setTx i { x with nextM := some (s.firstM i x.applied), seq := s.get (TXE.SEQ_INIT i) })
    else .next s
  | none => .next s

/-! ## GATHER and PACK (R159, R165, R176) -/

/-- Row (g, p) of transmit staging was lost with its bank, or the bank is absent (R218, R219). -/
def State.stageLost (s : State) (g p : Nat) : Bool :=
  s.absent 6 || s.anvil.losses.any (fun l =>
    decide (p ≤ l.upTo ∧ p < l.since ∧ l.line ≤ ((256 * g + p % 256) * 324 + 323) / 64))

/-- The staged value of destination d for period p; silence is not listed. -/
def State.staged (s : State) (d p : Nat) : Int :=
  match s.anvil.stage.find? (fun r => r.group == d / 64 && r.period == p) with
  | some r => nth r.vals (d % 64) 0
  | none => 0

/-- A consumer's conversion of destination d in pass n saturates (R273): SAT_OUT and the group's sticky bit. -/
def State.destClip (s : State) (d : Nat) (cnt : Nat) : State :=
  let w := d / 64 / 32
  let b := d / 64 % 32
  if s.bit (ANVIL.DEST_CLIP w) b then s
  else
    (s.setBit (ANVIL.DEST_CLIP w) b true).signalHeld ANVIL.INT ANVIL.INT_EN ANVIL.INT_CLIP 0x0607 11 0
      (s.get ANVIL.CTRL_EVT_HOLDOFF * 1000 * cyclesPerUs) ([1, 0] ++ le 2 (d / 64) ++ le 4 cnt)

def State.satOut (s : State) (d : Nat) : State :=
  let s := s.count ANVIL.SAT_OUT
  s.destClip d (s.get ANVIL.SAT_OUT)

/-- The channel-status block of a transmit channel (R165): in force, and waiting for the next block start. -/
def State.csBlock (s : State) (i c : Nat) : List Byte × Option (List Byte) :=
  match s.strm.csTx.find? (fun x => x.1 == i && x.2.1 == c) with
  | some x => x.2.2
  | none => (1#8 :: List.replicate 23 0#8, none)

/-- At a block start the waiting blocks of stream i come into force. -/
def State.csTurn (s : State) (i : Nat) : State :=
  let turn : Nat × Nat × List Byte × Option (List Byte) → Nat × Nat × List Byte × Option (List Byte) := fun x =>
    if x.1 = i then (x.1, x.2.1, x.2.2.2.getD x.2.2.1, none) else x
  { s with strm := { s.strm with csTx := s.strm.csTx.map turn } }

/-- An AM824 subframe of channel c at media time m (R165). -/
def State.am824 (s : State) (i c m : Nat) (audio : Nat) : Nat :=
  let f := m % 192
  let blk := (s.csBlock i c).1
  let cbit := (nth blk (f / 8) 0#8).toNat.testBit (f % 8)
  let w := audio % 2 ^ 24 + (if s.effOn (TXE.VALIDITY i) then 2 ^ 24 else 0) + (if cbit then 2 ^ 26 else 0)
  let w := if popcount 28 w % 2 = 1 then w + 2 ^ 27 else w
  w + (if c % 2 = 0 then 2 ^ 28 else 0) + (if f = 0 then 2 ^ 29 else 0)

/-- One sample of a packet: channel c of the frame at m, `silent` where its row failed (R46, R164, R246). -/
def State.packSample (s : State) (i m c : Nat) (fails : List (Nat × Nat)) : List Byte × State :=
  let e := s.entry 1 i
  let (p, j) := (m / e.k, m % e.k)
  let d := e.slot + e.k * c + j
  let bad := fails.contains (d / 64, p)
  let v := if bad then 0 else s.staged d p
  let w := encBits e.enc
  let dv := if !bad && s.on (ROUTE.DITHER d) then dither s.seed d p w else 0
  let (o, sat) := toWire w v dv
  let s := if sat then s.satOut d else s
  let code := ofSigned w o
  (be (encBytes e.enc) (if e.enc = 3 then s.am824 i c m code else code), s)

/-- The samples of the frame at m. -/
def State.packFrame (s : State) (i m : Nat) (fails : List (Nat × Nat)) : List Nat → List Byte × State
  | [] => ([], s)
  | c :: t =>
    let (b, s) := s.packSample i m c fails
    let (bs, s) := s.packFrame i m fails t
    (b ++ bs, s)

/-- The payload of a packet, from media time m on. -/
def State.packFrames (s : State) (i : Nat) (fails : List (Nat × Nat)) : List Nat → List Byte × State
  | [] => ([], s)
  | m :: t =>
    let s := if m % 192 = 0 then s.csTurn i else s
    let (b, s) := s.packFrame i m fails (List.range (s.entry 1 i).ch)
    let (bs, s) := s.packFrames i fails t
    (b ++ bs, s)

/-- The RTP header of the packet at m (R176). -/
def State.rtpHeader (s : State) (i m seq : Nat) : List Byte :=
  [0x80, BitVec.ofNat 8 (s.get (TXE.PT i))] ++ be 2 seq ++ be 4 (m + s.get (TXE.RTP_OFFSET i)) ++ be 4 (s.get (TXE.SSRC i))

/-- The staging rows of the packet at m. -/
def State.packetRows (s : State) (i m : Nat) : List (Nat × Nat) :=
  let e := s.entry 1 i
  let (g0, g1) := (e.slot / 64, (e.slot + e.ch * e.k - 1) / 64)
  let (p0, p1) := (m / e.k, (m + e.spp - 1) / e.k)
  (List.range (g1 - g0 + 1)).flatMap (fun g => (List.range (p1 - p0 + 1)).map (fun p => (g0 + g, p0 + p)))

/-- What staging row (g, p) holds does not match the seal that its reader expects (R241): no pass wrote the row for that period, or its values are not those
sealed. -/
def State.stageWrong (s : State) (g p : Nat) : Bool :=
  !s.anvil.passes.contains p || match s.anvil.stage.find? (fun r => r.group == g && r.period == p) with
    | some r => r.crc != blockSeal 3 g p r.vals
    | none => false

/-- Check point 8 on the rows of a packet, for one leg (R246, R249): the rows that fail, how many of them fresh. Each read of a row with an uncorrectable word
counts in its bank (R202). -/
def State.gatherCheck (i : Nat) (damaged : List (Nat × Nat)) : List (Nat × Nat) → State → List (Nat × Nat) × Nat × State
  | [], s => ([], 0, s)
  | r :: t, s =>
    let ue := s.anvil.rowUe.contains r
    let s := if ue then s.lbankUe 6 else s
    let (fails, fresh, s) := s.checkRow 8 i r.1 r.2 (ue || s.stageLost r.1 r.2) (damaged.contains r || s.stageWrong r.1 r.2)
    let (fs, n, s) := gatherCheck i damaged t s
    (if fails then r :: fs else fs, if fresh then n + 1 else n, s)

/-- The lane's Hammer of leg l of transmit stream i. -/
def State.txHammer (s : State) (i l : Nat) : Nat := s.get (STRM.LANE_MAP (s.get (laneFld 1 i l)))

/-- Gather leg l: its rows are checked, its packet enters its Hammer. -/
def State.gatherLeg (i m seq : Nat) (rows damaged : List (Nat × Nat)) : List Nat → State → List (Nat × Nat) × List (Nat × Nat) × State
  | [], s => ([], [], s)
  | l :: t, s =>
    let h := s.txHammer i l
    let (fs, n, s) := State.gatherCheck i damaged rows s
    let f : Flight := ⟨h, s.get (laneFld 1 i l), 1, i, l, s.cycles, [], 0, m, seq, 0⟩
    let s := { s with strm := { s.strm with flights := s.strm.flights ++ [f] } }
    let (fs', hs, s) := gatherLeg i m seq rows damaged t s
    (fs ++ fs', (h, n) :: hs, s)

/-- The packet boundary after the packet at m: its number is used (R176, R201). -/
def State.nextPacket (s : State) (x : TxRun) (m : Nat) : State :=
  let s := if x.stopAt.isNone then s.count (TXC.PACKETS x.stream) else s
  s.setTx x.stream { x with nextM := some (m + (s.entry 1 x.stream).spp), seq := (x.seq + 1) % 65536 }

/-- SCHEDULE_GATHER (R160, R161, R177): the packet of stream i whose last period is staged is gathered and packed in the
Hammers of its legs. `ue` and `damaged` name the rows (group, period) whose read meets an uncorrectable error, which stays until the row is written again
(R202), or that do not match their seal; `ce` names the logical banks of corrected errors. -/
def execScheduleGather (i : Nat) (ue damaged : List (Nat × Nat)) (ce : List Nat) (s : State) : Out :=
  match s.txRun i with
  | none => .next s
  | some x =>
    match x.nextM with
    | none => .next s
    | some m =>
      let e := s.entry 1 i
      let beyond := match x.stopAt with
        | some t => decide (t < m)
        | none => false
      let staged := match s.anvil.ran with
        | some n => decide ((m + e.spp - 1) / e.k ≤ n)
        | none => false
      let legs := s.liveLegs 1 i
      if beyond then .next { s with strm := { s.strm with tx := s.strm.tx.filter (fun r => r.stream != i) } }
      else if !s.on TIME.STATUS_MEDIA_VALID || !staged || legs.any (fun l => s.held8 (s.txHammer i l)) then .next s
      else
        let s := s.boundary .txPacket (inOffs (0x500000 + 0x80 * i) (0x500000 + 0x80 * i + 0x80))
        let rows := s.packetRows i m
        let s := s.readCe ce
        let s := { s with anvil := { s.anvil with rowUe := (s.anvil.rowUe ++ ue.filter (fun r => rows.contains r)).dedup } }
        let (fails, hs, s) := State.gatherLeg i m x.seq rows damaged legs s
        let (pay, s) := s.packFrames i fails ((List.range e.spp).map (fun f => m + f))
        let pkt := s.rtpHeader i m x.seq ++ pay
        let fill : Flight → Flight := fun f =>
          if f.dir = 1 ∧ f.stream = i ∧ f.m = m ∧ f.payload = [] then { f with payload := pkt, crc := crc32c pkt } else f
        let s := { s with strm := { s.strm with flights := s.strm.flights.map fill } }.showLoads
        let s := s.nextPacket x m
        .next (hs.foldl (fun s h => (List.range h.2).foldl (fun s _ => s.hammerSeal h.1) s) s)

/-! ## FRAME (R159, R179, R180) -/

/-- The MAC address stream frames leave from: the pair MAC of a pair member, else STATION_MAC (R443). -/
def State.streamMac (s : State) (p : Nat) : Nat :=
  if s.on PAIR.CTRL_PAIR_EN then s.get (PAIR.PORT_MAC_HI p) * 2 ^ 32 + s.get (PAIR.PORT_MAC_LO p) else s.stationMac p

/-- The IPv6 source of port p: an address in use, else the link-local one. -/
def State.ip6 (s : State) (p : Nat) : Nat := ((s.psvc p).ip.v6Use.head?).getD (s.linkLocal p)

/-- DEST_MAC of a leg: of its group, or as resolved; 0 while unknown (R180). -/
def State.legMac (s : State) (i l : Nat) : Nat :=
  let ip := if s.on (TXE.LEG_IPV6 i l) then 6 else 4
  let d := s.legDest 1 i l
  if isMulticast ip d then groupMac ip d else s.get (TXE.LEG_DEST_MAC_HI i l) * 2 ^ 32 + s.get (TXE.LEG_DEST_MAC_LO i l)

/-- A stream frame without its FCS, from the leg's template (R159, R199). -/
def State.streamFrame (s : State) (i l : Nat) (pay : List Byte) : List Byte :=
  let v6 := s.on (TXE.LEG_IPV6 i l)
  let ip := if v6 then 6 else 4
  let p := s.get (TXE.LEG_PORT i l)
  let d := s.legDest 1 i l
  let src := if v6 then s.ip6 p else s.ip4 p
  let udp := udpBytes ip src d (s.get (TXE.LEG_UDP_SPORT i l)) (s.get (TXE.LEG_UDP_DPORT i l))
    (v6 || s.on (TXE.LEG_UDP_CSUM i l)) pay
  let tag := if s.on (TXE.LEG_VLAN_EN i l) then some (s.eff (TXE.LEG_PCP i l) * 2 ^ 13 + s.get (TXE.LEG_VLAN_ID i l)) else none
  let ttl := s.get (TXE.LEG_TTL i l)
  let dscp := s.eff (TXE.LEG_DSCP i l)
  ethHdr (s.legMac i l) (s.streamMac p) tag (if v6 then 0x86DD else 0x0800) ++
    (if v6 then ip6Bytes src d 17 ttl dscp udp else ip4Bytes src d 17 ttl dscp 0 udp)

/-- Order of leaving (R178): by L, then stream, then leg. -/
def LaunchFrame.before (a b : LaunchFrame) : Bool :=
  decide (a.launch < b.launch ∨ (a.launch = b.launch ∧ (a.stream < b.stream ∨ (a.stream = b.stream ∧ a.leg < b.leg))))

def insertLaunch (x : LaunchFrame) : List LaunchFrame → List LaunchFrame
  | [] => [x]
  | a :: t => if a.before x then a :: insertLaunch x t else x :: a :: t

/-- TX_PACKET_FRAME (R159, R179, R180): the oldest transmit packet in Hammer h is packed and FRAME places its frame. While MEDIA_VALID is 0 it goes
nowhere (R161). A frame for which the 64 KiB of the STREAM partition have no room stays in its Hammer (R137; DESIGN CHOICE, assumption 106). -/
def execTxPacketFrame (h : Nat) (s : State) : Out :=
  match s.strm.flights.find? (fun f => f.hammer == h && f.dir == 1) with
  | none => .next s
  | some f =>
    let o := s
    let s := { s with strm := { s.strm with flights := s.strm.flights.erase f } }.showLoads
    let (i, l) := (f.stream, f.leg)
    let p := s.get (TXE.LEG_PORT i l)
    if !s.on TIME.STATUS_MEDIA_VALID then .next s
    else if !s.on (PORT.LINK_UP p) || s.legMac i l == 0 then .next (s.count (TXC.LINK_DROP i l))
    else
      let b := s.streamFrame i l f.payload
      if lenEff (s.get (PORT.TX_MAX_LEN p)) < b.length + 4 then
        .next ((s.stat p Stat.TX_DISCARD).count (TXC.LINK_DROP i l))
      else
        let x := s.port p
        if 65536 < (x.stream.map (fun g => g.bytes.length + 4)).sum + b.length + 4 then .next o else
        let y : LaunchFrame := ⟨s.launchNs i f.m, i, l, b, f.crc⟩
        .next (s.setPort p { x with stream := insertLaunch y x.stream })

/-! ## STAMP (R178, R444) -/

/-- The classes a pause stops in the mode in force (R141): STREAM, and the classes behind it. -/
def State.pausedStream (s : State) (p : Nat) : Bool :=
  s.on (PORT.TX_PAUSED p) && (s.eff (PORT.PAUSE_MODE p) == 1 || s.eff (PORT.PAUSE_MODE p) == 3)

/-- The packet block of a frame no longer matches the seal it carries (R242, check point 13). -/
def LaunchFrame.wrong (f : LaunchFrame) : Bool := f.crc != crc32c (udpPayload f.bytes (headers f.bytes))

/-- A frame not started within SPP ÷ r of its L is discarded (R178); a unit that may not drive has withheld it (R444). -/
def State.staleFrame (s : State) (f : LaunchFrame) : State :=
  if s.mayDrive then s.count (TXC.STALE f.stream f.leg) else s.count PAIR.WITHHELD

/-- LAUNCH_STAMP (R178, R136, R444): the next stream frame of port p is released; `raw` is its departure stamp at the ball in
2^−16 ns, `damaged` whether its packet block no longer matches its seal. A unit that may not drive withholds it, and none leaves while MEDIA_VALID is 0
(R161). -/
def execLaunchStamp (p : Nat) (raw : Int) (damaged : Bool) (s : State) : Out :=
  let x := s.port p
  match x.stream with
  | [] => .next s
  | f :: rest =>
    if 2 ≤ p || !s.on (PORT.LINK_UP p) || s.pausedStream p || !s.on TIME.STATUS_MEDIA_VALID then .next s
    else
      let o := s
      let s := s.setPort p { x with stream := rest }
      if !s.mayDrive then
        .next (if f.launch + s.packetNs f.stream ≤ s.nowNs then s.count PAIR.WITHHELD else o)
      else
        let (i, l) := (f.stream, f.leg)
        let stamp := raw + s.geti (TIME.PORT_TX_LAT p)
        let err := stamp - (f.launch : Int) * 65536
        if ((s.packetNs i * 65536 : Nat) : Int) < err then .next (s.staleFrame f)
        else
        let ns := divRound err 65536
        let s := if 100 * 65536 < err then
            (s.count (TXC.LAUNCH_LATE i l)).strmEvent STRM.INT_LAUNCH 0x050A i ([BitVec.ofNat 8 l, 0, 0, 0] ++ leI 4 ns)
          else s
        let s := s.set (TXC.MAX_ERR i l) (min (max (s.get (TXC.MAX_ERR i l)) ns.natAbs) 0xFFFFFFFF)
        let (bad, _, s) := s.checkSeal 13 i false (damaged || f.wrong)
        let s := if bad then s.stat p Stat.TX_STOMPED else s
        let s := (s.count (TXC.SENT i l)).txCount p (f.bytes.length + 4) (beAt f.bytes 0 6)
        let out := f.bytes ++ (if bad then stompedFcs f.bytes else fcs f.bytes)
        .next (s.setPort p { s.port p with sent := some (out, stamp) })

/-- LAUNCH_STALE (R178): every frame of port p that has not started within SPP ÷ r of its L is discarded. -/
def execLaunchStale (p : Nat) (s : State) : Out :=
  let x := s.port p
  let stale := fun (f : LaunchFrame) => decide (f.launch + s.packetNs f.stream ≤ s.nowNs)
  if p < 2 then
    .next ((x.stream.filter stale).foldl State.staleFrame (s.setPort p { x with stream := x.stream.filter (fun f => !stale f) }))
  else .next s

/-! ## Commands (R192) -/

/-- STREAM_ENABLE: Direction; ENABLE; 1 to 32 indices, each a part (R371). -/
def execStreamEnable (r : Req) (p : List Tlv) (s : State) : Out :=
  match s.refuses r 0x0503 [preq 1 1 0 1, preq 2 1 0 1, { prep 3 2 0 511 with req := true }] p with
  | some e => .next (s.finish r 0x0503 e)
  | none =>
    let dir := Params.val p 1
    let on := Params.val p 2 = 1
    let parts := Params.all p 3
    if 32 < parts.length then .next (s.finish r 0x0503 ⟨Status.badParam, 0, 3, Params.offsetOf p 3 32 0, 0, [], []⟩)
    else
      let part : PartRun := fun i s => let (st, _, s) := s.enableStream dir i on; (st, s)
      let was := parts.map (fun i => if (s.entry dir i).on then 1 else 0)
      let (sts, s) := runParts part parts s
      .next (s.addWait ⟨r, 0x0503, 10, 3, List.range parts.length, parts, sts,
        (List.range parts.length).map (fun k => Params.offsetOf p 3 k 0), was, dir, []⟩)

/-- A part of STREAM_ENABLE is undone. -/
def State.streamUndo (dir was i : Nat) (s : State) : Nat × State :=
  if (s.entry dir i).on = decide (was = 1) then (0, s)
  else let (st, _, s) := s.enableStream dir i (was == 1); (st, s)

/-- STREAM_STATUS_GET: Direction; index. A transmit stream's status word is word 6 of its entry. -/
def execStreamStatusGet (r : Req) (p : List Tlv) (s : State) : Out :=
  runCmd 0x0504 [preq 1 1 0 1, preq 2 2 0 511] (getBody (fun p s =>
    let i := Params.val p 2
    if Params.val p 1 = 0 then
      (List.map (fun w => le 4 (s.word (RXE.entry i) (0x400000 + 0x80 * i + 4 * w))) [6, 8, 20]).flatten
    else (List.map (fun w => le 4 (s.word (TXE.entry i) (0x500000 + 0x80 * i + 4 * w))) [6, 8, 20]).flatten)) r p s

/-- Words of the counter set of a stream (R200, R201). -/
def State.counterWords (s : State) (dir i : Nat) : List Nat :=
  (List.range 28).map (fun w => s.word (if dir = 0 then RXC.entry i else TXC.entry i) ((if dir = 0 then 0x600000 else 0x700000) + 0x80 * i + 4 * w))

/-- The counter set of a stream is cleared. -/
def State.clearCounters (s : State) (dir i : Nat) : State :=
  let b := (if dir = 0 then 0x600000 else 0x700000) + 0x80 * i
  { s with regs := s.regs.resetRange (b * 32) ((b + 0x80) * 32) }

/-- STREAM_COUNTERS_GET: Direction; index; CLEAR. -/
def execStreamCountersGet (r : Req) (p : List Tlv) (s : State) : Out :=
  runCmd 0x0505 [preq 1 1 0 1, preq 2 2 0 511, popt 3 1 0 1] (fun p s =>
    let dir := Params.val p 1
    let i := Params.val p 2
    let n := if dir = 0 then 28 else 13
    let pay := ((s.counterWords dir i).take n).flatMap (le 4)
    (Reply.ok pay, if Params.val p 3 = 1 then s.clearCounters dir i else s)) r p s

/-- AM824_CS_SET: Transmit stream; channel; 24 bytes (R165). -/
def execAm824CsSet (r : Req) (p : List Tlv) (s : State) : Out :=
  runCmd 0x0509 [preq 1 2 0 511, preq 2 2 0 255, preq 3 24 0 (2 ^ 192 - 1)] (fun p s =>
    let (i, c) := (Params.val p 1, Params.val p 2)
    let cur := (s.csBlock i c).1
    let rest := s.strm.csTx.filter (fun x => !(x.1 == i && x.2.1 == c))
    let e := (i, c, cur, some (le 24 (Params.val p 3)))
    (Reply.ok [], { s with strm := { s.strm with csTx := rest ++ [e] } })) r p s

/-- AM824_CS_GET: Receive stream; channel. A stream that is not enabled has no block (NOT_IN_STATE); a channel it does not
have is refused. -/
def execAm824CsGet (r : Req) (p : List Tlv) (s : State) : Out :=
  runCmd 0x050A [preq 1 2 0 511, preq 2 2 0 255] (fun p s =>
    match s.rxRun (Params.val p 1) with
    | some x => match x.cs[Params.val p 2]? with
      | some c => (Reply.ok c.last, s)
      | none => (Reply.errAt Status.badParam p 2, s)
    | none => (Reply.err Status.notInState, s)) r p s

/-! ## Writing an entry (R192, R197 to R199) -/

/-- The fields a leg's parameters write, from TYPE `t` on: TYPE, field, update class. -/
def rxLegFlds (i l t : Nat) : List PFld :=
  [⟨t, RXE.LEG_VALID i l, .static⟩, ⟨t + 1, RXE.LEG_LANE_AUTO i l, .static⟩, ⟨t + 2, RXE.LEG_LANE i l, .static⟩,
   ⟨t + 3, RXE.LEG_SRC_FILT i l, .static⟩, ⟨t + 4, RXE.LEG_IPV6 i l, .static⟩, ⟨t + 5, RXE.LEG_PORT i l, .static⟩,
   ⟨t + 6, RXE.LEG_UDP_DPORT i l, .static⟩]

/-- The fields of a receive entry before its legs, ENABLE aside. -/
def rxHeadFlds (i : Nat) : List PFld :=
  [⟨3, RXE.WIDE i, .static⟩, ⟨4, RXE.REDUNDANT i, .static⟩, ⟨5, RXE.COMPARE i, .rxPacket⟩, ⟨6, RXE.SSRC_LOCK i, .rxPacket⟩,
   ⟨7, RXE.PT_CHECK i, .rxPacket⟩, ⟨8, RXE.ENC i, .static⟩, ⟨9, RXE.RATE i, .static⟩, ⟨10, RXE.CHANNELS i, .static⟩,
   ⟨11, RXE.SPP i, .static⟩, ⟨12, RXE.BASE_SLOT i, .static⟩, ⟨13, RXE.GROUP i, .static⟩, ⟨14, RXE.PT i, .rxPacket⟩,
   ⟨15, RXE.SSRC i, .rxPacket⟩, ⟨16, RXE.RTP_OFFSET i, .static⟩, ⟨17, RXE.EARLY_WIN i, .static⟩]

def txLegFlds (i l t : Nat) : List PFld :=
  [⟨t, TXE.LEG_VALID i l, .static⟩, ⟨t + 1, TXE.LEG_IPV6 i l, .static⟩, ⟨t + 2, TXE.LEG_PORT i l, .static⟩,
   ⟨t + 3, TXE.LEG_LANE_AUTO i l, .static⟩, ⟨t + 4, TXE.LEG_LANE i l, .static⟩, ⟨t + 5, TXE.LEG_VLAN_EN i l, .static⟩,
   ⟨t + 6, TXE.LEG_PCP i l, .txPacket⟩, ⟨t + 7, TXE.LEG_VLAN_ID i l, .static⟩, ⟨t + 8, TXE.LEG_DSCP i l, .txPacket⟩,
   ⟨t + 9, TXE.LEG_TTL i l, .static⟩, ⟨t + 10, TXE.LEG_UDP_CSUM i l, .static⟩, ⟨t + 11, TXE.LEG_UDP_SPORT i l, .static⟩,
   ⟨t + 12, TXE.LEG_UDP_DPORT i l, .static⟩, ⟨t + 14, TXE.LEG_DEST_MAC_LO i l, .live⟩, ⟨t + 15, TXE.LEG_DEST_MAC_HI i l, .live⟩]

def txHeadFlds (i : Nat) : List PFld :=
  [⟨3, TXE.WIDE i, .static⟩, ⟨4, TXE.REDUNDANT i, .static⟩, ⟨5, TXE.VALIDITY i, .txPacket⟩, ⟨6, TXE.ENC i, .static⟩,
   ⟨7, TXE.RATE i, .static⟩, ⟨8, TXE.CHANNELS i, .static⟩, ⟨9, TXE.SPP i, .static⟩, ⟨10, TXE.BASE_SLOT i, .static⟩,
   ⟨11, TXE.SEQ_INIT i, .static⟩, ⟨12, TXE.PT i, .static⟩, ⟨13, TXE.SSRC i, .static⟩, ⟨14, TXE.RTP_OFFSET i, .static⟩,
   ⟨15, TXE.LAUNCH_OFS i, .static⟩]

/-- The integer fields of an entry, ENABLE aside, with their TYPEs (R355): leg A, then leg B. -/
def entryFlds (dir i : Nat) : List PFld :=
  if dir = 0 then List.flatten [rxHeadFlds i, rxLegFlds i 0 26, rxLegFlds i 1 35]
  else List.flatten [txHeadFlds i, txLegFlds i 0 20, txLegFlds i 1 36]

/-- The address fields of an entry: TYPE, and the field of each of the four words. -/
def entryAddrs (dir i : Nat) : List (Nat × (Nat → Fld)) :=
  if dir = 0 then [(33, RXE.LEG_DEST_IP i 0), (34, RXE.LEG_SRC_IP i 0), (42, RXE.LEG_DEST_IP i 1), (43, RXE.LEG_SRC_IP i 1)]
  else [(33, TXE.LEG_DEST_IP i 0), (49, TXE.LEG_DEST_IP i 1)]

/-- An integer field's parameter: the least length that holds it, any value of its width; CHANNELS 1 to 256 and RATE 0 to 2
(R198). -/
def fldSpec (f : PFld) : PSpec := popt f.ty (fieldLen f.fld.w) 0 (2 ^ f.fld.w - 1)

def entrySchema (dir : Nat) : List PSpec :=
  let narrow : PSpec → PSpec := fun q =>
    if dir = 0 then (if q.ty = 9 then { q with hi := 2 } else if q.ty = 10 then { q with lo := 1, hi := 256 } else q)
    else (if q.ty = 7 then { q with hi := 2 } else if q.ty = 8 then { q with lo := 1, hi := 256 } else q)
  List.flatten [[preq 1 2 0 511, popt 2 1 0 1], (entryFlds dir 0).map (fun f => narrow (fldSpec f)),
    (entryAddrs dir 0).map (fun a => pip a.1)]

/-- The four words of an address parameter: IPv4 in the first (R198). -/
def addrWords (t : Tlv) : List Nat :=
  if t.len = 16 then (List.range 4).map (fun k => swapBytes 16 t.val / 2 ^ (32 * (3 - k)) % 2 ^ 32)
  else [swapBytes 4 t.val, 0, 0, 0]

/-- Every field of an entry that the parameters write, with its new value: field, class, value. -/
def entryWrites (dir i : Nat) (p : Params) : List (Fld × Upd × Nat) :=
  let ints := (entryFlds dir i).filterMap (fun f => (Params.val? p f.ty).map (fun v => (f.fld, f.upd, v)))
  let addrs := (entryAddrs dir i).flatMap (fun a => match p.find? (fun t => t.ty == a.1) with
    | some t => (addrWords t).zipIdx.map (fun x => (a.2 x.2, Upd.static, x.1))
    | none => [])
  ints ++ addrs

/-- Write an entry and apply its ENABLE, as one command: nothing changes where a field is refused or a check fails (R192). -/
def streamSetBody (dir : Nat) (p : Params) (s : State) : Reply × State :=
  let i := Params.val p 1
  let was := (s.entry dir i).on
  let ws := entryWrites dir i p
  if was && ws.any (fun w => w.2.1 == .static && w.2.2 % 2 ^ w.1.w != s.get w.1) then (Reply.err Status.notInState, s)
  else
    let s1 := ws.foldl (fun s w => s.write w.1 w.2.1 w.2.2) s
    match Params.val? p 2 with
    | none => (Reply.ok [], s1)
    | some v =>
      let (st, _, s2) := s1.enableStream dir i (v == 1)
      if st = 0 then (Reply.ok [], s2) else (Reply.errAt st p 2, s)

/-- STREAM_RX_SET: Index; any field of the receive entry. -/
def execStreamRxSet (r : Req) (p : List Tlv) (s : State) : Out := runCmd 0x0501 (entrySchema 0) (streamSetBody 0) r p s

/-- STREAM_TX_SET: Index; any field of the transmit entry. -/
def execStreamTxSet (r : Req) (p : List Tlv) (s : State) : Out := runCmd 0x0502 (entrySchema 1) (streamSetBody 1) r p s

/-! ## Table access (R197) -/

/-- Base address in the register file of entry i of table t. -/
def tblBase (t i : Nat) : Nat := 0x400000 + 0x100000 * t + 0x80 * i

def tblFields (t i : Nat) : List FldSpec :=
  if t = 0 then RXE.entry i else if t = 1 then TXE.entry i else if t = 2 then RXC.entry i else TXC.entry i

/-- TABLE and INDEX as the write of TBL_CTRL leaves them. -/
def State.tblSelect (s : State) (t i : Nat) : State := (s.set STRM.TBL_TABLE t).set STRM.TBL_INDEX i

/-- STREAM_TBL_READ: entry or counter set i of table t into TBL_DATA. -/
def hostStreamTblRead (table i : Nat) (s : State) : Out :=
  let t := table % 4
  let i := i % 512
  let s := s.tblSelect t i
  .next ((List.range 32).foldl (fun u w => u.set (STRM.TBL_DATA w) (s.word (tblFields t i) (tblBase t i + 4 * w))) s)

/-- Every field of an entry with its value in TBL_DATA, ENABLE aside. -/
def State.tblWrites (s : State) (t i : Nat) : List ((Fld × Ty × Upd) × Nat) :=
  (List.range 32).flatMap (fun w => ((fieldsAt (tblFields t i) (tblBase t i + 4 * w)).filter
    (fun f => f.1.off != tblBase t i || f.1.lo != 31)).map (fun f => (f, s.get (STRM.TBL_DATA w))))

/-- STREAM_TBL_WRITE: TBL_DATA into entry i of table t (0 receive, 1 transmit). While the entry runs, fields of class S that
would change keep their values and the refusal is recorded; a check that fails leaves ENABLE at 0 and changes no other
field. -/
def hostStreamTblWrite (source table i : Nat) (s : State) : Out :=
  let t := table % 4
  let i := i % 512
  let s := s.tblSelect t i
  if 2 ≤ t then .next s
  else
    let was := (s.entry t i).on
    let on := (s.get (STRM.TBL_DATA 0)).testBit 31
    let ws := s.tblWrites t i
    let bad := was && ws.any (fun w => w.1.2.1 == .rw && w.1.2.2 == .static && w.1.1.part w.2 != s.get w.1.1)
    let s1 := ws.foldl (fun s w => s.writeFld (!was) w.1 w.2) s
    let (_, err, s2) := s1.enableStream t i on
    if err ≠ 0 then .next (s.set STRM.TBL_ERR err)
    else if on && !was && !(s2.entry t i).on then .next (s.cfgReject source 0xC0300)
    else
      let s2 := s2.set STRM.TBL_ERR 0
      .next (if bad then s2.cfgReject source 0xC0300 else s2)

/-- STREAM_TBL_CLEAR: counter set i of table t (2 receive, 3 transmit) to zero. -/
def hostStreamTblClear (table i : Nat) (s : State) : Out :=
  let t := table % 4
  let i := i % 512
  let s := s.tblSelect t i
  .next (if 2 ≤ t then s.clearCounters (t - 2) i else s)

end Sys2Proof.Machine
end

