-- ==== Sys2Proof/Machine/Ports.lean ====
section
/-! DEFINITION. The network ports (chapter 04): link state (R126, R127), receive (R128 to R135), pause (R140 to R142), transmit
(R136 to R139, R143 to R145), statistics (R146 to R148), the wake detector (R149, R150) and the commands of R153. -/

namespace Sys2Proof.Machine

/-! ## Receive status (R129, R140) -/

/-- Reception status. -/
def Rx.ok : Nat := 0
def Rx.pause : Nat := 1
def Rx.codeErr : Nat := 2
def Rx.runt : Nat := 3
def Rx.oversize : Nat := 4
def Rx.fcsErr : Nat := 5
def Rx.lenErr : Nat := 6

/-- A length field that contradicts the data: the data stand between the length field and the FCS; a frame padded to 64 bytes
may say less than it holds (assumption 11). -/
def lenErr (b : List Byte) (h : Hdrs) : Bool :=
  let n := b.length - h.l3 - 4
  decide (h.etype ≤ 1500) && h.etype != n && !(b.length == 64 && decide (h.etype < n))

/-- PAUSE frames (R140), the status being otherwise OK. -/
def State.isPause (s : State) (p : Nat) (b : List Byte) (h : Hdrs) : Bool :=
  h.etype == 0x8808 && beAt b h.l3 2 == 1 && (h.dst == 0x0180C2000001 || h.dst == s.stationMac p)

/-- The reception status of a frame. -/
def State.rxStatus (s : State) (p : Nat) (f : WireFrame) (h : Hdrs) : Nat :=
  if f.codeErr then Rx.codeErr
  else if f.bytes.length < 64 then Rx.runt
  else if lenEff (s.get (PORT.RX_MAX_LEN p)) < f.bytes.length then Rx.oversize
  else if !f.fcsOk then Rx.fcsErr
  else if lenErr f.bytes h then Rx.lenErr
  else if s.isPause p f.bytes h then Rx.pause
  else Rx.ok

/-- The size bucket of a length. -/
def sizeStat (n : Nat) : Nat :=
  if n ≤ 64 then Stat.RX_64 else if n ≤ 127 then Stat.RX_65_127 else if n ≤ 255 then Stat.RX_128_255
  else if n ≤ 511 then Stat.RX_256_511 else if n ≤ 1023 then Stat.RX_512_1023
  else if n ≤ 1518 then Stat.RX_1024_1518 else Stat.RX_1519_MAX

/-- Count a frame by its status (R148). -/
def State.rxCount (s : State) (p st len dst : Nat) : State :=
  if st = Rx.ok ∨ st = Rx.pause then
    let s := if st = Rx.ok then (s.stat p Stat.RX_FRAMES_OK).statBy p Stat.RX_OCTETS_OK len else s.stat p Stat.RX_PAUSE
    let s := s.stat p (if dst = bcastMac then Stat.RX_BCAST else if isGroup dst then Stat.RX_MCAST else Stat.RX_UCAST)
    s.stat p (sizeStat len)
  else s.stat p (if st = Rx.codeErr then Stat.RX_CODE_ERR else if st = Rx.runt then Stat.RX_RUNT
    else if st = Rx.oversize then Stat.RX_OVERSIZE else if st = Rx.fcsErr then Stat.RX_FCS_ERR else Stat.RX_LEN_ERR)

/-! ## Pause (R141, R142) -/

/-- Bring TX_PAUSED_US up to the present cycle, the remainder carried. -/
def State.settlePause (s : State) (p : Nat) : State :=
  if s.on (PORT.TX_PAUSED p) then
    let x := s.port p
    let c := x.pausedRem + (s.cycles - x.pausedAt)
    (s.setPort p { x with pausedAt := s.cycles, pausedRem := c % cyclesPerUs }).statBy p Stat.TX_PAUSED_US (c / cyclesPerUs)
  else s

/-- The pause timer holds `q` quanta from now on: TX_PAUSED follows. -/
def State.loadTimer (s : State) (p q : Nat) : State :=
  let s := s.settlePause p
  let x := s.port p
  let s := s.setPort p { x with timer := q, pausedAt := if s.on (PORT.TX_PAUSED p) then x.pausedAt else s.cycles }
  s.setOn (PORT.TX_PAUSED p) (q != 0)

/-- A valid PAUSE frame (R140, R141). -/
def State.pauseRx (s : State) (p : Nat) (b : List Byte) (h : Hdrs) : State :=
  if s.eff (PORT.PAUSE_MODE p) = 0 then s.stat p Stat.RX_PAUSE_IGNORED
  else s.loadTimer p (beAt b (h.l3 + 2) 2)

/-- RX_FILL follows the receive buffer, and its change is noted with the cycle. -/
def State.showFill (s : State) (p : Nat) : State :=
  let x := s.port p
  let n := (x.rx.map (fun f => f.bytes.length)).sum
  (s.setPort p { x with fills := (s.cycles, n) :: x.fills }).set (PORT.RX_FILL p) n

/-- A PAUSE frame waits for the next frame boundary. -/
def State.queuePause (s : State) (p q : Nat) : State :=
  let x := s.port p
  s.setPort p { x with pauses := x.pauses ++ [q], pausing := q != 0 }

/-- RX_FILL against XOFF and XON (R142). -/
def State.pauseGen (s : State) (p : Nat) : State :=
  let fill := s.get (PORT.RX_FILL p)
  let x := s.port p
  if !(s.on (PORT.TX_PAUSE_EN p)) then (if x.pausing then s.setPort p { x with pausing := false } else s)
  else if !x.pausing ∧ 64 * s.get (PORT.XOFF p) < fill then s.queuePause p (s.get (PORT.PAUSE_TX_QUANTA p))
  else if x.pausing ∧ fill ≤ 64 * s.get (PORT.XON p) then s.queuePause p 0
  else s

/-! ## The wake detector (R149, R150) -/

def State.wakeMac (s : State) : Nat := s.get PORT.WAKE_MAC_HI * 2 ^ 32 + s.eff PORT.WAKE_MAC_LO

/-- `pat` stands somewhere in `l`. -/
def hasSublist (pat : List Byte) : List Byte → Bool
  | [] => pat.isEmpty
  | a :: t => pat.isPrefixOf (a :: t) || hasSublist pat t

/-- The magic pattern: six bytes of 0xFF and sixteen copies of WAKE_MAC. -/
def State.magic (s : State) : List Byte :=
  List.replicate 6 0xFF#8 ++ (List.replicate 16 (be 6 s.wakeMac)).flatten

/-- Byte i of the frame agrees with pattern f where the mask has a 1. -/
def State.filtByte (s : State) (f : Nat) (b : List Byte) (i : Nat) : Bool :=
  !(s.get (PORT.WAKE_MASK f (i / 32))).testBit (i % 32) ||
    (b[i]?).map BitVec.toNat == some (s.get (PORT.WAKE_PATTERN f (i / 4)) / 2 ^ (8 * (i % 4)) % 256)

/-- What the detector finds in a frame with status OK: CAUSE and FILTER. -/
def State.wakeMatch (s : State) (b : List Byte) (h : Hdrs) : Option (Nat × Nat) :=
  if s.on PORT.WAKE_DA_CHECK && h.dst != s.wakeMac && h.dst != bcastMac then none
  else if s.on PORT.WAKE_MAGIC_EN && hasSublist s.magic (b.drop h.l3) then some (1, 0)
  else
    ((List.range 8).find? (fun f => s.bit PORT.WAKE_FILT_EN f && (List.range 128).all (s.filtByte f b))).map (fun f => (2, f))

/-- WAKE_STATUS records a wake. -/
def State.recordWake (s : State) (cause filter len : Nat) : State :=
  ((s.set PORT.WAKE_CAUSE cause).set PORT.WAKE_FILTER filter).set PORT.WAKE_LENGTH len

/-- Event 0x0407 from WAKE_STATUS. -/
def State.wakeEvent (s : State) : State :=
  s.portEvent 2 PORT.INT_WAKE 0x0407 ([BitVec.ofNat 8 (s.get PORT.WAKE_CAUSE), BitVec.ofNat 8 (s.get PORT.WAKE_FILTER), 0, 0] ++
    le 2 (s.get PORT.WAKE_LENGTH))

/-- The detector examines a frame while the unit is awake. -/
def State.wakeExamine (s : State) (p : Nat) (b : List Byte) (h : Hdrs) : State :=
  if p = 2 then
    match s.wakeMatch b h with
    | some (c, f) =>
      let s := s.stat 2 Stat.WAKE_MATCH
      if s.on PORT.WAKE_AWAKE_EVT then (s.recordWake c f b.length).wakeEvent else s
    | none => s
  else s

/-! ## FRAME_RECEIVE (R128, R129) -/

/-- Bytes of a receive buffer. -/
def rxBuffer (p : Nat) : Nat := if p < 2 then 262144 else 65536

/-- RX_LAT of a port (R59, R135). -/
def State.rxLat (s : State) (p : Nat) : Int := if p < 2 then s.geti (TIME.PORT_RX_LAT p) else s.geti (PORT.RX_LAT p)
def State.txLat (s : State) (p : Nat) : Int := if p < 2 then s.geti (TIME.PORT_TX_LAT p) else s.geti (PORT.TX_LAT p)

/-- Keys of a port's register block. -/
def portKeys (p : Nat) : Nat → Bool := inOffs (0x40000 + 0x10000 * p) (0x50000 + 0x10000 * p)

/-- Picoseconds a byte takes at the nominal line rate. -/
def State.psPerByte (s : State) (p : Nat) : Nat :=
  match s.get (PORT.LINE_MODE p), s.get (PORT.SPEED p) with
  | 0, _ => 320
  | 1, _ => 800
  | 3, 0 => 800000
  | 3, 1 => 80000
  | _, _ => 8000

/-- The cycle at which the first byte after the start-of-frame delimiter came of a frame of `n` bytes that ends now. -/
def State.frameStart (s : State) (p n : Nat) : Nat := s.cycles - n * s.psPerByte p * cyclesPerUs / 1000000

/-- The bytes the receive buffer held at cycle `c`. -/
def PortState.fillAt (x : PortState) (c : Nat) : Nat := ((x.fills.find? (fun e => decide (e.1 ≤ c))).map Prod.snd).getD 0

/-- The changes of RX_FILL up to cycle `c` are forgotten, but for the last. -/
def PortState.forgetFills (x : PortState) (c : Nat) : PortState :=
  { x with fills := x.fills.takeWhile (fun e => decide (c < e.1)) ++ (x.fills.dropWhile (fun e => decide (c < e.1))).take 1 }

/-- FRAME_RECEIVE (R128, R129, R141, R142, R149, R150): a frame ends on the wire of a port that is UP. It was admitted or not at the
first byte after its start-of-frame delimiter, by the space then free (assumption 12). In dormant mode only the wake counter of CPA counts. -/
def execFrameReceive (p : Nat) (f : WireFrame) (s : State) : Out :=
  let h := headers f.bytes
  if s.boot.dormant then
    .next (if p = 2 ∧ s.rxStatus 2 f h = Rx.ok ∧ (s.wakeMatch f.bytes h).isSome then s.count (PORT.STAT 2 Stat.WAKE_MATCH) else s)
  else if 3 < p || !s.on (PORT.LINK_UP p) then .next s
  else
    let s := s.boundary .rxFrame (portKeys p)
    let st := s.rxStatus p f h
    let max := lenEff (s.get (PORT.RX_MAX_LEN p))
    let s := s.rxCount p st f.bytes.length h.dst
    let s := if st = Rx.ok then s.wakeExamine p f.bytes h else s
    let s := if st = Rx.pause then s.pauseRx p f.bytes h else s
    let start := s.frameStart p f.bytes.length
    let room := decide ((s.port p).fillAt start + max ≤ rxBuffer p)
    let s := s.setPort p ((s.port p).forgetFills start)
    if room then
      if st = Rx.pause then .next s
      else
        let x := s.port p
        let e : RxFrame := ⟨f.bytes.take max, f.stamp - s.rxLat p, st, false⟩
        .next (((s.setPort p { x with rx := x.rx ++ [e] }).showFill p).pauseGen p)
    else
      let s := s.stat p Stat.RX_OVF_FRAMES
      .next (s.portEvent p PORT.INT_RX_OVF 0x0403 (le 4 (s.get (PORT.STAT p Stat.RX_OVF_FRAMES))))

/-! ## FRAME_DISPATCH (R130 to R134) -/

/-- The protocol class of a frame (R132). -/
def State.protoClass (s : State) (p : Nat) (h : Hdrs) : Nat :=
  let udp := h.isUdp
  if h.etype = 0x0806 then 0
  else if h.ip = 4 ∧ h.proto = 1 then 1
  else if h.ip = 6 ∧ h.proto = 58 then 2
  else if h.ip = 4 ∧ h.proto = 2 then 3
  else if h.ip = 4 ∧ udp ∧ h.dport = 68 then 4
  else if udp ∧ (h.dport = 319 ∨ h.dport = 320) then 5
  else if udp ∧ h.dport = 5353 then 6
  else if udp ∧ h.dport = 9875 then 7
  else if h.ip ≠ 0 ∧ h.proto = 6 ∧ !h.frag ∧ h.dport = s.get (PORT.NMOS_PORT p) then 8
  else if udp ∧ h.dport = s.get (PORT.SUOSH_PORT p) then 9
  else if h.ip ≠ 0 then 10
  else 11

/-- Classes whose entry is fixed (R132): their value. -/
def State.fixedClass (s : State) (p c : Nat) : Option Nat :=
  if p < 2 ∧ c = 9 then some 0
  else if p < 2 ∧ c = 5 ∧ s.on (TIME.PORT_ENABLE p) then some 1
  else none

/-- The destination of a class: 0 DROP, 1 ENGINE, 2 HOST, 3 BOTH. -/
def State.destOf (s : State) (p c : Nat) : Nat :=
  (s.fixedClass p c).getD (s.eff (PORT.DISPATCH p) / 4 ^ c % 4)

/-- Perfect-match entry e is enabled, in force, and equals the address. -/
def State.matches (s : State) (p mac e : Nat) : Bool :=
  s.effOn (PORT.MATCH_EN p e) && s.eff (PORT.MATCH_ADDR_HI p e) * 2 ^ 32 + s.eff (PORT.MATCH_ADDR_LO p e) == mac

/-- The address filter of R131, PROMISC apart. -/
def State.filterOk (s : State) (p mac : Nat) : Bool :=
  mac == s.stationMac p || (mac == bcastMac && s.effOn (PORT.BCAST_EN p)) || (List.range 32).any (s.matches p mac)

/-- A queue item of a received frame: short time and fraction of its stamp, flag byte, class, length, and the frame. The header's
layout is the model's choice (assumption 13). -/
def frameItem (f : RxFrame) (flags cls : Nat) : QItem :=
  ⟨le 4 ((f.stamp / 65536) % 4294967296).toNat ++ le 2 (f.stamp % 65536).toNat ++ [BitVec.ofNat 8 flags, BitVec.ofNat 8 cls] ++
    le 4 f.bytes.length ++ le 4 0, f.bytes⟩

/-- Offer a frame to the host queue of port p (R133, R408). -/
def State.toHost (s : State) (p : Nat) (it : QItem) : State :=
  if !s.hostRing p then s.stat p Stat.RX_HOST_DROP
  else if s.hasRoom (7 + p) (itemEntries it).length then (s.push (7 + p) it).hostHead p
  else
    let s := (s.push (7 + p) it).stat p Stat.RX_HOST_DROP
    if s.on (DMA.RING_STARVED (56 + p)) then s.count (DMA.RX_STARVED_DROP p) else s

/-- Offer a frame to the engine queue of port p. -/
def State.toEngine (s : State) (p : Nat) (it : QItem) : State :=
  let room := s.hasRoom (3 + p) (itemEntries it).length
  let s := s.push (3 + p) it
  if room then s else s.stat p Stat.RX_ENG_DROP

/-- Flags of R134. -/
def rxFlags (st : Nat) (promisc vlan both : Bool) : Nat :=
  (if st = Rx.fcsErr then 1 else 0) + (if st = Rx.codeErr then 2 else 0) + (if st = Rx.runt then 4 else 0) +
  (if st = Rx.oversize then 8 else 0) + (if st = Rx.lenErr then 16 else 0) + (if promisc then 32 else 0) +
  (if vlan then 64 else 0) + (if both then 128 else 0)

/-- Steps 3 and 4 of R130. -/
def State.dispatch (s : State) (p : Nat) (f : RxFrame) (h : Hdrs) : State :=
  if h.etype = 0x8808 then s.stat p Stat.RX_FILTER_DROP
  else
    let c := s.protoClass p h
    if s.filterOk p h.dst then
      let d := s.destOf p c
      let fl := rxFlags 0 false h.tagged (d == 3)
      if d = 0 then s.stat p Stat.RX_FILTER_DROP
      else
        let s := if d % 2 = 1 then s.toEngine p (frameItem f fl c) else s
        if 2 ≤ d then s.toHost p (frameItem f fl c) else s
    else if s.effOn (PORT.PROMISC p) then s.toHost p (frameItem f (rxFlags 0 true h.tagged false) c)
    else s.stat p Stat.RX_FILTER_DROP

/-- The first frame leaves the receive buffer of port p. -/
def State.dropRx (s : State) (p : Nat) : State :=
  let x := s.port p
  ((s.setPort p { x with rx := x.rx.drop 1 }).showFill p).pauseGen p

/-- The route of the frame at the head of the buffer; `none` where the classifier holds it back (R160). -/
def State.routeFrame (s : State) (p : Nat) (f : RxFrame) : Option State :=
  let h := headers f.bytes
  if f.status ≠ Rx.ok then
    let s := if h.etype = 0x8808 then s.stat p Stat.RX_FILTER_DROP else s
    if s.effOn (PORT.BAD_DELIVER p) then
      some ((s.stat p Stat.RX_BAD_DELIVERED).toHost p (frameItem f (rxFlags f.status false h.tagged false) 15))
    else some s
  else if h.tagged && !s.effOn (PORT.VLAN_EN p) then some (s.stat p Stat.RX_VLAN_DROP)
  else
    match (if p < 2 then s.claim p h else none) with
    | some (i, l) =>
      if s.on TIME.STATUS_MEDIA_VALID && udpSumOk f.bytes h && s.held8 (s.get (STRM.LANE_MAP (s.get (laneFld 0 i l)))) then none
      else some ((s.stat p Stat.RX_STREAM).toLane i l f.bytes h f.stamp)
    | none => some (s.dispatch p f h)

/-- FRAME_DISPATCH (R130 to R134, R142, R160): the frame at the head of the receive buffer takes its route, or is held back while
its Hammer is full. -/
def execFrameDispatch (p : Nat) (s : State) : Out :=
  let x := s.port p
  match x.rx with
  | [] => .next s
  | f :: t =>
    match s.routeFrame p f with
    | some s => .next (s.dropRx p)
    | none =>
      if f.heldBack then .next s
      else .next ((s.setPort p { x with rx := { f with heldBack := true } :: t }).count STRM.CLS_HOLD)

/-! ## Pause events -/

/-- PAUSE_REPEAT (R142): half the pause time has passed and RX_FILL is still above XON. -/
def execPauseRepeat (p : Nat) (s : State) : Out :=
  if (s.port p).pausing ∧ s.on (PORT.TX_PAUSE_EN p) ∧ 64 * s.get (PORT.XON p) < s.get (PORT.RX_FILL p) then
    .next (s.queuePause p (s.get (PORT.PAUSE_TX_QUANTA p)))
  else .next s

/-- PAUSE_TIMER_EXPIRY (R141). -/
def execPauseTimerExpiry (p : Nat) (s : State) : Out :=
  .next (if s.on (PORT.TX_PAUSED p) then s.loadTimer p 0 else s)

/-- PAUSE_ALARM (R141). -/
def execPauseAlarm (p : Nat) (s : State) : Out :=
  let a := s.get (PORT.PAUSE_ALARM p)
  .next (if s.on (PORT.TX_PAUSED p) ∧ a ≠ 0 then s.portEvent p PORT.INT_PAUSE_LONG 0x0404 (le 4 a) else s)

/-! ## Transmit (R136 to R139, R145) -/

/-- Launch instants announced to port p: every launch that is known and less than 80 µs away (R138). -/
def State.announced (s : State) (p : Nat) : List Nat :=
  let waiting := (s.port p).stream.map LaunchFrame.launch
  let inHammer := (s.strm.flights.filter (fun f => f.dir == 1 && s.get (TXE.LEG_PORT f.stream f.leg) == p)).map
    (fun f => s.launchNs f.stream f.m)
  let next := s.strm.tx.filterMap (fun x => match x.nextM with
    | some m => if (s.liveLegs 1 x.stream).any (fun l => s.get (TXE.LEG_PORT x.stream l) == p) then some (s.launchNs x.stream m) else none
    | none => none)
  (List.flatten [waiting, inHammer, next]).filter (fun l => decide (l < s.nowNs + 80000))

/-- A frame of `n` bytes with its FCS may start now (R138): preamble, frame and gap end LAUNCH_GUARD before the next launch. -/
def State.guardOk (s : State) (p n : Nat) : Bool :=
  let now := s.ctr * 1000 / 2 ^ 32
  let ends := now + (8 + n + 12) * s.psPerByte p
  decide (2 ≤ p) || (s.announced p).all (fun l => decide (ends + 1000 * s.get (PORT.LAUNCH_GUARD p) ≤ 1000 * l))

/-- SERVICE and HOST are paused; `pausedStream` says the same of STREAM and PTP (R141). -/
def State.pausedOthers (s : State) (p : Nat) : Bool := s.on (PORT.TX_PAUSED p) && s.eff (PORT.PAUSE_MODE p) != 0

/-- A stream frame of port p is due: it goes before every other class (R137). -/
def State.streamDue (s : State) (p : Nat) : Bool :=
  match (s.port p).stream with
  | f :: _ => decide (f.launch ≤ s.nowNs) && !s.pausedStream p
  | [] => false

/-- Move frames of the host items of port p into its HOST partition of 32 KiB while they fit, in order (R137, R405). -/
def feedItems (p : Nat) : Nat → List TxItem → List TxItem × List TxFrame
  | _, [] => ([], [])
  | room, it :: rest =>
    if it.port ≠ p then
      let (r, fs) := feedItems p room rest
      (it :: r, fs)
    else
      let step : (Nat × List (List Byte) × List TxFrame) → List Byte → (Nat × List (List Byte) × List TxFrame) := fun a b =>
        if a.2.1.isEmpty ∧ b.length + 4 ≤ a.1 then
          let last := decide (it.frames.length = a.2.2.length + 1)
          (a.1 - (b.length + 4), [], a.2.2 ++ [⟨b, some (48 + p, it.id), it.seg, it.seg && last, false⟩])
        else (a.1, a.2.1 ++ [b], a.2.2)
      let (room', left, fs) := it.frames.foldl step (room, [], [])
      if left.isEmpty then
        let (r, gs) := feedItems p room' rest
        ({ it with frames := [] } :: r, fs ++ gs)
      else ({ it with frames := left } :: rest, fs)

def State.feedHost (s : State) (p : Nat) : State :=
  let x := s.port p
  let used := (x.host.map (fun f => f.bytes.length + 4)).sum
  let (items, fs) := feedItems p (32768 - used) s.dma.items
  { s.setPort p { x with host := x.host ++ fs } with dma := { s.dma with items := items } }

/-- A transmit completion entry (R405). -/
def txEntry (it : TxItem) (status : Nat) : List Byte :=
  let st := match it.first with
    | some x => if it.stamp ∧ status = 0 then some x else none
    | none => none
  (match st with
    | some x => le 4 ((x / 65536) % 4294967296).toNat ++ le 2 (x % 65536).toNat
    | none => le 6 0) ++ [BitVec.ofNat 8 status, if st.isSome then 1 else 0] ++ le 2 it.desc ++ le 2 it.cookie ++
    le 2 (if it.seg then it.sent else 0) ++ [0, 0]

/-- An item is over: its completion waits to be written. -/
def State.itemDone (s : State) (it : TxItem) (status : Nat) : State :=
  let d : TxDone := ⟨it.port, txEntry it status⟩
  { s with dma := { s.dma with items := s.dma.items.filter (fun o => o.id != it.id),
                               done := s.dma.done ++ [d] } }

/-- A host frame has left with a stamp: its item's account. -/
def State.hostSent (s : State) (f : TxFrame) (stamp : Int) : State :=
  match f.host with
  | none => s
  | some (_, d) =>
    match s.dma.items.find? (fun o => o.id == d) with
    | none => s
    | some it =>
      let it' := { it with left := it.left - 1, sent := it.sent + 1, first := some (it.first.getD stamp) }
      if it'.left = 0 then s.itemDone it' 0
      else { s with dma := { s.dma with items := s.dma.items.map (fun o => if o.id = it.id then it' else o) } }

/-- A frame of SERVICE or HOST leaves. -/
def State.sendFrame (s : State) (p : Nat) (f : TxFrame) (raw : Int) : State :=
  let stamp := raw + s.txLat p
  let s := s.txCount p (f.bytes.length + 4) (beAt f.bytes 0 6)
  let s := if f.segment then s.stat p Stat.TX_SEGMENTS else s
  let s := if f.lastSeg then s.stat p Stat.TX_SEG_SENDS else s
  let s := s.setPort p { s.port p with sent := some (f.bytes ++ fcs f.bytes, stamp) }
  (s.hostSent f stamp).feedHost p

/-- The PAUSE frame of port p with pause_time q, without its FCS. -/
def State.pauseFrame (s : State) (p q : Nat) : List Byte :=
  padFrame (ethHdr 0x0180C2000001 (s.stationMac p) none 0x8808 ++ be 2 1 ++ be 2 q)

/-- The frame at the head of a class may not start under R138: counted once. -/
def State.deferHead (s : State) (p : Nat) (service : Bool) : State :=
  let x := s.port p
  let mark : List TxFrame → List TxFrame := fun l => match l with
    | f :: t => { f with deferred := true } :: t
    | [] => []
  let head := if service then x.service.head? else x.host.head?
  let s := if service then s.setPort p { x with service := mark x.service } else s.setPort p { x with host := mark x.host }
  if (head.map TxFrame.deferred).getD true then s else s.stat p Stat.TX_GUARD_DEFER

/-- The PTP message at the head of its class may not start under R138: counted once. -/
def State.deferPtp (s : State) (p : Nat) : State :=
  let x := s.port p
  match x.ptp with
  | f :: t => if f.deferred then s else (s.setPort p { x with ptp := { f with deferred := true } :: t }).stat p Stat.TX_GUARD_DEFER
  | [] => s

/-- The PTP class at a frame boundary: the state after its head has left, or none where it may not start. -/
def State.startPtp (s : State) (p : Nat) (raw : Int) : Option State :=
  let x := s.port p
  match x.ptp with
  | f :: t =>
    if !s.pausedStream p && s.guardOk p (f.msg.bytes.length + 4) then
      some ((s.setPort p { x with ptp := t }).ptpDepart f.msg (raw + s.txLat p))
    else none
  | [] => none

/-- SERVICE and HOST at a frame boundary. -/
def State.startOthers (s : State) (p : Nat) (raw : Int) : State :=
  let x := s.port p
  let ok := fun (f : TxFrame) => s.guardOk p (f.bytes.length + 4)
  if s.pausedOthers p then s
  else match x.service, x.host with
    | f :: t, hs =>
      if ok f then (s.setPort p { x with service := t }).sendFrame p f raw
      else
        let s := s.deferHead p true
        match hs with
        | g :: u => if ok g then (s.setPort p { s.port p with host := u }).sendFrame p g raw else s.deferHead p false
        | [] => s
    | [], g :: u => if ok g then (s.setPort p { x with host := u }).sendFrame p g raw else s.deferHead p false
    | [], [] => s

/-- TX_FRAME_BOUNDARY (R136 to R138, R142, R145): the MAC of port p starts the next frame it may; `raw` is its departure stamp
at the ball in 2^−16 ns. Stream frames leave by LAUNCH_STAMP. -/
def execTxFrameBoundary (p : Nat) (raw : Int) (s : State) : Out :=
  if 3 < p || !s.on (PORT.LINK_UP p) then .next s
  else
    let s := s.boundary .txFrame (portKeys p)
    let x := s.port p
    match x.pauses with
    | q :: rest =>
      let b := s.pauseFrame p q
      let s := ((s.setPort p { x with pauses := rest }).txCount p 64 0x0180C2000001).stat p Stat.TX_PAUSE
      .next (s.setPort p { s.port p with sent := some (b ++ fcs b, raw + s.txLat p) })
    | [] =>
      if s.streamDue p then .next s
      else match s.startPtp p raw with
        | some t => .next t
        | none => .next (((if s.pausedStream p then s else s.deferPtp p)).startOthers p raw)

/-- FEC_CODEWORD_UNCORRECTABLE (R148): an RS-FEC codeword of a port with RS-FEC is corrected, or found uncorrectable. -/
def execFecCodewordUncorrectable (p : Nat) (corrected : Bool) (s : State) : Out :=
  if p < 2 ∧ s.get (PORT.LINE_MODE p) = 0 ∧ s.on (PORT.FEC_EN p) ∧ s.on (PORT.PORT_EN p) then
    if corrected then .next (s.stat p Stat.FEC_CORR)
    else
      let s := s.stat p Stat.FEC_UNCORR
      .next (s.portEvent p PORT.INT_FEC_UNCORR 0x0406 (le 4 (s.get (PORT.STAT p Stat.FEC_UNCORR))))
  else .next s

/-! ## Link state (R127, R139) -/

/-- The frames of a list that lie in a partition of `room` bytes; the others still wait at their source (R137). -/
def inPartition : Nat → List TxFrame → List TxFrame × List TxFrame
  | _, [] => ([], [])
  | room, f :: t =>
    if f.bytes.length + 4 ≤ room then
      let (a, b) := inPartition (room - (f.bytes.length + 4)) t
      (f :: a, b)
    else ([], f :: t)

/-- Flush the transmit buffer of port p: the frames discarded, and the state. Stream frames count in LINK_DROP of their legs
too; the items of the host are over as DISCARD_LINK (R139, R405). -/
def State.flushTx (s : State) (p : Nat) : Nat × State :=
  let x := s.port p
  let (svc, wait) := inPartition 24576 x.service
  let n := x.stream.length + x.ptp.length + svc.length + x.host.length
  let items := s.dma.items.filter (fun o => o.port == p && x.host.any (fun f => f.host == some (48 + p, o.id)))
  let s := x.stream.foldl (fun s f => s.count (TXC.LINK_DROP f.stream f.leg)) s
  let s := s.setPort p { x with stream := [], ptp := [], service := wait, host := [], pauses := [], pausing := false }
  let s := items.foldl (fun s it => s.itemDone it 2) s
  (n, s.statBy p Stat.TX_DISCARD n)

/-- The base page port p advertises under Clause 37: full duplex, and symmetric PAUSE unless PAUSE_MODE is IGNORE (R126); 0 in the other line modes or
without auto-negotiation. -/
def State.advertise (s : State) (p : Nat) : State :=
  let v := if s.get (PORT.LINE_MODE p) = 2 ∧ s.on (PORT.AN_EN p) then (if s.eff (PORT.PAUSE_MODE p) = 0 then 0x20 else 0xA0) else 0
  s.setPort p { s.port p with advert := v }

/-- Port p leaves its state: to DOWN with cause 0 or 1, or DISABLED with cause 2; `part` says that a frame was being received. A pause in progress ends
(DESIGN CHOICE, assumption 105), lock is kept where only the partner restarts auto-negotiation, and the PCS advertises anew. With the lock of a media port
goes its SyncE reference (R93). -/
def State.linkDown (s : State) (p cause : Nat) (part : Bool) : State :=
  let up := s.on (PORT.LINK_UP p)
  let s := if part && up then s.stat p Stat.RX_CODE_ERR else s
  let s := (s.loadTimer p 0)
  let (n, s) := s.flushTx p
  let s := s.setPort p { s.port p with link := if cause = 2 then 0 else 1 }
  let s := (s.set (PORT.LINK_UP p) 0).set (PORT.AN_DONE p) 0
  let s := if cause = 1 then s else (s.set (PORT.PCS_LOCK p) 0).set (PORT.FEC_LOCK p) 0
  let s := if cause ≠ 1 ∧ p < 2 then s.refGone (4 + p) else s
  let s := s.advertise p
  if up then
    let s := s.stat p Stat.LINK_DOWN
    let s := s.portEvent p PORT.INT_LINK_DOWN 0x0402 ([BitVec.ofNat 8 cause, 0, 0, 0] ++ le 4 n)
    if p < 2 then s.ptpLink p false else s
  else s

/-- PORT_EN of port p takes a value. Whether a frame was being received when it was cleared is left open: a free value. -/
def State.portEnable (s : State) (p : Nat) (on : Bool) : State :=
  if on then (if (s.port p).link = 0 then (s.setPort p { s.port p with link := 1 }).advertise p else s)
  else if (s.port p).link = 0 then (s.flushTx p).2
  else if (s.port p).link = 2 then
    let (v, s) := s.fresh 1
    s.linkDown p 2 (v == 1)
  else s.linkDown p 2 false

/-- LINK_LOSS (R127): lock or sync is lost (cause 0) or the partner restarts auto-negotiation (cause 1). In DOWN, a loss of lock shows in PCS_LOCK and
FEC_LOCK. -/
def execLinkLoss (p cause : Nat) (part : Bool) (s : State) : Out :=
  .next (if p ≤ 3 ∧ cause ≤ 1 ∧ (s.port p).link = 2 then s.linkDown p cause part
    else if p ≤ 3 ∧ cause = 0 then (s.set (PORT.PCS_LOCK p) 0).set (PORT.FEC_LOCK p) 0 else s)

/-- Port p supports line mode m (R126). -/
def modeOk (p m : Nat) : Bool := if p < 2 then decide (m ≤ 2) else m == 2 || m == 3

def State.portIdle (s : State) (p : Nat) : Bool := !s.on (PORT.PORT_EN p) && !s.on (PORT.LINK_UP p)

/-- Copy the 42 counters of port p (R146). -/
def State.snapStats (s : State) (p : Nat) : State :=
  let s := s.settlePause p
  s.setPort p { s.port p with snap := (List.range 42).map (fun n => s.get (PORT.STAT p n)) }

/-- A host write of CTRL of port p (R126, R127, R146, R154). -/
def State.portCtrl (s : State) (source p w : Nat) : State :=
  let off := 0x40000 + 0x10000 * p
  let mode := w / 2 % 8
  let refuse := s.noStart 5 p && !s.on (PORT.PORT_EN p) && w % 2 == 1
  let w := if refuse then w - 1 else w
  let w := if modeOk p mode then w else w - 2 * mode + 2 * s.get (PORT.LINE_MODE p)
  let whole := s.portIdle p || (!s.on (PORT.PORT_EN p) && w % 2 == 1)
  let s := if refuse || !modeOk p mode then s.cfgReject source off else s
  let s := s.writeWord PORT.fields whole source off w
  let s := s.portEnable p (w % 2 == 1)
  if w.testBit 14 && s.on (PORT.STAT_SNAP_MODE p) then s.snapStats p else s

/-! ## Commands (R153) -/

/-- PORT_SET's parameters: Port; PORT_EN; LINE_MODE; FEC_EN; AN_EN; RX_MAX_LEN; TX_MAX_LEN; VLAN_EN; BAD_DELIVER; PROMISC; BCAST_EN;
PAUSE_MODE; TX_PAUSE_EN; PAUSE_TX_QUANTA; XOFF; XON; PAUSE_ALARM; LAUNCH_GUARD; RX_LAT; TX_LAT. -/
def portSetParams : List PSpec :=
  [preq 1 1 0 3, popt 2 1 0 1, popt 3 1 0 7, popt 4 1 0 1, popt 5 1 0 1, popt 6 2 0 0x3FFF, popt 7 2 0 0x3FFF, popt 8 1 0 1,
   popt 9 1 0 1, popt 10 1 0 1, popt 11 1 0 1, popt 12 1 0 3, popt 13 1 0 1, popt 14 2 0 0xFFFF, popt 15 2 0 0xFFFF,
   popt 16 2 0 0xFFFF, popt 17 4 0 0xFFFFFF, popt 18 2 0 0xFFFF, psig 19 4 32, psig 20 4 32]

def portSetFlds (p : Nat) : List PFld :=
  [⟨3, PORT.LINE_MODE p, .static⟩, ⟨4, PORT.FEC_EN p, .static⟩, ⟨5, PORT.AN_EN p, .static⟩, ⟨6, PORT.RX_MAX_LEN p, .static⟩,
   ⟨7, PORT.TX_MAX_LEN p, .static⟩, ⟨8, PORT.VLAN_EN p, .rxFrame⟩, ⟨9, PORT.BAD_DELIVER p, .rxFrame⟩, ⟨10, PORT.PROMISC p, .rxFrame⟩,
   ⟨11, PORT.BCAST_EN p, .rxFrame⟩, ⟨12, PORT.PAUSE_MODE p, .txFrame⟩, ⟨13, PORT.TX_PAUSE_EN p, .live⟩,
   ⟨14, PORT.PAUSE_TX_QUANTA p, .live⟩, ⟨15, PORT.XOFF p, .live⟩, ⟨16, PORT.XON p, .live⟩, ⟨17, PORT.PAUSE_ALARM p, .live⟩,
   ⟨18, PORT.LAUNCH_GUARD p, .live⟩, ⟨19, PORT.RX_LAT p, .live⟩, ⟨20, PORT.TX_LAT p, .live⟩]

/-- A parameter that the port does not have (R153 to R155). -/
def portLacks (p : Nat) (ty : Nat) : Bool :=
  if p < 2 then [13, 14, 15, 16, 19, 20].contains ty else [4, 18].contains ty

def portSetBody (p : Params) (s : State) : Reply × State :=
  let n := Params.val p 1
  match p.find? (fun t => portLacks n t.ty || (t.ty == 3 && !modeOk n t.val)) with
  | some t => (Reply.errAt Status.badParam p t.ty, s)
  | none =>
    let on := ((Params.val? p 2).map (fun v => v == 1)).getD (s.on (PORT.PORT_EN n))
    if on && !s.on (PORT.PORT_EN n) && s.noStart 5 n then (Reply.errAt Status.notInState p 2, s)
    else
      let (rep, s1) := setFlds (s.portIdle n) (portSetFlds n) p s
      if rep.status ≠ 0 then (rep, s)
      else (rep, ((s1.setOn (PORT.PORT_EN n) on).portEnable n on).pauseGen n)

/-- PORT_SET. -/
def execPortSet (r : Req) (p : List Tlv) (s : State) : Out := runCmd 0x0401 portSetParams portSetBody r p s

/-- The DISPATCH word as it reads: fixed entries show their fixed value. -/
def State.dispatchWord (s : State) (p : Nat) : Nat :=
  ((List.range 12).map (fun c => ((s.fixedClass p c).getD (s.get (PORT.DISPATCH p) / 4 ^ c % 4)) * 4 ^ c)).sum

/-- PORT_STATUS_GET. -/
def execPortStatusGet (r : Req) (p : List Tlv) (s : State) : Out :=
  runCmd 0x0402 [preq 1 1 0 3] (getBody (fun p s =>
    [0, 8, 0x10, 0x380, 0x384].flatMap (fun o => le 4 (s.word PORT.fields (0x40000 + 0x10000 * Params.val p 1 + o))))) r p s

/-- FILTER_SET: Port; entry; address; EN. -/
def execFilterSet (r : Req) (p : List Tlv) (s : State) : Out :=
  runCmd 0x0403 [preq 1 1 0 3, preq 2 1 16 31, popt 3 6 0 (2 ^ 48 - 1), popt 4 1 0 1] (fun p s =>
    let (n, e) := (Params.val p 1, Params.val p 2)
    let s := match Params.val? p 3 with
      | some v =>
        let mac := swapBytes 6 v
        (s.setB (PORT.MATCH_ADDR_LO n e) .rxFrame (mac % 2 ^ 32)).setB (PORT.MATCH_ADDR_HI n e) .rxFrame (mac / 2 ^ 32)
      | none => s
    (Reply.ok [], match Params.val? p 4 with
      | some v => s.setB (PORT.MATCH_EN n e) .rxFrame v
      | none => s)) r p s

/-- DISPATCH_SET: Port; class; destination. -/
def execDispatchSet (r : Req) (p : List Tlv) (s : State) : Out :=
  runCmd 0x0404 [preq 1 1 0 3, preq 2 1 0 11, preq 3 1 0 3] (fun p s =>
    let (n, c, d) := (Params.val p 1, Params.val p 2, Params.val p 3)
    if (s.fixedClass n c).isSome then (Reply.err Status.notInState, s)
    else
      let v := s.get (PORT.DISPATCH n)
      (Reply.ok [], s.setB (PORT.DISPATCH n) .rxFrame (v - v / 4 ^ c % 4 * 4 ^ c + d * 4 ^ c))) r p s

/-- STATS_GET: Port; CLEAR_HALF. -/
def execStatsGet (r : Req) (p : List Tlv) (s : State) : Out :=
  runCmd 0x0405 [preq 1 1 0 3, popt 2 1 0 1] (fun p s =>
    let n := Params.val p 1
    let s := s.settlePause n
    let pay := (List.range 42).flatMap (fun i => le 8 (s.get (PORT.STAT n i)))
    let s := if Params.val p 2 = 1 then (s.set (PORT.STAT_HALF_LO n) 0).set (PORT.STAT_HALF_HI n) 0 else s
    (Reply.ok pay, s)) r p s

/-- WAKE_SET: MAGIC_EN; DA_CHECK; LINK_WAKE; AWAKE_EVT; WAKE_MAC; filter index, pattern, mask and enable. -/
def execWakeSet (r : Req) (p : List Tlv) (s : State) : Out :=
  runCmd 0x0406 [popt 1 1 0 1, popt 2 1 0 1, popt 3 1 0 1, popt 4 1 0 1, popt 5 6 0 (2 ^ 48 - 1), popt 6 1 0 7,
      popt 7 128 0 (2 ^ 1024 - 1), popt 8 16 0 (2 ^ 128 - 1), popt 9 1 0 1] (fun p s =>
    if !(Params.has p 6) && [7, 8, 9].any (fun t => Params.has p t) then (Reply.err Status.badParam, s)
    else
      let f := Params.val p 6
      let s := writeFlds s p [⟨1, PORT.WAKE_MAGIC_EN, .live⟩, ⟨2, PORT.WAKE_DA_CHECK, .live⟩, ⟨3, PORT.WAKE_LINK_WAKE, .live⟩,
        ⟨4, PORT.WAKE_AWAKE_EVT, .live⟩]
      let s := match Params.val? p 5 with
        | some v => ((s.set PORT.WAKE_MAC_LO (swapBytes 6 v)).set PORT.WAKE_MAC_HI (swapBytes 6 v / 2 ^ 32)).joinLo PORT.WAKE_MAC_LO .live
        | none => s
      let s := match Params.val? p 7 with
        | some v => (List.range 32).foldl (fun s k => s.set (PORT.WAKE_PATTERN f k) (v / 2 ^ (32 * k))) s
        | none => s
      let s := match Params.val? p 8 with
        | some v => (List.range 4).foldl (fun s k => s.set (PORT.WAKE_MASK f k) (v / 2 ^ (32 * k))) s
        | none => s
      (Reply.ok [], match Params.val? p 9 with
        | some v => s.setBit PORT.WAKE_FILT_EN f (v == 1)
        | none => s)) r p s

end Sys2Proof.Machine
end

