-- ==== Sys2Proof/Machine/OrbTx.lean ====
section
/-! DEFINITION. Frames sent on the orbit links (R426), and what a driving member of a pair mirrors to its peer (R443, R454). The layout of MIRROR_STATE
frames is the model's (DESIGN CHOICE, assumption 32): kind, media time, body. -/

namespace Sys2Proof.Machine

def State.link (s : State) (n : Nat) : OrbLink := unitAt s.orb.links n OrbLink.reset
def State.setLink (s : State) (n : Nat) (x : OrbLink) : State := { s with orb := { s.orb with links := s.orb.links.setIfInBounds n x } }

/-- LINK_STATE: 0 DISABLED, 1 DOWN, 2 LOCKING, 3 UP. -/
def State.linkState (s : State) (n : Nat) : Nat := s.get (ORB.LINK_LINK_STATE n)

/-- A frame leaves on link n (R426): for the types with a sequence number, TAG is the next of its type. -/
def State.orbPut (s : State) (n ty group tag : Nat) (pay : List Byte) : State :=
  let x := s.link n
  let seq := unitAt x.seqs ty 0
  let tag := if ty = 1 ∨ ty = 5 then tag % 2 ^ 32 else seq
  let f : OrbFrame := ⟨ty, group, tag, pay⟩
  let x := { x with seqs := x.seqs.setIfInBounds ty ((seq + 1) % 2 ^ 32), sent := x.sent.filter (fun g => g.type != ty || g.group != group) ++ [f] }
  (s.setLink n x).count (ORB.LINK_FRAMES_TX n)

/-- Frames that a payload of `len` bytes takes: one for SAMPLE and MIRROR_ROW, else 2,048 bytes to a frame (R426). -/
def orbFrames (ty len : Nat) : Nat := if ty = 1 ∨ ty = 5 then 1 else max 1 ((len + 2047) / 2048)

/-- A payload leaves on link n, in as many frames as it takes. -/
def State.orbSend (s : State) (n ty group tag : Nat) (pay : List Byte) : State :=
  let k := orbFrames ty pay.length
  if k = 1 then s.orbPut n ty group tag pay
  else (pieces 2048 k pay).foldl (fun (t : State) b => t.orbPut n ty group tag b) s

/-- The unit drives outputs and its mirror link is UP: what it applies is mirrored. -/
def State.mirrors (s : State) : Bool :=
  (s.get PAIR.STATUS_ROLE == 2 || s.get PAIR.STATUS_ROLE == 3) && s.on PAIR.STATUS_MIRROR_UP

/-- A change of a driving unit goes to its peer in a MIRROR_STATE frame: kind 0 a register write, 1 a command, 2 a session, 3 the end of a session,
4 an Anvil commit, 5 a kept reply of a session, 6 a piece of the configuration in a resync, 7 its end (R443, R454, R456). -/
def State.mirror (s : State) (kind : Nat) (body : List Byte) : State :=
  if s.mirrors then s.orbSend 3 6 0 0 (BitVec.ofNat 8 kind :: le 8 s.media ++ body) else s

/-- A session as it is mirrored, its kept replies apart. -/
def Session.bytes (x : Session) : List Byte :=
  List.flatten [[BitVec.ofNat 8 x.chan, BitVec.ofNat 8 x.slot, BitVec.ofNat 8 x.priv, BitVec.ofNat 8 x.port], le 4 x.id, le 16 x.addr, le 2 x.cport,
    padTo 32 x.kcd, padTo 32 x.kdc, le 8 x.rxHigh, le 8 x.txCtr, x.rxSeen.flatMap (le 8)]

/-- The 8-byte numbers of a list of bytes, n of them at most. -/
def numbers8 : Nat → List Byte → List Nat
  | 0, _ => []
  | n + 1, b => if b.length < 8 then [] else leAt b 0 8 :: numbers8 n (b.drop 8)

/-- A session read back, heard last at cycle `now`. -/
def Session.ofBytes (b : List Byte) (now : Nat) (kept : List (Nat × List Byte)) : Session :=
  { chan := leAt b 0 1, slot := leAt b 1 1, priv := leAt b 2 1, port := leAt b 3 1, id := leAt b 4 4, addr := leAt b 8 16, cport := leAt b 24 2,
    kcd := (b.drop 26).take 32, kdc := (b.drop 58).take 32, rxHigh := leAt b 90 8, txCtr := leAt b 98 8, rxSeen := numbers8 128 (b.drop 106),
    kept := kept, lastRx := now, closing := false }

/-- An entry of a commit in 18 bytes. -/
def TblEntry.bytes (e : TblEntry) : List Byte :=
  [BitVec.ofNat 8 (e.table + if e.clear then 128 else 0)] ++ le 2 e.index ++ le 3 (e.moved.getD 0xFFFFFF) ++ le 4 e.w0 ++ le 4 e.w1 ++ le 4 e.w2

/-- The entries of a commit read back, n at most. -/
def entriesOf : Nat → List Byte → List TblEntry
  | 0, _ => []
  | n + 1, b =>
    if b.length < 18 then []
    else
      let t := leAt b 0 1
      let m := leAt b 3 3
      ⟨t % 128, leAt b 1 2, leAt b 6 4, leAt b 10 4, leAt b 14 4, decide (128 ≤ t), if m = 0xFFFFFF then none else some m⟩ :: entriesOf n (b.drop 18)

/-- The entries of a commit, 100 to a frame. -/
def State.mirrorEntries (s : State) (due : Nat) : Nat → List TblEntry → State
  | 0, _ => s
  | n + 1, es =>
    if es.isEmpty then s
    else (s.mirror 4 (le 8 due ++ (es.take 100).flatMap TblEntry.bytes)).mirrorEntries due n (es.drop 100)

end Sys2Proof.Machine
end

