-- ==== Sys2Proof/Machine/Tables.lean ====
section
/-! DEFINITION. Anvil's tables (chapter 08): routes and their dips (R258, R259), gain ramps (R260), buses (R261, R262), batches (R274 to
R278), direct opcodes (R279, R370), alignment groups (R268, R269) and the commands of R287 that write them. -/

namespace Sys2Proof.Machine

/-! ## Entries (R274, R292) -/

/-- Entries of a table: 0 route, 1 term, 2 bus. -/
def tblLimit (t : Nat) : Nat := if t = 1 then 16384 else if t = 2 then 256 else 6152

/-- Word w of entry i of a table, in force. -/
def State.tblWord (s : State) (t i w : Nat) : Nat :=
  if t = 1 then s.word (TERM.entry i) (0x900000 + 0x10 * i + 4 * w)
  else if t = 2 then s.word (BUS.entry i) (0xA00000 + 0x10 * i + 4 * w)
  else s.word (ROUTE.entry i) (0x800000 + 0x10 * i + 4 * w)

def eEn (w : Nat) : Bool := w.testBit 31
def eSrc (w : Nat) : Nat := w % 8192

/-- The ramp in progress of route d or term 8192 + i. -/
def State.ramp (s : State) (x : Nat) : Option RampRun := s.anvil.ramps.find? (fun r => r.index == x)

/-- An entry in force as one that changes nothing: a route in a dip names the source it moves to. -/
def State.entryNow (s : State) (t i : Nat) : TblEntry :=
  let w0 := s.tblWord t i 0
  let w0 := if t = 0 then (match (s.ramp i).bind RampRun.dip with
    | some d => w0 - eSrc w0 + d.1
    | none => w0) else w0
  ⟨t, i, w0, s.tblWord t i 1, s.tblWord t i 2, false, none⟩

/-- The latest entry for an index: of the commits waiting, else in force. Commands that give part of an entry start from it
(assumption 14). -/
def State.entryBase (s : State) (t i : Nat) : TblEntry :=
  match (s.anvil.commits.reverse.flatMap (fun c => c.entries)).find? (fun e => e.table == t && e.index == i) with
  | some e => match e.moved with
    | some o => { s.entryNow 1 o with index := i }
    | none => e
  | none => s.entryNow t i

/-- Put an entry in a list, a later entry for an index replacing an earlier one (R274). -/
def putEntry (l : List TblEntry) (e : TblEntry) : List TblEntry :=
  if l.any (fun o => o.table == e.table && o.index == e.index) then
    l.map (fun o => if o.table == e.table && o.index == e.index then e else o)
  else l ++ [e]

/-! ## Applying an entry (R259 to R261) -/

/-- Replace the ramp of an index. -/
def State.putRamp (s : State) (x : Nat) (r : Option RampRun) : State :=
  let rest := s.anvil.ramps.filter (fun o => o.index != x)
  { s with anvil := { s.anvil with ramps := rest ++ r.toList } }

/-- Write every field of a route and its ramp. -/
def State.putRoute (s : State) (d en dith src gain ramp : Nat) (r : Option RampRun) : State :=
  let s := ((s.set (ROUTE.EN d) en).set (ROUTE.DITHER d) dith).set (ROUTE.SRC d) src
  ((s.set (ROUTE.GAIN d) gain).set (ROUTE.RAMP d) ramp).putRamp d r

/-- A route entry takes effect; `o` is the state before this gap's batches (R259, R275). -/
def State.applyRoute (o s : State) (e : TblEntry) : State :=
  let d := e.index
  let src0 := o.get (ROUTE.SRC d)
  let now := o.geti (ROUTE.GAIN_NOW d)
  let run := o.ramp d
  let dith := e.w0 / 2 ^ 30 % 2
  let src := eSrc e.w0
  let n := e.w2 % 1024
  let g := e.w1 % 2 ^ 24
  let g1 := toSigned 24 g
  let dip := run.bind RampRun.dip
  if e.clear then
    if o.on (ROUTE.EN d) then
      s.putRoute d 1 (o.get (ROUTE.DITHER d)) src0 0 n (some ⟨d, now, 0, n, 0, none, true⟩)
    else s.putRoute d 0 (o.get (ROUTE.DITHER d)) src0 (o.get (ROUTE.GAIN d)) (o.get (ROUTE.RAMP d)) none
  else if !eEn e.w0 then (s.putRoute d 0 dith src g n none).set (ROUTE.GAIN_NOW d) 0
  else if !o.on (ROUTE.EN d) then s.putRoute d 1 dith src g n (some ⟨d, 0, g1, n, 0, none, false⟩)
  else
    match run, dip with
    | some x, some y => s.putRoute d 1 dith src0 g n (some { x with dip := some (src, g1, y.2.2), clear := false })
    | _, _ =>
      if src ≠ src0 then
        if n = 0 then s.putRoute d 1 dith src g n (some ⟨d, now, g1, 0, 0, none, false⟩)
        else s.putRoute d 1 dith src0 g n (some ⟨d, now, 0, n, 0, some (src, g1, n), false⟩)
      else
        let same := match run with
          | some x => x.g1 == g1 && x.n == n && !x.clear
          | none => now == g1
        s.putRoute d 1 dith src g n (if same then run else some ⟨d, now, g1, n, 0, none, false⟩)

/-- A term entry takes effect: its source at once, its gain by a ramp; a moved term keeps gain and ramp (R261, R262, R287). -/
def State.applyTerm (o s : State) (e : TblEntry) : State :=
  let i := e.index
  let x := 8192 + i
  match e.moved with
  | some f =>
    let s := ((s.set (TERM.SRC i) (o.get (TERM.SRC f))).set (TERM.GAIN i) (o.get (TERM.GAIN f))).set (TERM.RAMP i) (o.get (TERM.RAMP f))
    (s.set (TERM.GAIN_NOW i) (o.get (TERM.GAIN_NOW f))).putRamp x ((o.ramp (8192 + f)).map (fun r => { r with index := x }))
  | none =>
    let now := o.geti (TERM.GAIN_NOW i)
    let g1 := toSigned 24 (e.w1 % 2 ^ 24)
    let same := match o.ramp x with
      | some r => r.g1 == g1 && r.n == e.w2 % 1024
      | none => now == g1
    let s := ((s.set (TERM.SRC i) (eSrc e.w0)).set (TERM.GAIN i) e.w1).set (TERM.RAMP i) e.w2
    (s.set (TERM.GAIN_NOW i) (o.get (TERM.GAIN_NOW i))).putRamp x
      (if same then o.ramp x else some ⟨x, now, g1, e.w2 % 1024, 0, none, false⟩)

/-- A bus entry takes effect at once. -/
def State.applyBus (s : State) (e : TblEntry) : State :=
  let b := e.index
  let s := (s.setOn (BUS.EN b) (eEn e.w0)).set (BUS.TIER b) (e.w0 / 2 ^ 24)
  (s.set (BUS.TERM_COUNT b) (e.w0 / 2 ^ 16)).set (BUS.TERM_BASE b) e.w0

def State.applyEntry (o s : State) (e : TblEntry) : State :=
  if e.table = 1 then o.applyTerm s e else if e.table = 2 then s.applyBus e else o.applyRoute s e

/-! ## The conditions of R262 -/

/-- The indices whose field at `base + 0x10 i`, bit 31, holds 1. -/
def State.enabledAt (s : State) (base limit : Nat) : List Nat :=
  s.regs.filterMap (fun p =>
    if base * 32 ≤ p.1 ∧ p.1 < (base + 0x10 * limit) * 32 ∧ (p.1 - base * 32) % 512 = 31 ∧ p.2 = 1 then some ((p.1 - base * 32) / 512)
    else none)

/-- Enabled buses and enabled routes, ascending. -/
def State.buses (s : State) : List Nat := s.enabledAt 0xA00000 256
def State.routes (s : State) : List Nat := s.enabledAt 0x800000 6152

/-- The terms of a bus. -/
def State.busTerms (s : State) (b : Nat) : List Nat :=
  (List.range (s.get (BUS.TERM_COUNT b))).map (fun k => s.get (BUS.TERM_BASE b) + k)

/-- Ranges of two buses share a term. -/
def State.overlap (s : State) (a b : Nat) : Bool :=
  decide (max (s.get (BUS.TERM_BASE a)) (s.get (BUS.TERM_BASE b)) <
    min (s.get (BUS.TERM_BASE a) + s.get (BUS.TERM_COUNT a)) (s.get (BUS.TERM_BASE b) + s.get (BUS.TERM_COUNT b)))

/-- Term i of bus b names a bus of its own tier or a higher one. -/
def State.tierBad (s : State) (b i : Nat) : Bool :=
  let src := s.get (TERM.SRC i)
  decide (5120 ≤ src ∧ src ≤ 5375) && decide (s.get (BUS.TIER b) ≤ s.get (BUS.TIER (src - 5120)))

/-- The buses that have terms, enabled or not, ascending. -/
def State.termBuses (s : State) : List Nat := (List.range 256).filter (fun b => s.get (BUS.TERM_COUNT b) != 0)

/-- ERR of BATCH_RESULT and the first offending index (R262, R276, R291): TERM_COUNT of any bus and the range of an enabled one, then overlap of enabled ones,
naming the bus; then the tiers of the terms of every bus, naming the term. -/
def State.tblCheck (s : State) : Nat × Nat :=
  let bs := s.buses
  let all := s.termBuses
  match all.find? (fun b => decide (64 < s.get (BUS.TERM_COUNT b)) ||
      (bs.contains b && decide (16384 < s.get (BUS.TERM_BASE b) + s.get (BUS.TERM_COUNT b)))) with
  | some b => (3, b)
  | none =>
    match bs.find? (fun b => bs.any (fun a => decide (a < b) && s.overlap a b)) with
    | some b => (1, b)
    | none =>
      match all.findSome? (fun b => (s.busTerms b).find? (s.tierBad b)) with
      | some i => (2, i)
      | none => (0, 0)

/-! ## Commits (R275, R276, R278) -/

/-- The pass in which a commit that reaches Anvil now takes effect (R275): the first that starts, 256 cycles after its boundary, at
least 4,096 CORE cycles from now. -/
def State.duePass (s : State) : Nat := s.mediaAt 1 (s.ctr + 3839 * s.time.incr) + 1

/-- A commit waits for its pass; a driving member of a pair mirrors it with the number of that pass (R454). -/
def State.addCommit (s : State) (list chan : Nat) (es more : List TblEntry) (reply : Option Result) : State :=
  let c : Commit := ⟨list, es, s.cycles, s.duePass, chan, reply, more⟩
  { s with anvil := { s.anvil with commits := s.anvil.commits ++ [c] } }.mirrorEntries c.due 11 es

/-- The pass that comes next: that of the present period until it has run. -/
def State.nextPass (s : State) : Nat := if s.anvil.ran = some s.media then s.media + 1 else s.media

/-- The outcome of the request that waited for a commit; a direct opcode completed OK counts in DIRECT_OPS (R289). -/
def State.commitReply (s : State) (c : Commit) (ok : Bool) : State :=
  match c.reply with
  | some x =>
    let s := if ok && decide (0x0601 ≤ x.opcode ∧ x.opcode ≤ 0x0603) then s.count ANVIL.DIRECT_OPS else s
    s.post (if ok then x else { x with reply := Reply.err Status.internal })
  | none => s

/-- The entries of a commit take effect: `o` is the state before the gap, from which routes and terms ramp; a moved term is the one that stands before this
commit. -/
def State.applyEntries (o s : State) (es : List TblEntry) : State :=
  es.foldl (fun u e => if e.moved.isSome then s.applyEntry u e else o.applyEntry u e) s

/-- The entries of `l` that go in one commit, and the rest: 1,024 at most, a bus whose range moves not parted from its terms (R278, R287). -/
def cutEntries (l : List TblEntry) : List TblEntry × List TblEntry :=
  if l.length ≤ 1024 then (l, [])
  else
    let k := (((List.range 1024).reverse.find? (fun k => (l[k]?).any (fun e => e.table == 2))).getD 1023) + 1
    (l.take k, l.drop k)

/-- One commit is applied, or refused whole (R276); `o` is the state before the gap, so that a later commit's entry for an index
replaces an earlier one's (R275). -/
def State.applyCommit (o s : State) (c : Commit) : State :=
  let s1 := o.applyEntries s c.entries
  let (err, idx) := s1.tblCheck
  let host := fun (s : State) =>
    if c.list = 0 then
      let s := (s.set ANVIL.BATCH_COMMIT_PENDING 0).set ANVIL.BATCH_PEND_COUNT 0
      let s : State := { s with anvil := { s.anvil with host := [] } }
      ((s.set ANVIL.BATCH_ERR err).set ANVIL.BATCH_INDEX idx)
    else s
  if err = 0 then
    let s := (host s1).count ANVIL.BATCHES
    match c.more with
    | [] => s.commitReply c true
    | l => s.addCommit c.list c.chan (cutEntries l).1 (cutEntries l).2 c.reply
  else
    let s := (host s).count ANVIL.BATCH_REFUSED_CNT
    let s := s.signalRise ANVIL.INT ANVIL.INT_EN ANVIL.INT_BATCH_REFUSED 0x0605 11 c.list ([BitVec.ofNat 8 err, 0, 0, 0] ++ le 2 idx)
    s.commitReply c false

/-- One commit of a gap: the terms it moves take the state they had before the gap with them. -/
def State.gapCommit (a : State × State) (c : Commit) : State × State :=
  let (o, s) := a
  let t := State.applyCommit o s c
  let moves := if (o.applyEntries s c.entries).tblCheck.1 = 0 then c.entries.filter (fun e => e.moved.isSome) else []
  (moves.foldl (State.applyEntry o) o, t)

/-- BATCH_APPLY (R275, R276): the commits due for the next pass are applied, in the order in which they arrived. -/
def State.batchApply (s : State) : State :=
  let due := fun (c : Commit) => decide (c.due ≤ s.nextPass ∨ c.arrived + 4096 ≤ s.cycles)
  let cs := s.anvil.commits.filter due
  let s1 := { s with anvil := { s.anvil with commits := s.anvil.commits.filter (fun c => !due c) } }
  (cs.foldl State.gapCommit (s1, s1)).2

/-- BATCH_COMMIT (R277): BATCH_CTRL.COMMIT. -/
def hostBatchCommit (s : State) : Out :=
  if s.on ANVIL.BATCH_COMMIT_PENDING then .next (s.set ANVIL.TBL_ERR 3)
  else if s.anvil.host.isEmpty then .next s
  else
    let n := s.duePass
    let s := ((s.addCommit 0 64 s.anvil.host [] none).set ANVIL.BATCH_COMMIT_PENDING 1)
    .next ((s.set ANVIL.BATCH_APPLY_PASS_LO n).set ANVIL.BATCH_APPLY_PASS_HI (n / 2 ^ 32))

/-- BATCH_DISCARD (R277): BATCH_CTRL.DISCARD empties the list; one that is committed already stays committed. -/
def hostBatchDiscard (s : State) : Out :=
  if s.on ANVIL.BATCH_COMMIT_PENDING then .next s
  else .next ({ s with anvil := { s.anvil with host := [] } }.set ANVIL.BATCH_PEND_COUNT 0)

/-- TABLE and INDEX of ANVIL.TBL_CTRL. -/
def State.fabSelect (s : State) (t i : Nat) : State := (s.set ANVIL.TBL_TABLE t).set ANVIL.TBL_INDEX i

/-- TABLE 3 acts as 0 (R291). -/
def tblOf (t : Nat) : Nat := if t % 4 = 3 then 0 else t % 4

/-- FABRIC_TBL_READ (R274, R291): OP = 1. -/
def hostFabricTblRead (table i : Nat) (s : State) : Out :=
  let t := tblOf table
  let i := i % 16384
  let s := s.fabSelect (table % 4) i
  if tblLimit t ≤ i then .next (s.set ANVIL.TBL_ERR 1)
  else .next (((List.range 4).foldl (fun u w => u.set (ANVIL.TBL_DATA w) (s.tblWord t i w)) s).set ANVIL.TBL_ERR 0)

/-- FABRIC_TBL_ADD (R277, R291): OP = 2. -/
def hostFabricTblAdd (table i : Nat) (s : State) : Out :=
  let t := tblOf table
  let i := i % 16384
  let s := s.fabSelect (table % 4) i
  if s.on ANVIL.BATCH_COMMIT_PENDING then .next (s.set ANVIL.TBL_ERR 3)
  else if tblLimit t ≤ i then .next (s.set ANVIL.TBL_ERR 1)
  else
    let e : TblEntry := ⟨t, i, s.get (ANVIL.TBL_DATA 0), s.get (ANVIL.TBL_DATA 1), s.get (ANVIL.TBL_DATA 2), false, none⟩
    let l := putEntry s.anvil.host e
    if 1024 < l.length then .next (s.set ANVIL.TBL_ERR 2)
    else .next (({ s with anvil := { s.anvil with host := l } }.set ANVIL.TBL_ERR 0).set ANVIL.BATCH_PEND_COUNT l.length)

/-! ## Commands with entry runs (R279, R287, R355) -/

/-- Cut the TLVs of the types `tys` into runs; a run starts at each TLV of the first type. -/
def runsOf (head : Nat) : List Tlv → List (List Tlv)
  | [] => []
  | t :: rest =>
    match runsOf head rest with
    | [] => [[t]]
    | (u :: us) :: more => if u.ty = head then [t] :: (u :: us) :: more else (t :: u :: us) :: more
    | [] :: more => [t] :: more

/-- The runs of a command's parameters; none where a TLV stands before the first run's head. -/
def entryRuns (tys : List Nat) (p : Params) : Option (List (List Tlv)) :=
  let l := p.filter (fun t => tys.contains t.ty)
  match l with
  | [] => some []
  | t :: _ => if t.ty = nth tys 0 0 then some (runsOf t.ty l) else none

/-- A route entry from a run: the destination's latest entry with the items given in place. -/
def State.routeRun (s : State) (q : Params) (d en src gain ramp dith : Nat) : TblEntry :=
  let b := s.entryBase 0 d
  let e := ((Params.val? q en).map (fun v => decide (v = 1))).getD (eEn b.w0)
  let dh := (Params.val? q dith).getD (b.w0 / 2 ^ 30 % 2)
  ⟨0, d, (if e then 2 ^ 31 else 0) + dh * 2 ^ 30 + (Params.val? q src).getD (eSrc b.w0),
    ((Params.val? q gain).getD b.w1) % 2 ^ 24, (Params.val? q ramp).getD b.w2, false, none⟩

/-- ROUTE_SET: Destination; source; gain; ramp; DITHER. -/
def routeSetParams : List PSpec :=
  [prep 1 2 0 6151, prep 2 2 0 8191, { psig 3 4 24 with rep := true }, prep 4 2 0 1023, prep 5 1 0 1]

/-- GAIN_SET: Kind; index; gain; ramp. -/
def gainSetParams : List PSpec := [prep 1 1 0 1, prep 2 2 0 16383, { psig 3 4 24 with rep := true }, prep 4 2 0 1023]

/-- ROUTE_CLEAR: Destination; ramp. -/
def routeClearParams : List PSpec := [prep 1 2 0 6151, prep 2 2 0 1023]

def directSchema (op : Nat) : List PSpec :=
  if op = 0x0601 then routeSetParams else if op = 0x0602 then gainSetParams else routeClearParams

/-- One entry of a direct opcode: none where an item it needs is missing or an index lies outside its table. -/
def State.directEntry (s : State) (op : Nat) (q : Params) : Option TblEntry :=
  let d := Params.val q 1
  if op = 0x0601 then
    let e := s.routeRun q d 99 2 3 4 5
    some { e with w0 := if eEn e.w0 then e.w0 else e.w0 + 2 ^ 31 }
  else if op = 0x0602 then
    let i := Params.val q 2
    if !(Params.has q 2) || decide (tblLimit d ≤ i) then none
    else
      let b := s.entryBase d i
      some { b with w1 := ((Params.val? q 3).getD b.w1) % 2 ^ 24, w2 := (Params.val? q 4).getD b.w2, clear := false, moved := none }
  else
    let b := s.entryBase 0 d
    some { b with w2 := (Params.val? q 2).getD b.w2, clear := true }

/-- The entries of a direct opcode, or the reply that refuses them: 1 to 16 of them. -/
def State.directEntries (s : State) (r : Req) (op : Nat) (p : Params) : Reply ⊕ List TblEntry :=
  match s.refuses r op (directSchema op) p, entryRuns ((directSchema op).map PSpec.ty) p with
  | some e, _ => .inl e
  | none, none => .inl (Reply.err Status.badParam)
  | none, some runs =>
    if runs.length = 0 ∨ 16 < runs.length then .inl (Reply.err Status.badParam)
    else
      let es := runs.map (s.directEntry op)
      if es.all Option.isSome then .inr ((es.filterMap id).foldl putEntry []) else .inl (Reply.err Status.badParam)

/-- Every run has all its items in the listed order (R279). -/
def directOrder (op : Nat) (p : Params) : Bool :=
  match entryRuns ((directSchema op).map PSpec.ty) p with
  | some runs => runs.all (fun q => q.map Tlv.ty == (directSchema op).map PSpec.ty)
  | none => false

/-- A request that the hardware fast path carries (R370). -/
def State.isFast (s : State) (r : Req) : Bool :=
  r.direct && !r.ordered && !r.fence && !r.all && r.device == s.ownIndex

/-- The tables with the commits that wait applied: what the engine checks its commands against (R276). -/
def State.future (s : State) : State := s.anvil.commits.foldl (fun s c => s.applyEntries s c.entries) s

/-- The fast path (R279): every entry is checked first; the entries form one commit of the DIRECT list. One that R262 will refuse completes its command with
INTERNAL (R276): the reply leaves before the commit is applied, so that the tables in force by then are looked at now. -/
def State.fastPath (s : State) (op : Nat) (r : Req) (p : Params) : State :=
  let s := s.count CMD.DIRECT
  match s.directEntries r op p with
  | .inl e => s.finish r op e
  | .inr es =>
    let held := ((s.anvil.commits.filter (fun c => c.list == 2)).map (fun c => c.entries.length)).sum
    if !directOrder op p then s.finish r op (Reply.err Status.badParam)
    else if 1024 < held + es.length then s.finish r op (Reply.err Status.noResource)
    else
      let n := s.duePass
      let f := s.future
      let ok := (f.applyEntries f es).tblCheck.1 == 0
      let s := s.addCommit 2 r.channel es [] none
      if ok then (s.count ANVIL.DIRECT_OPS).finish r op (Reply.ok (le 8 n)) else s.finish r op (Reply.err Status.internal)

/-- The same opcode carried out by the firmware: the reply waits for the commit. -/
def State.slowPath (s : State) (op : Nat) (r : Req) (p : Params) : State :=
  match s.directEntries r op p with
  | .inl e => s.finish r op e
  | .inr es => s.addCommit 1 r.channel es [] (some ⟨r.channel, r.tag, op, Reply.ok (le 8 s.duePass)⟩)

/-- ROUTE_SET (R279). -/
def execRouteSet (r : Req) (p : List Tlv) (s : State) : Out :=
  .next (if s.isFast r then s.fastPath 0x0601 r p else s.slowPath 0x0601 r p)

/-- GAIN_SET (R279). -/
def execGainSet (r : Req) (p : List Tlv) (s : State) : Out :=
  .next (if s.isFast r then s.fastPath 0x0602 r p else s.slowPath 0x0602 r p)

/-- ROUTE_CLEAR (R279). -/
def execRouteClear (r : Req) (p : List Tlv) (s : State) : Out :=
  .next (if s.isFast r then s.fastPath 0x0603 r p else s.slowPath 0x0603 r p)

/-- DIRECT_FAST_PATH (R279, R370): a direct request is carried by the hardware fast path. -/
def execDirectFastPath (opcode : Nat) (r : Req) (p : List Tlv) (s : State) : Out :=
  .next (if 0x0601 ≤ opcode ∧ opcode ≤ 0x0603 ∧ s.isFast r then s.fastPath opcode r p else s)

/-! ## BUS_SET and FABRIC_LOAD (R278, R287) -/

/-- Ranges of the term pool that buses other than b hold: bus, base, count, by rising base (assumption 15). -/
def State.heldRanges (s : State) (b : Nat) : List (Nat × Nat × Nat) :=
  let l := ((List.range 256).filter (fun o => o != b && s.get (BUS.TERM_COUNT o) != 0)).map
    (fun o => (o, s.get (BUS.TERM_BASE o), s.get (BUS.TERM_COUNT o)))
  l.mergeSort (fun x y => decide (x.2.1 ≤ y.2.1))

/-- The lowest free range of n entries. -/
def freeRange (n : Nat) : Nat → List (Nat × Nat × Nat) → Option Nat
  | a, [] => if a + n ≤ 16384 then some a else none
  | a, (_, b, c) :: t => if a + n ≤ b then some a else freeRange n (max a (b + c)) t

/-- Move every range down as far as it goes: the entries that do so, and the first free entry. -/
def packRanges (s : State) : Nat → List (Nat × Nat × Nat) → List TblEntry × Nat
  | a, [] => ([], a)
  | a, (o, b, c) :: t =>
    let (es, e) := packRanges s (a + c) t
    if a = b then (es, e)
    else
      let terms := (List.range c).map (fun k => (⟨1, a + k, 0, 0, 0, false, some (b + k)⟩ : TblEntry))
      let w := s.tblWord 2 o 0
      (List.flatten [terms, [⟨2, o, w - b + a, 0, 0, false, none⟩], es], e)

/-- BUS_SET: Bus; EN; TIER; then runs of source, gain and ramp. -/
def busSetParams : List PSpec :=
  [preq 1 1 0 255, popt 2 1 0 1, popt 3 1 0 3, prep 4 2 0 8191, { psig 5 4 24 with rep := true }, prep 6 2 0 1023]

/-- A term from its run: an absent gain or ramp keeps that of the entry `b` (R287). -/
def termRun (i : Nat) (b : TblEntry) (q : Params) : TblEntry :=
  ⟨1, i, (Params.val? q 4).getD (eSrc b.w0), ((Params.val? q 5).getD b.w1) % 2 ^ 24, (Params.val? q 6).getD b.w2, false, none⟩

/-- The entries of a BUS_SET: no term TLV keeps the terms; otherwise the bus keeps its range if it suffices, takes a free one, or
other ranges move (R287). -/
def State.busEntries (s : State) (p : Params) (runs : List (List Tlv)) : Reply ⊕ List TblEntry :=
  let b := Params.val p 1
  let w := s.tblWord 2 b 0
  let en := ((Params.val? p 2).map (fun v => decide (v = 1))).getD (eEn w)
  let tier := (Params.val? p 3).getD (s.get (BUS.TIER b))
  let word := fun (base cnt : Nat) => (if en then 2 ^ 31 else 0) + tier * 2 ^ 24 + cnt * 2 ^ 16 + base
  let bus := fun (base cnt : Nat) => (⟨2, b, word base cnt, 0, 0, false, none⟩ : TblEntry)
  let n := runs.length
  if n = 0 then .inr [bus (s.get (BUS.TERM_BASE b)) (s.get (BUS.TERM_COUNT b))]
  else if 64 < n then .inl (Reply.errAt Status.badParam p 4)
  else
    -- the kth term was the bus's kth, or the pool's entry where it had none
    let old := fun (base k : Nat) => s.entryNow 1 (if k < s.get (BUS.TERM_COUNT b) then s.get (BUS.TERM_BASE b) + k else base + k)
    let place := fun (base : Nat) (moves : List TblEntry) =>
      Sum.inr (List.flatten [moves, runs.zipIdx.map (fun x => termRun (base + x.2) (old base x.2) x.1), [bus base n]])
    let held := s.heldRanges b
    if n ≤ s.get (BUS.TERM_COUNT b) then place (s.get (BUS.TERM_BASE b)) []
    else match freeRange n 0 held with
      | some a => place a []
      | none =>
        let (moves, a) := packRanges s 0 held
        if 16384 < a + n then .inl (Reply.err Status.noResource) else place a moves

/-- BUS_SET (R287): the other ranges that move do so in the same commit, or, where that takes more than 1,024 entries, in the commits before it
(DESIGN CHOICE, assumption 118). -/
def execBusSet (r : Req) (p : List Tlv) (s : State) : Out :=
  match s.refuses r 0x0604 busSetParams p, entryRuns [4, 5, 6] p with
  | some e, _ => .next (s.finish r 0x0604 e)
  | none, none => .next (s.finish r 0x0604 (Reply.err Status.badParam))
  | none, some runs =>
    let f := s.future
    match f.busEntries p runs with
    | .inl e => .next (s.finish r 0x0604 e)
    | .inr es =>
      if (f.applyEntries f es).tblCheck.1 ≠ 0 then .next (s.finish r 0x0604 (Reply.err Status.badParam))
      else .next (s.addCommit 1 r.channel (cutEntries es).1 (cutEntries es).2 (some ⟨r.channel, r.tag, 0x0604, Reply.ok []⟩))

/-- FABRIC_LOAD: runs of destination, EN, source, gain, ramp and DITHER (R278). -/
def execFabricLoad (r : Req) (p : List Tlv) (s : State) : Out :=
  let sch := [prep 1 2 0 6151, prep 2 1 0 1, prep 3 2 0 8191, { psig 4 4 24 with rep := true }, prep 5 2 0 1023, prep 6 1 0 1]
  match s.refuses r 0x0605 sch p, entryRuns [1, 2, 3, 4, 5, 6] p with
  | some e, _ => .next (s.finish r 0x0605 e)
  | none, none => .next (s.finish r 0x0605 (Reply.err Status.badParam))
  | none, some runs =>
    let es := runs.map (fun q => s.routeRun q (Params.val q 1) 2 3 4 5 6)
    let res : Result := ⟨r.channel, r.tag, 0x0605, Reply.ok []⟩
    if es = [] then .next (s.post res)
    else if es.length ≤ 1024 then .next (s.addCommit 1 r.channel (es.foldl putEntry []) [] (some res))
    else if r.atomic then .next (s.finish r 0x0605 (Reply.err Status.badLength))
    else .next (s.addCommit 1 r.channel (es.take 1024) (es.drop 1024) (some res))

/-- FABRIC_GET: Table; first index; count. -/
def execFabricGet (r : Req) (p : List Tlv) (s : State) : Out :=
  runCmd 0x0606 [preq 1 1 0 2, preq 2 2 0 16383, preq 3 2 1 256] (fun p s =>
    let (t, f, n) := (Params.val p 1, Params.val p 2, Params.val p 3)
    if tblLimit t < f + n then (Reply.errAt Status.badParam p 2, s)
    else (Reply.ok ((List.range n).flatMap (fun k => (List.range 4).flatMap (fun w => le 4 (s.tblWord t (f + k) w)))), s)) r p s

/-! ## Alignment groups (R208, R268, R269) -/

/-- An enabled receive stream of group g. -/
def State.groupStreams (s : State) (g : Nat) : List Nat := (s.streams 0).filter (fun i => s.get (RXE.GROUP i) == g)

/-- ALIGN_SET: Group; D. A change accepted and not yet started counts as switching (assumption 16). -/
def execAlignSet (r : Req) (p : List Tlv) (s : State) : Out :=
  runCmd 0x0607 [preq 1 1 0 63, preq 2 2 0 0xFFFF] (fun p s =>
    let (g, d) := (Params.val p 1, Params.val p 2)
    if d < 3 ∨ s.d80 < d then (Reply.errAt Status.badParam p 2, s)
    else if s.d20 < d ∧ 512 < s.units 0 then (Reply.err Status.noResource, s)
    else if s.anvil.align.any (fun a => a.group == g) then (Reply.err Status.notInState, s)
    else if (s.groupStreams g).any (fun i => match s.rxRun i with
        | some x => decide (x.ring.len < d + s.get (RXE.EARLY_WIN i) + 2)
        | none => false) then (Reply.err Status.notInState, s)
    else
      let a : AlignRun := ⟨g, s.get (ANVIL.ALIGN_D g), d, s.duePass, none⟩
      (Reply.ok [], { s with anvil := { s.anvil with align := s.anvil.align ++ [a] } }.set (ANVIL.ALIGN_D_TARGET g) d)) r p s

/-- CONCEAL_SET: Stream; MODE; CONC_LEN; RESUME_LEN. -/
def execConcealSet (r : Req) (p : List Tlv) (s : State) : Out :=
  runCmd 0x0608 [preq 1 2 0 511, popt 2 1 0 3, popt 3 2 0 1023, popt 4 2 0 1023] (fun p s =>
    let i := Params.val p 1
    (Reply.ok [], writeFlds s p [⟨2, ANVIL.CONC_MODE i, .pass⟩, ⟨3, ANVIL.CONC_LEN i, .pass⟩, ⟨4, ANVIL.CONC_RESUME_LEN i, .pass⟩])) r p s

/-- GEN_SET: Generator; EN; TYPE; INC; AMPL; PERIOD. -/
def execGenSet (r : Req) (p : List Tlv) (s : State) : Out :=
  runCmd 0x0609 [preq 1 1 0 15, popt 2 1 0 1, popt 3 1 0 7, popt 4 4 0 0xFFFFFFFF, psig 5 4 24, popt 6 2 0 0xFFFF] (fun p s =>
    let g := Params.val p 1
    (Reply.ok [], writeFlds s p [⟨2, ANVIL.GEN_EN g, .pass⟩, ⟨3, ANVIL.GEN_TYPE g, .pass⟩, ⟨4, ANVIL.GEN_INC g, .pass⟩,
      ⟨5, ANVIL.GEN_AMPL g, .pass⟩, ⟨6, ANVIL.GEN_PERIOD g, .pass⟩])) r p s

end Sys2Proof.Machine
end

