-- ==== Sys2Proof/Machine/Anvil.lean ====
section
/-! DEFINITION. Anvil's pass (chapter 08): network sources with concealment and fades (R256, R269 to R271), generators (R264 to R267),
buses and routes (R258 to R263), saturation (R273), the residue check and the arithmetic units (R280 to R285), and their
commands (R287). -/

namespace Sys2Proof.Machine

/-! ## Network sources (R269 to R271) -/

/-- A factor j ÷ n in Q3.20, ties away from zero. -/
def factor (j n : Nat) : Int := divRound ((j * 1048576 : Nat) : Int) n

/-- The value of hole pass j, v being the value last loaded (R270). -/
def concealed (mode len j : Nat) (v : Int) : Int :=
  if len = 0 then 0
  else if mode = 1 then (if j ≤ len then v else 0)
  else if mode = 2 then (if j < len then (mulGain v (factor (len - j) len)).1 else 0)
  else 0

/-- What one phase of a stream loads: its values by channel, hole and resumption counts (R270, R271). -/
def loadPhase (mode len rlen hole : Nat) (resume : Option Nat) (last : List Int) (f : Option (List Int)) :
    List Int × Nat × Option Nat :=
  match f with
  | none => (last.map (concealed mode len (hole + 1)), hole + 1, none)
  | some vs =>
    let j := match resume with
      | some j => j + 1
      | none => 1
    if (0 < hole ∨ resume.isSome) ∧ j < rlen then (vs.map (fun v => (mulGain v (factor j rlen)).1), 0, some j)
    else (vs, 0, none)

/-- The values of phase j of a list of slots, k phases to a channel. -/
def phaseOf (k j : Nat) (l : List Int) : List Int := (List.range (l.length / k)).map (fun c => nth l (k * c + j) 0)

/-- Slots again from the values of each phase. -/
def mergePhases (k ch : Nat) (ps : List (List Int)) : List Int :=
  (List.range (ch * k)).map (fun x => nth (nth ps (x % k) []) (x / k) 0)

/-- A stream's slots of a pass, and its concealment after it. -/
def State.loadStream (s : State) (f : NetFrame) : List Int × ConcRun :=
  let e := s.entry 0 f.stream
  let k := e.k
  let c := (s.anvil.conc.find? (fun c => c.stream == f.stream)).getD
    ⟨f.stream, List.replicate k 0, List.replicate k none, List.replicate (e.ch * k) 0⟩
  let ps := (List.range k).map (fun j => loadPhase (s.get (ANVIL.CONC_MODE f.stream)) (s.get (ANVIL.CONC_LEN f.stream))
    (s.get (ANVIL.CONC_RESUME_LEN f.stream)) (nth c.hole j 0) (nth c.resume j none) (phaseOf k j c.last) (nth f.frames j none))
  let slots := mergePhases k e.ch (ps.map Prod.fst)
  let keep := (List.range (e.ch * k)).map (fun x => if (nth f.frames (x % k) none).isSome then nth slots x 0 else nth c.last x 0)
  (slots, ⟨f.stream, ps.map (fun p => p.2.1), ps.map (fun p => p.2.2), keep⟩)

/-- The fade factor of a group in pass n (R269). -/
def State.fade (s : State) (g n : Nat) : Int :=
  match s.anvil.align.find? (fun a => a.group == g) with
  | some a => match a.start with
    | some p => if n < p then unity else if n ≤ p + 31 then factor (31 - (n - p)) 32 else if n ≤ p + 62 then factor (n - p - 31) 32 else unity
    | none => unity
  | none => unity

/-- ALIGN_DONE of a group (R269). -/
def State.alignDone (s : State) (a : AlignRun) : State :=
  (s.set (ANVIL.ALIGN_D a.group) a.new).signalRise ANVIL.INT ANVIL.INT_EN ANVIL.INT_ALIGN_DONE 0x0606 11 a.group
    (le 2 a.old ++ le 2 a.new)

/-- Put a group's change. -/
def State.setAlign (s : State) (a : AlignRun) : State :=
  { s with anvil := { s.anvil with align := s.anvil.align.map (fun o => if o.group = a.group then a else o) } }

def State.dropAlign (s : State) (g : Nat) : State :=
  { s with anvil := { s.anvil with align := s.anvil.align.filter (fun o => o.group != g) } }

/-- The step of one group's change in pass n (R269). -/
def State.alignStep (n : Nat) (s : State) (a : AlignRun) : State :=
  match a.start with
  | none =>
    if a.due ≤ n then
      if (s.groupStreams a.group).isEmpty then (s.dropAlign a.group).alignDone a
      else (s.setAlign { a with start := some n }).set (ANVIL.ALIGN_SWITCHING a.group) 1
    else s
  | some p =>
    let s := if p + 32 ≤ n then s.set (ANVIL.ALIGN_D a.group) a.new else s
    if p + 63 ≤ n then ((s.dropAlign a.group).set (ANVIL.ALIGN_SWITCHING a.group) 0).alignDone a else s

/-- The changes of every group in pass n; SWITCHING follows. -/
def State.alignPass (s : State) (n : Nat) : State :=
  let s := s.anvil.align.foldl (State.alignStep n) s
  s.setOn ANVIL.STATUS_SWITCHING (s.anvil.align.any (fun a => a.start.isSome))

/-- The network sources of pass n: concealment, then the group's fade. -/
def State.netSources (s : State) (n : Nat) : List (Nat × Int) × State :=
  let fs := s.anvil.net.filter (fun f => f.pass == n)
  let ls := fs.map (fun f => (f, s.loadStream f))
  let vals := ls.flatMap (fun x =>
    let e := s.entry 0 x.1.stream
    let g := s.fade (s.get (RXE.GROUP x.1.stream)) n
    (x.2.1.map (fun v => if g = unity then v else (mulGain v g).1)).zipIdx.map (fun y => (e.slot + y.2, y.1)))
  let rest := s.anvil.conc.filter (fun c => !(fs.any (fun f => f.stream == c.stream)))
  (vals, { s with anvil := { s.anvil with net := s.anvil.net.filter (fun f => decide (n < f.pass)),
                                          conc := rest ++ ls.map (fun x => x.2.2) } })

/-! ## Generators (R264 to R267) -/

/-- 2^128 × π, cut. -/
def piQ : Nat := 0x3243F6A8885A308D313198A2E03707344

/-- Sine of x × 2^−128 by its series, terms from i on, t being the term in hand (x ≤ π ÷ 2). -/
def sinSeries (x : Int) : Nat → Nat → Int → Int
  | 0, _, _ => 0
  | n + 1, i, t =>
    let t' := -(t * x / ((2 ^ 128 : Nat) : Int) * x / ((2 ^ 128 : Nat) : Int)) / (((2 * i) * (2 * i + 1) : Nat) : Int)
    t + sinSeries x n (i + 1) t'

/-- The integer nearest to 2^30 × sin(2π × φ ÷ 2^32), ties away from zero (R264). -/
def sineQ30 (phase : Nat) : Int :=
  let q := phase / 2 ^ 30 % 4
  let r := phase % 2 ^ 30
  let a := if q % 2 = 0 then r else 2 ^ 30 - r
  let x : Int := ((piQ * a / 2 ^ 31 : Nat) : Int)
  let v := divRound (sinSeries x 24 1 x) (2 ^ 98)
  if q < 2 then v else -v

/-- A draw of 24 bits, centred (R267). -/
def draw24 (seed t x i m : Nat) : Int := ((hashH seed t x i m / 2 ^ 40 : Nat) : Int) - 8388608

/-- The value of generator g in pass n (R264). -/
def State.generator (s : State) (g n : Nat) : Int :=
  let a := s.geti (ANVIL.GEN_AMPL g)
  let seed := s.seed
  if !s.on (ANVIL.GEN_EN g) then 0
  else match s.get (ANVIL.GEN_TYPE g) with
    | 1 => sat40 (divRound (a * sineQ30 (n * s.get (ANVIL.GEN_INC g) % 2 ^ 32)) (2 ^ 18))
    | 2 => sat40 (divRound (a * draw24 seed 1 g 0 n) (2 ^ 11))
    | 3 =>
      let k := ((List.range 16).map (fun j => draw24 seed 1 g j (if j = 0 then n else (n + 2 ^ (j - 1)) / 2 ^ j))).sum
      sat40 (divRound (a * k) (2 ^ 15))
    | 4 => if n % atLeast1 (s.get (ANVIL.GEN_PERIOD g)) = 0 then sat40 (a * 4096) else 0
    | _ => 0

/-! ## Ramps (R260) -/

/-- The gain of a ramp in its next pass. -/
def RampRun.gain (r : RampRun) : Int :=
  if r.n ≤ r.k + 1 then r.g1 else divRound (r.g0 * (r.n : Int) + (r.g1 - r.g0) * ((r.k + 1 : Nat) : Int)) r.n

/-- One pass of a ramp: GAIN_NOW of its route or term, the second half of a dip, and the end of a cleared route. -/
def State.rampStep (s : State) (r : RampRun) : State :=
  let done := decide (r.n ≤ r.k + 1)
  let s := s.set (if r.index < 8192 then ROUTE.GAIN_NOW r.index else TERM.GAIN_NOW (r.index - 8192)) (ofSigned 24 r.gain)
  if done then
    match r.dip with
    | some (src, g, n) => (s.set (ROUTE.SRC r.index) src).putRamp r.index (some ⟨r.index, 0, g, n, 0, none, r.clear⟩)
    | none =>
      let s := s.putRamp r.index none
      if r.clear then (s.set (ROUTE.EN r.index) 0).set (ROUTE.GAIN_NOW r.index) 0 else s
  else s.putRamp r.index (some { r with k := r.k + 1 })

/-! ## Buses and routes (R258, R261 to R263, R273) -/

/-- The gain in force of route d or term 8192 + i in this pass. -/
def State.gainNow (s : State) (x : Nat) : Int :=
  match s.ramp x with
  | some r => r.gain
  | none => if x < 8192 then s.geti (ROUTE.GAIN_NOW x) else s.geti (TERM.GAIN_NOW (x - 8192))

/-- The value of a source slot: silence in a row that failed its seal, and where nothing is listed. -/
def srcVal (failed : List Nat) (vals : List (Nat × Int)) (slot : Nat) : Int :=
  if failed.contains (slot / 64) then 0
  else match vals.find? (fun v => v.1 == slot) with
    | some v => v.2
    | none => 0

/-- The output of bus b, and whether a product or the sum saturated. -/
def State.busOut (s : State) (failed : List Nat) (vals : List (Nat × Int)) (b : Nat) : Int × Bool :=
  let ps := (s.busTerms b).map (fun i => mulGain (srcVal failed vals (s.get (TERM.SRC i))) (s.gainNow (8192 + i)))
  let acc := (ps.map Prod.fst).sum
  (sat40 acc, ps.any Prod.snd || decide (sat40 acc ≠ acc))

/-- A sticky clip bit rises: INT.CLIP and event 0x0607 (R273, R286). -/
def State.clip (s : State) (f : Fld) (bit kind x cnt : Nat) : State :=
  if s.bit f bit then s
  else
    (s.setBit f bit true).signalRiseHeld ANVIL.INT ANVIL.INT_EN ANVIL.INT_CLIP 0x0607 11 0
      (s.get ANVIL.CTRL_EVT_HOLDOFF * 1000 * cyclesPerUs) ([BitVec.ofNat 8 kind, 0] ++ le 2 x ++ le 4 cnt)

/-- A bus output saturated. -/
def State.satBus (s : State) (b : Nat) : State :=
  let s := s.count ANVIL.SAT_BUS
  s.clip (ANVIL.BUS_CLIP (b / 32)) (b % 32) 0 b (s.get ANVIL.SAT_BUS)

/-- A route's product saturated. -/
def State.satRoute (s : State) (d : Nat) : State :=
  let s := s.count ANVIL.SAT_ROUTE
  s.clip (ANVIL.DEST_CLIP (d / 64 / 32)) (d / 64 % 32) 1 (d / 64) (s.get ANVIL.SAT_ROUTE)

/-! ## The arithmetic units (R280 to R285) -/

/-- Unit u carries logical unit j. -/
def State.carryUnit (s : State) (u j : Nat) : State :=
  ((s.set (ANVIL.MU_ROLE u) 0).set (ANVIL.MU_LUNIT u) j).set (ANVIL.UNIT_MAP j) u

/-- STATUS.SPARE_OK follows. -/
def State.unitStatus (s : State) : State := s.setOn ANVIL.STATUS_SPARE_OK (s.spareOf 2).isSome

/-- STOPPED changes (R284, R286). -/
def State.runState (s : State) (stop : Bool) : State :=
  if s.on ANVIL.STATUS_STOPPED = stop then s
  else (s.setOn ANVIL.STATUS_STOPPED stop).signalRise ANVIL.INT ANVIL.INT_EN ANVIL.INT_RUN_STATE 0x0603 11 0
    [if stop then 1 else 0, BitVec.ofNat 8 (s.get ANVIL.STATUS_WORKING)]

/-- W decreases: the unit that carried the highest logical unit takes the one that lost its unit (assumption 17). -/
def State.dropUnit (s : State) (j : Nat) : State :=
  let w := s.get ANVIL.STATUS_WORKING
  let top := s.get (ANVIL.UNIT_MAP (w - 1))
  let s := if j = w - 1 then s else s.carryUnit top j
  (s.set (ANVIL.UNIT_MAP (w - 1)) 0x1F).set ANVIL.STATUS_WORKING (w - 1)

/-- Unit u is declared failed, carrying logical unit `was` where it is given; `lost` values of this pass are replaced by silence (R283, R284). -/
def State.unitFailAs (s : State) (u cause lost : Nat) (was : Option Nat) : State :=
  let role := s.get (ANVIL.MU_ROLE u)
  if 16 < u ∨ role = 4 then s
  else
    let j := s.get (ANVIL.MU_LUNIT u)
    let lj := if role = 0 then was.getD j else 0xFF
    let s := if role = 0 then s else s.preempt 2 u 5
    let s := ((s.set (ANVIL.MU_ROLE u) 4).set (ANVIL.MU_LUNIT u) 0).count (ANVIL.MU_FAULTS u)
    let s := s.quarantine 2 u cause
    let (out, s) :=
      if role ≠ 0 then (3, s)
      else match s.spareOf 2 with
        | some v => (0, (s.preempt 2 v 4).carryUnit v j)
        | none =>
          let s := s.dropUnit j
          (if s.get ANVIL.STATUS_WORKING < 8 then 2 else 1, s)
    let s := ((s.set ANVIL.LASTF_CAUSE cause).set ANVIL.LASTF_LUNIT lj).set ANVIL.LASTF_UNIT u
    let s := (s.set ANVIL.FAULT_TIME s.shortTime).unitStatus
    let detail := [BitVec.ofNat 8 u, BitVec.ofNat 8 lj, BitVec.ofNat 8 cause, BitVec.ofNat 8 out] ++ le 4 lost
    let s := s.faultEvent 0x0601 11 u detail
    let s := s.signal ANVIL.INT ANVIL.INT_EN ANVIL.INT_MU_FAULT 0x0601 11 u detail
    (s.runState (decide (s.get ANVIL.STATUS_WORKING < 8))).pauseCheck 2

/-- Unit u is declared failed. -/
def State.unitFail (s : State) (u cause lost : Nat) : State := s.unitFailAs u cause lost none

/-- MU_FAILURE (R283, R284): a unit is found failed between two passes. -/
def execMuFailure (u cause : Nat) (s : State) : Out :=
  .next (if 1 ≤ cause ∧ cause ≤ 4 then s.unitFail u cause 0 else s)

/-- Logical unit j moves to the spare between two passes, at most once in each gap (R282). -/
def State.startUnit (s : State) (j : Nat) : State :=
  match s.spareOf 2 with
  | some v =>
    let u := s.get (ANVIL.UNIT_MAP j)
    if j < 16 ∧ u ≠ 0x1F ∧ s.role 2 v = 1 ∧ s.anvil.handed ≠ some s.nextPass then
      let s : State := { s with anvil := { s.anvil with handed := some s.nextPass } }
      (((s.carryUnit v j).set (ANVIL.MU_ROLE u) 1).set (ANVIL.MU_LUNIT u) 0).vacated 2 u
    else s
  | none => s

/-- MU_HANDOVER (R282). -/
def execMuHandover (j : Nat) (s : State) : Out := .next (s.startUnit j)

/-- MU_QUARANTINE: Unit (R283, cause 4). -/
def execMuQuarantine (r : Req) (p : List Tlv) (s : State) : Out :=
  runCmd 0x060B [preq 1 1 0 16] (fun p s =>
    let u := Params.val p 1
    if s.role 2 u = 4 then (Reply.err Status.notInState, s) else (Reply.ok [], s.unitFail u 4 0)) r p s

/-- MU_RELEASE: Unit (R285). -/
def execMuRelease (r : Req) (p : List Tlv) (s : State) : Out :=
  runCmd 0x060C [preq 1 1 0 16] (fun p s =>
    let u := Params.val p 1
    if s.role 2 u ≠ 4 ∨ !s.inService ∨ !s.passedSinceQ 2 u then (Reply.err Status.notInState, s)
    else
      let w := s.get ANVIL.STATUS_WORKING
      let ev := fun (s : State) (role lu : Nat) =>
        (s.unitStatus.signalRise ANVIL.INT ANVIL.INT_EN ANVIL.INT_MU_RELEASED 0x0602 11 u [BitVec.ofNat 8 role, BitVec.ofNat 8 lu]).pauseCheck 2
      if w < 16 then
        let s := ((s.unquarantine 2 u).carryUnit u w).set ANVIL.STATUS_WORKING (w + 1)
        (Reply.ok [], (ev s 0 w).runState (decide (w + 1 < 8)))
      else if (s.spareOf 2).isSome then (Reply.err Status.noResource, s)
      else (Reply.ok [], ev ((s.unquarantine 2 u).set (ANVIL.MU_ROLE u) 1) 1 0xFF)) r p s

/-- ANVIL_STATUS_GET: CLEAR. -/
def execAnvilStatusGet (r : Req) (p : List Tlv) (s : State) : Out :=
  runCmd 0x060A [popt 1 1 0 1] (fun p s =>
    let w := fun (o : Nat) => le 4 (s.word ANVIL.fields (0x140000 + o))
    let words := fun (b n : Nat) => (List.range n).flatMap (fun i => w (b + 4 * i))
    let pay := List.flatten [w 4, words 0x200 4, words 0x100 17, w 0x210, w 0x214, words 0x40 7, words 0x80 8, words 0xA0 4]
    let zero := fun (s : State) => { s with regs := (s.regs.resetRange (0x140040 * 32) (0x14005C * 32)).resetRange (0x140080 * 32) (0x1400B0 * 32) }
    (Reply.ok pay, if Params.val p 1 = 1 then zero s else s)) r p s

/-! ## Residue mismatches (R281, R283, R284) -/

/-- Results of the pass that are silence by a residue check or a unit's failure: a failure is a logical unit, the result at which it was
detected and its cause. -/
structure Residue where
  silent : List Nat
  dead : List (Nat × Nat × Nat)

/-- A result's logical unit: destination d is computed by d mod W; a bus b, index 8192 + b, is taken as delivered by b mod W
(assumption 18). -/
def logicalOf (w x : Nat) : Nat := x % 8192 % w

/-- Result y is delivered after result x: buses come before destinations. -/
def laterThan (x y : Nat) : Bool := if x < 8192 then decide (y < 8192 ∧ x < y) else decide (y < 8192 ∨ x < y)

/-- Result y is silence. -/
def Residue.mute (w : Nat) (r : Residue) (y : Nat) : Bool :=
  r.silent.contains y || r.dead.any (fun z => z.1 == logicalOf w y && laterThan z.2.1 y)

/-- The residue of result x does not match: it is silence; ARITH_FAULT_N of them in 1 ms fail the unit, whose later results of
this pass are silence too. -/
def State.residue (w : Nat) (a : Residue × State) (x : Nat) : Residue × State :=
  let (r, s) := a
  let j := logicalOf w x
  if r.mute w x then (r, s)
  else
    let u := s.get (ANVIL.UNIT_MAP j)
    let s := s.count ANVIL.ARITH_ERR
    let l := s.anvil.arith.filter (fun y => decide (s.cycles < y.2 + 1000 * cyclesPerUs)) ++ [(u, s.cycles)]
    let s := { s with anvil := { s.anvil with arith := l } }
    let s := s.signalRiseHeld ANVIL.INT ANVIL.INT_EN ANVIL.INT_ARITH 0x0604 11 j
      (s.get ANVIL.CTRL_EVT_HOLDOFF * 1000 * cyclesPerUs) (le 4 (s.get ANVIL.ARITH_ERR))
    let n := s.get ANVIL.CTRL_ARITH_FAULT_N
    let fails := decide (n ≠ 0 ∧ n ≤ (l.filter (fun y => y.1 == u)).length)
    (⟨r.silent ++ [x], if fails then r.dead.filter (fun z => z.1 != j) ++ [(j, x, 1)] else r.dead⟩, s)

/-- A unit found failed within the pass as it was about to deliver result x, which is silence too (R284): one that carries a logical unit. -/
def State.foundDead (s : State) (f : Nat × Nat × Nat) : Option (Nat × Nat × Nat) :=
  if f.1 ≤ 16 ∧ s.get (ANVIL.MU_ROLE f.1) = 0 then some (s.get (ANVIL.MU_LUNIT f.1), f.2.2, f.2.1) else none

/-- The values a unit that failed at result x would still have delivered in the pass. -/
def deadAfter (w j x : Nat) : List Nat := (List.range 6152).filter (fun d => laterThan x d && d % w == j)

/-- The units that failed in the pass, the lower logical unit first (R284): each by the physical unit that carried it as the pass ran. -/
def State.failUnits (w : Nat) (r : Residue) (s : State) : State :=
  let l := (r.dead.mergeSort (fun a b => decide (a.1 ≤ b.1))).map (fun z => (s.get (ANVIL.UNIT_MAP z.1), z))
  let lost := fun (z : Nat × Nat × Nat) => (deadAfter w z.1 z.2.1).length + if z.2.2 ≠ 1 ∧ z.2.1 < 6152 then 1 else 0
  l.foldl (fun s x => s.unitFailAs x.1 x.2.2.2 (lost x.2) (some x.2.1)) s

/-! ## The pass -/

/-- The tiers of buses in order (R263): the sources with the outputs of each tier. -/
def State.runTiers (w : Nat) (failed : List Nat) (res : Residue) : List Nat → List (Nat × Int) → State → List (Nat × Int) × State
  | [], vals, s => (vals, s)
  | t :: ts, vals, s =>
    let outs := (s.buses.filter (fun b => s.get (BUS.TIER b) == t)).map (fun b => (b, s.busOut failed vals b))
    let s := outs.foldl (fun s o => if o.2.2 then s.satBus o.1 else s) s
    s.runTiers w failed res ts (outs.map (fun o => (5120 + o.1, if res.mute w (8192 + o.1) then 0 else o.2.1)) ++ vals)

/-- Check point 2 on the source rows (R246): `damaged` rows do not match their seal; the groups that read as silence. -/
def State.checkSources (damaged : List Nat) : List Nat → State → List Nat × State
  | [], s => ([], s)
  | g :: gs, s =>
    let (fails, _, s) := s.checkSeal 2 g false (damaged.contains g)
    let (fs, s) := s.checkSources damaged gs
    (if fails then g :: fs else fs, s)

/-- A row of transmit staging with its seal (R213, R242). -/
def stageRow (g n : Nat) (vals : List Int) : StageRow := ⟨g, n, vals, blockSeal 3 g n vals⟩

/-- The rows of transmit staging of pass n, silence not listed; rows, uncorrectable words and losses that no packet can reach any more go (R213, R202). -/
def State.stageRows (s : State) (n : Nat) (dest : List (Nat × Int)) : State :=
  let groups := (List.range 32).filter (fun g => dest.any (fun d => d.1 / 64 == g))
  let row := fun (g : Nat) => stageRow g n ((List.range 64).map (fun i => srcVal [] dest (64 * g + i)))
  let live := fun (p : Nat) => decide (n < p + 256) && p != n
  { s with anvil := { s.anvil with stage := s.anvil.stage.filter (fun r => live r.period) ++ groups.map row,
                                   passes := s.anvil.passes.filter live ++ [n],
                                   rowUe := s.anvil.rowUe.filter (fun r => live r.2),
                                   losses := s.anvil.losses.filter (fun l => decide (n < l.upTo + 256)) } }

/-- STAGE and the first part of LOAD (R254): pass-boundary fields and alignment changes take effect, and the network sources of pass n
follow with concealment and fades. -/
def State.loadPass (s : State) (n : Nat) : List (Nat × Int) × State :=
  ((s.boundary .pass (inOffs 0x140000 0x150000)).alignPass n).netSources n

/-- LOAD, BUS, ROUTE and WRITE of pass n (R254) from the staged source values `staged`. `damaged` names source rows that do not
match their seal, `mism` the results whose residue does not match: destination d, or 8192 + b for bus b; `found` the units otherwise found failed. -/
def State.anvilCore (s : State) (n : Nat) (staged : List (Nat × Int)) (damaged mism : List Nat) (found : List (Nat × Nat × Nat)) : State :=
  let w := s.get ANVIL.STATUS_WORKING
  let gens := (List.range 16).map (fun g => (6416 + g, s.generator g n))
  let rows := if s.injecting 2 then List.range 128 else damaged.filter (fun g => decide (g < 128))
  let (failed, s) := s.checkSources damaged rows
  let (res, s) := mism.foldl (State.residue w) (⟨(found.filterMap s.foundDead).map (fun z => z.2.1), found.filterMap s.foundDead⟩, s)
  let vals := staged ++ gens
  let (vals, s) := s.runTiers w failed res [0, 1, 2, 3] vals
  let stopped := s.on ANVIL.STATUS_STOPPED
  let outs := s.routes.map (fun d => (d, mulGain (srcVal failed vals (s.get (ROUTE.SRC d))) (s.gainNow d)))
  let s := if stopped then s else outs.foldl (fun s o => if o.2.2 then s.satRoute o.1 else s) s
  let dest := if stopped then []
    else (outs.filter (fun o => o.2.1 != 0 && !res.mute w o.1)).map (fun o => (o.1, o.2.1))
  let s := s.anvil.ramps.foldl State.rampStep s
  let s := { s with anvil := { s.anvil with dest := dest, ran := some n } }
  let s := ((s.set ANVIL.LAST_PASS_LO n).set ANVIL.LAST_PASS_HI (n / 2 ^ 32)).stageRows n dest
  s.failUnits w res

end Sys2Proof.Machine
end

