-- ==== Sys2Proof/Machine/Tdm.lean ====
section
/-! DEFINITION. Serial audio ports (chapter 09): states, gates and masks (R306 to R310, R312), follower clocks and slip buffers
(R300, R303), the group converter (R305), and the commands of R318. -/

namespace Sys2Proof.Machine

/-! ## Gates (R306, R308) -/

/-- Ask a gate to open or to close from frame f on; a newer change replaces a waiting one (R307). -/
def Gate.ask (g : Gate) (open' : Bool) (f : Nat) : Gate :=
  { g with change := if g.opened = open' then none else some (open', f) }

/-- The slot crosses zero: its sample is 0, or has the opposite sign to the one before. -/
def crosses (prev : Option Int) (x : Int) : Bool :=
  x == 0 || match prev with
    | some y => decide ((0 < x ∧ y < 0) ∨ (x < 0 ∧ 0 < y))
    | none => false

/-- A gate in frame f: a waiting change takes effect at a crossing, or at once where there is no wait. -/
def Gate.frame (g : Gate) (f zc : Nat) (prev : Option Int) (x : Int) : Gate :=
  match g.change with
  | some (t, f0) => if f0 ≤ f ∧ (zc = 0 ∨ crosses prev x) then ⟨t, none⟩ else g
  | none => g

/-- A waiting change that is `zc` frames past its applied frame. -/
def Gate.overdue (g : Gate) (f zc : Nat) : Bool :=
  match g.change with
  | some (_, f0) => decide (zc ≠ 0 ∧ f0 + zc ≤ f)
  | none => false

def Gate.force (g : Gate) : Gate :=
  match g.change with
  | some (t, _) => ⟨t, none⟩
  | none => g

/-- Output gate s is to be open: the port runs and the slot is not muted in force (R308). -/
def State.gateWant (s : State) (x : TdmPort) (p i : Nat) : Bool := x.run && !s.bit (TDM.P_TX_MUTE_NOW p) i

/-- Every gate of a port follows what keeps it open, from frame f on. -/
def State.askGates (s : State) (p : Nat) (x : TdmPort) (f : Nat) : TdmPort :=
  { x with outG := x.outG.zipIdx.map (fun g => g.1.ask (s.gateWant x p g.2) f), inG := x.inG.map (fun g => g.ask x.run f) }

/-- Ask a gate, unless it is already to be so: a change that waits for another cause goes on waiting. -/
def Gate.reask (g : Gate) (open' : Bool) (f : Nat) : Gate :=
  if (match g.change with
    | some (t, _) => t
    | none => g.opened) = open' then g else g.ask open' f

/-- The gates of a port that goes on after a stop open again, from frame f on (R307); one that TX_MUTE keeps closed has no new change. -/
def State.reopenGates (s : State) (p : Nat) (x : TdmPort) (f : Nat) : TdmPort :=
  { x with outG := x.outG.zipIdx.map (fun g => g.1.reask (s.gateWant x p g.2) f), inG := x.inG.map (fun g => g.reask x.run f) }

/-- The mute in force has changed from `was`: the slots it now mutes close, and those it no longer mutes open where nothing else keeps them closed (R308). -/
def State.muteGates (s : State) (p was f : Nat) (x : TdmPort) : TdmPort :=
  let one := fun (g : Gate) (i : Nat) =>
    if s.bit (TDM.P_TX_MUTE_NOW p) i = was.testBit i then g
    else if s.bit (TDM.P_TX_MUTE_NOW p) i then g.ask false f
    else if x.run then g.ask true f else g
  { x with outG := x.outG.zipIdx.map (fun g => one g.1 g.2) }

/-! ## What a frame carries (R302, R303, R310, R312) -/

/-- The sources slot i of port p gives in the frame now on the pins: its sample where its gate passes it and its mask holds
it. -/
def State.inValue (s : State) (p : Nat) (x : TdmPort) (i : Nat) : Int :=
  if (nth x.inG i ⟨false, none⟩).opened && s.bit (TDM.P_RX_MASK_NOW p) i then
    nth (x.curIn.getD []) i 0 * ((2 ^ (33 - s.tdmWl p) : Nat) : Int)
  else 0

/-- Number of the frame now on the pins of a port (R307). -/
def TdmPort.frameNo (x : TdmPort) : Nat := x.next - 1 - x.zero

/-- Put the frame of port p: what SDO carries, with its seal; the input kept for Anvil or the group converter, sealed over the slots in RX_MASK (R242,
R310); ZC_WAIT. -/
def State.putFrame (s : State) (p : Nat) (x : TdmPort) : State :=
  let n := s.tdmSlots p
  let x := { x with sdo := s.sdoOf p x }
  let x := { x with outSeal := frameSeal 6 p x.frameNo (s.tdmWl p) (x.sdo.map (fun v => v.getD 0)) }
  let rest := s.tdm.ins.filter (fun f => !(f.port == p && f.frame == x.frame))
  let codes := (List.range n).map (fun i => if s.bit (TDM.P_RX_MASK_NOW p) i then nth (x.curIn.getD []) i 0 else 0)
  let e : TdmIn := ⟨p, x.frame, (List.range n).map (s.inValue p x), x.bad, x.frameNo, codes, frameSeal 5 p x.frameNo (s.tdmWl p) codes⟩
  let ins := rest ++ [e]
  let s := (s.setTdmPort p x).setOn (TDM.P_ZC_WAIT p) ((x.outG.take n ++ x.inG.take n).any (fun g => g.change.isSome))
  { s with tdm := { s.tdm with ins := ins } }

/-- Phase of the frame that opens now in a MASTER group at multiplier k. -/
def State.phaseNow (s : State) (k : Nat) : Nat := s.ctr * (s.base * k) / ctrPerSec % k

/-- Pass and phase whose destinations the frame of port p carries: on DPLL0 the pass before this base period, behind the
slip buffer what it gives. -/
def State.outFrame (s : State) (p : Nat) : Option (Nat × Nat) :=
  let g := p / 8
  if s.get (TDM.G_MODE g) = 1 then (if s.media = 0 then none else some (s.media - 1, s.phaseNow (s.tdmK g)))
  else (s.tdmGroup g).outNow

/-- The value of destination d in pass n. -/
def State.tdmDest (s : State) (d n : Nat) : Int :=
  match s.tdm.outs.find? (fun o => o.period == n) with
  | some o => srcVal [] o.vals d
  | none => 0

/-- Destination group g does not hold pass n: no pass wrote it for that period, or its values are not those sealed (R241). -/
def State.tdmRowWrong (s : State) (g n : Nat) : Bool :=
  match s.tdm.outs.find? (fun o => o.period == n) with
  | some o => (o.crcs.find? (fun c => c.1 == g)).any (fun c => c.2 != blockSeal 3 g n ((List.range 64).map (fun i => srcVal [] o.vals (64 * g + i))))
  | none => true

/-- Check point 9 on the destination rows of a frame: those that fail. -/
def State.checkOutRows (s : State) (p n : Nat) (damaged : List Nat) : List Nat → List Nat × State
  | [] => ([], s)
  | g :: gs =>
    let (bad, _, s) := s.checkRow 9 p g n false (damaged.contains g || s.tdmRowWrong g n)
    let (fs, s) := s.checkOutRows p n damaged gs
    (if bad then g :: fs else fs, s)

/-- One output sample: the destination of slot i in pass n, converted to WL bits (R46, R272, R273, R311). -/
def State.outSample (s : State) (p n j : Nat) (failed : List Nat) (i : Nat) : Int × State :=
  let k := s.tdmK (p / 8)
  let d := 2048 + 32 * p + k * i + j
  let w := s.tdmWl p
  if failed.contains (d / 64) then (0, s)
  else
    let (o, sat) := toWire w (s.tdmDest d n) (if s.on (ROUTE.DITHER d) then dither s.seed d n w else 0)
    (o, if sat then s.satOut d else s)

def State.outSamples (s : State) (f : State → Nat → Int × State) : List Nat → List Int × State
  | [] => ([], s)
  | i :: is =>
    let (v, s) := f s i
    let (vs, s) := s.outSamples f is
    (v :: vs, s)

/-- Slot i of a port is the output of no route. -/
def State.unrouted (s : State) (p i : Nat) : Bool :=
  let k := s.tdmK (p / 8)
  (List.range k).all (fun j => !s.on (ROUTE.EN (2048 + 32 * p + k * i + j)))

/-- A sample out of the group converter: the spec gives its quality (R304), not its value. A slot with no route sends 0 (R311), and so does one whose
destination row fails check point 9. -/
def State.convSample (p : Nat) (failed : Bool) (s : State) (i : Nat) : Int × State :=
  if failed || s.unrouted p i then (0, s)
  else
    let (v, s) := s.fresh (s.tdmWl p)
    (toSigned (s.tdmWl p) v, s)

/-- The output samples of a frame of port p, before gates and masks. The converter of a group reads the destination row of the pass last run, as the
output converter of the other groups does (DEDUCED, assumption 120). -/
def State.outWords (s : State) (p : Nat) (rows : List Nat) : List Int × State :=
  let n := s.tdmSlots p
  let g := p / 8
  if s.tdmConverts g then
    if s.get (TDM.G_ASRC_STATE g) = 3 then
      let (failed, s) := s.checkOutRows p (s.media - 1) rows [(2048 + 32 * p) / 64]
      s.outSamples (State.convSample p (failed != [])) (List.range n)
    else (List.replicate n 0, s)
  else match s.outFrame p with
    | none => (List.replicate n 0, s)
    | some (m, j) =>
      let k := s.tdmK g
      let gs := ((List.range n).map (fun i => (2048 + 32 * p + k * i + j) / 64)).dedup
      let (failed, s) := s.checkOutRows p m rows gs
      s.outSamples (fun s i => s.outSample p m j failed i) (List.range n)

/-! ## Masks (R309, R310) -/

def maskFld (i p : Nat) : Fld := if i = 0 then TDM.P_RX_MASK p else if i = 1 then TDM.P_TX_MASK p else TDM.P_TX_MUTE p
def maskNow (i p : Nat) : Fld := if i = 0 then TDM.P_RX_MASK_NOW p else if i = 1 then TDM.P_TX_MASK_NOW p else TDM.P_TX_MUTE_NOW p

/-- MASK_PENDING of port p follows. -/
def State.maskPending (s : State) (p : Nat) : State :=
  let b := (s.tdmPort p).pend.any (fun x => x.isSome)
  (s.setOn (TDM.P_MASK_PENDING p) b).setBit TDM.MASK_PENDING p b

/-- A pending mask takes effect in frame f. -/
def State.maskApply (p f : Nat) (s : State) (i : Nat) : State :=
  let x := s.tdmPort p
  match nth x.pend i none with
  | some (.frame f0) =>
    if f0 ≤ f then
      let was := s.get (maskNow i p)
      let s := (s.boundary .frameSync (fun k => k == (maskFld i p).key)).set (maskNow i p) (s.get (maskFld i p))
      let x := { x with pend := x.pend.set i none }
      s.setTdmPort p (if i = 2 ∧ f ≠ 0 then s.muteGates p was f x else x)
    else s
  | _ => s

/-- Replies of TDM_MASK_SET end with the number of the frame in which the masks of their port are all in force. -/
def State.maskWaits (s : State) (p f : Nat) : State :=
  if (s.tdmPort p).pend.any (fun x => x.isSome) then s
  else s.settleWaits [4] (fun _ q => if q = p then some 0 else none) (fun _ => le 4 f)

/-! ## Frames (R307) -/

/-- PORT_EN of a port is cleared (R307). -/
def State.stopPart (p : Nat) (s : State) : Nat × State :=
  let s := s.set (TDM.P_PORT_EN p) 0
  let f := (s.tdmPort p).next
  let x := { s.tdmPort p with run := false }
  match s.get (TDM.P_STATE p) with
  | 2 => (0, (s.tdmState p 3).putFrame p (s.askGates p x f))
  | 1 | 4 => (0, (s.tdmState p 0).setTdmPort p { x with sdo := [] })
  | _ => (0, s)

/-- The port's first frame may open (R307). -/
def State.tdmFirst (s : State) (p : Nat) : Bool :=
  let g := p / 8
  s.tdmAvail g && (if s.get (TDM.G_MODE g) = 1 then decide ((s.tdmPort p).since + 2 * cyclesPerUs ≤ s.cycles)
    else s.get (TDM.G_MODE g) != 3 || s.get (TDM.G_ASRC_STATE g) == 3)

/-- Frame number of the input that Anvil is to use. -/
def State.frameKey (s : State) (p : Nat) : Nat :=
  let g := p / 8
  if s.get (TDM.G_MODE g) = 1 then 4 * s.media + s.phaseNow (s.tdmK g) else (s.tdmGroup g).frame

/-- Gates of a frame of n slots. -/
def gatesFrame (gs : List Gate) (n f zc : Nat) (prev : Option (List Int)) (cur : List Int) : List Gate :=
  gs.zipIdx.map (fun g => if g.2 < n then g.1.frame f zc (prev.map (fun l => nth l g.2 0)) (nth cur g.2 0) else g.1)

/-- A frame of a running port opens: masks, samples, gates, check points 3, 9 and 14, and the counters. -/
def State.openFrame (s : State) (p : Nat) (raw : List Nat) (badIn badOut : Bool) (rows : List Nat) : State :=
  let f := (s.tdmPort p).next
  let s := (List.range 3).foldl (State.maskApply p f) s
  let s := s.maskPending p
  let s := if f = 0 then s.setTdmPort p (s.askGates p (s.tdmPort p) 0) else s
  let (words, s) := s.outWords p rows
  let n := s.tdmSlots p
  let ins := (List.range n).map (fun i => s.sdiSample p (nth raw i 0))
  let (fail3, _, s) := s.checkSeal 3 p false badIn
  let (_, _, s) := s.checkSeal 14 p false badOut
  let x := s.tdmPort p
  let zc := s.get (TDM.P_ZC_TIMEOUT p)
  let x := { x with outG := gatesFrame x.outG n f zc x.curOut words, inG := gatesFrame x.inG n f zc x.curIn ins }
  let last := s.get (TDM.P_STATE p) == 3 && (x.outG.take n ++ x.inG.take n).all (fun g => !g.opened)
  let x := { x with curOut := some words, curIn := some ins, next := f + 1, last := last, frame := s.frameKey p, bad := fail3,
                    tail := nth (s.frameLevels p x).getLast?.toList 0 none }
  let s := ((s.putFrame p x).set (TDM.P_FRAME_NO p) x.frameNo).count (TDM.P_FRAMES p)
  (s.maskWaits p x.frameNo).tdmStatus

/-- TDM_FRAME_OPEN (R307): frame boundary of port p, with the SW bits SDI carries in each slot of the frame, the first the most significant. `badIn` and `badOut` say that the
seal of the input frame or of the output frame does not match, `rows` the destination groups whose row does not match. -/
def execTdmFrameOpen (p : Nat) (raw : List Nat) (badIn badOut : Bool) (rows : List Nat) (s : State) : Out :=
  let st := s.get (TDM.P_STATE p)
  .next (if 32 ≤ p then s
    else if st = 3 ∧ (s.tdmPort p).last then
      let s := (s.tdmState p 0).setTdmPort p { s.tdmPort p with sdo := [], last := false }
      s.tdmWaits.tdmStatus
    else if st = 1 then
      if s.tdmFirst p then
        let x := s.tdmPort p
        let s := (s.setTdmPort p { x with next := 0, zero := 0, pend := x.pend.map (fun o => o.map (fun _ => .frame 0)) }).tdmState p 2
        (s.openFrame p raw badIn badOut rows).tdmWaits
      else s
    else if st = 2 ∨ st = 3 then s.openFrame p raw badIn badOut rows
    else s)

/-- TDM_ZC_TIMEOUT (R306): the changes of port p that are ZC_TIMEOUT frames past their applied frame take effect in the
frame now on the pins. -/
def execTdmZcTimeout (p : Nat) (s : State) : Out :=
  let x := s.tdmPort p
  let n := s.tdmSlots p
  let f := x.next - 1
  let zc := s.get (TDM.P_ZC_TIMEOUT p)
  let late := fun (gs : List Gate) => (gs.take n).zipIdx.filter (fun g => g.1.overdue f zc) |>.map Prod.snd
  let slots := late x.outG ++ late x.inG
  let st := s.get (TDM.P_STATE p)
  if p < 32 ∧ (st = 2 ∨ st = 3) ∧ slots ≠ [] then
    let act := fun (gs : List Gate) => gs.zipIdx.map (fun g => if g.2 < n ∧ g.1.overdue f zc then g.1.force else g.1)
    let x := { x with outG := act x.outG, inG := act x.inG }
    let x := { x with last := st == 3 && (x.outG.take n ++ x.inG.take n).all (fun g => !g.opened) }
    let s := (s.putFrame p x).countBy (TDM.P_ZC_TIMEOUTS p) slots.length
    let map := ((List.range n).map (fun i => if slots.contains i then 2 ^ i else 0)).sum
    .next (s.tdmHeld TDM.INT_ZC_TIMEOUT 0x0706 p (le 4 map ++ le 4 (s.get (TDM.P_ZC_TIMEOUTS p))))
  else .next s

/-! ## Starting and stopping -/

/-- A start of port p would take its group's converter above 256 channels (R304). -/
def State.tdmNoRoom (s : State) (p : Nat) : Bool :=
  s.tdmConverts (p / 8) && s.get (TDM.P_STATE p) == 0 &&
    decide (256 < s.tdmGroupAsked (p / 8) + s.tdmChans p (s.get (TDM.P_RX_MASK p)) (s.get (TDM.P_TX_MASK p)))

/-- PORT_EN is written 1 (R307). A port that goes on after a stop numbers its frames from 0 again. -/
def State.tdmStart (s : State) (p : Nat) : State :=
  let x := s.tdmPort p
  match s.get (TDM.P_STATE p) with
  | 0 =>
    if s.tdmCfgErr p ∨ s.get (TDM.G_MODE (p / 8)) = 0 ∨ s.tdmNoRoom p then s
    else ((s.tdmState p 1).tdmEnter p).tdmStatus
  | 3 =>
    let pend := x.pend.map (fun (o : Option MaskFrom) => if o = some .first then some (.frame x.next) else o)
    let x := { x with run := true, last := false, zero := x.next, pend := pend }
    let y := s.reopenGates p x x.next
    (((s.tdmState p 2).setTdmPort p y).setOn (TDM.P_ZC_WAIT p) ((y.outG ++ y.inG).any (fun g => g.change.isSome))).tdmWaits
  | _ => s

/-- PORT_EN is written 0. -/
def State.tdmStop (s : State) (p : Nat) : State := (State.stopPart p s).2.tdmWaits.tdmStatus

/-- The configuration word of port p is written, with its PORT_EN (R307, R319, R322). -/
def State.tdmCfgWrite (s : State) (source p w : Nat) : State :=
  let off := (TDM.P_PORT_EN p).off
  let en := w.testBit 31
  let refuse := en && !s.on (TDM.P_PORT_EN p) && s.noStart 3 (p / 8)
  let w := if refuse then w - 2 ^ 31 else w
  let whole := s.get (TDM.P_STATE p) == 0 || (en && !refuse && !s.on (TDM.P_PORT_EN p))
  let was := s.on (TDM.P_PORT_EN p)
  let s := if refuse then s.cfgReject source off else s
  let s := (s.writeWord TDM.fields whole source off w).tdmStatus
  if refuse then s else if en then s.tdmStart p else if was then s.tdmStop p else s

/-! ## Mask writes (R309, R304) -/

/-- Frame from which a write that comes now applies: `late` where it reaches the port's domain within the last 2 bit clocks
of the frame on the pins. A port that is not RUNNING applies it from its first frame. -/
def State.maskFrame (s : State) (p : Nat) (late : Bool) : MaskFrom :=
  if s.get (TDM.P_STATE p) = 2 then .frame ((s.tdmPort p).next + (if late then 1 else 0)) else .first

/-- Mask i of port p is written. -/
def State.maskWrite (s : State) (p i v : Nat) (late : Bool) : State :=
  let s := s.setB (maskFld i p) .frameSync v
  let x := s.tdmPort p
  (s.setTdmPort p { x with pend := x.pend.set i (some (s.maskFrame p late)) }).maskPending p

/-- The masks rx and tx of port p would take its group above 256 channels (R304). -/
def State.maskTooMany (s : State) (p rx tx : Nat) : Bool :=
  let now := s.tdmChans p (s.get (TDM.P_RX_MASK p)) (s.get (TDM.P_TX_MASK p))
  s.tdmConverts (p / 8) && s.get (TDM.P_STATE p) != 0 &&
    decide (256 < s.tdmGroupAsked (p / 8) - now + s.tdmChans p rx tx) && decide (now < s.tdmChans p rx tx)

/-- A host write of mask i, refused under R304 or taken into the shadow. -/
def State.maskHostWrite (s : State) (source p i v : Nat) (late : Bool) : State :=
  let rx := if i = 0 then v else s.get (TDM.P_RX_MASK p)
  let tx := if i = 1 then v else s.get (TDM.P_TX_MASK p)
  if s.maskTooMany p rx tx then s.cfgReject source (maskFld i p).off else s.maskWrite p i v late

/-! ## Follower clocks (R300, R301, R303) -/

/-- Expected frame rate of group g, mHz. -/
def State.tdmExpect (s : State) (g : Nat) : Nat := s.tdmK g * s.tdmBase g * 1000

/-- A measurement in mHz is within RATE_TOL of the expected rate. -/
def State.tdmInTol (s : State) (g meas : Nat) : Bool :=
  let tol := if s.get (TDM.G_RATE_TOL g) = 0 then 1 else s.get (TDM.G_RATE_TOL g)
  let e := s.tdmExpect g
  decide ((max meas e - min meas e) * 1000000 ≤ tol * e)

/-- IN_FILL and OUT_FILL of group g follow. -/
def State.tdmFill (s : State) (g : Nat) : State :=
  let x := s.tdmGroup g
  (s.set (TDM.G_IN_FILL g) x.inBuf.length).set (TDM.G_OUT_FILL g) x.outBuf.length

/-- The group enters PRESENT (R300): both slip buffers at a fill of 2 base periods of silence. -/
def State.tdmPresent (s : State) (g : Nat) : State :=
  let k := s.tdmK g
  let x := s.tdmGroup g
  let s := if s.get (TDM.G_MODE g) = 2 then
      let x := { x with inBuf := List.replicate (2 * k) 0, inLast := List.replicate k 0, invalid := 0 }
      (s.setTdmGroup g { x with outBuf := List.replicate (2 * k) none, outLast := List.replicate k none, outNow := none }).tdmFill g
    else s.setTdmGroup g { x with invalid := 0 }
  let s := (s.set (TDM.G_CLK_STATE g) 3).signal TDM.INT TDM.INT_EN TDM.INT_CLK_OK 0x0702 12 g (le 4 (s.get (TDM.G_FS_MEAS g)))
  (s.tdmClockBack g).tdmStatus

/-- CHECKING ends with 32 valid frames in a row and the last measurement in tolerance. -/
def State.tdmChecked (s : State) (g : Nat) : State :=
  if 32 ≤ (s.tdmGroup g).valid ∧ s.tdmInTol g (s.get (TDM.G_FS_MEAS g)) then s.tdmPresent g else s

/-- The clock of group g is the active reference 7 (R301). -/
def State.tdmOffered (s : State) (g : Nat) : Bool :=
  s.on (TDM.G_OFFER g) && s.get (TDM.G_CLK_STATE g) == 3 && s.get (CLK.REF_SRC 7) == 4 + g && s.on (CLK.REF_ENABLE 7) && s.on (CLK.REF_ACTIVE 7)

/-- The offered reference stops at once with what offered it. -/
def State.offerEnds (s : State) (g : Nat) (was : Bool) : State := if was && !s.tdmOffered g then s.refLost 7 else s

/-- PRESENT is left (R300, R301). -/
def State.tdmAbsent (s : State) (g cause : Nat) : State :=
  let offered := s.tdmOffered g
  let x := s.tdmGroup g
  let s := s.setTdmGroup g { x with valid := 0, invalid := 0, inBuf := [], inLast := [], outBuf := [], outLast := [], outNow := none }
  let s := ((s.set (TDM.G_CLK_STATE g) 1).tdmFill g).tdmClockLost g cause
  s.offerEnds g offered

/-- The frame that has just ended was invalid: its input is silence. -/
def State.tdmSilence (s : State) (g : Nat) : State :=
  let f := (s.tdmGroup g).frame
  let mute : TdmIn → TdmIn := fun e => if e.port / 8 = g ∧ e.frame = f then { e with vals := e.vals.map (fun _ => 0) } else e
  { s with tdm := { s.tdm with ins := s.tdm.ins.map mute } }

/-- The slip buffers of a FOLLOW_SYNC group at an edge of the lead: the next input frame enters, an output frame leaves. With
the output buffer empty the frame is shifted again (assumption 20). -/
def State.tdmEdge (s : State) (g : Nat) : State :=
  let x := s.tdmGroup g
  let x := { x with frame := x.frame + 1 }
  if s.get (TDM.G_MODE g) = 2 then
    let k := s.tdmK g
    let b := x.inBuf ++ [x.frame]
    let x := { x with inBuf := b.drop (b.length - 4 * k) }
    let x := match x.outBuf with
      | o :: t => { x with outBuf := t, outNow := o, outLast := ((x.outLast ++ [o]).drop (x.outLast.length + 1 - k)) }
      | [] => x
    (s.setTdmGroup g x).tdmFill g
  else s.setTdmGroup g x

/-- FOLLOWER_FRAME (R300): an active edge of the lead's FSYNC, `bits` bit clocks after the one before. -/
def execFollowerFrame (g bits : Nat) (s : State) : Out :=
  if g < 4 ∧ s.tdmFollows g then
    let valid := bits == s.tdmBpf (s.tdmLead g)
    let st := s.get (TDM.G_CLK_STATE g)
    let x := s.tdmGroup g
    if st = 3 then
      if valid then .next ((s.setTdmGroup g { x with invalid := 0 }).tdmEdge g)
      else
        let l := s.tdmLead g
        let s := s.count (TDM.P_FRAME_ERR l)
        let s := s.tdmHeld TDM.INT_FRAME_ERR 0x0704 l (le 2 bits ++ [0, 0] ++ le 4 (s.get (TDM.P_FRAME_ERR l)))
        let s := (s.tdmSilence g).setTdmGroup g { x with invalid := x.invalid + 1 }
        .next (if 3 ≤ x.invalid + 1 then s.tdmAbsent g 2 else s.tdmEdge g)
    else
      let s := if st = 1 then s.set (TDM.G_CLK_STATE g) 2 else s
      let n := if st = 1 then 0 else x.valid
      let s := s.setTdmGroup g { x with valid := if valid then n + 1 else 0 }
      .next (s.tdmChecked g)
  else .next s

/-- FOLLOWER_CLOCK_LOSS (R300): no BCLK edge for 1 µs (0), or no active FSYNC edge for 3 frame periods (1). -/
def execFollowerClockLoss (g cause : Nat) (s : State) : Out :=
  .next (if g < 4 ∧ cause < 2 ∧ s.tdmFollows g ∧ s.get (TDM.G_CLK_STATE g) = 3 then s.tdmAbsent g cause else s)

/-- FS_MEAS_GATE (R300): the mean frame rate of a 100 ms gate, mHz. -/
def execFsMeasGate (g meas : Nat) (s : State) : Out :=
  if g < 4 ∧ s.tdmFollows g then
    let s := s.set (TDM.G_FS_MEAS g) meas
    let st := s.get (TDM.G_CLK_STATE g)
    if s.tdmInTol g (s.get (TDM.G_FS_MEAS g)) then .next (if st = 2 then s.tdmChecked g else s)
    else if st = 2 then .next (s.setTdmGroup g { s.tdmGroup g with valid := 0 })
    else if st = 3 then .next (s.tdmAbsent g 3)
    else .next s
  else .next s

/-! ## The converter (R305) -/

/-- 0.90 and 1.10 in Q2.30. -/
def ratioOk (r : Nat) : Bool := decide (966367642 ≤ r ∧ r ≤ 1181116006)

/-- The estimate has stepped by more than 1,000 ppm from the ratio in force. -/
def ratioStep (old new : Nat) : Bool := decide (1000 * old < (max old new - min old new) * 1000000)

/-- ASRC_LOCK (R305): the estimate has stayed within ±2 ppm of `ratio` for 50 ms. While LOCKED the ratio in force follows the estimate; a step of more
than 1,000 ppm, or an estimate out of its range, unlocks. -/
def execAsrcLock (g ratio : Nat) (s : State) : Out :=
  let st := s.get (TDM.G_ASRC_STATE g)
  .next (if g < 4 ∧ st = 2 ∧ ratioOk ratio then (s.set (TDM.G_RATIO g) ratio).asrcState g 3
    else if g < 4 ∧ st = 3 then
      (if ratioOk ratio ∧ !ratioStep (s.get (TDM.G_RATIO g)) ratio then s.set (TDM.G_RATIO g) ratio else (s.asrcUnlock g).asrcFollow g)
    else s)

/-- ASRC_UNLOCK (R305): the estimate steps by more than 1,000 ppm or leaves its range. -/
def execAsrcUnlock (g : Nat) (s : State) : Out := .next (if g < 4 then (s.asrcUnlock g).asrcFollow g else s)

/-! ## Commands (R318) -/

/-- Group g is idle (R319). -/
def State.tdmGroupIdle (s : State) (g : Nat) : Bool := (groupPorts g).all (fun p => s.get (TDM.P_STATE p) == 0)

/-- What a change of a group's configuration does: the monitors start or stop (R300), the converter follows (R305), and a clock that was offered as
reference 7 (`was`) and is no more stops (R301). -/
def State.tdmGroupApply (s : State) (g old : Nat) (was : Bool) : State :=
  let m := s.get (TDM.G_MODE g)
  let s := if decide (2 ≤ m) = decide (2 ≤ old) then s
    else ((s.setTdmGroup g { TdmGroup.reset with frame := (s.tdmGroup g).frame }).set (TDM.G_CLK_STATE g) (if 2 ≤ m then 1 else 0)).tdmFill g
  (s.asrcFollow g).tdmStatus.offerEnds g was

/-- A host write of GROUP_CFG of group g; one that sets MODE during a commanded run on the group is refused (R480). -/
def State.tdmGroupWrite (s : State) (source g w : Nat) : State :=
  let old := s.get (TDM.G_MODE g)
  let m := w / 2 ^ (TDM.G_MODE g).lo % 2 ^ (TDM.G_MODE g).w
  if s.underRun 3 g ∧ m ≠ 0 ∧ m ≠ old then s.cfgReject source (TDM.G_MODE g).off
  else (s.writeWord TDM.fields (s.tdmGroupIdle g) source (TDM.G_MODE g).off w).tdmGroupApply g old (s.tdmOffered g)

/-- TDM_GROUP_SET: Group; MODE; CLK_SRC; RATE; FAMILY; LEAD; ECHO; OFFER; RATE_TOL. -/
def execTdmGroupSet (r : Req) (p : List Tlv) (s : State) : Out :=
  runCmd 0x0701 [preq 1 1 0 3, popt 2 1 0 3, popt 3 1 0 3, popt 4 1 0 3, popt 5 1 0 1, popt 6 1 0 7, popt 7 1 0 1, popt 8 1 0 1,
    popt 9 2 0 0xFFFF] (fun p s =>
    let g := Params.val p 1
    let old := s.get (TDM.G_MODE g)
    let m := (Params.val? p 2).getD old
    let offered := s.tdmOffered g
    if s.underRun 3 g ∧ m ≠ 0 ∧ m ≠ old then (Reply.errAt Status.notInState p 2, s)
    else
    let (rep, s) := setFlds (s.tdmGroupIdle g) [⟨2, TDM.G_MODE g, .static⟩, ⟨3, TDM.G_CLK_SRC g, .static⟩,
      ⟨4, TDM.G_RATE g, .static⟩, ⟨5, TDM.G_FAMILY g, .static⟩, ⟨6, TDM.G_LEAD g, .static⟩, ⟨7, TDM.G_ECHO g, .static⟩,
      ⟨8, TDM.G_OFFER g, .live⟩, ⟨9, TDM.G_RATE_TOL g, .live⟩] p s
    (rep, s.tdmGroupApply g old offered)) r p s

/-- TDM_PORT_SET: Port; FORMAT; SLOTS; SW; WL; DELAY; FS_WIDTH; FSYNC_POL; BCLK_POL; TX_IDLE; ZC_TIMEOUT. -/
def execTdmPortSet (r : Req) (p : List Tlv) (s : State) : Out :=
  runCmd 0x0702 [preq 1 1 0 31, popt 2 1 0 3, popt 3 1 0 63, popt 4 1 0 3, popt 5 1 0 3, popt 6 1 0 1, popt 7 1 0 3, popt 8 1 0 1,
    popt 9 1 0 1, popt 10 1 0 1, popt 11 2 0 1023] (fun p s =>
    let n := Params.val p 1
    let (rep, s) := setFlds (s.get (TDM.P_STATE n) == 0) [⟨2, TDM.P_FORMAT n, .static⟩, ⟨3, TDM.P_SLOTS n, .static⟩,
      ⟨4, TDM.P_SW n, .static⟩, ⟨5, TDM.P_WL n, .static⟩, ⟨6, TDM.P_DELAY n, .static⟩, ⟨7, TDM.P_FS_WIDTH n, .static⟩,
      ⟨8, TDM.P_FSYNC_POL n, .static⟩, ⟨9, TDM.P_BCLK_POL n, .static⟩, ⟨10, TDM.P_TX_IDLE n, .static⟩,
      ⟨11, TDM.P_ZC_TIMEOUT n, .live⟩] p s
    (rep, s.tdmStatus)) r p s

/-- TDM_MASK_SET: Port; RX_MASK; TX_MASK; TX_MUTE. `late` is as in TDM_MASK_WRITE. On a running port the reply waits for the
applied frame and carries its number. -/
def execTdmMaskSet (r : Req) (p : List Tlv) (late : Bool) (s : State) : Out :=
  match s.refuses r 0x0703 [preq 1 1 0 31, popt 2 4 0 0xFFFFFFFF, popt 3 4 0 0xFFFFFFFF, popt 4 4 0 0xFFFFFFFF] p with
  | some e => .next (s.finish r 0x0703 e)
  | none =>
    let n := Params.val p 1
    let rx := (Params.val? p 2).getD (s.get (TDM.P_RX_MASK n))
    let tx := (Params.val? p 3).getD (s.get (TDM.P_TX_MASK n))
    if s.maskTooMany n rx tx then .next (s.finish r 0x0703 (Reply.err Status.noResource))
    else
      let s := (List.range 3).foldl (fun s i => match Params.val? p (2 + i) with
        | some v => s.maskWrite n i v late
        | none => s) s
      let waits := (s.tdmPort n).pend.any (fun x => x.isSome)
      if s.get (TDM.P_STATE n) = 2 ∧ waits then .next (s.addWait ⟨r, 0x0703, 4, 1, [0], [n], [waiting], [0], [], 0, []⟩)
      else .next (s.finish r 0x0703 (Reply.ok (le 4 (if s.get (TDM.P_STATE n) = 2 then (s.tdmPort n).frameNo else 0))))

/-- Start one port for TDM_START: its status at the attempt, and the state. -/
def State.startPart (p : Nat) (s : State) : Nat × State :=
  if s.tdmCfgErr p then (Status.badParam, s)
  else if s.get (TDM.G_MODE (p / 8)) = 0 ∨ s.noStart 3 (p / 8) then (Status.notInState, s)
  else if s.tdmNoRoom p then (Status.noResource, s)
  else (waiting, (s.set (TDM.P_PORT_EN p) 1).tdmStart p)

/-- TDM_START: 32-bit port bitmap. -/
def execTdmStart (r : Req) (p : List Tlv) (s : State) : Out :=
  match s.refuses r 0x0704 [preq 1 4 0 0xFFFFFFFF] p with
  | some e => .next (s.finish r 0x0704 e)
  | none =>
    let ps := bitsOf 32 (Params.val p 1)
    let was := ps.map (fun q => s.get (TDM.P_PORT_EN q))
    let (sts, s) := runParts State.startPart ps s
    let off := Params.offset p 1 0
    .next ((s.addWait ⟨r, 0x0704, 0, 1, ps, ps, sts, ps.map (fun _ => off), was, 0, []⟩).tdmWaits.tdmStatus)

/-- TDM_STOP: 32-bit port bitmap. -/
def execTdmStop (r : Req) (p : List Tlv) (s : State) : Out :=
  match s.refuses r 0x0705 [preq 1 4 0 0xFFFFFFFF] p with
  | some e => .next (s.finish r 0x0705 e)
  | none =>
    let ps := bitsOf 32 (Params.val p 1)
    let was := ps.map (fun q => s.get (TDM.P_PORT_EN q))
    let (_, s) := runParts State.stopPart ps s
    .next ((s.addWait ⟨r, 0x0705, 1, 1, ps, ps, ps.map (fun _ => waiting), ps.map (fun _ => 0), was, 0, []⟩).tdmWaits.tdmStatus)

/-- A part of TDM_START or TDM_STOP is undone: PORT_EN has again the value it had. -/
def State.tdmUndo (was : Nat) (p : Nat) (s : State) : Nat × State :=
  if s.get (TDM.P_PORT_EN p) = was then (0, s)
  else if was = 0 then State.stopPart p s
  else (0, (s.set (TDM.P_PORT_EN p) 1).tdmStart p)

/-- TDM_STATUS_GET: group bitmap (4 bits). -/
def execTdmStatusGet (r : Req) (p : List Tlv) (s : State) : Out :=
  runCmd 0x0706 [preq 1 1 0 15] (getBody (fun p s =>
    let w := fun (o : Nat) => le 4 (s.word TDM.fields o)
    (bitsOf 4 (Params.val p 1)).flatMap (fun g =>
      ([0x08, 0x0C, 0x10, 0x14, 0x20, 0x24, 0x28, 0x2C, 0x30, 0x34].flatMap (fun o => w (0x180100 + 0x40 * g + o))) ++
      (groupPorts g).flatMap (fun q =>
        [0x14, 0x18, 0x1C, 0x20, 0x40, 0x44, 0x48, 0x4C].flatMap (fun o => w (0x181000 + 0x80 * q + o)))))) r p s

/-! ## The ports in a pass (R302, R303, R305) -/

/-- A slip of group g: its counter, INT.SLIP and event 0x0703. -/
def State.slip (s : State) (g kind : Nat) (f : Fld) : State :=
  let s := s.count f
  s.tdmHeld TDM.INT_SLIP 0x0703 g ([BitVec.ofNat 8 kind, 0, 0, 0] ++ le 4 (s.get f))

/-- The input slip buffer gives k frames to a pass (R303). -/
def State.takeIn (s : State) (g : Nat) : List Nat × State :=
  let k := s.tdmK g
  let x := s.tdmGroup g
  if x.inBuf.length < k then (x.inLast, s.slip g 0 (TDM.G_IN_REPEAT g))
  else
    let drop := decide (3 * k < x.inBuf.length)
    let b := if drop then x.inBuf.drop k else x.inBuf
    let s := s.setTdmGroup g { x with inBuf := b.drop k, inLast := b.take k }
    (b.take k, (if drop then s.slip g 1 (TDM.G_IN_DROP g) else s).tdmFill g)

/-- The output slip buffer takes the k frames of pass n. -/
def State.giveOut (s : State) (g n : Nat) : State :=
  let k := s.tdmK g
  let x := s.tdmGroup g
  let l := x.outBuf.length
  let (b, s) := if l < k then (x.outLast ++ x.outBuf, s.slip g 2 (TDM.G_OUT_REPEAT g))
    else if 3 * k < l then (x.outBuf.drop k, s.slip g 3 (TDM.G_OUT_DROP g)) else (x.outBuf, s)
  (s.setTdmGroup g { x with outBuf := b ++ (List.range k).map (fun j => some (n, j)) }).tdmFill g

/-- The source values port p gives from the frames `fs` of one period; a frame that failed check point 3 silences them all. -/
def State.portSources (s : State) (p : Nat) (fs : List Nat) : List (Nat × Int) :=
  let k := s.tdmK (p / 8)
  let es := fs.zipIdx.filterMap (fun f => (s.tdm.ins.find? (fun e => e.port == p && e.frame == f.1)).map (fun e => (e, f.2)))
  if es.any (fun e => e.1.bad) then []
  else es.flatMap (fun e => e.1.vals.zipIdx.map (fun v => (2048 + 32 * p + k * v.2 + e.2, v.1)))

/-- Draw the source values of the given slots of converting ports: the spec gives the quality of what the converter makes, not its value. -/
def State.convSources (s : State) : List Nat → List (Nat × Int) × State
  | [] => ([], s)
  | d :: ds =>
    let (v, s) := s.fresh 40
    let (vs, s) := s.convSources ds
    ((d, toSigned 40 v) :: vs, s)

/-- Source slots of port p that are in RX_MASK and whose gate passes the sample; none where an input frame since the last pass failed check point 3. -/
def State.passedSlots (s : State) (p : Nat) : List Nat :=
  let k := s.tdmK (p / 8)
  let x := s.tdmPort p
  if s.tdm.ins.any (fun e => e.port == p && e.bad) then []
  else ((List.range (s.tdmSlots p)).filter (fun i => s.bit (TDM.P_RX_MASK_NOW p) i && (nth x.inG i ⟨false, none⟩).opened)).flatMap (fun i =>
    (List.range k).map (fun j => 2048 + 32 * p + k * i + j))

/-- The source values group g gives to pass n. -/
def State.groupSources (s : State) (g n : Nat) : List (Nat × Int) × State :=
  let m := s.get (TDM.G_MODE g)
  let k := s.tdmK g
  let live := (groupPorts g).filter (fun p => s.get (TDM.P_STATE p) == 2 || s.get (TDM.P_STATE p) == 3)
  if s.tdmConverts g then
    if s.get (TDM.G_ASRC_STATE g) = 3 then s.convSources (live.flatMap s.passedSlots) else ([], s)
  else if m = 1 then
    if n < 2 then ([], s)
    else (live.flatMap (fun p => s.portSources p ((List.range k).map (fun j => 4 * (n - 2) + j))), s)
  else if m = 2 ∧ s.get (TDM.G_CLK_STATE g) = 3 then
    let (fs, s) := s.takeIn g
    (live.flatMap (fun p => s.portSources p fs), s.giveOut g n)
  else ([], s)

/-- Input frames that no pass can use any more go. -/
def State.tdmTidy (s : State) (n : Nat) : State :=
  let keep : TdmIn → Bool := fun e =>
    let g := e.port / 8
    if s.tdmConverts g then false
    else if s.get (TDM.G_MODE g) = 1 then decide (4 * (n - 1) ≤ e.frame)
    else (s.tdmGroup g).inBuf.contains e.frame || (s.tdmGroup g).inLast.contains e.frame || e.frame == (s.tdmGroup g).frame
  { s with tdm := { s.tdm with ins := s.tdm.ins.filter keep } }

/-- The audio ports' sources of pass n. -/
def State.tdmSources (s : State) (n : Nat) : List (Nat × Int) × State :=
  let step := fun (a : List (Nat × Int) × State) (g : Nat) =>
    let (vs, s) := a.2.groupSources g n
    (a.1 ++ vs, s)
  let (vs, s) := [0, 1, 2, 3].foldl step ([], s)
  (vs, s.tdmTidy n)

/-- The destinations of pass n that the audio ports may still shift out. -/
def State.tdmTake (s : State) (n : Nat) (dest : List (Nat × Int)) : State :=
  let used := fun (m : Nat) => decide (n ≤ m + 3) || s.tdm.groups.any (fun g =>
    (g.outNow :: g.outBuf ++ g.outLast).any (fun o => match o with
      | some (q, _) => q == m
      | none => false))
  let mine := dest.filter (fun d => decide (2048 ≤ d.1 ∧ d.1 < 3072))
  let crcs := ((mine.map (fun d => d.1 / 64)).dedup).map (fun g => (g, blockSeal 3 g n ((List.range 64).map (fun i => srcVal [] mine (64 * g + i)))))
  { s with tdm := { s.tdm with outs := s.tdm.outs.filter (fun o => used o.period && o.period != n) ++ [⟨n, mine, crcs⟩] } }

end Sys2Proof.Machine
end

