-- ==== Sys2Proof/Machine/AmpGates.lean ====
section
/-! DEFINITION. The gate outputs of an amplifier channel (R324 to R327, R336): the duties of its two legs, dead time, the current limit's
half-cycle, and the levels of every state. Times within a half-cycle are in steps of 1/16 PWM clock. -/

namespace Sys2Proof.Machine

def State.ampCh (s : State) (n : Nat) : AmpCh := unitAt s.amp.chs n AmpCh.reset
def State.setAmpCh (s : State) (n : Nat) (x : AmpCh) : State := { s with amp := { s.amp with chs := s.amp.chs.setIfInBounds n x } }

def State.ampState (s : State) (n : Nat) : Nat := s.get (AMP.CH_STATE n)

/-- START, RUN or STOPPING. -/
def State.ampRuns (s : State) (n : Nat) : Bool := decide (1 ≤ s.ampState n ∧ s.ampState n ≤ 3)

/-- The channel's gates switch: the half-duty phase of START, RUN, STOPPING (R325). -/
def State.ampSwitches (s : State) (n : Nat) : Bool :=
  s.on AMP.STATUS_PWM_OK && (s.ampState n == 2 || s.ampState n == 3 || (s.ampState n == 1 && (s.ampCh n).phase == 2))

/-- The period of channel n: a channel that has started keeps the SEL_P it started with (R332). -/
def State.ampPeriod (s : State) (n : Nat) : Nat := if s.ampRuns n then (s.ampCh n).period else s.get AMP.FREQ_SEL_P

/-- The carrier's lag behind that of channel 0, PWM clocks (R326). -/
def State.carrierLag (s : State) (n : Nat) : Nat := s.get (AMP.CH_PHASE n) * s.ampPeriod n / 8

/-- Steps in a half-cycle of period P. -/
def halfSteps (p : Nat) : Nat := 8 * p

/-! ## A leg (R327) -/

/-- Whether the high side is called for at step t of the half-cycle, and for how many steps that has been so: `cut` is the step at which the current
limit called the high side off for the rest of the half-cycle. -/
def Leg.wants (g : Leg) (cut : Option Nat) (t : Nat) : Bool × Nat :=
  let from0 := fun (l : Bool) (t : Nat) => (l, if g.lev = l then g.age + t else t)
  let free := fun (t : Nat) =>
    if t < g.split then from0 g.first t else if g.split = 0 then from0 (!g.first) t else (!g.first, t - g.split)
  match cut with
  | some c => if c ≤ t then (let (l, a) := free c; (false, (if l then 0 else a) + (t - c))) else free t
  | none => free t

/-- The quantiser of a duty (R327): error feedback of second order, to the nearest step (DEDUCED, assumption 121). `duty` is in 2^−33. -/
def Leg.quantise (g : Leg) (steps : Nat) (duty : Int) : Nat × Int :=
  let v := duty * (steps : Int) + 2 * g.err1 - g.err2
  let q := clampInt 0 steps (divRound v (2 ^ 33))
  (q.toNat, v - q * 8589934592)

/-- The leg in the half-cycle that begins: its duty, and whether that is the half from valley to peak. A reference is above the carrier next to the valley;
`flip` takes the complement. -/
def Leg.next (g : Leg) (cut : Option Nat) (steps : Nat) (valley flip : Bool) (duty : Int) : Leg :=
  let (l, a) := g.wants cut steps
  let (q, e) := g.quantise steps duty
  ⟨l, a, valley != flip, if valley then q else steps - q, e, g.err1⟩

/-- The leg as both legs start switching at half duty on one edge, the low side having been on for `age` steps (R334 row 3). -/
def Leg.start (steps age : Nat) : Leg := ⟨false, age, true, steps / 2, 0, 0⟩

/-- High-side and low-side gate at step t: each turns on only `dead` steps after its partner has turned off (R324). -/
def Leg.gates (g : Leg) (cut : Option Nat) (dead t : Nat) : Bool × Bool :=
  let (l, a) := g.wants cut t
  (l && decide (dead ≤ a), !l && decide (dead ≤ a))

/-! ## The four gates (R325) -/

/-- DEADTIME in force, steps. -/
def State.deadSteps (s : State) (n : Nat) : Nat := 16 * max 2 (s.get (AMP.CH_DEADTIME n))

/-- HA, LA, HB and LB of channel n at step t of the present half-cycle; none at high impedance. -/
def State.ampGates (s : State) (n t : Nat) : List (Option Bool) :=
  let c := s.ampCh n
  if !s.row9Done then List.replicate 4 (some false)
  else if !s.mayDrive then List.replicate 4 (if s.on AMP.CTRL_IDLE_HIZ then none else some false)
  else if s.ampSwitches n then
    let (ha, la) := c.legA.gates c.cut (s.deadSteps n) t
    let (hb, lb) := c.legB.gates c.cut (s.deadSteps n) t
    [some ha, some la, some hb, some lb]
  else if s.ampState n = 1 ∧ c.phase = 1 ∧ s.on AMP.STATUS_PWM_OK then [some false, some true, some false, some true]
  else List.replicate 4 (some false)

/-- The legs of channel n in the half-cycle that begins with modulation index m, Q7.32 (R327): leg B is the complement of leg A in AD, and has the duty
(1 − m) ÷ 2 in BD. -/
def State.ampLegs (s : State) (n : Nat) (valley : Bool) (m : Int) : State :=
  let c := s.ampCh n
  let steps := halfSteps (s.ampPeriod n)
  let a := c.legA.next c.cut steps valley false (4294967296 + m)
  let b := if s.on (AMP.CH_MOD n) then c.legB.next c.cut steps valley false (4294967296 - m)
    else
      let (l, g) := c.legB.wants c.cut steps
      { a with lev := l, age := g, first := !a.first }
  s.setAmpCh n { c with legA := a, legB := b, cut := none }

end Sys2Proof.Machine
end

