-- ==== Sys2Proof/Machine/Amp.lean ====
section
/-! DEFINITION. The amplifier controller (chapter 10): channel states, start, mute, protection (R333 to R344), the loop (R328, R329),
the choice of the switching frequency (R332), the sensors (R339, R340) and the commands of R346. -/

namespace Sys2Proof.Machine

/-- The part is an NC2048-NI, whose amplifier is fused off (R2). -/
def State.isNi (s : State) : Bool := s.get SYS.DEVICE_ID_VARIANT == 2

/-- OFF or LOCKOUT (R347). -/
def State.ampIdle (s : State) (n : Nat) : Bool := s.ampState n == 0 || s.ampState n == 5

def State.ampAllIdle (s : State) : Bool := (List.range 8).all s.ampIdle

/-- The events 0x0809 and 0x080A keep the hold-off of R345. -/
def State.ampHeld (s : State) (bit code n : Nat) (detail : List Byte) : State :=
  s.signalHeld AMP.INT AMP.INT_EN bit code 13 n (s.get AMP.CTRL_EVT_HOLDOFF * 1000 * cyclesPerUs) detail

def State.ampEvent (s : State) (bit code n : Nat) (detail : List Byte) : State :=
  s.signal AMP.INT AMP.INT_EN bit code 13 n detail

/-- A quotient whose rounding the spec does not state: exact where it is an integer, else the integer below or above, freely. -/
def State.freeDiv (s : State) (a : Int) (b : Nat) : Int × State :=
  if a % (b : Int) = 0 then (a / (b : Int), s)
  else
    let (f, s) := s.fresh 1
    (a / (b : Int) + (f : Int), s)

/-! ## States (R333) -/

/-- The status bits that follow a channel's state. -/
def State.ampBits (s : State) (n : Nat) : State :=
  (s.setBit AMP.STATUS_LOCKED_OUT n (s.ampState n == 5)).setBit AMP.STATUS_SWITCHING n (s.ampSwitches n)

/-- CFG_ERR of channel n (R333): its sensor's thresholds, or its dead time against its SEL_P. -/
def State.ampCfgErr (s : State) (n : Nat) : Bool :=
  let i := n / 2
  let d := if s.get (AMP.CH_DEADTIME n) < 2 then 2 else s.get (AMP.CH_DEADTIME n)
  !(decide (s.get (AMP.SEN_REC i) < s.get (AMP.SEN_WARN i) ∧ s.get (AMP.SEN_WARN i) < s.get (AMP.SEN_SHUT i))) ||
    decide (s.ampPeriod n + 32 ≤ 16 * d)

def State.ampCfg (s : State) : State := (List.range 8).foldl (fun s n => s.setOn (AMP.CH_CFG_ERR n) (s.ampCfgErr n)) s

/-- A change of STATE, with INT.STATE and event 0x0801. -/
def State.ampMove (s : State) (n st : Nat) : State :=
  let old := s.ampState n
  if old = st then s
  else
    ((s.set (AMP.CH_STATE n) st).ampBits n).ampEvent AMP.INT_STATE 0x0801 n
      [BitVec.ofNat 8 old, BitVec.ofNat 8 st, BitVec.ofNat 8 (s.get (AMP.CH_CAUSE n))]

/-! ## The mute gate (R335) -/

/-- g_mute now, Q3.20. -/
def AmpCh.gain (x : AmpCh) : Nat :=
  if x.n ≤ x.k then x.g1 else (divRound ((x.g0 : Int) * (x.n : Int) + ((x.g1 : Int) - x.g0) * (x.k : Int)) x.n).toNat

/-- Put a channel; MUTED and ZC_WAIT follow. -/
def State.putAmp (s : State) (n : Nat) (x : AmpCh) : State :=
  ((s.setAmpCh n x).setOn (AMP.CH_MUTED n) (x.gain == 0)).setOn (AMP.CH_ZC_WAIT n) x.wait.isSome

/-- What the mute gate is to be: closed by MUTE and by STOPPING. -/
def State.muteTarget (s : State) (n : Nat) : Nat := if s.on (AMP.CH_MUTE n) ∨ s.ampState n = 3 then 0 else 0x100000

/-- The ramp towards `target` starts. -/
def State.muteRamp (s : State) (n target : Nat) : State :=
  let x := s.ampCh n
  s.putAmp n { x with g0 := x.gain, g1 := target, n := s.get (AMP.CH_MUTE_RAMP n), k := 0, wait := none }

/-- The gate of a running channel is to follow its target: it waits for a crossing from the next pass on, or ramps at once. -/
def State.askMute (s : State) (n : Nat) : State :=
  let x := s.ampCh n
  let t := s.muteTarget n
  if !s.ampRuns n ∨ x.therm.isSome then s
  else if x.g1 = t then s.putAmp n { x with wait := none }
  else if s.get (AMP.CH_ZC_TIMEOUT n) = 0 then s.muteRamp n t
  else s.putAmp n { x with wait := some s.media }

/-- AMP_ZC_TIMEOUT (R335): no crossing within ZC_TIMEOUT passes. -/
def State.ampZcTimeout (s : State) (n : Nat) : State :=
  let s := (s.muteRamp n (s.muteTarget n)).count (AMP.CH_ZC_TIMEOUTS n)
  s.ampHeld AMP.INT_ZC_TIMEOUT 0x0809 n ([0, 0, 0, 0] ++ le 4 (s.get (AMP.CH_ZC_TIMEOUTS n)))

/-! ## Starting and stopping (R333, R334) -/

/-- The start sequence begins at row `row`: 0 with calibration, 1 as a restart; the mute written is in force. -/
def State.ampBegin (s : State) (n row : Nat) : State :=
  let g := if s.on (AMP.CH_MUTE n) then 0 else 0x100000
  let x := s.ampCh n
  let x := { x with phase := row, updates := 0, g0 := g, g1 := g, n := 0, k := 0, wait := none, therm := none, run := 0, limited := false,
                    period := s.get AMP.FREQ_SEL_P, cut := none, calN := 0, calV := 0, calI := 0, due := false }
  ((s.putAmp n x).set (AMP.CH_LIMITING n) 0).ampMove n 1

/-- All four gates low: the channel leaves for a state in which it does not run. -/
def State.ampLeave (s : State) (n st : Nat) : State :=
  let x := s.ampCh n
  ((s.putAmp n { x with wait := none, therm := none, cut := none, due := false }).set (AMP.CH_LIMITING n) 0).ampMove n st

/-- The channel may start now (R333, R342). -/
def State.ampMayStart (s : State) (n : Nat) : Bool :=
  s.on AMP.STATUS_PWM_OK && s.on (AMP.CH_EN n) && !s.ampCfgErr n && !s.boot.down.contains (4, n)

/-- EN is 1 and the channel is OFF: it starts where it may (R333, R342). -/
def State.ampTryStart (s : State) (n : Nat) : State :=
  if s.ampMayStart n ∧ s.ampState n = 0 then
    let x := s.ampCh n
    (s.setAmpCh n { x with retry := false }).ampBegin n 0
  else s

/-- EN is written 1. -/
def State.ampEnOn (s : State) (n : Nat) : State :=
  let s := s.set (AMP.CH_EN n) 1
  if s.ampState n = 3 then (s.ampMove n 2).askMute n else s.ampTryStart n

/-- EN is written 0: RETRY_CNT clears; the channel stops as its state has it. -/
def State.ampEnOff (s : State) (n : Nat) : State :=
  let s := (s.set (AMP.CH_EN n) 0).set (AMP.CH_RETRY_CNT n) 0
  let x := s.ampCh n
  let s := s.setAmpCh n { x with retry := false }
  match s.ampState n with
  | 1 | 4 | 6 => s.ampLeave n 0
  | 2 => (s.ampMove n 3).askMute n
  | _ => s

/-! ## Short, lockout, thermal (R337 to R344) -/

/-- Priority of the fault that the present loop update has brought channel n, 1 the highest; 9 for none (R344). Faults of one CORE cycle fall on one
update. -/
def State.faultNow (s : State) (n : Nat) : Nat :=
  match (s.ampCh n).fault with
  | some (c, p) => if c = s.cycles then p else 9
  | none => 9

def State.markFault (s : State) (n p : Nat) : State := s.setAmpCh n { s.ampCh n with fault := some (s.cycles, p) }

/-- LOCKOUT is entered. -/
def State.ampLockout (s : State) (n cause : Nat) : State :=
  let s := (s.set (AMP.CH_CAUSE n) cause).ampLeave n 5
  let d := [BitVec.ofNat 8 cause, BitVec.ofNat 8 (s.get (AMP.CH_RETRY_CNT n))]
  ((s.count (AMP.CH_LOCKOUTS n)).faultEvent 0x0803 13 n d).ampEvent AMP.INT_LOCKOUT 0x0803 n d

/-- A failed retry adds 1 to RETRY_CNT. -/
def State.ampRetryFail (s : State) (n : Nat) : State :=
  let x := s.ampCh n
  (s.countSat (AMP.CH_RETRY_CNT n)).setAmpCh n { x with retry := false }

/-- A short is made (R337), by limited cycles (1) or FLT_N (2): SHORT, or LOCKOUT once RETRY_CNT has come to RETRY_N. -/
def State.ampShort (s : State) (n cause : Nat) : State :=
  let failed := (s.ampCh n).retry
  let s := if failed then s.ampRetryFail n else s
  let lock := s.get (AMP.CH_RETRY_N n) == 0 || (failed && s.get (AMP.CH_RETRY_CNT n) == s.get (AMP.CH_RETRY_N n))
  let s := (s.set (AMP.CH_CAUSE n) cause).count (AMP.CH_SHORTS n)
  let s := s.ampEvent AMP.INT_SHORT 0x0802 n
    ([BitVec.ofNat 8 cause, BitVec.ofNat 8 (s.get (AMP.CH_RETRY_CNT n)), 0, 0] ++ le 4 (s.get (AMP.CH_SHORTS n)))
  if lock then s.ampLockout n cause else s.ampLeave n 4

/-- THERMAL is entered once the ramp to zero has ended (R340). -/
def State.ampThermal (s : State) (n cause : Nat) : State :=
  let s := (s.set (AMP.CH_CAUSE n) cause).ampLeave n 6
  (s.count (AMP.CH_THERMAL_SHUTS n)).ampEvent AMP.INT_THERMAL 0x0806 n
    ([BitVec.ofNat 8 cause, 0] ++ le 2 (s.get (AMP.SEN_H (n / 2))))

/-- The ramp of a thermal shut-down starts, without waiting for a crossing. A channel that a lower fault of the same update has stopped enters THERMAL (R344). -/
def State.ampHot (s : State) (n cause : Nat) : State :=
  if !s.ampRuns n then (if 3 < s.faultNow n ∧ s.faultNow n < 9 then (s.markFault n 3).ampThermal n cause else s)
  else if (s.ampCh n).therm.isSome then s
  else
    let s := (s.markFault n 3).muteRamp n 0
    let x := s.ampCh n
    if x.gain = 0 then s.ampThermal n cause else s.setAmpCh n { x with therm := some cause }

/-- Replies of AMP_START, AMP_STOP, AMP_FREQ_SET, AMP_COEF_SET and AMP_MUTE (R346). -/
def State.ampWaits (s : State) : State :=
  let st := fun (s0 : State) (w : Wait) (n : Nat) =>
    let x := s0.ampState n
    if w.kind = 2 then
      (if x = 2 then some 0 else if x = 1 ∨ x = 7 ∨ (x = 0 ∧ s0.on (AMP.CH_EN n) ∧ !s0.on AMP.STATUS_PWM_OK) then none
        else some Status.notInState)
    else if w.kind = 3 then (if x = 0 then some 0 else none)
    else if w.kind = 5 then (if s0.on AMP.FREQ_BUSY then none else some 0)
    else if w.kind = 6 then (if s0.on (AMP.CH_COEF_PEND n) then none else some 0)
    else (if (s0.ampCh n).wait.isSome then none else some 0)
  let pay := fun (s0 : State) (w : Wait) =>
    if w.kind = 5 then List.flatten [le 2 (s0.get AMP.FREQ_SEL_P), le 1 (s0.get AMP.FREQ_CLEAR), le 1 (s0.get AMP.FREQ_WORST),
      le 4 (s0.get AMP.FREQ_SEL_MARGIN)] else []
  s.settleWaits [2, 3, 5, 6, 7] (st s) (pay s)

/-- An effect on the amplifier, where the part has one, and the replies it ends. -/
def State.onAmp (s : State) (n : Nat) (f : State → State) : Out :=
  .next (if n < 8 ∧ !s.isNi then (f s).ampWaits else s)

/-- AMP_ZC_TIMEOUT. -/
def execAmpZcTimeout (n : Nat) (s : State) : Out :=
  s.onAmp n (fun s => if (s.ampCh n).wait.isSome then s.ampZcTimeout n else s)

/-- The mean of the sense samples of the calibration phase, full scale ÷ 32,768: its rounding, and the mean of no sample, are left open. -/
def State.offsetMean (s : State) (n : Nat) (sum : Int) : Int × State :=
  if n = 0 then
    let (v, s) := s.fresh 16
    (toSigned 16 v, s)
  else
    let (q, s) := s.freeDiv sum (n * 131072)
    (clampInt (-32768) 32767 q, s)

/-- AMP_CALIBRATION_DONE (R334 rows 1 and 2): the offsets are the means of the sense samples since the phase began. -/
def execAmpCalibrationDone (n : Nat) (s : State) : Out :=
  s.onAmp n (fun s =>
    let x := s.ampCh n
    if s.ampState n = 1 ∧ x.phase = 0 then
      let (v, s) := s.offsetMean x.calN x.calV
      let (i, s) := s.offsetMean x.calN x.calI
      let s := (s.seti (AMP.CH_OFS_V n) v).seti (AMP.CH_OFS_I n) i
      let lim : Int := ((s.get (AMP.CH_OFS_MAX n) * 128 : Nat) : Int)
      if lim < v.natAbs ∨ lim < i.natAbs then
        let big := if v.natAbs < i.natAbs then i else v
        let s := (s.count (AMP.CH_DC_FAULTS n)).ampEvent AMP.INT_DC 0x0807 n ([4, 0, 0, 0] ++ leI 4 (big * 2))
        (s.markFault n 2).ampLockout n 4
      else s.setAmpCh n { x with phase := 1 }
    else s)

/-- AMP_BOOT_DONE (R334 row 3). -/
def execAmpBootDone (n : Nat) (s : State) : Out :=
  s.onAmp n (fun s =>
    let x := s.ampCh n
    if s.ampState n = 1 ∧ x.phase = 1 then
      let h := halfSteps (s.ampPeriod n)
      let leg := Leg.start h (2 * h * max 1 (s.get (AMP.CH_BOOT_CYC n)))
      ((s.setAmpCh n { x with phase := 2, updates := 0, legA := leg, legB := if s.on (AMP.CH_MOD n) then leg else { leg with first := false } }).count
        (AMP.CH_RESTARTS n)).ampBits n
    else s)

/-- AMP_RAMP_DONE (R334 row 5). -/
def execAmpRampDone (n : Nat) (s : State) : Out :=
  s.onAmp n (fun s => if s.ampState n = 1 ∧ (s.ampCh n).phase = 2 then s.ampMove n 2 else s)

/-- AMP_STOP_DONE (R333): the mute ramp and 1 ms at zero reference have ended. -/
def execAmpStopDone (n : Nat) (s : State) : Out :=
  s.onAmp n (fun s => if s.ampState n = 3 ∧ (s.ampCh n).gain = 0 then s.ampLeave n 0 else s)

/-- FLT_N acts on a channel that runs, or that another fault of the same update has stopped (R337, R338, R344). -/
def State.ampFlt (s : State) (n act : Nat) : State :=
  let now := s.faultNow n
  let prio := if act = 0 ∨ act = 2 then 4 else 1
  let c := s.ampCh n
  if now < prio then
    (match c.therm with
     | some cause => s.ampThermal n cause
     | none => s)
  else if act = 0 then
    (if now = 5 then (s.markFault n 4).set (AMP.CH_CAUSE n) 2 else (s.markFault n 4).ampShort n 2)
  else if act = 2 then (((s.markFault n 4).setAmpCh n { c with retry := false, fault := some (s.cycles, 4) }).set (AMP.CH_CAUSE n) 2).ampLeave n 4
  else (s.markFault n 1).ampLockout n 2

/-- AMP_FAULT_PIN (R337, R338): FLT_N is qualified active. -/
def execAmpFaultPin (n : Nat) (s : State) : Out :=
  s.onAmp n (fun s =>
    if s.on (AMP.CH_FLT_PIN n) then s
    else
      let act := s.get (AMP.CH_FLT_ACTION n)
      let s := (s.set (AMP.CH_FLT_PIN n) 1).count (AMP.CH_EXT_FAULTS n)
      let s := s.ampEvent AMP.INT_EXT_FAULT 0x0804 n ([BitVec.ofNat 8 act, 0, 0, 0] ++ le 4 (s.get (AMP.CH_EXT_FAULTS n)))
      if s.ampRuns n ∨ s.faultNow n < 9 then s.ampFlt n act else s)

/-- AMP_FAULT_PIN_RELEASE (R338). The RETRY_MS wait that it starts under FLT_ACTION 2 ends by AMP_RETRY_DUE. -/
def execAmpFaultPinRelease (n : Nat) (s : State) : Out := s.onAmp n (fun s => s.set (AMP.CH_FLT_PIN n) 0)

/-- A retry of a channel in SHORT is made (R337). -/
def State.ampRetry (s : State) (n : Nat) : State :=
  let x := s.ampCh n
  if s.on (AMP.CH_FLT_PIN n) then
    if s.get (AMP.CH_FLT_ACTION n) = 2 then s
    else
      let s := s.ampRetryFail n
      if s.get (AMP.CH_RETRY_CNT n) = s.get (AMP.CH_RETRY_N n) then s.ampLockout n (s.get (AMP.CH_CAUSE n)) else s
  else (s.setAmpCh n { x with retry := true }).ampBegin n 1

/-- AMP_RETRY_DUE (R337): RETRY_MS has passed since SHORT was entered, or since a failed retry, or since FLT_N was released. While the PWM clock is
stopped the retry waits (R342). -/
def execAmpRetryDue (n : Nat) (s : State) : Out :=
  s.onAmp n (fun s =>
    if s.ampState n = 4 then
      (if s.on AMP.STATUS_PWM_OK then s.ampRetry n else s.setAmpCh n { s.ampCh n with due := true })
    else s)

/-- AMP_RETRY_CLEAR (R337). -/
def execAmpRetryClear (n : Nat) (s : State) : Out :=
  s.onAmp n (fun s =>
    let x := s.ampCh n
    if x.retry ∧ s.ampRuns n then (s.setAmpCh n { x with retry := false }).set (AMP.CH_RETRY_CNT n) 0 else s)

/-- DC_FAULT (R341): the filtered output, Q0.16, has stayed above DC_THR in magnitude for DC_TIME. -/
def execDcFault (n : Nat) (value : Int) (s : State) : Out :=
  s.onAmp n (fun s =>
    if (s.ampRuns n ∨ s.faultNow n < 9) ∧ s.get (AMP.CH_DC_TIME n) ≠ 0 ∧ s.get (AMP.CH_DC_THR n) < value.natAbs then
      let s := (s.count (AMP.CH_DC_FAULTS n)).ampEvent AMP.INT_DC 0x0807 n ([3, 0, 0, 0] ++ leI 4 value)
      if s.faultNow n < 2 then s else (s.markFault n 2).ampLockout n 3
    else s)

/-- UNLOCK (R333, R337): START with calibration where EN is 1, else OFF. One that comes while the PWM clock is stopped is held (R342). -/
def State.ampUnlock (s : State) (n : Nat) : State :=
  if s.ampState n ≠ 5 then s
  else if !s.on AMP.STATUS_PWM_OK then s.setAmpCh n { s.ampCh n with unlock := true }
  else
    let s := (s.set (AMP.CH_RETRY_CNT n) 0).setAmpCh n { s.ampCh n with unlock := false, retry := false }
    if s.ampMayStart n then s.ampBegin n 0 else s.ampLeave n 0

/-- AMP_UNLOCK_WRITE (R337). -/
def hostAmpUnlockWrite (n : Nat) (v : Word) (s : State) : Out :=
  s.onAmp n (fun s => if v.toNat.testBit 0 then s.ampUnlock n else s)

/-! ## The PWM clock (R333, R342) -/

/-- XO_IN is lost: running channels halt. -/
def State.ampHalt (s : State) : State :=
  if s.isNi then s
  else
    let halt := fun (s : State) (n : Nat) => if s.ampRuns n then (s.set (AMP.CH_CAUSE n) 7).ampLeave n 7 else s.ampBits n
    ((List.range 8).foldl halt (s.set AMP.STATUS_PWM_OK 0)).ampWaits

/-- The PWM clock runs again: an EN or an UNLOCK written meanwhile takes effect (R36), and a retry that fell due is made (R342). -/
def State.ampClockBack (s : State) : State :=
  let back := fun (s : State) (n : Nat) =>
    let s := if (s.ampCh n).unlock then s.ampUnlock n else s
    if s.ampState n = 4 ∧ (s.ampCh n).due then (s.setAmpCh n { s.ampCh n with due := false }).ampRetry n else s.ampTryStart n
  if s.isNi then s else ((List.range 8).foldl back (s.set AMP.STATUS_PWM_OK 1)).ampWaits

/-- PWM_CLOCK_RESUME (R333): the clock has run for 1 ms. -/
def execPwmClockResume (s : State) : Out :=
  if s.isNi ∨ !s.on AMP.STATUS_PWM_OK then .next s
  else
    let back := fun (s : State) (n : Nat) =>
      if s.ampState n = 7 then
        (if s.on (AMP.CH_EN n) ∧ !s.ampCfgErr n then
          let x := s.ampCh n
          (s.setAmpCh n { x with retry := false }).ampBegin n 0
        else s.ampLeave n 0)
      else s
    .next ((List.range 8).foldl back s).ampWaits

/-! ## The loop (R328 to R330, R336) -/

def sat48 (i : Int) : Int := clampInt (-140737488355328) 140737488355327 i

/-- A biquad: output and states after one sample; coefficients Q2.30 (assumption 26 on rounding). -/
def Biquad.step (b : Biquad) (c : List Int) (x : Int) : Int × Biquad :=
  let y := sat48 (divRound (nth c 0 0 * x + nth c 1 0 * b.x1 + nth c 2 0 * b.x2 - nth c 3 0 * b.y1 - nth c 4 0 * b.y2) (2 ^ 30))
  (y, ⟨sat48 x, b.x1, y, b.y1⟩)

/-- The coefficients of biquad k in force. -/
def State.bqCoefs (s : State) (n k : Nat) : List Int := (List.range 5).map (fun j => s.effi (AMP.CH_BQ n (5 * k + j)))

/-- The three biquads in a row. -/
def State.biquads (s : State) (n : Nat) (bs : List Biquad) (x : Int) : Int × List Biquad :=
  let (y0, b0) := (nth bs 0 ⟨0, 0, 0, 0⟩).step (s.bqCoefs n 0) x
  let (y1, b1) := (nth bs 1 ⟨0, 0, 0, 0⟩).step (s.bqCoefs n 1) y0
  let (y2, b2) := (nth bs 2 ⟨0, 0, 0, 0⟩).step (s.bqCoefs n 2) y1
  (y2, [b0, b1, b2])

/-- g_ramp at the kth update since row 3 of R334 (2 × 393,216,000 ÷ SEL_P updates a second). -/
def State.rampGain (s : State) (n k : Nat) : Nat :=
  let ms := s.get (AMP.CH_START_RAMP n)
  if s.ampState n ≠ 1 ∨ ms = 0 then 0x100000
  else min 0x100000 (divRound ((k * s.ampPeriod n * 0x100000 : Nat) : Int) (786432 * ms)).toNat

/-- DMAX in force, Q7.32. -/
def State.dmax (s : State) (n : Nat) : Int := ((min (s.get (AMP.CH_DMAX n)) 0xFD70 * 65536 : Nat) : Int)

/-- The input of channel n in the period of pass p: silence where its row failed check point 11. -/
def State.ampIn (s : State) (n p : Nat) : Int :=
  if (s.ampCh n).silent.contains p then 0
  else match s.amp.ins.find? (fun x => x.period == p) with
    | some x => nth x.vals n 0
    | none => 0

/-- Row 80 does not hold pass p: no pass wrote it, or its values are not those sealed (R241). -/
def State.ampRowWrong (s : State) (p : Nat) : Bool :=
  match s.amp.ins.find? (fun x => x.period == p) with
  | some x => x.crc != blockSeal 3 80 p x.vals
  | none => true

/-- Position in the base period, 2^−32 ns. -/
def State.periodPos (s : State) : Nat := s.ctr * s.base % ctrPerSec / s.base

/-- x of R328: the values of the passes from 5 base periods ago back, interpolated (R330). -/
def State.ampX (s : State) (n p : Nat) : Int :=
  sat40 (Config.ampInterp ((List.range 8).map (fun j => s.ampIn n (p - j))) s.periodPos)

/-- One update of the loop: v and i in Q7.32. -/
def State.ampLoop (s : State) (n : Nat) (x v i : Int) : State :=
  let c := s.ampCh n
  let g := ((s.rampGain n (c.updates + 1) * c.gain : Nat) : Int)
  let r := sat40 (divRound (x * gainOf (s.get (AMP.CH_VGAIN n)) * gainOf (s.get (AMP.CH_GAIN_Q n)) * g) (2 ^ 80))
  let e := r - (v - s.geti (AMP.CH_OFS_V n) * 131072)
  let (u, bq) := s.biquads n c.bq e
  let ei := u - (i - s.geti (AMP.CH_OFS_I n) * 131072)
  let d := s.dmax n
  let acc := clampInt (-d) d (c.acc + divRound (s.effi (AMP.CH_KI_I n) * ei) (2 ^ 24))
  let m := divRound (s.effi (AMP.CH_KP_I n) * ei) (2 ^ 24) + acc + divRound (s.effi (AMP.CH_FF n) * r) 1048576
  let mc := clampInt (-d) d m
  let s := s.setAmpCh n { c with bq := bq, acc := acc, m := mc, updates := c.updates + 1 }
  if mc = m then s else s.count (AMP.CH_DUTY_CLAMP n)

/-- A PWM cycle ends at a valley: whether it was limited, and SHORT_N in a row (R336, R337). Under a higher fault of the same update the short is only
counted (R344). -/
def State.ampCycle (s : State) (n : Nat) : State :=
  let c := s.ampCh n
  if c.limited then
    let s := ((s.count (AMP.CH_LIMIT_CYC n)).set (AMP.CH_LIMITING n) 1).setAmpCh n { c with limited := false, run := c.run + 1 }
    let lim := if s.get (AMP.CH_SHORT_N n) = 0 then 1 else s.get (AMP.CH_SHORT_N n)
    if c.run + 1 < lim then s
    else if s.faultNow n < 5 then s.count (AMP.CH_SHORTS n)
    else (s.markFault n 5).ampShort n 1
  else (s.set (AMP.CH_LIMITING n) 0).setAmpCh n { c with run := 0 }

/-- Check point 11 on the row of pass p, once for the channel: where it fails the channel's input is silence for that period, and stays so as later
updates use it. -/
def State.ampSeal (s : State) (n p : Nat) (damaged : Bool) : State :=
  if (s.ampCh n).seen = some p then s
  else
    let (bad, _, s) := s.checkRow 11 n 80 p false (damaged || s.ampRowWrong p)
    let c := s.ampCh n
    s.setAmpCh n { c with seen := some p, silent := if bad then p :: c.silent.filter (fun q => decide (p < q + 8)) else c.silent }

/-- AMP_LOOP_UPDATE (R328): at the valley (true) or the peak of channel n's carrier, with the sense samples v and i in Q7.32; `damaged`
says that the seal of the destination row in force does not match. In the calibration phase the samples are summed (R334). -/
def execAmpLoopUpdate (n : Nat) (valley : Bool) (v i : Int) (damaged : Bool) (s : State) : Out :=
  s.onAmp n (fun s =>
    let c := s.ampCh n
    if s.ampState n = 1 ∧ c.phase = 0 then s.setAmpCh n { c with calN := c.calN + 1, calV := c.calV + v, calI := c.calI + i }
    else
      let s := if valley ∧ (s.ampSwitches n ∨ s.faultNow n < 5) then s.ampCycle n else s
      if !s.ampSwitches n then s
      else
        let p := s.media - 5
        let s := s.ampSeal n p damaged
        let s := s.ampLoop n (s.ampX n p) v i
        s.ampLegs n valley (s.ampCh n).m)

/-- CURRENT_LIMIT (R336): the shunt current, in units of ILIM, crosses ILIM in step `pos` of the half-cycle: the high sides are off for the rest of it. -/
def execCurrentLimit (n : Nat) (shunt : Int) (pos : Nat) (s : State) : Out :=
  s.onAmp n (fun s =>
    let c := s.ampCh n
    if !s.ampSwitches n ∨ c.cut.isSome ∨ shunt.natAbs ≤ max 1 (s.get (AMP.CH_ILIM n)) then s
    else
      let s := s.setAmpCh n { c with limited := true, cut := some pos }
      if c.limited ∨ s.on (AMP.CH_LIMITING n) then s
      else s.ampHeld AMP.INT_LIMIT 0x080A n ([0, 0, 0, 0] ++ le 4 (s.get (AMP.CH_LIMIT_CYC n))))

/-- The shadow bank of channel n is asked for (R329). -/
def State.ampSwap (s : State) (n : Nat) : State := s.set (AMP.CH_COEF_PEND n) 1

/-- COEF_SWAP_WRITE (R329). -/
def hostCoefSwapWrite (n : Nat) (v : Word) (s : State) : Out :=
  s.onAmp n (fun s => if v.toNat.testBit 0 then s.ampSwap n else s)

/-- COEF_SWAP_APPLY (R329): the next PWM cycle boundary of channel n. -/
def execCoefSwapApply (n : Nat) (s : State) : Out :=
  s.onAmp n (fun s =>
    if s.on (AMP.CH_COEF_PEND n) ∧ s.on AMP.STATUS_PWM_OK then
      let s := (s.boundary .swap (inOffs (0x1A0400 + 0x100 * n) (0x1A0500 + 0x100 * n))).set (AMP.CH_COEF_PEND n) 0
      let c := s.ampCh n
      s.setAmpCh n { c with bq := List.replicate 3 ⟨0, 0, 0, 0⟩, acc := 0 }
    else s)

/-! ## The switching frequency (R332) -/

/-- The carriers that take part: index, FREQ and HALFW in Hz. -/
def State.carriers (s : State) : List (Nat × Nat × Nat) :=
  ((List.range 16).filter (fun c => s.on (AMP.CAR_EN c) && decide (1000 ≤ s.get (AMP.CAR_FREQ c) ∧ s.get (AMP.CAR_FREQ c) ≤ 300000))).map
    (fun c => (c, s.get (AMP.CAR_FREQ c) * 100, s.get (AMP.CAR_HALFW c) * 100))

/-- P times the margin of period P against a carrier of `f` Hz and half-width `h` Hz. -/
def marginOf (p f h : Nat) : Int :=
  let k := 393216000
  let n := if f * p / k = 0 then 1 else f * p / k
  let d := fun (n : Nat) => (((n * k : Nat) : Int) - ((f * p : Nat) : Int)).natAbs
  ((min (d n) (d (n + 1)) : Nat) : Int) - ((h * p : Nat) : Int)

/-- The tightest carrier of period P: P times its margin, and its index; the lowest index on a tie. -/
def tightest (cs : List (Nat × Nat × Nat)) (p : Nat) : Option (Int × Nat) :=
  cs.foldl (fun a c =>
    let m := marginOf p c.2.1 c.2.2
    match a with
    | none => some (m, c.1)
    | some (b, i) => if m < b then some (m, c.1) else some (b, i)) none

/-- The candidates in order. -/
def State.candidates (s : State) : List Nat :=
  let lo := clampNat 320 1536 (s.get AMP.P_MIN)
  let hi := clampNat 320 1536 (s.get AMP.P_MAX)
  let step := if s.get AMP.P_STEP = 0 then 1 else s.get AMP.P_STEP
  let pref := clampNat lo hi (s.get AMP.P_PREF)
  let more := (List.range ((hi - lo) / step)).flatMap (fun j =>
    let d := (j + 1) * step
    [pref + d] ++ (if d ≤ pref then [pref - d] else []))
  pref :: more.filter (fun p => decide (lo ≤ p ∧ p ≤ hi))

/-- The candidate of the largest margin, the earliest on a tie. -/
def bestOf (cs : List (Nat × Nat × Nat)) : List Nat → Option (Nat × Int × Nat) → Option (Nat × Int × Nat)
  | [], a => a
  | p :: ps, a =>
    match tightest cs p, a with
    | some (m, w), some (q, mq, wq) => bestOf cs ps (if mq * (p : Int) < m * (q : Int) then some (p, m, w) else some (q, mq, wq))
    | some (m, w), none => bestOf cs ps (some (p, m, w))
    | none, a => bestOf cs ps a

/-- The choice: SEL_P, CLEAR, and with a carrier P times the margin and the entry that sets it. -/
def State.chooseP (s : State) : Nat × Bool × Option (Int × Nat) :=
  let cs := s.carriers
  let ps := s.candidates
  let guard' := s.get AMP.GUARD * 100
  let clear := fun (p : Nat) => match tightest cs p with
    | some (m, _) => decide (((guard' * p : Nat) : Int) ≤ m)
    | none => true
  match ps.find? clear with
  | some p => (p, true, tightest cs p)
  | none => match bestOf cs ps none with
    | some (p, m, w) => (p, false, some (m, w))
    | none => (s.get AMP.FREQ_SEL_P, false, none)

/-- FREQ_SELECT_DONE (R332). -/
def execFreqSelectDone (s : State) : Out :=
  if s.isNi ∨ !s.on AMP.FREQ_BUSY then .next s
  else
    let (p, clear, t) := s.chooseP
    let (margin, worst, s) := match t with
      | some (m, w) => let (q, s) := s.freeDiv m p; (q, w, s)
      | none => (0x7FFFFFFF, 0x1F, s)
    let s := ((s.set AMP.FREQ_BUSY 0).set AMP.FREQ_SEL_P p).setOn AMP.FREQ_CLEAR clear
    let s := ((s.set AMP.FREQ_WORST worst).seti AMP.FREQ_SEL_MARGIN margin).ampCfg
    let s := s.ampEvent AMP.INT_FREQ 0x0808 0
      (le 2 p ++ [if clear then 1 else 0, BitVec.ofNat 8 worst] ++ le 4 (s.get AMP.FREQ_SEL_MARGIN))
    .next s.ampWaits

/-- FREQ_SEL_RUN (R332): a host write of FREQ_SEL. -/
def hostFreqSelRun (source : Nat) (v : Word) (s : State) : Out :=
  .next (if s.isNi ∨ !v.toNat.testBit 0 then s
    else if s.ampAllIdle then s.set AMP.FREQ_BUSY 1 else s.cfgReject source AMP.FREQ_RUN.off)

/-! ## Sensors (R339, R340) -/

/-- The target gain of sensor i at heat code H, Q3.20; at SHUT and above it stands. -/
def State.quenchTarget (s : State) (i h : Nat) : Nat :=
  let (w, sh) := (s.get (AMP.SEN_WARN i), s.get (AMP.SEN_SHUT i))
  let g := gainOf (s.get (AMP.SEN_G_MIN i))
  if h ≤ w then 0x100000
  else if h < sh then
    ofSigned 24 (divRound (1048576 * ((sh - w : Nat) : Int) - (1048576 - g) * ((h - w : Nat) : Int)) (sh - w))
  else nth s.amp.target i 0x100000

/-- GAIN_Q one millisecond nearer its target, by at most 2^−10. -/
def quenchStep (g t : Nat) : Nat := ofSigned 24 (gainOf g + clampInt (-1024) 1024 (gainOf t - gainOf g))

/-- GAIN_Q of sensor i and of its two channels; each rise of QUENCH_ACTIVE is reported. -/
def State.quench (s : State) (i : Nat) : State :=
  let h := s.get (AMP.SEN_H i)
  let t := s.quenchTarget i h
  let s := { s with amp := { s.amp with target := s.amp.target.set i t } }
  let g := quenchStep (s.get (AMP.SEN_GAIN_Q i)) t
  let act := decide (gainOf g < 1048576)
  let rise := act && !s.on (AMP.CH_QUENCH_ACTIVE (2 * i))
  let s := s.set (AMP.SEN_GAIN_Q i) g
  let s := [2 * i, 2 * i + 1].foldl (fun s n => (s.set (AMP.CH_GAIN_Q n) g).setOn (AMP.CH_QUENCH_ACTIVE n) act) s
  if rise then s.ampEvent AMP.INT_QUENCH 0x0805 i (le 2 h ++ [0, 0] ++ le 4 t) else s

/-- What the temperature does to channel n of sensor i (R340). -/
def State.ampHeat (i : Nat) (s : State) (n : Nat) : State :=
  let h := s.get (AMP.SEN_H i)
  let ntc := s.on (AMP.SEN_NTC_FAULT i)
  if ntc ∨ s.get (AMP.SEN_SHUT i) ≤ h then s.ampHot n (if ntc then 6 else 5)
  else if s.ampState n = 6 ∧ h ≤ s.get (AMP.SEN_REC i) then
    (if s.on (AMP.CH_EN n) ∧ s.on AMP.STATUS_PWM_OK then s.ampBegin n 1 else if s.on (AMP.CH_EN n) then s else s.ampLeave n 0)
  else s

/-- NTC_CONVERSION (R339): RATIO of sensor i, once per millisecond. The mean is taken over the conversions there have been,
16 at most (assumption 27). -/
def execNtcConversion (i ratio : Nat) (s : State) : Out :=
  if i < 4 ∧ !s.isNi then
    let ratio := min ratio 65535
    let bad := decide (ratio < 0x100 ∨ 0xFF00 < ratio)
    let l := ((ratio :: nth s.amp.conv i []).take 16)
    let s := { s with amp := { s.amp with conv := s.amp.conv.set i l } }
    let codes := l.map (fun r => if s.on (AMP.SEN_DIR i) then r else 65535 - r)
    let (mean, s) := if bad then (65535, s) else s.freeDiv ((codes.sum : Nat) : Int) l.length
    let s := ((s.set (AMP.SEN_RATIO i) ratio).set (AMP.SEN_H i) mean.toNat).setOn (AMP.SEN_NTC_FAULT i) bad
    let s := [2 * i, 2 * i + 1].foldl (fun s n => s.setOn (AMP.CH_NTC_FAULT n) bad) s
    .next (([2 * i, 2 * i + 1].foldl (State.ampHeat i) (s.quench i)).ampWaits)
  else .next s

/-! ## Register writes -/

/-- The configuration word of channel n is written, with EN and MUTE (R333, R335, R349). -/
def State.ampCfgWrite (s : State) (source n w : Nat) : State :=
  let off := (AMP.CH_EN n).off
  let en := w.testBit 31
  let refuse := en && !s.on (AMP.CH_EN n) && s.noStart 4 n
  let w := if refuse then w - 2 ^ 31 else w
  let en := en && !refuse
  let was := s.on (AMP.CH_EN n)
  let mute := s.on (AMP.CH_MUTE n)
  let s := if refuse then s.cfgReject source off else s
  let s := ((s.writeWord AMP.fields (s.ampIdle n || (en && !was)) source off w).boundary .zeroCross (fun k => k == (AMP.CH_MUTE n).key)).ampCfg
  let s := if s.on (AMP.CH_MUTE n) = mute then s else s.askMute n
  if en then (if was then s.ampTryStart n else s.ampEnOn n) else if was then s.ampEnOff n else s

/-- AMP_EN_WRITE (R333): a host write of CFG of channel n. -/
def hostAmpEnWrite (source n : Nat) (v : Word) (s : State) : Out := s.onAmp n (fun s => s.ampCfgWrite source n v.toNat)

/-- A host write of a word of sensor i, `o` its offset in the sensor: an order of thresholds that R339 forbids is refused, DIR is
static while a channel of the pair runs. -/
def State.senWrite (s : State) (source i o w : Nat) : State :=
  let off := 0x1A0100 + 0x20 * i + o
  let warn := if o = 0 then w / 65536 else s.get (AMP.SEN_WARN i)
  let shut := if o = 0 then w % 65536 else s.get (AMP.SEN_SHUT i)
  let rec' := if o = 4 then w / 65536 else s.get (AMP.SEN_REC i)
  if (o = 0 ∨ o = 4) ∧ !decide (rec' < warn ∧ warn < shut) then s.cfgReject source off
  else (s.writeWord AMP.fields (s.ampIdle (2 * i) && s.ampIdle (2 * i + 1)) source off w).ampCfg

/-! ## Commands (R346) -/

/-- A command of group 0x08: NOT_IN_STATE on an NC2048-NI (R2). -/
def ampCmd (opcode : Nat) (sch : List PSpec) (body : Params → State → Reply × State) (r : Req) (p : List Tlv) (s : State) : Out :=
  if s.isNi then .next (s.finish r opcode (Reply.err Status.notInState)) else runCmd opcode sch body r p s


def carrierFlds (c : Nat) : List PFld :=
  [⟨7, AMP.CAR_EN c, .static⟩, ⟨8, AMP.CAR_FREQ c, .static⟩, ⟨9, AMP.CAR_HALFW c, .static⟩]

def freqFlds : List PFld :=
  [⟨1, AMP.P_MIN, .static⟩, ⟨2, AMP.P_MAX, .static⟩, ⟨3, AMP.P_PREF, .static⟩, ⟨4, AMP.P_STEP, .static⟩, ⟨5, AMP.GUARD, .static⟩]

/-- AMP_FREQ_SET: P_MIN; P_MAX; P_PREF; P_STEP; GUARD; carrier entries of index, EN, FREQ and HALFW; RUN. -/
def execAmpFreqSet (r : Req) (p : List Tlv) (s : State) : Out :=
  let sch := [popt 1 2 0 2047, popt 2 2 0 2047, popt 3 2 0 2047, popt 4 1 0 255, popt 5 2 0 0xFFFF, prep 6 1 0 15, prep 7 1 0 1,
    prep 8 4 0 0x7FFFF, prep 9 1 0 255, popt 10 1 0 1]
  if s.isNi then .next (s.finish r 0x0801 (Reply.err Status.notInState))
  else match s.refuses r 0x0801 sch p with
    | some e => .next (s.finish r 0x0801 e)
    | none =>
      let es := (entryRuns [6, 7, 8, 9] p).getD []
      let idle := s.ampAllIdle
      let bad := !idle && ((changesStatic s p freqFlds).isSome || es.any (fun e => (changesStatic s e (carrierFlds (Params.val e 6))).isSome))
      if (entryRuns [6, 7, 8, 9] p).isNone then .next (s.finish r 0x0801 (Reply.err Status.badParam))
      else if bad ∨ (Params.val p 10 = 1 ∧ !idle) then .next (s.finish r 0x0801 (Reply.err Status.notInState))
      else
        let s := writeFlds s p freqFlds
        let s := es.foldl (fun s e => writeFlds s e (carrierFlds (Params.val e 6))) s
        if Params.val p 10 = 1 then
          .next ((s.set AMP.FREQ_BUSY 1).addWait ⟨r, 0x0801, 5, 10, [0], [0], [waiting], [0], [], 0, []⟩)
        else .next (s.finish r 0x0801 (Reply.ok []))

def ampChFlds (n : Nat) : List PFld :=
  [⟨4, AMP.CH_MOD n, .static⟩, ⟨5, AMP.CH_PHASE n, .static⟩, ⟨6, AMP.CH_FLT_ACTION n, .static⟩, ⟨7, AMP.CH_FLT_FILT n, .static⟩,
   ⟨8, AMP.CH_DEADTIME n, .static⟩, ⟨9, AMP.CH_VGAIN n, .static⟩, ⟨10, AMP.CH_DMAX n, .static⟩, ⟨11, AMP.CH_RETRY_N n, .live⟩,
   ⟨12, AMP.CH_SHORT_N n, .live⟩, ⟨13, AMP.CH_ILIM n, .live⟩, ⟨14, AMP.CH_RETRY_MS n, .live⟩, ⟨15, AMP.CH_CLEAR_MS n, .live⟩,
   ⟨16, AMP.CH_START_RAMP n, .live⟩, ⟨17, AMP.CH_ZC_TIMEOUT n, .live⟩, ⟨18, AMP.CH_MUTE_RAMP n, .live⟩,
   ⟨19, AMP.CH_DC_THR n, .live⟩, ⟨20, AMP.CH_DC_TIME n, .live⟩, ⟨21, AMP.CH_OFS_MAX n, .static⟩, ⟨22, AMP.CH_BOOT_CYC n, .static⟩]

/-- MUTE of channel n is written. -/
def State.ampMute (s : State) (n v : Nat) : State :=
  if s.get (AMP.CH_MUTE n) = v then s else (s.set (AMP.CH_MUTE n) v).askMute n

/-- AMP_CH_SET: Channel; the fields of CFG, VGAIN, DMAX, LIMIT, RETRY, RAMP, DC and BOOT (R349), EN and MUTE first. -/
def execAmpChSet (r : Req) (p : List Tlv) (s : State) : Out :=
  let sch := [preq 1 1 0 7, popt 2 1 0 1, popt 3 1 0 1, popt 4 1 0 1, popt 5 1 0 7, popt 6 1 0 3, popt 7 1 0 255, popt 8 1 0 255,
    psig 9 4 24, popt 10 2 0 0xFFFF, popt 11 1 0 15, popt 12 1 0 255, popt 13 2 0 0xFFF, popt 14 2 0 0xFFFF, popt 15 2 0 0xFFFF]
  let sch2 := [popt 16 2 0 0xFFF, popt 17 2 0 0x3FF, popt 18 2 0 0x3FF, popt 19 2 0 0xFFFF, popt 20 2 0 0xFFFF, popt 21 1 0 255,
    popt 22 1 0 255]
  ampCmd 0x0802 (List.flatten [sch, sch2]) (fun p s =>
    let n := Params.val p 1
    let idle := s.ampIdle n
    if Params.val? p 2 = some 1 ∧ !s.on (AMP.CH_EN n) ∧ s.noStart 4 n then (Reply.errAt Status.notInState p 2, s)
    else
      let (rep, s) := setFlds (idle || (Params.val? p 2 == some 1 && !s.on (AMP.CH_EN n))) (ampChFlds n) p s
      if rep.status ≠ 0 then (rep, s)
      else
        let s := s.ampCfg
        let s := match Params.val? p 3 with
          | some v => s.ampMute n v
          | none => s
        (rep, (match Params.val? p 2 with
          | some 1 => s.ampEnOn n
          | some _ => s.ampEnOff n
          | none => s).ampWaits)) r p s

def coefFlds (n : Nat) : List PFld :=
  List.flatten [(List.range 15).map (fun j => ⟨2 + j, AMP.CH_BQ n j, .swap⟩),
    [⟨17, AMP.CH_KP_I n, .swap⟩, ⟨18, AMP.CH_KI_I n, .swap⟩, ⟨19, AMP.CH_FF n, .swap⟩, ⟨20, AMP.CH_VGAIN n, .static⟩,
     ⟨21, AMP.CH_DMAX n, .static⟩]]

/-- AMP_COEF_SET: Channel; the coefficients of R329 in its order; SWAP. With SWAP the reply waits for the swap. -/
def execAmpCoefSet (r : Req) (p : List Tlv) (s : State) : Out :=
  let sch := List.flatten [[preq 1 1 0 7], (List.range 15).map (fun j => popt (2 + j) 4 0 0xFFFFFFFF),
    [popt 17 4 0 0xFFFFFFFF, popt 18 4 0 0xFFFFFFFF, psig 19 4 24, psig 20 4 24, popt 21 2 0 0xFFFF, popt 22 1 0 1]]
  if s.isNi then .next (s.finish r 0x0803 (Reply.err Status.notInState))
  else match s.refuses r 0x0803 sch p with
    | some e => .next (s.finish r 0x0803 e)
    | none =>
      let n := Params.val p 1
      let (rep, s) := setFlds (s.ampIdle n) (coefFlds n) p s
      if rep.status = 0 ∧ Params.val p 22 = 1 then
        .next ((s.ampSwap n).addWait ⟨r, 0x0803, 6, 22, [0], [n], [waiting], [0], [], 0, []⟩)
      else .next (s.finish r 0x0803 rep)

/-- Start one channel for AMP_START. -/
def State.ampStartPart (n : Nat) (s : State) : Nat × State :=
  if s.ampCfgErr n then (Status.badParam, s)
  else if s.ampState n = 5 ∨ s.ampState n = 6 ∨ s.noStart 4 n ∨ s.boot.down.contains (4, n) then (Status.notInState, s)
  else (waiting, s.ampEnOn n)

/-- A command over an 8-bit channel bitmap, each channel a part, whose reply waits under `kind`. -/
def ampSplit (opcode kind : Nat) (sch : List PSpec) (part : Params → PartRun) (r : Req) (p : List Tlv) (s : State) : Out :=
  if s.isNi then .next (s.finish r opcode (Reply.err Status.notInState))
  else match s.refuses r opcode sch p with
    | some e => .next (s.finish r opcode e)
    | none =>
      let ns := bitsOf 8 (Params.val p 1)
      let was := ns.map (fun n => if kind = 7 then s.get (AMP.CH_MUTE n) else s.get (AMP.CH_EN n))
      let (sts, s) := runParts (part p) ns s
      let off := Params.offset p 1 0
      .next ((s.addWait ⟨r, opcode, kind, 1, ns, ns, sts, ns.map (fun _ => off), was, 0, []⟩).ampWaits)

/-- A part of a command over a channel bitmap is undone: EN, or MUTE, has again the value it had; an UNLOCK cannot be undone. -/
def State.ampUndo (kind was n : Nat) (s : State) : Nat × State :=
  if kind = 9 then (Status.notInState, s)
  else if kind = 7 then (0, s.ampMute n was)
  else if s.get (AMP.CH_EN n) = was then (0, s)
  else (0, if was = 0 then s.ampEnOff n else s.ampEnOn n)

/-- AMP_START: 8-bit channel bitmap. -/
def execAmpStart (r : Req) (p : List Tlv) (s : State) : Out := ampSplit 0x0804 2 [preq 1 1 0 255] (fun _ => State.ampStartPart) r p s

/-- AMP_STOP: channel bitmap. -/
def execAmpStop (r : Req) (p : List Tlv) (s : State) : Out :=
  ampSplit 0x0805 3 [preq 1 1 0 255] (fun _ n s => (waiting, s.ampEnOff n)) r p s

/-- AMP_MUTE: channel bitmap; MUTE. -/
def execAmpMute (r : Req) (p : List Tlv) (s : State) : Out :=
  ampSplit 0x0806 7 [preq 1 1 0 255, preq 2 1 0 1] (fun p n s => (waiting, s.ampMute n (Params.val p 2))) r p s

/-- AMP_UNLOCK: channel bitmap. -/
def execAmpUnlock (r : Req) (p : List Tlv) (s : State) : Out :=
  ampSplit 0x0807 9 [preq 1 1 0 255] (fun _ n s =>
    if s.ampState n = 5 then (0, s.ampUnlock n) else (Status.notInState, s)) r p s

/-- AMP_QUENCH_SET: Sensor; WARN; SHUT; REC; DIR; G_MIN. -/
def execAmpQuenchSet (r : Req) (p : List Tlv) (s : State) : Out :=
  ampCmd 0x0808 [preq 1 1 0 3, popt 2 2 0 0xFFFF, popt 3 2 0 0xFFFF, popt 4 2 0 0xFFFF, popt 5 1 0 1, psig 6 4 24] (fun p s =>
    let i := Params.val p 1
    let warn := (Params.val? p 2).getD (s.get (AMP.SEN_WARN i))
    let shut := (Params.val? p 3).getD (s.get (AMP.SEN_SHUT i))
    let rec' := (Params.val? p 4).getD (s.get (AMP.SEN_REC i))
    if !decide (rec' < warn ∧ warn < shut) then (Reply.err Status.badParam, s)
    else
      let (rep, s) := setFlds (s.ampIdle (2 * i) && s.ampIdle (2 * i + 1)) [⟨2, AMP.SEN_WARN i, .live⟩, ⟨3, AMP.SEN_SHUT i, .live⟩,
        ⟨4, AMP.SEN_REC i, .live⟩, ⟨5, AMP.SEN_DIR i, .static⟩, ⟨6, AMP.SEN_G_MIN i, .live⟩] p s
      (rep, s.ampCfg)) r p s

/-- AMP_STATUS_GET. -/
def execAmpStatusGet (r : Req) (p : List Tlv) (s : State) : Out :=
  ampCmd 0x0809 [] (getBody (fun _ s =>
    let w := fun (o : Nat) => le 4 (s.word AMP.fields (0x1A0000 + o))
    List.flatten [w 4, w 0x20, w 0x24, (List.range 4).flatMap (fun i => w (0x10C + 0x20 * i) ++ w (0x110 + 0x20 * i)),
      (List.range 8).flatMap (fun n => [0x20, 0x28, 0xC0, 0xC4, 0xC8, 0xCC, 0xD0, 0xD4, 0xD8, 0xDC, 0xE0].flatMap (fun o =>
        w (0x400 + 0x100 * n + o)))])) r p s

/-! ## The amplifier in a pass (R335) -/

/-- Pass n of channel c: a waiting change starts at a crossing, a ramp takes a step (assumption 24), a thermal ramp ends. -/
def State.ampStep (n : Nat) (s : State) (c : Nat) : State :=
  let x := s.ampCh c
  if !s.ampRuns c then s
  else match x.wait with
    | some w => if w ≤ n ∧ crosses (some (s.ampIn c (n - 1))) (s.ampIn c n) then s.muteRamp c (s.muteTarget c) else s
    | none =>
      if x.k < x.n then
        let x := { x with k := x.k + 1 }
        let s := s.putAmp c x
        match x.therm with
        | some cause => if x.gain = 0 then s.ampThermal c cause else s
        | none => s
      else s

/-- The inputs of pass n reach the controller. -/
def State.ampPass (s : State) (n : Nat) (dest : List (Nat × Int)) : State :=
  if s.isNi then s
  else
    let vs := (List.range 64).map (fun c => srcVal [] dest (5120 + c))
    let s := { s with amp := { s.amp with ins := (⟨n, vs, blockSeal 3 80 n vs⟩ :: s.amp.ins).take 16 } }
    ((List.range 8).foldl (State.ampStep n) s).ampWaits

end Sys2Proof.Machine
end

