-- ==== Sys2Proof/Machine/Hash.lean ====
section
/-! DEFINITION. SHA-256 (FIPS 180-4), HMAC (RFC 2104) and HKDF (RFC 5869), which the control sessions use (R361, R362). The spec
names them; their definitions are those of the documents (PRESUMED, assumption 28). -/

namespace Sys2Proof.Machine

/-- The 64 round constants. -/
def shaK : List Nat := List.flatten [
  [0x428a2f98, 0x71374491, 0xb5c0fbcf, 0xe9b5dba5, 0x3956c25b, 0x59f111f1, 0x923f82a4, 0xab1c5ed5],
  [0xd807aa98, 0x12835b01, 0x243185be, 0x550c7dc3, 0x72be5d74, 0x80deb1fe, 0x9bdc06a7, 0xc19bf174],
  [0xe49b69c1, 0xefbe4786, 0x0fc19dc6, 0x240ca1cc, 0x2de92c6f, 0x4a7484aa, 0x5cb0a9dc, 0x76f988da],
  [0x983e5152, 0xa831c66d, 0xb00327c8, 0xbf597fc7, 0xc6e00bf3, 0xd5a79147, 0x06ca6351, 0x14292967],
  [0x27b70a85, 0x2e1b2138, 0x4d2c6dfc, 0x53380d13, 0x650a7354, 0x766a0abb, 0x81c2c92e, 0x92722c85],
  [0xa2bfe8a1, 0xa81a664b, 0xc24b8b70, 0xc76c51a3, 0xd192e819, 0xd6990624, 0xf40e3585, 0x106aa070],
  [0x19a4c116, 0x1e376c08, 0x2748774c, 0x34b0bcb5, 0x391c0cb3, 0x4ed8aa4a, 0x5b9cca4f, 0x682e6ff3],
  [0x748f82ee, 0x78a5636f, 0x84c87814, 0x8cc70208, 0x90befffa, 0xa4506ceb, 0xbef9a3f7, 0xc67178f2]]

/-- The initial hash value. -/
def shaH0 : List Nat :=
  [0x6a09e667, 0xbb67ae85, 0x3c6ef372, 0xa54ff53a, 0x510e527f, 0x9b05688c, 0x1f83d9ab, 0x5be0cd19]

def w32 (n : Nat) : Nat := n % 2 ^ 32
def rotr (n x : Nat) : Nat := x / 2 ^ n + x % 2 ^ n * 2 ^ (32 - n)

/-- The message schedule, newest word first, grown from 16 words by one word a round. -/
def shaSchedule : Nat → List Nat → List Nat
  | 0, w => w
  | n + 1, w =>
    let a := nth w 1 0
    let b := nth w 14 0
    let s1 := (rotr 17 a ^^^ rotr 19 a) ^^^ (a / 2 ^ 10)
    let s0 := (rotr 7 b ^^^ rotr 18 b) ^^^ (b / 2 ^ 3)
    shaSchedule n (w32 (s1 + nth w 6 0 + s0 + nth w 15 0) :: w)

/-- One round on the working variables a to h. -/
def shaRound (v : List Nat) (kw : Nat × Nat) : List Nat :=
  match v with
  | [a, b, c, d, e, f, g, h] =>
    let s1 := (rotr 6 e ^^^ rotr 11 e) ^^^ rotr 25 e
    let ch := (e &&& f) ^^^ ((0xFFFFFFFF - e) &&& g)
    let t1 := h + s1 + ch + kw.1 + kw.2
    let s0 := (rotr 2 a ^^^ rotr 13 a) ^^^ rotr 22 a
    let maj := ((a &&& b) ^^^ (a &&& c)) ^^^ (b &&& c)
    [w32 (t1 + s0 + maj), a, b, c, w32 (d + t1), e, f, g]
  | v => v

/-- One block of 16 words. -/
def shaBlock (h : List Nat) (m : List Nat) : List Nat :=
  let w := (shaSchedule 48 m.reverse).reverse
  ((shaK.zip w).foldl shaRound h).zipWith (fun a b => w32 (a + b)) h

/-- The blocks of a padded message, 64 bytes each. -/
def shaBlocks : Nat → List Byte → List Nat → List Nat
  | 0, _, h => h
  | n + 1, l, h => shaBlocks n (l.drop 64) (shaBlock h ((List.range 16).map (fun i => beAt l (4 * i) 4)))

/-- SHA-256: 32 bytes. -/
def sha256 (l : List Byte) : List Byte :=
  let pad := l ++ [0x80#8] ++ List.replicate ((119 - l.length % 64) % 64) 0#8 ++ be 8 (8 * l.length)
  (shaBlocks (pad.length / 64) pad shaH0).flatMap (be 4)

/-- HMAC-SHA-256. -/
def hmac (key msg : List Byte) : List Byte :=
  let k := padTo 64 (if 64 < key.length then sha256 key else key)
  sha256 (k.map (fun b => b ^^^ 0x5C#8) ++ sha256 (k.map (fun b => b ^^^ 0x36#8) ++ msg))

/-- HKDF with SHA-256 and an output of 32 bytes: the first block of the expansion. -/
def hkdf32 (key salt info : List Byte) : List Byte := hmac (hmac salt key) (info ++ [1#8])

/-- The bytes of an ASCII string. -/
def ascii (t : String) : List Byte := t.toList.map (fun c => BitVec.ofNat 8 c.toNat)

end Sys2Proof.Machine
end

