-- ==== Sys2Proof/Machine/Cmd.lean ====
section
/-! DEFINITION. Suosh packets (chapter 11): the opcode map and privileges (R364, R376), the request as its bytes spell it (R352, R355), the
reply as it is sent (R353, R358), the queues CMD_IN and CMD_OUT (R360), the control ports' sessions (R361 to R363) and the
commands of R377. -/

namespace Sys2Proof.Machine

/-! ## The request (R352, R355) -/

/-- The TLVs of a parameter field: those read, and the TYPE and offset of the first that runs past its end. `n` bounds their number. -/
def readTlvs : Nat → List Byte → Nat → List Tlv × Option (Nat × Nat)
  | 0, _, _ => ([], none)
  | n + 1, l, off =>
    if l = [] then ([], none)
    else
      let ty := leAt l 0 2
      let len := leAt l 2 2
      let size := 4 + (len + 3) / 4 * 4
      if l.length < size then ([], some (ty, off))
      else
        let (ts, bad) := readTlvs n (l.drop size) (off + size)
        (⟨ty, len, leAt l 4 len⟩ :: ts, bad)

/-- A TLV as it is carried: TYPE, LEN, the value, and zero bytes to a multiple of 4 (R355). -/
def tlvBytes (x : Tlv) : List Byte := le 2 x.ty ++ le 2 x.len ++ le x.len x.val ++ List.replicate ((4 - x.len % 4) % 4) 0#8

/-- The word FLAGS of a request (R352). -/
def flagsOf (r : Req) : Nat :=
  r.atomic.toNat + 2 * r.ordered.toNat + 4 * r.fence.toNat + 8 * r.noReply.toNat + 16 * r.sealed.toNat + 32 * r.direct.toNat

/-- The packet of request `r` for opcode `op` with these parameters, as a sender writes it: SUBSYSTEM and every reserved bit 0 (R352, R354). -/
def requestBytes (op : Nat) (r : Req) (ts : List Tlv) : List Byte :=
  let p := ts.flatMap tlvBytes
  let h := le 2 op ++ le 2 r.tag ++ le 2 (flagsOf r) ++ le 2 p.length ++ le 4 r.seq ++ le 4 (r.device + 128 * r.all.toNat)
  h ++ p ++ (if r.sealed then le 4 (crc32c (h ++ p)) else [])

/-- Header fields of a request. -/
def pkOp (b : List Byte) : Nat := leAt b 0 2
def pkTagWord (b : List Byte) : Nat := leAt b 2 2
def pkFlags (b : List Byte) : Nat := leAt b 4 2
def pkPlen (b : List Byte) : Nat := leAt b 6 2
def pkTarget (b : List Byte) : Nat := leAt b 12 4

/-- The parameters of a request, the seal apart. -/
def pkParams (b : List Byte) : List Byte := (b.drop 16).take (pkPlen b)

/-- The value of WAIT_MS, or its default (R357). -/
def waitOf (ts : List Tlv) : Nat :=
  match Params.val? ts 0xF001 with
  | some v => if 1 ≤ v ∧ v ≤ 60000 then v else 1000
  | none => 1000

/-- The header of a request that came on channel `ch`. -/
def reqOf (ch : Nat) (b : List Byte) : Req :=
  let f := pkFlags b
  let ts := if isN5 (pkOp b) then [] else (readTlvs (pkPlen b) (pkParams b) 0).1
  { channel := ch, tag := pkTagWord b % 512, atomic := f.testBit 0, ordered := f.testBit 1, fence := f.testBit 2, noReply := f.testBit 3,
    sealed := f.testBit 4, direct := f.testBit 5, seq := leAt b 8 4, device := pkTarget b % 16, all := (pkTarget b).testBit 7,
    waitMs := waitOf ts, noWait := Params.has ts 0xF002 }

/-! ## The reply (R353, R354, R358) -/

/-- The payload of a reply: that of its command, or the error payload. -/
def replyPayload (r : Reply) : List Byte :=
  if r.status = 0 then r.payload
  else le 2 r.errTlv ++ le 2 r.errOffset ++ le 4 r.undoFail ++ r.partStatus.flatMap (le 2)

/-- The bytes of a reply to request `q` of opcode `op`, whose TAG field was `tagWord`, placed at short time `t`. -/
def replyBytes (q : Req) (op tagWord t : Nat) (r : Reply) : List Byte :=
  let p := replyPayload r
  let h := le 2 tagWord ++ le 2 r.status ++ le 4 r.partMask ++ le 2 p.length ++ le 2 op ++ le 4 t
  h ++ p ++ (if q.sealed then le 4 (crc32c (h ++ p)) else [])

/-- A reply read back from its bytes (R439). -/
def replyOf (b : List Byte) : Reply :=
  let st := leAt b 2 2
  let p := (b.drop 16).take (leAt b 8 2)
  if st = 0 then ⟨0, leAt b 4 4, 0, 0, 0, [], p⟩
  else ⟨st, leAt b 4 4, leAt p 0 2, leAt p 2 2, leAt p 4 4, (List.range ((p.length - 8) / 2)).map (fun i => leAt p (8 + 2 * i) 2), []⟩

/-! ## CMD_IN and CMD_OUT (R360) -/

/-- A packet of channel `ch` as a queue item. -/
def cmdItem (ch : Nat) (b : List Byte) : QItem := ⟨padTo 16 (le 2 ch ++ le 2 0 ++ le 4 b.length), b⟩

def itemChan (it : QItem) : Nat := leAt it.hdr 0 2

/-- CMD_IN is open: the unit is ready, or in recovery (R527, R529). -/
def State.cmdOpen (s : State) : Bool := s.on SYS.STATUS_READY || s.on SYS.STATUS_RECOVERY

/-- Room in CMD_IN for the whole packet. -/
def State.roomIn (s : State) (ch : Nat) (b : List Byte) : Bool := s.cmdOpen && s.hasRoom 1 (itemEntries (cmdItem ch b)).length

/-- Tags in use (R366), shown in TAGS with their peak. -/
def State.showTags (s : State) : State :=
  let n := s.cmd.inflight.length
  let s := s.set CMD.TAGS n
  if s.get CMD.PEAK_TAGS < n then s.set CMD.PEAK_TAGS n else s

/-- An event of the command processor (R391). -/
def State.cmdEvent (s : State) (code unit : Nat) (detail : List Byte) : State := s.raise code 1 unit detail

/-! ## Sessions (R361 to R363) -/

/-- The last four bytes of a client address: an IPv4 address, or the end of an IPv6 one, in network order. -/
def addr4 (a : Nat) : List Byte := be 4 a

def State.session (s : State) (id : Nat) : Option Session := s.cmd.sessions.find? (fun x => x.id == id)
def State.sessionOn (s : State) (ch : Nat) : Option Session := s.cmd.sessions.find? (fun x => x.chan == ch)

/-- Session x stands in place of the one of its identifier; a driving member of a pair mirrors it (R443). -/
def State.setSession (s : State) (x : Session) : State :=
  let l : List Session := s.cmd.sessions.map (fun (y : Session) => if y.id = x.id then x else y)
  { s with cmd := { s.cmd with sessions := l } }.mirror 2 x.bytes

/-- A datagram of the session protocol: header, BODY and MAC under `key`. -/
def sessionBytes (kind id ctr : Nat) (body key : List Byte) : List Byte :=
  let m := le 2 0x5355 ++ [1#8, BitVec.ofNat 8 kind] ++ le 4 id ++ le 8 ctr ++ body
  m ++ (hmac key m).take 16

/-- The IPv4 or IPv6 address of the port that its services use: that in use, or the link-local one. -/
def State.ownAddr (s : State) (p ip : Nat) : Nat :=
  if ip = 4 then s.ip4 p else ((s.psvc p).ip.v6Use.head?).getD (s.linkLocal p)

/-- The MAC address a datagram to `dst` goes to: the group's, the neighbour's, or that of the gateway. -/
def State.nextMac (s : State) (p ip dst : Nat) : Option Nat :=
  let x := s.psvc p
  let find := fun a => (x.neigh.find? (fun n => n.ip == a)).map Neighbour.mac
  if ip = 4 ∧ 224 ≤ dst / 2 ^ 24 ∧ dst / 2 ^ 24 < 240 then some (groupMac 4 dst)
  else if ip = 6 ∧ dst / 2 ^ 120 = 0xFF then some (groupMac 6 dst)
  else match find dst with
    | some m => some m
    | none => if ip = 4 then find x.cfg.v4Gw else none

/-- Send a UDP datagram from port p, from its pair identity: a member of a pair that may not drive outputs sends none (R443). One to an address with no known neighbour is dropped, and the neighbour is asked for (DESIGN CHOICE, assumption 123: the
spec does not say that a datagram waits for the answer). -/
def State.sendUdp (s : State) (p ip dst sport dport ttl : Nat) (pay : List Byte) : State :=
  if !s.mayDrive then s else
  match s.nextMac p ip dst with
  | none => if s.ownAddr p ip = 0 then s else s.askNeighbour p (ip == 6) (if ip = 4 then s.nextHop p dst else dst)
  | some mac =>
    let src := s.ownAddr p ip
    let u := udpBytes ip src dst sport dport true pay
    s.sendService p (ethHdr mac (s.streamMac p) none (if ip = 4 then 0x0800 else 0x86DD) ++
      (if ip = 4 then ip4Bytes src dst 17 ttl 0 0 u else ip6Bytes src dst 17 ttl 0 u))

/-- IP version of an address: values below 2^32 are IPv4. -/
def ipVer (a : Nat) : Nat := if a < 2 ^ 32 then 4 else 6

/-- Send a datagram to a session's client; the last 16 sent are kept. -/
def State.sendSession (s : State) (p addr cport : Nat) (b : List Byte) : State :=
  let l := s.cmd.sent ++ [(p, addr, cport, b)]
  let s : State := { s with cmd := { s.cmd with sent := l.drop (l.length - 16) } }
  s.sendUdp p (ipVer addr) addr (s.get (PORT.SUOSH_PORT p)) cport 64 b

/-- A reply to a session goes out under the next COUNTER. -/
def State.replySession (s : State) (x : Session) (b : List Byte) : State :=
  let c := x.txCtr + 1
  (s.setSession { x with txCtr := c }).sendSession x.port x.addr x.cport (sessionBytes 1 x.id c b x.kdc)

/-- The items of CMD_OUT whose channel is not `ch`. -/
def dropChan (ch : Nat) : List (List QEntry) → List QEntry
  | [] => []
  | g :: gs =>
    match g with
    | ⟨.head it, _⟩ :: _ => if itemChan it = ch then dropChan ch gs else g ++ dropChan ch gs
    | g => g ++ dropChan ch gs

/-- Session x closes (R362): its pending replies are discarded. -/
def State.closeSession (s : State) (x : Session) (cause : Nat) : State :=
  let s : State := { s with cmd := { s.cmd with sessions := s.cmd.sessions.filter (fun y => y.id != x.id) } }
  let q := s.queue 2
  let s := s.updQueue 2 { q with ready := dropChan x.chan (groupItems q.ready) }
  (s.cmdEvent 0x0153 x.chan [BitVec.ofNat 8 cause]).mirror 3 [BitVec.ofNat 8 x.chan]

/-- Every session that satisfies `f` closes. -/
def State.closeSessions (s : State) (f : Session → Bool) (cause : Nat) : State :=
  (s.cmd.sessions.filter f).foldl (fun s x => s.closeSession x cause) s

/-- Sessions exist in FIELD and SERVICE (R362). -/
def State.sessionsAllowed (s : State) : Bool := s.lifecycle == 3 || s.lifecycle == 4

/-- Event 0x0150 for a discarded datagram: cause, port and client. It counts in REPLAY_DROP for cause 2, else in AUTH_DROP. -/
def State.authDrop (s : State) (unit cause p addr : Nat) : State :=
  (s.count (if cause = 2 then CMD.REPLAY_DROP else CMD.AUTH_DROP)).cmdEvent 0x0150 unit
    ([BitVec.ofNat 8 cause, BitVec.ofNat 8 p, 0, 0] ++ addr4 addr)

/-- A Suosh datagram at the head of the engine receive queue of a control port: the client's address and port, its MAC address, and the
UDP payload; and the state with it taken. -/
def State.takeDatagram (s : State) (p : Nat) (kinds : Nat → Bool) : Option ((Nat × Nat × Nat × List Byte) × State) :=
  if p = 2 ∨ p = 3 then
    match (s.queue (3 + p)).ready with
    | ⟨.head it, _⟩ :: _ =>
      let h := headers it.body
      let b := udpPayload it.body h
      if s.protoClass p h = 9 ∧ kinds (leAt b 3 1) then some ((h.ipSrc, h.sport, h.src, b), (s.takeItem (3 + p)).2) else none
    | _ => none
  else none

/-- The neighbour a datagram came from is kept (PRESUMED, assumption 30). -/
def State.learn (s : State) (p ip mac : Nat) : State :=
  let x := s.psvc p
  let room := if p < 2 then 1024 else 64
  let rest := x.neigh.filter (fun n => n.ip != ip)
  let l : List Neighbour := rest ++ [⟨ip, mac, 1⟩]
  s.setPsvc p { x with neigh := l.drop (l.length - room) }

/-- MAGIC and VERSION hold. -/
def magicOk (b : List Byte) : Bool := leAt b 0 2 == 0x5355 && leAt b 2 1 == 1 && decide (32 ≤ b.length)

/-- The MAC of a datagram holds under `key`. -/
def macOk (key b : List Byte) : Bool := (hmac key (b.take (b.length - 16))).take 16 == b.drop (b.length - 16)

/-- BODY of a datagram. -/
def datagramBody (b : List Byte) : List Byte := (b.drop 16).take (b.length - 32)

/-- A COUNTER that is new and above the highest received minus 64 (R361). -/
def Session.fresh (x : Session) (c : Nat) : Bool := decide (0 < c) && decide (x.rxHigh < c + 64) && !x.rxSeen.contains c

/-- A datagram of an open session passes its checks: the session with COUNTER noted; otherwise the cause of its discard. -/
def State.authenticate (s : State) (b : List Byte) : Session ⊕ (Nat × Nat) :=
  if !magicOk b then .inr (0, 0)
  else match s.session (leAt b 4 4) with
    | none => .inr (0, 1)
    | some x =>
      let c := leAt b 8 8
      if !macOk x.kcd b then .inr (x.chan, 0)
      else if !x.fresh c then .inr (x.chan, 2)
      else
        let hi := max x.rxHigh c
        .inl { x with rxHigh := hi, rxSeen := (x.rxSeen ++ [c]).filter (fun d => decide (hi < d + 64)), lastRx := s.cycles }

/-- A request of this SEQ is in flight on the channel, or waits in CMD_IN. -/
def State.seqBusy (s : State) (ch seq : Nat) : Bool :=
  s.cmd.inflight.any (fun f => f.req.channel == ch && f.req.seq == seq) ||
  (s.queue 1).ready.any (fun e => match e.cell with
    | .head it => itemChan it == ch && leAt it.body 8 4 == seq
    | _ => false)

/-- UDP_DATAGRAM_RX (R361, R363): the datagram at the head of the engine queue of port p, other than an OPEN or a CLOSE, is authenticated and
its request pushed into CMD_IN, answered from the kept replies, or discarded. Sessions use the pair identity, so a member that may not drive outputs leaves
their datagrams to its peer (R443; DEDUCED, assumption 124). -/
def execUdpDatagramRx (p : Nat) (s : State) : Out :=
  match s.takeDatagram p (fun k => k != 2 && k != 4) with
  | none => .next s
  | some ((addr, cport, mac, b), s) =>
    if !s.mayDrive then .next s else
    match s.authenticate b with
    | .inr (unit, cause) => .next (s.authDrop unit cause p addr)
    | .inl x =>
      let x := { x with addr := addr, cport := cport, port := p }
      let s := (s.setSession x).learn p addr mac
      let body := datagramBody b
      let seq := leAt body 8 4
      if leAt b 3 1 ≠ 0 then .next s
      else match x.kept.find? (fun k => k.1 == seq) with
        | some k => .next (s.replySession x k.2)
        | none =>
          if s.seqBusy x.chan seq then .next s
          else if s.cmdOpen then .next (s.push 1 (cmdItem x.chan body)) else .next s

/-- The channel of a new session: the first that is free. -/
def State.freeChan (s : State) : Option Nat := ((List.range 16).map (fun k => 32 + k)).find? (fun c => (s.sessionOn c).isNone)

/-- SESSION_OPEN (R362): the OPEN datagram at the head of the engine queue of port p; `nd` is the device's nonce. At most 16 OPEN datagrams a second
are accepted on a port. -/
def execSessionOpen (p nd : Nat) (s : State) : Out :=
  match s.takeDatagram p (fun k => k == 2) with
  | none => .next s
  | some ((addr, cport, mac, b), s) =>
    if !s.mayDrive then .next s else
    let recent := s.cmd.opens.filter (fun o => decide (s.cycles < o.2 + 1000000 * cyclesPerUs))
    let s : State := { s with cmd := { s.cmd with opens := recent } }
    if 16 ≤ (recent.filter (fun o => o.1 == p)).length then .next (s.authDrop 0 3 p addr)
    else
      let s : State := { s with cmd := { s.cmd with opens := recent ++ [(p, s.cycles)] } }
      let body := datagramBody b
      let slot := leAt body 0 1
      let (priv, dk) := unitAt s.life.keys slot (0, [])
      let kopen := hkdf32 dk [] (ascii "suosh-open")
      if !magicOk b || dk.isEmpty || !s.sessionsAllowed then .next (s.authDrop 0 0 p addr)
      else if leAt b 4 4 ≠ 0 ∨ leAt b 8 8 = 0 ∨ !macOk kopen b then .next (s.authDrop 0 0 p addr)
      else match s.freeChan with
        | none => .next (s.authDrop 0 1 p addr)
        | some ch =>
          let nc := (body.drop 4).take 16
          let ndB := le 16 nd
          let id := s.cmd.nextSession
          let kcd := hkdf32 dk (nc ++ ndB) (ascii "suosh-c2d")
          let kdc := hkdf32 dk (nc ++ ndB) (ascii "suosh-d2c")
          let x : Session := ⟨ch, id, slot, priv, p, addr, cport, kcd, kdc, 0, [], 1, [], s.cycles, false⟩
          let s : State := { s with cmd := { s.cmd with sessions := s.cmd.sessions ++ [x], nextSession := id % 0xFFFFFFFF + 1 } }
          let acc := le 4 id ++ [BitVec.ofNat 8 priv, 0, 0, 0] ++ ndB ++ nc
          let s := (s.learn p addr mac).sendSession p addr cport (sessionBytes 3 id 1 acc kopen)
          .next ((s.cmdEvent 0x0152 ch ([BitVec.ofNat 8 slot, BitVec.ofNat 8 priv, 0, 0] ++ addr4 addr)).mirror 2 x.bytes)

/-- SESSION_CLOSE_DATAGRAM (R362): an authentic CLOSE closes its session. -/
def execSessionCloseDatagram (p : Nat) (s : State) : Out :=
  match s.takeDatagram p (fun k => k == 4) with
  | none => .next s
  | some ((addr, _, _, b), s) =>
    if !s.mayDrive then .next s else
    match s.authenticate b with
    | .inr (unit, cause) => .next (s.authDrop unit cause p addr)
    | .inl x => .next (s.closeSession x 0)

/-- SESSION_IDLE_TIMEOUT (R362): a session has had no valid datagram for 60 s. -/
def execSessionIdleTimeout (id : Nat) (s : State) : Out :=
  match s.session id with
  | some x => .next (s.closeSession x 2)
  | none => .next s

/-! ## Requests arrive (R360) -/

/-- The request in the CSP's input mailbox enters CMD_IN when that has room (R360, R398). -/
def State.mboxPush (s : State) : State :=
  match s.csp.inBox with
  | some b => if s.roomIn 16 b then { s with csp := { s.csp with inBox := none } }.push 1 (cmdItem 16 b) else s
  | none => s

/-- REQUEST_ARRIVE (R360): a transport pushes a packet of channel `ch` into CMD_IN: the PCIe transport, the connection API and the orbit links only
when there is room, the CSP (16) the packet in its mailbox; a UDP request that finds none is dropped and marked. -/
def execRequestArrive (ch : Nat) (b : List Byte) (s : State) : Out :=
  if !s.cmdOpen then .next s
  else if 32 ≤ ch ∧ ch ≤ 47 then .next (s.push 1 (cmdItem ch b))
  else if ch = 16 then .next s.mboxPush
  else if (ch ≤ 15 ∨ ch = 48 ∨ ch = 49) ∧ s.roomIn ch b then .next (s.push 1 (cmdItem ch b))
  else .next s

/-! ## Commands (R377) -/

/-- NOP: completes OK with no payload. -/
def execNop (r : Req) (p : List Tlv) (s : State) : Out := runCmd 0x0101 [] (getBody (fun _ _ => [])) r p s

/-- The word at offset 0 of SYS (R3). -/
def State.deviceId (s : State) : Nat := s.word SYS.fields 0

/-- Version of the firmware that runs (R513). -/
def State.firmware (s : State) : Nat := ((s.life.fw[s.boot.slot]?).map FwSlot.version).getD 0

/-- SYS_INFO_GET. -/
def execSysInfoGet (r : Req) (p : List Tlv) (s : State) : Out :=
  runCmd 0x0102 [] (getBody (fun _ s =>
    le 4 s.deviceId ++ le 4 s.firmware ++ le 1 (s.get LIFE.STATUS_BL) ++ le 1 s.lifecycle ++ le 1 s.ownIndex ++
      le 1 (s.chanPriv r.channel) ++ le 2 (512 - s.cmd.inflight.length) ++ le 2 s.cmd.sessions.length)) r p s

/-- An address in 16 bytes in network order, an IPv4 one in the first four. -/
def addr16 (a : Nat) : List Byte := if a < 2 ^ 32 then padTo 16 (be 4 a) else be 16 a

/-- SESSION_LIST_GET. -/
def execSessionListGet (r : Req) (p : List Tlv) (s : State) : Out :=
  runCmd 0x0103 [] (getBody (fun _ s => s.cmd.sessions.flatMap (fun x =>
    le 4 x.id ++ [BitVec.ofNat 8 x.slot, BitVec.ofNat 8 x.priv, BitVec.ofNat 8 x.port, 0] ++ addr16 x.addr ++ le 2 x.cport ++
      le 2 0 ++ le 4 ((s.cycles - x.lastRx) / (1000000 * cyclesPerUs))))) r p s

/-- SESSION_CLOSE: Session identifier. Another session's needs OWNER (R364); without the parameter the requesting session closes once the
reply has left. -/
def execSessionClose (r : Req) (p : List Tlv) (s : State) : Out :=
  runCmd 0x0104 [popt 1 4 0 0xFFFFFFFF] (fun p s =>
    let own := (s.sessionOn r.channel).map Session.id
    match Params.val? p 1 with
    | some id =>
      match s.session id with
      | none => (Reply.errAt Status.badParam p 1, s)
      | some x =>
        if own = some id then (Reply.ok [], s.setSession { x with closing := true })
        else if s.chanPriv r.channel < 2 then (Reply.err Status.authFail, s)
        else (Reply.ok [], s.closeSession x 1)
    | none =>
      match s.sessionOn r.channel with
      | some x => (Reply.ok [], s.setSession { x with closing := true })
      | none => (Reply.err Status.badParam, s)) r p s

/-- The counters of the CMD block (R421). -/
def cmdCounters : List Fld :=
  [CMD.REQUESTS, CMD.REPLIES, CMD.DUP_TAG, CMD.MALFORMED, CMD.AUTH_DROP, CMD.REPLAY_DROP, CMD.TIMEOUTS, CMD.DIRECT, CMD.CSP_MB_BUSY]

/-- CMD_STATUS_GET: CLEAR. The word at 0x0014, then the counters. -/
def execCmdStatusGet (r : Req) (p : List Tlv) (s : State) : Out :=
  runCmd 0x0105 [popt 1 1 0 1] (fun p s =>
    (Reply.ok (le 4 (s.word CMD.fields 0x10014) ++ cmdCounters.flatMap (fun f => le 4 (s.get f))),
     if Params.val p 1 = 1 then cmdCounters.foldl (fun s f => s.set f 0) s else s)) r p s

/-- CMD_CHANNEL_GET: Channel. -/
def execCmdChannelGet (r : Req) (p : List Tlv) (s : State) : Out :=
  runCmd 0x0106 [preq 1 1 0 63] (getBody (fun p s =>
    let l := s.cmd.inflight.filter (fun f => f.req.channel == Params.val p 1)
    le 2 l.length ++ le 2 (l.filter (fun f => !f.started && f.req.ordered)).length ++
      le 1 (if l.any (fun f => f.req.fence) then 1 else 0) ++ le 3 0)) r p s

/-- PEAK_TAGS_READ (R421): a read of PEAK_TAGS returns the word and restarts the peak from the tags in use. -/
def execPeakTagsRead (s : State) : Out :=
  .next ({ s with rd := s.word CMD.fields 0x10014 }.set CMD.PEAK_TAGS s.cmd.inflight.length)

end Sys2Proof.Machine
end

