-- ==== Sys2Proof/Machine/Net.lean ====
section
/-! DEFINITION. Addressing and multicast (R378 to R380) and the rise of a link (R127). The layouts of ARP (RFC 826), NDP (RFC 4861, RFC 4862) and
DHCP (RFC 2131) messages are those of their standards (PRESUMED, assumption 8). -/

namespace Sys2Proof.Machine

/-! ## Events and messages -/

/-- Event 0x0410 or 0x0411 of port p (R391): IP version, lost or gained, address. -/
def State.ipEvent (s : State) (code p ip gained a : Nat) : State :=
  s.raise code (portBlock p) 0 ([if ip = 4 then 0 else 1, BitVec.ofNat 8 gained, 0, 0] ++ addr4 a)

/-- A Neighbor Solicitation for `a`, from the unspecified address for duplicate address detection. -/
def State.sendNs (s : State) (p a : Nat) : State :=
  s.sendService p (icmp6Frame (groupMac 6 (solicited a)) (s.streamMac p) 0 (solicited a) ([135, 0, 0, 0, 0, 0, 0, 0] ++ be 16 a))

/-- A Neighbor Advertisement of `a`: to `dst` at `mac`, solicited or not. -/
def State.sendNa (s : State) (p a dst mac : Nat) (sol : Bool) : State :=
  s.sendService p (icmp6Frame mac (s.streamMac p) a dst
    ([136, 0, 0, 0, if sol then 0x60 else 0x20, 0, 0, 0] ++ be 16 a ++ [2, 1] ++ be 6 (s.streamMac p)))

/-- A gratuitous ARP of the IPv4 address in use and unsolicited advertisements of the IPv6 ones, on port p (R449). -/
def State.gratuitous (s : State) (p : Nat) : State :=
  let x := (s.psvc p).ip
  let s := if x.v4Use = 0 then s else s.sendService p (arpFrame bcastMac (s.streamMac p) 1 x.v4Use 0 x.v4Use)
  x.v6Use.foldl (fun s a => s.sendNa p a allNodes (groupMac 6 allNodes) false) s

/-! ## DHCP -/

/-- A DHCP client message of port p: type, requested address and server (0 for none). -/
def State.sendDhcp (s : State) (p ty req server : Nat) : State :=
  let mac := s.stationMac p
  let opts := [53, 1, BitVec.ofNat 8 ty] ++ (if req = 0 then [] else [50, 4] ++ be 4 req) ++
    (if server = 0 then [] else [54, 4] ++ be 4 server) ++ [255]
  let m := [1, 1, 6, 0] ++ be 4 (mac % 2 ^ 32) ++ be 2 0 ++ be 2 0x8000 ++ be 4 0 ++ be 4 0 ++ be 4 0 ++ be 4 0 ++ be 6 mac ++
    List.replicate 202 0#8 ++ be 4 0x63825363 ++ opts
  let u := udpBytes 4 0 0xFFFFFFFF 68 67 true m
  s.sendService p (ethHdr bcastMac mac none 0x0800 ++ ip4Bytes 0 0xFFFFFFFF 17 64 0 0 u)

/-- The value of DHCP option `o`, as a number in network order; `n` bounds the search. -/
def dhcpOpt (o : Nat) : Nat → List Byte → Option Nat
  | 0, _ => none
  | n + 1, l =>
    match l with
    | [] => none
    | c :: t =>
      if c = 255#8 then none
      else if c = 0#8 then dhcpOpt o n t
      else if c.toNat = o then some (beAt t 1 (leAt t 0 1))
      else dhcpOpt o n (t.drop (1 + leAt t 0 1))

/-! ## Addresses come into use and go (R378) -/

/-- The IPv4 address in use on port p becomes `a`. -/
def State.useV4 (s : State) (p a : Nat) : State :=
  let x := s.psvc p
  let old := x.ip.v4Use
  if old = a then s
  else
    let s := s.setPsvc p { x with ip := { x.ip with v4Use := a } }
    let s := if old = 0 then s else s.ipEvent 0x0410 p 4 0 old
    if a = 0 then s else s.ipEvent 0x0410 p 4 1 a

/-- The engine is to use `a`: it is probed for first. -/
def State.tryV4 (s : State) (p a : Nat) : State :=
  let x := s.psvc p
  s.setPsvc p { x with ip := { x.ip with cand := a, probes := 0 } }

/-- R378 starts again for the IPv4 addressing of port p. -/
def State.startV4 (s : State) (p : Nat) : State :=
  let s := s.useV4 p 0
  let x := s.psvc p
  let s := s.setPsvc p { x with ip := { x.ip with cand := 0, probes := 0, leaseLeft := 0, leaseTotal := 0 } }
  if x.cfg.v4Mode = 1 then s.tryV4 p x.cfg.v4Addr
  else if 2 ≤ x.cfg.v4Mode then s.sendDhcp p 1 0 0
  else s

/-- IPv6 address `a` is to be used on port p: its solicited-node group and duplicate address detection. -/
def State.tryV6 (s : State) (p a : Nat) : State :=
  let x := s.psvc p
  if x.ip.v6Use.contains a || x.ip.v6Cand.contains a then s
  else
    let s := s.setPsvc p { x with ip := { x.ip with v6Cand := x.ip.v6Cand ++ [a] } }
    (s.joinGroup p 6 (solicited a) 3 1 []).sendNs p a

/-- IPv6 address `a` is given up on port p. -/
def State.dropV6 (s : State) (p a : Nat) : State :=
  let x := s.psvc p
  let used := x.ip.v6Use.contains a
  let ip' := { x.ip with v6Use := x.ip.v6Use.filter (fun b => b != a), v6Cand := x.ip.v6Cand.filter (fun b => b != a) }
  let s := (s.setPsvc p { x with ip := ip' }).leaveGroup p 6 (solicited a) 3
  if used then s.ipEvent 0x0410 p 6 0 a else s

/-- IPv6 addressing of port p starts again: the link-local address and those configured are probed, every other one given up. -/
def State.startV6 (s : State) (p : Nat) : State :=
  let x := s.psvc p
  let held := x.ip.v6Use ++ x.ip.v6Cand
  if x.cfg.v6En = 0 then
    let s := held.foldl (fun s a => s.dropV6 p a) s
    if held.isEmpty then s else s.leaveGroup p 6 allNodes 3
  else
    let want := s.linkLocal p :: x.cfg.v6Addrs.map Prod.fst
    let s := (held.filter (fun a => !want.contains a)).foldl (fun s a => s.dropV6 p a) s
    let s := if held.isEmpty then s.joinGroup p 6 allNodes 3 1 [] else s
    want.foldl (fun s a => s.tryV6 p a) s

/-- ARP_PROBE (R378): 1 s after the last, the next probe of port p falls due. IPv4: three requests with sender address 0.0.0.0, then
the address is used. IPv6: detection has ended, and the addresses are used. -/
def execArpProbe (p ip : Nat) (s : State) : Out :=
  let x := s.psvc p
  if 3 < p then .next s
  else if ip = 4 then
    if x.ip.cand = 0 then .next s
    else if x.ip.probes < 3 then
      let s := s.setPsvc p { x with ip := { x.ip with probes := x.ip.probes + 1 } }
      .next (s.sendService p (arpFrame bcastMac (s.streamMac p) 1 0 0 x.ip.cand))
    else
      let s := s.setPsvc p { x with ip := { x.ip with cand := 0, probes := 0 } }
      .next (s.useV4 p x.ip.cand)
  else
    let new := x.ip.v6Cand
    let s := s.setPsvc p { x with ip := { x.ip with v6Cand := [], v6Use := x.ip.v6Use ++ new } }
    .next (new.foldl (fun s a => s.ipEvent 0x0410 p 6 1 a) s)

/-- DHCP_TIMER (R378): kind 0 renewal at half the lease time, 1 ten seconds after UP without a lease, 2 the lease's expiry, 3 the retry
every 60 s. -/
def execDhcpTimer (p kind : Nat) (s : State) : Out :=
  let x := s.psvc p
  if 3 < p ∨ x.cfg.v4Mode < 2 then .next s
  else
    let fall := fun (s : State) => if x.cfg.v4Mode = 3 then s.tryV4 p x.cfg.v4Addr else s
    let leased := x.ip.leaseTotal != 0
    if kind = 0 ∧ leased then
      let s := s.setPsvc p { x with ip := { x.ip with leaseLeft := x.ip.leaseTotal / 2 } }
      .next (s.sendDhcp p 3 x.ip.v4Use 0)
    else if kind = 1 ∧ !leased then .next (fall s)
    else if kind = 2 ∧ leased then
      let s := s.setPsvc p { x with ip := { x.ip with leaseLeft := 0, leaseTotal := 0 } }
      .next ((fall (s.useV4 p 0)).sendDhcp p 1 0 0)
    else if kind = 3 ∧ !leased then .next (s.sendDhcp p 1 0 0)
    else .next s

/-- LINK_UP (R127, R126, R55, R378): lock, and auto-negotiation where it is enabled, have held for 10 ms in DOWN. In SGMII the
PHY's control word gives the speed (0 to 2); in the other modes SPEED reads 2. Addressing and PTP start with row 11 of R524. -/
def execLinkUp (p speed : Nat) (s : State) : Out :=
  if p ≤ 3 ∧ (s.port p).link = 1 ∧ !s.boot.down.contains (3, if p < 2 then 3 + p else p - 1) then
    let s := s.setPort p { s.port p with link := 2 }
    let s := (s.set (PORT.LINK_UP p) 1).set (PORT.PCS_LOCK p) 1
    let s := s.set (PORT.SPEED p) (if s.get (PORT.LINE_MODE p) = 3 then min speed 2 else 2)
    let an := s.on (PORT.AN_EN p) && decide (2 ≤ s.get (PORT.LINE_MODE p))
    let fec := s.on (PORT.FEC_EN p) && s.get (PORT.LINE_MODE p) == 0
    let s := (s.setOn (PORT.AN_DONE p) an).setOn (PORT.FEC_LOCK p) fec
    let s := s.portEvent p PORT.INT_LINK_UP 0x0401 [BitVec.ofNat 8 (s.get (PORT.LINE_MODE p)), BitVec.ofNat 8 (s.get (PORT.SPEED p))]
    if s.get SYS.STATUS_STEP < 11 then .next s
    else
      let s := if p < 2 then s.ptpLink p true else s
      .next ((s.startV4 p).startV6 p)
  else .next s

/-! ## Commands (R380) -/

/-- An address parameter: IP version and value. -/
def tlvAddr (t : Tlv) : Nat × Nat := (if t.len = 4 then 4 else 6, swapBytes t.len t.val)

/-- IP_SET: Port; V4_MODE; V4_ADDR; V4_PREFIX; V4_GW; V6_EN; V6_SLAAC; up to two runs of V6_ADDR and its prefix. -/
def ipSetParams : List PSpec :=
  [preq 1 1 0 3, popt 2 1 0 3, popt 3 4 0 0xFFFFFFFF, popt 4 1 0 32, popt 5 4 0 0xFFFFFFFF, popt 6 1 0 1, popt 7 1 0 1,
   prep 8 16 0 (2 ^ 128 - 1), prep 9 1 0 128]

/-- IP_SET (R380): applies at once; a changed address starts R378 again. -/
def execIpSet (r : Req) (p : List Tlv) (s : State) : Out :=
  runCmd 0x0410 ipSetParams (fun q s =>
    let n := Params.val q 1
    let x := s.psvc n
    let addrs := Params.all q 8
    if 2 < addrs.length ∨ (Params.all q 9).length ≠ addrs.length then (Reply.errAt Status.badParam q 8, s)
    else
      let get := fun ty old => (Params.val? q ty).getD old
      let geta := fun ty old => ((Params.val? q ty).map (swapBytes 4)).getD old
      let six := if addrs.isEmpty then x.cfg.v6Addrs else (addrs.map (swapBytes 16)).zip (Params.all q 9)
      let c : IpCfg := ⟨get 2 x.cfg.v4Mode, geta 3 x.cfg.v4Addr, get 4 x.cfg.v4Prefix, geta 5 x.cfg.v4Gw, get 6 x.cfg.v6En,
        get 7 x.cfg.v6Slaac, six⟩
      let s := s.setPsvc n { x with cfg := c }
      let s := if c.v4Mode = x.cfg.v4Mode ∧ c.v4Addr = x.cfg.v4Addr ∧ c.v4Prefix = x.cfg.v4Prefix then s else s.startV4 n
      (Reply.ok [], if c.v6En = x.cfg.v6En ∧ c.v6Addrs = x.cfg.v6Addrs then s else s.startV6 n)) r p s

/-- IP_STATUS_GET: IPv4 address, its state (0 none, 1 probed, 2 in use), lease seconds left; then each IPv6 address and its state. -/
def execIpStatusGet (r : Req) (p : List Tlv) (s : State) : Out :=
  runCmd 0x0411 [preq 1 1 0 3] (getBody (fun q s =>
    let x := (s.psvc (Params.val q 1)).ip
    let st := if x.v4Use ≠ 0 then 2 else if x.cand ≠ 0 then 1 else 0
    be 4 (if x.v4Use ≠ 0 then x.v4Use else x.cand) ++ le 4 st ++ le 4 x.leaseLeft ++
      x.v6Use.flatMap (fun a => be 16 a ++ le 4 2) ++ x.v6Cand.flatMap (fun a => be 16 a ++ le 4 1))) r p s

/-- MCAST_JOIN: Port; group; MODE; 0 to 8 sources (R379). -/
def execMcastJoin (r : Req) (p : List Tlv) (s : State) : Out :=
  runCmd 0x0412 [preq 1 1 0 3, { pip 2 with req := true }, popt 3 1 0 1, { pip 4 with rep := true }] (fun q s =>
    let n := Params.val q 1
    let (ip, a) := ((q.find? (fun t => t.ty == 2)).map tlvAddr).getD (4, 0)
    let srcs := (q.filter (fun t => t.ty == 4)).map tlvAddr
    let x := s.psvc n
    if !isMulticast ip a then (Reply.errAt Status.badParam q 2, s)
    else if 8 < srcs.length ∨ srcs.any (fun t => t.1 != ip) then (Reply.errAt Status.badParam q 4, s)
    else match x.groups.find? (fun g => g.ip == ip && g.addr == a && g.reason == 4) with
      | some g =>
        let g' := { g with mode := Params.val q 3, sources := srcs.map Prod.snd, left := 1 }
        (Reply.ok [], (s.setPsvc n { x with groups := x.groups.map (fun h => if h = g then g' else h) }).sendReport n g' false)
      | none =>
        if (s.entryFor n (groupMac ip a)).isNone then (Reply.err Status.noResource, s)
        else (Reply.ok [], s.joinGroup n ip a 4 (Params.val q 3) (srcs.map Prod.snd))) r p s

/-- MCAST_LEAVE: Port; group. -/
def execMcastLeave (r : Req) (p : List Tlv) (s : State) : Out :=
  runCmd 0x0413 [preq 1 1 0 3, { pip 2 with req := true }] (fun q s =>
    let n := Params.val q 1
    let (ip, a) := ((q.find? (fun t => t.ty == 2)).map tlvAddr).getD (4, 0)
    if (s.psvc n).groups.any (fun g => g.ip == ip && g.addr == a && g.reason == 4) then (Reply.ok [], s.leaveGroup n ip a 4)
    else (Reply.errAt Status.badParam q 2, s)) r p s

/-- MCAST_STATUS_GET: for each group, its address, reason code, IP version and the version of reports in use. -/
def execMcastStatusGet (r : Req) (p : List Tlv) (s : State) : Out :=
  runCmd 0x0414 [preq 1 1 0 3] (getBody (fun q s =>
    let x := s.psvc (Params.val q 1)
    x.groups.flatMap (fun g => addr16 g.addr ++ [BitVec.ofNat 8 g.reason, BitVec.ofNat 8 g.ip,
      BitVec.ofNat 8 (if g.ip = 4 then x.igmp else x.mld), 0]))) r p s

/-- NEIGHBOR_GET: Port; first; count. -/
def execNeighborGet (r : Req) (p : List Tlv) (s : State) : Out :=
  runCmd 0x0415 [preq 1 1 0 3, preq 2 2 0 1023, preq 3 1 1 64] (getBody (fun q s =>
    (((s.psvc (Params.val q 1)).neigh.drop (Params.val q 2)).take (Params.val q 3)).flatMap (fun n =>
      addr16 n.ip ++ be 6 n.mac ++ le 2 n.st))) r p s

end Sys2Proof.Machine
end

