-- ==== Sys2Proof/Machine/Segment.lean ====
section
/-! DEFINITION. Segmented sends (R143, R144): the limits, the header of each segment, and the SERVICE sends of the engine that are cut so. -/

namespace Sys2Proof.Machine

/-- A list with the bytes of `v` put at offset `at'`. -/
def patch (l : List Byte) (at' : Nat) (v : List Byte) : List Byte := l.take at' ++ v ++ l.drop (at' + v.length)

/-- The L4 header of the template follows the IP header directly, and is of the stated kind. -/
def tmplOk (ip6 udp : Bool) (h : List Byte) : Bool :=
  let x := headers h
  let proto := if udp then 17 else 6
  x.ip == (if ip6 then 6 else 4) && x.proto == proto && decide (x.l4 + 8 ≤ h.length)

/-- Segment k of n: the template with the changes of R144, and its payload. -/
def segment (h : List Byte) (udp : Bool) (mss k n : Nat) (pay : List Byte) : List Byte :=
  let x := headers h
  let l4len := h.length - x.l4 + pay.length
  -- IP header
  let ip := if x.ip = 4 then
      let a := patch (patch (patch h (x.l3 + 2) (be 2 (x.l4 - x.l3 + l4len))) (x.l3 + 4) (be 2 (beAt h (x.l3 + 4) 2 + k))) (x.l3 + 10) [0, 0]
      patch a (x.l3 + 10) (be 2 (inetSum ((a.drop x.l3).take (x.l4 - x.l3))))
    else patch h (x.l3 + 4) (be 2 l4len)
  let sumOf := fun (a : List Byte) => inetSum (pseudo x.ip x.ipSrc x.ipDst x.proto l4len ++ a.drop x.l4 ++ pay)
  if udp then
    let a := patch (patch ip (x.l4 + 4) (be 2 l4len)) (x.l4 + 6) [0, 0]
    let c := sumOf a
    let c := if x.ip = 4 ∧ beAt h (x.l4 + 6) 2 = 0 then 0 else if c = 0 then 0xFFFF else c
    patch a (x.l4 + 6) (be 2 c) ++ pay
  else
    let f := beAt h (x.l4 + 13) 1
    let f := if k + 1 = n then f else f - (f &&& 0x09)
    let f := if k = 0 then f else f - (f &&& 0x80)
    let a := patch ip (x.l4 + 4) (be 4 (beAt h (x.l4 + 4) 4 + k * mss))
    let a := patch (patch a (x.l4 + 13) [BitVec.ofNat 8 f]) (x.l4 + 16) [0, 0]
    patch a (x.l4 + 16) (be 2 (sumOf a)) ++ pay

/-- The frames of a segmented send, or none where it breaks a limit of R143. -/
def State.segments (s : State) (p : Nat) (d : Desc) (data : List Byte) : Option (List (List Byte)) :=
  let h := data.take d.hdrLen
  let pay := data.drop d.hdrLen
  let n := max 1 ((pay.length + d.mss - 1) / d.mss)
  let udp := d.flags.testBit 4
  if data.length < d.hdrLen ∨ lenEff (s.get (PORT.TX_MAX_LEN p)) < d.hdrLen + d.mss + 4 ∨ 262144 < pay.length ∨ 1024 < n ∨
      !tmplOk (d.flags.testBit 3) udp h then none
  else some ((List.range n).map (fun k => padFrame (segment h udp d.mss k n ((pay.drop (k * d.mss)).take d.mss))))

/-- The Suosh engine sends a payload behind a TCP header template through the SERVICE partition (R143): one that breaks a limit is discarded whole (R139). -/
def State.sendSegmented (s : State) (p : Nat) (ip6 : Bool) (hdr : List Byte) (mss : Nat) (pay : List Byte) : State :=
  let d : Desc := ⟨0, hdr.length + pay.length, if ip6 then 12 else 4, hdr.length, mss, 0⟩
  if decide (hdr.length < 42 ∨ 192 < hdr.length ∨ mss < 64 ∨ 9536 < mss) then s.stat p Stat.TX_DISCARD
  else match s.segments p d (hdr ++ pay) with
    | some fs => fs.foldl (fun s f => s.sendService p f) s
    | none => s.stat p Stat.TX_DISCARD

end Sys2Proof.Machine
end

