-- ==== Sys2Proof/Machine/Sdp.lean ====
section
/-! DEFINITION. Session descriptions (R381, R382, RFC 8866): the text of a stream, the reading of a text, and SDP_GET and SDP_APPLY. Lines end in
CR LF, and IPv6 addresses are written as eight groups (PRESUMED, assumption 31). -/

namespace Sys2Proof.Machine

/-! ## Text -/

/-- Decimal digits of a number below 10^n. -/
def decDigits : Nat → Nat → List Byte
  | 0, _ => []
  | n + 1, v => (if v < 10 then [] else decDigits n (v / 10)) ++ [BitVec.ofNat 8 (48 + v % 10)]

def dec (v : Nat) : List Byte := decDigits 20 v

def hexDigit (upper : Bool) (d : Nat) : Byte := BitVec.ofNat 8 (if d < 10 then 48 + d else if upper then 55 + d else 87 + d)

/-- `n` hexadecimal digits. -/
def hex (upper : Bool) (n v : Nat) : List Byte := ((List.range n).map (fun i => hexDigit upper (v / 16 ^ i % 16))).reverse

/-- Items joined by a separator. -/
def joinBy (sep : List Byte) : List (List Byte) → List Byte
  | [] => []
  | [x] => x
  | x :: t => x ++ sep ++ joinBy sep t

/-- An address as text. -/
def addrText (ip a : Nat) : List Byte :=
  if ip = 4 then joinBy (ascii ".") ((be 4 a).map (fun b => dec b.toNat))
  else joinBy (ascii ":") ((List.range 8).map (fun i => hex false 4 (a / 2 ^ (16 * (7 - i)) % 65536)))

/-- The bytes of an identifier in hexadecimal with hyphens. -/
def dashText (n v : Nat) : List Byte := joinBy (ascii "-") ((be n v).map (fun b => hex true 2 b.toNat))

def ipText (ip : Nat) : List Byte := ascii (if ip = 4 then "IP4" else "IP6")

/-- Milliseconds from units of 10^−3 ms, trailing zeros removed. -/
def msText (v : Nat) : List Byte :=
  let f := v % 1000
  dec (v / 1000) ++
    (if f = 0 then []
    else if f % 100 = 0 then ascii "." ++ dec (f / 100)
    else if f % 10 = 0 then ascii "." ++ [hexDigit true (f / 100)] ++ dec (f / 10 % 10)
    else ascii "." ++ [hexDigit true (f / 100), hexDigit true (f / 10 % 10)] ++ dec (f % 10))

def line (l : List Byte) : List Byte := l ++ [13, 10]

/-! ## The description of a stream (R381) -/

def encText (e : Nat) : List Byte := ascii (if e = 0 then "L16" else if e = 1 then "L24" else if e = 2 then "L32" else "AM824")

/-- Destination and source address of a leg: a transmit leg's source is its port's address. -/
def State.legAddrs (s : State) (dir i l : Nat) : Nat × Nat × Nat :=
  let ip := if s.on (ip6Fld dir i l) then 6 else 4
  (ip, s.legDest dir i l, if dir = 0 then s.legSrc i l else s.ownAddr (s.get (portFld dir i l)) ip)

/-- The label of a stream: that of NMOS_EXPOSE_SET, or the unit's own. -/
def State.streamLabel (s : State) (dir i : Nat) : List Byte :=
  match s.svc.exposed.find? (fun e => e.dir == dir && e.stream == i) with
  | some e => if e.label.isEmpty then ascii (if dir = 0 then "NC2048 rx " else "NC2048 tx ") ++ dec i else e.label
  | none => ascii (if dir = 0 then "NC2048 rx " else "NC2048 tx ") ++ dec i

/-- One media section. -/
def State.sdpMedia (s : State) (dir i l : Nat) : List Byte :=
  let e := s.entry dir i
  let (ip, dst, src) := s.legAddrs dir i l
  let rate := s.base * e.k
  let pt := s.get (if dir = 0 then RXE.PT i else TXE.PT i)
  let dport := s.get (if dir = 0 then RXE.LEG_UDP_DPORT i l else TXE.LEG_UDP_DPORT i l)
  let multi := isMulticast ip dst
  let ttl := if multi ∧ dir = 1 then ascii "/" ++ dec (s.get (TXE.LEG_TTL i l)) else []
  let us := e.spp * 1000000
  let onRef := s.on (CLK.DPLL_SEL_VALID 0) && s.get (CLK.DPLL_SEL_REF 0) == 6
  let active := s.get TIME.STATUS_ACTIVE_PORT
  let gm := ((s.ptp active).parent.map Announce.gm).getD 0
  List.flatten [
    line (ascii "m=audio " ++ dec dport ++ ascii " RTP/AVP " ++ dec pt),
    line (ascii "c=IN " ++ ipText ip ++ ascii " " ++ addrText ip dst ++ ttl),
    if multi then line (ascii "a=source-filter: incl IN " ++ ipText ip ++ ascii " " ++ addrText ip dst ++ ascii " " ++ addrText ip src)
      else [],
    line (ascii "a=rtpmap:" ++ dec pt ++ ascii " " ++ encText e.enc ++ ascii "/" ++ dec rate ++ ascii "/" ++ dec e.ch),
    line (ascii "a=ptime:" ++ msText ((2 * us + rate) / (2 * rate))),
    if us % rate = 0 then [] else line (ascii "a=framecount:" ++ dec e.spp),
    if onRef then
      line (ascii "a=ts-refclk:ptp=IEEE1588-2008:" ++ dashText 8 gm ++ ascii ":" ++ dec (s.get (TIME.PORT_DOMAIN active)))
    else line (ascii "a=ts-refclk:localmac=" ++ dashText 6 (s.stationMac (s.get (portFld dir i l)))),
    line (ascii "a=mediaclk:direct=" ++ dec (s.get (if dir = 0 then RXE.RTP_OFFSET i else TXE.RTP_OFFSET i))),
    if e.red then line (ascii (if l = 0 then "a=mid:A" else "a=mid:B")) else []]

/-- The text of a stream with the given version. -/
def State.sdpText (s : State) (dir i version : Nat) : List Byte :=
  let e := s.entry dir i
  let (ip, _, src) := s.legAddrs dir i 0
  let ssrc := s.get (if dir = 0 then RXE.SSRC i else TXE.SSRC i)
  List.flatten [
    line (ascii "v=0"),
    line (ascii "o=- " ++ dec ssrc ++ ascii " " ++ dec version ++ ascii " IN " ++ ipText ip ++ ascii " " ++ addrText ip src),
    line (ascii "s=" ++ s.streamLabel dir i),
    line (ascii "t=0 0"),
    if e.red then line (ascii "a=group:DUP A B") else [],
    (s.legs dir i).flatMap (s.sdpMedia dir i)]

/-- The present text of a stream: its version grows by one when the text has changed since it was last made. -/
def State.sdpNow (s : State) (dir i : Nat) : List Byte × State :=
  let bare := s.sdpText dir i 0
  let old := s.svc.sdpText.find? (fun t => t.1 == dir && t.2.1 == i)
  let ver := match old with
    | some t => if t.2.2.1 = bare then t.2.2.2 else t.2.2.2 + 1
    | none => 1
  let rest := s.svc.sdpText.filter (fun t => !(t.1 == dir && t.2.1 == i))
  (s.sdpText dir i ver, { s with svc := { s.svc with sdpText := rest ++ [(dir, i, bare, ver)] } })

/-- SDP_GET: Direction; stream. -/
def execSdpGet (r : Req) (p : List Tlv) (s : State) : Out :=
  runCmd 0x0C02 [preq 1 1 0 1, preq 2 2 0 511] (fun q s =>
    let (dir, i) := (Params.val q 1, Params.val q 2)
    if (s.legs dir i).any (fun l => s.on (validFld dir i l)) then
      let (t, s) := s.sdpNow dir i
      (Reply.ok t, s)
    else (Reply.err Status.notInState, s)) r p s

/-! ## Reading a description (R382) -/

/-- The rest after a prefix, if the list begins with it. -/
def stripPre : List Byte → List Byte → Option (List Byte)
  | [], l => some l
  | _ :: _, [] => none
  | a :: p, b :: l => if a = b then stripPre p l else none

/-- Split at a byte. -/
def splitAtByte (c : Byte) : List Byte → List (List Byte)
  | [] => [[]]
  | b :: t =>
    if b = c then [] :: splitAtByte c t
    else match splitAtByte c t with
      | [] => [[b]]
      | x :: xs => (b :: x) :: xs

def isDigit (b : Byte) : Bool := decide (48 ≤ b.toNat ∧ b.toNat ≤ 57)

/-- A decimal number: one or more digits and nothing else. -/
def readDec (l : List Byte) : Option Nat :=
  if l.isEmpty || !l.all isDigit then none else some (l.foldl (fun n b => 10 * n + (b.toNat - 48)) 0)

def hexVal (b : Byte) : Option Nat :=
  let n := b.toNat
  if 48 ≤ n ∧ n ≤ 57 then some (n - 48) else if 97 ≤ n ∧ n ≤ 102 then some (n - 87) else if 65 ≤ n ∧ n ≤ 70 then some (n - 55) else none

def readHex (l : List Byte) : Option Nat :=
  if l.isEmpty || decide (4 < l.length) then none
  else l.foldl (fun n b => match n, hexVal b with
    | some n, some d => some (16 * n + d)
    | _, _ => none) (some 0)

/-- An IPv4 or IPv6 address. -/
def readAddr (ip : Nat) (l : List Byte) : Option Nat :=
  if ip = 4 then
    match (splitAtByte 46 l).map readDec with
    | [some a, some b, some c, some d] =>
      if a < 256 ∧ b < 256 ∧ c < 256 ∧ d < 256 then some (((a * 256 + b) * 256 + c) * 256 + d) else none
    | _ => none
  else
    let parts := splitAtByte 58 l
    let pre := parts.takeWhile (fun x => !x.isEmpty)
    let post := (parts.drop pre.length).filter (fun x => !x.isEmpty)
    let gap := decide (pre.length < parts.length)
    let zeros : List (List Byte) := if gap then List.replicate (8 - pre.length - post.length) [48] else []
    let all : List (Option Nat) := (pre ++ zeros ++ post).map readHex
    if all.length = 8 ∧ all.all Option.isSome then some (all.foldl (fun n g => n * 65536 + g.getD 0) 0) else none

/-- "IP4" or "IP6". -/
def readIp (l : List Byte) : Option Nat := if l = ascii "IP4" then some 4 else if l = ascii "IP6" then some 6 else none

/-- A media section as it is read: line of its m= and of its rtpmap, port, payload type, address family and destination, first source, encoding,
clock rate, channels, ptime in ns, framecount and mediaclk offset. -/
structure SdpMedia where
  at' : Nat
  mapAt : Nat
  port : Nat
  pt : Nat
  ip : Nat
  dst : Option Nat
  src : Option Nat
  enc : Option Nat
  rate : Nat
  ch : Nat
  ptime : Option Nat
  count : Option Nat
  direct : Nat
deriving DecidableEq, Repr

/-- A decimal number of ms with up to six decimals, in ns. -/
def readMs (l : List Byte) : Option Nat :=
  match splitAtByte 46 l with
  | [a] => (readDec a).map (fun n => n * 1000000)
  | [a, b] =>
    match readDec a, readDec b with
    | some n, some f => if b.length ≤ 6 then some (n * 1000000 + f * 10 ^ (6 - b.length)) else none
    | _, _ => none
  | _ => none

/-- Words of a line. -/
def words (l : List Byte) : List (List Byte) := (splitAtByte 32 l).filter (fun w => !w.isEmpty)

/-- The encoding named by an rtpmap. -/
def readEnc (l : List Byte) : Option Nat :=
  if l = ascii "L16" then some 0 else if l = ascii "L24" then some 1 else if l = ascii "L32" then some 2
  else if l = ascii "AM824" then some 3 else none

/-- The value of a=rtpmap. -/
def readMap (n : Nat) (m : SdpMedia) (v : List Byte) : Option SdpMedia :=
  match words v with
  | [pt, e] =>
    match readDec pt, splitAtByte 47 e with
    | some pt, name :: rate :: ch =>
      match readEnc name, readDec rate, (ch.head?.map readDec).getD (some 1) with
      | some enc, some rate, some c => if pt = m.pt then some { m with enc := some enc, rate := rate, ch := c, mapAt := n } else none
      | _, _, _ => none
    | _, _ => none
  | _ => none

/-- One line of a media section: none where it cannot be read. -/
def readMedia (n : Nat) (m : SdpMedia) (l : List Byte) : Option SdpMedia :=
  match stripPre (ascii "c=") l with
  | some v =>
    match words v with
    | [_, f, a] =>
      match readIp f with
      | some ip => (readAddr ip ((splitAtByte 47 a).headD [])).map (fun d => { m with ip := ip, dst := some d })
      | none => none
    | _ => none
  | none =>
    match stripPre (ascii "a=rtpmap:") l with
    | some v => readMap n m v
    | none =>
      match stripPre (ascii "a=source-filter:") l with
      | some v =>
        match words v with
        | incl :: _ :: f :: _ :: a :: _ =>
          if incl = ascii "incl" then
            match readIp f with
            | some ip => (readAddr ip a).map (fun d => { m with src := some d })
            | none => none
          else some m
        | _ => none
      | none =>
        match stripPre (ascii "a=ptime:") l with
        | some v => (readMs v).map (fun t => { m with ptime := some t })
        | none =>
          match stripPre (ascii "a=framecount:") l with
          | some v => (readDec v).map (fun c => { m with count := some c })
          | none =>
            match stripPre (ascii "a=mediaclk:direct=") l with
            | some v => (readDec v).bind (fun d => if d < 2 ^ 32 then some { m with direct := d } else none)
            | none => some m

/-- An m= line: the port and payload type of an audio section. -/
def readM (n : Nat) (v : List Byte) : Option SdpMedia :=
  match words v with
  | [kind, port, prof, pt] =>
    match readDec port, readDec pt with
    | some port, some pt =>
      if kind = ascii "audio" ∧ prof = ascii "RTP/AVP" ∧ port < 65536 ∧ pt < 128 then
        some ⟨n, n, port, pt, 4, none, none, none, 0, 1, none, none, 0⟩
      else none
    | _, _ => none
  | _ => none

/-- A description read line by line: whether a=group:DUP was seen, the session's own c= line, the sections (newest first), or the line that cannot be read. -/
structure SdpRead where
  dup : Bool
  conn : Option (List Byte)
  secs : List SdpMedia
  bad : Option Nat
deriving DecidableEq, Repr

def readLine (st : SdpRead) (x : List Byte × Nat) : SdpRead :=
  let (l, n) := (x.1.filter (fun b => b != 13#8), x.2 + 1)
  if st.bad.isSome || l.isEmpty then st
  else if n = 1 ∧ l ≠ ascii "v=0" then { st with bad := some n }
  else match stripPre (ascii "m=") l with
    | some v =>
      match readM n v with
      | some m =>
        let m := ((st.conn.map (readMedia n m)).getD (some m)).getD m
        { st with secs := m :: st.secs }
      | none => { st with bad := some n }
    | none =>
      match st.secs with
      | [] =>
        if (stripPre (ascii "a=group:DUP") l).isSome then { st with dup := true }
        else if (stripPre (ascii "c=") l).isSome then { st with conn := some l }
        else if nth l 1 0 = 61#8 then st else { st with bad := some n }
      | m :: t =>
        match readMedia n m l with
        | some m => { st with secs := m :: t }
        | none => { st with bad := some n }

/-- SPP of a section at its clock rate: framecount, or ptime × rate ÷ 1,000 rounded, within 0.01 ms of ptime. -/
def SdpMedia.spp (m : SdpMedia) : Option Nat :=
  match m.count, m.ptime with
  | some c, _ => some c
  | none, some t =>
    let n := (2 * t * m.rate + 1000000000) / 2000000000
    let ns := if m.rate = 0 then 0 else n * 1000000000 / m.rate
    if ns ≤ t + 10000 ∧ t ≤ ns + 10000 then some n else none
  | none, none => none

/-- The fields a section gives leg l of receive entry i. -/
def SdpMedia.legWrites (m : SdpMedia) (i l port : Nat) : List (Fld × Nat) :=
  let words' := fun (a : Nat) => if m.ip = 4 then [a, 0, 0, 0] else (List.range 4).map (fun k => a / 2 ^ (32 * (3 - k)) % 2 ^ 32)
  let dst := (words' (m.dst.getD 0)).zipIdx.map (fun x => (RXE.LEG_DEST_IP i l x.2, x.1))
  let src := match m.src with
    | some a => (words' a).zipIdx.map (fun x => (RXE.LEG_SRC_IP i l x.2, x.1)) ++ [(RXE.LEG_SRC_FILT i l, 1)]
    | none => []
  [(RXE.LEG_VALID i l, 1), (RXE.LEG_IPV6 i l, if m.ip = 4 then 0 else 1), (RXE.LEG_PORT i l, port), (RXE.LEG_UDP_DPORT i l, m.port)] ++
    dst ++ src

/-- What a description writes into receive entry i, or the line that is at fault. -/
def State.sdpWrites (s : State) (i ports : Nat) (text : List Byte) : (Nat × List (Fld × Nat)) ⊕ Nat :=
  let st := (splitAtByte 10 text).zipIdx.foldl readLine ⟨false, none, [], none⟩
  match st.bad, st.secs.reverse with
  | some n, _ => .inr n
  | none, a :: rest =>
    let ok := fun (m : SdpMedia) => m.enc.isSome && m.dst.isSome && m.spp.isSome
    let k := (List.range 3).find? (fun k => a.rate == s.base * 2 ^ k)
    let same := fun (m : SdpMedia) => m.enc == a.enc && m.rate == a.rate && m.ch == a.ch && m.spp == a.spp
    if !ok a then .inr a.at'
    else match rest.find? (fun m => !ok m || !same m), k with
      | some m, _ => .inr m.at'
      | none, none => .inr a.mapAt
      | none, some k =>
        if 1 < rest.length ∨ (rest.length = 1 ∧ !st.dup) then .inr ((rest.getLastD a).at')
        else
          let head := [(RXE.ENC i, a.enc.getD 0), (RXE.RATE i, k), (RXE.CHANNELS i, a.ch), (RXE.SPP i, a.spp.getD 0), (RXE.PT i, a.pt),
            (RXE.RTP_OFFSET i, a.direct), (RXE.REDUNDANT i, rest.length)]
          if 256 < a.ch ∨ a.ch = 0 ∨ 2047 < a.spp.getD 0 then .inr a.mapAt
          else .inl (a.mapAt, head ++ (a :: rest).zipIdx.flatMap (fun x => x.1.legWrites i x.2 (ports / 2 ^ x.2 % 2)))
  | none, [] => .inr (splitAtByte 10 text).length

/-- Fields of an entry that a description writes and that are not class S (R198). -/
def sdpUpd (i : Nat) (f : Fld) : Upd := if f = RXE.PT i then .rxPacket else .static

/-- The first part of SDP_APPLY: the entry is written as one change. -/
def State.sdpApply (s : State) (i ports : Nat) (text : List Byte) : Nat × Nat × State :=
  match s.sdpWrites i ports text with
  | .inr n => (Status.badParam, n, s)
  | .inl (ln, ws) =>
    if (s.entry 0 i).on && ws.any (fun w => sdpUpd i w.1 == .static && w.2 % 2 ^ w.1.w != s.get w.1) then (Status.notInState, 0, s)
    else
      let s1 := ws.foldl (fun s w => s.write w.1 (sdpUpd i w.1) w.2) s
      if s1.limitsOk 0 i then (0, 0, s1) else (Status.badParam, ln, s)

/-- The fields of an entry, ENABLE aside, as they stand. -/
def State.sdpBefore (s : State) (dir i : Nat) : List Nat :=
  ((entryFlds dir i).map (fun f => s.get f.fld)) ++ (entryAddrs dir i).flatMap (fun a => (List.range 4).map (fun k => s.get (a.2 k)))

/-- They are put back. -/
def State.sdpRestore (s : State) (dir i : Nat) (old : List Nat) : State :=
  let fs := ((entryFlds dir i).map (fun f => (f.fld, f.upd))) ++
    (entryAddrs dir i).flatMap (fun a => (List.range 4).map (fun k => (a.2 k, Upd.static)))
  (fs.zip old).foldl (fun s x => s.write x.1.1 x.1.2 x.2) s

/-- SDP_APPLY: Receive stream; SDP text; LEG_PORTS; ENABLE. Two parts, the writing and the enabling; the wait keeps the entry as it was. -/
def execSdpApply (r : Req) (p : List Tlv) (s : State) : Out :=
  match s.refuses r 0x0C03 [preq 1 2 0 511, { preq 2 0 0 0 with len := 0 }, popt 3 1 0 3, popt 4 1 0 1]
      (p.map (fun t => if t.ty = 2 then { t with len := 0, val := 0 } else t)) with
  | some e => .next (s.finish r 0x0C03 e)
  | none =>
    let i := Params.val p 1
    let text := ((p.find? (fun t => t.ty == 2)).map (fun t => le t.len t.val)).getD []
    if 4096 < text.length then .next (s.finish r 0x0C03 (Reply.errAt Status.badParam p 2))
    else
      let old := s.sdpBefore 0 i ++ [if (s.entry 0 i).on then 1 else 0]
      let (st, ln, s) := s.sdpApply i (match Params.val? p 3 with
        | some v => v
        | none => s.get (RXE.LEG_PORT i 0) + 2 * s.get (RXE.LEG_PORT i 1)) text
      let parts := if Params.has p 4 then [0, 1] else [0]
      let (st2, s) :=
        if Params.has p 4 then
          let (e, _, s) := s.enableStream 0 i (Params.val p 4 == 1)
          (e, s)
        else (0, s)
      let sts := if Params.has p 4 then [st, st2] else [st]
      .next (s.addWait ⟨r, 0x0C03, 11, 2, List.range parts.length, parts, sts, [ln, 0], old, i, []⟩)

/-- A part of SDP_APPLY is undone: 0 the writing, 1 the enabling. -/
def State.sdpUndo (i part : Nat) (old : List Nat) (s : State) : Nat × State :=
  if part = 0 then (0, s.sdpRestore 0 i old)
  else
    let was := old.getLastD 0 == 1
    if (s.entry 0 i).on = was then (0, s)
    else
      let (e, _, s) := s.enableStream 0 i was
      (e, s)

end Sys2Proof.Machine
end

