-- ==== Sys2Proof/Machine/Nmos.lean ====
section
/-! DEFINITION. NMOS resources (R385): the node, device, sources, flows, senders and receivers of IS-04 v1.3 and the transport parameters of IS-05 v1.1, as
JSON text, and the HTTP/1.1 messages that carry them. The names and the layout of a resource's members are those of the AMWA documents
(PRESUMED, assumption 122). -/

namespace Sys2Proof.Machine

/-! ## JSON -/

/-- A string in quotes. -/
def jStr (l : List Byte) : List Byte := [34] ++ l.flatMap (fun b => if b = 34 ∨ b = 92 then [92, b] else [b]) ++ [34]

def jText (t : String) : List Byte := jStr (ascii t)

def jBool (b : Bool) : List Byte := ascii (if b then "true" else "false")

def jObj (l : List (String × List Byte)) : List Byte := [123] ++ joinBy [44] (l.map (fun x => jText x.1 ++ [58] ++ x.2)) ++ [125]

def jArr (l : List (List Byte)) : List Byte := [91] ++ joinBy [44] l ++ [93]

def jNull : List Byte := ascii "null"

/-! ## Identifiers and versions -/

/-- A UUID as text. -/
def uuidText (v : Nat) : List Byte :=
  let h := hex false 32 v
  joinBy (ascii "-") [h.take 8, (h.drop 8).take 4, (h.drop 12).take 4, (h.drop 16).take 4, h.drop 20]

/-- The identifier of a resource of the unit (R506): kind 0 node, 1 device, 2 source, 3 flow, 4 sender, 5 receiver. -/
def State.nmosId (s : State) (kind i : Nat) : List Byte := jStr (uuidText (Config.nmosId s.life.ident.eui kind i))

/-- The exposed streams of a direction. -/
def State.exposedOf (s : State) (dir : Nat) : List Expose := s.svc.exposed.filter (fun e => e.dir == dir && e.expose == 1)

/-- Stream i of a direction is exposed. -/
def State.isExposed (s : State) (dir i : Nat) : Bool := (s.exposedOf dir).any (fun e => e.stream == i)

/-- The version of a stream's resources; that of the node and the device grows with any of them. -/
def State.nmosVersion (s : State) (dir i : Nat) : Nat :=
  ((s.svc.exposed.find? (fun e => e.dir == dir && e.stream == i)).map Expose.version).getD 0

def State.nodeVersion (s : State) : Nat := (s.svc.exposed.map Expose.version).sum

/-- What every resource begins with. -/
def State.nmosCore (s : State) (kind i version : Nat) (label desc : List Byte) : List (String × List Byte) :=
  [("id", s.nmosId kind i), ("version", jStr (dec version ++ ascii ":0")), ("label", jStr label), ("description", jStr desc), ("tags", jObj [])]

/-! ## Resources of IS-04 -/

def portName (p : Nat) : List Byte := ascii "port" ++ dec p

/-- The base of the unit's URLs on its first service port with an address. -/
def State.nmosHref (s : State) : List Byte :=
  let p := ((List.range 4).find? (fun p => s.svc.servicePorts.testBit p)).getD 2
  ascii "http://" ++ addrText 4 (s.ownAddr p 4) ++ ascii ":" ++ dec (s.get (PORT.NMOS_PORT p)) ++ ascii "/"

/-- The clock of the node: PTP while DPLL0 follows reference 6, else internal. -/
def State.nmosClock (s : State) : List Byte :=
  let p := s.get TIME.STATUS_ACTIVE_PORT
  match (s.ptp p).parent, s.on (CLK.DPLL_SEL_VALID 0) && s.get (CLK.DPLL_SEL_REF 0) == 6 with
  | some a, true => jObj [("name", jText "clk0"), ("ref_type", jText "ptp"), ("traceable", jBool a.traceable), ("version", jText "IEEE1588-2008"),
      ("gmid", jStr (joinBy (ascii "-") ((be 8 a.gm).map (fun b => hex false 2 b.toNat)))), ("locked", jBool (s.on TIME.STATUS_MEDIA_VALID))]
  | _, _ => jObj [("name", jText "clk0"), ("ref_type", jText "internal")]

def State.nmosNode (s : State) : List Byte :=
  let face := fun (p : Nat) => jObj [("name", jStr (portName p)), ("chassis_id", jNull),
    ("port_id", jStr (joinBy (ascii "-") ((be 6 (s.stationMac p)).map (fun b => hex false 2 b.toNat))))]
  let point := fun (p : Nat) => jObj [("host", jStr (addrText 4 (s.ownAddr p 4))), ("port", dec (s.get (PORT.NMOS_PORT p))), ("protocol", jText "http")]
  let ports := (List.range 4).filter (fun p => s.svc.servicePorts.testBit p)
  jObj (List.flatten [s.nmosCore 0 0 s.nodeVersion s.svc.label s.svc.description,
    [("href", jStr s.nmosHref), ("hostname", jStr s.svc.hostname), ("caps", jObj []), ("services", jArr []),
     ("api", jObj [("versions", jArr [jText "v1.3"]), ("endpoints", jArr (ports.map point))]),
     ("clocks", jArr [s.nmosClock]), ("interfaces", jArr ((List.range 4).map face))]])

def State.nmosDevice (s : State) : List Byte :=
  let ids := fun (dir kind : Nat) => jArr ((s.exposedOf dir).map (fun e => s.nmosId kind e.stream))
  jObj (List.flatten [s.nmosCore 1 0 s.nodeVersion s.svc.label s.svc.description,
    [("type", jText "urn:x-nmos:device:generic"), ("node_id", s.nmosId 0 0), ("senders", ids 1 4), ("receivers", ids 0 5),
     ("controls", jArr [jObj [("href", jStr (s.nmosHref ++ ascii "x-nmos/connection/v1.1/")), ("type", jText "urn:x-nmos:control:sr-ctrl/v1.1")]])]])

def mediaType (enc : Nat) : List Byte := jStr (ascii "audio/" ++ encText enc)

def State.nmosSource (s : State) (i : Nat) : List Byte :=
  let label := s.streamLabel 1 i
  let chan := fun (c : Nat) => jObj [("label", jStr (dec (c + 1))), ("symbol", jStr (ascii "U" ++ dec (c + 1)))]
  jObj (List.flatten [s.nmosCore 2 i (s.nmosVersion 1 i) label label,
    [("format", jText "urn:x-nmos:format:audio"), ("caps", jObj []), ("device_id", s.nmosId 1 0), ("parents", jArr []), ("clock_name", jText "clk0"),
     ("channels", jArr ((List.range (s.entry 1 i).ch).map chan))]])

def State.nmosFlow (s : State) (i : Nat) : List Byte :=
  let label := s.streamLabel 1 i
  let e := s.entry 1 i
  jObj (List.flatten [s.nmosCore 3 i (s.nmosVersion 1 i) label label,
    [("format", jText "urn:x-nmos:format:audio"), ("source_id", s.nmosId 2 i), ("device_id", s.nmosId 1 0), ("parents", jArr []),
     ("media_type", mediaType e.enc), ("sample_rate", jObj [("numerator", dec (s.base * e.k))]),
     ("bit_depth", dec (if e.enc = 0 then 16 else if e.enc = 2 then 32 else 24))]])

/-- The URN of a stream's transport. -/
def State.nmosTransport (s : State) (dir i : Nat) : List Byte :=
  let (ip, dst, _) := s.legAddrs dir i 0
  jText (if isMulticast ip dst then "urn:x-nmos:transport:rtp.mcast" else "urn:x-nmos:transport:rtp.ucast")

def State.nmosBindings (s : State) (dir i : Nat) : List Byte := jArr ((s.legs dir i).map (fun l => jStr (portName (s.get (portFld dir i l)))))

def State.nmosSender (s : State) (i : Nat) : List Byte :=
  let label := s.streamLabel 1 i
  let url := s.nmosHref ++ ascii "x-nmos/connection/v1.1/single/senders/" ++ uuidText (Config.nmosId s.life.ident.eui 4 i) ++ ascii "/transportfile"
  jObj (List.flatten [s.nmosCore 4 i (s.nmosVersion 1 i) label label,
    [("flow_id", s.nmosId 3 i), ("transport", s.nmosTransport 1 i), ("device_id", s.nmosId 1 0), ("manifest_href", jStr url),
     ("interface_bindings", s.nmosBindings 1 i), ("subscription", jObj [("receiver_id", jNull), ("active", jBool (s.entry 1 i).on)])]])

def State.nmosReceiver (s : State) (i : Nat) : List Byte :=
  let label := s.streamLabel 0 i
  jObj (List.flatten [s.nmosCore 5 i (s.nmosVersion 0 i) label label,
    [("format", jText "urn:x-nmos:format:audio"), ("caps", jObj [("media_types", jArr ([0, 1, 2, 3].map mediaType))]), ("device_id", s.nmosId 1 0),
     ("transport", s.nmosTransport 0 i), ("interface_bindings", s.nmosBindings 0 i),
     ("subscription", jObj [("sender_id", jNull), ("active", jBool (s.entry 0 i).on)])]])

/-- A resource of kind 2 to 5 of stream i. -/
def State.nmosOne (s : State) (kind i : Nat) : List Byte :=
  match kind with
  | 2 => s.nmosSource i
  | 3 => s.nmosFlow i
  | 4 => s.nmosSender i
  | _ => s.nmosReceiver i

/-- Direction of a resource of kind 2 to 5. -/
def kindDir (kind : Nat) : Nat := if kind = 5 then 0 else 1

/-! ## Transport parameters of IS-05 -/

/-- A staged TLV's value over the one in force. -/
def stagedVal (p : List Tlv) (ty v : Nat) : Nat := (Params.val? p ty).getD v

def stagedAddr (p : List Tlv) (ty v : Nat) : Nat := ((p.find? (fun t => t.ty == ty)).map (fun t => (tlvAddr t).2)).getD v

/-- The transport parameters of leg l, with `p` the staged ones (none for the active). -/
def State.legParams (s : State) (dir i l : Nat) (p : List Tlv) : List Byte :=
  let t := if dir = 0 then 26 + 9 * l else 20 + 16 * l
  let (ip, dst, src) := s.legAddrs dir i l
  let dst := stagedAddr p (if dir = 0 then 33 + 9 * l else 33 + 16 * l) dst
  let dport := stagedVal p (if dir = 0 then t + 6 else t + 12) (s.get (if dir = 0 then RXE.LEG_UDP_DPORT i l else TXE.LEG_UDP_DPORT i l))
  let en := stagedVal p t (s.get (validFld dir i l)) == 1
  if dir = 1 then
    jObj [("source_ip", jStr (addrText ip src)), ("destination_ip", jStr (addrText ip dst)), ("destination_port", dec dport),
      ("source_port", dec (stagedVal p (t + 11) (s.get (TXE.LEG_UDP_SPORT i l)))), ("rtp_enabled", jBool en)]
  else
    let filt := stagedVal p (t + 3) (s.get (RXE.LEG_SRC_FILT i l)) == 1
    jObj [("source_ip", if filt then jStr (addrText ip (stagedAddr p (34 + 9 * l) src)) else jNull),
      ("multicast_ip", if isMulticast ip dst then jStr (addrText ip dst) else jNull),
      ("interface_ip", jStr (addrText ip (s.ownAddr (s.get (portFld 0 i l)) ip))), ("destination_port", dec dport), ("rtp_enabled", jBool en)]

/-- The active parameters of a sender or receiver, or with `e` the staged ones. -/
def State.nmosParams (s : State) (dir i : Nat) (e : Option Expose) : List Byte :=
  let p := (e.map Expose.staged).getD []
  let on := (e.bind Expose.enable).getD (s.entry dir i).on
  jObj [("master_enable", jBool on), (if dir = 1 then "receiver_id" else "sender_id", jNull),
    ("activation", jObj [("mode", jNull), ("requested_time", jNull), ("activation_time", jNull)]),
    ("transport_params", jArr ((s.legs dir i).map (fun l => s.legParams dir i l p)))]

/-- What a GET of a resource answers: none where there is no such resource. -/
def State.nmosBody (s : State) (r : NmosRes) : Option (List Byte) :=
  let all := fun (dir kind : Nat) => jArr ((s.exposedOf dir).map (fun e => s.nmosOne kind e.stream))
  match r with
  | .self => some s.nmosNode
  | .devices => some (jArr [s.nmosDevice])
  | .sources => some (all 1 2)
  | .flows => some (all 1 3)
  | .senders => some (all 1 4)
  | .receivers => some (all 0 5)
  | .one kind i => if 2 ≤ kind ∧ kind ≤ 5 ∧ s.isExposed (kindDir kind) i then some (s.nmosOne kind i) else none
  | .active dir i => if s.isExposed dir i then some (s.nmosParams dir i none) else none
  | .staged dir i | .patch dir i _ _ =>
    if s.isExposed dir i then some (s.nmosParams dir i (s.svc.exposed.find? (fun e => e.dir == dir && e.stream == i))) else none
  | .file i => if s.isExposed 1 i then some (s.sdpNow 1 i).1 else none
  | .absent => none

/-! ## HTTP -/

/-- The status line and headers of an answer, and its body. -/
def httpMessage (status : Nat) (body : List Byte) : List Byte :=
  List.flatten [line (ascii "HTTP/1.1 " ++ dec status), line (ascii "Content-Type: application/json"), line (ascii "Content-Length: " ++ dec body.length),
    line [], body]

/-- A POST of the registration API. -/
def postMessage (path body : List Byte) : List Byte :=
  List.flatten [line (ascii "POST /x-nmos/registration/v1.3/" ++ path ++ ascii " HTTP/1.1"), line (ascii "Content-Type: application/json"),
    line (ascii "Content-Length: " ++ dec body.length), line [], body]

/-- The requests that register the node and every resource it exposes. -/
def State.registration (s : State) : List (List Byte) :=
  let post := fun (ty : String) (data : List Byte) => postMessage (ascii "resource") (jObj [("type", jText ty), ("data", data)])
  let each := fun (ty : String) (dir kind : Nat) => (s.exposedOf dir).map (fun e => post ty (s.nmosOne kind e.stream))
  List.flatten [[post "node" s.nmosNode, post "device" s.nmosDevice], each "source" 1 2, each "flow" 1 3, each "sender" 1 4, each "receiver" 0 5]

/-- The heartbeat of the node. -/
def State.heartbeat (s : State) : List Byte := postMessage (ascii "health/nodes/" ++ uuidText (Config.nmosId s.life.ident.eui 0 0)) []

/-- An HTTP answer on port p, through the TCP connection whose segment header and MSS `c` gives (R143); the last 16 are kept. -/
def State.httpAnswer (s : State) (p status : Nat) (body : List Byte) (c : HttpConn) : State :=
  let l := s.svc.httpOut ++ [(p, status, body)]
  let s : State := { s with svc := { s.svc with httpOut := l.drop (l.length - 16) } }
  s.sendSegmented p c.ip6 c.hdr c.mss (httpMessage status body)

/-- PATCH of staged parameters: each replaces the one of its type. -/
def Expose.patch (e : Expose) (p : List Tlv) (enable : Option Bool) : Expose :=
  { e with staged := e.staged.filter (fun t => !p.any (fun q => q.ty == t.ty)) ++ p, enable := if enable.isSome then enable else e.enable }

end Sys2Proof.Machine
end

