-- ==== Sys2Proof/Machine/Disco.lean ====
section
/-! DEFINITION. Announcement, discovery and NMOS (R383 to R387), and the control frames the engine handles (R378, R379). The layouts of mDNS
(RFC 6762, RFC 1035), DNS-SD (RFC 6763), SAP (RFC 2974), IGMP and MLD messages are those of their standards (PRESUMED, assumption 8). -/

namespace Sys2Proof.Machine

/-- The network services run: they are off on a moon in the cluster (R424). -/
def State.servicesOn (s : State) : Bool := !(s.on ORB.STATUS_ROLE_STRAP && s.get ORB.STATUS_JOIN_STATE != 0)

/-- SERVICE_PORTS names port p. -/
def State.servicePort (s : State) (p : Nat) : Bool := s.servicesOn && s.svc.servicePorts.testBit p

/-- A services event (R391). -/
def State.svcEvent (s : State) (code : Nat) (detail : List Byte) : State := s.raise code 1 48 detail

/-- The bytes of a text parameter. -/
def textOf (p : Params) (ty : Nat) : List Byte := ((p.find? (fun t => t.ty == ty)).map (fun t => le t.len t.val)).getD []

/-- Parameters with the text ones reduced to flags, so that the list of R365 check 8 applies to the rest. -/
def hideText (tys : List Nat) (p : Params) : Params := p.map (fun t => if tys.contains t.ty then { t with len := 0, val := 0 } else t)

/-! ## Names -/

/-- A name of labels, and its DNS form. -/
def dnsBytes (labels : List (List Byte)) : List Byte := labels.flatMap (fun l => BitVec.ofNat 8 l.length :: l) ++ [0]

/-- HOSTNAME, or the one made from the identity; with the suffix a conflict left. -/
def State.hostLabel (s : State) : List Byte :=
  let h := if s.svc.hostname.isEmpty then ascii "nc2048-" ++ hex false 16 s.life.ident.eui else s.svc.hostname
  if s.svc.suffix < 2 then h else h ++ ascii "-" ++ dec s.svc.suffix

def localLabel : List Byte := ascii "local"

/-- The services a port registers (R384): labels of the type, and the port number. -/
def State.ownServices (s : State) (p : Nat) : List (List (List Byte) × Nat) :=
  (if 2 ≤ p then [([ascii "_suosh", ascii "_udp", localLabel], s.get (PORT.SUOSH_PORT p))] else []) ++
  (if s.svc.nmosMode ≠ 0 then [([ascii "_nmos-node", ascii "_tcp", localLabel], s.get (PORT.NMOS_PORT p))] else [])

/-- A name in a message: its labels, and the offset after it. Pointers are followed; `n` bounds the labels. -/
def readName (m : List Byte) : Nat → Nat → Option (List (List Byte) × Nat)
  | 0, _ => none
  | n + 1, off =>
    let c := beAt m off 1
    if m.length ≤ off then none
    else if c = 0 then some ([], off + 1)
    else if 192 ≤ c then (readName m n (beAt m off 2 % 16384)).map (fun x => (x.1, off + 2))
    else if 64 ≤ c then none
    else (readName m n (off + 1 + c)).map (fun x => ((m.drop (off + 1)).take c :: x.1, x.2))

/-- A record: name, type, and where its data lie. -/
structure DnsRec where
  name : List (List Byte)
  ty : Nat
  off : Nat
  len : Nat
deriving DecidableEq, Repr

/-- `n` questions from an offset: names and types, and the offset after them. -/
def readQuestions (m : List Byte) : Nat → Nat → List (List (List Byte) × Nat) × Nat
  | 0, off => ([], off)
  | n + 1, off =>
    match readName m 40 off with
    | none => ([], m.length)
    | some (l, o) =>
      let (qs, e) := readQuestions m n (o + 4)
      ((l, beAt m o 2) :: qs, e)

/-- `n` records from an offset. -/
def readRecords (m : List Byte) : Nat → Nat → List DnsRec
  | 0, _ => []
  | n + 1, off =>
    match readName m 40 off with
    | none => []
    | some (l, o) =>
      let len := beAt m (o + 8) 2
      if m.length < o + 10 + len then [] else ⟨l, beAt m o 2, o + 10, len⟩ :: readRecords m n (o + 10 + len)

/-- One resource record: name, type, data. -/
def recordBytes (name : List (List Byte)) (ty : Nat) (data : List Byte) : List Byte :=
  dnsBytes name ++ be 2 ty ++ be 2 1 ++ be 4 120 ++ be 2 data.length ++ data

/-- Address records of the unit's name on port p. -/
def State.addrRecords (s : State) (p : Nat) : List (List Byte) :=
  let x := (s.psvc p).ip
  let name := [s.hostLabel, localLabel]
  (if x.v4Use = 0 then [] else [recordBytes name 1 (be 4 x.v4Use)]) ++ x.v6Use.map (fun a => recordBytes name 28 (be 16 a))

/-- The answers to one question on port p (R384). -/
def State.answers (s : State) (p : Nat) (q : List (List Byte) × Nat) : List (List Byte) :=
  let host := [s.hostLabel, localLabel]
  let srv := fun (x : List (List Byte) × Nat) =>
    [recordBytes (s.hostLabel :: x.1) 33 (be 2 0 ++ be 2 0 ++ be 2 x.2 ++ dnsBytes host), recordBytes (s.hostLabel :: x.1) 16 [0]]
  if q.1 = host then s.addrRecords p
  else match (s.ownServices p).find? (fun x => x.1 == q.1) with
    | some x => recordBytes x.1 12 (dnsBytes (s.hostLabel :: x.1)) :: srv x ++ s.addrRecords p
    | none => match (s.ownServices p).find? (fun x => s.hostLabel :: x.1 == q.1) with
      | some x => srv x ++ s.addrRecords p
      | none => []

/-- The mDNS group of an IP version. -/
def mdnsGroup (ip : Nat) : Nat := if ip = 4 then 0xE00000FB else 0xFF02 * 2 ^ 112 + 0xFB

/-- Send an mDNS message to its group. -/
def State.sendMdns (s : State) (p ip : Nat) (m : List Byte) : State := s.sendUdp p ip (mdnsGroup ip) 5353 5353 255 m

/-- An mDNS question for a service type. -/
def State.askMdns (s : State) (p : Nat) (labels : List (List Byte)) : State :=
  s.sendMdns p 4 (be 2 0 ++ be 2 0 ++ be 2 1 ++ be 2 0 ++ be 2 0 ++ be 2 0 ++ dnsBytes labels ++ be 2 12 ++ be 2 1)

/-- The labels of a service type text. -/
def typeLabels (t : List Byte) : List (List Byte) :=
  let l := (splitAtByte 46 t).filter (fun x => !x.isEmpty)
  if l.getLast? = some localLabel then l else l ++ [localLabel]

/-- The instances of a service type that a response names: instance label, address, port, and the pri of its TXT record. -/
def instances (m : List Byte) (recs : List DnsRec) (ty : List (List Byte)) : List (List Byte × Nat × Nat × Nat) :=
  (recs.filter (fun r => r.ty == 12 && r.name == ty)).filterMap (fun r =>
    match readName m 40 r.off with
    | none => none
    | some (inst, _) =>
      match recs.find? (fun x => x.ty == 33 && x.name == inst) with
      | none => none
      | some v =>
        let host := ((readName m 40 (v.off + 6)).map Prod.fst).getD []
        let addr := match recs.find? (fun x => (x.ty == 1 || x.ty == 28) && x.name == host) with
          | some a => beAt m a.off a.len
          | none => 0
        let pri := match recs.find? (fun x => x.ty == 16 && x.name == inst) with
          | some t => ((stripPre (ascii "pri=") ((m.drop (t.off + 1)).take (beAt m t.off 1))).bind readDec).getD 0
          | none => 0
        some (inst.headD [], addr, beAt m (v.off + 4) 2, pri))

/-- The registry service type. -/
def registerType : List (List Byte) := [ascii "_nmos-register", ascii "_tcp", localLabel]

/-- Insert by ascending priority. -/
def insertPri (x : Nat × Nat × Nat) : List (Nat × Nat × Nat) → List (Nat × Nat × Nat)
  | [] => [x]
  | y :: t => if y.2 = x.2 then y :: t else if x.1 < y.1 then x :: y :: t else y :: insertPri x t

/-- A response: instances of the types browsed for, registries found, and a conflict over the unit's name (R384, R385). -/
def State.mdnsResponse (s : State) (p : Nat) (m : List Byte) (recs : List DnsRec) : State :=
  let wanted := (s.cmd.waits.filter (fun w => w.kind == 12)).map (fun w => typeLabels w.pay)
  let found := wanted.flatMap (instances m recs)
  let new := found.filter (fun x => !s.svc.browse.any (fun y => y.1 == x.1))
  let regs := if s.svc.nmosMode = 2 then instances m recs registerType else []
  let s : State := { s with svc := { s.svc with
    browse := (s.svc.browse ++ new.map (fun x => (x.1, x.2.1, x.2.2.1))).take 32,
    registries := regs.foldl (fun l x => insertPri (x.2.2.2, x.2.1, x.2.2.1) l) s.svc.registries } }
  let x := (s.psvc p).ip
  let host := [s.hostLabel, localLabel]
  let ours := fun (r : DnsRec) => let a := beAt m r.off r.len; (r.ty == 1 && a == x.v4Use) || (r.ty == 28 && x.v6Use.contains a)
  if recs.any (fun r => (r.ty == 1 || r.ty == 28) && r.name == host && !ours r) then
    let n := max 2 (s.svc.suffix + 1)
    { s with svc := { s.svc with suffix := n } }.svcEvent 0x0C04 [BitVec.ofNat 8 n]
  else s

/-- An mDNS message (R384). -/
def State.mdnsRx (s : State) (p : Nat) (h : Hdrs) (m : List Byte) : State :=
  if !s.servicePort p then s
  else
    let (qs, off) := readQuestions m (beAt m 4 2) 12
    if beAt m 2 2 < 2 ^ 15 then
      let ans := (qs.flatMap (s.answers p)).eraseDups
      if ans.isEmpty || !s.mayDrive then s
      else s.sendMdns p h.ip (be 2 0 ++ be 2 0x8400 ++ be 2 0 ++ be 2 ans.length ++ be 2 0 ++ be 2 0 ++ ans.flatten)
    else s.mdnsResponse p m (readRecords m (beAt m 6 2 + beAt m 8 2 + beAt m 10 2) off)

/-! ## SAP (R383) -/

/-- A SAP packet of a text: announcement or deletion. -/
def sapBytes (ip src : Nat) (del : Bool) (text : List Byte) : List Byte :=
  [BitVec.ofNat 8 (0x20 + (if ip = 6 then 0x10 else 0) + (if del then 4 else 0)), 0] ++ be 2 (crc32c text % 65536) ++
    (if ip = 4 then be 4 src else be 16 src) ++ ascii "application/sdp" ++ [0] ++ text

/-- Send a SAP packet on the ports of the stream's legs. -/
def State.sendSap (s : State) (i : Nat) (del : Bool) (text : List Byte) : State :=
  let g := s.svc.sapGroup
  let ps := (((s.legs 1 i).filter (fun l => s.on (validFld 1 i l))).map (fun l => s.get (portFld 1 i l))).eraseDups
  ps.foldl (fun s p => s.sendUdp p (ipVer g) g 9875 9875 255 (sapBytes (ipVer g) (s.ownAddr p (ipVer g)) del text)) s

/-- SAP_ANNOUNCE (R383): the announcement of transmit stream i falls due. A text that has changed, or a stream disabled since, is deleted first. -/
def execSapAnnounce (i : Nat) (s : State) : Out :=
  let old := s.svc.sapSent.find? (fun x => x.1 == i)
  let on := s.servicesOn && s.svc.sapAnnounce == 1 && s.svc.sapStreams.testBit i && (s.entry 1 i).on && decide (i < 512)
  if on then
    let (t, s) := s.sdpNow 1 i
    let s := match old with
      | some x => if x.2 = t then s else s.sendSap i true x.2
      | none => s
    let s : State := { s with svc := { s.svc with sapSent := s.svc.sapSent.filter (fun x => x.1 != i) ++ [(i, t)] } }
    .next (s.sendSap i false t)
  else match old with
    | some x => .next ({ s with svc := { s.svc with sapSent := s.svc.sapSent.filter (fun y => y.1 != i) } }.sendSap i true x.2)
    | none => .next s

/-- SAP_ENTRY_EXPIRY (R383): entry n has not been repeated for ten of its intervals. -/
def execSapEntryExpiry (n : Nat) (s : State) : Out :=
  .next { s with svc := { s.svc with sap := s.svc.sap.eraseIdx n } }

/-- A SAP packet heard (R383). -/
def State.sapRx (s : State) (b : List Byte) : State :=
  let f := beAt b 0 1
  let n := if f.testBit 4 then 16 else 4
  let origin := beAt b 4 n
  let hash := beAt b 2 2
  let rest := b.drop (4 + n + 4 * beAt b 1 1)
  let text := match stripPre (ascii "application/sdp" ++ [0]) rest with
    | some t => t
    | none => rest
  let same := fun (e : SapEntry) => e.origin == origin && e.hash == hash
  if s.svc.sapListen = 0 ∨ !s.servicesOn ∨ f / 32 ≠ 1 then s
  else if f.testBit 2 then { s with svc := { s.svc with sap := s.svc.sap.filter (fun e => !same e) } }
  else if s.svc.sap.any same then
    let again := fun (e : SapEntry) => if same e then { e with interval := s.cycles - e.heard, heard := s.cycles, sdp := text } else e
    { s with svc := { s.svc with sap := s.svc.sap.map again } }
  else if 256 ≤ s.svc.sap.length then s
  else
    let e : SapEntry := ⟨origin, hash, s.cycles, 300 * 1000000 * cyclesPerUs, text⟩
    { s with svc := { s.svc with sap := s.svc.sap ++ [e] } }.svcEvent 0x0C03 (le 2 s.svc.sap.length ++ le 2 hash)

/-! ## Control frames -/

/-- An ARP message (R378): an answer that claims the address being probed, a request for the address in use, and the cache. -/
def State.arpRx (s : State) (p : Nat) (b : List Byte) (l3 : Nat) : State :=
  let op := beAt b (l3 + 6) 2
  let sha := beAt b (l3 + 8) 6
  let spa := beAt b (l3 + 14) 4
  let tpa := beAt b (l3 + 24) 4
  let x := s.psvc p
  let s := if op = 2 ∧ spa ≠ 0 ∧ spa = x.ip.cand then
      (s.setPsvc p { x with ip := { x.ip with cand := 0, probes := 0 } }).ipEvent 0x0411 p 4 0 spa
    else s
  let s := if spa = 0 then s else s.learn p spa sha
  if op = 1 ∧ tpa ≠ 0 ∧ tpa = (s.psvc p).ip.v4Use ∧ s.mayDrive then
    s.sendService p (arpFrame sha (s.streamMac p) 2 tpa sha spa)
  else s

/-- An ICMPv6 message (R378, R379): solicitations, advertisements, prefixes and MLD queries. -/
def State.icmp6Rx (s : State) (p : Nat) (h : Hdrs) (b : List Byte) : State :=
  let o := if h.proto = 0 then h.l4 + 8 * (beAt b (h.l4 + 1) 1 + 1) else h.l4
  let m := b.drop o
  let len := h.l4len - (o - h.l4)
  let ty := beAt m 0 1
  let a := beAt m 8 16
  let x := s.psvc p
  if ty = 135 then
    if x.ip.v6Cand.contains a ∧ h.ipSrc = 0 then
      (s.dropV6 p a).ipEvent 0x0411 p 6 0 a
    else if x.ip.v6Use.contains a ∧ s.mayDrive then
      if h.ipSrc = 0 then s.sendNa p a allNodes (groupMac 6 allNodes) false
      else (s.learn p h.ipSrc h.src).sendNa p a h.ipSrc h.src true
    else s
  else if ty = 136 then
    if x.ip.v6Cand.contains a then (s.dropV6 p a).ipEvent 0x0411 p 6 0 a
    else s.learn p a h.src
  else if ty = 134 then
    let pre := beAt m 32 16
    if beAt m 16 1 = 3 ∧ beAt m 18 1 = 64 ∧ (beAt m 19 1).testBit 6 ∧ x.cfg.v6En = 1 ∧ x.cfg.v6Slaac = 1 then
      s.tryV6 p (pre / 2 ^ 64 * 2 ^ 64 + s.linkLocal p % 2 ^ 64)
    else s
  else if ty = 130 then
    let s := if len < 28 then s.setPsvc p { x with mld := 1 } else s
    (firstOfEach (x.groups.filter (fun g => g.ip == 6 && (a == 0 || g.addr == a)))).foldl (fun s g => s.sendReport p g false) s
  else s

/-- An IGMP query (R379): an older one makes the port fall back; the groups asked for are reported. -/
def State.igmpRx (s : State) (p : Nat) (h : Hdrs) (b : List Byte) : State :=
  let m := b.drop h.l4
  let a := beAt m 4 4
  let x := s.psvc p
  if beAt m 0 1 = 0x11 then
    let s := if h.l4len < 12 then s.setPsvc p { x with igmp := 2 } else s
    (firstOfEach (x.groups.filter (fun g => g.ip == 4 && (a == 0 || g.addr == a)))).foldl (fun s g => s.sendReport p g false) s
  else s

/-- A DHCP answer (R378): an offer is taken, an acknowledgement gives or renews the lease, a refusal ends it. -/
def State.dhcpRx (s : State) (p : Nat) (m : List Byte) : State :=
  let x := s.psvc p
  let opts := m.drop 240
  let n := opts.length
  let ty := (dhcpOpt 53 n opts).getD 0
  let y := beAt m 16 4
  if x.cfg.v4Mode < 2 ∨ beAt m 0 1 ≠ 2 ∨ beAt m 4 4 ≠ s.stationMac p % 2 ^ 32 then s
  else if ty = 2 then s.sendDhcp p 3 y ((dhcpOpt 54 n opts).getD 0)
  else if ty = 5 then
    let t := (dhcpOpt 51 n opts).getD 0
    let s := s.setPsvc p { x with ip := { x.ip with leaseLeft := t, leaseTotal := t } }
    if x.ip.v4Use = y then s else s.tryV4 p y
  else if ty = 6 then
    let s := s.setPsvc p { x with ip := { x.ip with leaseLeft := 0, leaseTotal := 0 } }
    (s.useV4 p 0).sendDhcp p 1 0 0
  else s

/-- ENGINE_FRAME_RX (R378, R379, R383, R384): the control frame at the head of the engine receive queue of port p is handled. PTP, NMOS and Suosh
frames have rows of their own. -/
def execEngineFrameRx (p : Nat) (s : State) : Out :=
  if 3 < p then .next s
  else match (s.queue (3 + p)).ready with
    | ⟨.head it, _⟩ :: _ =>
      let b := it.body
      let h := headers b
      let c := s.protoClass p h
      if c = 5 ∨ c = 8 ∨ c = 9 then .next s
      else
        let s := (s.takeItem (3 + p)).2
        if c = 0 then .next (s.arpRx p b h.l3)
        else if c = 2 then .next (s.icmp6Rx p h b)
        else if c = 3 then .next (s.igmpRx p h b)
        else if c = 4 then .next (s.dhcpRx p (udpPayload b h))
        else if c = 6 then .next (s.mdnsRx p h (udpPayload b h))
        else if c = 7 then .next (s.sapRx (udpPayload b h))
        else .next s
    | _ => .next (s.takeItem (3 + p)).2

/-! ## NMOS (R385, R386) -/

/-- The registration state changes (R385). -/
def State.regTo (s : State) (n : Nat) : State :=
  let old := s.svc.regState
  if old = n then s
  else { s with svc := { s.svc with regState := n } }.svcEvent 0x0C01 [BitVec.ofNat 8 old, BitVec.ofNat 8 n]

/-- What a resource's version describes: the fields of its entry. -/
def State.snapOf (s : State) (dir i : Nat) : List Nat :=
  (if (s.entry dir i).on then 1 else 0) :: ((entryFlds dir i).map (fun f => s.get f.fld) ++
    (entryAddrs dir i).flatMap (fun a => (List.range 4).map (fun k => s.get (a.2 k))))

/-- Versions of the exposed resources follow the entries (R385). -/
def State.refreshVersions (s : State) : State :=
  let up := fun (e : Expose) =>
    let n := s.snapOf e.dir e.stream
    if e.snap = n then e else { e with version := e.version + 1, snap := n }
  { s with svc := { s.svc with exposed := s.svc.exposed.map up } }

/-- NMOS_HTTP_REQUEST (R385): a request on port p with a body of `len` bytes, on a connection it opens or one already open, and that closes after it or
not; `res` names what is asked for. A connection beyond eight is refused. -/
def execNmosHttpRequest (p len : Nat) (opens closes : Bool) (res : NmosRes) (conn : HttpConn) (s : State) : Out :=
  let x := s.psvc p
  if 3 < p ∨ s.svc.nmosMode = 0 ∨ !s.servicesOn ∨ !s.mayDrive then .next s
  else if opens ∧ 8 ≤ x.http then .next s
  else
    let n := x.http + (if opens then 1 else 0)
    let s := (s.setPsvc p { x with http := if closes then n - 1 else n }).refreshVersions
    if 16384 < len then .next (s.httpAnswer p 413 [] conn)
    else
      let s := match res with
        | .patch dir i q e =>
          let on := fun (y : Expose) => if y.dir = dir ∧ y.stream = i ∧ y.expose = 1 then y.patch q e else y
          { s with svc := { s.svc with exposed := s.svc.exposed.map on } }
        | _ => s
      match s.nmosBody res with
      | some b => .next (s.httpAnswer p 200 b conn)
      | none => .next (s.httpAnswer p 404 [] conn)

/-- The node registers anew, with the next registry found if there is one. -/
def State.registerAnew (s : State) : State :=
  let l := s.svc.registries
  { s with svc := { s.svc with missed := 0, registries := l.drop 1 ++ l.take 1 } }.regTo 2

/-- The requests the node sends its registry. -/
def State.postAll (s : State) (l : List (List Byte)) : State := { s with svc := { s.svc with posted := l } }

/-- NMOS_HEARTBEAT (R385): a registration or a heartbeat falls due; `answer` is the registry's HTTP status, 0 for none. -/
def execNmosHeartbeat (answer : Nat) (s : State) : Out :=
  let s := s.refreshVersions
  if s.svc.nmosMode < 2 ∨ !s.servicesOn ∨ !s.mayDrive then .next s
  else
  let s := s.postAll (if s.svc.regState = 3 then [s.heartbeat] else s.registration)
  if s.svc.regState = 3 then
    if answer = 404 then .next s.registerAnew
    else if answer = 0 then
      let s : State := { s with svc := { s.svc with missed := s.svc.missed + 1 } }
      .next (if 3 ≤ s.svc.missed then s.registerAnew else s)
    else .next { s with svc := { s.svc with missed := 0 } }
  else if 200 ≤ answer ∧ answer < 300 then .next ({ s with svc := { s.svc with missed := 0 } }.regTo 3)
  else .next ((if s.svc.nmosMode = 2 ∧ s.svc.registries.isEmpty then s.askMdns 0 registerType else s).registerAnew)

/-- IS05_ACTIVATION (R386): the staged parameters of a sender or receiver are made active as one ATOMIC request on channel 48: `p` the leg fields as
parameters of STREAM_RX_SET or STREAM_TX_SET, `file` a transport file (receivers) with the ports of its legs, `enable` the master_enable; each over what a
PATCH has staged. `due` is the master time, in 2^−32 ns, of a scheduled activation: it starts at the first CORE cycle at or after it, so that before it nothing
happens. -/
def execIs05Activation (port dir i : Nat) (p : List Tlv) (file : List Byte) (ports : Nat) (enable : Option Bool) (due : Option Nat) (conn : HttpConn)
    (s : State) : Out :=
  if 1 < dir ∨ 511 < i ∨ 3 < port ∨ !s.servicesOn ∨ !s.mayDrive ∨ s.svc.nmosMode = 0 ∨ due.any (fun t => decide (s.ctr < t)) then .next s
  else
    let same := fun (e : Expose) => e.dir == dir && e.stream == i
    let was := s.svc.exposed.find? same
    let p := p ++ ((was.map Expose.staged).getD []).filter (fun t => !p.any (fun q => q.ty == t.ty))
    let enable := if enable.isSome then enable else was.bind Expose.enable
    let old := s.sdpBefore dir i
    let (st1, s) := if file.isEmpty || dir == 1 then (0, s) else let (e, _, s) := s.sdpApply i ports file; (e, s)
    let legs := ⟨1, 2, i⟩ :: p.filter (fun t => decide (20 ≤ t.ty))
    let (rep, s) := match checkParams (entrySchema dir) legs with
      | some e => (e, s)
      | none => streamSetBody dir legs s
    let st2 := if st1 ≠ 0 then st1 else rep.status
    let (st, s) := match enable with
      | some b => if st2 = 0 then let (e, _, s) := s.enableStream dir i b; (e, s) else (st2, s)
      | none => (st2, s)
    if st = 0 then
      let done := fun (e : Expose) => if same e then { e with staged := [], enable := none } else e
      let s : State := { s with svc := { s.svc with exposed := s.svc.exposed.map done } }
      .next ((s.svcEvent 0x0C02 ([BitVec.ofNat 8 (1 - dir), 0] ++ le 2 i ++ le 2 0)).httpAnswer port 200 (s.nmosParams dir i none) conn)
    else .next ((s.sdpRestore dir i old).httpAnswer port (if st = Status.badParam then 400 else 500) [] conn)

/-! ## Commands (R387) -/

/-- The groups that the services join on a port come and go (R379): mDNS, and SAP while LISTEN is 1. -/
def State.svcGroups (s : State) (p : Nat) (join : Bool) : State :=
  if join && !s.servicesOn then s else
  let s := if join then s.joinGroup p 4 (mdnsGroup 4) 2 1 [] else s.leaveGroup p 4 (mdnsGroup 4) 2
  let six := (s.psvc p).cfg.v6En == 1
  let s := if six then (if join then s.joinGroup p 6 (mdnsGroup 6) 2 1 [] else s.leaveGroup p 6 (mdnsGroup 6) 2) else s
  let g := s.svc.sapGroup
  if s.svc.sapListen = 1 ∧ g ≠ 0 then
    (if join then s.joinGroup p (ipVer g) g 2 1 [] else s.leaveGroup p (ipVer g) g 2)
  else s

def State.onServicePorts (s : State) (f : State → Nat → State) : State :=
  ((List.range 4).filter (fun p => s.svc.servicePorts.testBit p)).foldl f s

/-- NODE_SET: HOSTNAME; LABEL; DESCRIPTION; SERVICE_PORTS; NMOS_MODE; REGISTRY address; REGISTRY port; NMOS_PORT; SUOSH_PORT. -/
def nodeSetParams : List PSpec :=
  [pflag 1, pflag 2, pflag 3, popt 4 1 0 15, popt 5 1 0 3, pip 6, popt 7 2 0 0xFFFF, popt 8 2 0 0xFFFF, popt 9 2 0 0xFFFF]

/-- NODE_SET (R387). -/
def execNodeSet (r : Req) (p : List Tlv) (s : State) : Out :=
  match s.refuses r 0x0C01 nodeSetParams (hideText [1, 2, 3] p) with
  | some e => .next (s.finish r 0x0C01 e)
  | none =>
    let h := textOf p 1
    if Params.has p 1 ∧ (h.isEmpty ∨ 63 < h.length) then .next (s.finish r 0x0C01 (Reply.errAt Status.badParam p 1))
    else
      let keep := fun (ty : Nat) (old : List Byte) => if Params.has p ty then textOf p ty else old
      let get := fun (ty old : Nat) => (Params.val? p ty).getD old
      let s := s.onServicePorts (fun s n => s.svcGroups n false)
      let v := s.svc
      let reg := ((p.find? (fun t => t.ty == 6)).map (fun t => (tlvAddr t).2)).getD v.registry
      let v := { v with hostname := keep 1 v.hostname, label := keep 2 v.label, description := keep 3 v.description, suffix := 0 }
      let v := { v with servicePorts := get 4 v.servicePorts, nmosMode := get 5 v.nmosMode, registry := reg,
                        registryPort := get 7 v.registryPort }
      let s : State := { s with svc := v }
      let wr := fun (f : Nat → Fld) (ty : Nat) (s : State) => match Params.val? p ty with
        | some x => (List.range 4).foldl (fun s n => s.set (f n) x) s
        | none => s
      let s := wr PORT.SUOSH_PORT 9 (wr PORT.NMOS_PORT 8 s)
      let s := s.onServicePorts (fun s n => s.svcGroups n true)
      let s := if Params.has p 5 then s.regTo (if v.nmosMode = 0 then 0 else if v.nmosMode = 1 then 1 else 2) else s
      .next (s.finish r 0x0C01 (Reply.ok []))

/-- SAP_SET: Transmit stream bitmap; ANNOUNCE; SAP_GROUP; SAP_INTERVAL; LISTEN. -/
def execSapSet (r : Req) (p : List Tlv) (s : State) : Out :=
  runCmd 0x0C04 [popt 1 64 0 (2 ^ 512 - 1), popt 2 1 0 1, pip 3, popt 4 2 1 300, popt 5 1 0 1] (fun q s =>
    let get := fun (ty old : Nat) => (Params.val? q ty).getD old
    let s := s.onServicePorts (fun s n => s.svcGroups n false)
    let v := s.svc
    let g := ((q.find? (fun t => t.ty == 3)).map (fun t => (tlvAddr t).2)).getD v.sapGroup
    let v := { v with sapStreams := get 1 v.sapStreams, sapAnnounce := get 2 v.sapAnnounce, sapGroup := g, sapInterval := get 4 v.sapInterval }
    let s : State := { s with svc := { v with sapListen := get 5 v.sapListen } }
    (Reply.ok [], s.onServicePorts (fun s n => s.svcGroups n true))) r p s

/-- SAP_LIST_GET: First; count. -/
def execSapListGet (r : Req) (p : List Tlv) (s : State) : Out :=
  runCmd 0x0C05 [preq 1 1 0 255, preq 2 1 1 32] (getBody (fun q s =>
    ((s.svc.sap.drop (Params.val q 1)).take (Params.val q 2)).flatMap (fun e =>
      addr16 e.origin ++ le 2 e.hash ++ le 2 0 ++ le 4 ((s.cycles - e.heard) / (1000000 * cyclesPerUs)) ++ le 2 e.sdp.length))) r p s

/-- SAP_SDP_GET: Entry. -/
def execSapSdpGet (r : Req) (p : List Tlv) (s : State) : Out :=
  runCmd 0x0C06 [preq 1 1 0 255] (fun q s =>
    match s.svc.sap[Params.val q 1]? with
    | some e => (Reply.ok e.sdp, s)
    | none => (Reply.errAt Status.badParam q 1, s)) r p s

/-- BROWSE_GET: Service type text. The question leaves on every service port; the reply waits for 1 s, and the type stands in the wait. -/
def execBrowseGet (r : Req) (p : List Tlv) (s : State) : Out :=
  match s.refuses r 0x0C07 [{ pflag 1 with req := true }] (hideText [1] p) with
  | some e => .next (s.finish r 0x0C07 e)
  | none =>
    let t := textOf p 1
    let s : State := { s with svc := { s.svc with browse := [] } }
    let s := if s.servicesOn then s.onServicePorts (fun s n => s.askMdns n (typeLabels t)) else s
    .next (s.addWait ⟨r, 0x0C07, 12, 1, [0], [0], [0], [0], [], 0, t⟩)

/-- The payload of BROWSE_GET: name length and name, address, port. -/
def State.browsePayload (s : State) : List Byte :=
  s.svc.browse.flatMap (fun x => le 1 x.1.length ++ x.1 ++ addr16 x.2.1 ++ le 2 x.2.2)

/-- NMOS_STATUS_GET. -/
def execNmosStatusGet (r : Req) (p : List Tlv) (s : State) : Out :=
  runCmd 0x0C08 [] (getBody (fun _ s =>
    let v := s.svc
    let reg := if v.nmosMode = 3 then (v.registry, v.registryPort) else ((v.registries.head?).map Prod.snd).getD (0, 0)
    le 1 v.nmosMode ++ le 1 v.regState ++ addr16 reg.1 ++ le 2 reg.2 ++ le 2 v.missed)) r p s

/-- NMOS_EXPOSE_SET: Direction; stream; EXPOSE; LABEL. -/
def execNmosExposeSet (r : Req) (p : List Tlv) (s : State) : Out :=
  match s.refuses r 0x0C09 [preq 1 1 0 1, preq 2 2 0 511, popt 3 1 0 1, pflag 4] (hideText [4] p) with
  | some e => .next (s.finish r 0x0C09 e)
  | none =>
    let (dir, i) := (Params.val p 1, Params.val p 2)
    let same := fun (e : Expose) => e.dir == dir && e.stream == i
    let old := (s.svc.exposed.find? same).getD ⟨dir, i, 0, [], 0, s.snapOf dir i, [], none⟩
    let e := { old with expose := (Params.val? p 3).getD old.expose, label := if Params.has p 4 then textOf p 4 else old.label,
                        version := old.version + 1 }
    let s : State := { s with svc := { s.svc with exposed := s.svc.exposed.filter (fun x => !same x) ++ [e] } }
    .next (s.finish r 0x0C09 (Reply.ok []))

end Sys2Proof.Machine
end

