-- ==== Sys2Proof/Machine/Orb.lean ====
section
/-! DEFINITION. Orbit links, time over them, joining, and commands and events across a cluster (chapter 13, R422 to R441, R459 to R462). The payloads
of CONTROL, TIME, COMMAND and EVENT frames are laid out by the model (DESIGN CHOICE, assumption 32): the spec gives their content only. -/

namespace Sys2Proof.Machine

/-! ## Links -/

/-- The role a unit shows in HELLO (R461): 1 standalone primary, 2 primary driving outputs, 3 primary not driving, 4 moon. -/
def State.helloRole (s : State) : Nat :=
  if s.isMoon then 4 else if !s.on PAIR.CTRL_PAIR_EN then 1 else if s.mayDrive then 2 else 3

/-- A CONTROL frame: kind 0 HELLO, 1 ASSIGN, 2 START, 3 none of these. -/
def State.sendControl (s : State) (n kind : Nat) (body : List Byte) : State := s.orbSend n 8 0 0 (BitVec.ofNat 8 kind :: body)

def State.sendHello (s : State) (n : Nat) : State :=
  s.sendControl n 0 (be 8 s.life.ident.eui ++ [BitVec.ofNat 8 s.helloRole, BitVec.ofNat 8 s.ownIndex])

/-- A valid frame came on link n. -/
def State.orbHeard (s : State) (n : Nat) : State :=
  (s.setLink n { s.link n with lastRx := s.cycles }).count (ORB.LINK_FRAMES_RX n)

/-- Moon d was heard from (R462). -/
def State.moonSeen (s : State) (d : Nat) : State := if 1 ≤ d ∧ d ≤ 15 then s.set (ORB.MOON_LAST_SEEN d) s.shortTime else s

/-- An uplink of a moon is recorded and UP. -/
def State.uplinkUp (s : State) (side : Nat) : Bool :=
  if side = 0 then s.linkState (s.get ORB.STATUS_UPA) == 3
  else s.on ORB.STATUS_UPB_VALID && s.linkState (s.get ORB.STATUS_UPB) == 3

/-- The link of the uplink in use (R433). -/
def State.uplink (s : State) : Nat := if s.on ORB.STATUS_TIME_UP then s.get ORB.STATUS_UPB else s.get ORB.STATUS_UPA

/-- A moon that holds an index has its uplink in use UP: its event records go to the primary (R441). -/
def State.upward (s : State) : Bool := s.isMoon && s.get ORB.STATUS_JOIN_STATE != 0 && s.linkState s.uplink == 3

/-- Such a moon sends an event record upstream in an EVENT frame. -/
def State.sendUp (s : State) (r : List Byte) : State := if s.upward then s.orbSend s.uplink 4 0 0 r else s

/-- Valid frames came on link n, k of them. -/
def State.orbHeardAll (s : State) (n k : Nat) : State := (s.orbHeard n).countBy (ORB.LINK_FRAMES_RX n) (k - 1)

/-- The uplink in use of a moon becomes that of a side; HOPS are those of its path (R433). -/
def State.timeSide (s : State) (side : Nat) : State :=
  (s.set ORB.STATUS_TIME_UP side).set ORB.STATUS_HOPS (if side = 0 then s.orb.hops.1 else s.orb.hops.2)

/-- A moon's uplink in use is lost: it takes the other while that is UP (R435). -/
def State.timeUpCheck (s : State) : State :=
  if !s.isMoon then s
  else
    let side := s.get ORB.STATUS_TIME_UP
    if !s.uplinkUp side && s.uplinkUp (1 - side) then s.timeSide (1 - side) else s

/-- A TIME frame came on link n, whose path leads to a primary that may drive outputs or not. A moon whose other uplink it is takes that one (R433). -/
def State.pathDrives (s : State) (n : Nat) (drives : Bool) : State :=
  let s := s.setLink n { s.link n with drives := drives }
  let other := 1 - s.get ORB.STATUS_TIME_UP
  let link := if other = 0 then s.get ORB.STATUS_UPA else s.get ORB.STATUS_UPB
  if s.isMoon ∧ drives ∧ s.on ORB.STATUS_UPB_VALID ∧ link = n ∧ n ≠ s.uplink ∧ s.uplinkUp other then (s.timeSide other).ref7Check else s

/-- What a unit says of its path in the TIME frames it sends on link n: a primary, whether it may drive outputs; a moon, what another of its uplinks says. -/
def State.saysDrives (s : State) (n : Nat) : Bool :=
  if s.isMoon then ([s.get ORB.STATUS_UPA] ++ (if s.on ORB.STATUS_UPB_VALID then [s.get ORB.STATUS_UPB] else [])).any (fun m =>
    m != n && s.linkState m == 3 && (s.link m).drives)
  else s.mayDrive

/-- Link n goes to DOWN or DISABLED: what it held of the frames in flight ends. Where its clock was reference 7, that is lost (R93, R435). -/
def State.linkStop (s : State) (n st : Nat) : State :=
  let x := s.link n
  let s := s.setLink n { x with txTime := none, rxTime := none, offset := none, drives := false }
  (s.set (ORB.LINK_LINK_STATE n) st).timeUpCheck.ref7Check

/-- The mirror link's state shows in PAIR.STATUS (R463). -/
def State.mirrorCheck (s : State) : State :=
  s.setOn PAIR.STATUS_MIRROR_UP (s.on PAIR.CTRL_PAIR_EN && s.linkState 3 == 3)

/-- EN of link n takes a value (R425). -/
def State.linkEnable (s : State) (n : Nat) (on : Bool) : State :=
  let s := s.setOn (ORB.LINK_EN n) on
  if on then (if s.linkState n = 0 then s.set (ORB.LINK_LINK_STATE n) 1 else s)
  else if s.linkState n = 0 then s
  else
    let up := s.linkState n == 3
    let s := ((s.linkStop n 0).set (ORB.LINK_BLOCK_LOCK n) 0).mirrorCheck
    if up then s.signal ORB.INT ORB.INT_EN ORB.INT_LINK_DOWN 0x0905 14 n [2] else s

/-- EN of link n may be set: not in RETIRED, nor during a commanded run on it (R480, R503). -/
def State.linkMayStart (s : State) (n : Nat) : Bool := s.lifecycle != 5 && !s.underRun 6 n

/-- ORB_LINK_EN_WRITE (R425): a host write of LINKn_CTRL. -/
def hostOrbLinkEnWrite (source n : Nat) (v : Word) (s : State) : Out :=
  if n ≤ 3 then
    let on := v.toNat.testBit 31
    if on && !s.on (ORB.LINK_EN n) && !s.linkMayStart n then .next (s.cfgReject source (0x1C0100 + 0x80 * n))
    else .next (s.linkEnable n on)
  else .next s

/-- The link that FWDq of link n forwards to: none where the group is local (R429, R461), and where another link's forward stands in the way of this one.
Forwarding out of the link itself is no forwarding. -/
def State.fwdTo (s : State) (n q : Nat) : Option Nat :=
  let v := s.eff (ORB.LINK_FWD n q)
  if s.orb.blocked.contains (n, q) && s.get (ORB.LINK_FWD n q) == v then none
  else if 1 ≤ v ∧ v ≤ 4 ∧ v ≠ n + 1 then some (v - 1) else none

/-- The target a FWD value names, as written. -/
def fwdTarget (n v : Nat) : Option Nat := if 1 ≤ v ∧ v ≤ 4 ∧ v ≠ n + 1 then some (v - 1) else none

/-- Forwards that stay refused: those that still name the link another link forwards the same group to. -/
def State.fwdBlocked (s : State) (l : List (Nat × Nat)) : List (Nat × Nat) :=
  l.filter (fun b => match fwdTarget b.1 (s.get (ORB.LINK_FWD b.1 b.2)) with
    | some t => (List.range 4).any (fun m => m != b.1 && !l.contains (m, b.2) && fwdTarget m (s.get (ORB.LINK_FWD m b.2)) == some t)
    | none => false)

/-- FWD of link n is written: a group already forwarded to the same link by another one is refused and flagged (R429). -/
def State.fwdWrite (s : State) (n v : Nat) : State :=
  let s := (List.range 8).foldl (fun s q => s.setB (ORB.LINK_FWD n q) .pass (v / 16 ^ q % 8)) s
  let kept := s.orb.blocked.filter (fun b => b.1 != n)
  let new := (List.range 8).filterMap (fun q => match fwdTarget n (s.get (ORB.LINK_FWD n q)) with
    | some t => if (List.range 4).any (fun m => m != n && !kept.contains (m, q) && fwdTarget m (s.get (ORB.LINK_FWD m q)) == some t)
        then some (n, q) else none
    | none => none)
  let l := s.fwdBlocked (kept ++ new)
  let s : State := { s with orb := { s.orb with blocked := l } }
  (List.range 4).foldl (fun s m => s.setOn (ORB.LINK_FWD_ERR m) (l.any (fun b => b.1 == m))) s

/-- FWD_WRITE (R429): a host write of LINKn_FWD. -/
def hostFwdWrite (n : Nat) (v : Word) (s : State) : Out := .next (if n ≤ 3 then s.fwdWrite n v.toNat else s)

/-- ORB_BLOCK_LOCK (R425): block lock is gained in DOWN. -/
def execOrbBlockLock (n : Nat) (s : State) : Out :=
  if n ≤ 3 ∧ s.linkState n = 1 ∧ !s.boot.down.contains (3, 5 + n) then .next (((s.set (ORB.LINK_LINK_STATE n) 2).set (ORB.LINK_BLOCK_LOCK n) 1).sendHello n)
  else .next s

/-! ## Joining (R436, R437) -/

/-- EUI-64 of a moon table entry. -/
def State.moonEui (s : State) (d : Nat) : Nat := s.get (ORB.MOON_EUI_HI d) * 2 ^ 32 + s.eff (ORB.MOON_EUI_LO d)

def State.setMoonEui (s : State) (d eui : Nat) : State := ((s.set (ORB.MOON_EUI_LO d) eui).set (ORB.MOON_EUI_HI d) (eui / 2 ^ 32)).joinLo (ORB.MOON_EUI_LO d) .live

/-- STATE of a table entry, with its bits of PRESENT and JOINED; a rise of JOINED raises event 0x0901. -/
def State.moonTo (s : State) (d st : Nat) : State :=
  let was := s.bit ORB.JOINED d
  let s := ((s.set (ORB.MOON_STATE d) st).setBit ORB.PRESENT d (st != 0)).setBit ORB.JOINED d (st == 4)
  if st = 4 ∧ !was then s.signal ORB.INT ORB.INT_EN ORB.INT_MOON_JOINED 0x0901 14 d (be 8 (s.moonEui d)) else s

/-- Event 0x0903: a moon is refused. -/
def State.moonUnknown (s : State) (n cause eui : Nat) : State :=
  s.signal ORB.INT ORB.INT_EN ORB.INT_MOON_UNKNOWN 0x0903 14 n (BitVec.ofNat 8 cause :: be 7 (eui % 2 ^ 56))

/-- A word of the table that changed by itself goes to the peer of a driving member (R436). -/
def State.mirrorWord (s : State) (off : Nat) : State := s.mirror 0 (le 4 off ++ le 4 (s.word ORB.fields off))

/-- The primary answers the HELLO of a moon that came by link n and lies `hops` away: ASSIGN, or refusal (R432, R436). -/
def State.moonAssign (s : State) (n eui hops : Nat) : State :=
  let entries := (List.range 15).map (fun k => k + 1)
  if 5 < hops then s.moonUnknown n 2 eui
  else
    let known := entries.find? (fun d => s.on (ORB.MOON_EN d) && s.moonEui d == eui)
    let free := entries.find? (fun d => !s.on (ORB.MOON_EN d))
    let give := fun (s : State) (d : Nat) =>
      let s := ((s.set (ORB.MOON_LINK d) n).set (ORB.MOON_HOPS d) hops).moonSeen d
      let st := s.get (ORB.MOON_STATE d)
      let s := if st = 0 then s.moonTo d 1 else if st = 5 then s.moonTo d 4 else s
      s.sendControl n 1 [BitVec.ofNat 8 d, BitVec.ofNat 8 hops]
    match known, s.on ORB.CTRL_AUTO_INDEX, free with
    | some d, _, _ => give s d
    | none, true, some d =>
      let s := (s.setMoonEui d eui).set (ORB.MOON_EN d) 1
      give ([0, 4, 8].foldl (fun (t : State) k => t.mirrorWord (0x1C0800 + 0x10 * d + k)) s) d
    | none, true, none => s.moonUnknown n 1 eui
    | none, false, _ => s.moonUnknown n 0 eui

/-- ORB_LINK_UP (R425, R436): lock has held for 1 ms and a valid HELLO came, with the peer's EUI-64, role, cluster index and hops to
this unit. -/
def execOrbLinkUp (n eui role index hops : Nat) (s : State) : Out :=
  if n ≤ 3 ∧ s.linkState n = 2 then
    let s := (s.orbHeard n).set (ORB.LINK_LINK_STATE n) 3
    let s := ((s.set (ORB.LINK_PEER_EUI_LO n) eui).set (ORB.LINK_PEER_EUI_HI n) (eui / 2 ^ 32)).set (ORB.LINK_PEER_ROLE n) role
    let s := (s.set (ORB.LINK_PEER_INDEX n) index).mirrorCheck
    let s := s.signal ORB.INT ORB.INT_EN ORB.INT_LINK_UP 0x0904 14 n [BitVec.ofNat 8 role, BitVec.ofNat 8 index]
    .next (if role = 4 ∧ !s.isMoon ∧ !(n == 3 && s.on PAIR.CTRL_PAIR_EN) then s.moonAssign n eui hops else s.timeUpCheck)
  else .next s

/-- A link leaves UP or LOCKING for DOWN (R425): cause 0 block lock lost, 1 no valid frame for 20 µs. -/
def State.orbDown (s : State) (n cause : Nat) : State :=
  let up := s.linkState n == 3
  let s := ((s.linkStop n 1).count (ORB.LINK_LINK_DOWN n)).mirrorCheck
  let s := if cause = 0 then s.set (ORB.LINK_BLOCK_LOCK n) 0 else s
  if up then s.signal ORB.INT ORB.INT_EN ORB.INT_LINK_DOWN 0x0905 14 n [BitVec.ofNat 8 cause] else s

/-- ORB_IDLE_FRAME (R425): a link with nothing else to send sends HELLO while LOCKING, a CONTROL frame while UP. -/
def execOrbIdleFrame (n : Nat) (s : State) : Out :=
  if 3 < n then .next s
  else if s.linkState n = 2 then .next (s.sendHello n)
  else if s.linkState n = 3 then .next (s.sendControl n 3 [])
  else .next s

/-! ## Samples (R429 to R431) -/

/-- The 64-bit base period nearest `now` whose low 32 bits are `tag` (R426). -/
def nearPeriod (now tag : Nat) : Nat :=
  let b := now / 2 ^ 32 * 2 ^ 32 + tag % 2 ^ 32
  if now + 2 ^ 31 < b then b - 2 ^ 32 else if b + 2 ^ 31 ≤ now then b + 2 ^ 32 else b

/-- ORB_SAMPLE_RX (R429, R431, R246 check point 4): a SAMPLE frame of group q with TAG, 64 values and their seal. -/
def execOrbSampleRx (n q tag : Nat) (vals : List Int) (sealw : Nat) (s : State) : Out :=
  if 3 < n ∨ 7 < q ∨ s.linkState n ≠ 3 then .next s
  else
    let s := s.orbHeard n
    match s.fwdTo n q with
    | some t => .next (if s.linkState t = 3 then s.orbSend t 1 q tag (orbBytes vals ++ le 4 sealw) else s)
    | none =>
      let p := nearPeriod s.media tag
      let (bad, _, s) := s.checkSeal 4 n false (sealw != blockSeal 4 q p vals)
      if bad then .next s
      else
        let l := if s.isMoon ∧ s.on ORB.STATUS_UPB_VALID ∧ n = s.get ORB.STATUS_UPB then s.get ORB.STATUS_UPA else n
        if s.orb.slots.any (fun x => x.link == l && x.group == q && x.period == p) then .next (s.count (ORB.LINK_BLK_DUP n))
        else if (s.anvil.ran.map (fun r => decide (p + 1 ≤ r))).getD false then .next (s.count (ORB.LINK_BLK_LATE n))
        else
          let y : OrbSlot := ⟨l, q, p, vals⟩
          .next { s with orb := { s.orb with slots := s.orb.slots ++ [y] } }

/-! ## Time over orbit links (R433 to R435) -/

/-- ORB_TIME_TX (R433): an UP link sends a TIME frame; `raw` is the departure of its first byte at the ball, in 2^−16 ns. -/
def execOrbTimeTx (n : Nat) (raw : Int) (s : State) : Out :=
  if n ≤ 3 ∧ s.linkState n = 3 then
    let x := s.link n
    let pay := leI 8 raw ++ leI 8 ((x.rxTime.map Prod.snd).getD 0) ++ [if s.saysDrives n then 1 else 0]
    .next ((s.setLink n { x with txTime := some raw }).orbSend n 2 0 0 pay)
  else .next s

/-- |offset| ≤ 100 ns, in 2^−17 ns. -/
def near100 (o : Int) : Bool := within o 100

/-- A moon (or a standby, from ORB3) takes an offset of its upstream link (R434): the first loads the counter while MEDIA_VALID is 0; 16 TIME frames in a
row within 100 ns while DPLL0 is on reference 7 set MEDIA_VALID. -/
def State.takeOffset (s : State) (o : Int) : State :=
  let s := s.seti ORB.OFFSET (o * 1000 / ns17)
  let onRef := s.on (CLK.DPLL_SEL_VALID 0) && s.get (CLK.DPLL_SEL_REF 0) == 7
  if s.on TIME.STATUS_MEDIA_VALID then s
  else if !s.orb.loaded then { s with orb := { s.orb with loaded := true, timeRun := 0 } }.stepCtr (-(o * 2 ^ 15))
  else
    let n := if near100 o && onRef then s.orb.timeRun + 1 else 0
    let s : State := { s with orb := { s.orb with timeRun := n } }
    if 16 ≤ n then s.mediaValid else s

/-- A moon's MEDIA_VALID is 1 in TIME_ACQ: it is JOINED (R437). -/
def State.joinCheck (s : State) : State :=
  if s.isMoon ∧ s.get ORB.STATUS_JOIN_STATE = 3 ∧ s.on TIME.STATUS_MEDIA_VALID then s.set ORB.STATUS_JOIN_STATE 4 else s

/-- ORB_TIME_RX (R433, R434): a TIME frame that left the peer at `t1` and arrived here at `t2`, with the peer's stamp `t4` of the last TIME frame this
unit sent (times in 2^−16 ns); `drives`: the sender's path leads to a primary that may drive outputs; `moon` names a moon that reports MEDIA_VALID = 1
with it, 0 for none. -/
def execOrbTimeRx (n : Nat) (t1 t2 : Int) (t4 : Option Int) (drives : Bool) (moon : Nat) (s : State) : Out :=
  if 3 < n ∨ s.linkState n ≠ 3 then .next s
  else
    let s := ((s.orbHeard n).count (ORB.LINK_TIME_RX n)).boundary .timeFrame (fun k => k == (ORB.LINK_ASYM n).key)
    let s := s.pathDrives n drives
    let x := s.link n
    let s := match x.txTime, t4 with
      | some t3, some t4 =>
        let a := t2 - t1
        let b := t4 - t3
        let o := a - b - 2 * s.geti (ORB.LINK_ASYM n)
        let ps := (a + b) * 1000 / ns17
        let s := (s.set (ORB.LINK_DELAY n) (clampInt 0 0xFFFFFFFF ps).toNat).setLink n { x with rxTime := some (t1, t2), offset := some o }
        let mine := if s.isMoon then n == s.uplink else n == 3 && (s.get PAIR.STATUS_ROLE == 4 || s.get PAIR.STATUS_ROLE == 5)
        if mine then
          let s := (s.takeOffset o).joinCheck
          let run := if near100 o then s.pair.timeRun + 1 else 0
          { s with pair := { s.pair with timeRun := run } }
        else s
      | _, _ => s.setLink n { x with rxTime := some (t1, t2) }
    if !s.isMoon ∧ 1 ≤ moon ∧ moon ≤ 15 ∧ s.get (ORB.MOON_STATE moon) = 3 then .next ((s.moonSeen moon).moonTo moon 4) else .next s

/-! ## The moon's side of joining (R437) -/

/-- MOON_ASSIGN_RX (R436, R437): a moon receives ASSIGN by link n from side `side` (0 A, 1 B) with its index and hops. -/
def execMoonAssignRx (n side index hops : Nat) (s : State) : Out :=
  if 3 < n ∨ !s.isMoon ∨ index = 0 ∨ 15 < index then .next s
  else
    let s := if side = 0 then s.set ORB.STATUS_UPA n else (s.set ORB.STATUS_UPB n).set ORB.STATUS_UPB_VALID 1
    let st := s.get ORB.STATUS_JOIN_STATE
    let s : State := { s with orb := { s.orb with hops := if side = 0 then (hops, s.orb.hops.2) else (s.orb.hops.1, hops) } }
    let s := s.timeUpCheck
    let s := if s.uplink = n then s.set ORB.STATUS_HOPS hops else s
    if st = 0 then
      let s := (s.set ORB.STATUS_OWN_INDEX index).set ORB.STATUS_JOIN_STATE 1
      let s := s.setPortState 0 3
      .next { s.setPortState 1 3 with orb := { s.orb with held := true } }
    else if st = 5 ∧ index = s.ownIndex then .next (s.set ORB.STATUS_JOIN_STATE 4)
    else .next s

/-- MOON_CONFIG_APPLY (R434, R437): a moon's start is complete and the primary has applied its configuration over channel 49: on the moon, reference 7 is
rank 0 of DPLL0 and every other reference is excluded; on the primary, entry d moves on. -/
def execMoonConfigApply (d family : Nat) (s : State) : Out :=
  if s.isMoon then
    if s.get ORB.STATUS_JOIN_STATE = 2 ∧ s.on SYS.STATUS_READY then
      let s := (s.set (CLK.DPLL_FAMILY 0) family).ranksWrite 0 0x0FFFFFFF
      .next (s.set ORB.STATUS_JOIN_STATE 3).joinCheck
    else .next s
  else if 1 ≤ d ∧ d ≤ 15 ∧ s.get (ORB.MOON_STATE d) = 2 then .next (s.moonTo d 3)
  else .next s

/-- A request forwarded to device d fails with DEVICE_UNREACHABLE (R440). -/
def State.failForwarded (s : State) (d : Nat) : State :=
  let mine := s.orb.fwd.filter (fun f => f.device == d)
  let s : State := { s with orb := { s.orb with fwd := s.orb.fwd.filter (fun f => f.device != d) } }
  let single := mine.filter (fun f => !s.cmd.waits.any (fun w => w.kind == 14 && w.req.channel == f.channel && w.req.tag == f.tag))
  let s := single.foldl (fun s f => s.post ⟨f.channel, f.tag, 0, Reply.err Status.unreachable⟩) s
  let lost := fun (w : Wait) (x : Nat) =>
    if x = d ∧ mine.any (fun f => f.channel == w.req.channel && f.tag == w.req.tag) then some Status.unreachable else none
  s.settleWaits [14] lost (fun w => w.pay)

/-- A moon leaves JOINED (R440): requests of the primary that had not started are discarded, and the replies of those that had will be. -/
def State.dropPrimary (s : State) : State :=
  let s : State := { s with orb := { s.orb with fwd := s.orb.fwd.filter (fun f => f.channel != 49) } }
  let s : State := { s with cmd := { s.cmd with inflight := s.cmd.inflight.filter (fun f => !(f.req.channel == 49 && !f.started)) } }
  let q := s.queue 1
  s.showTags.updQueue 1 { q with ready := dropChan 49 (groupItems q.ready) }

/-- A moon that has not joined leaves the cluster: its PTP instances are its own again (R424), and the next offset loads the counter. -/
def State.detach (s : State) : State :=
  let s : State := { s.set ORB.STATUS_JOIN_STATE 0 with orb := { s.orb with loaded := false, timeRun := 0 } }
  ([0, 1].filter (fun p => s.on (TIME.PORT_ENABLE p))).foldl (fun (t : State) p => t.ptpStart p) s

/-- MOON_UPLINK_LOSS (R437, R440): every uplink of a moon has been down for 1 ms: of this unit where it is a moon, of moon d where it is the primary. -/
def execMoonUplinkLoss (d : Nat) (s : State) : Out :=
  if s.isMoon then
    if s.uplinkUp 0 || s.uplinkUp 1 then .next s
    else
      let st := s.get ORB.STATUS_JOIN_STATE
      if st = 4 then .next (s.dropPrimary.set ORB.STATUS_JOIN_STATE 5)
      else if 1 ≤ st ∧ st ≤ 3 then .next s.detach
      else .next s
  else if 1 ≤ d ∧ d ≤ 15 then
    let st := s.get (ORB.MOON_STATE d)
    if st = 4 then
      let s := (s.moonTo d 5).signal ORB.INT ORB.INT_EN ORB.INT_MOON_LOST 0x0902 14 d [BitVec.ofNat 8 st]
      .next (s.failForwarded d)
    else if 1 ≤ st ∧ st ≤ 3 then .next (s.moonTo d 0)
    else .next s
  else .next s

/-- START_GAP in force, in µs. -/
def State.startGap (s : State) : Nat := max 2000 (s.get ORB.START_GAP)

/-- The moon whose START is next: the lowest in WAIT_START, of all with START_AUTO = 1, else of those MOON_START named. -/
def State.nextStart (s : State) : Option Nat :=
  ((List.range 15).map (fun k => k + 1)).find? (fun d =>
    s.get (ORB.MOON_STATE d) == 1 && (s.on ORB.CTRL_START_AUTO || s.orb.starts.contains d))

/-- MOON_START_SEND (R438): the next START falls due, START_GAP after the last and not before the primary is ready. -/
def execMoonStartSend (s : State) : Out :=
  match s.nextStart with
  | some d =>
    if s.isMoon ∨ !s.on SYS.STATUS_READY then .next s
    else
      let s := (s.sendControl (s.get (ORB.MOON_LINK d)) 2 [BitVec.ofNat 8 d]).moonTo d 2
      let s : State := { s with orb := { s.orb with starts := s.orb.starts.filter (fun e => e != d), lastStart := some s.cycles } }
      let s := s.signal ORB.INT ORB.INT_EN ORB.INT_MOON_STARTED 0x0907 14 d []
      .next (s.settleWaits [13] (fun _ x => if x = d then some 0 else none) (fun _ => []))
  | none => .next s

/-! ## Commands and events across the cluster (R439 to R441) -/

/-- The link by which device d is reached: its table entry's on the primary, or the mirror link where that is not UP (R439); the uplink in use on a moon. -/
def State.linkTo (s : State) (d : Nat) : Nat :=
  let l := s.get (ORB.MOON_LINK d)
  if s.isMoon then s.uplink else if s.linkState l ≠ 3 ∧ s.on PAIR.STATUS_MIRROR_UP then 3 else l

/-- A request goes to device d in COMMAND frames (R439): the number it is answered under. -/
def State.forward (s : State) (d ch tag : Nat) (b : List Byte) : State :=
  let id := s.orb.nextId
  let f : OrbFwd := ⟨id, d, ch, tag, s.linkTo d⟩
  let s : State := { s with orb := { s.orb with fwd := s.orb.fwd ++ [f], nextId := (id + 1) % 2 ^ 32 } }
  s.orbSend (s.linkTo d) 3 0 0 (le 4 id ++ [0, BitVec.ofNat 8 d] ++ b)

/-- The reply of a device to a forwarded request. -/
def State.forwardReply (s : State) (id : Nat) (b : List Byte) : State :=
  match s.orb.fwd.find? (fun f => f.id == id) with
  | none => s
  | some f =>
    let s : State := { s with orb := { s.orb with fwd := s.orb.fwd.filter (fun g => g.id != id) } }
    if s.cmd.waits.any (fun w => w.kind == 14 && w.req.channel == f.channel && w.req.tag == f.tag) then
      let mine := fun (w : Wait) => w.kind == 14 && w.req.channel == f.channel && w.req.tag == f.tag
      let st := leAt b 2 2
      let take := fun (w : Wait) =>
        if mine w then
          let sts := (w.parts.zip w.sts).map (fun x => if x.1 = f.device ∧ x.2 = waiting then st else x.2)
          { w with sts := sts, pay := if st = 0 then w.pay ++ [BitVec.ofNat 8 f.device, 0, 0, 0] ++ b else w.pay }
        else w
      { s with cmd := { s.cmd with waits := s.cmd.waits.map take } }
    else s.post ⟨f.channel, f.tag, leAt b 10 2, replyOf b⟩

/-- ORB_EVENT_RX (R441): an event record of moon d arrives on link n. The primary queues it with DEVICE set to d; a moon passes it on towards the
primary, and keeps it in its own queue while its uplink is not UP (DEDUCED, assumption 92). -/
def execOrbEventRx (n d : Nat) (record : List Byte) (s : State) : Out :=
  if 3 < n ∨ s.linkState n ≠ 3 then .next s
  else
    let s := (s.orbHeard n).moonSeen (if s.isMoon then 0 else d)
    let r := padTo 16 record
    let r := r.take 4 ++ le 2 (leAt r 4 2 % 4096 + 4096 * (d % 16)) ++ r.drop 6
    .next (if s.upward then s.sendUp r else s.raiseItem ⟨r, []⟩)

/-! ## Commands (R459) -/

/-- The words of an orbit link: STATUS, DELAY and the counters. -/
def linkWords (s : State) (n : Nat) : List Byte :=
  le 4 (s.word ORB.fields (0x1C0104 + 0x80 * n)) ++ le 4 (s.get (ORB.LINK_DELAY n)) ++
    ([ORB.LINK_FRAMES_TX n, ORB.LINK_FRAMES_RX n, ORB.LINK_FCHK_ERR n, ORB.LINK_BLK_MISSING n, ORB.LINK_BLK_LATE n, ORB.LINK_BLK_DUP n,
      ORB.LINK_LINK_DOWN n, ORB.LINK_TIME_RX n].flatMap (fun f => le 4 (s.get f)))

/-- CLUSTER_STATUS_GET. -/
def execClusterStatusGet (r : Req) (p : List Tlv) (s : State) : Out :=
  runCmd 0x0901 [] (getBody (fun _ s =>
    le 4 (s.word ORB.fields 0x1C0004) ++ le 4 (s.get ORB.PRESENT) ++ le 4 (s.get ORB.JOINED) ++
    ((List.range 15).map (fun k => k + 1)).flatMap (fun d => le 4 (s.get (ORB.MOON_EUI_LO d)) ++ le 4 (s.get (ORB.MOON_EUI_HI d)) ++
      le 4 (s.word ORB.fields (0x1C0808 + 0x10 * d)) ++ le 4 (s.get (ORB.MOON_LAST_SEEN d))) ++
    (List.range 4).flatMap (linkWords s))) r p s

/-- MOON_SET: Index; EUI-64; EN. -/
def execMoonSet (r : Req) (p : List Tlv) (s : State) : Out :=
  runCmd 0x0902 [preq 1 1 1 15, popt 2 8 0 (2 ^ 64 - 1), popt 3 1 0 1] (fun q s =>
    let d := Params.val q 1
    let eui := ((Params.val? q 2).map (swapBytes 8)).getD (s.moonEui d)
    let en := (Params.val? q 3).getD (s.get (ORB.MOON_EN d))
    if eui ≠ s.moonEui d ∧ (s.get (ORB.MOON_STATE d) ≠ 0 ∨ s.on (ORB.MOON_EN d)) then (Reply.errAt Status.notInState q 2, s)
    else
      let s := (s.setMoonEui d eui).set (ORB.MOON_EN d) en
      let at' := (List.range 4).find? (fun n => s.linkState n == 3 && s.get (ORB.LINK_PEER_ROLE n) == 4 &&
        s.get (ORB.LINK_PEER_EUI_HI n) * 2 ^ 32 + s.get (ORB.LINK_PEER_EUI_LO n) == eui)
      match at' with
      | some n => (Reply.ok [], if en = 1 ∧ s.get (ORB.MOON_STATE d) = 0 ∧ !s.isMoon then s.moonAssign n eui 1 else s)
      | none => (Reply.ok [], s)) r p s

/-- MOON_START: 16-bit moon bitmap; one part for each moon (R438). -/
def execMoonStart (r : Req) (p : List Tlv) (s : State) : Out :=
  match s.refuses r 0x0903 [preq 1 2 0 0xFFFF] p with
  | some e => .next (s.finish r 0x0903 e)
  | none =>
    let m := Params.val p 1
    if m.testBit 0 then .next (s.finish r 0x0903 (Reply.errAt Status.badParam p 1))
    else
      let parts := bitsOf 16 m
      let ok := fun d => s.get (ORB.MOON_STATE d) == 1
      let go := parts.filter ok
      let s : State := { s with orb := { s.orb with starts := s.orb.starts.filter (fun d => !go.contains d) ++ go } }
      .next (s.addWait ⟨r, 0x0903, 13, 1, parts, parts, parts.map (fun d => if ok d then waiting else Status.notInState),
        parts.map (fun _ => 0), [], 0, []⟩)

/-- ORB_LINK_SET: Link; EN; FWD, one type for each group; ASYM. -/
def orbLinkParams : List PSpec :=
  List.flatten [[preq 1 1 0 3, popt 2 1 0 1], (List.range 8).map (fun q => popt (3 + q) 1 0 7), [psig 11 4 32]]

/-- ORB_LINK_SET (R459). FWD7 comes first in the order of the register map, FWD0 last (R355). -/
def execOrbLinkSet (r : Req) (p : List Tlv) (s : State) : Out :=
  runCmd 0x0904 orbLinkParams (fun q s =>
    let n := Params.val q 1
    let start := Params.val? q 2 == some 1 && !s.on (ORB.LINK_EN n)
    if start && !s.linkMayStart n then (Reply.errAt Status.notInState q 2, s)
    else
      let w := ((List.range 8).map (fun g => ((Params.val? q (10 - g)).getD (s.get (ORB.LINK_FWD n g))) * 16 ^ g)).sum
      let s := if (List.range 8).any (fun g => Params.has q (3 + g)) then s.fwdWrite n w else s
      let s := match Params.val? q 11 with
        | some v => s.setB (ORB.LINK_ASYM n) .timeFrame v
        | none => s
      (Reply.ok [], match Params.val? q 2 with
        | some e => s.linkEnable n (e == 1)
        | none => s)) r p s

end Sys2Proof.Machine
end

