-- ==== Sys2Proof/Machine/Dma.lean ====
section
/-! DEFINITION. Bus-master DMA (chapter 12): ring enables and indices (R402), request and transmit items (R403 to R405), receive
items and replies (R406 to R410), events to the host (R411), read errors and the loss of the host side (R393, R395), and the
moderation of interrupt messages (R416). -/

namespace Sys2Proof.Machine

/-! ## Ring enable and indices (R402) -/

/-- The port whose transmit, receive buffer or receive completion ring i is. -/
def ringPort (i : Nat) : Nat := i % 4

/-- An item of port p that had not been fetched whole when its ring was disabled (R405). -/
def State.flushItems (s : State) (p status : Nat) : State :=
  (s.dma.items.filter (fun o => o.port == p && !o.frames.isEmpty)).foldl (fun s o => s.itemDone o status) s

/-- Ring i is no longer in RUN: what it held is dealt with as R405 and R408 say. -/
def State.ringLeft (s : State) (i : Nat) : State :=
  if 48 ≤ i ∧ i < 52 then s.flushItems (ringPort i) 5
  else if 56 ≤ i ∧ i < 64 then s.flushHost (ringPort i)
  else s

/-- EN of ring i takes a written value: 1 puts it in RUN with both indices 0, 0 in DISABLED. A ring in ERROR leaves it only by 0 (R395). -/
def State.ringEnable (s : State) (i : Nat) (on : Bool) : State :=
  if on then
    if s.get (DMA.RING_STATE i) = 2 then s
    else
      let s := ((s.set (DMA.RING_PI i) 0).set (DMA.RING_CI i) 0).set (DMA.RING_STATE i) 1
      let s := s.set (DMA.RING_ERR_CAUSE i) 0
      if 56 ≤ i ∧ i < 64 then s.hostHead (ringPort i) else s
  else
    let was := s.get (DMA.RING_STATE i)
    let s := s.set (DMA.RING_STATE i) 0
    if was = 0 then s else s.ringLeft i

/-- RING_EN_WRITE (R402, R419): a host write of the word that holds EN of ring i. -/
def hostRingEnWrite (source i : Nat) (v : Word) (s : State) : Out :=
  if i ≤ 64 then
    let idle := s.get (DMA.RING_STATE i) == 0
    .next ((s.writeWord DMA.fields idle source (0x21000 + 0x40 * i) v.toNat).ringEnable i (v.toNat.testBit 31))
  else .next s

/-- The index of ring i that the host advances. -/
def hostIndex (i : Nat) : Fld := if ringHostProduced i then DMA.RING_PI i else DMA.RING_CI i

/-- A host write of v to its index of ring i in RUN would make the ring hold more than SIZE − 1 entries, or fewer than it held before a
consumer's advance (R402): the index is outside the ring, a producer's has gone back, or a consumer's has passed PI. -/
def State.indexBad (s : State) (i v : Nat) : Bool :=
  let held := s.ringHeld i
  let held' := (s.set (hostIndex i) v).ringHeld i
  decide (s.ringCap i ≤ v) || (if ringHostProduced i then decide (held' < held) else decide (held < held'))

/-- RING_INDEX_WRITE (R402): the host writes its index of ring i. The address that event 0x0160 carries for a bad index is left open: a
free value. -/
def hostRingIndexWrite (i : Nat) (v : Word) (s : State) : Out :=
  if 64 < i then .next s
  else
    let v := v.toNat % 4096
    if s.get (DMA.RING_STATE i) = 1 ∧ s.indexBad i v then
      let (a, s) := s.fresh 64
      .next ((s.ringError i 6 a).ringLeft i)
    else
      let s := s.set (hostIndex i) v
      .next (if 56 ≤ i ∧ i < 64 then s.hostHead (ringPort i) else s)

/-! ## Items of descriptors (R403) -/

/-- The run of descriptors up to the first with EOP, and whether one with EOP was met. -/
def itemOf : List Desc → List Desc × Bool
  | [] => ([], false)
  | d :: t =>
    if d.flags.testBit 0 then ([d], true)
    else
      let (r, e) := itemOf t
      (d :: r, e)

/-- Every field of a descriptor but ADDR, LEN and EOP is 0. -/
def descPlain (d : Desc) : Bool := d.flags / 2 == 0 && d.hdrLen == 0 && d.mss == 0 && d.cookie == 0

/-- An item that keeps the rules of R403; on a CRQ ring every descriptor is plain. A segmented send states HDR_LEN and MSS in range. -/
def itemGood (crq : Bool) (l : List Desc) : Bool :=
  decide (l.length ≤ 32) && l.all (fun d => decide (1 ≤ d.len ∧ d.len ≤ 65535)) &&
  match l with
  | [] => false
  | d :: t => t.all descPlain && (if crq then descPlain d else decide (d.flags < 32) &&
      (!d.flags.testBit 2 || decide (42 ≤ d.hdrLen ∧ d.hdrLen ≤ 192 ∧ 64 ≤ d.mss ∧ d.mss ≤ 9536)))

/-- Bytes of an item. -/
def itemLen (l : List Desc) : Nat := (l.map Desc.len).sum

/-- The item at CI of ring i, `descs` being what the ring holds from there: none while the ring does not hold it whole. -/
def State.nextItem (s : State) (i : Nat) (descs : List Desc) : Option (List Desc) :=
  let (l, eop) := itemOf descs
  if s.ringRuns i && decide (l.length ≤ s.ringHeld i) && (eop || decide (32 < l.length)) then some l else none

/-- The address of the entry at CI of ring i. -/
def State.ringSlot (s : State) (i : Nat) : Nat := s.ringBase i + ringEntry i * s.get (DMA.RING_CI i)

/-- A bad item of n descriptors is skipped (R403): event 0x0160 with cause 5 and the address of its first descriptor (DEDUCED, assumption 38). -/
def State.skipBad (s : State) (i n : Nat) : State :=
  let at' := s.ringSlot i
  let s := (s.ringTake i n).dmaError i 5 at'
  s.ringBack i (s.get (DMA.RING_CI i))

/-- Advance CI past an item of n descriptors and write it back. -/
def State.itemTaken (s : State) (i n : Nat) : State :=
  let s := s.ringTake i n
  s.ringBack i (s.get (DMA.RING_CI i))

/-- CRQ_FETCH (R403, R404): the request item at CI of ring r, whose bytes are `data`, is pushed into CMD_IN when there is room. -/
def execCrqFetch (r : Nat) (descs : List Desc) (data : List Byte) (s : State) : Out :=
  if 15 < r then .next s
  else match s.nextItem r descs with
    | none => .next s
    | some l =>
      let s := s.hostRead r (s.ringSlot r) (16 * l.length)
      let b := padTo (itemLen l) data
      if !itemGood true l then .next (s.skipBad r l.length)
      else if 65552 < itemLen l then .next ((s.count CMD.MALFORMED).itemTaken r l.length)
      else if s.roomIn r b then .next ((s.push 1 (cmdItem r b)).itemTaken r l.length)
      else .next s

/-! ## Transmit items (R405) -/

/-- The frames of a transmit item, or none where it is to be discarded for its length (R139, R143). -/
def State.itemFrames (s : State) (p : Nat) (d : Desc) (data : List Byte) : Option (List (List Byte)) :=
  if d.flags.testBit 2 then s.segments p d data
  else
    let f := padFrame data
    if lenEff (s.get (PORT.TX_MAX_LEN p)) < f.length + 4 then none else some [f]

/-- TXD_ITEM_FETCH (R403, R405, R139): the item at CI of the transmit ring of port p, whose bytes are `data`, is fetched into the HOST
partition. The item before it must have been fetched whole, and TXC p must have room for an entry. -/
def execTxdItemFetch (p : Nat) (descs : List Desc) (data : List Byte) (s : State) : Out :=
  let i := 48 + p
  if 3 < p ∨ !s.ringRuns (52 + p) ∨ s.ringRoom (52 + p) = 0 ∨ s.dma.items.any (fun o => o.port == p && !o.frames.isEmpty) then .next s
  else match s.nextItem i descs with
    | none => .next s
    | some l =>
      let s := s.hostRead i (s.ringSlot i) (16 * l.length)
      let d := l.headD ⟨0, 0, 0, 0, 0, 0⟩
      let it : TxItem := ⟨s.dma.nextItem, p, s.get (DMA.RING_CI i), d.cookie, d.flags.testBit 1, d.flags.testBit 2, [], 0, 0, none⟩
      if !itemGood false l then .next ((s.skipBad i l.length).itemDone it 3)
      else
        let s := s.itemTaken i l.length
        match s.itemFrames p d (padTo (itemLen l) data) with
        | none => .next ((s.stat p Stat.TX_DISCARD).itemDone it 1)
        | some fs =>
          let it := { it with frames := fs, left := fs.length }
          .next ({ s with dma := { s.dma with items := s.dma.items ++ [it], nextItem := it.id + 1 } }.feedHost p)

/-- TX_COMPLETION_WRITE (R405): the oldest completion of port p is written to TXC p. -/
def execTxCompletionWrite (p : Nat) (s : State) : Out :=
  match s.dma.done.find? (fun d => d.port == p) with
  | some d =>
    if p ≤ 3 ∧ s.ringRuns (52 + p) ∧ 0 < s.ringRoom (52 + p) then
      let s : State := { s with dma := { s.dma with done := s.dma.done.erase d } }
      let s := s.ringPut (52 + p) 1 d.entry
      .next ((s.ringBack (52 + p) (s.get (DMA.RING_PI (52 + p)))).fire (20 + p))
    else .next s
  | none => .next s

/-! ## Receive items and replies (R406, R407) -/

/-- The completion entries of an item of n bytes in buffers of `size`, the first at position `pos` of a ring of `cap`. -/
def rxEntries (n size pos cap info flag : Nat) (stamp : List Byte) (rxf : Byte) : List (List Byte) :=
  let k := (n + size - 1) / size
  (List.range k).map (fun j =>
    let sop := decide (j = 0)
    let len := if j + 1 = k then n - j * size else size
    (if sop then stamp else le 6 0) ++ le 2 len ++ le 2 ((pos + j) % cap) ++
      [BitVec.ofNat 8 ((if sop then 1 + flag else 0) + (if j + 1 = k then 2 else 0)), if sop then rxf else 0] ++
      (if sop then le 4 info else le 4 0))

/-- An item is written to the buffers of ring b, whose posted entries give the addresses `bufs`, with its completions in ring c, and source `src` fires (R394,
R406). -/
def State.deliverItem (s : State) (b c src : Nat) (bufs : List Nat) (bytes : List Byte) (entries : List (List Byte)) : State :=
  let k := entries.length
  let s := ((s.hostRead b (s.ringSlot b) (8 * k)).hostWrite (2048 + b) (bufs.take k) bytes).ringTake b k
  let s := s.ringBack b (s.get (DMA.RING_CI b))
  let s := entries.foldl (fun s e => s.ringPut c 1 e) s
  (s.ringBack c (s.get (DMA.RING_PI c))).fire src

/-- RX_ITEM_DELIVER (R406 to R408): the frame at the head of HOST_RX p is claimed and written to host memory, at the addresses `bufs` of the buffers posted. -/
def execRxItemDeliver (p : Nat) (bufs : List Nat) (s : State) : Out :=
  if 3 < p then .next s
  else
    let s := s.hostHead p
    match s.headItem p with
    | some it =>
      let n := it.body.length
      if s.claimable (56 + p) (60 + p) n then
        let es := rxEntries n (s.bufSize (56 + p)) (s.get (DMA.RING_CI (56 + p))) (s.ringCap (56 + p)) (n % 2 ^ 20 + leAt it.hdr 7 1 * 2 ^ 20) 8
          (it.hdr.take 6) (BitVec.ofNat 8 (leAt it.hdr 6 1))
        .next ((((s.takeItem (7 + p)).2).deliverItem (56 + p) (60 + p) (16 + p) bufs it.body es).hostHead p)
      else .next s
    | none => .next s

/-- RX_GAP_ENTRY (R407, R409): the gap marker at the head of HOST_RX p becomes an entry of RXC p, and event 0x0101. -/
def execRxGapEntry (p : Nat) (s : State) : Out :=
  if 3 < p ∨ !s.ringRuns (56 + p) ∨ !s.ringRuns (60 + p) ∨ s.ringRoom (60 + p) = 0 then .next s
  else match (s.queue (7 + p)).ready with
    | ⟨.gap c f, _⟩ :: _ =>
      let s := (s.takeItem (7 + p)).2
      let e := le 4 f ++ le 4 0 ++ le 2 0xFFFF ++ [4, 0] ++ le 4 c
      let s := s.ringPut (60 + p) 1 e
      .next (((s.ringBack (60 + p) (s.get (DMA.RING_PI (60 + p)))).fire (16 + p)).hostHead p)
    | _ => .next s

/-- A reply is discarded (R410, R393): `cause` 0 waited, 1 ring not in RUN, 2 host lost. -/
def State.discardReply (s : State) (it : QItem) (cause : Nat) : State :=
  (s.count DMA.REPLY_DISCARD).dmaSignal DMA.INT_REPLY_DISCARD 0x0162 (itemChan it)
    (le 2 (leAt it.body 10 2) ++ le 2 (leAt it.body 0 2) ++ [BitVec.ofNat 8 cause])

/-- The reply at the head of CMD_OUT. -/
def State.headReply (s : State) : Option QItem :=
  match (s.queue 2).ready with
  | ⟨.head it, _⟩ :: _ => some it
  | _ => none

/-- A reply of channel r of PCIe: written through RPB r and RPC r, discarded, or left to wait. -/
def State.replyPcie (s : State) (r : Nat) (bufs : List Nat) (it : QItem) : State :=
  let n := it.body.length
  if s.on DMA.STATUS_HOST_LOST then (s.takeItem 2).2.discardReply it 2
  else if s.get (DMA.RING_STATE (16 + r)) ≠ 1 ∨ s.get (DMA.RING_STATE (32 + r)) ≠ 1 then (s.takeItem 2).2.discardReply it 1
  else if s.claimable (16 + r) (32 + r) n then
    let es := rxEntries n (s.bufSize (16 + r)) (s.get (DMA.RING_CI (16 + r))) (s.ringCap (16 + r)) n 0 (le 6 0) 0
    (s.takeItem 2).2.deliverItem (16 + r) (32 + r) r bufs it.body es
  else s

/-- A reply of a UDP session goes out, and a session that was to close behind it closes (R362). -/
def State.replyUdp (s : State) (it : QItem) : State :=
  match s.sessionOn (itemChan it) with
  | some x =>
    let s := (s.takeItem 2).2.replySession x it.body
    if x.closing then s.closeSession x 1 else s
  | none => (s.takeItem 2).2

/-- The reply of a request that the primary forwarded goes back over the link it came on (R439). -/
def State.replyPrimary (s : State) (it : QItem) : State :=
  let s := (s.takeItem 2).2
  match s.orb.fwd.find? (fun f => f.channel == 49 && f.tag == leAt it.body 0 2 % 512) with
  | some f =>
    let s : State := { s with orb := { s.orb with fwd := s.orb.fwd.erase f } }
    if s.linkState f.link = 3 then s.orbSend f.link 3 0 0 (le 4 f.id ++ [1, BitVec.ofNat 8 f.device] ++ it.body) else s
  | none => s

/-- REPLY_DELIVER (R406, R410, R398): the reply at the head of CMD_OUT is taken by its transport, if that can take it; `bufs` as in RX_ITEM_DELIVER. -/
def execReplyDeliver (bufs : List Nat) (s : State) : Out :=
  match s.headReply with
  | none => .next s
  | some it =>
    let ch := itemChan it
    if ch < 16 then .next (s.replyPcie ch bufs it)
    else if ch = 16 then
      if s.csp.outBox.isNone then
        let s := (s.takeItem 2).2
        .next { s with csp := { s.csp with outBox := some it.body } }
      else .next s
    else if 32 ≤ ch ∧ ch < 48 then .next (s.replyUdp it)
    else if ch = 49 then .next (s.replyPrimary it)
    else .next (s.takeItem 2).2

/-- REPLY_WAIT_EXPIRY (R410): the reply at the head of CMD_OUT has waited REPLY_WAIT ms for its rings or for the output mailbox. -/
def execReplyWaitExpiry (s : State) : Out :=
  match s.headReply with
  | some it => .next (if itemChan it ≤ 16 then (s.takeItem 2).2.discardReply it 0 else s)
  | none => .next s

/-! ## Events to the host (R411, R42) -/

/-- Take the record at the head of the EVENT queue; on a moon it goes to the primary as well (R441). -/
def State.takeRecord (s : State) : Option (List Byte) × State :=
  let (c, s) := s.takeItem 0
  match c with
  | some (.head it) => (some it.hdr, s.sendUp it.hdr)
  | some (.gap c f) => (some (s.gapRecord c f), s.sendUp (s.gapRecord c f))
  | _ => (none, s)

/-- Move up to n records into EVR; how many were moved. -/
def State.moveRecords : Nat → State → Nat × State
  | 0, s => (0, s)
  | n + 1, s =>
    if s.ringRoom 64 = 0 then (0, s)
    else match s.takeRecord with
      | (some r, s) =>
        let (k, s) := State.moveRecords n (s.ringPut 64 1 r)
        (k + 1, s)
      | (none, s) => (0, s)

/-- EVENT_TO_EVR (R411, R402): a batch of at most 32 records moves from the EVENT queue into EVR. -/
def execEventToEvr (n : Nat) (s : State) : Out :=
  let s := s.boundary .eventRecord (fun k => k == CMD.EVT_ROUTE.key)
  if s.on CMD.EVT_ROUTE || !s.ringRuns 64 then .next s
  else
    let (k, s) := State.moveRecords (min n 32) s
    if k = 0 then .next s else .next ((s.ringBack 64 (s.get (DMA.RING_PI 64))).fire 24)

/-- EVT_ROUTE_WRITE (R411): the change takes effect between two records, which no command of this model parts. -/
def hostEvtRouteWrite (source : Nat) (v : Word) (s : State) : Out :=
  let s := s.writeWord CMD.fields true source 0x10000 v.toNat
  .next (s.boundary .eventRecord (fun k => k == CMD.EVT_ROUTE.key))

/-! ## Read errors and the loss of the host side (R393, R395) -/

/-- A transmit ring meets a read error: the item being fetched ends as READ_ERR; `cookie` is that of an item of which only descriptors had been
read. -/
def State.readErrItem (s : State) (p : Nat) (cookie : Option Nat) : State :=
  if s.dma.items.any (fun o => o.port == p && !o.frames.isEmpty) then s.flushItems p 4
  else match cookie with
    | some c => s.itemDone ⟨s.dma.nextItem, p, s.get (DMA.RING_CI (48 + p)), c, false, false, [], 0, 0, none⟩ 4
    | none => s

/-- DMA_READ_ERROR (R395): a read of ring or set `unit` (as UNIT of event 0x0160) ends in a completion timeout (cause 1), Unsupported Request (2),
Completer Abort (3) or poisoned data (4). -/
def execDmaReadError (unit cause addr : Nat) (cookie : Option Nat) (s : State) : Out :=
  if cause < 1 ∨ 4 < cause then .next s
  else if unit ≤ 64 then
    if s.ringRuns unit then
      let s := s.ringError unit cause addr
      let s := if 48 ≤ unit ∧ unit < 52 then s.readErrItem (unit - 48) cookie else s
      .next (if 56 ≤ unit ∧ unit < 64 then s.ringLeft unit else s)
    else .next s
  else
    let k := unit % 64
    let f := if unit < 0x140 then DMA.REC_STATE k else DMA.PLAY_STATE k
    if 0x100 ≤ unit ∧ unit < 0x180 ∧ s.get f = 1 then .next ((s.set f 2).dmaError unit cause addr) else .next s

/-- Every ring and set in RUN stops (R393). -/
def State.stopRings (s : State) : State :=
  let s := (List.range 65).foldl (fun s i => if s.get (DMA.RING_STATE i) = 1 then s.set (DMA.RING_STATE i) 0 else s) s
  (List.range 64).foldl (fun s k =>
    let s := if s.get (DMA.REC_STATE k) = 1 then s.set (DMA.REC_STATE k) 0 else s
    if s.get (DMA.PLAY_STATE k) = 1 then s.set (DMA.PLAY_STATE k) 0 else s) s

/-- The status bits of the PCIe link after a loss of cause 1 link down, 2 Function Level Reset, 3 Bus Master Enable cleared, 4 D3hot. -/
def State.linkBits (s : State) (cause : Nat) : State :=
  if cause = 1 then s.set DMA.STATUS_LINK_UP 0 else if cause = 4 then s else s.set DMA.STATUS_BME 0

/-- HOST_LOST (R393): reads and writes not issued are dropped, every ring and set stops, and a Function Level Reset returns the DMA registers
to their reset values. The items in the HOST partition still leave, without completions. -/
def execHostLost (cause : Nat) (s : State) : Out :=
  if cause < 1 ∨ 4 < cause then .next s
  else
    let was := s.on DMA.STATUS_HOST_LOST
    let s := (s.set DMA.STATUS_HOST_LOST 1).linkBits cause
    let s := if was then s else
      let s := s.stopRings
      let s : State := { s with dma := { s.dma with items := [], done := [], rec' := [], play := [] } }
      [0, 1, 2, 3].foldl State.flushHost s
    let up := s.get DMA.STATUS_LINK_UP
    let s : State := if cause = 2 then
      { s with regs := s.regs.resetRange (0x20000 * 32) (0x30000 * 32), held := s.held.filter (fun h => !inOffs 0x20000 0x30000 h.key) }.set
        DMA.STATUS_LINK_UP up else s
    .next (if was then s else s.signalPlain 0x0165 2 0 [BitVec.ofNat 8 cause])

/-- HOST_RESTORED (R393): the link is up with Bus Master Enable set and the function in D0. -/
def execHostRestored (s : State) : Out :=
  let was := s.on DMA.STATUS_HOST_LOST
  let s := ((s.set DMA.STATUS_LINK_UP 1).set DMA.STATUS_BME 1).set DMA.STATUS_HOST_LOST 0
  .next (if was then s.signalPlain 0x0165 2 0 [0] else s)

/-- The identity of the PCIe function (R392): Vendor ID, Device ID, Subsystem Vendor ID, Subsystem ID, Revision ID and class code. The vendor's number is not
stated. -/
def State.pcieIds (s : State) : List Nat :=
  [Config.pciVendor, 0x2048, Config.pciVendor, if s.isNi then 2 else 1, s.get SYS.DEVICE_ID_STEP, 0x040100]

/-- MSIX_MODERATION_END (R416): the interval of vector v ends, and a message that became pending in it is sent. -/
def execMsixModerationEnd (v : Nat) (s : State) : Out :=
  if v < 64 ∧ s.bit (MSIX.PENDING (v / 32)) (v % 32) ∧ !s.on (MSIX.MASK v) ∧ !s.on DMA.STATUS_HOST_LOST then .next (s.msiSend v)
  else .next s

end Sys2Proof.Machine
end

