-- ==== Sys2Proof/Machine/Ed.lean ====
section
/-! DEFINITION. SHA-512 (FIPS 180-4) and Ed25519 (RFC 8032), which sign tokens, certificates and configuration images (R504, R507). The spec names them; their
definitions are those of the documents (PRESUMED, assumption 34). -/

namespace Sys2Proof.Machine

/-! ## SHA-512 -/

/-- The 80 round constants. -/
def sha5K : List Nat := List.flatten [
  [0x428a2f98d728ae22, 0x7137449123ef65cd, 0xb5c0fbcfec4d3b2f, 0xe9b5dba58189dbbc, 0x3956c25bf348b538],
  [0x59f111f1b605d019, 0x923f82a4af194f9b, 0xab1c5ed5da6d8118, 0xd807aa98a3030242, 0x12835b0145706fbe],
  [0x243185be4ee4b28c, 0x550c7dc3d5ffb4e2, 0x72be5d74f27b896f, 0x80deb1fe3b1696b1, 0x9bdc06a725c71235],
  [0xc19bf174cf692694, 0xe49b69c19ef14ad2, 0xefbe4786384f25e3, 0x0fc19dc68b8cd5b5, 0x240ca1cc77ac9c65],
  [0x2de92c6f592b0275, 0x4a7484aa6ea6e483, 0x5cb0a9dcbd41fbd4, 0x76f988da831153b5, 0x983e5152ee66dfab],
  [0xa831c66d2db43210, 0xb00327c898fb213f, 0xbf597fc7beef0ee4, 0xc6e00bf33da88fc2, 0xd5a79147930aa725],
  [0x06ca6351e003826f, 0x142929670a0e6e70, 0x27b70a8546d22ffc, 0x2e1b21385c26c926, 0x4d2c6dfc5ac42aed],
  [0x53380d139d95b3df, 0x650a73548baf63de, 0x766a0abb3c77b2a8, 0x81c2c92e47edaee6, 0x92722c851482353b],
  [0xa2bfe8a14cf10364, 0xa81a664bbc423001, 0xc24b8b70d0f89791, 0xc76c51a30654be30, 0xd192e819d6ef5218],
  [0xd69906245565a910, 0xf40e35855771202a, 0x106aa07032bbd1b8, 0x19a4c116b8d2d0c8, 0x1e376c085141ab53],
  [0x2748774cdf8eeb99, 0x34b0bcb5e19b48a8, 0x391c0cb3c5c95a63, 0x4ed8aa4ae3418acb, 0x5b9cca4f7763e373],
  [0x682e6ff3d6b2b8a3, 0x748f82ee5defb2fc, 0x78a5636f43172f60, 0x84c87814a1f0ab72, 0x8cc702081a6439ec],
  [0x90befffa23631e28, 0xa4506cebde82bde9, 0xbef9a3f7b2c67915, 0xc67178f2e372532b, 0xca273eceea26619c],
  [0xd186b8c721c0c207, 0xeada7dd6cde0eb1e, 0xf57d4f7fee6ed178, 0x06f067aa72176fba, 0x0a637dc5a2c898a6],
  [0x113f9804bef90dae, 0x1b710b35131c471b, 0x28db77f523047d84, 0x32caab7b40c72493, 0x3c9ebe0a15c9bebc],
  [0x431d67c49c100d4c, 0x4cc5d4becb3e42b6, 0x597f299cfc657e2a, 0x5fcb6fab3ad6faec, 0x6c44198c4a475817]]

/-- The initial hash value. -/
def sha5H0 : List Nat := List.flatten [
  [0x6a09e667f3bcc908, 0xbb67ae8584caa73b, 0x3c6ef372fe94f82b, 0xa54ff53a5f1d36f1],
  [0x510e527fade682d1, 0x9b05688c2b3e6c1f, 0x1f83d9abfb41bd6b, 0x5be0cd19137e2179]]

def w64 (n : Nat) : Nat := n % 2 ^ 64
def rotr64 (n x : Nat) : Nat := x / 2 ^ n + x % 2 ^ n * 2 ^ (64 - n)

/-- The message schedule, newest word first. -/
def sha5Schedule : Nat → List Nat → List Nat
  | 0, w => w
  | n + 1, w =>
    let a := nth w 1 0
    let b := nth w 14 0
    let s1 := (rotr64 19 a ^^^ rotr64 61 a) ^^^ (a / 2 ^ 6)
    let s0 := (rotr64 1 b ^^^ rotr64 8 b) ^^^ (b / 2 ^ 7)
    sha5Schedule n (w64 (s1 + nth w 6 0 + s0 + nth w 15 0) :: w)

/-- One round on the working variables a to h. -/
def sha5Round (v : List Nat) (kw : Nat × Nat) : List Nat :=
  match v with
  | [a, b, c, d, e, f, g, h] =>
    let s1 := (rotr64 14 e ^^^ rotr64 18 e) ^^^ rotr64 41 e
    let ch := (e &&& f) ^^^ ((2 ^ 64 - 1 - e) &&& g)
    let t1 := h + s1 + ch + kw.1 + kw.2
    let s0 := (rotr64 28 a ^^^ rotr64 34 a) ^^^ rotr64 39 a
    let maj := ((a &&& b) ^^^ (a &&& c)) ^^^ (b &&& c)
    [w64 (t1 + s0 + maj), a, b, c, w64 (d + t1), e, f, g]
  | v => v

/-- The blocks of a padded message, 128 bytes each. -/
def sha5Blocks : Nat → List Byte → List Nat → List Nat
  | 0, _, h => h
  | n + 1, l, h =>
    let w := (sha5Schedule 64 ((List.range 16).map (fun i => beAt l (8 * i) 8)).reverse).reverse
    sha5Blocks n (l.drop 128) (((sha5K.zip w).foldl sha5Round h).zipWith (fun a b => w64 (a + b)) h)

/-- SHA-512: 64 bytes. -/
def sha512 (l : List Byte) : List Byte :=
  let pad := l ++ [0x80#8] ++ List.replicate ((239 - l.length % 128) % 128) 0#8 ++ be 16 (8 * l.length)
  (sha5Blocks (pad.length / 128) pad sha5H0).flatMap (be 8)

/-! ## The curve -/

/-- The field's prime, 2^255 − 19. -/
def edP : Nat := 2 ^ 255 - 19
/-- The order of the base point. -/
def edL : Nat := 2 ^ 252 + 27742317777372353535851937790883648493

def fmul (a b : Nat) : Nat := a * b % edP
def fadd (a b : Nat) : Nat := (a + b) % edP
def fsub (a b : Nat) : Nat := (a + edP - b % edP) % edP

/-- b^e in the field; `n` bounds the bits of e. -/
def fpow : Nat → Nat → Nat → Nat
  | 0, _, _ => 1
  | n + 1, b, e =>
    let r := fpow n (fmul b b) (e / 2)
    if e % 2 = 1 then fmul b r else r

def finv (a : Nat) : Nat := fpow 255 a (edP - 2)

/-- d = −121665 ÷ 121666. -/
def edD : Nat := fmul (edP - 121665) (finv 121666)

/-- A point in extended coordinates. -/
structure EdPoint where
  x : Nat
  y : Nat
  z : Nat
  t : Nat
deriving DecidableEq, Repr

/-- The sum of two points. -/
def EdPoint.add (p q : EdPoint) : EdPoint :=
  let a := fmul (fsub p.y p.x) (fsub q.y q.x)
  let b := fmul (fadd p.y p.x) (fadd q.y q.x)
  let c := fmul (fmul (fmul 2 p.t) edD) q.t
  let d := fmul (fmul 2 p.z) q.z
  let (e, f) := (fsub b a, fsub d c)
  let (g, h) := (fadd d c, fadd b a)
  ⟨fmul e f, fmul g h, fmul f g, fmul e h⟩

/-- k times a point; `n` bounds the bits of k. -/
def EdPoint.mul : Nat → Nat → EdPoint → EdPoint
  | 0, _, _ => ⟨0, 1, 1, 0⟩
  | n + 1, k, p =>
    let r := EdPoint.mul n (k / 2) (p.add p)
    if k % 2 = 1 then p.add r else r

/-- Two points are the same. -/
def EdPoint.same (p q : EdPoint) : Bool := fmul p.x q.z == fmul q.x p.z && fmul p.y q.z == fmul q.y p.z

/-- The x of a point from its y and the sign bit. -/
def edX (y sign : Nat) : Option Nat :=
  if edP ≤ y then none
  else
    let x2 := fmul (fsub (fmul y y) 1) (finv (fadd (fmul edD (fmul y y)) 1))
    if x2 = 0 then (if sign = 1 then none else some 0)
    else
      let x := fpow 255 x2 ((edP + 3) / 8)
      let x := if fmul x x = x2 then x else fmul x (fpow 255 2 ((edP - 1) / 4))
      if fmul x x ≠ x2 then none else some (if x % 2 = sign then x else edP - x)

/-- A point from its 32 bytes. -/
def edDecode (l : List Byte) : Option EdPoint :=
  let v := ofLe l
  let y := v % 2 ^ 255
  if l.length ≠ 32 then none else (edX y (v / 2 ^ 255)).map (fun x => ⟨x, y, 1, fmul x y⟩)

/-- The 32 bytes of a point. -/
def EdPoint.encode (p : EdPoint) : List Byte :=
  let i := finv p.z
  let (x, y) := (fmul p.x i, fmul p.y i)
  le 32 (y + x % 2 * 2 ^ 255)

/-- The base point. -/
def edB : EdPoint :=
  let y := fmul 4 (finv 5)
  let x := (edX y 0).getD 0
  ⟨x, y, 1, fmul x y⟩

/-- A signature holds (RFC 8032, 5.1.7, without the cofactor). -/
def edVerify (key msg sig : List Byte) : Bool :=
  let s := leAt sig 32 32
  match edDecode key, edDecode (sig.take 32) with
  | some a, some r =>
    sig.length == 64 && decide (s < edL) &&
      (EdPoint.mul 253 s edB).same (r.add (EdPoint.mul 253 (ofLe (sha512 (sig.take 32 ++ key ++ msg)) % edL) a))
  | _, _ => false

/-- The secret scalar of a seed. -/
def edScalar (seed : List Byte) : Nat :=
  let a := leAt (sha512 seed) 0 32 % 2 ^ 254
  a / 8 * 8 + 2 ^ 254

/-- The public key of a seed of 32 bytes. -/
def edPublic (seed : List Byte) : List Byte := (EdPoint.mul 255 (edScalar seed) edB).encode

/-- The signature of a message. -/
def edSign (seed msg : List Byte) : List Byte :=
  let k := edPublic seed
  let r := ofLe (sha512 ((sha512 seed).drop 32 ++ msg)) % edL
  let rb := (EdPoint.mul 253 r edB).encode
  rb ++ le 32 ((r + ofLe (sha512 (rb ++ k ++ msg)) % edL * edScalar seed) % edL)

end Sys2Proof.Machine
end

