-- ==== Sys2Proof/Machine/Pair.lean ====
section
/-! DEFINITION. The redundant pair (chapter 13, R442 to R459, R463, R464): pulses, the lease, the role state machine, promotion, mirrored rows and digests,
the resync, and the loss of an orbit link. -/

namespace Sys2Proof.Machine

/-! ## Pulses (R445) -/

/-- One bit of the CRC-16 of R445, most significant first. -/
def crc16Bit (c : Nat) : Nat := if 0x8000 ≤ c then (c * 2 % 0x10000) ^^^ 0x1021 else c * 2

def crc16Byte (c : Nat) (b : Byte) : Nat :=
  crc16Bit (crc16Bit (crc16Bit (crc16Bit (crc16Bit (crc16Bit (crc16Bit (crc16Bit (c ^^^ (b.toNat * 256)))))))))

/-- CHECK of a pulse. -/
def crc16 (l : List Byte) : Nat := l.foldl crc16Byte 0xFFFF

/-- PASS of a pulse: the last completed pass, 0 before the first (DESIGN CHOICE, assumption 33). -/
def State.lastPass (s : State) : Nat := s.anvil.ran.getD 0 % 2 ^ 32

/-- The 16 bytes of a pulse with this ROLE. -/
def State.pulseBytes (s : State) (role : Nat) (resign : Bool) : List Byte :=
  let flags := (if s.on PAIR.STATUS_SYNCED then 1 else 0) + (if s.on PAIR.STATUS_MIRROR_UP then 2 else 0)
  let b := [BitVec.ofNat 8 (role + if resign then 128 else 0), BitVec.ofNat 8 flags] ++ le 4 s.pair.seq ++
    le 4 (s.pair.echo.getD 0xFFFFFFFF) ++ le 4 s.lastPass
  b ++ le 2 (crc16 b)

/-- CORE cycles of a lease: 8 µs (R447). -/
def leaseCycles : Nat := 8 * cyclesPerUs

/-- A pulse is sent: in STANDBY it confirms the pulse it echoes (R448). -/
def State.sendPulse (s : State) (role : Nat) (resign : Bool) : State :=
  let x := s.pair
  let recent := x.sent.filter (fun p => decide (s.cycles ≤ p.2 + leaseCycles))
  let conf := if s.get PAIR.STATUS_ROLE = 5 ∧ x.lastActive.isSome ∧ x.lastActive = x.lastRx then x.lastActive else x.conf
  let y := { x with seq := (x.seq + 1) % 2 ^ 32, sent := recent ++ [(x.seq, s.cycles)], conf := conf, pulse := s.pulseBytes role resign }
  { s with pair := y }.count PAIR.PULSE_TX

/-- PULSE_SEND (R445): the next pulse falls due. -/
def execPulseSend (s : State) : Out :=
  .next (if s.get PAIR.STATUS_ROLE = 0 ∨ s.pair.stopped then s else s.sendPulse (s.get PAIR.STATUS_ROLE) false)

/-! ## Outputs (R450) -/

/-- PAIR_ACT takes a level: the outputs of R450 follow. -/
def State.setDrive (s : State) (b : Bool) : State :=
  let s := s.setOn PAIR.STATUS_DRIVE b
  ((List.range 8).foldl State.bellowsPin s).tdmDrive

/-! ## Roles (R446) -/

/-- What the change between following the peer and not doing so brings: DPLL0's ranks, and the PTP ports (R444). -/
def State.standChange (s : State) : State :=
  let s := ((s.setDpll 0 { s.dpll 0 with moved := true }).wtrRun 0).ref7Check
  let s : State := { s with orb := { s.orb with loaded := false, timeRun := 0 } }
  let one := fun (s : State) (p : Nat) =>
    let st := s.get (TIME.PORT_STATE p)
    if s.standingBy then (if st = 5 ∨ st = 6 then s.setPortState p 7 else s)
    else if st = 7 then
      (match (s.ptp p).parent, (s.ptp p).foreign with
       | none, [] => s.setPortState p 5
       | _, _ => s.bmca p)
    else s
  [0, 1].foldl one s

/-- ROLE takes a value; every change sets INT.ROLE and raises event 0x0910. -/
def State.setRole (s : State) (r : Nat) : State :=
  let old := s.get PAIR.STATUS_ROLE
  if old = r then s
  else
    let was := s.standingBy
    let s := s.set PAIR.STATUS_ROLE r
    let s := if r = 4 then s else s.set PAIR.RESYNC_PHASE 0
    let s := if r = 3 then s else s.set PAIR.STATUS_LEASE_VALID 0
    let s := if r = 6 then s else { s with pair := { s.pair with stopped := false } }
    let s := s.signal PAIR.INT PAIR.INT_EN PAIR.INT_ROLE 0x0910 15 0 [BitVec.ofNat 8 old, BitVec.ofNat 8 r]
    if s.standingBy = was then s else s.standChange

/-- The unit enters INIT with its outputs released. -/
def State.enterInit (s : State) : State :=
  let s : State := { s with pair := { s.pair with since := s.cycles } }
  ((s.setDrive false).set PAIR.STATUS_SYNCED 0).setRole 1

/-- Ask the peer over the mirror link: CONTROL kind 4. -/
def State.askResync (s : State) : State := if s.linkState 3 = 3 then s.sendControl 3 4 [] else s

/-- A resync starts at phase 1 (R456). -/
def State.startResync (s : State) : State :=
  let x := { s.pair with since := s.cycles, timeRun := 0, matched := 0, differ := 0, conf := none, config := [] }
  let s : State := { s with pair := x }
  (((s.set PAIR.STATUS_SYNCED 0).set PAIR.RESYNC_PHASE 1).setRole 4).askResync

/-- Drive outputs without a lease. -/
def State.goSolo (s : State) : State := (s.setRole 2).setDrive true

/-- ACTIVE or SOLO ends in silence: cause 0 the lease expired, 1 an internal fault, which also stops the pulses. -/
def State.goSilent (s : State) (cause : Nat) : State :=
  let s := s.setDrive false
  let s := if cause = 0 then s.count PAIR.SILENCES else s
  let s := s.setRole 6
  let s : State := { s with pair := { s.pair with stopped := cause == 1 } }
  let s := s.faultEvent 0x0912 15 0 [BitVec.ofNat 8 cause]
  s.signal PAIR.INT PAIR.INT_EN PAIR.INT_SILENT 0x0912 15 0 [BitVec.ofNat 8 cause]

/-- An internal fault of R446: XO_IN lost, the engine's lockstep mismatches, or a brown-out warning. -/
def State.pairFault (s : State) : State :=
  if s.get PAIR.STATUS_ROLE = 2 ∨ s.get PAIR.STATUS_ROLE = 3 then s.goSilent 1 else s

/-- A stream frame held whose L has passed by no more than SPP ÷ r (R452). -/
def State.heldLate (s : State) (f : LaunchFrame) : Bool :=
  decide (f.launch < s.nowNs ∧ s.nowNs ≤ f.launch + s.packetNs f.stream)

/-- Promotion (R449): cause 0 lease and guard, 1 resign, 2 peer silent, 3 forced; `gap` is the time since the last valid peer pulse in ns. -/
def State.promote (s : State) (cause gap : Nat) : State :=
  let gap := min gap 0xFFFFFFFF
  let late := ((s.ports.toList.take 2).map (fun x => (x.stream.filter s.heldLate).length)).sum
  let s := (s.goSolo.count PAIR.PROMOTIONS).countBy PAIR.LATE_SENT late
  let s := (List.range 4).foldl State.gratuitous (s.set PAIR.LAST_GAP gap)
  s.signal PAIR.INT PAIR.INT_EN PAIR.INT_PROMOTED 0x0911 15 0
    ([BitVec.ofNat 8 cause, BitVec.ofNat 8 (s.get PAIR.STATUS_SYNCED), 0, 0] ++ le 4 gap)

/-- Nanoseconds since the last valid peer pulse; the longest a counter holds where none came. -/
def State.pulseAge (s : State) : Nat :=
  match s.pair.lastRx with
  | some t => (s.cycles - t) * 5 / 4
  | none => 0xFFFFFFFF

/-! ## PULSE_RX (R445 to R448) -/

/-- The lease from an echo of one of the unit's own pulses of the last 8 µs: the highest seen counts. -/
def State.takeEcho (s : State) (echo : Nat) : State :=
  match s.pair.sent.find? (fun p => p.1 == echo) with
  | some p =>
    let l := p.2 + leaseCycles
    let l := match s.pair.lease with
      | some m => max m l
      | none => l
    { s with pair := { s.pair with lease := some l } }.set PAIR.STATUS_LEASE_VALID 1
  | none => s

/-- The role state machine on a valid pulse of a peer in role `pr`. -/
def State.roleOnPulse (s : State) (pr : Nat) (resign synced : Bool) (echo : Nat) : State :=
  let drives := pr == 2 || pr == 3
  let own := s.pair.sent.any (fun p => p.1 == echo && decide (s.cycles ≤ p.2 + leaseCycles))
  match s.get PAIR.STATUS_ROLE with
  | 1 =>
    if drives then s.startResync
    else if pr = 1 ∧ s.get PAIR.STATUS_SIDE = 0 then s.goSolo
    else s
  | 2 =>
    if pr = 5 ∧ synced ∧ own then
      (({ s with pair := { s.pair with lease := none } }.setRole 3).takeEcho echo)
    else s
  | 3 => if pr = 1 ∨ pr = 4 then s.goSolo else s.takeEcho echo
  | 5 => if resign then s.promote 1 0 else if pr = 6 then s.promote 2 0 else s
  | 6 => if drives then s.startResync else s
  | _ => s

/-- Two pass numbers that differ by more than 1, modulo 2^32. -/
def passApart (a b : Nat) : Bool := decide (1 < (a + 2 ^ 32 - b) % 2 ^ 32 ∧ 1 < (b + 2 ^ 32 - a) % 2 ^ 32)

/-- PULSE_RX (R445, R446): the 16 bytes of a pulse arrive from the peer. -/
def execPulseRx (b : List Byte) (s : State) : Out :=
  if s.get PAIR.STATUS_ROLE = 0 then .next s
  else if b.length ≠ 16 ∨ crc16 (b.take 14) ≠ leAt b 14 2 then
    let s := s.count PAIR.PULSE_BAD
    .next (s.signalHeld PAIR.INT PAIR.INT_EN PAIR.INT_PULSE_ERR 0x0915 15 0 (s.get PAIR.CTRL_EVT_HOLDOFF * 1000 * cyclesPerUs)
      ([0, 0, 0, 0] ++ le 4 (s.get PAIR.PULSE_BAD)))
  else
    let pr := leAt b 0 1 % 8
    let s := ((s.count PAIR.PULSE_RX).set PAIR.STATUS_PEER_ROLE pr).set PAIR.STATUS_PEER_SEEN 1
    let x := s.pair
    let x := { x with echo := some (leAt b 2 4), lastRx := some s.cycles, peerSynced := (leAt b 1 1).testBit 0 }
    let x := if pr = 3 then { x with lastActive := some s.cycles } else x
    let s : State := { s with pair := x }
    let s := if passApart (leAt b 10 4) s.lastPass then s.set PAIR.STATUS_SYNCED 0 else s
    let s := s.roleOnPulse pr ((leAt b 0 1).testBit 7) x.peerSynced (leAt b 6 4)
    .next (if pr = 2 ∨ pr = 3 then s.settleWaits [8] (fun _ _ => some 0) (fun _ => []) else s)

/-- PAIR_INIT_TIMEOUT (R446): side A has had no valid pulse for 100 ms since it entered INIT. -/
def execPairInitTimeout (s : State) : Out :=
  .next (if s.get PAIR.STATUS_ROLE = 1 ∧ s.get PAIR.STATUS_SIDE = 0 then s.goSolo else s)

/-- LEASE_EXPIRY (R446, R447): the lease of an ACTIVE unit expires. -/
def execLeaseExpiry (s : State) : Out := .next (if s.get PAIR.STATUS_ROLE = 3 then s.goSilent 0 else s)

/-- PROMOTION_INSTANT (R448): c + 11 µs, c being the receipt of the last peer pulse in ACTIVE that the unit has confirmed; no valid pulse has come after c. -/
def execPromotionInstant (s : State) : Out :=
  .next (if s.get PAIR.STATUS_ROLE = 5 ∧ s.pair.conf.isSome ∧ s.pair.conf = s.pair.lastRx then s.promote 0 11000 else s)

/-- RESYNC_NO_PULSE (R446): no valid pulse for 11 µs in RESYNC. -/
def execResyncNoPulse (s : State) : Out :=
  .next (if s.get PAIR.STATUS_ROLE = 4 then (s.set PAIR.STATUS_PEER_SEEN 0).enterInit else s.set PAIR.STATUS_PEER_SEEN 0)

/-! ## The mirror link -/

/-- ORB_LINK_LOSS (R425, R435, R456): link n loses block lock (cause 0) or has had no valid frame for 20 µs (cause 1). The loss of the mirror link
abandons a resync. -/
def execOrbLinkLoss (n cause : Nat) (s : State) : Out :=
  if 3 < n ∨ s.linkState n < 2 then .next s
  else
    let s := s.orbDown n (if cause = 0 then 0 else 1)
    .next (if n = 3 ∧ s.get PAIR.STATUS_ROLE = 4 then s.enterInit else s)

/-- MIRROR_ROW_RX (R453): a source row of group g and period TAG arrives over ORB3 with its seal; where that does not hold, the unit's own row stays. -/
def execMirrorRowRx (g tag : Nat) (vals : List Int) (sealw : Nat) (s : State) : Out :=
  if !s.standingBy ∨ s.linkState 3 ≠ 3 ∨ !(decide (g < 48) || decide (84 ≤ g ∧ g ≤ 100)) then .next s
  else
    let s := s.orbHeard 3
    let p := nearPeriod s.media tag
    if sealw ≠ blockSeal 2 g p vals then .next s
    else
      let rest := s.pair.rows.filter (fun x => !(x.1 == g && x.2.1 == p) && decide (s.media ≤ x.2.1 + 4))
      .next { s with pair := { s.pair with rows := rest ++ [(g, p, vals)] } }

/-- DIGEST_RX (R455): the driving unit's digest of pass `pass` (low 32 bits) arrives; 48 mismatches in a row send a standby to RESYNC. -/
def execDigestRx (pass digest : Nat) (s : State) : Out :=
  if !s.standingBy ∨ s.linkState 3 ≠ 3 then .next s
  else
    let s := s.orbHeard 3
    match s.pair.digests.find? (fun d => d.1 % 2 ^ 32 == pass % 2 ^ 32) with
    | none => .next s
    | some d =>
      if d.2 = digest then .next { s with pair := { s.pair with matched := s.pair.matched + 1, differ := 0 } }
      else
        let n := s.pair.differ + 1
        let s : State := { s with pair := { s.pair with matched := 0, differ := n } }
        let s := s.count PAIR.DIGEST_DIFF
        let s := s.signalHeld PAIR.INT PAIR.INT_EN PAIR.INT_LOCKSTEP 0x0913 15 0 (s.get PAIR.CTRL_EVT_HOLDOFF * 1000 * cyclesPerUs)
          (le 4 pass ++ le 4 (s.get PAIR.DIGEST_DIFF))
        .next (if 48 ≤ n ∧ s.get PAIR.STATUS_ROLE = 5 then s.startResync else s)

/-! ## Resets of a member (R523) -/

/-- A reset is about to act: a member releases its outputs and sends three pulses, with ROLE SILENT if it drove, else INIT (R521, R523). -/
def State.resetPulses (s : State) : State :=
  let r := s.get PAIR.STATUS_ROLE
  if r = 0 then s
  else
    let say := if r = 2 ∨ r = 3 then 6 else 1
    let s := s.setDrive false
    ((s.sendPulse say false).sendPulse say false).sendPulse say false

/-! ## Control (R446, R449) -/

/-- An engine entry of port p takes the pair MAC, or gives it up (R443). -/
def State.pairMac (s : State) (p : Nat) (on : Bool) : State :=
  let mac := s.streamMac p
  match on, s.entryFor p mac with
  | true, some e => s.setEntry p e mac true
  | true, none => s
  | false, _ =>
    match (List.range 16).find? (fun e => s.on (PORT.MATCH_EN p e) && s.entryMac p e == mac) with
    | some e => s.setEntry p e 0 false
    | none => s

/-- PAIR_EN is applied: from ALONE to INIT, and back from INIT. -/
def State.pairEnable (s : State) (on : Bool) : State :=
  if on then
    if s.on PAIR.CTRL_PAIR_EN then s
    else
      let s := ((s.set PAIR.CTRL_PAIR_EN 1).set (ORB.LINK_MIRROR 3) 1).mirrorCheck
      let s : State := { s with pair := PairState.reset }
      ((List.range 4).foldl (fun s p => s.pairMac p true) s).enterInit
  else if s.on PAIR.CTRL_PAIR_EN then
    let s := (List.range 4).foldl (fun s p => s.pairMac p false) s
    let s := ((s.set PAIR.CTRL_PAIR_EN 0).set (ORB.LINK_MIRROR 3) 0).mirrorCheck
    ((({ s with pair := PairState.reset }.set PAIR.STATUS_PEER_SEEN 0).set PAIR.STATUS_PEER_ROLE 0).setRole 0).setDrive true
  else s

/-- PAIR_EN may change: the class-S fields of the block are idle (R463). -/
def State.pairIdle (s : State) : Bool := s.get PAIR.STATUS_ROLE == 0 || s.get PAIR.STATUS_ROLE == 1

/-- PAIR_FORCE_ACTIVE: in INIT or SILENT, the unit drives. -/
def State.forceActive (s : State) : Option State :=
  if s.get PAIR.STATUS_ROLE = 1 ∨ s.get PAIR.STATUS_ROLE = 6 then some (s.promote 3 s.pulseAge) else none

/-- PAIR_RESIGN (R446, R449): an ACTIVE unit whose peer shows SYNCED goes to STANDBY. A lease that has expired by this cycle comes first (R457). -/
def State.resign (s : State) : Bool × State :=
  if s.get PAIR.STATUS_ROLE ≠ 3 then (false, s)
  else if (s.pair.lease.map (fun t => decide (t ≤ s.cycles))).getD true then (false, s.goSilent 0)
  else if !s.pair.peerSynced then (false, s)
  else
    let s := (s.setDrive false).count PAIR.HANDOVERS
    let s : State := { s with pair := { s.pair with conf := none, lease := none } }
    let s := (s.set PAIR.STATUS_SYNCED 1).setRole 5
    (true, s.sendPulse 5 true)

/-- A host write of PAIR.CTRL; on a moon it has no effect (R422). -/
def State.pairCtrl (s : State) (source w : Nat) : State :=
  let en := w.testBit 8
  if s.isMoon then s
  else
    let s := s.set PAIR.CTRL_EVT_HOLDOFF (w / 2 ^ 24)
    let s := if en ≠ s.on PAIR.CTRL_PAIR_EN ∧ !s.pairIdle then s.cfgReject source 0x1D0000 else s.pairEnable en
    let s := if w.testBit 4 then (match s.forceActive with
        | some t => t
        | none => s.cfgReject source 0x1D0000) else s
    if w.testBit 0 then
      let (ok, s) := s.resign
      if ok then s else s.cfgReject source 0x1D0000
    else s

/-! ## Commands (R459) -/

/-- Write the pair MAC of port p, in network order in its TLV. -/
def State.setPairMac (s : State) (p v : Nat) : State :=
  let on := s.on PAIR.CTRL_PAIR_EN
  let s := if on then s.pairMac p false else s
  let m := swapBytes 6 v
  let s := (s.set (PAIR.PORT_MAC_LO p) m).set (PAIR.PORT_MAC_HI p) (m / 2 ^ 32)
  if on then s.pairMac p true else s

/-- PAIR_SET: PAIR_EN; PAIR_MAC of ports 0 to 3. On a moon it changes nothing (R422). -/
def execPairSet (r : Req) (p : List Tlv) (s : State) : Out :=
  runCmd 0x0910 [popt 1 1 0 1, popt 2 6 0 (2 ^ 48 - 1), popt 3 6 0 (2 ^ 48 - 1), popt 4 6 0 (2 ^ 48 - 1), popt 5 6 0 (2 ^ 48 - 1)] (fun q s =>
    let en := ((Params.val? q 1).getD (s.get PAIR.CTRL_PAIR_EN)) == 1
    if s.isMoon then (Reply.ok [], s)
    else if en ≠ s.on PAIR.CTRL_PAIR_EN ∧ !s.pairIdle then (Reply.errAt Status.notInState q 1, s)
    else
      let one := fun (s : State) (k : Nat) => match Params.val? q (2 + k) with
        | some v => s.setPairMac k v
        | none => s
      (Reply.ok [], ((List.range 4).foldl one s).pairEnable en)) r p s

/-- PAIR_RESIGN (R449): the reply waits until the peer has promoted. -/
def execPairResign (r : Req) (p : List Tlv) (s : State) : Out :=
  match s.refuses r 0x0911 [] p with
  | some e => .next (s.finish r 0x0911 e)
  | none =>
    let (ok, s) := s.resign
    if ok then .next (s.addWait ⟨r, 0x0911, 8, 0, [0], [0], [waiting], [0], [], 0, []⟩)
    else .next (s.finish r 0x0911 (Reply.err Status.notInState))

/-- PAIR_FORCE_ACTIVE (R446). -/
def execPairForceActive (r : Req) (p : List Tlv) (s : State) : Out :=
  runCmd 0x0912 [] (fun _ s => match s.forceActive with
    | some t => (Reply.ok [], t)
    | none => (Reply.err Status.notInState, s)) r p s

/-- LEASE_LEFT, PULSE_AGE and PEER_SEEN as they stand now (R463). -/
def State.pairLive (s : State) : State :=
  let left := (s.pair.lease.map (fun t => (t - s.cycles) * 5 / 4)).getD 0
  let s := s.set PAIR.LEASE_LEFT (if s.get PAIR.STATUS_ROLE = 3 then min left 8000 else 0)
  let age := s.pulseAge
  (s.set PAIR.PULSE_AGE (min age 0xFFFF)).setOn PAIR.STATUS_PEER_SEEN (s.get PAIR.STATUS_ROLE != 0 && decide (age ≤ 11000))

/-- PAIR_STATUS_GET: STATUS, LEASE_LEFT, PULSE_AGE, RESYNC_PHASE, LAST_GAP and the counters. -/
def execPairStatusGet (r : Req) (p : List Tlv) (s : State) : Out :=
  runCmd 0x0913 [] (getBody (fun _ s =>
    let s := s.pairLive
    le 4 (s.word PAIR.fields 0x1D0004) ++ [PAIR.LEASE_LEFT, PAIR.PULSE_AGE, PAIR.RESYNC_PHASE, PAIR.LAST_GAP, PAIR.PULSE_TX, PAIR.PULSE_RX,
      PAIR.PULSE_BAD, PAIR.PROMOTIONS, PAIR.SILENCES, PAIR.HANDOVERS, PAIR.DIGEST_DIFF, PAIR.MIRROR_MISS, PAIR.WITHHELD,
      PAIR.LATE_SENT].flatMap (fun f => le 4 (s.get f)))) r p s

/-- PAIR_RESYNC: a standby starts its resync again; a driving unit asks its peer to. -/
def execPairResync (r : Req) (p : List Tlv) (s : State) : Out :=
  runCmd 0x0914 [] (fun _ s =>
    let role := s.get PAIR.STATUS_ROLE
    if s.standingBy then (Reply.ok [], s.startResync)
    else if role = 2 ∨ role = 3 then (Reply.ok [], s.askResync)
    else (Reply.err Status.notInState, s)) r p s

end Sys2Proof.Machine
end

