-- ==== Sys2Proof/Machine/Temper.lean ====
section
/-! DEFINITION. Temper (chapter 14, R465 to R488): the schedule, slices, commanded runs and their commands. -/

namespace Sys2Proof.Machine

/-! ## Parameters of a run (R465, R468) -/

/-- MODE is permitted for the set. -/
def modePermitted (set mode : Nat) : Bool := if set = 1 then decide (1 ≤ mode ∧ mode ≤ 3) else mode == 0

/-- Slices of a reference run. -/
def refSlices (set mode : Nat) : Nat :=
  if set = 0 then 256
  else if set = 1 then (if mode = 2 then 5 else if mode = 3 then 3 else 2)
  else if set = 2 then 128 else if set = 3 then 64 else if set = 4 then 96 else if set = 5 then 160 else 64

/-- DONE_COUNT of a slice that reaches its count: patterns, or operations ÷ 16. The last slice of MATS+ is half as long. -/
def fullCount (set mode index : Nat) : Nat :=
  if set = 0 then 96
  else if set = 1 then (if mode = 3 ∧ index = 2 then 4096 else 8192)
  else if set = 2 then 144 else if set = 3 then 160 else if set = 4 then 96 else if set = 5 then 80 else 120

/-- Duration of a whole slice in ns: 4 µs of set-up, its count, 2 µs of unloading (R466, R467). -/
def fullNs (set mode index : Nat) : Nat :=
  6000 + fullCount set mode index * (if set = 1 then 20 else patternNs set)

/-! ## Slices -/

/-- A slice starts. -/
def State.startSlice (s : State) (c : Slice) : State :=
  let c := { c with start := s.cycles }
  let s := ({ s with test := { s.test with slice := some c } }.count TEST.SLICES).set TEST.STATUS_SLICE_ACTIVE 1
  let s := ((s.set TEST.STATUS_SLICE_SET c.set).set TEST.STATUS_SLICE_UNIT_NOW c.unit).set TEST.LAST_SIG_VALID 0
  ((s.set TEST.LAST_SLICE_UNIT c.unit).set TEST.LAST_SLICE_INDEX c.index).set TEST.LAST_SLICE_START s.shortTime

/-- Set s may take its turn (R474): the unit it tests next. -/
def State.turnUnit (s : State) (set : Nat) : Option Nat :=
  if s.bit TEST.SETS_EN set && !s.bit TEST.STATUS_PAUSED set && !(s.setRun set).handover then s.spareOf set else none

/-- TEMPER_TURN (R473, R474): GAP after the last scheduled slice, the next set that does not lose its turn starts a slice on its SPARE or TEST unit. -/
def execTemperTurn (s : State) : Out :=
  if !s.schedules ∨ s.test.slice.isSome ∨ s.test.run.isSome ∨ s.test.rep.isSome then .next s
  else
    let s := s.boundary .turn (fun _ => true)
    let t := s.test.turn
    match [t % 3, (t + 1) % 3, (t + 2) % 3].find? (fun x => (s.turnUnit x).isSome) with
    | none => .next s
    | some x =>
      let u := (s.turnUnit x).getD 0
      let s := if s.role x u = 2 ∧ s.get (TEST.SET_UNIT x) = u then s
        else ((s.set (roleFld x u) 2).set (TEST.SET_UNIT x) u).set (TEST.SET_NEXT_SLICE x) 0
      let s : State := { s with test := { s.test with turn := (x + 1) % 3 } }
      .next (s.startSlice ⟨x, u, s.get (TEST.SET_NEXT_SLICE x), if x = 1 then 1 else 0, false, false, 0⟩)

/-- A handover of what unit u of a set carries to the set's spare starts (R184, R216, R282). -/
def State.handOver (s : State) (set u : Nat) : State :=
  if set = 0 then s.startLane (s.get (STRM.HAMMER_LANE u))
  else if set = 1 then s.startHandover u
  else s.startUnit (s.get (ANVIL.MU_LUNIT u))

/-- The reference run of unit u has passed (R473): the unit returns to SPARE, a cycle may have ended, and the next WORKING unit is handed over. -/
def State.rotate (s : State) (set u : Nat) : State :=
  let x := s.setRun set
  let n := setUnits set
  let s := (s.dropRun set).set (roleFld set u) 1
  let passed := x.passed.filter (fun v => v != u) ++ [u]
  let all := (List.range n).all (fun v => s.role set v == 4 || passed.contains v)
  let s := if all then
      let secs := (s.cycles - x.since) / (1000000 * cyclesPerUs)
      let s := (s.putSetRun set { x with passed := [], since := s.cycles }).count (TEST.SET_CYCLES set)
      (s.set (TEST.SET_LAST_CYCLE set) secs).signal TEST.INT TEST.INT_EN TEST.INT_CYCLE_DONE 0x0A05 16 (testUnit set 0)
        ([BitVec.ofNat 8 set, 0, 0, 0] ++ le 4 (min secs 0xFFFFFFFF))
    else s.putSetRun set { x with passed := passed }
  match ((List.range n).map (fun k => (u + k + 1) % n)).find? (fun v => s.role set v == 0) with
  | some v => s.handOver set v
  | none => s

/-- A unit or target has failed a slice (R471). -/
def State.testFail (s : State) (c : Slice) (sig : Nat) : State :=
  let detail := [BitVec.ofNat 8 c.set, BitVec.ofNat 8 c.unit] ++ le 2 c.index ++ le 4 sig
  let s := (s.set (TEST.REC_FAILED (tRec c.set c.unit)) 1).faultEvent 0x0A01 16 (testUnit c.set c.unit) detail
  let s := s.signal TEST.INT TEST.INT_EN TEST.INT_FAIL 0x0A01 16 (testUnit c.set c.unit) detail
  if c.set = 0 then s.hammerFail c.unit 5 else if c.set = 1 then s.bankFail c.unit 3 else if c.set = 2 then s.unitFail c.unit 3 0 else s

/-- Slices the commanded run has. -/
def State.runLength (s : State) (x : CmdRun) : Nat := if x.ref then refSlices x.set x.mode else s.get TEST.RUN_SLICES

/-- A commanded run that waits for its target makes ready (R478): a WORKING unit is handed over once the spare runs no slice; a bank of N5_MEMTEST that
has nowhere to go fails its part. -/
def State.prepareRun (s : State) : State :=
  match s.test.run with
  | none => s
  | some x =>
    if !x.wait then s
    else
      let ready := fun (s : State) => { s with test := { s.test with run := some { x with wait := false } } }
      if 3 ≤ x.set ∨ s.role x.set x.unit = 4 then ready s
      else if s.role x.set x.unit = 1 ∨ s.role x.set x.unit = 2 then
        let mine := match s.test.slice with
          | some c => c.set == x.set && c.unit == x.unit
          | none => false
        if mine then s else ready ((s.dropRun x.set).set (roleFld x.set x.unit) 2)
      else if s.role x.set x.unit = 0 then
        match s.spareOf x.set with
        | some v =>
          let busy := match s.test.slice with
            | some c => c.set == x.set && c.unit == v
            | none => false
          if busy then s else ((s.dropRun x.set).set (roleFld x.set v) 1).handOver x.set x.unit
        | none => if (s.setRun x.set).handover then s else s.nextBank x (x.done ++ [Status.notInState]) 5
      else s

/-- The commanded run has had all its slices, and ends. -/
def State.runCheck (s : State) : State :=
  match s.test.run with
  | some x =>
    let n := s.runLength x
    if x.wait ∨ s.test.slice.isSome ∨ s.test.rep.isSome ∨ s.get TEST.RUN_DONE < n then s.prepareRun
    else (s.endRun (if x.failed then 3 else if x.ref ∧ x.passes = n then 2 else 4)).prepareRun
  | none => s

/-- A slice ends at its full count (R470, R471). -/
def State.sliceEnd (s : State) (sig expect : Nat) (bad : Bool) : State :=
  match s.test.slice with
  | none => s
  | some c =>
    let mem := c.set == 1
    let ref := !c.cmd || (match s.test.run with
      | some x => x.ref
      | none => false)
    let sig := if mem && !bad then 0 else sig % 2 ^ 64
    let expect := if mem || !ref then 0 else expect % 2 ^ 64
    let differs := if mem then bad else ref && sig != expect
    let s := (s.noSlice.lastSlice c).set TEST.LAST_DONE_COUNT (fullCount c.set c.mode c.index)
    let s := ((s.set TEST.LAST_SIG_LO sig).set TEST.LAST_SIG_HI (sig / 2 ^ 32)).set TEST.LAST_SLICE_DUR (fullNs c.set c.mode c.index)
    let s := (s.set TEST.LAST_EXP_LO expect).set TEST.LAST_EXP_HI (expect / 2 ^ 32)
    if differs ∧ !c.rep then { s with test := { s.test with rep := some { c with rep := true } } }
    else
      let outcome := if differs then 2 else if mem || ref then 1 else 3
      let s : State := { s with test := { s.test with rep := none } }
      let s := (s.set TEST.LAST_SIG_VALID 1).set TEST.LAST_OUTCOME outcome
      let s := s.count (if outcome = 1 then TEST.SLICES_PASS else if outcome = 2 then TEST.SLICES_FAIL else TEST.SLICES_DONE)
      let s := if outcome = 1 ∧ c.rep then
          (s.count TEST.TRANSIENTS).signalHeld TEST.INT TEST.INT_EN TEST.INT_TRANSIENT 0x0A06 16 (testUnit c.set c.unit)
            (s.get TEST.CTRL_EVT_HOLDOFF * 1000 * cyclesPerUs) ([BitVec.ofNat 8 c.set, BitVec.ofNat 8 c.unit] ++ le 2 c.index)
        else s
      let s := s.noteSlice c (outcome = 1) (some sig)
      let fail := fun (x : CmdRun) => { x with failed := true }
      let s := if outcome = 2 then
          (if c.cmd then { s with test := { s.test with run := s.test.run.map fail } } else s).testFail c sig
        else s
      if c.cmd ∨ outcome ≠ 1 ∨ s.get (TEST.SET_UNIT c.set) ≠ c.unit ∨ s.role c.set c.unit ≠ 2 then s.runCheck
      else if (s.test.run.map (fun x => x.set == c.set)).getD false then s.prepareRun
      else
        let s := s.set (TEST.SET_NEXT_SLICE c.set) (c.index + 1)
        (if c.index + 1 < refSlices c.set c.mode then s else s.rotate c.set c.unit).prepareRun

/-- A slice is stopped before its count, and the run it belongs to goes on. -/
def State.sliceCut (s : State) (cause : Nat) : State := (s.stopSlice 4 cause).runCheck

/-- SLICE_REPEAT (R471): a slice with an unconfirmed mismatch is run again, ahead of any other. -/
def execSliceRepeat (s : State) : Out :=
  match s.test.rep, s.test.slice with
  | some c, none => .next (s.startSlice c)
  | _, _ => .next s

/-- COMMANDED_SLICE_START (R478): 250 µs after the last, the next slice of a commanded run starts. -/
def execCommandedSliceStart (s : State) : Out :=
  let s := s.prepareRun
  match s.test.run with
  | some x =>
    if x.wait ∨ s.test.slice.isSome ∨ s.test.rep.isSome then .next s
    else .next (s.startSlice ⟨x.set, x.unit, s.get TEST.RUN_DONE, x.mode, true, false, 0⟩)
  | none => .next s

/-! ## Ending a run (R481) -/

/-- TEST_STOP, and a change of life-cycle state (cause 2): the commanded run ends STOPPED. -/
def State.testStop (s : State) (cause : Nat) : State :=
  match s.test.run with
  | none => s
  | some x =>
    let mine := (s.test.slice.map (fun c => c.cmd)).getD false
    let s := if mine then s.stopSlice 4 cause else s
    let s : State := { s with test := { s.test with rep := none, run := some { x with banks := [], first :=
      match s.test.run with
      | some y => y.first
      | none => x.first } } }
    s.endRun 5

/-- ACCESS follows the life-cycle state (R482). -/
def State.testAccess (s : State) : State :=
  let l := s.lifecycle
  s.set TEST.STATUS_ACCESS (if l = 1 ∨ l = 4 then 2 else if l = 2 ∨ l = 3 then 1 else 0)

/-! ## Commands (R484) -/

/-- The words of registers at these offsets. -/
def testWords (s : State) (l : List Nat) : List Byte := l.flatMap (fun o => le 4 (s.word TEST.fields (0x1E0000 + o)))

/-- TEST_STATUS_GET: CLEAR. -/
def execTestStatusGet (r : Req) (p : List Tlv) (s : State) : Out :=
  runCmd 0x0A01 [popt 1 1 0 1] (fun q s =>
    let pay := testWords s [4, 0x10, 0x40, 0x44, 0x48, 0x4C, 0x20, 0x24, 0x28, 0x2C, 0x100, 0x104, 0x108, 0x110, 0x114, 0x118, 0x120, 0x124,
      0x128, 0x80, 0x84, 0x88, 0x8C, 0x90, 0x94, 0x98, 0x9C, 0xA0]
    (Reply.ok pay, if Params.val q 1 = 1 then { s with regs := s.regs.resetRange (0x1E0080 * 32) (0x1E00A4 * 32) } else s)) r p s

/-- TEST_SCHED_SET: SETS_EN; GAP (R474, R482). -/
def execTestSchedSet (r : Req) (p : List Tlv) (s : State) : Out :=
  runCmd 0x0A02 [popt 1 1 0 7, popt 2 2 0 0x3FF] (fun q s =>
    if s.lifecycle = 0 ∨ s.lifecycle = 5 then (Reply.err Status.notInState, s)
    else
      let s := match Params.val? q 1 with
        | some v => s.setB TEST.SETS_EN .turn v
        | none => s
      (Reply.ok [], match Params.val? q 2 with
        | some v => s.setB TEST.GAP .turn v
        | none => s)) r p s

/-- A non-replicated target is idle (R478). -/
def State.targetIdle (s : State) (set u : Nat) : Bool :=
  if set = 3 then s.tdmGroupIdle u
  else if set = 4 then !s.isNi && (s.ampState u == 0 || s.ampState u == 5)
  else if set = 5 then !s.on (PORT.PORT_EN u)
  else !s.on (ORB.LINK_EN u)

/-- TEST_RUN is permitted on the set in this life-cycle state (R482). -/
def State.runAllowed (s : State) (set : Nat) : Bool := s.lifecycle == 4 || (s.lifecycle == 1 && decide (set < 3))

/-- A run on unit u of a set is accepted. -/
def State.beginRun (s : State) (x : CmdRun) : State :=
  let s := ((s.set TEST.RUN_SET x.set).set TEST.RUN_UNIT x.unit).set TEST.RUN_MODE x.mode
  let s := ((s.setOn TEST.RUN_REFERENCE x.ref).set TEST.RUN_DONE 0).set TEST.RUN_OUTCOME 1
  ({ s with test := { s.test with run := some x } }.set TEST.STATUS_CMD_RUN 1).prepareRun

/-- TEST_RUN: SET; UNIT; MODE; REFERENCE; SEED; SLICES (R478). The reply comes when the run ends. -/
def execTestRun (r : Req) (p : List Tlv) (s : State) : Out :=
  match s.refuses r 0x0A03 [popt 1 1 0 6, popt 2 1 0 31, popt 3 1 0 3, popt 4 1 0 1, popt 5 4 0 0xFFFFFFFF, popt 6 2 0 0xFFFF] p with
  | some e => .next (s.finish r 0x0A03 e)
  | none =>
    let f := fun (ty : Nat) (g : Fld) => (Params.val? p ty).getD (s.get g)
    let (set, unit, mode) := (f 1 TEST.RUN_SET, f 2 TEST.RUN_UNIT, f 3 TEST.RUN_MODE)
    let ref := f 4 TEST.RUN_REFERENCE == 1
    let n := f 6 TEST.RUN_SLICES
    let fail := fun (rep : Reply) => Host.Outcome.next (s.finish r 0x0A03 rep)
    if 6 < set ∨ setUnits set ≤ unit then fail (Reply.errAt Status.badParam p (if 6 < set then 1 else 2))
    else if !modePermitted set mode then fail (Reply.errAt Status.badParam p 3)
    else if !ref ∧ n = 0 then fail (Reply.errAt Status.badParam p 6)
    else if !s.runAllowed set ∨ s.test.run.isSome then fail (Reply.err Status.notInState)
    else if (if set < 3 then s.role set unit == 3 || (s.role set unit == 0 && (s.spareOf set).isNone) else !s.targetIdle set unit) then
      fail (Reply.err Status.notInState)
    else
      let s := (s.set TEST.RUN_SEED (f 5 TEST.RUN_SEED)).set TEST.RUN_SLICES (if ref then s.get TEST.RUN_SLICES else n)
      .next (s.beginRun ⟨r.channel, r.tag, 0x0A03, set, unit, mode, ref, 0, 0xFFFF, false, false, 0, true, [], []⟩)

/-- TEST_RESULT_GET: SET; UNIT. -/
def execTestResultGet (r : Req) (p : List Tlv) (s : State) : Out :=
  runCmd 0x0A05 [preq 1 1 0 6, preq 2 1 0 31] (fun q s =>
    let (set, u) := (Params.val q 1, Params.val q 2)
    if setUnits set ≤ u then (Reply.errAt Status.badParam q 2, s)
    else
      let last := s.get TEST.LAST_OUTCOME != 0 && s.get TEST.LAST_SET == set && s.get TEST.LAST_SLICE_UNIT == u
      (Reply.ok (testWords s [0x200 + 4 * tRec set u] ++ (if last then testWords s [0x40, 0x48, 0x4C] else [])), s)) r p s

end Sys2Proof.Machine
end

