-- ==== Sys2Proof/Machine/Life.lean ====
section
/-! DEFINITION. Ephemeris (chapter 15): the calendar, the lifetime record, life-cycle states, tokens and keys, identity and firmware (R489 to R518). Configuration
images are in Image.lean. Layouts of reply payloads the spec does not give are the model's (DESIGN CHOICE, assumption 35). -/

namespace Sys2Proof.Machine

def State.withLife (s : State) (x : LifeState) : State := { s with life := x }

/-! ## The calendar (R491 to R494) -/

/-- A signed 32-bit register takes a number, saturating. -/
def State.calStep (s : State) (d : Int) : State := s.seti LIFE.CAL_STEP d

/-- The calendar takes whole seconds, with a fraction of 0. -/
def State.calLoad (s : State) (sec : Nat) : State :=
  let new : Nat := sec % 2 ^ 48 * 32768
  let s := s.calStep ((new : Int) - s.life.cal)
  (s.withLife { s.life with cal := new }).set LIFE.STATUS_CAL_VALID 1

/-- TRIM within ±200,000 ppb. -/
def State.trim (s : State) : Int := clampInt (-200000) 200000 (s.geti LIFE.TRIM)

/-- DPLL0 is LOCKED on a reference that CLK.TRACE names (R493). -/
def State.tracedLock (s : State) : Bool :=
  s.get (CLK.DPLL_STATE 0) == 3 && s.on (CLK.DPLL_SEL_VALID 0) && s.bit CLK.TRACE (s.get (CLK.DPLL_SEL_REF 0))

/-- SYNC_PERIOD seconds have passed since the last synchronisation, or none has taken place since the start (R493). -/
def State.syncDue (s : State) : Bool := s.life.lastSync.all (fun t => decide (t + max 1 (s.get LIFE.SYNC_PERIOD) ≤ s.calSec))

/-- CAL_SYNC (R493): at a second boundary of the counter, SYNC_PERIOD after the last synchronisation, the calendar takes the counter's seconds. TRIM's
increase is rounded toward zero (DESIGN CHOICE, assumption 125). -/
def execCalSync (s : State) : Out :=
  if s.syncDue ∧ s.on LIFE.CTRL_CAL_SYNC_EN ∧ s.on TIME.STATUS_MEDIA_VALID ∧ s.tracedLock then
    let sec := s.ctr / ctrPerSec
    let last := s.life.lastSync
    let s := s.calLoad sec
    let s := (s.withLife { s.life with lastSync := some sec }).set LIFE.LAST_SYNC sec
    let s := match last with
      | some t =>
        let n : Int := (sec : Int) - t
        if s.on LIFE.CTRL_AUTO_TRIM ∧ 0 < n then
          s.seti LIFE.TRIM (clampInt (-200000) 200000 (s.trim + (s.geti LIFE.CAL_STEP * 1000000000).tdiv (32768 * n)))
        else s
      | none => s
    .next (s.signal LIFE.INT LIFE.INT_EN LIFE.INT_CAL_SYNC 0x0B01 17 0 (le 4 (s.get LIFE.CAL_STEP) ++ le 4 (s.get LIFE.TRIM)))
  else .next s

/-- One count of the AON clock: the calendar advances by one, TRIM adding or withholding a count as its correction reaches one (R492). -/
def State.calCount (s : State) : State :=
  if s.life.aonLost && !s.life.vbak then s
  else
    let a := s.life.trimAcc + s.trim
    let (n, a) := if 1000000000 ≤ a then (2, a - 1000000000) else if a ≤ -1000000000 then (0, a + 1000000000) else (1, a)
    s.withLife { s.life with cal := (s.life.cal + n) % 2 ^ 63, trimAcc := a }

/-- CAL_SUB_READ (R492): a host read of CAL_SUB latches the seconds. -/
def execCalSubRead (s : State) : Out :=
  let sec := s.calSec
  let rest := s.latch.filter (fun x => x.1 != 0x1F0014 && x.1 != 0x1F0018)
  .next { s with rd := s.life.cal % 32768, latch := rest ++ [(0x1F0014, sec % 2 ^ 32), (0x1F0018, sec / 2 ^ 32)] }

/-- CAL_SET: Seconds; UTC_OFFSET (R494). -/
def execCalSet (r : Req) (p : List Tlv) (s : State) : Out :=
  runCmd 0x0B04 [popt 1 8 0 (2 ^ 48 - 1), psig 2 2 16] (fun q s =>
    let s := match Params.val? q 1 with
      | some v => s.calLoad v
      | none => s
    (Reply.ok [], match Params.val? q 2 with
      | some v => s.set LIFE.UTC_OFFSET v
      | none => s)) r p s

/-- VBAK_LOW (R491): VBAK falls below 2.1 V. -/
def execVbakLow (s : State) : Out :=
  if s.on LIFE.STATUS_VBAK_LOW then .next s
  else .next ((s.set LIFE.STATUS_VBAK_LOW 1).signal LIFE.INT LIFE.INT_EN LIFE.INT_VBAK_LOW 0x0B02 17 0 [])

/-- VBAK_RECOVER (R491): VBAK rises back above 2.1 V. -/
def execVbakRecover (s : State) : Out := .next ((s.withLife { s.life with vbak := true }).set LIFE.STATUS_VBAK_LOW 0)

/-- VDD_AON_LOSS (R519, R491): VDD_AON falls below 1.55 V; the AON domain runs from VBAK, or, with `vbak` false, loses all supply. -/
def execVddAonLoss (vbak : Bool) (s : State) : Out := .next (s.withLife { s.life with aonLost := true, vbak := vbak, aonDead := s.life.aonDead || !vbak })

/-- VDD_AON_RETURN (R519). Where the AON domain had lost all supply, the next start finds so (R491, R496). -/
def execVddAonReturn (s : State) : Out := .next (s.withLife { s.life with aonLost := false })

/-! ## The lifetime record (R496 to R499) -/

/-- The lifetime counters, in the order of R518. -/
def lifeCounters : List Fld :=
  [LIFE.POWER_ON_MIN, LIFE.DORMANT_MIN, LIFE.VBAK_MIN, LIFE.POWER_CYCLES, LIFE.WARM_RESETS, LIFE.BROWNOUTS, LIFE.THERMAL_CYCLES,
   LIFE.TJ_BAND 0, LIFE.TJ_BAND 1, LIFE.TJ_BAND 2, LIFE.TJ_BAND 3, LIFE.TJ_BAND 4, LIFE.TJ_BAND 5, LIFE.TJ_BAND 6, LIFE.TJ_BAND 7]

/-- A checkpoint of every counter is written to region 4. -/
def State.checkpoint (s : State) : State :=
  (s.withLife { s.life with ckpt := lifeCounters.map s.get, ckptCal := s.life.cal, sinceCkpt := 0 }).wearLife 1

/-- CHECKPOINT_HOURLY (R496): 60 minutes of power-on time. -/
def execCheckpointHourly (s : State) : Out := .next s.checkpoint

/-- The counters are restored from the last checkpoint, and the calendar counts on from it (R491, R496). -/
def State.restoreLife (s : State) : State :=
  let s := (lifeCounters.zip s.life.ckpt).foldl (fun s x => s.set x.1 x.2) s
  let s := (s.withLife { s.life with cal := s.life.ckptCal, aonDead := false }).set LIFE.STATUS_AON_RESTORED 1
  (s.set LIFE.STATUS_CAL_VALID 0).signal LIFE.INT LIFE.INT_EN LIFE.INT_CAL_LOST 0x0B03 17 0 (le 8 (s.life.ckptCal / 32768))

/-- Band of a temperature in 0.01 °C (R498). -/
def tjBand (t : Int) : Nat :=
  if t < 0 then 0 else if t < 2500 then 1 else if t < 5000 then 2 else if t < 7000 then 3 else if t < 8500 then 4
  else if t < 9500 then 5 else if t < 10500 then 6 else 7

/-- The cycle detector takes a sample: whether it completes a cycle. -/
def TjState.cycle (x : TjState) (dt t : Int) : Bool × TjState :=
  if !x.any then (false, { x with low := t, high := t })
  else if x.risen then
    let h := max x.high t
    if dt ≤ h - t then (true, { x with risen := false, low := t, high := h }) else (false, { x with high := h })
  else
    let l := min x.low t
    if dt ≤ t - l then (false, { x with risen := true, low := l, high := t }) else (false, { x with low := l })

/-- TJ_SAMPLE (R498): the junction temperature sensor gives `t`, in 0.01 °C. -/
def execTjSample (t : Int) (s : State) : Out :=
  let t := clampInt (-32768) 32767 t
  let x := s.life.tj
  let dt : Int := (100 * clampNat 10 100 (s.get LIFE.THERM_DT) : Nat)
  let (done, y) := x.cycle dt t
  let s := s.withLife { s.life with tj := { y with any := true, sum := y.sum + t, count := y.count + 1 } }
  let s := s.seti SYS.TJ t
  let s := if !x.any ∨ s.geti LIFE.TJ_MAX < t then s.seti LIFE.TJ_MAX t else s
  let s := if !x.any ∨ t < s.geti LIFE.TJ_MIN then s.seti LIFE.TJ_MIN t else s
  .next (if done then s.countSat LIFE.THERMAL_CYCLES else s)

/-- The mean of the minute that ends counts in its band and in TJ_MEAN. -/
def State.tjMinute (s : State) : State :=
  let x := s.life.tj
  if x.count = 0 then s
  else
    let mean := divRound x.sum x.count
    let y := { x with sum := 0, count := 0, meanSum := x.meanSum + mean, meanCount := x.meanCount + 1 }
    ((s.withLife { s.life with tj := y }).countSat (LIFE.TJ_BAND (tjBand mean))).seti LIFE.TJ_MEAN (divRound y.meanSum y.meanCount)

/-- One more power-on minute of SERVICE (R502). -/
def State.serviceMinute (s : State) : State :=
  let left := s.get LIFE.SERVICE_LEFT
  if s.lifecycle ≠ 4 ∨ left = 0xFFFF ∨ left = 0 then s
  else if s.life.serviceMin + 1 < 60 then s.withLife { s.life with serviceMin := s.life.serviceMin + 1 }
  else (s.withLife { s.life with serviceMin := 0 }).set LIFE.SERVICE_LEFT (left - 1)

/-- AON_MINUTE (R497, R498): a minute passes. -/
def execAonMinute (s : State) : Out :=
  if s.life.aonLost then .next (if s.life.vbak then s.countSat LIFE.VBAK_MIN else s)
  else if s.boot.dormant then .next (s.countSat LIFE.DORMANT_MIN)
  else if s.boot.porst then .next s
  else
    let s := (s.countSat LIFE.POWER_ON_MIN).tjMinute.serviceMinute
    .next (s.withLife { s.life with sinceCkpt := s.life.sinceCkpt + 1 })

/-- The least-squares slope of a list of samples, newest last, in ps per 10,000 hours; samples lie 24 hours apart (R499). -/
def marginTrend (l : List Nat) : Int :=
  let n : Int := l.length
  let ys := l.map (fun y => (y : Int))
  let xs := (List.range l.length).map (fun x => (x : Int))
  let sxy := (xs.zipWith (fun x y => x * y) ys).sum
  let den := 24 * (n * (xs.map (fun x => x * x)).sum - xs.sum * xs.sum)
  if den = 0 then 0 else divRound ((n * sxy - xs.sum * ys.sum) * 10000) den.toNat

/-- PROJ_YEARS from MARGIN_MIN and TREND. -/
def projYears (m : Nat) (trend : Int) : Nat :=
  if 0 ≤ trend then 255 else min 255 (m * 10000 / (8760 * trend.natAbs))

/-- MARGIN_MEASURE (R499): every 1,440 power-on minutes the margins of M0 to M15 are measured, in ps. -/
def execMarginMeasure (margins : List Nat) (s : State) : Out :=
  let ms := (List.range 16).map (fun m => min (nth margins m 0) 0xFFFF)
  let least := ms.foldl min 0xFFFF
  let s := (List.range 16).foldl (fun s m => s.set (LIFE.MARGIN m) (nth ms m 0)) s
  let x := s.life
  let all := x.samples ++ [(⟨s.calSec, ms⟩ : MarginSample)]
  let gone := all.take (all.length - 365)
  let first := x.sampleNo + 1 - all.length
  let kept := gone.filter (fun _ => first % 30 == 0)
  let s := (s.withLife { x with samples := all.drop (all.length - 365), kept := x.kept ++ kept, sampleNo := x.sampleNo + 1 }).wearLife 1
  let trend := clampInt (-(2 ^ 31)) (2 ^ 31 - 1) (marginTrend (s.life.samples.map (fun m => m.margins.foldl min 0xFFFF)))
  let years := projYears least trend
  let s := ((s.set LIFE.MARGIN_MIN least).seti LIFE.TREND trend).set LIFE.PROJ_YEARS years
  .next (if least < s.get LIFE.MARGIN_WARN ∨ years < 5 then
      s.signal LIFE.INT LIFE.INT_EN LIFE.INT_MARGIN 0x0B05 17 0 (le 2 least ++ [BitVec.ofNat 8 years, 0] ++ leI 4 trend)
    else s)

/-! ## Tokens (R504) -/

/-- The hardware EUI-64. -/
def State.hwEui (s : State) : Nat := s.get LIFE.HW_EUI_HI * 2 ^ 32 + s.get LIFE.HW_EUI_LO

/-- A token of KIND whose PLEN bytes satisfy `ok` holds. Whatever the answer, its nonce is spent. -/
def State.token (s : State) (kind plen : Nat) (ok : List Byte → Bool) (t : List Byte) : Bool × State :=
  let n := 28 + plen
  let good := t.length == n + 64 && leAt t 0 2 == kind && leAt t 2 2 == plen && beAt t 4 8 == s.hwEui && s.life.nonce.length == 16 &&
    (t.drop 12).take 16 == s.life.nonce && ok ((t.drop 28).take plen) && edVerify s.life.owner (t.take n) (t.drop n)
  (good, s.withLife { s.life with nonce := [] })

/-- LC_NONCE_GET (R504): a fresh nonce, which replaces the last one. -/
def execLcNonceGet (r : Req) (p : List Tlv) (s : State) : Out :=
  runCmd 0x0B05 [] (fun _ s =>
    let (v, s) := s.fresh 128
    (Reply.ok (le 16 v), s.withLife { s.life with nonce := le 16 v })) r p s

/-- NONCE_EXPIRY (R504): 10 minutes after it was issued, or at a reset. -/
def execNonceExpiry (s : State) : Out := .next (s.withLife { s.life with nonce := [] })

/-! ## Life-cycle states (R501 to R503) -/

/-- Entry to RETIRED erases keys and any adopted identity (R503). The four key slots hold no key again. -/
def State.eraseKeys (s : State) : State :=
  let x := s.life
  let own : Identity := ⟨s.hwEui, x.ident.macs, [], false⟩
  let id := if x.ident.adopted then own else x.ident
  let s := s.withLife { x with owner := [], unitPub := [], unitSeed := [], cert := [], keys := Vector.replicate 4 (0, []), ident := id,
                               nextIdent := none }
  let s := (s.set LIFE.STATUS_CERT_VALID 0).set LIFE.STATUS_IDENTITY_SRC 0
  ((s.set LIFE.ID_EUI_LO id.eui).set LIFE.ID_EUI_HI (id.eui / 2 ^ 32)).wear 5 1

/-- A transition takes effect (R501): cause 0 by command, 1 by expiry. -/
def State.lcTo (s : State) (new cause : Nat) : State :=
  let old := s.lifecycle
  let s := s.set LIFE.STATUS_LC_STATE new
  let s := if old = 4 ∨ new = 4 then s.wear 5 1 else s
  let s := s.closeSessions (fun _ => true) 4
  let s := if (old = 1 ∨ old = 4) ∧ ¬ (new = 1 ∨ new = 4) then s.testStop 2 else s
  let s := if new = 5 then (if s.test.slice.isSome then s.sliceCut 2 else s).eraseKeys else s
  let s := if new = 4 then s else (s.withLife { s.life with serviceMin := 0 }).set LIFE.SERVICE_LEFT 0
  let d := [BitVec.ofNat 8 old, BitVec.ofNat 8 new, BitVec.ofNat 8 cause]
  (s.testAccess.faultEvent 0x0B06 17 0 d).checkpoint.signal LIFE.INT LIFE.INT_EN LIFE.INT_LC 0x0B06 17 0 d

/-- The kind of token a transition needs: none where it needs no token, or the transition does not exist. -/
def lcToken (old new : Nat) : Option (Option Nat) :=
  if old = 1 ∧ new = 5 then some none
  else if old = 2 ∧ new = 3 then some none
  else if old = 3 ∧ new = 4 then some (some 1)
  else if old = 4 ∧ new = 3 then some (some 2)
  else if (old = 2 ∨ old = 3 ∨ old = 4) ∧ new = 5 then some (some 3)
  else none

/-- LC_TRANSITION's body: Target state; token. -/
def lcTransition (p : Params) (s : State) : Reply × State :=
  let new := Params.val p 1
  let t := textOf p 2
  match lcToken s.lifecycle new with
  | none => (Reply.errAt Status.notInState p 1, s)
  | some none => (Reply.ok [], s.lcTo new 0)
  | some (some k) =>
    let (ok, s) := s.token k (if k = 1 then 2 else 0) (fun _ => true) t
    if !ok then (Reply.errAt Status.authFail p 2, s)
    else
      let s := s.lcTo new 0
      let h := leAt t 28 2
      (Reply.ok [], if k = 1 then (s.withLife { s.life with serviceMin := 0 }).set LIFE.SERVICE_LEFT (if h = 0 then 0xFFFF else h) else s)

/-- OWNERSHIP_TAKE: Owner public key (R501). The unit key pair is generated: its seed is a free value. -/
def execOwnershipTake (r : Req) (p : List Tlv) (s : State) : Out :=
  runCmd 0x0B07 [preq 1 32 0 (2 ^ 256 - 1)] (fun q s =>
    if s.lifecycle ≠ 1 then (Reply.err Status.notInState, s)
    else
      let (v, s) := s.fresh 256
      let seed := le 32 v
      let pub := edPublic seed
      let s := (s.withLife { s.life with owner := textOf q 1, unitSeed := seed, unitPub := pub }).wear 5 1
      (Reply.ok pub, s.lcTo 2 0)) r p s

/-! ## Keys and identity (R505, R506) -/

/-- UNIT_CERT_SET: Certificate, 104 bytes (R507). -/
def execUnitCertSet (r : Req) (p : List Tlv) (s : State) : Out :=
  runCmd 0x0B08 [preq 1 104 0 (2 ^ 832 - 1)] (fun q s =>
    let c := textOf q 1
    if edVerify s.life.owner (c.take 40) (c.drop 40) then
      (Reply.ok [], ((s.withLife { s.life with cert := c }).set LIFE.STATUS_CERT_VALID 1).wear 5 1)
    else (Reply.errAt Status.authFail q 1, s)) r p s

/-- KEY_SET: Slot; privilege; key; token (R505). -/
def execKeySet (r : Req) (p : List Tlv) (s : State) : Out :=
  match s.refuses r 0x0B09 [preq 1 1 0 3, popt 2 1 0 2, popt 3 32 0 (2 ^ 256 - 1), pflag 4] (hideText [4] p) with
  | some e => .next (s.finish r 0x0B09 e)
  | none =>
    let slot := Params.val p 1
    let old := unitAt s.life.keys slot (0, [])
    let priv := (Params.val? p 2).getD old.1
    let key := if Params.has p 3 then textOf p 3 else old.2
    let l := s.lifecycle
    let (st, s) :=
      if l = 1 ∨ l = 2 ∨ l = 4 then (0, s)
      else if l = 3 then
        let (ok, s) := s.token 4 34 (fun b => leAt b 0 1 == slot && leAt b 1 1 == priv && b.drop 2 == sha256 key) (textOf p 4)
        (if ok then 0 else Status.authFail, s)
      else (Status.notInState, s)
    if st ≠ 0 then .next (s.finish r 0x0B09 (Reply.err st))
    else
      let s := (s.withLife { s.life with keys := s.life.keys.setIfInBounds slot (priv, key) }).wear 5 1
      .next ((s.closeSessions (fun x => x.slot == slot) 3).finish r 0x0B09 (Reply.ok []))

/-- IDENTITY_SET: Identity EUI-64; MAC of ports 0 to 3; HOSTNAME. It takes effect at the next warm reset (R506). -/
def execIdentitySet (r : Req) (p : List Tlv) (s : State) : Out :=
  let mac := fun (k : Nat) => popt (2 + k) 6 0 (2 ^ 48 - 1)
  match s.refuses r 0x0B0A [popt 1 8 0 (2 ^ 64 - 1), mac 0, mac 1, mac 2, mac 3, pflag 6] (hideText [6] p) with
  | some e => .next (s.finish r 0x0B0A e)
  | none =>
    if s.lifecycle ≠ 2 ∧ s.lifecycle ≠ 4 then .next (s.finish r 0x0B0A (Reply.err Status.notInState))
    else if 63 < (textOf p 6).length then .next (s.finish r 0x0B0A (Reply.errAt Status.badParam p 6))
    else
      let x := s.life.nextIdent.getD s.life.ident
      let eui := ((Params.val? p 1).map (swapBytes 8)).getD x.eui
      let macs : Vector Nat 4 := Vector.ofFn (fun (k : Fin 4) => ((Params.val? p (2 + k)).map (swapBytes 6)).getD (unitAt x.macs k 0))
      let y : Identity := ⟨eui, macs, if Params.has p 6 then textOf p 6 else x.hostname, false⟩
      .next (((s.withLife { s.life with nextIdent := some y }).wear 5 1).finish r 0x0B0A (Reply.ok []))

/-- The identity set for this start comes into use: STATION_MAC of the ports, HOSTNAME and the identity registers. -/
def State.takeIdent (s : State) : State :=
  let id := s.life.nextIdent.getD s.life.ident
  let fresh := s.life.nextIdent.isSome && id.adopted
  let s := s.withLife { s.life with ident := id, nextIdent := none, adopting := s.life.adopting || fresh }
  let s := (List.range 4).foldl (fun s p =>
    (s.set (PORT.STATION_MAC_LO p) (unitAt id.macs p 0)).set (PORT.STATION_MAC_HI p) (unitAt id.macs p 0 / 2 ^ 32)) s
  let s := { s with svc := { s.svc with hostname := id.hostname } }
  ((s.set LIFE.ID_EUI_LO id.eui).set LIFE.ID_EUI_HI (id.eui / 2 ^ 32)).setOn LIFE.STATUS_IDENTITY_SRC id.adopted

/-! ## Firmware (R513, R514) -/

def State.fwSlot (s : State) (k : Nat) : FwSlot := unitAt s.life.fw k ⟨[], 0, 0, 0, false⟩

/-- BLMAX of the part (R3). -/
def State.blMax (s : State) : Nat := s.get SYS.DEVICE_ID_BLMAX

/-- The result of verifying slot k (R513): 0 bootable, 1 empty, 2 signature, 3 security version, 4 level. -/
def State.slotResult (s : State) (k : Nat) : Nat :=
  let f := s.fwSlot k
  if f.bytes.isEmpty then 1 else if !f.signed then 2 else if f.security < s.life.secCount then 3 else if f.level < s.blMax then 4 else 0

/-- Event 0x0B07: 0 activated, 1 confirmed, 2 reverted. Activations and reverts go to the fault history. -/
def State.fwEvent (s : State) (what k : Nat) : State :=
  let d := [BitVec.ofNat 8 what, BitVec.ofNat 8 k, 0, 0] ++ le 4 (s.fwSlot k).version
  let s := if what = 1 then s else s.faultEvent 0x0B07 17 0 d
  s.signal LIFE.INT LIFE.INT_EN LIFE.INT_FW 0x0B07 17 0 d

/-- The slot FW_WRITE writes: the one not running; in recovery slot 0 if neither is bootable, else the one that is not (R529). -/
def State.fwTarget (s : State) : Nat :=
  if s.on SYS.STATUS_RECOVERY then
    (if s.slotResult 0 ≠ 0 then 0 else 1)
  else 1 - s.get LIFE.STATUS_FW_SLOT

/-- A firmware image as a slot: VERSION (4), security version (1), behaviour level (1), body and signature (DESIGN CHOICE, assumption 35). -/
def fwImage (b : List Byte) (signed : Bool) : FwSlot := ⟨b, leAt b 0 4, leAt b 4 1 % 64, leAt b 5 1, signed⟩

/-- Bytes placed at an offset of an image being received. -/
def placeAt (l : List Byte) (off : Nat) (b : List Byte) : List Byte := padTo off l ++ b ++ l.drop (off + b.length)

/-- FW_WRITE: Offset; chunk; FINAL (R514). `signed`: the whole image's signature holds under the Holtile firmware key, which the spec does not give. -/
def execFwWrite (r : Req) (p : List Tlv) (signed : Bool) (s : State) : Out :=
  match s.refuses r 0x0B0F [preq 1 4 0 0x1FFFFF, { pflag 2 with req := true }, popt 3 1 0 1] (hideText [2] p) with
  | some e => .next (s.finish r 0x0B0F e)
  | none =>
    if s.lifecycle = 5 ∨ s.on LIFE.STATUS_FW_TRIAL then .next (s.finish r 0x0B0F (Reply.err Status.notInState))
    else
      let b := textOf p 2
      let off := Params.val p 1
      if 0x200000 < off + b.length then .next (s.finish r 0x0B0F (Reply.errAt Status.badParam p 2))
      else
        let img := placeAt (if off = 0 then [] else s.life.fwImp) off b
        if Params.val p 3 = 1 then
          let k := s.fwTarget
          let s := (s.withLife { s.life with fw := s.life.fw.setIfInBounds k (fwImage img signed), fwImp := [] }).wear k 1
          .next (s.finish r 0x0B0F (if s.slotResult k = 0 then Reply.ok [] else Reply.errAt Status.authFail p 2))
        else .next ((s.withLife { s.life with fwImp := img }).finish r 0x0B0F (Reply.ok []))

/-- FW_ACTIVATE (R514): the slot not running is preferred and on trial; it must be bootable. -/
def execFwActivate (r : Req) (p : List Tlv) (s : State) : Out :=
  runCmd 0x0B10 [] (fun _ s =>
    let k := s.fwTarget
    if s.lifecycle = 5 ∨ s.on LIFE.STATUS_FW_TRIAL ∨ s.slotResult k ≠ 0 then (Reply.err Status.notInState, s)
    else (Reply.ok [], (((s.withLife { s.life with preferred := k }).set LIFE.STATUS_FW_TRIAL 1).wear 5 1).fwEvent 0 k)) r p s

/-- FW_CONFIRM (R514): the trial of the running slot ends, and the fused security count follows it. -/
def execFwConfirm (r : Req) (p : List Tlv) (s : State) : Out :=
  runCmd 0x0B11 [] (fun _ s =>
    let k := s.get LIFE.STATUS_FW_SLOT
    if !s.on LIFE.STATUS_FW_TRIAL ∨ k ≠ s.life.preferred then (Reply.err Status.notInState, s)
    else
      let s := s.withLife { s.life with secCount := max s.life.secCount (s.fwSlot k).security }
      (Reply.ok [], (s.set LIFE.STATUS_FW_TRIAL 0).fwEvent 1 k)) r p s

/-- A slot on trial is abandoned: the next start uses the other slot. -/
def State.fwRevert (s : State) : State :=
  if s.on LIFE.STATUS_FW_TRIAL then
    let k := 1 - s.life.preferred
    ((s.withLife { s.life with preferred := k }).set LIFE.STATUS_FW_TRIAL 0).fwEvent 2 k
  else s

/-- FW_TRIAL_TIMEOUT (R514): 600 s after ready without FW_CONFIRM. -/
def execFwTrialTimeout (s : State) : Out :=
  .next (if s.on SYS.STATUS_READY ∧ s.get LIFE.STATUS_FW_SLOT = s.life.preferred then s.fwRevert else s)

/-! ## Reads (R516) -/

/-- The calendar registers as they stand now (R33, R491). -/
def State.calLive (s : State) : State :=
  ((s.set LIFE.CAL_SUB (s.life.cal % 32768)).set LIFE.CAL_SEC_LO s.calSec).set LIFE.CAL_SEC_HI (s.calSec / 2 ^ 32)

/-- Words of LIFE at these offsets. -/
def lifeWords (s : State) (l : List Nat) : List Byte := l.flatMap (fun o => le 4 (s.word LIFE.fields (0x1F0000 + o)))

/-- LIFE_STATUS_GET: STATUS, calendar, identity, counters, thermal, wear and margin registers. -/
def execLifeStatusGet (r : Req) (p : List Tlv) (s : State) : Out :=
  runCmd 0x0B01 [] (getBody (fun _ s =>
    let s := s.calLive
    let cal := [4, 0x10, 0x14, 0x18, 0x1C, 0x20, 0x28, 0x2C, 0x30, 0x40, 0x44, 0x48, 0x4C]
    lifeWords s cal ++ (List.range 15).flatMap (fun i => lifeWords s [if i < 7 then 0x100 + 4 * i else 0x104 + 4 * i]) ++
    lifeWords s [0x140, 0x144, 0x148] ++ (List.range 12).flatMap (fun i => lifeWords s [0x200 + 4 * i]) ++
    lifeWords s [0x300, 0x304, 0x308, 0x30C] ++ (List.range 16).flatMap (fun m => lifeWords s [0x340 + 4 * m]))) r p s

/-- An entry of the fault ring in 32 bytes. -/
def FaultEntry.bytes (e : FaultEntry) : List Byte := le 8 e.sec ++ le 4 e.minute ++ le 4 0 ++ padTo 16 e.record

/-- The record of a replicated unit (R500): QUARANTINED, cause, PASSED_SINCE_Q, a zero byte and the calendar seconds. -/
def unitRecord (s : State) (set u : Nat) : List Byte :=
  match s.life.quar.find? (fun q => q.set == set && q.unit == u) with
  | some q => [1, BitVec.ofNat 8 q.cause, if s.passedSinceQ set u then 1 else 0, 0] ++ le 8 q.sec
  | none => List.replicate 12 0#8

/-- FAULT_LOG_GET: First; count; QUARANTINE. -/
def execFaultLogGet (r : Req) (p : List Tlv) (s : State) : Out :=
  runCmd 0x0B02 [popt 1 2 0 4095, popt 2 2 1 256, popt 3 1 0 1] (getBody (fun q s =>
    if Params.val q 3 = 1 then
      (List.range 17).flatMap (unitRecord s 0) ++ (List.range 9).flatMap (unitRecord s 1) ++ (List.range 17).flatMap (unitRecord s 2)
    else ((s.life.ring.drop (Params.val q 1)).take ((Params.val? q 2).getD 256)).flatMap FaultEntry.bytes)) r p s

/-- MARGIN_TREND_GET: First; count. -/
def execMarginTrendGet (r : Req) (p : List Tlv) (s : State) : Out :=
  runCmd 0x0B03 [popt 1 2 0 0xFFFF, popt 2 2 1 1024] (getBody (fun q s =>
    (((s.life.kept ++ s.life.samples).drop (Params.val q 1)).take ((Params.val? q 2).getD 1024)).flatMap (fun m =>
      le 8 m.sec ++ m.margins.flatMap (le 2)))) r p s

end Sys2Proof.Machine
end

