-- ==== Sys2Proof/Machine/Xo.lean ====
section
/-! DEFINITION. The loss and the return of XO_IN (R89): references, DPLLs, the audio groups (R314), the amplifier (R342) and a driving member of a pair (R446). -/

namespace Sys2Proof.Machine

/-- XO_LOSS (R89): no edge of XO_IN for 1 µs. -/
def execXoLoss (s : State) : Out :=
  if !s.on CLK.XO_OK then .next s
  else
    let s := ((((List.range 4).foldl State.mediaStops s).set CLK.XO_OK 0).faultEvent 0x0309 8 0 [])
    let s := (s.signal CLK.INT CLK.INT_EN CLK.INT_XO_LOST 0x0309 8 0 []).cksPins
    let lose := fun (s : State) (n : Nat) => if s.on (CLK.REF_ENABLE n) ∧ 2 ≤ s.get (CLK.REF_QSTATE n) then s.refLost n else s
    let s := (List.range 8).foldl lose s
    .next s.ampHalt.pairFault

/-- DPLL d starts again in FREERUN at nominal plus STEER (R89, R111), with the seconds it has learnt. A change of state raises event 0x0305 here too (R103), R89's "the restart itself
records nothing further" being taken of the references (DESIGN CHOICE, assumption 111). -/
def State.dpllRestart (s : State) (d : Nat) : State :=
  let s := ((s.set (CLK.DPLL_SEL_VALID d) 0).set (CLK.DPLL_SEL_REF d) 0).enterFreerun d
  (s.seti (CLK.DPLL_FREQ d) (s.steer d)).setDpll d { DpllState.reset with secs := (s.dpll d).secs, lastSel := (s.dpll d).lastSel }

/-- XO_RESTORE (R89): XO_IN has run for 1 ms without a gap. -/
def execXoRestore (s : State) : Out :=
  if s.on CLK.XO_OK then .next s
  else
    let s := (s.set CLK.XO_OK 1)
    let s := ((List.range 4).filter (fun d => s.on (CLK.DPLL_ENABLE d))).foldl State.dpllRestart s
    let s := ((List.range 8).filter (fun n => s.on (CLK.REF_ENABLE n))).foldl (fun s n => (s.set (CLK.REF_ACTIVE n) 0).refQState n 1) s
    .next (((List.range 4).foldl State.mediaRuns s.cksPins).tdmWaits.ampClockBack)

end Sys2Proof.Machine
end

