-- ==== Sys2Proof/Machine/Reset.lean ====
section
/-! DEFINITION. The resets of chapter 16: what a power-on reset and a warm reset keep (R521 to R523, R531, R532), the mapping of the replicated sets with
the quarantines known (R182, R214, R280), and the events on the reset pins. -/

namespace Sys2Proof.Machine

/-! ## What is kept -/

/-- Fields of LIFE that are registers of the CORE domain or are recomputed at a start: they do not survive a reset. -/
def lifeLost : List Nat :=
  [LIFE.CTRL_CAL_SEED.key, LIFE.CTRL_AUTO_TRIM.key, LIFE.CTRL_CAL_SYNC_EN.key, LIFE.STATUS_BL.key, LIFE.STATUS_AON_RESTORED.key,
   LIFE.SYNC_PERIOD.key, LIFE.LAST_SYNC.key, LIFE.CAL_STEP.key, LIFE.THERM_DT.key, LIFE.PROJ_YEARS.key, LIFE.MARGIN_WARN.key, LIFE.INT.key,
   LIFE.INT_EN.key]

/-- Kept over every reset: the part's fuses, the AON domain and the MRAM, the state of the supplies and of XO_IN. -/
def keepAlways (k : Nat) : Bool :=
  decide (k < 0x4 * 32) || (inOffs 0x1F0000 0x200000 k && !lifeLost.contains k) || k == SYS.RAIL_WARN.key || k == SYS.RAIL_IN_RANGE.key ||
    k == CLK.XO_OK.key

/-- Kept over a warm reset besides (R532, R393, R539): straps, RESET_CAUSE, BOOT_FAILS, the counters of SYS, the PCIe link and HOST_LOST, the MSI-X
table and its pending bits. -/
def keepWarm (k : Nat) : Bool :=
  keepAlways k || inOffs 0x30000 0x40000 k ||
    [SYS.STATUS_BOOT_SRC.key, SYS.STATUS_PAIR_SIDE.key, SYS.STATUS_CLUSTER_ROLE.key, ORB.STATUS_ROLE_STRAP.key, PAIR.STATUS_SIDE.key,
     SYS.RESET_CAUSE.key, SYS.BOOT_SLOT1_RESULT.key, SYS.BOOT_SLOT0_RESULT.key, SYS.BOOT_FAILS.key, SYS.CFG_REJECT_CNT.key].contains k ||
    inOffs 0x80 0x98 k || [DMA.STATUS_BME.key, DMA.STATUS_LINK_UP.key, DMA.STATUS_HOST_LOST.key].contains k

/-- Kept over a wake besides (R157, R536): the wake registers of CPA and its line mode. -/
def keepWake (k : Nat) : Bool := keepWarm k || inOffs 0x60800 0x62000 k || k == (PORT.LINE_MODE 2).key

/-- Every unit at its reset state, save what lies in the AON domain and the MRAM, the registers `keep` names, and the model's own measures. -/
def State.resetAll (s : State) (keep : Nat → Bool) : State :=
  { State.reset with
    regs := s.regs.filter (fun x => keep x.1), rd := s.rd, cycles := s.cycles, freeCtr := s.freeCtr, pending := s.pending,
    life := { s.life with nonce := [], fwImp := [] }, boot := s.boot }

/-! ## The replicated sets at a start -/

/-- Unit u of a set is out of service before the set is mapped: the spare takes its logical unit, or that logical unit has none. -/
def State.leaveOut (s : State) (set u : Nat) : State :=
  let role := s.role set u
  let j := s.get (if set = 0 then STRM.HAMMER_LANE u else if set = 1 then QUE.BANK_LBANK u else ANVIL.MU_LUNIT u)
  let s := s.set (roleFld set u) 4
  let s := if set = 0 then s.set (STRM.HAMMER_LANE u) 0 else if set = 1 then s.set (QUE.BANK_LBANK u) 0 else s.set (ANVIL.MU_LUNIT u) 0
  if role ≠ 0 then s
  else match s.spareOf set with
    | some v => if set = 0 then s.carryLane v j else if set = 1 then s.carry v j else s.carryUnit v j
    | none =>
      if set = 0 then s.set (STRM.LANE_MAP j) 0x1F
      else if set = 1 then (s.set (QUE.BANK_MAP j) 0xF).setBit QUE.STATUS_ABSENT_MAP j true
      else s.dropUnit j

/-- Quarantines recorded in the fault history are applied before any unit is mapped (R182, R214, R280). -/
def State.mapUnits (s : State) : State :=
  let out := s.life.quar.filter (fun q => decide (q.set < 3 ∧ q.unit < setUnits q.set))
  let s := out.foldl (fun s q => (s.leaveOut q.set q.unit).setOn (TEST.REC_PASSED_SINCE_Q (tRec q.set q.unit)) q.passed) s
  let s := s.laneStatus.unitStatus.setOn QUE.STATUS_SPARE_OK (s.spareOf 1).isSome
  let s := s.setOn ANVIL.STATUS_STOPPED (decide (s.get ANVIL.STATUS_WORKING < 8))
  [0, 1, 2].foldl (fun s set => s.setBit TEST.STATUS_PAUSED set (s.spareOf set).isNone) s

/-! ## Resets -/

/-- The cause of a reset is noted in RESET_CAUSE. -/
def State.noteCause (s : State) (cause : Nat) : State := s.set SYS.RESET_CAUSE (s.get SYS.RESET_CAUSE ||| 2 ^ cause)

/-- A start begins: its kind (0 power-on, 1 warm, 2 wake) and its first row. -/
def State.startAt (s : State) (kind row : Nat) : State :=
  let s : State := { s with boot := { s.boot with kind := kind, released := s.cycles, dormant := false, phase := 0 } }
  s.mapUnits.testAccess.set SYS.STATUS_STEP row

/-- The first row of a warm start: row 2 is skipped if XO_OK is 1 (R532). -/
def State.warmRow (s : State) : Nat := if s.on CLK.XO_OK then 3 else 2

/-- A slice in progress ends INCOMPLETE with cause 3 (R532), before Temper's registers are reset. -/
def State.cutForReset (s : State) : State := if s.test.slice.isSome then s.sliceCut 3 else s

/-- A power-on reset; the internal reset holds. -/
def State.coldReset (s : State) (cause : Nat) : State :=
  let s := s.cutForReset.resetAll keepAlways
  { s with boot := { BootState.reset with porst := s.boot.porst, wrst := s.boot.wrst } }.noteCause cause

/-- A warm reset (R531, R532); the internal reset holds. WARM_RESETS counts those by WRST_N or by command (R497). -/
def State.warmReset (s : State) (keep : Nat → Bool) (cause : Nat) : State :=
  let s := (s.cutForReset.resetAll keep).noteCause cause
  let s : State := { s with boot := { s.boot with arm := none, row7 := 0, down := [], phase := 0, parked := false } }
  if cause = 2 ∨ cause = 3 ∨ cause = 5 ∨ cause = 6 then s.countSat LIFE.WARM_RESETS else s

/-- A warm reset that no pin holds: three pulses, the reset, and the warm start. -/
def State.warmFrom (s : State) (cause : Nat) : State :=
  let s := s.resetPulses.warmReset keepWarm cause
  s.startAt 1 s.warmRow

/-- LOCKSTEP_MISMATCH (R446, R523, R531): the Suosh engine's lockstep mismatches; a driving member falls silent, and a warm reset follows. -/
def execLockstepMismatch (s : State) : Out :=
  let drives := s.get PAIR.STATUS_ROLE == 2 || s.get PAIR.STATUS_ROLE == 3
  let s := s.resetPulses
  let s := if drives then s.goSilent 1 else s
  let s := s.warmReset keepWarm 7
  .next (s.startAt 1 s.warmRow)

/-- The levels of the straps as they are sampled (R522): bit 0 CLUSTER_ROLE, bit 1 PAIR_SIDE, bit 2 BOOT_SRC. -/
def State.sampleStraps (s : State) (straps : Nat) : State :=
  let s := ((s.setOn SYS.STATUS_CLUSTER_ROLE (straps.testBit 0)).setOn SYS.STATUS_PAIR_SIDE (straps.testBit 1)).setOn SYS.STATUS_BOOT_SRC
    (straps.testBit 2)
  (s.setOn ORB.STATUS_ROLE_STRAP (straps.testBit 0)).setOn PAIR.STATUS_SIDE (straps.testBit 1 && !straps.testBit 0)

/-- PORST_ASSERT (R521): PORST_N has been low for 1 µs. Every output is released, and a power-on reset acts and holds. -/
def execPorstAssert (s : State) : Out :=
  let s := (s.resetPulses.coldReset 0)
  .next { s with boot := { s.boot with porst := true } }

/-- PORST_RELEASE (R522, R524): PORST_N rises; the straps are sampled and the start sequence begins at row 1. -/
def execPorstRelease (straps : Nat) (s : State) : Out :=
  if s.boot.porst then
    let s : State := { s with boot := { s.boot with porst := false } }
    .next ((((s.noteCause 0).countSat LIFE.POWER_CYCLES).sampleStraps straps).startAt 0 1)
  else .next s

/-- A wake from dormant mode (R536): the warm start, with cause WAKE. -/
def State.wake (s : State) : State :=
  let s := s.warmReset keepWake 9
  s.startAt 2 s.warmRow

/-- WRST_ASSERT (R521): WRST_N has been low for 1 µs. It has no effect in rows 1 and 2 of a power-on start but to hold row 3; in dormant mode it wakes the
unit (R536), WAKE_STATUS recording no cause (R151), and it is kept while the unit is on its way there. -/
def execWrstAssert (s : State) : Out :=
  if s.boot.wrst then .next s
  else
    let s : State := { s with boot := { s.boot with wrst := true } }
    let step := s.get SYS.STATUS_STEP
    if s.boot.porst ∨ (s.boot.kind = 0 ∧ (step = 1 ∨ step = 2)) then .next s
    else if s.boot.dormant then .next (s.recordWake 0 0 0).wake
    else if 1 ≤ s.boot.phase then
      let s := s.recordWake 0 0 0
      .next { s with boot := { s.boot with wake := true } }
    else
      let s := s.resetPulses.warmReset keepWarm 2
      .next { s with boot := { s.boot with held := true } }

/-- WRST_RELEASE (R532): WRST_N rises and the warm start begins. -/
def execWrstRelease (s : State) : Out :=
  let s1 : State := { s with boot := { s.boot with wrst := false, held := false } }
  .next (if s.boot.held then s1.startAt 1 s1.warmRow else s1)

end Sys2Proof.Machine
end

