-- ==== Sys2Proof/Machine/Sets.lean ====
section
/-! DEFINITION. Record and playback sets (R412 to R415, R219): their enables and indices, the blocks built from the passes, and the blocks
moved to and from host memory. -/

namespace Sys2Proof.Machine

/-! ## A set's geometry (R412, R413, R420) -/

/-- Direction 0 is record, 1 playback: the set's EN. -/
def setEn (dir k : Nat) : Fld := if dir = 0 then DMA.REC_EN k else DMA.PLAY_EN k

def setState (dir k : Nat) : Fld := if dir = 0 then DMA.REC_STATE k else DMA.PLAY_STATE k

/-- PERIODS, N. -/
def State.setN (s : State) (dir k : Nat) : Nat := clampNat 16 2048 (s.get (if dir = 0 then DMA.REC_PERIODS k else DMA.PLAY_PERIODS k))

/-- CHANNELS, C. -/
def State.setC (s : State) (dir k : Nat) : Nat := clampNat 1 256 (s.get (if dir = 0 then DMA.REC_CHANNELS k else DMA.PLAY_CHANNELS k))

def State.setFirst (s : State) (dir k : Nat) : Nat := s.get (if dir = 0 then DMA.REC_FIRST_CH k else DMA.PLAY_FIRST_CH k)

def State.setFormat (s : State) (dir k : Nat) : Nat := s.get (if dir = 0 then DMA.REC_FORMAT k else DMA.PLAY_FORMAT k)

/-- NBLK. -/
def State.setBlk (s : State) (dir k : Nat) : Nat := max 2 (s.get (if dir = 0 then DMA.REC_NBLK k else DMA.PLAY_NBLK k))

/-- Bytes of a sample: 2, 3, 4 or 5. -/
def State.setBytes (s : State) (dir k : Nat) : Nat := 2 + s.setFormat dir k

/-- Bytes of a host block. -/
def State.blockLen (s : State) (dir k : Nat) : Nat := 20 + s.setN dir k * s.setC dir k * s.setBytes dir k

/-- The host address of block `idx` of set k: BASE + (idx mod NBLK) × STRIDE (R412). -/
def State.setSlot (s : State) (dir k idx : Nat) : Nat :=
  let base := if dir = 0 then s.addr64 (DMA.REC_BASE_LO k) (DMA.REC_BASE_HI k) 6 else s.addr64 (DMA.PLAY_BASE_LO k) (DMA.PLAY_BASE_HI k) 6
  base + idx % s.setBlk dir k * (64 * s.get (if dir = 0 then DMA.REC_STRIDE k else DMA.PLAY_STRIDE k))

/-- The channels of two sets overlap. -/
def State.setsOverlap (s : State) (dir k j : Nat) : Bool :=
  decide (s.setFirst dir k < s.setFirst dir j + s.setC dir j ∧ s.setFirst dir j < s.setFirst dir k + s.setC dir k)

/-- Set k, its EN reading 1, is one that R412 does not accept. -/
def State.setRefused (s : State) (dir k : Nat) : Bool :=
  decide (1024 < s.setFirst dir k + s.setC dir k) ||
  (List.range 64).any (fun j => j != k && s.on (setEn dir j) && s.setsOverlap dir k j) ||
  decide (1572864 < ((List.range 64).map (fun j => if s.on (setEn dir j) then 2 * s.blockLen dir j else 0)).sum)

/-! ## Enable (R412, R414, R415) -/

/-- The first multiple of n that is at least x. -/
def multipleFrom (n x : Nat) : Nat := (x + n - 1) / n * n

/-- Set k stops. -/
def State.setStop (s : State) (dir k : Nat) : State :=
  let s := s.set (setState dir k) 0
  if dir = 0 then { s with dma := { s.dma with rec' := s.dma.rec'.filter (fun x => x.set != k) } }
  else { s with dma := { s.dma with play := s.dma.play.filter (fun x => x.set != k) } }.set (DMA.PLAY_GAP_FLAG k) 0

/-- Set k runs from the present period on. -/
def State.setStart (s : State) (dir k : Nat) : State :=
  let s := (s.setStop dir k).set (setState dir k) 1
  if dir = 0 then
    let x : RecRun := ⟨k, multipleFrom (s.setN 0 k) (s.media + 2), [], false, false, [], false, false⟩
    { s with dma := { s.dma with rec' := s.dma.rec' ++ [x] } }
  else
    let x : PlayRun := ⟨k, [], none, false⟩
    { s with dma := { s.dma with play := s.dma.play ++ [x] } }

/-- SET_EN_WRITE (R412, R418): a host write of the word that holds EN of record set k (dir 0) or playback set k (dir 1). A refused enable leaves EN
at 0; a set in ERROR leaves it only by EN = 0 (R395). -/
def hostSetEnWrite (source dir k : Nat) (v : Word) (s : State) : Out :=
  if 1 < dir ∨ 63 < k then .next s
  else
    let off := (if dir = 0 then 0x24000 else 0x25000) + 0x40 * k
    let st := s.get (setState dir k)
    let s := s.writeWord DMA.fields (st == 0) source off v.toNat
    if !v.toNat.testBit 31 then .next (if st = 0 then s else s.setStop dir k)
    else if st ≠ 0 then .next s
    else if s.setRefused dir k then .next ((s.set (setEn dir k) 0).cfgReject source off)
    else .next (s.setStart dir k)

/-! ## Indices -/

/-- Blocks between two free-running indices. -/
def idxDist (wr rd : Nat) : Nat := (wr + 2 ^ 32 - rd) % 2 ^ 32

/-- REC_RD_IDX_WRITE (R414): a write that would pass WR_IDX is ignored. -/
def hostRecRdIdxWrite (k : Nat) (v : Word) (s : State) : Out :=
  let wr := s.get (DMA.REC_WR_IDX k)
  .next (if k < 64 ∧ idxDist wr v.toNat ≤ idxDist wr (s.get (DMA.REC_RD_IDX k)) then s.set (DMA.REC_RD_IDX k) v.toNat else s)

/-- PLAY_WR_IDX_WRITE (R415): the host has written blocks up to WR_IDX. -/
def hostPlayWrIdxWrite (k : Nat) (v : Word) (s : State) : Out :=
  .next (if k < 64 then s.set (DMA.PLAY_WR_IDX k) v.toNat else s)

/-! ## Record (R413, R414) -/

/-- n bytes that the spec leaves open. -/
def State.freshBytes : Nat → State → List Byte × State
  | 0, s => ([], s)
  | n + 1, s =>
    let (v, s) := s.fresh 8
    let (l, s) := State.freshBytes n s
    (BitVec.ofNat 8 v :: l, s)

/-- A block of set k finds no room (R414). -/
def State.recOverrun (s : State) (k start : Nat) : State :=
  (s.count (DMA.REC_OVERRUN_CNT k)).dmaSignal DMA.INT_REC_OVERRUN 0x0163 k (le 8 start)

def State.setRec (s : State) (x : RecRun) : State :=
  { s with dma := { s.dma with rec' := s.dma.rec'.map (fun y => if y.set = x.set then x else y) } }

def State.recRun (s : State) (k : Nat) : Option RecRun := s.dma.rec'.find? (fun x => x.set == k)

/-- The rows of destinations that set k records. -/
def State.recGroups (s : State) (k : Nat) : List Nat :=
  let a := (5128 + s.setFirst 0 k) / 64
  (List.range ((5128 + s.setFirst 0 k + s.setC 0 k - 1) / 64 - a + 1)).map (fun i => a + i)

/-- Check point 12 on the rows of period n (R246): the groups that fail. -/
def State.recCheck (k n : Nat) (damaged : List Nat) : List Nat → State → List Nat × State
  | [], s => ([], s)
  | g :: t, s =>
    let (fails, _, s) := s.checkRow 12 (max (s.setFirst 0 k) (64 * g - 5128)) g n false (damaged.contains g)
    let (gs, s) := State.recCheck k n damaged t s
    (if fails then g :: gs else gs, s)

/-- The sample of destination d of pass n as set k records it: silent where its row failed (R46, R48, R272). -/
def State.recSample (s : State) (k n d : Nat) (silent : Bool) : List Byte × State :=
  let w := s.setBytes 0 k
  let v := if silent then 0 else srcVal [] s.anvil.dest d
  if w = 5 then (leI 5 v, s)
  else
    let dv := if !silent && s.on (ROUTE.DITHER d) then dither s.seed d n (8 * w) else 0
    let (o, sat) := toWire (8 * w) v dv
    (leI w o, if sat then s.satOut d else s)

/-- The samples of one period, channel by channel. -/
def State.recPeriod (k n : Nat) (failed : List Nat) : List Nat → State → List Byte × State
  | [], s => ([], s)
  | d :: t, s =>
    let (b, s) := s.recSample k n d (failed.contains (d / 64))
    let (bs, s) := State.recPeriod k n failed t s
    (b ++ bs, s)

/-- Before a block begins, the block before the last must have left its buffer (R414). -/
def State.recBuffers (s : State) (x : RecRun) : RecRun × State :=
  match x.full with
  | b :: _ :: _ => ({ x with full := x.full.drop 1, gap := true }, s.recOverrun x.set b.start)
  | _ => (x, s)

/-- The block in progress is complete: the periods that had no pass carry silence (R564). -/
def State.recClose (s : State) (x : RecRun) : RecRun × State :=
  if x.bytes.isEmpty then (x, s)
  else
    let k := x.set
    let blk : RecBlock := ⟨x.start, padTo (s.setN 0 k * (s.setC 0 k * s.setBytes 0 k)) x.bytes, x.bad, x.lost⟩
    ({ x with bytes := [], bad := false, lost := false, full := x.full ++ [blk] }, if x.bad then s.count SYS.SEAL_MARKED else s)

/-- The block that record set x is in for pass n, or none before its first (R414, R564): a jump out of the block in progress closes it, and blocks keep their
numbering in media time. A backward jump before the first block moves that to the first multiple of N two periods on (DESIGN CHOICE, assumption 39). -/
def State.recBlock (s : State) (n : Nat) (x : RecRun) : Option RecRun × RecRun × State :=
  let size := s.setN 0 x.set
  let b := n / size * size
  if !x.begun && decide (n < x.start) then
    (none, if n + size + 1 < x.start then { x with start := multipleFrom size (n + 2) } else x, s)
  else if x.begun && b == x.start then (some x, x, s)
  else
    let (x, s) := s.recClose x
    (some { x with start := b, begun := true }, x, s)

/-- Put the samples of period i of a block, each `per` bytes: silence before it where no pass ran, in place of those of an earlier pass of the same number. -/
def putPeriod (per i : Nat) (bytes b : List Byte) : List Byte := padTo (i * per) bytes ++ b ++ bytes.drop ((i + 1) * per)

/-- The record writer of set x takes pass n (R414, R564). What is written while bank 7 is absent is lost (R218). -/
def State.recTake (n : Nat) (damaged : List Nat) (s : State) (x : RecRun) : State :=
  let k := x.set
  let per := s.setC 0 k * s.setBytes 0 k
  if s.get (DMA.REC_STATE k) ≠ 1 then s
  else match s.recBlock n x with
    | (none, x, s) => s.setRec x
    | (some x, _, s) =>
      let (x, s) := if x.bytes.isEmpty then s.recBuffers x else (x, s)
      let (failed, s) := State.recCheck k n damaged (s.recGroups k) s
      let (b, s) := State.recPeriod k n failed ((List.range (s.setC 0 k)).map (fun c => 5128 + s.setFirst 0 k + c)) s
      let x := { x with bytes := putPeriod per (n - x.start) x.bytes b, bad := x.bad || !failed.isEmpty, lost := x.lost || s.absent 7 }
      if x.bytes.length / per < s.setN 0 k then s.setRec x
      else
        let (x, s) := s.recClose x
        s.setRec { x with start := x.start + s.setN 0 k }

/-- Every record set takes pass n; `damaged` names the destination rows that do not match their seals. -/
def State.recordPass (s : State) (n : Nat) (damaged : List Nat) : State := s.dma.rec'.foldl (State.recTake n damaged) s

/-- The host block of `blk` without its seal (R413). -/
def State.hostBlock (s : State) (k : Nat) (start : Nat) (gap : Bool) (bytes : List Byte) : List Byte :=
  le 8 start ++ le 2 (s.setC 0 k) ++ [BitVec.ofNat 8 (s.setFormat 0 k), if gap then 1 else 0] ++ le 2 (s.setN 0 k) ++ le 2 k ++ bytes

/-- RECORD_BLOCK_WRITE (R414): the oldest complete block of set k is read back, at check point 15, and written to the host or discarded.
`ue` and `damaged`: its read meets an uncorrectable error, or does not match its seal; `ce`: logical banks of corrected errors. The bytes of a block whose
bank was lost are left open: free values. SEAL_MARKED counts the marked blocks that are written (R247). -/
def execRecordBlockWrite (k : Nat) (ue damaged : Bool) (ce : List Nat) (s : State) : Out :=
  match s.recRun k with
  | none => .next s
  | some x =>
    match x.full with
    | [] => .next s
    | b :: rest =>
      if s.get (DMA.REC_STATE k) ≠ 1 ∨ s.on DMA.STATUS_HOST_LOST then .next s
      else
        let lost := b.lost || s.absent 7
        let (bytes, s) := if lost then State.freshBytes b.bytes.length s else (b.bytes, s)
        let (marked, s) := if b.marked && !lost && !ue then (true, s) else
          let (fails, _, s) := s.checkSeal 15 (s.setFirst 0 k) (ue || lost) damaged
          (fails, s)
        let wr := s.get (DMA.REC_WR_IDX k)
        let s := if idxDist wr (s.get (DMA.REC_RD_IDX k)) < s.setBlk 0 k then
          let s := if marked then s.count SYS.SEAL_MARKED else s
          let h := s.hostBlock k b.start x.gap bytes
          let c := crc32c h
          let s := (s.setRec { x with full := rest, gap := false }).hostWrite (256 + k) [s.setSlot 0 k wr]
            (h ++ le 4 (if marked then markedSeal c else c))
          let s := (s.set (DMA.REC_WR_IDX k) (wr + 1)).count (DMA.REC_BLOCKS k)
          (s.hostWrite (768 + k) [s.addr64 (DMA.REC_WB_LO k) (DMA.REC_WB_HI k) 2] (le 4 (s.get (DMA.REC_WR_IDX k)))).fire 26
        else (s.setRec { x with full := rest, gap := true }).recOverrun k b.start
        .next ((if ue then s.lbankUe 7 else s).readCe ce)

/-! ## Playback (R413, R415) -/

def State.setPlay (s : State) (x : PlayRun) : State :=
  { s with dma := { s.dma with play := s.dma.play.map (fun y => if y.set = x.set then x else y) } }

/-- The words of period i of a host block of set k (R45). -/
def State.playPeriod (s : State) (k : Nat) (b : List Byte) (i : Nat) : List Int :=
  let w := s.setBytes 1 k
  let c := s.setC 1 k
  (List.range c).map (fun j =>
    let v := leAt b (16 + (i * c + j) * w) w
    if w = 5 then toSigned 40 v else fromWire (8 * w) v)

/-- A stored block would be discarded, and counted in PLAY_BAD (R415). -/
def State.playBad (s : State) (k : Nat) (last : Option Nat) (b : List Byte) : Bool :=
  leAt b 8 2 != s.setC 1 k || leAt b 10 1 != s.setFormat 1 k || leAt b 12 2 != s.setN 1 k || leAt b 14 2 != k ||
  decide (leAt b 0 8 < last.getD 0) || decide (leAt b 0 8 + s.setN 1 k ≤ s.media)

/-- PLAYBACK_BLOCK_FETCH (R415): block RD_IDX of set k, whose bytes in host memory are `bytes`, is read into a free buffer, checked at check
point 6 while PLAY_HOST_SEAL is 1, and stored. -/
def execPlaybackBlockFetch (k : Nat) (bytes : List Byte) (s : State) : Out :=
  match s.dma.play.find? (fun x => x.set == k) with
  | none => .next s
  | some x =>
    let rd := s.get (DMA.PLAY_RD_IDX k)
    if s.get (DMA.PLAY_STATE k) ≠ 1 ∨ s.on DMA.STATUS_HOST_LOST ∨ rd = s.get (DMA.PLAY_WR_IDX k) ∨ 2 ≤ x.blocks.length then .next s
    else
      let n := s.blockLen 1 k
      let s := s.hostRead (0x140 + k) (s.setSlot 1 k rd) n
      let b := padTo n bytes
      let damaged := leAt b (n - 4) 4 != crc32c (b.take (n - 4))
      let (fails, s) := if s.on SYS.SEAL_PLAY_HOST_SEAL then
          let (f, _, s) := s.checkSeal 6 (s.setFirst 1 k) false damaged
          (f, s)
        else (false, s)
      let bad := s.playBad k x.last b
      let s := if fails then s
        else if bad then s.count (DMA.PLAY_BAD k)
        else
          let blk : PlayBlock := ⟨leAt b 0 8, s.setN 1 k, (List.range (s.setN 1 k)).map (s.playPeriod k b), s.absent 7, s.media, false⟩
          (s.setPlay { x with blocks := x.blocks ++ [blk], last := some (blk.start + blk.n) }).count (DMA.PLAY_BLOCKS k)
      let s := s.set (DMA.PLAY_RD_IDX k) (rd + 1)
      .next ((s.hostWrite (1024 + k) [s.addr64 (DMA.PLAY_WB_LO k) (DMA.PLAY_WB_HI k) 2] (le 4 (s.get (DMA.PLAY_RD_IDX k)))).fire 27)

/-- Playback set x supplies pass n (R415, check point 7): its source values, silence not being listed. `ue`: the sets whose read meets an uncorrectable error;
it belongs to the block as stored, and every later read of the block meets it (R202). A set in ERROR fetches nothing further (R395) but goes on supplying the
blocks it holds, and counts and signals its gaps as one in RUN does (DESIGN CHOICE, assumption 96). -/
def State.playSupply (n : Nat) (damaged ue : List Nat) (a : List (Nat × Int) × State) (x : PlayRun) : List (Nat × Int) × State :=
  let (vals, s) := a
  let k := x.set
  let x := ((s.dma.play.find? (fun y => y.set == k)).getD x)
  let keep := x.blocks.filter (fun b => decide (n + 1 < b.start + b.n))
  match x.blocks.find? (fun b => decide (b.start ≤ n ∧ n < b.start + b.n ∧ b.stored < n)) with
  | some b =>
    let hit := b.ue || ue.contains k
    let (fails, _, s) := s.checkSeal 7 (s.setFirst 1 k) (b.bad || s.absent 7 || hit) (damaged.contains k)
    let keep := keep.map (fun c => if c.start = b.start then { c with ue := hit } else c)
    let s := (s.set (DMA.PLAY_GAP_FLAG k) 0).setPlay { x with blocks := keep, fed := true }
    let s := if hit then s.lbankUe 7 else s
    if fails then (vals, s)
    else (vals ++ (nth b.vals (n - b.start) []).zipIdx.map (fun v => (5376 + s.setFirst 1 k + v.2, v.1)), s)
  | none =>
    let s := ((s.count (DMA.PLAY_GAP_CNT k)).set (DMA.PLAY_GAP_FLAG k) 1).setPlay { x with blocks := keep, fed := false }
    (vals, if x.fed then s.dmaSignal DMA.INT_PLAY_GAP 0x0164 k (le 8 n) else s)

/-- The playback sources of pass n; `damaged` names the sets whose block does not match its seal, `ue` those whose read meets an uncorrectable error. -/
def State.playbackPass (s : State) (n : Nat) (damaged ue : List Nat) : List (Nat × Int) × State :=
  s.dma.play.foldl (State.playSupply n damaged ue) ([], s)

end Sys2Proof.Machine
end

