-- ==== Sys2Proof/Machine/RegWrite.lean ====
section
/-! DEFINITION. A register access: what a write of a word does, block by block (R13 to R19, R37, and the register tables of the chapters), and what a
read returns (R16, R19, R31 to R33). -/

namespace Sys2Proof.Machine

/-- The state a meaning answers. -/
def nextOf (d : State) (o : Out) : State :=
  match o with
  | .next s => s
  | _ => d

/-! ## The blocks of BAR0 (R37) -/

/-- The register table of the block an offset lies in. -/
def blockFields (off : Nat) : List FldSpec :=
  if off < 0x10000 then SYS.fields else if off < 0x20000 then CMD.fields else if off < 0x30000 then DMA.fields
  else if off < 0x40000 then MSIX.fields else if off < 0x80000 then PORT.fields else if off < 0xA0000 then TIME.fields
  else if off < 0xC0000 then CLK.fields else if off < 0x100000 then STRM.fields else if off < 0x140000 then QUE.fields
  else if off < 0x180000 then ANVIL.fields else if off < 0x1A0000 then TDM.fields else if off < 0x1C0000 then AMP.fields
  else if off < 0x1D0000 then ORB.fields else if off < 0x1E0000 then PAIR.fields else if off < 0x1F0000 then TEST.fields
  else LIFE.fields

/-- Is `off` one of `n` words `stride` bytes apart from `base`: which one. -/
def wordIdx (base stride n off : Nat) : Option Nat :=
  if base ≤ off ∧ (off - base) % stride = 0 ∧ (off - base) / stride < n then some ((off - base) / stride) else none

/-- Index of an instance of `stride` bytes, and the offset inside it. -/
def instOf (base stride off : Nat) : Nat × Nat := ((off - base) / stride, (off - base) % stride)

/-- Quantities of two words that are written LO first, with the class each takes effect under (R19): the 64-bit ones, and the 48-bit MAC addresses,
which are split in the same way (DEDUCED, assumption 95). SET_SEC is two fields of class L of its own (R82, R85), and is not among them. -/
def splitWrites : List (Fld × Nat × Upd) :=
  List.flatten [[(PORT.WAKE_MAC_LO, 0x60808, .live), (ANVIL.DITHER_SEED_LO, 0x14001C, .pass)],
    (List.range 4).flatMap (fun p => (List.range 32).map (fun e => (PORT.MATCH_ADDR_LO p e, 0x40104 + 0x10000 * p + 8 * e, Upd.rxFrame))),
    (List.range 65).flatMap (fun i => [(DMA.RING_BASE_LO i, 0x21008 + 0x40 * i, Upd.static), (DMA.RING_WB_LO i, 0x21010 + 0x40 * i, .static)]),
    (List.range 64).flatMap (fun k => [(DMA.REC_BASE_LO k, 0x2400C + 0x40 * k, Upd.static), (DMA.REC_WB_LO k, 0x2401C + 0x40 * k, .static),
      (DMA.PLAY_BASE_LO k, 0x2500C + 0x40 * k, .static), (DMA.PLAY_WB_LO k, 0x2501C + 0x40 * k, .static)]),
    (List.range 16).map (fun d => (ORB.MOON_EUI_LO d, 0x1C0804 + 0x10 * d, Upd.static))]

/-- The owner of the class-S quantity in the word at `off` is idle: a ring or set whose STATE reads DISABLED (R418), a moon table entry whose EN
reads 0 (R460). -/
def State.splitIdle (s : State) (off : Nat) : Bool :=
  if 0x21000 ≤ off ∧ off < 0x24000 then s.get (DMA.RING_STATE (instOf 0x21000 0x40 off).1) == 0
  else if 0x24000 ≤ off ∧ off < 0x26000 then
    let dir := if off < 0x25000 then 0 else 1
    s.get (setState dir (instOf (0x24000 + 0x1000 * dir) 0x40 off).1) == 0
  else if 0x1C0800 ≤ off ∧ off < 0x1C0900 then !s.on (ORB.MOON_EN (instOf 0x1C0800 16 off).1)
  else true

/-- A write of LO of a split quantity: a class-S one changes only while its owner is idle (R18, R19). -/
def State.loWrite (s : State) (f : Fld) (u : Upd) (source off w : Nat) : State :=
  if u = .static ∧ !s.splitIdle off then (if f.part w = s.get f then s else s.cfgReject source off) else s.setLo f (f.part w)

/-- HI is about to be written: LO takes effect with it, unless the quantity is of class S and its owner runs. -/
def State.hiJoin (s : State) (f : Fld) (u : Upd) (off : Nat) : State :=
  if u = .static then (if s.splitIdle off then s.joinLo f .live else s) else s.joinLo f u

/-- HI may not bring its waiting LO into force: the quantity is of class S and its owner runs. -/
def State.hiBarred (s : State) (f : Fld) (u : Upd) (off : Nat) : Bool :=
  u = .static && !s.splitIdle off && s.held.any (fun h => h.key == f.key)

/-! ## Writes by block -/

/-- A plain word of a block: its fields under their types and classes. -/
def State.plainWrite (s : State) (idle : Bool) (source off w : Nat) : State := s.writeWord (blockFields off) idle source off w

/-- WARM_CTRL (R531): WARM_RESET with its key. -/
def State.warmWrite (s : State) (w : Nat) : State := if w / 2 ^ 16 = 0x5752 ∧ w % 2 = 1 then s.warmFrom 5 else s

def State.writeSys (s : State) (source off w : Nat) : State :=
  if off = 0x3C then s.warmWrite w else s.plainWrite (off != 0x400 || !s.playRuns) source off w

/-- DMA.INT, rings and sets (R418 to R420). -/
def State.writeDma (s : State) (source off w : Nat) : State :=
  let v := BitVec.ofNat 32 w
  if 0x21000 ≤ off ∧ off < 0x21000 + 65 * 0x40 then
    let (i, o) := instOf 0x21000 0x40 off
    if o = 0 then nextOf s (hostRingEnWrite source i v s)
    else if o = (hostIndex i).off - (0x21000 + 0x40 * i) then nextOf s (hostRingIndexWrite i v s)
    else s.plainWrite (s.get (DMA.RING_STATE i) == 0) source off w
  else if 0x24000 ≤ off ∧ off < 0x26000 then
    let dir := if off < 0x25000 then 0 else 1
    let (k, o) := instOf (0x24000 + 0x1000 * dir) 0x40 off
    if 63 < k then s
    else if o = 0 then nextOf s (hostSetEnWrite source dir k v s)
    else if o = 0x20 ∧ dir = 1 then nextOf s (hostPlayWrIdxWrite k v s)
    else if o = 0x24 ∧ dir = 0 then nextOf s (hostRecRdIdxWrite k v s)
    else s.plainWrite (s.get (setState dir k) == 0) source off w
  else s.plainWrite true source off w

/-- The MSI-X table: a vector unmasked with its pending bit set sends its message, unless it lies within its interval. -/
def State.writeMsix (s : State) (source off w : Nat) : State :=
  let s := s.plainWrite true source off w
  match wordIdx 0x3000C 16 64 off with
  | some v =>
    if s.bit (MSIX.PENDING (v / 32)) (v % 32) && !s.msiHeld v && !s.on DMA.STATUS_HOST_LOST then s.msiSend v else s
  | none => s

/-- The DISPATCH word of port p: fixed entries keep what they hold (R132). -/
def State.dispatchWrite (s : State) (source off p w : Nat) : State :=
  let old := s.get (PORT.DISPATCH p)
  let v := ((List.range 12).map (fun c => (if (s.fixedClass p c).isSome then old else w) / 4 ^ c % 4 * 4 ^ c)).sum
  s.plainWrite true source off v

/-- A port's block (R154 to R157). -/
def State.writePort (s : State) (source off w : Nat) : State :=
  let (p, o) := instOf 0x40000 0x10000 off
  if o = 0 then (s.portCtrl source p w).pauseGen p
  else if o = 0x34 then s.dispatchWrite source off p w
  else
    let s := s.plainWrite (s.portIdle p) source off w
    if o = 0x28 ∨ o = 0x2C then s.pauseGen p else s

/-- SET_NS outside a second is refused (R82). -/
def State.writeTime (s : State) (source off w : Nat) : State :=
  if off = 0x80040 ∧ 999999999 < w % 2 ^ 30 then s.cfgReject source off
  else if off = setCtrlOff then s.setCtrl source w
  else if off = 0x80070 ∧ w.testBit 2 then nextOf s (hostPcResumeWrite (BitVec.ofNat 32 w) s)
  else
    let s := s.plainWrite true source off w
    if off = 0x80000 ∨ (0x80050 ≤ off ∧ off ≤ 0x8006C) then s.servoApply (fun k => inOffs off (off + 4) k) else s

/-- Hearth (R119). -/
def State.writeClk (s : State) (source off w : Nat) : State :=
  let v := BitVec.ofNat 32 w
  if 0xA0100 ≤ off ∧ off < 0xA0300 then
    let (n, o) := instOf 0xA0100 0x40 off
    if o = 0 then nextOf s (hostRefEnableWrite source n v s)
    else if o = 4 then (s.plainWrite (!s.on (CLK.REF_ENABLE n)) source off w).refCfgErr n
    else if o = 0x1C then (if w.testBit (CLK.REF_SUSPECT n).lo then nextOf s (hostSuspectClearWrite n s) else s)
    else (s.plainWrite true source off w).disagreeAll
  else if 0xA0400 ≤ off ∧ off < 0xA0600 then
    let (d, o) := instOf 0xA0400 0x80 off
    if o = 0 then (if d = 0 then nextOf s (hostDpllModeWrite source 0 v s) else nextOf s (hostDpllEnableWrite source d v s))
    else if o = 4 then s.ranksWrite d w
    else ((s.plainWrite true source off w).wtrRun d).hoInSpec d
  else match wordIdx 0xA0800 4 4 off with
    | some n => s.wclkWrite source n w
    | none =>
      if off = 0xA0810 then nextOf s (hostPpsOutEnable source v s)
      else if off = 0xA0814 then nextOf s (hostOutAlignWrite v s)
      else
        let s := s.plainWrite true source off w
        if off = 0xA0000 then s.disagreeAll.cksPins else if off = 0xA0018 then s.disagreeAll else s

/-- STRM.TBL_CTRL: OP 1 reads, 2 writes, 3 clears (R197). -/
def State.writeStrm (s : State) (source off w : Nat) : State :=
  if off = 0xC0300 then
    let op := STRM.TBL_OP.part w
    let t := STRM.TBL_TABLE.part w
    let i := STRM.TBL_INDEX.part w
    if op = 1 then nextOf s (hostStreamTblRead t i s) else if op = 2 then nextOf s (hostStreamTblWrite source t i s)
    else if op = 3 then nextOf s (hostStreamTblClear t i s) else s.tblSelect t i
  else s.plainWrite true source off w

/-- Queues and Bellows units (R235 to R239). -/
def State.writeQue (s : State) (source off w : Nat) : State :=
  let v := BitVec.ofNat 32 w
  if 0x101000 ≤ off ∧ off < 0x101000 + 11 * 0x40 then
    let (q, o) := instOf 0x101000 0x40 off
    if o = 0 then nextOf s (hostQueueEnWrite source q v s)
    else
      let s := s.plainWrite true source off w
      if o = 4 then s.updQueue q (s.queue q) else s
  else if 0x100800 ≤ off ∧ off < 0x100900 then
    let (b, o) := instOf 0x100800 0x20 off
    if o = 0 then nextOf s (hostBellowsEnWrite source b v s)
    else
      let s := s.plainWrite true source off w
      if o = 4 ∨ o = 8 then
        let (s, ev) := s.bellows b
        ev.foldl State.raiseItem s
      else s
  else s.plainWrite true source off w

/-- ANVIL.TBL_CTRL and BATCH_CTRL (R277, R291). -/
def State.writeAnvil (s : State) (source off w : Nat) : State :=
  if off = 0x141000 then
    let op := ANVIL.TBL_OP.part w
    let t := ANVIL.TBL_TABLE.part w
    let i := ANVIL.TBL_INDEX.part w
    if op = 1 then nextOf s (hostFabricTblRead t i s) else if op = 2 then nextOf s (hostFabricTblAdd t i s) else s.fabSelect t i
  else if off = 0x141004 then
    let s := if w.testBit 1 then nextOf s (hostBatchDiscard s) else s
    if w.testBit 0 then nextOf s (hostBatchCommit s) else s
  else s.plainWrite true source off w

/-- Serial audio ports (R320 to R322). -/
def State.writeTdm (s : State) (source off w : Nat) : State :=
  if 0x180100 ≤ off ∧ off < 0x180200 then
    let (g, o) := instOf 0x180100 0x40 off
    if o = 0 then s.tdmGroupWrite source g w else s.plainWrite true source off w
  else if 0x181000 ≤ off ∧ off < 0x182000 then
    let (p, o) := instOf 0x181000 0x80 off
    if o = 0 then s.tdmCfgWrite source p w
    else if o = 8 ∨ o = 12 ∨ o = 16 then s.maskHostWrite source p ((o - 8) / 4) w false
    else s.plainWrite true source off w
  else s.plainWrite true source off w

/-- The amplifier (R347 to R350); its block is absent on an NC2048-NI (R2). -/
def State.writeAmp (s : State) (source off w : Nat) : State :=
  let v := BitVec.ofNat 32 w
  if s.isNi then s
  else if off = 0x1A001C then nextOf s (hostFreqSelRun source v s)
  else if 0x1A0100 ≤ off ∧ off < 0x1A0180 then
    let (i, o) := instOf 0x1A0100 0x20 off
    s.senWrite source i o w
  else if 0x1A0400 ≤ off ∧ off < 0x1A0C00 then
    let (n, o) := instOf 0x1A0400 0x100 off
    if o = 0 then nextOf s (hostAmpEnWrite source n v s)
    else if o = 0x2C then nextOf s (hostAmpUnlockWrite n v s)
    else if o = 0x88 then nextOf s (hostCoefSwapWrite n v s)
    else (s.plainWrite (s.ampIdle n) source off w).ampCfg
  else (s.plainWrite s.ampAllIdle source off w).ampCfg

/-- Orbit links and the moon table (R461). -/
def State.writeOrb (s : State) (source off w : Nat) : State :=
  let v := BitVec.ofNat 32 w
  if 0x1C0100 ≤ off ∧ off < 0x1C0300 then
    let (n, o) := instOf 0x1C0100 0x80 off
    if o = 0 then nextOf s (hostOrbLinkEnWrite source n v s)
    else if o = 0x10 then nextOf s (hostFwdWrite n v s)
    else s.plainWrite true source off w
  else if 0x1C0800 ≤ off ∧ off < 0x1C0900 then
    let d := (off - 0x1C0800) / 16
    s.plainWrite (!s.on (ORB.MOON_EN d)) source off w
  else s.plainWrite true source off w

/-- What a write of word `w` at `off` does, whatever may stand in its way before it reaches its block. -/
def State.regWrite (s : State) (source off w : Nat) : State :=
  let off := off / 4 * 4
  match splitWrites.find? (fun x => x.1.off == off) with
  | some (f, _, u) =>
    if (fieldsAt (blockFields off) off).any (fun x => x.2.1 == .rw) then s.loWrite f u source off w else s.plainWrite true source off w
  | none =>
    let hi := splitWrites.find? (fun x => x.2.1 == off)
    let barred := hi.any (fun x => s.hiBarred x.1 x.2.2 off)
    let s := match hi with
      | some (f, _, u) => s.hiJoin f u off
      | none => s
    if barred then s.cfgReject source off
    else if off < 0x10000 then s.writeSys source off w
    else if off < 0x20000 then (if off = 0x10000 then nextOf s (hostEvtRouteWrite source (BitVec.ofNat 32 w) s) else s.plainWrite true source off w)
    else if off < 0x30000 then s.writeDma source off w
    else if off < 0x40000 then s.writeMsix source off w
    else if off < 0x80000 then s.writePort source off w
    else if off < 0xA0000 then s.writeTime source off w
    else if off < 0xC0000 then s.writeClk source off w
    else if off < 0x100000 then s.writeStrm source off w
    else if off < 0x140000 then s.writeQue source off w
    else if off < 0x180000 then s.writeAnvil source off w
    else if off < 0x1A0000 then s.writeTdm source off w
    else if off < 0x1C0000 then s.writeAmp source off w
    else if off < 0x1D0000 then s.writeOrb source off w
    else if off < 0x1E0000 ∧ s.isMoon then s
    else if off = 0x1D0000 then s.pairCtrl source w
    else if off < 0x200000 then s.plainWrite true source off w
    else s

/-! ## Reads -/

/-- INT_STAT (R400): MB_IN_FREE, MB_OUT_READY, EVT_LEVEL, EVT_PENDING, the highest bit first. -/
def State.intStat (s : State) : List Bool :=
  [s.cmdOpen && s.csp.inBox.isNone, s.csp.outBox.isSome, s.bit QUE.LVL_X 0, s.on CMD.EVT_ROUTE && !(s.queue 0).ready.isEmpty]

/-- INT_N is asserted (R399): a bit of INT_STAT reads 1 whose INT_EN bit is 1. -/
def State.intWant (s : State) : Bool := (s.intStat.zipIdx).any (fun b => b.1 && s.bit CMD.INT_EN (3 - b.2))

/-- Registers that show what counts or moves elsewhere take their present values (R31 to R33, R400). -/
def State.refresh (s : State) : State :=
  let s := ((s.set TIME.MEDIA48_LO s.media48).set TIME.MEDIA48_HI (s.media48 / 2 ^ 32)).set TIME.SHORT s.shortTime
  let s := (s.set TIME.MEDIA44_LO s.media44).set TIME.MEDIA44_HI (s.media44 / 2 ^ 32)
  let stat := s.intStat
  let s := (((s.setOn CMD.STATUS_MB_IN_FREE (nth stat 0 false)).setOn CMD.STATUS_MB_OUT_READY (nth stat 1 false)).setOn
    CMD.STATUS_EVT_LEVEL (nth stat 2 false)).setOn CMD.STATUS_EVT_PENDING (nth stat 3 false)
  let s := (s.pairLive.calLive).showCopy
  [0, 1, 2, 3].foldl State.settlePause s

/-- A read of LO latches the registers that belong with it (R19): offsets of LO and of its HI. -/
def splitReads : List (Nat × Nat) :=
  List.flatten [[(0x20010, 0x20014), (0x80024, 0x80028), (0x8002C, 0x80030), (0x80034, 0x80038), (0x80114, 0x80118), (0x8011C, 0x80120),
      (0x80194, 0x80198), (0x8019C, 0x801A0), (0x60804, 0x60808)],
    [(0x140010, 0x140014), (0x140018, 0x14001C), (0x14100C, 0x141010), (0x1E0048, 0x1E004C), (0x1E0050, 0x1E0054), (0x1F0040, 0x1F0044),
      (0x1F0048, 0x1F004C)],
    (List.range 4).flatMap (fun p => [(0x40020 + 0x10000 * p, 0x40024 + 0x10000 * p), (0x1D0020 + 8 * p, 0x1D0024 + 8 * p),
      (0x1C0108 + 0x80 * p, 0x1C010C + 0x80 * p)]),
    (List.range 16).map (fun d => (0x1C0800 + 16 * d, 0x1C0804 + 16 * d)),
    (List.range 65).flatMap (fun i => [(0x21004 + 0x40 * i, 0x21008 + 0x40 * i), (0x2100C + 0x40 * i, 0x21010 + 0x40 * i)]),
    (List.range 64).flatMap (fun k => [(0x24008 + 0x40 * k, 0x2400C + 0x40 * k), (0x24018 + 0x40 * k, 0x2401C + 0x40 * k),
      (0x25008 + 0x40 * k, 0x2500C + 0x40 * k), (0x25018 + 0x40 * k, 0x2501C + 0x40 * k)]),
    (List.range 4).flatMap (fun p => (List.range 32).map (fun e => (0x40100 + 0x10000 * p + 8 * e, 0x40104 + 0x10000 * p + 8 * e))),
    (List.range 4).flatMap (fun p => [1, 27].map (fun n => (0x40400 + 0x10000 * p + 8 * n, 0x40404 + 0x10000 * p + 8 * n)))]

/-- A word of a port's counters (R146, R156): the counter, or its copy in snapshot mode. -/
def State.statWord (s : State) (off : Nat) : Option Nat :=
  let (p, o) := instOf 0x40000 0x10000 off
  if 0x40000 ≤ off ∧ off < 0x80000 ∧ 0x400 ≤ o ∧ o < 0x400 + 8 * 42 then
    let n := (o - 0x400) / 8
    let v := if s.on (PORT.STAT_SNAP_MODE p) then nth (s.port p).snap n 0 else s.get (PORT.STAT p n)
    some (if o % 8 = 0 then v % 2 ^ 32 else v / 2 ^ 32)
  else none

/-- The word last written at `off` and held during a slice, which a read returns (R480). -/
def State.heldWord (s : State) (off : Nat) : Option Nat :=
  (s.test.writes.filter (fun x => x.2.1 == off)).getLast?.map (fun x =>
    ((fieldsAt (blockFields off) off).map (fun f => (if f.2.1 = .rw then f.1.part x.2.2 else s.get f.1) * 2 ^ f.1.lo)).sum)

/-- The word at `off` as it stands, the live values being up to date. -/
def State.wordAt (s : State) (off : Nat) : Nat :=
  if 0x1A0000 ≤ off ∧ off < 0x1C0000 ∧ s.isNi then 0
  else if (s.heldWord off).isSome then (s.heldWord off).getD 0
  else match s.statWord off with
    | some v => v
    | none =>
      if 0x40000 ≤ off ∧ off < 0x80000 ∧ off % 0x10000 = 0x34 then s.dispatchWord (off / 0x10000 - 4)
      else if off < 0x200000 then s.word (blockFields off) off else 0

/-- Any ring or set runs, so that reads of host memory may be in flight. -/
def State.dmaRuns (s : State) : Bool :=
  (List.range 65).any (fun i => s.get (DMA.RING_STATE i) == 1) ||
  (List.range 64).any (fun k => s.get (DMA.REC_STATE k) == 1 || s.get (DMA.PLAY_STATE k) == 1)

/-- READS, the reads in flight, at most 256 (R6, R394). No row starts or ends a single read, so how many are in flight while a ring or set runs is left
open: a free value in its range (assumption 54); without one there are none, and a lost host side abandons every one (R393). -/
def State.showReads (s : State) : State :=
  if s.dmaRuns && !s.on DMA.STATUS_HOST_LOST then
    let (v, s) := s.fresh 16
    s.set DMA.STATUS_READS (v % 257)
  else s.set DMA.STATUS_READS 0

/-- A host read of the word at `off` (R14, R16, R19): RC fields restart, LO latches HI, HI returns what LO latched. A latched HI is returned by every
later read of HI until LO is read again, whatever is written to the pair meanwhile (DESIGN CHOICE, assumption 94: R19 says only that a following read of
HI returns it). -/
def State.regRead (s : State) (off : Nat) : Nat × State :=
  let off := off / 4 * 4
  let s := s.refresh
  let s := if off = 0x20004 then s.showReads else s
  if off = 0x80010 then
    let s := nextOf s (execTimeNowRead s)
    (s.rd, s)
  else if off = 0x1F0010 then
    let s := nextOf s (execCalSubRead s)
    (s.rd, s)
  else if off = 0x10014 then
    let w := s.wordAt off
    (w, nextOf s (execPeakTagsRead s))
  else match wordIdx 0x101020 0x40 11 off with
    | some q =>
      let s := nextOf s (execPeakOccRead q s)
      (s.rd, s)
    | none =>
      match splitReads.find? (fun x => x.1 == off), s.latch.find? (fun x => x.1 == off) with
      | some (_, hi), _ => (s.wordAt off, s.latchAs hi (s.wordAt hi))
      | none, some (_, v) => (v, s)
      | none, none => (s.wordAt off, s)

/-- SPLIT_LO_READ (R19, R32): a host reads the LO word at `off`. -/
def execSplitLoRead (off : Nat) (s : State) : Out :=
  let (v, s) := s.regRead off
  .next { s with rd := v }

end Sys2Proof.Machine
end

