-- ==== Sys2Proof/Machine/Image.lean ====
section
/-! DEFINITION. Configuration images (R507 to R512): the image of the configuration in force, its checks, and its application at row 9 of a start. The
layout of the sections is the model's (DESIGN CHOICE, assumption 40). -/

namespace Sys2Proof.Machine

/-! ## The fields an image holds (R507) -/

/-- The register table of an offset, those of the indirect tables included. -/
def anyFields (off : Nat) : List FldSpec :=
  if off < 0x200000 then blockFields off
  else if off < 0x500000 then RXE.entry ((off - 0x400000) / 0x80)
  else if off < 0x600000 then TXE.entry ((off - 0x500000) / 0x80)
  else if off < 0x800000 then []
  else if off < 0x900000 then ROUTE.entry ((off - 0x800000) / 16)
  else if off < 0xA00000 then TERM.entry ((off - 0x900000) / 16)
  else BUS.entry ((off - 0xA00000) / 16)

/-- Not configuration: the MSI-X table, what enables a ring or a set and its host index, identity, calendar and Temper state, and the entries and
states that the unit itself writes by command. -/
def notConfig (off lo : Nat) (ty : Ty) : Bool :=
  let inRing := decide (0x21000 ≤ off ∧ off < 0x24000)
  let inSet := decide (0x24000 ≤ off ∧ off < 0x26000)
  decide (0x30000 ≤ off ∧ off < 0x40000) ||
  (inRing && (off % 0x40 == 0 && lo == (DMA.RING_EN 0).lo || off % 0x40 == (DMA.RING_PI 0).off % 0x40 || off % 0x40 == (DMA.RING_CI 0).off % 0x40)) ||
  (inSet && (off % 0x40 == 0 && lo == (DMA.REC_EN 0).lo || off % 0x40 == 0x20 || off % 0x40 == 0x24)) ||
  (ty == .cp && decide (0x40000 ≤ off ∧ off < 0x80000) && off % 0x10000 != (PORT.NMOS_PORT 0).off % 0x10000 &&
    off % 0x10000 != (PORT.SUOSH_PORT 0).off % 0x10000) ||
  (ty == .cp && (decide (0x1E0000 ≤ off) && decide (off < 0x200000) || off == (TIME.PORT_STATE 0).off || off == (TIME.PORT_STATE 1).off)) ||
  (off == LIFE.TRIM.off && lo == LIFE.TRIM.lo)

/-- The configuration field stored under `key`, if that key is one. -/
def configFld (key : Nat) : Option Fld :=
  match (fieldsAt (anyFields (key / 32)) (key / 32)).find? (fun f => f.1.lo == key % 32) with
  | some (f, ty, _) => if (ty == .rw || ty == .cp) && !notConfig (key / 32) f.lo ty then some f else none
  | none => none

/-! ## Sections -/

/-- Section 1: every configuration field that differs from its reset value, as its key (4 bytes) and value (8). -/
def State.regSection (s : State) : List Byte :=
  s.regs.flatMap (fun x => if (configFld x.1).isSome then le 4 x.1 ++ le 8 x.2 else [])

/-- Section 2: the identity in force. -/
def State.idSection (s : State) : List Byte :=
  be 8 s.life.ident.eui ++ (List.range 4).flatMap (fun p => be 6 (unitAt s.life.ident.macs p 0)) ++ s.svc.hostname

/-- An item of section 3: its length (2) and bytes. -/
def item (b : List Byte) : List Byte := le 2 b.length ++ b

/-- The services' settings, a list of items. -/
def State.svcItems (s : State) : List (List Byte) :=
  let v := s.svc
  let port := fun (p : Nat) =>
    let c := (s.psvc p).cfg
    le 1 c.v4Mode ++ le 4 c.v4Addr ++ le 1 c.v4Prefix ++ le 4 c.v4Gw ++ le 1 c.v6En ++ le 1 c.v6Slaac ++
      c.v6Addrs.flatMap (fun a => le 16 a.1 ++ le 1 a.2)
  let ptp := fun (p : Nat) =>
    let x := s.ptp p
    le 1 x.prio1 ++ le 1 x.prio2 ++ le 1 x.dscp ++ leI 1 x.logAnnounce ++ le 1 x.receiptTimeout
  let exposed := v.exposed.flatMap (fun e => le 1 e.dir ++ le 2 e.stream ++ le 1 e.expose ++ le 1 e.label.length ++ padTo 64 e.label)
  let groups := (List.range 4).flatMap (fun p => ((s.psvc p).groups.filter (fun g => g.reason == 4)).map (fun g =>
    le 1 p ++ le 1 g.ip ++ le 16 g.addr ++ le 1 g.mode ++ g.sources.flatMap (le 16)))
  List.flatten [
    [port 0, port 1, port 2, port 3, v.label, v.description],
    [le 1 v.servicePorts ++ le 1 v.nmosMode ++ le 16 v.registry ++ le 2 v.registryPort ++ le 64 v.sapStreams ++ le 1 v.sapAnnounce ++
      le 16 v.sapGroup ++ le 2 v.sapInterval ++ le 1 v.sapListen, ptp 0, ptp 1],
    [s.time.cls.flatMap (fun c => match c with
        | some x => le 1 1 ++ le 1 x
        | none => le 2 0) ++ le 1 s.time.accuracy ++ le 2 s.time.variance ++ le 1 s.time.timeSource, exposed,
     s.strm.csTx.flatMap (fun c => le 2 c.1 ++ le 1 c.2.1 ++ padTo 24 (c.2.2.2.getD c.2.2.1))],
    groups]

/-- A section: TYPE (2), LEN (4), body. -/
def sectionBytes (ty : Nat) (b : List Byte) : List Byte := le 2 ty ++ le 4 b.length ++ b

/-- The image of the configuration in force at the given level, signed by the unit's key. -/
def State.imageOf (s : State) (level : Nat) : List Byte :=
  let body := sectionBytes 1 s.regSection ++ sectionBytes 2 s.idSection ++ sectionBytes 3 (s.svcItems.flatMap item)
  let m := ascii "HCFG" ++ le 2 1 ++ le 1 level ++ le 1 1 ++ be 8 s.hwEui ++ le 8 s.calSec ++ le 4 (32 + body.length + 168) ++
    le 4 s.deviceId ++ body ++ s.life.cert
  m ++ edSign s.life.unitSeed m

/-! ## Reading an image -/

def imgLevel (b : List Byte) : Nat := leAt b 6 1
def imgFlags (b : List Byte) : Nat := leAt b 7 1

/-- The part of an image that holds its sections. -/
def imgBody (b : List Byte) : List Byte := (b.drop 32).take (b.length - 32 - (if (imgFlags b).testBit 1 then 64 else 168))

/-- The sections of a body as (type, offset in the image, bytes); none where they do not fill it. `n` bounds their number. -/
def readSections : Nat → Nat → List Byte → Option (List (Nat × Nat × List Byte))
  | 0, _, l => if l = [] then some [] else none
  | n + 1, off, l =>
    if l = [] then some []
    else
      let len := leAt l 2 4
      if l.length < 6 + len then none
      else (readSections n (off + 6 + len) (l.drop (6 + len))).map (fun r => (leAt l 0 2, off, (l.drop 6).take len) :: r)

def imgSections (b : List Byte) : Option (List (Nat × Nat × List Byte)) := readSections b.length 32 (imgBody b)

/-- The items of a section, none where they do not fill it. -/
def readItems : Nat → List Byte → Option (List (List Byte))
  | 0, l => if l = [] then some [] else none
  | n + 1, l =>
    if l = [] then some []
    else
      let len := leAt l 0 2
      if l.length < 2 + len then none else (readItems n (l.drop (2 + len))).map (fun r => (l.drop 2).take len :: r)

/-- The register values of section 1, as (key, value). -/
def readRegs (b : List Byte) : List (Nat × Nat) :=
  (List.range (b.length / 12)).map (fun i => (leAt b (12 * i) 4, leAt b (12 * i + 4) 8))

/-- Length and layout hold (check 1 of R509). -/
def imgLayout (b : List Byte) : Bool :=
  decide (b.length ≤ 1048576) && leAt b 24 4 == b.length && (b.take 4 == ascii "HCFG") && leAt b 4 2 == 1 && decide (imgFlags b < 4) &&
    decide (32 + (if (imgFlags b).testBit 1 then 64 else 168) ≤ b.length) && (imgSections b).isSome

/-- The signatures hold under the owner key (check 2). -/
def imgSigned (owner b : List Byte) : Bool :=
  let m := b.take (b.length - 64)
  let sig := b.drop (b.length - 64)
  if (imgFlags b).testBit 1 then edVerify owner m sig
  else
    let c := (b.drop (b.length - 168)).take 104
    edVerify owner (c.take 40) (c.drop 40) && edVerify ((c.drop 8).take 32) m sig

/-- A section is known, and its values lie inside their fields (check 4). -/
def sectionOk (ty : Nat) (b : List Byte) : Bool :=
  if ty = 1 then b.length % 12 == 0 && (readRegs b).all (fun x => match configFld x.1 with
    | some f => decide (x.2 < 2 ^ f.w)
    | none => false)
  else if ty = 2 then decide (32 ≤ b.length ∧ b.length ≤ 32 + 63)
  else if ty = 3 then match readItems b.length b with
    | some l => decide (12 ≤ l.length)
    | none => false
  else false

/-- The values of section 1 lie inside the limits of their chapters: those of the streams it enables (R163, R164), and every bus's number of terms
(R262). -/
def State.regLimits (s : State) (b : List Byte) : Bool :=
  let t : State := (readRegs b).foldl (fun (t : State) x => match configFld x.1 with
    | some f => t.set f x.2
    | none => t) { s with regs := [] }
  [0, 1].all (fun d => (List.range 512).all (fun i => !(t.entry d i).on || (t.limitsOk d i && t.slotsOk d i))) &&
    (List.range 256).all (fun k => decide (t.get (BUS.TERM_COUNT k) ≤ 64))

/-- The checks of R509 in order: status and, for a section refused, its offset. -/
def State.imageCheck (s : State) (b : List Byte) : Nat × Nat :=
  if !imgLayout b then (Status.badLength, 0)
  else if !imgSigned s.life.owner b then (Status.authFail, 0)
  else if s.blMax < imgLevel b then (Status.notInState, 0)
  else match ((imgSections b).getD []).find? (fun x => !sectionOk x.1 x.2.2 || (x.1 == 1 && !s.regLimits x.2.2)) with
    | some x => (Status.badParam, x.2.1)
    | none => (0, 0)

/-- The body of the section of a type. -/
def imgSection (b : List Byte) (ty : Nat) : Option (List Byte) := (((imgSections b).getD []).find? (fun x => x.1 == ty)).map (fun x => x.2.2)

/-- The identity an image carries. -/
def imgIdent (b : List Byte) : Option Identity :=
  if (imgFlags b).testBit 0 then
    (imgSection b 2).map (fun l => ⟨beAt l 0 8, Vector.ofFn (fun (p : Fin 4) => beAt l (8 + 6 * p.val) 6), l.drop 32, true⟩)
  else none

/-! ## Applying an image (R510) -/

/-- Fields that start something, which are raised after every other field has its value. -/
def starters : List Fld :=
  List.flatten [(List.range 8).map CLK.REF_ENABLE, [CLK.DPLL_ENABLE 1, CLK.DPLL_ENABLE 2, CLK.DPLL_ENABLE 3], (List.range 4).map PORT.PORT_EN,
    (List.range 4).map ORB.LINK_EN, [PAIR.CTRL_PAIR_EN], (List.range 512).map RXE.ENABLE, (List.range 512).map TXE.ENABLE,
    (List.range 32).map TDM.P_PORT_EN]

/-- Every field takes the image's value, or its reset value where the image does not list it. -/
def State.putRegs (s : State) (l : List (Nat × Nat)) : State :=
  let clear := (s.regs.filterMap (fun x => configFld x.1)).foldl (fun s f => s.set f f.reset) s
  l.foldl (fun s x => match configFld x.1 with
    | some f => s.set f x.2
    | none => s) clear

/-- The services' settings take the values of the items. -/
def State.putItems (s : State) (l : List (List Byte)) : State :=
  let it := fun (i : Nat) => nth l i []
  let port := fun (s : State) (p : Nat) =>
    let b := it p
    let c : IpCfg := ⟨leAt b 0 1, leAt b 1 4, leAt b 5 1, leAt b 6 4, leAt b 10 1, leAt b 11 1,
      (List.range ((b.length - 12) / 17)).map (fun i => (leAt b (12 + 17 * i) 16, leAt b (28 + 17 * i) 1))⟩
    s.setPsvc p { s.psvc p with cfg := c }
  let s := [0, 1, 2, 3].foldl port s
  let b := it 6
  let exposed := (List.range ((it 10).length / 69)).map (fun i =>
    let e := (it 10).drop (69 * i)
    (⟨leAt e 0 1, leAt e 1 2, leAt e 3 1, (e.drop 5).take (leAt e 4 1), 0, s.snapOf (leAt e 0 1) (leAt e 1 2), [], none⟩ : Expose))
  let v := { s.svc with label := it 4, description := it 5, servicePorts := leAt b 0 1, nmosMode := leAt b 1 1, registry := leAt b 2 16 }
  let v := { v with registryPort := leAt b 18 2, sapStreams := leAt b 20 64, sapAnnounce := leAt b 84 1, sapGroup := leAt b 85 16 }
  let s : State := { s with svc := { v with sapInterval := leAt b 101 2, sapListen := leAt b 103 1, exposed := exposed } }
  let ptp := fun (s : State) (p : Nat) =>
    let b := it (7 + p)
    let x := { s.ptp p with prio1 := leAt b 0 1, prio2 := leAt b 1 1, dscp := leAt b 2 1, logAnnounce := toSigned 8 (leAt b 3 1) }
    s.setPtp p { x with receiptTimeout := leAt b 4 1 }
  let s := [0, 1].foldl ptp s
  let q := it 9
  let cls := (List.range 4).map (fun i => if leAt q (2 * i) 1 = 1 then some (leAt q (2 * i + 1) 1) else none)
  let s : State := { s with time := { s.time with cls := cls, accuracy := leAt q 8 1, variance := leAt q 9 2, timeSource := leAt q 11 1 } }
  let cs := (List.range ((it 11).length / 27)).map (fun i =>
    let e := (it 11).drop (27 * i)
    (leAt e 0 2, leAt e 2 1, (e.drop 3).take 24, (none : Option (List Byte))))
  let s : State := { s with strm := { s.strm with csTx := cs } }
  (l.drop 12).foldl (fun s g => s.joinGroup (leAt g 0 1) (leAt g 1 1) (leAt g 2 16) 4 (leAt g 18 1)
    ((List.range ((g.length - 19) / 16)).map (fun i => leAt g (19 + 16 * i) 16))) s

/-- Routes, terms and offsets in force at once, with no ramp. -/
def State.putTables (s : State) : State :=
  let s := s.routes.foldl (fun s d => s.set (ROUTE.GAIN_NOW d) (s.get (ROUTE.GAIN d))) s
  let s := (s.buses.flatMap s.busTerms).foldl (fun s t => s.set (TERM.GAIN_NOW t) (s.get (TERM.GAIN t))) s
  (List.range 64).foldl (fun s g => s.set (ANVIL.ALIGN_D g) (s.get (ANVIL.ALIGN_D_TARGET g))) s

/-- What the configuration enables is started by the means of each unit; `want` has the image's values. Amplifier channels wait for row 10. -/
def State.startConfigured (want s : State) : State :=
  let s := (List.range 8).foldl (fun s n => (s.refCfgErr n).refEnable n (want.on (CLK.REF_ENABLE n))) s
  let s := [1, 2, 3].foldl (fun s d => s.dpllEnable d (want.on (CLK.DPLL_ENABLE d))) s
  let s := ([0, 1, 2, 3].foldl (fun s d => (s.wtrRun d).hoInSpec d) s).disagreeAll.servoApply (fun _ => true)
  let s := [0, 1, 2, 3].foldl (fun s p => if want.on (PORT.PORT_EN p) then (s.set (PORT.PORT_EN p) 1).portEnable p true else s) s
  let blw := fun (s : State) (b : Nat) =>
    let (s, ev) := s.bellows b
    ev.foldl State.raiseItem s
  let s := (List.range 8).foldl blw s
  let s := [0, 1, 2, 3].foldl (fun s g => s.tdmGroupApply g 0 false) s
  let s := ((List.range 32).filter (fun p => want.on (TDM.P_PORT_EN p))).foldl State.tdmStart s.tdmStatus
  let link := fun (s : State) (n : Nat) =>
    (s.fwdWrite n (want.word ORB.fields (ORB.LINK_FWD n 0).off)).linkEnable n (want.on (ORB.LINK_EN n))
  let s := ([0, 1, 2, 3].foldl link s).putTables.ampCfg
  let s := ([0, 1].flatMap (fun d => ((List.range 512).filter (fun i => (want.entry d i).on)).map (fun i => (d, i)))).foldl (fun s x => (s.enableStream x.1 x.2 true).2.2) s
  if s.isMoon then s else s.pairEnable (want.on PAIR.CTRL_PAIR_EN)

/-- The image's sections 1 and 3 are applied with every block idle. -/
def State.applyImage (s : State) (b : List Byte) : State :=
  let want := s.putRegs (readRegs ((imgSection b 1).getD []))
  let s := starters.foldl (fun s f => s.set f f.reset) want
  let s := match imgSection b 3 with
    | some c => s.putItems ((readItems c.length c).getD [])
    | none => s
  want.startConfigured s

/-- Event 0x0B08 (R510): slot, level, and cause 0 applied, 1 fell back to the other slot, 2 reset values. -/
def State.cfgEvent (s : State) (slot level cause : Nat) : State :=
  let d := [BitVec.ofNat 8 slot, BitVec.ofNat 8 level, BitVec.ofNat 8 cause]
  let s : State := { s with boot := { s.boot with cfgCause := cause } }
  (s.faultEvent 0x0B08 17 0 d).signal LIFE.INT LIFE.INT_EN LIFE.INT_CONFIG 0x0B08 17 0 d

/-- The image to be used at a start: its slot and cause; none where reset values are. -/
def State.chooseImage (s : State) : Option (Nat × Nat) :=
  let k := s.get LIFE.STATUS_CONFIG_SLOT
  let good := fun (j : Nat) => (s.imageCheck (unitAt s.life.cfg j [])).1 == 0
  if good k then some (k, 0) else if good (1 - k) then some (1 - k, 1) else none

/-- Row 9 (R510): the configuration image of the current slot is verified and applied. With no image stored the level in force is BLMAX. A moon
takes nothing of it but its identity (R530). -/
def State.configure (s : State) : State :=
  if !s.on LIFE.STATUS_CONFIG_VALID then s.set LIFE.STATUS_BL s.blMax
  else match s.chooseImage with
    | none => (s.set LIFE.STATUS_BL s.blMax).cfgEvent (s.get LIFE.STATUS_CONFIG_SLOT) s.blMax 2
    | some (k, cause) =>
      let b := unitAt s.life.cfg k []
      let s := (s.set LIFE.STATUS_BL (imgLevel b)).set LIFE.STATUS_CONFIG_SLOT k
      let s := if s.isMoon then s else s.applyImage b
      s.cfgEvent k (imgLevel b) cause

/-! ## Commands (R508 to R511) -/

/-- The slot not in use. -/
def State.otherCfg (s : State) : Nat := 1 - s.get LIFE.STATUS_CONFIG_SLOT

/-- The unit key and its certificate exist. -/
def State.canSign (s : State) : Bool := !s.life.unitSeed.isEmpty && s.on LIFE.STATUS_CERT_VALID

/-- A configuration slot takes bytes. -/
def State.putCfg (s : State) (k : Nat) (b : List Byte) : State :=
  (s.withLife { s.life with cfg := s.life.cfg.setIfInBounds k b }).wear (2 + k) 1

/-- CONFIG_STORE: LEVEL (R508). -/
def execConfigStore (r : Req) (p : List Tlv) (s : State) : Out :=
  runCmd 0x0B0B [popt 1 1 1 255] (fun q s =>
    let level := (Params.val? q 1).getD (s.get LIFE.STATUS_BL)
    if !s.canSign then (Reply.err Status.notInState, s)
    else if s.get LIFE.STATUS_BL < level then (Reply.errAt Status.badParam q 1, s)
    else
      let k := s.otherCfg
      let s := (s.putCfg k (s.imageOf level)).checkpoint
      (Reply.ok [], (s.set LIFE.STATUS_CONFIG_SLOT k).set LIFE.STATUS_CONFIG_VALID 1)) r p s

/-- CONFIG_EXPORT: Slot; offset; length. -/
def execConfigExport (r : Req) (p : List Tlv) (s : State) : Out :=
  runCmd 0x0B0C [preq 1 1 0 1, popt 2 4 0 1048575, preq 3 2 1 65024] (fun q s =>
    if !s.canSign then (Reply.err Status.notInState, s)
    else (Reply.ok (((unitAt s.life.cfg (Params.val q 1) []).drop (Params.val q 2)).take (Params.val q 3)), s)) r p s

/-- CONFIG_IMPORT: Offset; chunk; FINAL (R509). An image that fails its checks leaves the slot not in use empty. -/
def execConfigImport (r : Req) (p : List Tlv) (s : State) : Out :=
  match s.refuses r 0x0B0D [preq 1 4 0 1048575, { pflag 2 with req := true }, popt 3 1 0 1] (hideText [2] p) with
  | some e => .next (s.finish r 0x0B0D e)
  | none =>
    let k := s.otherCfg
    let off := Params.val p 1
    let img := placeAt (if off = 0 then [] else unitAt s.life.cfg k []) off (textOf p 2)
    if Params.val p 3 ≠ 1 then .next ((s.putCfg k img).finish r 0x0B0D (Reply.ok []))
    else
      let (st, at') := s.imageCheck img
      if st = 0 then .next ((s.putCfg k img).finish r 0x0B0D (Reply.ok []))
      else .next ((s.putCfg k []).finish r 0x0B0D ⟨st, 0, if st = Status.badParam then 2 else 0, at', 0, [], []⟩)

/-- CONFIG_APPLY: Slot; ADOPT; token (R510, R511). An image that declares a level above BLMAX is refused (R12). The reset it causes waits until the reply has been delivered (SYS_RESET_ACT). -/
def execConfigApply (r : Req) (p : List Tlv) (s : State) : Out :=
  match s.refuses r 0x0B0E [preq 1 1 0 1, popt 2 1 0 1, pflag 3] (hideText [3] p) with
  | some e => .next (s.finish r 0x0B0E e)
  | none =>
    let k := Params.val p 1
    let img := unitAt s.life.cfg k []
    let go := fun (s : State) =>
      let s := (s.set LIFE.STATUS_CONFIG_SLOT k).set LIFE.STATUS_CONFIG_VALID 1
      { s with boot := { s.boot with arm := some (0, 6) } }.finish r 0x0B0E (Reply.ok [])
    if imgLayout img && decide (s.blMax < imgLevel img) then .next (s.finish r 0x0B0E (Reply.errAt Status.notInState p 1))
    else if Params.val p 2 = 0 then .next (go s)
    else
      let (ok, s) := s.token 5 8 (fun b => b == (img.drop 8).take 8) (textOf p 3)
      match ok && imgLayout img, imgIdent img with
      | true, some id => .next (go ((s.withLife { s.life with nextIdent := some id }).wear 5 1))
      | _, _ => .next (s.finish r 0x0B0E (Reply.errAt Status.authFail p 3))

end Sys2Proof.Machine
end

