-- ==== Sys2Proof/Machine/Boot.lean ====
section
/-! DEFINITION. Supplies and the start sequence (chapter 16): the rows of R524, units that do not start, recovery, the start of a moon, resets by command,
brown-out, and dormant mode. -/

namespace Sys2Proof.Machine

def State.withBoot (s : State) (x : BootState) : State := { s with boot := x }

/-- A flag of SYS.INT and its event (R537). -/
def State.sysSignal (s : State) (bit code : Nat) (detail : List Byte) : State := s.signal SYS.INT SYS.INT_EN bit code 0 0 detail

/-- The row in progress (R524); 0 while the internal reset holds, 12 once ready. -/
def State.step (s : State) : Nat := s.get SYS.STATUS_STEP

def State.toRow (s : State) (n : Nat) : State := s.set SYS.STATUS_STEP n

/-- Anvil's passes have begun (row 6, R524, R530). -/
def State.passesRun (s : State) : Bool :=
  if s.isMoon then decide (10 ≤ s.step) && !s.boot.parked else decide (7 ≤ s.step) && !s.on SYS.STATUS_RECOVERY

/-! ## Rows 7 to 12 -/

/-- The slots as the boot ROM finds them: none where it enters recovery, with the cause of event 0x0141; the preferred slot first, and the
other after three abandoned starts (R513, R528). -/
def State.chooseSlot (s : State) : Nat ⊕ Nat :=
  let ok := fun (k : Nat) => s.slotResult k == 0
  let few := fun (k : Nat) => decide (unitAt s.boot.fails k 0 < 3)
  let p := s.life.preferred
  if s.on SYS.STATUS_BOOT_SRC then .inr 0
  else if !ok 0 && !ok 1 then .inr 1
  else if ok p && few p then .inl p
  else if ok (1 - p) && few (1 - p) then .inl (1 - p)
  else .inr 2

/-- Recovery (R529): rows 8 to 11 are skipped. -/
def State.enterRecovery (s : State) (cause : Nat) : State :=
  let s := (s.set SYS.STATUS_RECOVERY 1).toRow 12
  s.sysSignal SYS.INT_RECOVERY 0x0141 [BitVec.ofNat 8 cause, BitVec.ofNat 8 (s.slotResult 0), BitVec.ofNat 8 (s.slotResult 1)]

/-- Row 7: each slot's result is recorded, and one is booted. -/
def State.bootRom (s : State) : State :=
  let s := (s.set SYS.BOOT_SLOT0_RESULT (s.slotResult 0)).set SYS.BOOT_SLOT1_RESULT (s.slotResult 1)
  match s.chooseSlot with
  | .inr cause => s.enterRecovery cause
  | .inl k => ((s.withBoot { s.boot with slot := k }).set LIFE.STATUS_FW_SLOT k).toRow 8

/-- Row 10: the amplifier channels that started and whose configuration has EN = 1 start (R331, R334). -/
def State.startAmps (s : State) : State :=
  if s.isNi then s else (List.range 8).foldl (fun s n => if s.on (AMP.CH_EN n) then s.ampTryStart n else s) s.ampCfg

/-- The calendar seeds the master time counter (R495). -/
def State.calSeed (s : State) : State :=
  if s.on LIFE.CTRL_CAL_SEED ∧ s.on LIFE.STATUS_CAL_VALID ∧ s.loadPermitted false then
    s.loadTime s.calSec (s.life.cal % 32768 * 1000000000 / 32768) false false
  else s

/-- Row 11: addressing, PTP instances, discovery and NMOS, and the calendar seed. -/
def State.startServices (s : State) : State :=
  let s := s.calSeed
  let up := (List.range 4).filter (fun p => (s.port p).link == 2)
  let s := up.foldl (fun s p => (s.startV4 p).startV6 p) s
  let ptp := (List.range 2).filter (fun p => s.on (TIME.PORT_ENABLE p))
  let s := ptp.foldl (fun s p => (s.ptpGroup p true).ptpStart p) s
  let s := s.onServicePorts (fun s n => s.svcGroups n true)
  s.regTo (if s.svc.nmosMode = 0 then 0 else if s.svc.nmosMode = 1 then 1 else 2)

/-- Ready for commands (R527): CMD_IN opens and Temper's schedule begins. -/
def State.becomeReady (s : State) : State :=
  let us := (s.cycles - s.boot.released) / cyclesPerUs
  let s := ((s.toRow 12).set SYS.STATUS_READY 1).set SYS.READY_TIME us
  let s := (s.withBoot { s.boot with fails := #v[0, 0] }).set SYS.BOOT_FAILS 0
  let s : State := { s with test := { s.test with sched := true } }
  let s := s.sysSignal SYS.INT_READY 0x0140 ([BitVec.ofNat 8 s.boot.kind, BitVec.ofNat 8 s.boot.slot, BitVec.ofNat 8 s.boot.cfgCause, 0] ++ le 4 us)
  let s := if s.boot.kind = 2 ∧ s.on PORT.WAKE_CAUSE then s.wakeEvent else s
  if s.life.adopting then
    (s.withLife { s.life with adopting := false }).signal LIFE.INT LIFE.INT_EN LIFE.INT_IDENTITY 0x0B09 17 0 (be 8 s.life.ident.eui)
  else s

/-- The next row of a moon from row 9 on: only under START (R530). -/
def State.moonRow (s : State) (n : Nat) : State :=
  if s.get ORB.STATUS_JOIN_STATE = 2 then s.toRow (if n = 9 then 5 else n)
  else (s.toRow n).withBoot { s.boot with parked := true }

/-- The row in progress completes (R524). From row 3 the CKS pins are driven, and PAIR_ACT can be high once row 9 has completed (R542). -/
def State.rowDone (s : State) : State :=
  match s.step with
  | 1 => s.toRow 2
  | 2 => if s.on CLK.XO_OK then (s.toRow 3).cksPins else s
  | 3 => if s.boot.wrst then s else s.toRow 4
  | 4 => if s.isMoon then (s.withBoot { s.boot with row7 := s.cycles }).toRow 7 else s.toRow 5
  | 5 => if s.isMoon then s.moonRow 6 else s.toRow 6
  | 6 => if s.isMoon then s.moonRow 10 else (s.withBoot { s.boot with row7 := s.cycles }).toRow 7
  | 7 => s.bootRom
  | 8 => (if s.life.aonDead then s.restoreLife else s).toRow 9
  | 9 => let s := s.takeIdent.configure
         let s := if s.isMoon then s.moonRow 9 else s.toRow 10
         s.setDrive (s.on PAIR.STATUS_DRIVE)
  | 10 => let s := s.startAmps
          if s.isMoon then s.moonRow 11 else s.toRow 11
  | 11 => s.startServices.becomeReady
  | _ => s

/-- START_ROW_COMPLETE (R524, R526 to R530): the row in progress completes and the next one starts. A moon that waits for START has none in progress. -/
def execStartRowComplete (s : State) : Out := .next (if s.boot.parked then s else s.rowDone)

/-- MOON_START_RX (R437, R530): a moon in WAIT_START receives START and runs its remaining rows. -/
def execMoonStartRx (s : State) : Out :=
  if s.isMoon ∧ s.get ORB.STATUS_JOIN_STATE = 1 then
    let s : State := { s.set ORB.STATUS_JOIN_STATE 2 with orb := { s.orb with held := false } }
    .next (if s.boot.parked then (s.withBoot { s.boot with parked := false }).toRow (if s.step = 9 then 5 else s.step) else s)
  else .next s

/-! ## Units that do not start, and starts that are abandoned -/

/-- START_UNIT_TIMEOUT (R526): a unit of the row in progress does not complete within twice its time, or fails its check: kind 0 bank, 1 Hammer,
2 arithmetic unit, 3 SerDes (0 PCIe, 1 CPA, 2 CPB, 3 MPA, 4 MPB, 5 to 8 ORB0 to ORB3), 4 amplifier channel. -/
def execStartUnitTimeout (kind unit : Nat) (check : Bool) (s : State) : Out :=
  let row := if kind = 0 then 5 else if kind ≤ 2 then 6 else if kind = 3 then 4 else 10
  let n := if kind = 0 then 9 else if kind ≤ 2 then 17 else if kind = 3 then 9 else 8
  if 4 < kind ∨ n ≤ unit ∨ s.step ≠ row then .next s
  else
    let s :=
      if kind = 0 then s.bankFail unit 2
      else if kind = 1 then s.hammerFail unit 1
      else if kind = 2 then s.unitFail unit 2 0
      else s.withBoot { s.boot with down := s.boot.down ++ [(kind, unit)] }
    .next (s.sysSignal SYS.INT_START_FAULT 0x0143 [BitVec.ofNat 8 kind, BitVec.ofNat 8 unit, if check then 1 else 0])

/-- START_WATCHDOG (R528): a start has not reached ready within 1 s of row 7. It is abandoned, and a warm reset follows; a slot on trial is
abandoned with it. A moon that waits for START, and recovery, are no start in progress. -/
def execStartWatchdog (s : State) : Out :=
  if s.step < 7 ∨ s.on SYS.STATUS_READY ∨ s.on SYS.STATUS_RECOVERY ∨ s.boot.parked then .next s
  else
    let k := s.boot.slot
    let s := if s.on LIFE.STATUS_FW_TRIAL ∧ k = s.life.preferred then s.fwRevert
      else s.withBoot { s.boot with fails := s.boot.fails.setIfInBounds k (unitAt s.boot.fails k 0 + 1) }
    .next ((s.set SYS.BOOT_FAILS (min 7 s.boot.fails.toList.sum)).warmFrom 8)

/-! ## Resets by command -/

/-- SYS_RESET: KIND 0 warm, 1 power-on (R538). The reset waits for SYS_RESET_ACT. -/
def execSysReset (r : Req) (p : List Tlv) (s : State) : Out :=
  runCmd 0x0140 [preq 1 1 0 1] (fun q s =>
    (Reply.ok [], s.withBoot { s.boot with arm := some (if Params.val q 1 = 0 then (0, 3) else (1, 4)) })) r p s

/-- SYS_RESET_ACT (R538, R510): the reply has been delivered, or 10 ms have passed, and the reset acts after the pulses of R523. A power-on reset samples
the straps again. -/
def execSysResetAct (straps : Nat) (s : State) : Out :=
  match s.boot.arm with
  | none => .next s
  | some (0, cause) => .next (s.warmFrom cause)
  | some (_, cause) => .next (((s.resetPulses.coldReset cause).sampleStraps straps).startAt 0 1)

/-- BOOT_STATUS_GET. -/
def execBootStatusGet (r : Req) (p : List Tlv) (s : State) : Out :=
  runCmd 0x0141 [] (getBody (fun _ s => [0x04, 0x20, 0x24, 0x28, 0x30, 0x38].flatMap (fun o => le 4 (s.word SYS.fields o)))) r p s

/-- CFG_REJECT_GET: CLEAR. -/
def execCfgRejectGet (r : Req) (p : List Tlv) (s : State) : Out :=
  runCmd 0x0143 [popt 1 1 0 1] (fun q s =>
    (Reply.ok ([0x10, 0x14, 0x18].flatMap (fun o => le 4 (s.word SYS.fields o))),
     if Params.val q 1 = 1 then (s.set SYS.CFG_REJECT_CNT 0).set SYS.REJ_VALID 0 else s)) r p s

/-- PCIE_PERST (R550): the link goes down, and the configuration space, the MSI-X table and the pending-bit array return to their reset values. -/
def execPciePerst (s : State) : Out :=
  let s := (nextOf s (execHostLost 1 s)).set DMA.STATUS_BME 0
  .next { s with regs := s.regs.resetRange (0x30000 * 32) (0x40000 * 32), dma := { s.dma with msi := [] } }

/-! ## Brown-out (R533, R534) -/

/-- Event 0x0142: 0 a warning, 1 recovered. -/
def State.brownEvent (s : State) (what : Nat) : State :=
  s.sysSignal SYS.INT_BROWNOUT 0x0142 [BitVec.ofNat 8 (s.get SYS.RAIL_WARN), BitVec.ofNat 8 what]

/-- What a brown-out makes of a member of a pair. -/
def State.pairBrown (s : State) : State :=
  let r := s.get PAIR.STATUS_ROLE
  if r = 4 ∨ r = 5 then (s.set PAIR.STATUS_SYNCED 0).enterInit else s.pairFault

/-- BROWNOUT_WARNING (R533): rail r has stayed below its warning threshold for WARN_FILT. `busy`: the checkpoint of another rail's warning is still
being written. -/
def execBrownoutWarning (r : Nat) (busy : Bool) (s : State) : Out :=
  if 5 < r ∨ s.bit SYS.RAIL_WARN r then .next s
  else
    let s := (s.count (SYS.BO_WARN r)).countSat LIFE.BROWNOUTS
    if s.boot.dormant then .next s
    else
      let s := (s.setBit SYS.RAIL_WARN r true).setBit SYS.RAIL_IN_RANGE r false
      let s := (s.faultEvent 0x0142 0 0 [BitVec.ofNat 8 (s.get SYS.RAIL_WARN), 0]).brownEvent 0
      let s := if busy ∨ s.step ≤ 7 then s else s.checkpoint
      .next s.pairBrown

/-- BROWNOUT_RECOVER (R533): rail r has been above its warning threshold for 100 µs; `inRange`: within its operating range as well. The unit
continues; a member of a pair that fell silent resyncs at the next valid pulse of a peer that drives (R446). -/
def execBrownoutRecover (r : Nat) (inRange : Bool) (s : State) : Out :=
  if s.bit SYS.RAIL_WARN r ∧ r ≤ 5 then
    let s := (s.setBit SYS.RAIL_WARN r false).setBit SYS.RAIL_IN_RANGE r inRange
    .next (s.brownEvent 1)
  else .next s

/-- BROWNOUT_RESET (R533): rail r crosses its reset threshold. The outputs are released and a power-on reset acts; with every rail back above its
threshold the start begins again from row 1, unless PORST_N is low. -/
def execBrownoutReset (r straps : Nat) (s : State) : Out :=
  if 5 < r then .next s
  else
    let s := s.coldReset 1
    .next (if s.boot.porst then s else (s.sampleStraps straps).startAt 0 1)

/-! ## Dormant mode (R535, R536) -/

/-- A wake source is enabled. -/
def State.wakeArmed (s : State) : Bool := s.on PORT.WAKE_MAGIC_EN || s.on PORT.WAKE_FILT_EN || s.on PORT.WAKE_LINK_WAKE

/-- DORMANT_ENTER (R535): the detector is armed, every stream is disabled, and TDM ports and amplifier channels begin their stop. -/
def execDormantEnter (r : Req) (p : List Tlv) (s : State) : Out :=
  runCmd 0x0142 [] (fun _ s =>
    if s.on PAIR.CTRL_PAIR_EN ∨ s.isMoon ∨ s.on ORB.JOINED ∨ (s.port 2).link ≠ 2 ∨ !s.wakeArmed ∨ 1 ≤ s.boot.phase then
      (Reply.err Status.notInState, s)
    else
      let s := s.withBoot { s.boot with phase := 1, wake := false }
      let s := ([0, 1].flatMap (fun d => (s.streams d).map (fun i => (d, i)))).foldl (fun s x => (s.enableStream x.1 x.2 false).2.2) s
      let s := (List.range 32).foldl State.tdmStop s
      (Reply.ok [], if s.isNi then s else ((List.range 8).foldl State.ampEnOff s).ampWaits)) r p s

/-- DORMANT_FORCE_STOP (R535): ports and channels not yet DISABLED or OFF are forced there, with their pins at reset levels. -/
def execDormantForceStop (s : State) : Out :=
  if s.boot.phase = 1 then
    let port := fun (s : State) (p : Nat) =>
      if s.get (TDM.P_STATE p) = 0 then s else ((s.tdmState p 0).setTdmPort p { s.tdmPort p with run := false, sdo := [] })
    let amp := fun (s : State) (n : Nat) => if s.ampState n = 0 then s else s.ampLeave n 0
    let s := ((List.range 32).foldl port s).tdmWaits.tdmStatus
    let s := if s.isNi then s else ((List.range 8).foldl amp s).ampWaits
    .next (s.withBoot { s.boot with phase := 2 })
  else .next s

/-- DORMANT_POWER_DOWN (R535): the checkpoint is written, and every island but the CPA receive path, the wake detector, the AON domain and the power
manager is switched off. A wake event kept from the entry wakes the unit at once. -/
def execDormantPowerDown (s : State) : Out :=
  if s.boot.phase = 2 then
    let s := (s.checkpoint.set DMA.STATUS_HOST_LOST 1).set DMA.STATUS_LINK_UP 0
    let s := s.resetAll keepWake
    let s := s.withBoot { s.boot with dormant := true, phase := 0 }
    .next (if s.boot.wake then (s.withBoot { s.boot with wake := false }).wake else s)
  else .next s

/-- What wakes the unit: a frame that CPA receives, a rise of CPA's link, or WRST_N. The cause, filter and length WAKE_STATUS records. -/
def State.wakeCause (s : State) (why : Nat) (f : WireFrame) : Option (Nat × Nat × Nat) :=
  if why = 0 then
    let h := headers f.bytes
    if s.rxStatus 2 f h = Rx.ok then (s.wakeMatch f.bytes h).map (fun c => (c.1, c.2, f.bytes.length)) else none
  else if why = 1 then (if s.on PORT.WAKE_LINK_WAKE then some (3, 0, 0) else none)
  else if why = 2 then some (0, 0, 0)
  else none

/-- DORMANT_WAKE (R536, R151): a match (why 0, frame f), a link wake (1) or WRST_N (2) starts the warm start. On the way to dormant mode the first such
event is kept. -/
def execDormantWake (why : Nat) (f : WireFrame) (s : State) : Out :=
  if !s.boot.dormant ∧ s.boot.phase = 0 then .next s
  else match s.wakeCause why f with
    | none => .next s
    | some (cause, filter, len) =>
      if s.boot.dormant then .next (s.recordWake cause filter len).wake
      else if s.boot.wake then .next s
      else .next ((s.recordWake cause filter len).withBoot { s.boot with wake := true })

end Sys2Proof.Machine
end

