-- ==== Sys2Proof/Machine/RegRows.lean ====
section
/-! DEFINITION. Host writes of registers: what may stand in a write's way before it reaches its block (R13, R17, R424, R444, R480, R527), its mirror in a
pair (R454), and the rows that are a write of one particular register. -/

namespace Sys2Proof.Machine

/-! ## The way to a register -/

/-- Registers of the target of a run on a non-replicated set: a clock group with its ports, an amplifier channel, a port, an orbit link (R465, R480). -/
def targetReg (set u off : Nat) : Bool :=
  if set = 3 then decide (0x180100 + 0x40 * u ≤ off ∧ off < 0x180140 + 0x40 * u) || decide (0x181000 + 0x400 * u ≤ off ∧ off < 0x181400 + 0x400 * u)
  else if set = 4 then decide (0x1A0400 + 0x100 * u ≤ off ∧ off < 0x1A0500 + 0x100 * u)
  else if set = 5 then decide (0x40000 + 0x10000 * u ≤ off ∧ off < 0x50000 + 0x10000 * u)
  else if set = 6 then decide (0x1C0100 + 0x80 * u ≤ off ∧ off < 0x1C0180 + 0x80 * u)
  else false

/-- A write at `off` is held until the slice in progress ends (R480). -/
def State.writeHeld (s : State) (off : Nat) : Bool :=
  match s.test.slice with
  | some c => c.cmd && decide (3 ≤ c.set) && targetReg c.set c.unit off
  | none => false

/-- A moon in the cluster, or a standby, takes no host write at `off` but in W1C and W1S fields (R424, R444). -/
def State.writeLimited (s : State) (off : Nat) : Bool :=
  (s.inCluster || s.standsBy) && !decide (0x20000 ≤ off ∧ off < 0x40000) && !(s.standsBy && decide (0x1D0000 ≤ off ∧ off < 0x1E0000))

/-- What of word w reaches a limited register: W1C and W1S bits, the other fields as they are. -/
def State.limitWord (s : State) (off w : Nat) : Nat :=
  ((fieldsAt (blockFields off) off).map (fun f =>
    (if f.2.1 = .w1c ∨ f.2.1 = .w1s then f.1.part w else if f.2.1 = .rw then s.get f.1 else 0) * 2 ^ f.1.lo)).sum

/-- The word has a W1C or W1S field. -/
def hasW1 (off : Nat) : Bool := (fieldsAt (blockFields off) off).any (fun f => f.2.1 == .w1c || f.2.1 == .w1s)

/-- A write of word w would change an RW field. -/
def State.changesRw (s : State) (off w : Nat) : Bool :=
  (fieldsAt (blockFields off) off).any (fun f => f.2.1 == .rw && f.1.part w != s.get f.1)

/-- Registers whose writes a pair mirrors: not those of the host interface, of the pair itself and of the warm reset (DEDUCED, assumption 42). -/
def mirrorReg (off : Nat) : Bool :=
  !decide (0x20000 ≤ off ∧ off < 0x40000) && !decide (0x1D0000 ≤ off ∧ off < 0x1E0000) && off != 0x3C

/-- A write of the word at `off` changed something: the word has a field, and either nothing of the write was refused or some field of it changed. -/
def State.writeTook (s s' : State) (off : Nat) : Bool :=
  (fieldsAt (blockFields off) off).any (fun f => s'.get SYS.CFG_REJECT_CNT == s.get SYS.CFG_REJECT_CNT || s'.get f.1 != s.get f.1)

/-- The write reaches its block; a driving member of a pair mirrors it unless it was refused whole, or no field lies there (R13, R454). -/
def State.busApply (s : State) (source off w : Nat) (apply : Nat → Nat → Nat → State → State) : State :=
  let s' := apply source off w s
  if mirrorReg off ∧ s.writeTook s' off then s'.mirror 0 (le 4 off ++ le 4 w) else s'

/-- A host write of word w at `off` over path `source` (0 PCIe, 1 CSP). Nothing answers in dormant mode, and a reserved offset takes no write. -/
def State.busGate (s : State) (source off w : Nat) (apply : Nat → Nat → Nat → State → State) : State :=
  let off := off / 4 * 4
  if s.boot.dormant ∨ 0x200000 ≤ off then s
  else if !s.on SYS.STATUS_READY ∧ 0x40000 ≤ off then s.cfgReject source off
  else if s.writeLimited off then
    if hasW1 off then
      let s' := s.busApply source off (s.limitWord off w) apply
      if s.changesRw off w then s'.cfgReject source off else s'
    else s.cfgReject source off
  else if s.writeHeld off then { s with test := { s.test with writes := s.test.writes ++ [(source, off, w)] } }
  else s.busApply source off w apply

/-- The block's own part of a write. -/
def blockWrite (source off w : Nat) (s : State) : State := s.regWrite source off w

/-- A host write. -/
def State.busWrite (s : State) (source off w : Nat) : State := s.busGate source off w blockWrite

/-- The writes held during a slice are applied in order (R480). -/
def State.releaseWrites (s : State) : State :=
  let ws := s.test.writes
  ws.foldl (fun s x => s.busApply x.1 x.2.1 x.2.2 blockWrite) { s with test := { s.test with writes := [] } }

/-- REGISTER_WRITE (R13, R18): a host write of one word. -/
def execRegisterWrite (source off : Nat) (v : Word) (s : State) : Out := .next (s.busWrite source off v.toNat)

/-! ## Rows that are a write of one register -/

/-- A host write of register `off` of the instance `i` of `n`: one that does not exist takes no write. -/
def State.rowWrite (s : State) (ok : Prop) [Decidable ok] (source off w : Nat) : Out := .next (if ok then s.busWrite source off w else s)

/-- A word with field f replaced. -/
def putPart (f : Fld) (w x : Nat) : Nat := w - f.part w * 2 ^ f.lo + x % 2 ^ f.w * 2 ^ f.lo

/-- The word at `off` as it reads, with the bits of m set. -/
def State.withBits (s : State) (off m : Nat) : Nat := s.wordAt off ||| m

/-- WARM_RESET_WRITE (R531): a write of WARM_CTRL. -/
def execWarmResetWrite (source : Nat) (v : Word) (s : State) : Out := s.rowWrite True source 0x3C v.toNat

/-- EVT_ROUTE_WRITE (R411): CMD.CTRL. -/
def execEvtRouteWrite (source : Nat) (v : Word) (s : State) : Out := s.rowWrite True source 0x10000 v.toNat

/-- RING_EN_WRITE (R402): CTRL of ring i. -/
def execRingEnWrite (source i : Nat) (v : Word) (s : State) : Out := s.rowWrite (i ≤ 64) source (0x21000 + 0x40 * i) v.toNat

/-- RING_INDEX_WRITE (R402): the index of ring i that the host writes. -/
def execRingIndexWrite (source i : Nat) (v : Word) (s : State) : Out := s.rowWrite (i ≤ 64) source (hostIndex i).off v.toNat

/-- SET_EN_WRITE (R412): CTRL of record set k (dir 0) or playback set k (dir 1). -/
def execSetEnWrite (source dir k : Nat) (v : Word) (s : State) : Out :=
  s.rowWrite (dir ≤ 1 ∧ k ≤ 63) source (0x24000 + 0x1000 * dir + 0x40 * k) v.toNat

/-- REC_RD_IDX_WRITE (R414). -/
def execRecRdIdxWrite (source k : Nat) (v : Word) (s : State) : Out := s.rowWrite (k ≤ 63) source (0x24024 + 0x40 * k) v.toNat

/-- PLAY_WR_IDX_WRITE (R415). -/
def execPlayWrIdxWrite (source k : Nat) (v : Word) (s : State) : Out := s.rowWrite (k ≤ 63) source (0x25020 + 0x40 * k) v.toNat

/-- PORT_ENABLE_WRITE (R127): CTRL of port p. -/
def execPortEnableWrite (source p : Nat) (v : Word) (s : State) : Out := s.rowWrite (p ≤ 3) source (0x40000 + 0x10000 * p) v.toNat

/-- STAT_SNAP_WRITE (R146): CTRL of port p with STAT_SNAP = 1. -/
def execStatSnapWrite (source p : Nat) (v : Word) (s : State) : Out :=
  s.rowWrite (p ≤ 3) source (0x40000 + 0x10000 * p) (v.toNat ||| 2 ^ 14)

/-- TIME_SET_APPLY (R82): SET_CTRL with APPLY. -/
def execTimeSetApply (source : Nat) (v : Word) (s : State) : Out := s.rowWrite True source setCtrlOff (v.toNat ||| 1)

/-- TIME_SET_APPLY_PPS (R82): with APPLY_PPS. -/
def execTimeSetApplyPps (source : Nat) (v : Word) (s : State) : Out := s.rowWrite True source setCtrlOff (v.toNat ||| 2)

/-- TIME_SET_CANCEL (R82): with CANCEL. -/
def execTimeSetCancel (source : Nat) (v : Word) (s : State) : Out := s.rowWrite True source setCtrlOff (v.toNat ||| 64)

/-- TIME_VALIDATE (R82): with VALIDATE. -/
def execTimeValidate (source : Nat) (v : Word) (s : State) : Out := s.rowWrite True source setCtrlOff (v.toNat ||| 4)

/-- PC_RESUME_WRITE (R75): the path-check word with RESUME = 1. -/
def execPcResumeWrite (source : Nat) (v : Word) (s : State) : Out := s.rowWrite True source 0x80070 (v.toNat ||| 4)

/-- REF_ENABLE_WRITE (R91): CFG of reference n. -/
def execRefEnableWrite (source n : Nat) (v : Word) (s : State) : Out := s.rowWrite (n < 8) source (0xA0100 + 0x40 * n) v.toNat

/-- SUSPECT_CLEAR_WRITE (R98): STATUS of reference n with SUSPECT written 1. -/
def execSuspectClearWrite (source n : Nat) (s : State) : Out :=
  s.rowWrite (n < 8) source (0xA011C + 0x40 * n) (2 ^ (CLK.REF_SUSPECT n).lo)

/-- DPLL_ENABLE_WRITE (R119): CFG of DPLL d with the value of ENABLE. -/
def execDpllEnableWrite (source d : Nat) (v : Word) (s : State) : Out := s.rowWrite (d < 4) source (0xA0400 + 0x80 * d) v.toNat

/-- DPLL_MODE_WRITE (R101): CFG of DPLL d with the value of MODE. -/
def execDpllModeWrite (source d : Nat) (v : Word) (s : State) : Out := s.rowWrite (d < 4) source (0xA0400 + 0x80 * d) v.toNat

/-- OUT_ALIGN_WRITE (R116). -/
def execOutAlignWrite (source : Nat) (v : Word) (s : State) : Out := s.rowWrite True source 0xA0814 v.toNat

/-- WCLK_OUT_ENABLE (R114): CFG of word-clock output n. -/
def execWclkOutEnable (source n : Nat) (v : Word) (s : State) : Out := s.rowWrite (n < 4) source (0xA0800 + 4 * n) v.toNat

/-- PPS_OUT_ENABLE (R115): PPS_CFG. -/
def execPpsOutEnable (source : Nat) (v : Word) (s : State) : Out := s.rowWrite True source 0xA0810 v.toNat

/-- TBL_CTRL of the stream tables, or of Anvil's, with an operation. -/
def tblCtrl (op table index : Fld) (o t i : Nat) : Nat := putPart op (putPart table (putPart index 0 i) t) o

/-- STREAM_TBL_READ (R197): TBL_CTRL with OP = 1. -/
def execStreamTblRead (source table i : Nat) (s : State) : Out :=
  s.rowWrite True source 0xC0300 (tblCtrl STRM.TBL_OP STRM.TBL_TABLE STRM.TBL_INDEX 1 table i)

/-- STREAM_TBL_WRITE (R197): with OP = 2. -/
def execStreamTblWrite (source table i : Nat) (s : State) : Out :=
  s.rowWrite True source 0xC0300 (tblCtrl STRM.TBL_OP STRM.TBL_TABLE STRM.TBL_INDEX 2 table i)

/-- STREAM_TBL_CLEAR (R197): with OP = 3. -/
def execStreamTblClear (source table i : Nat) (s : State) : Out :=
  s.rowWrite True source 0xC0300 (tblCtrl STRM.TBL_OP STRM.TBL_TABLE STRM.TBL_INDEX 3 table i)

/-- FABRIC_TBL_READ (R291): ANVIL.TBL_CTRL with OP = 1. -/
def execFabricTblRead (source table i : Nat) (s : State) : Out :=
  s.rowWrite True source 0x141000 (tblCtrl ANVIL.TBL_OP ANVIL.TBL_TABLE ANVIL.TBL_INDEX 1 table i)

/-- FABRIC_TBL_ADD (R277, R291): with OP = 2. -/
def execFabricTblAdd (source table i : Nat) (s : State) : Out :=
  s.rowWrite True source 0x141000 (tblCtrl ANVIL.TBL_OP ANVIL.TBL_TABLE ANVIL.TBL_INDEX 2 table i)

/-- BATCH_COMMIT (R277): BATCH_CTRL with COMMIT. -/
def execBatchCommit (source : Nat) (s : State) : Out := s.rowWrite True source 0x141004 1

/-- BATCH_DISCARD (R277): BATCH_CTRL with DISCARD. -/
def execBatchDiscard (source : Nat) (s : State) : Out := s.rowWrite True source 0x141004 2

/-- QUEUE_EN_WRITE (R227): CTRL of queue q. -/
def execQueueEnWrite (source q : Nat) (v : Word) (s : State) : Out := s.rowWrite (q ≤ 10) source (0x101000 + 0x40 * q) v.toNat

/-- BELLOWS_EN_WRITE (R231): CTRL of Bellows unit b. -/
def execBellowsEnWrite (source b : Nat) (v : Word) (s : State) : Out := s.rowWrite (b ≤ 7) source (0x100800 + 0x20 * b) v.toNat

/-- TDM_PORT_EN_WRITE (R307): CFG of port p. -/
def execTdmPortEnWrite (source p : Nat) (v : Word) (s : State) : Out := s.rowWrite (p ≤ 31) source (0x181000 + 0x80 * p) v.toNat

/-- TDM_MASK_WRITE (R309): RX_MASK (0), TX_MASK (1) or TX_MUTE (2) of port p; `late` where it reaches the port within the last 2 bit clocks of the frame on
the pins. -/
def execTdmMaskWrite (source p i : Nat) (v : Word) (late : Bool) (s : State) : Out :=
  .next (if p ≤ 31 ∧ i ≤ 2 then
      s.busGate source (0x181008 + 0x80 * p + 4 * i) v.toNat (fun source _ w s => s.maskHostWrite source p i w late)
    else s)

/-- AMP_EN_WRITE (R333): CFG of channel n with the value of EN. -/
def execAmpEnWrite (source n : Nat) (v : Word) (s : State) : Out := s.rowWrite (n ≤ 7) source (0x1A0400 + 0x100 * n) v.toNat

/-- AMP_MUTE_WRITE (R335): CFG of channel n with the value of MUTE. -/
def execAmpMuteWrite (source n : Nat) (v : Word) (s : State) : Out := s.rowWrite (n ≤ 7) source (0x1A0400 + 0x100 * n) v.toNat

/-- AMP_UNLOCK_WRITE (R338): UNLOCK of channel n. -/
def execAmpUnlockWrite (source n : Nat) (v : Word) (s : State) : Out := s.rowWrite (n ≤ 7) source (0x1A042C + 0x100 * n) v.toNat

/-- COEF_SWAP_WRITE (R329): COEF_CTRL of channel n. -/
def execCoefSwapWrite (source n : Nat) (v : Word) (s : State) : Out := s.rowWrite (n ≤ 7) source (0x1A0488 + 0x100 * n) v.toNat

/-- FREQ_SEL_RUN (R332): FREQ_CTRL. -/
def execFreqSelRun (source : Nat) (v : Word) (s : State) : Out := s.rowWrite True source 0x1A001C v.toNat

/-- ORB_LINK_EN_WRITE (R425): CTRL of link n. -/
def execOrbLinkEnWrite (source n : Nat) (v : Word) (s : State) : Out := s.rowWrite (n ≤ 3) source (0x1C0100 + 0x80 * n) v.toNat

/-- FWD_WRITE (R429): FWD of link n. -/
def execFwdWrite (source n : Nat) (v : Word) (s : State) : Out := s.rowWrite (n ≤ 3) source (0x1C0110 + 0x80 * n) v.toNat

/-- PAIR.CTRL with its RW fields as they stand. -/
def State.pairWord (s : State) : Nat := s.get PAIR.CTRL_EVT_HOLDOFF * 2 ^ 24 + s.get PAIR.CTRL_PAIR_EN * 256

/-- PAIR_EN_WRITE (R446): PAIR.CTRL. -/
def execPairEnWrite (source : Nat) (v : Word) (s : State) : Out := s.rowWrite True source 0x1D0000 v.toNat

/-- PAIR_FORCE_ACTIVE_WRITE (R446): FORCE_ACTIVE is written 1, the other fields keeping their values. -/
def execPairForceActiveWrite (source : Nat) (s : State) : Out := s.rowWrite True source 0x1D0000 (s.pairWord + 16)

/-- PAIR_RESIGN_WRITE (R449): RESIGN is written 1, the other fields keeping their values. -/
def execPairResignWrite (source : Nat) (s : State) : Out := s.rowWrite True source 0x1D0000 (s.pairWord + 1)

end Sys2Proof.Machine
end

