-- ==== Sys2Proof/Machine/Csp.lean ====
section
/-! DEFINITION. The CSP (R396 to R398): its transactions from the fall of CSP_CS_N to its rise. What CSP_MISO carries is kept without the wait bytes of a
READ, whose number is a matter of time. -/

namespace Sys2Proof.Machine

/-- The status byte MISO carries while byte 0 arrives (R396). -/
def State.cspStatus (s : State) : Byte :=
  let b := fun (v : Bool) (w : Nat) => if v then w else 0
  BitVec.ofNat 8 (160 + b s.csp.overrun 8 + b (s.on CMD.EVT_ROUTE && !(s.queue 0).ready.isEmpty) 4 + b s.csp.outBox.isSome 2 +
    b (s.cmdOpen && s.csp.inBox.isNone) 1)

/-- A transaction runs: MISO carries the status byte and what `f` answers; MB_OVERRUN covers the time since the last one. In dormant mode the interface is off. -/
def State.cspRun (s : State) (f : State → List Byte × State) : Out :=
  if s.boot.dormant then .next s
  else
    let st := s.cspStatus
    let (out, s) := f { s with csp := { s.csp with overrun := false } }
    .next { s with csp := { s.csp with miso := st :: out } }

/-- The words of a WRITE, applied each as it completes. -/
def State.cspWords : List Word → Nat → State → State
  | [], _, s => s
  | w :: ws, off, s => State.cspWords ws ((off + 4) % 2 ^ 24) (s.busWrite 1 off w.toNat)

/-- CSP_WRITE (R397): whole words from `off` on. -/
def execCspWrite (off : Nat) (ws : List Word) (s : State) : Out := s.cspRun (fun s => ([], State.cspWords ws (off % 2 ^ 24) s))

/-- The words of a READ. -/
def State.cspReads : Nat → Nat → State → List Byte × State
  | 0, _, s => ([], s)
  | n + 1, off, s =>
    let (v, s) := s.regRead off
    let (l, s) := State.cspReads n ((off + 4) % 2 ^ 24) s
    (le 4 v ++ l, s)

/-- CSP_READ (R397): n words from `off` on, 1 to 64. -/
def execCspRead (off n : Nat) (s : State) : Out :=
  s.cspRun (fun s =>
    let (l, s) := State.cspReads (clampNat 1 64 n) (off % 2 ^ 24) s
    (0xA5#8 :: l, s))

/-- CSP_MBOX_WRITE (R398): a request of stated length, with the packet bytes that came before CSP_CS_N rose. -/
def execCspMboxWrite (len : Nat) (b : List Byte) (s : State) : Out :=
  s.cspRun (fun s =>
    if s.cmdOpen ∧ s.csp.inBox = none ∧ b.length = len ∧ 16 ≤ len ∧ len ≤ 65552 then
      ([], { s with csp := { s.csp with inBox := some b } }.mboxPush)
    else ([], { s with csp := { s.csp with overrun := true } }.count CMD.CSP_MB_BUSY))

/-- CSP_MBOX_READ (R398): n bytes of the reply are clocked out; once all of them are, it is removed. -/
def execCspMboxRead (n : Nat) (s : State) : Out :=
  s.cspRun (fun s =>
    match s.csp.outBox with
    | some b =>
      ([0xA5#8] ++ be 3 b.length ++ b.take n, if b.length ≤ n then { s with csp := { s.csp with outBox := none } } else s)
    | none => ([0xA5#8, 0, 0, 0], s))

/-- Up to n records from the head of the EVENT queue. -/
def State.eventRecords : Nat → State → List (List Byte) × State
  | 0, s => ([], s)
  | n + 1, s =>
    match s.takeRecord with
    | (some r, s) =>
      let (l, s) := State.eventRecords n s
      (r :: l, s)
    | (none, s) => ([], s)

/-- CSP_EVT_READ (R398): n records are asked for, 1 to 64, and `bytes` record bytes are clocked out. A record goes once all 16 of its bytes have. -/
def execCspEvtRead (n bytes : Nat) (s : State) : Out :=
  s.cspRun (fun s =>
    let (l, _) := if s.on CMD.EVT_ROUTE then s.eventRecords (clampNat 1 64 n) else ([], s)
    let (_, t) := s.eventRecords (min l.length (bytes / 16))
    ([0xA5#8, BitVec.ofNat 8 l.length] ++ l.flatten.take bytes, t))

end Sys2Proof.Machine
end

