-- ==== Sys2Proof/Machine/Engine.lean ====
section
/-! DEFINITION. The Suosh engine's handling of requests (R359 to R374, R388, R439, R480): a request leaves CMD_IN and is checked, starts, waits, times out
and completes. What a command does is its own row's meaning; its outcome is recorded there and sent here. -/

namespace Sys2Proof.Machine

/-! ## The request table (R366) -/

def State.inFlight (s : State) (ch tag : Nat) : Option InFlight := s.cmd.inflight.find? (fun f => f.req.channel == ch && f.req.tag == tag)

def State.withCmd (s : State) (x : CmdState) : State := { s with cmd := x }

/-- The opcode of a request is that of a command which names the target of a commanded run: set 3 group, 4 amplifier channel, 5 port, 6 orbit
link (R480). -/
def namesTarget (set unit op : Nat) (p : Params) : Bool :=
  let v := Params.val p 1
  if set = 3 then
    op / 256 == 7 && (if op = 0x0704 ∨ op = 0x0705 then decide (v / 2 ^ (8 * unit) % 256 ≠ 0) else if op = 0x0701 then v == unit else
      Params.has p 1 && v / 8 == unit)
  else if set = 4 then op / 256 == 8 && (if 0x0804 ≤ op ∧ op ≤ 0x0807 then v.testBit unit else (op == 0x0802 || op == 0x0803) && v == unit)
  else if set = 5 then op / 256 == 4 && Params.has p 1 && v == unit
  else if set = 6 then op == 0x0904 && v == unit
  else false

/-- The request names the target of the slice in progress of a commanded run on a non-replicated set (R480). -/
def State.testHolds (s : State) (f : InFlight) : Bool :=
  match s.test.slice with
  | some c => c.cmd && decide (3 ≤ c.set) && f.req.device == s.ownIndex && !isN5 f.opcode &&
      namesTarget c.set c.unit f.opcode (readTlvs (pkPlen f.packet) (pkParams f.packet) 0).1
  | none => false

/-- The requests of a channel that left CMD_IN before f. -/
def State.earlier (s : State) (f : InFlight) : List InFlight :=
  ((s.cmd.inflight.takeWhile (fun g => !(g.req.channel == f.req.channel && g.req.tag == f.req.tag))).filter (fun g => g.req.channel == f.req.channel))

/-- The request may start: ORDERED, FENCE (R367) and a test slice (R480) do not hold it. -/
def State.mayStart (s : State) (f : InFlight) : Bool :=
  let e := s.earlier f
  !e.any (fun g => g.req.fence) && !(f.req.ordered && e.any (fun g => g.req.ordered)) &&
    !(f.req.fence && (!e.isEmpty || s.anvil.commits.any (fun c => c.chan == f.req.channel))) && !s.testHolds f

/-- A packet sent on to device d: DEVICE names it, ALL is clear, and the seal follows (R374, R439). -/
def readdress (b : List Byte) (d : Nat) : List Byte :=
  let h := b.take 12 ++ [BitVec.ofNat 8 d] ++ (b.drop 13).take (3 + pkPlen b)
  if (pkFlags b).testBit 4 then h ++ le 4 (crc32c h) else h

/-- The unit is device d. -/
def State.isDevice (s : State) (d : Nat) : Bool := d == s.ownIndex

/-- Devices of the cluster besides this one (R374). -/
def State.others (s : State) : List Nat := if s.isMoon then [] else bitsOf 16 (s.get ORB.PRESENT / 2 * 2)

/-- The registers as keys and values in turn. -/
def State.flatRegs (s : State) : List Nat := s.regs.flatMap (fun x => [x.1, x.2])

/-- An ATOMIC request of the primary starts: what an undo restores is kept (R374). -/
def State.keepBefore (s : State) (tag op : Nat) : State :=
  { s with orb := { s.orb with undo := s.orb.undo.filter (fun u => u.1 != tag) ++ [(tag, op, s.flatRegs)] } }

/-- A request starts: one for this device is carried out by its command's row, one for another is forwarded, one for ALL is split over the devices. -/
def State.beginReq (s : State) (f : InFlight) : State :=
  let s := s.withCmd { s.cmd with inflight := s.cmd.inflight.map (fun g => if g = f then { g with started := true } else g) }
  let r := f.req
  let s := if r.channel = 49 ∧ r.atomic then s.keepBefore r.tag f.opcode else s
  if r.all then
    let ds := s.others
    let parts := s.ownIndex :: ds
    let sts := waiting :: ds.map (fun d => if s.bit ORB.JOINED d then waiting else Status.unreachable)
    let before := if r.atomic then s.flatRegs else []
    let w : Wait := ⟨r, f.opcode, 14, 0, parts, parts, sts, parts.map (fun _ => 0), before, 0, []⟩
    (ds.filter (fun d => s.bit ORB.JOINED d)).foldl (fun s d => s.forward d r.channel r.tag (readdress f.packet d)) (s.addWait w)
  else if s.isDevice r.device then s
  else s.forward r.device r.channel r.tag (readdress f.packet r.device)

/-- Every request that may start now does, in the order in which they left CMD_IN. -/
def State.startWaiting (s : State) : State :=
  s.cmd.inflight.foldl (fun s f => if f.started then s else if s.mayStart f then s.beginReq f else s) s

/-! ## REQUEST_START (R365) -/

/-- Reserved bits, flags and target (check 3). -/
def headerOk (b : List Byte) : Bool :=
  let op := pkOp b
  let t := pkTarget b
  if isN5 op then decide (pkTagWord b < 256) && (pkFlags b == 0 || pkFlags b == 8) && t == 0
  else decide (pkTagWord b < 512) && decide (pkFlags b < 64) && t / 16 % 8 == 0 && t / 2 ^ 16 == 0 &&
    (t / 256 % 256 == 0 || t / 256 % 256 == op / 256)

/-- Checks 1 to 7 of R365 in order; none where they pass. Check 7 is made where the request is carried out. -/
def State.requestCheck (s : State) (ch : Nat) (b : List Byte) : Option Reply :=
  let op := pkOp b
  let f := pkFlags b
  let sealed := f.testBit 4
  let n := 16 + pkPlen b
  let all := (pkTarget b).testBit 7
  let d := pkTarget b % 16
  if b.length ≠ n + (if sealed then 4 else 0) ∨ pkPlen b % 4 ≠ 0 then some (Reply.err Status.badLength)
  else if sealed ∧ !isN5 op ∧ leAt b n 4 ≠ crc32c (b.take n) then some ⟨Status.badParam, 0, 0xFFFF, 0, 0, [], []⟩
  else if !headerOk b then some (Reply.err Status.badParam)
  else match opPriv op with
    | none => some (Reply.err Status.badOpcode)
    | some need =>
      if f.testBit 5 ∧ !isDirectOp op then some (Reply.err Status.badOpcode)
      else if all ∧ splitOps.contains op then some (Reply.err Status.badParam)
      else if s.chanPriv ch < need then some (Reply.err Status.authFail)
      else if !all ∧ !s.isDevice d ∧ (s.isMoon ∨ !s.bit ORB.JOINED d) then some (Reply.err Status.unreachable)
      else if (all ∨ s.isDevice d) ∧ !isN5 op then
        match (readTlvs (pkPlen b) (pkParams b) 0).2 with
        | some (ty, off) => some ⟨Status.badLength, 0, ty, off, 0, [], []⟩
        | none => none
      else none

/-- A request that has passed its checks: refused by what bars it, held, or started. -/
def State.enterReq (s : State) (f : InFlight) : State :=
  let done := fun (s : State) (rep : Reply) => s.post ⟨f.req.channel, f.req.tag, f.opcode, rep⟩
  match s.barred f.opcode f.req with
  | some st => done s (Reply.err st)
  | none =>
    if s.testHolds f then
      if f.req.noWait then done (s.count TEST.BUSY_REFUSED) (Reply.err Status.busyTest) else s.count TEST.HELD_CMDS
    else if s.mayStart f then s.beginReq f else s

/-- A packet taken from CMD_IN on channel `ch`. -/
def State.takeRequest (s : State) (ch : Nat) (b : List Byte) : State :=
  let s := s.count CMD.REQUESTS
  if b.length < 16 then s.count CMD.MALFORMED
  else
    let r := reqOf ch b
    if (s.inFlight ch r.tag).isSome then (s.count CMD.DUP_TAG).cmdEvent 0x0154 ch (le 2 (pkOp b) ++ le 2 (pkTagWord b))
    else
      let f : InFlight := ⟨r, pkOp b, b, s.cycles, false⟩
      let s := (s.withCmd { s.cmd with inflight := s.cmd.inflight ++ [f] }).showTags
      match s.requestCheck ch b with
      | some rep => s.post ⟨ch, r.tag, pkOp b, rep⟩
      | none => s.enterReq f

/-- REQUEST_START (R365, R366): the engine takes the request at the head of CMD_IN, unless every tag is in use. A gap marker there reaches the host as event
0x0101 (R360). -/
def execRequestStart (s : State) : Out :=
  if !s.cmdOpen then .next s
  else match (s.queue 1).ready with
    | ⟨.head it, _⟩ :: _ => if 512 ≤ s.cmd.inflight.length then .next s else .next ((s.takeItem 1).2.takeRequest (itemChan it) it.body)
    | _ => .next (s.takeItem 1).2

/-! ## Undo (R373) -/

/-- What the undo of a part restores: the value kept for the part's index. -/
def Wait.wasOf (w : Wait) (i : Nat) : Nat := nth w.aux ((w.parts.findIdx? (fun x => x == i)).getD 0) 0

/-- The blocks a group of opcodes writes (R376), as ranges of offsets. -/
def groupBlocks (g : Nat) : List (Nat × Nat) :=
  if g = 1 then [(0, 0x20000), (0x100000, 0x140000)]
  else if g = 2 then [(0x80000, 0xA0000)] else if g = 3 then [(0xA0000, 0xC0000)] else if g = 4 then [(0x40000, 0x80000)]
  else if g = 5 then [(0xC0000, 0x100000), (0x400000, 0x600000)] else if g = 6 then [(0x140000, 0x180000), (0x800000, 0xB00000)]
  else if g = 7 then [(0x180000, 0x1A0000)] else if g = 8 then [(0x1A0000, 0x1C0000)] else if g = 9 then [(0x1C0000, 0x1E0000)]
  else if g = 10 then [(0x1E0000, 0x1F0000)] else if g = 11 then [(0x1F0000, 0x200000)] else []

/-- A flattened list of (key, value) pairs. -/
def unflat : List Nat → RegFile
  | k :: v :: t => (k, v) :: unflat t
  | _ => []

/-- The word at `off` that writes back its RW fields. -/
def State.rwWord (s : State) (off : Nat) : Nat :=
  ((fieldsAt (blockFields off) off).map (fun f => (if f.2.1 == .rw then s.get f.1 else 0) * 2 ^ f.1.lo)).sum

/-- Enabled streams of a direction that differ between two states: the indices below 512. -/
def State.turnedOn (s t : State) (dir : Nat) : List Nat :=
  (List.range 512).filter (fun i => (s.entry dir i).on && !(t.entry dir i).on)

/-- This device's own change is undone (R373): the configuration of the opcode's blocks returns to what it was before, registers by the engine's own
writes, streams by ENABLE, and Anvil's tables by a commit of the entries as they were. -/
def State.undoOwn (s : State) (op : Nat) (before : RegFile) : State :=
  let old : State := { s with regs := before }
  let inGroup := fun (k : Nat) => (groupBlocks (op / 256)).any (fun b => inOffs b.1 b.2 k)
  let keys := (((before.map Prod.fst) ++ (s.regs.map Prod.fst)).filter (fun k => inGroup k && match configFld k with
    | some f => old.get f != s.get f
    | none => false)).eraseDups
  let s := [0, 1].foldl (fun t d => (s.turnedOn old d).foldl (fun t i => (t.enableStream d i false).2.2) t) s
  let s := ((keys.filter (fun k => decide (k < 0x200000 * 32))).map (fun k => k / 32)).eraseDups.foldl
    (fun t off => t.regWrite 2 off (old.rwWord off)) s
  let s := (keys.filter (fun k => inOffs 0x400000 0x600000 k)).foldl (fun t k => match configFld k with
    | some f => if f.key = (RXE.ENABLE ((k / 32 - 0x400000) / 0x80)).key ∨ f.key = (TXE.ENABLE ((k / 32 - 0x500000) / 0x80)).key then t else t.set f (old.get f)
    | none => t) s
  let s := [0, 1].foldl (fun t d => (old.turnedOn s d).foldl (fun t i => (t.enableStream d i true).2.2) t) s
  let cells := ((keys.filter (fun k => inOffs 0x800000 0xB00000 k)).map (fun k =>
    let off := k / 32
    if off < 0x900000 then (0, (off - 0x800000) / 16) else if off < 0xA00000 then (1, (off - 0x900000) / 16) else (2, (off - 0xA00000) / 16))).eraseDups
  if cells = [] then s else s.addCommit 1 noChan (cells.map (fun c => old.entryNow c.1 c.2)) [] none

/-- The undo of a part, by the kind of wait. Another device undoes its own change when it is told to. -/
def State.undoPart (w : Wait) : PartRun := fun i s =>
  match w.kind with
  | 0 | 1 => s.tdmUndo (w.wasOf i) i
  | 2 | 3 | 7 | 9 => s.ampUndo w.kind (w.wasOf i) i
  | 10 => s.streamUndo w.arg (w.wasOf i) i
  | 11 => s.sdpUndo w.arg i w.aux
  | 14 =>
    if i = s.ownIndex then (0, s.undoOwn w.opcode (unflat w.aux))
    else (0, s.orbSend (s.linkTo i) 3 0 0 (le 4 w.req.tag ++ [2, BitVec.ofNat 8 i]))
  | _ => (Status.notInState, s)

/-! ## REQUEST_COMPLETE (R366, R368) -/

/-- The reply would not fit its channel (R375): a UDP reply its port's TX_MAX_LEN, any other PAYLOAD_LEN. -/
def State.tooLong (s : State) (r : Req) (rep : Reply) : Bool :=
  let n := (replyPayload rep).length
  match s.sessionOn r.channel with
  | some x => decide (s.get (PORT.TX_MAX_LEN x.port) < 14 + (if ipVer x.addr = 4 then 20 else 40) + 8 + 32 + 16 + n + (if r.sealed then 4 else 0) + 4)
  | none => decide (65532 < n)

/-- The request of channel `ch` and tag `tag` leaves the table, and those it held back may start. -/
def State.freeTag (s : State) (ch tag : Nat) : State :=
  (s.withCmd { s.cmd with inflight := s.cmd.inflight.filter (fun f => !(f.req.channel == ch && f.req.tag == tag)) }).showTags.startWaiting

/-- Commands that a driving member of a pair mirrors: those that change what both members are to hold alike. Its own sessions, resets, pair, tests,
life-cycle and firmware stay its own, and Anvil commits are mirrored as commits (DEDUCED, assumption 42). -/
def mirrored (op : Nat) : Bool :=
  !isGet op && !(decide (0x0601 ≤ op ∧ op ≤ 0x0605) || decide (0x1001 ≤ op ∧ op ≤ 0x1004) || decide (0x0101 ≤ op ∧ op ≤ 0x0106) ||
    op == 0x0132 || decide (0x0140 ≤ op ∧ op ≤ 0x015F) || decide (0x0910 ≤ op ∧ op ≤ 0x0914) || op / 256 == 10 || op / 256 == 11 || op == 0x1050)

/-- A driving member of a pair mirrors a command that changed something (R454). -/
def State.mirrorCmd (s : State) (f : InFlight) (rep : Reply) : State :=
  if mirrored f.opcode ∧ (rep.status = 0 ∨ rep.status = 1) then s.mirror 1 f.packet else s

/-- The reply of a session is kept under its SEQ, the last 64 of them (R363). -/
def State.keepReply (s : State) (r : Req) (b : List Byte) : State :=
  match s.sessionOn r.channel with
  | some x => (s.setSession { x with kept := ((r.seq, b) :: x.kept).take 64 }).mirror 5 ([BitVec.ofNat 8 x.chan] ++ le 4 r.seq ++ b)
  | none => s

/-- A request completes with this reply: it enters CMD_OUT when there is room, or is not sent under NO_REPLY. The reply of a closed session is
discarded. -/
def State.complete (s : State) (f : InFlight) (rep : Reply) : Option State :=
  let r := f.req
  let rep := if s.tooLong r rep then Reply.err Status.noResource else rep
  let b := replyBytes r f.opcode (pkTagWord f.packet) s.shortTime rep
  let it := cmdItem r.channel b
  let gone := decide (32 ≤ r.channel ∧ r.channel ≤ 47) && (s.sessionOn r.channel).isNone
  if r.noReply ∨ gone then
    let s := if rep.status ≠ 0 ∧ r.noReply then s.cmdEvent 0x0151 r.channel (le 2 f.opcode ++ le 2 r.tag ++ le 2 rep.status) else s
    some ((s.mirrorCmd f rep).freeTag r.channel r.tag)
  else if s.hasRoom 2 (itemEntries it).length then
    some ((((s.push 2 it).count CMD.REPLIES).keepReply r b).mirrorCmd f rep |>.freeTag r.channel r.tag)
  else none

/-- This device's outcome of a request to ALL joins the others': its record is the device's index, 3 zero bytes and the whole reply. -/
def State.ownPart (s : State) (f : InFlight) (rep : Reply) : State :=
  let b := replyBytes f.req f.opcode (pkTagWord f.packet) s.shortTime rep
  let me := s.ownIndex
  let take := fun (w : Wait) =>
    if w.kind == 14 && w.req.channel == f.req.channel && w.req.tag == f.req.tag then
      let sts := (w.parts.zip w.sts).map (fun x => if x.1 = me ∧ x.2 = waiting then rep.status else x.2)
      { w with sts := sts, pay := if rep.status = 0 then [BitVec.ofNat 8 me, 0, 0, 0] ++ b ++ w.pay else w.pay }
    else w
  s.withCmd { s.cmd with waits := s.cmd.waits.map take }

/-- The wait of a request, if it has one. -/
def State.waitOf (s : State) (ch tag : Nat) : Option Wait := s.cmd.waits.find? (fun w => w.req.channel == ch && w.req.tag == tag)

/-- The outcome of a request, once it has one. -/
def State.outcome (s : State) (f : InFlight) : Option (Reply × State) :=
  let (ch, tag) := (f.req.channel, f.req.tag)
  let res := s.cmd.results.find? (fun x => x.channel == ch && x.tag == tag)
  let drop := fun (s : State) => s.withCmd { s.cmd with results := s.cmd.results.filter (fun x => !(x.channel == ch && x.tag == tag)) }
  let settle := fun (s : State) (w : Wait) =>
    if w.sts.contains waiting then none
    else
      let w := if w.kind = 12 then { w with pay := s.browsePayload } else w
      let s := s.withCmd { s.cmd with waits := s.cmd.waits.filter (fun v => !(v.req.channel == ch && v.req.tag == tag)) }
      some (concludeParts w (State.undoPart w) s)
  match res, s.waitOf ch tag with
  | some x, some w => if w.kind = 14 then
      let s := (drop s).ownPart f x.reply
      (s.waitOf ch tag).bind (settle s)
    else some (x.reply, drop s)
  | some x, none => some (x.reply, drop s)
  | none, some w => settle s w
  | none, none => none

/-- REQUEST_COMPLETE (R366): the request of channel `ch` and tag `tag` completes, once its outcome is known and CMD_OUT has room for its reply. -/
def execRequestComplete (ch tag : Nat) (s : State) : Out :=
  match s.inFlight ch tag with
  | none => .next s
  | some f =>
    match s.outcome f with
    | none => .next s
    | some (rep, s1) => .next ((s1.complete f rep).getD s)

/-! ## REQUEST_TIMEOUT (R369) -/

/-- Nothing is to be posted any more for a request whose changes go on. -/
def State.forget (s : State) (ch tag : Nat) : State :=
  let mine := fun (c : Commit) => match c.reply with
    | some x => x.channel == ch && x.tag == tag
    | none => false
  let s : State := { s with anvil := { s.anvil with commits := s.anvil.commits.map (fun c => if mine c then { c with reply := none } else c) } }
  let s : State := { s with orb := { s.orb with fwd := s.orb.fwd.filter (fun f => !(f.channel == ch && f.tag == tag)) } }
  match s.test.run with
  | some x => if x.channel = ch ∧ x.tag = tag then { s with test := { s.test with run := some { x with channel := noChan } } } else s
  | none => s

/-- REQUEST_TIMEOUT (R369): the waits of a request exceed its WAIT_MS. Parts that still wait fail with TIMEOUT; one that has not started, or has no parts,
completes with TIMEOUT. -/
def execRequestTimeout (ch tag : Nat) (s : State) : Out :=
  match s.inFlight ch tag with
  | none => .next s
  | some f =>
    if s.cmd.results.any (fun x => x.channel == ch && x.tag == tag) ∧ (s.waitOf ch tag).isNone then .next s
    else
      match s.waitOf ch tag with
      | some w =>
        if w.sts.contains waiting then
          let s := (s.forget ch tag).count CMD.TIMEOUTS
          let late := fun (v : Wait) =>
            if v.req.channel == ch && v.req.tag == tag then { v with sts := v.sts.map (fun st => if st = waiting then Status.timeout else st) } else v
          .next (s.withCmd { s.cmd with waits := s.cmd.waits.map late })
        else .next s
      | none => .next (((s.forget ch tag).count CMD.TIMEOUTS).post ⟨ch, tag, f.opcode, Reply.err Status.timeout⟩)

/-! ## COMMAND frames (R439) -/

/-- The primary tells this device to undo its part of the request with this tag (R374). -/
def State.undoFor (s : State) (tag : Nat) : State :=
  match s.orb.undo.find? (fun u => u.1 == tag) with
  | some u => { s with orb := { s.orb with undo := s.orb.undo.filter (fun v => v.1 != tag) } }.undoOwn u.2.1 (unflat u.2.2)
  | none => s

/-- ORB_COMMAND_RX (R439, R374): a COMMAND frame arrives on link n: a request (kind 0) or reply (1) number `id` for device d, whose packet is `b`, or an
undo (2), whose number is the request's tag. A request for this unit enters CMD_IN on channel 49, one for another goes on by link `via`; a reply goes
back the same way, to the request it answers. -/
def execOrbCommandRx (n id d via kind : Nat) (b : List Byte) (s : State) : Out :=
  if 3 < n ∨ 3 < via ∨ s.linkState n ≠ 3 then .next s
  else
    let s := (s.orbHeardAll n (orbFrames 3 (b.length + 6))).moonSeen (s.get (ORB.LINK_PEER_INDEX n))
    let on := fun (s : State) => if s.linkState via = 3 then s.orbSend via 3 0 0 (le 4 id ++ [BitVec.ofNat 8 kind, BitVec.ofNat 8 d] ++ b) else s
    if kind = 1 then .next (if s.isMoon || s.standingBy then on s else s.forwardReply id b)
    else if d ≠ s.ownIndex then .next (on s)
    else if kind = 2 then .next (s.undoFor id)
    else if s.roomIn 49 b then
      let f : OrbFwd := ⟨id, d, 49, pkTagWord b % 512, n⟩
      .next ({ s with orb := { s.orb with fwd := s.orb.fwd ++ [f] } }.push 1 (cmdItem 49 b))
    else .next s

/-! ## What lets waiting requests go on -/

/-- BATCH_APPLY (R275, R276): the commits due for the next pass are applied, in the order in which they arrived; a FENCE that waited for them opens
(R367). -/
def execBatchApply (s : State) : Out := .next s.batchApply.startWaiting

end Sys2Proof.Machine
end

