-- ==== Sys2Proof/Machine/Runs.lean ====
section
/-! DEFINITION. The end of a slice and of a commanded run, with what they held back (R469, R470, R480, R481), and the life-cycle transitions (R501, R502). -/

namespace Sys2Proof.Machine

/-- Once no slice runs, the writes it held are applied and the requests it held may start (R480). -/
def State.sliceOver (s : State) : State := if s.test.slice.isSome then s else s.releaseWrites.startWaiting

/-- SLICE_END (R470, R471): the slice in progress completes its count with signature `sig`; `expect` is the signature stored for it, and `bad` says that a
read of a memory mode mismatched. -/
def execSliceEnd (sig expect : Nat) (bad : Bool) (s : State) : Out :=
  .next (if s.test.slice.isSome then (s.sliceEnd sig expect bad).sliceOver else s)

/-- SLICE_WATCHDOG (R469): a slice has not completed its count after 200 µs. -/
def execSliceWatchdog (s : State) : Out := .next (if s.test.slice.isSome then (s.sliceCut 0).sliceOver else s)

/-- TEST_STOP (R481, R484). -/
def execTestStop (r : Req) (p : List Tlv) (s : State) : Out :=
  runCmd 0x0A04 [] (fun _ s =>
    if s.test.run.isNone then (Reply.err Status.notInState, s) else (Reply.ok [], (s.testStop 1).sliceOver)) r p s

/-- LC_TRANSITION: Target state; token (R501). -/
def execLcTransition (r : Req) (p : List Tlv) (s : State) : Out :=
  match s.refuses r 0x0B06 [preq 1 1 0 7, pflag 2] (hideText [2] p) with
  | some e => .next (s.finish r 0x0B06 e)
  | none =>
    let (rep, s) := lcTransition p s
    .next (s.sliceOver.finish r 0x0B06 rep)

/-- SERVICE_EXPIRY (R501, R502): SERVICE_LEFT has reached 0, and the unit returns to FIELD. -/
def execServiceExpiry (s : State) : Out :=
  .next (if s.lifecycle = 4 ∧ s.get LIFE.SERVICE_LEFT = 0 then (s.lcTo 3 1).sliceOver else s)

end Sys2Proof.Machine
end

