-- ==== Sys2Proof/Machine/N5.lean ====
section
/-! DEFINITION. The NC512 commands (R4, R388 to R390, R484): their fixed layouts, their slot numbers, and the commands they are carried out through. -/

namespace Sys2Proof.Machine

/-! ## Layout (R388, R389) -/

/-- A TLV of an integer. -/
def tlv (ty len val : Nat) : Tlv := ⟨ty, len, val % 2 ^ (8 * len)⟩

/-- An NC512 source as an Anvil source (R389). -/
def n5Source (x : Nat) : Option Nat :=
  if x < 512 then some x
  else if x < 640 then some (2048 + 32 * ((x - 512) / 8) + (x - 512) % 8)
  else if x < 704 then some (5120 + (x - 640))
  else if x < 768 then some (5376 + (x - 704))
  else none

/-- An NC512 destination as an Anvil destination. -/
def n5Dest (x : Nat) : Option Nat :=
  if x < 512 then some x
  else if x < 640 then some (2048 + 32 * ((x - 512) / 8) + (x - 512) % 8)
  else if x < 768 then some (5128 + (x - 640))
  else none

/-- A signed Q2.14 gain as Q3.20, in the bytes of a TLV. -/
def n5Gain (x : Nat) : Nat := ofSigned 32 (toSigned 16 x * 64)

/-- A ramp in ms as passes. -/
def State.n5Ramp (s : State) (ms : Nat) : Nat := min 1023 (divRound ((ms * s.base : Nat) : Int) 1000).toNat

/-- Parameters of n bytes, padded to a multiple of 4; BAD_LENGTH for any other length. -/
def n5Run (op n : Nat) (f : List Byte → State → Reply ⊕ State) (r : Req) (p : List Byte) (s : State) : Out :=
  match s.barred op r with
  | some st => .next (s.finish r op (Reply.err st))
  | none =>
    if p.length ≠ (n + 3) / 4 * 4 then .next (s.finish r op (Reply.err Status.badLength))
    else match f p s with
      | .inl rep => .next (s.finish r op rep)
      | .inr s => .next s

def badParam : Reply ⊕ State := .inl (Reply.err Status.badParam)

/-- A second command follows once the first has completed OK. -/
def State.andThen (s : State) (a b : State → State) : State :=
  let s1 := a s
  match s1.cmd.results.drop s.cmd.results.length with
  | [x] => if x.reply.status = 0 then b { s1 with cmd := { s1.cmd with results := s.cmd.results } } else s1
  | _ => s1

/-- A stream's settings and its enable, as one command: where the enable would exceed the budget of R7, nothing changes but the outcome. -/
def State.unlessBudget (s s2 : State) (dir i : Nat) : State :=
  let e := s2.entry dir i
  match s2.cmd.waits.drop s.cmd.waits.length with
  | [w] => if w.sts = [Status.noResource] ∧ 2048 < s2.units dir + e.ch * e.k then { s with cmd := { s.cmd with waits := s2.cmd.waits } } else s2
  | _ => s2

/-! ## The commands (R390) -/

/-- N5_ROUTE: Destination; source; gain; ramp. -/
def execN5Route (r : Req) (p : List Byte) (s : State) : Out :=
  n5Run 0x1001 8 (fun b s =>
    match n5Dest (leAt b 0 2), n5Source (leAt b 2 2) with
    | some d, some c => .inr (s.slowPath 0x0601 r
        [tlv 1 2 d, tlv 2 2 c, tlv 3 4 (n5Gain (leAt b 4 2)), tlv 4 2 (s.n5Ramp (leAt b 6 2)), tlv 5 1 0])
    | _, _ => badParam) r p s

/-- N5_GAIN: Destination; gain; ramp. -/
def execN5Gain (r : Req) (p : List Byte) (s : State) : Out :=
  n5Run 0x1002 6 (fun b s =>
    match n5Dest (leAt b 0 2) with
    | some d => .inr (s.slowPath 0x0602 r [tlv 1 1 0, tlv 2 2 d, tlv 3 4 (n5Gain (leAt b 2 2)), tlv 4 2 (s.n5Ramp (leAt b 4 2))])
    | none => badParam) r p s

/-- N5_UNROUTE: Destination; ramp. -/
def execN5Unroute (r : Req) (p : List Byte) (s : State) : Out :=
  n5Run 0x1003 4 (fun b s =>
    match n5Dest (leAt b 0 2) with
    | some d => .inr (s.slowPath 0x0603 r [tlv 1 2 d, tlv 2 2 (s.n5Ramp (leAt b 2 2))])
    | none => badParam) r p s

/-- N5_MIX_SET: Bus; count; that many sources with their gains. A bus with terms is enabled, one with none is not (DESIGN CHOICE, assumption 43). -/
def execN5MixSet (r : Req) (p : List Byte) (s : State) : Out :=
  n5Run 0x1004 (2 + 4 * leAt p 1 1) (fun b s =>
    let n := leAt b 1 1
    let srcs := (List.range n).map (fun k => n5Source (leAt b (2 + 4 * k) 2))
    if 63 < leAt b 0 1 ∨ 16 < n ∨ !srcs.all Option.isSome then badParam
    else
      let terms := (srcs.filterMap id).zipIdx.flatMap (fun x => [tlv 4 2 x.1, tlv 5 4 (n5Gain (leAt b (4 + 4 * x.2) 2)), tlv 6 2 0])
      .inr (nextOf s (execBusSet r ([tlv 1 1 (leAt b 0 1), tlv 2 1 (if n = 0 then 0 else 1), tlv 3 1 0] ++ terms) s))) r p s

/-- The TLV that writes field f of a stream's entry, with its value. -/
def streamTlv (dir i v : Nat) (f : Fld) : Option Tlv :=
  ((entryFlds dir i).find? (fun x => x.fld == f)).map (fun x => tlv x.ty (fieldLen f.w) v)

/-- N5_STREAM_RX (dir 0) and N5_STREAM_TX (dir 1): Index; channels; encoding; SPP; port; destination address; UDP port; enable; first channel. -/
def n5Stream (op dir : Nat) (r : Req) (p : List Byte) (s : State) : Out :=
  n5Run op 18 (fun b s =>
    let i := leAt b 0 2
    let ch := leAt b 2 1
    let en := leAt b 14 1
    let first := leAt b 16 2
    if 127 < i ∨ ch = 0 ∨ 64 < ch ∨ 1 < leAt b 3 1 ∨ 2047 < leAt b 4 2 ∨ 1 < leAt b 6 1 ∨ 1 < en ∨ 512 < first + ch then badParam
    else
      let f := fun (rx tx : Fld) => if dir = 0 then rx else tx
      let vals := [(f (RXE.ENC i) (TXE.ENC i), leAt b 3 1), (f (RXE.CHANNELS i) (TXE.CHANNELS i), ch), (f (RXE.SPP i) (TXE.SPP i), leAt b 4 2),
        (f (RXE.BASE_SLOT i) (TXE.BASE_SLOT i), first), (f (RXE.LEG_VALID i 0) (TXE.LEG_VALID i 0), 1),
        (f (RXE.LEG_IPV6 i 0) (TXE.LEG_IPV6 i 0), 0), (f (RXE.LEG_PORT i 0) (TXE.LEG_PORT i 0), leAt b 6 1),
        (f (RXE.LEG_UDP_DPORT i 0) (TXE.LEG_UDP_DPORT i 0), leAt b 12 2)]
      let ts := tlv 1 2 i :: vals.filterMap (fun x => streamTlv dir i x.2 x.1) ++ [tlv 33 4 (swapBytes 4 (leAt b 8 4))]
      let set := fun (s : State) => nextOf s (if dir = 0 then execStreamRxSet r ts s else execStreamTxSet r ts s)
      .inr (s.unlessBudget (s.andThen set (fun s => nextOf s (execStreamEnable r [tlv 1 1 dir, tlv 2 1 en, tlv 3 2 i] s))) dir i)) r p s

/-- N5_STREAM_RX. -/
def execN5StreamRx (r : Req) (p : List Byte) (s : State) : Out := n5Stream 0x1010 0 r p s

/-- N5_STREAM_TX. -/
def execN5StreamTx (r : Req) (p : List Byte) (s : State) : Out := n5Stream 0x1011 1 r p s

/-- N5_TDM_PORT: Port; format; slots; width; enable. -/
def execN5TdmPort (r : Req) (p : List Byte) (s : State) : Out :=
  n5Run 0x1020 8 (fun b s =>
    let x := fun (k : Nat) => leAt b k 1
    if 15 < x 0 ∨ 3 < x 1 ∨ x 2 < 2 ∨ 8 < x 2 ∨ 2 < x 3 ∨ 1 < x 4 then badParam
    else
      let ts := [tlv 1 1 (x 0), tlv 2 1 (x 1), tlv 3 1 (x 2), tlv 4 1 (x 3), tlv 5 1 (x 3)]
      let bit := [tlv 1 4 (2 ^ x 0)]
      .inr (s.andThen (fun s => nextOf s (execTdmPortSet r ts s))
        (fun s => nextOf s (if x 4 = 1 then execTdmStart r bit s else execTdmStop r bit s)))) r p s

/-- N5_CLOCK_REF: the ranks of references 0 to 6 of DPLL0; reference 7 is excluded. -/
def execN5ClockRef (r : Req) (p : List Byte) (s : State) : Out :=
  n5Run 0x1030 8 (fun b s =>
    .inr (nextOf s (execDpllSet r (tlv 1 1 0 :: tlv 4 1 15 :: (List.range 7).map (fun k => tlv (5 + k) 1 (leAt b (6 - k) 1))) s))) r p s

/-- Streams whose ENABLE is set. -/
def State.streamsOn (s : State) : Nat := ((List.range 512).filter (fun i => (s.entry 0 i).on)).length + ((List.range 512).filter (fun i => (s.entry 1 i).on)).length

/-- N5_STATUS: DEVICE_ID; DPLL0 STATE; streams enabled. -/
def execN5Status (r : Req) (p : List Byte) (s : State) : Out :=
  n5Run 0x1040 0 (fun _ s => .inl (Reply.ok (le 4 s.deviceId ++ le 1 (s.get (CLK.DPLL_STATE 0)) ++ le 2 s.streamsOn ++ [0]))) r p s

/-- N5_MEMTEST (R484): Bank mask. Each bank named is one run in MARCH_CM with REFERENCE = 1, and one part of the reply. -/
def execN5Memtest (r : Req) (p : List Byte) (s : State) : Out :=
  n5Run 0x1050 2 (fun b s =>
    let m := leAt b 0 2
    if 512 ≤ m then badParam
    else if !s.runAllowed 1 ∨ s.test.run.isSome then .inl (Reply.err Status.notInState)
    else match bitsOf 9 m with
      | [] => .inl ⟨0, 0, 0, 0, 0, [], []⟩
      | u :: rest => .inr (s.beginRun ⟨r.channel, r.tag, 0x1050, 1, u, 2, true, 0, 0xFFFF, false, false, 0, true, rest, []⟩)) r p s

end Sys2Proof.Machine
end

