-- ==== Sys2Proof/Machine/Mirror.lean ====
section
/-! DEFINITION. MIRROR_STATE frames at the standby (R443, R454): register writes, commands, sessions and Anvil commits of the driving unit are applied here;
the resync's configuration (R456). -/

namespace Sys2Proof.Machine

/-- The TLVs of a packet. -/
def tlvsOf (b : List Byte) : List Tlv := (readTlvs (pkPlen b) (pkParams b) 0).1

/-- A command as a mirrored packet runs it. -/
abbrev MirrorRun := Req → List Byte → State → Out

def mirrorRuns0 : List (Nat × MirrorRun) := [
  (0x0121, fun r b => execBankQuarantine r (tlvsOf b)),
  (0x0122, fun r b => execBankRelease r (tlvsOf b)),
  (0x0123, fun r b => execQueueSet r (tlvsOf b)),
  (0x0125, fun r b => execBellowsSet r (tlvsOf b)),
  (0x0131, fun r b => execSealSet r (tlvsOf b)),
  (0x0202, fun r b => execPtpPortSet r (tlvsOf b)),
  (0x0203, fun r b => execServoSet r (tlvsOf b)),
  (0x0204, fun r b => execAsymSet r (tlvsOf b)),
  (0x0205, fun r b => execTimeSet r (tlvsOf b)),
  (0x0206, fun r b => execPathResume r (tlvsOf b)),
  (0x0207, fun r b => execServoPortSelect r (tlvsOf b)),
  (0x0209, fun r b => execClockQualitySet r (tlvsOf b))]

def mirrorRuns1 : List (Nat × MirrorRun) := [
  (0x0302, fun r b => execRefSet r (tlvsOf b)),
  (0x0303, fun r b => execMonSet r (tlvsOf b)),
  (0x0304, fun r b => execDpllSet r (tlvsOf b)),
  (0x0305, fun r b => execDpllMode r (tlvsOf b)),
  (0x0306, fun r b => execSteerSet r (tlvsOf b)),
  (0x0307, fun r b => execOutputSet r (tlvsOf b)),
  (0x0308, fun r b => execOutputAlign r (tlvsOf b)),
  (0x0309, fun r b => execSuspectClear r (tlvsOf b)),
  (0x0401, fun r b => execPortSet r (tlvsOf b)),
  (0x0403, fun r b => execFilterSet r (tlvsOf b)),
  (0x0404, fun r b => execDispatchSet r (tlvsOf b)),
  (0x0406, fun r b => execWakeSet r (tlvsOf b))]

def mirrorRuns2 : List (Nat × MirrorRun) := [
  (0x0410, fun r b => execIpSet r (tlvsOf b)),
  (0x0412, fun r b => execMcastJoin r (tlvsOf b)),
  (0x0413, fun r b => execMcastLeave r (tlvsOf b)),
  (0x0501, fun r b => execStreamRxSet r (tlvsOf b)),
  (0x0502, fun r b => execStreamTxSet r (tlvsOf b)),
  (0x0503, fun r b => execStreamEnable r (tlvsOf b)),
  (0x0507, fun r b => execLaneQuarantine r (tlvsOf b)),
  (0x0508, fun r b => execLaneRelease r (tlvsOf b)),
  (0x0509, fun r b => execAm824CsSet r (tlvsOf b)),
  (0x0607, fun r b => execAlignSet r (tlvsOf b)),
  (0x0608, fun r b => execConcealSet r (tlvsOf b)),
  (0x0609, fun r b => execGenSet r (tlvsOf b))]

def mirrorRuns3 : List (Nat × MirrorRun) := [
  (0x060B, fun r b => execMuQuarantine r (tlvsOf b)),
  (0x060C, fun r b => execMuRelease r (tlvsOf b)),
  (0x0701, fun r b => execTdmGroupSet r (tlvsOf b)),
  (0x0702, fun r b => execTdmPortSet r (tlvsOf b)),
  (0x0703, fun r b => execTdmMaskSet r (tlvsOf b) false),
  (0x0704, fun r b => execTdmStart r (tlvsOf b)),
  (0x0705, fun r b => execTdmStop r (tlvsOf b)),
  (0x0801, fun r b => execAmpFreqSet r (tlvsOf b)),
  (0x0802, fun r b => execAmpChSet r (tlvsOf b)),
  (0x0803, fun r b => execAmpCoefSet r (tlvsOf b)),
  (0x0804, fun r b => execAmpStart r (tlvsOf b)),
  (0x0805, fun r b => execAmpStop r (tlvsOf b))]

def mirrorRuns4 : List (Nat × MirrorRun) := [
  (0x0806, fun r b => execAmpMute r (tlvsOf b)),
  (0x0807, fun r b => execAmpUnlock r (tlvsOf b)),
  (0x0808, fun r b => execAmpQuenchSet r (tlvsOf b)),
  (0x0902, fun r b => execMoonSet r (tlvsOf b)),
  (0x0903, fun r b => execMoonStart r (tlvsOf b)),
  (0x0904, fun r b => execOrbLinkSet r (tlvsOf b)),
  (0x0C01, fun r b => execNodeSet r (tlvsOf b)),
  (0x0C03, fun r b => execSdpApply r (tlvsOf b)),
  (0x0C04, fun r b => execSapSet r (tlvsOf b)),
  (0x0C09, fun r b => execNmosExposeSet r (tlvsOf b)),
  (0x1010, fun r b => execN5StreamRx r (pkParams b)),
  (0x1011, fun r b => execN5StreamTx r (pkParams b))]

def mirrorRuns5 : List (Nat × MirrorRun) := [
  (0x1020, fun r b => execN5TdmPort r (pkParams b)),
  (0x1030, fun r b => execN5ClockRef r (pkParams b)),
  (0x1040, fun r b => execN5Status r (pkParams b))]

/-- The commands a driving member mirrors, by opcode. -/
def mirrorRuns : List (Nat × MirrorRun) := List.flatten [mirrorRuns0, mirrorRuns1, mirrorRuns2, mirrorRuns3, mirrorRuns4, mirrorRuns5]

/-- Nobody waits for the outcome of a mirrored command. -/
def State.dropMirror (s : State) : State :=
  s.withCmd { s.cmd with results := s.cmd.results.filter (fun x => x.channel != mirrorChan),
                         waits := s.cmd.waits.filter (fun w => w.req.channel != mirrorChan) }

/-- A mirrored command is carried out. -/
def State.mirrorCommand (s : State) (b : List Byte) : State :=
  match mirrorRuns.find? (fun x => x.1 == pkOp b) with
  | some (_, run) => (nextOf s (run (reqOf mirrorChan b) b s)).dropMirror
  | none => s

/-- A mirrored session takes the place of the one on its channel; its kept replies stay. -/
def State.mirrorSession (s : State) (b : List Byte) : State :=
  let old := s.sessionOn (leAt b 0 1)
  let x := Session.ofBytes b s.cycles ((old.map Session.kept).getD [])
  s.withCmd { s.cmd with sessions := s.cmd.sessions.filter (fun y => y.chan != x.chan) ++ [x],
                         nextSession := max s.cmd.nextSession (x.id % 0xFFFFFFFF + 1) }

/-- A kept reply of a mirrored session. -/
def Session.keep (x : Session) (seq : Nat) (b : List Byte) : Session := { x with kept := ((seq, b) :: x.kept).take 64 }

/-- A mirrored Anvil commit takes effect in the pass it names (R275, R454). -/
def State.mirrorCommit (s : State) (b : List Byte) : State :=
  let c : Commit := ⟨1, entriesOf 100 (b.drop 8), s.cycles, leAt b 0 8, mirrorChan, none, []⟩
  { s with anvil := { s.anvil with commits := s.anvil.commits ++ [c] } }

/-! ## The configuration in a resync (R456) -/

/-- The configuration a driving member sends: the registers that a pair mirrors, and the services' settings, as the sections of an image. -/
def State.peerConfig (s : State) : List Byte :=
  let regs := s.regs.flatMap (fun x => if (configFld x.1).isSome && mirrorReg (x.1 / 32) then le 4 x.1 ++ le 8 x.2 else [])
  sectionBytes 1 regs ++ sectionBytes 3 (s.svcItems.flatMap item)

/-- A driving member sends its whole configuration and table state, its sessions and their kept replies over ORB3: configuration in frames of kind 6,
kind 7 after the last. -/
def State.sendConfig (s : State) : State :=
  let b := s.peerConfig
  let s := (pieces 2000 ((b.length + 1999) / 2000) b).foldl (fun s p => s.mirror 6 p) s
  let one := fun (s : State) (x : Session) =>
    x.kept.reverse.foldl (fun s k => s.mirror 5 ([BitVec.ofNat 8 x.chan] ++ le 4 k.1 ++ k.2)) (s.mirror 2 x.bytes)
  (s.cmd.sessions.foldl one s).mirror 7 []

/-- The sections of the configuration received. -/
def State.peerSections (s : State) : List (Nat × Nat × List Byte) :=
  (readSections s.pair.config.length 0 s.pair.config).getD []

/-- The body of a section of the configuration received. -/
def State.peerSection (s : State) (ty : Nat) : List Byte := ((s.peerSections.find? (fun x => x.1 == ty)).map (fun x => x.2.2)).getD []

/-- Phase 1 ends: every mirrored configuration field but those that start something takes the peer's value, or its reset value where the peer lists none;
the services' settings follow. -/
def State.takeConfig (s : State) : State :=
  if s.peerSections = [] then s
  else
    let l := readRegs (s.peerSection 1)
    let mine := (s.regs.filterMap (fun x => if mirrorReg (x.1 / 32) then configFld x.1 else none)) ++
      l.filterMap (fun x => if mirrorReg (x.1 / 32) then configFld x.1 else none)
    let starts := starters.map Fld.key
    let t := mine.foldl (fun t f => if starts.contains f.key then t else t.set f ((RegFile.lookup f.key l).getD f.reset)) s
    let c := s.peerSection 3
    t.putItems ((readItems c.length c).getD [])

/-- Phase 3 ends at pass P: what the peer's configuration enables is started, and what it does not is stopped, by the means of each unit. The orbit links
stay as they are. -/
def State.joinConfig (s : State) : State :=
  if s.peerSections = [] then s
  else
    let l := readRegs (s.peerSection 1)
    let want := fun (f : Fld) => (RegFile.lookup f.key l).getD f.reset == 1
    let s := (List.range 8).foldl (fun s n => if want (CLK.REF_ENABLE n) = s.on (CLK.REF_ENABLE n) then s else s.refEnable n (want (CLK.REF_ENABLE n))) s
    let s := [1, 2, 3].foldl (fun s d => if want (CLK.DPLL_ENABLE d) = s.on (CLK.DPLL_ENABLE d) then s else s.dpllEnable d (want (CLK.DPLL_ENABLE d))) s
    let s := [0, 1, 2, 3].foldl (fun s p => if want (PORT.PORT_EN p) = s.on (PORT.PORT_EN p) then s
      else (s.set (PORT.PORT_EN p) (if want (PORT.PORT_EN p) then 1 else 0)).portEnable p (want (PORT.PORT_EN p))) s
    let s := [0, 1, 2, 3].foldl (fun s g => s.tdmGroupApply g 0 false) s
    let s := (List.range 32).foldl (fun s p => if want (TDM.P_PORT_EN p) = s.on (TDM.P_PORT_EN p) then s
      else if want (TDM.P_PORT_EN p) then s.tdmStart p else s.tdmStop p) s
    let s := s.putTables.ampCfg
    let on := fun (d i : Nat) => want (if d = 0 then RXE.ENABLE i else TXE.ENABLE i)
    [0, 1].foldl (fun s d => (List.range 512).foldl (fun s i => if on d i = (s.entry d i).on then s else (s.enableStream d i (on d i)).2.2) s) s

/-- RESYNC_PHASE_DONE (R456): the phase in progress ends, where what it waits for has come: 16 TIME frames in a row in phase 2, 48 matching digests in
phase 4. -/
def execResyncPhaseDone (s : State) : Out :=
  if s.get PAIR.STATUS_ROLE ≠ 4 then .next s
  else
    match s.get PAIR.RESYNC_PHASE with
    | 1 =>
      let s := s.takeConfig
      .next ({ s with pair := { s.pair with timeRun := 0 } }.set PAIR.RESYNC_PHASE 2)
    | 2 => .next (if 16 ≤ s.pair.timeRun then s.set PAIR.RESYNC_PHASE 3 else s)
    | 3 =>
      let s := s.joinConfig
      .next ({ s with pair := { s.pair with matched := 0, differ := 0, config := [] } }.set PAIR.RESYNC_PHASE 4)
    | 4 =>
      if s.pair.matched < 48 then .next s
      else
        let ms := (s.cycles - s.pair.since) / (1000 * cyclesPerUs)
        let s : State := { s with pair := { s.pair with conf := none, differ := 0 } }
        .next (((s.set PAIR.STATUS_SYNCED 1).setRole 5).signal PAIR.INT PAIR.INT_EN PAIR.INT_RESYNC_DONE 0x0914 15 0 (le 4 ms))
    | _ => .next s

/-- ORB_CONTROL_FRAME_RX (R425, R426, R436, R456, R457): a CONTROL frame, or (`ok` false) a frame of unknown type or failing its check, arrives; `hello`
is the HELLO of a moon further out that a CONTROL frame carries to the primary: EUI-64 and hops; `resync`: it asks for a resync, of this unit where it
follows, and of its peer, to which a driving unit then sends its configuration. -/
def execOrbControlFrameRx (n : Nat) (ok : Bool) (hello : Option (Nat × Nat)) (resync : Bool) (s : State) : Out :=
  if 3 < n ∨ s.linkState n < 2 then .next s
  else if !ok then .next (s.count (ORB.LINK_FCHK_ERR n))
  else
    let s := (s.orbHeard n).moonSeen (s.get (ORB.LINK_PEER_INDEX n))
    let pr := s.get PAIR.STATUS_PEER_ROLE
    let s := if resync ∧ n = 3 then
        (if s.standingBy ∧ (pr = 2 ∨ pr = 3) then s.startResync else s.sendConfig)
      else s
    match hello with
    | some (eui, hops) => .next (if s.isMoon ∨ s.linkState n ≠ 3 then s else s.moonAssign n eui hops)
    | none => .next s

/-- One mirrored change of kind k: 0 a register write over the engine's path, 1 a command, 2 a session, 3 the end of a session, 4 an Anvil commit, 5 a
kept reply, 6 a piece of the configuration in a resync, 7 its end. -/
def State.mirrorApply (s : State) (k : Nat) (b : List Byte) : State :=
  match k with
  | 0 => s.regWrite 2 (leAt b 0 4) (leAt b 4 4)
  | 1 => s.mirrorCommand b
  | 2 => s.mirrorSession b
  | 3 => s.withCmd { s.cmd with sessions := s.cmd.sessions.filter (fun y => y.chan != leAt b 0 1) }
  | 4 => s.mirrorCommit b
  | 5 =>
    let one := fun (y : Session) => if y.chan = leAt b 0 1 then y.keep (leAt b 1 4) (b.drop 5) else y
    s.withCmd { s.cmd with sessions := s.cmd.sessions.map one }
  | 6 => { s with pair := { s.pair with config := if s.get PAIR.RESYNC_PHASE = 1 then s.pair.config ++ b else s.pair.config } }
  | _ => s

/-- MIRROR_STATE_RX (R454): the payload of a MIRROR_STATE frame arrives over ORB3 at a standby, and is applied at its boundary. -/
def execMirrorStateRx (b : List Byte) (s : State) : Out :=
  if !s.standingBy ∨ s.linkState 3 ≠ 3 then .next s
  else .next (((s.orbHeardAll 3 (orbFrames 6 b.length)).mirrorApply (leAt b 0 1) (b.drop 9)).startWaiting)

end Sys2Proof.Machine
end

