-- ==== Sys2Proof/Machine/Pass.lean ====
section
/-! DEFINITION. A pass of Anvil with everything that supplies it and takes from it (R254, R256): orbit groups (R430, R431), the sense block (R331),
mirrored rows (R453), orbit transmitters (check point 10 of R246), the pair's rows and digests (R453, R455). -/

namespace Sys2Proof.Machine

/-! ## Sources -/

/-- The values of a row of 64 slots from `base` on. -/
def rowSlots (base : Nat) (vals : List Int) : List (Nat × Int) := (vals.take 64).zipIdx.map (fun v => (base + v.2, v.1))

/-- Group q of link l in pass n: its block of period n − 1, EXPECT, and what its absence brings (R431). A group forwarded elsewhere is silence (R429). -/
def State.orbGroup (s : State) (l q n : Nat) : List (Nat × Int) × State :=
  if (s.fwdTo l q).isSome then ([], s.setBit (ORB.LINK_EXPECT l) q false)
  else
    match s.orb.slots.find? (fun x => x.link == l && x.group == q && x.period + 1 == n) with
    | some x => (rowSlots (3072 + 512 * l + 64 * q) x.vals, s.setBit (ORB.LINK_EXPECT l) q true)
    | none =>
      if s.bit (ORB.LINK_EXPECT l) q then
        let s := (s.setBit (ORB.LINK_EXPECT l) q false).count (ORB.LINK_BLK_MISSING l)
        ([], s.signalHeld ORB.INT ORB.INT_EN ORB.INT_BLK_MISSING 0x0906 14 l (s.get ORB.CTRL_EVT_HOLDOFF * 1000 * cyclesPerUs)
          ([BitVec.ofNat 8 q, 0, 0, 0] ++ le 4 (s.get (ORB.LINK_BLK_MISSING l))))
      else ([], s)

/-- The orbit groups of a list of (link, group). -/
def State.orbGroups (n : Nat) : List (Nat × Nat) → State → List (Nat × Int) × State
  | [], s => ([], s)
  | (l, q) :: t, s =>
    let (v, s) := s.orbGroup l q n
    let (vs, s) := State.orbGroups n t s
    (v ++ vs, s)

/-- The orbit sources of pass n; slots of earlier periods are free again. -/
def State.orbSources (s : State) (n : Nat) : List (Nat × Int) × State :=
  let (vs, s) := State.orbGroups n ((List.range 32).map (fun i => (i / 8, i % 8))) s
  (vs, { s with orb := { s.orb with slots := s.orb.slots.filter (fun x => decide (n ≤ x.period)) } })

/-- The sense block of a pass (R246 check point 5, R331): silence while the PWM clock is stopped; an NI part has none. -/
def State.senseSources (s : State) (n : Nat) (vals : List Int) (crc : Nat) : List (Nat × Int) × State :=
  if s.isNi ∨ !s.on AMP.STATUS_PWM_OK then ([], s)
  else
    let (fails, _, s) := s.checkSeal 5 0 false (crc != blockSeal 7 0 n ((List.range 16).map (fun i => nth vals i 0)))
    (if fails then [] else (vals.take 16).zipIdx.map (fun v => (6400 + v.2, v.1)), s)

/-- The source groups a driving unit mirrors (R453). -/
def mirrorGroups : List Nat := List.range 48 ++ (List.range 17).map (fun i => 84 + i)

/-- The slots of a mirrored group that its row replaces: generator slots stay the unit's own. -/
def mirrorSlots (g : Nat) (vals : List Int) : List (Nat × Int) := rowSlots (64 * g) (if g = 100 then vals.take 16 else vals)

/-- The mirrored rows of pass n that a standby uses in place of its own; each one missing counts in MIRROR_MISS (R453). -/
def State.mirrorSources (s : State) (n : Nat) : List (Nat × Int) × State :=
  if s.standingBy then
    let found := mirrorGroups.filterMap (fun g => s.pair.rows.find? (fun x => x.1 == g && x.2.1 == n))
    (found.flatMap (fun x => mirrorSlots x.1 x.2.2), s.countBy PAIR.MIRROR_MISS (mirrorGroups.length - found.length))
  else ([], s)

/-! ## Consumers -/

/-- A destination row of the last pass. -/
def State.destRow (s : State) (g : Nat) : List Int := (List.range 64).map (fun i => srcVal [] s.anvil.dest (64 * g + i))

/-- Outbound group q of link l is local: no link forwards its group to l (R429). -/
def State.localOut (s : State) (l q : Nat) : Bool :=
  !((List.range 4).any (fun m => s.fwdTo m q == some l))

/-- Link l sends outbound group q of pass n (R426, check point 10 of R246). -/
def State.orbOut (n : Nat) (damaged : List Nat) (s : State) (x : Nat × Nat) : State :=
  let (l, q) := x
  if s.linkState l ≠ 3 ∨ s.on (ORB.LINK_MIRROR l) ∨ !s.localOut l q then s
  else
    let g := 48 + 8 * l + q
    let (fails, _, s) := s.checkRow 10 l g n false (damaged.contains g)
    let vals := if fails then List.replicate 64 0 else s.destRow g
    s.orbSend l 1 q n (orbBytes vals ++ le 4 (blockSeal 4 q n vals))

/-- The orbit transmitters take pass n. -/
def State.orbPass (s : State) (n : Nat) (damaged : List Nat) : State :=
  ((List.range 32).map (fun i => (i / 8, i % 8))).foldl (State.orbOut n damaged) s

/-- The digest of pass n (R455). -/
def State.digest (s : State) (n : Nat) : Nat := crc32c ((List.range 97).flatMap (fun g => le 4 (blockSeal 3 g n (s.destRow g))))

/-- A member that drives mirrors the rows of pass n, as the pass used them (DESIGN CHOICE, assumption 41). -/
def State.mirrorOut (s : State) (n : Nat) (staged : List (Nat × Int)) : State :=
  mirrorGroups.foldl (fun s g =>
    let vals := (List.range 64).map (fun i => srcVal [] staged (64 * g + i))
    s.orbSend 3 5 g n (orbBytes vals ++ le 4 (blockSeal 2 g n vals))) s

/-- A member of a pair after pass n: its digest, sent where it drives outputs (R455). -/
def State.pairPass (s : State) (n : Nat) (staged : List (Nat × Int)) : State :=
  if s.get PAIR.STATUS_ROLE = 0 then s
  else
    let d := s.digest n
    let s : State := { s with pair := { s.pair with digests := (s.pair.digests ++ [(n, d)]).drop (s.pair.digests.length - 15) } }
    if s.mayDrive ∧ s.linkState 3 = 3 then (s.mirrorOut n staged).orbSend 3 7 0 0 (le 4 n ++ le 4 d) else s

/-! ## The pass -/

/-- The staged source values of pass n, a standby's mirrored rows first. -/
def State.stagePass (s : State) (n : Nat) (f : PassFacts) : List (Nat × Int) × State :=
  let (net, s) := (s.readCe f.ce).loadPass n
  let (tdm, s) := s.tdmSources n
  let (orb, s) := s.orbSources n
  let (play, s) := s.playbackPass n f.play f.playUe
  let (sense, s) := s.senseSources n f.sense f.senseSeal
  let (mir, s) := s.mirrorSources n
  (List.flatten [mir, net, tdm, orb, play, sense], s)

/-- Pass n. -/
def State.pass (s : State) (n : Nat) (f : PassFacts) : State :=
  let (staged, s) := s.stagePass n f
  let s := s.anvilCore n staged f.rows f.residues f.fails
  let s := (s.tdmTake n s.anvil.dest).ampPass n s.anvil.dest
  ((s.recordPass n f.dests).orbPass n f.dests).pairPass n staged

/-- ANVIL_PASS (R254): the pass of the base period that has begun, once passes run (R524) and once in each period. -/
def execAnvilPass (f : PassFacts) (s : State) : Out :=
  if !s.passesRun ∨ s.anvil.ran = some s.media then .next s else .next (s.pass s.media f)

end Sys2Proof.Machine
end

