-- ==== Sys2Proof/Machine/PtpTx.lean ====
section
/-! DEFINITION. The PTP messages the block sends (R57, R60 to R62) through the PTP partition of the port (R137 to R139, R141). -/

namespace Sys2Proof.Machine

/-- Bytes of the PTP partition (R137). -/
def ptpRoom : Nat := 8192

/-- Message `m` enters the PTP partition of port p and starts at once, with departure stamp `raw` at the ball, where no frame stands before it and neither a
pause nor a launch holds it; else it waits for TX_FRAME_BOUNDARY. One longer than TX_MAX_LEN is discarded (R139); one that finds the partition full,
or a port that is not UP, is not sent (DESIGN CHOICE, assumption 106). -/
def State.sendPtp (s : State) (p : Nat) (m : PtpSent) (raw : Int) : State :=
  let x := s.port p
  if !s.on (PORT.LINK_UP p) then s
  else if s.txTooLong p m.bytes then s.stat p Stat.TX_DISCARD
  else if ptpRoom < (x.ptp.map (fun f => f.msg.bytes.length + 4)).sum + m.bytes.length + 4 then s
  else
    let s := s.setPort p { x with ptp := x.ptp ++ [⟨m, false⟩] }
    if !x.ptp.isEmpty || !x.pauses.isEmpty || s.streamDue p || s.pausedStream p then s
    else (s.startPtp p raw).getD (s.deferPtp p)

/-- The stamp, before TX_LAT, of a message that leaves now. -/
def State.nowStamp (s : State) : Int := ((s.ctr / 2 ^ 16 : Nat) : Int)

/-- DELAY_REQ_TX (R58, R60, R63): `raw` is the stamp at the ball, before TX_LAT; it is kept as t3. -/
def execDelayReqTx (p : Nat) (raw : Int) (s : State) : Out :=
  if s.slaving p then
    let x := s.ptp p
    let m := s.ptpMake p 2 x.seqDreq 0 0 0
    .next ((s.setPtp p { x with seqDreq := (x.seqDreq + 1) % 65536 }).sendPtp p m raw)
  else .next s

/-- DELAY_REQ_RX (R57): a Delay_Req of the port `src` reaches a MASTER port; the Delay_Resp carries its receive stamp. -/
def execDelayReqRx (p domain seq src : Nat) (corr raw : Int) (s : State) : Out :=
  if p < 2 ∧ s.on (TIME.PORT_ENABLE p) ∧ s.get (TIME.PORT_STATE p) = 6 ∧ domain = s.get (TIME.PORT_DOMAIN p) then
    let x := s.ptp p
    let sec := s.ctr / ctrPerSec
    let n := if x.dreqSec = sec then x.dreqCount else 0
    if 2048 ≤ n then .next (s.count (TIME.PORT_DREQ_DROP p))
    else
      let t4 := raw - s.geti (TIME.PORT_RX_LAT p)
      let s := (s.count (TIME.PORT_DREQ_RX p)).setPtp p { x with dreqSec := sec, dreqCount := n + 1 }
      .next (s.sendPtp p (s.ptpMake p 3 seq (t4 / 65536) (corr - t4 % 65536) src) s.nowStamp)
  else .next s

/-- ANNOUNCE_TX (R56). -/
def execAnnounceTx (p : Nat) (s : State) : Out :=
  if p < 2 ∧ s.get (TIME.PORT_STATE p) = 6 then
    let x := s.ptp p
    let m := s.ptpMake p 4 x.seqAnnounce 0 0 0
    .next ((s.setPtp p { x with seqAnnounce := (x.seqAnnounce + 1) % 65536 }).sendPtp p m s.nowStamp)
  else .next s

/-- SYNC_TX (R60, R62): `raw` is the stamp at the ball, before TX_LAT, of a Sync that starts at once. -/
def execSyncTx (p : Nat) (raw : Int) (s : State) : Out :=
  if p < 2 ∧ s.get (TIME.PORT_STATE p) = 6 then
    let x := s.ptp p
    let m := s.ptpMake p 0 x.seqSync 0 0 0
    .next ((s.setPtp p { x with seqSync := (x.seqSync + 1) % 65536 }).sendPtp p m raw)
  else .next s

/-- FOLLOW_UP_TX (R62): the departure time of the last two-step Sync. -/
def execFollowUpTx (p : Nat) (s : State) : Out :=
  let x := s.ptp p
  if p < 2 then
    match x.followUp with
    | some (seq, d) =>
      .next ((s.setPtp p { x with followUp := none }).sendPtp p (s.ptpMake p 1 seq (d / 65536) (d % 65536) 0) s.nowStamp)
    | none => .next s
  else .next s

end Sys2Proof.Machine
end

