-- ==== Sys2Proof/Machine/Dispatch.lean ====
section
/-! DEFINITION. One arm per command: a direct call of its meaning. -/

namespace Sys2Proof.Machine

def exec (i : Instr) (s : State) : Host.Outcome State Fault Refusal :=
  match i with
  | .nop r p => Sys2Proof.Machine.execNop r p s
  | .sysInfoGet r p => Sys2Proof.Machine.execSysInfoGet r p s
  | .sessionListGet r p => Sys2Proof.Machine.execSessionListGet r p s
  | .sessionClose r p => Sys2Proof.Machine.execSessionClose r p s
  | .cmdStatusGet r p => Sys2Proof.Machine.execCmdStatusGet r p s
  | .cmdChannelGet r p => Sys2Proof.Machine.execCmdChannelGet r p s
  | .dsStatusGet r p => Sys2Proof.Machine.execDsStatusGet r p s
  | .bankQuarantine r p => Sys2Proof.Machine.execBankQuarantine r p s
  | .bankRelease r p => Sys2Proof.Machine.execBankRelease r p s
  | .queueSet r p => Sys2Proof.Machine.execQueueSet r p s
  | .queueStatusGet r p => Sys2Proof.Machine.execQueueStatusGet r p s
  | .bellowsSet r p => Sys2Proof.Machine.execBellowsSet r p s
  | .ringInfoGet r p => Sys2Proof.Machine.execRingInfoGet r p s
  | .sealStatusGet r p => Sys2Proof.Machine.execSealStatusGet r p s
  | .sealSet r p => Sys2Proof.Machine.execSealSet r p s
  | .sealInject r p => Sys2Proof.Machine.execSealInject r p s
  | .sysReset r p => Sys2Proof.Machine.execSysReset r p s
  | .bootStatusGet r p => Sys2Proof.Machine.execBootStatusGet r p s
  | .dormantEnter r p => Sys2Proof.Machine.execDormantEnter r p s
  | .cfgRejectGet r p => Sys2Proof.Machine.execCfgRejectGet r p s
  | .timeGet r p => Sys2Proof.Machine.execTimeGet r p s
  | .ptpPortSet r p => Sys2Proof.Machine.execPtpPortSet r p s
  | .servoSet r p => Sys2Proof.Machine.execServoSet r p s
  | .asymSet r p => Sys2Proof.Machine.execAsymSet r p s
  | .timeSet r p => Sys2Proof.Machine.execTimeSet r p s
  | .pathResume r p => Sys2Proof.Machine.execPathResume r p s
  | .servoPortSelect r p => Sys2Proof.Machine.execServoPortSelect r p s
  | .ptpDatasetGet r p => Sys2Proof.Machine.execPtpDatasetGet r p s
  | .clockQualitySet r p => Sys2Proof.Machine.execClockQualitySet r p s
  | .clkStatusGet r p => Sys2Proof.Machine.execClkStatusGet r p s
  | .refSet r p => Sys2Proof.Machine.execRefSet r p s
  | .monSet r p => Sys2Proof.Machine.execMonSet r p s
  | .dpllSet r p => Sys2Proof.Machine.execDpllSet r p s
  | .dpllMode r p => Sys2Proof.Machine.execDpllMode r p s
  | .steerSet r p => Sys2Proof.Machine.execSteerSet r p s
  | .outputSet r p => Sys2Proof.Machine.execOutputSet r p s
  | .outputAlign r p => Sys2Proof.Machine.execOutputAlign r p s
  | .suspectClear r p => Sys2Proof.Machine.execSuspectClear r p s
  | .portSet r p => Sys2Proof.Machine.execPortSet r p s
  | .portStatusGet r p => Sys2Proof.Machine.execPortStatusGet r p s
  | .filterSet r p => Sys2Proof.Machine.execFilterSet r p s
  | .dispatchSet r p => Sys2Proof.Machine.execDispatchSet r p s
  | .statsGet r p => Sys2Proof.Machine.execStatsGet r p s
  | .wakeSet r p => Sys2Proof.Machine.execWakeSet r p s
  | .ipSet r p => Sys2Proof.Machine.execIpSet r p s
  | .ipStatusGet r p => Sys2Proof.Machine.execIpStatusGet r p s
  | .mcastJoin r p => Sys2Proof.Machine.execMcastJoin r p s
  | .mcastLeave r p => Sys2Proof.Machine.execMcastLeave r p s
  | .mcastStatusGet r p => Sys2Proof.Machine.execMcastStatusGet r p s
  | .neighborGet r p => Sys2Proof.Machine.execNeighborGet r p s
  | .streamRxSet r p => Sys2Proof.Machine.execStreamRxSet r p s
  | .streamTxSet r p => Sys2Proof.Machine.execStreamTxSet r p s
  | .streamEnable r p => Sys2Proof.Machine.execStreamEnable r p s
  | .streamStatusGet r p => Sys2Proof.Machine.execStreamStatusGet r p s
  | .streamCountersGet r p => Sys2Proof.Machine.execStreamCountersGet r p s
  | .laneStatusGet r p => Sys2Proof.Machine.execLaneStatusGet r p s
  | .laneQuarantine r p => Sys2Proof.Machine.execLaneQuarantine r p s
  | .laneRelease r p => Sys2Proof.Machine.execLaneRelease r p s
  | .am824CsSet r p => Sys2Proof.Machine.execAm824CsSet r p s
  | .am824CsGet r p => Sys2Proof.Machine.execAm824CsGet r p s
  | .routeSet r p => Sys2Proof.Machine.execRouteSet r p s
  | .gainSet r p => Sys2Proof.Machine.execGainSet r p s
  | .routeClear r p => Sys2Proof.Machine.execRouteClear r p s
  | .busSet r p => Sys2Proof.Machine.execBusSet r p s
  | .fabricLoad r p => Sys2Proof.Machine.execFabricLoad r p s
  | .fabricGet r p => Sys2Proof.Machine.execFabricGet r p s
  | .alignSet r p => Sys2Proof.Machine.execAlignSet r p s
  | .concealSet r p => Sys2Proof.Machine.execConcealSet r p s
  | .genSet r p => Sys2Proof.Machine.execGenSet r p s
  | .anvilStatusGet r p => Sys2Proof.Machine.execAnvilStatusGet r p s
  | .muQuarantine r p => Sys2Proof.Machine.execMuQuarantine r p s
  | .muRelease r p => Sys2Proof.Machine.execMuRelease r p s
  | .tdmGroupSet r p => Sys2Proof.Machine.execTdmGroupSet r p s
  | .tdmPortSet r p => Sys2Proof.Machine.execTdmPortSet r p s
  | .tdmMaskSet r p late => Sys2Proof.Machine.execTdmMaskSet r p late s
  | .tdmStart r p => Sys2Proof.Machine.execTdmStart r p s
  | .tdmStop r p => Sys2Proof.Machine.execTdmStop r p s
  | .tdmStatusGet r p => Sys2Proof.Machine.execTdmStatusGet r p s
  | .ampFreqSet r p => Sys2Proof.Machine.execAmpFreqSet r p s
  | .ampChSet r p => Sys2Proof.Machine.execAmpChSet r p s
  | .ampCoefSet r p => Sys2Proof.Machine.execAmpCoefSet r p s
  | .ampStart r p => Sys2Proof.Machine.execAmpStart r p s
  | .ampStop r p => Sys2Proof.Machine.execAmpStop r p s
  | .ampMute r p => Sys2Proof.Machine.execAmpMute r p s
  | .ampUnlock r p => Sys2Proof.Machine.execAmpUnlock r p s
  | .ampQuenchSet r p => Sys2Proof.Machine.execAmpQuenchSet r p s
  | .ampStatusGet r p => Sys2Proof.Machine.execAmpStatusGet r p s
  | .clusterStatusGet r p => Sys2Proof.Machine.execClusterStatusGet r p s
  | .moonSet r p => Sys2Proof.Machine.execMoonSet r p s
  | .moonStart r p => Sys2Proof.Machine.execMoonStart r p s
  | .orbLinkSet r p => Sys2Proof.Machine.execOrbLinkSet r p s
  | .pairSet r p => Sys2Proof.Machine.execPairSet r p s
  | .pairResign r p => Sys2Proof.Machine.execPairResign r p s
  | .pairForceActive r p => Sys2Proof.Machine.execPairForceActive r p s
  | .pairStatusGet r p => Sys2Proof.Machine.execPairStatusGet r p s
  | .pairResync r p => Sys2Proof.Machine.execPairResync r p s
  | .testStatusGet r p => Sys2Proof.Machine.execTestStatusGet r p s
  | .testSchedSet r p => Sys2Proof.Machine.execTestSchedSet r p s
  | .testRun r p => Sys2Proof.Machine.execTestRun r p s
  | .testStop r p => Sys2Proof.Machine.execTestStop r p s
  | .testResultGet r p => Sys2Proof.Machine.execTestResultGet r p s
  | .lifeStatusGet r p => Sys2Proof.Machine.execLifeStatusGet r p s
  | .faultLogGet r p => Sys2Proof.Machine.execFaultLogGet r p s
  | .marginTrendGet r p => Sys2Proof.Machine.execMarginTrendGet r p s
  | .calSet r p => Sys2Proof.Machine.execCalSet r p s
  | .lcNonceGet r p => Sys2Proof.Machine.execLcNonceGet r p s
  | .lcTransition r p => Sys2Proof.Machine.execLcTransition r p s
  | .ownershipTake r p => Sys2Proof.Machine.execOwnershipTake r p s
  | .unitCertSet r p => Sys2Proof.Machine.execUnitCertSet r p s
  | .keySet r p => Sys2Proof.Machine.execKeySet r p s
  | .identitySet r p => Sys2Proof.Machine.execIdentitySet r p s
  | .configStore r p => Sys2Proof.Machine.execConfigStore r p s
  | .configExport r p => Sys2Proof.Machine.execConfigExport r p s
  | .configImport r p => Sys2Proof.Machine.execConfigImport r p s
  | .configApply r p => Sys2Proof.Machine.execConfigApply r p s
  | .fwWrite r p signed => Sys2Proof.Machine.execFwWrite r p signed s
  | .fwActivate r p => Sys2Proof.Machine.execFwActivate r p s
  | .fwConfirm r p => Sys2Proof.Machine.execFwConfirm r p s
  | .nodeSet r p => Sys2Proof.Machine.execNodeSet r p s
  | .sdpGet r p => Sys2Proof.Machine.execSdpGet r p s
  | .sdpApply r p => Sys2Proof.Machine.execSdpApply r p s
  | .sapSet r p => Sys2Proof.Machine.execSapSet r p s
  | .sapListGet r p => Sys2Proof.Machine.execSapListGet r p s
  | .sapSdpGet r p => Sys2Proof.Machine.execSapSdpGet r p s
  | .browseGet r p => Sys2Proof.Machine.execBrowseGet r p s
  | .nmosStatusGet r p => Sys2Proof.Machine.execNmosStatusGet r p s
  | .nmosExposeSet r p => Sys2Proof.Machine.execNmosExposeSet r p s
  | .n5Route r p => Sys2Proof.Machine.execN5Route r p s
  | .n5Gain r p => Sys2Proof.Machine.execN5Gain r p s
  | .n5Unroute r p => Sys2Proof.Machine.execN5Unroute r p s
  | .n5MixSet r p => Sys2Proof.Machine.execN5MixSet r p s
  | .n5StreamRx r p => Sys2Proof.Machine.execN5StreamRx r p s
  | .n5StreamTx r p => Sys2Proof.Machine.execN5StreamTx r p s
  | .n5TdmPort r p => Sys2Proof.Machine.execN5TdmPort r p s
  | .n5ClockRef r p => Sys2Proof.Machine.execN5ClockRef r p s
  | .n5Status r p => Sys2Proof.Machine.execN5Status r p s
  | .n5Memtest r p => Sys2Proof.Machine.execN5Memtest r p s
  | .registerWrite source off v => Sys2Proof.Machine.execRegisterWrite source off v s
  | .splitLoRead off => Sys2Proof.Machine.execSplitLoRead off s
  | .timeNowRead => Sys2Proof.Machine.execTimeNowRead s
  | .calSubRead => Sys2Proof.Machine.execCalSubRead s
  | .peakOccRead q => Sys2Proof.Machine.execPeakOccRead q s
  | .peakTagsRead => Sys2Proof.Machine.execPeakTagsRead s
  | .timeSetApply source v => Sys2Proof.Machine.execTimeSetApply source v s
  | .timeSetApplyPps source v => Sys2Proof.Machine.execTimeSetApplyPps source v s
  | .timeSetCancel source v => Sys2Proof.Machine.execTimeSetCancel source v s
  | .timeValidate source v => Sys2Proof.Machine.execTimeValidate source v s
  | .pcResumeWrite source v => Sys2Proof.Machine.execPcResumeWrite source v s
  | .dpllModeWrite source d v => Sys2Proof.Machine.execDpllModeWrite source d v s
  | .dpllEnableWrite source d v => Sys2Proof.Machine.execDpllEnableWrite source d v s
  | .refEnableWrite source n v => Sys2Proof.Machine.execRefEnableWrite source n v s
  | .suspectClearWrite source n => Sys2Proof.Machine.execSuspectClearWrite source n s
  | .outAlignWrite source v => Sys2Proof.Machine.execOutAlignWrite source v s
  | .wclkOutEnable source n v => Sys2Proof.Machine.execWclkOutEnable source n v s
  | .ppsOutEnable source v => Sys2Proof.Machine.execPpsOutEnable source v s
  | .portEnableWrite source p v => Sys2Proof.Machine.execPortEnableWrite source p v s
  | .statSnapWrite source p v => Sys2Proof.Machine.execStatSnapWrite source p v s
  | .streamTblRead source table idx => Sys2Proof.Machine.execStreamTblRead source table idx s
  | .streamTblWrite source table idx => Sys2Proof.Machine.execStreamTblWrite source table idx s
  | .streamTblClear source table idx => Sys2Proof.Machine.execStreamTblClear source table idx s
  | .queueEnWrite source q v => Sys2Proof.Machine.execQueueEnWrite source q v s
  | .bellowsEnWrite source b v => Sys2Proof.Machine.execBellowsEnWrite source b v s
  | .fabricTblRead source table idx => Sys2Proof.Machine.execFabricTblRead source table idx s
  | .fabricTblAdd source table idx => Sys2Proof.Machine.execFabricTblAdd source table idx s
  | .batchCommit source => Sys2Proof.Machine.execBatchCommit source s
  | .batchDiscard source => Sys2Proof.Machine.execBatchDiscard source s
  | .tdmPortEnWrite source p v => Sys2Proof.Machine.execTdmPortEnWrite source p v s
  | .tdmMaskWrite source p idx v late => Sys2Proof.Machine.execTdmMaskWrite source p idx v late s
  | .ampEnWrite source n v => Sys2Proof.Machine.execAmpEnWrite source n v s
  | .ampMuteWrite source n v => Sys2Proof.Machine.execAmpMuteWrite source n v s
  | .ampUnlockWrite source n v => Sys2Proof.Machine.execAmpUnlockWrite source n v s
  | .freqSelRun source v => Sys2Proof.Machine.execFreqSelRun source v s
  | .coefSwapWrite source n v => Sys2Proof.Machine.execCoefSwapWrite source n v s
  | .orbLinkEnWrite source n v => Sys2Proof.Machine.execOrbLinkEnWrite source n v s
  | .fwdWrite source n v => Sys2Proof.Machine.execFwdWrite source n v s
  | .pairEnWrite source v => Sys2Proof.Machine.execPairEnWrite source v s
  | .pairForceActiveWrite source => Sys2Proof.Machine.execPairForceActiveWrite source s
  | .pairResignWrite source => Sys2Proof.Machine.execPairResignWrite source s
  | .warmResetWrite source v => Sys2Proof.Machine.execWarmResetWrite source v s
  | .ringEnWrite source idx v => Sys2Proof.Machine.execRingEnWrite source idx v s
  | .ringIndexWrite source idx v => Sys2Proof.Machine.execRingIndexWrite source idx v s
  | .setEnWrite source dir k v => Sys2Proof.Machine.execSetEnWrite source dir k v s
  | .recRdIdxWrite source k v => Sys2Proof.Machine.execRecRdIdxWrite source k v s
  | .playWrIdxWrite source k v => Sys2Proof.Machine.execPlayWrIdxWrite source k v s
  | .evtRouteWrite source v => Sys2Proof.Machine.execEvtRouteWrite source v s
  | .cspWrite off ws => Sys2Proof.Machine.execCspWrite off ws s
  | .cspRead off n => Sys2Proof.Machine.execCspRead off n s
  | .cspMboxWrite len b => Sys2Proof.Machine.execCspMboxWrite len b s
  | .cspMboxRead n => Sys2Proof.Machine.execCspMboxRead n s
  | .cspEvtRead n bytes => Sys2Proof.Machine.execCspEvtRead n bytes s
  | .syncRx p m raw => Sys2Proof.Machine.execSyncRx p m raw s
  | .followUpRx p m => Sys2Proof.Machine.execFollowUpRx p m s
  | .followUpTimeout p seq => Sys2Proof.Machine.execFollowUpTimeout p seq s
  | .delayReqTx p raw => Sys2Proof.Machine.execDelayReqTx p raw s
  | .delayRespRx p m mine => Sys2Proof.Machine.execDelayRespRx p m mine s
  | .delayPairExpiry p => Sys2Proof.Machine.execDelayPairExpiry p s
  | .delayReqRx p domain seq src corr raw => Sys2Proof.Machine.execDelayReqRx p domain seq src corr raw s
  | .announceRx p a => Sys2Proof.Machine.execAnnounceRx p a s
  | .announceReceiptTimeout p => Sys2Proof.Machine.execAnnounceReceiptTimeout p s
  | .announceTx p => Sys2Proof.Machine.execAnnounceTx p s
  | .syncTx p raw => Sys2Proof.Machine.execSyncTx p raw s
  | .followUpTx p => Sys2Proof.Machine.execFollowUpTx p s
  | .exchangeLoss p => Sys2Proof.Machine.execExchangeLoss p s
  | .pathSettleTimeout => Sys2Proof.Machine.execPathSettleTimeout s
  | .ppsEdgeLoad n => Sys2Proof.Machine.execPpsEdgeLoad n s
  | .applyPpsTimeout => Sys2Proof.Machine.execApplyPpsTimeout s
  | .xoLoss => Sys2Proof.Machine.execXoLoss s
  | .xoRestore => Sys2Proof.Machine.execXoRestore s
  | .refActivityLoss n => Sys2Proof.Machine.execRefActivityLoss n s
  | .refActivityGain n => Sys2Proof.Machine.execRefActivityGain n s
  | .freqGateClose n ofs => Sys2Proof.Machine.execFreqGateClose n ofs s
  | .driftWindowClose n => Sys2Proof.Machine.execDriftWindowClose n s
  | .wtrExpiry d r => Sys2Proof.Machine.execWtrExpiry d r s
  | .selectionEvaluation d => Sys2Proof.Machine.execSelectionEvaluation d s
  | .dpllCompare d err => Sys2Proof.Machine.execDpllCompare d err s
  | .holdoverSecond d => Sys2Proof.Machine.execHoldoverSecond d s
  | .outputRealign n => Sys2Proof.Machine.execOutputRealign n s
  | .linkUp p speed => Sys2Proof.Machine.execLinkUp p speed s
  | .linkLoss p cause part => Sys2Proof.Machine.execLinkLoss p cause part s
  | .frameReceive p f => Sys2Proof.Machine.execFrameReceive p f s
  | .frameDispatch p => Sys2Proof.Machine.execFrameDispatch p s
  | .pauseRepeat p => Sys2Proof.Machine.execPauseRepeat p s
  | .pauseTimerExpiry p => Sys2Proof.Machine.execPauseTimerExpiry p s
  | .pauseAlarm p => Sys2Proof.Machine.execPauseAlarm p s
  | .txFrameBoundary p raw => Sys2Proof.Machine.execTxFrameBoundary p raw s
  | .dormantWake why f => Sys2Proof.Machine.execDormantWake why f s
  | .placeCommit h damaged rows ce => Sys2Proof.Machine.execPlaceCommit h damaged rows ce s
  | .presentFetch ue damaged ce => Sys2Proof.Machine.execPresentFetch ue damaged ce s
  | .legTimeout idx l => Sys2Proof.Machine.execLegTimeout idx l s
  | .ringPagesFree idx => Sys2Proof.Machine.execRingPagesFree idx s
  | .txStreamStart idx => Sys2Proof.Machine.execTxStreamStart idx s
  | .scheduleGather idx ue damaged ce => Sys2Proof.Machine.execScheduleGather idx ue damaged ce s
  | .txPacketFrame h => Sys2Proof.Machine.execTxPacketFrame h s
  | .launchStamp p raw damaged => Sys2Proof.Machine.execLaunchStamp p raw damaged s
  | .launchStale p => Sys2Proof.Machine.execLaunchStale p s
  | .hammerWatchdog h => Sys2Proof.Machine.execHammerWatchdog h s
  | .hammerFail h cause => Sys2Proof.Machine.execHammerFail h cause s
  | .laneHandover j => Sys2Proof.Machine.execLaneHandover j s
  | .hammerDrainDone h => Sys2Proof.Machine.execHammerDrainDone h s
  | .scrubRead ce ue => Sys2Proof.Machine.execScrubRead ce ue s
  | .bankWatchdog h => Sys2Proof.Machine.execBankWatchdog h s
  | .bankFailure h cause => Sys2Proof.Machine.execBankFailure h cause s
  | .bankHandover h => Sys2Proof.Machine.execBankHandover h s
  | .bankHandoverDone ue ce => Sys2Proof.Machine.execBankHandoverDone ue ce s
  | .queuePush q it => Sys2Proof.Machine.execQueuePush q it s
  | .bellowsPinHold b => Sys2Proof.Machine.execBellowsPinHold b s
  | .queuePop q => Sys2Proof.Machine.execQueuePop q s
  | .queuePopRel q => Sys2Proof.Machine.execQueuePopRel q s
  | .queueMark q => Sys2Proof.Machine.execQueueMark q s
  | .queueRewind q => Sys2Proof.Machine.execQueueRewind q s
  | .queueRelease q => Sys2Proof.Machine.execQueueRelease q s
  | .spillRefill q ue ce => Sys2Proof.Machine.execSpillRefill q ue ce s
  | .anvilPass f => Sys2Proof.Machine.execAnvilPass f s
  | .batchApply => Sys2Proof.Machine.execBatchApply s
  | .directFastPath opcode r p => Sys2Proof.Machine.execDirectFastPath opcode r p s
  | .muFailure u cause => Sys2Proof.Machine.execMuFailure u cause s
  | .muHandover j => Sys2Proof.Machine.execMuHandover j s
  | .tdmFrameOpen p raw badIn badOut rows => Sys2Proof.Machine.execTdmFrameOpen p raw badIn badOut rows s
  | .tdmZcTimeout p => Sys2Proof.Machine.execTdmZcTimeout p s
  | .followerFrame g bits => Sys2Proof.Machine.execFollowerFrame g bits s
  | .followerClockLoss g cause => Sys2Proof.Machine.execFollowerClockLoss g cause s
  | .fsMeasGate g meas => Sys2Proof.Machine.execFsMeasGate g meas s
  | .asrcLock g ratio => Sys2Proof.Machine.execAsrcLock g ratio s
  | .asrcUnlock g => Sys2Proof.Machine.execAsrcUnlock g s
  | .ampLoopUpdate n valley v idx damaged => Sys2Proof.Machine.execAmpLoopUpdate n valley v idx damaged s
  | .currentLimit n shunt pos => Sys2Proof.Machine.execCurrentLimit n shunt pos s
  | .ampFaultPin n => Sys2Proof.Machine.execAmpFaultPin n s
  | .ampFaultPinRelease n => Sys2Proof.Machine.execAmpFaultPinRelease n s
  | .ampRetryDue n => Sys2Proof.Machine.execAmpRetryDue n s
  | .ampRetryClear n => Sys2Proof.Machine.execAmpRetryClear n s
  | .ntcConversion idx ratio => Sys2Proof.Machine.execNtcConversion idx ratio s
  | .dcFault n value => Sys2Proof.Machine.execDcFault n value s
  | .ampCalibrationDone n => Sys2Proof.Machine.execAmpCalibrationDone n s
  | .ampBootDone n => Sys2Proof.Machine.execAmpBootDone n s
  | .ampRampDone n => Sys2Proof.Machine.execAmpRampDone n s
  | .ampStopDone n => Sys2Proof.Machine.execAmpStopDone n s
  | .ampZcTimeout n => Sys2Proof.Machine.execAmpZcTimeout n s
  | .pwmClockResume => Sys2Proof.Machine.execPwmClockResume s
  | .freqSelectDone => Sys2Proof.Machine.execFreqSelectDone s
  | .coefSwapApply n => Sys2Proof.Machine.execCoefSwapApply n s
  | .requestArrive ch b => Sys2Proof.Machine.execRequestArrive ch b s
  | .requestStart => Sys2Proof.Machine.execRequestStart s
  | .requestComplete ch tag => Sys2Proof.Machine.execRequestComplete ch tag s
  | .requestTimeout ch tag => Sys2Proof.Machine.execRequestTimeout ch tag s
  | .udpDatagramRx p => Sys2Proof.Machine.execUdpDatagramRx p s
  | .sessionOpen p nd => Sys2Proof.Machine.execSessionOpen p nd s
  | .sessionCloseDatagram p => Sys2Proof.Machine.execSessionCloseDatagram p s
  | .sessionIdleTimeout id => Sys2Proof.Machine.execSessionIdleTimeout id s
  | .engineFrameRx p => Sys2Proof.Machine.execEngineFrameRx p s
  | .arpProbe p ip => Sys2Proof.Machine.execArpProbe p ip s
  | .dhcpTimer p kind => Sys2Proof.Machine.execDhcpTimer p kind s
  | .sapAnnounce idx => Sys2Proof.Machine.execSapAnnounce idx s
  | .sapEntryExpiry n => Sys2Proof.Machine.execSapEntryExpiry n s
  | .nmosHttpRequest p len opens closes res conn => Sys2Proof.Machine.execNmosHttpRequest p len opens closes res conn s
  | .nmosHeartbeat answer => Sys2Proof.Machine.execNmosHeartbeat answer s
  | .is05Activation port dir idx p file ports enable due conn => Sys2Proof.Machine.execIs05Activation port dir idx p file ports enable due conn s
  | .crqFetch r descs data => Sys2Proof.Machine.execCrqFetch r descs data s
  | .txdItemFetch p descs data => Sys2Proof.Machine.execTxdItemFetch p descs data s
  | .txCompletionWrite p => Sys2Proof.Machine.execTxCompletionWrite p s
  | .rxItemDeliver p bufs => Sys2Proof.Machine.execRxItemDeliver p bufs s
  | .rxGapEntry p => Sys2Proof.Machine.execRxGapEntry p s
  | .replyDeliver bufs => Sys2Proof.Machine.execReplyDeliver bufs s
  | .replyWaitExpiry => Sys2Proof.Machine.execReplyWaitExpiry s
  | .eventToEvr n => Sys2Proof.Machine.execEventToEvr n s
  | .dmaReadError unit cause addr cookie => Sys2Proof.Machine.execDmaReadError unit cause addr cookie s
  | .hostLost cause => Sys2Proof.Machine.execHostLost cause s
  | .hostRestored => Sys2Proof.Machine.execHostRestored s
  | .recordBlockWrite k ue damaged ce => Sys2Proof.Machine.execRecordBlockWrite k ue damaged ce s
  | .playbackBlockFetch k bytes => Sys2Proof.Machine.execPlaybackBlockFetch k bytes s
  | .msixModerationEnd v => Sys2Proof.Machine.execMsixModerationEnd v s
  | .pciePerst => Sys2Proof.Machine.execPciePerst s
  | .orbBlockLock n => Sys2Proof.Machine.execOrbBlockLock n s
  | .orbLinkUp n eui role index hops => Sys2Proof.Machine.execOrbLinkUp n eui role index hops s
  | .orbLinkLoss n cause => Sys2Proof.Machine.execOrbLinkLoss n cause s
  | .orbIdleFrame n => Sys2Proof.Machine.execOrbIdleFrame n s
  | .orbSampleRx n q tag vals sealw => Sys2Proof.Machine.execOrbSampleRx n q tag vals sealw s
  | .orbTimeTx n raw => Sys2Proof.Machine.execOrbTimeTx n raw s
  | .orbTimeRx n t1 t2 t4 drives moon => Sys2Proof.Machine.execOrbTimeRx n t1 t2 t4 drives moon s
  | .orbCommandRx n id d via kind b => Sys2Proof.Machine.execOrbCommandRx n id d via kind b s
  | .orbEventRx n d record => Sys2Proof.Machine.execOrbEventRx n d record s
  | .moonAssignRx n side index hops => Sys2Proof.Machine.execMoonAssignRx n side index hops s
  | .moonStartRx => Sys2Proof.Machine.execMoonStartRx s
  | .moonStartSend => Sys2Proof.Machine.execMoonStartSend s
  | .moonConfigApply d family => Sys2Proof.Machine.execMoonConfigApply d family s
  | .moonUplinkLoss d => Sys2Proof.Machine.execMoonUplinkLoss d s
  | .pulseSend => Sys2Proof.Machine.execPulseSend s
  | .pulseRx b => Sys2Proof.Machine.execPulseRx b s
  | .pairInitTimeout => Sys2Proof.Machine.execPairInitTimeout s
  | .leaseExpiry => Sys2Proof.Machine.execLeaseExpiry s
  | .promotionInstant => Sys2Proof.Machine.execPromotionInstant s
  | .resyncNoPulse => Sys2Proof.Machine.execResyncNoPulse s
  | .mirrorRowRx g tag vals sealw => Sys2Proof.Machine.execMirrorRowRx g tag vals sealw s
  | .mirrorStateRx b => Sys2Proof.Machine.execMirrorStateRx b s
  | .digestRx pass digest => Sys2Proof.Machine.execDigestRx pass digest s
  | .resyncPhaseDone => Sys2Proof.Machine.execResyncPhaseDone s
  | .lockstepMismatch => Sys2Proof.Machine.execLockstepMismatch s
  | .temperTurn => Sys2Proof.Machine.execTemperTurn s
  | .sliceEnd sig expect bad => Sys2Proof.Machine.execSliceEnd sig expect bad s
  | .sliceWatchdog => Sys2Proof.Machine.execSliceWatchdog s
  | .sliceRepeat => Sys2Proof.Machine.execSliceRepeat s
  | .commandedSliceStart => Sys2Proof.Machine.execCommandedSliceStart s
  | .aonMinute => Sys2Proof.Machine.execAonMinute s
  | .checkpointHourly => Sys2Proof.Machine.execCheckpointHourly s
  | .tjSample t => Sys2Proof.Machine.execTjSample t s
  | .marginMeasure margins => Sys2Proof.Machine.execMarginMeasure margins s
  | .calSync => Sys2Proof.Machine.execCalSync s
  | .vbakLow => Sys2Proof.Machine.execVbakLow s
  | .serviceExpiry => Sys2Proof.Machine.execServiceExpiry s
  | .nonceExpiry => Sys2Proof.Machine.execNonceExpiry s
  | .fwTrialTimeout => Sys2Proof.Machine.execFwTrialTimeout s
  | .porstAssert => Sys2Proof.Machine.execPorstAssert s
  | .porstRelease straps => Sys2Proof.Machine.execPorstRelease straps s
  | .wrstAssert => Sys2Proof.Machine.execWrstAssert s
  | .wrstRelease => Sys2Proof.Machine.execWrstRelease s
  | .startRowComplete => Sys2Proof.Machine.execStartRowComplete s
  | .startUnitTimeout kind unit check => Sys2Proof.Machine.execStartUnitTimeout kind unit check s
  | .startWatchdog => Sys2Proof.Machine.execStartWatchdog s
  | .sysResetAct straps => Sys2Proof.Machine.execSysResetAct straps s
  | .brownoutWarning r busy => Sys2Proof.Machine.execBrownoutWarning r busy s
  | .brownoutRecover r inRange => Sys2Proof.Machine.execBrownoutRecover r inRange s
  | .brownoutReset r straps => Sys2Proof.Machine.execBrownoutReset r straps s
  | .dormantForceStop => Sys2Proof.Machine.execDormantForceStop s
  | .dormantPowerDown => Sys2Proof.Machine.execDormantPowerDown s
  | .ptpQualificationTimeout p => Sys2Proof.Machine.execPtpQualificationTimeout p s
  | .ppsEdgeReject n used => Sys2Proof.Machine.execPpsEdgeReject n used s
  | .vddAonLoss vbak => Sys2Proof.Machine.execVddAonLoss vbak s
  | .vddAonReturn => Sys2Proof.Machine.execVddAonReturn s
  | .vbakRecover => Sys2Proof.Machine.execVbakRecover s
  | .orbControlFrameRx n ok hello resync => Sys2Proof.Machine.execOrbControlFrameRx n ok hello resync s
  | .membershipReport p ip addr => Sys2Proof.Machine.execMembershipReport p ip addr s
  | .fecCodewordUncorrectable p corrected => Sys2Proof.Machine.execFecCodewordUncorrectable p corrected s

end Sys2Proof.Machine
end

