-- ==== Sys2Proof/Machine/Idle.lean ====
section
/-! DEFINITION. What passes with time where no command waits: one CORE cycle. -/

namespace Sys2Proof.Machine

/-- The CORE clock runs: from row 3 of a start (R524), and not in dormant mode. -/
def State.coreRuns (s : State) : Bool := !s.boot.dormant && decide (3 ≤ s.get SYS.STATUS_STEP)

/-- Counts of the 32.768 kHz AON clock that end by CORE cycle `c`: 32,768 a second against 800,000,000. -/
def aonCounts (c : Nat) : Nat := c * 512 / 12500000

/-- One CORE cycle: the model's measure of time, the master time counter (R66), the calendar where an AON count ends in it (R492), and on a moon
whose uplink is UP one event record for the primary (R441; DEDUCED, assumption 92). WCLK_OUT and PPS_OUT take the levels of the cycle (R114, R115),
and INT_N follows INT_STAT from row 3 of the start (R399, R542). -/
def State.cycle (s : State) : State :=
  let c := s.cycles
  let s := { s with cycles := c + 1, ctr := if s.coreRuns then (s.ctr + s.time.incr) % ctrRange else s.ctr }
  let s := if s.coreRuns then s.drivePins else s
  let s := if s.coreRuns && s.upward then s.takeRecord.2 else s
  let s : State := { s with cmd := { s.cmd with intN := s.coreRuns && s.intWant } }
  if aonCounts c < aonCounts (c + 1) then s.calCount else s

end Sys2Proof.Machine
end

