-- ==== Sys2Proof/Safety.lean ====
section
/-! DEFINITION. The terms in which the statements speak of states: the canonical form, and what stays the same from one state to the next. -/

namespace Sys2Proof

open Sys2Proof.Machine

/-- The register file is in its one canonical form, so that equal registers are equal data: keys strictly rising. -/
def Machine.State.Canonical (s : State) : Prop := s.regs.wf = true

/-- `t` adds to the outcomes that wait for REQUEST_COMPLETE that of request `r`, and leaves the rest of the command processor as it is in
`s` (R369). -/
def Machine.State.records (s t : State) (r : Req) (op : Nat) (rep : Reply) : Prop :=
  t.cmd = { s.cmd with results := s.cmd.results ++ [⟨r.channel, r.tag, op, rep⟩] }

/-- `t` and `s` differ in nothing but register fields, values that wait for their boundary (R18), queues, pending interrupt messages, the
hold-off times of events, and what the command processor holds. -/
def Machine.State.sameUnits (s t : State) : Prop :=
  t = { s with regs := t.regs, held := t.held, que := t.que, dma := { s.dma with msi := t.dma.msi }, holdoff := t.holdoff, cmd := t.cmd }

/-- `t` and `s` differ in nothing but register fields, queues and pending interrupt messages. -/
def Machine.State.sameButEvents (s t : State) : Prop :=
  t = { s with regs := t.regs, que := t.que, dma := { s.dma with msi := t.dma.msi } }

/-- A register field that raising an event does not touch: none of the QUE block, and no pending bit of an MSI-X vector. -/
def Machine.Fld.quiet (f : Fld) : Prop :=
  (f.off < 0x100000 ∨ 0x102000 ≤ f.off) ∧ (f.off < 0x38000 ∨ 0x38008 ≤ f.off)

/-- Every field that no event touches and that `l` does not list reads in `t` as in `s`. -/
def Machine.State.keepsBut (s t : State) (l : List Fld) : Prop :=
  ∀ f : Fld, f.lo < 32 → f.quiet → (∀ g ∈ l, g.key ≠ f.key) → t.get f = s.get f

/-- The field reads this truth value, and every field but it and those an event touches reads as before. -/
def Machine.State.turns (s t : State) (f : Fld) (v : Nat) : Prop := t.get f = v ∧ s.keepsBut t [f]

/-- A host write of the register at `off` reaches its block, and no peer is driven (R13, R17, R424, R444, R454, R480): the unit is READY and not
dormant, it is no moon in the cluster and no standby that keeps the register, no commanded slice holds it, and no mirror link is in use. -/
abbrev Machine.State.busOpen (s : State) (off : Nat) : Prop :=
  s.boot.dormant = false ∧ s.on SYS.STATUS_READY = true ∧ s.writeLimited off = false ∧ s.writeHeld off = false ∧ s.mirrors = false

/-- The fields that may change where port `p` discards a frame longer than TX_MAX_LEN (R139, R147). -/
def Machine.discards (p : Nat) : List Fld :=
  [PORT.STAT p Stat.TX_DISCARD, PORT.STAT_HALF_LO p, PORT.STAT_HALF_HI p, PORT.INT p]

/-- The engine's frame `b` for port `p`, which is UP, stands last in the SERVICE partition, or is discarded and counted where it is longer than
TX_MAX_LEN (R137, R139). -/
def Machine.State.sentBy (s t : State) (p : Nat) (b : List Byte) : Prop :=
  (s.txTooLong p (padFrame b) = false →
    t.port p = { s.port p with service := (s.port p).service ++ [⟨padFrame b, none, false, false, false⟩] }) ∧
  (s.txTooLong p (padFrame b) = true →
    t.port p = s.port p ∧ t.get (PORT.STAT p Stat.TX_DISCARD) = (s.get (PORT.STAT p Stat.TX_DISCARD) + 1) % 2 ^ (PORT.STAT p Stat.TX_DISCARD).w)

end Sys2Proof
end

