-- ==== Sys2Proof/Certificates/Slice0/Obligations.lean ====
section
/-! DEFINITION. The statements for the provers, from the numbered rules of the spec. -/

open Sys2Proof Sys2Proof.Machine

/-- The queue of waiting commands is first in, first out (the model's own, assumption 2). -/
def Obligations.StepTakesTheFront : Prop :=
  ∀ (c : Instr) (rest : List Instr) (s : State),
    Machine.step { s with pending := c :: rest } = Machine.exec c { s with pending := rest }

/-- What each command does is stated family by family; this says that none of the 371 is ever answered by a fault or a refusal. -/
def Obligations.EveryCommandHasAnEffect : Prop :=
  ∀ (c : Instr) (s : State), ∃ t, Machine.exec c s = .next t

/-- R66, R114, R115, R399, R441, R492: time passes only while no command waits, and a moon's records leave (assumptions 2 and 92). -/
def Obligations.IdleStepIsOneCoreCycle : Prop :=
  ∀ s : State, s.pending = [] →
    let ticks := fun (t : State) (x : State) =>
      { x with cycles := t.cycles, ctr := t.ctr, life := t.life, clk := { s.clk with outPins := t.clk.outPins }, cmd := { s.cmd with intN := t.cmd.intN } }
    ∃ t, Machine.step s = .next t ∧ t.cycles = s.cycles + 1 ∧ t.pending = [] ∧
      t.ctr = (if s.coreRuns then (s.ctr + s.time.incr) % ctrRange else s.ctr) ∧
      (s.upward = false ∨ s.coreRuns = false ∨ (s.queue 0).ready = [] → t = ticks t s ∧ t.cmd.intN = (s.coreRuns && s.intWant)) ∧
      (s.coreRuns = true → ∀ n, n < 5 → t.clk.outPins.testBit n = t.outLevel n) ∧
      (s.coreRuns = false → t.clk = s.clk ∧ t.cmd.intN = false) ∧
      (∀ (it : QItem) (z : Bool) (rest : List QEntry), s.upward = true → s.coreRuns = true →
        (s.queue 0).ready = ⟨.head it, z⟩ :: rest → it.body = [] → (∀ e ∈ rest, e.lost = false) →
        s.bellowsOf 0 = none →
        (t.queue 0).ready = rest ∧
        (t.link s.uplink).sent.getLast? = some ⟨4, 0, unitAt (s.link s.uplink).seqs 4 0, it.hdr⟩ ∧
        t = ticks t { s with regs := t.regs, que := t.que, orb := t.orb, dma := { s.dma with msi := t.dma.msi } }) ∧
      (aonCounts s.cycles = aonCounts (s.cycles + 1) → t.life = s.life) ∧
      (aonCounts s.cycles < aonCounts (s.cycles + 1) → s.life.aonLost = false →
        t.life = { s.life with cal := t.life.cal, trimAcc := t.life.trimAcc } ∧
        let a := s.life.trimAcc + s.trim
        (a < 1000000000 → -1000000000 < a → t.life.cal = (s.life.cal + 1) % 2 ^ 63 ∧ t.life.trimAcc = a) ∧
        (1000000000 ≤ a → t.life.cal = (s.life.cal + 2) % 2 ^ 63 ∧ t.life.trimAcc = a - 1000000000) ∧
        (a ≤ -1000000000 → t.life.cal = s.life.cal % 2 ^ 63 ∧ t.life.trimAcc = a + 1000000000))

/-- R57 to R65, R137, R141. `th` is twice the offset of R64, in 2^−16 ns; `free` and `goes` say that a message meets nothing that holds it. -/
def Obligations.PtpMessagesAndExchanges : Prop :=
  ∀ (s : State) (p seq src : Nat) (m : PtpMsg) (raw corr t3 : Int) (dp : DelayPair) (y : PendSync),
    p < 2 →
    let timeOnly := fun t : State => s.sameButEvents { t with time := s.time }
    let mine := s.slaving p = true ∧ s.fromParent p m = true
    let t2 := raw - s.geti (TIME.PORT_RX_LAT p)
    let departs := raw + s.geti (TIME.PORT_TX_LAT p)
    let th := fun t1 t2 c => (t2 - t1 - c) - (dp.t4 - dp.t3 - dp.corr) - 2 * s.geti (TIME.PORT_ASYM p)
    let master := s.get (TIME.PORT_STATE p) = 6
    let now := s.nowStamp + s.geti (TIME.PORT_TX_LAT p)
    let txOnly := fun t : State => s.sameButEvents { t with time := s.time, ports := s.ports }
    let free := s.on (PORT.LINK_UP p) = true ∧ (s.port p).ptp = [] ∧ (s.port p).pauses = [] ∧ s.streamDue p = false ∧ s.pausedStream p = false
    let goes := fun (o : PtpSent) => s.txTooLong p o.bytes = false ∧ o.bytes.length + 4 ≤ 8192 ∧ s.guardOk p (o.bytes.length + 4) = true
    let left := fun (t : State) (o : PtpSent) (d : Int) => t.time.sent.getLast? = some o ∧
      t.port p = { s.port p with sent := some (o.bytes ++ fcs o.bytes, d) } ∧ (∀ k, k ≤ 3 → k ≠ p → t.port k = s.port k)
    let sync := s.ptpMake p 0 (s.ptp p).seqSync 0 0 0
    let stamped := { sync with time := departs / 65536, corr := departs % 65536 }
    (mine → m.twoStep = true → (s.ptp p).stamps < 16 →
      ∃ t, Machine.exec (.syncRx p m raw) s = .next t ∧ timeOnly t ∧
        s.turns t (TIME.PORT_SYNC_RX p) ((s.get (TIME.PORT_SYNC_RX p) + 1) % 2 ^ 32) ∧
        t.ptp p = { s.ptp p with syncs := (s.ptp p).syncs ++ [⟨m.src, m.seq, m.corr, t2⟩] } ∧ t.ptp (1 - p) = s.ptp (1 - p)) ∧
    (mine → m.twoStep = false → (s.ptp p).stamps < 16 → (s.ptp p).pair = some dp → s.on TIME.SERVO_PC_EN = false →
      (th (t16 m.time) t2 m.corr / ns17).natAbs < 2 ^ 31 →
      ∃ t, Machine.exec (.syncRx p m raw) s = .next t ∧ t.geti (TIME.PORT_OFS_NS p) = th (t16 m.time) t2 m.corr / ns17 ∧
        (t.ptp p).lastOfs = th (t16 m.time) t2 m.corr ∧ t.get (TIME.PORT_EXCH_USED p) = (s.get (TIME.PORT_EXCH_USED p) + 1) % 2 ^ 32) ∧
    (mine → (s.ptp p).syncs.find? (fun z => z.src == m.src && z.seq == m.seq) = some y → (s.ptp p).pair = some dp →
      s.on TIME.SERVO_PC_EN = false → (th (t16 m.time) y.t2 (y.corr + m.corr) / ns17).natAbs < 2 ^ 31 →
      ∃ t, Machine.exec (.followUpRx p m) s = .next t ∧ t.geti (TIME.PORT_OFS_NS p) = th (t16 m.time) y.t2 (y.corr + m.corr) / ns17 ∧
        t.get (TIME.PORT_FUP_RX p) = (s.get (TIME.PORT_FUP_RX p) + 1) % 2 ^ 32) ∧
    (mine → (s.ptp p).syncs.find? (fun z => z.src == m.src && z.seq == m.seq) = some y → (s.ptp p).pair = none →
      ∃ t, Machine.exec (.followUpRx p m) s = .next t ∧ timeOnly t ∧ t.ptp p = { s.ptp p with syncs := (s.ptp p).syncs.erase y } ∧
        t.get (TIME.PORT_EXCH_DISCARD p) = (s.get (TIME.PORT_EXCH_DISCARD p) + 1) % 2 ^ 32) ∧
    ((s.ptp p).syncs.find? (fun z => z.seq == seq) = some y →
      ∃ t, Machine.exec (.followUpTimeout p seq) s = .next t ∧ timeOnly t ∧ t.ptp p = { s.ptp p with syncs := (s.ptp p).syncs.erase y } ∧
        s.turns t (TIME.PORT_EXCH_DISCARD p) ((s.get (TIME.PORT_EXCH_DISCARD p) + 1) % 2 ^ 32)) ∧
    (s.slaving p = true → (s.ptp p).stamps < 16 → free → goes (s.ptpMake p 2 (s.ptp p).seqDreq 0 0 0) →
      ∃ t, Machine.exec (.delayReqTx p raw) s = .next t ∧ txOnly t ∧ t.get (TIME.PORT_DREQ_TX p) = (s.get (TIME.PORT_DREQ_TX p) + 1) % 2 ^ 32 ∧
        (t.ptp p).dreqs = (s.ptp p).dreqs ++ [((s.ptp p).seqDreq, departs)] ∧ left t (s.ptpMake p 2 (s.ptp p).seqDreq 0 0 0) departs) ∧
    (mine → (s.ptp p).dreqs.find? (fun z => z.1 == m.seq) = some (m.seq, t3) →
      ∃ t, Machine.exec (.delayRespRx p m true) s = .next t ∧ timeOnly t ∧
        s.turns t (TIME.PORT_DRESP_RX p) ((s.get (TIME.PORT_DRESP_RX p) + 1) % 2 ^ 32) ∧ (t.ptp p).pair = some ⟨t3, t16 m.time, m.corr⟩ ∧
        (t.ptp p).dreqs = (s.ptp p).dreqs.erase (m.seq, t3)) ∧
    (∃ t, Machine.exec (.delayPairExpiry p) s = .next t ∧ t = { s with time := t.time } ∧ t.ptp p = { s.ptp p with pair := none } ∧
      t.ptp (1 - p) = s.ptp (1 - p)) ∧
    (master → s.on (TIME.PORT_ENABLE p) = true → (s.ptp p).dreqSec ≠ s.ctr / ctrPerSec → free →
      goes (s.ptpMake p 3 seq (t2 / 65536) (corr - t2 % 65536) src) →
      ∃ t, Machine.exec (.delayReqRx p (s.get (TIME.PORT_DOMAIN p)) seq src corr raw) s = .next t ∧ txOnly t ∧
        t.get (TIME.PORT_DREQ_RX p) = (s.get (TIME.PORT_DREQ_RX p) + 1) % 2 ^ 32 ∧
        left t (s.ptpMake p 3 seq (t2 / 65536) (corr - t2 % 65536) src) now) ∧
    (master → free → goes (s.ptpMake p 4 (s.ptp p).seqAnnounce 0 0 0) →
      ∃ t, Machine.exec (.announceTx p) s = .next t ∧ txOnly t ∧ left t (s.ptpMake p 4 (s.ptp p).seqAnnounce 0 0 0) now ∧
      (t.ptp p).seqAnnounce = ((s.ptp p).seqAnnounce + 1) % 65536) ∧
    (master → s.on (PORT.LINK_UP p) = true → (s.port p).ptp = [] → s.pausedStream p = true →
      s.txTooLong p (s.ptpMake p 4 (s.ptp p).seqAnnounce 0 0 0).bytes = false → (s.ptpMake p 4 (s.ptp p).seqAnnounce 0 0 0).bytes.length + 4 ≤ 8192 →
      ∃ t, Machine.exec (.announceTx p) s = .next t ∧ t = { s with time := t.time, ports := t.ports } ∧ t.time.sent = s.time.sent ∧
        t.port p = { s.port p with ptp := [⟨s.ptpMake p 4 (s.ptp p).seqAnnounce 0 0 0, false⟩] }) ∧
    (master → s.on (TIME.PORT_ONE_STEP p) = true → free → goes sync → ∃ t, Machine.exec (.syncTx p raw) s = .next t ∧ txOnly t ∧
      left t { stamped with bytes := s.ptpFrame stamped } departs ∧ (t.ptp p).followUp = (s.ptp p).followUp) ∧
    (master → s.on (TIME.PORT_ONE_STEP p) = false → free → goes sync → ∃ t, Machine.exec (.syncTx p raw) s = .next t ∧ txOnly t ∧
      left t sync departs ∧ (t.ptp p).followUp = some ((s.ptp p).seqSync, departs)) ∧
    ((s.ptp p).followUp = some (seq, departs) → free → goes (s.ptpMake p 1 seq (departs / 65536) (departs % 65536) 0) →
      ∃ t, Machine.exec (.followUpTx p) s = .next t ∧ txOnly t ∧
      left t (s.ptpMake p 1 seq (departs / 65536) (departs % 65536) 0) now ∧ (t.ptp p).followUp = none)

/-- R55. PORT_STATE: 2 FAULTY, 3 DISABLED, 4 LISTENING, 5 PRE_MASTER, 6 MASTER, 7 PASSIVE, 8 UNCALIBRATED, 9 SLAVE. -/
def Obligations.PtpPortStates : Prop :=
  ∀ (s : State) (p : Nat) (a : Announce) (r : Req),
    p < 2 →
    let timeOnly := fun t : State => s.sameButEvents { t with time := s.time }
    let state := fun (t : State) => t.get (TIME.PORT_STATE p)
    let noMoon := (s.isMoon && s.on ORB.STATUS_JOIN_STATE) = false
    let heard := noteForeign s.cycles (s.ptp p).window a (s.ptp p).foreign
    let others := (s.ptp p).foreign.filter (fun f => f.msg.src != a.src)
    let answers := fun (t : State) => t.cmd = { s.cmd with results := s.cmd.results ++ [⟨r.channel, r.tag, 0x0202, Reply.ok []⟩] }
    (noMoon → s.on (TIME.PORT_ENABLE p) = true → state s = 4 → a.domain = s.get (TIME.PORT_DOMAIN p) → a.gm ≠ s.life.ident.eui → a.steps < 255 →
      s.on (TIME.PORT_SLAVE_ONLY p) = true → (s.setPtp p { s.ptp p with foreign := heard }).bestForeign p = some a → a.utcValid = false →
      ∃ t, Machine.exec (.announceRx p a) s = .next t ∧ timeOnly t ∧ state t = 8 ∧ (t.ptp p).parent = some a ∧
        (t.ptp p).foreign = heard ∧
        t.get (TIME.PORT_ANN_RX p) = (s.get (TIME.PORT_ANN_RX p) + 1) % 2 ^ 32 ∧ t.bit TIME.INT TIME.INT_PTP_STATE = true) ∧
    (noMoon → s.on (TIME.PORT_ENABLE p) = true → state s = 9 → (s.ptp p).parent = some a →
      (s.setPtp p { s.ptp p with parent := none, foreign := others }).bestForeign p = none →
      ∃ t, Machine.exec (.announceReceiptTimeout p) s = .next t ∧ (t.ptp p).parent = none ∧
        state t = (if s.on (TIME.PORT_SLAVE_ONLY p) then 4 else if s.standsBy then 7 else 6)) ∧
    (noMoon → state s = 5 → s.standsBy = false → ∃ t, Machine.exec (.ptpQualificationTimeout p) s = .next t ∧ state t = 6) ∧
    (s.barred 0x0202 r = none → s.on (TIME.PORT_ENABLE p) = false →
      ∃ t, Machine.exec (.ptpPortSet r [⟨1, 1, p⟩, ⟨2, 1, 1⟩]) s = .next t ∧ answers t ∧ t.on (TIME.PORT_ENABLE p) = true ∧
        state t = (if (s.port p).link = 2 then 4 else 2)) ∧
    (s.barred 0x0202 r = none → s.on (TIME.PORT_ENABLE p) = true →
      ∃ t, Machine.exec (.ptpPortSet r [⟨1, 1, p⟩, ⟨2, 1, 0⟩]) s = .next t ∧ answers t ∧ t.on (TIME.PORT_ENABLE p) = false ∧
        state t = 3 ∧ (t.ptp p).parent = none)

/-- R75, R79, R84. SERVO_STATE: 0 MONITOR, 1 ACQUIRE, 2 TRACK, 3 PATH_SETTLE, 4 HOLD. -/
def Obligations.ServoTransitions : Prop :=
  ∀ (s : State) (p source ki a c cls acc var src : Nat) (r : Req) (v : Word),
    p < 2 →
    let timeOnly := fun t : State => s.sameButEvents { t with time := s.time }
    let st := fun (t : State) => t.get TIME.STATUS_SERVO_STATE
    let answers := fun (t : State) (op : Nat) => t.cmd = { s.cmd with results := s.cmd.results ++ [⟨r.channel, r.tag, op, Reply.ok []⟩] }
    ((st s = 1 ∨ st s = 2 ∨ st s = 3) → s.get TIME.STATUS_ACTIVE_PORT = p → s.eligible (1 - p) = false →
      s.get (CLK.DPLL_SEL_REF 0) = 6 → s.on (CLK.DPLL_SEL_VALID 0) = true → (s.get (CLK.DPLL_STATE 0) = 1 ∨ s.get (CLK.DPLL_STATE 0) = 2) →
      s.get TIME.CTRL_MODE = 0 → s.held = [] → s.isMoon = false →
      ∃ t, Machine.exec (.exchangeLoss p) s = .next t ∧ st t = 4 ∧ (t.ptp p).recent = false ∧ t.bit TIME.INT TIME.INT_MASTER_LOST = true ∧
        t.get TIME.STATUS_ACTIVE_PORT = p) ∧
    (st s = 3 → s.get TIME.SERVO_PC_TIMEOUT ≠ 0 →
      ∃ t, Machine.exec .pathSettleTimeout s = .next t ∧ timeOnly t ∧ st t = 1 ∧ t.bit TIME.INT TIME.INT_SETTLE_EXIT = true) ∧
    (st s = 3 → s.barred 0x0206 r = none →
      ∃ t, Machine.exec (.pathResume r []) s = .next t ∧ answers t 0x0206 ∧ timeOnly { t with cmd := s.cmd } ∧ st t = 1) ∧
    (st s = 3 → s.busOpen 0x80070 →
      ∃ t, Machine.exec (.pcResumeWrite source v) s = .next t ∧ timeOnly t ∧ st t = 1 ∧ t.get TIME.SERVO_PC_TIMEOUT = v.toNat / 2 ^ 16 ∧
        t.get TIME.SERVO_PC_EN = v.toNat % 2) ∧
    (s.barred 0x0207 r = none → s.eligible p = true → p ≠ s.get TIME.STATUS_ACTIVE_PORT →
      ∃ t, Machine.exec (.servoPortSelect r [⟨1, 1, p⟩]) s = .next t ∧ answers t 0x0207 ∧ timeOnly { t with cmd := s.cmd } ∧
        t.get TIME.STATUS_ACTIVE_PORT = p ∧ t.bit TIME.INT TIME.INT_PORT_SWITCH = true) ∧
    (s.barred 0x0203 r = none → ki < 2 ^ 16 → st s = 0 → s.on (CLK.DPLL_SEL_VALID 0) = false →
      ∃ t, Machine.exec (.servoSet r [⟨8, 2, ki⟩, ⟨10, 1, acc % 256⟩]) s = .next t ∧ answers t 0x0203 ∧
        t = { s with regs := t.regs, held := t.held, cmd := t.cmd } ∧ t.get TIME.SERVO_TRK_KI = ki ∧ t.eff TIME.SERVO_TRK_KI = ki ∧
        t.get TIME.SERVO_LOCK_N = acc % 256 ∧ s.keepsBut t [TIME.SERVO_TRK_KI, TIME.SERVO_LOCK_N]) ∧
    (s.barred 0x0204 r = none → a < 2 ^ 32 →
      ∃ t, Machine.exec (.asymSet r [⟨1, 1, p⟩, ⟨2, 4, a⟩]) s = .next t ∧ answers t 0x0204 ∧
        t = { s with regs := t.regs, held := t.held, cmd := t.cmd } ∧ s.turns t (TIME.PORT_ASYM p) a ∧
        t.eff (TIME.PORT_ASYM p) = s.eff (TIME.PORT_ASYM p)) ∧
    (s.barred 0x0209 r = none → c ≤ 3 → cls ≤ 255 → acc ≤ 255 → var < 2 ^ 16 → src ≤ 255 → s.time.cls.length = 4 →
      ∃ t, Machine.exec (.clockQualitySet r [⟨1, 1, c⟩, ⟨2, 1, cls⟩, ⟨3, 1, acc⟩, ⟨4, 2, var⟩, ⟨5, 1, src⟩, ⟨6, 1, a % 256⟩]) s = .next t ∧
        answers t 0x0209 ∧ t = { s with regs := t.regs, time := t.time, cmd := t.cmd } ∧ t.time.cls[c]? = some (some cls) ∧
        t.time = { s.time with cls := t.time.cls, accuracy := acc, variance := var, timeSource := src } ∧ s.turns t CLK.TRACE (a % 256))

/-- R82 and R67. -/
def Obligations.SettingTheTime : Prop :=
  ∀ (s : State) (source sec ns n : Nat) (r : Req) (v : Word) (l : PpsLoad),
    let b := fun (i : Nat) => v.toNat.testBit i
    let at' := fun (sec ns : Nat) => (sec * 1000000000 + ns) * 2 ^ 32
    let stepped := fun (t : State) (c : Nat) => t.ctr = c % ctrRange ∧ t.bit TIME.INT TIME.INT_STEPPED = true ∧ t.time.pps = s.time.pps
    let answers := fun (t : State) (op : Nat) => t.cmd = { s.cmd with results := s.cmd.results ++ [⟨r.channel, r.tag, op, Reply.ok []⟩] }
    (s.barred 0x0205 r = none → sec < 2 ^ 48 → ns ≤ 999999999 → s.loadPermitted false = true →
      ∃ t, Machine.exec (.timeSet r [⟨1, 8, sec⟩, ⟨2, 4, ns⟩, ⟨3, 0, 0⟩]) s = .next t ∧ answers t 0x0205 ∧ stepped t (at' sec ns) ∧
        t.cycles = s.cycles ∧ t.get TIME.STATUS_SET_PENDING = s.get TIME.STATUS_SET_PENDING) ∧
    (s.barred 0x0205 r = none → sec < 2 ^ 48 → ns ≤ 999999999 → s.loadPermitted false = false →
      Machine.exec (.timeSet r [⟨1, 8, sec⟩, ⟨2, 4, ns⟩, ⟨3, 0, 0⟩]) s = .next (s.finish r 0x0205 (Reply.err Status.notInState))) ∧
    (s.busOpen 0x8004C → b 1 = false → b 6 = false → s.loadPermitted (b 3) = true →
      ∃ t, Machine.exec (.timeSetApply source v) s = .next t ∧ stepped t (at' s.setSec (s.get TIME.LOAD_SET_NS)) ∧ t.cmd = s.cmd) ∧
    (s.busOpen 0x8004C → b 1 = false → b 6 = false → s.loadPermitted (b 3) = false →
      ∃ t, Machine.exec (.timeSetApply source v) s = .next t ∧ t.ctr = s.ctr ∧
        t.get SYS.CFG_REJECT_CNT = (s.get SYS.CFG_REJECT_CNT + 1) % 2 ^ 32 ∧ t.get SYS.REJ_OFFSET = 0x8004C) ∧
    (s.busOpen 0x8004C → b 0 = false → s.loadPermitted (b 3) = true →
      ∃ t, Machine.exec (.timeSetApplyPps source v) s = .next t ∧ t.on TIME.STATUS_SET_PENDING = true ∧ t.ctr = s.ctr ∧
        t.time = { s.time with pps := some ⟨s.setSec, s.get TIME.LOAD_SET_NS, v.toNat / 16 % 4, b 3, b 2, source⟩ } ∧
        t = { s with regs := t.regs, time := t.time }) ∧
    (s.busOpen 0x8004C → b 0 = false → b 1 = false → b 2 = false →
      ∃ t, Machine.exec (.timeSetCancel source v) s = .next t ∧ t.on TIME.STATUS_SET_PENDING = false ∧ t.ctr = s.ctr ∧
        t.time = { s.time with pps := none } ∧ t = { s with regs := t.regs, time := t.time } ∧
        s.keepsBut t [TIME.STATUS_SET_PENDING, TIME.LOAD_PPS_SRC]) ∧
    (s.busOpen 0x8004C → b 0 = false → b 1 = false → b 6 = false →
      ∃ t, Machine.exec (.timeValidate source v) s = .next t ∧ t.on TIME.STATUS_MEDIA_VALID = true ∧ t.ctr = s.ctr ∧
        t = { s with regs := t.regs, strm := t.strm } ∧ s.keepsBut t [TIME.STATUS_MEDIA_VALID, TIME.LOAD_PPS_SRC]) ∧
    (s.time.pps = some l → l.src = n → s.loadPermitted l.force = true →
      ∃ t, Machine.exec (.ppsEdgeLoad n) s = .next t ∧ t.ctr = at' l.sec l.ns % ctrRange ∧ t.time.pps = none ∧
        t.on TIME.STATUS_SET_PENDING = false ∧ t.bit TIME.INT TIME.INT_STEPPED = true) ∧
    (s.time.pps = some l →
      ∃ t, Machine.exec .applyPpsTimeout s = .next t ∧ s.sameButEvents { t with time := s.time } ∧ t.time = { s.time with pps := none } ∧
        t.on TIME.STATUS_SET_PENDING = false ∧ t.bit TIME.INT TIME.INT_SET_TIMEOUT = true) ∧
    (∃ t, Machine.exec .timeNowRead s = .next t ∧ t = { s with rd := t.rd, regs := t.regs } ∧ t.rd = s.ctr / 2 ^ 16 % 2 ^ 16 ∧
      t.get TIME.NOW_NS = s.ctr / 2 ^ 32 % 1000000000 ∧ t.get TIME.NOW_SEC_LO = s.ctr / 2 ^ 32 / 1000000000 % 2 ^ 32 ∧
      s.keepsBut t [TIME.NOW_NS, TIME.NOW_SEC_LO, TIME.NOW_SEC_HI])

/-- R93 to R97. QSTATE: 0 DISABLED, 1 INACTIVE, 2 QUALIFYING, 3 QUALIFIED. -/
def Obligations.ReferencesQualifyAndFail : Prop :=
  ∀ (s : State) (n source a m d : Nat) (b c ofs : Int) (used : Bool) (r : Req) (v : Word),
    n < 8 →
    let clkOnly := fun t : State => s.sameButEvents { t with clk := s.clk }
    let q := fun (t : State) => t.get (CLK.REF_QSTATE n)
    let en := s.on (CLK.REF_ENABLE n) = true
    let m0 := s.measured n ofs
    let answers := fun (t : State) (op : Nat) => t.cmd = { s.cmd with results := s.cmd.results ++ [⟨r.channel, r.tag, op, Reply.ok []⟩] }
    (en → (n = 6 → s.ref6Active = true) → (n = 7 → s.ref7Offered = true) → s.on CLK.XO_OK = true → s.get (CLK.REF_CFG_ERR n) = 0 → q s < 2 →
      ∃ t, Machine.exec (.refActivityGain n) s = .next t ∧ clkOnly t ∧ q t = 2 ∧ t.on (CLK.REF_ACTIVE n) = true ∧
        t.refSt n = { RefState.reset with ofs := (s.refSt n).ofs, rejectRun := (s.refSt n).rejectRun } ∧ t.bit CLK.SUM_ACTIVE n = true) ∧
    (en → (n = 6 → s.ref6Active = false) → q s = 3 →
      ∃ t, Machine.exec (.refActivityLoss n) s = .next t ∧ clkOnly t ∧ q t = 1 ∧ t.on (CLK.REF_ACTIVE n) = false ∧
        t.get (CLK.REF_LAST_CAUSE n) = 1 ∧ t.bit CLK.INT CLK.INT_DISQ = true ∧
        t.get (CLK.REF_ACT_LOSS_CNT n) = (s.get (CLK.REF_ACT_LOSS_CNT n) + 1) % 2 ^ (CLK.REF_ACT_LOSS_CNT n).w) ∧
    (en → n < 4 → s.get (CLK.REF_TYPE n) = 3 → (used = false → (s.refSt n).rejectRun < 2) →
      ∃ t, Machine.exec (.ppsEdgeReject n used) s = .next t ∧ t = { s with regs := t.regs, clk := t.clk } ∧
        t.refSt n = { s.refSt n with rejectRun := if used then 1 else (s.refSt n).rejectRun + 1 } ∧
        s.turns t (CLK.REF_PPS_REJECT n) ((s.get (CLK.REF_PPS_REJECT n) + 1) % 2 ^ 32)) ∧
    (en → n < 4 → s.get (CLK.REF_TYPE n) = 3 → (s.refSt n).rejectRun = 2 →
      ∃ t, Machine.exec (.ppsEdgeReject n false) s = .next t ∧ clkOnly t ∧ q t = 1 ∧ t.on (CLK.REF_ACTIVE n) = false ∧
        t.get (CLK.REF_PPS_REJECT n) = (s.get (CLK.REF_PPS_REJECT n) + 1) % 2 ^ 32) ∧
    (en → s.on (CLK.REF_ACTIVE n) = true → s.on CLK.CTRL_FM_BASE = false → q s = 2 → m0.natAbs ≤ capPpt (s.get (CLK.REF_ACCEPT n)) →
      s.on (CLK.REF_SUSPECT n) = false → s.get (CLK.REF_QUAL_TIME n) * 100 ≤ (s.refSt n).qualMs.getD 0 + s.gateMs n →
      ∃ t, Machine.exec (.freqGateClose n ofs) s = .next t ∧ clkOnly t ∧ t.geti (CLK.REF_FREQ_OFS n) = m0 ∧ q t = 3 ∧
        t.on (CLK.REF_IN_ACCEPT n) = true ∧ t.bit CLK.INT CLK.INT_QUAL = true) ∧
    (en → s.on (CLK.REF_ACTIVE n) = true → s.on CLK.CTRL_FM_BASE = false → q s = 2 → capPpt (s.get (CLK.REF_ACCEPT n)) < m0.natAbs →
      m0.natAbs < 2 ^ 31 →
      ∃ t, Machine.exec (.freqGateClose n ofs) s = .next t ∧ clkOnly t ∧ t.geti (CLK.REF_FREQ_OFS n) = m0 ∧ q t = 2 ∧
        t.on (CLK.REF_IN_ACCEPT n) = false ∧ (t.refSt n).qualMs = none) ∧
    (q s = 3 → (s.refSt n).prevDrift = none →
      ∃ t, Machine.exec (.driftWindowClose n) s = .next t ∧ t = { s with clk := t.clk } ∧ t.refSt n =
        { s.refSt n with driftSum := 0, driftCount := 0, prevDrift := some ((s.refSt n).driftSum, (s.refSt n).driftCount) }) ∧
    (q s = 3 → (s.refSt n).prevDrift = some (c, d) → (s.refSt n).driftSum = b → (s.refSt n).driftCount = a → 0 < s.get (CLK.REF_DRIFT_LIM n) →
      s.get (CLK.REF_DRIFT_LIM n) * 1000 * a * d < (b * d - c * a).natAbs → s.on (CLK.REF_DRIFT_ACT n) = false →
      ∃ t, Machine.exec (.driftWindowClose n) s = .next t ∧ clkOnly t ∧ q t = 3 ∧ t.on (CLK.REF_SUSPECT n) = true ∧
        t.bit CLK.SUM_SUSPECT n = true ∧ t.bit CLK.INT CLK.INT_SUSPECT = true) ∧
    (s.busOpen (0xA011C + 0x40 * n) →
      ∃ t, Machine.exec (.suspectClearWrite source n) s = .next t ∧ t = { s with regs := t.regs, clk := t.clk } ∧
        t.on (CLK.REF_SUSPECT n) = false ∧ q t = q s) ∧
    (s.barred 0x0309 r = none → m ≤ 255 →
      ∃ t, Machine.exec (.suspectClear r [⟨1, 1, m⟩]) s = .next t ∧ answers t 0x0309 ∧ t = { s with regs := t.regs, clk := t.clk, cmd := t.cmd } ∧
        ∀ k, k < 8 → t.on (CLK.REF_SUSPECT k) = (s.on (CLK.REF_SUSPECT k) && !m.testBit k)) ∧
    (s.barred 0x0302 r = none → ¬ en → (n < 4 → refTypeOk (s.get (CLK.REF_TYPE n)) (s.get (CLK.REF_FREQ n)) = true) →
      ∃ t, Machine.exec (.refSet r [⟨1, 1, n⟩, ⟨2, 1, 1⟩]) s = .next t ∧ answers t 0x0302 ∧ clkOnly { t with cmd := s.cmd } ∧
        t.on (CLK.REF_ENABLE n) = true ∧ q t = 1 ∧ t.get (CLK.REF_TYPE n) = s.get (CLK.REF_TYPE n)) ∧
    (s.busOpen (0xA0100 + 0x40 * n) → ¬ en → v.toNat % 2 = 1 →
      ∃ t, Machine.exec (.refEnableWrite source n v) s = .next t ∧ clkOnly t ∧
        t.on (CLK.REF_ENABLE n) = true ∧ q t = 1 ∧ (n < 4 → t.get (CLK.REF_TYPE n) = v.toNat / 16 % 8)) ∧
    (s.barred 0x0303 r = none → a < 2 ^ 27 → m < 2 ^ 16 →
      ∃ t, Machine.exec (.monSet r [⟨1, 1, n⟩, ⟨2, 4, a⟩, ⟨5, 2, m⟩]) s = .next t ∧ s.records t r 0x0303 (Reply.ok []) ∧ s.sameUnits t ∧
        t.get (CLK.REF_ACCEPT n) = a ∧ t.get (CLK.REF_PERSIST n) = m)

/-- R99 to R111. STATE: 0 FREERUN, 1 ACQUIRE, 2 LOCKED, 3 HOLDOVER. The output frequency of a compare is a free value; `err` is the phase
difference, `e` the phase error that PHASE_MODE makes of it. -/
def Obligations.DpllsSelectLockAndHold : Prop :=
  ∀ (s : State) (d k r : Nat) (err : Int),
    d < 4 → s.on CLK.XO_OK = true → s.on (CLK.DPLL_ENABLE d) = true → s.held = [] →
    let st := fun (t : State) => t.get (CLK.DPLL_STATE d)
    let sel := s.get (CLK.DPLL_SEL_REF d)
    let clkOnly := fun (t : State) => d ≠ 0 → s.sameButEvents { t with clk := s.clk, freeCtr := s.freeCtr }
    let aim := (s.dpll d).target + s.steer d
    let f := clampInt (aim - s.pullMax d) (aim + s.pullMax d) (slew1ppm (s.geti (CLK.DPLL_FREQ d)) aim)
    let e := err - s.phaseTarget d sel err
    (st s = 0 → s.get (CLK.DPLL_MODE d) = 0 → s.on (CLK.DPLL_SEL_VALID d) = false → lowestRank s d (s.selectables d) = some k →
      s.choose d k = some r →
      ∃ t, Machine.exec (.selectionEvaluation d) s = .next t ∧ clkOnly t ∧ st t = 1 ∧ t.on (CLK.DPLL_SEL_VALID d) = true ∧
        t.get (CLK.DPLL_SEL_REF d) = r ∧ (t.dpll d).lastSel = some r ∧ t.bit CLK.INT CLK.INT_SWITCH = true) ∧
    (st s = 2 → e.natAbs ≤ s.get (CLK.DPLL_UNLOCK_THR d) * 1000 → e.natAbs < 2 ^ 31 →
      ∃ t, Machine.exec (.dpllCompare d err) s = .next t ∧ clkOnly t ∧ st t = 2 ∧ t.geti (CLK.DPLL_PHASE_ERR d) = e ∧ (t.dpll d).bad = 0) ∧
    (st s = 2 → s.get (CLK.DPLL_UNLOCK_THR d) * 1000 < e.natAbs → (s.dpll d).bad = 7 →
      ∃ t, Machine.exec (.dpllCompare d err) s = .next t ∧ clkOnly t ∧ st t = 1 ∧ t.bit CLK.INT CLK.INT_LOCK_LOSS = true ∧
        t.get (CLK.DPLL_LOCK_LOSS_CNT d) = (s.get (CLK.DPLL_LOCK_LOSS_CNT d) + 1) % 2 ^ (CLK.DPLL_LOCK_LOSS_CNT d).w) ∧
    (st s = 1 → e.natAbs ≤ s.get (CLK.DPLL_LOCK_THR d) * 1000 → s.get (CLK.DPLL_BW d) ≤ (s.bwCodes d sel).2 →
      s.dwellUs d (s.get (CLK.DPLL_BW d)) * (s.compareRate sel).1 ≤ ((s.dpll d).dwell + 1) * 1000000 * (s.compareRate sel).2 →
      ∃ t, Machine.exec (.dpllCompare d err) s = .next t ∧ clkOnly t ∧ st t = 2 ∧ t.bit CLK.INT CLK.INT_STATE = true) ∧
    (st s = 3 → f.natAbs < 2 ^ 31 →
      ∃ t, Machine.exec (.holdoverSecond d) s = .next t ∧ clkOnly t ∧ st t = 3 ∧ t.geti (CLK.DPLL_FREQ d) = f ∧
        t.get (CLK.DPLL_HO_AGE d) = min (s.get (CLK.DPLL_HO_AGE d) + 1) (2 ^ 32 - 1)) ∧
    (r < 8 → s.selectable d r = true →
      ∃ t, Machine.exec (.wtrExpiry d r) s = .next t ∧ t = { s with regs := t.regs, clk := t.clk } ∧
        t.dpll d = { s.dpll d with wtrDone := (s.dpll d).wtrDone ||| 2 ^ r } ∧ s.keepsBut t [CLK.DPLL_WTR_RUN d]) ∧
    (∃ t, Machine.exec .xoLoss s = .next t ∧ t.on CLK.XO_OK = false ∧ t.bit CLK.INT CLK.INT_XO_LOST = true ∧
      (∀ n, n < 8 → s.on (CLK.REF_ENABLE n) = true → 2 ≤ s.get (CLK.REF_QSTATE n) → t.get (CLK.REF_QSTATE n) = 1 ∧ t.on (CLK.REF_ACTIVE n) = false) ∧
      t.time.incr = s.time.incr) ∧
    (let s' := s.set CLK.XO_OK 0
      ∃ t, Machine.exec .xoRestore s' = .next t ∧ t.on CLK.XO_OK = true ∧ st t = 0 ∧ t.on (CLK.DPLL_SEL_VALID d) = false ∧
        t.geti (CLK.DPLL_FREQ d) = s.steer d ∧ (∀ n, n < 8 → s.on (CLK.REF_ENABLE n) = true → t.get (CLK.REF_QSTATE n) = 1))

/-- R101, R111, R114 to R119. -/
def Obligations.DpllAndOutputSettings : Prop :=
  ∀ (s : State) (d n k m source : Nat) (r : Req) (v : Word),
    d < 4 → n < 4 → m < 2 ^ 16 →
    let regsOnly := fun t : State => t = { s with regs := t.regs, cmd := t.cmd }
    let outOnly := fun t : State => t = { s with regs := t.regs, cmd := t.cmd, clk := { s.clk with outEdge := t.clk.outEdge }, freeCtr := t.freeCtr }
    (s.barred 0x0304 r = none →
      ∃ t, Machine.exec (.dpllSet r [⟨1, 1, d⟩, ⟨16, 2, m⟩]) s = .next t ∧ s.records t r 0x0304 (Reply.ok []) ∧ regsOnly t ∧
        t.get (CLK.DPLL_LOCK_THR d) = m ∧ t.get (CLK.DPLL_MODE d) = s.get (CLK.DPLL_MODE d)) ∧
    (s.barred 0x0305 r = none → s.held = [] → s.on (CLK.DPLL_ENABLE d) = true → s.on CLK.XO_OK = true →
      ∃ t, Machine.exec (.dpllMode r [⟨1, 1, d⟩, ⟨2, 1, 3⟩]) s = .next t ∧ t.get (CLK.DPLL_MODE d) = 3 ∧ t.get (CLK.DPLL_STATE d) = 0 ∧
        t.on (CLK.DPLL_SEL_VALID d) = false ∧
        t.cmd.results = s.cmd.results ++ [⟨r.channel, r.tag, 0x0305, Reply.ok (clkWords t [0x420 + 0x80 * d])⟩]) ∧
    (s.barred 0x0306 r = none → k < 2 ^ 32 →
      ∃ t, Machine.exec (.steerSet r [⟨1, 1, d⟩, ⟨2, 4, k⟩]) s = .next t ∧ s.records t r 0x0306 (Reply.ok []) ∧ regsOnly t ∧
        s.turns t (CLK.DPLL_STEER d) k) ∧
    (s.barred 0x0307 r = none → s.on (CLK.WCLK_EN n) = false → k ≤ 3 →
      ∃ t, Machine.exec (.outputSet r [⟨1, 1, n⟩, ⟨2, 1, 1⟩, ⟨3, 1, k⟩]) s = .next t ∧ s.records t r 0x0307 (Reply.ok []) ∧ outOnly t ∧
        t.on (CLK.WCLK_EN n) = true ∧ (k = 0 → t.outEdge n = s.nextEdge (s.dpllBase 0)) ∧ t.get (CLK.WCLK_SRC n) = k ∧ s.keepsBut t [CLK.WCLK_EN n, CLK.WCLK_SRC n]) ∧
    (s.barred 0x0307 r = none → s.on (CLK.WCLK_EN n) = true → k ≤ 3 → k ≠ s.get (CLK.WCLK_SRC n) →
      ∃ e, Machine.exec (.outputSet r [⟨1, 1, n⟩, ⟨3, 1, k⟩]) s = .next (s.finish r 0x0307 e) ∧ e.status = Status.notInState ∧ e.errTlv = 3) ∧
    (s.barred 0x0308 r = none → k ≤ 31 →
      ∃ t, Machine.exec (.outputAlign r [⟨1, 1, k⟩]) s = .next t ∧ s.records t r 0x0308 (Reply.ok []) ∧ regsOnly t ∧
        s.turns t CLK.OUT_ALIGN_PEND (s.get CLK.OUT_ALIGN_PEND ||| k)) ∧
    (s.busOpen (0xA0400 + 0x80 * d) → d ≠ 0 → s.on (CLK.DPLL_ENABLE d) = false → v.toNat.testBit 31 = true →
      ∃ t, Machine.exec (.dpllEnableWrite source d v) s = .next t ∧ t.on (CLK.DPLL_ENABLE d) = true ∧
        t.get (CLK.DPLL_FAMILY d) = v.toNat % 2 ∧ t.geti (CLK.DPLL_FREQ d) = s.steer d ∧ t.cmd.inflight = s.cmd.inflight) ∧
    (s.busOpen (0xA0400 + 0x80 * d) → (d = 0 ∨ v.toNat % 2 = s.get (CLK.DPLL_FAMILY d)) → s.held = [] →
      ∃ t, Machine.exec (.dpllModeWrite source d v) s = .next t ∧ s.sameUnits { t with clk := s.clk } ∧
        (d ≠ 0 → t = { s with regs := t.regs, held := t.held, clk := t.clk }) ∧
        (d = 0 → t.get SYS.CFG_REJECT_CNT = (s.get SYS.CFG_REJECT_CNT + 1) % 2 ^ 32 ∧ t.get SYS.REJ_OFFSET = 0xA0400) ∧
        t.get (CLK.DPLL_MODE d) = v.toNat / 16 % 4 ∧ t.get (CLK.DPLL_MAN_REF d) = v.toNat / 256 % 8 ∧
        t.eff (CLK.DPLL_MODE d) = s.eff (CLK.DPLL_MODE d) ∧ t.get (CLK.DPLL_STATE d) = s.get (CLK.DPLL_STATE d)) ∧
    (s.busOpen 0xA0814 →
      ∃ t, Machine.exec (.outAlignWrite source v) s = .next t ∧ t = { s with regs := t.regs } ∧
        s.turns t CLK.OUT_ALIGN_PEND (s.get CLK.OUT_ALIGN_PEND ||| v.toNat % 32)) ∧
    (s.busOpen (0xA0800 + 4 * n) → s.on (CLK.WCLK_EN n) = false →
      ∃ t, Machine.exec (.wclkOutEnable source n v) s = .next t ∧ outOnly t ∧ t.get (CLK.WCLK_EN n) = v.toNat % 2 ∧
        t.get (CLK.WCLK_SRC n) = v.toNat / 2 % 4 ∧ t.get (CLK.WCLK_MULT n) = v.toNat / 8 % 8 ∧
        s.keepsBut t [CLK.WCLK_EN n, CLK.WCLK_SRC n, CLK.WCLK_MULT n, CLK.WCLK_INVERT n]) ∧
    (s.busOpen 0xA0810 → s.on CLK.PPS_EN = false →
      ∃ t, Machine.exec (.ppsOutEnable source v) s = .next t ∧ outOnly t ∧ (v.toNat % 2 = 1 → t.outEdge 4 = s.nextEdge 1) ∧ t.get CLK.PPS_EN = v.toNat % 2 ∧
        t.get CLK.PPS_WIDTH = v.toNat / 256 % 512 ∧ s.keepsBut t [CLK.PPS_EN, CLK.PPS_WIDTH]) ∧
    (k ≤ 4 → s.bit CLK.OUT_ALIGN_PEND k = true →
      ∃ t, Machine.exec (.outputRealign k) s = .next t ∧ outOnly t ∧ (k = 4 → t.outEdge 4 = s.lastEdge 1) ∧ t.bit CLK.OUT_ALIGN_PEND k = false ∧
        t.bit CLK.OUT_MISALIGNED k = false ∧ s.keepsBut t [CLK.OUT_ALIGN_PEND, CLK.OUT_MISALIGNED])

/-- R128 to R148. -/
def Obligations.FramesThroughAPort : Prop :=
  ∀ (s : State) (p q : Nat) (w : WireFrame) (f : RxFrame) (g : TxFrame) (raw : Int) (rest : List RxFrame) (more : List TxFrame)
    (qs : List Nat) (m : PtpFrame) (ms : List PtpFrame),
    p ≤ 3 → s.boot.dormant = false →
    let h := headers w.bytes
    let max := lenEff (s.get (PORT.RX_MAX_LEN p))
    let up := s.on (PORT.LINK_UP p) = true ∧ s.held = []
    let start := s.frameStart p w.bytes.length
    let room := (s.port p).fillAt start + max ≤ rxBuffer p
    let portOnly := fun t : State => s.sameButEvents { t with ports := s.ports }
    let gains := fun (t : State) (n : Nat) => t.get (PORT.STAT p n) = (s.get (PORT.STAT p n) + 1) % 2 ^ (PORT.STAT p n).w
    let c := s.protoClass p (headers f.bytes)
    let atHead := (s.port p).rx = f :: rest ∧ f.status = Rx.ok ∧ (headers f.bytes).tagged = false ∧ (headers f.bytes).etype ≠ 0x8808 ∧
      (p < 2 → s.claim p (headers f.bytes) = none) ∧ s.filterOk p (headers f.bytes).dst = true
    (up → room → s.rxStatus p w h = Rx.ok →
      ∃ t, Machine.exec (.frameReceive p w) s = .next t ∧ portOnly t ∧ gains t Stat.RX_FRAMES_OK ∧
        (t.port p).rx = (s.port p).rx ++ [⟨w.bytes.take max, w.stamp - s.rxLat p, Rx.ok, false⟩] ∧
        ∀ k, k ≤ 3 → k ≠ p → t.port k = s.port k) ∧
    (up → ¬ room → s.rxStatus p w h = Rx.ok →
      ∃ t, Machine.exec (.frameReceive p w) s = .next t ∧ portOnly t ∧ gains t Stat.RX_OVF_FRAMES ∧ gains t Stat.RX_FRAMES_OK ∧
        t.port p = (s.port p).forgetFills start ∧ (∀ k, k ≤ 3 → k ≠ p → t.port k = s.port k) ∧ t.bit (PORT.INT p) PORT.INT_RX_OVF = true) ∧
    (up → room → s.rxStatus p w h = Rx.pause → s.get (PORT.PAUSE_MODE p) ≠ 0 → s.on (PORT.TX_PAUSED p) = false →
      ∃ t, Machine.exec (.frameReceive p w) s = .next t ∧ portOnly t ∧ (t.port p).timer = beAt w.bytes (h.l3 + 2) 2 ∧
        t.on (PORT.TX_PAUSED p) = (beAt w.bytes (h.l3 + 2) 2 != 0) ∧ (t.port p).rx = (s.port p).rx) ∧
    (atHead → s.destOf p c = 1 → s.hasRoom (3 + p) (itemEntries (frameItem f (rxFlags 0 false false false) c)).length = true →
      ∃ t, Machine.exec (.frameDispatch p) s = .next t ∧ portOnly t ∧ (t.port p).rx = rest ∧ t.queue (3 + p) =
        { s.queue (3 + p) with ready := (s.queue (3 + p)).ready ++ itemEntries (frameItem f (rxFlags 0 false false false) c) }) ∧
    (atHead → s.destOf p c = 0 →
      ∃ t, Machine.exec (.frameDispatch p) s = .next t ∧ portOnly t ∧ (t.port p).rx = rest ∧ gains t Stat.RX_FILTER_DROP) ∧
    (up → (s.port p).pauses = q :: qs →
      ∃ t, Machine.exec (.txFrameBoundary p raw) s = .next t ∧ portOnly t ∧ (t.port p).pauses = qs ∧ gains t Stat.TX_PAUSE ∧
        (t.port p).sent = some (s.pauseFrame p q ++ fcs (s.pauseFrame p q), raw + s.txLat p)) ∧
    (up → (s.port p).pauses = [] → (s.port p).ptp = m :: ms → m.msg.port = p → p < 2 → s.streamDue p = false → s.pausedStream p = false →
      s.guardOk p (m.msg.bytes.length + 4) = true →
      ∃ t, Machine.exec (.txFrameBoundary p raw) s = .next t ∧ (t.port p).ptp = ms ∧ gains t Stat.TX_FRAMES ∧
        (t.port p).service = (s.port p).service ∧ (t.port p).host = (s.port p).host ∧
        s.sameButEvents { t with time := s.time, ports := s.ports }) ∧
    (up → (s.port p).pauses = [] → (s.port p).ptp = [] → (s.port p).service = g :: more → g.host = none → g.segment = false → g.lastSeg = false →
      s.streamDue p = false → s.pausedOthers p = false → s.guardOk p (g.bytes.length + 4) = true → s.dma.items = [] →
      ∃ t, Machine.exec (.txFrameBoundary p raw) s = .next t ∧ portOnly t ∧ (t.port p).service = more ∧ gains t Stat.TX_FRAMES ∧
        (t.port p).sent = some (g.bytes ++ fcs g.bytes, raw + s.txLat p)) ∧
    ((s.port p).pausing = true → s.on (PORT.TX_PAUSE_EN p) = true → 64 * s.get (PORT.XON p) < s.get (PORT.RX_FILL p) →
      ∃ t, Machine.exec (.pauseRepeat p) s = .next t ∧ t = { s with ports := t.ports } ∧ t.port p =
        { s.port p with pauses := (s.port p).pauses ++ [s.get (PORT.PAUSE_TX_QUANTA p)], pausing := s.get (PORT.PAUSE_TX_QUANTA p) != 0 }) ∧
    (s.on (PORT.TX_PAUSED p) = true →
      ∃ t, Machine.exec (.pauseTimerExpiry p) s = .next t ∧ portOnly t ∧ (t.port p).timer = 0 ∧ t.on (PORT.TX_PAUSED p) = false) ∧
    (s.on (PORT.TX_PAUSED p) = true → s.get (PORT.PAUSE_ALARM p) ≠ 0 →
      ∃ t, Machine.exec (.pauseAlarm p) s = .next t ∧ s.sameButEvents t ∧ t.bit (PORT.INT p) PORT.INT_PAUSE_LONG = true ∧
        s.keepsBut t [PORT.INT p]) ∧
    (p < 2 → s.get (PORT.LINE_MODE p) = 0 → s.on (PORT.FEC_EN p) = true → s.on (PORT.PORT_EN p) = true →
      (∃ t, Machine.exec (.fecCodewordUncorrectable p true) s = .next t ∧ s.sameButEvents t ∧ gains t Stat.FEC_CORR) ∧
      (∃ t, Machine.exec (.fecCodewordUncorrectable p false) s = .next t ∧ s.sameButEvents t ∧ gains t Stat.FEC_UNCORR ∧
        t.bit (PORT.INT p) PORT.INT_FEC_UNCORR = true))

/-- R126, R127, R131, R132, R139, R146, R149. Link states: 0 DISABLED, 1 DOWN, 2 UP. -/
def Obligations.LinksAndPortSettings : Prop :=
  ∀ (s : State) (p cause source speed e : Nat) (part : Bool) (r : Req) (v : Word) (pl : List Tlv),
    p ≤ 3 →
    let w := v.toNat
    let got := fun (ty : Nat) (f : Fld) (t : State) => ∀ x, Params.val? pl ty = some x → t.get f = x % 2 ^ f.w
    let named := Params.val pl 1 = p
    let answers := fun (t : State) (op : Nat) => t.cmd.results.getLast? = some ⟨r.channel, r.tag, op, Reply.ok []⟩
    let finds := (s.port p).link = 1 ∧ s.boot.down.contains (3, if p < 2 then 3 + p else p - 1) = false
    (s.get SYS.STATUS_STEP < 11 → finds →
      ∃ t, Machine.exec (.linkUp p speed) s = .next t ∧ s.sameButEvents { t with ports := s.ports } ∧ t.port p = { s.port p with link := 2 } ∧
        t.on (PORT.LINK_UP p) = true ∧ t.bit (PORT.INT p) PORT.INT_LINK_UP = true ∧
        t.get (PORT.SPEED p) = (if s.get (PORT.LINE_MODE p) = 3 then min speed 2 else 2)) ∧
    (11 ≤ s.get SYS.STATUS_STEP → finds →
      ∃ t, Machine.exec (.linkUp p speed) s = .next t ∧ (t.port p).link = 2 ∧ t.on (PORT.LINK_UP p) = true ∧
        t.bit (PORT.INT p) PORT.INT_LINK_UP = true ∧ t.get (PORT.SPEED p) = (if s.get (PORT.LINE_MODE p) = 3 then min speed 2 else 2)) ∧
    (cause ≤ 1 → (s.port p).link = 2 → s.on (PORT.LINK_UP p) = true →
      ∃ t, Machine.exec (.linkLoss p cause part) s = .next t ∧ (t.port p).link = 1 ∧ t.on (PORT.LINK_UP p) = false ∧
        (t.port p).stream = [] ∧ (t.port p).ptp = [] ∧ (t.port p).host = [] ∧ (t.port p).pauses = [] ∧ (t.port p).rx = (s.port p).rx ∧
        (t.port p).service = (inPartition 24576 (s.port p).service).2 ∧ t.bit (PORT.INT p) PORT.INT_LINK_DOWN = true ∧
        t.get (PORT.STAT p Stat.RX_CODE_ERR) = (s.get (PORT.STAT p Stat.RX_CODE_ERR) + if part then 1 else 0) % 2 ^ 32 ∧
        t.get (PORT.STAT p Stat.LINK_DOWN) = (s.get (PORT.STAT p Stat.LINK_DOWN) + 1) % 2 ^ 32) ∧
    (s.refuses r 0x0401 portSetParams pl = none → named → pl.all (fun z => !(portLacks p z.ty || (z.ty == 3 && !modeOk p z.val))) = true →
      s.noStart 5 p = false → (s.portIdle p = true ∨ changesStatic s pl (portSetFlds p) = none) →
      ∃ t, Machine.exec (.portSet r pl) s = .next t ∧ answers t 0x0401 ∧
        t.get (PORT.PORT_EN p) = (Params.val? pl 2).getD (s.get (PORT.PORT_EN p)) ∧ (∀ f ∈ portSetFlds p, got f.ty f.fld t) ∧
        (t.get (PORT.PORT_EN p) = 1 → (t.port p).link = (if (s.port p).link = 0 then 1 else (s.port p).link)) ∧
        (t.get (PORT.PORT_EN p) = 0 → (t.port p).link = 0)) ∧
    (s.refuses r 0x0401 portSetParams pl = none → named → pl = [⟨1, 1, p⟩, ⟨2, 1, 1⟩] → (s.port p).link = 0 → s.on (PORT.PORT_EN p) = false →
      s.noStart 5 p = false → s.on (PORT.TX_PAUSE_EN p) = false → (s.port p).pausing = false →
      ∃ t, Machine.exec (.portSet r pl) s = .next t ∧ s.records t r 0x0401 (Reply.ok []) ∧
        t = { s with regs := t.regs, ports := t.ports, cmd := t.cmd } ∧ s.keepsBut t [PORT.PORT_EN p]) ∧
    (s.busOpen (0x40000 + 0x10000 * p) → (s.port p).link = 0 → s.on (PORT.PORT_EN p) = false → s.noStart 5 p = false → w % 2 = 1 →
      modeOk p (w / 2 % 8) = true →
      ∃ t, Machine.exec (.portEnableWrite source p v) s = .next t ∧ t.on (PORT.PORT_EN p) = true ∧ (t.port p).link = 1 ∧
        t.get (PORT.LINE_MODE p) = w / 2 % 8 ∧ s.sameButEvents { t with held := s.held, ports := s.ports }) ∧
    (s.busOpen (0x40000 + 0x10000 * p) → (s.port p).link ≠ 0 → s.on (PORT.PORT_EN p) = true → w % 2 = 1 → w.testBit 13 = true →
      modeOk p (w / 2 % 8) = true →
      ∃ t, Machine.exec (.statSnapWrite source p v) s = .next t ∧ t.on (PORT.STAT_SNAP_MODE p) = true ∧
        (t.port p).snap = (List.range 42).map (fun n => t.get (PORT.STAT p n)) ∧ (t.port p).link = (s.port p).link) ∧
    (s.refuses r 0x0403 [preq 1 1 0 3, preq 2 1 16 31, popt 3 6 0 (2 ^ 48 - 1), popt 4 1 0 1] pl = none → named → Params.val pl 2 = e →
      ∃ t, Machine.exec (.filterSet r pl) s = .next t ∧ s.records t r 0x0403 (Reply.ok []) ∧
        t = { s with regs := t.regs, held := t.held, cmd := t.cmd } ∧ got 4 (PORT.MATCH_EN p e) t ∧
        (∀ x, Params.val? pl 3 = some x → t.get (PORT.MATCH_ADDR_LO p e) = swapBytes 6 x % 2 ^ 32 ∧
          t.get (PORT.MATCH_ADDR_HI p e) = swapBytes 6 x / 2 ^ 32) ∧
        s.keepsBut t [PORT.MATCH_EN p e, PORT.MATCH_ADDR_LO p e, PORT.MATCH_ADDR_HI p e]) ∧
    (s.refuses r 0x0404 [preq 1 1 0 3, preq 2 1 0 11, preq 3 1 0 3] pl = none → named → s.fixedClass p (Params.val pl 2) = none →
      ∃ t, Machine.exec (.dispatchSet r pl) s = .next t ∧ s.records t r 0x0404 (Reply.ok []) ∧
        t = { s with regs := t.regs, held := t.held, cmd := t.cmd } ∧ t.get (PORT.DISPATCH p) / 4 ^ Params.val pl 2 % 4 = Params.val pl 3 ∧
        (∀ k, k ≤ 11 → k ≠ Params.val pl 2 → t.get (PORT.DISPATCH p) / 4 ^ k % 4 = s.get (PORT.DISPATCH p) / 4 ^ k % 4) ∧
        s.keepsBut t [PORT.DISPATCH p]) ∧
    (s.refuses r 0x0404 [preq 1 1 0 3, preq 2 1 0 11, preq 3 1 0 3] pl = none → named → (s.fixedClass p (Params.val pl 2)).isSome = true →
      Machine.exec (.dispatchSet r pl) s = .next (s.finish r 0x0404 (Reply.err Status.notInState))) ∧
    (s.refuses r 0x0406 [popt 1 1 0 1, popt 2 1 0 1, popt 3 1 0 1, popt 4 1 0 1, popt 5 6 0 (2 ^ 48 - 1), popt 6 1 0 7,
        popt 7 128 0 (2 ^ 1024 - 1), popt 8 16 0 (2 ^ 128 - 1), popt 9 1 0 1] pl = none →
      (Params.has pl 6 = true ∨ (Params.has pl 7 = false ∧ Params.has pl 8 = false ∧ Params.has pl 9 = false)) → Params.val pl 6 = e →
      ∃ t, Machine.exec (.wakeSet r pl) s = .next t ∧ s.records t r 0x0406 (Reply.ok []) ∧
        t = { s with regs := t.regs, held := t.held, cmd := t.cmd } ∧ got 1 PORT.WAKE_MAGIC_EN t ∧ got 2 PORT.WAKE_DA_CHECK t ∧
        got 3 PORT.WAKE_LINK_WAKE t ∧ got 4 PORT.WAKE_AWAKE_EVT t ∧
        (∀ x, Params.val? pl 5 = some x → t.get PORT.WAKE_MAC_LO = swapBytes 6 x % 2 ^ 32 ∧ t.get PORT.WAKE_MAC_HI = swapBytes 6 x / 2 ^ 32) ∧
        (∀ x k, Params.val? pl 7 = some x → k < 32 → t.get (PORT.WAKE_PATTERN e k) = x / 2 ^ (32 * k) % 2 ^ 32) ∧
        (∀ x k, Params.val? pl 8 = some x → k < 4 → t.get (PORT.WAKE_MASK e k) = x / 2 ^ (32 * k) % 2 ^ 32) ∧
        (∀ x, Params.val? pl 9 = some x → t.bit PORT.WAKE_FILT_EN e = (x == 1)))

/-- R163, R165, R173, R175, R181, R192, R197. -/
def Obligations.StreamsAreSetAndEnabled : Prop :=
  ∀ (s : State) (r : Req) (i enc ssrc source l c blk : Nat) (lanes : List Nat) (x : TxRun),
    i < 512 → enc ≤ 3 → ssrc < 2 ^ 32 →
    let answers := fun (t : State) (op : Nat) => t.cmd.results = s.cmd.results ++ [⟨r.channel, r.tag, op, Reply.ok []⟩]
    let runs := fun (t : State) (dir : Nat) => (t.entry dir i).on = true ∧ i ∈ t.streams dir ∧
      (∀ k, nth lanes 0 k = t.get (laneFld dir i 0)) ∧ t.cmd.inflight = s.cmd.inflight
    let may := fun (dir : Nat) => (s.entry dir i).on = false ∧ s.enableCheck dir i = (0, 0) ∧ s.pickLanes dir i = some lanes ∧
      ∀ j ∈ lanes, j < 16
    let only := fun (t : State) => t = { s with regs := t.regs, held := t.held, cmd := t.cmd }
    (s.barred 0x0501 r = none → may 0 →
      ∃ t, Machine.exec (.streamRxSet r [⟨1, 2, i⟩, ⟨2, 1, 1⟩]) s = .next t ∧ answers t 0x0501 ∧ runs t 0 ∧
        ∃ y ∈ t.strm.rx, y.stream = i ∧ y.ring.cells = [] ∧ y.ring.len = (s.ringSize i).1 ∧ y.ring.rows = (s.ringSize i).2.1) ∧
    (s.barred 0x0502 r = none → may 1 →
      ∃ t, Machine.exec (.streamTxSet r [⟨1, 2, i⟩, ⟨2, 1, 1⟩]) s = .next t ∧ answers t 0x0502 ∧ runs t 1 ∧
        t.txRun i = some ⟨i, none, s.get (TXE.SEQ_INIT i), s.nowNs, none⟩) ∧
    (s.barred 0x0501 r = none → (s.entry 0 i).on = false →
      ∃ t, Machine.exec (.streamRxSet r [⟨1, 2, i⟩, ⟨8, 1, enc⟩]) s = .next t ∧ s.records t r 0x0501 (Reply.ok []) ∧ only t ∧
        s.turns t (RXE.ENC i) enc) ∧
    (s.barred 0x0502 r = none → (s.entry 1 i).on = false →
      ∃ t, Machine.exec (.streamTxSet r [⟨1, 2, i⟩, ⟨13, 4, ssrc⟩]) s = .next t ∧ s.records t r 0x0502 (Reply.ok []) ∧ only t ∧
        s.turns t (TXE.SSRC i) ssrc) ∧
    (s.barred 0x0502 r = none → (s.entry 1 i).on = true → ssrc ≠ s.get (TXE.SSRC i) →
      Machine.exec (.streamTxSet r [⟨1, 2, i⟩, ⟨13, 4, ssrc⟩]) s = .next (s.finish r 0x0502 (Reply.err Status.notInState))) ∧
    (∀ dir, dir ≤ 1 → s.barred 0x0503 r = none → may dir →
      ∃ t, Machine.exec (.streamEnable r [⟨1, 1, dir⟩, ⟨2, 1, 1⟩, ⟨3, 2, i⟩]) s = .next t ∧ runs t dir ∧
        t.cmd.waits = s.cmd.waits ++ [⟨r, 0x0503, 10, 3, [0], [i], [0], [16], [0], dir, []⟩]) ∧
    (∀ table w, table < 4 → w < 32 → s.busOpen 0xC0300 →
      ∃ t, Machine.exec (.streamTblRead source table i) s = .next t ∧ t = { s with regs := t.regs } ∧
        t.get (STRM.TBL_DATA w) = s.word (tblFields table i) (tblBase table i + 4 * w) % 2 ^ 32) ∧
    (s.busOpen 0xC0300 → (s.entry 0 i).on = false → (s.get (STRM.TBL_DATA 0)).testBit 31 = false →
      ∃ t, Machine.exec (.streamTblWrite source 0 i) s = .next t ∧ t = { s with regs := t.regs, held := t.held } ∧
        t.get (RXE.RTP_OFFSET i) = (RXE.RTP_OFFSET i).part (s.get (STRM.TBL_DATA (((RXE.RTP_OFFSET i).off - tblBase 0 i) / 4))) ∧
        t.get STRM.TBL_ERR = 0 ∧ (t.entry 0 i).on = false) ∧
    (s.busOpen 0xC0300 →
      ∃ t, Machine.exec (.streamTblClear source 2 i) s = .next t ∧ t = { s with regs := t.regs } ∧
        (∀ f : Fld, f.lo < 32 → 0x600000 + 0x80 * i ≤ f.off → f.off < 0x600080 + 0x80 * i → t.get f = f.reset % 2 ^ f.w) ∧
        ∀ f : Fld, f.lo < 32 → f.off ≠ 0xC0300 → (f.off < 0x600000 + 0x80 * i ∨ 0x600080 + 0x80 * i ≤ f.off) → t.get f = s.get f) ∧
    (s.txRun i = some x → s.on TIME.STATUS_MEDIA_VALID = true → x.nextM = none → x.stopAt = none →
      ∃ t, Machine.exec (.txStreamStart i) s = .next t ∧ t = { s with strm := t.strm } ∧
        t.txRun i = some { x with nextM := some (s.firstM i x.applied), seq := s.get (TXE.SEQ_INIT i), stream := i }) ∧
    (l < 2 → i ∈ s.streams 0 → l ∈ s.legs 0 i → s.on (upFld i l) = true →
      ∃ t, Machine.exec (.legTimeout i l) s = .next t ∧ s.sameButEvents { t with holdoff := s.holdoff } ∧ t.on (upFld i l) = false ∧
        t.bit STRM.INT STRM.INT_LEG_DOWN = true) ∧
    (s.barred 0x0509 r = none → c ≤ 255 → blk < 2 ^ 192 →
      ∃ t, Machine.exec (.am824CsSet r [⟨1, 2, i⟩, ⟨2, 2, c⟩, ⟨3, 24, blk⟩]) s = .next t ∧ s.records t r 0x0509 (Reply.ok []) ∧
        t = { s with strm := t.strm, cmd := t.cmd } ∧ t.csBlock i c = ((s.csBlock i c).1, some (le 24 blk)))

/-- R159 to R181. `f` is the oldest packet of its direction in Hammer `h`; no seal failure is injected. -/
def Obligations.PacketsPlacedAndSent : Prop :=
  ∀ (s : State) (h i p m d : Nat) (f : Flight) (x : RxRun) (y : TxRun) (g : LaunchFrame) (rest : List LaunchFrame) (raw : Int) (rows : List (Nat × Option Nat)) (ce : List Nat),
    s.held = [] →
    let dir := fun (k : Nat) => s.strm.flights.find? (fun f => f.hammer == h && f.dir == k) = some f
    let valid := s.on TIME.STATUS_MEDIA_VALID = true
    let run := s.runOf f = some x ∧ x.stream = f.stream ∧ x.closing = false ∧ f.crc = crc32c f.payload ∧ valid
    let rtp := rtpOf (udpPayload f.payload (headers f.payload))
    let e := s.entry 0 f.stream
    let mt := s.packetTime f.stream e.k f.stamp rtp.ts
    let cmp := s.on (RXE.COMPARE f.stream)
    let a := s.placeFrames f.stream e cmp (s.get (RXE.EARLY_WIN f.stream)) s.media (s.fetchD (s.get (RXE.GROUP f.stream))) (fun _ => false)
      ⟨if cmp then (x.ring.compareUe e.ch mt []).1 else x.ring, x.cs, 0, 0, 0, none⟩ mt (sampleFrames e.enc e.ch e.spp rtp.pay)
    let stale := fun (o : LaunchFrame) => decide (o.launch + s.packetNs o.stream ≤ s.nowNs)
    (dir 0 → run → s.injecting 0 = false → s.rtpOk f.stream rtp = false →
      ∃ t, Machine.exec (.placeCommit h false rows ce) s = .next t ∧ t.strm.flights = s.strm.flights.erase f ∧ t.strm.rx = s.strm.rx ∧
        t.get (RXC.RTP_ERR f.stream f.leg) = (s.get (RXC.RTP_ERR f.stream f.leg) + 1) % 2 ^ 32 ∧ t = { s with regs := t.regs, strm := t.strm }) ∧
    (dir 0 → run → s.injecting 0 = false → s.rtpOk f.stream rtp = true → (x.leg f.leg).seq = none → (x.leg f.leg).ssrc = none →
      s.on (upFld f.stream f.leg) = true →
      (mt + e.spp - 1) / (e.k : Int) ≤ s.media + s.get (RXE.EARLY_WIN f.stream) → 0 < a.wrote → a.mism = 0 →
      ∃ t z, Machine.exec (.placeCommit h false [] []) s = .next t ∧ t.strm.flights = s.strm.flights.erase f ∧ z ∈ t.strm.rx ∧
        z.stream = f.stream ∧ z.ring = a.ring ∧ (z.leg f.leg).seq = some rtp.seq ∧ t.on (RXE.PLACED_ONCE f.stream) = true ∧
        t.get (RXC.PLACED f.stream f.leg) = (s.get (RXC.PLACED f.stream f.leg) + 1) % 2 ^ 32 ∧ t = { s with regs := t.regs, strm := t.strm }) ∧
    (s.streams 0 = [i] → s.rxRun i = some x → x.maxB = none → s.on (RXE.PLACED_ONCE i) = true → s.on (RXE.STARVED i) = false →
      s.injecting 1 = false → d = s.fetchD (s.get (RXE.GROUP i)) → d ≤ s.media + 1 →
      let k := (s.entry 0 i).k
      let got := s.fetchPeriod ((List.range k).map (fun j => (k * (s.media + 1 - d) + j, ([], false)))) x
      got.2.1 = 0 →
      ∃ t, Machine.exec (.presentFetch [] [] []) s = .next t ∧ t.anvil.net =
        s.anvil.net.filter (fun f => f.pass == s.media) ++ [⟨s.media + 1, i, s.media + 1 - d, got.1⟩]) ∧
    (s.txRun i = some y → y.nextM = some m → y.stopAt = none → y.stream = i → s.on TIME.STATUS_MEDIA_VALID = true →
      s.anvil.ran = some p → (m + (s.entry 1 i).spp - 1) / (s.entry 1 i).k ≤ p → (∀ l ∈ s.liveLegs 1 i, s.held8 (s.txHammer i l) = false) →
      s.injecting 8 = false → s.seals.marks = [] →
      (∀ r ∈ s.packetRows i m, (s.stageLost r.1 r.2 || s.stageWrong r.1 r.2 || s.anvil.rowUe.contains r) = false) →
      ∃ t, Machine.exec (.scheduleGather i [] [] []) s = .next t ∧ t.strm.flights.length = s.strm.flights.length + (s.liveLegs 1 i).length ∧
        t.txRun i = some { y with nextM := some (m + (s.entry 1 i).spp), seq := (y.seq + 1) % 65536 } ∧
        t.get (TXC.PACKETS i) = (s.get (TXC.PACKETS i) + 1) % 2 ^ 32) ∧
    (dir 1 → valid → s.get (TXE.LEG_PORT f.stream f.leg) = p → p < 2 → s.on (PORT.LINK_UP p) = true → s.legMac f.stream f.leg ≠ 0 →
      (s.streamFrame f.stream f.leg f.payload).length + 4 ≤ lenEff (s.get (PORT.TX_MAX_LEN p)) →
      ((s.port p).stream.map (fun y => y.bytes.length + 4)).sum + (s.streamFrame f.stream f.leg f.payload).length + 4 ≤ 65536 →
      ∃ t, Machine.exec (.txPacketFrame h) s = .next t ∧ t.strm.flights = s.strm.flights.erase f ∧ (t.port p).stream =
        insertLaunch ⟨s.launchNs f.stream f.m, f.stream, f.leg, s.streamFrame f.stream f.leg f.payload, f.crc⟩ (s.port p).stream ∧
        t = { s with regs := t.regs, strm := t.strm, ports := t.ports }) ∧
    (p < 2 → valid → (s.port p).stream = g :: rest → g.wrong = false →
      raw + s.geti (TIME.PORT_TX_LAT p) - (g.launch : Int) * 65536 ≤ ((s.packetNs g.stream * 65536 : Nat) : Int) → s.on (PORT.LINK_UP p) = true → s.pausedStream p = false → s.mayDrive = true → s.injecting 13 = false →
      ∃ t, Machine.exec (.launchStamp p raw false) s = .next t ∧ (t.port p).stream = rest ∧
        (t.port p).sent = some (g.bytes ++ fcs g.bytes, raw + s.geti (TIME.PORT_TX_LAT p)) ∧
        t.get (TXC.SENT g.stream g.leg) = (s.get (TXC.SENT g.stream g.leg) + 1) % 2 ^ 32 ∧
        s.sameButEvents { t with ports := s.ports, holdoff := s.holdoff }) ∧
    (p < 2 → (s.port p).stream.filter stale = [g] → s.mayDrive = true →
      ∃ t, Machine.exec (.launchStale p) s = .next t ∧ (t.port p).stream = (s.port p).stream.filter (fun o => !stale o) ∧
        t = { s with regs := t.regs, ports := t.ports } ∧ (∀ k, k ≤ 3 → k ≠ p → t.port k = s.port k) ∧
        s.turns t (TXC.STALE g.stream g.leg) ((s.get (TXC.STALE g.stream g.leg) + 1) % 2 ^ 32))

/-- R184 to R189. ROLE: 0 WORKING, 1 SPARE, 2 TEST, 3 DRAIN, 4 QUARANTINED. -/
def Obligations.HammersFailAndHandOver : Prop :=
  ∀ (s : State) (r : Req) (h u j cause : Nat), h ≤ 16 → u ≤ 16 → j < 16 →
    let role := fun (t : State) (k : Nat) => t.get (STRM.HAMMER_ROLE k)
    let failed := fun (t : State) (c : Nat) => role t h = 4 ∧ t.get STRM.LASTF_HAMMER = h ∧ t.get STRM.LASTF_CAUSE = c ∧
      t.bit STRM.INT STRM.INT_LANE_FAULT = true ∧ t.strm.flights = s.strm.flights.filter (fun f => f.hammer != h) ∧
      t.cmd.inflight = s.cmd.inflight ∧
      (role s h = 0 → s.get (STRM.HAMMER_LANE h) = j → s.drainerOf j = none → s.spareOf 0 = some u → t.get (STRM.LANE_MAP j) = u ∧ role t u = 0)
    let answered := fun (t : State) (op : Nat) => (⟨r.channel, r.tag, op, Reply.ok []⟩ : Result) ∈ t.cmd.results
    (role s h ≠ 4 → s.strm.flights.any (fun f => f.hammer == h) = true →
      ∃ t, Machine.exec (.hammerWatchdog h) s = .next t ∧ failed t 1) ∧
    (role s h ≠ 4 → 1 ≤ cause → cause ≤ 5 → ∃ t, Machine.exec (.hammerFail h cause) s = .next t ∧ failed t cause) ∧
    (role s h ≠ 4 → s.barred 0x0507 r = none →
      ∃ t, Machine.exec (.laneQuarantine r [⟨1, 1, h⟩]) s = .next t ∧ failed t 4 ∧ answered t 0x0507) ∧
    (s.spareOf 0 = some u → role s u = 1 → s.get (STRM.LANE_MAP j) = h → role s h = 0 → (s.setRun 0).handover = false →
      ∃ t, Machine.exec (.laneHandover j) s = .next t ∧ t.get (STRM.LANE_MAP j) = u ∧ role t u = 0 ∧ role t h = 3 ∧
        t.get (STRM.HAMMER_LANE u) = j ∧ (t.setRun 0).handover = true ∧ t = { s with regs := t.regs, test := t.test }) ∧
    (role s h = 3 → s.strm.flights.any (fun f => f.hammer == h) = false → s.test.run = none → s.schedules = false →
      ∃ t, Machine.exec (.hammerDrainDone h) s = .next t ∧ role t h = 1 ∧ (t.setRun 0).handover = false ∧
        t = { s with regs := t.regs, test := t.test }) ∧
    (s.barred 0x0508 r = none → role s h = 4 → s.inService = true → s.passedSinceQ 0 h = true → (∀ k, k < 16 → s.get (STRM.LANE_MAP k) ≠ 0x1F) →
      s.spareOf 0 = none → (s.setRun 0).handover = false →
      ∃ t, Machine.exec (.laneRelease r [⟨1, 1, h⟩]) s = .next t ∧ role t h = 1 ∧ t.on STRM.STATUS_SPARE_OK = true ∧
        t.bit STRM.INT STRM.INT_RELEASED = true ∧ answered t 0x0508)

/-- R223: the operations on queue `q`. The entry handed over stands in `que.out`. The frame: every other queue but the EVENT queue, and
every register field outside the QUE block. -/
def Obligations.QueueOperations : Prop :=
  ∀ (s : State) (q : Nat), q ≤ 10 → (q = 0 → s.bellowsOf 0 = none) →
    let frame := fun t : State => s.sameButEvents t ∧ s.keepsBut t [] ∧ ∀ j, j ≠ q → j ≠ 0 → t.queue j = s.queue j
    let put := fun x : Queue => if s.absent 7 then x.loseSpill else x
    let x := s.queue q
    let sound := fun l : List QEntry => (∀ e ∈ l, e.lost = false) ∧ (s.absent 7 = true → l.length ≤ 32)
    let once := (s.queueCycle q).dropped = none
    (∀ it : QItem, s.hasRoom q (itemEntries it).length = true →
      ∃ t, Machine.exec (.queuePush q it) s = .next t ∧ frame t ∧ t.queue q = put { x with ready := x.ready ++ itemEntries it }) ∧
    (∀ (e : QEntry) (rest : List QEntry), x.ready = e :: rest → e.isGap = false → s.poppable q = true → sound rest →
      ∃ t, Machine.exec (.queuePop q) s = .next t ∧ frame t ∧ (q, e.cell) ∈ t.que.out ∧
        t.queue q = { x with ready := rest, popped := x.popped ++ [e] }) ∧
    (∀ (e : QEntry) (rest : List QEntry) (c f : Nat), x.ready = e :: rest → e.cell = .gap c f → s.poppable q = true → sound rest →
      ∃ t, Machine.exec (.queuePop q) s = .next t ∧ frame t ∧
        (q, if q = 0 then QCell.head ⟨s.gapRecord c f, []⟩ else QCell.gap c f) ∈ t.que.out ∧ t.queue q = { x with ready := rest }) ∧
    (∀ (e : QEntry) (rest : List QEntry), x.ready = e :: rest → e.isGap = false → x.mark = none → s.poppable q = true → once → sound rest →
      ∃ t, Machine.exec (.queuePopRel q) s = .next t ∧ frame t ∧ (q, e.cell) ∈ t.que.out ∧
        t.queue q = { x with ready := rest, popped := [] }) ∧
    (s.poppable q = false → x.mark = none → once → sound x.ready →
      ∃ t, Machine.exec (.queuePopRel q) s = .next t ∧ frame t ∧ t.queue q = { x with popped := [] }) ∧
    (∃ t, Machine.exec (.queueMark q) s = .next t ∧ frame t ∧ t.queue q = put { x with mark := some x.popped.length }) ∧
    (∀ m, x.mark = some m →
      ∃ t, Machine.exec (.queueRewind q) s = .next t ∧ frame t ∧
        t.queue q = put { x with ready := x.popped.drop m ++ x.ready, popped := x.popped.take m }) ∧
    (once → sound x.ready →
      ∃ t, Machine.exec (.queueRelease q) s = .next t ∧ frame t ∧ t.queue q = { x with popped := [], mark := none })

/-- R225, R227, R228, R231 and R237: what does not go through the ordinary operations. -/
def Obligations.QueueOverflowAndSpill : Prop :=
  ∀ (s : State) (q : Nat), 0 < q → q ≤ 10 →
    let put := fun x : Queue => if s.absent 7 then x.loseSpill else x
    let group := ((s.queue q).ready.drop 16).take 16
    (∀ it : QItem, s.on (QUE.Q_EN q) = true → s.hasRoom q (itemEntries it).length = false →
      ∃ t, Machine.exec (.queuePush q it) s = .next t ∧ s.sameButEvents t ∧
        t.queue q = put ((s.queue q).markDrop s.shortTime) ∧ t.get (QUE.Q_DROP_CNT q) = (s.get (QUE.Q_DROP_CNT q) + 1) % 2 ^ 32) ∧
    (∀ it : QItem, s.on (QUE.Q_EN q) = false →
      ∃ t, Machine.exec (.queuePush q it) s = .next t ∧ t.queue q = s.queue q ∧
        s.sameButEvents t ∧ t.get (QUE.Q_DROP_CNT q) = (s.get (QUE.Q_DROP_CNT q) + 1) % 2 ^ 32) ∧
    (∀ (ue : Bool) (ce : List Nat), 32 < (s.queue q).ready.length → (ue || group.any QEntry.lost) = true → (ue = true → s.get QUE.UE_FAULT_N = 0) →
      ∃ t, Machine.exec (.spillRefill q ue ce) s = .next t ∧ s.sameButEvents t ∧ t.bit QUE.INT QUE.INT_SPILL_LOST = true ∧
        (group.any (fun e => !e.isGap) = true →
          t.get (QUE.Q_SPILL_LOST q) = (s.get (QUE.Q_SPILL_LOST q) + (group.filter (fun e => !e.isGap)).length) % 2 ^ 32)) ∧
    (∃ t, Machine.exec (.peakOccRead q) s = .next t ∧ t = { s with rd := t.rd, regs := t.regs } ∧
      t.rd = s.get (QUE.Q_PEAK_OCC q) ∧ t.get (QUE.Q_PEAK_OCC q) = (s.queue q).occ % 2 ^ 16 ∧ s.keepsBut t []) ∧
    (∀ b, b < 8 → 8 ≤ s.cycles → s.on (QUE.BLW_EN b) = true → s.mayDrive = true →
      ∃ t, Machine.exec (.bellowsPinHold b) s = .next t ∧ s.sameButEvents t ∧ t.on (QUE.BLW_PIN b) = s.on (QUE.BLW_LIVE b))

/-- R227, R230 and R233: writes of the settings of queues and Bellows units. -/
def Obligations.QueueAndBellowsSettings : Prop :=
  ∀ (s : State) (r : Req) (q cap lvl b hi lo source : Nat) (v : Word),
    0 < q → q ≤ 10 → cap < 2 ^ 16 → lvl < 2 ^ 16 → b ≤ 7 → hi < 2 ^ 16 → lo < 2 ^ 16 →
    (s.barred 0x0123 r = none → s.on (QUE.Q_EN q) = false → s.capSum q true cap ≤ 65536 →
      ∃ t, Machine.exec (.queueSet r [⟨1, 1, q⟩, ⟨2, 1, 1⟩, ⟨3, 2, cap⟩, ⟨4, 2, lvl⟩]) s = .next t ∧
        s.records t r 0x0123 (Reply.ok []) ∧ s.sameUnits t ∧
        t.on (QUE.Q_EN q) = true ∧ t.get (QUE.Q_CAP q) = cap ∧ t.get (QUE.Q_LEVEL q) = lvl) ∧
    (s.barred 0x0123 r = none → s.on (QUE.Q_EN q) = false → 65536 < s.capSum q true cap →
      Machine.exec (.queueSet r [⟨1, 1, q⟩, ⟨2, 1, 1⟩, ⟨3, 2, cap⟩, ⟨4, 2, lvl⟩]) s =
        .next (s.finish r 0x0123 (Reply.err Status.noResource))) ∧
    (s.barred 0x0125 r = none → s.on (QUE.BLW_EN b) = false → s.boundElsewhere b q = false →
      ∃ t, Machine.exec (.bellowsSet r [⟨1, 1, b⟩, ⟨2, 1, 1⟩, ⟨3, 1, q⟩, ⟨4, 2, hi⟩, ⟨5, 2, lo⟩]) s = .next t ∧
        s.records t r 0x0125 (Reply.ok []) ∧ s.sameUnits t ∧
        t.on (QUE.BLW_EN b) = true ∧ t.get (QUE.BLW_QUEUE b) = q ∧ t.get (QUE.BLW_HI b) = hi ∧ t.get (QUE.BLW_LO b) = lo) ∧
    (s.busOpen (0x101000 + 0x40 * q) → s.on (QUE.Q_EN q) = false → s.capSum q (v.toNat.testBit 31) (v.toNat % 2 ^ 16) ≤ 65536 →
      ∃ t, Machine.exec (.queueEnWrite source q v) s = .next t ∧ s.sameButEvents t ∧
        t.on (QUE.Q_EN q) = v.toNat.testBit 31 ∧ t.get (QUE.Q_CAP q) = v.toNat % 2 ^ 16) ∧
    (s.busOpen (0x100800 + 0x20 * b) → s.on (QUE.BLW_EN b) = false → s.boundElsewhere b (v.toNat % 16) = false →
      ∃ t, Machine.exec (.bellowsEnWrite source b v) s = .next t ∧ s.sameButEvents t ∧
        t.on (QUE.BLW_EN b) = v.toNat.testBit 31 ∧ t.get (QUE.BLW_QUEUE b) = v.toNat % 16)

/-- R205, R206, R216 to R218, R220: ROLE reads 0 WORKING, 1 SPARE, 2 TEST, 3 COPY, 4 QUARANTINED. -/
def Obligations.BankFailureAndHandover : Prop :=
  ∀ (s : State) (r : Req) (h u cause i j ce : Nat) (ue : List Nat), h ≤ 8 → u ≤ 8 →
    let fails := fun (t : State) (c : Nat) => t.get (QUE.BANK_ROLE h) = 4 ∧ t.bit QUE.INT QUE.INT_BANK_FAULT = true ∧
      t.get QUE.LASTF_BANK = h ∧ t.get QUE.LASTF_CAUSE = c ∧ t.cmd.inflight = s.cmd.inflight ∧
      (s.get (QUE.BANK_ROLE h) = 0 → s.get (QUE.BANK_LBANK h) = j → j < 8 → s.que.handover = none → s.spareOf 1 = some u →
        t.get (QUE.BANK_MAP j) = u ∧ t.get (QUE.BANK_ROLE u) = 0 ∧ t.get (QUE.BANK_LBANK u) = j) ∧
      (s.get (QUE.BANK_ROLE h) = 0 → s.get (QUE.BANK_LBANK h) = j → j < 8 → s.que.handover = none → s.spareOf 1 = none →
        t.get (QUE.BANK_MAP j) = 0xF ∧ t.absent j = true)
    let answered := fun (t : State) (op : Nat) => t.cmd.results.getLast? = some ⟨r.channel, r.tag, op, Reply.ok []⟩
    let swapped := fun (t : State) (x : Handover) => t.que.handover = none ∧ t.get (QUE.BANK_ROLE x.src) = 1 ∧ t.get (QUE.BANK_ROLE x.dst) = 0 ∧
      t.get (QUE.BANK_MAP x.lbank) = x.dst ∧ t.get (QUE.BANK_LBANK x.dst) = x.lbank
    let ends := fun x : Handover => s.que.handover = some x ∧ x.src ≤ 8 ∧ x.dst ≤ 8 ∧ x.src ≠ x.dst ∧ x.lbank < 8 ∧ s.test.run = none ∧
      s.schedules = false
    (s.on QUE.SCRUB_EN = true → s.get (QUE.BANK_ROLE h) = 0 →
      ∃ t, Machine.exec (.scrubRead [h] []) s = .next t ∧ t = { s with regs := t.regs } ∧
        s.turns t (QUE.BANK_CE h) ((s.get (QUE.BANK_CE h) + 1) % 2 ^ 32)) ∧
    (s.on QUE.SCRUB_EN = true → s.get (QUE.BANK_ROLE h) = 0 → s.get QUE.UE_FAULT_N = 0 →
      ∃ t, Machine.exec (.scrubRead [] [h]) s = .next t ∧ t = { s with regs := t.regs, que := t.que } ∧
        s.turns t (QUE.BANK_UE h) ((s.get (QUE.BANK_UE h) + 1) % 2 ^ 32)) ∧
    (s.get (QUE.BANK_ROLE h) ≠ 4 → ∃ t, Machine.exec (.bankWatchdog h) s = .next t ∧ fails t 2) ∧
    (s.get (QUE.BANK_ROLE h) ≠ 4 → 1 ≤ cause → cause ≤ 4 → ∃ t, Machine.exec (.bankFailure h cause) s = .next t ∧ fails t cause) ∧
    (s.barred 0x0121 r = none → s.get (QUE.BANK_ROLE h) ≠ 4 →
      ∃ t, Machine.exec (.bankQuarantine r [⟨1, 1, h⟩]) s = .next t ∧ fails t 4 ∧ answered t 0x0121) ∧
    (s.barred 0x0121 r = none → s.get (QUE.BANK_ROLE h) = 4 →
      Machine.exec (.bankQuarantine r [⟨1, 1, h⟩]) s = .next (s.finish r 0x0121 (Reply.err Status.notInState))) ∧
    (s.spareOf 1 = some u → s.get (QUE.BANK_ROLE u) = 1 → s.get (QUE.BANK_ROLE h) = 0 → s.que.handover = none →
      ∃ t, Machine.exec (.bankHandover h) s = .next t ∧ t.get (QUE.BANK_ROLE u) = 3 ∧ t.on QUE.STATUS_HANDOVER = true ∧
        t.que.handover = some ⟨h, u, s.get (QUE.BANK_LBANK h), s.cycles, s.media, []⟩ ∧ s.keepsBut t []) ∧
    (∀ x : Handover, ends x → ∃ t, Machine.exec (.bankHandoverDone [] ce) s = .next t ∧ swapped t x ∧ s.keepsBut t []) ∧
    (∀ x : Handover, ends x → ue ≠ [] → s.get QUE.UE_FAULT_N = 0 →
      ∃ t, Machine.exec (.bankHandoverDone ue ce) s = .next t ∧ swapped t x ∧
        t.get (QUE.BANK_UE x.src) = (s.get (QUE.BANK_UE x.src) + ue.length) % 2 ^ 32) ∧
    (s.barred 0x0122 r = none → s.get (QUE.BANK_ROLE h) = 4 → s.inService = true → s.passedSinceQ 1 h = true →
      (∀ j, j < 8 → s.absent j = false) → s.spareOf 1 = none → s.que.handover = none →
      ∃ t, Machine.exec (.bankRelease r [⟨1, 1, h⟩]) s = .next t ∧ t.get (QUE.BANK_ROLE h) = 1 ∧ t.on QUE.STATUS_SPARE_OK = true ∧
        t.bit QUE.INT QUE.INT_BANK_RELEASED = true ∧ answered t 0x0122) ∧
    (s.barred 0x0122 r = none → s.get (QUE.BANK_ROLE h) = 4 → s.inService = true → s.passedSinceQ 1 h = true →
      (List.range 8).find? s.absent = some j →
      ∃ t, Machine.exec (.bankRelease r [⟨1, 1, h⟩]) s = .next t ∧ t.get (QUE.BANK_ROLE h) = 0 ∧ t.get (QUE.BANK_MAP j) = h ∧
        t.get (QUE.BANK_LBANK h) = j ∧ t.absent j = false ∧ t.bit QUE.INT QUE.INT_BANK_RELEASED = true ∧ answered t 0x0122) ∧
    (s.strm.flights.any (fun f => f.dir == 0 && f.stream == i && (f.seq == 1 || (s.rxRun i).isNone)) = false →
      ∃ t, Machine.exec (.ringPagesFree i) s = .next t ∧ t.strm.rx = s.strm.rx.filter (fun x => !(x.stream == i && x.closing)) ∧
        t.get QUE.POOL_FREE = (6144 - (t.strm.rx.map (fun x => x.ring.pages.length)).sum) % 2 ^ 13 ∧ s.keepsBut t [])

/-- R252 and R253: the commands of the seals. -/
def Obligations.SealSettings : Prop :=
  ∀ (s : State) (r : Req) (h ps i n : Nat), h < 256 → ps < 2 → i < 16 → 1 ≤ n → n < 256 →
    (s.barred 0x0131 r = none → s.playRuns = false →
      ∃ t, Machine.exec (.sealSet r [⟨1, 1, h⟩, ⟨2, 1, ps⟩]) s = .next t ∧ s.records t r 0x0131 (Reply.ok []) ∧
        t = { s with regs := t.regs, cmd := t.cmd } ∧ t.get SYS.SEAL_EVT_HOLDOFF = h ∧ t.get SYS.SEAL_PLAY_HOST_SEAL = ps ∧
        s.keepsBut t [SYS.SEAL_EVT_HOLDOFF, SYS.SEAL_PLAY_HOST_SEAL]) ∧
    (s.barred 0x0131 r = none → s.playRuns = true → ps ≠ s.get SYS.SEAL_PLAY_HOST_SEAL →
      Machine.exec (.sealSet r [⟨1, 1, h⟩, ⟨2, 1, ps⟩]) s = .next (s.finish r 0x0131 ⟨Status.notInState, 0, 2, 8, 0, [], []⟩)) ∧
    (s.barred 0x0132 r = none → s.inService = true → s.get SYS.SEAL_INJ_LEFT = 0 →
      ∃ t, Machine.exec (.sealInject r [⟨1, 1, i⟩, ⟨2, 1, n⟩]) s = .next t ∧ s.records t r 0x0132 (Reply.ok []) ∧
        t = { s with regs := t.regs, cmd := t.cmd } ∧
        t.get SYS.SEAL_INJ_POINT = i ∧ t.get SYS.SEAL_INJ_LEFT = n ∧ s.keepsBut t [SYS.SEAL_INJ_POINT, SYS.SEAL_INJ_LEFT]) ∧
    (s.barred 0x0132 r = none → s.inService = false ∨ 0 < s.get SYS.SEAL_INJ_LEFT →
      Machine.exec (.sealInject r [⟨1, 1, i⟩, ⟨2, 1, n⟩]) s = .next (s.finish r 0x0132 (Reply.err Status.notInState)))

/-- R275, R279, R370: an entry given whole in the listed order. -/
def Obligations.DirectCommandsCommit : Prop :=
  ∀ (s : State) (r : Req) (d src g n dith k i : Nat), d ≤ 6151 → src ≤ 8191 → n ≤ 1023 → dith ≤ 1 → k ≤ 1 → i < tblLimit k →
    (g < 2 ^ 23 ∨ (2 ^ 32 - 2 ^ 23 ≤ g ∧ g < 2 ^ 32)) → s.mirrors = false →
    let frame := fun (t : State) => t = { s with regs := t.regs, cmd := t.cmd, anvil := { s.anvil with commits := t.anvil.commits } }
    let added := fun (t : State) (e : TblEntry) =>
      frame t ∧ t.anvil.commits = s.anvil.commits ++ [⟨2, [e], s.cycles, s.duePass, r.channel, none, []⟩] ∧
        t.get CMD.DIRECT = (s.get CMD.DIRECT + 1) % 2 ^ 32
    let fast := fun (c : Instr) (op : Nat) (e : TblEntry) => s.isFast r = true →
      ((s.anvil.commits.filter (fun c => c.list == 2)).map (fun c => c.entries.length)).sum < 1024 →
      let f := (s.count CMD.DIRECT).future
      ((f.applyEntries f [e]).tblCheck.1 = 0 →
        ∃ t, Machine.exec c s = .next t ∧ added t e ∧ s.records t r op (Reply.ok (le 8 s.duePass)) ∧
          t.get ANVIL.DIRECT_OPS = (s.get ANVIL.DIRECT_OPS + 1) % 2 ^ 32 ∧ s.keepsBut t [CMD.DIRECT, ANVIL.DIRECT_OPS]) ∧
      ((f.applyEntries f [e]).tblCheck.1 ≠ 0 →
        ∃ t, Machine.exec c s = .next t ∧ added t e ∧ s.records t r op (Reply.err Status.internal) ∧ s.keepsBut t [CMD.DIRECT])
    let slow := fun (c : Instr) (op : Nat) (e : TblEntry) => s.isFast r = false →
      Machine.exec c s = .next { s with anvil := { s.anvil with commits := s.anvil.commits ++
        [⟨1, [e], s.cycles, s.duePass, r.channel, some ⟨r.channel, r.tag, op, Reply.ok (le 8 s.duePass)⟩, []⟩] } }
    let route := [⟨1, 2, d⟩, ⟨2, 2, src⟩, ⟨3, 4, g⟩, ⟨4, 2, n⟩, ⟨5, 1, dith⟩]
    let gain := [⟨1, 1, k⟩, ⟨2, 2, i⟩, ⟨3, 4, g⟩, ⟨4, 2, n⟩]
    let clear := [⟨1, 2, d⟩, ⟨2, 2, n⟩]
    let eRoute : TblEntry := ⟨0, d, 2 ^ 31 + dith * 2 ^ 30 + src, g % 2 ^ 24, n, false, none⟩
    let eGain : TblEntry := { s.entryBase k i with w1 := g % 2 ^ 24, w2 := n, clear := false, moved := none }
    let eClear : TblEntry := { s.entryBase 0 d with w2 := n, clear := true }
    (s.barred 0x0601 r = none →
      fast (.routeSet r route) 0x0601 eRoute ∧ slow (.routeSet r route) 0x0601 eRoute ∧
        fast (.directFastPath 0x0601 r route) 0x0601 eRoute) ∧
    (s.barred 0x0602 r = none →
      fast (.gainSet r gain) 0x0602 eGain ∧ slow (.gainSet r gain) 0x0602 eGain ∧ fast (.directFastPath 0x0602 r gain) 0x0602 eGain) ∧
    (s.barred 0x0603 r = none →
      fast (.routeClear r clear) 0x0603 eClear ∧ slow (.routeClear r clear) 0x0603 eClear ∧
        fast (.directFastPath 0x0603 r clear) 0x0603 eClear)

/-- R269, R278, R287: a bus's entry comes behind its terms. -/
def Obligations.FabricSettings : Prop :=
  ∀ (s : State) (r : Req) (b en tier src g n d dith i mode len rlen typ inc amp per : Nat), b ≤ 255 → en ≤ 1 → tier ≤ 3 → src ≤ 8191 →
    n ≤ 1023 → d ≤ 6151 → dith ≤ 1 → i ≤ 511 → mode ≤ 3 → len ≤ 1023 → rlen ≤ 1023 → typ ≤ 7 → inc < 2 ^ 32 → per < 2 ^ 16 →
    (g < 2 ^ 23 ∨ (2 ^ 32 - 2 ^ 23 ≤ g ∧ g < 2 ^ 32)) → (amp < 2 ^ 23 ∨ (2 ^ 32 - 2 ^ 23 ≤ amp ∧ amp < 2 ^ 32)) →
    let waits := fun (c : Instr) (op : Nat) (es : List TblEntry) =>
      Machine.exec c s = .next { s with anvil := { s.anvil with commits := s.anvil.commits ++
        [⟨1, es, s.cycles, s.duePass, r.channel, some ⟨r.channel, r.tag, op, Reply.ok []⟩, []⟩] } }
    let base := s.get (BUS.TERM_BASE b)
    let term : TblEntry := ⟨1, base, src, g % 2 ^ 24, n, false, none⟩
    let bus : TblEntry := ⟨2, b, en * 2 ^ 31 + tier * 2 ^ 24 + 2 ^ 16 + base, 0, 0, false, none⟩
    (s.barred 0x0604 r = none → s.anvil.commits = [] → s.mirrors = false → 1 ≤ s.get (BUS.TERM_COUNT b) →
      (s.applyEntries s [term, bus]).tblCheck.1 = 0 →
      waits (.busSet r [⟨1, 1, b⟩, ⟨2, 1, en⟩, ⟨3, 1, tier⟩, ⟨4, 2, src⟩, ⟨5, 4, g⟩, ⟨6, 2, n⟩]) 0x0604 [term, bus]) ∧
    (s.barred 0x0605 r = none → s.mirrors = false →
      waits (.fabricLoad r [⟨1, 2, d⟩, ⟨2, 1, en⟩, ⟨3, 2, src⟩, ⟨4, 4, g⟩, ⟨5, 2, n⟩, ⟨6, 1, dith⟩]) 0x0605
        [⟨0, d, en * 2 ^ 31 + dith * 2 ^ 30 + src, g % 2 ^ 24, n, false, none⟩]) ∧
    (∀ k x : Nat, k ≤ 63 → s.barred 0x0607 r = none → 3 ≤ x → x ≤ s.d80 → (x ≤ s.d20 ∨ s.units 0 ≤ 512) →
      s.anvil.align.any (fun a => a.group == k) = false →
      (s.groupStreams k).all (fun j => (s.rxRun j).all (fun y => decide (x + s.get (RXE.EARLY_WIN j) + 2 ≤ y.ring.len))) = true →
      ∃ t, Machine.exec (.alignSet r [⟨1, 1, k⟩, ⟨2, 2, x⟩]) s = .next t ∧ s.records t r 0x0607 (Reply.ok []) ∧
        t.anvil = { s.anvil with align := s.anvil.align ++ [⟨k, s.get (ANVIL.ALIGN_D k), x, s.duePass, none⟩] } ∧
        t = { s with regs := t.regs, cmd := t.cmd, anvil := t.anvil } ∧ s.turns t (ANVIL.ALIGN_D_TARGET k) x) ∧
    (s.barred 0x0608 r = none →
      ∃ t, Machine.exec (.concealSet r [⟨1, 2, i⟩, ⟨2, 1, mode⟩, ⟨3, 2, len⟩, ⟨4, 2, rlen⟩]) s = .next t ∧
        s.records t r 0x0608 (Reply.ok []) ∧ t = { s with regs := t.regs, held := t.held, cmd := t.cmd } ∧
        t.get (ANVIL.CONC_MODE i) = mode ∧ t.get (ANVIL.CONC_LEN i) = len ∧ t.get (ANVIL.CONC_RESUME_LEN i) = rlen ∧
        s.keepsBut t [ANVIL.CONC_MODE i, ANVIL.CONC_LEN i, ANVIL.CONC_RESUME_LEN i]) ∧
    (∀ k, k ≤ 15 → s.barred 0x0609 r = none →
      ∃ t, Machine.exec (.genSet r [⟨1, 1, k⟩, ⟨2, 1, en⟩, ⟨3, 1, typ⟩, ⟨4, 4, inc⟩, ⟨5, 4, amp⟩, ⟨6, 2, per⟩]) s = .next t ∧
        s.records t r 0x0609 (Reply.ok []) ∧ t = { s with regs := t.regs, held := t.held, cmd := t.cmd } ∧
        t.get (ANVIL.GEN_EN k) = en ∧ t.get (ANVIL.GEN_TYPE k) = typ ∧ t.get (ANVIL.GEN_INC k) = inc ∧
        t.get (ANVIL.GEN_AMPL k) = amp % 2 ^ 24 ∧ t.get (ANVIL.GEN_PERIOD k) = per ∧
        s.keepsBut t [ANVIL.GEN_EN k, ANVIL.GEN_TYPE k, ANVIL.GEN_INC k, ANVIL.GEN_AMPL k, ANVIL.GEN_PERIOD k])

/-- R275 to R277: `u` is the state whose commits have been taken. -/
def Obligations.HostBatchAndApplication : Prop :=
  ∀ (s : State) (source table i : Nat) (c : Commit), table < 3 → i < tblLimit table →
    let u : State := { s with anvil := { s.anvil with commits := [] } }
    let e : TblEntry := ⟨table, i, s.get (ANVIL.TBL_DATA 0), s.get (ANVIL.TBL_DATA 1), s.get (ANVIL.TBL_DATA 2), false, none⟩
    let due := s.anvil.commits = [c] ∧ c.due ≤ s.nextPass ∧ 0 < c.list ∧ c.more = [] ∧ c.reply = none ∧ s.cmd.inflight = []
    (s.busOpen 0x141000 →
      ∃ t, Machine.exec (.fabricTblRead source table i) s = .next t ∧ t = { s with regs := t.regs } ∧ t.get ANVIL.TBL_ERR = 0 ∧
        (∀ w, w < 4 → t.get (ANVIL.TBL_DATA w) = s.tblWord table i w % 2 ^ 32) ∧
        s.keepsBut t [ANVIL.TBL_ERR, ANVIL.TBL_TABLE, ANVIL.TBL_INDEX, ANVIL.TBL_DATA 0, ANVIL.TBL_DATA 1, ANVIL.TBL_DATA 2, ANVIL.TBL_DATA 3]) ∧
    (s.busOpen 0x141000 → s.on ANVIL.BATCH_COMMIT_PENDING = false → (putEntry s.anvil.host e).length ≤ 1024 →
      ∃ t, Machine.exec (.fabricTblAdd source table i) s = .next t ∧ t.anvil = { s.anvil with host := putEntry s.anvil.host e } ∧
        t = { s with regs := t.regs, anvil := t.anvil } ∧ t.get ANVIL.TBL_ERR = 0 ∧
        t.get ANVIL.BATCH_PEND_COUNT = (putEntry s.anvil.host e).length ∧
        s.keepsBut t [ANVIL.TBL_ERR, ANVIL.TBL_TABLE, ANVIL.TBL_INDEX, ANVIL.BATCH_PEND_COUNT]) ∧
    (s.busOpen 0x141004 → s.on ANVIL.BATCH_COMMIT_PENDING = false → s.anvil.host ≠ [] →
      ∃ t, Machine.exec (.batchCommit source) s = .next t ∧
        t.anvil = { s.anvil with commits := s.anvil.commits ++ [⟨0, s.anvil.host, s.cycles, s.duePass, 64, none, []⟩] } ∧
        t = { s with regs := t.regs, anvil := t.anvil } ∧ t.on ANVIL.BATCH_COMMIT_PENDING = true ∧
        t.get ANVIL.BATCH_APPLY_PASS_LO = s.duePass % 2 ^ 32 ∧ t.get ANVIL.BATCH_APPLY_PASS_HI = s.duePass / 2 ^ 32 % 2 ^ 32 ∧
        s.keepsBut t [ANVIL.BATCH_COMMIT_PENDING, ANVIL.BATCH_APPLY_PASS_LO, ANVIL.BATCH_APPLY_PASS_HI]) ∧
    (s.busOpen 0x141004 → s.on ANVIL.BATCH_COMMIT_PENDING = false →
      ∃ t, Machine.exec (.batchDiscard source) s = .next t ∧ t.anvil = { s.anvil with host := [] } ∧
        t = { s with regs := t.regs, anvil := t.anvil } ∧ s.turns t ANVIL.BATCH_PEND_COUNT 0) ∧
    (∀ d w0 w1 w2 : Nat, due → c.entries = [⟨0, d, w0, w1, w2, false, none⟩] → d < 6152 → eEn w0 = true → s.on (ROUTE.EN d) = false →
      s.tblCheck.1 = 0 →
      ∃ t, Machine.exec .batchApply s = .next t ∧ t = { u with regs := t.regs, anvil := { u.anvil with ramps := t.anvil.ramps } } ∧
        t.on (ROUTE.EN d) = true ∧ t.get (ROUTE.SRC d) = w0 % 8192 ∧ t.get (ROUTE.DITHER d) = w0 / 2 ^ 30 % 2 ∧
        t.get (ROUTE.GAIN d) = w1 % 2 ^ 24 ∧ t.get (ROUTE.RAMP d) = w2 % 1024 ∧
        t.ramp d = some ⟨d, 0, toSigned 24 (w1 % 2 ^ 24), w2 % 1024, 0, none, false⟩ ∧
        t.get ANVIL.BATCHES = (s.get ANVIL.BATCHES + 1) % 2 ^ 32 ∧
        s.keepsBut t [ROUTE.EN d, ROUTE.SRC d, ROUTE.DITHER d, ROUTE.GAIN d, ROUTE.RAMP d, ANVIL.BATCHES]) ∧
    (due → (u.applyEntries u c.entries).tblCheck.1 ≠ 0 →
      ∃ t, Machine.exec .batchApply s = .next t ∧ u.sameButEvents t ∧ t.bit ANVIL.INT ANVIL.INT_BATCH_REFUSED = true ∧
        t.get ANVIL.BATCH_REFUSED_CNT = (s.get ANVIL.BATCH_REFUSED_CNT + 1) % 2 ^ 32 ∧
        s.keepsBut t [ANVIL.INT, ANVIL.BATCH_REFUSED_CNT])

/-- R254, R258: the sources are those that the pass has staged, and the generators. -/
def Obligations.PassComputesRoutes : Prop :=
  ∀ (s : State) (f : PassFacts) (d : Nat), d < 6152 →
    (s.passesRun = true → s.anvil.ran ≠ some s.media →
      let u := (s.stagePass s.media f).2
      let vals := (s.stagePass s.media f).1 ++ (List.range 16).map (fun g => (6416 + g, u.generator g s.media))
      ∃ t, Machine.exec (.anvilPass f) s = .next t ∧ t.anvil.ran = some s.media ∧
        t.get ANVIL.LAST_PASS_LO = s.media % 2 ^ 32 ∧ t.get ANVIL.LAST_PASS_HI = s.media / 2 ^ 32 % 2 ^ 32 ∧
        (f.rows = [] → f.residues = [] → f.fails = [] → u.injecting 2 = false → u.on ANVIL.STATUS_STOPPED = false → u.buses = [] → u.Canonical →
          srcVal [] t.anvil.dest d =
            if u.get (ROUTE.EN d) = 1 then (mulGain (srcVal [] vals (u.get (ROUTE.SRC d))) (u.gainNow d)).1 else 0)) ∧
    (s.anvil.ran = some s.media → Machine.exec (.anvilPass f) s = .next s)

/-- R282 to R285: ROLE reads 0 WORKING, 1 SPARE, 2 TEST, 4 QUARANTINED. -/
def Obligations.ArithmeticUnitsFailAndReturn : Prop :=
  ∀ (s : State) (r : Req) (u v cause j : Nat), u ≤ 16 → 1 ≤ cause → cause ≤ 4 → j < 16 →
    let taken := fun (t : State) (cause : Nat) =>
      t.get (ANVIL.MU_ROLE u) = 4 ∧ t.get (ANVIL.MU_ROLE v) = 0 ∧ t.get (ANVIL.MU_LUNIT v) = s.get (ANVIL.MU_LUNIT u) % 16 ∧
        t.get (ANVIL.UNIT_MAP (s.get (ANVIL.MU_LUNIT u))) = v ∧ t.get ANVIL.LASTF_UNIT = u ∧ t.get ANVIL.LASTF_CAUSE = cause ∧
        t.get (ANVIL.MU_FAULTS u) = (s.get (ANVIL.MU_FAULTS u) + 1) % 2 ^ 32 ∧ t.bit ANVIL.INT ANVIL.INT_MU_FAULT = true
    let spared := s.get (ANVIL.MU_ROLE u) = 0 ∧ s.spareOf 2 = some v ∧ s.get (ANVIL.MU_LUNIT u) < 16
    (spared → ∃ t, Machine.exec (.muFailure u cause) s = .next t ∧ taken t cause) ∧
    (spared → s.barred 0x060B r = none →
      ∃ t, Machine.exec (.muQuarantine r [⟨1, 1, u⟩]) s = .next t ∧ taken t 4 ∧
        t.cmd.results.getLast? = some ⟨r.channel, r.tag, 0x060B, Reply.ok []⟩) ∧
    (s.get (ANVIL.MU_ROLE u) = 4 → s.barred 0x060B r = none →
      Machine.exec (.muQuarantine r [⟨1, 1, u⟩]) s = .next (s.finish r 0x060B (Reply.err Status.notInState))) ∧
    (s.spareOf 2 = some v → s.get (ANVIL.MU_ROLE v) = 1 → s.get (ANVIL.UNIT_MAP j) = u → u ≠ v → s.anvil.handed ≠ some s.nextPass →
      s.test.run = none → s.schedules = false →
      ∃ t, Machine.exec (.muHandover j) s = .next t ∧ t = { s with regs := t.regs, anvil := { s.anvil with handed := some s.nextPass } } ∧ t.get (ANVIL.MU_ROLE u) = 1 ∧
        t.get (ANVIL.MU_ROLE v) = 0 ∧ t.get (ANVIL.MU_LUNIT v) = j ∧ t.get (ANVIL.UNIT_MAP j) = v ∧
        s.keepsBut t [ANVIL.MU_ROLE u, ANVIL.MU_LUNIT u, ANVIL.MU_ROLE v, ANVIL.MU_LUNIT v, ANVIL.UNIT_MAP j]) ∧
    (s.anvil.handed = some s.nextPass → Machine.exec (.muHandover j) s = .next s) ∧
    (s.barred 0x060C r = none → s.get (ANVIL.MU_ROLE u) = 4 → s.inService = true → s.passedSinceQ 2 u = true →
      s.get ANVIL.STATUS_WORKING = 16 → s.spareOf 2 = none →
      ∃ t, Machine.exec (.muRelease r [⟨1, 1, u⟩]) s = .next t ∧ t.get (ANVIL.MU_ROLE u) = 1 ∧ t.on ANVIL.STATUS_SPARE_OK = true ∧
        t.passedSinceQ 2 u = false ∧ t.bit ANVIL.INT ANVIL.INT_MU_RELEASED = true ∧
        t.cmd.results.getLast? = some ⟨r.channel, r.tag, 0x060C, Reply.ok []⟩) ∧
    (s.barred 0x060C r = none → s.get (ANVIL.MU_ROLE u) = 4 → s.inService = true → s.passedSinceQ 2 u = true →
      s.get ANVIL.STATUS_WORKING = j →
      ∃ t, Machine.exec (.muRelease r [⟨1, 1, u⟩]) s = .next t ∧ t.get (ANVIL.MU_ROLE u) = 0 ∧ t.get (ANVIL.MU_LUNIT u) = j ∧
        t.get (ANVIL.UNIT_MAP j) = u ∧ t.get ANVIL.STATUS_WORKING = j + 1 ∧ t.passedSinceQ 2 u = false ∧
        t.cmd.results.getLast? = some ⟨r.channel, r.tag, 0x060C, Reply.ok []⟩)

/-- R309, R318, R319: the masks in force (…_NOW) change at a frame boundary only. -/
def Obligations.SerialPortSettings : Prop :=
  ∀ (s : State) (r : Req) (g m src rate fam lead echo offer tol p a b : Nat) (late : Bool) (source i : Nat) (v : Word),
    g < 4 → m < 4 → src < 4 → rate < 4 → fam < 2 → lead < 8 → echo < 2 → offer < 2 → tol < 2 ^ 16 → p < 32 → a < 2 ^ 32 → b < 2 ^ 32 → i < 3 →
    let follow := List.flatten [(List.range 32).map TDM.P_CFG_ERR, (List.range 4).map TDM.G_ASRC_CH]
    let asked := fun (t : State) (l : List Nat) => ∀ k, k ∈ l → nth (t.tdmPort p).pend k none = some (s.maskFrame p late)
    (s.barred 0x0701 r = none → s.tdmGroupIdle g = true → s.underRun 3 g = false →
      (s.tdmOffered g = true → offer = 1 ∧ 2 ≤ m ∧ 2 ≤ s.get (TDM.G_MODE g)) →
      ∃ t, Machine.exec (.tdmGroupSet r [⟨1, 1, g⟩, ⟨2, 1, m⟩, ⟨3, 1, src⟩, ⟨4, 1, rate⟩, ⟨5, 1, fam⟩, ⟨6, 1, lead⟩, ⟨7, 1, echo⟩, ⟨8, 1, offer⟩,
          ⟨9, 2, tol⟩]) s = .next t ∧ s.records t r 0x0701 (Reply.ok []) ∧
        s.sameButEvents { t with tdm := s.tdm, cmd := s.cmd } ∧
        t.get (TDM.G_MODE g) = m ∧ t.get (TDM.G_CLK_SRC g) = src ∧ t.get (TDM.G_RATE g) = rate ∧ t.get (TDM.G_FAMILY g) = fam ∧
        t.get (TDM.G_LEAD g) = lead ∧ t.get (TDM.G_ECHO g) = echo ∧ t.get (TDM.G_OFFER g) = offer ∧ t.get (TDM.G_RATE_TOL g) = tol ∧
        (2 ≤ m → s.get (TDM.G_MODE g) < 2 → t.get (TDM.G_CLK_STATE g) = 1) ∧
        (m < 2 → 2 ≤ s.get (TDM.G_MODE g) → t.get (TDM.G_CLK_STATE g) = 0) ∧
        (∀ q, q < 32 → t.on (TDM.P_CFG_ERR q) = t.tdmCfgErr q) ∧
        s.keepsBut t (List.flatten [follow, [TDM.G_MODE g, TDM.G_CLK_SRC g, TDM.G_RATE g, TDM.G_FAMILY g, TDM.G_LEAD g, TDM.G_ECHO g,
          TDM.G_OFFER g, TDM.G_RATE_TOL g, TDM.G_CLK_STATE g, TDM.G_ASRC_STATE g, TDM.G_ASRC_UNLOCK g, TDM.G_IN_FILL g, TDM.G_OUT_FILL g, TDM.INT]])) ∧
    (∀ fmt slots sw wl del fsw fsp bcp idle zc : Nat, fmt < 4 → slots < 64 → sw < 4 → wl < 4 → del < 2 → fsw < 4 → fsp < 2 → bcp < 2 →
      idle < 2 → zc < 1024 → s.barred 0x0702 r = none → s.get (TDM.P_STATE p) = 0 →
      ∃ t, Machine.exec (.tdmPortSet r [⟨1, 1, p⟩, ⟨2, 1, fmt⟩, ⟨3, 1, slots⟩, ⟨4, 1, sw⟩, ⟨5, 1, wl⟩, ⟨6, 1, del⟩, ⟨7, 1, fsw⟩, ⟨8, 1, fsp⟩,
          ⟨9, 1, bcp⟩, ⟨10, 1, idle⟩, ⟨11, 2, zc⟩]) s = .next t ∧ s.records t r 0x0702 (Reply.ok []) ∧
        t = { s with regs := t.regs, cmd := t.cmd } ∧
        t.get (TDM.P_FORMAT p) = fmt ∧ t.get (TDM.P_SLOTS p) = slots ∧ t.get (TDM.P_SW p) = sw ∧ t.get (TDM.P_WL p) = wl ∧
        t.get (TDM.P_DELAY p) = del ∧ t.get (TDM.P_FS_WIDTH p) = fsw ∧ t.get (TDM.P_FSYNC_POL p) = fsp ∧ t.get (TDM.P_BCLK_POL p) = bcp ∧
        t.get (TDM.P_TX_IDLE p) = idle ∧ t.get (TDM.P_ZC_TIMEOUT p) = zc ∧ (∀ q, q < 32 → t.on (TDM.P_CFG_ERR q) = t.tdmCfgErr q) ∧
        s.keepsBut t (List.flatten [follow, [TDM.P_FORMAT p, TDM.P_SLOTS p, TDM.P_SW p, TDM.P_WL p, TDM.P_DELAY p, TDM.P_FS_WIDTH p,
          TDM.P_FSYNC_POL p, TDM.P_BCLK_POL p, TDM.P_TX_IDLE p, TDM.P_ZC_TIMEOUT p]])) ∧
    ((s.tdmPort p).pend.length = 3 →
      (s.barred 0x0703 r = none → s.maskTooMany p a b = false →
        ∃ t, Machine.exec (.tdmMaskSet r [⟨1, 1, p⟩, ⟨2, 4, a⟩, ⟨3, 4, b⟩] late) s = .next t ∧
          t = { s with regs := t.regs, held := t.held, tdm := t.tdm, cmd := t.cmd } ∧
          t.get (TDM.P_RX_MASK p) = a ∧ t.get (TDM.P_TX_MASK p) = b ∧ t.on (TDM.P_MASK_PENDING p) = true ∧ asked t [0, 1] ∧
          s.keepsBut t [TDM.P_RX_MASK p, TDM.P_TX_MASK p, TDM.P_MASK_PENDING p, TDM.MASK_PENDING] ∧
          (s.get (TDM.P_STATE p) ≠ 2 → s.records t r 0x0703 (Reply.ok (le 4 0))) ∧
          (s.get (TDM.P_STATE p) = 2 →
            t.cmd = { s.cmd with waits := s.cmd.waits ++ [⟨r, 0x0703, 4, 1, [0], [p], [waiting], [0], [], 0, []⟩] })) ∧
      (s.barred 0x0703 r = none → s.maskTooMany p a b = true →
        Machine.exec (.tdmMaskSet r [⟨1, 1, p⟩, ⟨2, 4, a⟩, ⟨3, 4, b⟩] late) s = .next (s.finish r 0x0703 (Reply.err Status.noResource))) ∧
      (s.busOpen (0x181008 + 0x80 * p + 4 * i) →
        let many := s.maskTooMany p (if i = 0 then v.toNat else s.get (TDM.P_RX_MASK p)) (if i = 1 then v.toNat else s.get (TDM.P_TX_MASK p))
        (many = false →
          ∃ t, Machine.exec (.tdmMaskWrite source p i v late) s = .next t ∧ t = { s with regs := t.regs, held := t.held, tdm := t.tdm } ∧
            t.get (maskFld i p) = v.toNat ∧ asked t [i] ∧ t.on (TDM.P_MASK_PENDING p) = true ∧
            s.keepsBut t [maskFld i p, TDM.P_MASK_PENDING p, TDM.MASK_PENDING]) ∧
        (many = true → Machine.exec (.tdmMaskWrite source p i v late) s = .next (s.cfgReject source (maskFld i p).off))))

/-- R307: STATE reads 0 DISABLED, 1 STARTING, 2 RUNNING, 3 STOPPING, 4 HALTED. -/
def Obligations.SerialPortsStartAndStop : Prop :=
  ∀ (s : State) (r : Req) (p source : Nat) (v : Word), p < 32 →
    let was := s.get (TDM.P_PORT_EN p)
    let last := fun (t : State) (op kind st : Nat) =>
      t.cmd.waits.getLast? = some ⟨r, op, kind, 1, [p], [p], [st], [0], [was], 0, []⟩ ∧ t.cmd.results = s.cmd.results
    (s.barred 0x0704 r = none →
      (s.get (TDM.P_STATE p) = 0 → s.tdmCfgErr p = false → s.get (TDM.G_MODE (p / 8)) ≠ 0 → s.noStart 3 (p / 8) = false → s.tdmNoRoom p = false →
        ∃ t, Machine.exec (.tdmStart r [⟨1, 4, 2 ^ p⟩]) s = .next t ∧ last t 0x0704 0 waiting ∧ t.get (TDM.P_PORT_EN p) = 1 ∧
          t.get (TDM.P_STATE p) = 1 ∧ t.bit TDM.INT TDM.INT_PORT_STATE = true ∧ (t.tdmPort p).since = s.cycles) ∧
      (s.tdmCfgErr p = true →
        ∃ t, Machine.exec (.tdmStart r [⟨1, 4, 2 ^ p⟩]) s = .next t ∧ last t 0x0704 0 Status.badParam ∧
          t.get (TDM.P_STATE p) = s.get (TDM.P_STATE p) ∧ t.get (TDM.P_PORT_EN p) = was) ∧
      (s.tdmCfgErr p = false → s.get (TDM.G_MODE (p / 8)) = 0 ∨ s.noStart 3 (p / 8) = true →
        ∃ t, Machine.exec (.tdmStart r [⟨1, 4, 2 ^ p⟩]) s = .next t ∧ last t 0x0704 0 Status.notInState ∧
          t.get (TDM.P_STATE p) = s.get (TDM.P_STATE p) ∧ t.get (TDM.P_PORT_EN p) = was)) ∧
    (s.barred 0x0705 r = none → s.get (TDM.P_STATE p) = 2 →
      ∃ t, Machine.exec (.tdmStop r [⟨1, 4, 2 ^ p⟩]) s = .next t ∧ last t 0x0705 1 waiting ∧ t.get (TDM.P_PORT_EN p) = 0 ∧
        t.get (TDM.P_STATE p) = 3 ∧ (t.tdmPort p).run = false ∧ t.bit TDM.RUNNING p = false) ∧
    (s.busOpen (0x181000 + 0x80 * p) →
      (v.toNat.testBit 31 = true → s.get (TDM.P_STATE p) = 0 → s.noStart 3 (p / 8) = false → s.tdmConverts (p / 8) = false →
        s.get (TDM.G_MODE (p / 8)) ≠ 0 →
        ∃ t, Machine.exec (.tdmPortEnWrite source p v) s = .next t ∧ t.get (TDM.P_PORT_EN p) = 1 ∧
          t.get (TDM.P_FORMAT p) = v.toNat / 2 ^ 26 % 4 ∧ t.get (TDM.P_SLOTS p) = v.toNat % 64 ∧ t.get (TDM.P_WL p) = v.toNat / 2 ^ 12 % 4 ∧
          t.get (TDM.P_SW p) = v.toNat / 2 ^ 8 % 4 ∧ t.get (TDM.P_STATE p) = (if t.tdmCfgErr p then 0 else 1)) ∧
      (v.toNat.testBit 31 = false → s.get (TDM.P_STATE p) = 2 → s.on (TDM.P_PORT_EN p) = true →
        ∃ t, Machine.exec (.tdmPortEnWrite source p v) s = .next t ∧ t.get (TDM.P_PORT_EN p) = 0 ∧ t.get (TDM.P_STATE p) = 3 ∧
          (t.tdmPort p).run = false))

/-- R300: CLK_STATE reads 1 ABSENT, 2 CHECKING, 3 PRESENT; R305: ASRC_STATE reads 1 UNLOCKED, 2 ACQUIRE, 3 LOCKED. -/
def Obligations.SerialFramesAndClocks : Prop :=
  ∀ (s : State) (p g : Nat) (raw : List Nat) (badIn badOut : Bool) (rows : List Nat), p < 32 → g < 4 →
    let x := s.tdmPort p
    let next := fun (t : State) (f no : Nat) => t.get (TDM.P_FRAME_NO p) = no % 2 ^ 32 ∧ (t.tdmPort p).next = f + 1 ∧
      t.get (TDM.P_FRAMES p) = (s.get (TDM.P_FRAMES p) + 1) % 2 ^ 32
    let lost := fun (t : State) => t.get (TDM.G_CLK_STATE g) = 1 ∧ t.get (TDM.G_CLK_LOSS g) = (s.get (TDM.G_CLK_LOSS g) + 1) % 2 ^ 32 ∧
      t.bit TDM.INT TDM.INT_CLK_LOST = true ∧ (t.tdmGroup g).inBuf = [] ∧ (t.tdmGroup g).outBuf = []
    let follows := 2 ≤ s.get (TDM.G_MODE g)
    (s.get (TDM.P_STATE p) = 1 → s.tdmFirst p = true →
      ∃ t, Machine.exec (.tdmFrameOpen p raw badIn badOut rows) s = .next t ∧ next t 0 0 ∧ t.get (TDM.P_STATE p) = 2 ∧ t.bit TDM.RUNNING p = true) ∧
    (s.get (TDM.P_STATE p) = 2 →
      ∃ t, Machine.exec (.tdmFrameOpen p raw badIn badOut rows) s = .next t ∧ next t x.next (x.next - x.zero) ∧ t.get (TDM.P_STATE p) = 2 ∧
        (∀ i, i < s.tdmSlots p → 0 < x.next → x.pend = [none, none, none] →
          x.inG[i]? = some ⟨true, none⟩ → s.bit (TDM.P_RX_MASK_NOW p) i = true →
          (t.tdm.ins.find? (fun e => e.port == p && e.frame == s.frameKey p)).map (fun e => nth e.vals i 0) =
            some (s.sdiSample p (nth raw i 0) * ((2 ^ (33 - s.tdmWl p) : Nat) : Int)))) ∧
    (s.get (TDM.P_STATE p) = 3 → x.last = true →
      ∃ t, Machine.exec (.tdmFrameOpen p raw badIn badOut rows) s = .next t ∧ t.get (TDM.P_STATE p) = 0 ∧ (t.tdmPort p).sdo = []) ∧
    (let n := s.tdmSlots p
     let late := fun (l : List Gate) => ((l.take n).filter (fun y => y.overdue (x.next - 1) (s.get (TDM.P_ZC_TIMEOUT p)))).length
     s.get (TDM.P_STATE p) = 2 → 0 < late x.outG + late x.inG →
      ∃ t, Machine.exec (.tdmZcTimeout p) s = .next t ∧ t.bit TDM.INT TDM.INT_ZC_TIMEOUT = true ∧
        t.get (TDM.P_ZC_TIMEOUTS p) = (s.get (TDM.P_ZC_TIMEOUTS p) + (late x.outG + late x.inG)) % 2 ^ 32 ∧
        late (t.tdmPort p).outG = 0 ∧ late (t.tdmPort p).inG = 0) ∧
    (∀ bits : Nat, follows →
      (s.get (TDM.G_CLK_STATE g) = 1 →
        ∃ t, Machine.exec (.followerFrame g bits) s = .next t ∧ t = { s with regs := t.regs, tdm := t.tdm } ∧ s.turns t (TDM.G_CLK_STATE g) 2) ∧
      (s.get (TDM.G_CLK_STATE g) = 2 → bits = s.tdmBpf (s.tdmLead g) → 31 ≤ (s.tdmGroup g).valid → s.tdmInTol g (s.get (TDM.G_FS_MEAS g)) = true →
        ∃ t, Machine.exec (.followerFrame g bits) s = .next t ∧ t.get (TDM.G_CLK_STATE g) = 3 ∧ t.bit TDM.INT TDM.INT_CLK_OK = true) ∧
      (s.get (TDM.G_CLK_STATE g) = 3 → bits = s.tdmBpf (s.tdmLead g) →
        ∃ t, Machine.exec (.followerFrame g bits) s = .next t ∧ t = { s with regs := t.regs, tdm := t.tdm } ∧
          (t.tdmGroup g).frame = (s.tdmGroup g).frame + 1 ∧ (t.tdmGroup g).invalid = 0 ∧ s.keepsBut t [TDM.G_IN_FILL g, TDM.G_OUT_FILL g]) ∧
      (s.get (TDM.G_CLK_STATE g) = 3 → bits ≠ s.tdmBpf (s.tdmLead g) → 2 ≤ (s.tdmGroup g).invalid →
        ∃ t, Machine.exec (.followerFrame g bits) s = .next t ∧ lost t ∧
          t.get (TDM.P_FRAME_ERR (s.tdmLead g)) = (s.get (TDM.P_FRAME_ERR (s.tdmLead g)) + 1) % 2 ^ 32)) ∧
    (∀ cause : Nat, follows → cause < 2 → s.get (TDM.G_CLK_STATE g) = 3 → ∃ t, Machine.exec (.followerClockLoss g cause) s = .next t ∧ lost t) ∧
    (∀ meas : Nat, follows → meas < 2 ^ 32 → s.get (TDM.G_CLK_STATE g) = 3 →
      (s.tdmInTol g meas = true → Machine.exec (.fsMeasGate g meas) s = .next (s.set (TDM.G_FS_MEAS g) meas)) ∧
      (s.tdmInTol g meas = false →
        ∃ t, Machine.exec (.fsMeasGate g meas) s = .next t ∧ t.get (TDM.G_FS_MEAS g) = meas ∧ lost t)) ∧
    (∀ ratio : Nat, s.get (TDM.G_ASRC_STATE g) = 2 → ratioOk ratio = true →
      ∃ t, Machine.exec (.asrcLock g ratio) s = .next t ∧ s.sameButEvents t ∧ t.get (TDM.G_ASRC_STATE g) = 3 ∧ t.get (TDM.G_RATIO g) = ratio ∧
        t.bit TDM.INT TDM.INT_ASRC = true ∧ s.keepsBut t [TDM.G_ASRC_STATE g, TDM.G_RATIO g, TDM.INT]) ∧
    (∀ ratio : Nat, s.get (TDM.G_ASRC_STATE g) = 3 → ratioOk ratio = true →
      (max (s.get (TDM.G_RATIO g)) ratio - min (s.get (TDM.G_RATIO g)) ratio) * 1000000 ≤ 1000 * s.get (TDM.G_RATIO g) →
      Machine.exec (.asrcLock g ratio) s = .next (s.set (TDM.G_RATIO g) ratio)) ∧
    (s.get (TDM.G_ASRC_STATE g) = 3 →
      ∃ t, Machine.exec (.asrcUnlock g) s = .next t ∧ s.sameButEvents t ∧
        t.get (TDM.G_ASRC_STATE g) = (if s.tdmConverts g then (if s.tdmAvail g then 2 else 1) else 0) ∧
        t.get (TDM.G_ASRC_UNLOCK g) = (s.get (TDM.G_ASRC_UNLOCK g) + 1) % 2 ^ 32 ∧ t.bit TDM.INT TDM.INT_ASRC = true ∧
        s.keepsBut t [TDM.G_ASRC_STATE g, TDM.G_ASRC_UNLOCK g, TDM.INT])

/-- R329, R332, R346, R349. -/
def Obligations.AmplifierSettings : Prop :=
  ∀ (s : State) (r : Req) (n : Nat), n < 8 →
    let errs := (List.range 8).map AMP.CH_CFG_ERR
    let signed24 := fun (g : Nat) => g < 2 ^ 23 ∨ (2 ^ 32 - 2 ^ 23 ≤ g ∧ g < 2 ^ 32)
    let waits := fun (t : State) => { s.cmd with waits := t.cmd.waits }
    (s.isNi = true → ∀ p : List Tlv,
      Machine.exec (.ampFreqSet r p) s = .next (s.finish r 0x0801 (Reply.err Status.notInState)) ∧
      Machine.exec (.ampChSet r p) s = .next (s.finish r 0x0802 (Reply.err Status.notInState)) ∧
      Machine.exec (.ampCoefSet r p) s = .next (s.finish r 0x0803 (Reply.err Status.notInState)) ∧
      Machine.exec (.ampQuenchSet r p) s = .next (s.finish r 0x0808 (Reply.err Status.notInState))) ∧
    (s.isNi = false → s.ampAllIdle = true → s.barred 0x0801 r = none →
      (∀ lo hi pref step guard' : Nat, lo < 2048 → hi < 2048 → pref < 2048 → step < 256 → guard' < 2 ^ 16 →
        ∃ t, Machine.exec (.ampFreqSet r [⟨1, 2, lo⟩, ⟨2, 2, hi⟩, ⟨3, 2, pref⟩, ⟨4, 1, step⟩, ⟨5, 2, guard'⟩]) s = .next t ∧
          s.records t r 0x0801 (Reply.ok []) ∧ t = { s with regs := t.regs, cmd := t.cmd } ∧
          t.get AMP.P_MIN = lo ∧ t.get AMP.P_MAX = hi ∧ t.get AMP.P_PREF = pref ∧ t.get AMP.P_STEP = step ∧ t.get AMP.GUARD = guard' ∧
          s.keepsBut t [AMP.P_MIN, AMP.P_MAX, AMP.P_PREF, AMP.P_STEP, AMP.GUARD]) ∧
      (∃ t, Machine.exec (.ampFreqSet r [⟨10, 1, 1⟩]) s = .next t ∧ s.turns t AMP.FREQ_BUSY 1 ∧ t = { s with regs := t.regs, cmd := t.cmd } ∧
        t.cmd = { s.cmd with waits := s.cmd.waits ++ [⟨r, 0x0801, 5, 10, [0], [0], [waiting], [0], [], 0, []⟩] })) ∧
    (∀ (source : Nat) (v : Word), s.isNi = false → v.toNat.testBit 0 = true → s.busOpen 0x1A001C → s.ampAllIdle = true →
      ∃ t, Machine.exec (.freqSelRun source v) s = .next t ∧ t = { s with regs := t.regs } ∧ s.turns t AMP.FREQ_BUSY 1) ∧
    (s.isNi = false → s.on AMP.FREQ_BUSY = true →
      ∃ t, Machine.exec .freqSelectDone s = .next t ∧ t.on AMP.FREQ_BUSY = false ∧ t.bit AMP.INT AMP.INT_FREQ = true ∧
        (s.carriers = [] → t.get AMP.FREQ_CLEAR = 1 ∧ t.get AMP.FREQ_WORST = 0x1F ∧ t.get AMP.FREQ_SEL_MARGIN = 0x7FFFFFFF ∧
          t.get AMP.FREQ_SEL_P = clampNat (clampNat 320 1536 (s.get AMP.P_MIN)) (clampNat 320 1536 (s.get AMP.P_MAX)) (s.get AMP.P_PREF) % 2 ^ 11) ∧
        (t.get AMP.FREQ_CLEAR = 1 → ∃ p : Nat, t.get AMP.FREQ_SEL_P = p % 2 ^ 11 ∧
          ∀ c, c ∈ s.carriers → ((s.get AMP.GUARD * 100 * p : Nat) : Int) ≤ marginOf p c.2.1 c.2.2)) ∧
    (∀ md ph fa ff dt vg dm rn sn il rm cm sr zt mr dth dti om bc : Nat, md < 2 → ph < 8 → fa < 4 → ff < 256 → dt < 256 → signed24 vg →
      dm < 2 ^ 16 → rn < 16 → sn < 256 → il < 2 ^ 12 → rm < 2 ^ 16 → cm < 2 ^ 16 → sr < 2 ^ 12 → zt < 1024 → mr < 1024 → dth < 2 ^ 16 →
      dti < 2 ^ 16 → om < 256 → bc < 256 → s.isNi = false → s.barred 0x0802 r = none → s.ampIdle n = true →
      ∃ t, Machine.exec (.ampChSet r [⟨1, 1, n⟩, ⟨4, 1, md⟩, ⟨5, 1, ph⟩, ⟨6, 1, fa⟩, ⟨7, 1, ff⟩, ⟨8, 1, dt⟩, ⟨9, 4, vg⟩, ⟨10, 2, dm⟩, ⟨11, 1, rn⟩,
          ⟨12, 1, sn⟩, ⟨13, 2, il⟩, ⟨14, 2, rm⟩, ⟨15, 2, cm⟩, ⟨16, 2, sr⟩, ⟨17, 2, zt⟩, ⟨18, 2, mr⟩, ⟨19, 2, dth⟩, ⟨20, 2, dti⟩, ⟨21, 1, om⟩,
          ⟨22, 1, bc⟩]) s = .next t ∧ t = { s with regs := t.regs, cmd := t.cmd } ∧
        t.cmd = { waits t with results := s.cmd.results ++ [⟨r.channel, r.tag, 0x0802, Reply.ok []⟩] } ∧
        t.get (AMP.CH_MOD n) = md ∧ t.get (AMP.CH_PHASE n) = ph ∧ t.get (AMP.CH_FLT_ACTION n) = fa ∧ t.get (AMP.CH_FLT_FILT n) = ff ∧
        t.get (AMP.CH_DEADTIME n) = dt ∧ t.get (AMP.CH_VGAIN n) = vg % 2 ^ 24 ∧ t.get (AMP.CH_DMAX n) = dm ∧ t.get (AMP.CH_RETRY_N n) = rn ∧
        t.get (AMP.CH_SHORT_N n) = sn ∧ t.get (AMP.CH_ILIM n) = il ∧ t.get (AMP.CH_RETRY_MS n) = rm ∧ t.get (AMP.CH_CLEAR_MS n) = cm ∧
        t.get (AMP.CH_START_RAMP n) = sr ∧ t.get (AMP.CH_ZC_TIMEOUT n) = zt ∧ t.get (AMP.CH_MUTE_RAMP n) = mr ∧ t.get (AMP.CH_DC_THR n) = dth ∧
        t.get (AMP.CH_DC_TIME n) = dti ∧ t.get (AMP.CH_OFS_MAX n) = om ∧ t.get (AMP.CH_BOOT_CYC n) = bc ∧
        (∀ m, m < 8 → t.on (AMP.CH_CFG_ERR m) = t.ampCfgErr m) ∧ s.keepsBut t (List.flatten [errs, (ampChFlds n).map PFld.fld])) ∧
    (∀ (c : Nat → Nat) (kp ki ff : Nat), (∀ j, c j < 2 ^ 32) → kp < 2 ^ 32 → ki < 2 ^ 32 → signed24 ff → s.isNi = false → s.barred 0x0803 r = none →
      let flds := List.flatten [(List.range 15).map (AMP.CH_BQ n), [AMP.CH_KP_I n, AMP.CH_KI_I n, AMP.CH_FF n]]
      ∃ t, Machine.exec (.ampCoefSet r (List.flatten [[⟨1, 1, n⟩], (List.range 15).map (fun j => ⟨2 + j, 4, c j⟩),
          [⟨17, 4, kp⟩, ⟨18, 4, ki⟩, ⟨19, 4, ff⟩, ⟨22, 1, 1⟩]])) s = .next t ∧ t = { s with regs := t.regs, held := t.held, cmd := t.cmd } ∧
        t.cmd = { s.cmd with waits := s.cmd.waits ++ [⟨r, 0x0803, 6, 22, [0], [n], [waiting], [0], [], 0, []⟩] } ∧
        t.on (AMP.CH_COEF_PEND n) = true ∧ (∀ j, j < 15 → t.get (AMP.CH_BQ n j) = c j) ∧ t.get (AMP.CH_KP_I n) = kp ∧
        t.get (AMP.CH_KI_I n) = ki ∧ t.get (AMP.CH_FF n) = ff % 2 ^ 24 ∧ (∀ f, f ∈ flds → t.eff f = s.eff f) ∧
        s.keepsBut t (AMP.CH_COEF_PEND n :: flds)) ∧
    (∀ (source : Nat) (v : Word), s.isNi = false → v.toNat.testBit 0 = true → s.busOpen (0x1A0488 + 0x100 * n) →
      ∃ t, Machine.exec (.coefSwapWrite source n v) s = .next t ∧ t = { s with regs := t.regs, cmd := waits t } ∧ s.turns t (AMP.CH_COEF_PEND n) 1) ∧
    (s.isNi = false → s.on (AMP.CH_COEF_PEND n) = true → s.on AMP.STATUS_PWM_OK = true → (∀ h, h ∈ s.held → h.upd = .swap) →
      ∃ t, Machine.exec (.coefSwapApply n) s = .next t ∧ t = { s with regs := t.regs, held := t.held, amp := t.amp, cmd := waits t } ∧
        s.turns t (AMP.CH_COEF_PEND n) 0 ∧ (∀ j, j < 15 → t.eff (AMP.CH_BQ n j) = s.get (AMP.CH_BQ n j)) ∧
        t.eff (AMP.CH_KP_I n) = s.get (AMP.CH_KP_I n) ∧ t.eff (AMP.CH_KI_I n) = s.get (AMP.CH_KI_I n) ∧ t.eff (AMP.CH_FF n) = s.get (AMP.CH_FF n) ∧
        t.ampCh n = { s.ampCh n with bq := List.replicate 3 ⟨0, 0, 0, 0⟩, acc := 0 }) ∧
    (∀ i warn shut rec' dir gm : Nat, i < 4 → rec' < warn → warn < shut → shut < 2 ^ 16 → dir < 2 → signed24 gm → s.isNi = false →
      s.barred 0x0808 r = none → s.ampIdle (2 * i) = true → s.ampIdle (2 * i + 1) = true →
      ∃ t, Machine.exec (.ampQuenchSet r [⟨1, 1, i⟩, ⟨2, 2, warn⟩, ⟨3, 2, shut⟩, ⟨4, 2, rec'⟩, ⟨5, 1, dir⟩, ⟨6, 4, gm⟩]) s = .next t ∧
        s.records t r 0x0808 (Reply.ok []) ∧ t = { s with regs := t.regs, cmd := t.cmd } ∧ t.get (AMP.SEN_WARN i) = warn ∧
        t.get (AMP.SEN_SHUT i) = shut ∧ t.get (AMP.SEN_REC i) = rec' ∧ t.get (AMP.SEN_DIR i) = dir ∧ t.get (AMP.SEN_G_MIN i) = gm % 2 ^ 24 ∧
        s.keepsBut t (List.flatten [errs, [AMP.SEN_WARN i, AMP.SEN_SHUT i, AMP.SEN_REC i, AMP.SEN_DIR i, AMP.SEN_G_MIN i]]))

/-- R333: STATE reads 0 OFF, 1 START, 2 RUN, 3 STOPPING, 4 SHORT, 5 LOCKOUT, 6 THERMAL, 7 HALTED. -/
def Obligations.AmplifierChannels : Prop :=
  ∀ (s : State) (r : Req) (n source : Nat) (v : Word), n < 8 → s.isNi = false →
    let c := s.ampCh n
    let st := s.ampState n
    let moved := fun (t : State) (x : Nat) => t.ampState n = x ∧ t.bit AMP.INT AMP.INT_STATE = true
    let mayStart := st = 0 ∧ s.on AMP.STATUS_PWM_OK = true ∧ s.noStart 4 n = false ∧ s.boot.down.contains (4, n) = false
    let last := fun (t : State) (op kind was x : Nat) =>
      t.cmd.waits.getLast? = some ⟨r, op, kind, 1, [n], [n], [x], [0], [was], 0, []⟩ ∧ t.cmd.results = s.cmd.results
    let en := s.get (AMP.CH_EN n)
    let mute := s.get (AMP.CH_MUTE n)
    (s.barred 0x0804 r = none → mayStart → s.ampCfgErr n = false →
      ∃ t, Machine.exec (.ampStart r [⟨1, 1, 2 ^ n⟩]) s = .next t ∧ last t 0x0804 2 en waiting ∧ moved t 1 ∧ t.get (AMP.CH_EN n) = 1 ∧
        (t.ampCh n).phase = 0) ∧
    (s.busOpen (0x1A0400 + 0x100 * n) → v.toNat.testBit 31 = true → en = 0 → mayStart →
      ∃ t, Machine.exec (.ampEnWrite source n v) s = .next t ∧ t.get (AMP.CH_EN n) = 1 ∧ t.get (AMP.CH_MUTE n) = v.toNat / 2 ^ 30 % 2 ∧
        t.get (AMP.CH_DEADTIME n) = v.toNat % 256 ∧ t.ampState n = (if t.ampCfgErr n then 0 else 1)) ∧
    (s.busOpen (0x1A0400 + 0x100 * n) → v.toNat.testBit 31 = false → en = 1 → st = 2 →
      ∃ t, Machine.exec (.ampEnWrite source n v) s = .next t ∧ t.get (AMP.CH_EN n) = 0 ∧ moved t 3 ∧ t.get (AMP.CH_RETRY_CNT n) = 0) ∧
    (s.barred 0x0805 r = none →
      (st = 2 → ∃ t, Machine.exec (.ampStop r [⟨1, 1, 2 ^ n⟩]) s = .next t ∧ last t 0x0805 3 en waiting ∧ moved t 3 ∧ t.get (AMP.CH_EN n) = 0) ∧
      (st = 1 → ∃ t, Machine.exec (.ampStop r [⟨1, 1, 2 ^ n⟩]) s = .next t ∧ last t 0x0805 3 en 0 ∧ moved t 0 ∧ t.get (AMP.CH_EN n) = 0)) ∧
    (st = 1 → c.phase = 0 → 0 < c.calN → c.calV.natAbs ≤ 32767 * (c.calN * 131072) → c.calI.natAbs ≤ 32767 * (c.calN * 131072) →
      let lim := s.get (AMP.CH_OFS_MAX n) * 128
      let near := fun (x sum : Int) => (x * ((c.calN * 131072 : Nat) : Int) - sum).natAbs < c.calN * 131072
      ∃ t, Machine.exec (.ampCalibrationDone n) s = .next t ∧
        near (t.geti (AMP.CH_OFS_V n)) c.calV ∧ near (t.geti (AMP.CH_OFS_I n)) c.calI ∧
        ((t.geti (AMP.CH_OFS_V n)).natAbs ≤ lim → (t.geti (AMP.CH_OFS_I n)).natAbs ≤ lim →
          t.ampState n = 1 ∧ t.ampCh n = { c with phase := 1 } ∧ s.keepsBut t [AMP.CH_OFS_V n, AMP.CH_OFS_I n]) ∧
        (lim < (t.geti (AMP.CH_OFS_V n)).natAbs ∨ lim < (t.geti (AMP.CH_OFS_I n)).natAbs →
          moved t 5 ∧ t.get (AMP.CH_CAUSE n) = 4 ∧ t.get (AMP.CH_LOCKOUTS n) = (s.get (AMP.CH_LOCKOUTS n) + 1) % 2 ^ 32 ∧
          t.get (AMP.CH_DC_FAULTS n) = (s.get (AMP.CH_DC_FAULTS n) + 1) % 2 ^ 32)) ∧
    (st = 1 → c.phase = 1 →
      let h := halfSteps (s.ampPeriod n)
      let leg := Leg.start h (2 * h * max 1 (s.get (AMP.CH_BOOT_CYC n)))
      ∃ t, Machine.exec (.ampBootDone n) s = .next t ∧ t.ampState n = 1 ∧
        t.ampCh n = { c with phase := 2, updates := 0, legA := leg, legB := if s.on (AMP.CH_MOD n) then leg else { leg with first := false } } ∧
        t.get (AMP.CH_RESTARTS n) = (s.get (AMP.CH_RESTARTS n) + 1) % 2 ^ 32 ∧
        s.keepsBut t [AMP.CH_RESTARTS n, AMP.STATUS_LOCKED_OUT, AMP.STATUS_SWITCHING]) ∧
    (st = 1 → c.phase = 2 → ∃ t, Machine.exec (.ampRampDone n) s = .next t ∧ moved t 2 ∧ t.ampCh n = c ∧
      s.keepsBut t [AMP.CH_STATE n, AMP.STATUS_LOCKED_OUT, AMP.STATUS_SWITCHING, AMP.INT]) ∧
    (st = 3 → c.gain = 0 → ∃ t, Machine.exec (.ampStopDone n) s = .next t ∧ moved t 0) ∧
    (s.barred 0x0806 r = none →
      (st = 0 → c.wait = none → ∀ x, x < 2 →
        ∃ t, Machine.exec (.ampMute r [⟨1, 1, 2 ^ n⟩, ⟨2, 1, x⟩]) s = .next t ∧ last t 0x0806 7 mute 0 ∧ t.get (AMP.CH_MUTE n) = x) ∧
      (st = 2 → mute = 0 → c.therm = none → c.g1 ≠ 0 →
        ∃ t, Machine.exec (.ampMute r [⟨1, 1, 2 ^ n⟩, ⟨2, 1, 1⟩]) s = .next t ∧ t.get (AMP.CH_MUTE n) = 1 ∧
          (s.get (AMP.CH_ZC_TIMEOUT n) = 0 → last t 0x0806 7 mute 0 ∧
            t.ampCh n = { c with g0 := c.gain, g1 := 0, n := s.get (AMP.CH_MUTE_RAMP n), k := 0, wait := none }) ∧
          (s.get (AMP.CH_ZC_TIMEOUT n) ≠ 0 → last t 0x0806 7 mute waiting ∧ t.ampCh n = { c with wait := some s.media } ∧
            t.on (AMP.CH_ZC_WAIT n) = true))) ∧
    (s.busOpen (0x1A0400 + 0x100 * n) → v.toNat.testBit 31 = false → en = 0 → st = 0 →
      ∃ t, Machine.exec (.ampMuteWrite source n v) s = .next t ∧ t.get (AMP.CH_MUTE n) = v.toNat / 2 ^ 30 % 2 ∧ t.ampState n = 0) ∧
    (s.busOpen (0x1A0400 + 0x100 * n) → v.toNat.testBit 31 = true → v.toNat.testBit 30 = true → en = 1 → st = 2 → mute = 0 → c.therm = none →
      c.g1 ≠ 0 → s.get (AMP.CH_ZC_TIMEOUT n) = 0 →
      ∃ t, Machine.exec (.ampMuteWrite source n v) s = .next t ∧ t.get (AMP.CH_MUTE n) = 1 ∧ t.ampState n = 2 ∧ (t.ampCh n).g1 = 0 ∧
        (t.ampCh n).g0 = c.gain ∧ (t.ampCh n).k = 0) ∧
    (c.wait.isSome = true → ∃ t, Machine.exec (.ampZcTimeout n) s = .next t ∧ (t.ampCh n).wait = none ∧ (t.ampCh n).g1 = s.muteTarget n ∧
      t.get (AMP.CH_ZC_TIMEOUTS n) = (s.get (AMP.CH_ZC_TIMEOUTS n) + 1) % 2 ^ 32 ∧ t.bit AMP.INT AMP.INT_ZC_TIMEOUT = true) ∧
    (st = 5 → s.on AMP.STATUS_PWM_OK = true →
      let goes := if s.ampMayStart n then 1 else 0
      (s.barred 0x0807 r = none →
        ∃ t, Machine.exec (.ampUnlock r [⟨1, 1, 2 ^ n⟩]) s = .next t ∧ last t 0x0807 9 en 0 ∧ moved t goes ∧ t.get (AMP.CH_RETRY_CNT n) = 0 ∧
          (goes = 1 → (t.ampCh n).phase = 0)) ∧
      (s.busOpen (0x1A042C + 0x100 * n) → v.toNat.testBit 0 = true →
        ∃ t, Machine.exec (.ampUnlockWrite source n v) s = .next t ∧ moved t goes ∧ t.get (AMP.CH_RETRY_CNT n) = 0 ∧
          (goes = 1 → (t.ampCh n).phase = 0))) ∧
    (st = 5 → s.on AMP.STATUS_PWM_OK = false →
      (s.barred 0x0807 r = none →
        ∃ t, Machine.exec (.ampUnlock r [⟨1, 1, 2 ^ n⟩]) s = .next t ∧ last t 0x0807 9 en 0 ∧ t.ampState n = 5 ∧
          t.ampCh n = { c with unlock := true }) ∧
      (s.busOpen (0x1A042C + 0x100 * n) → v.toNat.testBit 0 = true →
        ∃ t, Machine.exec (.ampUnlockWrite source n v) s = .next t ∧ t.ampState n = 5 ∧ t.ampCh n = { c with unlock := true })) ∧
    (s.on AMP.STATUS_PWM_OK = true →
      ∃ t, Machine.exec .pwmClockResume s = .next t ∧ ∀ m, m < 8 →
        t.ampState m = if s.ampState m = 7 then (if s.on (AMP.CH_EN m) = true ∧ s.ampCfgErr m = false then 1 else 0) else s.ampState m)

/-- R328, R336 to R341. -/
def Obligations.AmplifierProtectionAndLoop : Prop :=
  ∀ (s : State) (n : Nat), n < 8 → s.isNi = false →
    let c := s.ampCh n
    let st := s.ampState n
    let act := s.get (AMP.CH_FLT_ACTION n)
    (s.on (AMP.CH_FLT_PIN n) = false → st = 2 →
      ∃ t, Machine.exec (.ampFaultPin n) s = .next t ∧ t.on (AMP.CH_FLT_PIN n) = true ∧ t.bit AMP.INT AMP.INT_EXT_FAULT = true ∧
        t.get (AMP.CH_EXT_FAULTS n) = (s.get (AMP.CH_EXT_FAULTS n) + 1) % 2 ^ 32 ∧
        (s.faultNow n = 9 → t.get (AMP.CH_CAUSE n) = 2) ∧
        (s.faultNow n = 9 → act = 0 → c.retry = false → s.get (AMP.CH_RETRY_N n) ≠ 0 →
          t.ampState n = 4 ∧ t.get (AMP.CH_SHORTS n) = (s.get (AMP.CH_SHORTS n) + 1) % 2 ^ 32 ∧ t.bit AMP.INT AMP.INT_SHORT = true) ∧
        (s.faultNow n = 9 → act = 2 → t.ampState n = 4 ∧ t.get (AMP.CH_SHORTS n) = s.get (AMP.CH_SHORTS n)) ∧
        (act = 1 ∨ act = 3 → t.ampState n = 5 ∧ t.get (AMP.CH_LOCKOUTS n) = (s.get (AMP.CH_LOCKOUTS n) + 1) % 2 ^ 32)) ∧
    (∃ t, Machine.exec (.ampFaultPinRelease n) s = .next t ∧ s.turns t (AMP.CH_FLT_PIN n) 0 ∧
      t = { s with regs := t.regs, cmd := { s.cmd with waits := t.cmd.waits } }) ∧
    (st = 4 → s.on AMP.STATUS_PWM_OK = true → s.on (AMP.CH_FLT_PIN n) = false →
      ∃ t, Machine.exec (.ampRetryDue n) s = .next t ∧ t.ampState n = 1 ∧ (t.ampCh n).phase = 1 ∧ (t.ampCh n).retry = true) ∧
    (st = 4 → s.on AMP.STATUS_PWM_OK = false →
      ∃ t, Machine.exec (.ampRetryDue n) s = .next t ∧ t.ampState n = 4 ∧ t.ampCh n = { c with due := true }) ∧
    (c.retry = true → s.ampRuns n = true →
      ∃ t, Machine.exec (.ampRetryClear n) s = .next t ∧ t.ampCh n = { c with retry := false } ∧ s.turns t (AMP.CH_RETRY_CNT n) 0) ∧
    (∀ x : Int, s.ampRuns n = true → s.get (AMP.CH_DC_TIME n) ≠ 0 → s.get (AMP.CH_DC_THR n) < x.natAbs → 2 ≤ s.faultNow n →
      ∃ t, Machine.exec (.dcFault n x) s = .next t ∧ t.ampState n = 5 ∧ t.get (AMP.CH_CAUSE n) = 3 ∧
        t.get (AMP.CH_DC_FAULTS n) = (s.get (AMP.CH_DC_FAULTS n) + 1) % 2 ^ 32 ∧ t.bit AMP.INT AMP.INT_DC = true ∧
        t.bit AMP.INT AMP.INT_LOCKOUT = true) ∧
    (∀ i ratio : Nat, i < 4 → 0x100 ≤ ratio → ratio ≤ 0xFF00 → (∀ x, x ∈ nth s.amp.conv i [] → x ≤ 65535) →
      let l := (ratio :: nth s.amp.conv i []).take 16
      let sum := (l.map (fun x => if s.on (AMP.SEN_DIR i) then x else 65535 - x)).sum
      ∃ t, Machine.exec (.ntcConversion i ratio) s = .next t ∧ t.get (AMP.SEN_RATIO i) = ratio ∧
        sum < (t.get (AMP.SEN_H i) + 1) * l.length ∧ t.get (AMP.SEN_H i) * l.length < sum + l.length ∧ t.on (AMP.SEN_NTC_FAULT i) = false ∧
        (t.get (AMP.SEN_H i) ≤ s.get (AMP.SEN_WARN i) → t.get (AMP.SEN_GAIN_Q i) = quenchStep (s.get (AMP.SEN_GAIN_Q i)) 0x100000 ∧
          t.get (AMP.CH_GAIN_Q (2 * i)) = t.get (AMP.SEN_GAIN_Q i) ∧ t.get (AMP.CH_GAIN_Q (2 * i + 1)) = t.get (AMP.SEN_GAIN_Q i))) ∧
    (∀ ratio : Nat, ratio < 0x100 → st = 2 → c.therm = none → s.get (AMP.CH_MUTE_RAMP n) = 0 →
      ∃ t, Machine.exec (.ntcConversion (n / 2) ratio) s = .next t ∧ t.on (AMP.SEN_NTC_FAULT (n / 2)) = true ∧ t.get (AMP.SEN_H (n / 2)) = 65535 ∧
        t.ampState n = 6 ∧ t.get (AMP.CH_CAUSE n) = 6 ∧ t.get (AMP.CH_THERMAL_SHUTS n) = (s.get (AMP.CH_THERMAL_SHUTS n) + 1) % 2 ^ 32) ∧
    (∀ (shunt : Int) (pos : Nat), s.ampSwitches n = true → c.cut = none → max 1 (s.get (AMP.CH_ILIM n)) < shunt.natAbs →
      ∃ t, Machine.exec (.currentLimit n shunt pos) s = .next t ∧ t.ampCh n = { c with limited := true, cut := some pos } ∧ t.ampState n = st ∧
        (c.limited = false → s.on (AMP.CH_LIMITING n) = false → t.bit AMP.INT AMP.INT_LIMIT = true)) ∧
    (∀ (shunt : Int) (pos : Nat), shunt.natAbs ≤ max 1 (s.get (AMP.CH_ILIM n)) →
      ∃ t, Machine.exec (.currentLimit n shunt pos) s = .next t ∧ t.ampCh n = c ∧ t.regs = s.regs) ∧
    (∀ (v i : Int) (valley damaged : Bool), st = 1 → c.phase = 0 →
      ∃ t, Machine.exec (.ampLoopUpdate n valley v i damaged) s = .next t ∧ t.regs = s.regs ∧
        t.ampCh n = { c with calN := c.calN + 1, calV := c.calV + v, calI := c.calI + i }) ∧
    (∀ (v i : Int) (damaged : Bool), s.ampSwitches n = true → c.seen = some (s.media - 5) → s.effi (AMP.CH_KP_I n) = 0 → s.effi (AMP.CH_KI_I n) = 0 →
      let g := ((s.rampGain n (c.updates + 1) * c.gain : Nat) : Int)
      let ref := sat40 (divRound (s.ampX n (s.media - 5) * gainOf (s.get (AMP.CH_VGAIN n)) * gainOf (s.get (AMP.CH_GAIN_Q n)) * g) (2 ^ 80))
      let d := s.dmax n
      ∃ t, Machine.exec (.ampLoopUpdate n false v i damaged) s = .next t ∧ (t.ampCh n).updates = c.updates + 1 ∧
        (t.ampCh n).acc = clampInt (-d) d c.acc ∧
        (t.ampCh n).m = clampInt (-d) d (clampInt (-d) d c.acc + divRound (s.effi (AMP.CH_FF n) * ref) 1048576) ∧
        (t.ampCh n).legA = c.legA.next c.cut (halfSteps (s.ampPeriod n)) false false (4294967296 + (t.ampCh n).m) ∧
        (t.ampCh n).cut = none ∧ t.ampState n = st)

/-- R365 and R377, with the _GET rows of the other chapters: `len` is the length of the payload where it does not vary with what is listed. -/
def Obligations.ReadingCommandsOnlyAnswer : Prop :=
  let reads := fun (c : Req → List Tlv → Instr) (op : Nat) (sch : List PSpec) (len : Params → State → Nat → Prop) =>
    ∀ (r : Req) (p : List Tlv) (s : State),
      (s.refuses r op sch p = none → ∃ pay : List Byte, Machine.exec (c r p) s = .next (s.finish r op (Reply.ok pay)) ∧ len p s pay.length) ∧
      (∀ e, s.refuses r op sch p = some e → Machine.exec (c r p) s = .next (s.finish r op e))
  let is := fun (n : Nat) (_ : Params) (_ : State) (k : Nat) => k = n
  let any := fun (_ : Params) (_ : State) (_ : Nat) => True
  reads .nop 0x0101 [] (is 0) ∧
  reads .sysInfoGet 0x0102 [] (is 16) ∧
  reads .sessionListGet 0x0103 [] (fun _ s k => k = 32 * s.cmd.sessions.length) ∧
  reads .cmdChannelGet 0x0106 [preq 1 1 0 63] (is 8) ∧
  reads .queueStatusGet 0x0124 [preq 1 2 0 0x7FF] (fun p _ k => k = 24 * (bitsOf 11 (Params.val p 1)).length) ∧
  reads .bootStatusGet 0x0141 [] (is 24) ∧
  reads .timeGet 0x0201 [] (is 36) ∧
  reads .ptpDatasetGet 0x0208 [preq 1 1 0 1, preq 2 1 0 4] any ∧
  reads .clkStatusGet 0x0301 [] (is 184) ∧
  reads .portStatusGet 0x0402 [preq 1 1 0 3] (is 20) ∧
  reads .ipStatusGet 0x0411 [preq 1 1 0 3] any ∧
  reads .mcastStatusGet 0x0414 [preq 1 1 0 3] any ∧
  reads .neighborGet 0x0415 [preq 1 1 0 3, preq 2 2 0 1023, preq 3 1 1 64] any ∧
  reads .streamStatusGet 0x0504 [preq 1 1 0 1, preq 2 2 0 511] (is 12) ∧
  reads .laneStatusGet 0x0506 [] (is 216) ∧
  reads .tdmStatusGet 0x0706 [preq 1 1 0 15] (fun p _ k => k = 296 * (bitsOf 4 (Params.val p 1)).length) ∧
  reads .clusterStatusGet 0x0901 [] (is 412) ∧
  reads .pairStatusGet 0x0913 [] (is 60) ∧
  reads .lifeStatusGet 0x0B01 [] (is 252) ∧
  reads .faultLogGet 0x0B02 [popt 1 2 0 4095, popt 2 2 1 256, popt 3 1 0 1] any ∧
  reads .marginTrendGet 0x0B03 [popt 1 2 0 0xFFFF, popt 2 2 1 1024] any ∧
  reads .sapListGet 0x0C05 [preq 1 1 0 255, preq 2 1 1 32] (fun p s k => k = 26 * ((s.svc.sap.drop (Params.val p 1)).take (Params.val p 2)).length) ∧
  reads .nmosStatusGet 0x0C08 [] (is 22)

/-- The conditions are those of each command's own rule. -/
def Obligations.ConditionalReadingCommands : Prop :=
  ∀ (s : State) (r : Req) (i c f n set u k : Nat),
    (∀ x, i ≤ 511 → s.barred 0x0126 r = none → s.rxRun i = some x →
      Machine.exec (.ringInfoGet r [⟨1, 2, i⟩]) s = .next (s.finish r 0x0126 (Reply.ok
        (le 4 x.ring.len ++ le 4 x.ring.rows ++ le 2 x.ring.pages.length ++ le 2 (s.get QUE.POOL_FREE))))) ∧
    (∀ (x : RxRun) (y : CsRun), i ≤ 511 → c ≤ 255 → s.barred 0x050A r = none → s.rxRun i = some x → x.cs[c]? = some y →
      Machine.exec (.am824CsGet r [⟨1, 2, i⟩, ⟨2, 2, c⟩]) s = .next (s.finish r 0x050A (Reply.ok y.last))) ∧
    (f + n ≤ 6152 → 1 ≤ n → n ≤ 256 → s.barred 0x0606 r = none →
      ∃ pay : List Byte, Machine.exec (.fabricGet r [⟨1, 1, 0⟩, ⟨2, 2, f⟩, ⟨3, 2, n⟩]) s = .next (s.finish r 0x0606 (Reply.ok pay)) ∧
        pay.length = 16 * n) ∧
    (s.barred 0x0809 r = none → s.isNi = false →
      ∃ pay : List Byte, Machine.exec (.ampStatusGet r []) s = .next (s.finish r 0x0809 (Reply.ok pay)) ∧ pay.length = 396) ∧
    (set ≤ 6 → u < setUnits set → s.barred 0x0A05 r = none →
      ∃ pay : List Byte, Machine.exec (.testResultGet r [⟨1, 1, set⟩, ⟨2, 1, u⟩]) s = .next (s.finish r 0x0A05 (Reply.ok pay))) ∧
    (∀ e, s.svc.sap[k]? = some e → k ≤ 255 → s.barred 0x0C06 r = none →
      Machine.exec (.sapSdpGet r [⟨1, 1, k⟩]) s = .next (s.finish r 0x0C06 (Reply.ok e.sdp))) ∧
    (k ≤ 1 → 1 ≤ n → n ≤ 65024 → f ≤ 1048575 → s.barred 0x0B0C r = none → s.canSign = true →
      Machine.exec (.configExport r [⟨1, 1, k⟩, ⟨2, 4, f⟩, ⟨3, 2, n⟩]) s =
        .next (s.finish r 0x0B0C (Reply.ok (((unitAt s.life.cfg k []).drop f).take n)))) ∧
    (s.barred 0x1040 r = none →
      Machine.exec (.n5Status r []) s = .next (s.finish r 0x1040 (Reply.ok
        (le 4 s.deviceId ++ le 1 (s.get (CLK.DPLL_STATE 0)) ++ le 2 s.streamsOn ++ [0])))) ∧
    (∀ d, d ≤ 1 → i ≤ 511 → s.barred 0x0C02 r = none → (s.legs d i).any (fun l => s.on (validFld d i l)) = true →
      ∃ t, Machine.exec (.sdpGet r [⟨1, 1, d⟩, ⟨2, 2, i⟩]) s = .next t ∧ s.records t r 0x0C02 (Reply.ok (s.sdpNow d i).1) ∧
        t = { s with cmd := t.cmd, svc := { s.svc with sdpText := t.svc.sdpText } })

/-- Counters read by a status command are cleared with it, from one snapshot. -/
def Obligations.StatusCommandsWithClear : Prop :=
  ∀ (s : State) (r : Req) (n i : Nat),
    let only := fun (t : State) => t = { s with regs := t.regs, cmd := t.cmd }
    (s.barred 0x0105 r = none →
      ∃ t pay, Machine.exec (.cmdStatusGet r [⟨1, 1, 1⟩]) s = .next t ∧ s.records t r 0x0105 (Reply.ok pay) ∧ only t ∧
        pay.length = 40 ∧ (∀ f ∈ cmdCounters, t.get f = 0) ∧ s.keepsBut t cmdCounters) ∧
    (s.barred 0x0130 r = none →
      ∃ t pay, Machine.exec (.sealStatusGet r [⟨1, 1, 1⟩]) s = .next t ∧ s.records t r 0x0130 (Reply.ok pay) ∧ only t ∧
        pay.length = 84 ∧ (∀ j, j < 16 → t.get (SYS.SEAL_CNT j) = 0) ∧ t.get SYS.SEAL_MARKED = 0 ∧
        s.keepsBut t (SYS.SEAL_MARKED :: (List.range 16).map SYS.SEAL_CNT)) ∧
    (s.barred 0x0143 r = none →
      ∃ t pay, Machine.exec (.cfgRejectGet r [⟨1, 1, 1⟩]) s = .next t ∧ s.records t r 0x0143 (Reply.ok pay) ∧ only t ∧
        pay.length = 12 ∧ t.get SYS.CFG_REJECT_CNT = 0 ∧ t.get SYS.REJ_VALID = 0 ∧ s.keepsBut t [SYS.CFG_REJECT_CNT, SYS.REJ_VALID]) ∧
    (n ≤ 3 → s.barred 0x0405 r = none →
      ∃ t pay, Machine.exec (.statsGet r [⟨1, 1, n⟩, ⟨2, 1, 1⟩]) s = .next t ∧ s.records t r 0x0405 (Reply.ok pay) ∧
        pay.length = 336 ∧ t.get (PORT.STAT_HALF_LO n) = 0 ∧ t.get (PORT.STAT_HALF_HI n) = 0 ∧
        t = { s with regs := t.regs, cmd := t.cmd, ports := t.ports, que := t.que, dma := { s.dma with msi := t.dma.msi } }) ∧
    (i ≤ 511 → s.barred 0x0505 r = none →
      ∃ t pay, Machine.exec (.streamCountersGet r [⟨1, 1, 0⟩, ⟨2, 2, i⟩, ⟨3, 1, 1⟩]) s = .next t ∧
        s.records t r 0x0505 (Reply.ok pay) ∧ only t ∧ pay.length = 112 ∧
        (∀ f : Fld, f.lo < 32 → 0x600000 + 0x80 * i ≤ f.off → f.off < 0x600080 + 0x80 * i → t.get f = f.reset % 2 ^ f.w) ∧
        (∀ f : Fld, f.lo < 32 → (f.off < 0x600000 + 0x80 * i ∨ 0x600080 + 0x80 * i ≤ f.off) → t.get f = s.get f)) ∧
    (s.barred 0x060A r = none →
      ∃ t pay, Machine.exec (.anvilStatusGet r [⟨1, 1, 1⟩]) s = .next t ∧ s.records t r 0x060A (Reply.ok pay) ∧ only t ∧
        pay.length = 172 ∧ (∀ f : Fld, f.lo < 32 → 0x140040 ≤ f.off → f.off < 0x14005C → t.get f = f.reset % 2 ^ f.w) ∧
        (∀ f : Fld, f.lo < 32 → (f.off < 0x140040 ∨ 0x1400B0 ≤ f.off) → t.get f = s.get f)) ∧
    (s.barred 0x0A01 r = none →
      ∃ t pay, Machine.exec (.testStatusGet r [⟨1, 1, 1⟩]) s = .next t ∧ s.records t r 0x0A01 (Reply.ok pay) ∧ only t ∧
        pay.length = 112 ∧ (∀ f : Fld, f.lo < 32 → 0x1E0080 ≤ f.off → f.off < 0x1E00A4 → t.get f = f.reset % 2 ^ f.w) ∧
        (∀ f : Fld, f.lo < 32 → (f.off < 0x1E0080 ∨ 0x1E00A4 ≤ f.off) → t.get f = s.get f)) ∧
    (s.barred 0x0120 r = none →
      ∃ t pay, Machine.exec (.dsStatusGet r []) s = .next t ∧ s.records t r 0x0120 (Reply.ok pay) ∧ only t ∧
        pay.length = 168 ∧ s.turns t QUE.COPY_LINE (min s.copyLine 65535))

/-- R360, R365, R366, R369 and R421. `b` is the packet at the head of CMD_IN, `f` its entry in the request table. -/
def Obligations.RequestsThroughTheTable : Prop :=
  ∀ (s : State) (ch : Nat) (b : List Byte) (f : InFlight) (rep : Reply),
    let cmdOnly := fun t : State => s.sameButEvents { t with cmd := s.cmd }
    let put := fun x : Queue => if s.absent 7 then x.loseSpill else x
    let head := s.cmdOpen = true ∧ s.cmd.inflight.length < 512 ∧ 16 ≤ b.length ∧ (s.queue 1).mark = none ∧
      ∃ rest, (s.queue 1).ready = itemEntries (cmdItem ch b) ++ rest ∧ (∀ e ∈ rest, e.lost = false) ∧ (s.absent 7 = true → rest.length ≤ 32)
    let after := fun t : State => t.queue 1 = ⟨[], (s.queue 1).ready.drop (itemEntries (cmdItem ch b)).length, none⟩
    (ch ≤ 15 ∨ ch = 48 ∨ ch = 49 → s.roomIn ch b = true →
      ∃ t, Machine.exec (.requestArrive ch b) s = .next t ∧ s.sameButEvents t ∧ s.keepsBut t [] ∧
        t.queue 1 = put { s.queue 1 with ready := (s.queue 1).ready ++ itemEntries (cmdItem ch b) }) ∧
    (ch ≤ 15 ∨ ch = 48 ∨ ch = 49 → s.roomIn ch b = false → Machine.exec (.requestArrive ch b) s = .next s) ∧
    (ch < 64 → head → f = ⟨reqOf ch b, pkOp b, b, s.cycles, false⟩ → s.inFlight ch (reqOf ch b).tag = none → s.requestCheck ch b = none →
      s.barred (pkOp b) (reqOf ch b) = none → s.testHolds f = false → s.mayStart f = true → (reqOf ch b).all = false →
      s.isDevice (reqOf ch b).device = true →
      ∃ t, Machine.exec .requestStart s = .next t ∧ cmdOnly t ∧ after t ∧
        t.cmd = { s.cmd with inflight := s.cmd.inflight ++ [{ f with started := true }] } ∧
        t.get CMD.TAGS = s.cmd.inflight.length + 1 ∧ t.get CMD.REQUESTS = (s.get CMD.REQUESTS + 1) % 2 ^ 32 ∧
        s.keepsBut t [CMD.TAGS, CMD.PEAK_TAGS, CMD.REQUESTS]) ∧
    (ch < 50 → head → s.inFlight ch (reqOf ch b).tag = none → s.requestCheck ch b = some rep →
      ∃ t, Machine.exec .requestStart s = .next t ∧ cmdOnly t ∧ after t ∧
        t.cmd.results = s.cmd.results ++ [⟨ch, (reqOf ch b).tag, pkOp b, rep⟩] ∧
        t.cmd.inflight = s.cmd.inflight ++ [⟨reqOf ch b, pkOp b, b, s.cycles, false⟩]) ∧
    (ch < 64 → head → (s.inFlight ch (reqOf ch b).tag).isSome = true →
      ∃ t, Machine.exec .requestStart s = .next t ∧ s.sameButEvents t ∧ after t ∧
        t.get CMD.DUP_TAG = (s.get CMD.DUP_TAG + 1) % 2 ^ 32) ∧
    (s.inFlight ch f.req.tag = some f → ch < 50 → s.waitOf ch f.req.tag = none → s.test.run = none →
      (s.cmd.results.any fun x => x.channel == ch && x.tag == f.req.tag) = false →
      ∃ t, Machine.exec (.requestTimeout ch f.req.tag) s = .next t ∧ s.turns t CMD.TIMEOUTS ((s.get CMD.TIMEOUTS + 1) % 2 ^ 32) ∧
        t.cmd = { s.cmd with results := s.cmd.results ++ [⟨ch, f.req.tag, f.opcode, Reply.err Status.timeout⟩] }) ∧
    (s.inFlight ch f.req.tag = some f → f.req.channel = ch → ch < 32 → f.req.noReply = false → s.waitOf ch f.req.tag = none → s.mirrors = false →
      (∀ g ∈ s.cmd.inflight, g.started = true) → s.sessionOn ch = none →
      s.cmd.results = [⟨ch, f.req.tag, f.opcode, rep⟩] → (replyPayload rep).length ≤ 65532 →
      let it := cmdItem ch (replyBytes f.req f.opcode (pkTagWord f.packet) s.shortTime rep)
      s.hasRoom 2 (itemEntries it).length = true →
      ∃ t, Machine.exec (.requestComplete ch f.req.tag) s = .next t ∧ cmdOnly t ∧
        t.queue 2 = put { s.queue 2 with ready := (s.queue 2).ready ++ itemEntries it } ∧ t.inFlight ch f.req.tag = none ∧
        t.cmd.results = [] ∧ t.get CMD.REPLIES = (s.get CMD.REPLIES + 1) % 2 ^ 32 ∧
        s.keepsBut t [CMD.TAGS, CMD.PEAK_TAGS, CMD.REPLIES]) ∧
    (s.inFlight ch f.req.tag = some f → f.req.channel = ch → f.req.noReply = true → s.waitOf ch f.req.tag = none → s.mirrors = false →
      (∀ g ∈ s.cmd.inflight, g.started = true) → s.cmd.results = [⟨ch, f.req.tag, f.opcode, rep⟩] →
      ∃ t, Machine.exec (.requestComplete ch f.req.tag) s = .next t ∧ cmdOnly t ∧ t.queue 2 = s.queue 2 ∧ t.inFlight ch f.req.tag = none ∧
        t.cmd.results = [] ∧ s.keepsBut t [CMD.TAGS, CMD.PEAK_TAGS]) ∧
    (∃ t, Machine.exec .peakTagsRead s = .next t ∧ t = { s with rd := t.rd, regs := t.regs } ∧ t.rd = s.word CMD.fields 0x10014 ∧
      s.turns t CMD.PEAK_TAGS (s.cmd.inflight.length % 2 ^ CMD.PEAK_TAGS.w))

/-- R361 to R363, with no pair to mirror to. -/
def Obligations.SessionsOpenServeAndClose : Prop :=
  ∀ (s s1 : State) (r : Req) (p addr cport mac nd slot id ch : Nat) (b : List Byte) (x : Session),
    s.mirrors = false →
    let taken := fun (kinds : Nat → Bool) => s.takeDatagram p kinds = some ((addr, cport, mac, b), s1)
    let gone := fun (t : State) => t.cmd.sessions = s.cmd.sessions.filter (fun y => y.id != x.id)
    let put := fun y : Queue => if s1.absent 7 then y.loseSpill else y
    let key := unitAt s.life.keys slot (0, [])
    let nc := ((datagramBody b).drop 4).take 16
    let late := s1.cmd.opens.filter (fun o => o.1 == p && decide (s1.cycles < o.2 + 1000000 * cyclesPerUs))
    (taken (fun k => k == 2) → s1.mayDrive = true → late.length < 16 → leAt (datagramBody b) 0 1 = slot → magicOk b = true →
      key.2.isEmpty = false → s.sessionsAllowed = true → leAt b 4 4 = 0 → leAt b 8 8 ≠ 0 → macOk (hkdf32 key.2 [] (ascii "suosh-open")) b = true →
      s.freeChan = some ch →
      ∃ t, Machine.exec (.sessionOpen p nd) s = .next t ∧
        t.cmd.sessions = s.cmd.sessions ++ [⟨ch, s.cmd.nextSession, slot, key.1, p, addr, cport, hkdf32 key.2 (nc ++ le 16 nd) (ascii "suosh-c2d"),
          hkdf32 key.2 (nc ++ le 16 nd) (ascii "suosh-d2c"), 0, [], 1, [], s.cycles, false⟩] ∧
        t.cmd.sent.getLast? = some (p, addr, cport, sessionBytes 3 s.cmd.nextSession 1
          (le 4 s.cmd.nextSession ++ [BitVec.ofNat 8 key.1, 0, 0, 0] ++ le 16 nd ++ nc) (hkdf32 key.2 [] (ascii "suosh-open"))) ∧
        t.cmd.inflight = s.cmd.inflight ∧ t.cmd.results = s.cmd.results) ∧
    (taken (fun k => k != 2 && k != 4) → s1.mayDrive = true → s1.authenticate b = .inl x → leAt b 3 1 = 0 →
      (∀ k ∈ x.kept, k.1 ≠ leAt (datagramBody b) 8 4) → s1.seqBusy x.chan (leAt (datagramBody b) 8 4) = false → s1.cmdOpen = true →
      s1.hasRoom 1 (itemEntries (cmdItem x.chan (datagramBody b))).length = true →
      ∃ t, Machine.exec (.udpDatagramRx p) s = .next t ∧
        t.queue 1 = put { s1.queue 1 with ready := (s1.queue 1).ready ++ itemEntries (cmdItem x.chan (datagramBody b)) } ∧
        t.cmd.inflight = s.cmd.inflight ∧ t.cmd.results = s.cmd.results) ∧
    (taken (fun k => k != 2 && k != 4) → s1.mayDrive = true → s1.authenticate b = .inr (ch, 0) →
      ∃ t, Machine.exec (.udpDatagramRx p) s = .next t ∧ t.cmd = s.cmd ∧ t.get CMD.AUTH_DROP = (s1.get CMD.AUTH_DROP + 1) % 2 ^ 32) ∧
    (taken (fun k => k == 4) → s1.mayDrive = true → s1.authenticate b = .inl x →
      ∃ t, Machine.exec (.sessionCloseDatagram p) s = .next t ∧ gone t) ∧
    (taken (fun k => k == 2) → s1.mayDrive = false → Machine.exec (.sessionOpen p nd) s = .next s1) ∧
    (taken (fun k => k != 2 && k != 4) → s1.mayDrive = false → Machine.exec (.udpDatagramRx p) s = .next s1) ∧
    (taken (fun k => k == 4) → s1.mayDrive = false → Machine.exec (.sessionCloseDatagram p) s = .next s1) ∧
    (s.session id = some x →
      ∃ t, Machine.exec (.sessionIdleTimeout id) s = .next t ∧ gone t ∧ s.sameButEvents { t with cmd := s.cmd } ∧ s.keepsBut t []) ∧
    (s.session id = some x → id < 2 ^ 32 → s.barred 0x0104 r = none → (s.sessionOn r.channel).map Session.id ≠ some id → 2 ≤ s.chanPriv r.channel →
      ∃ t, Machine.exec (.sessionClose r [⟨1, 4, id⟩]) s = .next t ∧ gone t ∧ s.sameButEvents { t with cmd := s.cmd } ∧
        t.cmd.results = s.cmd.results ++ [⟨r.channel, r.tag, 0x0104, Reply.ok []⟩]) ∧
    (s.session id = some x → id < 2 ^ 32 → s.barred 0x0104 r = none → (s.sessionOn r.channel).map Session.id ≠ some id → s.chanPriv r.channel < 2 →
      Machine.exec (.sessionClose r [⟨1, 4, id⟩]) s = .next (s.finish r 0x0104 (Reply.err Status.authFail))) ∧
    (s.session id = some x → id < 2 ^ 32 → s.barred 0x0104 r = none → (s.sessionOn r.channel).map Session.id = some id →
      Machine.exec (.sessionClose r [⟨1, 4, id⟩]) s = .next ((s.setSession { x with closing := true }).finish r 0x0104 (Reply.ok []))) ∧
    (s.sessionOn r.channel = some x → s.barred 0x0104 r = none →
      Machine.exec (.sessionClose r []) s = .next ((s.setSession { x with closing := true }).finish r 0x0104 (Reply.ok [])))

/-- R396 to R398. What CSP_MISO carried stands in `csp.miso`, the wait bytes of a READ apart (a log entry). -/
def Obligations.CspTransactions : Prop :=
  ∀ (s : State) (off n bytes : Nat) (w : Word) (b : List Byte), s.boot.dormant = false → off < 2 ^ 24 →
    let s0 : State := { s with csp := { s.csp with overrun := false } }
    let put := fun x : Queue => if s.absent 7 then x.loseSpill else x
    (∃ t, Machine.exec (.cspWrite off [w]) s = .next t ∧ t.csp.miso = [s.cspStatus] ∧
      t = { s0.busWrite 1 off w.toNat with csp := { (s0.busWrite 1 off w.toNat).csp with miso := [s.cspStatus] } }) ∧
    (∃ t, Machine.exec (.cspRead off 1) s = .next t ∧ t.csp.miso = s.cspStatus :: 0xA5#8 :: le 4 (s0.regRead off).1 ∧
      t = { (s0.regRead off).2 with csp := t.csp }) ∧
    (s.cmdOpen = true → s.csp.inBox = none → 16 ≤ b.length → b.length ≤ 65552 → s.roomIn 16 b = true →
      ∃ t, Machine.exec (.cspMboxWrite b.length b) s = .next t ∧ s.sameButEvents { t with csp := s.csp } ∧ t.csp.inBox = none ∧
        t.queue 1 = put { s.queue 1 with ready := (s.queue 1).ready ++ itemEntries (cmdItem 16 b) } ∧ s.keepsBut t []) ∧
    (s.csp.inBox.isSome = true →
      ∃ t, Machine.exec (.cspMboxWrite b.length b) s = .next t ∧ t.csp.inBox = s.csp.inBox ∧ t.csp.overrun = true ∧
        s.turns t CMD.CSP_MB_BUSY ((s.get CMD.CSP_MB_BUSY + 1) % 2 ^ 32)) ∧
    (s.csp.outBox = some b → b.length ≤ n →
      ∃ t, Machine.exec (.cspMboxRead n) s = .next t ∧ t = { s with csp := t.csp } ∧ t.csp.outBox = none ∧
        t.csp.miso = s.cspStatus :: 0xA5#8 :: (be 3 b.length ++ b)) ∧
    (s.on CMD.EVT_ROUTE = false →
      ∃ t, Machine.exec (.cspEvtRead n bytes) s = .next t ∧ t = { s with csp := t.csp } ∧ t.csp.miso = [s.cspStatus, 0xA5#8, 0#8]) ∧
    (∀ (it : QItem) (rest : List QEntry), s.on CMD.EVT_ROUTE = true → (s.queue 0).ready = ⟨.head it, false⟩ :: rest → it.body = [] →
      (s.queue 0).mark = none → s.bellowsOf 0 = none → it.hdr.length = 16 → (∀ e ∈ rest, e.lost = false) → (s.absent 7 = true → rest.length ≤ 32) →
      ∃ t, Machine.exec (.cspEvtRead 1 16) s = .next t ∧ t.csp.miso = s.cspStatus :: 0xA5#8 :: 1#8 :: it.hdr ∧
        t.queue 0 = ⟨[], rest, none⟩ ∧ (s.sendUp it.hdr).sameButEvents { t with csp := s.csp } ∧ (s.sendUp it.hdr).keepsBut t [])

/-- R378 to R387. Reason 4 of a group is MCAST_JOIN (assumption 44); the registration states are those of NMOS_STATUS_GET. -/
def Obligations.ServiceSettings : Prop :=
  ∀ (s : State) (r : Req) (n a k m v i : Nat),
    n < 4 →
    let x := s.psvc n
    let four := swapBytes 4 a
    let engine := (List.range 16).flatMap (fun e => [PORT.MATCH_ADDR_LO n e, PORT.MATCH_ADDR_HI n e, PORT.MATCH_EN n e])
    let engines := (List.range 4).flatMap (fun p => (List.range 16).flatMap (fun e =>
      [PORT.MATCH_ADDR_LO p e, PORT.MATCH_ADDR_HI p e, PORT.MATCH_EN p e]))
    let others := fun (t : State) => ∀ p, p < 4 → p ≠ n → t.psvc p = s.psvc p
    let units := fun (t : State) => s.sameUnits { t with svc := s.svc, ports := s.ports }
    let all := (List.range 4).flatMap discards
    let joined := x.groups.find? (fun h => h.ip == 4 && h.addr == four && h.reason == 4)
    (s.barred 0x0410 r = none → a < 2 ^ 32 → k ≤ 32 →
      ∃ t, Machine.exec (.ipSet r [⟨1, 1, n⟩, ⟨2, 1, 1⟩, ⟨3, 4, a⟩, ⟨4, 1, k⟩]) s = .next t ∧ s.records t r 0x0410 (Reply.ok []) ∧
        s.sameUnits { t with svc := s.svc } ∧ s.keepsBut t [] ∧ others t ∧
        (t.psvc n).cfg = { x.cfg with v4Mode := 1, v4Addr := four, v4Prefix := k } ∧ (t.psvc n).groups = x.groups ∧
        ((t.psvc n).ip = if x.cfg.v4Mode = 1 ∧ x.cfg.v4Addr = four ∧ x.cfg.v4Prefix = k then x.ip
          else { x.ip with v4Use := 0, cand := four, probes := 0, leaseLeft := 0, leaseTotal := 0 })) ∧
    (s.barred 0x0412 r = none → a < 2 ^ 32 → m < 2 → isMulticast 4 four = true → joined = none →
      (∀ e, s.entryFor n (groupMac 4 four) = some e →
        ∃ t, Machine.exec (.mcastJoin r [⟨1, 1, n⟩, ⟨2, 4, a⟩, ⟨3, 1, m⟩]) s = .next t ∧ s.records t r 0x0412 (Reply.ok []) ∧
          units t ∧ others t ∧ s.keepsBut t (List.flatten [engine, discards n]) ∧
          (t.psvc n).groups = x.groups ++ [⟨4, four, 4, m, [], 1, 1⟩] ∧ t.entryMac n e = groupMac 4 four ∧
          t.on (PORT.MATCH_EN n e) = true) ∧
      (s.entryFor n (groupMac 4 four) = none →
        Machine.exec (.mcastJoin r [⟨1, 1, n⟩, ⟨2, 4, a⟩, ⟨3, 1, m⟩]) s = .next (s.finish r 0x0412 (Reply.err Status.noResource)))) ∧
    (s.barred 0x0413 r = none → a < 2 ^ 32 →
      (∀ g, joined = some g → g.users ≤ 1 →
        ∃ t, Machine.exec (.mcastLeave r [⟨1, 1, n⟩, ⟨2, 4, a⟩]) s = .next t ∧ s.records t r 0x0413 (Reply.ok []) ∧
          units t ∧ others t ∧ s.keepsBut t (List.flatten [engine, discards n]) ∧
          (t.psvc n).groups = x.groups.filter (fun h => h != g)) ∧
      (joined = none → Machine.exec (.mcastLeave r [⟨1, 1, n⟩, ⟨2, 4, a⟩]) s =
        .next (s.finish r 0x0413 (Reply.errAt Status.badParam [⟨1, 1, n⟩, ⟨2, 4, a⟩] 2)))) ∧
    (∀ (ip : Nat) (g : Group), x.groups.find? (fun h => h.ip == ip && h.addr == a && decide (0 < h.left)) = some g →
      s.on (PORT.LINK_UP n) = true →
      ∃ t f, Machine.exec (.membershipReport n ip a) s = .next t ∧ units t ∧ s.keepsBut t (discards n) ∧ others t ∧
        t.psvc n = { x with groups := x.groups.map (fun h => if h = g then { g with left := g.left - 1 } else h) } ∧
        s.sentBy t n f ∧ ∀ p, p < 4 → p ≠ n → t.port p = s.port p) ∧
    (∀ sp mode rp np up : Nat, s.barred 0x0C01 r = none → 1 ≤ k → k ≤ 63 → sp < 16 → mode < 4 → rp < 2 ^ 16 → np < 2 ^ 16 → up < 2 ^ 16 →
      let reg := if mode = 0 then 0 else if mode = 1 then 1 else 2
      ∃ t, Machine.exec (.nodeSet r [⟨1, k, v⟩, ⟨4, 1, sp⟩, ⟨5, 1, mode⟩, ⟨7, 2, rp⟩, ⟨8, 2, np⟩, ⟨9, 2, up⟩]) s = .next t ∧
        s.records t r 0x0C01 (Reply.ok []) ∧ units t ∧
        t.svc = { s.svc with ports := t.svc.ports, hostname := le k v, suffix := 0, servicePorts := sp, nmosMode := mode, registryPort := rp, regState := reg } ∧
        (∀ p, p < 4 → t.get (PORT.NMOS_PORT p) = np ∧ t.get (PORT.SUOSH_PORT p) = up) ∧
        s.keepsBut t (List.flatten [engines, all, (List.range 4).map PORT.NMOS_PORT, (List.range 4).map PORT.SUOSH_PORT])) ∧
    (∀ b an iv li : Nat, s.barred 0x0C04 r = none → b < 2 ^ 512 → an < 2 → 1 ≤ iv → iv ≤ 300 → li < 2 →
      ∃ t, Machine.exec (.sapSet r [⟨1, 64, b⟩, ⟨2, 1, an⟩, ⟨4, 2, iv⟩, ⟨5, 1, li⟩]) s = .next t ∧ s.records t r 0x0C04 (Reply.ok []) ∧
        units t ∧ s.keepsBut t (List.flatten [engines, all]) ∧
        t.svc = { s.svc with ports := t.svc.ports, sapStreams := b, sapAnnounce := an, sapInterval := iv, sapListen := li }) ∧
    (s.barred 0x0C07 r = none →
      ∃ t, Machine.exec (.browseGet r [⟨1, k, v⟩]) s = .next t ∧ units t ∧ s.keepsBut t all ∧ t.svc = { s.svc with browse := [] } ∧
        t.cmd = { s.cmd with waits := s.cmd.waits ++ [⟨r, 0x0C07, 12, 1, [0], [0], [0], [0], [], 0, le k v⟩] }) ∧
    (∀ dir ex : Nat, s.barred 0x0C09 r = none → dir < 2 → i < 512 → ex < 2 →
      let same := fun (e : Expose) => e.dir == dir && e.stream == i
      ∃ e, Machine.exec (.nmosExposeSet r [⟨1, 1, dir⟩, ⟨2, 2, i⟩, ⟨3, 1, ex⟩]) s = .next (({ s with svc := { s.svc with
          exposed := s.svc.exposed.filter (fun y => !same y) ++ [e] } }).finish r 0x0C09 (Reply.ok [])) ∧
        e.dir = dir ∧ e.stream = i ∧ e.expose = ex ∧
        ∀ o, s.svc.exposed.find? same = some o → e = { o with expose := ex, version := o.version + 1 }) ∧
    (∀ ports : Nat, s.barred 0x0C03 r = none → i < 512 → k ≤ 4096 → ports < 4 →
      let p : List Tlv := [⟨1, 2, i⟩, ⟨2, k, v⟩, ⟨3, 1, ports⟩]
      let waits := fun (t : State) (st ln : Nat) =>
        ∃ old, t.cmd = { s.cmd with waits := s.cmd.waits ++ [⟨r, 0x0C03, 11, 2, [0], [0], [st], [ln, 0], old, i, []⟩] }
      (∀ ln, s.sdpWrites i ports (le k v) = .inr ln →
        ∃ t, Machine.exec (.sdpApply r p) s = .next t ∧ t = { s with cmd := t.cmd } ∧ waits t Status.badParam ln) ∧
      (∀ ln ws, s.sdpWrites i ports (le k v) = .inl (ln, ws) →
        let after := ws.foldl (fun s w => s.write w.1 (sdpUpd i w.1) w.2) s
        ((s.entry 0 i).on = false → after.limitsOk 0 i = true →
          ∃ t, Machine.exec (.sdpApply r p) s = .next t ∧ t = { s with regs := t.regs, held := t.held, cmd := t.cmd } ∧ waits t 0 0 ∧
            (∀ w ∈ ws, t.get w.1 = w.2 % 2 ^ w.1.w) ∧ s.keepsBut t (ws.map Prod.fst)) ∧
        ((s.entry 0 i).on = false → after.limitsOk 0 i = false →
          ∃ t, Machine.exec (.sdpApply r p) s = .next t ∧ t = { s with cmd := t.cmd } ∧ waits t Status.badParam ln) ∧
        ((s.entry 0 i).on = true → (∃ w ∈ ws, sdpUpd i w.1 = .static ∧ w.2 % 2 ^ w.1.w ≠ s.get w.1) →
          ∃ t, Machine.exec (.sdpApply r p) s = .next t ∧ t = { s with cmd := t.cmd } ∧ waits t Status.notInState 0)))

/-- R378 to R386. An HTTP answer is kept as the last element of `httpOut`; registration state 2 is registering, 3 registered. -/
def Obligations.ServiceEvents : Prop :=
  ∀ (s : State) (p : Nat), p < 4 →
    let x := s.psvc p
    let sends := fun (t : State) (b : List Byte) => t.port p = { s.port p with service := (s.port p).service ++ [⟨padFrame b, none, false, false, false⟩] }
    let units := fun (t : State) => s.sameUnits { t with svc := s.svc, ports := s.ports }
    let all := (List.range 4).flatMap discards
    let up := s.on (PORT.LINK_UP p) = true
    let svcOnly := fun (t : State) => t = { s with svc := t.svc }
    (∀ (it : QItem) (z : Bool) (rest : List QEntry), (s.queue (3 + p)).ready = ⟨.head it, z⟩ :: rest → (∀ e ∈ rest, e.lost = false) →
      (s.absent 7 = true → rest.length ≤ 32) →
      let h := headers it.body
      let c := s.protoClass p h
      let f := fun (o n : Nat) => beAt it.body (h.l3 + o) n
      (c = 5 ∨ c = 8 ∨ c = 9 → Machine.exec (.engineFrameRx p) s = .next s) ∧
      (c ≠ 5 → c ≠ 8 → c ≠ 9 →
        ∃ t, Machine.exec (.engineFrameRx p) s = .next t ∧
          t.queue (3 + p) = { s.queue (3 + p) with ready := rest.drop ((it.body.length + 15) / 16), popped := [] }) ∧
      (c = 0 → f 6 2 = 1 → f 24 4 ≠ 0 → f 24 4 = x.ip.v4Use → f 14 4 ≠ 0 → s.mayDrive = true → up →
        ∃ t, Machine.exec (.engineFrameRx p) s = .next t ∧ t = { s with svc := t.svc, ports := t.ports, que := t.que } ∧
          sends t (arpFrame (f 8 6) (s.streamMac p) 2 (f 24 4) (f 8 6) (f 14 4)) ∧ (t.psvc p).neigh.getLast? = some ⟨f 14 4, f 8 6, 1⟩) ∧
      (c = 0 → f 6 2 = 2 → f 14 4 ≠ 0 → f 14 4 = x.ip.cand →
        ∃ t, Machine.exec (.engineFrameRx p) s = .next t ∧ s.sameButEvents { t with svc := s.svc } ∧
          (t.psvc p).ip = { x.ip with cand := 0, probes := 0 } ∧ s.keepsBut t [])) ∧
    (x.ip.cand ≠ 0 →
      (x.ip.probes < 3 → up →
        ∃ t, Machine.exec (.arpProbe p 4) s = .next t ∧ t = { s with svc := t.svc, ports := t.ports } ∧
          t.psvc p = { x with ip := { x.ip with probes := x.ip.probes + 1 } } ∧ sends t (arpFrame bcastMac (s.streamMac p) 1 0 0 x.ip.cand)) ∧
      (3 ≤ x.ip.probes →
        ∃ t, Machine.exec (.arpProbe p 4) s = .next t ∧ s.sameButEvents { t with svc := s.svc } ∧ s.keepsBut t [] ∧
          t.psvc p = { x with ip := { x.ip with cand := 0, probes := 0, v4Use := x.ip.cand } })) ∧
    (∃ t, Machine.exec (.arpProbe p 6) s = .next t ∧ s.sameButEvents { t with svc := s.svc } ∧ s.keepsBut t [] ∧
      t.psvc p = { x with ip := { x.ip with v6Cand := [], v6Use := x.ip.v6Use ++ x.ip.v6Cand } }) ∧
    (2 ≤ x.cfg.v4Mode →
      let fall := fun (ip : IpState) => if x.cfg.v4Mode = 3 then { ip with cand := x.cfg.v4Addr, probes := 0 } else ip
      (x.ip.leaseTotal ≠ 0 → up →
        (∃ t f, Machine.exec (.dhcpTimer p 0) s = .next t ∧ units t ∧ s.keepsBut t (discards p) ∧ s.sentBy t p f ∧
          t.psvc p = { x with ip := { x.ip with leaseLeft := x.ip.leaseTotal / 2 } }) ∧
        (∃ t f, Machine.exec (.dhcpTimer p 2) s = .next t ∧ units t ∧ s.keepsBut t (discards p) ∧ s.sentBy t p f ∧
          t.psvc p = { x with ip := fall { x.ip with v4Use := 0, leaseLeft := 0, leaseTotal := 0 } })) ∧
      (x.ip.leaseTotal = 0 →
        (∃ t, Machine.exec (.dhcpTimer p 1) s = .next t ∧ svcOnly t ∧ t.psvc p = { x with ip := fall x.ip }) ∧
        (up → ∃ t f, Machine.exec (.dhcpTimer p 3) s = .next t ∧ units t ∧ t.svc = s.svc ∧ s.keepsBut t (discards p) ∧ s.sentBy t p f))) ∧
    (∀ i : Nat, i < 512 →
      let old := s.svc.sapSent.find? (fun y => y.1 == i)
      let rest := s.svc.sapSent.filter (fun y => y.1 != i)
      let wanted := s.servicesOn = true ∧ s.svc.sapAnnounce = 1 ∧ s.svc.sapStreams.testBit i = true ∧ (s.entry 1 i).on = true
      (wanted →
        ∃ t text, Machine.exec (.sapAnnounce i) s = .next t ∧ units t ∧ s.keepsBut t all ∧
          t.svc = { s.svc with ports := t.svc.ports, sapSent := rest ++ [(i, text)], sdpText := t.svc.sdpText } ∧ text = (s.sdpNow 1 i).1) ∧
      (¬ wanted → old ≠ none →
        ∃ t, Machine.exec (.sapAnnounce i) s = .next t ∧ units t ∧ s.keepsBut t all ∧
          t.svc = { s.svc with ports := t.svc.ports, sapSent := rest }) ∧
      (¬ wanted → old = none → Machine.exec (.sapAnnounce i) s = .next s)) ∧
    (∀ n : Nat, Machine.exec (.sapEntryExpiry n) s = .next { s with svc := { s.svc with sap := s.svc.sap.eraseIdx n } }) ∧
    (∀ (len : Nat) (opens closes : Bool) (res : NmosRes) (conn : HttpConn), s.svc.nmosMode ≠ 0 → s.servicesOn = true → s.mayDrive = true →
      (opens = true → 8 ≤ x.http → Machine.exec (.nmosHttpRequest p len opens closes res conn) s = .next s) ∧
      ((opens = true → x.http < 8) →
        let n := x.http + (if opens then 1 else 0)
        let y := { x with http := if closes then n - 1 else n }
        let status := if 16384 < len then 413 else if (s.nmosBody res).isSome then 200 else 404
        ∃ t body, Machine.exec (.nmosHttpRequest p len opens closes res conn) s = .next t ∧ units t ∧ s.keepsBut t (discards p) ∧ t.psvc p = y ∧
          t.svc.httpOut.getLast? = some (p, status, body) ∧
          (len ≤ 16384 → (∀ d i q e, res ≠ .patch d i q e) → body = (((s.setPsvc p y).refreshVersions).nmosBody res).getD []) ∧
          (∀ d i q e, len ≤ 16384 → res = .patch d i q e → t.svc.exposed = (s.refreshVersions.svc.exposed).map (fun z =>
            if z.dir = d ∧ z.stream = i ∧ z.expose = 1 then z.patch q e else z)))) ∧
    (∀ answer : Nat, 2 ≤ s.svc.nmosMode → s.servicesOn = true → s.mayDrive = true →
      ∃ t, Machine.exec (.nmosHeartbeat answer) s = .next t ∧ units t ∧ s.keepsBut t (discards 0) ∧
        t.svc.posted = (if s.svc.regState = 3 then [s.refreshVersions.heartbeat] else s.refreshVersions.registration) ∧
        (s.svc.regState = 3 →
          (answer = 404 → t.svc.regState = 2 ∧ t.svc.missed = 0 ∧ t.svc.registries = s.svc.registries.drop 1 ++ s.svc.registries.take 1) ∧
          (answer = 0 → s.svc.missed < 2 → t.svc.regState = 3 ∧ t.svc.missed = s.svc.missed + 1) ∧
          (answer = 0 → 2 ≤ s.svc.missed → t.svc.regState = 2 ∧ t.svc.missed = 0) ∧
          (answer ≠ 404 → answer ≠ 0 → t.svc.regState = 3 ∧ t.svc.missed = 0)) ∧
        (s.svc.regState ≠ 3 → t.svc.missed = 0 ∧ t.svc.regState = (if 200 ≤ answer ∧ answer < 300 then 3 else 2))) ∧
    (∀ (i d ports : Nat) (due : Option Nat) (conn : HttpConn), i < 512 → d < 2 ^ 16 →
      (due.any (fun w => decide (s.ctr < w)) = true → Machine.exec (.is05Activation p 1 i [⟨32, 2, d⟩] [] ports none due conn) s = .next s) ∧
      (s.servicesOn = true → s.mayDrive = true → s.svc.nmosMode ≠ 0 → due.any (fun w => decide (s.ctr < w)) = false →
        (∀ e ∈ s.svc.exposed, e.dir = 1 → e.stream = i → e.staged = [] ∧ e.enable = none) → (s.entry 1 i).on = false →
        ∃ t body, Machine.exec (.is05Activation p 1 i [⟨32, 2, d⟩] [] ports none due conn) s = .next t ∧ units t ∧
          t.svc = { s.svc with httpOut := t.svc.httpOut } ∧ t.svc.httpOut.getLast? = some (p, 200, body) ∧ t.get (TXE.LEG_UDP_DPORT i 0) = d ∧
          s.keepsBut t (TXE.LEG_UDP_DPORT i 0 :: discards p)) ∧
      (s.servicesOn = true → s.mayDrive = true → s.svc.nmosMode ≠ 0 → due.any (fun w => decide (s.ctr < w)) = false →
        (∀ e ∈ s.svc.exposed, e.dir = 1 → e.stream = i → e.staged = [] ∧ e.enable = none) → (s.entry 1 i).on = true →
        s.get (TXE.LEG_UDP_DPORT i 0) ≠ d →
        ∃ t, Machine.exec (.is05Activation p 1 i [⟨32, 2, d⟩] [] ports none due conn) s = .next t ∧
          t.svc = { s.svc with httpOut := t.svc.httpOut } ∧ t.svc.httpOut.getLast? = some (p, 500, []) ∧
          t.get (TXE.ENABLE i) = s.get (TXE.ENABLE i) ∧ t.get (TXE.LEG_UDP_DPORT i 0) = s.get (TXE.LEG_UDP_DPORT i 0) % 2 ^ 16))

/-- R389. `dest` and `source` are the rows of its table. The commit's list is 1 (the engine), and its reply waits (R390). -/
def Obligations.Nc512SlotsGainsAndRamps : Prop :=
  ∀ (s : State) (r : Req) (b : List Byte), s.mirrors = false →
    let dest := fun (x d : Nat) => (x < 512 ∧ d = x) ∨ (∃ p q, p < 16 ∧ q < 8 ∧ x = 512 + 8 * p + q ∧ d = 2048 + 32 * p + q) ∨
      (640 ≤ x ∧ x < 768 ∧ d = 5128 + (x - 640))
    let source := fun (x c : Nat) => (x < 512 ∧ c = x) ∨ (∃ p q, p < 16 ∧ q < 8 ∧ x = 512 + 8 * p + q ∧ c = 2048 + 32 * p + q) ∨
      (640 ≤ x ∧ x < 704 ∧ c = 5120 + (x - 640)) ∨ (704 ≤ x ∧ x < 768 ∧ c = 5376 + (x - 704))
    let gain := fun (x : Nat) => if x < 32768 then 64 * x else 64 * x + 2 ^ 24 - 64 * 65536
    let ramp := fun (ms : Nat) => min 1023 ((2 * ms * s.base + 1000) / 2000)
    let commits := fun (i : Instr) (op : Nat) (e : TblEntry) =>
      Machine.exec i s = .next { s with anvil := { s.anvil with commits := s.anvil.commits ++
        [⟨1, [e], s.cycles, s.duePass, r.channel, some ⟨r.channel, r.tag, op, Reply.ok (le 8 s.duePass)⟩, []⟩] } }
    let bad := fun (i : Instr) (op : Nat) => Machine.exec i s = .next (s.finish r op (Reply.err Status.badParam))
    (b.length = 8 → s.barred 0x1001 r = none → s.barred 0x0601 r = none →
      (∀ d c, dest (leAt b 0 2) d → source (leAt b 2 2) c →
        commits (.n5Route r b) 0x0601 ⟨0, d, 2 ^ 31 + c, gain (leAt b 4 2), ramp (leAt b 6 2), false, none⟩) ∧
      (768 ≤ leAt b 0 2 ∨ 768 ≤ leAt b 2 2 → bad (.n5Route r b) 0x1001)) ∧
    (b.length = 8 → s.barred 0x1002 r = none → s.barred 0x0602 r = none →
      (∀ d, dest (leAt b 0 2) d →
        let e : TblEntry := { s.entryBase 0 d with w1 := gain (leAt b 2 2), w2 := ramp (leAt b 4 2), clear := false, moved := none }
        commits (.n5Gain r b) 0x0602 e) ∧
      (768 ≤ leAt b 0 2 → bad (.n5Gain r b) 0x1002)) ∧
    (b.length = 4 → s.barred 0x1003 r = none → s.barred 0x0603 r = none →
      (∀ d, dest (leAt b 0 2) d →
        let e : TblEntry := { s.entryBase 0 d with w2 := ramp (leAt b 2 2), clear := true }
        commits (.n5Unroute r b) 0x0603 e) ∧
      (768 ≤ leAt b 0 2 → bad (.n5Unroute r b) 0x1003))

/-- R388, R390. A bus with terms is enabled and one without is not (DESIGN CHOICE, assumption 43). -/
def Obligations.Nc512Commands : Prop :=
  ∀ (s : State) (r : Req) (b : List Byte),
    let x := fun (k n : Nat) => leAt b k n
    let sized := fun (n : Nat) => b.length = n
    (s.barred 0x1004 r = none → s.barred 0x0604 r = none → s.anvil.commits = [] → s.mirrors = false → x 0 1 ≤ 63 →
      let base := s.get (BUS.TERM_BASE (x 0 1))
      let count := s.get (BUS.TERM_COUNT (x 0 1))
      let waits := fun (es : List TblEntry) =>
        Machine.exec (.n5MixSet r b) s = .next { s with anvil := { s.anvil with commits := s.anvil.commits ++
          [⟨1, es, s.cycles, s.duePass, r.channel, some ⟨r.channel, r.tag, 0x0604, Reply.ok []⟩, []⟩] } }
      let none' : TblEntry := ⟨2, x 0 1, count * 2 ^ 16 + base, 0, 0, false, none⟩
      let term : TblEntry := ⟨1, base, x 2 2, (ofSigned 24 (toSigned 16 (x 4 2) * 64)), 0, false, none⟩
      let bus : TblEntry := ⟨2, x 0 1, 2 ^ 31 + 2 ^ 16 + base, 0, 0, false, none⟩
      (x 1 1 = 0 → sized 4 → (s.applyEntries s [none']).tblCheck.1 = 0 → waits [none']) ∧
      (x 1 1 = 1 → sized 8 → x 2 2 < 512 → 1 ≤ count → (s.applyEntries s [term, bus]).tblCheck.1 = 0 → waits [term, bus])) ∧
    (let i := x 0 2
     sized 20 → i < 128 → 1 ≤ x 2 1 → x 2 1 ≤ 64 → x 3 1 < 2 → x 4 2 < 2048 → x 6 1 < 2 → x 14 1 < 2 → x 16 2 + x 2 1 ≤ 512 → s.barred 0x0503 r = none →
      let outcome := fun (t : State) (dir : Nat) => ∃ st off,
        t.cmd.waits.getLast? = some ⟨r, 0x0503, 10, 3, [0], [i], [st], [off], [0], dir, []⟩ ∧
          (x 14 1 = 0 → st = 0 ∧ (t.entry dir i).on = false) ∧ (x 14 1 = 1 → (t.entry dir i).on = (st == 0)) ∧ t.cmd.results = s.cmd.results
      let refused := fun (t : State) (dir st : Nat) => st ≠ 0 ∧ (t.entry dir i).on = false ∧
        ∃ off, t.cmd.waits.getLast? = some ⟨r, 0x0503, 10, 3, [0], [i], [st], [off], [0], dir, []⟩
      (s.barred 0x1010 r = none → s.barred 0x0501 r = none → (s.entry 0 i).on = false → i ∉ s.streams 0 →
        (x 14 1 = 0 ∨ s.units 0 + x 2 1 * (s.entry 0 i).k ≤ 2048 →
          ∃ t, Machine.exec (.n5StreamRx r b) s = .next t ∧ outcome t 0 ∧ t.get (RXE.CHANNELS i) = x 2 1 ∧ t.get (RXE.ENC i) = x 3 1 ∧
            t.get (RXE.SPP i) = x 4 2 ∧ t.get (RXE.LEG_PORT i 0) = x 6 1 ∧ t.get (RXE.LEG_DEST_IP i 0 0) = x 8 4 ∧
            t.get (RXE.LEG_UDP_DPORT i 0) = x 12 2 ∧ t.get (RXE.BASE_SLOT i) = x 16 2 ∧ t.on (RXE.LEG_VALID i 0) = true) ∧
        (x 14 1 = 1 → 2048 < s.units 0 + x 2 1 * (s.entry 0 i).k →
          ∃ t st, Machine.exec (.n5StreamRx r b) s = .next t ∧ refused t 0 st ∧ (st = Status.noResource → t = { s with cmd := t.cmd }))) ∧
      (s.barred 0x1011 r = none → s.barred 0x0502 r = none → (s.entry 1 i).on = false → i ∉ s.streams 1 →
        (x 14 1 = 0 ∨ s.units 1 + x 2 1 * (s.entry 1 i).k ≤ 2048 →
          ∃ t, Machine.exec (.n5StreamTx r b) s = .next t ∧ outcome t 1 ∧ t.get (TXE.CHANNELS i) = x 2 1 ∧ t.get (TXE.ENC i) = x 3 1 ∧
            t.get (TXE.SPP i) = x 4 2 ∧ t.get (TXE.LEG_PORT i 0) = x 6 1 ∧ t.get (TXE.LEG_DEST_IP i 0 0) = x 8 4 ∧
            t.get (TXE.LEG_UDP_DPORT i 0) = x 12 2 ∧ t.get (TXE.BASE_SLOT i) = x 16 2 ∧ t.on (TXE.LEG_VALID i 0) = true) ∧
        (x 14 1 = 1 → 2048 < s.units 1 + x 2 1 * (s.entry 1 i).k →
          ∃ t st, Machine.exec (.n5StreamTx r b) s = .next t ∧ refused t 1 st ∧ (st = Status.noResource → t = { s with cmd := t.cmd })))) ∧
    (let p := x 0 1
     sized 8 → p < 16 → x 1 1 < 4 → 2 ≤ x 2 1 → x 2 1 ≤ 8 → x 3 1 < 3 → x 4 1 < 2 → s.barred 0x1020 r = none → s.barred 0x0702 r = none →
      s.barred 0x0704 r = none → s.barred 0x0705 r = none → s.get (TDM.P_STATE p) = 0 → s.get (TDM.P_PORT_EN p) = 0 →
      ∃ t, Machine.exec (.n5TdmPort r b) s = .next t ∧ t.get (TDM.P_FORMAT p) = x 1 1 ∧ t.get (TDM.P_SLOTS p) = x 2 1 ∧
        t.get (TDM.P_SW p) = x 3 1 ∧ t.get (TDM.P_WL p) = x 3 1 ∧ t.get (TDM.P_STATE p) = t.get (TDM.P_PORT_EN p) ∧
        (x 4 1 = 0 → t.get (TDM.P_PORT_EN p) = 0) ∧
        (x 4 1 = 1 → t.tdmCfgErr p = false → s.get (TDM.G_MODE (p / 8)) ≠ 0 → s.noStart 3 (p / 8) = false → s.tdmConverts (p / 8) = false →
          t.get (TDM.P_PORT_EN p) = 1)) ∧
    (sized 8 → (∀ n, n < 7 → x n 1 < 16) → s.barred 0x1030 r = none → s.barred 0x0304 r = none →
      ∃ t, Machine.exec (.n5ClockRef r b) s = .next t ∧ s.records t r 0x0304 (Reply.ok []) ∧ (∀ n, n < 7 → t.get (CLK.DPLL_RANK 0 n) = x n 1) ∧
        t.get (CLK.DPLL_RANK 0 7) = 15) ∧
    (sized 4 → s.barred 0x1050 r = none → s.runAllowed 1 = true → s.test.run = none → s.test.slice = none →
      (∀ u, u < 9 → x 0 2 = 2 ^ u → s.role 1 u = 1 →
        let run : CmdRun := ⟨r.channel, r.tag, 0x1050, 1, u, 2, true, 0, 0xFFFF, false, false, 0, false, [], []⟩
        ∃ t, Machine.exec (.n5Memtest r b) s = .next t ∧ t.cmd = s.cmd ∧ t.test = { s.test with run := some run } ∧
          t.on TEST.STATUS_CMD_RUN = true ∧ t.get TEST.RUN_OUTCOME = 1 ∧ t.role 1 u = 2) ∧
      (x 0 2 = 0 → ∃ t rep, Machine.exec (.n5Memtest r b) s = .next t ∧ s.records t r 0x1050 rep ∧ t = { s with cmd := t.cmd } ∧ rep.status = 0)) ∧
    (b.length ≠ 8 → s.barred 0x1001 r = none → Machine.exec (.n5Route r b) s = .next (s.finish r 0x1001 (Reply.err Status.badLength)))

/-- R13 to R19: a write of `v` at `off` over path `source` (0 PCIe, 1 CSP). -/
def Obligations.RegisterAccess : Prop :=
  ∀ (s : State) (source : Nat) (v : Word), source < 2 →
    let w := v.toNat
    let flags := [TIME.INT, CLK.INT, STRM.INT, QUE.INT, ANVIL.INT, TDM.INT, ORB.INT, TEST.INT, LIFE.INT]
    let enables := [TIME.INT_EN, CLK.INT_EN, STRM.INT_EN, QUE.INT_EN, ANVIL.INT_EN, TDM.INT_EN, ORB.INT_EN, TEST.INT_EN, LIFE.INT_EN]
    let rejected := fun (t : State) (off : Nat) => s.sameUnits t ∧ t.get SYS.REJ_OFFSET = off % 2 ^ SYS.REJ_OFFSET.w ∧
      t.get SYS.REJ_SOURCE = source ∧ t.on SYS.REJ_VALID = true ∧ t.get SYS.CFG_REJECT_TIME = s.shortTime % 2 ^ 32 ∧
      t.get SYS.CFG_REJECT_CNT = (s.get SYS.CFG_REJECT_CNT + 1) % 2 ^ SYS.CFG_REJECT_CNT.w ∧ t.bit SYS.INT SYS.INT_CFG_REJECT = true ∧
      s.keepsBut t [SYS.REJ_OFFSET, SYS.REJ_SOURCE, SYS.REJ_VALID, SYS.CFG_REJECT_TIME, SYS.CFG_REJECT_CNT, SYS.INT]
    (∀ f ∈ flags, s.busOpen f.off → s.get f < 2 ^ f.w →
      ∃ t, Machine.exec (.registerWrite source f.off v) s = .next t ∧ t = { s with regs := t.regs } ∧ s.keepsBut t [f] ∧
        ∀ i, i < f.w → t.bit f i = (s.bit f i && !w.testBit i)) ∧
    (∀ f ∈ enables, s.busOpen f.off →
      ∃ t, Machine.exec (.registerWrite source f.off v) s = .next t ∧ t = { s with regs := t.regs } ∧ s.turns t f (w % 2 ^ f.w)) ∧
    (∀ off, s.boot.dormant = true → Machine.exec (.registerWrite source off v) s = .next s) ∧
    (∀ f ∈ enables, s.boot.dormant = false → s.on SYS.STATUS_READY = false →
      ∃ t, Machine.exec (.registerWrite source f.off v) s = .next t ∧ rejected t f.off) ∧
    (∀ f ∈ enables, s.boot.dormant = false → s.on SYS.STATUS_READY = true → s.standsBy = true →
      ∃ t, Machine.exec (.registerWrite source f.off v) s = .next t ∧ rejected t f.off) ∧
    (∀ i, i ≤ 64 → s.busOpen (0x21004 + 0x40 * i) →
      let low := w / 2 ^ 12 % 2 ^ 20
      (s.get (DMA.RING_STATE i) ≠ 0 → low ≠ s.get (DMA.RING_BASE_LO i) →
        ∃ t, Machine.exec (.registerWrite source (0x21004 + 0x40 * i) v) s = .next t ∧ rejected t (0x21004 + 0x40 * i)) ∧
      (s.get (DMA.RING_STATE i) = 0 →
        ∃ t, Machine.exec (.registerWrite source (0x21004 + 0x40 * i) v) s = .next t ∧ t = { s with regs := t.regs, held := t.held } ∧
          s.turns t (DMA.RING_BASE_LO i) low ∧ t.ringBase i = s.ringBase i ∧
          ∀ hi : Word, s.busOpen (0x21008 + 0x40 * i) →
            ∃ u, Machine.exec (.registerWrite source (0x21008 + 0x40 * i) hi) t = .next u ∧ u = { t with regs := u.regs, held := u.held } ∧
              t.turns u (DMA.RING_BASE_HI i) hi.toNat ∧ u.ringBase i = hi.toNat * 2 ^ 32 + low * 2 ^ 12)) ∧
    (∀ off, off % 4 = 0 → off < 0x200000 → s.boot.dormant = false → s.on SYS.STATUS_READY = true → s.writeLimited off = false → s.writeHeld off = true →
      Machine.exec (.registerWrite source off v) s = .next { s with test := { s.test with writes := s.test.writes ++ [(source, off, w)] } }) ∧
    (s.test.writes = [] →
      (∃ t, Machine.exec (.splitLoRead 0x20010) s = .next t ∧ t.rd = s.get DMA.ERR_ADDR_LO ∧
        ∃ u, Machine.exec (.splitLoRead 0x20014) t = .next u ∧ u.rd = s.get DMA.ERR_ADDR_HI) ∧
      (∃ t, Machine.exec (.splitLoRead 0x80024) s = .next t ∧ t.rd = s.media48 % 2 ^ 32 ∧ t.ctr = s.ctr ∧ t.cycles = s.cycles ∧
        ∀ x, ∃ u, Machine.exec (.splitLoRead 0x80028) { t with ctr := x } = .next u ∧ u.rd = s.media48 / 2 ^ 32 % 2 ^ 32))

/-- R404. `descs` is what the ring holds from CI on and `data` the bytes its descriptors name; `l` is the item, whole. -/
def Obligations.CommandRingItems : Prop :=
  ∀ (s : State) (r : Nat) (descs l : List Desc) (data : List Byte), r ≤ 15 →
    s.nextItem r descs = some l → itemGood true l = true →
    let b := padTo (itemLen l) data
    let put := fun x : Queue => if s.absent 7 then x.loseSpill else x
    let next := (s.get (DMA.RING_CI r) + l.length) % s.ringCap r
    let past := fun (t : State) => t.get (DMA.RING_CI r) = next ∧ t.get (DMA.RING_PI r) = s.get (DMA.RING_PI r) ∧
      (s.on (DMA.RING_WB_EN r) = true → t.dma.wrote.getLast? = some ⟨512 + r, [s.addr64 (DMA.RING_WB_LO r) (DMA.RING_WB_HI r) 2], le 4 next⟩) ∧ t.cmd = s.cmd
    (itemLen l ≤ 65552 → s.roomIn r b = true →
      ∃ t, Machine.exec (.crqFetch r descs data) s = .next t ∧ past t ∧ t.get CMD.MALFORMED = s.get CMD.MALFORMED ∧
        t.queue 1 = put { s.queue 1 with ready := (s.queue 1).ready ++ itemEntries (cmdItem r b) }) ∧
    (itemLen l ≤ 65552 → s.roomIn r b = false →
      Machine.exec (.crqFetch r descs data) s = .next (s.hostRead r (s.ringSlot r) (16 * l.length))) ∧
    (65552 < itemLen l →
      ∃ t, Machine.exec (.crqFetch r descs data) s = .next t ∧ past t ∧ t.queue 1 = s.queue 1 ∧ t.que = s.que ∧
        t.get CMD.MALFORMED = (s.get CMD.MALFORMED + 1) % 2 ^ 32 ∧ s.keepsBut t [DMA.RING_CI r, CMD.MALFORMED])

/-- R409, with the entry's layout of R407: the flag byte has GAP, bit 2. -/
def Obligations.GapEntries : Prop :=
  ∀ (s : State) (p c f : Nat) (z : Bool) (rest : List QEntry), p ≤ 3 →
    (s.queue (7 + p)).ready = ⟨.gap c f, z⟩ :: rest → s.ringRuns (56 + p) = true → s.ringRuns (60 + p) = true → 0 < s.ringRoom (60 + p) →
    (∀ e ∈ rest, e.lost = false) → (s.absent 7 = true → rest.length ≤ 32) →
    (rest = [] ∨ ∃ it y more, rest = ⟨.head it, y⟩ :: more ∧ s.noFit (56 + p) (60 + p) it.body.length = false) →
    ∃ t, Machine.exec (.rxGapEntry p) s = .next t ∧
      t.get (DMA.RING_PI (60 + p)) = (s.get (DMA.RING_PI (60 + p)) + 1) % s.ringCap (60 + p) ∧
      t.get (DMA.RING_CI (56 + p)) = s.get (DMA.RING_CI (56 + p)) ∧ (t.queue (7 + p)).ready = rest ∧
      ⟨60 + p, [s.ringBase (60 + p) + 16 * s.get (DMA.RING_PI (60 + p))], le 4 f ++ le 4 0 ++ le 2 0xFFFF ++ [4, 0] ++ le 4 c⟩ ∈ t.dma.wrote ∧
      (s.hasRoom 0 4 = true →
        ∃ lost, ⟨.head (s.eventRec 0x0101 10 (7 + p) (le 4 c ++ le 4 f)), lost⟩ ∈ (t.queue 0).ready)

/-- R392 to R416. Ring numbers: CRQ 0–15, RPB 16–31, RPC 32–47, TXD 48–51, TXC 52–55, RXB 56–59, RXC 60–63, EVR 64. STATE reads 0 DISABLED, 1 RUN, 2 ERROR. -/
def Obligations.HostRings : Prop :=
  ∀ (s : State) (source i p : Nat) (v : Word), i ≤ 64 → p ≤ 3 →
    let w := v.toNat
    let run := s.get (DMA.RING_STATE i) = 1
    let plain := i < 48 ∨ (52 ≤ i ∧ i < 56) ∨ i = 64
    let wrote := fun (t : State) (k : Nat) (a : List Nat) (b : List Byte) => ⟨k, a, b⟩ ∈ t.dma.wrote
    let slot := fun (r : Nat) => [s.ringBase r + ringEntry r * s.get (DMA.RING_PI r)]
    let moved := fun (t : State) (f : Fld) (r n : Nat) => t.get f = (s.get f + n) % s.ringCap r
    let discarded := fun (t : State) => t.get DMA.REPLY_DISCARD = (s.get DMA.REPLY_DISCARD + 1) % 2 ^ 32 ∧
      t.bit DMA.INT DMA.INT_REPLY_DISCARD = true
    (s.busOpen (0x21000 + 0x40 * i) →
      (w.testBit 31 = true → s.get (DMA.RING_STATE i) = 0 →
        ∃ t, Machine.exec (.ringEnWrite source i v) s = .next t ∧ t.get (DMA.RING_STATE i) = 1 ∧ t.get (DMA.RING_EN i) = 1 ∧
          t.get (DMA.RING_PI i) = 0 ∧ t.get (DMA.RING_CI i) = 0 ∧ t.get (DMA.RING_ERR_CAUSE i) = 0 ∧ t.get (DMA.RING_SIZE_LOG2 i) = w % 16 ∧
          t.get (DMA.RING_WB_EN i) = w / 256 % 2 ∧
          (plain → t = { s with regs := t.regs } ∧ s.keepsBut t [DMA.RING_STATE i, DMA.RING_EN i, DMA.RING_PI i, DMA.RING_CI i,
            DMA.RING_ERR_CAUSE i, DMA.RING_SIZE_LOG2 i, DMA.RING_WB_EN i])) ∧
      (w.testBit 31 = false → run →
        ∃ t, Machine.exec (.ringEnWrite source i v) s = .next t ∧ t.get (DMA.RING_STATE i) = 0 ∧ t.get (DMA.RING_EN i) = 0 ∧
          (48 ≤ i → i < 52 → t.dma.items.any (fun o => o.port == i % 4 && !o.frames.isEmpty) = false) ∧
          (56 ≤ i → i < 64 → (t.queue (7 + i % 4)).ready = []))) ∧
    (s.busOpen (hostIndex i).off → run →
      (s.indexBad i (w % 4096) = false →
        ∃ t, Machine.exec (.ringIndexWrite source i v) s = .next t ∧ t.get (hostIndex i) = w % 4096 ∧ t.get (DMA.RING_STATE i) = 1 ∧
          (plain → t = { s with regs := t.regs } ∧ s.keepsBut t [hostIndex i])) ∧
      (s.indexBad i (w % 4096) = true →
        ∃ t, Machine.exec (.ringIndexWrite source i v) s = .next t ∧ t.get (DMA.RING_STATE i) = 2 ∧ t.get (DMA.RING_ERR_CAUSE i) = 6 ∧
          t.get DMA.ERR_CAUSE = 6 ∧ t.bit DMA.INT DMA.INT_DMA_ERR = true ∧ t.get (hostIndex i) = s.get (hostIndex i))) ∧
    (∀ (descs rest : List Desc) (d : Desc) (data : List Byte), s.nextItem (48 + p) descs = some (d :: rest) → itemGood false (d :: rest) = true →
      d.flags.testBit 2 = false → s.ringRuns (52 + p) = true → s.ringRoom (52 + p) ≠ 0 → s.dma.items = [] → (s.port p).host = [] →
      let f := padFrame (padTo (itemLen (d :: rest)) data)
      f.length + 4 ≤ lenEff (s.get (PORT.TX_MAX_LEN p)) → f.length + 4 ≤ 32768 →
      ∃ t, Machine.exec (.txdItemFetch p descs data) s = .next t ∧ t = { s with regs := t.regs, dma := t.dma, ports := t.ports } ∧
        moved t (DMA.RING_CI (48 + p)) (48 + p) (rest.length + 1) ∧ s.keepsBut t [DMA.RING_CI (48 + p)] ∧
        (t.port p).host = [⟨f, some (48 + p, s.dma.nextItem), false, false, false⟩] ∧
        t.dma.items = [⟨s.dma.nextItem, p, s.get (DMA.RING_CI (48 + p)), d.cookie, d.flags.testBit 1, false, [], 1, 0, none⟩]) ∧
    (∀ d : TxDone, s.dma.done.find? (fun e => e.port == p) = some d → s.ringRuns (52 + p) = true → 0 < s.ringRoom (52 + p) →
      ∃ t, Machine.exec (.txCompletionWrite p) s = .next t ∧ t = { s with regs := t.regs, dma := t.dma } ∧ t.dma.done = s.dma.done.erase d ∧
        moved t (DMA.RING_PI (52 + p)) (52 + p) 1 ∧ wrote t (52 + p) (slot (52 + p)) d.entry ∧ s.keepsBut t [DMA.RING_PI (52 + p)]) ∧
    (∀ (bufs : List Nat) (it : QItem), s.hostRing p = true → s.headItem p = some it → s.claimable (56 + p) (60 + p) it.body.length = true → 0 < it.body.length →
      let k := s.buffersFor (56 + p) it.body.length
      ∃ t, Machine.exec (.rxItemDeliver p bufs) s = .next t ∧ moved t (DMA.RING_CI (56 + p)) (56 + p) k ∧
        moved t (DMA.RING_PI (60 + p)) (60 + p) k ∧ wrote t (2048 + 56 + p) (bufs.take k) it.body ∧
        (t.queue (7 + p)).ready.length < (s.queue (7 + p)).ready.length) ∧
    (∀ (bufs : List Nat) (it : QItem), s.headReply = some it →
      let ch := itemChan it
      let k := s.buffersFor (16 + ch) it.body.length
      (ch < 16 → s.claimable (16 + ch) (32 + ch) it.body.length = true → 0 < it.body.length →
        ∃ t, Machine.exec (.replyDeliver bufs) s = .next t ∧ moved t (DMA.RING_CI (16 + ch)) (16 + ch) k ∧
          moved t (DMA.RING_PI (32 + ch)) (32 + ch) k ∧ wrote t (2048 + 16 + ch) (bufs.take k) it.body ∧
          (t.queue 2).ready.length < (s.queue 2).ready.length) ∧
      (ch < 16 → s.get (DMA.RING_STATE (16 + ch)) = 0 →
        ∃ t, Machine.exec (.replyDeliver bufs) s = .next t ∧ discarded t ∧ (t.queue 2).ready.length < (s.queue 2).ready.length) ∧
      (ch = 16 → s.csp.outBox = none →
        ∃ t, Machine.exec (.replyDeliver bufs) s = .next t ∧ t.csp = { s.csp with outBox := some it.body } ∧
          s.sameButEvents { t with csp := s.csp } ∧ (t.queue 2).ready.length < (s.queue 2).ready.length) ∧
      (ch ≤ 16 → ∃ t, Machine.exec .replyWaitExpiry s = .next t ∧ s.sameButEvents t ∧ discarded t ∧
        (t.queue 2).ready.length < (s.queue 2).ready.length ∧ s.keepsBut t [DMA.REPLY_DISCARD, DMA.INT])) ∧
    (∀ (it : QItem) (z : Bool) (rest : List QEntry), (s.queue 0).ready = ⟨.head it, z⟩ :: rest → s.held = [] → s.on CMD.EVT_ROUTE = false →
      s.ringRuns 64 = true → 0 < s.ringRoom 64 →
      ∃ t, Machine.exec (.eventToEvr 1) s = .next t ∧ moved t (DMA.RING_PI 64) 64 1 ∧ wrote t 64 (slot 64) it.hdr ∧
        t = { s with regs := t.regs, que := t.que, orb := (s.sendUp it.hdr).orb,
                     dma := { s.dma with msi := t.dma.msi, wrote := t.dma.wrote } }) ∧
    (s.busOpen 0x10000 →
      ∃ t, Machine.exec (.evtRouteWrite source v) s = .next t ∧ t = { s with regs := t.regs, held := t.held } ∧ t.eff CMD.EVT_ROUTE = w % 2 ∧
        s.turns t CMD.EVT_ROUTE (w % 2)) ∧
    (∀ (cause addr : Nat) (cookie : Option Nat), 1 ≤ cause → cause ≤ 4 → addr < 2 ^ 64 →
      let noted := fun (t : State) (unit : Nat) => t.get DMA.ERR_UNIT = unit ∧ t.get DMA.ERR_CAUSE = cause ∧
        t.get DMA.ERR_ADDR_LO = addr % 2 ^ 32 ∧ t.get DMA.ERR_ADDR_HI = addr / 2 ^ 32 ∧ t.bit DMA.INT DMA.INT_DMA_ERR = true
      (s.ringRuns i = true →
        ∃ t, Machine.exec (.dmaReadError i cause addr cookie) s = .next t ∧ t.get (DMA.RING_STATE i) = 2 ∧
          t.get (DMA.RING_ERR_CAUSE i) = cause ∧ noted t i) ∧
      (∀ k, k < 64 → s.get (DMA.REC_STATE k) = 1 →
        ∃ t, Machine.exec (.dmaReadError (0x100 + k) cause addr cookie) s = .next t ∧ s.sameButEvents t ∧ t.get (DMA.REC_STATE k) = 2 ∧
          noted t (0x100 + k))) ∧
    (∀ cause : Nat, 1 ≤ cause → cause ≤ 4 → s.on DMA.STATUS_HOST_LOST = false →
      ∃ t, Machine.exec (.hostLost cause) s = .next t ∧ t.get DMA.STATUS_HOST_LOST = 1 ∧ t.dma.items = [] ∧ t.dma.done = [] ∧
        t.dma.rec' = [] ∧ t.dma.play = [] ∧ (∀ r, r ≤ 64 → t.get (DMA.RING_STATE r) ≠ 1) ∧
        (∀ k, k < 64 → t.get (DMA.REC_STATE k) ≠ 1 ∧ t.get (DMA.PLAY_STATE k) ≠ 1) ∧ (∀ q, q ≤ 3 → (t.queue (7 + q)).ready = []) ∧
        (cause = 2 → t.get (DMA.RING_SIZE_LOG2 i) = 8 ∧ t.get DMA.INT_EN = 0x1F)) ∧
    (s.on DMA.STATUS_HOST_LOST = true →
      ∃ t, Machine.exec .hostRestored s = .next t ∧ s.sameButEvents t ∧ t.get DMA.STATUS_HOST_LOST = 0 ∧ t.get DMA.STATUS_LINK_UP = 1 ∧
        t.get DMA.STATUS_BME = 1 ∧ s.keepsBut t [DMA.STATUS_HOST_LOST, DMA.STATUS_LINK_UP, DMA.STATUS_BME]) ∧
    (∀ m : Nat, m < 64 → s.bit (MSIX.PENDING (m / 32)) (m % 32) = true → s.on (MSIX.MASK m) = false → s.on DMA.STATUS_HOST_LOST = false →
      ∃ t n, Machine.exec (.msixModerationEnd m) s = .next t ∧ t = { s with regs := t.regs, dma := { s.dma with msi := t.dma.msi } } ∧
        t.bit (MSIX.PENDING (m / 32)) (m % 32) = false ∧ t.dma.msi.getLast? = some (m, s.cycles, n + 1))

/-- R412 to R415: direction 0 is record, 1 playback. -/
def Obligations.RecordAndPlaybackSets : Prop :=
  ∀ (s : State) (source dir k : Nat) (v : Word), dir ≤ 1 → k ≤ 63 →
    let w := v.toNat
    let off := 0x24000 + 0x1000 * dir + 0x40 * k
    let asked := s.writeWord DMA.fields true source off w
    let live := s.on DMA.STATUS_HOST_LOST = false
    let up := fun (t : State) (f : Fld) => t.get f = (s.get f + 1) % 2 ^ 32
    let wrote := fun (t : State) (p a : Nat) (b : List Byte) => ⟨p, [a], b⟩ ∈ t.dma.wrote
    (s.busOpen off →
      (w.testBit 31 = true → s.get (setState dir k) = 0 → asked.setRefused dir k = false →
        ∃ t, Machine.exec (.setEnWrite source dir k v) s = .next t ∧ t.get (setState dir k) = 1 ∧ t.get (setEn dir k) = 1 ∧
          t.setFirst dir k = w % 1024 ∧ t.setFormat dir k = w / 2 ^ 28 % 4 ∧
          (dir = 0 → t.dma = { s.dma with rec' := s.dma.rec'.filter (fun x => x.set != k) ++
            [⟨k, multipleFrom (t.setN 0 k) (s.media + 2), [], false, false, [], false, false⟩] }) ∧
          (dir = 1 → t.dma = { s.dma with play := s.dma.play.filter (fun x => x.set != k) ++ [⟨k, [], none, false⟩] })) ∧
      (w.testBit 31 = true → s.get (setState dir k) = 0 → asked.setRefused dir k = true →
        ∃ t, Machine.exec (.setEnWrite source dir k v) s = .next t ∧ t.get (setState dir k) = 0 ∧ t.get (setEn dir k) = 0 ∧
          up t SYS.CFG_REJECT_CNT ∧ t.dma = { s.dma with msi := t.dma.msi }) ∧
      (w.testBit 31 = false → s.get (setState dir k) ≠ 0 →
        ∃ t, Machine.exec (.setEnWrite source dir k v) s = .next t ∧ t.get (setState dir k) = 0 ∧ t.get (setEn dir k) = 0 ∧
          (dir = 0 → ∀ x ∈ t.dma.rec', x.set ≠ k) ∧ (dir = 1 → ∀ x ∈ t.dma.play, x.set ≠ k))) ∧
    (s.busOpen (0x24024 + 0x40 * k) →
      let wr := s.get (DMA.REC_WR_IDX k)
      (idxDist wr w ≤ idxDist wr (s.get (DMA.REC_RD_IDX k)) →
        ∃ t, Machine.exec (.recRdIdxWrite source k v) s = .next t ∧ t = { s with regs := t.regs } ∧ s.turns t (DMA.REC_RD_IDX k) w) ∧
      (idxDist wr (s.get (DMA.REC_RD_IDX k)) < idxDist wr w → Machine.exec (.recRdIdxWrite source k v) s = .next s)) ∧
    (s.busOpen (0x25020 + 0x40 * k) →
      ∃ t, Machine.exec (.playWrIdxWrite source k v) s = .next t ∧ t = { s with regs := t.regs } ∧ s.turns t (DMA.PLAY_WR_IDX k) w) ∧
    (∀ (x : RecRun) (b : RecBlock) (rest : List RecBlock), s.recRun k = some x → x.full = b :: rest → s.get (DMA.REC_STATE k) = 1 → live →
      b.lost = false → s.absent 7 = false → s.injecting 15 = false →
      let wr := s.get (DMA.REC_WR_IDX k)
      let room := idxDist wr (s.get (DMA.REC_RD_IDX k)) < s.setBlk 0 k
      let h := s.hostBlock k b.start x.gap b.bytes
      (room →
        ∃ t, Machine.exec (.recordBlockWrite k false false []) s = .next t ∧ up t (DMA.REC_WR_IDX k) ∧ up t (DMA.REC_BLOCKS k) ∧
          t.recRun k = some { x with full := rest, gap := false } ∧
          wrote t (768 + k) (s.addr64 (DMA.REC_WB_LO k) (DMA.REC_WB_HI k) 2) (le 4 ((wr + 1) % 2 ^ 32)) ∧
          (b.marked = false → wrote t (256 + k) (s.setSlot 0 k wr) (h ++ le 4 (crc32c h)) ∧ t.get SYS.SEAL_MARKED = s.get SYS.SEAL_MARKED) ∧
          (b.marked = true → wrote t (256 + k) (s.setSlot 0 k wr) (h ++ le 4 (0xFFFFFFFF - crc32c h)) ∧
            t.get SYS.SEAL_MARKED = (s.get SYS.SEAL_MARKED + 1) % 2 ^ SYS.SEAL_MARKED.w)) ∧
      (¬ room →
        ∃ t, Machine.exec (.recordBlockWrite k false false []) s = .next t ∧ up t (DMA.REC_OVERRUN_CNT k) ∧
          t.bit DMA.INT DMA.INT_REC_OVERRUN = true ∧ t.get (DMA.REC_WR_IDX k) = wr ∧ t.get SYS.SEAL_MARKED = s.get SYS.SEAL_MARKED ∧
          t.recRun k = some { x with full := rest, gap := true })) ∧
    (∀ (x : PlayRun) (bytes : List Byte), s.dma.play.find? (fun y => y.set == k) = some x → s.get (DMA.PLAY_STATE k) = 1 → live →
      s.get (DMA.PLAY_RD_IDX k) ≠ s.get (DMA.PLAY_WR_IDX k) → x.blocks.length < 2 → s.injecting 6 = false →
      let n := s.blockLen 1 k
      let b := padTo n bytes
      let whole := s.on SYS.SEAL_PLAY_HOST_SEAL = false ∨ leAt b (n - 4) 4 = crc32c (b.take (n - 4))
      let found := fun (t : State) => t.dma.play.find? (fun y => y.set == k)
      let back := fun (t : State) => up t (DMA.PLAY_RD_IDX k) ∧
        wrote t (1024 + k) (s.addr64 (DMA.PLAY_WB_LO k) (DMA.PLAY_WB_HI k) 2) (le 4 ((s.get (DMA.PLAY_RD_IDX k) + 1) % 2 ^ 32))
      (whole → s.playBad k x.last b = false →
        ∃ t blk, Machine.exec (.playbackBlockFetch k bytes) s = .next t ∧ up t (DMA.PLAY_BLOCKS k) ∧ back t ∧
          found t = some { x with blocks := x.blocks ++ [blk], last := some (leAt b 0 8 + s.setN 1 k) } ∧ blk.start = leAt b 0 8 ∧
          blk.n = s.setN 1 k ∧ blk.stored = s.media ∧ blk.bad = s.absent 7 ∧ blk.ue = false ∧ blk.vals.length = s.setN 1 k) ∧
      (whole → s.playBad k x.last b = true →
        ∃ t, Machine.exec (.playbackBlockFetch k bytes) s = .next t ∧ up t (DMA.PLAY_BAD k) ∧ back t ∧
          t.dma.play = s.dma.play) ∧
      (¬ whole →
        ∃ t, Machine.exec (.playbackBlockFetch k bytes) s = .next t ∧ back t ∧ t.dma.play = s.dma.play ∧
          t.get (SYS.SEAL_CNT 6) = (s.get (SYS.SEAL_CNT 6) + 1) % 2 ^ (SYS.SEAL_CNT 6).w ∧ t.get (DMA.PLAY_BAD k) = s.get (DMA.PLAY_BAD k)))

/-- R425: LINK_STATE reads 0 DISABLED, 1 DOWN, 2 LOCKING, 3 UP. -/
def Obligations.OrbitLinks : Prop :=
  ∀ (s : State) (r : Req) (n q source : Nat) (v : Word), n < 4 → q < 8 →
    let st := s.linkState n
    let onlyLink := fun (t : State) => t = { s with regs := t.regs, orb := { s.orb with links := t.orb.links } }
    let rx := fun (t : State) => t.get (ORB.LINK_FRAMES_RX n) = (s.get (ORB.LINK_FRAMES_RX n) + 1) % 2 ^ 32 ∧ (t.link n).lastRx = s.cycles
    let tx := fun (t : State) (ty group tag : Nat) (pay : List Byte) => onlyLink t ∧
      s.turns t (ORB.LINK_FRAMES_TX n) ((s.get (ORB.LINK_FRAMES_TX n) + 1) % 2 ^ 32) ∧
      (t.link n).sent.getLast? = some ⟨ty, group, tag, pay⟩
    (∀ asym fwd : Nat, asym < 2 ^ 32 → fwd < 8 → s.barred 0x0904 r = none → s.get (ORB.LINK_EN n) = 0 → st = 0 → s.linkMayStart n = true →
      (∃ t, Machine.exec (.orbLinkSet r [⟨1, 1, n⟩, ⟨2, 1, 1⟩, ⟨11, 4, asym⟩]) s = .next t ∧ s.records t r 0x0904 (Reply.ok []) ∧
        t = { s with regs := t.regs, held := t.held, cmd := t.cmd } ∧ t.get (ORB.LINK_EN n) = 1 ∧ t.linkState n = 1 ∧
        t.get (ORB.LINK_ASYM n) = asym ∧ s.keepsBut t [ORB.LINK_EN n, ORB.LINK_LINK_STATE n, ORB.LINK_ASYM n]) ∧
      (∃ t, Machine.exec (.orbLinkSet r [⟨1, 1, n⟩, ⟨10, 1, fwd⟩]) s = .next t ∧ s.records t r 0x0904 (Reply.ok []) ∧
        t.get (ORB.LINK_FWD n 0) = fwd ∧ t.linkState n = 0)) ∧
    (s.busOpen (0x1C0100 + 0x80 * n) →
      (v.toNat.testBit 31 = true → s.get (ORB.LINK_EN n) = 0 → st = 0 → s.linkMayStart n = true →
        ∃ t, Machine.exec (.orbLinkEnWrite source n v) s = .next t ∧ t = { s with regs := t.regs } ∧ t.get (ORB.LINK_EN n) = 1 ∧ t.linkState n = 1 ∧
          s.keepsBut t [ORB.LINK_EN n, ORB.LINK_LINK_STATE n]) ∧
      (v.toNat.testBit 31 = false → st = 3 →
        ∃ t, Machine.exec (.orbLinkEnWrite source n v) s = .next t ∧ t.get (ORB.LINK_EN n) = 0 ∧ t.linkState n = 0 ∧
          t.get (ORB.LINK_BLOCK_LOCK n) = 0 ∧ t.bit ORB.INT ORB.INT_LINK_DOWN = true)) ∧
    (s.busOpen (0x1C0110 + 0x80 * n) → (∀ m, m < 4 → ∀ g, g < 8 → m ≠ n → fwdTarget m (s.get (ORB.LINK_FWD m g)) = none) →
      ∃ t, Machine.exec (.fwdWrite source n v) s = .next t ∧ (∀ g, g < 8 → t.get (ORB.LINK_FWD n g) = v.toNat / 16 ^ g % 8) ∧
        t.get (ORB.LINK_FWD_ERR n) = 0 ∧
        s.keepsBut t (List.flatten [(List.range 8).map (ORB.LINK_FWD n), (List.range 4).map ORB.LINK_FWD_ERR])) ∧
    (st = 1 → s.boot.down.contains (3, 5 + n) = false →
      ∃ t, Machine.exec (.orbBlockLock n) s = .next t ∧ onlyLink t ∧ t.linkState n = 2 ∧ t.get (ORB.LINK_BLOCK_LOCK n) = 1 ∧
        s.keepsBut t [ORB.LINK_LINK_STATE n, ORB.LINK_BLOCK_LOCK n, ORB.LINK_FRAMES_TX n]) ∧
    (∀ eui role index hops : Nat, eui < 2 ^ 64 → role < 4 → index < 16 → st = 2 →
      ∃ t, Machine.exec (.orbLinkUp n eui role index hops) s = .next t ∧ t.linkState n = 3 ∧ t.get (ORB.LINK_PEER_EUI_LO n) = eui % 2 ^ 32 ∧
        t.get (ORB.LINK_PEER_EUI_HI n) = eui / 2 ^ 32 ∧ t.get (ORB.LINK_PEER_ROLE n) = role ∧ t.get (ORB.LINK_PEER_INDEX n) = index ∧
        t.bit ORB.INT ORB.INT_LINK_UP = true ∧ rx t) ∧
    (∀ cause : Nat, st = 3 → n ≠ 3 →
      ∃ t, Machine.exec (.orbLinkLoss n cause) s = .next t ∧ t.linkState n = 1 ∧ t.bit ORB.INT ORB.INT_LINK_DOWN = true ∧
        t.get (ORB.LINK_LINK_DOWN n) = (s.get (ORB.LINK_LINK_DOWN n) + 1) % 2 ^ 32 ∧ (cause = 0 → t.get (ORB.LINK_BLOCK_LOCK n) = 0)) ∧
    (st = 3 → ∃ t, Machine.exec (.orbIdleFrame n) s = .next t ∧ tx t 8 0 (unitAt (s.link n).seqs 8 0) [3]) ∧
    (∀ (tag : Nat) (vals : List Int) (sealw : Nat), st = 3 → s.fwdTo n q = none → s.injecting 4 = false →
      let p := nearPeriod s.media tag
      let l := if s.isMoon ∧ s.on ORB.STATUS_UPB_VALID ∧ n = s.get ORB.STATUS_UPB then s.get ORB.STATUS_UPA else n
      let held := s.orb.slots.any (fun x => x.link == l && x.group == q && x.period == p)
      (sealw = blockSeal 4 q p vals → held = false → (∀ x, s.anvil.ran = some x → x ≤ p) →
        ∃ t, Machine.exec (.orbSampleRx n q tag vals sealw) s = .next t ∧ rx t ∧ t.orb.slots = s.orb.slots ++ [⟨l, q, p, vals⟩] ∧
          s.keepsBut t [ORB.LINK_FRAMES_RX n]) ∧
      (sealw = blockSeal 4 q p vals → held = true →
        ∃ t, Machine.exec (.orbSampleRx n q tag vals sealw) s = .next t ∧ rx t ∧ t.orb.slots = s.orb.slots ∧
          t.get (ORB.LINK_BLK_DUP n) = (s.get (ORB.LINK_BLK_DUP n) + 1) % 2 ^ 32) ∧
      (sealw ≠ blockSeal 4 q p vals →
        ∃ t, Machine.exec (.orbSampleRx n q tag vals sealw) s = .next t ∧ rx t ∧ t.orb.slots = s.orb.slots ∧
          t.get (SYS.SEAL_CNT 4) = (s.get (SYS.SEAL_CNT 4) + 1) % 2 ^ 32 ∧ t.bit SYS.SEAL_INT 4 = true)) ∧
    (∀ raw : Int, st = 3 →
      ∃ t, Machine.exec (.orbTimeTx n raw) s = .next t ∧ (t.link n).txTime = some raw ∧
        tx t 2 0 (unitAt (s.link n).seqs 2 0) (List.flatten [leI 8 raw, leI 8 (((s.link n).rxTime.map Prod.snd).getD 0),
          [if s.saysDrives n then 1 else 0]])) ∧
    (∀ (t1 t2 t3 t4 : Int) (drives : Bool), st = 3 → s.isMoon = false → n ≠ 3 → (s.link n).txTime = some t3 →
      let o := (t2 - t1) - (t4 - t3) - 2 * s.geti (ORB.LINK_ASYM n)
      ∃ t, Machine.exec (.orbTimeRx n t1 t2 (some t4) drives 0) s = .next t ∧ rx t ∧ (t.link n).drives = drives ∧ (t.link n).offset = some o ∧ (t.link n).rxTime = some (t1, t2) ∧
        t.get (ORB.LINK_TIME_RX n) = (s.get (ORB.LINK_TIME_RX n) + 1) % 2 ^ 32 ∧
        t.get (ORB.LINK_DELAY n) = (clampInt 0 0xFFFFFFFF (((t2 - t1) + (t4 - t3)) * 1000 / ns17)).toNat ∧ t.ctr = s.ctr)

/-- R437: STATE and JOIN_STATE read 0 absent, 1 WAIT_START, 2 STARTING, 3 TIME_ACQ, 4 JOINED, 5 ORPHAN. -/
def Obligations.JoiningACluster : Prop :=
  ∀ (s : State) (r : Req) (n d : Nat), n < 4 → 1 ≤ d → d ≤ 15 →
    let st := s.get (ORB.MOON_STATE d)
    let join := s.get ORB.STATUS_JOIN_STATE
    let up := s.linkState n = 3
    let moved := fun (t : State) (x : Nat) => t.get (ORB.MOON_STATE d) = x ∧ t.bit ORB.PRESENT d = decide (x ≠ 0) ∧ t.bit ORB.JOINED d = decide (x = 4)
    (∀ eui en : Nat, eui < 2 ^ 64 → en < 2 → s.barred 0x0902 r = none → st = 0 → s.on (ORB.MOON_EN d) = false →
      (∀ m, m < 4 → s.linkState m ≠ 3) →
      ∃ t, Machine.exec (.moonSet r [⟨1, 1, d⟩, ⟨2, 8, swapBytes 8 eui⟩, ⟨3, 1, en⟩]) s = .next t ∧ s.records t r 0x0902 (Reply.ok []) ∧
        t = { s with regs := t.regs, held := t.held, cmd := t.cmd } ∧ t.moonEui d = eui ∧ t.get (ORB.MOON_EUI_LO d) = eui % 2 ^ 32 ∧ t.get (ORB.MOON_EUI_HI d) = eui / 2 ^ 32 ∧
        t.get (ORB.MOON_EN d) = en ∧ s.keepsBut t [ORB.MOON_EUI_LO d, ORB.MOON_EUI_HI d, ORB.MOON_EN d]) ∧
    (∀ eui hops : Nat, up → s.isMoon = false → hops ≤ 5 → st = 0 → s.on (ORB.MOON_EN d) = true → s.moonEui d = eui →
      (∀ m, m < d → 1 ≤ m → s.on (ORB.MOON_EN m) = false) →
      ∃ t, Machine.exec (.orbControlFrameRx n true (some (eui, hops)) false) s = .next t ∧ moved t 1 ∧ t.get (ORB.MOON_LINK d) = n ∧
        t.get (ORB.MOON_HOPS d) = hops ∧ (t.link n).sent.getLast? = some ⟨8, 0, unitAt (s.link n).seqs 8 0, [1, BitVec.ofNat 8 d, BitVec.ofNat 8 hops]⟩) ∧
    (2 ≤ s.linkState n →
      ∃ t, Machine.exec (.orbControlFrameRx n false none false) s = .next t ∧ t = { s with regs := t.regs } ∧
        s.turns t (ORB.LINK_FCHK_ERR n) ((s.get (ORB.LINK_FCHK_ERR n) + 1) % 2 ^ 32)) ∧
    (s.barred 0x0903 r = none →
      ∃ t, Machine.exec (.moonStart r [⟨1, 2, 2 ^ d⟩]) s = .next t ∧ t = { s with orb := t.orb, cmd := t.cmd } ∧
        t.cmd = { s.cmd with waits := s.cmd.waits ++
          [⟨r, 0x0903, 13, 1, [d], [d], [if st = 1 then waiting else Status.notInState], [0], [], 0, []⟩] } ∧
        (st = 1 → t.orb = { s.orb with starts := s.orb.starts.filter (fun e => e != d) ++ [d] }) ∧ (st ≠ 1 → t.orb = s.orb)) ∧
    (s.nextStart = some d → s.isMoon = false → s.on SYS.STATUS_READY = true →
      ∃ t, Machine.exec .moonStartSend s = .next t ∧ moved t 2 ∧ t.bit ORB.INT ORB.INT_MOON_STARTED = true ∧ t.orb.lastStart = some s.cycles) ∧
    (∀ family : Nat, s.isMoon = false → st = 2 → ∃ t, Machine.exec (.moonConfigApply d family) s = .next t ∧ moved t 3) ∧
    (∀ family : Nat, family < 2 → s.isMoon = true → join = 2 → s.on SYS.STATUS_READY = true → s.on TIME.STATUS_MEDIA_VALID = false →
      ∃ t, Machine.exec (.moonConfigApply d family) s = .next t ∧ t.get ORB.STATUS_JOIN_STATE = 3 ∧ t.get (CLK.DPLL_FAMILY 0) = family ∧
        t.get (CLK.DPLL_RANK 0 7) = 0 ∧ (∀ i, i < 7 → t.get (CLK.DPLL_RANK 0 i) = 15)) ∧
    (∀ (t1 t2 : Int) (drives : Bool), up → s.isMoon = false → st = 3 →
      ∃ t, Machine.exec (.orbTimeRx n t1 t2 none drives d) s = .next t ∧ moved t 4 ∧
        (s.bit ORB.JOINED d = false → t.bit ORB.INT ORB.INT_MOON_JOINED = true)) ∧
    (s.isMoon = false → st = 4 →
      ∃ t, Machine.exec (.moonUplinkLoss d) s = .next t ∧ moved t 5 ∧ t.bit ORB.INT ORB.INT_MOON_LOST = true) ∧
    (s.isMoon = false → 1 ≤ st → st ≤ 3 →
      ∃ t, Machine.exec (.moonUplinkLoss d) s = .next t ∧ moved t 0 ∧ t = { s with regs := t.regs }) ∧
    (s.isMoon = true → s.uplinkUp 0 = false → s.uplinkUp 1 = false →
      let u := s.dropPrimary
      (join = 4 → ∃ t, Machine.exec (.moonUplinkLoss d) s = .next t ∧ t = { u with regs := t.regs } ∧ u.turns t ORB.STATUS_JOIN_STATE 5) ∧
      (1 ≤ join → join ≤ 3 →
        ∃ t, Machine.exec (.moonUplinkLoss d) s = .next t ∧ t.get ORB.STATUS_JOIN_STATE = 0 ∧ t.orb = { s.orb with loaded := false, timeRun := 0 })) ∧
    (∀ hops : Nat, s.isMoon = true → join = 0 →
      ∃ t, Machine.exec (.moonAssignRx n 0 d hops) s = .next t ∧ t.get ORB.STATUS_UPA = n ∧ t.get ORB.STATUS_OWN_INDEX = d ∧
        t.get ORB.STATUS_JOIN_STATE = 1 ∧ t.get (TIME.PORT_STATE 0) = 3 ∧ t.get (TIME.PORT_STATE 1) = 3 ∧ t.orb.held = true ∧ t.orb.hops.1 = hops) ∧
    (s.isMoon = true → join = 1 → s.boot.parked = false →
      ∃ t, Machine.exec .moonStartRx s = .next t ∧ s.turns t ORB.STATUS_JOIN_STATE 2 ∧ t.orb = { s.orb with held := false }) ∧
    (let put := fun x : Queue => if s.absent 7 then x.loseSpill else x
     ∀ (id via : Nat) (b : List Byte), via < 4 → b.length + 6 ≤ 2048 → up → s.isMoon = false → s.get (ORB.LINK_PEER_INDEX n) = 0 →
      (s.roomIn 49 b = true →
        ∃ t, Machine.exec (.orbCommandRx n id s.ownIndex via 0 b) s = .next t ∧
          t.orb.fwd = s.orb.fwd ++ [⟨id, s.ownIndex, 49, pkTagWord b % 512, n⟩] ∧ t.queue 1 = put { s.queue 1 with ready := (s.queue 1).ready ++ itemEntries (cmdItem 49 b) }) ∧
      (d ≠ s.ownIndex → s.linkState via = 3 →
        ∃ t, Machine.exec (.orbCommandRx n id d via 0 b) s = .next t ∧ t.orb.fwd = s.orb.fwd ∧
          (t.link via).sent.getLast? = some ⟨3, 0, unitAt (s.link via).seqs 3 0, List.flatten [le 4 id, [0, BitVec.ofNat 8 d], b]⟩)) ∧
    (∀ record : List Byte, up →
      let it : QItem := ⟨List.flatten [(padTo 16 record).take 4, le 2 (leAt (padTo 16 record) 4 2 % 4096 + 4096 * d), (padTo 16 record).drop 6], []⟩
      (s.upward = false → s.hasRoom 0 2 = true →
        ∃ t lost, Machine.exec (.orbEventRx n d record) s = .next t ∧ ⟨.head it, lost⟩ ∈ (t.queue 0).ready ∧
          (s.isMoon = false → t.get (ORB.MOON_LAST_SEEN d) = s.shortTime)) ∧
      (s.upward = true →
        ∃ t, Machine.exec (.orbEventRx n d record) s = .next t ∧ t.que = s.que ∧
          (t.link s.uplink).sent.getLast? = some ⟨4, 0, unitAt (s.link s.uplink).seqs 4 0, it.hdr⟩))

/-- R446: ROLE reads 0 ALONE, 1 INIT, 2 SOLO, 3 ACTIVE, 4 RESYNC, 5 STANDBY, 6 SILENT. -/
def Obligations.PairRoles : Prop :=
  ∀ (s : State) (r : Req) (source : Nat) (v : Word),
    let role := s.get PAIR.STATUS_ROLE
    let inRole := fun (t : State) (x : Nat) => t.get PAIR.STATUS_ROLE = x ∧ t.bit PAIR.INT PAIR.INT_ROLE = true
    let drives := fun (t : State) (b : Bool) => t.on PAIR.STATUS_DRIVE = b
    let promoted := fun (t : State) => inRole t 2 ∧ drives t true ∧ t.bit PAIR.INT PAIR.INT_PROMOTED = true ∧
      t.get PAIR.PROMOTIONS = (s.get PAIR.PROMOTIONS + 1) % 2 ^ 32
    let resigned := fun (t : State) => inRole t 5 ∧ drives t false ∧ t.on PAIR.STATUS_SYNCED = true ∧
      t.get PAIR.HANDOVERS = (s.get PAIR.HANDOVERS + 1) % 2 ^ 32 ∧ t.get PAIR.PULSE_TX = (s.get PAIR.PULSE_TX + 1) % 2 ^ 32
    let mayResign := role = 3 ∧ s.pair.peerSynced = true ∧ ∃ l, s.pair.lease = some l ∧ s.cycles < l
    let pulse := fun (b : List Byte) => b.length = 16 ∧ crc16 (b.take 14) = leAt b 14 2
    (s.barred 0x0910 r = none → s.isMoon = false → role = 0 → s.on PAIR.CTRL_PAIR_EN = false →
      ∃ t, Machine.exec (.pairSet r [⟨1, 1, 1⟩]) s = .next t ∧ inRole t 1 ∧ drives t false ∧ t.on PAIR.CTRL_PAIR_EN = true ∧
        t.cmd.results.getLast? = some ⟨r.channel, r.tag, 0x0910, Reply.ok []⟩) ∧
    (s.busOpen 0x1D0000 → s.isMoon = false → role = 0 → s.on PAIR.CTRL_PAIR_EN = false → v.toNat.testBit 8 = true → v.toNat.testBit 4 = false →
      v.toNat.testBit 0 = false → ∃ t, Machine.exec (.pairEnWrite source v) s = .next t ∧ inRole t 1 ∧ drives t false ∧ t.on PAIR.CTRL_PAIR_EN = true) ∧
    (role ≠ 0 → s.pair.stopped = false →
      ∃ t, Machine.exec .pulseSend s = .next t ∧ t = { s with regs := t.regs, pair := t.pair } ∧
        s.turns t PAIR.PULSE_TX ((s.get PAIR.PULSE_TX + 1) % 2 ^ 32) ∧ t.pair.seq = (s.pair.seq + 1) % 2 ^ 32 ∧
        t.pair.pulse = s.pulseBytes role false ∧ t.pair.sent.getLast? = some (s.pair.seq, s.cycles)) ∧
    (∀ b : List Byte, role ≠ 0 →
      (¬ pulse b →
        ∃ t, Machine.exec (.pulseRx b) s = .next t ∧ t.get PAIR.PULSE_BAD = (s.get PAIR.PULSE_BAD + 1) % 2 ^ 32 ∧
          t.bit PAIR.INT PAIR.INT_PULSE_ERR = true ∧ s.keepsBut t [PAIR.PULSE_BAD, PAIR.INT]) ∧
      (pulse b →
        ∃ t, Machine.exec (.pulseRx b) s = .next t ∧ t.get PAIR.PULSE_RX = (s.get PAIR.PULSE_RX + 1) % 2 ^ 32 ∧ t.on PAIR.STATUS_PEER_SEEN = true ∧
          t.get PAIR.STATUS_PEER_ROLE = leAt b 0 1 % 8 ∧ t.pair.lastRx = some s.cycles ∧
          (role = 1 → leAt b 0 1 % 8 = 3 → inRole t 4 ∧ t.get PAIR.RESYNC_PHASE = 1) ∧
          (role = 2 → leAt b 0 1 % 8 = 5 → (leAt b 1 1).testBit 0 = true → s.pair.sent = [(leAt b 6 4, s.cycles)] →
            inRole t 3 ∧ t.pair.lease = some (s.cycles + leaseCycles) ∧ t.on PAIR.STATUS_LEASE_VALID = true) ∧
          (role = 5 → (leAt b 0 1).testBit 7 = true → promoted t))) ∧
    (role = 1 → s.get PAIR.STATUS_SIDE = 0 → ∃ t, Machine.exec .pairInitTimeout s = .next t ∧ inRole t 2 ∧ drives t true) ∧
    (role = 3 → ∃ t, Machine.exec .leaseExpiry s = .next t ∧ inRole t 6 ∧ drives t false ∧ t.bit PAIR.INT PAIR.INT_SILENT = true ∧
      t.get PAIR.SILENCES = (s.get PAIR.SILENCES + 1) % 2 ^ 32) ∧
    (role = 5 → s.pair.conf.isSome = true → s.pair.conf = s.pair.lastRx →
      ∃ t, Machine.exec .promotionInstant s = .next t ∧ promoted t ∧ t.get PAIR.LAST_GAP = 11000) ∧
    (role = 4 → ∃ t, Machine.exec .resyncNoPulse s = .next t ∧ inRole t 1 ∧ drives t false ∧ t.on PAIR.STATUS_PEER_SEEN = false) ∧
    (role = 1 ∨ role = 6 →
      (s.barred 0x0912 r = none →
        ∃ t, Machine.exec (.pairForceActive r []) s = .next t ∧ promoted t ∧
          t.cmd.results.getLast? = some ⟨r.channel, r.tag, 0x0912, Reply.ok []⟩) ∧
      (s.busOpen 0x1D0000 → s.isMoon = false → s.on PAIR.CTRL_PAIR_EN = true →
        ∃ t, Machine.exec (.pairForceActiveWrite source) s = .next t ∧ promoted t)) ∧
    (mayResign →
      (s.barred 0x0911 r = none →
        ∃ t, Machine.exec (.pairResign r []) s = .next t ∧ resigned t ∧
          t.cmd.waits.getLast? = some ⟨r, 0x0911, 8, 0, [0], [0], [waiting], [0], [], 0, []⟩) ∧
      (s.busOpen 0x1D0000 → s.isMoon = false → s.on PAIR.CTRL_PAIR_EN = true →
        ∃ t, Machine.exec (.pairResignWrite source) s = .next t ∧ resigned t)) ∧
    (role = 4 →
      (s.get PAIR.RESYNC_PHASE = 1 →
        let u := s.takeConfig
        ∃ t, Machine.exec .resyncPhaseDone s = .next t ∧ u.turns t PAIR.RESYNC_PHASE 2 ∧ t.pair.timeRun = 0) ∧
      (s.get PAIR.RESYNC_PHASE = 2 → 16 ≤ s.pair.timeRun → ∃ t, Machine.exec .resyncPhaseDone s = .next t ∧ s.turns t PAIR.RESYNC_PHASE 3) ∧
      (s.get PAIR.RESYNC_PHASE = 3 →
        let u := s.joinConfig
        ∃ t, Machine.exec .resyncPhaseDone s = .next t ∧ u.turns t PAIR.RESYNC_PHASE 4 ∧ t.pair.matched = 0) ∧
      (s.get PAIR.RESYNC_PHASE = 4 → 48 ≤ s.pair.matched →
        ∃ t, Machine.exec .resyncPhaseDone s = .next t ∧ inRole t 5 ∧ t.on PAIR.STATUS_SYNCED = true ∧
          t.bit PAIR.INT PAIR.INT_RESYNC_DONE = true)) ∧
    (s.barred 0x0914 r = none → role = 5 →
      ∃ t, Machine.exec (.pairResync r []) s = .next t ∧ inRole t 4 ∧ t.get PAIR.RESYNC_PHASE = 1 ∧ t.on PAIR.STATUS_SYNCED = false ∧
        t.cmd.results.getLast? = some ⟨r.channel, r.tag, 0x0914, Reply.ok []⟩)

/-- R453 to R455; the layout of a MIRROR_STATE frame is the model's (assumption 32). -/
def Obligations.PairMirrorAndDigests : Prop :=
  ∀ (s : State), s.standingBy = true → s.linkState 3 = 3 →
    let rxAll := fun (t : State) (k : Nat) => t.get (ORB.LINK_FRAMES_RX 3) = (s.get (ORB.LINK_FRAMES_RX 3) + k) % 2 ^ 32
    let rx := fun (t : State) => rxAll t 1
    (∀ (g tag : Nat) (vals : List Int) (sealw : Nat), g < 48 ∨ (84 ≤ g ∧ g ≤ 100) →
      let p := nearPeriod s.media tag
      (sealw = blockSeal 2 g p vals →
        ∃ t, Machine.exec (.mirrorRowRx g tag vals sealw) s = .next t ∧ rx t ∧ t.pair.rows.find? (fun x => x.1 == g && x.2.1 == p) = some (g, p, vals) ∧
          s.keepsBut t [ORB.LINK_FRAMES_RX 3]) ∧
      (sealw ≠ blockSeal 2 g p vals → ∃ t, Machine.exec (.mirrorRowRx g tag vals sealw) s = .next t ∧ rx t ∧ t.pair = s.pair)) ∧
    (∀ (b : List Byte), leAt b 0 1 = 3 → s.cmd.inflight = [] →
      ∃ t, Machine.exec (.mirrorStateRx b) s = .next t ∧ rxAll t (orbFrames 6 b.length) ∧
        t.cmd = { s.cmd with sessions := s.cmd.sessions.filter (fun y => y.chan != leAt (b.drop 9) 0 1) }) ∧
    (∀ (b : List Byte), leAt b 0 1 = 0 → leAt (b.drop 9) 0 4 = 0x100800 → leAt (b.drop 9) 4 4 = 0 → s.cmd.inflight = [] →
      s.on (QUE.BLW_EN 0) = true → ∃ t, Machine.exec (.mirrorStateRx b) s = .next t ∧ rxAll t (orbFrames 6 b.length) ∧ t.on (QUE.BLW_EN 0) = false) ∧
    (∀ pass digest own : Nat, s.pair.digests = [(pass, own)] →
      (digest = own →
        ∃ t, Machine.exec (.digestRx pass digest) s = .next t ∧ rx t ∧ t.pair = { s.pair with matched := s.pair.matched + 1, differ := 0 }) ∧
      (digest ≠ own →
        ∃ t, Machine.exec (.digestRx pass digest) s = .next t ∧ rx t ∧ t.get PAIR.DIGEST_DIFF = (s.get PAIR.DIGEST_DIFF + 1) % 2 ^ 32 ∧
          t.bit PAIR.INT PAIR.INT_LOCKSTEP = true ∧
          (s.pair.differ + 1 < 48 → t.pair = { s.pair with matched := 0, differ := s.pair.differ + 1 }) ∧
          (48 ≤ s.pair.differ + 1 → s.get PAIR.STATUS_ROLE = 5 → t.get PAIR.STATUS_ROLE = 4)))

/-- R465 to R484: OUTCOME reads 1 PASS, 2 FAIL, 3 DONE, 4 INCOMPLETE, 5 ABORTED for a slice; 1 while a run is in progress, 5 STOPPED. -/
def Obligations.TemperSlicesAndRuns : Prop :=
  ∀ (s : State) (r : Req),
    let free := s.test.slice = none ∧ s.test.run = none ∧ s.test.rep = none
    let quietEnd := s.test.writes = [] ∧ s.cmd.inflight = []
    let started := fun (t : State) (c : Slice) => t.test.slice = some { c with start := s.cycles } ∧ t.on TEST.STATUS_SLICE_ACTIVE = true ∧
      t.get TEST.SLICES = (s.get TEST.SLICES + 1) % 2 ^ 32
    (∀ sets gap : Nat, sets < 8 → gap < 1024 → s.barred 0x0A02 r = none → 1 ≤ s.lifecycle → s.lifecycle ≤ 4 →
      ∃ t, Machine.exec (.testSchedSet r [⟨1, 1, sets⟩, ⟨2, 2, gap⟩]) s = .next t ∧ s.records t r 0x0A02 (Reply.ok []) ∧
        t = { s with regs := t.regs, held := t.held, cmd := t.cmd } ∧ t.get TEST.SETS_EN = sets ∧ t.get TEST.GAP = gap ∧
        s.keepsBut t [TEST.SETS_EN, TEST.GAP]) ∧
    (∀ set unit seed : Nat, set ≤ 6 → unit < setUnits set → unit < 32 → seed < 2 ^ 32 → s.barred 0x0A03 r = none → free → s.lifecycle = 4 → set ≠ 1 →
      (if 3 ≤ set then s.targetIdle set unit = true else s.role set unit = 1) →
      let x : CmdRun := ⟨r.channel, r.tag, 0x0A03, set, unit, 0, true, 0, 0xFFFF, false, false, 0, false, [], []⟩
      ∃ t, Machine.exec (.testRun r [⟨1, 1, set⟩, ⟨2, 1, unit⟩, ⟨3, 1, 0⟩, ⟨4, 1, 1⟩, ⟨5, 4, seed⟩]) s = .next t ∧ t.cmd = s.cmd ∧
        t.test = { s.test with run := some x } ∧ t.on TEST.STATUS_CMD_RUN = true ∧ t.get TEST.RUN_OUTCOME = 1 ∧ t.get TEST.RUN_SEED = seed ∧
        (set < 3 → t.role set unit = 2)) ∧
    (∀ x : CmdRun, s.test.run = some x → quietEnd → s.barred 0x0A04 r = none →
      ∃ t, Machine.exec (.testStop r []) s = .next t ∧ t.test.run = none ∧ t.get TEST.RUN_OUTCOME = 5 ∧ t.on TEST.STATUS_CMD_RUN = false ∧
        t.bit TEST.INT TEST.INT_RUN_DONE = true ∧ t.cmd.results.getLast? = some ⟨r.channel, r.tag, 0x0A04, Reply.ok []⟩) ∧
    (∀ x u : Nat, free → s.schedules = true → s.turnUnit x = some u →
      [s.test.turn % 3, (s.test.turn + 1) % 3, (s.test.turn + 2) % 3].find? (fun y => (s.turnUnit y).isSome) = some x →
      let goesOn := s.role x u = 2 ∧ s.get (TEST.SET_UNIT x) = u
      ∃ t, Machine.exec .temperTurn s = .next t ∧ t.role x u = 2 ∧ t.test.turn = (x + 1) % 3 ∧
        (goesOn → started t ⟨x, u, s.get (TEST.SET_NEXT_SLICE x), if x = 1 then 1 else 0, false, false, 0⟩) ∧
        (¬ goesOn → started t ⟨x, u, 0, if x = 1 then 1 else 0, false, false, 0⟩)) ∧
    (∀ (c : Slice) (sig expect : Nat), s.test.slice = some c → s.test.run = none → quietEnd → c.set = 0 → c.cmd = false → c.mode = 0 →
      sig < 2 ^ 64 → expect < 2 ^ 64 →
      (sig = expect → c.rep = false → s.get (TEST.SET_UNIT 0) = c.unit → s.role 0 c.unit = 2 → c.index + 1 < 256 →
        ∃ t, Machine.exec (.sliceEnd sig expect false) s = .next t ∧ t.test.slice = none ∧ t.on TEST.STATUS_SLICE_ACTIVE = false ∧
          t.get TEST.LAST_OUTCOME = 1 ∧ t.get TEST.SLICES_PASS = (s.get TEST.SLICES_PASS + 1) % 2 ^ 32 ∧ t.get TEST.LAST_SIG_LO = sig % 2 ^ 32 ∧
          t.get TEST.LAST_SIG_HI = sig / 2 ^ 32 ∧ t.get (TEST.SET_NEXT_SLICE 0) = c.index + 1) ∧
      (sig ≠ expect → c.rep = false →
        ∃ t, Machine.exec (.sliceEnd sig expect false) s = .next t ∧ t.test.slice = none ∧ t.test.rep = some { c with rep := true } ∧
          t.get TEST.SLICES_FAIL = s.get TEST.SLICES_FAIL ∧ t.role 0 c.unit = s.role 0 c.unit) ∧
      (sig ≠ expect → c.rep = true →
        ∃ t, Machine.exec (.sliceEnd sig expect false) s = .next t ∧ t.test.slice = none ∧ t.test.rep = none ∧ t.get TEST.LAST_OUTCOME = 2 ∧
          t.get TEST.SLICES_FAIL = (s.get TEST.SLICES_FAIL + 1) % 2 ^ 32 ∧ t.on (TEST.REC_FAILED (tRec 0 c.unit)) = true ∧
          t.bit TEST.INT TEST.INT_FAIL = true)) ∧
    (∀ c : Slice, s.test.slice = some c → s.test.run = none → quietEnd → c.cmd = false →
      ∃ t, Machine.exec .sliceWatchdog s = .next t ∧ t.test.slice = none ∧ t.get TEST.LAST_OUTCOME = 4 ∧ t.on TEST.LAST_SIG_VALID = false ∧
        t.get TEST.SLICES_INCOMPLETE = (s.get TEST.SLICES_INCOMPLETE + 1) % 2 ^ 32 ∧ t.bit TEST.INT TEST.INT_STOPPED = true) ∧
    (∀ c : Slice, s.test.rep = some c → s.test.slice = none → ∃ t, Machine.exec .sliceRepeat s = .next t ∧ started t c) ∧
    (∀ x : CmdRun, s.test.run = some x → x.wait = false → s.test.slice = none → s.test.rep = none →
      ∃ t, Machine.exec .commandedSliceStart s = .next t ∧ started t ⟨x.set, x.unit, s.get TEST.RUN_DONE, x.mode, true, false, 0⟩)

/-- R491 to R499: the calendar counts 1/32,768 s. -/
def Obligations.CalendarAndLifetime : Prop :=
  ∀ (s : State) (r : Req),
    let onlyLife := fun (t : State) => t = { s with regs := t.regs, life := t.life }
    let wear := [LIFE.WEAR 4, LIFE.WEAR_PCT 4, LIFE.INT]
    let counted := fun (t : State) (f : Fld) => t.get f = min (s.get f + 1) (2 ^ 32 - 1) ∧ s.keepsBut t [f]
    (∀ sec off : Nat, sec < 2 ^ 48 → off < 2 ^ 16 → s.barred 0x0B04 r = none →
      ∃ t, Machine.exec (.calSet r [⟨1, 8, sec⟩, ⟨2, 2, off⟩]) s = .next t ∧ s.records t r 0x0B04 (Reply.ok []) ∧
        t = { s with regs := t.regs, life := { s.life with cal := sec * 32768 }, cmd := t.cmd } ∧ t.on LIFE.STATUS_CAL_VALID = true ∧
        t.get LIFE.UTC_OFFSET = off ∧ s.keepsBut t [LIFE.CAL_STEP, LIFE.STATUS_CAL_VALID, LIFE.UTC_OFFSET]) ∧
    (∃ t, Machine.exec .calSubRead s = .next t ∧ t = { s with rd := s.life.cal % 32768, latch := t.latch } ∧
      t.latch.find? (fun x => x.1 == 0x1F0014) = some (0x1F0014, s.calSec % 2 ^ 32) ∧
      t.latch.find? (fun x => x.1 == 0x1F0018) = some (0x1F0018, s.calSec / 2 ^ 32)) ∧
    (s.on LIFE.CTRL_CAL_SYNC_EN = true → s.on TIME.STATUS_MEDIA_VALID = true → s.tracedLock = true → s.syncDue = true →
      ∃ t, Machine.exec .calSync s = .next t ∧ t.life.cal = s.ctr / ctrPerSec % 2 ^ 48 * 32768 ∧ t.life.lastSync = some (s.ctr / ctrPerSec) ∧
        t.get LIFE.LAST_SYNC = s.ctr / ctrPerSec % 2 ^ 32 ∧ t.on LIFE.STATUS_CAL_VALID = true ∧ t.bit LIFE.INT LIFE.INT_CAL_SYNC = true ∧
        s.keepsBut t [LIFE.CAL_STEP, LIFE.STATUS_CAL_VALID, LIFE.LAST_SYNC, LIFE.TRIM, LIFE.INT]) ∧
    (s.on LIFE.STATUS_VBAK_LOW = false →
      ∃ t, Machine.exec .vbakLow s = .next t ∧ s.sameButEvents t ∧ t.on LIFE.STATUS_VBAK_LOW = true ∧ t.bit LIFE.INT LIFE.INT_VBAK_LOW = true ∧
        s.keepsBut t [LIFE.STATUS_VBAK_LOW, LIFE.INT]) ∧
    (∃ t, Machine.exec .vbakRecover s = .next t ∧ onlyLife t ∧ t.life = { s.life with vbak := true } ∧ s.turns t LIFE.STATUS_VBAK_LOW 0) ∧
    (∀ b : Bool, Machine.exec (.vddAonLoss b) s =
      .next { s with life := { s.life with aonLost := true, vbak := b, aonDead := s.life.aonDead || !b } }) ∧
    (Machine.exec .vddAonReturn s = .next { s with life := { s.life with aonLost := false } }) ∧
    (∃ t, Machine.exec .aonMinute s = .next t ∧
      (s.life.aonLost = true → s.life.vbak = true → onlyLife t ∧ t.life = s.life ∧ counted t LIFE.VBAK_MIN) ∧
      (s.life.aonLost = true → s.life.vbak = false → t = s) ∧
      (s.life.aonLost = false → s.boot.dormant = true → onlyLife t ∧ t.life = s.life ∧ counted t LIFE.DORMANT_MIN) ∧
      (s.life.aonLost = false → s.boot.dormant = false → s.boot.porst = false → s.life.tj.count = 0 → s.lifecycle ≠ 4 →
        onlyLife t ∧ t.life = { s.life with sinceCkpt := s.life.sinceCkpt + 1 } ∧ counted t LIFE.POWER_ON_MIN)) ∧
    (∃ t, Machine.exec .checkpointHourly s = .next t ∧ t.life.ckpt = lifeCounters.map s.get ∧ t.life.ckptCal = s.life.cal ∧ t.life.sinceCkpt = 0 ∧
      s.keepsBut t wear) ∧
    (∀ x : Int, -32768 ≤ x → x ≤ 32767 →
      ∃ t, Machine.exec (.tjSample x) s = .next t ∧ onlyLife t ∧ t.geti SYS.TJ = x ∧ t.life.tj.any = true ∧
        (s.life.tj.any = false → t.geti LIFE.TJ_MAX = x ∧ t.geti LIFE.TJ_MIN = x) ∧
        (s.life.tj.any = true → s.geti LIFE.TJ_MAX < x → t.geti LIFE.TJ_MAX = x) ∧
        (s.life.tj.any = true → x < s.geti LIFE.TJ_MIN → t.geti LIFE.TJ_MIN = x) ∧
        s.keepsBut t [SYS.TJ, LIFE.TJ_MAX, LIFE.TJ_MIN, LIFE.THERMAL_CYCLES]) ∧
    (∀ margins : List Nat,
      let m := fun (i : Nat) => min (nth margins i 0) 0xFFFF
      ∃ t, Machine.exec (.marginMeasure margins) s = .next t ∧ (∀ i, i < 16 → t.get (LIFE.MARGIN i) = m i) ∧
        (∀ i, i < 16 → t.get LIFE.MARGIN_MIN ≤ m i) ∧ (∃ i, i < 16 ∧ t.get LIFE.MARGIN_MIN = m i) ∧ t.life.sampleNo = s.life.sampleNo + 1 ∧
        s.keepsBut t (List.flatten [(List.range 16).map LIFE.MARGIN, [LIFE.MARGIN_MIN, LIFE.TREND, LIFE.PROJ_YEARS], wear]))

/-- R501 to R514: LC_STATE reads 1 FACTORY, 2 OWNED, 3 FIELD, 4 SERVICE, 5 RETIRED. -/
def Obligations.LifeCycleKeysAndImages : Prop :=
  ∀ (s : State) (r : Req),
    let lc := s.lifecycle
    let quietEnd := s.test.writes = [] ∧ s.cmd.inflight = []
    let replied := fun (t : State) (op : Nat) (pay : List Byte) => t.cmd.results.getLast? = some ⟨r.channel, r.tag, op, Reply.ok pay⟩
    (s.barred 0x0B05 r = none →
      let v := Config.free s.freeCtr % 2 ^ 128
      Machine.exec (.lcNonceGet r []) s = .next
        ({ s with freeCtr := s.freeCtr + 1, life := { s.life with nonce := le 16 v } }.finish r 0x0B05 (Reply.ok (le 16 v)))) ∧
    (Machine.exec .nonceExpiry s = .next { s with life := { s.life with nonce := [] } }) ∧
    (s.barred 0x0B06 r = none → quietEnd →
      (lc = 2 → ∃ t, Machine.exec (.lcTransition r [⟨1, 1, 3⟩]) s = .next t ∧ t.lifecycle = 3 ∧ t.bit LIFE.INT LIFE.INT_LC = true ∧
        replied t 0x0B06 []) ∧
      (lc = 1 → s.test.run = none → s.test.slice = none →
        ∃ t, Machine.exec (.lcTransition r [⟨1, 1, 5⟩]) s = .next t ∧ t.lifecycle = 5 ∧ t.life.owner = [] ∧ t.life.unitSeed = [] ∧
          t.life.cert = [] ∧ t.life.keys = Vector.replicate 4 (0, []) ∧ t.on LIFE.STATUS_CERT_VALID = false ∧ replied t 0x0B06 []) ∧
      (lc = 3 → Machine.exec (.lcTransition r [⟨1, 1, 2⟩]) s = .next (s.sliceOver.finish r 0x0B06 ⟨Status.notInState, 0, 1, 0, 0, [], []⟩))) ∧
    (lc = 4 → s.get LIFE.SERVICE_LEFT = 0 → quietEnd → s.test.run = none →
      ∃ t, Machine.exec .serviceExpiry s = .next t ∧ t.lifecycle = 3 ∧ t.bit LIFE.INT LIFE.INT_LC = true) ∧
    (∀ k : Nat, k < 2 ^ 256 → lc = 1 → s.test.run = none → s.barred 0x0B07 r = none →
      let seed := le 32 (Config.free s.freeCtr % 2 ^ 256)
      ∃ t, Machine.exec (.ownershipTake r [⟨1, 32, k⟩]) s = .next t ∧ t.lifecycle = 2 ∧ t.life.owner = le 32 k ∧ t.life.unitSeed = seed ∧
        t.life.unitPub = edPublic seed ∧ replied t 0x0B07 (edPublic seed)) ∧
    (∀ c : Nat, c < 2 ^ 832 → s.barred 0x0B08 r = none →
      (edVerify s.life.owner ((le 104 c).take 40) ((le 104 c).drop 40) = true →
        ∃ t, Machine.exec (.unitCertSet r [⟨1, 104, c⟩]) s = .next t ∧ t.life = { s.life with cert := le 104 c } ∧
          t.on LIFE.STATUS_CERT_VALID = true ∧ replied t 0x0B08 [] ∧ s.keepsBut t [LIFE.STATUS_CERT_VALID, LIFE.WEAR 5, LIFE.WEAR_PCT 5, LIFE.INT]) ∧
      (edVerify s.life.owner ((le 104 c).take 40) ((le 104 c).drop 40) = false →
        Machine.exec (.unitCertSet r [⟨1, 104, c⟩]) s = .next (s.finish r 0x0B08 ⟨Status.authFail, 0, 1, 0, 0, [], []⟩))) ∧
    (∀ slot priv k : Nat, slot < 4 → priv < 3 → k < 2 ^ 256 → lc = 1 ∨ lc = 2 ∨ lc = 4 → s.cmd.sessions.filter (fun x => x.slot == slot) = [] →
      s.barred 0x0B09 r = none →
      ∃ t, Machine.exec (.keySet r [⟨1, 1, slot⟩, ⟨2, 1, priv⟩, ⟨3, 32, k⟩]) s = .next t ∧ s.records t r 0x0B09 (Reply.ok []) ∧
        t.life = { s.life with keys := s.life.keys.setIfInBounds slot (priv, le 32 k) } ∧
        s.keepsBut t [LIFE.WEAR 5, LIFE.WEAR_PCT 5, LIFE.INT]) ∧
    (∀ eui : Nat, eui < 2 ^ 64 → lc = 2 ∨ lc = 4 → s.barred 0x0B0A r = none →
      let x := s.life.nextIdent.getD s.life.ident
      ∃ t, Machine.exec (.identitySet r [⟨1, 8, swapBytes 8 eui⟩]) s = .next t ∧ s.records t r 0x0B0A (Reply.ok []) ∧
        t.life = { s.life with nextIdent := some ⟨eui, x.macs, x.hostname, false⟩ } ∧ s.keepsBut t [LIFE.WEAR 5, LIFE.WEAR_PCT 5, LIFE.INT]) ∧
    (s.barred 0x0B0B r = none →
      (s.canSign = true →
        ∃ t, Machine.exec (.configStore r []) s = .next t ∧ replied t 0x0B0B [] ∧ t.get LIFE.STATUS_CONFIG_SLOT = s.otherCfg ∧
          t.on LIFE.STATUS_CONFIG_VALID = true ∧ t.life.cfg = s.life.cfg.setIfInBounds s.otherCfg (s.imageOf (s.get LIFE.STATUS_BL))) ∧
      (s.canSign = false → Machine.exec (.configStore r []) s = .next (s.finish r 0x0B0B (Reply.err Status.notInState)))) ∧
    (∀ off n v : Nat, off < 2 ^ 20 → s.barred 0x0B0D r = none →
      ∃ t, Machine.exec (.configImport r [⟨1, 4, off⟩, ⟨2, n, v⟩]) s = .next t ∧ s.records t r 0x0B0D (Reply.ok []) ∧
        t.life.cfg = s.life.cfg.setIfInBounds s.otherCfg
          (placeAt (if off = 0 then [] else unitAt s.life.cfg s.otherCfg []) off (le n v))) ∧
    (∀ k : Nat, k < 2 → s.barred 0x0B0E r = none →
      let img := unitAt s.life.cfg k []
      (imgLayout img = false ∨ imgLevel img ≤ s.blMax →
        Machine.exec (.configApply r [⟨1, 1, k⟩]) s = .next
          ({ (s.set LIFE.STATUS_CONFIG_SLOT k).set LIFE.STATUS_CONFIG_VALID 1 with boot := { s.boot with arm := some (0, 6) } }.finish r 0x0B0E
            (Reply.ok []))) ∧
      (imgLayout img = true → s.blMax < imgLevel img →
        Machine.exec (.configApply r [⟨1, 1, k⟩]) s = .next (s.finish r 0x0B0E ⟨Status.notInState, 0, 1, 0, 0, [], []⟩))) ∧
    (lc ≠ 5 → s.on LIFE.STATUS_FW_TRIAL = false →
      (∀ (off n v : Nat) (signed : Bool), off < 2 ^ 21 → off + n ≤ 2 ^ 21 → s.barred 0x0B0F r = none →
        (Machine.exec (.fwWrite r [⟨1, 4, off⟩, ⟨2, n, v⟩] signed) s = .next
          ({ s with life := { s.life with fwImp := placeAt (if off = 0 then [] else s.life.fwImp) off (le n v) } }.finish r 0x0B0F (Reply.ok []))) ∧
        (∃ t, Machine.exec (.fwWrite r [⟨1, 4, 0⟩, ⟨2, n, v⟩, ⟨3, 1, 1⟩] signed) s = .next t ∧
          t.life = { s.life with fw := s.life.fw.setIfInBounds s.fwTarget (fwImage (le n v) signed), fwImp := [] } ∧
          s.records t r 0x0B0F (if t.slotResult s.fwTarget = 0 then Reply.ok [] else ⟨Status.authFail, 0, 2, 8, 0, [], []⟩))) ∧
      (s.slotResult s.fwTarget = 0 → s.barred 0x0B10 r = none →
        ∃ t, Machine.exec (.fwActivate r []) s = .next t ∧ replied t 0x0B10 [] ∧ t.life.preferred = s.fwTarget ∧ t.on LIFE.STATUS_FW_TRIAL = true ∧
          t.bit LIFE.INT LIFE.INT_FW = true)) ∧
    (s.on LIFE.STATUS_FW_TRIAL = true → s.get LIFE.STATUS_FW_SLOT = s.life.preferred →
      (s.barred 0x0B11 r = none →
        ∃ t, Machine.exec (.fwConfirm r []) s = .next t ∧ replied t 0x0B11 [] ∧ t.on LIFE.STATUS_FW_TRIAL = false ∧
          t.life = { s.life with secCount := max s.life.secCount (s.fwSlot s.life.preferred).security } ∧ t.bit LIFE.INT LIFE.INT_FW = true) ∧
      (s.on SYS.STATUS_READY = true →
        ∃ t, Machine.exec .fwTrialTimeout s = .next t ∧ t.life.preferred = 1 - s.life.preferred ∧ t.on LIFE.STATUS_FW_TRIAL = false ∧
          t.bit LIFE.INT LIFE.INT_FW = true))

/-- R521, R522, R524, R527: STEP shows the row in progress. -/
def Obligations.StartRowsInOrder : Prop :=
  ∀ (s : State) (straps k : Nat),
    let row := fun (n : Nat) => s.boot.parked = false ∧ s.isMoon = false ∧ s.get SYS.STATUS_STEP = n
    let onlyStep := fun (t : State) (n : Nat) => t = s.set SYS.STATUS_STEP n
    (∃ t, Machine.exec .porstAssert s = .next t ∧ t.get SYS.STATUS_STEP = 0 ∧ t.on SYS.STATUS_READY = false ∧
      t.get SYS.RESET_CAUSE = 1 ∧ t.boot.porst = true ∧ t.cycles = s.cycles ∧ t.pending = s.pending ∧ t.cmd = State.reset.cmd) ∧
    (s.boot.porst = true →
      ∃ t, Machine.exec (.porstRelease straps) s = .next t ∧ t.get SYS.STATUS_STEP = 1 ∧ t.boot.porst = false ∧
        t.boot.kind = 0 ∧ t.boot.released = s.cycles ∧ t.on SYS.STATUS_BOOT_SRC = straps.testBit 2 ∧
        t.on SYS.STATUS_PAIR_SIDE = straps.testBit 1 ∧ t.on SYS.STATUS_CLUSTER_ROLE = straps.testBit 0) ∧
    (row 1 → ∃ t, Machine.exec .startRowComplete s = .next t ∧ onlyStep t 2) ∧
    (row 2 → s.on CLK.XO_OK = true → Machine.exec .startRowComplete s = .next (s.set SYS.STATUS_STEP 3).cksPins) ∧
    (row 3 → s.boot.wrst = false → ∃ t, Machine.exec .startRowComplete s = .next t ∧ onlyStep t 4) ∧
    (row 4 → ∃ t, Machine.exec .startRowComplete s = .next t ∧ onlyStep t 5) ∧
    (row 5 → ∃ t, Machine.exec .startRowComplete s = .next t ∧ onlyStep t 6) ∧
    (row 6 → ∃ t, Machine.exec .startRowComplete s = .next t ∧ t.get SYS.STATUS_STEP = 7 ∧ t.boot.row7 = s.cycles) ∧
    (row 7 → s.chooseSlot = .inl k → ∃ t, Machine.exec .startRowComplete s = .next t ∧ t.get SYS.STATUS_STEP = 8 ∧ t.boot.slot = k ∧
      t.get SYS.BOOT_SLOT0_RESULT = s.slotResult 0 % 16 ∧ t.get SYS.BOOT_SLOT1_RESULT = s.slotResult 1 % 16) ∧
    (row 7 → s.chooseSlot = .inr k → ∃ t, Machine.exec .startRowComplete s = .next t ∧ t.get SYS.STATUS_STEP = 12 ∧
      t.on SYS.STATUS_RECOVERY = true ∧ t.bit SYS.INT SYS.INT_RECOVERY = true ∧ t.on SYS.STATUS_READY = s.on SYS.STATUS_READY) ∧
    (row 8 → s.life.aonDead = false → ∃ t, Machine.exec .startRowComplete s = .next t ∧ onlyStep t 9) ∧
    (row 9 → ∃ t, Machine.exec .startRowComplete s = .next t ∧ t.get SYS.STATUS_STEP = 10) ∧
    (row 10 → ∃ t, Machine.exec .startRowComplete s = .next t ∧ t.get SYS.STATUS_STEP = 11) ∧
    (row 11 → ∃ t, Machine.exec .startRowComplete s = .next t ∧ t.get SYS.STATUS_STEP = 12 ∧ t.on SYS.STATUS_READY = true ∧
      t.bit SYS.INT SYS.INT_READY = true ∧ t.get SYS.BOOT_FAILS = 0 ∧ t.test.sched = true) ∧
    (s.boot.held = true → ∃ t, Machine.exec .wrstRelease s = .next t ∧ t.boot.held = false ∧ t.boot.wrst = false ∧ t.boot.kind = 1 ∧
      t.get SYS.STATUS_STEP = if s.on CLK.XO_OK then 3 else 2)

/-- R531: RESET_CAUSE keeps a bit per cause; a warm start begins at row 3 unless XO_IN has been lost (R532). -/
def Obligations.ResetsByCommandPinAndFault : Prop :=
  ∀ (s : State) (r : Req) (straps rail cause source : Nat) (v : Word),
    let warm := fun (t : State) (cause : Nat) =>
      t.bit SYS.RESET_CAUSE cause = true ∧ t.get SYS.STATUS_STEP = (if s.on CLK.XO_OK then 3 else 2) ∧ t.boot.kind = 1 ∧
        t.boot.arm = none ∧ t.boot.released = s.cycles ∧ t.pending = s.pending ∧ t.cmd = State.reset.cmd
    (s.boot.wrst = false → s.boot.porst = false →
      (s.boot.kind = 0 → s.get SYS.STATUS_STEP ≠ 1 ∧ s.get SYS.STATUS_STEP ≠ 2) → s.boot.dormant = false → s.boot.phase = 0 →
      ∃ t, Machine.exec .wrstAssert s = .next t ∧ t.boot.wrst = true ∧ t.boot.held = true ∧ t.bit SYS.RESET_CAUSE 2 = true ∧
        t.get SYS.STATUS_STEP = 0 ∧ t.pending = s.pending) ∧
    (cause < 2 → s.barred 0x0140 r = none →
      Machine.exec (.sysReset r [⟨1, 1, cause⟩]) s = .next
        ({ s with boot := { s.boot with arm := some (cause, 3 + cause) } }.finish r 0x0140 (Reply.ok []))) ∧
    (s.boot.arm = some (0, 3) → ∃ t, Machine.exec (.sysResetAct straps) s = .next t ∧ warm t 3) ∧
    (s.boot.arm = some (1, 4) → ∃ t, Machine.exec (.sysResetAct straps) s = .next t ∧ t.get SYS.RESET_CAUSE = 16 ∧
      t.get SYS.STATUS_STEP = 1 ∧ t.on SYS.STATUS_BOOT_SRC = straps.testBit 2 ∧ t.pending = s.pending) ∧
    (7 ≤ s.get SYS.STATUS_STEP → s.on SYS.STATUS_READY = false → s.on SYS.STATUS_RECOVERY = false → s.boot.parked = false →
      ∃ t, Machine.exec .startWatchdog s = .next t ∧ warm t 8) ∧
    (∃ t, Machine.exec .lockstepMismatch s = .next t ∧ t.bit SYS.RESET_CAUSE 7 = true ∧ t.boot.kind = 1 ∧ t.cmd = State.reset.cmd ∧
      t.pending = s.pending) ∧
    (s.busOpen 0x3C → v.toNat / 2 ^ 16 = 0x5752 → v.toNat % 2 = 1 →
      ∃ t, Machine.exec (.warmResetWrite source v) s = .next t ∧ warm t 5) ∧
    (rail ≤ 5 → s.boot.porst = false →
      ∃ t, Machine.exec (.brownoutReset rail straps) s = .next t ∧ t.get SYS.RESET_CAUSE = 2 ∧ t.get SYS.STATUS_STEP = 1 ∧
        t.on SYS.STATUS_BOOT_SRC = straps.testBit 2 ∧ t.pending = s.pending)

/-- R526, R533, R535, R536, R550. -/
def Obligations.SuppliesDormancyAndHostReset : Prop :=
  ∀ (s : State) (r : Req) (rail unit : Nat) (inRange busy : Bool) (f : WireFrame),
    (rail ≤ 5 → s.bit SYS.RAIL_WARN rail = false → s.boot.dormant = false →
      ∃ t, Machine.exec (.brownoutWarning rail busy) s = .next t ∧ t.bit SYS.RAIL_WARN rail = true ∧
        t.bit SYS.INT SYS.INT_BROWNOUT = true ∧ t.get (SYS.BO_WARN rail) = (s.get (SYS.BO_WARN rail) + 1) % 2 ^ 32) ∧
    (rail ≤ 5 → s.bit SYS.RAIL_WARN rail = true →
      ∃ t, Machine.exec (.brownoutRecover rail inRange) s = .next t ∧ t.bit SYS.RAIL_WARN rail = false ∧
        t.bit SYS.INT SYS.INT_BROWNOUT = true ∧ t.bit SYS.RAIL_IN_RANGE rail = inRange) ∧
    (s.barred 0x0142 r = none → s.on PAIR.CTRL_PAIR_EN = false → s.isMoon = false → s.on ORB.JOINED = false → (s.port 2).link = 2 →
      s.wakeArmed = true → s.boot.phase = 0 →
      ∃ t, Machine.exec (.dormantEnter r []) s = .next t ∧ t.boot.phase = 1 ∧
        t.cmd.results.getLast? = some ⟨r.channel, r.tag, 0x0142, Reply.ok []⟩) ∧
    (s.boot.phase = 1 → ∃ t, Machine.exec .dormantForceStop s = .next t ∧ t.boot.phase = 2) ∧
    (s.boot.phase = 2 → s.boot.wake = false →
      ∃ t, Machine.exec .dormantPowerDown s = .next t ∧ t.boot.dormant = true ∧ t.boot.phase = 0 ∧ t.on DMA.STATUS_HOST_LOST = true ∧
        t.on SYS.STATUS_READY = false ∧ t.pending = s.pending) ∧
    (s.boot.dormant = true → s.on PORT.WAKE_LINK_WAKE = true →
      ∃ t, Machine.exec (.dormantWake 1 f) s = .next t ∧ t.boot.dormant = false ∧ t.boot.kind = 2 ∧ t.bit SYS.RESET_CAUSE 9 = true ∧
        t.get PORT.WAKE_CAUSE = 3 ∧ t.pending = s.pending) ∧
    (s.get SYS.STATUS_STEP = 4 → unit < 9 →
      ∃ t, Machine.exec (.startUnitTimeout 3 unit false) s = .next t ∧ t.bit SYS.INT SYS.INT_START_FAULT = true ∧
        t.boot = { s.boot with down := s.boot.down ++ [(3, unit)] } ∧ t.get SYS.STATUS_STEP = 4) ∧
    (s.get SYS.STATUS_STEP = 5 → unit < 9 → s.get (QUE.BANK_ROLE unit) ≠ 4 →
      ∃ t, Machine.exec (.startUnitTimeout 0 unit true) s = .next t ∧ t.bit SYS.INT SYS.INT_START_FAULT = true ∧
        t.get (QUE.BANK_ROLE unit) = 4) ∧
    (∃ t, Machine.exec .pciePerst s = .next t ∧ t.get DMA.STATUS_BME = 0 ∧ (∀ v, v < 64 → t.get (MSIX.MASK v) = 1) ∧
      t.dma.msi = [] ∧ t.pending = s.pending)

/-- R352, R354 and R355: no bit of a request is dropped between its sender and the engine. -/
def Obligations.RequestPacketsReadBack : Prop :=
  ∀ (s : State) (op need : Nat) (r : Req) (ts : List Tlv),
    let b := requestBytes op r ts
    op < 2 ^ 16 → isN5 op = false → r.tag < 512 → r.seq < 2 ^ 32 → r.device < 16 → r.waitMs = waitOf ts → r.noWait = Params.has ts 0xF002 →
    (∀ x ∈ ts, x.ty < 2 ^ 16 ∧ x.len < 2 ^ 16 ∧ x.val < 256 ^ x.len) → (ts.flatMap tlvBytes).length ≤ 65532 →
      pkOp b = op ∧ reqOf r.channel b = r ∧ readTlvs (pkPlen b) (pkParams b) 0 = (ts, none) ∧ pkPlen b % 4 = 0 ∧ headerOk b = true ∧
      b.length = 16 + pkPlen b + (if r.sealed then 4 else 0) ∧
      (r.sealed = true → leAt b (16 + pkPlen b) 4 = crc32c (b.take (16 + pkPlen b))) ∧
      (opPriv op = some need → need ≤ s.chanPriv r.channel → s.isDevice r.device = true → r.all = false → r.direct = false →
        s.requestCheck r.channel b = none)

/-- R353 and R358, on a reply that goes from one device of a cluster to another. -/
def Obligations.ReplyPacketsReadBack : Prop :=
  ∀ (q : Req) (op tagWord t : Nat) (r : Reply),
    let b := replyBytes q op tagWord t r
    op < 2 ^ 16 → tagWord < 2 ^ 16 → r.status < 2 ^ 16 → r.partMask < 2 ^ 32 → (replyPayload r).length < 2 ^ 16 →
    (r.status = 0 → r.errTlv = 0 ∧ r.errOffset = 0 ∧ r.undoFail = 0 ∧ r.partStatus = []) →
    (r.status ≠ 0 → r.errTlv < 2 ^ 16 ∧ r.errOffset < 2 ^ 16 ∧ r.undoFail < 2 ^ 32 ∧ r.payload = [] ∧ ∀ x ∈ r.partStatus, x < 2 ^ 16) →
      replyOf b = r ∧ leAt b 0 2 = tagWord ∧ leAt b 10 2 = op ∧ leAt b 8 2 = (replyPayload r).length ∧ leAt b 12 4 = t % 2 ^ 32 ∧
      b.length = 16 + leAt b 8 2 + (if q.sealed then 4 else 0)

/-- R368, of a request with its outcome recorded, with no pair to mirror to and nothing held back behind it. -/
def Obligations.NoReplyRequestsReplyNothing : Prop :=
  ∀ (s : State) (ch : Nat) (f : InFlight) (rep : Reply),
    s.inFlight ch f.req.tag = some f → f.req.channel = ch → f.req.noReply = true → s.waitOf ch f.req.tag = none → s.mirrors = false →
    (∀ g ∈ s.cmd.inflight, g.started = true) → s.sessionOn ch = none → s.cmd.results = [⟨ch, f.req.tag, f.opcode, rep⟩] →
    (replyPayload rep).length ≤ 65532 → ch < 256 →
      ∃ t, Machine.exec (.requestComplete ch f.req.tag) s = .next t ∧ t.queue 2 = s.queue 2 ∧ t.inFlight ch f.req.tag = none ∧ t.cmd.results = [] ∧
        s.sameButEvents { t with cmd := s.cmd } ∧ s.keepsBut t [CMD.TAGS, CMD.PEAK_TAGS] ∧
        (rep.status = 0 → t.que = s.que ∧ t.dma = s.dma) ∧
        (rep.status ≠ 0 → ∃ u, u = s.cmdEvent 0x0151 ch (le 2 f.opcode ++ le 2 f.req.tag ++ le 2 rep.status) ∧ t.que = u.que ∧ t.dma = u.dma)


/-- The reset values of the spec's register tables, R66 and R73. -/
def Obligations.ResetState : Prop :=
  State.reset.Canonical ∧ (∀ f : Fld, State.reset.get f = f.reset % 2 ^ f.w) ∧
    State.reset.ctr = 0 ∧ State.reset.time.incr = 0x140000000 ∧ State.reset.get TIME.SERVO_SLEW_MAX = 10000000 ∧
    (∀ i, i < 11 → State.reset.queue i = Queue.empty) ∧ State.reset.cmd.inflight = [] ∧ State.reset.cmd.sessions = [] ∧
    State.reset.pending = [] ∧ State.reset.latch = [] ∧ State.reset.held = [] ∧ State.reset.dma.msi = []
end

