-- ==== Sys2Proof/Laws/Regs.lean ====
section
/-! SUPPORT. What a write of one register field can change, and that the register file keeps its canonical form. -/

namespace Sys2Proof.Machine

theorem RegFile.lookup_erase_self (k : Nat) (rf : RegFile) : RegFile.lookup k (RegFile.erase k rf) = none := by
  induction rf with
  | nil => rfl
  | cons p t ih =>
    obtain ⟨a, b⟩ := p
    by_cases h : a = k
    · simp [RegFile.erase, h, ih]
    · simp [RegFile.erase, h, RegFile.lookup, ih]

theorem RegFile.lookup_erase_of_ne {k j : Nat} (h : k ≠ j) (rf : RegFile) :
    RegFile.lookup j (RegFile.erase k rf) = RegFile.lookup j rf := by
  induction rf with
  | nil => rfl
  | cons p t ih =>
    obtain ⟨a, b⟩ := p
    by_cases hk : a = k
    · subst hk; simp [RegFile.erase, RegFile.lookup, h, ih]
    · simp [RegFile.erase, hk, RegFile.lookup, ih]

theorem RegFile.lookup_insert_self {k : Nat} (v : Nat) {rf : RegFile} (h : RegFile.lookup k rf = none) :
    RegFile.lookup k (RegFile.insert k v rf) = some v := by
  induction rf with
  | nil => simp [RegFile.insert, RegFile.lookup]
  | cons p t ih =>
    obtain ⟨a, b⟩ := p
    by_cases ha : a = k
    · simp [RegFile.lookup, ha] at h
    · by_cases hk : a < k
      · simp [RegFile.insert, hk, RegFile.lookup, ha, ih (by simpa [RegFile.lookup, ha] using h)]
      · simp [RegFile.insert, hk, RegFile.lookup]

theorem RegFile.lookup_insert_of_ne {k j : Nat} (h : k ≠ j) (v : Nat) (rf : RegFile) :
    RegFile.lookup j (RegFile.insert k v rf) = RegFile.lookup j rf := by
  induction rf with
  | nil => simp [RegFile.insert, RegFile.lookup, h]
  | cons p t ih =>
    obtain ⟨a, b⟩ := p
    by_cases hk : a < k
    · simp [RegFile.insert, hk, RegFile.lookup, ih]
    · simp [RegFile.insert, hk, RegFile.lookup, h]

/-- A field reads what was written to it, cut to its width. -/
theorem RegFile.get_set_self (rf : RegFile) (f : Fld) (v : Nat) : (rf.set f v).get f = v % 2 ^ f.w := by
  by_cases h : v % 2 ^ f.w = f.reset
  · simp [RegFile.set, RegFile.get, h, RegFile.lookup_erase_self]
    rw [← h, Nat.mod_mod]
  · simp [RegFile.set, RegFile.get, h, RegFile.lookup_insert_self _ (RegFile.lookup_erase_self _ _)]

/-- A field stored under another key reads as before. -/
theorem RegFile.get_set_of_ne (rf : RegFile) {f g : Fld} (h : f.key ≠ g.key) (v : Nat) : (rf.set f v).get g = rf.get g := by
  by_cases hv : v % 2 ^ f.w = f.reset
  · simp [RegFile.set, RegFile.get, hv, RegFile.lookup_erase_of_ne h]
  · simp [RegFile.set, RegFile.get, hv, RegFile.lookup_insert_of_ne h, RegFile.lookup_erase_of_ne h]

/-- A field reads less than two to its width. -/
theorem RegFile.get_lt (rf : RegFile) (f : Fld) : rf.get f < 2 ^ f.w := Nat.mod_lt _ (Nat.two_pow_pos _)

/-! ## The canonical form -/

/-- Every key is at least `n`, and they rise strictly. -/
def RegFile.risesFrom : Nat → RegFile → Bool
  | _, [] => true
  | n, (a, _) :: t => decide (n ≤ a) && RegFile.risesFrom (a + 1) t

theorem RegFile.risesFrom_mono {n m : Nat} (h : n ≤ m) {rf : RegFile} (hr : RegFile.risesFrom m rf = true) :
    RegFile.risesFrom n rf = true := by
  cases rf with
  | nil => rfl
  | cons p t =>
    obtain ⟨a, b⟩ := p
    simp [RegFile.risesFrom] at hr ⊢
    exact ⟨by omega, hr.2⟩

theorem RegFile.wf_cons_iff (a b : Nat) (t : RegFile) :
    RegFile.wf ((a, b) :: t) = RegFile.risesFrom (a + 1) t := by
  induction t generalizing a b with
  | nil => rfl
  | cons p t ih =>
    obtain ⟨c, d⟩ := p
    simp [RegFile.wf, RegFile.risesFrom, ih]

theorem RegFile.wf_iff (rf : RegFile) : rf.wf = RegFile.risesFrom 0 rf := by
  cases rf with
  | nil => rfl
  | cons p t =>
    obtain ⟨a, b⟩ := p
    rw [RegFile.wf_cons_iff]; simp [RegFile.risesFrom]

theorem RegFile.risesFrom_erase (k : Nat) {n : Nat} {rf : RegFile} (h : RegFile.risesFrom n rf = true) :
    RegFile.risesFrom n (RegFile.erase k rf) = true := by
  induction rf generalizing n with
  | nil => rfl
  | cons p t ih =>
    obtain ⟨a, b⟩ := p
    simp [RegFile.risesFrom] at h
    by_cases hk : a = k
    · simp only [RegFile.erase, hk, if_true]
      exact RegFile.risesFrom_mono (by omega) (ih h.2)
    · simp [RegFile.erase, hk, RegFile.risesFrom, h.1, ih h.2]

theorem RegFile.risesFrom_insert {k n : Nat} (v : Nat) {rf : RegFile} (hn : n ≤ k) (h : RegFile.risesFrom n rf = true)
    (hk : RegFile.lookup k rf = none) : RegFile.risesFrom n (RegFile.insert k v rf) = true := by
  induction rf generalizing n with
  | nil => simp [RegFile.insert, RegFile.risesFrom, hn]
  | cons p t ih =>
    obtain ⟨a, b⟩ := p
    simp [RegFile.risesFrom] at h
    have ha : a ≠ k := by
      intro e
      simp [RegFile.lookup, e] at hk
    by_cases hlt : a < k
    · simp [RegFile.insert, hlt, RegFile.risesFrom, h.1, ih (by omega) h.2 (by simpa [RegFile.lookup, ha] using hk)]
    · simp [RegFile.insert, hlt, RegFile.risesFrom, hn]
      exact ⟨by omega, h.2⟩

/-- A write of a field keeps the canonical form. -/
theorem RegFile.wf_set {rf : RegFile} (h : rf.wf = true) (f : Fld) (v : Nat) : (rf.set f v).wf = true := by
  rw [RegFile.wf_iff] at h ⊢
  have he := RegFile.risesFrom_erase f.key h
  by_cases hv : v % 2 ^ f.w = f.reset
  · simpa [RegFile.set, hv] using he
  · simp only [RegFile.set, hv, if_false]
    exact RegFile.risesFrom_insert _ (by omega) he (RegFile.lookup_erase_self _ _)

theorem RegFile.risesFrom_filter (q : Nat × Nat → Bool) {n : Nat} {rf : RegFile} (h : RegFile.risesFrom n rf = true) :
    RegFile.risesFrom n (rf.filter q) = true := by
  induction rf generalizing n with
  | nil => rfl
  | cons p t ih =>
    obtain ⟨a, b⟩ := p
    simp [RegFile.risesFrom] at h
    by_cases hq : q (a, b) = true
    · simp [hq, RegFile.risesFrom, h.1, ih h.2]
    · simp only [List.filter_cons, hq]
      exact RegFile.risesFrom_mono (by omega) (ih h.2)

/-- Giving fields their reset values keeps the canonical form. -/
theorem RegFile.wf_filter {rf : RegFile} (h : rf.wf = true) (q : Nat × Nat → Bool) : RegFile.wf (rf.filter q) = true := by
  rw [RegFile.wf_iff] at h ⊢
  exact RegFile.risesFrom_filter q h

theorem RegFile.wf_resetRange {rf : RegFile} (h : rf.wf = true) (lo hi : Nat) : (rf.resetRange lo hi).wf = true :=
  RegFile.wf_filter h _

/-! ## The same of a state -/

@[simp] theorem State.get_set_self (s : State) (f : Fld) (v : Nat) : (s.set f v).get f = v % 2 ^ f.w :=
  RegFile.get_set_self _ _ _

theorem State.get_set_of_ne (s : State) {f g : Fld} (h : f.key ≠ g.key) (v : Nat) : (s.set f v).get g = s.get g :=
  RegFile.get_set_of_ne _ h _

theorem State.get_lt (s : State) (f : Fld) : s.get f < 2 ^ f.w := RegFile.get_lt _ _

theorem State.get_congr {s t : State} (h : t.regs = s.regs) (f : Fld) : t.get f = s.get f := by
  simp [State.get, h]

/-- A one-bit field that was set reads on, one that was cleared reads off. -/
theorem State.on_setOn_self (s : State) (f : Fld) (b : Bool) (hw : f.w = 1) : (s.setOn f b).on f = b := by
  cases b <;> simp [State.on, State.setOn, hw]

theorem State.on_setOn_of_ne (s : State) {f g : Fld} (h : f.key ≠ g.key) (b : Bool) : (s.setOn f b).on g = s.on g := by
  simp [State.on, State.setOn, State.get_set_of_ne _ h]

/-- Bit `i` of a field reads as it was set. -/
theorem State.bit_setBit_self (s : State) (f : Fld) (i : Nat) (hi : i < f.w) : (s.setBit f i true).bit f i = true := by
  simp [State.bit, State.setBit, Nat.testBit_mod_two_pow, hi, Nat.testBit_or]

/-- A counter that wraps counts modulo two to its width (R20). -/
theorem State.get_count_self (s : State) (f : Fld) : (s.count f).get f = (s.get f + 1) % 2 ^ f.w := by
  simp [State.count, State.countBy]

end Sys2Proof.Machine
end

