-- ==== Sys2Proof/Laws/State.lean ====
section
/-! SUPPORT. What each named update of the state leaves alone, one lemma per field. -/

namespace Sys2Proof.Machine

@[simp] theorem State.held_set (s : State) (f : Fld) (v : Nat) : (s.set f v).held = s.held := rfl
@[simp] theorem State.latch_set (s : State) (f : Fld) (v : Nat) : (s.set f v).latch = s.latch := rfl
@[simp] theorem State.rd_set (s : State) (f : Fld) (v : Nat) : (s.set f v).rd = s.rd := rfl
@[simp] theorem State.cycles_set (s : State) (f : Fld) (v : Nat) : (s.set f v).cycles = s.cycles := rfl
@[simp] theorem State.ctr_set (s : State) (f : Fld) (v : Nat) : (s.set f v).ctr = s.ctr := rfl
@[simp] theorem State.freeCtr_set (s : State) (f : Fld) (v : Nat) : (s.set f v).freeCtr = s.freeCtr := rfl
@[simp] theorem State.holdoff_set (s : State) (f : Fld) (v : Nat) : (s.set f v).holdoff = s.holdoff := rfl
@[simp] theorem State.que_set (s : State) (f : Fld) (v : Nat) : (s.set f v).que = s.que := rfl
@[simp] theorem State.cmd_set (s : State) (f : Fld) (v : Nat) : (s.set f v).cmd = s.cmd := rfl
@[simp] theorem State.svc_set (s : State) (f : Fld) (v : Nat) : (s.set f v).svc = s.svc := rfl
@[simp] theorem State.time_set (s : State) (f : Fld) (v : Nat) : (s.set f v).time = s.time := rfl
@[simp] theorem State.clk_set (s : State) (f : Fld) (v : Nat) : (s.set f v).clk = s.clk := rfl
@[simp] theorem State.ports_set (s : State) (f : Fld) (v : Nat) : (s.set f v).ports = s.ports := rfl
@[simp] theorem State.strm_set (s : State) (f : Fld) (v : Nat) : (s.set f v).strm = s.strm := rfl
@[simp] theorem State.seals_set (s : State) (f : Fld) (v : Nat) : (s.set f v).seals = s.seals := rfl
@[simp] theorem State.tdm_set (s : State) (f : Fld) (v : Nat) : (s.set f v).tdm = s.tdm := rfl
@[simp] theorem State.amp_set (s : State) (f : Fld) (v : Nat) : (s.set f v).amp = s.amp := rfl
@[simp] theorem State.anvil_set (s : State) (f : Fld) (v : Nat) : (s.set f v).anvil = s.anvil := rfl
@[simp] theorem State.dma_set (s : State) (f : Fld) (v : Nat) : (s.set f v).dma = s.dma := rfl
@[simp] theorem State.csp_set (s : State) (f : Fld) (v : Nat) : (s.set f v).csp = s.csp := rfl
@[simp] theorem State.boot_set (s : State) (f : Fld) (v : Nat) : (s.set f v).boot = s.boot := rfl
@[simp] theorem State.orb_set (s : State) (f : Fld) (v : Nat) : (s.set f v).orb = s.orb := rfl
@[simp] theorem State.pair_set (s : State) (f : Fld) (v : Nat) : (s.set f v).pair = s.pair := rfl
@[simp] theorem State.test_set (s : State) (f : Fld) (v : Nat) : (s.set f v).test = s.test := rfl
@[simp] theorem State.life_set (s : State) (f : Fld) (v : Nat) : (s.set f v).life = s.life := rfl
@[simp] theorem State.pending_set (s : State) (f : Fld) (v : Nat) : (s.set f v).pending = s.pending := rfl

@[simp] theorem State.held_seti (s : State) (f : Fld) (i : Int) : (s.seti f i).held = s.held := rfl
@[simp] theorem State.latch_seti (s : State) (f : Fld) (i : Int) : (s.seti f i).latch = s.latch := rfl
@[simp] theorem State.rd_seti (s : State) (f : Fld) (i : Int) : (s.seti f i).rd = s.rd := rfl
@[simp] theorem State.cycles_seti (s : State) (f : Fld) (i : Int) : (s.seti f i).cycles = s.cycles := rfl
@[simp] theorem State.ctr_seti (s : State) (f : Fld) (i : Int) : (s.seti f i).ctr = s.ctr := rfl
@[simp] theorem State.freeCtr_seti (s : State) (f : Fld) (i : Int) : (s.seti f i).freeCtr = s.freeCtr := rfl
@[simp] theorem State.holdoff_seti (s : State) (f : Fld) (i : Int) : (s.seti f i).holdoff = s.holdoff := rfl
@[simp] theorem State.que_seti (s : State) (f : Fld) (i : Int) : (s.seti f i).que = s.que := rfl
@[simp] theorem State.cmd_seti (s : State) (f : Fld) (i : Int) : (s.seti f i).cmd = s.cmd := rfl
@[simp] theorem State.svc_seti (s : State) (f : Fld) (i : Int) : (s.seti f i).svc = s.svc := rfl
@[simp] theorem State.time_seti (s : State) (f : Fld) (i : Int) : (s.seti f i).time = s.time := rfl
@[simp] theorem State.clk_seti (s : State) (f : Fld) (i : Int) : (s.seti f i).clk = s.clk := rfl
@[simp] theorem State.ports_seti (s : State) (f : Fld) (i : Int) : (s.seti f i).ports = s.ports := rfl
@[simp] theorem State.strm_seti (s : State) (f : Fld) (i : Int) : (s.seti f i).strm = s.strm := rfl
@[simp] theorem State.seals_seti (s : State) (f : Fld) (i : Int) : (s.seti f i).seals = s.seals := rfl
@[simp] theorem State.tdm_seti (s : State) (f : Fld) (i : Int) : (s.seti f i).tdm = s.tdm := rfl
@[simp] theorem State.amp_seti (s : State) (f : Fld) (i : Int) : (s.seti f i).amp = s.amp := rfl
@[simp] theorem State.anvil_seti (s : State) (f : Fld) (i : Int) : (s.seti f i).anvil = s.anvil := rfl
@[simp] theorem State.dma_seti (s : State) (f : Fld) (i : Int) : (s.seti f i).dma = s.dma := rfl
@[simp] theorem State.csp_seti (s : State) (f : Fld) (i : Int) : (s.seti f i).csp = s.csp := rfl
@[simp] theorem State.boot_seti (s : State) (f : Fld) (i : Int) : (s.seti f i).boot = s.boot := rfl
@[simp] theorem State.orb_seti (s : State) (f : Fld) (i : Int) : (s.seti f i).orb = s.orb := rfl
@[simp] theorem State.pair_seti (s : State) (f : Fld) (i : Int) : (s.seti f i).pair = s.pair := rfl
@[simp] theorem State.test_seti (s : State) (f : Fld) (i : Int) : (s.seti f i).test = s.test := rfl
@[simp] theorem State.life_seti (s : State) (f : Fld) (i : Int) : (s.seti f i).life = s.life := rfl
@[simp] theorem State.pending_seti (s : State) (f : Fld) (i : Int) : (s.seti f i).pending = s.pending := rfl

@[simp] theorem State.held_setOn (s : State) (f : Fld) (b : Bool) : (s.setOn f b).held = s.held := rfl
@[simp] theorem State.latch_setOn (s : State) (f : Fld) (b : Bool) : (s.setOn f b).latch = s.latch := rfl
@[simp] theorem State.rd_setOn (s : State) (f : Fld) (b : Bool) : (s.setOn f b).rd = s.rd := rfl
@[simp] theorem State.cycles_setOn (s : State) (f : Fld) (b : Bool) : (s.setOn f b).cycles = s.cycles := rfl
@[simp] theorem State.ctr_setOn (s : State) (f : Fld) (b : Bool) : (s.setOn f b).ctr = s.ctr := rfl
@[simp] theorem State.freeCtr_setOn (s : State) (f : Fld) (b : Bool) : (s.setOn f b).freeCtr = s.freeCtr := rfl
@[simp] theorem State.holdoff_setOn (s : State) (f : Fld) (b : Bool) : (s.setOn f b).holdoff = s.holdoff := rfl
@[simp] theorem State.que_setOn (s : State) (f : Fld) (b : Bool) : (s.setOn f b).que = s.que := rfl
@[simp] theorem State.cmd_setOn (s : State) (f : Fld) (b : Bool) : (s.setOn f b).cmd = s.cmd := rfl
@[simp] theorem State.svc_setOn (s : State) (f : Fld) (b : Bool) : (s.setOn f b).svc = s.svc := rfl
@[simp] theorem State.time_setOn (s : State) (f : Fld) (b : Bool) : (s.setOn f b).time = s.time := rfl
@[simp] theorem State.clk_setOn (s : State) (f : Fld) (b : Bool) : (s.setOn f b).clk = s.clk := rfl
@[simp] theorem State.ports_setOn (s : State) (f : Fld) (b : Bool) : (s.setOn f b).ports = s.ports := rfl
@[simp] theorem State.strm_setOn (s : State) (f : Fld) (b : Bool) : (s.setOn f b).strm = s.strm := rfl
@[simp] theorem State.seals_setOn (s : State) (f : Fld) (b : Bool) : (s.setOn f b).seals = s.seals := rfl
@[simp] theorem State.tdm_setOn (s : State) (f : Fld) (b : Bool) : (s.setOn f b).tdm = s.tdm := rfl
@[simp] theorem State.amp_setOn (s : State) (f : Fld) (b : Bool) : (s.setOn f b).amp = s.amp := rfl
@[simp] theorem State.anvil_setOn (s : State) (f : Fld) (b : Bool) : (s.setOn f b).anvil = s.anvil := rfl
@[simp] theorem State.dma_setOn (s : State) (f : Fld) (b : Bool) : (s.setOn f b).dma = s.dma := rfl
@[simp] theorem State.csp_setOn (s : State) (f : Fld) (b : Bool) : (s.setOn f b).csp = s.csp := rfl
@[simp] theorem State.boot_setOn (s : State) (f : Fld) (b : Bool) : (s.setOn f b).boot = s.boot := rfl
@[simp] theorem State.orb_setOn (s : State) (f : Fld) (b : Bool) : (s.setOn f b).orb = s.orb := rfl
@[simp] theorem State.pair_setOn (s : State) (f : Fld) (b : Bool) : (s.setOn f b).pair = s.pair := rfl
@[simp] theorem State.test_setOn (s : State) (f : Fld) (b : Bool) : (s.setOn f b).test = s.test := rfl
@[simp] theorem State.life_setOn (s : State) (f : Fld) (b : Bool) : (s.setOn f b).life = s.life := rfl
@[simp] theorem State.pending_setOn (s : State) (f : Fld) (b : Bool) : (s.setOn f b).pending = s.pending := rfl

@[simp] theorem State.held_setBit (s : State) (f : Fld) (i : Nat) (b : Bool) : (s.setBit f i b).held = s.held := rfl
@[simp] theorem State.latch_setBit (s : State) (f : Fld) (i : Nat) (b : Bool) : (s.setBit f i b).latch = s.latch := rfl
@[simp] theorem State.rd_setBit (s : State) (f : Fld) (i : Nat) (b : Bool) : (s.setBit f i b).rd = s.rd := rfl
@[simp] theorem State.cycles_setBit (s : State) (f : Fld) (i : Nat) (b : Bool) : (s.setBit f i b).cycles = s.cycles := rfl
@[simp] theorem State.ctr_setBit (s : State) (f : Fld) (i : Nat) (b : Bool) : (s.setBit f i b).ctr = s.ctr := rfl
@[simp] theorem State.freeCtr_setBit (s : State) (f : Fld) (i : Nat) (b : Bool) : (s.setBit f i b).freeCtr = s.freeCtr := rfl
@[simp] theorem State.holdoff_setBit (s : State) (f : Fld) (i : Nat) (b : Bool) : (s.setBit f i b).holdoff = s.holdoff := rfl
@[simp] theorem State.que_setBit (s : State) (f : Fld) (i : Nat) (b : Bool) : (s.setBit f i b).que = s.que := rfl
@[simp] theorem State.cmd_setBit (s : State) (f : Fld) (i : Nat) (b : Bool) : (s.setBit f i b).cmd = s.cmd := rfl
@[simp] theorem State.svc_setBit (s : State) (f : Fld) (i : Nat) (b : Bool) : (s.setBit f i b).svc = s.svc := rfl
@[simp] theorem State.time_setBit (s : State) (f : Fld) (i : Nat) (b : Bool) : (s.setBit f i b).time = s.time := rfl
@[simp] theorem State.clk_setBit (s : State) (f : Fld) (i : Nat) (b : Bool) : (s.setBit f i b).clk = s.clk := rfl
@[simp] theorem State.ports_setBit (s : State) (f : Fld) (i : Nat) (b : Bool) : (s.setBit f i b).ports = s.ports := rfl
@[simp] theorem State.strm_setBit (s : State) (f : Fld) (i : Nat) (b : Bool) : (s.setBit f i b).strm = s.strm := rfl
@[simp] theorem State.seals_setBit (s : State) (f : Fld) (i : Nat) (b : Bool) : (s.setBit f i b).seals = s.seals := rfl
@[simp] theorem State.tdm_setBit (s : State) (f : Fld) (i : Nat) (b : Bool) : (s.setBit f i b).tdm = s.tdm := rfl
@[simp] theorem State.amp_setBit (s : State) (f : Fld) (i : Nat) (b : Bool) : (s.setBit f i b).amp = s.amp := rfl
@[simp] theorem State.anvil_setBit (s : State) (f : Fld) (i : Nat) (b : Bool) : (s.setBit f i b).anvil = s.anvil := rfl
@[simp] theorem State.dma_setBit (s : State) (f : Fld) (i : Nat) (b : Bool) : (s.setBit f i b).dma = s.dma := rfl
@[simp] theorem State.csp_setBit (s : State) (f : Fld) (i : Nat) (b : Bool) : (s.setBit f i b).csp = s.csp := rfl
@[simp] theorem State.boot_setBit (s : State) (f : Fld) (i : Nat) (b : Bool) : (s.setBit f i b).boot = s.boot := rfl
@[simp] theorem State.orb_setBit (s : State) (f : Fld) (i : Nat) (b : Bool) : (s.setBit f i b).orb = s.orb := rfl
@[simp] theorem State.pair_setBit (s : State) (f : Fld) (i : Nat) (b : Bool) : (s.setBit f i b).pair = s.pair := rfl
@[simp] theorem State.test_setBit (s : State) (f : Fld) (i : Nat) (b : Bool) : (s.setBit f i b).test = s.test := rfl
@[simp] theorem State.life_setBit (s : State) (f : Fld) (i : Nat) (b : Bool) : (s.setBit f i b).life = s.life := rfl
@[simp] theorem State.pending_setBit (s : State) (f : Fld) (i : Nat) (b : Bool) : (s.setBit f i b).pending = s.pending := rfl

@[simp] theorem State.held_countBy (s : State) (f : Fld) (n : Nat) : (s.countBy f n).held = s.held := rfl
@[simp] theorem State.latch_countBy (s : State) (f : Fld) (n : Nat) : (s.countBy f n).latch = s.latch := rfl
@[simp] theorem State.rd_countBy (s : State) (f : Fld) (n : Nat) : (s.countBy f n).rd = s.rd := rfl
@[simp] theorem State.cycles_countBy (s : State) (f : Fld) (n : Nat) : (s.countBy f n).cycles = s.cycles := rfl
@[simp] theorem State.ctr_countBy (s : State) (f : Fld) (n : Nat) : (s.countBy f n).ctr = s.ctr := rfl
@[simp] theorem State.freeCtr_countBy (s : State) (f : Fld) (n : Nat) : (s.countBy f n).freeCtr = s.freeCtr := rfl
@[simp] theorem State.holdoff_countBy (s : State) (f : Fld) (n : Nat) : (s.countBy f n).holdoff = s.holdoff := rfl
@[simp] theorem State.que_countBy (s : State) (f : Fld) (n : Nat) : (s.countBy f n).que = s.que := rfl
@[simp] theorem State.cmd_countBy (s : State) (f : Fld) (n : Nat) : (s.countBy f n).cmd = s.cmd := rfl
@[simp] theorem State.svc_countBy (s : State) (f : Fld) (n : Nat) : (s.countBy f n).svc = s.svc := rfl
@[simp] theorem State.time_countBy (s : State) (f : Fld) (n : Nat) : (s.countBy f n).time = s.time := rfl
@[simp] theorem State.clk_countBy (s : State) (f : Fld) (n : Nat) : (s.countBy f n).clk = s.clk := rfl
@[simp] theorem State.ports_countBy (s : State) (f : Fld) (n : Nat) : (s.countBy f n).ports = s.ports := rfl
@[simp] theorem State.strm_countBy (s : State) (f : Fld) (n : Nat) : (s.countBy f n).strm = s.strm := rfl
@[simp] theorem State.seals_countBy (s : State) (f : Fld) (n : Nat) : (s.countBy f n).seals = s.seals := rfl
@[simp] theorem State.tdm_countBy (s : State) (f : Fld) (n : Nat) : (s.countBy f n).tdm = s.tdm := rfl
@[simp] theorem State.amp_countBy (s : State) (f : Fld) (n : Nat) : (s.countBy f n).amp = s.amp := rfl
@[simp] theorem State.anvil_countBy (s : State) (f : Fld) (n : Nat) : (s.countBy f n).anvil = s.anvil := rfl
@[simp] theorem State.dma_countBy (s : State) (f : Fld) (n : Nat) : (s.countBy f n).dma = s.dma := rfl
@[simp] theorem State.csp_countBy (s : State) (f : Fld) (n : Nat) : (s.countBy f n).csp = s.csp := rfl
@[simp] theorem State.boot_countBy (s : State) (f : Fld) (n : Nat) : (s.countBy f n).boot = s.boot := rfl
@[simp] theorem State.orb_countBy (s : State) (f : Fld) (n : Nat) : (s.countBy f n).orb = s.orb := rfl
@[simp] theorem State.pair_countBy (s : State) (f : Fld) (n : Nat) : (s.countBy f n).pair = s.pair := rfl
@[simp] theorem State.test_countBy (s : State) (f : Fld) (n : Nat) : (s.countBy f n).test = s.test := rfl
@[simp] theorem State.life_countBy (s : State) (f : Fld) (n : Nat) : (s.countBy f n).life = s.life := rfl
@[simp] theorem State.pending_countBy (s : State) (f : Fld) (n : Nat) : (s.countBy f n).pending = s.pending := rfl

@[simp] theorem State.held_count (s : State) (f : Fld) : (s.count f).held = s.held := rfl
@[simp] theorem State.latch_count (s : State) (f : Fld) : (s.count f).latch = s.latch := rfl
@[simp] theorem State.rd_count (s : State) (f : Fld) : (s.count f).rd = s.rd := rfl
@[simp] theorem State.cycles_count (s : State) (f : Fld) : (s.count f).cycles = s.cycles := rfl
@[simp] theorem State.ctr_count (s : State) (f : Fld) : (s.count f).ctr = s.ctr := rfl
@[simp] theorem State.freeCtr_count (s : State) (f : Fld) : (s.count f).freeCtr = s.freeCtr := rfl
@[simp] theorem State.holdoff_count (s : State) (f : Fld) : (s.count f).holdoff = s.holdoff := rfl
@[simp] theorem State.que_count (s : State) (f : Fld) : (s.count f).que = s.que := rfl
@[simp] theorem State.cmd_count (s : State) (f : Fld) : (s.count f).cmd = s.cmd := rfl
@[simp] theorem State.svc_count (s : State) (f : Fld) : (s.count f).svc = s.svc := rfl
@[simp] theorem State.time_count (s : State) (f : Fld) : (s.count f).time = s.time := rfl
@[simp] theorem State.clk_count (s : State) (f : Fld) : (s.count f).clk = s.clk := rfl
@[simp] theorem State.ports_count (s : State) (f : Fld) : (s.count f).ports = s.ports := rfl
@[simp] theorem State.strm_count (s : State) (f : Fld) : (s.count f).strm = s.strm := rfl
@[simp] theorem State.seals_count (s : State) (f : Fld) : (s.count f).seals = s.seals := rfl
@[simp] theorem State.tdm_count (s : State) (f : Fld) : (s.count f).tdm = s.tdm := rfl
@[simp] theorem State.amp_count (s : State) (f : Fld) : (s.count f).amp = s.amp := rfl
@[simp] theorem State.anvil_count (s : State) (f : Fld) : (s.count f).anvil = s.anvil := rfl
@[simp] theorem State.dma_count (s : State) (f : Fld) : (s.count f).dma = s.dma := rfl
@[simp] theorem State.csp_count (s : State) (f : Fld) : (s.count f).csp = s.csp := rfl
@[simp] theorem State.boot_count (s : State) (f : Fld) : (s.count f).boot = s.boot := rfl
@[simp] theorem State.orb_count (s : State) (f : Fld) : (s.count f).orb = s.orb := rfl
@[simp] theorem State.pair_count (s : State) (f : Fld) : (s.count f).pair = s.pair := rfl
@[simp] theorem State.test_count (s : State) (f : Fld) : (s.count f).test = s.test := rfl
@[simp] theorem State.life_count (s : State) (f : Fld) : (s.count f).life = s.life := rfl
@[simp] theorem State.pending_count (s : State) (f : Fld) : (s.count f).pending = s.pending := rfl

@[simp] theorem State.regs_finish (s : State) (r : Req) (op : Nat) (x : Reply) : (s.finish r op x).regs = s.regs := rfl
@[simp] theorem State.held_finish (s : State) (r : Req) (op : Nat) (x : Reply) : (s.finish r op x).held = s.held := rfl
@[simp] theorem State.latch_finish (s : State) (r : Req) (op : Nat) (x : Reply) : (s.finish r op x).latch = s.latch := rfl
@[simp] theorem State.rd_finish (s : State) (r : Req) (op : Nat) (x : Reply) : (s.finish r op x).rd = s.rd := rfl
@[simp] theorem State.cycles_finish (s : State) (r : Req) (op : Nat) (x : Reply) : (s.finish r op x).cycles = s.cycles := rfl
@[simp] theorem State.ctr_finish (s : State) (r : Req) (op : Nat) (x : Reply) : (s.finish r op x).ctr = s.ctr := rfl
@[simp] theorem State.freeCtr_finish (s : State) (r : Req) (op : Nat) (x : Reply) : (s.finish r op x).freeCtr = s.freeCtr := rfl
@[simp] theorem State.holdoff_finish (s : State) (r : Req) (op : Nat) (x : Reply) : (s.finish r op x).holdoff = s.holdoff := rfl
@[simp] theorem State.que_finish (s : State) (r : Req) (op : Nat) (x : Reply) : (s.finish r op x).que = s.que := rfl
@[simp] theorem State.svc_finish (s : State) (r : Req) (op : Nat) (x : Reply) : (s.finish r op x).svc = s.svc := rfl
@[simp] theorem State.time_finish (s : State) (r : Req) (op : Nat) (x : Reply) : (s.finish r op x).time = s.time := rfl
@[simp] theorem State.clk_finish (s : State) (r : Req) (op : Nat) (x : Reply) : (s.finish r op x).clk = s.clk := rfl
@[simp] theorem State.ports_finish (s : State) (r : Req) (op : Nat) (x : Reply) : (s.finish r op x).ports = s.ports := rfl
@[simp] theorem State.strm_finish (s : State) (r : Req) (op : Nat) (x : Reply) : (s.finish r op x).strm = s.strm := rfl
@[simp] theorem State.seals_finish (s : State) (r : Req) (op : Nat) (x : Reply) : (s.finish r op x).seals = s.seals := rfl
@[simp] theorem State.tdm_finish (s : State) (r : Req) (op : Nat) (x : Reply) : (s.finish r op x).tdm = s.tdm := rfl
@[simp] theorem State.amp_finish (s : State) (r : Req) (op : Nat) (x : Reply) : (s.finish r op x).amp = s.amp := rfl
@[simp] theorem State.anvil_finish (s : State) (r : Req) (op : Nat) (x : Reply) : (s.finish r op x).anvil = s.anvil := rfl
@[simp] theorem State.dma_finish (s : State) (r : Req) (op : Nat) (x : Reply) : (s.finish r op x).dma = s.dma := rfl
@[simp] theorem State.csp_finish (s : State) (r : Req) (op : Nat) (x : Reply) : (s.finish r op x).csp = s.csp := rfl
@[simp] theorem State.boot_finish (s : State) (r : Req) (op : Nat) (x : Reply) : (s.finish r op x).boot = s.boot := rfl
@[simp] theorem State.orb_finish (s : State) (r : Req) (op : Nat) (x : Reply) : (s.finish r op x).orb = s.orb := rfl
@[simp] theorem State.pair_finish (s : State) (r : Req) (op : Nat) (x : Reply) : (s.finish r op x).pair = s.pair := rfl
@[simp] theorem State.test_finish (s : State) (r : Req) (op : Nat) (x : Reply) : (s.finish r op x).test = s.test := rfl
@[simp] theorem State.life_finish (s : State) (r : Req) (op : Nat) (x : Reply) : (s.finish r op x).life = s.life := rfl
@[simp] theorem State.pending_finish (s : State) (r : Req) (op : Nat) (x : Reply) : (s.finish r op x).pending = s.pending := rfl
@[simp] theorem State.get_finish (s : State) (r : Req) (op : Nat) (x : Reply) (f : Fld) : (s.finish r op x).get f = s.get f := rfl

@[simp] theorem State.regs_addWait (s : State) (w : Wait) : (s.addWait w).regs = s.regs := rfl
@[simp] theorem State.held_addWait (s : State) (w : Wait) : (s.addWait w).held = s.held := rfl
@[simp] theorem State.latch_addWait (s : State) (w : Wait) : (s.addWait w).latch = s.latch := rfl
@[simp] theorem State.rd_addWait (s : State) (w : Wait) : (s.addWait w).rd = s.rd := rfl
@[simp] theorem State.cycles_addWait (s : State) (w : Wait) : (s.addWait w).cycles = s.cycles := rfl
@[simp] theorem State.ctr_addWait (s : State) (w : Wait) : (s.addWait w).ctr = s.ctr := rfl
@[simp] theorem State.freeCtr_addWait (s : State) (w : Wait) : (s.addWait w).freeCtr = s.freeCtr := rfl
@[simp] theorem State.holdoff_addWait (s : State) (w : Wait) : (s.addWait w).holdoff = s.holdoff := rfl
@[simp] theorem State.que_addWait (s : State) (w : Wait) : (s.addWait w).que = s.que := rfl
@[simp] theorem State.svc_addWait (s : State) (w : Wait) : (s.addWait w).svc = s.svc := rfl
@[simp] theorem State.time_addWait (s : State) (w : Wait) : (s.addWait w).time = s.time := rfl
@[simp] theorem State.clk_addWait (s : State) (w : Wait) : (s.addWait w).clk = s.clk := rfl
@[simp] theorem State.ports_addWait (s : State) (w : Wait) : (s.addWait w).ports = s.ports := rfl
@[simp] theorem State.strm_addWait (s : State) (w : Wait) : (s.addWait w).strm = s.strm := rfl
@[simp] theorem State.seals_addWait (s : State) (w : Wait) : (s.addWait w).seals = s.seals := rfl
@[simp] theorem State.tdm_addWait (s : State) (w : Wait) : (s.addWait w).tdm = s.tdm := rfl
@[simp] theorem State.amp_addWait (s : State) (w : Wait) : (s.addWait w).amp = s.amp := rfl
@[simp] theorem State.anvil_addWait (s : State) (w : Wait) : (s.addWait w).anvil = s.anvil := rfl
@[simp] theorem State.dma_addWait (s : State) (w : Wait) : (s.addWait w).dma = s.dma := rfl
@[simp] theorem State.csp_addWait (s : State) (w : Wait) : (s.addWait w).csp = s.csp := rfl
@[simp] theorem State.boot_addWait (s : State) (w : Wait) : (s.addWait w).boot = s.boot := rfl
@[simp] theorem State.orb_addWait (s : State) (w : Wait) : (s.addWait w).orb = s.orb := rfl
@[simp] theorem State.pair_addWait (s : State) (w : Wait) : (s.addWait w).pair = s.pair := rfl
@[simp] theorem State.test_addWait (s : State) (w : Wait) : (s.addWait w).test = s.test := rfl
@[simp] theorem State.life_addWait (s : State) (w : Wait) : (s.addWait w).life = s.life := rfl
@[simp] theorem State.pending_addWait (s : State) (w : Wait) : (s.addWait w).pending = s.pending := rfl
@[simp] theorem State.get_addWait (s : State) (w : Wait) (f : Fld) : (s.addWait w).get f = s.get f := rfl

@[simp] theorem State.regs_setQueue (s : State) (i : Nat) (q : Queue) : (s.setQueue i q).regs = s.regs := rfl
@[simp] theorem State.held_setQueue (s : State) (i : Nat) (q : Queue) : (s.setQueue i q).held = s.held := rfl
@[simp] theorem State.latch_setQueue (s : State) (i : Nat) (q : Queue) : (s.setQueue i q).latch = s.latch := rfl
@[simp] theorem State.rd_setQueue (s : State) (i : Nat) (q : Queue) : (s.setQueue i q).rd = s.rd := rfl
@[simp] theorem State.cycles_setQueue (s : State) (i : Nat) (q : Queue) : (s.setQueue i q).cycles = s.cycles := rfl
@[simp] theorem State.ctr_setQueue (s : State) (i : Nat) (q : Queue) : (s.setQueue i q).ctr = s.ctr := rfl
@[simp] theorem State.freeCtr_setQueue (s : State) (i : Nat) (q : Queue) : (s.setQueue i q).freeCtr = s.freeCtr := rfl
@[simp] theorem State.holdoff_setQueue (s : State) (i : Nat) (q : Queue) : (s.setQueue i q).holdoff = s.holdoff := rfl
@[simp] theorem State.cmd_setQueue (s : State) (i : Nat) (q : Queue) : (s.setQueue i q).cmd = s.cmd := rfl
@[simp] theorem State.svc_setQueue (s : State) (i : Nat) (q : Queue) : (s.setQueue i q).svc = s.svc := rfl
@[simp] theorem State.time_setQueue (s : State) (i : Nat) (q : Queue) : (s.setQueue i q).time = s.time := rfl
@[simp] theorem State.clk_setQueue (s : State) (i : Nat) (q : Queue) : (s.setQueue i q).clk = s.clk := rfl
@[simp] theorem State.ports_setQueue (s : State) (i : Nat) (q : Queue) : (s.setQueue i q).ports = s.ports := rfl
@[simp] theorem State.strm_setQueue (s : State) (i : Nat) (q : Queue) : (s.setQueue i q).strm = s.strm := rfl
@[simp] theorem State.seals_setQueue (s : State) (i : Nat) (q : Queue) : (s.setQueue i q).seals = s.seals := rfl
@[simp] theorem State.tdm_setQueue (s : State) (i : Nat) (q : Queue) : (s.setQueue i q).tdm = s.tdm := rfl
@[simp] theorem State.amp_setQueue (s : State) (i : Nat) (q : Queue) : (s.setQueue i q).amp = s.amp := rfl
@[simp] theorem State.anvil_setQueue (s : State) (i : Nat) (q : Queue) : (s.setQueue i q).anvil = s.anvil := rfl
@[simp] theorem State.dma_setQueue (s : State) (i : Nat) (q : Queue) : (s.setQueue i q).dma = s.dma := rfl
@[simp] theorem State.csp_setQueue (s : State) (i : Nat) (q : Queue) : (s.setQueue i q).csp = s.csp := rfl
@[simp] theorem State.boot_setQueue (s : State) (i : Nat) (q : Queue) : (s.setQueue i q).boot = s.boot := rfl
@[simp] theorem State.orb_setQueue (s : State) (i : Nat) (q : Queue) : (s.setQueue i q).orb = s.orb := rfl
@[simp] theorem State.pair_setQueue (s : State) (i : Nat) (q : Queue) : (s.setQueue i q).pair = s.pair := rfl
@[simp] theorem State.test_setQueue (s : State) (i : Nat) (q : Queue) : (s.setQueue i q).test = s.test := rfl
@[simp] theorem State.life_setQueue (s : State) (i : Nat) (q : Queue) : (s.setQueue i q).life = s.life := rfl
@[simp] theorem State.pending_setQueue (s : State) (i : Nat) (q : Queue) : (s.setQueue i q).pending = s.pending := rfl
@[simp] theorem State.get_setQueue (s : State) (i : Nat) (q : Queue) (f : Fld) : (s.setQueue i q).get f = s.get f := rfl

@[simp] theorem State.regs_holdoffMark (s : State) (c u : Nat) : (s.holdoffMark c u).regs = s.regs := rfl
@[simp] theorem State.held_holdoffMark (s : State) (c u : Nat) : (s.holdoffMark c u).held = s.held := rfl
@[simp] theorem State.latch_holdoffMark (s : State) (c u : Nat) : (s.holdoffMark c u).latch = s.latch := rfl
@[simp] theorem State.rd_holdoffMark (s : State) (c u : Nat) : (s.holdoffMark c u).rd = s.rd := rfl
@[simp] theorem State.cycles_holdoffMark (s : State) (c u : Nat) : (s.holdoffMark c u).cycles = s.cycles := rfl
@[simp] theorem State.ctr_holdoffMark (s : State) (c u : Nat) : (s.holdoffMark c u).ctr = s.ctr := rfl
@[simp] theorem State.freeCtr_holdoffMark (s : State) (c u : Nat) : (s.holdoffMark c u).freeCtr = s.freeCtr := rfl
@[simp] theorem State.que_holdoffMark (s : State) (c u : Nat) : (s.holdoffMark c u).que = s.que := rfl
@[simp] theorem State.cmd_holdoffMark (s : State) (c u : Nat) : (s.holdoffMark c u).cmd = s.cmd := rfl
@[simp] theorem State.svc_holdoffMark (s : State) (c u : Nat) : (s.holdoffMark c u).svc = s.svc := rfl
@[simp] theorem State.time_holdoffMark (s : State) (c u : Nat) : (s.holdoffMark c u).time = s.time := rfl
@[simp] theorem State.clk_holdoffMark (s : State) (c u : Nat) : (s.holdoffMark c u).clk = s.clk := rfl
@[simp] theorem State.ports_holdoffMark (s : State) (c u : Nat) : (s.holdoffMark c u).ports = s.ports := rfl
@[simp] theorem State.strm_holdoffMark (s : State) (c u : Nat) : (s.holdoffMark c u).strm = s.strm := rfl
@[simp] theorem State.seals_holdoffMark (s : State) (c u : Nat) : (s.holdoffMark c u).seals = s.seals := rfl
@[simp] theorem State.tdm_holdoffMark (s : State) (c u : Nat) : (s.holdoffMark c u).tdm = s.tdm := rfl
@[simp] theorem State.amp_holdoffMark (s : State) (c u : Nat) : (s.holdoffMark c u).amp = s.amp := rfl
@[simp] theorem State.anvil_holdoffMark (s : State) (c u : Nat) : (s.holdoffMark c u).anvil = s.anvil := rfl
@[simp] theorem State.dma_holdoffMark (s : State) (c u : Nat) : (s.holdoffMark c u).dma = s.dma := rfl
@[simp] theorem State.csp_holdoffMark (s : State) (c u : Nat) : (s.holdoffMark c u).csp = s.csp := rfl
@[simp] theorem State.boot_holdoffMark (s : State) (c u : Nat) : (s.holdoffMark c u).boot = s.boot := rfl
@[simp] theorem State.orb_holdoffMark (s : State) (c u : Nat) : (s.holdoffMark c u).orb = s.orb := rfl
@[simp] theorem State.pair_holdoffMark (s : State) (c u : Nat) : (s.holdoffMark c u).pair = s.pair := rfl
@[simp] theorem State.test_holdoffMark (s : State) (c u : Nat) : (s.holdoffMark c u).test = s.test := rfl
@[simp] theorem State.life_holdoffMark (s : State) (c u : Nat) : (s.holdoffMark c u).life = s.life := rfl
@[simp] theorem State.pending_holdoffMark (s : State) (c u : Nat) : (s.holdoffMark c u).pending = s.pending := rfl
@[simp] theorem State.get_holdoffMark (s : State) (c u : Nat) (f : Fld) : (s.holdoffMark c u).get f = s.get f := rfl

@[simp] theorem State.regs_holdoffMiss (s : State) (c u : Nat) : (s.holdoffMiss c u).regs = s.regs := rfl
@[simp] theorem State.held_holdoffMiss (s : State) (c u : Nat) : (s.holdoffMiss c u).held = s.held := rfl
@[simp] theorem State.latch_holdoffMiss (s : State) (c u : Nat) : (s.holdoffMiss c u).latch = s.latch := rfl
@[simp] theorem State.rd_holdoffMiss (s : State) (c u : Nat) : (s.holdoffMiss c u).rd = s.rd := rfl
@[simp] theorem State.cycles_holdoffMiss (s : State) (c u : Nat) : (s.holdoffMiss c u).cycles = s.cycles := rfl
@[simp] theorem State.ctr_holdoffMiss (s : State) (c u : Nat) : (s.holdoffMiss c u).ctr = s.ctr := rfl
@[simp] theorem State.freeCtr_holdoffMiss (s : State) (c u : Nat) : (s.holdoffMiss c u).freeCtr = s.freeCtr := rfl
@[simp] theorem State.que_holdoffMiss (s : State) (c u : Nat) : (s.holdoffMiss c u).que = s.que := rfl
@[simp] theorem State.cmd_holdoffMiss (s : State) (c u : Nat) : (s.holdoffMiss c u).cmd = s.cmd := rfl
@[simp] theorem State.svc_holdoffMiss (s : State) (c u : Nat) : (s.holdoffMiss c u).svc = s.svc := rfl
@[simp] theorem State.time_holdoffMiss (s : State) (c u : Nat) : (s.holdoffMiss c u).time = s.time := rfl
@[simp] theorem State.clk_holdoffMiss (s : State) (c u : Nat) : (s.holdoffMiss c u).clk = s.clk := rfl
@[simp] theorem State.ports_holdoffMiss (s : State) (c u : Nat) : (s.holdoffMiss c u).ports = s.ports := rfl
@[simp] theorem State.strm_holdoffMiss (s : State) (c u : Nat) : (s.holdoffMiss c u).strm = s.strm := rfl
@[simp] theorem State.seals_holdoffMiss (s : State) (c u : Nat) : (s.holdoffMiss c u).seals = s.seals := rfl
@[simp] theorem State.tdm_holdoffMiss (s : State) (c u : Nat) : (s.holdoffMiss c u).tdm = s.tdm := rfl
@[simp] theorem State.amp_holdoffMiss (s : State) (c u : Nat) : (s.holdoffMiss c u).amp = s.amp := rfl
@[simp] theorem State.anvil_holdoffMiss (s : State) (c u : Nat) : (s.holdoffMiss c u).anvil = s.anvil := rfl
@[simp] theorem State.dma_holdoffMiss (s : State) (c u : Nat) : (s.holdoffMiss c u).dma = s.dma := rfl
@[simp] theorem State.csp_holdoffMiss (s : State) (c u : Nat) : (s.holdoffMiss c u).csp = s.csp := rfl
@[simp] theorem State.boot_holdoffMiss (s : State) (c u : Nat) : (s.holdoffMiss c u).boot = s.boot := rfl
@[simp] theorem State.orb_holdoffMiss (s : State) (c u : Nat) : (s.holdoffMiss c u).orb = s.orb := rfl
@[simp] theorem State.pair_holdoffMiss (s : State) (c u : Nat) : (s.holdoffMiss c u).pair = s.pair := rfl
@[simp] theorem State.test_holdoffMiss (s : State) (c u : Nat) : (s.holdoffMiss c u).test = s.test := rfl
@[simp] theorem State.life_holdoffMiss (s : State) (c u : Nat) : (s.holdoffMiss c u).life = s.life := rfl
@[simp] theorem State.pending_holdoffMiss (s : State) (c u : Nat) : (s.holdoffMiss c u).pending = s.pending := rfl
@[simp] theorem State.get_holdoffMiss (s : State) (c u : Nat) (f : Fld) : (s.holdoffMiss c u).get f = s.get f := rfl

@[simp] theorem State.regs_boundary (s : State) (u : Upd) (p : Nat → Bool) : (s.boundary u p).regs = s.regs := rfl
@[simp] theorem State.latch_boundary (s : State) (u : Upd) (p : Nat → Bool) : (s.boundary u p).latch = s.latch := rfl
@[simp] theorem State.rd_boundary (s : State) (u : Upd) (p : Nat → Bool) : (s.boundary u p).rd = s.rd := rfl
@[simp] theorem State.cycles_boundary (s : State) (u : Upd) (p : Nat → Bool) : (s.boundary u p).cycles = s.cycles := rfl
@[simp] theorem State.ctr_boundary (s : State) (u : Upd) (p : Nat → Bool) : (s.boundary u p).ctr = s.ctr := rfl
@[simp] theorem State.freeCtr_boundary (s : State) (u : Upd) (p : Nat → Bool) : (s.boundary u p).freeCtr = s.freeCtr := rfl
@[simp] theorem State.holdoff_boundary (s : State) (u : Upd) (p : Nat → Bool) : (s.boundary u p).holdoff = s.holdoff := rfl
@[simp] theorem State.que_boundary (s : State) (u : Upd) (p : Nat → Bool) : (s.boundary u p).que = s.que := rfl
@[simp] theorem State.cmd_boundary (s : State) (u : Upd) (p : Nat → Bool) : (s.boundary u p).cmd = s.cmd := rfl
@[simp] theorem State.svc_boundary (s : State) (u : Upd) (p : Nat → Bool) : (s.boundary u p).svc = s.svc := rfl
@[simp] theorem State.time_boundary (s : State) (u : Upd) (p : Nat → Bool) : (s.boundary u p).time = s.time := rfl
@[simp] theorem State.clk_boundary (s : State) (u : Upd) (p : Nat → Bool) : (s.boundary u p).clk = s.clk := rfl
@[simp] theorem State.ports_boundary (s : State) (u : Upd) (p : Nat → Bool) : (s.boundary u p).ports = s.ports := rfl
@[simp] theorem State.strm_boundary (s : State) (u : Upd) (p : Nat → Bool) : (s.boundary u p).strm = s.strm := rfl
@[simp] theorem State.seals_boundary (s : State) (u : Upd) (p : Nat → Bool) : (s.boundary u p).seals = s.seals := rfl
@[simp] theorem State.tdm_boundary (s : State) (u : Upd) (p : Nat → Bool) : (s.boundary u p).tdm = s.tdm := rfl
@[simp] theorem State.amp_boundary (s : State) (u : Upd) (p : Nat → Bool) : (s.boundary u p).amp = s.amp := rfl
@[simp] theorem State.anvil_boundary (s : State) (u : Upd) (p : Nat → Bool) : (s.boundary u p).anvil = s.anvil := rfl
@[simp] theorem State.dma_boundary (s : State) (u : Upd) (p : Nat → Bool) : (s.boundary u p).dma = s.dma := rfl
@[simp] theorem State.csp_boundary (s : State) (u : Upd) (p : Nat → Bool) : (s.boundary u p).csp = s.csp := rfl
@[simp] theorem State.boot_boundary (s : State) (u : Upd) (p : Nat → Bool) : (s.boundary u p).boot = s.boot := rfl
@[simp] theorem State.orb_boundary (s : State) (u : Upd) (p : Nat → Bool) : (s.boundary u p).orb = s.orb := rfl
@[simp] theorem State.pair_boundary (s : State) (u : Upd) (p : Nat → Bool) : (s.boundary u p).pair = s.pair := rfl
@[simp] theorem State.test_boundary (s : State) (u : Upd) (p : Nat → Bool) : (s.boundary u p).test = s.test := rfl
@[simp] theorem State.life_boundary (s : State) (u : Upd) (p : Nat → Bool) : (s.boundary u p).life = s.life := rfl
@[simp] theorem State.pending_boundary (s : State) (u : Upd) (p : Nat → Bool) : (s.boundary u p).pending = s.pending := rfl
@[simp] theorem State.get_boundary (s : State) (u : Upd) (p : Nat → Bool) (f : Fld) : (s.boundary u p).get f = s.get f := rfl

@[simp] theorem State.regs_withBoot (s : State) (x : BootState) : (s.withBoot x).regs = s.regs := rfl
@[simp] theorem State.held_withBoot (s : State) (x : BootState) : (s.withBoot x).held = s.held := rfl
@[simp] theorem State.latch_withBoot (s : State) (x : BootState) : (s.withBoot x).latch = s.latch := rfl
@[simp] theorem State.rd_withBoot (s : State) (x : BootState) : (s.withBoot x).rd = s.rd := rfl
@[simp] theorem State.cycles_withBoot (s : State) (x : BootState) : (s.withBoot x).cycles = s.cycles := rfl
@[simp] theorem State.ctr_withBoot (s : State) (x : BootState) : (s.withBoot x).ctr = s.ctr := rfl
@[simp] theorem State.freeCtr_withBoot (s : State) (x : BootState) : (s.withBoot x).freeCtr = s.freeCtr := rfl
@[simp] theorem State.holdoff_withBoot (s : State) (x : BootState) : (s.withBoot x).holdoff = s.holdoff := rfl
@[simp] theorem State.que_withBoot (s : State) (x : BootState) : (s.withBoot x).que = s.que := rfl
@[simp] theorem State.cmd_withBoot (s : State) (x : BootState) : (s.withBoot x).cmd = s.cmd := rfl
@[simp] theorem State.svc_withBoot (s : State) (x : BootState) : (s.withBoot x).svc = s.svc := rfl
@[simp] theorem State.time_withBoot (s : State) (x : BootState) : (s.withBoot x).time = s.time := rfl
@[simp] theorem State.clk_withBoot (s : State) (x : BootState) : (s.withBoot x).clk = s.clk := rfl
@[simp] theorem State.ports_withBoot (s : State) (x : BootState) : (s.withBoot x).ports = s.ports := rfl
@[simp] theorem State.strm_withBoot (s : State) (x : BootState) : (s.withBoot x).strm = s.strm := rfl
@[simp] theorem State.seals_withBoot (s : State) (x : BootState) : (s.withBoot x).seals = s.seals := rfl
@[simp] theorem State.tdm_withBoot (s : State) (x : BootState) : (s.withBoot x).tdm = s.tdm := rfl
@[simp] theorem State.amp_withBoot (s : State) (x : BootState) : (s.withBoot x).amp = s.amp := rfl
@[simp] theorem State.anvil_withBoot (s : State) (x : BootState) : (s.withBoot x).anvil = s.anvil := rfl
@[simp] theorem State.dma_withBoot (s : State) (x : BootState) : (s.withBoot x).dma = s.dma := rfl
@[simp] theorem State.csp_withBoot (s : State) (x : BootState) : (s.withBoot x).csp = s.csp := rfl
@[simp] theorem State.orb_withBoot (s : State) (x : BootState) : (s.withBoot x).orb = s.orb := rfl
@[simp] theorem State.pair_withBoot (s : State) (x : BootState) : (s.withBoot x).pair = s.pair := rfl
@[simp] theorem State.test_withBoot (s : State) (x : BootState) : (s.withBoot x).test = s.test := rfl
@[simp] theorem State.life_withBoot (s : State) (x : BootState) : (s.withBoot x).life = s.life := rfl
@[simp] theorem State.pending_withBoot (s : State) (x : BootState) : (s.withBoot x).pending = s.pending := rfl
@[simp] theorem State.get_withBoot (s : State) (x : BootState) (f : Fld) : (s.withBoot x).get f = s.get f := rfl

@[simp] theorem State.regs_withLife (s : State) (x : LifeState) : (s.withLife x).regs = s.regs := rfl
@[simp] theorem State.held_withLife (s : State) (x : LifeState) : (s.withLife x).held = s.held := rfl
@[simp] theorem State.latch_withLife (s : State) (x : LifeState) : (s.withLife x).latch = s.latch := rfl
@[simp] theorem State.rd_withLife (s : State) (x : LifeState) : (s.withLife x).rd = s.rd := rfl
@[simp] theorem State.cycles_withLife (s : State) (x : LifeState) : (s.withLife x).cycles = s.cycles := rfl
@[simp] theorem State.ctr_withLife (s : State) (x : LifeState) : (s.withLife x).ctr = s.ctr := rfl
@[simp] theorem State.freeCtr_withLife (s : State) (x : LifeState) : (s.withLife x).freeCtr = s.freeCtr := rfl
@[simp] theorem State.holdoff_withLife (s : State) (x : LifeState) : (s.withLife x).holdoff = s.holdoff := rfl
@[simp] theorem State.que_withLife (s : State) (x : LifeState) : (s.withLife x).que = s.que := rfl
@[simp] theorem State.cmd_withLife (s : State) (x : LifeState) : (s.withLife x).cmd = s.cmd := rfl
@[simp] theorem State.svc_withLife (s : State) (x : LifeState) : (s.withLife x).svc = s.svc := rfl
@[simp] theorem State.time_withLife (s : State) (x : LifeState) : (s.withLife x).time = s.time := rfl
@[simp] theorem State.clk_withLife (s : State) (x : LifeState) : (s.withLife x).clk = s.clk := rfl
@[simp] theorem State.ports_withLife (s : State) (x : LifeState) : (s.withLife x).ports = s.ports := rfl
@[simp] theorem State.strm_withLife (s : State) (x : LifeState) : (s.withLife x).strm = s.strm := rfl
@[simp] theorem State.seals_withLife (s : State) (x : LifeState) : (s.withLife x).seals = s.seals := rfl
@[simp] theorem State.tdm_withLife (s : State) (x : LifeState) : (s.withLife x).tdm = s.tdm := rfl
@[simp] theorem State.amp_withLife (s : State) (x : LifeState) : (s.withLife x).amp = s.amp := rfl
@[simp] theorem State.anvil_withLife (s : State) (x : LifeState) : (s.withLife x).anvil = s.anvil := rfl
@[simp] theorem State.dma_withLife (s : State) (x : LifeState) : (s.withLife x).dma = s.dma := rfl
@[simp] theorem State.csp_withLife (s : State) (x : LifeState) : (s.withLife x).csp = s.csp := rfl
@[simp] theorem State.boot_withLife (s : State) (x : LifeState) : (s.withLife x).boot = s.boot := rfl
@[simp] theorem State.orb_withLife (s : State) (x : LifeState) : (s.withLife x).orb = s.orb := rfl
@[simp] theorem State.pair_withLife (s : State) (x : LifeState) : (s.withLife x).pair = s.pair := rfl
@[simp] theorem State.test_withLife (s : State) (x : LifeState) : (s.withLife x).test = s.test := rfl
@[simp] theorem State.pending_withLife (s : State) (x : LifeState) : (s.withLife x).pending = s.pending := rfl
@[simp] theorem State.get_withLife (s : State) (x : LifeState) (f : Fld) : (s.withLife x).get f = s.get f := rfl

@[simp] theorem State.regs_withCmd (s : State) (x : CmdState) : (s.withCmd x).regs = s.regs := rfl
@[simp] theorem State.held_withCmd (s : State) (x : CmdState) : (s.withCmd x).held = s.held := rfl
@[simp] theorem State.latch_withCmd (s : State) (x : CmdState) : (s.withCmd x).latch = s.latch := rfl
@[simp] theorem State.rd_withCmd (s : State) (x : CmdState) : (s.withCmd x).rd = s.rd := rfl
@[simp] theorem State.cycles_withCmd (s : State) (x : CmdState) : (s.withCmd x).cycles = s.cycles := rfl
@[simp] theorem State.ctr_withCmd (s : State) (x : CmdState) : (s.withCmd x).ctr = s.ctr := rfl
@[simp] theorem State.freeCtr_withCmd (s : State) (x : CmdState) : (s.withCmd x).freeCtr = s.freeCtr := rfl
@[simp] theorem State.holdoff_withCmd (s : State) (x : CmdState) : (s.withCmd x).holdoff = s.holdoff := rfl
@[simp] theorem State.que_withCmd (s : State) (x : CmdState) : (s.withCmd x).que = s.que := rfl
@[simp] theorem State.svc_withCmd (s : State) (x : CmdState) : (s.withCmd x).svc = s.svc := rfl
@[simp] theorem State.time_withCmd (s : State) (x : CmdState) : (s.withCmd x).time = s.time := rfl
@[simp] theorem State.clk_withCmd (s : State) (x : CmdState) : (s.withCmd x).clk = s.clk := rfl
@[simp] theorem State.ports_withCmd (s : State) (x : CmdState) : (s.withCmd x).ports = s.ports := rfl
@[simp] theorem State.strm_withCmd (s : State) (x : CmdState) : (s.withCmd x).strm = s.strm := rfl
@[simp] theorem State.seals_withCmd (s : State) (x : CmdState) : (s.withCmd x).seals = s.seals := rfl
@[simp] theorem State.tdm_withCmd (s : State) (x : CmdState) : (s.withCmd x).tdm = s.tdm := rfl
@[simp] theorem State.amp_withCmd (s : State) (x : CmdState) : (s.withCmd x).amp = s.amp := rfl
@[simp] theorem State.anvil_withCmd (s : State) (x : CmdState) : (s.withCmd x).anvil = s.anvil := rfl
@[simp] theorem State.dma_withCmd (s : State) (x : CmdState) : (s.withCmd x).dma = s.dma := rfl
@[simp] theorem State.csp_withCmd (s : State) (x : CmdState) : (s.withCmd x).csp = s.csp := rfl
@[simp] theorem State.boot_withCmd (s : State) (x : CmdState) : (s.withCmd x).boot = s.boot := rfl
@[simp] theorem State.orb_withCmd (s : State) (x : CmdState) : (s.withCmd x).orb = s.orb := rfl
@[simp] theorem State.pair_withCmd (s : State) (x : CmdState) : (s.withCmd x).pair = s.pair := rfl
@[simp] theorem State.test_withCmd (s : State) (x : CmdState) : (s.withCmd x).test = s.test := rfl
@[simp] theorem State.life_withCmd (s : State) (x : CmdState) : (s.withCmd x).life = s.life := rfl
@[simp] theorem State.pending_withCmd (s : State) (x : CmdState) : (s.withCmd x).pending = s.pending := rfl
@[simp] theorem State.get_withCmd (s : State) (x : CmdState) (f : Fld) : (s.withCmd x).get f = s.get f := rfl

@[simp] theorem State.regs_setPort (s : State) (p : Nat) (x : PortState) : (s.setPort p x).regs = s.regs := rfl
@[simp] theorem State.held_setPort (s : State) (p : Nat) (x : PortState) : (s.setPort p x).held = s.held := rfl
@[simp] theorem State.latch_setPort (s : State) (p : Nat) (x : PortState) : (s.setPort p x).latch = s.latch := rfl
@[simp] theorem State.rd_setPort (s : State) (p : Nat) (x : PortState) : (s.setPort p x).rd = s.rd := rfl
@[simp] theorem State.cycles_setPort (s : State) (p : Nat) (x : PortState) : (s.setPort p x).cycles = s.cycles := rfl
@[simp] theorem State.ctr_setPort (s : State) (p : Nat) (x : PortState) : (s.setPort p x).ctr = s.ctr := rfl
@[simp] theorem State.freeCtr_setPort (s : State) (p : Nat) (x : PortState) : (s.setPort p x).freeCtr = s.freeCtr := rfl
@[simp] theorem State.holdoff_setPort (s : State) (p : Nat) (x : PortState) : (s.setPort p x).holdoff = s.holdoff := rfl
@[simp] theorem State.que_setPort (s : State) (p : Nat) (x : PortState) : (s.setPort p x).que = s.que := rfl
@[simp] theorem State.cmd_setPort (s : State) (p : Nat) (x : PortState) : (s.setPort p x).cmd = s.cmd := rfl
@[simp] theorem State.svc_setPort (s : State) (p : Nat) (x : PortState) : (s.setPort p x).svc = s.svc := rfl
@[simp] theorem State.time_setPort (s : State) (p : Nat) (x : PortState) : (s.setPort p x).time = s.time := rfl
@[simp] theorem State.clk_setPort (s : State) (p : Nat) (x : PortState) : (s.setPort p x).clk = s.clk := rfl
@[simp] theorem State.strm_setPort (s : State) (p : Nat) (x : PortState) : (s.setPort p x).strm = s.strm := rfl
@[simp] theorem State.seals_setPort (s : State) (p : Nat) (x : PortState) : (s.setPort p x).seals = s.seals := rfl
@[simp] theorem State.tdm_setPort (s : State) (p : Nat) (x : PortState) : (s.setPort p x).tdm = s.tdm := rfl
@[simp] theorem State.amp_setPort (s : State) (p : Nat) (x : PortState) : (s.setPort p x).amp = s.amp := rfl
@[simp] theorem State.anvil_setPort (s : State) (p : Nat) (x : PortState) : (s.setPort p x).anvil = s.anvil := rfl
@[simp] theorem State.dma_setPort (s : State) (p : Nat) (x : PortState) : (s.setPort p x).dma = s.dma := rfl
@[simp] theorem State.csp_setPort (s : State) (p : Nat) (x : PortState) : (s.setPort p x).csp = s.csp := rfl
@[simp] theorem State.boot_setPort (s : State) (p : Nat) (x : PortState) : (s.setPort p x).boot = s.boot := rfl
@[simp] theorem State.orb_setPort (s : State) (p : Nat) (x : PortState) : (s.setPort p x).orb = s.orb := rfl
@[simp] theorem State.pair_setPort (s : State) (p : Nat) (x : PortState) : (s.setPort p x).pair = s.pair := rfl
@[simp] theorem State.test_setPort (s : State) (p : Nat) (x : PortState) : (s.setPort p x).test = s.test := rfl
@[simp] theorem State.life_setPort (s : State) (p : Nat) (x : PortState) : (s.setPort p x).life = s.life := rfl
@[simp] theorem State.pending_setPort (s : State) (p : Nat) (x : PortState) : (s.setPort p x).pending = s.pending := rfl
@[simp] theorem State.get_setPort (s : State) (p : Nat) (x : PortState) (f : Fld) : (s.setPort p x).get f = s.get f := rfl

@[simp] theorem State.regs_setPsvc (s : State) (p : Nat) (x : PortSvc) : (s.setPsvc p x).regs = s.regs := rfl
@[simp] theorem State.held_setPsvc (s : State) (p : Nat) (x : PortSvc) : (s.setPsvc p x).held = s.held := rfl
@[simp] theorem State.latch_setPsvc (s : State) (p : Nat) (x : PortSvc) : (s.setPsvc p x).latch = s.latch := rfl
@[simp] theorem State.rd_setPsvc (s : State) (p : Nat) (x : PortSvc) : (s.setPsvc p x).rd = s.rd := rfl
@[simp] theorem State.cycles_setPsvc (s : State) (p : Nat) (x : PortSvc) : (s.setPsvc p x).cycles = s.cycles := rfl
@[simp] theorem State.ctr_setPsvc (s : State) (p : Nat) (x : PortSvc) : (s.setPsvc p x).ctr = s.ctr := rfl
@[simp] theorem State.freeCtr_setPsvc (s : State) (p : Nat) (x : PortSvc) : (s.setPsvc p x).freeCtr = s.freeCtr := rfl
@[simp] theorem State.holdoff_setPsvc (s : State) (p : Nat) (x : PortSvc) : (s.setPsvc p x).holdoff = s.holdoff := rfl
@[simp] theorem State.que_setPsvc (s : State) (p : Nat) (x : PortSvc) : (s.setPsvc p x).que = s.que := rfl
@[simp] theorem State.cmd_setPsvc (s : State) (p : Nat) (x : PortSvc) : (s.setPsvc p x).cmd = s.cmd := rfl
@[simp] theorem State.time_setPsvc (s : State) (p : Nat) (x : PortSvc) : (s.setPsvc p x).time = s.time := rfl
@[simp] theorem State.clk_setPsvc (s : State) (p : Nat) (x : PortSvc) : (s.setPsvc p x).clk = s.clk := rfl
@[simp] theorem State.ports_setPsvc (s : State) (p : Nat) (x : PortSvc) : (s.setPsvc p x).ports = s.ports := rfl
@[simp] theorem State.strm_setPsvc (s : State) (p : Nat) (x : PortSvc) : (s.setPsvc p x).strm = s.strm := rfl
@[simp] theorem State.seals_setPsvc (s : State) (p : Nat) (x : PortSvc) : (s.setPsvc p x).seals = s.seals := rfl
@[simp] theorem State.tdm_setPsvc (s : State) (p : Nat) (x : PortSvc) : (s.setPsvc p x).tdm = s.tdm := rfl
@[simp] theorem State.amp_setPsvc (s : State) (p : Nat) (x : PortSvc) : (s.setPsvc p x).amp = s.amp := rfl
@[simp] theorem State.anvil_setPsvc (s : State) (p : Nat) (x : PortSvc) : (s.setPsvc p x).anvil = s.anvil := rfl
@[simp] theorem State.dma_setPsvc (s : State) (p : Nat) (x : PortSvc) : (s.setPsvc p x).dma = s.dma := rfl
@[simp] theorem State.csp_setPsvc (s : State) (p : Nat) (x : PortSvc) : (s.setPsvc p x).csp = s.csp := rfl
@[simp] theorem State.boot_setPsvc (s : State) (p : Nat) (x : PortSvc) : (s.setPsvc p x).boot = s.boot := rfl
@[simp] theorem State.orb_setPsvc (s : State) (p : Nat) (x : PortSvc) : (s.setPsvc p x).orb = s.orb := rfl
@[simp] theorem State.pair_setPsvc (s : State) (p : Nat) (x : PortSvc) : (s.setPsvc p x).pair = s.pair := rfl
@[simp] theorem State.test_setPsvc (s : State) (p : Nat) (x : PortSvc) : (s.setPsvc p x).test = s.test := rfl
@[simp] theorem State.life_setPsvc (s : State) (p : Nat) (x : PortSvc) : (s.setPsvc p x).life = s.life := rfl
@[simp] theorem State.pending_setPsvc (s : State) (p : Nat) (x : PortSvc) : (s.setPsvc p x).pending = s.pending := rfl
@[simp] theorem State.get_setPsvc (s : State) (p : Nat) (x : PortSvc) (f : Fld) : (s.setPsvc p x).get f = s.get f := rfl

@[simp] theorem State.regs_setPtp (s : State) (p : Nat) (x : PtpPort) : (s.setPtp p x).regs = s.regs := rfl
@[simp] theorem State.held_setPtp (s : State) (p : Nat) (x : PtpPort) : (s.setPtp p x).held = s.held := rfl
@[simp] theorem State.latch_setPtp (s : State) (p : Nat) (x : PtpPort) : (s.setPtp p x).latch = s.latch := rfl
@[simp] theorem State.rd_setPtp (s : State) (p : Nat) (x : PtpPort) : (s.setPtp p x).rd = s.rd := rfl
@[simp] theorem State.cycles_setPtp (s : State) (p : Nat) (x : PtpPort) : (s.setPtp p x).cycles = s.cycles := rfl
@[simp] theorem State.ctr_setPtp (s : State) (p : Nat) (x : PtpPort) : (s.setPtp p x).ctr = s.ctr := rfl
@[simp] theorem State.freeCtr_setPtp (s : State) (p : Nat) (x : PtpPort) : (s.setPtp p x).freeCtr = s.freeCtr := rfl
@[simp] theorem State.holdoff_setPtp (s : State) (p : Nat) (x : PtpPort) : (s.setPtp p x).holdoff = s.holdoff := rfl
@[simp] theorem State.que_setPtp (s : State) (p : Nat) (x : PtpPort) : (s.setPtp p x).que = s.que := rfl
@[simp] theorem State.cmd_setPtp (s : State) (p : Nat) (x : PtpPort) : (s.setPtp p x).cmd = s.cmd := rfl
@[simp] theorem State.svc_setPtp (s : State) (p : Nat) (x : PtpPort) : (s.setPtp p x).svc = s.svc := rfl
@[simp] theorem State.clk_setPtp (s : State) (p : Nat) (x : PtpPort) : (s.setPtp p x).clk = s.clk := rfl
@[simp] theorem State.ports_setPtp (s : State) (p : Nat) (x : PtpPort) : (s.setPtp p x).ports = s.ports := rfl
@[simp] theorem State.strm_setPtp (s : State) (p : Nat) (x : PtpPort) : (s.setPtp p x).strm = s.strm := rfl
@[simp] theorem State.seals_setPtp (s : State) (p : Nat) (x : PtpPort) : (s.setPtp p x).seals = s.seals := rfl
@[simp] theorem State.tdm_setPtp (s : State) (p : Nat) (x : PtpPort) : (s.setPtp p x).tdm = s.tdm := rfl
@[simp] theorem State.amp_setPtp (s : State) (p : Nat) (x : PtpPort) : (s.setPtp p x).amp = s.amp := rfl
@[simp] theorem State.anvil_setPtp (s : State) (p : Nat) (x : PtpPort) : (s.setPtp p x).anvil = s.anvil := rfl
@[simp] theorem State.dma_setPtp (s : State) (p : Nat) (x : PtpPort) : (s.setPtp p x).dma = s.dma := rfl
@[simp] theorem State.csp_setPtp (s : State) (p : Nat) (x : PtpPort) : (s.setPtp p x).csp = s.csp := rfl
@[simp] theorem State.boot_setPtp (s : State) (p : Nat) (x : PtpPort) : (s.setPtp p x).boot = s.boot := rfl
@[simp] theorem State.orb_setPtp (s : State) (p : Nat) (x : PtpPort) : (s.setPtp p x).orb = s.orb := rfl
@[simp] theorem State.pair_setPtp (s : State) (p : Nat) (x : PtpPort) : (s.setPtp p x).pair = s.pair := rfl
@[simp] theorem State.test_setPtp (s : State) (p : Nat) (x : PtpPort) : (s.setPtp p x).test = s.test := rfl
@[simp] theorem State.life_setPtp (s : State) (p : Nat) (x : PtpPort) : (s.setPtp p x).life = s.life := rfl
@[simp] theorem State.pending_setPtp (s : State) (p : Nat) (x : PtpPort) : (s.setPtp p x).pending = s.pending := rfl
@[simp] theorem State.get_setPtp (s : State) (p : Nat) (x : PtpPort) (f : Fld) : (s.setPtp p x).get f = s.get f := rfl

@[simp] theorem State.regs_setRefSt (s : State) (n : Nat) (x : RefState) : (s.setRefSt n x).regs = s.regs := rfl
@[simp] theorem State.held_setRefSt (s : State) (n : Nat) (x : RefState) : (s.setRefSt n x).held = s.held := rfl
@[simp] theorem State.latch_setRefSt (s : State) (n : Nat) (x : RefState) : (s.setRefSt n x).latch = s.latch := rfl
@[simp] theorem State.rd_setRefSt (s : State) (n : Nat) (x : RefState) : (s.setRefSt n x).rd = s.rd := rfl
@[simp] theorem State.cycles_setRefSt (s : State) (n : Nat) (x : RefState) : (s.setRefSt n x).cycles = s.cycles := rfl
@[simp] theorem State.ctr_setRefSt (s : State) (n : Nat) (x : RefState) : (s.setRefSt n x).ctr = s.ctr := rfl
@[simp] theorem State.freeCtr_setRefSt (s : State) (n : Nat) (x : RefState) : (s.setRefSt n x).freeCtr = s.freeCtr := rfl
@[simp] theorem State.holdoff_setRefSt (s : State) (n : Nat) (x : RefState) : (s.setRefSt n x).holdoff = s.holdoff := rfl
@[simp] theorem State.que_setRefSt (s : State) (n : Nat) (x : RefState) : (s.setRefSt n x).que = s.que := rfl
@[simp] theorem State.cmd_setRefSt (s : State) (n : Nat) (x : RefState) : (s.setRefSt n x).cmd = s.cmd := rfl
@[simp] theorem State.svc_setRefSt (s : State) (n : Nat) (x : RefState) : (s.setRefSt n x).svc = s.svc := rfl
@[simp] theorem State.time_setRefSt (s : State) (n : Nat) (x : RefState) : (s.setRefSt n x).time = s.time := rfl
@[simp] theorem State.ports_setRefSt (s : State) (n : Nat) (x : RefState) : (s.setRefSt n x).ports = s.ports := rfl
@[simp] theorem State.strm_setRefSt (s : State) (n : Nat) (x : RefState) : (s.setRefSt n x).strm = s.strm := rfl
@[simp] theorem State.seals_setRefSt (s : State) (n : Nat) (x : RefState) : (s.setRefSt n x).seals = s.seals := rfl
@[simp] theorem State.tdm_setRefSt (s : State) (n : Nat) (x : RefState) : (s.setRefSt n x).tdm = s.tdm := rfl
@[simp] theorem State.amp_setRefSt (s : State) (n : Nat) (x : RefState) : (s.setRefSt n x).amp = s.amp := rfl
@[simp] theorem State.anvil_setRefSt (s : State) (n : Nat) (x : RefState) : (s.setRefSt n x).anvil = s.anvil := rfl
@[simp] theorem State.dma_setRefSt (s : State) (n : Nat) (x : RefState) : (s.setRefSt n x).dma = s.dma := rfl
@[simp] theorem State.csp_setRefSt (s : State) (n : Nat) (x : RefState) : (s.setRefSt n x).csp = s.csp := rfl
@[simp] theorem State.boot_setRefSt (s : State) (n : Nat) (x : RefState) : (s.setRefSt n x).boot = s.boot := rfl
@[simp] theorem State.orb_setRefSt (s : State) (n : Nat) (x : RefState) : (s.setRefSt n x).orb = s.orb := rfl
@[simp] theorem State.pair_setRefSt (s : State) (n : Nat) (x : RefState) : (s.setRefSt n x).pair = s.pair := rfl
@[simp] theorem State.test_setRefSt (s : State) (n : Nat) (x : RefState) : (s.setRefSt n x).test = s.test := rfl
@[simp] theorem State.life_setRefSt (s : State) (n : Nat) (x : RefState) : (s.setRefSt n x).life = s.life := rfl
@[simp] theorem State.pending_setRefSt (s : State) (n : Nat) (x : RefState) : (s.setRefSt n x).pending = s.pending := rfl
@[simp] theorem State.get_setRefSt (s : State) (n : Nat) (x : RefState) (f : Fld) : (s.setRefSt n x).get f = s.get f := rfl

@[simp] theorem State.regs_setDpll (s : State) (d : Nat) (x : DpllState) : (s.setDpll d x).regs = s.regs := rfl
@[simp] theorem State.held_setDpll (s : State) (d : Nat) (x : DpllState) : (s.setDpll d x).held = s.held := rfl
@[simp] theorem State.latch_setDpll (s : State) (d : Nat) (x : DpllState) : (s.setDpll d x).latch = s.latch := rfl
@[simp] theorem State.rd_setDpll (s : State) (d : Nat) (x : DpllState) : (s.setDpll d x).rd = s.rd := rfl
@[simp] theorem State.cycles_setDpll (s : State) (d : Nat) (x : DpllState) : (s.setDpll d x).cycles = s.cycles := rfl
@[simp] theorem State.ctr_setDpll (s : State) (d : Nat) (x : DpllState) : (s.setDpll d x).ctr = s.ctr := rfl
@[simp] theorem State.freeCtr_setDpll (s : State) (d : Nat) (x : DpllState) : (s.setDpll d x).freeCtr = s.freeCtr := rfl
@[simp] theorem State.holdoff_setDpll (s : State) (d : Nat) (x : DpllState) : (s.setDpll d x).holdoff = s.holdoff := rfl
@[simp] theorem State.que_setDpll (s : State) (d : Nat) (x : DpllState) : (s.setDpll d x).que = s.que := rfl
@[simp] theorem State.cmd_setDpll (s : State) (d : Nat) (x : DpllState) : (s.setDpll d x).cmd = s.cmd := rfl
@[simp] theorem State.svc_setDpll (s : State) (d : Nat) (x : DpllState) : (s.setDpll d x).svc = s.svc := rfl
@[simp] theorem State.time_setDpll (s : State) (d : Nat) (x : DpllState) : (s.setDpll d x).time = s.time := rfl
@[simp] theorem State.ports_setDpll (s : State) (d : Nat) (x : DpllState) : (s.setDpll d x).ports = s.ports := rfl
@[simp] theorem State.strm_setDpll (s : State) (d : Nat) (x : DpllState) : (s.setDpll d x).strm = s.strm := rfl
@[simp] theorem State.seals_setDpll (s : State) (d : Nat) (x : DpllState) : (s.setDpll d x).seals = s.seals := rfl
@[simp] theorem State.tdm_setDpll (s : State) (d : Nat) (x : DpllState) : (s.setDpll d x).tdm = s.tdm := rfl
@[simp] theorem State.amp_setDpll (s : State) (d : Nat) (x : DpllState) : (s.setDpll d x).amp = s.amp := rfl
@[simp] theorem State.anvil_setDpll (s : State) (d : Nat) (x : DpllState) : (s.setDpll d x).anvil = s.anvil := rfl
@[simp] theorem State.dma_setDpll (s : State) (d : Nat) (x : DpllState) : (s.setDpll d x).dma = s.dma := rfl
@[simp] theorem State.csp_setDpll (s : State) (d : Nat) (x : DpllState) : (s.setDpll d x).csp = s.csp := rfl
@[simp] theorem State.boot_setDpll (s : State) (d : Nat) (x : DpllState) : (s.setDpll d x).boot = s.boot := rfl
@[simp] theorem State.orb_setDpll (s : State) (d : Nat) (x : DpllState) : (s.setDpll d x).orb = s.orb := rfl
@[simp] theorem State.pair_setDpll (s : State) (d : Nat) (x : DpllState) : (s.setDpll d x).pair = s.pair := rfl
@[simp] theorem State.test_setDpll (s : State) (d : Nat) (x : DpllState) : (s.setDpll d x).test = s.test := rfl
@[simp] theorem State.life_setDpll (s : State) (d : Nat) (x : DpllState) : (s.setDpll d x).life = s.life := rfl
@[simp] theorem State.pending_setDpll (s : State) (d : Nat) (x : DpllState) : (s.setDpll d x).pending = s.pending := rfl
@[simp] theorem State.get_setDpll (s : State) (d : Nat) (x : DpllState) (f : Fld) : (s.setDpll d x).get f = s.get f := rfl

@[simp] theorem State.regs_setTdmPort (s : State) (p : Nat) (x : TdmPort) : (s.setTdmPort p x).regs = s.regs := rfl
@[simp] theorem State.held_setTdmPort (s : State) (p : Nat) (x : TdmPort) : (s.setTdmPort p x).held = s.held := rfl
@[simp] theorem State.latch_setTdmPort (s : State) (p : Nat) (x : TdmPort) : (s.setTdmPort p x).latch = s.latch := rfl
@[simp] theorem State.rd_setTdmPort (s : State) (p : Nat) (x : TdmPort) : (s.setTdmPort p x).rd = s.rd := rfl
@[simp] theorem State.cycles_setTdmPort (s : State) (p : Nat) (x : TdmPort) : (s.setTdmPort p x).cycles = s.cycles := rfl
@[simp] theorem State.ctr_setTdmPort (s : State) (p : Nat) (x : TdmPort) : (s.setTdmPort p x).ctr = s.ctr := rfl
@[simp] theorem State.freeCtr_setTdmPort (s : State) (p : Nat) (x : TdmPort) : (s.setTdmPort p x).freeCtr = s.freeCtr := rfl
@[simp] theorem State.holdoff_setTdmPort (s : State) (p : Nat) (x : TdmPort) : (s.setTdmPort p x).holdoff = s.holdoff := rfl
@[simp] theorem State.que_setTdmPort (s : State) (p : Nat) (x : TdmPort) : (s.setTdmPort p x).que = s.que := rfl
@[simp] theorem State.cmd_setTdmPort (s : State) (p : Nat) (x : TdmPort) : (s.setTdmPort p x).cmd = s.cmd := rfl
@[simp] theorem State.svc_setTdmPort (s : State) (p : Nat) (x : TdmPort) : (s.setTdmPort p x).svc = s.svc := rfl
@[simp] theorem State.time_setTdmPort (s : State) (p : Nat) (x : TdmPort) : (s.setTdmPort p x).time = s.time := rfl
@[simp] theorem State.clk_setTdmPort (s : State) (p : Nat) (x : TdmPort) : (s.setTdmPort p x).clk = s.clk := rfl
@[simp] theorem State.ports_setTdmPort (s : State) (p : Nat) (x : TdmPort) : (s.setTdmPort p x).ports = s.ports := rfl
@[simp] theorem State.strm_setTdmPort (s : State) (p : Nat) (x : TdmPort) : (s.setTdmPort p x).strm = s.strm := rfl
@[simp] theorem State.seals_setTdmPort (s : State) (p : Nat) (x : TdmPort) : (s.setTdmPort p x).seals = s.seals := rfl
@[simp] theorem State.amp_setTdmPort (s : State) (p : Nat) (x : TdmPort) : (s.setTdmPort p x).amp = s.amp := rfl
@[simp] theorem State.anvil_setTdmPort (s : State) (p : Nat) (x : TdmPort) : (s.setTdmPort p x).anvil = s.anvil := rfl
@[simp] theorem State.dma_setTdmPort (s : State) (p : Nat) (x : TdmPort) : (s.setTdmPort p x).dma = s.dma := rfl
@[simp] theorem State.csp_setTdmPort (s : State) (p : Nat) (x : TdmPort) : (s.setTdmPort p x).csp = s.csp := rfl
@[simp] theorem State.boot_setTdmPort (s : State) (p : Nat) (x : TdmPort) : (s.setTdmPort p x).boot = s.boot := rfl
@[simp] theorem State.orb_setTdmPort (s : State) (p : Nat) (x : TdmPort) : (s.setTdmPort p x).orb = s.orb := rfl
@[simp] theorem State.pair_setTdmPort (s : State) (p : Nat) (x : TdmPort) : (s.setTdmPort p x).pair = s.pair := rfl
@[simp] theorem State.test_setTdmPort (s : State) (p : Nat) (x : TdmPort) : (s.setTdmPort p x).test = s.test := rfl
@[simp] theorem State.life_setTdmPort (s : State) (p : Nat) (x : TdmPort) : (s.setTdmPort p x).life = s.life := rfl
@[simp] theorem State.pending_setTdmPort (s : State) (p : Nat) (x : TdmPort) : (s.setTdmPort p x).pending = s.pending := rfl
@[simp] theorem State.get_setTdmPort (s : State) (p : Nat) (x : TdmPort) (f : Fld) : (s.setTdmPort p x).get f = s.get f := rfl

@[simp] theorem State.regs_setTdmGroup (s : State) (g : Nat) (x : TdmGroup) : (s.setTdmGroup g x).regs = s.regs := rfl
@[simp] theorem State.held_setTdmGroup (s : State) (g : Nat) (x : TdmGroup) : (s.setTdmGroup g x).held = s.held := rfl
@[simp] theorem State.latch_setTdmGroup (s : State) (g : Nat) (x : TdmGroup) : (s.setTdmGroup g x).latch = s.latch := rfl
@[simp] theorem State.rd_setTdmGroup (s : State) (g : Nat) (x : TdmGroup) : (s.setTdmGroup g x).rd = s.rd := rfl
@[simp] theorem State.cycles_setTdmGroup (s : State) (g : Nat) (x : TdmGroup) : (s.setTdmGroup g x).cycles = s.cycles := rfl
@[simp] theorem State.ctr_setTdmGroup (s : State) (g : Nat) (x : TdmGroup) : (s.setTdmGroup g x).ctr = s.ctr := rfl
@[simp] theorem State.freeCtr_setTdmGroup (s : State) (g : Nat) (x : TdmGroup) : (s.setTdmGroup g x).freeCtr = s.freeCtr := rfl
@[simp] theorem State.holdoff_setTdmGroup (s : State) (g : Nat) (x : TdmGroup) : (s.setTdmGroup g x).holdoff = s.holdoff := rfl
@[simp] theorem State.que_setTdmGroup (s : State) (g : Nat) (x : TdmGroup) : (s.setTdmGroup g x).que = s.que := rfl
@[simp] theorem State.cmd_setTdmGroup (s : State) (g : Nat) (x : TdmGroup) : (s.setTdmGroup g x).cmd = s.cmd := rfl
@[simp] theorem State.svc_setTdmGroup (s : State) (g : Nat) (x : TdmGroup) : (s.setTdmGroup g x).svc = s.svc := rfl
@[simp] theorem State.time_setTdmGroup (s : State) (g : Nat) (x : TdmGroup) : (s.setTdmGroup g x).time = s.time := rfl
@[simp] theorem State.clk_setTdmGroup (s : State) (g : Nat) (x : TdmGroup) : (s.setTdmGroup g x).clk = s.clk := rfl
@[simp] theorem State.ports_setTdmGroup (s : State) (g : Nat) (x : TdmGroup) : (s.setTdmGroup g x).ports = s.ports := rfl
@[simp] theorem State.strm_setTdmGroup (s : State) (g : Nat) (x : TdmGroup) : (s.setTdmGroup g x).strm = s.strm := rfl
@[simp] theorem State.seals_setTdmGroup (s : State) (g : Nat) (x : TdmGroup) : (s.setTdmGroup g x).seals = s.seals := rfl
@[simp] theorem State.amp_setTdmGroup (s : State) (g : Nat) (x : TdmGroup) : (s.setTdmGroup g x).amp = s.amp := rfl
@[simp] theorem State.anvil_setTdmGroup (s : State) (g : Nat) (x : TdmGroup) : (s.setTdmGroup g x).anvil = s.anvil := rfl
@[simp] theorem State.dma_setTdmGroup (s : State) (g : Nat) (x : TdmGroup) : (s.setTdmGroup g x).dma = s.dma := rfl
@[simp] theorem State.csp_setTdmGroup (s : State) (g : Nat) (x : TdmGroup) : (s.setTdmGroup g x).csp = s.csp := rfl
@[simp] theorem State.boot_setTdmGroup (s : State) (g : Nat) (x : TdmGroup) : (s.setTdmGroup g x).boot = s.boot := rfl
@[simp] theorem State.orb_setTdmGroup (s : State) (g : Nat) (x : TdmGroup) : (s.setTdmGroup g x).orb = s.orb := rfl
@[simp] theorem State.pair_setTdmGroup (s : State) (g : Nat) (x : TdmGroup) : (s.setTdmGroup g x).pair = s.pair := rfl
@[simp] theorem State.test_setTdmGroup (s : State) (g : Nat) (x : TdmGroup) : (s.setTdmGroup g x).test = s.test := rfl
@[simp] theorem State.life_setTdmGroup (s : State) (g : Nat) (x : TdmGroup) : (s.setTdmGroup g x).life = s.life := rfl
@[simp] theorem State.pending_setTdmGroup (s : State) (g : Nat) (x : TdmGroup) : (s.setTdmGroup g x).pending = s.pending := rfl
@[simp] theorem State.get_setTdmGroup (s : State) (g : Nat) (x : TdmGroup) (f : Fld) : (s.setTdmGroup g x).get f = s.get f := rfl

@[simp] theorem State.regs_setAmpCh (s : State) (n : Nat) (x : AmpCh) : (s.setAmpCh n x).regs = s.regs := rfl
@[simp] theorem State.held_setAmpCh (s : State) (n : Nat) (x : AmpCh) : (s.setAmpCh n x).held = s.held := rfl
@[simp] theorem State.latch_setAmpCh (s : State) (n : Nat) (x : AmpCh) : (s.setAmpCh n x).latch = s.latch := rfl
@[simp] theorem State.rd_setAmpCh (s : State) (n : Nat) (x : AmpCh) : (s.setAmpCh n x).rd = s.rd := rfl
@[simp] theorem State.cycles_setAmpCh (s : State) (n : Nat) (x : AmpCh) : (s.setAmpCh n x).cycles = s.cycles := rfl
@[simp] theorem State.ctr_setAmpCh (s : State) (n : Nat) (x : AmpCh) : (s.setAmpCh n x).ctr = s.ctr := rfl
@[simp] theorem State.freeCtr_setAmpCh (s : State) (n : Nat) (x : AmpCh) : (s.setAmpCh n x).freeCtr = s.freeCtr := rfl
@[simp] theorem State.holdoff_setAmpCh (s : State) (n : Nat) (x : AmpCh) : (s.setAmpCh n x).holdoff = s.holdoff := rfl
@[simp] theorem State.que_setAmpCh (s : State) (n : Nat) (x : AmpCh) : (s.setAmpCh n x).que = s.que := rfl
@[simp] theorem State.cmd_setAmpCh (s : State) (n : Nat) (x : AmpCh) : (s.setAmpCh n x).cmd = s.cmd := rfl
@[simp] theorem State.svc_setAmpCh (s : State) (n : Nat) (x : AmpCh) : (s.setAmpCh n x).svc = s.svc := rfl
@[simp] theorem State.time_setAmpCh (s : State) (n : Nat) (x : AmpCh) : (s.setAmpCh n x).time = s.time := rfl
@[simp] theorem State.clk_setAmpCh (s : State) (n : Nat) (x : AmpCh) : (s.setAmpCh n x).clk = s.clk := rfl
@[simp] theorem State.ports_setAmpCh (s : State) (n : Nat) (x : AmpCh) : (s.setAmpCh n x).ports = s.ports := rfl
@[simp] theorem State.strm_setAmpCh (s : State) (n : Nat) (x : AmpCh) : (s.setAmpCh n x).strm = s.strm := rfl
@[simp] theorem State.seals_setAmpCh (s : State) (n : Nat) (x : AmpCh) : (s.setAmpCh n x).seals = s.seals := rfl
@[simp] theorem State.tdm_setAmpCh (s : State) (n : Nat) (x : AmpCh) : (s.setAmpCh n x).tdm = s.tdm := rfl
@[simp] theorem State.anvil_setAmpCh (s : State) (n : Nat) (x : AmpCh) : (s.setAmpCh n x).anvil = s.anvil := rfl
@[simp] theorem State.dma_setAmpCh (s : State) (n : Nat) (x : AmpCh) : (s.setAmpCh n x).dma = s.dma := rfl
@[simp] theorem State.csp_setAmpCh (s : State) (n : Nat) (x : AmpCh) : (s.setAmpCh n x).csp = s.csp := rfl
@[simp] theorem State.boot_setAmpCh (s : State) (n : Nat) (x : AmpCh) : (s.setAmpCh n x).boot = s.boot := rfl
@[simp] theorem State.orb_setAmpCh (s : State) (n : Nat) (x : AmpCh) : (s.setAmpCh n x).orb = s.orb := rfl
@[simp] theorem State.pair_setAmpCh (s : State) (n : Nat) (x : AmpCh) : (s.setAmpCh n x).pair = s.pair := rfl
@[simp] theorem State.test_setAmpCh (s : State) (n : Nat) (x : AmpCh) : (s.setAmpCh n x).test = s.test := rfl
@[simp] theorem State.life_setAmpCh (s : State) (n : Nat) (x : AmpCh) : (s.setAmpCh n x).life = s.life := rfl
@[simp] theorem State.pending_setAmpCh (s : State) (n : Nat) (x : AmpCh) : (s.setAmpCh n x).pending = s.pending := rfl
@[simp] theorem State.get_setAmpCh (s : State) (n : Nat) (x : AmpCh) (f : Fld) : (s.setAmpCh n x).get f = s.get f := rfl

@[simp] theorem State.regs_setLink (s : State) (n : Nat) (x : OrbLink) : (s.setLink n x).regs = s.regs := rfl
@[simp] theorem State.held_setLink (s : State) (n : Nat) (x : OrbLink) : (s.setLink n x).held = s.held := rfl
@[simp] theorem State.latch_setLink (s : State) (n : Nat) (x : OrbLink) : (s.setLink n x).latch = s.latch := rfl
@[simp] theorem State.rd_setLink (s : State) (n : Nat) (x : OrbLink) : (s.setLink n x).rd = s.rd := rfl
@[simp] theorem State.cycles_setLink (s : State) (n : Nat) (x : OrbLink) : (s.setLink n x).cycles = s.cycles := rfl
@[simp] theorem State.ctr_setLink (s : State) (n : Nat) (x : OrbLink) : (s.setLink n x).ctr = s.ctr := rfl
@[simp] theorem State.freeCtr_setLink (s : State) (n : Nat) (x : OrbLink) : (s.setLink n x).freeCtr = s.freeCtr := rfl
@[simp] theorem State.holdoff_setLink (s : State) (n : Nat) (x : OrbLink) : (s.setLink n x).holdoff = s.holdoff := rfl
@[simp] theorem State.que_setLink (s : State) (n : Nat) (x : OrbLink) : (s.setLink n x).que = s.que := rfl
@[simp] theorem State.cmd_setLink (s : State) (n : Nat) (x : OrbLink) : (s.setLink n x).cmd = s.cmd := rfl
@[simp] theorem State.svc_setLink (s : State) (n : Nat) (x : OrbLink) : (s.setLink n x).svc = s.svc := rfl
@[simp] theorem State.time_setLink (s : State) (n : Nat) (x : OrbLink) : (s.setLink n x).time = s.time := rfl
@[simp] theorem State.clk_setLink (s : State) (n : Nat) (x : OrbLink) : (s.setLink n x).clk = s.clk := rfl
@[simp] theorem State.ports_setLink (s : State) (n : Nat) (x : OrbLink) : (s.setLink n x).ports = s.ports := rfl
@[simp] theorem State.strm_setLink (s : State) (n : Nat) (x : OrbLink) : (s.setLink n x).strm = s.strm := rfl
@[simp] theorem State.seals_setLink (s : State) (n : Nat) (x : OrbLink) : (s.setLink n x).seals = s.seals := rfl
@[simp] theorem State.tdm_setLink (s : State) (n : Nat) (x : OrbLink) : (s.setLink n x).tdm = s.tdm := rfl
@[simp] theorem State.amp_setLink (s : State) (n : Nat) (x : OrbLink) : (s.setLink n x).amp = s.amp := rfl
@[simp] theorem State.anvil_setLink (s : State) (n : Nat) (x : OrbLink) : (s.setLink n x).anvil = s.anvil := rfl
@[simp] theorem State.dma_setLink (s : State) (n : Nat) (x : OrbLink) : (s.setLink n x).dma = s.dma := rfl
@[simp] theorem State.csp_setLink (s : State) (n : Nat) (x : OrbLink) : (s.setLink n x).csp = s.csp := rfl
@[simp] theorem State.boot_setLink (s : State) (n : Nat) (x : OrbLink) : (s.setLink n x).boot = s.boot := rfl
@[simp] theorem State.pair_setLink (s : State) (n : Nat) (x : OrbLink) : (s.setLink n x).pair = s.pair := rfl
@[simp] theorem State.test_setLink (s : State) (n : Nat) (x : OrbLink) : (s.setLink n x).test = s.test := rfl
@[simp] theorem State.life_setLink (s : State) (n : Nat) (x : OrbLink) : (s.setLink n x).life = s.life := rfl
@[simp] theorem State.pending_setLink (s : State) (n : Nat) (x : OrbLink) : (s.setLink n x).pending = s.pending := rfl
@[simp] theorem State.get_setLink (s : State) (n : Nat) (x : OrbLink) (f : Fld) : (s.setLink n x).get f = s.get f := rfl

@[simp] theorem State.regs_setRx (s : State) (i : Nat) (x : RxRun) : (s.setRx i x).regs = s.regs := rfl
@[simp] theorem State.held_setRx (s : State) (i : Nat) (x : RxRun) : (s.setRx i x).held = s.held := rfl
@[simp] theorem State.latch_setRx (s : State) (i : Nat) (x : RxRun) : (s.setRx i x).latch = s.latch := rfl
@[simp] theorem State.rd_setRx (s : State) (i : Nat) (x : RxRun) : (s.setRx i x).rd = s.rd := rfl
@[simp] theorem State.cycles_setRx (s : State) (i : Nat) (x : RxRun) : (s.setRx i x).cycles = s.cycles := rfl
@[simp] theorem State.ctr_setRx (s : State) (i : Nat) (x : RxRun) : (s.setRx i x).ctr = s.ctr := rfl
@[simp] theorem State.freeCtr_setRx (s : State) (i : Nat) (x : RxRun) : (s.setRx i x).freeCtr = s.freeCtr := rfl
@[simp] theorem State.holdoff_setRx (s : State) (i : Nat) (x : RxRun) : (s.setRx i x).holdoff = s.holdoff := rfl
@[simp] theorem State.que_setRx (s : State) (i : Nat) (x : RxRun) : (s.setRx i x).que = s.que := rfl
@[simp] theorem State.cmd_setRx (s : State) (i : Nat) (x : RxRun) : (s.setRx i x).cmd = s.cmd := rfl
@[simp] theorem State.svc_setRx (s : State) (i : Nat) (x : RxRun) : (s.setRx i x).svc = s.svc := rfl
@[simp] theorem State.time_setRx (s : State) (i : Nat) (x : RxRun) : (s.setRx i x).time = s.time := rfl
@[simp] theorem State.clk_setRx (s : State) (i : Nat) (x : RxRun) : (s.setRx i x).clk = s.clk := rfl
@[simp] theorem State.ports_setRx (s : State) (i : Nat) (x : RxRun) : (s.setRx i x).ports = s.ports := rfl
@[simp] theorem State.seals_setRx (s : State) (i : Nat) (x : RxRun) : (s.setRx i x).seals = s.seals := rfl
@[simp] theorem State.tdm_setRx (s : State) (i : Nat) (x : RxRun) : (s.setRx i x).tdm = s.tdm := rfl
@[simp] theorem State.amp_setRx (s : State) (i : Nat) (x : RxRun) : (s.setRx i x).amp = s.amp := rfl
@[simp] theorem State.anvil_setRx (s : State) (i : Nat) (x : RxRun) : (s.setRx i x).anvil = s.anvil := rfl
@[simp] theorem State.dma_setRx (s : State) (i : Nat) (x : RxRun) : (s.setRx i x).dma = s.dma := rfl
@[simp] theorem State.csp_setRx (s : State) (i : Nat) (x : RxRun) : (s.setRx i x).csp = s.csp := rfl
@[simp] theorem State.boot_setRx (s : State) (i : Nat) (x : RxRun) : (s.setRx i x).boot = s.boot := rfl
@[simp] theorem State.orb_setRx (s : State) (i : Nat) (x : RxRun) : (s.setRx i x).orb = s.orb := rfl
@[simp] theorem State.pair_setRx (s : State) (i : Nat) (x : RxRun) : (s.setRx i x).pair = s.pair := rfl
@[simp] theorem State.test_setRx (s : State) (i : Nat) (x : RxRun) : (s.setRx i x).test = s.test := rfl
@[simp] theorem State.life_setRx (s : State) (i : Nat) (x : RxRun) : (s.setRx i x).life = s.life := rfl
@[simp] theorem State.pending_setRx (s : State) (i : Nat) (x : RxRun) : (s.setRx i x).pending = s.pending := rfl
@[simp] theorem State.get_setRx (s : State) (i : Nat) (x : RxRun) (f : Fld) : (s.setRx i x).get f = s.get f := rfl

@[simp] theorem State.regs_setTx (s : State) (i : Nat) (x : TxRun) : (s.setTx i x).regs = s.regs := rfl
@[simp] theorem State.held_setTx (s : State) (i : Nat) (x : TxRun) : (s.setTx i x).held = s.held := rfl
@[simp] theorem State.latch_setTx (s : State) (i : Nat) (x : TxRun) : (s.setTx i x).latch = s.latch := rfl
@[simp] theorem State.rd_setTx (s : State) (i : Nat) (x : TxRun) : (s.setTx i x).rd = s.rd := rfl
@[simp] theorem State.cycles_setTx (s : State) (i : Nat) (x : TxRun) : (s.setTx i x).cycles = s.cycles := rfl
@[simp] theorem State.ctr_setTx (s : State) (i : Nat) (x : TxRun) : (s.setTx i x).ctr = s.ctr := rfl
@[simp] theorem State.freeCtr_setTx (s : State) (i : Nat) (x : TxRun) : (s.setTx i x).freeCtr = s.freeCtr := rfl
@[simp] theorem State.holdoff_setTx (s : State) (i : Nat) (x : TxRun) : (s.setTx i x).holdoff = s.holdoff := rfl
@[simp] theorem State.que_setTx (s : State) (i : Nat) (x : TxRun) : (s.setTx i x).que = s.que := rfl
@[simp] theorem State.cmd_setTx (s : State) (i : Nat) (x : TxRun) : (s.setTx i x).cmd = s.cmd := rfl
@[simp] theorem State.svc_setTx (s : State) (i : Nat) (x : TxRun) : (s.setTx i x).svc = s.svc := rfl
@[simp] theorem State.time_setTx (s : State) (i : Nat) (x : TxRun) : (s.setTx i x).time = s.time := rfl
@[simp] theorem State.clk_setTx (s : State) (i : Nat) (x : TxRun) : (s.setTx i x).clk = s.clk := rfl
@[simp] theorem State.ports_setTx (s : State) (i : Nat) (x : TxRun) : (s.setTx i x).ports = s.ports := rfl
@[simp] theorem State.seals_setTx (s : State) (i : Nat) (x : TxRun) : (s.setTx i x).seals = s.seals := rfl
@[simp] theorem State.tdm_setTx (s : State) (i : Nat) (x : TxRun) : (s.setTx i x).tdm = s.tdm := rfl
@[simp] theorem State.amp_setTx (s : State) (i : Nat) (x : TxRun) : (s.setTx i x).amp = s.amp := rfl
@[simp] theorem State.anvil_setTx (s : State) (i : Nat) (x : TxRun) : (s.setTx i x).anvil = s.anvil := rfl
@[simp] theorem State.dma_setTx (s : State) (i : Nat) (x : TxRun) : (s.setTx i x).dma = s.dma := rfl
@[simp] theorem State.csp_setTx (s : State) (i : Nat) (x : TxRun) : (s.setTx i x).csp = s.csp := rfl
@[simp] theorem State.boot_setTx (s : State) (i : Nat) (x : TxRun) : (s.setTx i x).boot = s.boot := rfl
@[simp] theorem State.orb_setTx (s : State) (i : Nat) (x : TxRun) : (s.setTx i x).orb = s.orb := rfl
@[simp] theorem State.pair_setTx (s : State) (i : Nat) (x : TxRun) : (s.setTx i x).pair = s.pair := rfl
@[simp] theorem State.test_setTx (s : State) (i : Nat) (x : TxRun) : (s.setTx i x).test = s.test := rfl
@[simp] theorem State.life_setTx (s : State) (i : Nat) (x : TxRun) : (s.setTx i x).life = s.life := rfl
@[simp] theorem State.pending_setTx (s : State) (i : Nat) (x : TxRun) : (s.setTx i x).pending = s.pending := rfl
@[simp] theorem State.get_setTx (s : State) (i : Nat) (x : TxRun) (f : Fld) : (s.setTx i x).get f = s.get f := rfl

@[simp] theorem State.regs_setRec (s : State) (x : RecRun) : (s.setRec x).regs = s.regs := rfl
@[simp] theorem State.held_setRec (s : State) (x : RecRun) : (s.setRec x).held = s.held := rfl
@[simp] theorem State.latch_setRec (s : State) (x : RecRun) : (s.setRec x).latch = s.latch := rfl
@[simp] theorem State.rd_setRec (s : State) (x : RecRun) : (s.setRec x).rd = s.rd := rfl
@[simp] theorem State.cycles_setRec (s : State) (x : RecRun) : (s.setRec x).cycles = s.cycles := rfl
@[simp] theorem State.ctr_setRec (s : State) (x : RecRun) : (s.setRec x).ctr = s.ctr := rfl
@[simp] theorem State.freeCtr_setRec (s : State) (x : RecRun) : (s.setRec x).freeCtr = s.freeCtr := rfl
@[simp] theorem State.holdoff_setRec (s : State) (x : RecRun) : (s.setRec x).holdoff = s.holdoff := rfl
@[simp] theorem State.que_setRec (s : State) (x : RecRun) : (s.setRec x).que = s.que := rfl
@[simp] theorem State.cmd_setRec (s : State) (x : RecRun) : (s.setRec x).cmd = s.cmd := rfl
@[simp] theorem State.svc_setRec (s : State) (x : RecRun) : (s.setRec x).svc = s.svc := rfl
@[simp] theorem State.time_setRec (s : State) (x : RecRun) : (s.setRec x).time = s.time := rfl
@[simp] theorem State.clk_setRec (s : State) (x : RecRun) : (s.setRec x).clk = s.clk := rfl
@[simp] theorem State.ports_setRec (s : State) (x : RecRun) : (s.setRec x).ports = s.ports := rfl
@[simp] theorem State.strm_setRec (s : State) (x : RecRun) : (s.setRec x).strm = s.strm := rfl
@[simp] theorem State.seals_setRec (s : State) (x : RecRun) : (s.setRec x).seals = s.seals := rfl
@[simp] theorem State.tdm_setRec (s : State) (x : RecRun) : (s.setRec x).tdm = s.tdm := rfl
@[simp] theorem State.amp_setRec (s : State) (x : RecRun) : (s.setRec x).amp = s.amp := rfl
@[simp] theorem State.anvil_setRec (s : State) (x : RecRun) : (s.setRec x).anvil = s.anvil := rfl
@[simp] theorem State.csp_setRec (s : State) (x : RecRun) : (s.setRec x).csp = s.csp := rfl
@[simp] theorem State.boot_setRec (s : State) (x : RecRun) : (s.setRec x).boot = s.boot := rfl
@[simp] theorem State.orb_setRec (s : State) (x : RecRun) : (s.setRec x).orb = s.orb := rfl
@[simp] theorem State.pair_setRec (s : State) (x : RecRun) : (s.setRec x).pair = s.pair := rfl
@[simp] theorem State.test_setRec (s : State) (x : RecRun) : (s.setRec x).test = s.test := rfl
@[simp] theorem State.life_setRec (s : State) (x : RecRun) : (s.setRec x).life = s.life := rfl
@[simp] theorem State.pending_setRec (s : State) (x : RecRun) : (s.setRec x).pending = s.pending := rfl
@[simp] theorem State.get_setRec (s : State) (x : RecRun) (f : Fld) : (s.setRec x).get f = s.get f := rfl

@[simp] theorem State.regs_setPlay (s : State) (x : PlayRun) : (s.setPlay x).regs = s.regs := rfl
@[simp] theorem State.held_setPlay (s : State) (x : PlayRun) : (s.setPlay x).held = s.held := rfl
@[simp] theorem State.latch_setPlay (s : State) (x : PlayRun) : (s.setPlay x).latch = s.latch := rfl
@[simp] theorem State.rd_setPlay (s : State) (x : PlayRun) : (s.setPlay x).rd = s.rd := rfl
@[simp] theorem State.cycles_setPlay (s : State) (x : PlayRun) : (s.setPlay x).cycles = s.cycles := rfl
@[simp] theorem State.ctr_setPlay (s : State) (x : PlayRun) : (s.setPlay x).ctr = s.ctr := rfl
@[simp] theorem State.freeCtr_setPlay (s : State) (x : PlayRun) : (s.setPlay x).freeCtr = s.freeCtr := rfl
@[simp] theorem State.holdoff_setPlay (s : State) (x : PlayRun) : (s.setPlay x).holdoff = s.holdoff := rfl
@[simp] theorem State.que_setPlay (s : State) (x : PlayRun) : (s.setPlay x).que = s.que := rfl
@[simp] theorem State.cmd_setPlay (s : State) (x : PlayRun) : (s.setPlay x).cmd = s.cmd := rfl
@[simp] theorem State.svc_setPlay (s : State) (x : PlayRun) : (s.setPlay x).svc = s.svc := rfl
@[simp] theorem State.time_setPlay (s : State) (x : PlayRun) : (s.setPlay x).time = s.time := rfl
@[simp] theorem State.clk_setPlay (s : State) (x : PlayRun) : (s.setPlay x).clk = s.clk := rfl
@[simp] theorem State.ports_setPlay (s : State) (x : PlayRun) : (s.setPlay x).ports = s.ports := rfl
@[simp] theorem State.strm_setPlay (s : State) (x : PlayRun) : (s.setPlay x).strm = s.strm := rfl
@[simp] theorem State.seals_setPlay (s : State) (x : PlayRun) : (s.setPlay x).seals = s.seals := rfl
@[simp] theorem State.tdm_setPlay (s : State) (x : PlayRun) : (s.setPlay x).tdm = s.tdm := rfl
@[simp] theorem State.amp_setPlay (s : State) (x : PlayRun) : (s.setPlay x).amp = s.amp := rfl
@[simp] theorem State.anvil_setPlay (s : State) (x : PlayRun) : (s.setPlay x).anvil = s.anvil := rfl
@[simp] theorem State.csp_setPlay (s : State) (x : PlayRun) : (s.setPlay x).csp = s.csp := rfl
@[simp] theorem State.boot_setPlay (s : State) (x : PlayRun) : (s.setPlay x).boot = s.boot := rfl
@[simp] theorem State.orb_setPlay (s : State) (x : PlayRun) : (s.setPlay x).orb = s.orb := rfl
@[simp] theorem State.pair_setPlay (s : State) (x : PlayRun) : (s.setPlay x).pair = s.pair := rfl
@[simp] theorem State.test_setPlay (s : State) (x : PlayRun) : (s.setPlay x).test = s.test := rfl
@[simp] theorem State.life_setPlay (s : State) (x : PlayRun) : (s.setPlay x).life = s.life := rfl
@[simp] theorem State.pending_setPlay (s : State) (x : PlayRun) : (s.setPlay x).pending = s.pending := rfl
@[simp] theorem State.get_setPlay (s : State) (x : PlayRun) (f : Fld) : (s.setPlay x).get f = s.get f := rfl

@[simp] theorem State.regs_putSetRun (s : State) (k : Nat) (x : SetRun) : (s.putSetRun k x).regs = s.regs := rfl
@[simp] theorem State.held_putSetRun (s : State) (k : Nat) (x : SetRun) : (s.putSetRun k x).held = s.held := rfl
@[simp] theorem State.latch_putSetRun (s : State) (k : Nat) (x : SetRun) : (s.putSetRun k x).latch = s.latch := rfl
@[simp] theorem State.rd_putSetRun (s : State) (k : Nat) (x : SetRun) : (s.putSetRun k x).rd = s.rd := rfl
@[simp] theorem State.cycles_putSetRun (s : State) (k : Nat) (x : SetRun) : (s.putSetRun k x).cycles = s.cycles := rfl
@[simp] theorem State.ctr_putSetRun (s : State) (k : Nat) (x : SetRun) : (s.putSetRun k x).ctr = s.ctr := rfl
@[simp] theorem State.freeCtr_putSetRun (s : State) (k : Nat) (x : SetRun) : (s.putSetRun k x).freeCtr = s.freeCtr := rfl
@[simp] theorem State.holdoff_putSetRun (s : State) (k : Nat) (x : SetRun) : (s.putSetRun k x).holdoff = s.holdoff := rfl
@[simp] theorem State.que_putSetRun (s : State) (k : Nat) (x : SetRun) : (s.putSetRun k x).que = s.que := rfl
@[simp] theorem State.cmd_putSetRun (s : State) (k : Nat) (x : SetRun) : (s.putSetRun k x).cmd = s.cmd := rfl
@[simp] theorem State.svc_putSetRun (s : State) (k : Nat) (x : SetRun) : (s.putSetRun k x).svc = s.svc := rfl
@[simp] theorem State.time_putSetRun (s : State) (k : Nat) (x : SetRun) : (s.putSetRun k x).time = s.time := rfl
@[simp] theorem State.clk_putSetRun (s : State) (k : Nat) (x : SetRun) : (s.putSetRun k x).clk = s.clk := rfl
@[simp] theorem State.ports_putSetRun (s : State) (k : Nat) (x : SetRun) : (s.putSetRun k x).ports = s.ports := rfl
@[simp] theorem State.strm_putSetRun (s : State) (k : Nat) (x : SetRun) : (s.putSetRun k x).strm = s.strm := rfl
@[simp] theorem State.seals_putSetRun (s : State) (k : Nat) (x : SetRun) : (s.putSetRun k x).seals = s.seals := rfl
@[simp] theorem State.tdm_putSetRun (s : State) (k : Nat) (x : SetRun) : (s.putSetRun k x).tdm = s.tdm := rfl
@[simp] theorem State.amp_putSetRun (s : State) (k : Nat) (x : SetRun) : (s.putSetRun k x).amp = s.amp := rfl
@[simp] theorem State.anvil_putSetRun (s : State) (k : Nat) (x : SetRun) : (s.putSetRun k x).anvil = s.anvil := rfl
@[simp] theorem State.dma_putSetRun (s : State) (k : Nat) (x : SetRun) : (s.putSetRun k x).dma = s.dma := rfl
@[simp] theorem State.csp_putSetRun (s : State) (k : Nat) (x : SetRun) : (s.putSetRun k x).csp = s.csp := rfl
@[simp] theorem State.boot_putSetRun (s : State) (k : Nat) (x : SetRun) : (s.putSetRun k x).boot = s.boot := rfl
@[simp] theorem State.orb_putSetRun (s : State) (k : Nat) (x : SetRun) : (s.putSetRun k x).orb = s.orb := rfl
@[simp] theorem State.pair_putSetRun (s : State) (k : Nat) (x : SetRun) : (s.putSetRun k x).pair = s.pair := rfl
@[simp] theorem State.life_putSetRun (s : State) (k : Nat) (x : SetRun) : (s.putSetRun k x).life = s.life := rfl
@[simp] theorem State.pending_putSetRun (s : State) (k : Nat) (x : SetRun) : (s.putSetRun k x).pending = s.pending := rfl
@[simp] theorem State.get_putSetRun (s : State) (k : Nat) (x : SetRun) (f : Fld) : (s.putSetRun k x).get f = s.get f := rfl

@[simp] theorem State.held_countSat (s : State) (f : Fld) : (s.countSat f).held = s.held := by
  unfold State.countSat; split <;> rfl
@[simp] theorem State.latch_countSat (s : State) (f : Fld) : (s.countSat f).latch = s.latch := by
  unfold State.countSat; split <;> rfl
@[simp] theorem State.rd_countSat (s : State) (f : Fld) : (s.countSat f).rd = s.rd := by
  unfold State.countSat; split <;> rfl
@[simp] theorem State.cycles_countSat (s : State) (f : Fld) : (s.countSat f).cycles = s.cycles := by
  unfold State.countSat; split <;> rfl
@[simp] theorem State.ctr_countSat (s : State) (f : Fld) : (s.countSat f).ctr = s.ctr := by
  unfold State.countSat; split <;> rfl
@[simp] theorem State.freeCtr_countSat (s : State) (f : Fld) : (s.countSat f).freeCtr = s.freeCtr := by
  unfold State.countSat; split <;> rfl
@[simp] theorem State.holdoff_countSat (s : State) (f : Fld) : (s.countSat f).holdoff = s.holdoff := by
  unfold State.countSat; split <;> rfl
@[simp] theorem State.que_countSat (s : State) (f : Fld) : (s.countSat f).que = s.que := by
  unfold State.countSat; split <;> rfl
@[simp] theorem State.cmd_countSat (s : State) (f : Fld) : (s.countSat f).cmd = s.cmd := by
  unfold State.countSat; split <;> rfl
@[simp] theorem State.svc_countSat (s : State) (f : Fld) : (s.countSat f).svc = s.svc := by
  unfold State.countSat; split <;> rfl
@[simp] theorem State.time_countSat (s : State) (f : Fld) : (s.countSat f).time = s.time := by
  unfold State.countSat; split <;> rfl
@[simp] theorem State.clk_countSat (s : State) (f : Fld) : (s.countSat f).clk = s.clk := by
  unfold State.countSat; split <;> rfl
@[simp] theorem State.ports_countSat (s : State) (f : Fld) : (s.countSat f).ports = s.ports := by
  unfold State.countSat; split <;> rfl
@[simp] theorem State.strm_countSat (s : State) (f : Fld) : (s.countSat f).strm = s.strm := by
  unfold State.countSat; split <;> rfl
@[simp] theorem State.seals_countSat (s : State) (f : Fld) : (s.countSat f).seals = s.seals := by
  unfold State.countSat; split <;> rfl
@[simp] theorem State.tdm_countSat (s : State) (f : Fld) : (s.countSat f).tdm = s.tdm := by
  unfold State.countSat; split <;> rfl
@[simp] theorem State.amp_countSat (s : State) (f : Fld) : (s.countSat f).amp = s.amp := by
  unfold State.countSat; split <;> rfl
@[simp] theorem State.anvil_countSat (s : State) (f : Fld) : (s.countSat f).anvil = s.anvil := by
  unfold State.countSat; split <;> rfl
@[simp] theorem State.dma_countSat (s : State) (f : Fld) : (s.countSat f).dma = s.dma := by
  unfold State.countSat; split <;> rfl
@[simp] theorem State.csp_countSat (s : State) (f : Fld) : (s.countSat f).csp = s.csp := by
  unfold State.countSat; split <;> rfl
@[simp] theorem State.boot_countSat (s : State) (f : Fld) : (s.countSat f).boot = s.boot := by
  unfold State.countSat; split <;> rfl
@[simp] theorem State.orb_countSat (s : State) (f : Fld) : (s.countSat f).orb = s.orb := by
  unfold State.countSat; split <;> rfl
@[simp] theorem State.pair_countSat (s : State) (f : Fld) : (s.countSat f).pair = s.pair := by
  unfold State.countSat; split <;> rfl
@[simp] theorem State.test_countSat (s : State) (f : Fld) : (s.countSat f).test = s.test := by
  unfold State.countSat; split <;> rfl
@[simp] theorem State.life_countSat (s : State) (f : Fld) : (s.countSat f).life = s.life := by
  unfold State.countSat; split <;> rfl
@[simp] theorem State.pending_countSat (s : State) (f : Fld) : (s.countSat f).pending = s.pending := by
  unfold State.countSat; split <;> rfl

@[simp] theorem State.latch_setB (s : State) (f : Fld) (u : Upd) (v : Nat) : (s.setB f u v).latch = s.latch := by
  unfold State.setB; split; · rfl
  · split <;> rfl
@[simp] theorem State.rd_setB (s : State) (f : Fld) (u : Upd) (v : Nat) : (s.setB f u v).rd = s.rd := by
  unfold State.setB; split; · rfl
  · split <;> rfl
@[simp] theorem State.cycles_setB (s : State) (f : Fld) (u : Upd) (v : Nat) : (s.setB f u v).cycles = s.cycles := by
  unfold State.setB; split; · rfl
  · split <;> rfl
@[simp] theorem State.ctr_setB (s : State) (f : Fld) (u : Upd) (v : Nat) : (s.setB f u v).ctr = s.ctr := by
  unfold State.setB; split; · rfl
  · split <;> rfl
@[simp] theorem State.freeCtr_setB (s : State) (f : Fld) (u : Upd) (v : Nat) : (s.setB f u v).freeCtr = s.freeCtr := by
  unfold State.setB; split; · rfl
  · split <;> rfl
@[simp] theorem State.holdoff_setB (s : State) (f : Fld) (u : Upd) (v : Nat) : (s.setB f u v).holdoff = s.holdoff := by
  unfold State.setB; split; · rfl
  · split <;> rfl
@[simp] theorem State.que_setB (s : State) (f : Fld) (u : Upd) (v : Nat) : (s.setB f u v).que = s.que := by
  unfold State.setB; split; · rfl
  · split <;> rfl
@[simp] theorem State.cmd_setB (s : State) (f : Fld) (u : Upd) (v : Nat) : (s.setB f u v).cmd = s.cmd := by
  unfold State.setB; split; · rfl
  · split <;> rfl
@[simp] theorem State.svc_setB (s : State) (f : Fld) (u : Upd) (v : Nat) : (s.setB f u v).svc = s.svc := by
  unfold State.setB; split; · rfl
  · split <;> rfl
@[simp] theorem State.time_setB (s : State) (f : Fld) (u : Upd) (v : Nat) : (s.setB f u v).time = s.time := by
  unfold State.setB; split; · rfl
  · split <;> rfl
@[simp] theorem State.clk_setB (s : State) (f : Fld) (u : Upd) (v : Nat) : (s.setB f u v).clk = s.clk := by
  unfold State.setB; split; · rfl
  · split <;> rfl
@[simp] theorem State.ports_setB (s : State) (f : Fld) (u : Upd) (v : Nat) : (s.setB f u v).ports = s.ports := by
  unfold State.setB; split; · rfl
  · split <;> rfl
@[simp] theorem State.strm_setB (s : State) (f : Fld) (u : Upd) (v : Nat) : (s.setB f u v).strm = s.strm := by
  unfold State.setB; split; · rfl
  · split <;> rfl
@[simp] theorem State.seals_setB (s : State) (f : Fld) (u : Upd) (v : Nat) : (s.setB f u v).seals = s.seals := by
  unfold State.setB; split; · rfl
  · split <;> rfl
@[simp] theorem State.tdm_setB (s : State) (f : Fld) (u : Upd) (v : Nat) : (s.setB f u v).tdm = s.tdm := by
  unfold State.setB; split; · rfl
  · split <;> rfl
@[simp] theorem State.amp_setB (s : State) (f : Fld) (u : Upd) (v : Nat) : (s.setB f u v).amp = s.amp := by
  unfold State.setB; split; · rfl
  · split <;> rfl
@[simp] theorem State.anvil_setB (s : State) (f : Fld) (u : Upd) (v : Nat) : (s.setB f u v).anvil = s.anvil := by
  unfold State.setB; split; · rfl
  · split <;> rfl
@[simp] theorem State.dma_setB (s : State) (f : Fld) (u : Upd) (v : Nat) : (s.setB f u v).dma = s.dma := by
  unfold State.setB; split; · rfl
  · split <;> rfl
@[simp] theorem State.csp_setB (s : State) (f : Fld) (u : Upd) (v : Nat) : (s.setB f u v).csp = s.csp := by
  unfold State.setB; split; · rfl
  · split <;> rfl
@[simp] theorem State.boot_setB (s : State) (f : Fld) (u : Upd) (v : Nat) : (s.setB f u v).boot = s.boot := by
  unfold State.setB; split; · rfl
  · split <;> rfl
@[simp] theorem State.orb_setB (s : State) (f : Fld) (u : Upd) (v : Nat) : (s.setB f u v).orb = s.orb := by
  unfold State.setB; split; · rfl
  · split <;> rfl
@[simp] theorem State.pair_setB (s : State) (f : Fld) (u : Upd) (v : Nat) : (s.setB f u v).pair = s.pair := by
  unfold State.setB; split; · rfl
  · split <;> rfl
@[simp] theorem State.test_setB (s : State) (f : Fld) (u : Upd) (v : Nat) : (s.setB f u v).test = s.test := by
  unfold State.setB; split; · rfl
  · split <;> rfl
@[simp] theorem State.life_setB (s : State) (f : Fld) (u : Upd) (v : Nat) : (s.setB f u v).life = s.life := by
  unfold State.setB; split; · rfl
  · split <;> rfl
@[simp] theorem State.pending_setB (s : State) (f : Fld) (u : Upd) (v : Nat) : (s.setB f u v).pending = s.pending := by
  unfold State.setB; split; · rfl
  · split <;> rfl

@[simp] theorem State.latch_setLo (s : State) (f : Fld) (v : Nat) : (s.setLo f v).latch = s.latch := by
  unfold State.setLo; split <;> rfl
@[simp] theorem State.rd_setLo (s : State) (f : Fld) (v : Nat) : (s.setLo f v).rd = s.rd := by
  unfold State.setLo; split <;> rfl
@[simp] theorem State.cycles_setLo (s : State) (f : Fld) (v : Nat) : (s.setLo f v).cycles = s.cycles := by
  unfold State.setLo; split <;> rfl
@[simp] theorem State.ctr_setLo (s : State) (f : Fld) (v : Nat) : (s.setLo f v).ctr = s.ctr := by
  unfold State.setLo; split <;> rfl
@[simp] theorem State.freeCtr_setLo (s : State) (f : Fld) (v : Nat) : (s.setLo f v).freeCtr = s.freeCtr := by
  unfold State.setLo; split <;> rfl
@[simp] theorem State.holdoff_setLo (s : State) (f : Fld) (v : Nat) : (s.setLo f v).holdoff = s.holdoff := by
  unfold State.setLo; split <;> rfl
@[simp] theorem State.que_setLo (s : State) (f : Fld) (v : Nat) : (s.setLo f v).que = s.que := by
  unfold State.setLo; split <;> rfl
@[simp] theorem State.cmd_setLo (s : State) (f : Fld) (v : Nat) : (s.setLo f v).cmd = s.cmd := by
  unfold State.setLo; split <;> rfl
@[simp] theorem State.svc_setLo (s : State) (f : Fld) (v : Nat) : (s.setLo f v).svc = s.svc := by
  unfold State.setLo; split <;> rfl
@[simp] theorem State.time_setLo (s : State) (f : Fld) (v : Nat) : (s.setLo f v).time = s.time := by
  unfold State.setLo; split <;> rfl
@[simp] theorem State.clk_setLo (s : State) (f : Fld) (v : Nat) : (s.setLo f v).clk = s.clk := by
  unfold State.setLo; split <;> rfl
@[simp] theorem State.ports_setLo (s : State) (f : Fld) (v : Nat) : (s.setLo f v).ports = s.ports := by
  unfold State.setLo; split <;> rfl
@[simp] theorem State.strm_setLo (s : State) (f : Fld) (v : Nat) : (s.setLo f v).strm = s.strm := by
  unfold State.setLo; split <;> rfl
@[simp] theorem State.seals_setLo (s : State) (f : Fld) (v : Nat) : (s.setLo f v).seals = s.seals := by
  unfold State.setLo; split <;> rfl
@[simp] theorem State.tdm_setLo (s : State) (f : Fld) (v : Nat) : (s.setLo f v).tdm = s.tdm := by
  unfold State.setLo; split <;> rfl
@[simp] theorem State.amp_setLo (s : State) (f : Fld) (v : Nat) : (s.setLo f v).amp = s.amp := by
  unfold State.setLo; split <;> rfl
@[simp] theorem State.anvil_setLo (s : State) (f : Fld) (v : Nat) : (s.setLo f v).anvil = s.anvil := by
  unfold State.setLo; split <;> rfl
@[simp] theorem State.dma_setLo (s : State) (f : Fld) (v : Nat) : (s.setLo f v).dma = s.dma := by
  unfold State.setLo; split <;> rfl
@[simp] theorem State.csp_setLo (s : State) (f : Fld) (v : Nat) : (s.setLo f v).csp = s.csp := by
  unfold State.setLo; split <;> rfl
@[simp] theorem State.boot_setLo (s : State) (f : Fld) (v : Nat) : (s.setLo f v).boot = s.boot := by
  unfold State.setLo; split <;> rfl
@[simp] theorem State.orb_setLo (s : State) (f : Fld) (v : Nat) : (s.setLo f v).orb = s.orb := by
  unfold State.setLo; split <;> rfl
@[simp] theorem State.pair_setLo (s : State) (f : Fld) (v : Nat) : (s.setLo f v).pair = s.pair := by
  unfold State.setLo; split <;> rfl
@[simp] theorem State.test_setLo (s : State) (f : Fld) (v : Nat) : (s.setLo f v).test = s.test := by
  unfold State.setLo; split <;> rfl
@[simp] theorem State.life_setLo (s : State) (f : Fld) (v : Nat) : (s.setLo f v).life = s.life := by
  unfold State.setLo; split <;> rfl
@[simp] theorem State.pending_setLo (s : State) (f : Fld) (v : Nat) : (s.setLo f v).pending = s.pending := by
  unfold State.setLo; split <;> rfl

@[simp] theorem State.regs_joinLo (s : State) (f : Fld) (u : Upd) : (s.joinLo f u).regs = s.regs := by
  unfold State.joinLo; split <;> rfl
@[simp] theorem State.latch_joinLo (s : State) (f : Fld) (u : Upd) : (s.joinLo f u).latch = s.latch := by
  unfold State.joinLo; split <;> rfl
@[simp] theorem State.rd_joinLo (s : State) (f : Fld) (u : Upd) : (s.joinLo f u).rd = s.rd := by
  unfold State.joinLo; split <;> rfl
@[simp] theorem State.cycles_joinLo (s : State) (f : Fld) (u : Upd) : (s.joinLo f u).cycles = s.cycles := by
  unfold State.joinLo; split <;> rfl
@[simp] theorem State.ctr_joinLo (s : State) (f : Fld) (u : Upd) : (s.joinLo f u).ctr = s.ctr := by
  unfold State.joinLo; split <;> rfl
@[simp] theorem State.freeCtr_joinLo (s : State) (f : Fld) (u : Upd) : (s.joinLo f u).freeCtr = s.freeCtr := by
  unfold State.joinLo; split <;> rfl
@[simp] theorem State.holdoff_joinLo (s : State) (f : Fld) (u : Upd) : (s.joinLo f u).holdoff = s.holdoff := by
  unfold State.joinLo; split <;> rfl
@[simp] theorem State.que_joinLo (s : State) (f : Fld) (u : Upd) : (s.joinLo f u).que = s.que := by
  unfold State.joinLo; split <;> rfl
@[simp] theorem State.cmd_joinLo (s : State) (f : Fld) (u : Upd) : (s.joinLo f u).cmd = s.cmd := by
  unfold State.joinLo; split <;> rfl
@[simp] theorem State.svc_joinLo (s : State) (f : Fld) (u : Upd) : (s.joinLo f u).svc = s.svc := by
  unfold State.joinLo; split <;> rfl
@[simp] theorem State.time_joinLo (s : State) (f : Fld) (u : Upd) : (s.joinLo f u).time = s.time := by
  unfold State.joinLo; split <;> rfl
@[simp] theorem State.clk_joinLo (s : State) (f : Fld) (u : Upd) : (s.joinLo f u).clk = s.clk := by
  unfold State.joinLo; split <;> rfl
@[simp] theorem State.ports_joinLo (s : State) (f : Fld) (u : Upd) : (s.joinLo f u).ports = s.ports := by
  unfold State.joinLo; split <;> rfl
@[simp] theorem State.strm_joinLo (s : State) (f : Fld) (u : Upd) : (s.joinLo f u).strm = s.strm := by
  unfold State.joinLo; split <;> rfl
@[simp] theorem State.seals_joinLo (s : State) (f : Fld) (u : Upd) : (s.joinLo f u).seals = s.seals := by
  unfold State.joinLo; split <;> rfl
@[simp] theorem State.tdm_joinLo (s : State) (f : Fld) (u : Upd) : (s.joinLo f u).tdm = s.tdm := by
  unfold State.joinLo; split <;> rfl
@[simp] theorem State.amp_joinLo (s : State) (f : Fld) (u : Upd) : (s.joinLo f u).amp = s.amp := by
  unfold State.joinLo; split <;> rfl
@[simp] theorem State.anvil_joinLo (s : State) (f : Fld) (u : Upd) : (s.joinLo f u).anvil = s.anvil := by
  unfold State.joinLo; split <;> rfl
@[simp] theorem State.dma_joinLo (s : State) (f : Fld) (u : Upd) : (s.joinLo f u).dma = s.dma := by
  unfold State.joinLo; split <;> rfl
@[simp] theorem State.csp_joinLo (s : State) (f : Fld) (u : Upd) : (s.joinLo f u).csp = s.csp := by
  unfold State.joinLo; split <;> rfl
@[simp] theorem State.boot_joinLo (s : State) (f : Fld) (u : Upd) : (s.joinLo f u).boot = s.boot := by
  unfold State.joinLo; split <;> rfl
@[simp] theorem State.orb_joinLo (s : State) (f : Fld) (u : Upd) : (s.joinLo f u).orb = s.orb := by
  unfold State.joinLo; split <;> rfl
@[simp] theorem State.pair_joinLo (s : State) (f : Fld) (u : Upd) : (s.joinLo f u).pair = s.pair := by
  unfold State.joinLo; split <;> rfl
@[simp] theorem State.test_joinLo (s : State) (f : Fld) (u : Upd) : (s.joinLo f u).test = s.test := by
  unfold State.joinLo; split <;> rfl
@[simp] theorem State.life_joinLo (s : State) (f : Fld) (u : Upd) : (s.joinLo f u).life = s.life := by
  unfold State.joinLo; split <;> rfl
@[simp] theorem State.pending_joinLo (s : State) (f : Fld) (u : Upd) : (s.joinLo f u).pending = s.pending := by
  unfold State.joinLo; split <;> rfl

end Sys2Proof.Machine
end

