-- ==== Sys2Proof/Laws/Events.lean ====
section
/-! SUPPORT. What raising an event can change: the EVENT queue and its registers, Bellows units, the flags and levels of QUE, the pending
interrupt messages, and nothing else; and what a push to another queue changes besides. -/

namespace Sys2Proof.Machine

/-- The registers that putting queue `i` in a state can change, by offset: its status and counters but SPILL_LOST; LVL_X, LVL_ABOVE,
BLW_X, BLW_STATE and INT; the state of the Bellows units; the pending bits of the MSI-X vectors. -/
def queueOff (i o : Nat) : Bool :=
  (decide (0x101008 + 0x40 * i ≤ o ∧ o < 0x10101C + 0x40 * i) || o == 0x101020 + 0x40 * i) ||
    (decide (0x100200 ≤ o ∧ o < 0x100204) || decide (0x100208 ≤ o ∧ o < 0x10021C) || o == 0x100008) ||
    (decide (0x100800 ≤ o ∧ o < 0x100900) && decide (12 ≤ o % 0x20)) || decide (0x38000 ≤ o ∧ o < 0x38008)

/-- A key of such a register. -/
def queueKey (i k : Nat) : Bool := queueOff i (k / 32)

/-- Keys that an event changes. -/
abbrev eventKey (k : Nat) : Bool := queueKey 0 k

/-- `t` differs from `s` in the queues, in the times of interrupt messages, and in register fields whose keys `P` accepts; a flag of
QUE.INT that is set stays set; and if the register file of `s` has its canonical form, that of `t` has it. -/
structure State.EventStep (P : Nat → Bool) (s t : State) : Prop where
  rest : t = { s with regs := t.regs, que := t.que, dma := { s.dma with msi := t.dma.msi } }
  get : ∀ f : Fld, P f.key = false → t.get f = s.get f
  flag : ∀ i, i < 5 → s.bit QUE.INT i = true → t.bit QUE.INT i = true
  wf : s.regs.wf = true → t.regs.wf = true

namespace State.EventStep

variable {P : Nat → Bool}

theorem refl (s : State) : EventStep P s s := ⟨rfl, fun _ _ => rfl, fun _ _ h => h, id⟩

theorem trans {s t u : State} (a : EventStep P s t) (b : EventStep P t u) : EventStep P s u := by
  refine ⟨?_, fun f h => (b.get f h).trans (a.get f h), fun i hi h => b.flag i hi (a.flag i hi h), fun h => b.wf (a.wf h)⟩
  have h := b.rest
  rw [a.rest] at h
  exact h

theorem mono {Q : Nat → Bool} (h : ∀ k, P k = true → Q k = true) {s t : State} (a : EventStep P s t) : EventStep Q s t :=
  ⟨a.rest, fun f hf => a.get f (by
    cases hp : P f.key
    · rfl
    · exact absurd (h _ hp) (by simp [hf])), a.flag, a.wf⟩

theorem set (s : State) {f : Fld} (v : Nat) (h : P f.key = true) (hi : f.key ≠ QUE.INT.key) : EventStep P s (s.set f v) := by
  refine ⟨rfl, fun g hg => State.get_set_of_ne _ ?_ _, fun i _ hb => ?_, fun hw => RegFile.wf_set hw _ _⟩
  · intro e
    rw [e] at h
    simp [h] at hg
  · unfold State.bit at hb ⊢
    rw [State.get_set_of_ne _ hi]
    exact hb

theorem setOn (s : State) {f : Fld} (b : Bool) (h : P f.key = true) (hi : f.key ≠ QUE.INT.key) : EventStep P s (s.setOn f b) :=
  set s _ h hi

theorem setBit (s : State) {f : Fld} (i : Nat) (b : Bool) (h : P f.key = true) (hi : f.key ≠ QUE.INT.key) :
    EventStep P s (s.setBit f i b) := set s _ h hi

theorem count (s : State) {f : Fld} (h : P f.key = true) (hi : f.key ≠ QUE.INT.key) : EventStep P s (s.count f) := set s _ h hi

/-- A flag of QUE.INT is set. -/
theorem raiseFlag (s : State) (i : Nat) (h : P QUE.INT.key = true) : EventStep P s (s.setBit QUE.INT i true) := by
  refine ⟨rfl, fun g hg => State.get_set_of_ne _ ?_ _, fun j hj hb => ?_, fun hw => RegFile.wf_set hw _ _⟩
  · intro e
    rw [e] at h
    simp [h] at hg
  · unfold State.bit at hb ⊢
    simp only [State.setBit, State.get_set_self, Nat.testBit_mod_two_pow, if_true, Nat.testBit_or, hb, Bool.true_or, Bool.and_true]
    exact decide_eq_true hj

theorem setQueue (s : State) (i : Nat) (q : Queue) : EventStep P s (s.setQueue i q) := ⟨rfl, fun _ _ => rfl, fun _ _ h => h, id⟩

theorem noteCycle (s : State) (c : QCycle) : EventStep P s (s.noteCycle c) := ⟨rfl, fun _ _ => rfl, fun _ _ h => h, id⟩

theorem ite {s t u : State} {c : Prop} [Decidable c] (a : EventStep P s t) (b : EventStep P s u) :
    EventStep P s (if c then t else u) := by
  split
  · exact a
  · exact b

theorem foldl {α : Type} (g : State → α → State) (h : ∀ s a, EventStep P s (g s a)) (l : List α) (s : State) :
    EventStep P s (l.foldl g s) := by
  induction l generalizing s with
  | nil => exact refl s
  | cons a t ih => exact (h s a).trans (ih _)

end State.EventStep

/-! ## The keys -/

theorem key_div {f : Fld} (h : f.lo < 32) : f.key / 32 = f.off := by
  unfold Fld.key; omega

theorem queueKey_of {f : Fld} {i : Nat} (h : queueOff i f.off = true) (hl : f.lo < 32) : queueKey i f.key = true := by
  unfold queueKey; rw [key_div hl]; exact h

theorem queueKey_false {f : Fld} {i : Nat} (h : queueOff i f.off = false) (hl : f.lo < 32) : queueKey i f.key = false := by
  unfold queueKey; rw [key_div hl]; exact h

theorem queueOff_own {i o : Nat} (h : 0x101008 + 0x40 * i ≤ o ∧ o < 0x10101C + 0x40 * i) : queueOff i o = true := by
  simp [queueOff, h]

theorem queueOff_peak (i : Nat) : queueOff i (0x101020 + 0x40 * i) = true := by simp [queueOff]

theorem queueOff_bellows {i o b : Nat} (hb : b < 8) (h : o = 0x10080C + 0x20 * b ∨ o = 0x100810 + 0x20 * b) : queueOff i o = true := by
  have h1 : decide (0x100800 ≤ o ∧ o < 0x100900) = true := decide_eq_true (by omega)
  have h2 : decide (12 ≤ o % 0x20) = true := decide_eq_true (by omega)
  simp only [queueOff, h1, h2, Bool.and_self, Bool.or_true, Bool.true_or]

theorem queueOff_pending {i v : Nat} (h : v < 64) : queueOff i (0x38000 + 4 * (v / 32)) = true := by
  have h1 : decide (0x38000 ≤ 0x38000 + 4 * (v / 32) ∧ 0x38000 + 4 * (v / 32) < 0x38008) = true := decide_eq_true (by omega)
  simp only [queueOff, h1, Bool.or_true]

theorem queueOff_common {i o : Nat} (h : o = 0x100200 ∨ o = 0x100208 ∨ o = 0x100210 ∨ o = 0x100218 ∨ o = 0x100008) : queueOff i o = true := by
  rcases h with h | h | h | h | h <;> subst h <;> simp [queueOff]

theorem key_ne_of_off {f g : Fld} (hf : f.lo < 32) (hg : g.lo < 32) (h : f.off ≠ g.off) : f.key ≠ g.key := by
  unfold Fld.key; omega

/-! ## The operations -/

variable {i : Nat}

theorem State.msiSend_event (s : State) {v : Nat} (h : v < 64) : State.EventStep (queueKey i) s (s.msiSend v) := by
  have k : queueKey i (MSIX.PENDING (v / 32)).key = true := queueKey_of (queueOff_pending h) (by simp [MSIX.PENDING])
  have n : (MSIX.PENDING (v / 32)).key ≠ QUE.INT.key := by simp [Fld.key, MSIX.PENDING, QUE.INT]; omega
  exact (State.EventStep.setBit s (v % 32) false k n).trans ⟨rfl, fun _ _ => rfl, fun _ _ h => h, id⟩

theorem State.fire_event (s : State) (src : Nat) : State.EventStep (queueKey i) s (s.fire src) := by
  have hv : s.get (DMA.SRC_VEC src) < 64 := State.get_lt s (DMA.SRC_VEC src)
  unfold State.fire
  refine State.EventStep.ite (State.EventStep.refl s) (State.EventStep.ite ?_ (State.msiSend_event s hv))
  refine State.EventStep.setBit s _ _ (queueKey_of (queueOff_pending hv) (by simp [MSIX.PENDING])) ?_
  simp [Fld.key, MSIX.PENDING, QUE.INT]; omega

theorem State.bellowsPin_event (s : State) {b : Nat} (h : b < 8) : State.EventStep (queueKey i) s (s.bellowsPin b) := by
  unfold State.bellowsPin
  refine State.EventStep.ite (State.EventStep.refl s) (State.EventStep.ite ?_ (State.EventStep.refl s))
  refine ((State.EventStep.setOn s _ ?_ ?_).trans (State.EventStep.setBit _ _ _ ?_ (by decide))).trans
    ⟨rfl, fun _ _ => rfl, fun _ _ h => h, id⟩
  · exact queueKey_of (queueOff_bellows h (Or.inr rfl)) (by simp [QUE.BLW_PIN])
  · simp [Fld.key, QUE.BLW_PIN, QUE.INT]; omega
  · exact queueKey_of (queueOff_common (by simp [QUE.BLW_STATE_PIN])) (by simp [QUE.BLW_STATE_PIN])

theorem State.bellows_event (s : State) {b : Nat} (h : b < 8) : State.EventStep (queueKey i) s (s.bellows b).1 := by
  have hL : queueKey i (QUE.BLW_LIVE b).key = true := queueKey_of (queueOff_bellows h (Or.inr rfl)) (by simp [QUE.BLW_LIVE])
  have hX : queueKey i (QUE.BLW_XCNT b).key = true := queueKey_of (queueOff_bellows h (Or.inl rfl)) (by simp [QUE.BLW_XCNT])
  have live : ∀ v, State.EventStep (queueKey i) s ((s.setOn (QUE.BLW_LIVE b) v).setBit QUE.BLW_STATE_LIVE b v) := fun v =>
    (State.EventStep.setOn s v hL (by simp [Fld.key, QUE.BLW_LIVE, QUE.INT]; omega)).trans (State.EventStep.setBit _ _ _
      (queueKey_of (queueOff_common (by simp [QUE.BLW_STATE_LIVE])) (by simp [QUE.BLW_STATE_LIVE])) (by decide))
  unfold State.bellows
  split
  · extract_lets q occ hi lo on on' s1 s2 s3 s4 ev
    have e1 : State.EventStep (queueKey i) s s1 := live _
    have e4 : State.EventStep (queueKey i) s1 s4 :=
      ((State.EventStep.count _ hX (by simp [Fld.key, QUE.BLW_XCNT, QUE.INT]; omega)).trans (State.EventStep.setBit _ _ _
        (queueKey_of (queueOff_common (by simp [QUE.BLW_X])) (by simp [QUE.BLW_X])) (by decide))).trans
        (State.EventStep.raiseFlag _ _ (queueKey_of (queueOff_common (by simp [QUE.INT])) (by simp [QUE.INT])))
    split
    · exact (e1.trans e4).trans (State.bellowsPin_event _ h)
    · exact e1.trans (State.bellowsPin_event _ h)
  · exact (live _).trans (State.bellowsPin_event _ h)

theorem State.bellowsOf_lt {s : State} {j b : Nat} (h : s.bellowsOf j = some b) : b < 8 := by
  have := List.mem_of_find?_eq_some h
  simpa using this

theorem queueKey_own {f : Fld} (h1 : 0x101008 + 0x40 * i ≤ f.off) (h2 : f.off < 0x10101C + 0x40 * i) (h3 : f.lo < 32) :
    queueKey i f.key = true ∧ f.key ≠ QUE.INT.key := by
  refine ⟨queueKey_of (queueOff_own ⟨h1, h2⟩) h3, key_ne_of_off h3 (by simp [QUE.INT]) ?_⟩
  have h : QUE.INT.off = 0x100008 := rfl
  omega

/-- Putting a queue in a state changes its own registers and what an event changes. -/
theorem State.putQueue_event (s : State) (q : Queue) : State.EventStep (queueKey i) s (s.putQueue i q).1 := by
  have kOcc := queueKey_own (i := i) (f := QUE.Q_OCC i) (by simp [QUE.Q_OCC]) (by simp [QUE.Q_OCC]) (by simp [QUE.Q_OCC])
  have kDepth := queueKey_own (i := i) (f := QUE.Q_DEPTH i) (by simp [QUE.Q_DEPTH]) (by simp [QUE.Q_DEPTH]) (by simp [QUE.Q_DEPTH])
  have kMark := queueKey_own (i := i) (f := QUE.Q_MARK_HELD i) (by simp [QUE.Q_MARK_HELD]) (by simp [QUE.Q_MARK_HELD])
    (by simp [QUE.Q_MARK_HELD])
  have kGap := queueKey_own (i := i) (f := QUE.Q_MARKER_QUEUED i) (by simp [QUE.Q_MARKER_QUEUED]) (by simp [QUE.Q_MARKER_QUEUED])
    (by simp [QUE.Q_MARKER_QUEUED])
  have kAbove := queueKey_own (i := i) (f := QUE.Q_ABOVE i) (by simp [QUE.Q_ABOVE]) (by simp [QUE.Q_ABOVE]) (by simp [QUE.Q_ABOVE])
  have kCross := queueKey_own (i := i) (f := QUE.Q_LVL_XCNT i) (by simp [QUE.Q_LVL_XCNT]) (by simp [QUE.Q_LVL_XCNT])
    (by simp [QUE.Q_LVL_XCNT])
  have kPeak : queueKey i (QUE.Q_PEAK_OCC i).key = true := queueKey_of (queueOff_peak i) (by simp [QUE.Q_PEAK_OCC])
  have nPeak : (QUE.Q_PEAK_OCC i).key ≠ QUE.INT.key := by simp [Fld.key, QUE.Q_PEAK_OCC, QUE.INT]; omega
  have kLx : queueKey i QUE.LVL_X.key = true := queueKey_of (queueOff_common (by simp [QUE.LVL_X])) (by simp [QUE.LVL_X])
  have kLa : queueKey i QUE.LVL_ABOVE.key = true := queueKey_of (queueOff_common (by simp [QUE.LVL_ABOVE])) (by simp [QUE.LVL_ABOVE])
  have kInt : queueKey i QUE.INT.key = true := queueKey_of (queueOff_common (by simp [QUE.INT])) (by simp [QUE.INT])
  unfold State.putQueue
  extract_lets q c occ0 occ s1 s2 s3 s4 level s5 cross s5n rise s6 s7 s8 ev
  have e1 : State.EventStep (queueKey i) s s1 := State.EventStep.setQueue s i q
  have e2 : State.EventStep (queueKey i) s1 s2 :=
    ((State.EventStep.set s1 _ kOcc.1 kOcc.2).trans (State.EventStep.set (s1.set (QUE.Q_OCC i) occ) _ kDepth.1 kDepth.2)).trans
      (State.EventStep.setOn _ _ kMark.1 kMark.2)
  have e3 : State.EventStep (queueKey i) s2 s3 := State.EventStep.setOn s2 _ kGap.1 kGap.2
  have e4 : State.EventStep (queueKey i) s3 s4 :=
    State.EventStep.ite (State.EventStep.set s3 _ kPeak nPeak) (State.EventStep.refl s3)
  have e5 : State.EventStep (queueKey i) s4 s5 :=
    (State.EventStep.setOn s4 _ kAbove.1 kAbove.2).trans (State.EventStep.setBit _ _ _ kLa (by decide))
  have e5n : State.EventStep (queueKey i) s5 s5n := State.EventStep.noteCycle s5 _
  have e6 : State.EventStep (queueKey i) s5n s6 := State.EventStep.ite
    ((State.EventStep.setBit s5n _ _ kLx (by decide)).trans (State.EventStep.count _ kCross.1 kCross.2)) (State.EventStep.refl s5n)
  have e7 : State.EventStep (queueKey i) s6 s7 :=
    State.EventStep.ite (State.EventStep.raiseFlag s6 _ kInt) (State.EventStep.refl s6)
  have e8 : State.EventStep (queueKey i) s7 s8 := State.EventStep.ite (State.fire_event s7 _) (State.EventStep.refl s7)
  have e : State.EventStep (queueKey i) s s8 := (((((((e1.trans e2).trans e3).trans e4).trans e5).trans e5n).trans e6).trans e7).trans e8
  clear_value s8
  split
  · rename_i b hb
    exact e.trans (State.bellows_event s8 (State.bellowsOf_lt hb))
  · exact e

/-- A push changes what putting its queue in a state changes. -/
theorem State.pushItem_event (s : State) (it : QItem) : State.EventStep (queueKey i) s (s.pushItem i it).1 := by
  have kDrop := queueKey_own (i := i) (f := QUE.Q_DROP_CNT i) (by simp [QUE.Q_DROP_CNT]) (by simp [QUE.Q_DROP_CNT])
    (by simp [QUE.Q_DROP_CNT])
  have kGaps := queueKey_own (i := i) (f := QUE.Q_MARKERS i) (by simp [QUE.Q_MARKERS]) (by simp [QUE.Q_MARKERS]) (by simp [QUE.Q_MARKERS])
  have drop : ∀ s : State, State.EventStep (queueKey i) s (s.count (QUE.Q_DROP_CNT i)) := fun s =>
    State.EventStep.count s kDrop.1 kDrop.2
  unfold State.pushItem
  extract_lets q s1 s2
  split
  · exact drop s
  · split
    · exact State.putQueue_event _ _
    · refine ((drop s).trans (State.EventStep.ite (State.EventStep.refl _) ?_)).trans (State.putQueue_event _ _)
      exact State.EventStep.count _ kGaps.1 kGaps.2

/-- A record that enters the EVENT queue changes that queue, what goes with it, and nothing else. -/
theorem State.enterRecord_event (s : State) (it : QItem) : State.EventStep eventKey s (s.enterRecord it).1 := by
  unfold State.enterRecord
  extract_lets n q k que s1
  split
  · have e : State.EventStep eventKey s s1 := ⟨rfl, fun _ _ => rfl, fun _ _ h => h, id⟩
    exact e.trans (State.putQueue_event _ _)
  · exact State.pushItem_event s it

/-- Raising an event changes the EVENT queue, what goes with it, and nothing else. -/
theorem State.raiseItem_event (s : State) (it : QItem) : State.EventStep eventKey s (s.raiseItem it) :=
  (State.enterRecord_event s it).trans (State.EventStep.foldl _ (fun s a => State.enterRecord_event s a) _ _)

theorem State.raise_event (s : State) (c b u : Nat) (d : List Byte) : State.EventStep eventKey s (s.raise c b u d) :=
  State.raiseItem_event _ _

/-- Keys of queue `i` and of an event. -/
def bothKey (i k : Nat) : Bool := queueKey i k || queueKey 0 k

theorem State.push_event (s : State) (i : Nat) (it : QItem) : State.EventStep (bothKey i) s (s.push i it) := by
  unfold State.push
  exact ((State.pushItem_event s it).mono (fun k h => by simp [bothKey, h])).trans
    (State.EventStep.foldl _ (fun s a => (State.raiseItem_event s a).mono (fun k h => by simp [bothKey, h])) _ _)

theorem State.updQueue_event (s : State) (i : Nat) (q : Queue) : State.EventStep (bothKey i) s (s.updQueue i q) := by
  unfold State.updQueue
  exact ((State.putQueue_event s q).mono (fun k h => by simp [bothKey, h])).trans
    (State.EventStep.foldl _ (fun s a => (State.raiseItem_event s a).mono (fun k h => by simp [bothKey, h])) _ _)

end Sys2Proof.Machine
end

