-- ==== Sys2Proof/Laws/Units.lean ====
section
/-! SUPPORT. The units the state holds in fixed numbers: what one reads after it, or another, was put. -/

namespace Sys2Proof.Machine

@[simp] theorem unitAt_setIfInBounds_self {α : Type} {n i : Nat} (h : i < n) (v : Vector α n) (x d : α) :
    unitAt (v.setIfInBounds i x) i d = x := by
  simp [unitAt, h]

theorem unitAt_setIfInBounds_of_ne {α : Type} {n i j : Nat} (h : i ≠ j) (v : Vector α n) (x d : α) :
    unitAt (v.setIfInBounds i x) j d = unitAt v j d := by
  simp [unitAt, h]

@[simp] theorem State.queue_setQueue_self (s : State) {i : Nat} (h : i < 11) (q : Queue) : (s.setQueue i q).queue i = q := by
  simp [State.queue, State.setQueue, h]

theorem State.queue_setQueue_of_ne (s : State) {i j : Nat} (h : i ≠ j) (q : Queue) : (s.setQueue i q).queue j = s.queue j := by
  simp [State.queue, State.setQueue, unitAt_setIfInBounds_of_ne h]

@[simp] theorem State.port_setPort_self (s : State) {p : Nat} (h : p < 4) (x : PortState) : (s.setPort p x).port p = x := by
  simp [State.port, State.setPort, h]

@[simp] theorem State.psvc_setPsvc_self (s : State) {p : Nat} (h : p < 4) (x : PortSvc) : (s.setPsvc p x).psvc p = x := by
  simp [State.psvc, State.setPsvc, h]

@[simp] theorem State.ptp_setPtp_self (s : State) {p : Nat} (h : p < 2) (x : PtpPort) : (s.setPtp p x).ptp p = x := by
  simp [State.ptp, State.setPtp, h]

@[simp] theorem State.refSt_setRefSt_self (s : State) {n : Nat} (h : n < 8) (x : RefState) : (s.setRefSt n x).refSt n = x := by
  simp [State.refSt, State.setRefSt, h]

@[simp] theorem State.dpll_setDpll_self (s : State) {d : Nat} (h : d < 4) (x : DpllState) : (s.setDpll d x).dpll d = x := by
  simp [State.dpll, State.setDpll, h]

@[simp] theorem State.ampCh_setAmpCh_self (s : State) {n : Nat} (h : n < 8) (x : AmpCh) : (s.setAmpCh n x).ampCh n = x := by
  simp [State.ampCh, State.setAmpCh, h]

@[simp] theorem State.link_setLink_self (s : State) {n : Nat} (h : n < 4) (x : OrbLink) : (s.setLink n x).link n = x := by
  simp [State.link, State.setLink, h]

@[simp] theorem State.tdmPort_setTdmPort_self (s : State) {p : Nat} (h : p < 32) (x : TdmPort) : (s.setTdmPort p x).tdmPort p = x := by
  simp [State.tdmPort, State.setTdmPort, h]

@[simp] theorem State.tdmGroup_setTdmGroup_self (s : State) {g : Nat} (h : g < 4) (x : TdmGroup) :
    (s.setTdmGroup g x).tdmGroup g = x := by
  simp [State.tdmGroup, State.setTdmGroup, h]

@[simp] theorem State.setRun_putSetRun_self (s : State) {k : Nat} (h : k < 3) (x : SetRun) : (s.putSetRun k x).setRun k = x := by
  simp [State.setRun, State.putSetRun, h]

/-! ## Queues -/

/-- The Bellows pin does not touch the queues. -/
theorem State.queues_bellowsPin (s : State) (b : Nat) : (s.bellowsPin b).que.queues = s.que.queues := by
  unfold State.bellowsPin
  extract_lets pin want forced s1
  split
  · rfl
  · split <;> rfl

theorem State.queues_bellows (s : State) (b : Nat) : (s.bellows b).1.que.queues = s.que.queues := by
  unfold State.bellows
  split
  · extract_lets q occ hi lo on on' s1 s2 s3 s4 ev
    split
    · exact State.queues_bellowsPin _ _
    · exact State.queues_bellowsPin _ _
  · exact State.queues_bellowsPin _ _

theorem State.que_fire (s : State) (i : Nat) : (s.fire i).que = s.que := by
  unfold State.fire
  extract_lets v
  split
  · rfl
  · split <;> rfl

/-- Putting a queue puts exactly that queue; while the bank of the spill region is absent, with what it spills lost. -/
theorem State.queues_putQueue (s : State) (i : Nat) (q : Queue) :
    (s.putQueue i q).1.que.queues = s.que.queues.setIfInBounds i (if s.absent 7 then q.loseSpill else q) := by
  unfold State.putQueue
  extract_lets q' c occ0 occ s1 s2 s3 s4 level s5 cross s5n rise s6 s7 s8 ev
  have h4 : s4.que.queues = s1.que.queues := by simp only [s4]; split <;> rfl
  have h6 : s6.que.queues = s1.que.queues := by simp only [s6]; split <;> exact h4
  have h7 : s7.que.queues = s1.que.queues := by simp only [s7]; split <;> exact h6
  have h8 : s8.que.queues = s1.que.queues := by
    simp only [s8]
    split
    · rw [State.que_fire]; exact h7
    · exact h7
  split
  · exact (State.queues_bellows _ _).trans h8
  · exact h8

theorem State.queue_putQueue_self (s : State) {i : Nat} (h : i < 11) (q : Queue) :
    (s.putQueue i q).1.queue i = if s.absent 7 then q.loseSpill else q := by
  simp [State.queue, State.queues_putQueue, h]

theorem State.queue_putQueue_of_ne (s : State) {i j : Nat} (h : i ≠ j) (q : Queue) : (s.putQueue i q).1.queue j = s.queue j := by
  simp [State.queue, State.queues_putQueue, unitAt_setIfInBounds_of_ne h]

/-- A push touches no other queue. -/
theorem State.queue_pushItem_of_ne (s : State) {i j : Nat} (h : i ≠ j) (it : QItem) : (s.pushItem i it).1.queue j = s.queue j := by
  unfold State.pushItem
  extract_lets q s1 s2
  split
  · rfl
  · split
    · exact State.queue_putQueue_of_ne _ h _
    · rw [State.queue_putQueue_of_ne _ h]
      simp only [s2]; split <;> rfl

/-- A record touches the EVENT queue alone. -/
theorem State.queue_enterRecord_of_ne (s : State) {j : Nat} (h : j ≠ 0) (it : QItem) : (s.enterRecord it).1.queue j = s.queue j := by
  unfold State.enterRecord
  extract_lets n q k que s1
  split
  · exact State.queue_putQueue_of_ne s1 (Ne.symm h) _
  · exact State.queue_pushItem_of_ne s (Ne.symm h) it

/-- Raising an event touches the EVENT queue alone. -/
theorem State.queue_raiseItem_of_ne (s : State) {j : Nat} (h : j ≠ 0) (it : QItem) : (s.raiseItem it).queue j = s.queue j := by
  have hf : ∀ (l : List QItem) (u : State), (l.foldl (fun s e => (s.enterRecord e).1) u).queue j = u.queue j := by
    intro l
    induction l with
    | nil => intro u; rfl
    | cons e t ih => intro u; rw [List.foldl_cons, ih, State.queue_enterRecord_of_ne _ h]
  exact (hf _ _).trans (State.queue_enterRecord_of_ne s h it)

theorem State.queue_raise_of_ne (s : State) {j : Nat} (h : j ≠ 0) (c b u : Nat) (d : List Byte) :
    (s.raise c b u d).queue j = s.queue j := State.queue_raiseItem_of_ne s h _

/-- Putting a queue other than the EVENT queue, with the events this raises, leaves it as it was put. -/
theorem State.queue_updQueue_self (s : State) {i : Nat} (h0 : i ≠ 0) (h : i < 11) (q : Queue) :
    (s.updQueue i q).queue i = if s.absent 7 then q.loseSpill else q := by
  unfold State.updQueue
  have hf : ∀ (l : List QItem) (u : State), (l.foldl State.raiseItem u).queue i = u.queue i := by
    intro l
    induction l with
    | nil => intro u; rfl
    | cons e t ih => intro u; rw [List.foldl_cons, ih, State.queue_raiseItem_of_ne _ h0]
  exact (hf _ _).trans (State.queue_putQueue_self s h q)

/-- A push that has room puts the item whole behind the entries. -/
theorem State.pushItem_of_room (s : State) {i : Nat} (it : QItem) (hr : s.hasRoom i (itemEntries it).length = true) :
    s.pushItem i it = s.putQueue i { s.queue i with ready := (s.queue i).ready ++ itemEntries it } := by
  have hen : s.on (QUE.Q_EN i) = true := by
    simp only [State.hasRoom, Bool.and_eq_true] at hr
    exact hr.1
  unfold State.pushItem
  extract_lets q s1 s2
  rw [if_neg (by simp [hen]), if_pos hr]

theorem State.queue_foldl_raiseItem (s : State) {i : Nat} (h0 : i ≠ 0) (l : List QItem) :
    (l.foldl State.raiseItem s).queue i = s.queue i := by
  induction l generalizing s with
  | nil => rfl
  | cons e t ih => rw [List.foldl_cons, ih, State.queue_raiseItem_of_ne _ h0]

/-- An item that has room is appended whole behind the entries of its queue (R223), while the bank of the spill region is present. -/
theorem State.queue_push_of_room (s : State) {i : Nat} (h0 : i ≠ 0) (h : i < 11) (it : QItem) (ha : s.absent 7 = false)
    (hr : s.hasRoom i (itemEntries it).length = true) :
    (s.push i it).queue i = { s.queue i with ready := (s.queue i).ready ++ itemEntries it } := by
  unfold State.push
  rw [State.pushItem_of_room s it hr]
  exact (State.queue_foldl_raiseItem _ h0 _).trans ((State.queue_putQueue_self s h _).trans (if_neg (by simp [ha])))

/-! ## What an event leaves alone, field by field -/

theorem State.EventStep.held {P : Nat → Bool} {s t : State} (h : State.EventStep P s t) : t.held = s.held := by rw [h.rest]
theorem State.EventStep.latch {P : Nat → Bool} {s t : State} (h : State.EventStep P s t) : t.latch = s.latch := by rw [h.rest]
theorem State.EventStep.rd {P : Nat → Bool} {s t : State} (h : State.EventStep P s t) : t.rd = s.rd := by rw [h.rest]
theorem State.EventStep.cycles {P : Nat → Bool} {s t : State} (h : State.EventStep P s t) : t.cycles = s.cycles := by rw [h.rest]
theorem State.EventStep.ctr {P : Nat → Bool} {s t : State} (h : State.EventStep P s t) : t.ctr = s.ctr := by rw [h.rest]
theorem State.EventStep.freeCtr {P : Nat → Bool} {s t : State} (h : State.EventStep P s t) : t.freeCtr = s.freeCtr := by rw [h.rest]
theorem State.EventStep.holdoff {P : Nat → Bool} {s t : State} (h : State.EventStep P s t) : t.holdoff = s.holdoff := by rw [h.rest]
theorem State.EventStep.cmd {P : Nat → Bool} {s t : State} (h : State.EventStep P s t) : t.cmd = s.cmd := by rw [h.rest]
theorem State.EventStep.svc {P : Nat → Bool} {s t : State} (h : State.EventStep P s t) : t.svc = s.svc := by rw [h.rest]
theorem State.EventStep.time {P : Nat → Bool} {s t : State} (h : State.EventStep P s t) : t.time = s.time := by rw [h.rest]
theorem State.EventStep.clk {P : Nat → Bool} {s t : State} (h : State.EventStep P s t) : t.clk = s.clk := by rw [h.rest]
theorem State.EventStep.ports {P : Nat → Bool} {s t : State} (h : State.EventStep P s t) : t.ports = s.ports := by rw [h.rest]
theorem State.EventStep.strm {P : Nat → Bool} {s t : State} (h : State.EventStep P s t) : t.strm = s.strm := by rw [h.rest]
theorem State.EventStep.seals {P : Nat → Bool} {s t : State} (h : State.EventStep P s t) : t.seals = s.seals := by rw [h.rest]
theorem State.EventStep.tdm {P : Nat → Bool} {s t : State} (h : State.EventStep P s t) : t.tdm = s.tdm := by rw [h.rest]
theorem State.EventStep.amp {P : Nat → Bool} {s t : State} (h : State.EventStep P s t) : t.amp = s.amp := by rw [h.rest]
theorem State.EventStep.anvil {P : Nat → Bool} {s t : State} (h : State.EventStep P s t) : t.anvil = s.anvil := by rw [h.rest]
theorem State.EventStep.csp {P : Nat → Bool} {s t : State} (h : State.EventStep P s t) : t.csp = s.csp := by rw [h.rest]
theorem State.EventStep.boot {P : Nat → Bool} {s t : State} (h : State.EventStep P s t) : t.boot = s.boot := by rw [h.rest]
theorem State.EventStep.orb {P : Nat → Bool} {s t : State} (h : State.EventStep P s t) : t.orb = s.orb := by rw [h.rest]
theorem State.EventStep.pair {P : Nat → Bool} {s t : State} (h : State.EventStep P s t) : t.pair = s.pair := by rw [h.rest]
theorem State.EventStep.test {P : Nat → Bool} {s t : State} (h : State.EventStep P s t) : t.test = s.test := by rw [h.rest]
theorem State.EventStep.life {P : Nat → Bool} {s t : State} (h : State.EventStep P s t) : t.life = s.life := by rw [h.rest]
theorem State.EventStep.pending {P : Nat → Bool} {s t : State} (h : State.EventStep P s t) : t.pending = s.pending := by rw [h.rest]

@[simp] theorem State.held_raise (s : State) (c b u : Nat) (d : List Byte) : (s.raise c b u d).held = s.held := (State.raise_event s c b u d).held
@[simp] theorem State.latch_raise (s : State) (c b u : Nat) (d : List Byte) : (s.raise c b u d).latch = s.latch := (State.raise_event s c b u d).latch
@[simp] theorem State.rd_raise (s : State) (c b u : Nat) (d : List Byte) : (s.raise c b u d).rd = s.rd := (State.raise_event s c b u d).rd
@[simp] theorem State.cycles_raise (s : State) (c b u : Nat) (d : List Byte) : (s.raise c b u d).cycles = s.cycles := (State.raise_event s c b u d).cycles
@[simp] theorem State.ctr_raise (s : State) (c b u : Nat) (d : List Byte) : (s.raise c b u d).ctr = s.ctr := (State.raise_event s c b u d).ctr
@[simp] theorem State.freeCtr_raise (s : State) (c b u : Nat) (d : List Byte) : (s.raise c b u d).freeCtr = s.freeCtr := (State.raise_event s c b u d).freeCtr
@[simp] theorem State.holdoff_raise (s : State) (c b u : Nat) (d : List Byte) : (s.raise c b u d).holdoff = s.holdoff := (State.raise_event s c b u d).holdoff
@[simp] theorem State.cmd_raise (s : State) (c b u : Nat) (d : List Byte) : (s.raise c b u d).cmd = s.cmd := (State.raise_event s c b u d).cmd
@[simp] theorem State.svc_raise (s : State) (c b u : Nat) (d : List Byte) : (s.raise c b u d).svc = s.svc := (State.raise_event s c b u d).svc
@[simp] theorem State.time_raise (s : State) (c b u : Nat) (d : List Byte) : (s.raise c b u d).time = s.time := (State.raise_event s c b u d).time
@[simp] theorem State.clk_raise (s : State) (c b u : Nat) (d : List Byte) : (s.raise c b u d).clk = s.clk := (State.raise_event s c b u d).clk
@[simp] theorem State.ports_raise (s : State) (c b u : Nat) (d : List Byte) : (s.raise c b u d).ports = s.ports := (State.raise_event s c b u d).ports
@[simp] theorem State.strm_raise (s : State) (c b u : Nat) (d : List Byte) : (s.raise c b u d).strm = s.strm := (State.raise_event s c b u d).strm
@[simp] theorem State.seals_raise (s : State) (c b u : Nat) (d : List Byte) : (s.raise c b u d).seals = s.seals := (State.raise_event s c b u d).seals
@[simp] theorem State.tdm_raise (s : State) (c b u : Nat) (d : List Byte) : (s.raise c b u d).tdm = s.tdm := (State.raise_event s c b u d).tdm
@[simp] theorem State.amp_raise (s : State) (c b u : Nat) (d : List Byte) : (s.raise c b u d).amp = s.amp := (State.raise_event s c b u d).amp
@[simp] theorem State.anvil_raise (s : State) (c b u : Nat) (d : List Byte) : (s.raise c b u d).anvil = s.anvil := (State.raise_event s c b u d).anvil
@[simp] theorem State.csp_raise (s : State) (c b u : Nat) (d : List Byte) : (s.raise c b u d).csp = s.csp := (State.raise_event s c b u d).csp
@[simp] theorem State.boot_raise (s : State) (c b u : Nat) (d : List Byte) : (s.raise c b u d).boot = s.boot := (State.raise_event s c b u d).boot
@[simp] theorem State.orb_raise (s : State) (c b u : Nat) (d : List Byte) : (s.raise c b u d).orb = s.orb := (State.raise_event s c b u d).orb
@[simp] theorem State.pair_raise (s : State) (c b u : Nat) (d : List Byte) : (s.raise c b u d).pair = s.pair := (State.raise_event s c b u d).pair
@[simp] theorem State.test_raise (s : State) (c b u : Nat) (d : List Byte) : (s.raise c b u d).test = s.test := (State.raise_event s c b u d).test
@[simp] theorem State.life_raise (s : State) (c b u : Nat) (d : List Byte) : (s.raise c b u d).life = s.life := (State.raise_event s c b u d).life
@[simp] theorem State.pending_raise (s : State) (c b u : Nat) (d : List Byte) : (s.raise c b u d).pending = s.pending := (State.raise_event s c b u d).pending

@[simp] theorem State.held_raiseItem (s : State) (it : QItem) : (s.raiseItem it).held = s.held := (State.raiseItem_event s it).held
@[simp] theorem State.latch_raiseItem (s : State) (it : QItem) : (s.raiseItem it).latch = s.latch := (State.raiseItem_event s it).latch
@[simp] theorem State.rd_raiseItem (s : State) (it : QItem) : (s.raiseItem it).rd = s.rd := (State.raiseItem_event s it).rd
@[simp] theorem State.cycles_raiseItem (s : State) (it : QItem) : (s.raiseItem it).cycles = s.cycles := (State.raiseItem_event s it).cycles
@[simp] theorem State.ctr_raiseItem (s : State) (it : QItem) : (s.raiseItem it).ctr = s.ctr := (State.raiseItem_event s it).ctr
@[simp] theorem State.freeCtr_raiseItem (s : State) (it : QItem) : (s.raiseItem it).freeCtr = s.freeCtr := (State.raiseItem_event s it).freeCtr
@[simp] theorem State.holdoff_raiseItem (s : State) (it : QItem) : (s.raiseItem it).holdoff = s.holdoff := (State.raiseItem_event s it).holdoff
@[simp] theorem State.cmd_raiseItem (s : State) (it : QItem) : (s.raiseItem it).cmd = s.cmd := (State.raiseItem_event s it).cmd
@[simp] theorem State.svc_raiseItem (s : State) (it : QItem) : (s.raiseItem it).svc = s.svc := (State.raiseItem_event s it).svc
@[simp] theorem State.time_raiseItem (s : State) (it : QItem) : (s.raiseItem it).time = s.time := (State.raiseItem_event s it).time
@[simp] theorem State.clk_raiseItem (s : State) (it : QItem) : (s.raiseItem it).clk = s.clk := (State.raiseItem_event s it).clk
@[simp] theorem State.ports_raiseItem (s : State) (it : QItem) : (s.raiseItem it).ports = s.ports := (State.raiseItem_event s it).ports
@[simp] theorem State.strm_raiseItem (s : State) (it : QItem) : (s.raiseItem it).strm = s.strm := (State.raiseItem_event s it).strm
@[simp] theorem State.seals_raiseItem (s : State) (it : QItem) : (s.raiseItem it).seals = s.seals := (State.raiseItem_event s it).seals
@[simp] theorem State.tdm_raiseItem (s : State) (it : QItem) : (s.raiseItem it).tdm = s.tdm := (State.raiseItem_event s it).tdm
@[simp] theorem State.amp_raiseItem (s : State) (it : QItem) : (s.raiseItem it).amp = s.amp := (State.raiseItem_event s it).amp
@[simp] theorem State.anvil_raiseItem (s : State) (it : QItem) : (s.raiseItem it).anvil = s.anvil := (State.raiseItem_event s it).anvil
@[simp] theorem State.csp_raiseItem (s : State) (it : QItem) : (s.raiseItem it).csp = s.csp := (State.raiseItem_event s it).csp
@[simp] theorem State.boot_raiseItem (s : State) (it : QItem) : (s.raiseItem it).boot = s.boot := (State.raiseItem_event s it).boot
@[simp] theorem State.orb_raiseItem (s : State) (it : QItem) : (s.raiseItem it).orb = s.orb := (State.raiseItem_event s it).orb
@[simp] theorem State.pair_raiseItem (s : State) (it : QItem) : (s.raiseItem it).pair = s.pair := (State.raiseItem_event s it).pair
@[simp] theorem State.test_raiseItem (s : State) (it : QItem) : (s.raiseItem it).test = s.test := (State.raiseItem_event s it).test
@[simp] theorem State.life_raiseItem (s : State) (it : QItem) : (s.raiseItem it).life = s.life := (State.raiseItem_event s it).life
@[simp] theorem State.pending_raiseItem (s : State) (it : QItem) : (s.raiseItem it).pending = s.pending := (State.raiseItem_event s it).pending

@[simp] theorem State.held_fire (s : State) (i : Nat) : (s.fire i).held = s.held := (State.fire_event (i := 0) s i).held
@[simp] theorem State.latch_fire (s : State) (i : Nat) : (s.fire i).latch = s.latch := (State.fire_event (i := 0) s i).latch
@[simp] theorem State.rd_fire (s : State) (i : Nat) : (s.fire i).rd = s.rd := (State.fire_event (i := 0) s i).rd
@[simp] theorem State.cycles_fire (s : State) (i : Nat) : (s.fire i).cycles = s.cycles := (State.fire_event (i := 0) s i).cycles
@[simp] theorem State.ctr_fire (s : State) (i : Nat) : (s.fire i).ctr = s.ctr := (State.fire_event (i := 0) s i).ctr
@[simp] theorem State.freeCtr_fire (s : State) (i : Nat) : (s.fire i).freeCtr = s.freeCtr := (State.fire_event (i := 0) s i).freeCtr
@[simp] theorem State.holdoff_fire (s : State) (i : Nat) : (s.fire i).holdoff = s.holdoff := (State.fire_event (i := 0) s i).holdoff
@[simp] theorem State.cmd_fire (s : State) (i : Nat) : (s.fire i).cmd = s.cmd := (State.fire_event (i := 0) s i).cmd
@[simp] theorem State.svc_fire (s : State) (i : Nat) : (s.fire i).svc = s.svc := (State.fire_event (i := 0) s i).svc
@[simp] theorem State.time_fire (s : State) (i : Nat) : (s.fire i).time = s.time := (State.fire_event (i := 0) s i).time
@[simp] theorem State.clk_fire (s : State) (i : Nat) : (s.fire i).clk = s.clk := (State.fire_event (i := 0) s i).clk
@[simp] theorem State.ports_fire (s : State) (i : Nat) : (s.fire i).ports = s.ports := (State.fire_event (i := 0) s i).ports
@[simp] theorem State.strm_fire (s : State) (i : Nat) : (s.fire i).strm = s.strm := (State.fire_event (i := 0) s i).strm
@[simp] theorem State.seals_fire (s : State) (i : Nat) : (s.fire i).seals = s.seals := (State.fire_event (i := 0) s i).seals
@[simp] theorem State.tdm_fire (s : State) (i : Nat) : (s.fire i).tdm = s.tdm := (State.fire_event (i := 0) s i).tdm
@[simp] theorem State.amp_fire (s : State) (i : Nat) : (s.fire i).amp = s.amp := (State.fire_event (i := 0) s i).amp
@[simp] theorem State.anvil_fire (s : State) (i : Nat) : (s.fire i).anvil = s.anvil := (State.fire_event (i := 0) s i).anvil
@[simp] theorem State.csp_fire (s : State) (i : Nat) : (s.fire i).csp = s.csp := (State.fire_event (i := 0) s i).csp
@[simp] theorem State.boot_fire (s : State) (i : Nat) : (s.fire i).boot = s.boot := (State.fire_event (i := 0) s i).boot
@[simp] theorem State.orb_fire (s : State) (i : Nat) : (s.fire i).orb = s.orb := (State.fire_event (i := 0) s i).orb
@[simp] theorem State.pair_fire (s : State) (i : Nat) : (s.fire i).pair = s.pair := (State.fire_event (i := 0) s i).pair
@[simp] theorem State.test_fire (s : State) (i : Nat) : (s.fire i).test = s.test := (State.fire_event (i := 0) s i).test
@[simp] theorem State.life_fire (s : State) (i : Nat) : (s.fire i).life = s.life := (State.fire_event (i := 0) s i).life
@[simp] theorem State.pending_fire (s : State) (i : Nat) : (s.fire i).pending = s.pending := (State.fire_event (i := 0) s i).pending

@[simp] theorem State.held_push (s : State) (i : Nat) (it : QItem) : (s.push i it).held = s.held := (State.push_event s i it).held
@[simp] theorem State.latch_push (s : State) (i : Nat) (it : QItem) : (s.push i it).latch = s.latch := (State.push_event s i it).latch
@[simp] theorem State.rd_push (s : State) (i : Nat) (it : QItem) : (s.push i it).rd = s.rd := (State.push_event s i it).rd
@[simp] theorem State.cycles_push (s : State) (i : Nat) (it : QItem) : (s.push i it).cycles = s.cycles := (State.push_event s i it).cycles
@[simp] theorem State.ctr_push (s : State) (i : Nat) (it : QItem) : (s.push i it).ctr = s.ctr := (State.push_event s i it).ctr
@[simp] theorem State.freeCtr_push (s : State) (i : Nat) (it : QItem) : (s.push i it).freeCtr = s.freeCtr := (State.push_event s i it).freeCtr
@[simp] theorem State.holdoff_push (s : State) (i : Nat) (it : QItem) : (s.push i it).holdoff = s.holdoff := (State.push_event s i it).holdoff
@[simp] theorem State.cmd_push (s : State) (i : Nat) (it : QItem) : (s.push i it).cmd = s.cmd := (State.push_event s i it).cmd
@[simp] theorem State.svc_push (s : State) (i : Nat) (it : QItem) : (s.push i it).svc = s.svc := (State.push_event s i it).svc
@[simp] theorem State.time_push (s : State) (i : Nat) (it : QItem) : (s.push i it).time = s.time := (State.push_event s i it).time
@[simp] theorem State.clk_push (s : State) (i : Nat) (it : QItem) : (s.push i it).clk = s.clk := (State.push_event s i it).clk
@[simp] theorem State.ports_push (s : State) (i : Nat) (it : QItem) : (s.push i it).ports = s.ports := (State.push_event s i it).ports
@[simp] theorem State.strm_push (s : State) (i : Nat) (it : QItem) : (s.push i it).strm = s.strm := (State.push_event s i it).strm
@[simp] theorem State.seals_push (s : State) (i : Nat) (it : QItem) : (s.push i it).seals = s.seals := (State.push_event s i it).seals
@[simp] theorem State.tdm_push (s : State) (i : Nat) (it : QItem) : (s.push i it).tdm = s.tdm := (State.push_event s i it).tdm
@[simp] theorem State.amp_push (s : State) (i : Nat) (it : QItem) : (s.push i it).amp = s.amp := (State.push_event s i it).amp
@[simp] theorem State.anvil_push (s : State) (i : Nat) (it : QItem) : (s.push i it).anvil = s.anvil := (State.push_event s i it).anvil
@[simp] theorem State.csp_push (s : State) (i : Nat) (it : QItem) : (s.push i it).csp = s.csp := (State.push_event s i it).csp
@[simp] theorem State.boot_push (s : State) (i : Nat) (it : QItem) : (s.push i it).boot = s.boot := (State.push_event s i it).boot
@[simp] theorem State.orb_push (s : State) (i : Nat) (it : QItem) : (s.push i it).orb = s.orb := (State.push_event s i it).orb
@[simp] theorem State.pair_push (s : State) (i : Nat) (it : QItem) : (s.push i it).pair = s.pair := (State.push_event s i it).pair
@[simp] theorem State.test_push (s : State) (i : Nat) (it : QItem) : (s.push i it).test = s.test := (State.push_event s i it).test
@[simp] theorem State.life_push (s : State) (i : Nat) (it : QItem) : (s.push i it).life = s.life := (State.push_event s i it).life
@[simp] theorem State.pending_push (s : State) (i : Nat) (it : QItem) : (s.push i it).pending = s.pending := (State.push_event s i it).pending

@[simp] theorem State.held_updQueue (s : State) (i : Nat) (q : Queue) : (s.updQueue i q).held = s.held := (State.updQueue_event s i q).held
@[simp] theorem State.latch_updQueue (s : State) (i : Nat) (q : Queue) : (s.updQueue i q).latch = s.latch := (State.updQueue_event s i q).latch
@[simp] theorem State.rd_updQueue (s : State) (i : Nat) (q : Queue) : (s.updQueue i q).rd = s.rd := (State.updQueue_event s i q).rd
@[simp] theorem State.cycles_updQueue (s : State) (i : Nat) (q : Queue) : (s.updQueue i q).cycles = s.cycles := (State.updQueue_event s i q).cycles
@[simp] theorem State.ctr_updQueue (s : State) (i : Nat) (q : Queue) : (s.updQueue i q).ctr = s.ctr := (State.updQueue_event s i q).ctr
@[simp] theorem State.freeCtr_updQueue (s : State) (i : Nat) (q : Queue) : (s.updQueue i q).freeCtr = s.freeCtr := (State.updQueue_event s i q).freeCtr
@[simp] theorem State.holdoff_updQueue (s : State) (i : Nat) (q : Queue) : (s.updQueue i q).holdoff = s.holdoff := (State.updQueue_event s i q).holdoff
@[simp] theorem State.cmd_updQueue (s : State) (i : Nat) (q : Queue) : (s.updQueue i q).cmd = s.cmd := (State.updQueue_event s i q).cmd
@[simp] theorem State.svc_updQueue (s : State) (i : Nat) (q : Queue) : (s.updQueue i q).svc = s.svc := (State.updQueue_event s i q).svc
@[simp] theorem State.time_updQueue (s : State) (i : Nat) (q : Queue) : (s.updQueue i q).time = s.time := (State.updQueue_event s i q).time
@[simp] theorem State.clk_updQueue (s : State) (i : Nat) (q : Queue) : (s.updQueue i q).clk = s.clk := (State.updQueue_event s i q).clk
@[simp] theorem State.ports_updQueue (s : State) (i : Nat) (q : Queue) : (s.updQueue i q).ports = s.ports := (State.updQueue_event s i q).ports
@[simp] theorem State.strm_updQueue (s : State) (i : Nat) (q : Queue) : (s.updQueue i q).strm = s.strm := (State.updQueue_event s i q).strm
@[simp] theorem State.seals_updQueue (s : State) (i : Nat) (q : Queue) : (s.updQueue i q).seals = s.seals := (State.updQueue_event s i q).seals
@[simp] theorem State.tdm_updQueue (s : State) (i : Nat) (q : Queue) : (s.updQueue i q).tdm = s.tdm := (State.updQueue_event s i q).tdm
@[simp] theorem State.amp_updQueue (s : State) (i : Nat) (q : Queue) : (s.updQueue i q).amp = s.amp := (State.updQueue_event s i q).amp
@[simp] theorem State.anvil_updQueue (s : State) (i : Nat) (q : Queue) : (s.updQueue i q).anvil = s.anvil := (State.updQueue_event s i q).anvil
@[simp] theorem State.csp_updQueue (s : State) (i : Nat) (q : Queue) : (s.updQueue i q).csp = s.csp := (State.updQueue_event s i q).csp
@[simp] theorem State.boot_updQueue (s : State) (i : Nat) (q : Queue) : (s.updQueue i q).boot = s.boot := (State.updQueue_event s i q).boot
@[simp] theorem State.orb_updQueue (s : State) (i : Nat) (q : Queue) : (s.updQueue i q).orb = s.orb := (State.updQueue_event s i q).orb
@[simp] theorem State.pair_updQueue (s : State) (i : Nat) (q : Queue) : (s.updQueue i q).pair = s.pair := (State.updQueue_event s i q).pair
@[simp] theorem State.test_updQueue (s : State) (i : Nat) (q : Queue) : (s.updQueue i q).test = s.test := (State.updQueue_event s i q).test
@[simp] theorem State.life_updQueue (s : State) (i : Nat) (q : Queue) : (s.updQueue i q).life = s.life := (State.updQueue_event s i q).life
@[simp] theorem State.pending_updQueue (s : State) (i : Nat) (q : Queue) : (s.updQueue i q).pending = s.pending := (State.updQueue_event s i q).pending

@[simp] theorem State.held_signal (s : State) (int en : Fld) (i c b u : Nat) (d : List Byte) :
    (s.signal int en i c b u d).held = s.held := by
  unfold State.signal; dsimp only; split <;> simp
@[simp] theorem State.latch_signal (s : State) (int en : Fld) (i c b u : Nat) (d : List Byte) :
    (s.signal int en i c b u d).latch = s.latch := by
  unfold State.signal; dsimp only; split <;> simp
@[simp] theorem State.rd_signal (s : State) (int en : Fld) (i c b u : Nat) (d : List Byte) :
    (s.signal int en i c b u d).rd = s.rd := by
  unfold State.signal; dsimp only; split <;> simp
@[simp] theorem State.cycles_signal (s : State) (int en : Fld) (i c b u : Nat) (d : List Byte) :
    (s.signal int en i c b u d).cycles = s.cycles := by
  unfold State.signal; dsimp only; split <;> simp
@[simp] theorem State.ctr_signal (s : State) (int en : Fld) (i c b u : Nat) (d : List Byte) :
    (s.signal int en i c b u d).ctr = s.ctr := by
  unfold State.signal; dsimp only; split <;> simp
@[simp] theorem State.freeCtr_signal (s : State) (int en : Fld) (i c b u : Nat) (d : List Byte) :
    (s.signal int en i c b u d).freeCtr = s.freeCtr := by
  unfold State.signal; dsimp only; split <;> simp
@[simp] theorem State.holdoff_signal (s : State) (int en : Fld) (i c b u : Nat) (d : List Byte) :
    (s.signal int en i c b u d).holdoff = s.holdoff := by
  unfold State.signal; dsimp only; split <;> simp
@[simp] theorem State.cmd_signal (s : State) (int en : Fld) (i c b u : Nat) (d : List Byte) :
    (s.signal int en i c b u d).cmd = s.cmd := by
  unfold State.signal; dsimp only; split <;> simp
@[simp] theorem State.svc_signal (s : State) (int en : Fld) (i c b u : Nat) (d : List Byte) :
    (s.signal int en i c b u d).svc = s.svc := by
  unfold State.signal; dsimp only; split <;> simp
@[simp] theorem State.time_signal (s : State) (int en : Fld) (i c b u : Nat) (d : List Byte) :
    (s.signal int en i c b u d).time = s.time := by
  unfold State.signal; dsimp only; split <;> simp
@[simp] theorem State.clk_signal (s : State) (int en : Fld) (i c b u : Nat) (d : List Byte) :
    (s.signal int en i c b u d).clk = s.clk := by
  unfold State.signal; dsimp only; split <;> simp
@[simp] theorem State.ports_signal (s : State) (int en : Fld) (i c b u : Nat) (d : List Byte) :
    (s.signal int en i c b u d).ports = s.ports := by
  unfold State.signal; dsimp only; split <;> simp
@[simp] theorem State.strm_signal (s : State) (int en : Fld) (i c b u : Nat) (d : List Byte) :
    (s.signal int en i c b u d).strm = s.strm := by
  unfold State.signal; dsimp only; split <;> simp
@[simp] theorem State.seals_signal (s : State) (int en : Fld) (i c b u : Nat) (d : List Byte) :
    (s.signal int en i c b u d).seals = s.seals := by
  unfold State.signal; dsimp only; split <;> simp
@[simp] theorem State.tdm_signal (s : State) (int en : Fld) (i c b u : Nat) (d : List Byte) :
    (s.signal int en i c b u d).tdm = s.tdm := by
  unfold State.signal; dsimp only; split <;> simp
@[simp] theorem State.amp_signal (s : State) (int en : Fld) (i c b u : Nat) (d : List Byte) :
    (s.signal int en i c b u d).amp = s.amp := by
  unfold State.signal; dsimp only; split <;> simp
@[simp] theorem State.anvil_signal (s : State) (int en : Fld) (i c b u : Nat) (d : List Byte) :
    (s.signal int en i c b u d).anvil = s.anvil := by
  unfold State.signal; dsimp only; split <;> simp
@[simp] theorem State.csp_signal (s : State) (int en : Fld) (i c b u : Nat) (d : List Byte) :
    (s.signal int en i c b u d).csp = s.csp := by
  unfold State.signal; dsimp only; split <;> simp
@[simp] theorem State.boot_signal (s : State) (int en : Fld) (i c b u : Nat) (d : List Byte) :
    (s.signal int en i c b u d).boot = s.boot := by
  unfold State.signal; dsimp only; split <;> simp
@[simp] theorem State.orb_signal (s : State) (int en : Fld) (i c b u : Nat) (d : List Byte) :
    (s.signal int en i c b u d).orb = s.orb := by
  unfold State.signal; dsimp only; split <;> simp
@[simp] theorem State.pair_signal (s : State) (int en : Fld) (i c b u : Nat) (d : List Byte) :
    (s.signal int en i c b u d).pair = s.pair := by
  unfold State.signal; dsimp only; split <;> simp
@[simp] theorem State.test_signal (s : State) (int en : Fld) (i c b u : Nat) (d : List Byte) :
    (s.signal int en i c b u d).test = s.test := by
  unfold State.signal; dsimp only; split <;> simp
@[simp] theorem State.life_signal (s : State) (int en : Fld) (i c b u : Nat) (d : List Byte) :
    (s.signal int en i c b u d).life = s.life := by
  unfold State.signal; dsimp only; split <;> simp
@[simp] theorem State.pending_signal (s : State) (int en : Fld) (i c b u : Nat) (d : List Byte) :
    (s.signal int en i c b u d).pending = s.pending := by
  unfold State.signal; dsimp only; split <;> simp
@[simp] theorem State.held_signalRise (s : State) (int en : Fld) (i c b u : Nat) (d : List Byte) :
    (s.signalRise int en i c b u d).held = s.held := by
  unfold State.signalRise; split <;> simp
@[simp] theorem State.latch_signalRise (s : State) (int en : Fld) (i c b u : Nat) (d : List Byte) :
    (s.signalRise int en i c b u d).latch = s.latch := by
  unfold State.signalRise; split <;> simp
@[simp] theorem State.rd_signalRise (s : State) (int en : Fld) (i c b u : Nat) (d : List Byte) :
    (s.signalRise int en i c b u d).rd = s.rd := by
  unfold State.signalRise; split <;> simp
@[simp] theorem State.cycles_signalRise (s : State) (int en : Fld) (i c b u : Nat) (d : List Byte) :
    (s.signalRise int en i c b u d).cycles = s.cycles := by
  unfold State.signalRise; split <;> simp
@[simp] theorem State.ctr_signalRise (s : State) (int en : Fld) (i c b u : Nat) (d : List Byte) :
    (s.signalRise int en i c b u d).ctr = s.ctr := by
  unfold State.signalRise; split <;> simp
@[simp] theorem State.freeCtr_signalRise (s : State) (int en : Fld) (i c b u : Nat) (d : List Byte) :
    (s.signalRise int en i c b u d).freeCtr = s.freeCtr := by
  unfold State.signalRise; split <;> simp
@[simp] theorem State.holdoff_signalRise (s : State) (int en : Fld) (i c b u : Nat) (d : List Byte) :
    (s.signalRise int en i c b u d).holdoff = s.holdoff := by
  unfold State.signalRise; split <;> simp
@[simp] theorem State.cmd_signalRise (s : State) (int en : Fld) (i c b u : Nat) (d : List Byte) :
    (s.signalRise int en i c b u d).cmd = s.cmd := by
  unfold State.signalRise; split <;> simp
@[simp] theorem State.svc_signalRise (s : State) (int en : Fld) (i c b u : Nat) (d : List Byte) :
    (s.signalRise int en i c b u d).svc = s.svc := by
  unfold State.signalRise; split <;> simp
@[simp] theorem State.time_signalRise (s : State) (int en : Fld) (i c b u : Nat) (d : List Byte) :
    (s.signalRise int en i c b u d).time = s.time := by
  unfold State.signalRise; split <;> simp
@[simp] theorem State.clk_signalRise (s : State) (int en : Fld) (i c b u : Nat) (d : List Byte) :
    (s.signalRise int en i c b u d).clk = s.clk := by
  unfold State.signalRise; split <;> simp
@[simp] theorem State.ports_signalRise (s : State) (int en : Fld) (i c b u : Nat) (d : List Byte) :
    (s.signalRise int en i c b u d).ports = s.ports := by
  unfold State.signalRise; split <;> simp
@[simp] theorem State.strm_signalRise (s : State) (int en : Fld) (i c b u : Nat) (d : List Byte) :
    (s.signalRise int en i c b u d).strm = s.strm := by
  unfold State.signalRise; split <;> simp
@[simp] theorem State.seals_signalRise (s : State) (int en : Fld) (i c b u : Nat) (d : List Byte) :
    (s.signalRise int en i c b u d).seals = s.seals := by
  unfold State.signalRise; split <;> simp
@[simp] theorem State.tdm_signalRise (s : State) (int en : Fld) (i c b u : Nat) (d : List Byte) :
    (s.signalRise int en i c b u d).tdm = s.tdm := by
  unfold State.signalRise; split <;> simp
@[simp] theorem State.amp_signalRise (s : State) (int en : Fld) (i c b u : Nat) (d : List Byte) :
    (s.signalRise int en i c b u d).amp = s.amp := by
  unfold State.signalRise; split <;> simp
@[simp] theorem State.anvil_signalRise (s : State) (int en : Fld) (i c b u : Nat) (d : List Byte) :
    (s.signalRise int en i c b u d).anvil = s.anvil := by
  unfold State.signalRise; split <;> simp
@[simp] theorem State.csp_signalRise (s : State) (int en : Fld) (i c b u : Nat) (d : List Byte) :
    (s.signalRise int en i c b u d).csp = s.csp := by
  unfold State.signalRise; split <;> simp
@[simp] theorem State.boot_signalRise (s : State) (int en : Fld) (i c b u : Nat) (d : List Byte) :
    (s.signalRise int en i c b u d).boot = s.boot := by
  unfold State.signalRise; split <;> simp
@[simp] theorem State.orb_signalRise (s : State) (int en : Fld) (i c b u : Nat) (d : List Byte) :
    (s.signalRise int en i c b u d).orb = s.orb := by
  unfold State.signalRise; split <;> simp
@[simp] theorem State.pair_signalRise (s : State) (int en : Fld) (i c b u : Nat) (d : List Byte) :
    (s.signalRise int en i c b u d).pair = s.pair := by
  unfold State.signalRise; split <;> simp
@[simp] theorem State.test_signalRise (s : State) (int en : Fld) (i c b u : Nat) (d : List Byte) :
    (s.signalRise int en i c b u d).test = s.test := by
  unfold State.signalRise; split <;> simp
@[simp] theorem State.life_signalRise (s : State) (int en : Fld) (i c b u : Nat) (d : List Byte) :
    (s.signalRise int en i c b u d).life = s.life := by
  unfold State.signalRise; split <;> simp
@[simp] theorem State.pending_signalRise (s : State) (int en : Fld) (i c b u : Nat) (d : List Byte) :
    (s.signalRise int en i c b u d).pending = s.pending := by
  unfold State.signalRise; split <;> simp
@[simp] theorem State.held_signalHeld (s : State) (int en : Fld) (i c b u w : Nat) (d : List Byte) :
    (s.signalHeld int en i c b u w d).held = s.held := by
  unfold State.signalHeld; dsimp only; split
  · split <;> simp
  · simp
@[simp] theorem State.latch_signalHeld (s : State) (int en : Fld) (i c b u w : Nat) (d : List Byte) :
    (s.signalHeld int en i c b u w d).latch = s.latch := by
  unfold State.signalHeld; dsimp only; split
  · split <;> simp
  · simp
@[simp] theorem State.rd_signalHeld (s : State) (int en : Fld) (i c b u w : Nat) (d : List Byte) :
    (s.signalHeld int en i c b u w d).rd = s.rd := by
  unfold State.signalHeld; dsimp only; split
  · split <;> simp
  · simp
@[simp] theorem State.cycles_signalHeld (s : State) (int en : Fld) (i c b u w : Nat) (d : List Byte) :
    (s.signalHeld int en i c b u w d).cycles = s.cycles := by
  unfold State.signalHeld; dsimp only; split
  · split <;> simp
  · simp
@[simp] theorem State.ctr_signalHeld (s : State) (int en : Fld) (i c b u w : Nat) (d : List Byte) :
    (s.signalHeld int en i c b u w d).ctr = s.ctr := by
  unfold State.signalHeld; dsimp only; split
  · split <;> simp
  · simp
@[simp] theorem State.freeCtr_signalHeld (s : State) (int en : Fld) (i c b u w : Nat) (d : List Byte) :
    (s.signalHeld int en i c b u w d).freeCtr = s.freeCtr := by
  unfold State.signalHeld; dsimp only; split
  · split <;> simp
  · simp
@[simp] theorem State.cmd_signalHeld (s : State) (int en : Fld) (i c b u w : Nat) (d : List Byte) :
    (s.signalHeld int en i c b u w d).cmd = s.cmd := by
  unfold State.signalHeld; dsimp only; split
  · split <;> simp
  · simp
@[simp] theorem State.svc_signalHeld (s : State) (int en : Fld) (i c b u w : Nat) (d : List Byte) :
    (s.signalHeld int en i c b u w d).svc = s.svc := by
  unfold State.signalHeld; dsimp only; split
  · split <;> simp
  · simp
@[simp] theorem State.time_signalHeld (s : State) (int en : Fld) (i c b u w : Nat) (d : List Byte) :
    (s.signalHeld int en i c b u w d).time = s.time := by
  unfold State.signalHeld; dsimp only; split
  · split <;> simp
  · simp
@[simp] theorem State.clk_signalHeld (s : State) (int en : Fld) (i c b u w : Nat) (d : List Byte) :
    (s.signalHeld int en i c b u w d).clk = s.clk := by
  unfold State.signalHeld; dsimp only; split
  · split <;> simp
  · simp
@[simp] theorem State.ports_signalHeld (s : State) (int en : Fld) (i c b u w : Nat) (d : List Byte) :
    (s.signalHeld int en i c b u w d).ports = s.ports := by
  unfold State.signalHeld; dsimp only; split
  · split <;> simp
  · simp
@[simp] theorem State.strm_signalHeld (s : State) (int en : Fld) (i c b u w : Nat) (d : List Byte) :
    (s.signalHeld int en i c b u w d).strm = s.strm := by
  unfold State.signalHeld; dsimp only; split
  · split <;> simp
  · simp
@[simp] theorem State.seals_signalHeld (s : State) (int en : Fld) (i c b u w : Nat) (d : List Byte) :
    (s.signalHeld int en i c b u w d).seals = s.seals := by
  unfold State.signalHeld; dsimp only; split
  · split <;> simp
  · simp
@[simp] theorem State.tdm_signalHeld (s : State) (int en : Fld) (i c b u w : Nat) (d : List Byte) :
    (s.signalHeld int en i c b u w d).tdm = s.tdm := by
  unfold State.signalHeld; dsimp only; split
  · split <;> simp
  · simp
@[simp] theorem State.amp_signalHeld (s : State) (int en : Fld) (i c b u w : Nat) (d : List Byte) :
    (s.signalHeld int en i c b u w d).amp = s.amp := by
  unfold State.signalHeld; dsimp only; split
  · split <;> simp
  · simp
@[simp] theorem State.anvil_signalHeld (s : State) (int en : Fld) (i c b u w : Nat) (d : List Byte) :
    (s.signalHeld int en i c b u w d).anvil = s.anvil := by
  unfold State.signalHeld; dsimp only; split
  · split <;> simp
  · simp
@[simp] theorem State.csp_signalHeld (s : State) (int en : Fld) (i c b u w : Nat) (d : List Byte) :
    (s.signalHeld int en i c b u w d).csp = s.csp := by
  unfold State.signalHeld; dsimp only; split
  · split <;> simp
  · simp
@[simp] theorem State.boot_signalHeld (s : State) (int en : Fld) (i c b u w : Nat) (d : List Byte) :
    (s.signalHeld int en i c b u w d).boot = s.boot := by
  unfold State.signalHeld; dsimp only; split
  · split <;> simp
  · simp
@[simp] theorem State.orb_signalHeld (s : State) (int en : Fld) (i c b u w : Nat) (d : List Byte) :
    (s.signalHeld int en i c b u w d).orb = s.orb := by
  unfold State.signalHeld; dsimp only; split
  · split <;> simp
  · simp
@[simp] theorem State.pair_signalHeld (s : State) (int en : Fld) (i c b u w : Nat) (d : List Byte) :
    (s.signalHeld int en i c b u w d).pair = s.pair := by
  unfold State.signalHeld; dsimp only; split
  · split <;> simp
  · simp
@[simp] theorem State.test_signalHeld (s : State) (int en : Fld) (i c b u w : Nat) (d : List Byte) :
    (s.signalHeld int en i c b u w d).test = s.test := by
  unfold State.signalHeld; dsimp only; split
  · split <;> simp
  · simp
@[simp] theorem State.life_signalHeld (s : State) (int en : Fld) (i c b u w : Nat) (d : List Byte) :
    (s.signalHeld int en i c b u w d).life = s.life := by
  unfold State.signalHeld; dsimp only; split
  · split <;> simp
  · simp
@[simp] theorem State.pending_signalHeld (s : State) (int en : Fld) (i c b u w : Nat) (d : List Byte) :
    (s.signalHeld int en i c b u w d).pending = s.pending := by
  unfold State.signalHeld; dsimp only; split
  · split <;> simp
  · simp
@[simp] theorem State.held_cfgReject (s : State) (source off : Nat) : (s.cfgReject source off).held = s.held := by
  unfold State.cfgReject; dsimp only; split <;> simp
@[simp] theorem State.latch_cfgReject (s : State) (source off : Nat) : (s.cfgReject source off).latch = s.latch := by
  unfold State.cfgReject; dsimp only; split <;> simp
@[simp] theorem State.rd_cfgReject (s : State) (source off : Nat) : (s.cfgReject source off).rd = s.rd := by
  unfold State.cfgReject; dsimp only; split <;> simp
@[simp] theorem State.cycles_cfgReject (s : State) (source off : Nat) : (s.cfgReject source off).cycles = s.cycles := by
  unfold State.cfgReject; dsimp only; split <;> simp
@[simp] theorem State.ctr_cfgReject (s : State) (source off : Nat) : (s.cfgReject source off).ctr = s.ctr := by
  unfold State.cfgReject; dsimp only; split <;> simp
@[simp] theorem State.freeCtr_cfgReject (s : State) (source off : Nat) : (s.cfgReject source off).freeCtr = s.freeCtr := by
  unfold State.cfgReject; dsimp only; split <;> simp
@[simp] theorem State.cmd_cfgReject (s : State) (source off : Nat) : (s.cfgReject source off).cmd = s.cmd := by
  unfold State.cfgReject; dsimp only; split <;> simp
@[simp] theorem State.svc_cfgReject (s : State) (source off : Nat) : (s.cfgReject source off).svc = s.svc := by
  unfold State.cfgReject; dsimp only; split <;> simp
@[simp] theorem State.time_cfgReject (s : State) (source off : Nat) : (s.cfgReject source off).time = s.time := by
  unfold State.cfgReject; dsimp only; split <;> simp
@[simp] theorem State.clk_cfgReject (s : State) (source off : Nat) : (s.cfgReject source off).clk = s.clk := by
  unfold State.cfgReject; dsimp only; split <;> simp
@[simp] theorem State.ports_cfgReject (s : State) (source off : Nat) : (s.cfgReject source off).ports = s.ports := by
  unfold State.cfgReject; dsimp only; split <;> simp
@[simp] theorem State.strm_cfgReject (s : State) (source off : Nat) : (s.cfgReject source off).strm = s.strm := by
  unfold State.cfgReject; dsimp only; split <;> simp
@[simp] theorem State.seals_cfgReject (s : State) (source off : Nat) : (s.cfgReject source off).seals = s.seals := by
  unfold State.cfgReject; dsimp only; split <;> simp
@[simp] theorem State.tdm_cfgReject (s : State) (source off : Nat) : (s.cfgReject source off).tdm = s.tdm := by
  unfold State.cfgReject; dsimp only; split <;> simp
@[simp] theorem State.amp_cfgReject (s : State) (source off : Nat) : (s.cfgReject source off).amp = s.amp := by
  unfold State.cfgReject; dsimp only; split <;> simp
@[simp] theorem State.anvil_cfgReject (s : State) (source off : Nat) : (s.cfgReject source off).anvil = s.anvil := by
  unfold State.cfgReject; dsimp only; split <;> simp
@[simp] theorem State.csp_cfgReject (s : State) (source off : Nat) : (s.cfgReject source off).csp = s.csp := by
  unfold State.cfgReject; dsimp only; split <;> simp
@[simp] theorem State.boot_cfgReject (s : State) (source off : Nat) : (s.cfgReject source off).boot = s.boot := by
  unfold State.cfgReject; dsimp only; split <;> simp
@[simp] theorem State.orb_cfgReject (s : State) (source off : Nat) : (s.cfgReject source off).orb = s.orb := by
  unfold State.cfgReject; dsimp only; split <;> simp
@[simp] theorem State.pair_cfgReject (s : State) (source off : Nat) : (s.cfgReject source off).pair = s.pair := by
  unfold State.cfgReject; dsimp only; split <;> simp
@[simp] theorem State.test_cfgReject (s : State) (source off : Nat) : (s.cfgReject source off).test = s.test := by
  unfold State.cfgReject; dsimp only; split <;> simp
@[simp] theorem State.life_cfgReject (s : State) (source off : Nat) : (s.cfgReject source off).life = s.life := by
  unfold State.cfgReject; dsimp only; split <;> simp
@[simp] theorem State.pending_cfgReject (s : State) (source off : Nat) : (s.cfgReject source off).pending = s.pending := by
  unfold State.cfgReject; dsimp only; split <;> simp

/-- A field that no event touches reads after one as before. -/
@[simp] theorem State.get_raise (s : State) (c b u : Nat) (d : List Byte) {f : Fld} (h : eventKey f.key = false) :
    (s.raise c b u d).get f = s.get f := (State.raise_event s c b u d).get f h

/-- A flag of QUE.INT that is set stays set while events are raised. -/
theorem State.bit_raise (s : State) (c b u : Nat) (d : List Byte) {i : Nat} (hi : i < 5) (h : s.bit QUE.INT i = true) :
    (s.raise c b u d).bit QUE.INT i = true := (State.raise_event s c b u d).flag i hi h

/-- The flag that a signal sets reads set. -/
theorem State.bit_signal (s : State) (int en : Fld) (i c b u : Nat) (d : List Byte) (hi : i < int.w) (h : eventKey int.key = false) :
    (s.signal int en i c b u d).bit int i = true := by
  unfold State.signal
  dsimp only
  split
  · unfold State.bit
    rw [State.get_raise _ _ _ _ _ h]
    exact State.bit_setBit_self s int i hi
  · exact State.bit_setBit_self s int i hi

/-- A flag of QUE.INT that a signal sets reads set. -/
theorem State.bit_signal_que (s : State) (en : Fld) (i c b u : Nat) (d : List Byte) (hi : i < 5) :
    (s.signal QUE.INT en i c b u d).bit QUE.INT i = true := by
  unfold State.signal
  dsimp only
  split
  · exact State.bit_raise _ _ _ _ _ hi (State.bit_setBit_self s QUE.INT i hi)
  · exact State.bit_setBit_self s QUE.INT i hi

/-- A field that is neither the flag nor one that events touch reads after a signal as before. -/
theorem State.get_signal (s : State) (int en : Fld) (i c b u : Nat) (d : List Byte) {f : Fld} (hf : int.key ≠ f.key)
    (h : eventKey f.key = false) : (s.signal int en i c b u d).get f = s.get f := by
  unfold State.signal
  dsimp only
  split
  · rw [State.get_raise _ _ _ _ _ h]; exact State.get_set_of_ne _ hf _
  · exact State.get_set_of_ne _ hf _

end Sys2Proof.Machine
end

