-- ==== Sys2Proof/WellFormed.lean ====
section
/-! DEFINITION. Well-formed commands: a request's header within its fields (R352, R357, R359), every TLV's value within its length (R355), an NC512 command's
parameters padded to a multiple of 4 (R388), and a host access over one of the two host paths (R17). The other operands take every value of their types. -/

namespace Sys2Proof

/-- A header's operands lie within the fields that carry them. -/
def Req.wf (r : Req) : Bool :=
  decide (r.channel ≤ 49) && decide (r.tag < 512) && decide (r.seq < 2 ^ 32) && decide (r.device < 16) && decide (1 ≤ r.waitMs ∧ r.waitMs ≤ 60000)

/-- A TLV's value lies within its bytes, and its type and length within their fields. -/
def Tlv.wf (t : Tlv) : Bool := decide (t.ty < 65536) && decide (t.len < 65536) && decide (t.val < 2 ^ (8 * t.len))

/-- The parameters of a PATCH are well formed. -/
def NmosRes.wf (r : NmosRes) : Bool :=
  match r with
  | .patch _ _ p _ => p.all Tlv.wf
  | _ => true

/-- A command is well formed. -/
def Instr.wf (i : Instr) : Bool :=
  match i with
  | .nop r p => Req.wf r && p.all Tlv.wf
  | .sysInfoGet r p => Req.wf r && p.all Tlv.wf
  | .sessionListGet r p => Req.wf r && p.all Tlv.wf
  | .sessionClose r p => Req.wf r && p.all Tlv.wf
  | .cmdStatusGet r p => Req.wf r && p.all Tlv.wf
  | .cmdChannelGet r p => Req.wf r && p.all Tlv.wf
  | .dsStatusGet r p => Req.wf r && p.all Tlv.wf
  | .bankQuarantine r p => Req.wf r && p.all Tlv.wf
  | .bankRelease r p => Req.wf r && p.all Tlv.wf
  | .queueSet r p => Req.wf r && p.all Tlv.wf
  | .queueStatusGet r p => Req.wf r && p.all Tlv.wf
  | .bellowsSet r p => Req.wf r && p.all Tlv.wf
  | .ringInfoGet r p => Req.wf r && p.all Tlv.wf
  | .sealStatusGet r p => Req.wf r && p.all Tlv.wf
  | .sealSet r p => Req.wf r && p.all Tlv.wf
  | .sealInject r p => Req.wf r && p.all Tlv.wf
  | .sysReset r p => Req.wf r && p.all Tlv.wf
  | .bootStatusGet r p => Req.wf r && p.all Tlv.wf
  | .dormantEnter r p => Req.wf r && p.all Tlv.wf
  | .cfgRejectGet r p => Req.wf r && p.all Tlv.wf
  | .timeGet r p => Req.wf r && p.all Tlv.wf
  | .ptpPortSet r p => Req.wf r && p.all Tlv.wf
  | .servoSet r p => Req.wf r && p.all Tlv.wf
  | .asymSet r p => Req.wf r && p.all Tlv.wf
  | .timeSet r p => Req.wf r && p.all Tlv.wf
  | .pathResume r p => Req.wf r && p.all Tlv.wf
  | .servoPortSelect r p => Req.wf r && p.all Tlv.wf
  | .ptpDatasetGet r p => Req.wf r && p.all Tlv.wf
  | .clockQualitySet r p => Req.wf r && p.all Tlv.wf
  | .clkStatusGet r p => Req.wf r && p.all Tlv.wf
  | .refSet r p => Req.wf r && p.all Tlv.wf
  | .monSet r p => Req.wf r && p.all Tlv.wf
  | .dpllSet r p => Req.wf r && p.all Tlv.wf
  | .dpllMode r p => Req.wf r && p.all Tlv.wf
  | .steerSet r p => Req.wf r && p.all Tlv.wf
  | .outputSet r p => Req.wf r && p.all Tlv.wf
  | .outputAlign r p => Req.wf r && p.all Tlv.wf
  | .suspectClear r p => Req.wf r && p.all Tlv.wf
  | .portSet r p => Req.wf r && p.all Tlv.wf
  | .portStatusGet r p => Req.wf r && p.all Tlv.wf
  | .filterSet r p => Req.wf r && p.all Tlv.wf
  | .dispatchSet r p => Req.wf r && p.all Tlv.wf
  | .statsGet r p => Req.wf r && p.all Tlv.wf
  | .wakeSet r p => Req.wf r && p.all Tlv.wf
  | .ipSet r p => Req.wf r && p.all Tlv.wf
  | .ipStatusGet r p => Req.wf r && p.all Tlv.wf
  | .mcastJoin r p => Req.wf r && p.all Tlv.wf
  | .mcastLeave r p => Req.wf r && p.all Tlv.wf
  | .mcastStatusGet r p => Req.wf r && p.all Tlv.wf
  | .neighborGet r p => Req.wf r && p.all Tlv.wf
  | .streamRxSet r p => Req.wf r && p.all Tlv.wf
  | .streamTxSet r p => Req.wf r && p.all Tlv.wf
  | .streamEnable r p => Req.wf r && p.all Tlv.wf
  | .streamStatusGet r p => Req.wf r && p.all Tlv.wf
  | .streamCountersGet r p => Req.wf r && p.all Tlv.wf
  | .laneStatusGet r p => Req.wf r && p.all Tlv.wf
  | .laneQuarantine r p => Req.wf r && p.all Tlv.wf
  | .laneRelease r p => Req.wf r && p.all Tlv.wf
  | .am824CsSet r p => Req.wf r && p.all Tlv.wf
  | .am824CsGet r p => Req.wf r && p.all Tlv.wf
  | .routeSet r p => Req.wf r && p.all Tlv.wf
  | .gainSet r p => Req.wf r && p.all Tlv.wf
  | .routeClear r p => Req.wf r && p.all Tlv.wf
  | .busSet r p => Req.wf r && p.all Tlv.wf
  | .fabricLoad r p => Req.wf r && p.all Tlv.wf
  | .fabricGet r p => Req.wf r && p.all Tlv.wf
  | .alignSet r p => Req.wf r && p.all Tlv.wf
  | .concealSet r p => Req.wf r && p.all Tlv.wf
  | .genSet r p => Req.wf r && p.all Tlv.wf
  | .anvilStatusGet r p => Req.wf r && p.all Tlv.wf
  | .muQuarantine r p => Req.wf r && p.all Tlv.wf
  | .muRelease r p => Req.wf r && p.all Tlv.wf
  | .tdmGroupSet r p => Req.wf r && p.all Tlv.wf
  | .tdmPortSet r p => Req.wf r && p.all Tlv.wf
  | .tdmMaskSet r p _ => Req.wf r && p.all Tlv.wf
  | .tdmStart r p => Req.wf r && p.all Tlv.wf
  | .tdmStop r p => Req.wf r && p.all Tlv.wf
  | .tdmStatusGet r p => Req.wf r && p.all Tlv.wf
  | .ampFreqSet r p => Req.wf r && p.all Tlv.wf
  | .ampChSet r p => Req.wf r && p.all Tlv.wf
  | .ampCoefSet r p => Req.wf r && p.all Tlv.wf
  | .ampStart r p => Req.wf r && p.all Tlv.wf
  | .ampStop r p => Req.wf r && p.all Tlv.wf
  | .ampMute r p => Req.wf r && p.all Tlv.wf
  | .ampUnlock r p => Req.wf r && p.all Tlv.wf
  | .ampQuenchSet r p => Req.wf r && p.all Tlv.wf
  | .ampStatusGet r p => Req.wf r && p.all Tlv.wf
  | .clusterStatusGet r p => Req.wf r && p.all Tlv.wf
  | .moonSet r p => Req.wf r && p.all Tlv.wf
  | .moonStart r p => Req.wf r && p.all Tlv.wf
  | .orbLinkSet r p => Req.wf r && p.all Tlv.wf
  | .pairSet r p => Req.wf r && p.all Tlv.wf
  | .pairResign r p => Req.wf r && p.all Tlv.wf
  | .pairForceActive r p => Req.wf r && p.all Tlv.wf
  | .pairStatusGet r p => Req.wf r && p.all Tlv.wf
  | .pairResync r p => Req.wf r && p.all Tlv.wf
  | .testStatusGet r p => Req.wf r && p.all Tlv.wf
  | .testSchedSet r p => Req.wf r && p.all Tlv.wf
  | .testRun r p => Req.wf r && p.all Tlv.wf
  | .testStop r p => Req.wf r && p.all Tlv.wf
  | .testResultGet r p => Req.wf r && p.all Tlv.wf
  | .lifeStatusGet r p => Req.wf r && p.all Tlv.wf
  | .faultLogGet r p => Req.wf r && p.all Tlv.wf
  | .marginTrendGet r p => Req.wf r && p.all Tlv.wf
  | .calSet r p => Req.wf r && p.all Tlv.wf
  | .lcNonceGet r p => Req.wf r && p.all Tlv.wf
  | .lcTransition r p => Req.wf r && p.all Tlv.wf
  | .ownershipTake r p => Req.wf r && p.all Tlv.wf
  | .unitCertSet r p => Req.wf r && p.all Tlv.wf
  | .keySet r p => Req.wf r && p.all Tlv.wf
  | .identitySet r p => Req.wf r && p.all Tlv.wf
  | .configStore r p => Req.wf r && p.all Tlv.wf
  | .configExport r p => Req.wf r && p.all Tlv.wf
  | .configImport r p => Req.wf r && p.all Tlv.wf
  | .configApply r p => Req.wf r && p.all Tlv.wf
  | .fwWrite r p _ => Req.wf r && p.all Tlv.wf
  | .fwActivate r p => Req.wf r && p.all Tlv.wf
  | .fwConfirm r p => Req.wf r && p.all Tlv.wf
  | .nodeSet r p => Req.wf r && p.all Tlv.wf
  | .sdpGet r p => Req.wf r && p.all Tlv.wf
  | .sdpApply r p => Req.wf r && p.all Tlv.wf
  | .sapSet r p => Req.wf r && p.all Tlv.wf
  | .sapListGet r p => Req.wf r && p.all Tlv.wf
  | .sapSdpGet r p => Req.wf r && p.all Tlv.wf
  | .browseGet r p => Req.wf r && p.all Tlv.wf
  | .nmosStatusGet r p => Req.wf r && p.all Tlv.wf
  | .nmosExposeSet r p => Req.wf r && p.all Tlv.wf
  | .n5Route r p => Req.wf r && decide (p.length % 4 = 0)
  | .n5Gain r p => Req.wf r && decide (p.length % 4 = 0)
  | .n5Unroute r p => Req.wf r && decide (p.length % 4 = 0)
  | .n5MixSet r p => Req.wf r && decide (p.length % 4 = 0)
  | .n5StreamRx r p => Req.wf r && decide (p.length % 4 = 0)
  | .n5StreamTx r p => Req.wf r && decide (p.length % 4 = 0)
  | .n5TdmPort r p => Req.wf r && decide (p.length % 4 = 0)
  | .n5ClockRef r p => Req.wf r && decide (p.length % 4 = 0)
  | .n5Status r p => Req.wf r && decide (p.length % 4 = 0)
  | .n5Memtest r p => Req.wf r && decide (p.length % 4 = 0)
  | .registerWrite source _ _ => decide (source ≤ 1)
  | .splitLoRead _ => true
  | .timeNowRead => true
  | .calSubRead => true
  | .peakOccRead _ => true
  | .peakTagsRead => true
  | .timeSetApply source _ => decide (source ≤ 1)
  | .timeSetApplyPps source _ => decide (source ≤ 1)
  | .timeSetCancel source _ => decide (source ≤ 1)
  | .timeValidate source _ => decide (source ≤ 1)
  | .pcResumeWrite source _ => decide (source ≤ 1)
  | .dpllModeWrite source _ _ => decide (source ≤ 1)
  | .dpllEnableWrite source _ _ => decide (source ≤ 1)
  | .refEnableWrite source _ _ => decide (source ≤ 1)
  | .suspectClearWrite source _ => decide (source ≤ 1)
  | .outAlignWrite source _ => decide (source ≤ 1)
  | .wclkOutEnable source _ _ => decide (source ≤ 1)
  | .ppsOutEnable source _ => decide (source ≤ 1)
  | .portEnableWrite source _ _ => decide (source ≤ 1)
  | .statSnapWrite source _ _ => decide (source ≤ 1)
  | .streamTblRead source _ _ => decide (source ≤ 1)
  | .streamTblWrite source _ _ => decide (source ≤ 1)
  | .streamTblClear source _ _ => decide (source ≤ 1)
  | .queueEnWrite source _ _ => decide (source ≤ 1)
  | .bellowsEnWrite source _ _ => decide (source ≤ 1)
  | .fabricTblRead source _ _ => decide (source ≤ 1)
  | .fabricTblAdd source _ _ => decide (source ≤ 1)
  | .batchCommit source => decide (source ≤ 1)
  | .batchDiscard source => decide (source ≤ 1)
  | .tdmPortEnWrite source _ _ => decide (source ≤ 1)
  | .tdmMaskWrite source _ _ _ _ => decide (source ≤ 1)
  | .ampEnWrite source _ _ => decide (source ≤ 1)
  | .ampMuteWrite source _ _ => decide (source ≤ 1)
  | .ampUnlockWrite source _ _ => decide (source ≤ 1)
  | .freqSelRun source _ => decide (source ≤ 1)
  | .coefSwapWrite source _ _ => decide (source ≤ 1)
  | .orbLinkEnWrite source _ _ => decide (source ≤ 1)
  | .fwdWrite source _ _ => decide (source ≤ 1)
  | .pairEnWrite source _ => decide (source ≤ 1)
  | .pairForceActiveWrite source => decide (source ≤ 1)
  | .pairResignWrite source => decide (source ≤ 1)
  | .warmResetWrite source _ => decide (source ≤ 1)
  | .ringEnWrite source _ _ => decide (source ≤ 1)
  | .ringIndexWrite source _ _ => decide (source ≤ 1)
  | .setEnWrite source _ _ _ => decide (source ≤ 1)
  | .recRdIdxWrite source _ _ => decide (source ≤ 1)
  | .playWrIdxWrite source _ _ => decide (source ≤ 1)
  | .evtRouteWrite source _ => decide (source ≤ 1)
  | .cspWrite _ _ => true
  | .cspRead _ _ => true
  | .cspMboxWrite _ _ => true
  | .cspMboxRead _ => true
  | .cspEvtRead _ _ => true
  | .syncRx _ _ _ => true
  | .followUpRx _ _ => true
  | .followUpTimeout _ _ => true
  | .delayReqTx _ _ => true
  | .delayRespRx _ _ _ => true
  | .delayPairExpiry _ => true
  | .delayReqRx _ _ _ _ _ _ => true
  | .announceRx _ _ => true
  | .announceReceiptTimeout _ => true
  | .announceTx _ => true
  | .syncTx _ _ => true
  | .followUpTx _ => true
  | .exchangeLoss _ => true
  | .pathSettleTimeout => true
  | .ppsEdgeLoad _ => true
  | .applyPpsTimeout => true
  | .xoLoss => true
  | .xoRestore => true
  | .refActivityLoss _ => true
  | .refActivityGain _ => true
  | .freqGateClose _ _ => true
  | .driftWindowClose _ => true
  | .wtrExpiry _ _ => true
  | .selectionEvaluation _ => true
  | .dpllCompare _ _ => true
  | .holdoverSecond _ => true
  | .outputRealign _ => true
  | .linkUp _ _ => true
  | .linkLoss _ _ _ => true
  | .frameReceive _ _ => true
  | .frameDispatch _ => true
  | .pauseRepeat _ => true
  | .pauseTimerExpiry _ => true
  | .pauseAlarm _ => true
  | .txFrameBoundary _ _ => true
  | .dormantWake _ _ => true
  | .placeCommit _ _ _ _ => true
  | .presentFetch _ _ _ => true
  | .legTimeout _ _ => true
  | .ringPagesFree _ => true
  | .txStreamStart _ => true
  | .scheduleGather _ _ _ _ => true
  | .txPacketFrame _ => true
  | .launchStamp _ _ _ => true
  | .launchStale _ => true
  | .hammerWatchdog _ => true
  | .hammerFail _ _ => true
  | .laneHandover _ => true
  | .hammerDrainDone _ => true
  | .scrubRead _ _ => true
  | .bankWatchdog _ => true
  | .bankFailure _ _ => true
  | .bankHandover _ => true
  | .bankHandoverDone _ _ => true
  | .queuePush _ _ => true
  | .bellowsPinHold _ => true
  | .queuePop _ => true
  | .queuePopRel _ => true
  | .queueMark _ => true
  | .queueRewind _ => true
  | .queueRelease _ => true
  | .spillRefill _ _ _ => true
  | .anvilPass _ => true
  | .batchApply => true
  | .directFastPath _ r p => Req.wf r && p.all Tlv.wf
  | .muFailure _ _ => true
  | .muHandover _ => true
  | .tdmFrameOpen _ _ _ _ _ => true
  | .tdmZcTimeout _ => true
  | .followerFrame _ _ => true
  | .followerClockLoss _ _ => true
  | .fsMeasGate _ _ => true
  | .asrcLock _ _ => true
  | .asrcUnlock _ => true
  | .ampLoopUpdate _ _ _ _ _ => true
  | .currentLimit _ _ _ => true
  | .ampFaultPin _ => true
  | .ampFaultPinRelease _ => true
  | .ampRetryDue _ => true
  | .ampRetryClear _ => true
  | .ntcConversion _ _ => true
  | .dcFault _ _ => true
  | .ampCalibrationDone _ => true
  | .ampBootDone _ => true
  | .ampRampDone _ => true
  | .ampStopDone _ => true
  | .ampZcTimeout _ => true
  | .pwmClockResume => true
  | .freqSelectDone => true
  | .coefSwapApply _ => true
  | .requestArrive _ _ => true
  | .requestStart => true
  | .requestComplete _ _ => true
  | .requestTimeout _ _ => true
  | .udpDatagramRx _ => true
  | .sessionOpen _ _ => true
  | .sessionCloseDatagram _ => true
  | .sessionIdleTimeout _ => true
  | .engineFrameRx _ => true
  | .arpProbe _ _ => true
  | .dhcpTimer _ _ => true
  | .sapAnnounce _ => true
  | .sapEntryExpiry _ => true
  | .nmosHttpRequest _ _ _ _ res _ => res.wf
  | .nmosHeartbeat _ => true
  | .is05Activation _ _ _ p _ _ _ _ _ => p.all Tlv.wf
  | .crqFetch _ _ _ => true
  | .txdItemFetch _ _ _ => true
  | .txCompletionWrite _ => true
  | .rxItemDeliver _ _ => true
  | .rxGapEntry _ => true
  | .replyDeliver _ => true
  | .replyWaitExpiry => true
  | .eventToEvr _ => true
  | .dmaReadError _ _ _ _ => true
  | .hostLost _ => true
  | .hostRestored => true
  | .recordBlockWrite _ _ _ _ => true
  | .playbackBlockFetch _ _ => true
  | .msixModerationEnd _ => true
  | .pciePerst => true
  | .orbBlockLock _ => true
  | .orbLinkUp _ _ _ _ _ => true
  | .orbLinkLoss _ _ => true
  | .orbIdleFrame _ => true
  | .orbSampleRx _ _ _ _ _ => true
  | .orbTimeTx _ _ => true
  | .orbTimeRx _ _ _ _ _ _ => true
  | .orbCommandRx _ _ _ _ _ _ => true
  | .orbEventRx _ _ _ => true
  | .moonAssignRx _ _ _ _ => true
  | .moonStartRx => true
  | .moonStartSend => true
  | .moonConfigApply _ _ => true
  | .moonUplinkLoss _ => true
  | .pulseSend => true
  | .pulseRx _ => true
  | .pairInitTimeout => true
  | .leaseExpiry => true
  | .promotionInstant => true
  | .resyncNoPulse => true
  | .mirrorRowRx _ _ _ _ => true
  | .mirrorStateRx _ => true
  | .digestRx _ _ => true
  | .resyncPhaseDone => true
  | .lockstepMismatch => true
  | .temperTurn => true
  | .sliceEnd _ _ _ => true
  | .sliceWatchdog => true
  | .sliceRepeat => true
  | .commandedSliceStart => true
  | .aonMinute => true
  | .checkpointHourly => true
  | .tjSample _ => true
  | .marginMeasure _ => true
  | .calSync => true
  | .vbakLow => true
  | .serviceExpiry => true
  | .nonceExpiry => true
  | .fwTrialTimeout => true
  | .porstAssert => true
  | .porstRelease _ => true
  | .wrstAssert => true
  | .wrstRelease => true
  | .startRowComplete => true
  | .startUnitTimeout _ _ _ => true
  | .startWatchdog => true
  | .sysResetAct _ => true
  | .brownoutWarning _ _ => true
  | .brownoutRecover _ _ => true
  | .brownoutReset _ _ => true
  | .dormantForceStop => true
  | .dormantPowerDown => true
  | .ptpQualificationTimeout _ => true
  | .ppsEdgeReject _ _ => true
  | .vddAonLoss _ => true
  | .vddAonReturn => true
  | .vbakRecover => true
  | .orbControlFrameRx _ _ _ _ => true
  | .membershipReport _ _ _ => true
  | .fecCodewordUncorrectable _ _ => true

end Sys2Proof
end

