-- ==== Sys2Proof/Tests/Slice0.lean ====
section
/-! SUPPORT. Tests of the model: well-formedness, values the spec gives, and for every statement a state and operands that meet its
hypotheses. -/

namespace Sys2Proof.Tests
open Sys2Proof Sys2Proof.Machine

set_option Elab.async false

/-- A ready unit, its start complete, with these register fields. -/
def up (l : List (Fld × Nat)) : State :=
  l.foldl (fun s x => s.set x.1 x.2) ((State.reset.set SYS.STATUS_READY 1).set SYS.STATUS_STEP 11)

/-- A request of channel 3. -/
def q3 : Req := ⟨3, 7, false, false, false, false, false, false, 0, 0, false, 1000, false⟩

theorem meets_IdleStepIsOneCoreCycle :
    (∃ (s : State), (s.pending = [])) :=
  ⟨{ up [] with cycles := 24413 }, by decide +kernel⟩

/-- An Announce of grandmaster 5 from port identity 9. -/
def ann : Announce := ⟨9, 0, 5, 128, 248, 0xFE, 0xFFFF, 128, 1, 0xA0, 37, false, false, false, false, false, true⟩

/-- A message of that master. -/
def msg (two : Bool) : PtpMsg := ⟨9, 0, 4, 1000, 65536, two⟩

/-- Port 1 is UP and SLAVE of that master, and holds what `f` adds. -/
def slave (f : PtpPort → PtpPort) : State :=
  (up [(TIME.PORT_ENABLE 1, 1), (TIME.PORT_STATE 1, 9), (PORT.LINK_UP 1, 1)]).setPtp 1 (f { PtpPort.reset with parent := some ann })

/-- Port 1 is UP and MASTER. -/
def master (one : Nat) : State :=
  up [(TIME.PORT_ENABLE 1, 1), (TIME.PORT_STATE 1, 6), (TIME.PORT_ONE_STEP 1, one), (PORT.LINK_UP 1, 1)]

theorem meets_PtpMessagesAndExchanges :
    (∃ (s : State) (p : Nat) (m : PtpMsg),
      let mine := s.slaving p = true ∧ s.fromParent p m = true;
      (p < 2) ∧ (mine) ∧ (m.twoStep = true) ∧ ((s.ptp p).stamps < 16)) ∧
    (∃ (s : State) (p : Nat) (m : PtpMsg) (raw : Int) (dp : DelayPair),
      let mine := s.slaving p = true ∧ s.fromParent p m = true;
      let t2 := raw - s.geti (TIME.PORT_RX_LAT p);
      let th := fun t1 t2 c => (t2 - t1 - c) - (dp.t4 - dp.t3 - dp.corr) - 2 * s.geti (TIME.PORT_ASYM p);
      (p < 2) ∧ (mine) ∧ (m.twoStep = false) ∧ ((s.ptp p).stamps < 16) ∧ ((s.ptp p).pair = some dp) ∧ (s.on TIME.SERVO_PC_EN = false) ∧
      ((th (t16 m.time) t2 m.corr / ns17).natAbs < 2 ^ 31)) ∧
    (∃ (s : State) (p : Nat) (m : PtpMsg) (dp : DelayPair) (y : PendSync),
      let mine := s.slaving p = true ∧ s.fromParent p m = true;
      let th := fun t1 t2 c => (t2 - t1 - c) - (dp.t4 - dp.t3 - dp.corr) - 2 * s.geti (TIME.PORT_ASYM p);
      (p < 2) ∧ (mine) ∧ ((s.ptp p).syncs.find? (fun z => z.src == m.src && z.seq == m.seq) = some y) ∧ ((s.ptp p).pair = some dp) ∧
      (s.on TIME.SERVO_PC_EN = false) ∧ ((th (t16 m.time) y.t2 (y.corr + m.corr) / ns17).natAbs < 2 ^ 31)) ∧
    (∃ (s : State) (p : Nat) (m : PtpMsg) (y : PendSync),
      let mine := s.slaving p = true ∧ s.fromParent p m = true;
      (p < 2) ∧ (mine) ∧ ((s.ptp p).syncs.find? (fun z => z.src == m.src && z.seq == m.seq) = some y) ∧ ((s.ptp p).pair = none)) ∧
    (∃ (s : State) (p : Nat) (seq : Nat) (y : PendSync), (p < 2) ∧ ((s.ptp p).syncs.find? (fun z => z.seq == seq) = some y)) ∧
    (∃ (s : State) (p : Nat),
      let free := s.on (PORT.LINK_UP p) = true ∧ (s.port p).ptp = [] ∧ (s.port p).pauses = [] ∧ s.streamDue p = false ∧ s.pausedStream p = false;
      let goes := fun (o : PtpSent) => s.txTooLong p o.bytes = false ∧ o.bytes.length + 4 ≤ 8192 ∧ s.guardOk p (o.bytes.length + 4) = true;
      (p < 2) ∧ (s.slaving p = true) ∧ ((s.ptp p).stamps < 16) ∧ (free) ∧ (goes (s.ptpMake p 2 (s.ptp p).seqDreq 0 0 0))) ∧
    (∃ (s : State) (p : Nat) (m : PtpMsg) (t3 : Int),
      let mine := s.slaving p = true ∧ s.fromParent p m = true;
      (p < 2) ∧ (mine) ∧ ((s.ptp p).dreqs.find? (fun z => z.1 == m.seq) = some (m.seq, t3))) ∧
    (∃ (p : Nat), (p < 2)) ∧
    (∃ (s : State) (p : Nat) (seq : Nat) (src : Nat) (raw : Int) (corr : Int),
      let t2 := raw - s.geti (TIME.PORT_RX_LAT p);
      let master := s.get (TIME.PORT_STATE p) = 6;
      let free := s.on (PORT.LINK_UP p) = true ∧ (s.port p).ptp = [] ∧ (s.port p).pauses = [] ∧ s.streamDue p = false ∧ s.pausedStream p = false;
      let goes := fun (o : PtpSent) => s.txTooLong p o.bytes = false ∧ o.bytes.length + 4 ≤ 8192 ∧ s.guardOk p (o.bytes.length + 4) = true;
      (p < 2) ∧ (master) ∧ (s.on (TIME.PORT_ENABLE p) = true) ∧ ((s.ptp p).dreqSec ≠ s.ctr / ctrPerSec) ∧ (free) ∧
      (goes (s.ptpMake p 3 seq (t2 / 65536) (corr - t2 % 65536) src))) ∧
    (∃ (s : State) (p : Nat),
      let master := s.get (TIME.PORT_STATE p) = 6;
      let free := s.on (PORT.LINK_UP p) = true ∧ (s.port p).ptp = [] ∧ (s.port p).pauses = [] ∧ s.streamDue p = false ∧ s.pausedStream p = false;
      let goes := fun (o : PtpSent) => s.txTooLong p o.bytes = false ∧ o.bytes.length + 4 ≤ 8192 ∧ s.guardOk p (o.bytes.length + 4) = true;
      (p < 2) ∧ (master) ∧ (free) ∧ (goes (s.ptpMake p 4 (s.ptp p).seqAnnounce 0 0 0))) ∧
    (∃ (s : State) (p : Nat),
      let master := s.get (TIME.PORT_STATE p) = 6;
      (p < 2) ∧ (master) ∧ (s.on (PORT.LINK_UP p) = true) ∧ ((s.port p).ptp = []) ∧ (s.pausedStream p = true) ∧
      (s.txTooLong p (s.ptpMake p 4 (s.ptp p).seqAnnounce 0 0 0).bytes = false) ∧
      ((s.ptpMake p 4 (s.ptp p).seqAnnounce 0 0 0).bytes.length + 4 ≤ 8192)) ∧
    (∃ (s : State) (p : Nat),
      let master := s.get (TIME.PORT_STATE p) = 6;
      let free := s.on (PORT.LINK_UP p) = true ∧ (s.port p).ptp = [] ∧ (s.port p).pauses = [] ∧ s.streamDue p = false ∧ s.pausedStream p = false;
      let goes := fun (o : PtpSent) => s.txTooLong p o.bytes = false ∧ o.bytes.length + 4 ≤ 8192 ∧ s.guardOk p (o.bytes.length + 4) = true;
      let sync := s.ptpMake p 0 (s.ptp p).seqSync 0 0 0;
      (p < 2) ∧ (master) ∧ (s.on (TIME.PORT_ONE_STEP p) = true) ∧ (free) ∧ (goes sync)) ∧
    (∃ (s : State) (p : Nat),
      let master := s.get (TIME.PORT_STATE p) = 6;
      let free := s.on (PORT.LINK_UP p) = true ∧ (s.port p).ptp = [] ∧ (s.port p).pauses = [] ∧ s.streamDue p = false ∧ s.pausedStream p = false;
      let goes := fun (o : PtpSent) => s.txTooLong p o.bytes = false ∧ o.bytes.length + 4 ≤ 8192 ∧ s.guardOk p (o.bytes.length + 4) = true;
      let sync := s.ptpMake p 0 (s.ptp p).seqSync 0 0 0;
      (p < 2) ∧ (master) ∧ (s.on (TIME.PORT_ONE_STEP p) = false) ∧ (free) ∧ (goes sync)) ∧
    (∃ (s : State) (p : Nat) (seq : Nat) (raw : Int),
      let departs := raw + s.geti (TIME.PORT_TX_LAT p);
      let free := s.on (PORT.LINK_UP p) = true ∧ (s.port p).ptp = [] ∧ (s.port p).pauses = [] ∧ s.streamDue p = false ∧ s.pausedStream p = false;
      let goes := fun (o : PtpSent) => s.txTooLong p o.bytes = false ∧ o.bytes.length + 4 ≤ 8192 ∧ s.guardOk p (o.bytes.length + 4) = true;
      (p < 2) ∧ ((s.ptp p).followUp = some (seq, departs)) ∧ (free) ∧ (goes (s.ptpMake p 1 seq (departs / 65536) (departs % 65536) 0))) :=
  ⟨⟨slave id, 1, msg true, by (dsimp only; decide +kernel)⟩,
   ⟨(slave (fun x => { x with pair := some ⟨60000000, 65000000, 1000⟩ })).set TIME.SERVO_PC_EN 0, 1, msg false, 70000000, ⟨60000000, 65000000,
      1000⟩, by (dsimp only; decide +kernel)⟩,
   ⟨(slave (fun x => { x with pair := some ⟨60000000, 65000000, 1000⟩, syncs := [⟨9, 4, 6, 70000000⟩] })).set TIME.SERVO_PC_EN 0, 1, msg false,
      ⟨60000000, 65000000, 1000⟩, ⟨9, 4, 6, 70000000⟩, by (dsimp only; decide +kernel)⟩,
   ⟨slave (fun x => { x with syncs := [⟨9, 4, 6, 70000000⟩] }), 1, msg false, ⟨9, 4, 6, 70000000⟩, by (dsimp only; decide +kernel)⟩,
   ⟨slave (fun x => { x with syncs := [⟨9, 4, 6, 70000000⟩] }), 1, 4, ⟨9, 4, 6, 70000000⟩, by decide +kernel⟩,
   ⟨slave id, 1, by (dsimp only; decide +kernel)⟩,
   ⟨slave (fun x => { x with dreqs := [(3, 5), (4, 6000)] }), 1, msg false, 6000, by (dsimp only; decide +kernel)⟩,
   ⟨1, by decide +kernel⟩,
   ⟨{ master 0 with ctr := ctrPerSec }, 1, 77, 9, 70000001, 65536, by (dsimp only; decide +kernel)⟩,
   ⟨master 0, 1, by (dsimp only; decide +kernel)⟩,
   ⟨((master 0).set (PORT.TX_PAUSED 1) 1).set (PORT.PAUSE_MODE 1) 1, 1, by (dsimp only; decide +kernel)⟩,
   ⟨master 1, 1, by (dsimp only; decide +kernel)⟩,
   ⟨master 0, 1, by (dsimp only; decide +kernel)⟩,
   ⟨(master 0).setPtp 1 { PtpPort.reset with followUp := some (5, 70000001) }, 1, 5, 70000001, by (dsimp only; decide +kernel)⟩⟩

theorem meets_PtpPortStates :
    (∃ (s : State) (p : Nat) (a : Announce),
      let state := fun (t : State) => t.get (TIME.PORT_STATE p);
      let noMoon := (s.isMoon && s.on ORB.STATUS_JOIN_STATE) = false;
      let heard := noteForeign s.cycles (s.ptp p).window a (s.ptp p).foreign;
      (p < 2) ∧ (noMoon) ∧ (s.on (TIME.PORT_ENABLE p) = true) ∧ (state s = 4) ∧ (a.domain = s.get (TIME.PORT_DOMAIN p)) ∧
      (a.gm ≠ s.life.ident.eui) ∧ (a.steps < 255) ∧ (s.on (TIME.PORT_SLAVE_ONLY p) = true) ∧
      ((s.setPtp p { s.ptp p with foreign := heard }).bestForeign p = some a) ∧ (a.utcValid = false)) ∧
    (∃ (s : State) (p : Nat) (a : Announce),
      let state := fun (t : State) => t.get (TIME.PORT_STATE p);
      let noMoon := (s.isMoon && s.on ORB.STATUS_JOIN_STATE) = false;
      let others := (s.ptp p).foreign.filter (fun f => f.msg.src != a.src);
      (p < 2) ∧ (noMoon) ∧ (s.on (TIME.PORT_ENABLE p) = true) ∧ (state s = 9) ∧ ((s.ptp p).parent = some a) ∧
      ((s.setPtp p { s.ptp p with parent := none, foreign := others }).bestForeign p = none)) ∧
    (∃ (s : State) (p : Nat),
      let state := fun (t : State) => t.get (TIME.PORT_STATE p);
      let noMoon := (s.isMoon && s.on ORB.STATUS_JOIN_STATE) = false;
      (p < 2) ∧ (noMoon) ∧ (state s = 5) ∧ (s.standsBy = false)) ∧
    (∃ (s : State) (p : Nat) (r : Req), (p < 2) ∧ (s.barred 0x0202 r = none) ∧ (s.on (TIME.PORT_ENABLE p) = false)) ∧
    (∃ (s : State) (p : Nat) (r : Req), (p < 2) ∧ (s.barred 0x0202 r = none) ∧ (s.on (TIME.PORT_ENABLE p) = true)) :=
  ⟨⟨(up [(TIME.PORT_ENABLE 1, 1), (TIME.PORT_STATE 1, 4), (TIME.PORT_SLAVE_ONLY 1, 1)]).setPtp 1 { PtpPort.reset with foreign := [⟨ann, [0]⟩] },
      1, ann, by (dsimp only; decide +kernel)⟩,
   ⟨slave id, 1, ann, by (dsimp only; decide +kernel)⟩,
   ⟨up [(TIME.PORT_STATE 1, 5)], 1, by (dsimp only; decide +kernel)⟩,
   ⟨up [], 1, q3, by decide +kernel⟩,
   ⟨slave id, 1, q3, by decide +kernel⟩⟩

theorem meets_ServoTransitions :
    (∃ (s : State) (p : Nat),
      let st := fun (t : State) => t.get TIME.STATUS_SERVO_STATE;
      (p < 2) ∧ ((st s = 1 ∨ st s = 2 ∨ st s = 3)) ∧ (s.get TIME.STATUS_ACTIVE_PORT = p) ∧ (s.eligible (1 - p) = false) ∧
      (s.get (CLK.DPLL_SEL_REF 0) = 6) ∧ (s.on (CLK.DPLL_SEL_VALID 0) = true) ∧ ((s.get (CLK.DPLL_STATE 0) = 1 ∨ s.get (CLK.DPLL_STATE 0) = 2)) ∧
      (s.get TIME.CTRL_MODE = 0) ∧ (s.held = []) ∧ (s.isMoon = false)) ∧
    (∃ (s : State) (p : Nat),
      let st := fun (t : State) => t.get TIME.STATUS_SERVO_STATE;
      (p < 2) ∧ (st s = 3) ∧ (s.get TIME.SERVO_PC_TIMEOUT ≠ 0)) ∧
    (∃ (s : State) (p : Nat) (r : Req),
      let st := fun (t : State) => t.get TIME.STATUS_SERVO_STATE;
      (p < 2) ∧ (st s = 3) ∧ (s.barred 0x0206 r = none)) ∧
    (∃ (s : State) (p : Nat),
      let st := fun (t : State) => t.get TIME.STATUS_SERVO_STATE;
      (p < 2) ∧ (st s = 3) ∧ (s.busOpen 0x80070)) ∧
    (∃ (s : State) (p : Nat) (r : Req), (p < 2) ∧ (s.barred 0x0207 r = none) ∧ (s.eligible p = true) ∧ (p ≠ s.get TIME.STATUS_ACTIVE_PORT)) ∧
    (∃ (s : State) (p : Nat) (ki : Nat) (r : Req),
      let st := fun (t : State) => t.get TIME.STATUS_SERVO_STATE;
      (p < 2) ∧ (s.barred 0x0203 r = none) ∧ (ki < 2 ^ 16) ∧ (st s = 0) ∧ (s.on (CLK.DPLL_SEL_VALID 0) = false)) ∧
    (∃ (s : State) (p : Nat) (a : Nat) (r : Req), (p < 2) ∧ (s.barred 0x0204 r = none) ∧ (a < 2 ^ 32)) ∧
    (∃ (s : State) (p : Nat) (c : Nat) (cls : Nat) (acc : Nat) (var : Nat) (src : Nat) (r : Req), (p < 2) ∧ (s.barred 0x0209 r = none) ∧
      (c ≤ 3) ∧ (cls ≤ 255) ∧ (acc ≤ 255) ∧ (var < 2 ^ 16) ∧ (src ≤ 255) ∧ (s.time.cls.length = 4)) :=
  ⟨⟨up [(TIME.STATUS_SERVO_STATE, 2), (TIME.STATUS_ACTIVE_PORT, 1), (CLK.DPLL_SEL_REF 0, 6), (CLK.DPLL_SEL_VALID 0, 1), (CLK.DPLL_STATE 0, 2)],
      1, by (dsimp only; decide +kernel)⟩,
   ⟨up [(TIME.STATUS_SERVO_STATE, 3), (TIME.SERVO_PC_TIMEOUT, 9)], 0, by (dsimp only; decide +kernel)⟩,
   ⟨up [(TIME.STATUS_SERVO_STATE, 3)], 0, q3, by (dsimp only; decide +kernel)⟩,
   ⟨up [(TIME.STATUS_SERVO_STATE, 3)], 0, by (dsimp only; decide +kernel)⟩,
   ⟨{ up [(TIME.PORT_ENABLE 1, 1), (TIME.PORT_STATE 1, 9)] with time := { State.reset.time with ports := #v[PtpPort.reset, { PtpPort.reset with recent := true }] } }, 1, q3, by decide +kernel⟩,
   ⟨up [], 0, 0xFFFF, q3, by (dsimp only; decide +kernel)⟩,
   ⟨up [], 1, 0xFFFFFFFF, q3, by decide +kernel⟩,
   ⟨up [], 0, 3, 6, 0x21, 0xFFFF, 0x20, q3, by decide +kernel⟩⟩

theorem meets_SettingTheTime :
    (∃ (s : State) (sec : Nat) (ns : Nat) (r : Req), (s.barred 0x0205 r = none) ∧ (sec < 2 ^ 48) ∧ (ns ≤ 999999999) ∧
      (s.loadPermitted false = true)) ∧
    (∃ (s : State) (sec : Nat) (ns : Nat) (r : Req), (s.barred 0x0205 r = none) ∧ (sec < 2 ^ 48) ∧ (ns ≤ 999999999) ∧
      (s.loadPermitted false = false)) ∧
    (∃ (s : State) (v : Word),
      let b := fun (i : Nat) => v.toNat.testBit i;
      (s.busOpen 0x8004C) ∧ (b 1 = false) ∧ (b 6 = false) ∧ (s.loadPermitted (b 3) = true)) ∧
    (∃ (s : State) (v : Word),
      let b := fun (i : Nat) => v.toNat.testBit i;
      (s.busOpen 0x8004C) ∧ (b 1 = false) ∧ (b 6 = false) ∧ (s.loadPermitted (b 3) = false)) ∧
    (∃ (s : State) (v : Word),
      let b := fun (i : Nat) => v.toNat.testBit i;
      (s.busOpen 0x8004C) ∧ (b 0 = false) ∧ (s.loadPermitted (b 3) = true)) ∧
    (∃ (s : State) (v : Word),
      let b := fun (i : Nat) => v.toNat.testBit i;
      (s.busOpen 0x8004C) ∧ (b 0 = false) ∧ (b 1 = false) ∧ (b 2 = false)) ∧
    (∃ (s : State) (v : Word),
      let b := fun (i : Nat) => v.toNat.testBit i;
      (s.busOpen 0x8004C) ∧ (b 0 = false) ∧ (b 1 = false) ∧ (b 6 = false)) ∧
    (∃ (s : State) (n : Nat) (l : PpsLoad), (s.time.pps = some l) ∧ (l.src = n) ∧ (s.loadPermitted l.force = true)) ∧
    (∃ (s : State) (l : PpsLoad), (s.time.pps = some l)) :=
  ⟨⟨up [], 1000000, 999999999, q3, by decide +kernel⟩,
   ⟨up [(TIME.STATUS_MEDIA_VALID, 1)], 1000000, 999999999, q3, by decide +kernel⟩,
   ⟨up [(TIME.LOAD_SET_NS, 55)], 0x01#32, by (dsimp only; decide +kernel)⟩,
   ⟨up [(TIME.STATUS_MEDIA_VALID, 1)], 0x01#32, by (dsimp only; decide +kernel)⟩,
   ⟨up [(TIME.STATUS_MEDIA_VALID, 1)], 0x3A#32, by (dsimp only; decide +kernel)⟩,
   ⟨{ up [(TIME.STATUS_SET_PENDING, 1)] with time := { State.reset.time with pps := some ⟨1, 2, 0, false, false, 0⟩ } }, 0x40#32,
      by (dsimp only; decide +kernel)⟩,
   ⟨up [], 0x04#32, by (dsimp only; decide +kernel)⟩,
   ⟨{ up [(TIME.STATUS_SET_PENDING, 1)] with time := { State.reset.time with pps := some ⟨1, 2, 3, false, false, 0⟩ } }, 3, ⟨1, 2, 3, false,
      false, 0⟩, by decide +kernel⟩,
   ⟨{ up [(TIME.STATUS_SET_PENDING, 1)] with time := { State.reset.time with pps := some ⟨1, 2, 3, false, false, 0⟩ } }, ⟨1, 2, 3, false, false,
      0⟩, by decide +kernel⟩⟩

/-- Reference n, enabled, in QSTATE q with these fields besides. -/
def refAt (n q : Nat) (l : List (Fld × Nat)) : State :=
  up ([(CLK.XO_OK, 1), (CLK.REF_ENABLE n, 1), (CLK.REF_ACTIVE n, 1), (CLK.REF_QSTATE n, q)] ++ l)

/-- DPLL 2, enabled, in state st on reference 3, with these fields besides. -/
def dpllAt (st : Nat) (l : List (Fld × Nat)) : State :=
  up ([(CLK.XO_OK, 1), (CLK.DPLL_ENABLE 2, 1), (CLK.DPLL_SEL_REF 2, 3), (CLK.DPLL_SEL_VALID 2, 1), (CLK.DPLL_STATE 2, st)] ++ l)

theorem meets_ReferencesQualifyAndFail :
    (∃ (s : State) (n : Nat),
      let q := fun (t : State) => t.get (CLK.REF_QSTATE n);
      let en := s.on (CLK.REF_ENABLE n) = true;
      (n < 8) ∧ (en) ∧ ((n = 6 → s.ref6Active = true)) ∧ ((n = 7 → s.ref7Offered = true)) ∧ (s.on CLK.XO_OK = true) ∧
      (s.get (CLK.REF_CFG_ERR n) = 0) ∧ (q s < 2)) ∧
    (∃ (s : State) (n : Nat),
      let q := fun (t : State) => t.get (CLK.REF_QSTATE n);
      let en := s.on (CLK.REF_ENABLE n) = true;
      (n < 8) ∧ (en) ∧ ((n = 6 → s.ref6Active = false)) ∧ (q s = 3)) ∧
    (∃ (s : State) (n : Nat) (used : Bool),
      let en := s.on (CLK.REF_ENABLE n) = true;
      (n < 8) ∧ (en) ∧ (n < 4) ∧ (s.get (CLK.REF_TYPE n) = 3) ∧ ((used = false → (s.refSt n).rejectRun < 2))) ∧
    (∃ (s : State) (n : Nat),
      let en := s.on (CLK.REF_ENABLE n) = true;
      (n < 8) ∧ (en) ∧ (n < 4) ∧ (s.get (CLK.REF_TYPE n) = 3) ∧ ((s.refSt n).rejectRun = 2)) ∧
    (∃ (s : State) (n : Nat) (ofs : Int),
      let q := fun (t : State) => t.get (CLK.REF_QSTATE n);
      let en := s.on (CLK.REF_ENABLE n) = true;
      let m0 := s.measured n ofs;
      (n < 8) ∧ (en) ∧ (s.on (CLK.REF_ACTIVE n) = true) ∧ (s.on CLK.CTRL_FM_BASE = false) ∧ (q s = 2) ∧
      (m0.natAbs ≤ capPpt (s.get (CLK.REF_ACCEPT n))) ∧ (s.on (CLK.REF_SUSPECT n) = false) ∧
      (s.get (CLK.REF_QUAL_TIME n) * 100 ≤ (s.refSt n).qualMs.getD 0 + s.gateMs n)) ∧
    (∃ (s : State) (n : Nat) (ofs : Int),
      let q := fun (t : State) => t.get (CLK.REF_QSTATE n);
      let en := s.on (CLK.REF_ENABLE n) = true;
      let m0 := s.measured n ofs;
      (n < 8) ∧ (en) ∧ (s.on (CLK.REF_ACTIVE n) = true) ∧ (s.on CLK.CTRL_FM_BASE = false) ∧ (q s = 2) ∧
      (capPpt (s.get (CLK.REF_ACCEPT n)) < m0.natAbs) ∧ (m0.natAbs < 2 ^ 31)) ∧
    (∃ (s : State) (n : Nat),
      let q := fun (t : State) => t.get (CLK.REF_QSTATE n);
      (n < 8) ∧ (q s = 3) ∧ ((s.refSt n).prevDrift = none)) ∧
    (∃ (s : State) (n : Nat) (a : Nat) (d : Nat) (b : Int) (c : Int),
      let q := fun (t : State) => t.get (CLK.REF_QSTATE n);
      (n < 8) ∧ (q s = 3) ∧ ((s.refSt n).prevDrift = some (c, d)) ∧ ((s.refSt n).driftSum = b) ∧ ((s.refSt n).driftCount = a) ∧
      (0 < s.get (CLK.REF_DRIFT_LIM n)) ∧ (s.get (CLK.REF_DRIFT_LIM n) * 1000 * a * d < (b * d - c * a).natAbs) ∧
      (s.on (CLK.REF_DRIFT_ACT n) = false)) ∧
    (∃ (s : State) (n : Nat), (n < 8) ∧ (s.busOpen (0xA011C + 0x40 * n))) ∧
    (∃ (s : State) (n : Nat) (m : Nat) (r : Req), (n < 8) ∧ (s.barred 0x0309 r = none) ∧ (m ≤ 255)) ∧
    (∃ (s : State) (n : Nat) (r : Req),
      let en := s.on (CLK.REF_ENABLE n) = true;
      (n < 8) ∧ (s.barred 0x0302 r = none) ∧ (¬ en) ∧ ((n < 4 → refTypeOk (s.get (CLK.REF_TYPE n)) (s.get (CLK.REF_FREQ n)) = true))) ∧
    (∃ (s : State) (n : Nat) (v : Word),
      let en := s.on (CLK.REF_ENABLE n) = true;
      (n < 8) ∧ (s.busOpen (0xA0100 + 0x40 * n)) ∧ (¬ en) ∧ (v.toNat % 2 = 1)) ∧
    (∃ (s : State) (n : Nat) (a : Nat) (m : Nat) (r : Req), (n < 8) ∧ (s.barred 0x0303 r = none) ∧ (a < 2 ^ 27) ∧ (m < 2 ^ 16)) :=
  ⟨⟨refAt 1 1 [(CLK.REF_ACTIVE 1, 0)], 1, by (dsimp only; decide +kernel)⟩,
   ⟨refAt 1 3 [], 1, by (dsimp only; decide +kernel)⟩,
   ⟨refAt 1 3 [(CLK.REF_TYPE 1, 3)], 1, false, by (dsimp only; decide +kernel)⟩,
   ⟨(refAt 1 3 [(CLK.REF_TYPE 1, 3)]).setRefSt 1 { RefState.reset with rejectRun := 2 }, 1, by (dsimp only; decide +kernel)⟩,
   ⟨refAt 1 2 [(CLK.CTRL_FM_BASE, 0), (CLK.REF_QUAL_TIME 1, 0)], 1, 5, by (dsimp only; decide +kernel)⟩,
   ⟨refAt 1 2 [(CLK.CTRL_FM_BASE, 0)], 1, 2000000000, by (dsimp only; decide +kernel)⟩,
   ⟨refAt 1 3 [], 1, by (dsimp only; decide +kernel)⟩,
   ⟨(refAt 1 3 [(CLK.REF_DRIFT_LIM 1, 1)]).setRefSt 1 { RefState.reset with prevDrift := some (0, 2), driftSum := 100000, driftCount := 2 }, 1,
      2, 2, 100000, 0, by (dsimp only; decide +kernel)⟩,
   ⟨refAt 1 3 [(CLK.REF_SUSPECT 1, 1)], 1, by decide +kernel⟩,
   ⟨refAt 1 3 [(CLK.REF_SUSPECT 1, 1), (CLK.REF_SUSPECT 2, 1)], 1, 2, q3, by decide +kernel⟩,
   ⟨up [(CLK.REF_TYPE 1, 2), (CLK.REF_FREQ 1, 48000)], 1, q3, by (dsimp only; decide +kernel)⟩,
   ⟨up [(CLK.REF_FREQ 1, 48000)], 1, 0x21#32, by (dsimp only; decide +kernel)⟩,
   ⟨up [], 7, 0x7FFFFFF, 0xFFFF, q3, by decide +kernel⟩⟩

theorem meets_DpllsSelectLockAndHold :
    (∃ (s : State) (d : Nat) (k : Nat) (r : Nat),
      let st := fun (t : State) => t.get (CLK.DPLL_STATE d);
      (d < 4) ∧ (s.on CLK.XO_OK = true) ∧ (s.on (CLK.DPLL_ENABLE d) = true) ∧ (s.held = []) ∧ (st s = 0) ∧ (s.get (CLK.DPLL_MODE d) = 0) ∧
      (s.on (CLK.DPLL_SEL_VALID d) = false) ∧ (lowestRank s d (s.selectables d) = some k) ∧ (s.choose d k = some r)) ∧
    (∃ (s : State) (d : Nat) (err : Int),
      let st := fun (t : State) => t.get (CLK.DPLL_STATE d);
      let sel := s.get (CLK.DPLL_SEL_REF d);
      let e := err - s.phaseTarget d sel err;
      (d < 4) ∧ (s.on CLK.XO_OK = true) ∧ (s.on (CLK.DPLL_ENABLE d) = true) ∧ (s.held = []) ∧ (st s = 2) ∧
      (e.natAbs ≤ s.get (CLK.DPLL_UNLOCK_THR d) * 1000) ∧ (e.natAbs < 2 ^ 31)) ∧
    (∃ (s : State) (d : Nat) (err : Int),
      let st := fun (t : State) => t.get (CLK.DPLL_STATE d);
      let sel := s.get (CLK.DPLL_SEL_REF d);
      let e := err - s.phaseTarget d sel err;
      (d < 4) ∧ (s.on CLK.XO_OK = true) ∧ (s.on (CLK.DPLL_ENABLE d) = true) ∧ (s.held = []) ∧ (st s = 2) ∧
      (s.get (CLK.DPLL_UNLOCK_THR d) * 1000 < e.natAbs) ∧ ((s.dpll d).bad = 7)) ∧
    (∃ (s : State) (d : Nat) (err : Int),
      let st := fun (t : State) => t.get (CLK.DPLL_STATE d);
      let sel := s.get (CLK.DPLL_SEL_REF d);
      let e := err - s.phaseTarget d sel err;
      (d < 4) ∧ (s.on CLK.XO_OK = true) ∧ (s.on (CLK.DPLL_ENABLE d) = true) ∧ (s.held = []) ∧ (st s = 1) ∧
      (e.natAbs ≤ s.get (CLK.DPLL_LOCK_THR d) * 1000) ∧ (s.get (CLK.DPLL_BW d) ≤ (s.bwCodes d sel).2) ∧
      (s.dwellUs d (s.get (CLK.DPLL_BW d)) * (s.compareRate sel).1 ≤ ((s.dpll d).dwell + 1) * 1000000 * (s.compareRate sel).2)) ∧
    (∃ (s : State) (d : Nat),
      let st := fun (t : State) => t.get (CLK.DPLL_STATE d);
      let aim := (s.dpll d).target + s.steer d;
      let f := clampInt (aim - s.pullMax d) (aim + s.pullMax d) (slew1ppm (s.geti (CLK.DPLL_FREQ d)) aim);
      (d < 4) ∧ (s.on CLK.XO_OK = true) ∧ (s.on (CLK.DPLL_ENABLE d) = true) ∧ (s.held = []) ∧ (st s = 3) ∧ (f.natAbs < 2 ^ 31)) ∧
    (∃ (s : State) (d : Nat) (r : Nat), (d < 4) ∧ (s.on CLK.XO_OK = true) ∧ (s.on (CLK.DPLL_ENABLE d) = true) ∧ (s.held = []) ∧ (r < 8) ∧
      (s.selectable d r = true)) ∧
    (∃ (s : State) (d : Nat), (d < 4) ∧ (s.on CLK.XO_OK = true) ∧ (s.on (CLK.DPLL_ENABLE d) = true) ∧ (s.held = [])) ∧
    (∃ (s : State) (d : Nat), (d < 4) ∧ (s.on CLK.XO_OK = true) ∧ (s.on (CLK.DPLL_ENABLE d) = true) ∧ (s.held = [])) :=
  ⟨⟨up [(CLK.XO_OK, 1), (CLK.DPLL_ENABLE 2, 1), (CLK.REF_ENABLE 3, 1), (CLK.REF_ACTIVE 3, 1), (CLK.REF_QSTATE 3, 3), (CLK.DPLL_RANK 2 3, 1)], 2,
      1, 3, by (dsimp only; decide +kernel)⟩,
   ⟨dpllAt 2 [(CLK.DPLL_UNLOCK_THR 2, 100)], 2, 99999, by (dsimp only; decide +kernel)⟩,
   ⟨{ dpllAt 2 [(CLK.DPLL_UNLOCK_THR 2, 100)] with clk := { State.reset.clk with dplls := State.reset.clk.dplls.setIfInBounds 2 { DpllState.reset with bad := 7, held := some 0 } } }, 2, 100001, by (dsimp only; decide +kernel)⟩,
   ⟨{ dpllAt 1 [(CLK.DPLL_BW 2, 4)] with clk := { State.reset.clk with dplls := State.reset.clk.dplls.setIfInBounds 2 { DpllState.reset with dwell := 100000000, held := some 0 } } }, 2, 3, by (dsimp only; decide +kernel)⟩,
   ⟨dpllAt 3 [], 2, by (dsimp only; decide +kernel)⟩,
   ⟨dpllAt 2 [(CLK.REF_ENABLE 3, 1), (CLK.REF_ACTIVE 3, 1), (CLK.REF_QSTATE 3, 3), (CLK.DPLL_RANK 2 3, 1)], 2, 3, by decide +kernel⟩,
   ⟨(dpllAt 2 [(CLK.REF_ENABLE 3, 1), (CLK.REF_ACTIVE 3, 1), (CLK.REF_QSTATE 3, 3)]), 2, by decide +kernel⟩,
   ⟨(dpllAt 2 [(CLK.REF_ENABLE 3, 1), (CLK.REF_ACTIVE 3, 1), (CLK.REF_QSTATE 3, 1)]), 2, by decide +kernel⟩⟩

theorem meets_DpllAndOutputSettings :
    (∃ (s : State) (d : Nat) (n : Nat) (m : Nat) (r : Req), (d < 4) ∧ (n < 4) ∧ (m < 2 ^ 16) ∧ (s.barred 0x0304 r = none)) ∧
    (∃ (s : State) (d : Nat) (n : Nat) (m : Nat) (r : Req), (d < 4) ∧ (n < 4) ∧ (m < 2 ^ 16) ∧ (s.barred 0x0305 r = none) ∧ (s.held = []) ∧
      (s.on (CLK.DPLL_ENABLE d) = true) ∧ (s.on CLK.XO_OK = true)) ∧
    (∃ (s : State) (d : Nat) (n : Nat) (k : Nat) (m : Nat) (r : Req), (d < 4) ∧ (n < 4) ∧ (m < 2 ^ 16) ∧ (s.barred 0x0306 r = none) ∧
      (k < 2 ^ 32)) ∧
    (∃ (s : State) (d : Nat) (n : Nat) (k : Nat) (m : Nat) (r : Req), (d < 4) ∧ (n < 4) ∧ (m < 2 ^ 16) ∧ (s.barred 0x0307 r = none) ∧
      (s.on (CLK.WCLK_EN n) = false) ∧ (k ≤ 3)) ∧
    (∃ (s : State) (d : Nat) (n : Nat) (k : Nat) (m : Nat) (r : Req), (d < 4) ∧ (n < 4) ∧ (m < 2 ^ 16) ∧ (s.barred 0x0307 r = none) ∧
      (s.on (CLK.WCLK_EN n) = true) ∧ (k ≤ 3) ∧ (k ≠ s.get (CLK.WCLK_SRC n))) ∧
    (∃ (s : State) (d : Nat) (n : Nat) (k : Nat) (m : Nat) (r : Req), (d < 4) ∧ (n < 4) ∧ (m < 2 ^ 16) ∧ (s.barred 0x0308 r = none) ∧ (k ≤ 31)) ∧
    (∃ (s : State) (d : Nat) (n : Nat) (m : Nat) (v : Word), (d < 4) ∧ (n < 4) ∧ (m < 2 ^ 16) ∧ (s.busOpen (0xA0400 + 0x80 * d)) ∧ (d ≠ 0) ∧
      (s.on (CLK.DPLL_ENABLE d) = false) ∧ (v.toNat.testBit 31 = true)) ∧
    (∃ (s : State) (d : Nat) (n : Nat) (m : Nat) (v : Word), (d < 4) ∧ (n < 4) ∧ (m < 2 ^ 16) ∧ (s.busOpen (0xA0400 + 0x80 * d)) ∧
      ((d = 0 ∨ v.toNat % 2 = s.get (CLK.DPLL_FAMILY d))) ∧ (s.held = [])) ∧
    (∃ (s : State) (d : Nat) (n : Nat) (m : Nat), (d < 4) ∧ (n < 4) ∧ (m < 2 ^ 16) ∧ (s.busOpen 0xA0814)) ∧
    (∃ (s : State) (d : Nat) (n : Nat) (m : Nat), (d < 4) ∧ (n < 4) ∧ (m < 2 ^ 16) ∧ (s.busOpen (0xA0800 + 4 * n)) ∧
      (s.on (CLK.WCLK_EN n) = false)) ∧
    (∃ (s : State) (d : Nat) (n : Nat) (m : Nat), (d < 4) ∧ (n < 4) ∧ (m < 2 ^ 16) ∧ (s.busOpen 0xA0810) ∧ (s.on CLK.PPS_EN = false)) ∧
    (∃ (s : State) (d : Nat) (n : Nat) (k : Nat) (m : Nat), (d < 4) ∧ (n < 4) ∧ (m < 2 ^ 16) ∧ (k ≤ 4) ∧ (s.bit CLK.OUT_ALIGN_PEND k = true)) :=
  ⟨⟨up [], 2, 3, 0xFFFF, q3, by decide +kernel⟩,
   ⟨dpllAt 2 [], 2, 0, 0, q3, by decide +kernel⟩,
   ⟨dpllAt 2 [], 2, 0, 0xFFFFFFFF, 0, q3, by decide +kernel⟩,
   ⟨up [], 0, 3, 3, 0, q3, by decide +kernel⟩,
   ⟨up [(CLK.WCLK_EN 3, 1)], 0, 3, 3, 0, q3, by decide +kernel⟩,
   ⟨up [], 0, 0, 31, 0, q3, by decide +kernel⟩,
   ⟨up [(CLK.XO_OK, 1)], 2, 0, 0, 0x80000001#32, by decide +kernel⟩,
   ⟨dpllAt 2 [], 2, 0, 0, 0x80000510#32, by decide +kernel⟩,
   ⟨up [(CLK.OUT_ALIGN_PEND, 2)], 0, 0, 0, by decide +kernel⟩,
   ⟨up [], 0, 3, 0, by decide +kernel⟩,
   ⟨up [], 0, 0, 0, by decide +kernel⟩,
   ⟨up [(CLK.OUT_ALIGN_PEND, 0x1F), (CLK.OUT_MISALIGNED, 0x1F)], 0, 0, 4, 0, by decide +kernel⟩⟩

/-- A broadcast ARP frame of 64 bytes. -/
def arpFrame : List Byte := be 6 0xFFFFFFFFFFFF ++ be 6 0x020000000001 ++ be 2 0x0806 ++ List.replicate 50 0#8

/-- A PAUSE frame of 0x1234 quanta. -/
def pauseBytes : List Byte := be 6 0x0180C2000001 ++ be 6 0x020000000001 ++ be 2 0x8808 ++ be 2 1 ++ be 2 0x1234 ++ List.replicate 46 0#8

/-- Port p has its link, and holds what `f` adds. -/
def linked (p : Nat) (f : PortState → PortState) (l : List (Fld × Nat)) : State :=
  (up ((PORT.LINK_UP p, 1) :: l)).setPort p (f { PortState.reset with link := 2 })

/-- A Delay_Req of port 1. -/
def msgOut : PtpSent := State.reset.ptpMake 1 2 3 0 0 0

theorem meets_FramesThroughAPort :
    (∃ (s : State) (p : Nat) (w : WireFrame),
      let h := headers w.bytes;
      let max := lenEff (s.get (PORT.RX_MAX_LEN p));
      let up := s.on (PORT.LINK_UP p) = true ∧ s.held = [];
      let start := s.frameStart p w.bytes.length;
      let room := (s.port p).fillAt start + max ≤ rxBuffer p;
      (p ≤ 3) ∧ (s.boot.dormant = false) ∧ (up) ∧ (room) ∧ (s.rxStatus p w h = Rx.ok)) ∧
    (∃ (s : State) (p : Nat) (w : WireFrame),
      let h := headers w.bytes;
      let max := lenEff (s.get (PORT.RX_MAX_LEN p));
      let up := s.on (PORT.LINK_UP p) = true ∧ s.held = [];
      let start := s.frameStart p w.bytes.length;
      let room := (s.port p).fillAt start + max ≤ rxBuffer p;
      (p ≤ 3) ∧ (s.boot.dormant = false) ∧ (up) ∧ (¬ room) ∧ (s.rxStatus p w h = Rx.ok)) ∧
    (∃ (s : State) (p : Nat) (w : WireFrame),
      let h := headers w.bytes;
      let max := lenEff (s.get (PORT.RX_MAX_LEN p));
      let up := s.on (PORT.LINK_UP p) = true ∧ s.held = [];
      let start := s.frameStart p w.bytes.length;
      let room := (s.port p).fillAt start + max ≤ rxBuffer p;
      (p ≤ 3) ∧ (s.boot.dormant = false) ∧ (up) ∧ (room) ∧ (s.rxStatus p w h = Rx.pause) ∧ (s.get (PORT.PAUSE_MODE p) ≠ 0) ∧
      (s.on (PORT.TX_PAUSED p) = false)) ∧
    (∃ (s : State) (p : Nat) (f : RxFrame) (rest : List RxFrame),
      let c := s.protoClass p (headers f.bytes);
      let atHead := (s.port p).rx = f :: rest ∧ f.status = Rx.ok ∧ (headers f.bytes).tagged = false ∧ (headers f.bytes).etype ≠ 0x8808 ∧
        (p < 2 → s.claim p (headers f.bytes) = none) ∧ s.filterOk p (headers f.bytes).dst = true;
      (p ≤ 3) ∧ (s.boot.dormant = false) ∧ (atHead) ∧ (s.destOf p c = 1) ∧
      (s.hasRoom (3 + p) (itemEntries (frameItem f (rxFlags 0 false false false) c)).length = true)) ∧
    (∃ (s : State) (p : Nat) (f : RxFrame) (rest : List RxFrame),
      let c := s.protoClass p (headers f.bytes);
      let atHead := (s.port p).rx = f :: rest ∧ f.status = Rx.ok ∧ (headers f.bytes).tagged = false ∧ (headers f.bytes).etype ≠ 0x8808 ∧
        (p < 2 → s.claim p (headers f.bytes) = none) ∧ s.filterOk p (headers f.bytes).dst = true;
      (p ≤ 3) ∧ (s.boot.dormant = false) ∧ (atHead) ∧ (s.destOf p c = 0)) ∧
    (∃ (s : State) (p : Nat) (q : Nat) (qs : List Nat),
      let up := s.on (PORT.LINK_UP p) = true ∧ s.held = [];
      (p ≤ 3) ∧ (s.boot.dormant = false) ∧ (up) ∧ ((s.port p).pauses = q :: qs)) ∧
    (∃ (s : State) (p : Nat) (m : PtpFrame) (ms : List PtpFrame),
      let up := s.on (PORT.LINK_UP p) = true ∧ s.held = [];
      (p ≤ 3) ∧ (s.boot.dormant = false) ∧ (up) ∧ ((s.port p).pauses = []) ∧ ((s.port p).ptp = m :: ms) ∧ (m.msg.port = p) ∧ (p < 2) ∧
      (s.streamDue p = false) ∧ (s.pausedStream p = false) ∧ (s.guardOk p (m.msg.bytes.length + 4) = true)) ∧
    (∃ (s : State) (p : Nat) (g : TxFrame) (more : List TxFrame),
      let up := s.on (PORT.LINK_UP p) = true ∧ s.held = [];
      (p ≤ 3) ∧ (s.boot.dormant = false) ∧ (up) ∧ ((s.port p).pauses = []) ∧ ((s.port p).ptp = []) ∧ ((s.port p).service = g :: more) ∧
      (g.host = none) ∧ (g.segment = false) ∧ (g.lastSeg = false) ∧ (s.streamDue p = false) ∧ (s.pausedOthers p = false) ∧
      (s.guardOk p (g.bytes.length + 4) = true) ∧ (s.dma.items = [])) ∧
    (∃ (s : State) (p : Nat), (p ≤ 3) ∧ (s.boot.dormant = false) ∧ ((s.port p).pausing = true) ∧ (s.on (PORT.TX_PAUSE_EN p) = true) ∧
      (64 * s.get (PORT.XON p) < s.get (PORT.RX_FILL p))) ∧
    (∃ (s : State) (p : Nat), (p ≤ 3) ∧ (s.boot.dormant = false) ∧ (s.on (PORT.TX_PAUSED p) = true)) ∧
    (∃ (s : State) (p : Nat), (p ≤ 3) ∧ (s.boot.dormant = false) ∧ (s.on (PORT.TX_PAUSED p) = true) ∧ (s.get (PORT.PAUSE_ALARM p) ≠ 0)) ∧
    (∃ (s : State) (p : Nat), (p ≤ 3) ∧ (s.boot.dormant = false) ∧ (p < 2) ∧ (s.get (PORT.LINE_MODE p) = 0) ∧ (s.on (PORT.FEC_EN p) = true) ∧
      (s.on (PORT.PORT_EN p) = true)) ∧
    (∃ (s : State) (p : Nat), (p ≤ 3) ∧ (s.boot.dormant = false) ∧ (p < 2) ∧ (s.get (PORT.LINE_MODE p) = 0) ∧ (s.on (PORT.FEC_EN p) = true) ∧
      (s.on (PORT.PORT_EN p) = true)) :=
  ⟨⟨linked 0 id [], 0, ⟨arpFrame, false, true, 70000000⟩, by (dsimp only; decide +kernel)⟩,
   ⟨linked 0 (fun x => { x with fills := [(0, 262000)] }) [(PORT.RX_FILL 0, 262000)], 0, ⟨arpFrame, false, true, 70000000⟩,
      by (dsimp only; decide +kernel)⟩,
   ⟨linked 0 id [(PORT.PAUSE_MODE 0, 1)], 0, ⟨pauseBytes, false, true, 70000000⟩, by (dsimp only; decide +kernel)⟩,
   ⟨linked 0 (fun x => { x with rx := [⟨arpFrame, 70000000, Rx.ok, false⟩] }) [(PORT.RX_FILL 0, 64)], 0, ⟨arpFrame, 70000000, Rx.ok, false⟩, [],
      by (dsimp only; decide +kernel)⟩,
   ⟨linked 0 (fun x => { x with rx := [⟨arpFrame, 70000000, Rx.ok, false⟩] }) [(PORT.RX_FILL 0, 64), (PORT.DISPATCH 0, 0)], 0, ⟨arpFrame,
      70000000, Rx.ok, false⟩, [], by (dsimp only; decide +kernel)⟩,
   ⟨linked 3 (fun x => { x with pauses := [7, 0] }) [], 3, 7, [0], by (dsimp only; decide +kernel)⟩,
   ⟨linked 1 (fun x => { x with ptp := [⟨msgOut, false⟩] }) [], 1, ⟨msgOut, false⟩, [], by (dsimp only; decide +kernel)⟩,
   ⟨linked 3 (fun x => { x with service := [⟨arpFrame.take 60, none, false, false, false⟩] }) [], 3, ⟨arpFrame.take 60, none, false, false,
      false⟩, [], by (dsimp only; decide +kernel)⟩,
   ⟨linked 3 (fun x => { x with pausing := true }) [(PORT.TX_PAUSE_EN 3, 1), (PORT.XON 3, 1), (PORT.RX_FILL 3, 65)], 3, by decide +kernel⟩,
   ⟨linked 3 (fun x => { x with timer := 8 }) [(PORT.TX_PAUSED 3, 1)], 3, by decide +kernel⟩,
   ⟨linked 3 (fun x => { x with timer := 8 }) [(PORT.TX_PAUSED 3, 1), (PORT.PAUSE_ALARM 3, 1)], 3, by decide +kernel⟩,
   ⟨linked 1 id [(PORT.LINE_MODE 1, 0), (PORT.FEC_EN 1, 1), (PORT.PORT_EN 1, 1)], 1, by decide +kernel⟩,
   ⟨linked 1 id [(PORT.LINE_MODE 1, 0), (PORT.FEC_EN 1, 1), (PORT.PORT_EN 1, 1)], 1, by decide +kernel⟩⟩

theorem meets_LinksAndPortSettings :
    (∃ (s : State) (p : Nat),
      let finds := (s.port p).link = 1 ∧ s.boot.down.contains (3, if p < 2 then 3 + p else p - 1) = false;
      (p ≤ 3) ∧ (s.get SYS.STATUS_STEP < 11) ∧ (finds)) ∧
    (∃ (s : State) (p : Nat),
      let finds := (s.port p).link = 1 ∧ s.boot.down.contains (3, if p < 2 then 3 + p else p - 1) = false;
      (p ≤ 3) ∧ (11 ≤ s.get SYS.STATUS_STEP) ∧ (finds)) ∧
    (∃ (s : State) (p : Nat) (cause : Nat), (p ≤ 3) ∧ (cause ≤ 1) ∧ ((s.port p).link = 2) ∧ (s.on (PORT.LINK_UP p) = true)) ∧
    (∃ (s : State) (p : Nat) (r : Req) (pl : List Tlv),
      let named := Params.val pl 1 = p;
      (p ≤ 3) ∧ (s.refuses r 0x0401 portSetParams pl = none) ∧ (named) ∧
      (pl.all (fun z => !(portLacks p z.ty || (z.ty == 3 && !modeOk p z.val))) = true) ∧ (s.noStart 5 p = false) ∧
      ((s.portIdle p = true ∨ changesStatic s pl (portSetFlds p) = none))) ∧
    (∃ (s : State) (p : Nat) (r : Req) (pl : List Tlv),
      let named := Params.val pl 1 = p;
      (p ≤ 3) ∧ (s.refuses r 0x0401 portSetParams pl = none) ∧ (named) ∧ (pl = [⟨1, 1, p⟩, ⟨2, 1, 1⟩]) ∧ ((s.port p).link = 0) ∧
      (s.on (PORT.PORT_EN p) = false) ∧ (s.noStart 5 p = false) ∧ (s.on (PORT.TX_PAUSE_EN p) = false) ∧ ((s.port p).pausing = false)) ∧
    (∃ (s : State) (p : Nat) (v : Word),
      let w := v.toNat;
      (p ≤ 3) ∧ (s.busOpen (0x40000 + 0x10000 * p)) ∧ ((s.port p).link = 0) ∧ (s.on (PORT.PORT_EN p) = false) ∧ (s.noStart 5 p = false) ∧
      (w % 2 = 1) ∧ (modeOk p (w / 2 % 8) = true)) ∧
    (∃ (s : State) (p : Nat) (v : Word),
      let w := v.toNat;
      (p ≤ 3) ∧ (s.busOpen (0x40000 + 0x10000 * p)) ∧ ((s.port p).link ≠ 0) ∧ (s.on (PORT.PORT_EN p) = true) ∧ (w % 2 = 1) ∧
      (w.testBit 13 = true) ∧ (modeOk p (w / 2 % 8) = true)) ∧
    (∃ (s : State) (p : Nat) (e : Nat) (r : Req) (pl : List Tlv),
      let named := Params.val pl 1 = p;
      (p ≤ 3) ∧ (s.refuses r 0x0403 [preq 1 1 0 3, preq 2 1 16 31, popt 3 6 0 (2 ^ 48 - 1), popt 4 1 0 1] pl = none) ∧ (named) ∧
      (Params.val pl 2 = e)) ∧
    (∃ (s : State) (p : Nat) (r : Req) (pl : List Tlv),
      let named := Params.val pl 1 = p;
      (p ≤ 3) ∧ (s.refuses r 0x0404 [preq 1 1 0 3, preq 2 1 0 11, preq 3 1 0 3] pl = none) ∧ (named) ∧ (s.fixedClass p (Params.val pl 2) = none)) ∧
    (∃ (s : State) (p : Nat) (r : Req) (pl : List Tlv),
      let named := Params.val pl 1 = p;
      (p ≤ 3) ∧ (s.refuses r 0x0404 [preq 1 1 0 3, preq 2 1 0 11, preq 3 1 0 3] pl = none) ∧ (named) ∧
      ((s.fixedClass p (Params.val pl 2)).isSome = true)) ∧
    (∃ (s : State) (p : Nat) (e : Nat) (r : Req) (pl : List Tlv), (p ≤ 3) ∧
      (s.refuses r 0x0406 [popt 1 1 0 1, popt 2 1 0 1, popt 3 1 0 1, popt 4 1 0 1, popt 5 6 0 (2 ^ 48 - 1), popt 6 1 0 7,
      popt 7 128 0 (2 ^ 1024 - 1), popt 8 16 0 (2 ^ 128 - 1), popt 9 1 0 1] pl = none) ∧ ((Params.has pl 6 = true ∨ (Params.has pl 7 = false ∧
      Params.has pl 8 = false ∧ Params.has pl 9 = false))) ∧ (Params.val pl 6 = e)) :=
  ⟨⟨(up [(SYS.STATUS_STEP, 10)]).setPort 3 { PortState.reset with link := 1 }, 3, by (dsimp only; decide +kernel)⟩,
   ⟨(up [(PORT.LINE_MODE 3, 3)]).setPort 3 { PortState.reset with link := 1 }, 3, by (dsimp only; decide +kernel)⟩,
   ⟨linked 3 (fun x => { x with pauses := [7] }) [], 3, 1, by decide +kernel⟩,
   ⟨up [], 3, q3, [⟨1, 1, 3⟩, ⟨2, 1, 1⟩, ⟨3, 1, 3⟩, ⟨12, 1, 1⟩, ⟨19, 4, 0xFFFFFFFF⟩], by (dsimp only; decide +kernel)⟩,
   ⟨up [], 3, q3, [⟨1, 1, 3⟩, ⟨2, 1, 1⟩], by (dsimp only; decide +kernel)⟩,
   ⟨up [], 0, 0x1#32, by (dsimp only; decide +kernel)⟩,
   ⟨linked 0 id [(PORT.PORT_EN 0, 1)], 0, 0x2001#32, by (dsimp only; decide +kernel)⟩,
   ⟨up [], 1, 31, q3, [⟨1, 1, 1⟩, ⟨2, 1, 31⟩, ⟨3, 6, 0x010203040506⟩, ⟨4, 1, 1⟩], by (dsimp only; decide +kernel)⟩,
   ⟨up [], 1, q3, [⟨1, 1, 1⟩, ⟨2, 1, 11⟩, ⟨3, 1, 3⟩], by (dsimp only; decide +kernel)⟩,
   ⟨up [], 1, q3, [⟨1, 1, 1⟩, ⟨2, 1, 9⟩, ⟨3, 1, 1⟩], by (dsimp only; decide +kernel)⟩,
   ⟨up [], 2, 7, q3, [⟨1, 1, 1⟩, ⟨5, 6, 0x010203040506⟩, ⟨6, 1, 7⟩, ⟨9, 1, 1⟩, ⟨8, 16, 5⟩], by decide +kernel⟩⟩

/-- The state a command leads to. -/
def after (o : Out) : State := match o with | .next t => t | _ => State.reset

/-- Receive stream 5: two channels of L24, 6 samples a packet, on leg A. -/
def rxSet (l : List (Fld × Nat)) : State :=
  up ([(RXE.LEG_VALID 5 0, 1), (RXE.CHANNELS 5, 2), (RXE.SPP 5, 6), (RXE.ENC 5, 1), (RXE.LEG_DEST_IP 5 0 0, 0xEF010203),
    (RXE.LEG_UDP_DPORT 5 0, 5004), (TIME.STATUS_MEDIA_VALID, 1), (PAIR.STATUS_DRIVE, 1)] ++ l)

/-- Transmit stream 5, of the same shape. -/
def txSet (l : List (Fld × Nat)) : State :=
  up ([(TXE.LEG_VALID 5 0, 1), (TXE.CHANNELS 5, 2), (TXE.SPP 5, 6), (TXE.ENC 5, 1), (TXE.LEG_DEST_IP 5 0 0, 0xEF010203),
    (TXE.LEG_DEST_MAC_LO 5 0, 7), (TIME.STATUS_MEDIA_VALID, 1), (PAIR.STATUS_DRIVE, 1)] ++ l)

/-- Receive stream 5 runs, one second after time zero. -/
def rxOn : State := { after (execStreamRxSet q3 [⟨1, 2, 5⟩, ⟨2, 1, 1⟩] (rxSet [])) with ctr := ctrPerSec }

/-- Transmit stream 5 runs, one second after time zero. -/
def txOn : State := { after (execStreamTxSet q3 [⟨1, 2, 5⟩, ⟨2, 1, 1⟩] (txSet [])) with ctr := ctrPerSec }

/-- A packet of that receive stream. -/
def rtpBytes (ver : Nat) : List Byte := be 1 (64 * ver) ++ be 1 96 ++ be 2 9 ++ be 4 48000 ++ be 4 1 ++ List.replicate 36 1#8

/-- Its frame without the FCS. -/
def rtpFrame (ver : Nat) : List Byte :=
  ethHdr 7 9 none 0x0800 ++ ip4Bytes 1 0xEF010203 17 64 0 0 (udpBytes 4 1 0xEF010203 5004 5004 false (rtpBytes ver))

/-- That packet in Hammer 2. -/
def inHammer (ver : Nat) : Flight := ⟨2, 0, 0, 5, 0, 0, rtpFrame ver, 65536000000000, 0, 0, crc32c (rtpFrame ver)⟩

/-- A packet of the transmit stream in Hammer 2. -/
def outHammer : Flight := ⟨2, 0, 1, 5, 0, 0, List.replicate 48 1#8, 0, 48000, 3, 7⟩

/-- A frame that waits for its launch one second after time zero. -/
def toLaunch : LaunchFrame := ⟨1000000000, 5, 0, rtpFrame 2, crc32c (rtpBytes 2)⟩

def withFlights (s : State) (l : List Flight) : State := { s with strm := { s.strm with flights := l } }

/-- Its ring holds the row that the next boundary fetches. -/
def rxFull : State :=
  let s := rxOn.set (RXE.PLACED_ONCE 5) 1
  let f := fun (x : RxRun) => { x with ring := { x.ring with cells := [(47905 % x.ring.rows, ⟨1, 47905 / x.ring.rows % 64, [1, 2], false, false, [], rowSeal 5 47905 [1, 2]⟩)] } }
  { s with strm := { s.strm with rx := s.strm.rx.map f } }

theorem meets_StreamsAreSetAndEnabled :
    (∃ (s : State) (r : Req) (i : Nat) (enc : Nat) (ssrc : Nat) (lanes : List Nat),
      let may := fun (dir : Nat) => (s.entry dir i).on = false ∧ s.enableCheck dir i = (0, 0) ∧ s.pickLanes dir i = some lanes ∧
        ∀ j ∈ lanes, j < 16;
      (i < 512) ∧ (enc ≤ 3) ∧ (ssrc < 2 ^ 32) ∧ (s.barred 0x0501 r = none) ∧ (may 0)) ∧
    (∃ (s : State) (r : Req) (i : Nat) (enc : Nat) (ssrc : Nat) (lanes : List Nat),
      let may := fun (dir : Nat) => (s.entry dir i).on = false ∧ s.enableCheck dir i = (0, 0) ∧ s.pickLanes dir i = some lanes ∧
        ∀ j ∈ lanes, j < 16;
      (i < 512) ∧ (enc ≤ 3) ∧ (ssrc < 2 ^ 32) ∧ (s.barred 0x0502 r = none) ∧ (may 1)) ∧
    (∃ (s : State) (r : Req) (i : Nat) (enc : Nat) (ssrc : Nat), (i < 512) ∧ (enc ≤ 3) ∧ (ssrc < 2 ^ 32) ∧ (s.barred 0x0501 r = none) ∧
      ((s.entry 0 i).on = false)) ∧
    (∃ (s : State) (r : Req) (i : Nat) (enc : Nat) (ssrc : Nat), (i < 512) ∧ (enc ≤ 3) ∧ (ssrc < 2 ^ 32) ∧ (s.barred 0x0502 r = none) ∧
      ((s.entry 1 i).on = false)) ∧
    (∃ (s : State) (r : Req) (i : Nat) (enc : Nat) (ssrc : Nat), (i < 512) ∧ (enc ≤ 3) ∧ (ssrc < 2 ^ 32) ∧ (s.barred 0x0502 r = none) ∧
      ((s.entry 1 i).on = true) ∧ (ssrc ≠ s.get (TXE.SSRC i))) ∧
    (∃ (s : State) (r : Req) (i : Nat) (enc : Nat) (ssrc : Nat) (lanes : List Nat) (dir : Nat),
      let may := fun (dir : Nat) => (s.entry dir i).on = false ∧ s.enableCheck dir i = (0, 0) ∧ s.pickLanes dir i = some lanes ∧
        ∀ j ∈ lanes, j < 16;
      (i < 512) ∧ (enc ≤ 3) ∧ (ssrc < 2 ^ 32) ∧ (dir ≤ 1) ∧ (s.barred 0x0503 r = none) ∧ (may dir)) ∧
    (∃ (s : State) (i : Nat) (enc : Nat) (ssrc : Nat) (table : Nat) (w : Nat), (i < 512) ∧ (enc ≤ 3) ∧ (ssrc < 2 ^ 32) ∧ (table < 4) ∧ (w < 32) ∧
      (s.busOpen 0xC0300)) ∧
    (∃ (s : State) (i : Nat) (enc : Nat) (ssrc : Nat), (i < 512) ∧ (enc ≤ 3) ∧ (ssrc < 2 ^ 32) ∧ (s.busOpen 0xC0300) ∧
      ((s.entry 0 i).on = false) ∧ ((s.get (STRM.TBL_DATA 0)).testBit 31 = false)) ∧
    (∃ (s : State) (i : Nat) (enc : Nat) (ssrc : Nat), (i < 512) ∧ (enc ≤ 3) ∧ (ssrc < 2 ^ 32) ∧ (s.busOpen 0xC0300)) ∧
    (∃ (s : State) (i : Nat) (enc : Nat) (ssrc : Nat) (x : TxRun), (i < 512) ∧ (enc ≤ 3) ∧ (ssrc < 2 ^ 32) ∧ (s.txRun i = some x) ∧
      (s.on TIME.STATUS_MEDIA_VALID = true) ∧ (x.nextM = none) ∧ (x.stopAt = none)) ∧
    (∃ (s : State) (i : Nat) (enc : Nat) (ssrc : Nat) (l : Nat), (i < 512) ∧ (enc ≤ 3) ∧ (ssrc < 2 ^ 32) ∧ (l < 2) ∧ (i ∈ s.streams 0) ∧
      (l ∈ s.legs 0 i) ∧ (s.on (upFld i l) = true)) ∧
    (∃ (s : State) (r : Req) (i : Nat) (enc : Nat) (ssrc : Nat) (c : Nat) (blk : Nat), (i < 512) ∧ (enc ≤ 3) ∧ (ssrc < 2 ^ 32) ∧
      (s.barred 0x0509 r = none) ∧ (c ≤ 255) ∧ (blk < 2 ^ 192)) :=
  ⟨⟨rxSet [], q3, 5, 0, 0, [0], by (dsimp only; decide +kernel)⟩,
   ⟨txSet [], q3, 5, 0, 0, [0], by (dsimp only; decide +kernel)⟩,
   ⟨rxSet [], q3, 5, 3, 0, by decide +kernel⟩,
   ⟨txSet [], q3, 5, 0, 0xFFFFFFFF, by decide +kernel⟩,
   ⟨txOn, q3, 5, 0, 7, by decide +kernel⟩,
   ⟨rxSet [], q3, 5, 0, 0, [0], 0, by (dsimp only; decide +kernel)⟩,
   ⟨rxSet [], 5, 0, 0, 3, 31, by decide +kernel⟩,
   ⟨(rxSet []).set (STRM.TBL_DATA 9) 0x1234, 5, 0, 0, by decide +kernel⟩,
   ⟨up [(RXC.PLACED 5 0, 9)], 5, 0, 0, by decide +kernel⟩,
   ⟨txOn, 5, 0, 0, ⟨5, none, 0, 0, none⟩, by decide +kernel⟩,
   ⟨rxOn.set (RXE.LEG_A_UP 5) 1, 5, 0, 0, 0, by decide +kernel⟩,
   ⟨up [], q3, 5, 0, 0, 255, 0x010203, by decide +kernel⟩⟩

theorem meets_PacketsPlacedAndSent :
    (∃ (s : State) (h : Nat) (f : Flight) (x : RxRun),
      let dir := fun (k : Nat) => s.strm.flights.find? (fun f => f.hammer == h && f.dir == k) = some f;
      let valid := s.on TIME.STATUS_MEDIA_VALID = true;
      let run := s.runOf f = some x ∧ x.stream = f.stream ∧ x.closing = false ∧ f.crc = crc32c f.payload ∧ valid;
      let rtp := rtpOf (udpPayload f.payload (headers f.payload));
      (s.held = []) ∧ (dir 0) ∧ (run) ∧ (s.injecting 0 = false) ∧ (s.rtpOk f.stream rtp = false)) ∧
    (∃ (s : State) (h : Nat) (f : Flight) (x : RxRun),
      let dir := fun (k : Nat) => s.strm.flights.find? (fun f => f.hammer == h && f.dir == k) = some f;
      let valid := s.on TIME.STATUS_MEDIA_VALID = true;
      let run := s.runOf f = some x ∧ x.stream = f.stream ∧ x.closing = false ∧ f.crc = crc32c f.payload ∧ valid;
      let rtp := rtpOf (udpPayload f.payload (headers f.payload));
      let e := s.entry 0 f.stream;
      let mt := s.packetTime f.stream e.k f.stamp rtp.ts;
      let cmp := s.on (RXE.COMPARE f.stream);
      let a := s.placeFrames f.stream e cmp (s.get (RXE.EARLY_WIN f.stream)) s.media (s.fetchD (s.get (RXE.GROUP f.stream))) (fun _ => false) ⟨if cmp then (x.ring.compareUe e.ch mt []).1 else x.ring, x.cs, 0, 0, 0, none⟩ mt (sampleFrames e.enc e.ch e.spp rtp.pay);
      (s.held = []) ∧ (dir 0) ∧ (run) ∧ (s.injecting 0 = false) ∧ (s.rtpOk f.stream rtp = true) ∧ ((x.leg f.leg).seq = none) ∧
      ((x.leg f.leg).ssrc = none) ∧ (s.on (upFld f.stream f.leg) = true) ∧
      ((mt + e.spp - 1) / (e.k : Int) ≤ s.media + s.get (RXE.EARLY_WIN f.stream)) ∧ (0 < a.wrote) ∧ (a.mism = 0)) ∧
    (∃ (s : State) (i : Nat) (d : Nat) (x : RxRun),
      let k := (s.entry 0 i).k;
      let got := s.fetchPeriod ((List.range k).map (fun j => (k * (s.media + 1 - d) + j, ([], false)))) x;
      (s.held = []) ∧ (s.streams 0 = [i]) ∧ (s.rxRun i = some x) ∧ (x.maxB = none) ∧ (s.on (RXE.PLACED_ONCE i) = true) ∧
      (s.on (RXE.STARVED i) = false) ∧ (s.injecting 1 = false) ∧ (d = s.fetchD (s.get (RXE.GROUP i))) ∧ (d ≤ s.media + 1) ∧ (got.2.1 = 0)) ∧
    (∃ (s : State) (i : Nat) (p : Nat) (m : Nat) (y : TxRun), (s.held = []) ∧ (s.txRun i = some y) ∧ (y.nextM = some m) ∧ (y.stopAt = none) ∧
      (y.stream = i) ∧ (s.on TIME.STATUS_MEDIA_VALID = true) ∧ (s.anvil.ran = some p) ∧ ((m + (s.entry 1 i).spp - 1) / (s.entry 1 i).k ≤ p) ∧
      ((∀ l ∈ s.liveLegs 1 i, s.held8 (s.txHammer i l) = false)) ∧ (s.injecting 8 = false) ∧ (s.seals.marks = []) ∧
      ((∀ r ∈ s.packetRows i m, (s.stageLost r.1 r.2 || s.stageWrong r.1 r.2 || s.anvil.rowUe.contains r) = false))) ∧
    (∃ (s : State) (h : Nat) (p : Nat) (f : Flight),
      let dir := fun (k : Nat) => s.strm.flights.find? (fun f => f.hammer == h && f.dir == k) = some f;
      let valid := s.on TIME.STATUS_MEDIA_VALID = true;
      (s.held = []) ∧ (dir 1) ∧ (valid) ∧ (s.get (TXE.LEG_PORT f.stream f.leg) = p) ∧ (p < 2) ∧ (s.on (PORT.LINK_UP p) = true) ∧
      (s.legMac f.stream f.leg ≠ 0) ∧ ((s.streamFrame f.stream f.leg f.payload).length + 4 ≤ lenEff (s.get (PORT.TX_MAX_LEN p))) ∧
      (((s.port p).stream.map (fun y => y.bytes.length + 4)).sum + (s.streamFrame f.stream f.leg f.payload).length + 4 ≤ 65536)) ∧
    (∃ (s : State) (p : Nat) (g : LaunchFrame) (rest : List LaunchFrame) (raw : Int),
      let valid := s.on TIME.STATUS_MEDIA_VALID = true;
      (s.held = []) ∧ (p < 2) ∧ (valid) ∧ ((s.port p).stream = g :: rest) ∧ (g.wrong = false) ∧
      (raw + s.geti (TIME.PORT_TX_LAT p) - (g.launch : Int) * 65536 ≤ ((s.packetNs g.stream * 65536 : Nat) : Int)) ∧
      (s.on (PORT.LINK_UP p) = true) ∧ (s.pausedStream p = false) ∧ (s.mayDrive = true) ∧ (s.injecting 13 = false)) ∧
    (∃ (s : State) (p : Nat) (g : LaunchFrame),
      let stale := fun (o : LaunchFrame) => decide (o.launch + s.packetNs o.stream ≤ s.nowNs);
      (s.held = []) ∧ (p < 2) ∧ ((s.port p).stream.filter stale = [g]) ∧ (s.mayDrive = true)) :=
  ⟨⟨withFlights rxOn [inHammer 1], 2, inHammer 1, (rxOn.rxRun 5).getD ⟨5, ⟨0, 0, [], []⟩, ⟨none, none⟩, ⟨none, none⟩, 0, none, [], false⟩,
      by (dsimp only; decide +kernel)⟩,
   ⟨withFlights (rxOn.set (RXE.LEG_A_UP 5) 1) [inHammer 2], 2, inHammer 2, (rxOn.rxRun 5).getD ⟨5, ⟨0, 0, [], []⟩, ⟨none, none⟩, ⟨none, none⟩, 0,
      none, [], false⟩, by (dsimp only; decide +kernel)⟩,
   ⟨rxFull, 5, 96, (rxFull.rxRun 5).getD ⟨5, ⟨0, 0, [], []⟩, ⟨none, none⟩, ⟨none, none⟩, 0, none, [], false⟩, by (dsimp only; decide +kernel)⟩,
   ⟨{ txOn with anvil := { txOn.anvil with ran := some 48000, passes := (List.range 48).map (· + 47000) }, strm := { txOn.strm with tx := [⟨5, some 47000, 3, 0, none⟩] } }, 5, 48000, 47000, ⟨5, some 47000, 3, 0, none⟩, by decide +kernel⟩,
   ⟨(withFlights txOn [outHammer]).set (PORT.LINK_UP 0) 1, 2, 0, outHammer, by (dsimp only; decide +kernel)⟩,
   ⟨(txOn.set (PORT.LINK_UP 0) 1).setPort 0 { PortState.reset with link := 2, stream := [toLaunch] }, 0, toLaunch, [], 65536000000007,
      by (dsimp only; decide +kernel)⟩,
   ⟨(txOn.set (PORT.LINK_UP 0) 1).setPort 0 { PortState.reset with link := 2, stream := [{ toLaunch with launch := 5 }] }, 0,
      { toLaunch with launch := 5 }, by (dsimp only; decide +kernel)⟩⟩

theorem meets_HammersFailAndHandOver :
    (∃ (s : State) (h : Nat) (u : Nat) (j : Nat),
      let role := fun (t : State) (k : Nat) => t.get (STRM.HAMMER_ROLE k);
      (h ≤ 16) ∧ (u ≤ 16) ∧ (j < 16) ∧ (role s h ≠ 4) ∧ (s.strm.flights.any (fun f => f.hammer == h) = true)) ∧
    (∃ (s : State) (h : Nat) (u : Nat) (j : Nat) (cause : Nat),
      let role := fun (t : State) (k : Nat) => t.get (STRM.HAMMER_ROLE k);
      (h ≤ 16) ∧ (u ≤ 16) ∧ (j < 16) ∧ (role s h ≠ 4) ∧ (1 ≤ cause) ∧ (cause ≤ 5)) ∧
    (∃ (s : State) (r : Req) (h : Nat) (u : Nat) (j : Nat),
      let role := fun (t : State) (k : Nat) => t.get (STRM.HAMMER_ROLE k);
      (h ≤ 16) ∧ (u ≤ 16) ∧ (j < 16) ∧ (role s h ≠ 4) ∧ (s.barred 0x0507 r = none)) ∧
    (∃ (s : State) (h : Nat) (u : Nat) (j : Nat),
      let role := fun (t : State) (k : Nat) => t.get (STRM.HAMMER_ROLE k);
      (h ≤ 16) ∧ (u ≤ 16) ∧ (j < 16) ∧ (s.spareOf 0 = some u) ∧ (role s u = 1) ∧ (s.get (STRM.LANE_MAP j) = h) ∧ (role s h = 0) ∧
      ((s.setRun 0).handover = false)) ∧
    (∃ (s : State) (h : Nat) (u : Nat) (j : Nat),
      let role := fun (t : State) (k : Nat) => t.get (STRM.HAMMER_ROLE k);
      (h ≤ 16) ∧ (u ≤ 16) ∧ (j < 16) ∧ (role s h = 3) ∧ (s.strm.flights.any (fun f => f.hammer == h) = false) ∧ (s.test.run = none) ∧
      (s.schedules = false)) ∧
    (∃ (s : State) (r : Req) (h : Nat) (u : Nat) (j : Nat),
      let role := fun (t : State) (k : Nat) => t.get (STRM.HAMMER_ROLE k);
      (h ≤ 16) ∧ (u ≤ 16) ∧ (j < 16) ∧ (s.barred 0x0508 r = none) ∧ (role s h = 4) ∧ (s.inService = true) ∧ (s.passedSinceQ 0 h = true) ∧
      ((∀ k, k < 16 → s.get (STRM.LANE_MAP k) ≠ 0x1F)) ∧ (s.spareOf 0 = none) ∧ ((s.setRun 0).handover = false)) :=
  ⟨⟨withFlights (up []) [inHammer 2], 2, 16, 2, by (dsimp only; decide +kernel)⟩,
   ⟨withFlights (up []) [inHammer 2], 2, 16, 2, 5, by (dsimp only; decide +kernel)⟩,
   ⟨withFlights (up []) [inHammer 2], q3, 2, 16, 2, by (dsimp only; decide +kernel)⟩,
   ⟨up [], 2, 16, 2, by (dsimp only; decide +kernel)⟩,
   ⟨up [(STRM.HAMMER_ROLE 2, 3), (STRM.HAMMER_ROLE 16, 0)], 2, 0, 0, by (dsimp only; decide +kernel)⟩,
   ⟨up [(STRM.HAMMER_ROLE 2, 4), (STRM.HAMMER_ROLE 16, 0), (LIFE.STATUS_LC_STATE, 4), (TEST.REC_PASSED_SINCE_Q (tRec 0 2), 1), (STRM.LANE_MAP 2,
      16)], q3, 2, 0, 0, by (dsimp only; decide +kernel)⟩⟩

/-- An item of 40 bytes: its header entry and three more. -/
def item40 : QItem := ⟨List.replicate 16 1#8, List.replicate 40 2#8⟩

/-- Queue 2 holds this. -/
def withQueue (s : State) (x : Queue) : State := { s with que := { s.que with queues := s.que.queues.setIfInBounds 2 x } }

/-- Queue 2 with one entry popped, a mark, and an entry ready. -/
def popped2 : State := withQueue (up [(QUE.Q_EN 2, 1), (QUE.Q_CAP 2, 64)]) ⟨[⟨.cont, false⟩, ⟨.cont, false⟩], [⟨.head item40, false⟩, ⟨.cont, false⟩], some 1⟩

theorem meets_QueueOperations :
    (∃ (s : State) (q : Nat) (it : QItem), (q ≤ 10) ∧ ((q = 0 → s.bellowsOf 0 = none)) ∧ (s.hasRoom q (itemEntries it).length = true)) ∧
    (∃ (s : State) (q : Nat) (e : QEntry) (rest : List QEntry),
      let x := s.queue q;
      let sound := fun l : List QEntry => (∀ e ∈ l, e.lost = false) ∧ (s.absent 7 = true → l.length ≤ 32);
      (q ≤ 10) ∧ ((q = 0 → s.bellowsOf 0 = none)) ∧ (x.ready = e :: rest) ∧ (e.isGap = false) ∧ (s.poppable q = true) ∧ (sound rest)) ∧
    (∃ (s : State) (q : Nat) (e : QEntry) (rest : List QEntry) (c : Nat) (f : Nat),
      let x := s.queue q;
      let sound := fun l : List QEntry => (∀ e ∈ l, e.lost = false) ∧ (s.absent 7 = true → l.length ≤ 32);
      (q ≤ 10) ∧ ((q = 0 → s.bellowsOf 0 = none)) ∧ (x.ready = e :: rest) ∧ (e.cell = .gap c f) ∧ (s.poppable q = true) ∧ (sound rest)) ∧
    (∃ (s : State) (q : Nat) (e : QEntry) (rest : List QEntry),
      let x := s.queue q;
      let sound := fun l : List QEntry => (∀ e ∈ l, e.lost = false) ∧ (s.absent 7 = true → l.length ≤ 32);
      let once := (s.queueCycle q).dropped = none;
      (q ≤ 10) ∧ ((q = 0 → s.bellowsOf 0 = none)) ∧ (x.ready = e :: rest) ∧ (e.isGap = false) ∧ (x.mark = none) ∧ (s.poppable q = true) ∧
      (once) ∧ (sound rest)) ∧
    (∃ (s : State) (q : Nat),
      let x := s.queue q;
      let sound := fun l : List QEntry => (∀ e ∈ l, e.lost = false) ∧ (s.absent 7 = true → l.length ≤ 32);
      let once := (s.queueCycle q).dropped = none;
      (q ≤ 10) ∧ ((q = 0 → s.bellowsOf 0 = none)) ∧ (s.poppable q = false) ∧ (x.mark = none) ∧ (once) ∧ (sound x.ready)) ∧
    (∃ (s : State) (q : Nat), (q ≤ 10) ∧ ((q = 0 → s.bellowsOf 0 = none))) ∧
    (∃ (s : State) (q : Nat) (m : Nat),
      let x := s.queue q;
      (q ≤ 10) ∧ ((q = 0 → s.bellowsOf 0 = none)) ∧ (x.mark = some m)) ∧
    (∃ (s : State) (q : Nat),
      let x := s.queue q;
      let sound := fun l : List QEntry => (∀ e ∈ l, e.lost = false) ∧ (s.absent 7 = true → l.length ≤ 32);
      let once := (s.queueCycle q).dropped = none;
      (q ≤ 10) ∧ ((q = 0 → s.bellowsOf 0 = none)) ∧ (once) ∧ (sound x.ready)) :=
  ⟨⟨up [(QUE.Q_EN 2, 1), (QUE.Q_CAP 2, 4)], 2, item40, by decide +kernel⟩,
   ⟨popped2, 2, ⟨.head item40, false⟩, [⟨.cont, false⟩], by (dsimp only; decide +kernel)⟩,
   ⟨withQueue (up [(QUE.Q_EN 2, 1)]) ⟨[], [⟨.gap 3 4, false⟩], none⟩, 2, ⟨.gap 3 4, false⟩, [], 3, 4, by (dsimp only; decide +kernel)⟩,
   ⟨withQueue (up [(QUE.Q_EN 2, 1), (QUE.Q_CAP 2, 64)]) ⟨[⟨.cont, false⟩], [⟨.head item40, false⟩, ⟨.cont, false⟩], none⟩, 2, ⟨.head item40,
      false⟩, [⟨.cont, false⟩], by (dsimp only; decide +kernel)⟩,
   ⟨withQueue (up [(QUE.Q_EN 2, 1), (QUE.Q_CAP 2, 64)]) ⟨[⟨.cont, false⟩], [], none⟩, 2, by (dsimp only; decide +kernel)⟩,
   ⟨popped2, 2, by decide +kernel⟩,
   ⟨popped2, 2, 1, by (dsimp only; decide +kernel)⟩,
   ⟨popped2, 2, by (dsimp only; decide +kernel)⟩⟩

theorem meets_QueueAndBellowsSettings :
    (∃ (s : State) (r : Req) (q : Nat) (cap : Nat) (lvl : Nat) (b : Nat) (hi : Nat) (lo : Nat), (0 < q) ∧ (q ≤ 10) ∧ (cap < 2 ^ 16) ∧
      (lvl < 2 ^ 16) ∧ (b ≤ 7) ∧ (hi < 2 ^ 16) ∧ (lo < 2 ^ 16) ∧ (s.barred 0x0123 r = none) ∧ (s.on (QUE.Q_EN q) = false) ∧
      (s.capSum q true cap ≤ 65536)) ∧
    (∃ (s : State) (r : Req) (q : Nat) (cap : Nat) (lvl : Nat) (b : Nat) (hi : Nat) (lo : Nat), (0 < q) ∧ (q ≤ 10) ∧ (cap < 2 ^ 16) ∧
      (lvl < 2 ^ 16) ∧ (b ≤ 7) ∧ (hi < 2 ^ 16) ∧ (lo < 2 ^ 16) ∧ (s.barred 0x0123 r = none) ∧ (s.on (QUE.Q_EN q) = false) ∧
      (65536 < s.capSum q true cap)) ∧
    (∃ (s : State) (r : Req) (q : Nat) (cap : Nat) (lvl : Nat) (b : Nat) (hi : Nat) (lo : Nat), (0 < q) ∧ (q ≤ 10) ∧ (cap < 2 ^ 16) ∧
      (lvl < 2 ^ 16) ∧ (b ≤ 7) ∧ (hi < 2 ^ 16) ∧ (lo < 2 ^ 16) ∧ (s.barred 0x0125 r = none) ∧ (s.on (QUE.BLW_EN b) = false) ∧
      (s.boundElsewhere b q = false)) ∧
    (∃ (s : State) (q : Nat) (cap : Nat) (lvl : Nat) (b : Nat) (hi : Nat) (lo : Nat) (v : Word), (0 < q) ∧ (q ≤ 10) ∧ (cap < 2 ^ 16) ∧
      (lvl < 2 ^ 16) ∧ (b ≤ 7) ∧ (hi < 2 ^ 16) ∧ (lo < 2 ^ 16) ∧ (s.busOpen (0x101000 + 0x40 * q)) ∧ (s.on (QUE.Q_EN q) = false) ∧
      (s.capSum q (v.toNat.testBit 31) (v.toNat % 2 ^ 16) ≤ 65536)) ∧
    (∃ (s : State) (q : Nat) (cap : Nat) (lvl : Nat) (b : Nat) (hi : Nat) (lo : Nat) (v : Word), (0 < q) ∧ (q ≤ 10) ∧ (cap < 2 ^ 16) ∧
      (lvl < 2 ^ 16) ∧ (b ≤ 7) ∧ (hi < 2 ^ 16) ∧ (lo < 2 ^ 16) ∧ (s.busOpen (0x100800 + 0x20 * b)) ∧ (s.on (QUE.BLW_EN b) = false) ∧
      (s.boundElsewhere b (v.toNat % 16) = false)) :=
  ⟨⟨up [(QUE.Q_EN 10, 0)], q3, 10, 64, 0xFFFF, 7, 0, 0, by decide +kernel⟩,
   ⟨up [(QUE.Q_EN 10, 0)], q3, 10, 0xFFFF, 5, 0, 0, 0, by decide +kernel⟩,
   ⟨up [], q3, 10, 0, 0, 7, 0xFFFF, 3, by decide +kernel⟩,
   ⟨up [(QUE.Q_EN 2, 0)], 2, 0, 0, 0, 0, 0, 0x80000040#32, by decide +kernel⟩,
   ⟨up [], 2, 0, 0, 7, 0, 0, 0x80000002#32, by decide +kernel⟩⟩

theorem meets_BankFailureAndHandover :
    (∃ (s : State) (h : Nat) (u : Nat), (h ≤ 8) ∧ (u ≤ 8) ∧ (s.on QUE.SCRUB_EN = true) ∧ (s.get (QUE.BANK_ROLE h) = 0)) ∧
    (∃ (s : State) (h : Nat) (u : Nat), (h ≤ 8) ∧ (u ≤ 8) ∧ (s.on QUE.SCRUB_EN = true) ∧ (s.get (QUE.BANK_ROLE h) = 0) ∧
      (s.get QUE.UE_FAULT_N = 0)) ∧
    (∃ (s : State) (h : Nat) (u : Nat), (h ≤ 8) ∧ (u ≤ 8) ∧ (s.get (QUE.BANK_ROLE h) ≠ 4)) ∧
    (∃ (s : State) (h : Nat) (u : Nat) (cause : Nat), (h ≤ 8) ∧ (u ≤ 8) ∧ (s.get (QUE.BANK_ROLE h) ≠ 4) ∧ (1 ≤ cause) ∧ (cause ≤ 4)) ∧
    (∃ (s : State) (r : Req) (h : Nat) (u : Nat), (h ≤ 8) ∧ (u ≤ 8) ∧ (s.barred 0x0121 r = none) ∧ (s.get (QUE.BANK_ROLE h) ≠ 4)) ∧
    (∃ (s : State) (r : Req) (h : Nat) (u : Nat), (h ≤ 8) ∧ (u ≤ 8) ∧ (s.barred 0x0121 r = none) ∧ (s.get (QUE.BANK_ROLE h) = 4)) ∧
    (∃ (s : State) (h : Nat) (u : Nat), (h ≤ 8) ∧ (u ≤ 8) ∧ (s.spareOf 1 = some u) ∧ (s.get (QUE.BANK_ROLE u) = 1) ∧
      (s.get (QUE.BANK_ROLE h) = 0) ∧ (s.que.handover = none)) ∧
    (∃ (s : State) (h : Nat) (u : Nat) (x : Handover),
      let ends := fun x : Handover => s.que.handover = some x ∧ x.src ≤ 8 ∧ x.dst ≤ 8 ∧ x.src ≠ x.dst ∧ x.lbank < 8 ∧ s.test.run = none ∧
        s.schedules = false;
      (h ≤ 8) ∧ (u ≤ 8) ∧ (ends x)) ∧
    (∃ (s : State) (h : Nat) (u : Nat) (ue : List Nat) (x : Handover),
      let ends := fun x : Handover => s.que.handover = some x ∧ x.src ≤ 8 ∧ x.dst ≤ 8 ∧ x.src ≠ x.dst ∧ x.lbank < 8 ∧ s.test.run = none ∧
        s.schedules = false;
      (h ≤ 8) ∧ (u ≤ 8) ∧ (ends x) ∧ (ue ≠ []) ∧ (s.get QUE.UE_FAULT_N = 0)) ∧
    (∃ (s : State) (r : Req) (h : Nat) (u : Nat) (j : Nat), (h ≤ 8) ∧ (u ≤ 8) ∧ (s.barred 0x0122 r = none) ∧ (s.get (QUE.BANK_ROLE h) = 4) ∧
      (s.inService = true) ∧ (s.passedSinceQ 1 h = true) ∧ ((∀ j, j < 8 → s.absent j = false)) ∧ (s.spareOf 1 = none) ∧ (s.que.handover = none)) ∧
    (∃ (s : State) (r : Req) (h : Nat) (u : Nat) (j : Nat), (h ≤ 8) ∧ (u ≤ 8) ∧ (s.barred 0x0122 r = none) ∧ (s.get (QUE.BANK_ROLE h) = 4) ∧
      (s.inService = true) ∧ (s.passedSinceQ 1 h = true) ∧ ((List.range 8).find? s.absent = some j)) ∧
    (∃ (s : State) (h : Nat) (u : Nat) (i : Nat), (h ≤ 8) ∧ (u ≤ 8) ∧
      (s.strm.flights.any (fun f => f.dir == 0 && f.stream == i && (f.seq == 1 || (s.rxRun i).isNone)) = false)) :=
  ⟨⟨up [(QUE.SCRUB_EN, 1)], 3, 0, by decide +kernel⟩,
   ⟨up [(QUE.SCRUB_EN, 1), (QUE.UE_FAULT_N, 0)], 3, 0, by decide +kernel⟩,
   ⟨up [], 3, 8, by decide +kernel⟩,
   ⟨up [], 3, 8, 4, by decide +kernel⟩,
   ⟨up [(QUE.BANK_ROLE 8, 4)], q3, 3, 8, by decide +kernel⟩,
   ⟨up [(QUE.BANK_ROLE 3, 4)], q3, 3, 0, by decide +kernel⟩,
   ⟨up [], 3, 8, by decide +kernel⟩,
   ⟨{ up [] with que := { State.reset.que with handover := some ⟨3, 8, 3, 0, 0, []⟩ } }, 0, 0, ⟨3, 8, 3, 0, 0, []⟩,
      by (dsimp only; decide +kernel)⟩,
   ⟨{ up [(QUE.UE_FAULT_N, 0)] with que := { State.reset.que with handover := some ⟨3, 8, 3, 0, 0, []⟩ } }, 0, 0, [7, 9], ⟨3, 8, 3, 0, 0, []⟩,
      by (dsimp only; decide +kernel)⟩,
   ⟨up [(QUE.BANK_ROLE 3, 4), (QUE.BANK_ROLE 8, 0), (LIFE.STATUS_LC_STATE, 4), (TEST.REC_PASSED_SINCE_Q (tRec 1 3), 1), (QUE.BANK_MAP 3, 8)], q3,
      3, 0, 0, by decide +kernel⟩,
   ⟨up [(QUE.BANK_ROLE 3, 4), (QUE.BANK_ROLE 8, 0), (LIFE.STATUS_LC_STATE, 4), (TEST.REC_PASSED_SINCE_Q (tRec 1 3), 1), (QUE.STATUS_ABSENT_MAP,
      8)], q3, 3, 0, 3, by decide +kernel⟩,
   ⟨{ up [] with strm := { State.reset.strm with rx := [⟨5, ⟨32, 32, [1, 2], []⟩, ⟨none, none⟩, ⟨none, none⟩, 0, none, [], true⟩] } }, 0, 0, 5,
      by decide +kernel⟩⟩

/-- A request of channel 3 that may take the fast path. -/
def q3Direct : Req := { q3 with direct := true }

/-- Commits that wait. -/
def withCommits (s : State) (l : List Commit) : State := { s with anvil := { s.anvil with commits := l } }

def noFacts : PassFacts := ⟨[], [], [], [], [], 0, [], [], []⟩

/-- A commit of one entry whose pass has come. -/
def commitOf (e : TblEntry) : Commit := ⟨1, [e], 0, 0, 3, none, []⟩

theorem meets_DirectCommandsCommit :
    (∃ (s : State) (r : Req) (d src g n dith k i : Nat), (d ≤ 6151) ∧ (src ≤ 8191) ∧ (n ≤ 1023) ∧ (dith ≤ 1) ∧ (k ≤ 1) ∧ (i < tblLimit k) ∧
      (g < 2 ^ 23 ∨ (2 ^ 32 - 2 ^ 23 ≤ g ∧ g < 2 ^ 32)) ∧ (s.mirrors = false) ∧ (s.isFast r = true) ∧
      (((s.anvil.commits.filter (fun c => c.list == 2)).map (fun c => c.entries.length)).sum < 1024) ∧
      (((s.count CMD.DIRECT).future.applyEntries (s.count CMD.DIRECT).future
        [⟨0, d, 2 ^ 31 + dith * 2 ^ 30 + src, g % 2 ^ 24, n, false, none⟩]).tblCheck.1 = 0) ∧ (s.barred 0x0601 r = none) ∧
      (s.barred 0x0602 r = none) ∧ (s.barred 0x0603 r = none)) ∧
    (∃ (s : State) (r : Req) (d src g n dith k i : Nat), (d ≤ 6151) ∧ (src ≤ 8191) ∧ (n ≤ 1023) ∧ (dith ≤ 1) ∧ (k ≤ 1) ∧ (i < tblLimit k) ∧
      (g < 2 ^ 23 ∨ (2 ^ 32 - 2 ^ 23 ≤ g ∧ g < 2 ^ 32)) ∧ (s.mirrors = false) ∧ (s.isFast r = true) ∧
      (((s.anvil.commits.filter (fun c => c.list == 2)).map (fun c => c.entries.length)).sum < 1024) ∧
      (((s.count CMD.DIRECT).future.applyEntries (s.count CMD.DIRECT).future
        [⟨0, d, 2 ^ 31 + dith * 2 ^ 30 + src, g % 2 ^ 24, n, false, none⟩]).tblCheck.1 ≠ 0) ∧ (s.barred 0x0601 r = none) ∧
      (s.barred 0x0602 r = none) ∧ (s.barred 0x0603 r = none)) ∧
    (∃ (s : State) (r : Req) (d src g n dith k i : Nat), (d ≤ 6151) ∧ (src ≤ 8191) ∧ (n ≤ 1023) ∧ (dith ≤ 1) ∧ (k ≤ 1) ∧ (i < tblLimit k) ∧
      (g < 2 ^ 23 ∨ (2 ^ 32 - 2 ^ 23 ≤ g ∧ g < 2 ^ 32)) ∧ (s.mirrors = false) ∧ (s.isFast r = false) ∧ (s.barred 0x0601 r = none) ∧
      (s.barred 0x0602 r = none) ∧ (s.barred 0x0603 r = none)) :=
  ⟨⟨up [], q3Direct, 6151, 8191, 0xFF800000, 1023, 1, 1, 16383, by decide +kernel⟩,
   ⟨up [(BUS.TERM_COUNT 255, 65)], q3Direct, 6151, 8191, 0xFF800000, 1023, 1, 1, 16383, by decide +kernel⟩,
   ⟨up [], q3, 6151, 8191, 0x7FFFFF, 0, 0, 0, 6151, by decide +kernel⟩⟩

theorem meets_SealSettings :
    (∃ (s : State) (r : Req) (h : Nat) (ps : Nat) (i : Nat) (n : Nat), (h < 256) ∧ (ps < 2) ∧ (i < 16) ∧ (1 ≤ n) ∧ (n < 256) ∧
      (s.barred 0x0131 r = none) ∧ (s.playRuns = false)) ∧
    (∃ (s : State) (r : Req) (h : Nat) (ps : Nat) (i : Nat) (n : Nat), (h < 256) ∧ (ps < 2) ∧ (i < 16) ∧ (1 ≤ n) ∧ (n < 256) ∧
      (s.barred 0x0131 r = none) ∧ (s.playRuns = true) ∧ (ps ≠ s.get SYS.SEAL_PLAY_HOST_SEAL)) ∧
    (∃ (s : State) (r : Req) (h : Nat) (ps : Nat) (i : Nat) (n : Nat), (h < 256) ∧ (ps < 2) ∧ (i < 16) ∧ (1 ≤ n) ∧ (n < 256) ∧
      (s.barred 0x0132 r = none) ∧ (s.inService = true) ∧ (s.get SYS.SEAL_INJ_LEFT = 0)) ∧
    (∃ (s : State) (r : Req) (h : Nat) (ps : Nat) (i : Nat) (n : Nat), (h < 256) ∧ (ps < 2) ∧ (i < 16) ∧ (1 ≤ n) ∧ (n < 256) ∧
      (s.barred 0x0132 r = none) ∧ (s.inService = false ∨ 0 < s.get SYS.SEAL_INJ_LEFT)) :=
  ⟨⟨up [], q3, 255, 1, 0, 1, by decide +kernel⟩,
   ⟨up [(DMA.PLAY_STATE 63, 1)], q3, 255, 0, 0, 1, by decide +kernel⟩,
   ⟨up [(LIFE.STATUS_LC_STATE, 4)], q3, 0, 0, 15, 255, by decide +kernel⟩,
   ⟨up [(LIFE.STATUS_LC_STATE, 3)], q3, 0, 0, 15, 255, by decide +kernel⟩⟩

theorem meets_FabricSettings :
    (∃ (s : State) (r : Req) (b : Nat) (en : Nat) (tier : Nat) (src : Nat) (g : Nat) (n : Nat) (d : Nat) (dith : Nat) (i : Nat) (mode : Nat) (len : Nat) (rlen : Nat) (typ : Nat) (inc : Nat) (amp : Nat) (per : Nat),
      let base := s.get (BUS.TERM_BASE b);
      let term : TblEntry := ⟨1, base, src, g % 2 ^ 24, n, false, none⟩;
      let bus : TblEntry := ⟨2, b, en * 2 ^ 31 + tier * 2 ^ 24 + 2 ^ 16 + base, 0, 0, false, none⟩;
      (b ≤ 255) ∧ (en ≤ 1) ∧ (tier ≤ 3) ∧ (src ≤ 8191) ∧ (n ≤ 1023) ∧ (d ≤ 6151) ∧ (dith ≤ 1) ∧ (i ≤ 511) ∧ (mode ≤ 3) ∧ (len ≤ 1023) ∧
      (rlen ≤ 1023) ∧ (typ ≤ 7) ∧ (inc < 2 ^ 32) ∧ (per < 2 ^ 16) ∧ ((g < 2 ^ 23 ∨ (2 ^ 32 - 2 ^ 23 ≤ g ∧ g < 2 ^ 32))) ∧
      ((amp < 2 ^ 23 ∨ (2 ^ 32 - 2 ^ 23 ≤ amp ∧ amp < 2 ^ 32))) ∧ (s.barred 0x0604 r = none) ∧ (s.anvil.commits = []) ∧ (s.mirrors = false) ∧
      (1 ≤ s.get (BUS.TERM_COUNT b)) ∧ ((s.applyEntries s [term, bus]).tblCheck.1 = 0)) ∧
    (∃ (s : State) (r : Req) (b : Nat) (en : Nat) (tier : Nat) (src : Nat) (g : Nat) (n : Nat) (d : Nat) (dith : Nat) (i : Nat) (mode : Nat) (len : Nat) (rlen : Nat) (typ : Nat) (inc : Nat) (amp : Nat) (per : Nat), (b ≤ 255) ∧ (en ≤ 1) ∧ (tier ≤ 3) ∧ (src ≤ 8191) ∧ (n ≤ 1023) ∧ (d ≤ 6151) ∧ (dith ≤ 1) ∧ (i ≤ 511) ∧ (mode ≤ 3) ∧ (len ≤ 1023) ∧ (rlen ≤ 1023) ∧ (typ ≤ 7) ∧ (inc < 2 ^ 32) ∧ (per < 2 ^ 16) ∧ ((g < 2 ^ 23 ∨ (2 ^ 32 - 2 ^ 23 ≤ g ∧ g < 2 ^ 32))) ∧ ((amp < 2 ^ 23 ∨ (2 ^ 32 - 2 ^ 23 ≤ amp ∧ amp < 2 ^ 32))) ∧ (s.barred 0x0605 r = none) ∧ (s.mirrors = false)) ∧
    (∃ (s : State) (r : Req) (b : Nat) (en : Nat) (tier : Nat) (src : Nat) (g : Nat) (n : Nat) (d : Nat) (dith : Nat) (i : Nat) (mode : Nat) (len : Nat) (rlen : Nat) (typ : Nat) (inc : Nat) (amp : Nat) (per : Nat) (k : Nat) (x : Nat), (b ≤ 255) ∧ (en ≤ 1) ∧ (tier ≤ 3) ∧ (src ≤ 8191) ∧ (n ≤ 1023) ∧ (d ≤ 6151) ∧ (dith ≤ 1) ∧ (i ≤ 511) ∧ (mode ≤ 3) ∧ (len ≤ 1023) ∧ (rlen ≤ 1023) ∧ (typ ≤ 7) ∧ (inc < 2 ^ 32) ∧ (per < 2 ^ 16) ∧ ((g < 2 ^ 23 ∨ (2 ^ 32 - 2 ^ 23 ≤ g ∧ g < 2 ^ 32))) ∧ ((amp < 2 ^ 23 ∨ (2 ^ 32 - 2 ^ 23 ≤ amp ∧ amp < 2 ^ 32))) ∧ (k ≤ 63) ∧ (s.barred 0x0607 r = none) ∧ (3 ≤ x) ∧ (x ≤ s.d80) ∧ ((x ≤ s.d20 ∨ s.units 0 ≤ 512)) ∧ (s.anvil.align.any (fun a => a.group == k) = false) ∧ ((s.groupStreams k).all (fun j => (s.rxRun j).all (fun y => decide (x + s.get (RXE.EARLY_WIN j) + 2 ≤ y.ring.len))) = true)) ∧
    (∃ (s : State) (r : Req) (b : Nat) (en : Nat) (tier : Nat) (src : Nat) (g : Nat) (n : Nat) (d : Nat) (dith : Nat) (i : Nat) (mode : Nat) (len : Nat) (rlen : Nat) (typ : Nat) (inc : Nat) (amp : Nat) (per : Nat), (b ≤ 255) ∧ (en ≤ 1) ∧ (tier ≤ 3) ∧ (src ≤ 8191) ∧ (n ≤ 1023) ∧ (d ≤ 6151) ∧ (dith ≤ 1) ∧ (i ≤ 511) ∧ (mode ≤ 3) ∧ (len ≤ 1023) ∧ (rlen ≤ 1023) ∧ (typ ≤ 7) ∧ (inc < 2 ^ 32) ∧ (per < 2 ^ 16) ∧ ((g < 2 ^ 23 ∨ (2 ^ 32 - 2 ^ 23 ≤ g ∧ g < 2 ^ 32))) ∧ ((amp < 2 ^ 23 ∨ (2 ^ 32 - 2 ^ 23 ≤ amp ∧ amp < 2 ^ 32))) ∧ (s.barred 0x0608 r = none)) ∧
    (∃ (s : State) (r : Req) (b : Nat) (en : Nat) (tier : Nat) (src : Nat) (g : Nat) (n : Nat) (d : Nat) (dith : Nat) (i : Nat) (mode : Nat) (len : Nat) (rlen : Nat) (typ : Nat) (inc : Nat) (amp : Nat) (per : Nat) (k : Nat), (b ≤ 255) ∧ (en ≤ 1) ∧ (tier ≤ 3) ∧ (src ≤ 8191) ∧ (n ≤ 1023) ∧ (d ≤ 6151) ∧ (dith ≤ 1) ∧ (i ≤ 511) ∧ (mode ≤ 3) ∧ (len ≤ 1023) ∧ (rlen ≤ 1023) ∧ (typ ≤ 7) ∧ (inc < 2 ^ 32) ∧ (per < 2 ^ 16) ∧ ((g < 2 ^ 23 ∨ (2 ^ 32 - 2 ^ 23 ≤ g ∧ g < 2 ^ 32))) ∧ ((amp < 2 ^ 23 ∨ (2 ^ 32 - 2 ^ 23 ≤ amp ∧ amp < 2 ^ 32))) ∧ (k ≤ 15) ∧ (s.barred 0x0609 r = none)) :=
  ⟨⟨up [(BUS.TERM_COUNT 255, 1), (BUS.TERM_BASE 255, 16383)], q3, 255, 1, 0, 7, 0xFF800000, 1023, 0, 0, 0, 0, 0, 0, 0, 0, 0, 0,
      by (dsimp only; decide +kernel)⟩,
   ⟨up [], q3, 0, 1, 0, 8191, 0x7FFFFF, 5, 6151, 1, 0, 0, 0, 0, 0, 0, 0, 0, by decide +kernel⟩,
   ⟨{ up [] with ctr := 1000 }, q3, 0, 0, 0, 0, 0, 0, 0, 0, 0, 0, 0, 0, 0, 0, 0, 0, 63, 3, by decide +kernel⟩,
   ⟨up [], q3, 0, 0, 0, 0, 0, 0, 0, 0, 511, 3, 1023, 1023, 0, 0, 0, 0, by decide +kernel⟩,
   ⟨up [], q3, 0, 1, 0, 0, 0, 0, 0, 0, 0, 0, 0, 0, 7, 0xFFFFFFFF, 0xFF800001, 0xFFFF, 15, by decide +kernel⟩⟩

theorem meets_HostBatchAndApplication :
    (∃ (s : State) (table : Nat) (i : Nat), (table < 3) ∧ (i < tblLimit table) ∧ (s.busOpen 0x141000)) ∧
    (∃ (s : State) (table : Nat) (i : Nat),
      let e : TblEntry := ⟨table, i, s.get (ANVIL.TBL_DATA 0), s.get (ANVIL.TBL_DATA 1), s.get (ANVIL.TBL_DATA 2), false, none⟩;
      (table < 3) ∧ (i < tblLimit table) ∧ (s.busOpen 0x141000) ∧ (s.on ANVIL.BATCH_COMMIT_PENDING = false) ∧
      ((putEntry s.anvil.host e).length ≤ 1024)) ∧
    (∃ (s : State) (table : Nat) (i : Nat), (table < 3) ∧ (i < tblLimit table) ∧ (s.busOpen 0x141004) ∧
      (s.on ANVIL.BATCH_COMMIT_PENDING = false) ∧ (s.anvil.host ≠ [])) ∧
    (∃ (s : State) (table : Nat) (i : Nat), (table < 3) ∧ (i < tblLimit table) ∧ (s.busOpen 0x141004) ∧ (s.on ANVIL.BATCH_COMMIT_PENDING = false)) ∧
    (∃ (s : State) (table : Nat) (i : Nat) (c : Commit) (d : Nat) (w0 : Nat) (w1 : Nat) (w2 : Nat),
      let due := s.anvil.commits = [c] ∧ c.due ≤ s.nextPass ∧ 0 < c.list ∧ c.more = [] ∧ c.reply = none ∧ s.cmd.inflight = [];
      (table < 3) ∧ (i < tblLimit table) ∧ (due) ∧ (c.entries = [⟨0, d, w0, w1, w2, false, none⟩]) ∧ (d < 6152) ∧ (eEn w0 = true) ∧
      (s.on (ROUTE.EN d) = false) ∧ (s.tblCheck.1 = 0)) ∧
    (∃ (s : State) (table : Nat) (i : Nat) (c : Commit),
      let u : State := { s with anvil := { s.anvil with commits := [] } };
      let due := s.anvil.commits = [c] ∧ c.due ≤ s.nextPass ∧ 0 < c.list ∧ c.more = [] ∧ c.reply = none ∧ s.cmd.inflight = [];
      (table < 3) ∧ (i < tblLimit table) ∧ (due) ∧ ((u.applyEntries u c.entries).tblCheck.1 ≠ 0)) :=
  ⟨⟨up [(ROUTE.EN 6151, 1), (ROUTE.GAIN 6151, 0x123456)], 0, 6151, by decide +kernel⟩,
   ⟨up [(ANVIL.TBL_DATA 0, 5)], 1, 16383, by (dsimp only; decide +kernel)⟩,
   ⟨{ up [] with anvil := { State.reset.anvil with host := [⟨0, 5, 0, 0, 0, false, none⟩] } }, 0, 0, by decide +kernel⟩,
   ⟨{ up [(ANVIL.BATCH_PEND_COUNT, 1)] with anvil := { State.reset.anvil with host := [⟨0, 5, 0, 0, 0, false, none⟩] } }, 0, 0, by decide +kernel⟩,
   ⟨withCommits (up []) [commitOf ⟨0, 6151, 0xC0000007, 0xFFFFFF, 0x3FF, false, none⟩], 0, 0, commitOf ⟨0, 6151, 0xC0000007, 0xFFFFFF, 0x3FF,
      false, none⟩, 6151, 0xC0000007, 0xFFFFFF, 0x3FF, by (dsimp only; decide +kernel)⟩,
   ⟨withCommits (up []) [commitOf ⟨2, 5, 0x80500000, 0, 0, false, none⟩], 0, 0, commitOf ⟨2, 5, 0x80500000, 0, 0, false, none⟩,
      by (dsimp only; decide +kernel)⟩⟩

theorem meets_PassComputesRoutes :
    (∃ (s : State) (d : Nat), (d < 6152) ∧ (s.passesRun = true) ∧ (s.anvil.ran ≠ some s.media)) ∧
    (∃ (s : State) (d : Nat), (d < 6152) ∧ (s.anvil.ran = some s.media)) :=
  ⟨⟨up [(SYS.STATUS_STEP, 12), (ANVIL.GEN_EN 3, 1), (ANVIL.GEN_TYPE 3, 1), (ANVIL.GEN_AMPL 3, 0x7FFFFF), (ROUTE.EN 6151, 1), (ROUTE.SRC 6151,
      6419), (ROUTE.GAIN 6151, 0x100000)], 6151, by decide +kernel⟩,
   ⟨{ up [] with anvil := { State.reset.anvil with ran := some 0 } }, 6151, by decide +kernel⟩⟩

theorem meets_ArithmeticUnitsFailAndReturn :
    (∃ (s : State) (u : Nat) (v : Nat) (cause : Nat) (j : Nat),
      let spared := s.get (ANVIL.MU_ROLE u) = 0 ∧ s.spareOf 2 = some v ∧ s.get (ANVIL.MU_LUNIT u) < 16;
      (u ≤ 16) ∧ (1 ≤ cause) ∧ (cause ≤ 4) ∧ (j < 16) ∧ (spared)) ∧
    (∃ (s : State) (r : Req) (u : Nat) (v : Nat) (cause : Nat) (j : Nat),
      let spared := s.get (ANVIL.MU_ROLE u) = 0 ∧ s.spareOf 2 = some v ∧ s.get (ANVIL.MU_LUNIT u) < 16;
      (u ≤ 16) ∧ (1 ≤ cause) ∧ (cause ≤ 4) ∧ (j < 16) ∧ (spared) ∧ (s.barred 0x060B r = none)) ∧
    (∃ (s : State) (r : Req) (u : Nat) (cause : Nat) (j : Nat), (u ≤ 16) ∧ (1 ≤ cause) ∧ (cause ≤ 4) ∧ (j < 16) ∧ (s.get (ANVIL.MU_ROLE u) = 4) ∧
      (s.barred 0x060B r = none)) ∧
    (∃ (s : State) (u : Nat) (v : Nat) (cause : Nat) (j : Nat), (u ≤ 16) ∧ (1 ≤ cause) ∧ (cause ≤ 4) ∧ (j < 16) ∧ (s.spareOf 2 = some v) ∧
      (s.get (ANVIL.MU_ROLE v) = 1) ∧ (s.get (ANVIL.UNIT_MAP j) = u) ∧ (u ≠ v) ∧ (s.anvil.handed ≠ some s.nextPass) ∧ (s.test.run = none) ∧
      (s.schedules = false)) ∧
    (∃ (s : State) (u : Nat) (cause : Nat) (j : Nat), (u ≤ 16) ∧ (1 ≤ cause) ∧ (cause ≤ 4) ∧ (j < 16) ∧ (s.anvil.handed = some s.nextPass)) ∧
    (∃ (s : State) (r : Req) (u : Nat) (cause : Nat) (j : Nat), (u ≤ 16) ∧ (1 ≤ cause) ∧ (cause ≤ 4) ∧ (j < 16) ∧ (s.barred 0x060C r = none) ∧
      (s.get (ANVIL.MU_ROLE u) = 4) ∧ (s.inService = true) ∧ (s.passedSinceQ 2 u = true) ∧ (s.get ANVIL.STATUS_WORKING = 16) ∧
      (s.spareOf 2 = none)) ∧
    (∃ (s : State) (r : Req) (u : Nat) (cause : Nat) (j : Nat), (u ≤ 16) ∧ (1 ≤ cause) ∧ (cause ≤ 4) ∧ (j < 16) ∧ (s.barred 0x060C r = none) ∧
      (s.get (ANVIL.MU_ROLE u) = 4) ∧ (s.inService = true) ∧ (s.passedSinceQ 2 u = true) ∧ (s.get ANVIL.STATUS_WORKING = j)) :=
  ⟨⟨up [], 2, 16, 1, 0, by (dsimp only; decide +kernel)⟩,
   ⟨up [], q3, 2, 16, 4, 0, by (dsimp only; decide +kernel)⟩,
   ⟨up [(ANVIL.MU_ROLE 2, 4)], q3, 2, 4, 0, by decide +kernel⟩,
   ⟨up [], 2, 16, 1, 2, by decide +kernel⟩,
   ⟨{ up [] with anvil := { State.reset.anvil with handed := some 0 } }, 2, 1, 2, by decide +kernel⟩,
   ⟨up [(ANVIL.MU_ROLE 2, 4), (ANVIL.MU_ROLE 16, 0), (ANVIL.MU_LUNIT 16, 2), (ANVIL.UNIT_MAP 2, 16), (LIFE.STATUS_LC_STATE, 4),
      (TEST.REC_PASSED_SINCE_Q (tRec 2 2), 1), (ANVIL.STATUS_WORKING, 16)], q3, 2, 1, 0, by decide +kernel⟩,
   ⟨up [(ANVIL.MU_ROLE 2, 4), (ANVIL.MU_ROLE 16, 0), (ANVIL.MU_ROLE 15, 4), (LIFE.STATUS_LC_STATE, 4), (TEST.REC_PASSED_SINCE_Q (tRec 2 2), 1),
      (ANVIL.STATUS_WORKING, 15)], q3, 2, 1, 15, by decide +kernel⟩⟩

/-- Serial audio port 10 (group 1, of mode m) in state st. -/
def tdmAt (m st : Nat) (l : List (Fld × Nat)) (f : TdmPort → TdmPort) : State :=
  (up ([(TDM.G_MODE 1, m), (TDM.P_STATE 10, st), (TDM.P_PORT_EN 10, if st = 0 then 0 else 1), (CLK.XO_OK, 1)] ++ l)).setTdmPort 10 (f TdmPort.reset)

/-- Port 10 runs in a group whose converter carries 256 channels of four other ports. -/
def crowded : State :=
  tdmAt 1 2 ([(TDM.G_CLK_SRC 1, 1), (TDM.P_FORMAT 10, 3), (TDM.P_SLOTS 10, 32), (TDM.P_RX_MASK 10, 0), (TDM.P_TX_MASK 10, 0)] ++ [12, 13, 14, 15].flatMap (fun p =>
    [(TDM.P_STATE p, 2), (TDM.P_FORMAT p, 3), (TDM.P_SLOTS p, 32), (TDM.P_RX_MASK p, 0xFFFFFFFF), (TDM.P_TX_MASK p, 0xFFFFFFFF)])) id

theorem meets_SerialPortSettings :
    (∃ (s : State) (r : Req) (g : Nat) (m : Nat) (src : Nat) (rate : Nat) (fam : Nat) (lead : Nat) (echo : Nat) (offer : Nat) (tol : Nat) (p : Nat) (a : Nat) (b : Nat) (i : Nat), (g < 4) ∧ (m < 4) ∧ (src < 4) ∧ (rate < 4) ∧ (fam < 2) ∧ (lead < 8) ∧ (echo < 2) ∧ (offer < 2) ∧ (tol < 2 ^ 16) ∧ (p < 32) ∧ (a < 2 ^ 32) ∧ (b < 2 ^ 32) ∧ (i < 3) ∧ (s.barred 0x0701 r = none) ∧ (s.tdmGroupIdle g = true) ∧ (s.underRun 3 g = false) ∧ ((s.tdmOffered g = true → offer = 1 ∧ 2 ≤ m ∧ 2 ≤ s.get (TDM.G_MODE g)))) ∧
    (∃ (s : State) (r : Req) (g : Nat) (m : Nat) (src : Nat) (rate : Nat) (fam : Nat) (lead : Nat) (echo : Nat) (offer : Nat) (tol : Nat) (p : Nat) (a : Nat) (b : Nat) (i : Nat) (fmt : Nat) (slots : Nat) (sw : Nat) (wl : Nat) (del : Nat) (fsw : Nat) (fsp : Nat) (bcp : Nat) (idle : Nat) (zc : Nat), (g < 4) ∧ (m < 4) ∧ (src < 4) ∧ (rate < 4) ∧ (fam < 2) ∧ (lead < 8) ∧ (echo < 2) ∧ (offer < 2) ∧ (tol < 2 ^ 16) ∧ (p < 32) ∧ (a < 2 ^ 32) ∧ (b < 2 ^ 32) ∧ (i < 3) ∧ (fmt < 4) ∧ (slots < 64) ∧ (sw < 4) ∧ (wl < 4) ∧ (del < 2) ∧ (fsw < 4) ∧ (fsp < 2) ∧ (bcp < 2) ∧ (idle < 2) ∧ (zc < 1024) ∧ (s.barred 0x0702 r = none) ∧ (s.get (TDM.P_STATE p) = 0)) ∧
    (∃ (s : State) (r : Req) (g : Nat) (m : Nat) (src : Nat) (rate : Nat) (fam : Nat) (lead : Nat) (echo : Nat) (offer : Nat) (tol : Nat) (p : Nat) (a : Nat) (b : Nat) (i : Nat), (g < 4) ∧ (m < 4) ∧ (src < 4) ∧ (rate < 4) ∧ (fam < 2) ∧ (lead < 8) ∧ (echo < 2) ∧ (offer < 2) ∧ (tol < 2 ^ 16) ∧ (p < 32) ∧ (a < 2 ^ 32) ∧ (b < 2 ^ 32) ∧ (i < 3) ∧ ((s.tdmPort p).pend.length = 3) ∧ (s.barred 0x0703 r = none) ∧ (s.maskTooMany p a b = false)) ∧
    (∃ (s : State) (r : Req) (g : Nat) (m : Nat) (src : Nat) (rate : Nat) (fam : Nat) (lead : Nat) (echo : Nat) (offer : Nat) (tol : Nat) (p : Nat) (a : Nat) (b : Nat) (i : Nat), (g < 4) ∧ (m < 4) ∧ (src < 4) ∧ (rate < 4) ∧ (fam < 2) ∧ (lead < 8) ∧ (echo < 2) ∧ (offer < 2) ∧ (tol < 2 ^ 16) ∧ (p < 32) ∧ (a < 2 ^ 32) ∧ (b < 2 ^ 32) ∧ (i < 3) ∧ ((s.tdmPort p).pend.length = 3) ∧ (s.barred 0x0703 r = none) ∧ (s.maskTooMany p a b = true)) ∧
    (∃ (s : State) (g : Nat) (m : Nat) (src : Nat) (rate : Nat) (fam : Nat) (lead : Nat) (echo : Nat) (offer : Nat) (tol : Nat) (p : Nat) (a : Nat) (b : Nat) (i : Nat) (v : Word),
      let many := s.maskTooMany p (if i = 0 then v.toNat else s.get (TDM.P_RX_MASK p)) (if i = 1 then v.toNat else s.get (TDM.P_TX_MASK p));
      (g < 4) ∧ (m < 4) ∧ (src < 4) ∧ (rate < 4) ∧ (fam < 2) ∧ (lead < 8) ∧ (echo < 2) ∧ (offer < 2) ∧ (tol < 2 ^ 16) ∧ (p < 32) ∧ (a < 2 ^ 32) ∧
      (b < 2 ^ 32) ∧ (i < 3) ∧ ((s.tdmPort p).pend.length = 3) ∧ (s.busOpen (0x181008 + 0x80 * p + 4 * i)) ∧ (many = false)) ∧
    (∃ (s : State) (g : Nat) (m : Nat) (src : Nat) (rate : Nat) (fam : Nat) (lead : Nat) (echo : Nat) (offer : Nat) (tol : Nat) (p : Nat) (a : Nat) (b : Nat) (i : Nat) (v : Word),
      let many := s.maskTooMany p (if i = 0 then v.toNat else s.get (TDM.P_RX_MASK p)) (if i = 1 then v.toNat else s.get (TDM.P_TX_MASK p));
      (g < 4) ∧ (m < 4) ∧ (src < 4) ∧ (rate < 4) ∧ (fam < 2) ∧ (lead < 8) ∧ (echo < 2) ∧ (offer < 2) ∧ (tol < 2 ^ 16) ∧ (p < 32) ∧ (a < 2 ^ 32) ∧
      (b < 2 ^ 32) ∧ (i < 3) ∧ ((s.tdmPort p).pend.length = 3) ∧ (s.busOpen (0x181008 + 0x80 * p + 4 * i)) ∧ (many = true)) :=
  ⟨⟨tdmAt 1 0 [] id, q3, 1, 3, 1, 2, 1, 7, 1, 1, 0xFFFF, 0, 0, 0, 0, by decide +kernel⟩,
   ⟨tdmAt 1 0 [] id, q3, 0, 0, 0, 0, 0, 0, 0, 0, 0, 10, 0, 0, 0, 3, 63, 3, 3, 1, 3, 1, 1, 1, 1023, by decide +kernel⟩,
   ⟨tdmAt 1 2 [] id, q3, 0, 0, 0, 0, 0, 0, 0, 0, 0, 10, 0xFFFFFFFF, 0x80000001, 0, by decide +kernel⟩,
   ⟨crowded, q3, 0, 0, 0, 0, 0, 0, 0, 0, 0, 10, 0xFFFFFFFF, 0xFFFFFFFF, 0, by decide +kernel⟩,
   ⟨tdmAt 1 2 [] id, 0, 0, 0, 0, 0, 0, 0, 0, 0, 10, 0, 0, 2, 0x80000001#32, by (dsimp only; decide +kernel)⟩,
   ⟨crowded, 0, 0, 0, 0, 0, 0, 0, 0, 0, 10, 0, 0, 1, 0xFFFFFFFF#32, by (dsimp only; decide +kernel)⟩⟩

theorem meets_SerialPortsStartAndStop :
    (∃ (s : State) (r : Req) (p : Nat), (p < 32) ∧ (s.barred 0x0704 r = none) ∧ (s.get (TDM.P_STATE p) = 0) ∧ (s.tdmCfgErr p = false) ∧
      (s.get (TDM.G_MODE (p / 8)) ≠ 0) ∧ (s.noStart 3 (p / 8) = false) ∧ (s.tdmNoRoom p = false)) ∧
    (∃ (s : State) (r : Req) (p : Nat), (p < 32) ∧ (s.barred 0x0704 r = none) ∧ (s.tdmCfgErr p = true)) ∧
    (∃ (s : State) (r : Req) (p : Nat), (p < 32) ∧ (s.barred 0x0704 r = none) ∧ (s.tdmCfgErr p = false) ∧
      (s.get (TDM.G_MODE (p / 8)) = 0 ∨ s.noStart 3 (p / 8) = true)) ∧
    (∃ (s : State) (r : Req) (p : Nat), (p < 32) ∧ (s.barred 0x0705 r = none) ∧ (s.get (TDM.P_STATE p) = 2)) ∧
    (∃ (s : State) (p : Nat) (v : Word), (p < 32) ∧ (s.busOpen (0x181000 + 0x80 * p)) ∧ (v.toNat.testBit 31 = true) ∧
      (s.get (TDM.P_STATE p) = 0) ∧ (s.noStart 3 (p / 8) = false) ∧ (s.tdmConverts (p / 8) = false) ∧ (s.get (TDM.G_MODE (p / 8)) ≠ 0)) ∧
    (∃ (s : State) (p : Nat) (v : Word), (p < 32) ∧ (s.busOpen (0x181000 + 0x80 * p)) ∧ (v.toNat.testBit 31 = false) ∧
      (s.get (TDM.P_STATE p) = 2) ∧ (s.on (TDM.P_PORT_EN p) = true)) :=
  ⟨⟨tdmAt 1 0 [] id, q3, 10, by decide +kernel⟩,
   ⟨tdmAt 1 0 [(TDM.G_RATE 1, 3)] id, q3, 10, by decide +kernel⟩,
   ⟨tdmAt 0 0 [] id, q3, 10, by decide +kernel⟩,
   ⟨tdmAt 1 2 [] (fun x => { x with run := true }), q3, 10, by decide +kernel⟩,
   ⟨tdmAt 1 0 [] id, 10, 0x88001208#32, by decide +kernel⟩,
   ⟨tdmAt 1 2 [] (fun x => { x with run := true }), 10, 0x08001208#32, by decide +kernel⟩⟩

theorem meets_SerialFramesAndClocks :
    (∃ (s : State) (p : Nat) (g : Nat), (p < 32) ∧ (g < 4) ∧ (s.get (TDM.P_STATE p) = 1) ∧ (s.tdmFirst p = true)) ∧
    (∃ (s : State) (p : Nat) (g : Nat), (p < 32) ∧ (g < 4) ∧ (s.get (TDM.P_STATE p) = 2)) ∧
    (∃ (s : State) (p : Nat) (g : Nat),
      let x := s.tdmPort p;
      (p < 32) ∧ (g < 4) ∧ (s.get (TDM.P_STATE p) = 3) ∧ (x.last = true)) ∧
    (∃ (s : State) (p : Nat) (g : Nat),
      let x := s.tdmPort p;
      let n := s.tdmSlots p;
      let late := fun (l : List Gate) => ((l.take n).filter (fun y => y.overdue (x.next - 1) (s.get (TDM.P_ZC_TIMEOUT p)))).length;
      (p < 32) ∧ (g < 4) ∧ (s.get (TDM.P_STATE p) = 2) ∧ (0 < late x.outG + late x.inG)) ∧
    (∃ (s : State) (p : Nat) (g : Nat),
      let follows := 2 ≤ s.get (TDM.G_MODE g);
      (p < 32) ∧ (g < 4) ∧ (follows) ∧ (s.get (TDM.G_CLK_STATE g) = 1)) ∧
    (∃ (s : State) (p : Nat) (g : Nat) (bits : Nat),
      let follows := 2 ≤ s.get (TDM.G_MODE g);
      (p < 32) ∧ (g < 4) ∧ (follows) ∧ (s.get (TDM.G_CLK_STATE g) = 2) ∧ (bits = s.tdmBpf (s.tdmLead g)) ∧ (31 ≤ (s.tdmGroup g).valid) ∧
      (s.tdmInTol g (s.get (TDM.G_FS_MEAS g)) = true)) ∧
    (∃ (s : State) (p : Nat) (g : Nat) (bits : Nat),
      let follows := 2 ≤ s.get (TDM.G_MODE g);
      (p < 32) ∧ (g < 4) ∧ (follows) ∧ (s.get (TDM.G_CLK_STATE g) = 3) ∧ (bits = s.tdmBpf (s.tdmLead g))) ∧
    (∃ (s : State) (p : Nat) (g : Nat) (bits : Nat),
      let follows := 2 ≤ s.get (TDM.G_MODE g);
      (p < 32) ∧ (g < 4) ∧ (follows) ∧ (s.get (TDM.G_CLK_STATE g) = 3) ∧ (bits ≠ s.tdmBpf (s.tdmLead g)) ∧ (2 ≤ (s.tdmGroup g).invalid)) ∧
    (∃ (s : State) (p : Nat) (g : Nat) (cause : Nat),
      let follows := 2 ≤ s.get (TDM.G_MODE g);
      (p < 32) ∧ (g < 4) ∧ (follows) ∧ (cause < 2) ∧ (s.get (TDM.G_CLK_STATE g) = 3)) ∧
    (∃ (s : State) (p : Nat) (g : Nat) (meas : Nat),
      let follows := 2 ≤ s.get (TDM.G_MODE g);
      (p < 32) ∧ (g < 4) ∧ (follows) ∧ (meas < 2 ^ 32) ∧ (s.get (TDM.G_CLK_STATE g) = 3) ∧ (s.tdmInTol g meas = true)) ∧
    (∃ (s : State) (p : Nat) (g : Nat) (meas : Nat),
      let follows := 2 ≤ s.get (TDM.G_MODE g);
      (p < 32) ∧ (g < 4) ∧ (follows) ∧ (meas < 2 ^ 32) ∧ (s.get (TDM.G_CLK_STATE g) = 3) ∧ (s.tdmInTol g meas = false)) ∧
    (∃ (s : State) (p : Nat) (g : Nat) (ratio : Nat), (p < 32) ∧ (g < 4) ∧ (s.get (TDM.G_ASRC_STATE g) = 2) ∧ (ratioOk ratio = true)) ∧
    (∃ (s : State) (p : Nat) (g : Nat) (ratio : Nat), (p < 32) ∧ (g < 4) ∧ (s.get (TDM.G_ASRC_STATE g) = 3) ∧ (ratioOk ratio = true) ∧
      ((max (s.get (TDM.G_RATIO g)) ratio - min (s.get (TDM.G_RATIO g)) ratio) * 1000000 ≤ 1000 * s.get (TDM.G_RATIO g))) ∧
    (∃ (s : State) (p : Nat) (g : Nat), (p < 32) ∧ (g < 4) ∧ (s.get (TDM.G_ASRC_STATE g) = 3)) :=
  ⟨⟨{ tdmAt 1 1 [] id with cycles := 5000 }, 10, 0, by decide +kernel⟩,
   ⟨tdmAt 1 2 [(TDM.P_RX_MASK_NOW 10, 0xFFFFFFFF)] (fun x => { x with run := true, next := 7, inG := List.replicate 32 ⟨true, none⟩ }), 10, 0,
      by decide +kernel⟩,
   ⟨tdmAt 1 3 [] (fun x => { x with last := true, next := 7 }), 10, 0, by (dsimp only; decide +kernel)⟩,
   ⟨tdmAt 1 2 [(TDM.P_ZC_TIMEOUT 10, 5)] (fun x => { x with next := 12, outG := List.replicate 32 ⟨true, some (false, 6)⟩ }), 10, 0,
      by (dsimp only; decide +kernel)⟩,
   ⟨tdmAt 2 0 [(TDM.G_CLK_STATE 1, 1)] id, 0, 1, by (dsimp only; decide +kernel)⟩,
   ⟨(tdmAt 2 0 [(TDM.G_CLK_STATE 1, 2), (TDM.G_FS_MEAS 1, 48000000)] id).setTdmGroup 1 { TdmGroup.reset with valid := 31 }, 0, 1,
      (tdmAt 2 0 [] id).tdmBpf 8, by (dsimp only; decide +kernel)⟩,
   ⟨tdmAt 2 0 [(TDM.G_CLK_STATE 1, 3)] id, 0, 1, (tdmAt 2 0 [] id).tdmBpf 8, by (dsimp only; decide +kernel)⟩,
   ⟨(tdmAt 2 0 [(TDM.G_CLK_STATE 1, 3)] id).setTdmGroup 1 { TdmGroup.reset with invalid := 2 }, 0, 1, 7, by (dsimp only; decide +kernel)⟩,
   ⟨tdmAt 2 0 [(TDM.G_CLK_STATE 1, 3)] id, 0, 1, 1, by (dsimp only; decide +kernel)⟩,
   ⟨tdmAt 2 0 [(TDM.G_CLK_STATE 1, 3)] id, 0, 1, (tdmAt 2 0 [] id).tdmExpect 1, by (dsimp only; decide +kernel)⟩,
   ⟨tdmAt 2 0 [(TDM.G_CLK_STATE 1, 3)] id, 0, 1, 0xFFFFFFFF, by (dsimp only; decide +kernel)⟩,
   ⟨tdmAt 3 0 [(TDM.G_ASRC_STATE 1, 2)] id, 0, 1, 1181116006, by decide +kernel⟩,
   ⟨tdmAt 3 0 [(TDM.G_ASRC_STATE 1, 3), (TDM.G_RATIO 1, 1000000000)] id, 0, 1, 1001000000, by decide +kernel⟩,
   ⟨tdmAt 3 0 [(TDM.G_ASRC_STATE 1, 3)] id, 0, 1, by decide +kernel⟩⟩

/-- Amplifier channel 5 in state st, enabled unless OFF, and holding what `f` adds. -/
def ampAt (st : Nat) (l : List (Fld × Nat)) (f : AmpCh → AmpCh) : State :=
  (up ([(AMP.STATUS_PWM_OK, 1), (AMP.CH_STATE 5, st), (AMP.CH_EN 5, if st = 0 then 0 else 1)] ++ l)).setAmpCh 5 (f AmpCh.reset)

theorem meets_AmplifierSettings :
    (∃ (s : State) (n : Nat), (n < 8) ∧ (s.isNi = true)) ∧
    (∃ (s : State) (r : Req) (n : Nat) (lo : Nat) (hi : Nat) (pref : Nat) (step : Nat) (guard' : Nat), (n < 8) ∧ (s.isNi = false) ∧
      (s.ampAllIdle = true) ∧ (s.barred 0x0801 r = none) ∧ (lo < 2048) ∧ (hi < 2048) ∧ (pref < 2048) ∧ (step < 256) ∧ (guard' < 2 ^ 16)) ∧
    (∃ (s : State) (r : Req) (n : Nat), (n < 8) ∧ (s.isNi = false) ∧ (s.ampAllIdle = true) ∧ (s.barred 0x0801 r = none)) ∧
    (∃ (s : State) (n : Nat) (v : Word), (n < 8) ∧ (s.isNi = false) ∧ (v.toNat.testBit 0 = true) ∧ (s.busOpen 0x1A001C) ∧ (s.ampAllIdle = true)) ∧
    (∃ (s : State) (n : Nat), (n < 8) ∧ (s.isNi = false) ∧ (s.on AMP.FREQ_BUSY = true)) ∧
    (∃ (s : State) (r : Req) (n : Nat) (md : Nat) (ph : Nat) (fa : Nat) (ff : Nat) (dt : Nat) (vg : Nat) (dm : Nat) (rn : Nat) (sn : Nat) (il : Nat) (rm : Nat) (cm : Nat) (sr : Nat) (zt : Nat) (mr : Nat) (dth : Nat) (dti : Nat) (om : Nat) (bc : Nat),
      let signed24 := fun (g : Nat) => g < 2 ^ 23 ∨ (2 ^ 32 - 2 ^ 23 ≤ g ∧ g < 2 ^ 32);
      (n < 8) ∧ (md < 2) ∧ (ph < 8) ∧ (fa < 4) ∧ (ff < 256) ∧ (dt < 256) ∧ (signed24 vg) ∧ (dm < 2 ^ 16) ∧ (rn < 16) ∧ (sn < 256) ∧
      (il < 2 ^ 12) ∧ (rm < 2 ^ 16) ∧ (cm < 2 ^ 16) ∧ (sr < 2 ^ 12) ∧ (zt < 1024) ∧ (mr < 1024) ∧ (dth < 2 ^ 16) ∧ (dti < 2 ^ 16) ∧ (om < 256) ∧
      (bc < 256) ∧ (s.isNi = false) ∧ (s.barred 0x0802 r = none) ∧ (s.ampIdle n = true)) ∧
    (∃ (s : State) (r : Req) (n : Nat) (c : Nat → Nat) (kp : Nat) (ki : Nat) (ff : Nat),
      let signed24 := fun (g : Nat) => g < 2 ^ 23 ∨ (2 ^ 32 - 2 ^ 23 ≤ g ∧ g < 2 ^ 32);
      (n < 8) ∧ ((∀ j, c j < 2 ^ 32)) ∧ (kp < 2 ^ 32) ∧ (ki < 2 ^ 32) ∧ (signed24 ff) ∧ (s.isNi = false) ∧ (s.barred 0x0803 r = none)) ∧
    (∃ (s : State) (n : Nat) (v : Word), (n < 8) ∧ (s.isNi = false) ∧ (v.toNat.testBit 0 = true) ∧ (s.busOpen (0x1A0488 + 0x100 * n))) ∧
    (∃ (s : State) (n : Nat), (n < 8) ∧ (s.isNi = false) ∧ (s.on (AMP.CH_COEF_PEND n) = true) ∧ (s.on AMP.STATUS_PWM_OK = true) ∧
      ((∀ h, h ∈ s.held → h.upd = .swap))) ∧
    (∃ (s : State) (r : Req) (n : Nat) (i : Nat) (warn : Nat) (shut : Nat) (rec' : Nat) (dir : Nat) (gm : Nat),
      let signed24 := fun (g : Nat) => g < 2 ^ 23 ∨ (2 ^ 32 - 2 ^ 23 ≤ g ∧ g < 2 ^ 32);
      (n < 8) ∧ (i < 4) ∧ (rec' < warn) ∧ (warn < shut) ∧ (shut < 2 ^ 16) ∧ (dir < 2) ∧ (signed24 gm) ∧ (s.isNi = false) ∧
      (s.barred 0x0808 r = none) ∧ (s.ampIdle (2 * i) = true) ∧ (s.ampIdle (2 * i + 1) = true)) :=
  ⟨⟨up [(SYS.DEVICE_ID_VARIANT, 2)], 0, by decide +kernel⟩,
   ⟨up [], q3, 0, 2047, 2047, 2047, 255, 0xFFFF, by decide +kernel⟩,
   ⟨up [], q3, 0, by decide +kernel⟩,
   ⟨up [], 0, 1, by decide +kernel⟩,
   ⟨up [(AMP.FREQ_BUSY, 1), (AMP.CAR_EN 3, 1), (AMP.CAR_FREQ 3, 10000), (AMP.CAR_HALFW 3, 50)], 0, by decide +kernel⟩,
   ⟨up [], q3, 5, 1, 7, 3, 255, 255, 0xFF800000, 0xFFFF, 15, 255, 4095, 0xFFFF, 0xFFFF, 4095, 1023, 1023, 0xFFFF, 0xFFFF, 255, 255,
      by (dsimp only; decide +kernel)⟩,
   ⟨up [], q3, 5, fun _ => 77, 0xFFFFFFFF, 5, 0xFF800001, ⟨by decide, fun _ => (by decide : 77 < 2 ^ 32), by decide, by decide,
      Or.inr (by decide), by decide +kernel, by decide +kernel⟩⟩,
   ⟨up [], 5, 1, by decide +kernel⟩,
   ⟨after (execAmpCoefSet q3 [⟨1, 1, 5⟩, ⟨2, 4, 77⟩, ⟨22, 1, 1⟩] (up [(AMP.STATUS_PWM_OK, 1)])), 5, by decide +kernel⟩,
   ⟨up [], q3, 5, 3, 2, 0xFFFF, 1, 1, 0xFF800000, by (dsimp only; decide +kernel)⟩⟩

theorem meets_AmplifierChannels :
    (∃ (s : State) (r : Req) (n : Nat),
      let st := s.ampState n;
      let mayStart := st = 0 ∧ s.on AMP.STATUS_PWM_OK = true ∧ s.noStart 4 n = false ∧ s.boot.down.contains (4, n) = false;
      (n < 8) ∧ (s.isNi = false) ∧ (s.barred 0x0804 r = none) ∧ (mayStart) ∧ (s.ampCfgErr n = false)) ∧
    (∃ (s : State) (n : Nat) (v : Word),
      let st := s.ampState n;
      let mayStart := st = 0 ∧ s.on AMP.STATUS_PWM_OK = true ∧ s.noStart 4 n = false ∧ s.boot.down.contains (4, n) = false;
      let en := s.get (AMP.CH_EN n);
      (n < 8) ∧ (s.isNi = false) ∧ (s.busOpen (0x1A0400 + 0x100 * n)) ∧ (v.toNat.testBit 31 = true) ∧ (en = 0) ∧ (mayStart)) ∧
    (∃ (s : State) (n : Nat) (v : Word),
      let st := s.ampState n;
      let en := s.get (AMP.CH_EN n);
      (n < 8) ∧ (s.isNi = false) ∧ (s.busOpen (0x1A0400 + 0x100 * n)) ∧ (v.toNat.testBit 31 = false) ∧ (en = 1) ∧ (st = 2)) ∧
    (∃ (s : State) (r : Req) (n : Nat),
      let st := s.ampState n;
      (n < 8) ∧ (s.isNi = false) ∧ (s.barred 0x0805 r = none) ∧ (st = 2)) ∧
    (∃ (s : State) (r : Req) (n : Nat),
      let st := s.ampState n;
      (n < 8) ∧ (s.isNi = false) ∧ (s.barred 0x0805 r = none) ∧ (st = 1)) ∧
    (∃ (s : State) (n : Nat),
      let c := s.ampCh n;
      let st := s.ampState n;
      (n < 8) ∧ (s.isNi = false) ∧ (st = 1) ∧ (c.phase = 0) ∧ (0 < c.calN) ∧ (c.calV.natAbs ≤ 32767 * (c.calN * 131072)) ∧
      (c.calI.natAbs ≤ 32767 * (c.calN * 131072))) ∧
    (∃ (s : State) (n : Nat),
      let c := s.ampCh n;
      let st := s.ampState n;
      (n < 8) ∧ (s.isNi = false) ∧ (st = 1) ∧ (c.phase = 1)) ∧
    (∃ (s : State) (n : Nat),
      let c := s.ampCh n;
      let st := s.ampState n;
      (n < 8) ∧ (s.isNi = false) ∧ (st = 1) ∧ (c.phase = 2)) ∧
    (∃ (s : State) (n : Nat),
      let c := s.ampCh n;
      let st := s.ampState n;
      (n < 8) ∧ (s.isNi = false) ∧ (st = 3) ∧ (c.gain = 0)) ∧
    (∃ (s : State) (r : Req) (n : Nat) (x : Nat),
      let c := s.ampCh n;
      let st := s.ampState n;
      (n < 8) ∧ (s.isNi = false) ∧ (s.barred 0x0806 r = none) ∧ (st = 0) ∧ (c.wait = none) ∧ (x < 2)) ∧
    (∃ (s : State) (r : Req) (n : Nat),
      let c := s.ampCh n;
      let st := s.ampState n;
      let mute := s.get (AMP.CH_MUTE n);
      (n < 8) ∧ (s.isNi = false) ∧ (s.barred 0x0806 r = none) ∧ (st = 2) ∧ (mute = 0) ∧ (c.therm = none) ∧ (c.g1 ≠ 0)) ∧
    (∃ (s : State) (n : Nat) (v : Word),
      let st := s.ampState n;
      let en := s.get (AMP.CH_EN n);
      (n < 8) ∧ (s.isNi = false) ∧ (s.busOpen (0x1A0400 + 0x100 * n)) ∧ (v.toNat.testBit 31 = false) ∧ (en = 0) ∧ (st = 0)) ∧
    (∃ (s : State) (n : Nat) (v : Word),
      let c := s.ampCh n;
      let st := s.ampState n;
      let en := s.get (AMP.CH_EN n);
      let mute := s.get (AMP.CH_MUTE n);
      (n < 8) ∧ (s.isNi = false) ∧ (s.busOpen (0x1A0400 + 0x100 * n)) ∧ (v.toNat.testBit 31 = true) ∧ (v.toNat.testBit 30 = true) ∧ (en = 1) ∧
      (st = 2) ∧ (mute = 0) ∧ (c.therm = none) ∧ (c.g1 ≠ 0) ∧ (s.get (AMP.CH_ZC_TIMEOUT n) = 0)) ∧
    (∃ (s : State) (n : Nat),
      let c := s.ampCh n;
      (n < 8) ∧ (s.isNi = false) ∧ (c.wait.isSome = true)) ∧
    (∃ (s : State) (r : Req) (n : Nat),
      let st := s.ampState n;
      (n < 8) ∧ (s.isNi = false) ∧ (st = 5) ∧ (s.on AMP.STATUS_PWM_OK = true) ∧ (s.barred 0x0807 r = none)) ∧
    (∃ (s : State) (n : Nat) (v : Word),
      let st := s.ampState n;
      (n < 8) ∧ (s.isNi = false) ∧ (st = 5) ∧ (s.on AMP.STATUS_PWM_OK = true) ∧ (s.busOpen (0x1A042C + 0x100 * n)) ∧ (v.toNat.testBit 0 = true)) ∧
    (∃ (s : State) (r : Req) (n : Nat),
      let st := s.ampState n;
      (n < 8) ∧ (s.isNi = false) ∧ (st = 5) ∧ (s.on AMP.STATUS_PWM_OK = false) ∧ (s.barred 0x0807 r = none)) ∧
    (∃ (s : State) (n : Nat) (v : Word),
      let st := s.ampState n;
      (n < 8) ∧ (s.isNi = false) ∧ (st = 5) ∧ (s.on AMP.STATUS_PWM_OK = false) ∧ (s.busOpen (0x1A042C + 0x100 * n)) ∧ (v.toNat.testBit 0 = true)) ∧
    (∃ (s : State) (n : Nat), (n < 8) ∧ (s.isNi = false) ∧ (s.on AMP.STATUS_PWM_OK = true)) :=
  ⟨⟨ampAt 0 [(AMP.FREQ_SEL_P, 1024)] id, q3, 5, by (dsimp only; decide +kernel)⟩,
   ⟨ampAt 0 [(AMP.FREQ_SEL_P, 1024)] id, 5, 0xC0000008#32, by (dsimp only; decide +kernel)⟩,
   ⟨ampAt 2 [] id, 5, 0x00000008#32, by (dsimp only; decide +kernel)⟩,
   ⟨ampAt 2 [] id, q3, 5, by (dsimp only; decide +kernel)⟩,
   ⟨ampAt 1 [] id, q3, 5, by (dsimp only; decide +kernel)⟩,
   ⟨ampAt 1 [] (fun x => { x with calN := 3, calV := -5 * 3 * 131072 + 1, calI := 7 }), 5, by (dsimp only; decide +kernel)⟩,
   ⟨ampAt 1 [] (fun x => { x with phase := 1 }), 5, by (dsimp only; decide +kernel)⟩,
   ⟨ampAt 1 [] (fun x => { x with phase := 2 }), 5, by (dsimp only; decide +kernel)⟩,
   ⟨ampAt 3 [] (fun x => { x with g0 := 0, g1 := 0 }), 5, by (dsimp only; decide +kernel)⟩,
   ⟨ampAt 0 [] id, q3, 5, 1, by (dsimp only; decide +kernel)⟩,
   ⟨ampAt 2 [(AMP.CH_MUTE 5, 0)] id, q3, 5, by (dsimp only; decide +kernel)⟩,
   ⟨ampAt 0 [] id, 5, 0x40000008#32, by (dsimp only; decide +kernel)⟩,
   ⟨ampAt 2 [(AMP.CH_MUTE 5, 0), (AMP.CH_ZC_TIMEOUT 5, 0)] id, 5, 0xC0000008#32, by (dsimp only; decide +kernel)⟩,
   ⟨ampAt 2 [] (fun x => { x with wait := some 0 }), 5, by (dsimp only; decide +kernel)⟩,
   ⟨ampAt 5 [(AMP.FREQ_SEL_P, 1024)] id, q3, 5, by (dsimp only; decide +kernel)⟩,
   ⟨(ampAt 5 [] id).set (AMP.CH_EN 5) 0, 5, 1, by (dsimp only; decide +kernel)⟩,
   ⟨ampAt 5 [(AMP.STATUS_PWM_OK, 0)] id, q3, 5, by (dsimp only; decide +kernel)⟩,
   ⟨ampAt 5 [(AMP.STATUS_PWM_OK, 0)] id, 5, 1, by (dsimp only; decide +kernel)⟩,
   ⟨(ampAt 7 [] id), 5, by decide +kernel⟩⟩

theorem meets_AmplifierProtectionAndLoop :
    (∃ (s : State) (n : Nat),
      let st := s.ampState n;
      (n < 8) ∧ (s.isNi = false) ∧ (s.on (AMP.CH_FLT_PIN n) = false) ∧ (st = 2)) ∧
    (∃ (s : State) (n : Nat), (n < 8) ∧ (s.isNi = false)) ∧
    (∃ (s : State) (n : Nat),
      let st := s.ampState n;
      (n < 8) ∧ (s.isNi = false) ∧ (st = 4) ∧ (s.on AMP.STATUS_PWM_OK = true) ∧ (s.on (AMP.CH_FLT_PIN n) = false)) ∧
    (∃ (s : State) (n : Nat),
      let st := s.ampState n;
      (n < 8) ∧ (s.isNi = false) ∧ (st = 4) ∧ (s.on AMP.STATUS_PWM_OK = false)) ∧
    (∃ (s : State) (n : Nat),
      let c := s.ampCh n;
      (n < 8) ∧ (s.isNi = false) ∧ (c.retry = true) ∧ (s.ampRuns n = true)) ∧
    (∃ (s : State) (n : Nat) (x : Int), (n < 8) ∧ (s.isNi = false) ∧ (s.ampRuns n = true) ∧ (s.get (AMP.CH_DC_TIME n) ≠ 0) ∧
      (s.get (AMP.CH_DC_THR n) < x.natAbs) ∧ (2 ≤ s.faultNow n)) ∧
    (∃ (s : State) (n : Nat) (i : Nat) (ratio : Nat), (n < 8) ∧ (s.isNi = false) ∧ (i < 4) ∧ (0x100 ≤ ratio) ∧ (ratio ≤ 0xFF00) ∧
      ((∀ x, x ∈ nth s.amp.conv i [] → x ≤ 65535))) ∧
    (∃ (s : State) (n : Nat) (ratio : Nat),
      let c := s.ampCh n;
      let st := s.ampState n;
      (n < 8) ∧ (s.isNi = false) ∧ (ratio < 0x100) ∧ (st = 2) ∧ (c.therm = none) ∧ (s.get (AMP.CH_MUTE_RAMP n) = 0)) ∧
    (∃ (s : State) (n : Nat) (shunt : Int),
      let c := s.ampCh n;
      (n < 8) ∧ (s.isNi = false) ∧ (s.ampSwitches n = true) ∧ (c.cut = none) ∧ (max 1 (s.get (AMP.CH_ILIM n)) < shunt.natAbs)) ∧
    (∃ (s : State) (n : Nat) (shunt : Int), (n < 8) ∧ (s.isNi = false) ∧ (shunt.natAbs ≤ max 1 (s.get (AMP.CH_ILIM n)))) ∧
    (∃ (s : State) (n : Nat),
      let c := s.ampCh n;
      let st := s.ampState n;
      (n < 8) ∧ (s.isNi = false) ∧ (st = 1) ∧ (c.phase = 0)) ∧
    (∃ (s : State) (n : Nat),
      let c := s.ampCh n;
      (n < 8) ∧ (s.isNi = false) ∧ (s.ampSwitches n = true) ∧ (c.seen = some (s.media - 5)) ∧ (s.effi (AMP.CH_KP_I n) = 0) ∧
      (s.effi (AMP.CH_KI_I n) = 0)) :=
  ⟨⟨ampAt 2 [(AMP.CH_FLT_ACTION 5, 0), (AMP.CH_RETRY_N 5, 2)] id, 5, by (dsimp only; decide +kernel)⟩,
   ⟨ampAt 2 [(AMP.CH_FLT_PIN 5, 1)] id, 5, by decide +kernel⟩,
   ⟨ampAt 4 [] id, 5, by (dsimp only; decide +kernel)⟩,
   ⟨ampAt 4 [(AMP.STATUS_PWM_OK, 0)] id, 5, by (dsimp only; decide +kernel)⟩,
   ⟨ampAt 2 [(AMP.CH_RETRY_CNT 5, 2)] (fun x => { x with retry := true }), 5, by (dsimp only; decide +kernel)⟩,
   ⟨ampAt 2 [(AMP.CH_DC_TIME 5, 5)] id, 5, 90000, by decide +kernel⟩,
   ⟨ampAt 2 [] id, 5, 2, 0xFF00, by decide +kernel⟩,
   ⟨ampAt 2 [(AMP.CH_MUTE_RAMP 5, 0)] id, 5, 255, by (dsimp only; decide +kernel)⟩,
   ⟨ampAt 2 [(AMP.CH_ILIM 5, 4095)] id, 5, -4096, by (dsimp only; decide +kernel)⟩,
   ⟨ampAt 2 [(AMP.CH_ILIM 5, 4095)] id, 5, -4095, by decide +kernel⟩,
   ⟨ampAt 1 [] id, 5, by (dsimp only; decide +kernel)⟩,
   ⟨{ ampAt 2 [] (fun x => { x with seen := some 0 }) with held := [] }, 5, by (dsimp only; decide +kernel)⟩⟩

/-- The reading commands of ReadingCommandsOnlyAnswer: opcode, schema, and parameters that fit it. -/
def readRows : List (Nat × List PSpec × List Tlv) :=
  [(0x0101, [], []), (0x0102, [], []), (0x0103, [], []), (0x0106, [preq 1 1 0 63], [⟨1, 1, 63⟩]),
    (0x0124, [preq 1 2 0 0x7FF], [⟨1, 2, 0x7FF⟩]), (0x0141, [], []), (0x0201, [], []),
    (0x0208, [preq 1 1 0 1, preq 2 1 0 4], [⟨1, 1, 1⟩, ⟨2, 1, 4⟩]), (0x0301, [], []), (0x0402, [preq 1 1 0 3], [⟨1, 1, 3⟩]),
    (0x0411, [preq 1 1 0 3], [⟨1, 1, 3⟩]), (0x0414, [preq 1 1 0 3], [⟨1, 1, 3⟩]),
    (0x0415, [preq 1 1 0 3, preq 2 2 0 1023, preq 3 1 1 64], [⟨1, 1, 3⟩, ⟨2, 2, 1023⟩, ⟨3, 1, 64⟩]),
    (0x0504, [preq 1 1 0 1, preq 2 2 0 511], [⟨1, 1, 1⟩, ⟨2, 2, 511⟩]), (0x0506, [], []),
    (0x0706, [preq 1 1 0 15], [⟨1, 1, 15⟩]), (0x0901, [], []), (0x0913, [], []), (0x0B01, [], []),
    (0x0B02, [popt 1 2 0 4095, popt 2 2 1 256, popt 3 1 0 1], [⟨1, 2, 4095⟩]),
    (0x0B03, [popt 1 2 0 0xFFFF, popt 2 2 1 1024], [⟨2, 2, 1024⟩]), (0x0C05, [preq 1 1 0 255, preq 2 1 1 32], [⟨1, 1, 0⟩, ⟨2, 1, 32⟩]),
    (0x0C08, [], [])]

theorem meets_ReadingCommandsOnlyAnswer :
    ∀ x ∈ readRows, (up []).refuses q3 x.1 x.2.1 x.2.2 = none ∧ (up []).refuses q3 x.1 x.2.1 (⟨0x7777, 1, 0⟩ :: x.2.2) ≠ none := by
  decide +kernel

theorem meets_ConditionalReadingCommands :
    (∃ (s : State) (r : Req) (i : Nat) (x : RxRun), (i ≤ 511) ∧ (s.barred 0x0126 r = none) ∧ (s.rxRun i = some x)) ∧
    (∃ (s : State) (r : Req) (i : Nat) (c : Nat) (x : RxRun) (y : CsRun), (i ≤ 511) ∧ (c ≤ 255) ∧ (s.barred 0x050A r = none) ∧
      (s.rxRun i = some x) ∧ (x.cs[c]? = some y)) ∧
    (∃ (s : State) (r : Req) (f : Nat) (n : Nat), (f + n ≤ 6152) ∧ (1 ≤ n) ∧ (n ≤ 256) ∧ (s.barred 0x0606 r = none)) ∧
    (∃ (s : State) (r : Req), (s.barred 0x0809 r = none) ∧ (s.isNi = false)) ∧
    (∃ (s : State) (r : Req) (set : Nat) (u : Nat), (set ≤ 6) ∧ (u < setUnits set) ∧ (s.barred 0x0A05 r = none)) ∧
    (∃ (s : State) (r : Req) (k : Nat) (e : SapEntry), (s.svc.sap[k]? = some e) ∧ (k ≤ 255) ∧ (s.barred 0x0C06 r = none)) ∧
    (∃ (s : State) (r : Req) (f : Nat) (n : Nat) (k : Nat), (k ≤ 1) ∧ (1 ≤ n) ∧ (n ≤ 65024) ∧ (f ≤ 1048575) ∧ (s.barred 0x0B0C r = none) ∧
      (s.canSign = true)) ∧
    (∃ (s : State) (r : Req), (s.barred 0x1040 r = none)) ∧
    (∃ (s : State) (r : Req) (i : Nat) (d : Nat), (d ≤ 1) ∧ (i ≤ 511) ∧ (s.barred 0x0C02 r = none) ∧
      ((s.legs d i).any (fun l => s.on (validFld d i l)) = true)) :=
  ⟨⟨rxOn, q3, 5, (rxOn.rxRun 5).getD ⟨5, ⟨0, 0, [], []⟩, ⟨none, none⟩, ⟨none, none⟩, 0, none, [], false⟩, by decide +kernel⟩,
   ⟨rxOn, q3, 5, 1, (rxOn.rxRun 5).getD ⟨5, ⟨0, 0, [], []⟩, ⟨none, none⟩, ⟨none, none⟩, 0, none, [], false⟩, emptyCs, by decide +kernel⟩,
   ⟨up [], q3, 5896, 256, by decide +kernel⟩,
   ⟨up [], q3, by decide +kernel⟩,
   ⟨up [], q3, 6, 3, by decide +kernel⟩,
   ⟨{ up [] with svc := { State.reset.svc with sap := [⟨5, 1, 0, 0, [1, 2, 3]⟩] } }, q3, 0, ⟨5, 1, 0, 0, [1, 2, 3]⟩, by decide +kernel⟩,
   ⟨{ up [(LIFE.STATUS_LC_STATE, 3), (LIFE.STATUS_CERT_VALID, 1)] with life := { State.reset.life with unitSeed := List.replicate 32 1#8, cfg := #v[[1, 2, 3], []] } }, q3, 1, 65024, 0, by decide +kernel⟩,
   ⟨up [], q3, by decide +kernel⟩,
   ⟨rxSet [], q3, 5, 0, by decide +kernel⟩⟩

theorem meets_StatusCommandsWithClear :
    (∃ (s : State) (r : Req), (s.barred 0x0105 r = none)) ∧
    (∃ (s : State) (r : Req), (s.barred 0x0130 r = none)) ∧
    (∃ (s : State) (r : Req), (s.barred 0x0143 r = none)) ∧
    (∃ (s : State) (r : Req) (n : Nat), (n ≤ 3) ∧ (s.barred 0x0405 r = none)) ∧
    (∃ (s : State) (r : Req) (i : Nat), (i ≤ 511) ∧ (s.barred 0x0505 r = none)) ∧
    (∃ (s : State) (r : Req), (s.barred 0x060A r = none)) ∧
    (∃ (s : State) (r : Req), (s.barred 0x0A01 r = none)) ∧
    (∃ (s : State) (r : Req), (s.barred 0x0120 r = none)) :=
  ⟨⟨up [(CMD.REQUESTS, 5)], q3, by decide +kernel⟩,
   ⟨up [(SYS.SEAL_CNT 3, 5)], q3, by decide +kernel⟩,
   ⟨up [(SYS.CFG_REJECT_CNT, 5)], q3, by decide +kernel⟩,
   ⟨up [], q3, 3, by decide +kernel⟩,
   ⟨up [], q3, 511, by decide +kernel⟩,
   ⟨up [], q3, by decide +kernel⟩,
   ⟨up [], q3, by decide +kernel⟩,
   ⟨up [], q3, by decide +kernel⟩⟩

/-- A NOP request of channel 3. -/
def nopBytes : List Byte := requestBytes 0x0101 q3 []

/-- The same with a reserved flag set. -/
def badBytes : List Byte := nopBytes.set 4 0x80#8

/-- Packets that arrived on channel 3. -/
def arrived (l : List (List Byte)) : State := l.foldl (fun s b => after (execRequestArrive 3 b s)) (up [])

/-- That NOP in the request table. -/
def nopFlight (noReply : Bool) : InFlight := ⟨{ q3 with noReply := noReply }, 0x0101, nopBytes, 0, true⟩

/-- The NOP in flight, its outcome recorded. -/
def inFlightNop (noReply : Bool) (l : List Result) : State :=
  { up [] with cmd := { State.reset.cmd with inflight := [nopFlight noReply], results := l } }

/-- An open session on channel 32. -/
def sess : Session := ⟨32, 77, 1, 2, 2, 0x0A000001, 5000, List.replicate 32 1#8, List.replicate 32 2#8, 0, [], 1, [], 0, false⟩

/-- Its client's frame of these datagram bytes. -/
def udpFrame (b : List Byte) : List Byte :=
  be 6 0x020000000001 ++ be 6 0x020000000002 ++ be 2 0x0800 ++ ip4Bytes 0x0A000001 0x0A000002 17 64 0 0 (udpBytes 4 0x0A000001 0x0A000002 5000 5006 true b)

/-- The unit in FIELD with that session, and the datagram at the head of the engine queue of port 2. -/
def withDatagram (b : List Byte) : State :=
  let s := up [(LIFE.STATUS_LC_STATE, 3), (PORT.SUOSH_PORT 2, 5006)]
  let f : RxFrame := ⟨udpFrame b, 0, Rx.ok, false⟩
  let q : Queue := ⟨[], itemEntries (frameItem f 0 9), none⟩
  { s with que := { s.que with queues := s.que.queues.setIfInBounds 5 q }, cmd := { s.cmd with sessions := [sess], nextSession := 78 },
           life := { s.life with keys := s.life.keys.setIfInBounds 1 (2, List.replicate 32 5#8) } }

/-- Its request, CLOSE and OPEN datagrams, and one whose MAC is wrong. -/
def reqDatagram : List Byte := sessionBytes 0 77 5 nopBytes sess.kcd
def closeDatagram : List Byte := sessionBytes 4 77 5 (List.replicate 16 0#8) sess.kcd
def openDatagram : List Byte :=
  sessionBytes 2 0 1 (1#8 :: List.replicate 31 0#8) (hkdf32 (List.replicate 32 5#8) [] (ascii "suosh-open"))
def badDatagram : List Byte := sessionBytes 0 77 5 nopBytes sess.kdc

theorem meets_RequestsThroughTheTable :
    (∃ (s : State) (ch : Nat) (b : List Byte), (ch ≤ 15 ∨ ch = 48 ∨ ch = 49) ∧ (s.roomIn ch b = true)) ∧
    (∃ (s : State) (ch : Nat) (b : List Byte), (ch ≤ 15 ∨ ch = 48 ∨ ch = 49) ∧ (s.roomIn ch b = false)) ∧
    (∃ (s : State) (ch : Nat) (b : List Byte) (f : InFlight),
      let head := s.cmdOpen = true ∧ s.cmd.inflight.length < 512 ∧ 16 ≤ b.length ∧ (s.queue 1).mark = none ∧
        ∃ rest, (s.queue 1).ready = itemEntries (cmdItem ch b) ++ rest ∧ (∀ e ∈ rest, e.lost = false) ∧ (s.absent 7 = true → rest.length ≤ 32);
      (ch < 64) ∧ (head) ∧ (f = ⟨reqOf ch b, pkOp b, b, s.cycles, false⟩) ∧ (s.inFlight ch (reqOf ch b).tag = none) ∧
      (s.requestCheck ch b = none) ∧ (s.barred (pkOp b) (reqOf ch b) = none) ∧ (s.testHolds f = false) ∧ (s.mayStart f = true) ∧
      ((reqOf ch b).all = false) ∧ (s.isDevice (reqOf ch b).device = true)) ∧
    (∃ (s : State) (ch : Nat) (b : List Byte) (rep : Reply),
      let head := s.cmdOpen = true ∧ s.cmd.inflight.length < 512 ∧ 16 ≤ b.length ∧ (s.queue 1).mark = none ∧
        ∃ rest, (s.queue 1).ready = itemEntries (cmdItem ch b) ++ rest ∧ (∀ e ∈ rest, e.lost = false) ∧ (s.absent 7 = true → rest.length ≤ 32);
      (ch < 50) ∧ (head) ∧ (s.inFlight ch (reqOf ch b).tag = none) ∧ (s.requestCheck ch b = some rep)) ∧
    (∃ (s : State) (ch : Nat) (b : List Byte),
      let head := s.cmdOpen = true ∧ s.cmd.inflight.length < 512 ∧ 16 ≤ b.length ∧ (s.queue 1).mark = none ∧
        ∃ rest, (s.queue 1).ready = itemEntries (cmdItem ch b) ++ rest ∧ (∀ e ∈ rest, e.lost = false) ∧ (s.absent 7 = true → rest.length ≤ 32);
      (ch < 64) ∧ (head) ∧ ((s.inFlight ch (reqOf ch b).tag).isSome = true)) ∧
    (∃ (s : State) (ch : Nat) (f : InFlight), (s.inFlight ch f.req.tag = some f) ∧ (ch < 50) ∧ (s.waitOf ch f.req.tag = none) ∧
      (s.test.run = none) ∧ ((s.cmd.results.any fun x => x.channel == ch && x.tag == f.req.tag) = false)) ∧
    (∃ (s : State) (ch : Nat) (f : InFlight) (rep : Reply),
      let it := cmdItem ch (replyBytes f.req f.opcode (pkTagWord f.packet) s.shortTime rep);
      (s.inFlight ch f.req.tag = some f) ∧ (f.req.channel = ch) ∧ (ch < 32) ∧ (f.req.noReply = false) ∧ (s.waitOf ch f.req.tag = none) ∧
      (s.mirrors = false) ∧ ((∀ g ∈ s.cmd.inflight, g.started = true)) ∧ (s.sessionOn ch = none) ∧
      (s.cmd.results = [⟨ch, f.req.tag, f.opcode, rep⟩]) ∧ ((replyPayload rep).length ≤ 65532) ∧ (s.hasRoom 2 (itemEntries it).length = true)) ∧
    (∃ (s : State) (ch : Nat) (f : InFlight) (rep : Reply), (s.inFlight ch f.req.tag = some f) ∧ (f.req.channel = ch) ∧ (f.req.noReply = true) ∧
      (s.waitOf ch f.req.tag = none) ∧ (s.mirrors = false) ∧ ((∀ g ∈ s.cmd.inflight, g.started = true)) ∧
      (s.cmd.results = [⟨ch, f.req.tag, f.opcode, rep⟩])) :=
  ⟨⟨up [], 3, nopBytes, by decide +kernel⟩,
   ⟨up [(QUE.Q_EN 1, 0)], 3, nopBytes, by decide +kernel⟩,
   ⟨arrived [nopBytes], 3, nopBytes, ⟨reqOf 3 nopBytes, pkOp nopBytes, nopBytes, 0, false⟩, ⟨by decide, ⟨by decide +kernel, by decide +kernel,
      by decide +kernel, by decide +kernel, [], by decide +kernel, by decide, by decide⟩, by decide +kernel, by decide +kernel,
      by decide +kernel, by decide +kernel, by decide +kernel, by decide +kernel, by decide +kernel, by decide +kernel⟩⟩,
   ⟨arrived [badBytes], 3, badBytes, Reply.err Status.badParam, ⟨by decide, ⟨by decide +kernel, by decide +kernel, by decide +kernel,
      by decide +kernel, [], by decide +kernel, by decide, by decide⟩, by decide +kernel, by decide +kernel⟩⟩,
   ⟨{ arrived [nopBytes] with cmd := (inFlightNop false []).cmd }, 3, nopBytes, ⟨by decide, ⟨by decide +kernel, by decide +kernel,
      by decide +kernel, by decide +kernel, [], by decide +kernel, by decide, by decide⟩, by decide +kernel⟩⟩,
   ⟨inFlightNop false [], 3, nopFlight false, by decide +kernel⟩,
   ⟨inFlightNop false [⟨3, 7, 0x0101, Reply.ok []⟩], 3, nopFlight false, Reply.ok [], by (dsimp only; decide +kernel)⟩,
   ⟨inFlightNop true [⟨3, 7, 0x0101, Reply.ok []⟩], 3, nopFlight true, Reply.ok [], by decide +kernel⟩⟩

theorem meets_SessionsOpenServeAndClose :
    (∃ (s : State) (s1 : State) (p : Nat) (addr : Nat) (cport : Nat) (mac : Nat) (slot : Nat) (ch : Nat) (b : List Byte),
      let taken := fun (kinds : Nat → Bool) => s.takeDatagram p kinds = some ((addr, cport, mac, b), s1);
      let key := unitAt s.life.keys slot (0, []);
      let late := s1.cmd.opens.filter (fun o => o.1 == p && decide (s1.cycles < o.2 + 1000000 * cyclesPerUs));
      (s.mirrors = false) ∧ (taken (fun k => k == 2)) ∧ (s1.mayDrive = true) ∧ (late.length < 16) ∧ (leAt (datagramBody b) 0 1 = slot) ∧
      (magicOk b = true) ∧ (key.2.isEmpty = false) ∧ (s.sessionsAllowed = true) ∧ (leAt b 4 4 = 0) ∧ (leAt b 8 8 ≠ 0) ∧
      (macOk (hkdf32 key.2 [] (ascii "suosh-open")) b = true) ∧ (s.freeChan = some ch)) ∧
    (∃ (s : State) (s1 : State) (p : Nat) (addr : Nat) (cport : Nat) (mac : Nat) (b : List Byte) (x : Session),
      let taken := fun (kinds : Nat → Bool) => s.takeDatagram p kinds = some ((addr, cport, mac, b), s1);
      (s.mirrors = false) ∧ (taken (fun k => k != 2 && k != 4)) ∧ (s1.mayDrive = true) ∧ (s1.authenticate b = .inl x) ∧ (leAt b 3 1 = 0) ∧
      ((∀ k ∈ x.kept, k.1 ≠ leAt (datagramBody b) 8 4)) ∧ (s1.seqBusy x.chan (leAt (datagramBody b) 8 4) = false) ∧ (s1.cmdOpen = true) ∧
      (s1.hasRoom 1 (itemEntries (cmdItem x.chan (datagramBody b))).length = true)) ∧
    (∃ (s : State) (s1 : State) (p : Nat) (addr : Nat) (cport : Nat) (mac : Nat) (ch : Nat) (b : List Byte),
      let taken := fun (kinds : Nat → Bool) => s.takeDatagram p kinds = some ((addr, cport, mac, b), s1);
      (s.mirrors = false) ∧ (taken (fun k => k != 2 && k != 4)) ∧ (s1.mayDrive = true) ∧ (s1.authenticate b = .inr (ch, 0))) ∧
    (∃ (s : State) (s1 : State) (p : Nat) (addr : Nat) (cport : Nat) (mac : Nat) (b : List Byte) (x : Session),
      let taken := fun (kinds : Nat → Bool) => s.takeDatagram p kinds = some ((addr, cport, mac, b), s1);
      (s.mirrors = false) ∧ (taken (fun k => k == 4)) ∧ (s1.mayDrive = true) ∧ (s1.authenticate b = .inl x)) ∧
    (∃ (s : State) (s1 : State) (p : Nat) (addr : Nat) (cport : Nat) (mac : Nat) (b : List Byte),
      let taken := fun (kinds : Nat → Bool) => s.takeDatagram p kinds = some ((addr, cport, mac, b), s1);
      (s.mirrors = false) ∧ (taken (fun k => k == 2)) ∧ (s1.mayDrive = false)) ∧
    (∃ (s : State) (s1 : State) (p : Nat) (addr : Nat) (cport : Nat) (mac : Nat) (b : List Byte),
      let taken := fun (kinds : Nat → Bool) => s.takeDatagram p kinds = some ((addr, cport, mac, b), s1);
      (s.mirrors = false) ∧ (taken (fun k => k != 2 && k != 4)) ∧ (s1.mayDrive = false)) ∧
    (∃ (s : State) (s1 : State) (p : Nat) (addr : Nat) (cport : Nat) (mac : Nat) (b : List Byte),
      let taken := fun (kinds : Nat → Bool) => s.takeDatagram p kinds = some ((addr, cport, mac, b), s1);
      (s.mirrors = false) ∧ (taken (fun k => k == 4)) ∧ (s1.mayDrive = false)) ∧
    (∃ (s : State) (id : Nat) (x : Session), (s.mirrors = false) ∧ (s.session id = some x)) ∧
    (∃ (s : State) (r : Req) (id : Nat) (x : Session), (s.mirrors = false) ∧ (s.session id = some x) ∧ (id < 2 ^ 32) ∧
      (s.barred 0x0104 r = none) ∧ ((s.sessionOn r.channel).map Session.id ≠ some id) ∧ (2 ≤ s.chanPriv r.channel)) ∧
    (∃ (s : State) (r : Req) (id : Nat) (x : Session), (s.mirrors = false) ∧ (s.session id = some x) ∧ (id < 2 ^ 32) ∧
      (s.barred 0x0104 r = none) ∧ ((s.sessionOn r.channel).map Session.id ≠ some id) ∧ (s.chanPriv r.channel < 2)) ∧
    (∃ (s : State) (r : Req) (id : Nat) (x : Session), (s.mirrors = false) ∧ (s.session id = some x) ∧ (id < 2 ^ 32) ∧
      (s.barred 0x0104 r = none) ∧ ((s.sessionOn r.channel).map Session.id = some id)) ∧
    (∃ (s : State) (r : Req) (x : Session), (s.mirrors = false) ∧ (s.sessionOn r.channel = some x) ∧ (s.barred 0x0104 r = none)) :=
  ⟨⟨withDatagram openDatagram, ((withDatagram openDatagram).takeItem 5).2, 2, 0x0A000001, 5000, 0x020000000002, 1, 33, openDatagram,
      by (dsimp only; decide +kernel)⟩,
   ⟨withDatagram reqDatagram, ((withDatagram reqDatagram).takeItem 5).2, 2, 0x0A000001, 5000, 0x020000000002, reqDatagram,
      { sess with rxHigh := 5, rxSeen := [5] }, by (dsimp only; decide +kernel)⟩,
   ⟨withDatagram badDatagram, ((withDatagram badDatagram).takeItem 5).2, 2, 0x0A000001, 5000, 0x020000000002, 32, badDatagram,
      by (dsimp only; decide +kernel)⟩,
   ⟨withDatagram closeDatagram, ((withDatagram closeDatagram).takeItem 5).2, 2, 0x0A000001, 5000, 0x020000000002, closeDatagram,
      { sess with rxHigh := 5, rxSeen := [5] }, by (dsimp only; decide +kernel)⟩,
   ⟨(withDatagram openDatagram).set SYS.STATUS_STEP 9, (((withDatagram openDatagram).set SYS.STATUS_STEP 9).takeItem 5).2, 2, 0x0A000001, 5000,
      0x020000000002, openDatagram, by (dsimp only; decide +kernel)⟩,
   ⟨(withDatagram reqDatagram).set SYS.STATUS_STEP 9, (((withDatagram reqDatagram).set SYS.STATUS_STEP 9).takeItem 5).2, 2, 0x0A000001, 5000,
      0x020000000002, reqDatagram, by (dsimp only; decide +kernel)⟩,
   ⟨(withDatagram closeDatagram).set SYS.STATUS_STEP 9, (((withDatagram closeDatagram).set SYS.STATUS_STEP 9).takeItem 5).2, 2, 0x0A000001, 5000,
      0x020000000002, closeDatagram, by (dsimp only; decide +kernel)⟩,
   ⟨withDatagram reqDatagram, 77, sess, by decide +kernel⟩,
   ⟨withDatagram reqDatagram, q3, 77, sess, by decide +kernel⟩,
   ⟨withDatagram reqDatagram, { q3 with channel := 48 }, 77, sess, by decide +kernel⟩,
   ⟨withDatagram reqDatagram, { q3 with channel := 32 }, 77, sess, by decide +kernel⟩,
   ⟨withDatagram reqDatagram, { q3 with channel := 32 }, sess, by decide +kernel⟩⟩

theorem meets_CspTransactions :
    (∃ (s : State) (off : Nat), (s.boot.dormant = false) ∧ (off < 2 ^ 24)) ∧
    (∃ (s : State) (off : Nat), (s.boot.dormant = false) ∧ (off < 2 ^ 24)) ∧
    (∃ (s : State) (off : Nat) (b : List Byte), (s.boot.dormant = false) ∧ (off < 2 ^ 24) ∧ (s.cmdOpen = true) ∧ (s.csp.inBox = none) ∧
      (16 ≤ b.length) ∧ (b.length ≤ 65552) ∧ (s.roomIn 16 b = true)) ∧
    (∃ (s : State) (off : Nat), (s.boot.dormant = false) ∧ (off < 2 ^ 24) ∧ (s.csp.inBox.isSome = true)) ∧
    (∃ (s : State) (off : Nat) (n : Nat) (b : List Byte), (s.boot.dormant = false) ∧ (off < 2 ^ 24) ∧ (s.csp.outBox = some b) ∧ (b.length ≤ n)) ∧
    (∃ (s : State) (off : Nat), (s.boot.dormant = false) ∧ (off < 2 ^ 24) ∧ (s.on CMD.EVT_ROUTE = false)) ∧
    (∃ (s : State) (off : Nat) (it : QItem) (rest : List QEntry), (s.boot.dormant = false) ∧ (off < 2 ^ 24) ∧ (s.on CMD.EVT_ROUTE = true) ∧
      ((s.queue 0).ready = ⟨.head it, false⟩ :: rest) ∧ (it.body = []) ∧ ((s.queue 0).mark = none) ∧ (s.bellowsOf 0 = none) ∧
      (it.hdr.length = 16) ∧ ((∀ e ∈ rest, e.lost = false)) ∧ ((s.absent 7 = true → rest.length ≤ 32))) :=
  ⟨⟨up [], 0x80070, by decide +kernel⟩,
   ⟨up [], 0x80070, by decide +kernel⟩,
   ⟨up [], 0, nopBytes, by decide +kernel⟩,
   ⟨{ up [] with csp := { State.reset.csp with inBox := some nopBytes } }, 0, by decide +kernel⟩,
   ⟨{ up [] with csp := { State.reset.csp with outBox := some nopBytes } }, 0, 16, nopBytes, by decide +kernel⟩,
   ⟨up [], 0, by decide +kernel⟩,
   ⟨{ up [(CMD.EVT_ROUTE, 1)] with que := { State.reset.que with queues := State.reset.que.queues.setIfInBounds 0 ⟨[], [⟨.head ⟨List.replicate 16 7#8, []⟩, false⟩], none⟩ } }, 0, ⟨List.replicate 16 7#8, []⟩, [], by decide +kernel⟩⟩

/-- Port n's services hold what `f` makes of them. -/
def svcAt (n : Nat) (l : List (Fld × Nat)) (f : PortSvc → PortSvc) : State := (up ((PORT.LINK_UP n, 1) :: (PAIR.STATUS_DRIVE, 1) :: l)).setPsvc n (f PortSvc.reset)

/-- The services outside the ports hold what `f` makes of them. -/
def svcState (s : State) (f : SvcState → SvcState) : State := { s with svc := f s.svc }

/-- A group held on a port by MCAST_JOIN. -/
def grp : Group := ⟨4, 0xEF010203, 4, 0, [], 1, 2⟩

/-- The text that SDP_GET gives for a stream. -/
def sdpOf : List Byte := (txSet [(TXE.LEG_PORT 5 0, 0)]).sdpText 1 5 1

/-- One of a stream of more channels than a standard entry holds. -/
def sdpBig : List Byte := (txSet [(TXE.CHANNELS 5, 65)]).sdpText 1 5 1

/-- An engine frame for port 1. -/
def engineFrame (b : List Byte) (f : PortSvc → PortSvc) : State :=
  let s := svcAt 1 [] f
  let q : Queue := ⟨[], itemEntries (frameItem ⟨b, 0, Rx.ok, false⟩ 0 0), none⟩
  { s with que := { s.que with queues := s.que.queues.setIfInBounds 4 q } }

/-- An ARP frame: its operation, sender and target. -/
def arpOf (op spa tpa : Nat) : List Byte :=
  be 6 bcastMac ++ be 6 0x020000000002 ++ be 2 0x0806 ++ be 2 1 ++ be 2 0x0800 ++ [6, 4] ++ be 2 op ++ be 6 0x020000000002 ++ be 4 spa ++
    be 6 0 ++ be 4 tpa ++ List.replicate 22 0#8

theorem meets_ServiceSettings :
    (∃ (s : State) (r : Req) (n : Nat) (a : Nat) (k : Nat), (n < 4) ∧ (s.barred 0x0410 r = none) ∧ (a < 2 ^ 32) ∧ (k ≤ 32)) ∧
    (∃ (s : State) (r : Req) (n : Nat) (a : Nat) (m : Nat) (e : Nat),
      let x := s.psvc n;
      let four := swapBytes 4 a;
      let joined := x.groups.find? (fun h => h.ip == 4 && h.addr == four && h.reason == 4);
      (n < 4) ∧ (s.barred 0x0412 r = none) ∧ (a < 2 ^ 32) ∧ (m < 2) ∧ (isMulticast 4 four = true) ∧ (joined = none) ∧
      (s.entryFor n (groupMac 4 four) = some e)) ∧
    (∃ (s : State) (r : Req) (n : Nat) (a : Nat) (m : Nat),
      let x := s.psvc n;
      let four := swapBytes 4 a;
      let joined := x.groups.find? (fun h => h.ip == 4 && h.addr == four && h.reason == 4);
      (n < 4) ∧ (s.barred 0x0412 r = none) ∧ (a < 2 ^ 32) ∧ (m < 2) ∧ (isMulticast 4 four = true) ∧ (joined = none) ∧
      (s.entryFor n (groupMac 4 four) = none)) ∧
    (∃ (s : State) (r : Req) (n : Nat) (a : Nat) (g : Group),
      let x := s.psvc n;
      let four := swapBytes 4 a;
      let joined := x.groups.find? (fun h => h.ip == 4 && h.addr == four && h.reason == 4);
      (n < 4) ∧ (s.barred 0x0413 r = none) ∧ (a < 2 ^ 32) ∧ (joined = some g) ∧ (g.users ≤ 1)) ∧
    (∃ (s : State) (r : Req) (n : Nat) (a : Nat),
      let x := s.psvc n;
      let four := swapBytes 4 a;
      let joined := x.groups.find? (fun h => h.ip == 4 && h.addr == four && h.reason == 4);
      (n < 4) ∧ (s.barred 0x0413 r = none) ∧ (a < 2 ^ 32) ∧ (joined = none)) ∧
    (∃ (s : State) (n : Nat) (a : Nat) (ip : Nat) (g : Group),
      let x := s.psvc n;
      (n < 4) ∧ (x.groups.find? (fun h => h.ip == ip && h.addr == a && decide (0 < h.left)) = some g) ∧ (s.on (PORT.LINK_UP n) = true)) ∧
    (∃ (s : State) (r : Req) (n : Nat) (k : Nat) (sp : Nat) (mode : Nat) (rp : Nat) (np : Nat) (up : Nat), (n < 4) ∧ (s.barred 0x0C01 r = none) ∧
      (1 ≤ k) ∧ (k ≤ 63) ∧ (sp < 16) ∧ (mode < 4) ∧ (rp < 2 ^ 16) ∧ (np < 2 ^ 16) ∧ (up < 2 ^ 16)) ∧
    (∃ (s : State) (r : Req) (n : Nat) (b : Nat) (an : Nat) (iv : Nat) (li : Nat), (n < 4) ∧ (s.barred 0x0C04 r = none) ∧ (b < 2 ^ 512) ∧
      (an < 2) ∧ (1 ≤ iv) ∧ (iv ≤ 300) ∧ (li < 2)) ∧
    (∃ (s : State) (r : Req) (n : Nat), (n < 4) ∧ (s.barred 0x0C07 r = none)) ∧
    (∃ (s : State) (r : Req) (n : Nat) (i : Nat) (dir : Nat) (ex : Nat), (n < 4) ∧ (s.barred 0x0C09 r = none) ∧ (dir < 2) ∧ (i < 512) ∧ (ex < 2)) ∧
    (∃ (s : State) (r : Req) (n : Nat) (k : Nat) (v : Nat) (i : Nat) (ports : Nat) (ln : Nat), (n < 4) ∧ (s.barred 0x0C03 r = none) ∧ (i < 512) ∧
      (k ≤ 4096) ∧ (ports < 4) ∧ (s.sdpWrites i ports (le k v) = .inr ln)) ∧
    (∃ (s : State) (r : Req) (n : Nat) (k : Nat) (v : Nat) (i : Nat) (ports : Nat) (ln : Nat) (ws : List (Fld × Nat)),
      let after := ws.foldl (fun s w => s.write w.1 (sdpUpd i w.1) w.2) s;
      (n < 4) ∧ (s.barred 0x0C03 r = none) ∧ (i < 512) ∧ (k ≤ 4096) ∧ (ports < 4) ∧ (s.sdpWrites i ports (le k v) = .inl (ln, ws)) ∧
      ((s.entry 0 i).on = false) ∧ (after.limitsOk 0 i = true)) ∧
    (∃ (s : State) (r : Req) (n : Nat) (k : Nat) (v : Nat) (i : Nat) (ports : Nat) (ln : Nat) (ws : List (Fld × Nat)),
      let after := ws.foldl (fun s w => s.write w.1 (sdpUpd i w.1) w.2) s;
      (n < 4) ∧ (s.barred 0x0C03 r = none) ∧ (i < 512) ∧ (k ≤ 4096) ∧ (ports < 4) ∧ (s.sdpWrites i ports (le k v) = .inl (ln, ws)) ∧
      ((s.entry 0 i).on = false) ∧ (after.limitsOk 0 i = false)) ∧
    (∃ (s : State) (r : Req) (n : Nat) (k : Nat) (v : Nat) (i : Nat) (ports : Nat) (ln : Nat) (ws : List (Fld × Nat)), (n < 4) ∧
      (s.barred 0x0C03 r = none) ∧ (i < 512) ∧ (k ≤ 4096) ∧ (ports < 4) ∧ (s.sdpWrites i ports (le k v) = .inl (ln, ws)) ∧
      ((s.entry 0 i).on = true) ∧ ((∃ w ∈ ws, sdpUpd i w.1 = .static ∧ w.2 % 2 ^ w.1.w ≠ s.get w.1))) :=
  ⟨⟨svcAt 3 [] id, q3, 3, 0x0200000A, 24, by decide +kernel⟩,
   ⟨svcAt 3 [] id, q3, 3, 0x030201EF, 1, 0, by (dsimp only; decide +kernel)⟩,
   ⟨svcAt 3 ((List.range 16).map (fun e => (PORT.MATCH_EN 3 e, 1))) id, q3, 3, 0x030201EF, 1, by (dsimp only; decide +kernel)⟩,
   ⟨svcAt 3 [] (fun x => { x with groups := [grp] }), q3, 3, 0x030201EF, grp, by (dsimp only; decide +kernel)⟩,
   ⟨svcAt 3 [] id, q3, 3, 0x030201EF, by (dsimp only; decide +kernel)⟩,
   ⟨svcAt 3 [] (fun x => { x with groups := [grp] }), 3, 0xEF010203, 4, grp, by (dsimp only; decide +kernel)⟩,
   ⟨up [], q3, 0, 3, 15, 3, 0xFFFF, 80, 47200, by decide +kernel⟩,
   ⟨up [], q3, 0, 2 ^ 511 + 1, 1, 300, 1, by decide +kernel⟩,
   ⟨up [], q3, 0, by decide +kernel⟩,
   ⟨up [], q3, 0, 511, 1, 1, by decide +kernel⟩,
   ⟨up [], q3, 0, 3, 0x616263, 5, 3, 1, by decide +kernel⟩,
   ⟨rxSet [], q3, 0, sdpOf.length, ofLe sdpOf, 5, 0, ((rxSet []).sdpWrites 5 0 sdpOf).elim Prod.fst id,
      ((rxSet []).sdpWrites 5 0 sdpOf).elim Prod.snd (fun _ => []), by (dsimp only; decide +kernel)⟩,
   ⟨rxSet [], q3, 0, sdpBig.length, ofLe sdpBig, 5, 0, ((rxSet []).sdpWrites 5 0 sdpBig).elim Prod.fst id,
      ((rxSet []).sdpWrites 5 0 sdpBig).elim Prod.snd (fun _ => []), by (dsimp only; decide +kernel)⟩,
   ⟨rxOn, q3, 0, sdpOf.length, ofLe sdpOf, 5, 0, (rxOn.sdpWrites 5 0 sdpOf).elim Prod.fst id,
      (rxOn.sdpWrites 5 0 sdpOf).elim Prod.snd (fun _ => []), by decide +kernel⟩⟩

theorem meets_ServiceEvents :
    (∃ (s : State) (p : Nat) (it : QItem) (z : Bool) (rest : List QEntry),
      let h := headers it.body;
      let c := s.protoClass p h;
      (p < 4) ∧ ((s.queue (3 + p)).ready = ⟨.head it, z⟩ :: rest) ∧ ((∀ e ∈ rest, e.lost = false)) ∧ ((s.absent 7 = true → rest.length ≤ 32)) ∧
      (c = 5 ∨ c = 8 ∨ c = 9)) ∧
    (∃ (s : State) (p : Nat) (it : QItem) (z : Bool) (rest : List QEntry),
      let h := headers it.body;
      let c := s.protoClass p h;
      (p < 4) ∧ ((s.queue (3 + p)).ready = ⟨.head it, z⟩ :: rest) ∧ ((∀ e ∈ rest, e.lost = false)) ∧ ((s.absent 7 = true → rest.length ≤ 32)) ∧
      (c ≠ 5) ∧ (c ≠ 8) ∧ (c ≠ 9)) ∧
    (∃ (s : State) (p : Nat) (it : QItem) (z : Bool) (rest : List QEntry),
      let x := s.psvc p;
      let up := s.on (PORT.LINK_UP p) = true;
      let h := headers it.body;
      let c := s.protoClass p h;
      let f := fun (o n : Nat) => beAt it.body (h.l3 + o) n;
      (p < 4) ∧ ((s.queue (3 + p)).ready = ⟨.head it, z⟩ :: rest) ∧ ((∀ e ∈ rest, e.lost = false)) ∧ ((s.absent 7 = true → rest.length ≤ 32)) ∧
      (c = 0) ∧ (f 6 2 = 1) ∧ (f 24 4 ≠ 0) ∧ (f 24 4 = x.ip.v4Use) ∧ (f 14 4 ≠ 0) ∧ (s.mayDrive = true) ∧ (up)) ∧
    (∃ (s : State) (p : Nat) (it : QItem) (z : Bool) (rest : List QEntry),
      let x := s.psvc p;
      let h := headers it.body;
      let c := s.protoClass p h;
      let f := fun (o n : Nat) => beAt it.body (h.l3 + o) n;
      (p < 4) ∧ ((s.queue (3 + p)).ready = ⟨.head it, z⟩ :: rest) ∧ ((∀ e ∈ rest, e.lost = false)) ∧ ((s.absent 7 = true → rest.length ≤ 32)) ∧
      (c = 0) ∧ (f 6 2 = 2) ∧ (f 14 4 ≠ 0) ∧ (f 14 4 = x.ip.cand)) ∧
    (∃ (s : State) (p : Nat),
      let x := s.psvc p;
      let up := s.on (PORT.LINK_UP p) = true;
      (p < 4) ∧ (x.ip.cand ≠ 0) ∧ (x.ip.probes < 3) ∧ (up)) ∧
    (∃ (s : State) (p : Nat),
      let x := s.psvc p;
      (p < 4) ∧ (x.ip.cand ≠ 0) ∧ (3 ≤ x.ip.probes)) ∧
    (∃ (p : Nat), (p < 4)) ∧
    (∃ (s : State) (p : Nat),
      let x := s.psvc p;
      let up := s.on (PORT.LINK_UP p) = true;
      (p < 4) ∧ (2 ≤ x.cfg.v4Mode) ∧ (x.ip.leaseTotal ≠ 0) ∧ (up)) ∧
    (∃ (s : State) (p : Nat),
      let x := s.psvc p;
      let up := s.on (PORT.LINK_UP p) = true;
      (p < 4) ∧ (2 ≤ x.cfg.v4Mode) ∧ (x.ip.leaseTotal ≠ 0) ∧ (up)) ∧
    (∃ (s : State) (p : Nat),
      let x := s.psvc p;
      (p < 4) ∧ (2 ≤ x.cfg.v4Mode) ∧ (x.ip.leaseTotal = 0)) ∧
    (∃ (s : State) (p : Nat),
      let x := s.psvc p;
      let up := s.on (PORT.LINK_UP p) = true;
      (p < 4) ∧ (2 ≤ x.cfg.v4Mode) ∧ (x.ip.leaseTotal = 0) ∧ (up)) ∧
    (∃ (s : State) (p : Nat) (i : Nat),
      let wanted := s.servicesOn = true ∧ s.svc.sapAnnounce = 1 ∧ s.svc.sapStreams.testBit i = true ∧ (s.entry 1 i).on = true;
      (p < 4) ∧ (i < 512) ∧ (wanted)) ∧
    (∃ (s : State) (p : Nat) (i : Nat),
      let old := s.svc.sapSent.find? (fun y => y.1 == i);
      let wanted := s.servicesOn = true ∧ s.svc.sapAnnounce = 1 ∧ s.svc.sapStreams.testBit i = true ∧ (s.entry 1 i).on = true;
      (p < 4) ∧ (i < 512) ∧ (¬ wanted) ∧ (old ≠ none)) ∧
    (∃ (s : State) (p : Nat) (i : Nat),
      let old := s.svc.sapSent.find? (fun y => y.1 == i);
      let wanted := s.servicesOn = true ∧ s.svc.sapAnnounce = 1 ∧ s.svc.sapStreams.testBit i = true ∧ (s.entry 1 i).on = true;
      (p < 4) ∧ (i < 512) ∧ (¬ wanted) ∧ (old = none)) ∧
    (∃ (s : State) (p : Nat) (opens : Bool),
      let x := s.psvc p;
      (p < 4) ∧ (s.svc.nmosMode ≠ 0) ∧ (s.servicesOn = true) ∧ (s.mayDrive = true) ∧ (opens = true) ∧ (8 ≤ x.http)) ∧
    (∃ (s : State) (p : Nat) (opens : Bool),
      let x := s.psvc p;
      (p < 4) ∧ (s.svc.nmosMode ≠ 0) ∧ (s.servicesOn = true) ∧ (s.mayDrive = true) ∧ ((opens = true → x.http < 8))) ∧
    (∃ (s : State) (p : Nat), (p < 4) ∧ (2 ≤ s.svc.nmosMode) ∧ (s.servicesOn = true) ∧ (s.mayDrive = true)) ∧
    (∃ (s : State) (p : Nat) (i : Nat) (d : Nat) (due : Option Nat), (p < 4) ∧ (i < 512) ∧ (d < 2 ^ 16) ∧
      (due.any (fun w => decide (s.ctr < w)) = true)) ∧
    (∃ (s : State) (p : Nat) (i : Nat) (d : Nat) (due : Option Nat), (p < 4) ∧ (i < 512) ∧ (d < 2 ^ 16) ∧ (s.servicesOn = true) ∧
      (s.mayDrive = true) ∧ (s.svc.nmosMode ≠ 0) ∧ (due.any (fun w => decide (s.ctr < w)) = false) ∧
      ((∀ e ∈ s.svc.exposed, e.dir = 1 → e.stream = i → e.staged = [] ∧ e.enable = none)) ∧ ((s.entry 1 i).on = false)) ∧
    (∃ (s : State) (p : Nat) (i : Nat) (d : Nat) (due : Option Nat), (p < 4) ∧ (i < 512) ∧ (d < 2 ^ 16) ∧ (s.servicesOn = true) ∧
      (s.mayDrive = true) ∧ (s.svc.nmosMode ≠ 0) ∧ (due.any (fun w => decide (s.ctr < w)) = false) ∧
      ((∀ e ∈ s.svc.exposed, e.dir = 1 → e.stream = i → e.staged = [] ∧ e.enable = none)) ∧ ((s.entry 1 i).on = true) ∧
      (s.get (TXE.LEG_UDP_DPORT i 0) ≠ d)) :=
  ⟨⟨withDatagram reqDatagram, 2, frameItem ⟨udpFrame reqDatagram, 0, Rx.ok, false⟩ 0 9, false, ((withDatagram reqDatagram).queue 5).ready.drop 1,
      by (dsimp only; decide +kernel)⟩,
   ⟨engineFrame (arpOf 1 0x0A000001 0x0A000002) id, 1, frameItem ⟨arpOf 1 0x0A000001 0x0A000002, 0, Rx.ok, false⟩ 0 0, false,
      ((engineFrame (arpOf 1 0x0A000001 0x0A000002) id).queue 4).ready.drop 1, by (dsimp only; decide +kernel)⟩,
   ⟨engineFrame (arpOf 1 0x0A000001 0x0A000002) (fun x => { x with ip := { x.ip with v4Use := 0x0A000002 } }), 1,
      frameItem ⟨arpOf 1 0x0A000001 0x0A000002, 0, Rx.ok, false⟩ 0 0, false,
      ((engineFrame (arpOf 1 0x0A000001 0x0A000002) id).queue 4).ready.drop 1, by (dsimp only; decide +kernel)⟩,
   ⟨engineFrame (arpOf 2 0x0A000001 0x0A000002) (fun x => { x with ip := { x.ip with cand := 0x0A000001 } }), 1,
      frameItem ⟨arpOf 2 0x0A000001 0x0A000002, 0, Rx.ok, false⟩ 0 0, false,
      ((engineFrame (arpOf 2 0x0A000001 0x0A000002) id).queue 4).ready.drop 1, by (dsimp only; decide +kernel)⟩,
   ⟨svcAt 1 [] (fun x => { x with ip := { x.ip with cand := 0x0A000001, probes := 2 } }), 1, by (dsimp only; decide +kernel)⟩,
   ⟨svcAt 1 [] (fun x => { x with ip := { x.ip with cand := 0x0A000001, probes := 3 } }), 1, by (dsimp only; decide +kernel)⟩,
   ⟨1, by decide +kernel⟩,
   ⟨svcAt 1 [] (fun x => { x with cfg := { x.cfg with v4Mode := 3 }, ip := { x.ip with leaseTotal := 600, v4Use := 0x0A000002 } }), 1,
      by (dsimp only; decide +kernel)⟩,
   ⟨svcAt 1 [] (fun x => { x with cfg := { x.cfg with v4Mode := 3 }, ip := { x.ip with leaseTotal := 600, v4Use := 0x0A000002 } }), 1,
      by (dsimp only; decide +kernel)⟩,
   ⟨svcAt 1 [] (fun x => { x with cfg := { x.cfg with v4Mode := 3 } }), 1, by (dsimp only; decide +kernel)⟩,
   ⟨svcAt 1 [] (fun x => { x with cfg := { x.cfg with v4Mode := 3 } }), 1, by (dsimp only; decide +kernel)⟩,
   ⟨svcState txOn (fun x => { x with sapAnnounce := 1, sapStreams := 32 }), 1, 5, by (dsimp only; decide +kernel)⟩,
   ⟨svcState (up []) (fun x => { x with sapSent := [(5, [1])] }), 0, 5, by (dsimp only; decide +kernel)⟩,
   ⟨up [], 0, 5, by (dsimp only; decide +kernel)⟩,
   ⟨svcState (svcAt 1 [] (fun x => { x with http := 8 })) (fun x => { x with nmosMode := 1 }), 1, true, by (dsimp only; decide +kernel)⟩,
   ⟨svcState (svcAt 1 [] (fun x => { x with http := 7 })) (fun x => { x with nmosMode := 1 }), 1, true, by (dsimp only; decide +kernel)⟩,
   ⟨svcState (up []) (fun x => { x with nmosMode := 2, regState := 3, missed := 2 }), 1, by decide +kernel⟩,
   ⟨svcState (txSet []) (fun x => { x with nmosMode := 1 }), 1, 5, 0xFFFF, some 5, by decide +kernel⟩,
   ⟨svcState (txSet []) (fun x => { x with nmosMode := 1 }), 1, 5, 0xFFFF, some 0, by decide +kernel⟩,
   ⟨svcState txOn (fun x => { x with nmosMode := 1 }), 1, 5, 0xFFFF, none, by decide +kernel⟩⟩

theorem meets_Nc512SlotsGainsAndRamps :
    (∃ (s : State) (r : Req) (b : List Byte) (d c : Nat), s.mirrors = false ∧ b.length = 8 ∧ s.barred 0x1001 r = none ∧
      s.barred 0x0601 r = none ∧ (leAt b 0 2 < 512 ∧ d = leAt b 0 2) ∧ (704 ≤ leAt b 2 2 ∧ leAt b 2 2 < 768 ∧ c = 5376 + (leAt b 2 2 - 704))) ∧
    (∃ (s : State) (r : Req) (b : List Byte) (d c : Nat), s.mirrors = false ∧ b.length = 8 ∧ s.barred 0x1001 r = none ∧
      s.barred 0x0601 r = none ∧ (∃ p q, p < 16 ∧ q < 8 ∧ leAt b 0 2 = 512 + 8 * p + q ∧ d = 2048 + 32 * p + q) ∧
      (640 ≤ leAt b 2 2 ∧ leAt b 2 2 < 704 ∧ c = 5120 + (leAt b 2 2 - 640))) ∧
    (∃ (s : State) (r : Req) (b : List Byte), s.mirrors = false ∧ b.length = 8 ∧ s.barred 0x1001 r = none ∧
      s.barred 0x0601 r = none ∧ (768 ≤ leAt b 0 2 ∨ 768 ≤ leAt b 2 2)) ∧
    (∃ (s : State) (r : Req) (b : List Byte) (d : Nat), s.mirrors = false ∧ b.length = 8 ∧ s.barred 0x1002 r = none ∧
      s.barred 0x0602 r = none ∧ (640 ≤ leAt b 0 2 ∧ leAt b 0 2 < 768 ∧ d = 5128 + (leAt b 0 2 - 640))) ∧
    (∃ (s : State) (r : Req) (b : List Byte), s.mirrors = false ∧ b.length = 8 ∧ s.barred 0x1002 r = none ∧
      s.barred 0x0602 r = none ∧ 768 ≤ leAt b 0 2) ∧
    (∃ (s : State) (r : Req) (b : List Byte) (d : Nat), s.mirrors = false ∧ b.length = 4 ∧ s.barred 0x1003 r = none ∧
      s.barred 0x0603 r = none ∧ (leAt b 0 2 < 512 ∧ d = leAt b 0 2)) ∧
    (∃ (s : State) (r : Req) (b : List Byte), s.mirrors = false ∧ b.length = 4 ∧ s.barred 0x1003 r = none ∧
      s.barred 0x0603 r = none ∧ 768 ≤ leAt b 0 2) :=
  ⟨⟨up [], q3, le 2 511 ++ le 2 767 ++ le 2 0x8000 ++ le 2 5, 511, 5439, by decide +kernel⟩,
   ⟨up [], q3, le 2 639 ++ le 2 703 ++ le 2 0x7FFF ++ le 2 0xFFFF, 2535, 5183, by decide +kernel, by decide +kernel, by decide +kernel,
     by decide +kernel, ⟨15, 7, by decide +kernel⟩, by decide +kernel⟩,
   ⟨up [], q3, le 2 0 ++ le 2 768 ++ le 4 0, by decide +kernel⟩,
   ⟨up [], q3, le 2 640 ++ le 2 0xFFFF ++ le 4 1, 5128, by decide +kernel⟩,
   ⟨up [], q3, le 2 768 ++ le 6 0, by decide +kernel⟩,
   ⟨up [], q3, le 2 0 ++ le 2 1000, 0, by decide +kernel⟩,
   ⟨up [], q3, le 2 0xFFFF ++ le 2 0, by decide +kernel⟩⟩

/-- The bytes of N5_STREAM_RX and N5_STREAM_TX: stream 127, two channels from slot 510, with the enable `en`. -/
def n5Stream (en : Nat) : List Byte :=
  le 2 127 ++ [2, 1] ++ le 2 48 ++ [1, 0] ++ le 4 0xEF010203 ++ le 2 5004 ++ le 1 en ++ [0] ++ le 2 510 ++ [0, 0]

/-- Thirty-two streams of each direction, 64 channels each, fill the budget of R7. -/
def manyOn (f : Nat → Fld) : State :=
  let s := up ((List.range 32).map (fun i => (f i, 64)))
  let rx : List RxRun := (List.range 32).map (fun i => ⟨i, ⟨0, 0, [], []⟩, ⟨none, none⟩, ⟨none, none⟩, 0, none, [], false⟩)
  let tx : List TxRun := (List.range 32).map (fun i => ⟨i, none, 0, 0, none⟩)
  { s with strm := { s.strm with rx := rx, tx := tx } }

/-- The bytes of N5_TDM_PORT for port 15. -/
def n5Port (en : Nat) : List Byte := [15, 0, 8, 1] ++ le 1 en ++ [0, 0, 0]

/-- A ready unit with bus 63 of one term at 100. -/
def busUp : State := up [(BUS.TERM_BASE 63, 100), (BUS.TERM_COUNT 63, 1)]

/-- A unit with group 1 of TDM ports in a mode, and its converters as the commands left them. -/
def n5Tdm : State := up [(TDM.G_MODE 1, 1)]

/-- A unit that may start a commanded run on a spare memory bank. -/
def testUp : State := up [(LIFE.STATUS_LC_STATE, 4), (QUE.BANK_ROLE 8, 1)]

theorem meets_Nc512Commands :
    (∃ (s : State) (r : Req) (b : List Byte), s.barred 0x1004 r = none ∧ s.barred 0x0604 r = none ∧ s.anvil.commits = [] ∧ s.mirrors = false ∧
      leAt b 0 1 ≤ 63 ∧ leAt b 1 1 = 0 ∧ b.length = 4 ∧
      (s.applyEntries s [⟨2, leAt b 0 1, s.get (BUS.TERM_COUNT (leAt b 0 1)) * 2 ^ 16 + s.get (BUS.TERM_BASE (leAt b 0 1)), 0, 0, false,
        none⟩]).tblCheck.1 = 0) ∧
    (∃ (s : State) (r : Req) (b : List Byte), s.barred 0x1004 r = none ∧ s.barred 0x0604 r = none ∧ s.anvil.commits = [] ∧ s.mirrors = false ∧
      leAt b 0 1 ≤ 63 ∧ leAt b 1 1 = 1 ∧ b.length = 8 ∧ leAt b 2 2 < 512 ∧ 1 ≤ s.get (BUS.TERM_COUNT (leAt b 0 1)) ∧
      (s.applyEntries s [⟨1, s.get (BUS.TERM_BASE (leAt b 0 1)), leAt b 2 2, (ofSigned 24 (toSigned 16 (leAt b 4 2) * 64)), 0, false,
          none⟩, ⟨2, leAt b 0 1, 2 ^ 31 + 2 ^ 16 + s.get (BUS.TERM_BASE (leAt b 0 1)), 0, 0, false, none⟩]).tblCheck.1 = 0) ∧
    (∃ (s : State) (r : Req) (b : List Byte) (i : Nat), i = leAt b 0 2 ∧ b.length = 20 ∧ i < 128 ∧ 1 ≤ leAt b 2 1 ∧ leAt b 2 1 ≤ 64 ∧ leAt b 3 1 < 2 ∧
      leAt b 4 2 < 2048 ∧ leAt b 6 1 < 2 ∧ leAt b 14 1 < 2 ∧ leAt b 16 2 + leAt b 2 1 ≤ 512 ∧ s.barred 0x0503 r = none ∧
      s.barred 0x1010 r = none ∧ s.barred 0x0501 r = none ∧ (s.entry 0 i).on = false ∧ i ∉ s.streams 0 ∧
      s.units 0 + leAt b 2 1 * (s.entry 0 i).k ≤ 2048) ∧
    (∃ (s : State) (r : Req) (b : List Byte) (i : Nat), i = leAt b 0 2 ∧ b.length = 20 ∧ i < 128 ∧ 1 ≤ leAt b 2 1 ∧ leAt b 2 1 ≤ 64 ∧ leAt b 3 1 < 2 ∧
      leAt b 4 2 < 2048 ∧ leAt b 6 1 < 2 ∧ leAt b 14 1 = 1 ∧ leAt b 16 2 + leAt b 2 1 ≤ 512 ∧ s.barred 0x0503 r = none ∧
      s.barred 0x1010 r = none ∧ s.barred 0x0501 r = none ∧ (s.entry 0 i).on = false ∧ i ∉ s.streams 0 ∧ 2048 < s.units 0 + leAt b 2 1 * (s.entry 0 i).k) ∧
    (∃ (s : State) (r : Req) (b : List Byte) (i : Nat), i = leAt b 0 2 ∧ b.length = 20 ∧ i < 128 ∧ 1 ≤ leAt b 2 1 ∧ leAt b 2 1 ≤ 64 ∧ leAt b 3 1 < 2 ∧
      leAt b 4 2 < 2048 ∧ leAt b 6 1 < 2 ∧ leAt b 14 1 < 2 ∧ leAt b 16 2 + leAt b 2 1 ≤ 512 ∧ s.barred 0x0503 r = none ∧
      s.barred 0x1011 r = none ∧ s.barred 0x0502 r = none ∧ (s.entry 1 i).on = false ∧ i ∉ s.streams 1 ∧
      s.units 1 + leAt b 2 1 * (s.entry 1 i).k ≤ 2048) ∧
    (∃ (s : State) (r : Req) (b : List Byte) (i : Nat), i = leAt b 0 2 ∧ b.length = 20 ∧ i < 128 ∧ 1 ≤ leAt b 2 1 ∧ leAt b 2 1 ≤ 64 ∧ leAt b 3 1 < 2 ∧
      leAt b 4 2 < 2048 ∧ leAt b 6 1 < 2 ∧ leAt b 14 1 = 1 ∧ leAt b 16 2 + leAt b 2 1 ≤ 512 ∧ s.barred 0x0503 r = none ∧
      s.barred 0x1011 r = none ∧ s.barred 0x0502 r = none ∧ (s.entry 1 i).on = false ∧ i ∉ s.streams 1 ∧ 2048 < s.units 1 + leAt b 2 1 * (s.entry 1 i).k) ∧
    (∃ (s : State) (r : Req) (b : List Byte) (p : Nat), p = leAt b 0 1 ∧ b.length = 8 ∧ p < 16 ∧ leAt b 1 1 < 4 ∧ 2 ≤ leAt b 2 1 ∧ leAt b 2 1 ≤ 8 ∧
      leAt b 3 1 < 3 ∧ leAt b 4 1 < 2 ∧ s.barred 0x1020 r = none ∧ s.barred 0x0702 r = none ∧ s.barred 0x0704 r = none ∧
      s.barred 0x0705 r = none ∧ s.get (TDM.P_STATE p) = 0 ∧ s.get (TDM.P_PORT_EN p) = 0 ∧ leAt b 4 1 = 1 ∧
      (after (execN5TdmPort r b s)).tdmCfgErr p = false ∧ s.get (TDM.G_MODE (p / 8)) ≠ 0 ∧ s.noStart 3 (p / 8) = false ∧
      s.tdmConverts (p / 8) = false) ∧
    (∃ (s : State) (r : Req) (b : List Byte), b.length = 8 ∧ (∀ n, n < 7 → leAt b n 1 < 16) ∧ s.barred 0x1030 r = none ∧
      s.barred 0x0304 r = none) ∧
    (∃ (s : State) (r : Req) (b : List Byte) (u : Nat), b.length = 4 ∧ s.barred 0x1050 r = none ∧ s.runAllowed 1 = true ∧ s.test.run = none ∧
      s.test.slice = none ∧ u < 9 ∧ leAt b 0 2 = 2 ^ u ∧ s.role 1 u = 1) ∧
    (∃ (s : State) (r : Req) (b : List Byte), b.length = 4 ∧ s.barred 0x1050 r = none ∧ s.runAllowed 1 = true ∧ s.test.run = none ∧
      s.test.slice = none ∧ leAt b 0 2 = 0) ∧
    (∃ (s : State) (r : Req) (b : List Byte), b.length ≠ 8 ∧ s.barred 0x1001 r = none) :=
  ⟨⟨busUp, q3, [63, 0, 0, 0], by decide +kernel⟩,
   ⟨busUp, q3, [63, 1] ++ le 2 511 ++ le 2 0x8000 ++ [0, 0], by decide +kernel⟩,
   ⟨up [], q3, n5Stream 1, 127, by decide +kernel⟩,
   ⟨manyOn RXE.CHANNELS, q3, n5Stream 1, 127, by decide +kernel⟩,
   ⟨up [], q3, n5Stream 0, 127, by decide +kernel⟩,
   ⟨manyOn TXE.CHANNELS, q3, n5Stream 1, 127, by decide +kernel⟩,
   ⟨n5Tdm, q3, n5Port 1, 15, by decide +kernel⟩,
   ⟨up [], q3, [15, 0, 1, 2, 3, 4, 5, 0], by decide +kernel⟩,
   ⟨testUp, q3, le 2 256 ++ [0, 0], 8, by decide +kernel⟩,
   ⟨testUp, q3, [0, 0, 0, 0], by decide +kernel⟩,
   ⟨up [], q3, [1, 2, 3], by decide +kernel⟩⟩

/-- Queue 10 holds a gap marker of 5 items from item 100 and then these entries; its rings run. -/
def gapAt (p : Nat) (l : List QEntry) : State :=
  let s := up [(DMA.STATUS_HOST_LOST, 0), (DMA.RING_STATE (56 + p), 1), (DMA.RING_STATE (60 + p), 1),
    (DMA.RING_SIZE_LOG2 (56 + p), 4), (DMA.RING_SIZE_LOG2 (60 + p), 4),
    (QUE.Q_CAP (7 + p), 64), (QUE.Q_EN (7 + p), 1), (DMA.RING_PI (60 + p), 15), (DMA.RING_CI (60 + p), 3)]
  { s with que := { s.que with queues := s.que.queues.setIfInBounds (7 + p) ⟨[], ⟨.gap 5 100, false⟩ :: l, none⟩ } }

theorem meets_RegisterAccess :
    (∃ (s : State) (source : Nat) (f : Fld), (source < 2) ∧ (s.busOpen f.off) ∧ (s.get f < 2 ^ f.w)) ∧
    (∃ (s : State) (source : Nat) (f : Fld), (source < 2) ∧ (s.busOpen f.off)) ∧
    (∃ (s : State) (source : Nat), (source < 2) ∧ (s.boot.dormant = true)) ∧
    (∃ (s : State) (source : Nat), (source < 2) ∧ (s.boot.dormant = false) ∧ (s.on SYS.STATUS_READY = false)) ∧
    (∃ (s : State) (source : Nat), (source < 2) ∧ (s.boot.dormant = false) ∧ (s.on SYS.STATUS_READY = true) ∧ (s.standsBy = true)) ∧
    (∃ (s : State) (source : Nat) (v : Word) (i : Nat),
      let w := v.toNat;
      let low := w / 2 ^ 12 % 2 ^ 20;
      (source < 2) ∧ (i ≤ 64) ∧ (s.busOpen (0x21004 + 0x40 * i)) ∧ (s.get (DMA.RING_STATE i) ≠ 0) ∧ (low ≠ s.get (DMA.RING_BASE_LO i))) ∧
    (∃ (s : State) (source : Nat) (i : Nat), (source < 2) ∧ (i ≤ 64) ∧ (s.busOpen (0x21004 + 0x40 * i)) ∧ (s.get (DMA.RING_STATE i) = 0)) ∧
    (∃ (s : State) (source : Nat) (off : Nat), (source < 2) ∧ (off % 4 = 0) ∧ (off < 0x200000) ∧ (s.boot.dormant = false) ∧
      (s.on SYS.STATUS_READY = true) ∧ (s.writeLimited off = false) ∧ (s.writeHeld off = true)) ∧
    (∃ (s : State) (source : Nat), (source < 2) ∧ (s.test.writes = [])) ∧
    (∃ (s : State) (source : Nat), (source < 2) ∧ (s.test.writes = [])) :=
  ⟨⟨up [(TIME.INT, 3)], 1, TIME.INT, by decide +kernel⟩,
   ⟨up [], 0, LIFE.INT_EN, by decide +kernel⟩,
   ⟨{ State.reset with boot := { State.reset.boot with dormant := true } }, 0, by decide +kernel⟩,
   ⟨State.reset, 1, by decide +kernel⟩,
   ⟨up [(PAIR.STATUS_ROLE, 5)], 1, by decide +kernel⟩,
   ⟨up [(DMA.RING_STATE 64, 1)], 0, 0x1000, 64, by (dsimp only; decide +kernel)⟩,
   ⟨up [(DMA.RING_STATE 0, 0)], 0, 0, by decide +kernel⟩,
   ⟨{ up [] with test := { State.reset.test with slice := some ⟨3, 3, 0, 3, true, false, 0⟩ } }, 0, 0x1801FC, by decide +kernel⟩,
   ⟨up [(DMA.ERR_ADDR_HI, 5), (DMA.ERR_ADDR_LO, 9)], 0, by decide +kernel⟩,
   ⟨up [], 0, by decide +kernel⟩⟩

theorem meets_CommandRingItems :
    (∃ (s : State) (r : Nat) (descs : List Desc) (l : List Desc) (data : List Byte),
      let b := padTo (itemLen l) data;
      (r ≤ 15) ∧ (s.nextItem r descs = some l) ∧ (itemGood true l = true) ∧ (itemLen l ≤ 65552) ∧ (s.roomIn r b = true)) ∧
    (∃ (s : State) (r : Nat) (descs : List Desc) (l : List Desc) (data : List Byte),
      let b := padTo (itemLen l) data;
      (r ≤ 15) ∧ (s.nextItem r descs = some l) ∧ (itemGood true l = true) ∧ (itemLen l ≤ 65552) ∧ (s.roomIn r b = false)) ∧
    (∃ (s : State) (r : Nat) (descs : List Desc) (l : List Desc), (r ≤ 15) ∧ (s.nextItem r descs = some l) ∧ (itemGood true l = true) ∧
      (65552 < itemLen l)) :=
  ⟨⟨up [(DMA.STATUS_HOST_LOST, 0), (DMA.RING_STATE 15, 1), (DMA.RING_PI 15, 1), (DMA.RING_CI 15, 15), (DMA.RING_WB_EN 15, 1)], 15, [⟨0x1000, 16,
      0, 0, 0, 0⟩, ⟨0x2000, 4, 1, 0, 0, 0⟩], [⟨0x1000, 16, 0, 0, 0, 0⟩, ⟨0x2000, 4, 1, 0, 0, 0⟩], [1, 2, 3], by (dsimp only; decide +kernel)⟩,
   ⟨up [(DMA.STATUS_HOST_LOST, 0), (SYS.STATUS_READY, 0), (DMA.RING_STATE 0, 1), (DMA.RING_PI 0, 1)], 0, [⟨0x1000, 16, 1, 0, 0, 0⟩], [⟨0x1000,
      16, 1, 0, 0, 0⟩], [1], by (dsimp only; decide +kernel)⟩,
   ⟨up [(DMA.STATUS_HOST_LOST, 0), (DMA.RING_STATE 15, 1), (DMA.RING_PI 15, 2), (DMA.RING_CI 15, 0)], 15, [⟨0x1000, 65535, 0, 0, 0, 0⟩, ⟨0x2000,
      18, 1, 0, 0, 0⟩], [⟨0x1000, 65535, 0, 0, 0, 0⟩, ⟨0x2000, 18, 1, 0, 0, 0⟩], by decide +kernel⟩⟩

theorem meets_GapEntries :
    (∃ (s : State) (p : Nat) (c : Nat) (f : Nat) (z : Bool) (rest : List QEntry), (p ≤ 3) ∧ ((s.queue (7 + p)).ready = ⟨.gap c f, z⟩ :: rest) ∧
      (s.ringRuns (56 + p) = true) ∧ (s.ringRuns (60 + p) = true) ∧ (0 < s.ringRoom (60 + p)) ∧ ((∀ e ∈ rest, e.lost = false)) ∧
      ((s.absent 7 = true → rest.length ≤ 32)) ∧ ((rest = [] ∨ ∃ it y more, rest = ⟨.head it, y⟩ :: more ∧
      s.noFit (56 + p) (60 + p) it.body.length = false))) ∧
    (∃ (s : State) (p : Nat) (c : Nat) (f : Nat) (z : Bool) (rest : List QEntry), (p ≤ 3) ∧ ((s.queue (7 + p)).ready = ⟨.gap c f, z⟩ :: rest) ∧
      (s.ringRuns (56 + p) = true) ∧ (s.ringRuns (60 + p) = true) ∧ (0 < s.ringRoom (60 + p)) ∧ ((∀ e ∈ rest, e.lost = false)) ∧
      ((s.absent 7 = true → rest.length ≤ 32)) ∧ ((rest = [] ∨ ∃ it y more, rest = ⟨.head it, y⟩ :: more ∧
      s.noFit (56 + p) (60 + p) it.body.length = false))) :=
  ⟨⟨gapAt 3 [], 3, 5, 100, false, [], ⟨by decide +kernel, by decide +kernel, by decide +kernel, by decide +kernel, by decide +kernel,
      by decide +kernel, by decide +kernel, .inl rfl⟩⟩,
   ⟨gapAt 3 [⟨.head item40, false⟩, ⟨.cont, false⟩, ⟨.cont, false⟩, ⟨.cont, false⟩], 3, 5, 100, false, [⟨.head item40, false⟩, ⟨.cont, false⟩,
      ⟨.cont, false⟩, ⟨.cont, false⟩], ⟨by decide +kernel, by decide +kernel, by decide +kernel, by decide +kernel, by decide +kernel,
      by decide +kernel, by decide +kernel, .inr ⟨item40, false, [⟨.cont, false⟩, ⟨.cont, false⟩, ⟨.cont, false⟩], by decide +kernel⟩⟩⟩⟩

/-- A ready unit whose host side is there. -/
def hostUp (l : List (Fld × Nat)) : State := up ((DMA.STATUS_HOST_LOST, 0) :: (DMA.STATUS_LINK_UP, 1) :: (DMA.STATUS_BME, 1) :: l)

/-- Queue i of that unit holds an item. -/
def itemAt (s : State) (i : Nat) (it : QItem) : State :=
  { s with que := { s.que with queues := s.que.queues.setIfInBounds i ⟨[], itemEntries it, none⟩ } }

/-- A reply of 40 bytes for channel ch. -/
def replyItem (ch : Nat) : QItem := cmdItem ch (List.replicate 40 3#8)

/-- A record set with a block waiting. -/
def recording (marked : Bool) (rd : Nat) : State :=
  let s := hostUp [(DMA.REC_STATE 63, 1), (DMA.REC_EN 63, 1), (DMA.REC_PERIODS 63, 16), (DMA.REC_CHANNELS 63, 1), (DMA.REC_NBLK 63, 4),
    (DMA.REC_WR_IDX 63, 2), (DMA.REC_RD_IDX 63, rd)]
  { s with dma := { s.dma with rec' := [⟨63, 32, [], false, false, [⟨16, List.replicate 32 7#8, marked, false⟩], true, true⟩] } }

/-- A playback set with a block to fetch. -/
def playing (checked : Nat) : State :=
  let s := hostUp [(DMA.PLAY_STATE 5, 1), (DMA.PLAY_EN 5, 1), (DMA.PLAY_PERIODS 5, 16), (DMA.PLAY_CHANNELS 5, 1), (DMA.PLAY_NBLK 5, 4),
    (DMA.PLAY_WR_IDX 5, 2), (DMA.PLAY_RD_IDX 5, 1), (SYS.SEAL_PLAY_HOST_SEAL, checked)]
  { s with dma := { s.dma with play := [⟨5, [], none, false⟩] } }

/-- The block of that set in host memory, and one that names another set. -/
def playBlock (set : Nat) : List Byte :=
  let b := le 8 1600 ++ le 2 1 ++ [1, 0] ++ le 2 16 ++ le 2 set ++ List.replicate 48 9#8
  b ++ le 4 (crc32c b)

theorem meets_HostRings :
    (∃ (s : State) (i : Nat) (p : Nat) (v : Word),
      let w := v.toNat;
      (i ≤ 64) ∧ (p ≤ 3) ∧ (s.busOpen (0x21000 + 0x40 * i)) ∧ (w.testBit 31 = true) ∧ (s.get (DMA.RING_STATE i) = 0)) ∧
    (∃ (s : State) (i : Nat) (p : Nat) (v : Word),
      let w := v.toNat;
      (i ≤ 64) ∧ (p ≤ 3) ∧ (s.busOpen (0x21000 + 0x40 * i)) ∧ (w.testBit 31 = true) ∧ (s.get (DMA.RING_STATE i) = 0)) ∧
    (∃ (s : State) (i : Nat) (p : Nat) (v : Word),
      let w := v.toNat;
      let run := s.get (DMA.RING_STATE i) = 1;
      (i ≤ 64) ∧ (p ≤ 3) ∧ (s.busOpen (0x21000 + 0x40 * i)) ∧ (w.testBit 31 = false) ∧ (run)) ∧
    (∃ (s : State) (i : Nat) (p : Nat) (v : Word),
      let w := v.toNat;
      let run := s.get (DMA.RING_STATE i) = 1;
      (i ≤ 64) ∧ (p ≤ 3) ∧ (s.busOpen (0x21000 + 0x40 * i)) ∧ (w.testBit 31 = false) ∧ (run)) ∧
    (∃ (s : State) (i : Nat) (p : Nat) (v : Word),
      let w := v.toNat;
      let run := s.get (DMA.RING_STATE i) = 1;
      (i ≤ 64) ∧ (p ≤ 3) ∧ (s.busOpen (hostIndex i).off) ∧ (run) ∧ (s.indexBad i (w % 4096) = false)) ∧
    (∃ (s : State) (i : Nat) (p : Nat) (v : Word),
      let w := v.toNat;
      let run := s.get (DMA.RING_STATE i) = 1;
      (i ≤ 64) ∧ (p ≤ 3) ∧ (s.busOpen (hostIndex i).off) ∧ (run) ∧ (s.indexBad i (w % 4096) = false)) ∧
    (∃ (s : State) (i : Nat) (p : Nat) (v : Word),
      let w := v.toNat;
      let run := s.get (DMA.RING_STATE i) = 1;
      (i ≤ 64) ∧ (p ≤ 3) ∧ (s.busOpen (hostIndex i).off) ∧ (run) ∧ (s.indexBad i (w % 4096) = true)) ∧
    (∃ (s : State) (i : Nat) (p : Nat) (v : Word),
      let w := v.toNat;
      let run := s.get (DMA.RING_STATE i) = 1;
      (i ≤ 64) ∧ (p ≤ 3) ∧ (s.busOpen (hostIndex i).off) ∧ (run) ∧ (s.indexBad i (w % 4096) = true)) ∧
    (∃ (s : State) (i : Nat) (p : Nat) (descs : List Desc) (rest : List Desc) (d : Desc) (data : List Byte),
      let f := padFrame (padTo (itemLen (d :: rest)) data);
      (i ≤ 64) ∧ (p ≤ 3) ∧ (s.nextItem (48 + p) descs = some (d :: rest)) ∧ (itemGood false (d :: rest) = true) ∧ (d.flags.testBit 2 = false) ∧
      (s.ringRuns (52 + p) = true) ∧ (s.ringRoom (52 + p) ≠ 0) ∧ (s.dma.items = []) ∧ ((s.port p).host = []) ∧
      (f.length + 4 ≤ lenEff (s.get (PORT.TX_MAX_LEN p))) ∧ (f.length + 4 ≤ 32768)) ∧
    (∃ (s : State) (i : Nat) (p : Nat) (d : TxDone), (i ≤ 64) ∧ (p ≤ 3) ∧ (s.dma.done.find? (fun e => e.port == p) = some d) ∧
      (s.ringRuns (52 + p) = true) ∧ (0 < s.ringRoom (52 + p))) ∧
    (∃ (s : State) (i : Nat) (p : Nat) (it : QItem), (i ≤ 64) ∧ (p ≤ 3) ∧ (s.hostRing p = true) ∧ (s.headItem p = some it) ∧
      (s.claimable (56 + p) (60 + p) it.body.length = true) ∧ (0 < it.body.length)) ∧
    (∃ (s : State) (i : Nat) (p : Nat) (it : QItem),
      let ch := itemChan it;
      (i ≤ 64) ∧ (p ≤ 3) ∧ (s.headReply = some it) ∧ (ch < 16) ∧ (s.claimable (16 + ch) (32 + ch) it.body.length = true) ∧ (0 < it.body.length)) ∧
    (∃ (s : State) (i : Nat) (p : Nat) (it : QItem),
      let ch := itemChan it;
      (i ≤ 64) ∧ (p ≤ 3) ∧ (s.headReply = some it) ∧ (ch < 16) ∧ (s.get (DMA.RING_STATE (16 + ch)) = 0)) ∧
    (∃ (s : State) (i : Nat) (p : Nat) (it : QItem),
      let ch := itemChan it;
      (i ≤ 64) ∧ (p ≤ 3) ∧ (s.headReply = some it) ∧ (ch = 16) ∧ (s.csp.outBox = none)) ∧
    (∃ (s : State) (i : Nat) (p : Nat) (it : QItem),
      let ch := itemChan it;
      (i ≤ 64) ∧ (p ≤ 3) ∧ (s.headReply = some it) ∧ (ch ≤ 16)) ∧
    (∃ (s : State) (i : Nat) (p : Nat) (it : QItem) (z : Bool) (rest : List QEntry), (i ≤ 64) ∧ (p ≤ 3) ∧
      ((s.queue 0).ready = ⟨.head it, z⟩ :: rest) ∧ (s.held = []) ∧ (s.on CMD.EVT_ROUTE = false) ∧ (s.ringRuns 64 = true) ∧ (0 < s.ringRoom 64)) ∧
    (∃ (s : State) (i : Nat) (p : Nat), (i ≤ 64) ∧ (p ≤ 3) ∧ (s.busOpen 0x10000)) ∧
    (∃ (s : State) (i : Nat) (p : Nat) (cause : Nat) (addr : Nat), (i ≤ 64) ∧ (p ≤ 3) ∧ (1 ≤ cause) ∧ (cause ≤ 4) ∧ (addr < 2 ^ 64) ∧
      (s.ringRuns i = true)) ∧
    (∃ (s : State) (i : Nat) (p : Nat) (cause : Nat) (addr : Nat) (k : Nat), (i ≤ 64) ∧ (p ≤ 3) ∧ (1 ≤ cause) ∧ (cause ≤ 4) ∧ (addr < 2 ^ 64) ∧
      (k < 64) ∧ (s.get (DMA.REC_STATE k) = 1)) ∧
    (∃ (s : State) (i : Nat) (p : Nat) (cause : Nat), (i ≤ 64) ∧ (p ≤ 3) ∧ (1 ≤ cause) ∧ (cause ≤ 4) ∧ (s.on DMA.STATUS_HOST_LOST = false)) ∧
    (∃ (s : State) (i : Nat) (p : Nat) (cause : Nat), (i ≤ 64) ∧ (p ≤ 3) ∧ (1 ≤ cause) ∧ (cause ≤ 4) ∧ (s.on DMA.STATUS_HOST_LOST = false)) ∧
    (∃ (s : State) (i : Nat) (p : Nat), (i ≤ 64) ∧ (p ≤ 3) ∧ (s.on DMA.STATUS_HOST_LOST = true)) ∧
    (∃ (s : State) (i : Nat) (p : Nat) (m : Nat), (i ≤ 64) ∧ (p ≤ 3) ∧ (m < 64) ∧ (s.bit (MSIX.PENDING (m / 32)) (m % 32) = true) ∧
      (s.on (MSIX.MASK m) = false) ∧ (s.on DMA.STATUS_HOST_LOST = false)) :=
  ⟨⟨hostUp [], 64, 0, 0x8000010C, by (dsimp only; decide +kernel)⟩,
   ⟨hostUp [], 51, 0, 0x80000004, by (dsimp only; decide +kernel)⟩,
   ⟨hostUp [(DMA.RING_STATE 51, 1), (DMA.RING_EN 51, 1)], 51, 0, 0, by (dsimp only; decide +kernel)⟩,
   ⟨itemAt (hostUp [(DMA.RING_STATE 59, 1), (DMA.RING_EN 59, 1)]) 10 item40, 59, 0, 0x7FFFFFFF, by (dsimp only; decide +kernel)⟩,
   ⟨hostUp [(DMA.RING_STATE 0, 1), (DMA.RING_SIZE_LOG2 0, 4)], 0, 0, 15, by (dsimp only; decide +kernel)⟩,
   ⟨hostUp [(DMA.RING_STATE 60, 1), (DMA.RING_PI 60, 3)], 60, 0, 0xF000003, by (dsimp only; decide +kernel)⟩,
   ⟨hostUp [(DMA.RING_STATE 0, 1), (DMA.RING_SIZE_LOG2 0, 4)], 0, 0, 16, by (dsimp only; decide +kernel)⟩,
   ⟨hostUp [(DMA.RING_STATE 64, 1), (DMA.RING_PI 64, 3)], 64, 0, 4, by (dsimp only; decide +kernel)⟩,
   ⟨hostUp [(DMA.RING_STATE 51, 1), (DMA.RING_STATE 55, 1), (DMA.RING_PI 51, 2)], 0, 3, [⟨0x1000, 60, 2, 0, 0, 77⟩, ⟨0x2000, 40, 1, 0, 0, 0⟩],
      [⟨0x2000, 40, 1, 0, 0, 0⟩], ⟨0x1000, 60, 2, 0, 0, 77⟩, List.replicate 100 1#8, by (dsimp only; decide +kernel)⟩,
   ⟨(fun (s : State) => { s with dma := { s.dma with done := [⟨2, [1]⟩, ⟨3, [2]⟩] } }) (hostUp [(DMA.RING_STATE 55, 1), (DMA.RING_PI 55, 255),
      (DMA.RING_CI 55, 3)]), 0, 3, ⟨3, [2]⟩, by decide +kernel⟩,
   ⟨itemAt (hostUp [(DMA.RING_STATE 57, 1), (DMA.RING_STATE 61, 1), (DMA.RING_PI 57, 1)]) 8 item40, 0, 1, item40, by decide +kernel⟩,
   ⟨itemAt (hostUp [(DMA.RING_STATE 31, 1), (DMA.RING_STATE 47, 1), (DMA.RING_PI 31, 1)]) 2 (replyItem 15), 0, 0, replyItem 15,
      by (dsimp only; decide +kernel)⟩,
   ⟨itemAt (hostUp []) 2 (replyItem 0), 0, 0, replyItem 0, by (dsimp only; decide +kernel)⟩,
   ⟨itemAt (hostUp []) 2 (replyItem 16), 0, 0, replyItem 16, by (dsimp only; decide +kernel)⟩,
   ⟨itemAt (hostUp [(DMA.RING_STATE 31, 1), (DMA.RING_STATE 47, 1)]) 2 (replyItem 15), 0, 0, replyItem 15, by (dsimp only; decide +kernel)⟩,
   ⟨itemAt (hostUp [(DMA.RING_STATE 64, 1)]) 0 ⟨List.replicate 16 1#8, []⟩, 0, 0, ⟨List.replicate 16 1#8, []⟩, false, [], by decide +kernel⟩,
   ⟨hostUp [], 0, 0, by decide +kernel⟩,
   ⟨hostUp [(DMA.RING_STATE 64, 1)], 64, 0, 4, 2 ^ 64 - 1, by decide +kernel⟩,
   ⟨hostUp [(DMA.REC_STATE 63, 1)], 0, 0, 1, 0, 63, by decide +kernel⟩,
   ⟨itemAt (hostUp [(DMA.RING_STATE 64, 1), (DMA.REC_STATE 63, 1), (DMA.RING_STATE 48, 1)]) 7 item40, 64, 0, 2, by decide +kernel⟩,
   ⟨itemAt (hostUp [(DMA.RING_STATE 64, 1), (DMA.REC_STATE 63, 1), (DMA.RING_STATE 48, 1)]) 7 item40, 64, 0, 4, by decide +kernel⟩,
   ⟨up [], 0, 0, by decide +kernel⟩,
   ⟨hostUp [(MSIX.PENDING 1, 0x80000000), (MSIX.MASK 63, 0)], 0, 0, 63, by decide +kernel⟩⟩

theorem meets_RecordAndPlaybackSets :
    (∃ (s : State) (source : Nat) (dir : Nat) (k : Nat) (v : Word),
      let w := v.toNat;
      let off := 0x24000 + 0x1000 * dir + 0x40 * k;
      let asked := s.writeWord DMA.fields true source off w;
      (dir ≤ 1) ∧ (k ≤ 63) ∧ (s.busOpen off) ∧ (w.testBit 31 = true) ∧ (s.get (setState dir k) = 0) ∧ (asked.setRefused dir k = false)) ∧
    (∃ (s : State) (source : Nat) (dir : Nat) (k : Nat) (v : Word),
      let w := v.toNat;
      let off := 0x24000 + 0x1000 * dir + 0x40 * k;
      let asked := s.writeWord DMA.fields true source off w;
      (dir ≤ 1) ∧ (k ≤ 63) ∧ (s.busOpen off) ∧ (w.testBit 31 = true) ∧ (s.get (setState dir k) = 0) ∧ (asked.setRefused dir k = false)) ∧
    (∃ (s : State) (source : Nat) (dir : Nat) (k : Nat) (v : Word),
      let w := v.toNat;
      let off := 0x24000 + 0x1000 * dir + 0x40 * k;
      let asked := s.writeWord DMA.fields true source off w;
      (dir ≤ 1) ∧ (k ≤ 63) ∧ (s.busOpen off) ∧ (w.testBit 31 = true) ∧ (s.get (setState dir k) = 0) ∧ (asked.setRefused dir k = true)) ∧
    (∃ (s : State) (dir : Nat) (k : Nat) (v : Word),
      let w := v.toNat;
      let off := 0x24000 + 0x1000 * dir + 0x40 * k;
      (dir ≤ 1) ∧ (k ≤ 63) ∧ (s.busOpen off) ∧ (w.testBit 31 = false) ∧ (s.get (setState dir k) ≠ 0)) ∧
    (∃ (s : State) (dir : Nat) (k : Nat) (v : Word),
      let w := v.toNat;
      let off := 0x24000 + 0x1000 * dir + 0x40 * k;
      (dir ≤ 1) ∧ (k ≤ 63) ∧ (s.busOpen off) ∧ (w.testBit 31 = false) ∧ (s.get (setState dir k) ≠ 0)) ∧
    (∃ (s : State) (dir : Nat) (k : Nat) (v : Word),
      let w := v.toNat;
      let wr := s.get (DMA.REC_WR_IDX k);
      (dir ≤ 1) ∧ (k ≤ 63) ∧ (s.busOpen (0x24024 + 0x40 * k)) ∧ (idxDist wr w ≤ idxDist wr (s.get (DMA.REC_RD_IDX k)))) ∧
    (∃ (s : State) (dir : Nat) (k : Nat) (v : Word),
      let w := v.toNat;
      let wr := s.get (DMA.REC_WR_IDX k);
      (dir ≤ 1) ∧ (k ≤ 63) ∧ (s.busOpen (0x24024 + 0x40 * k)) ∧ (idxDist wr (s.get (DMA.REC_RD_IDX k)) < idxDist wr w)) ∧
    (∃ (s : State) (dir : Nat) (k : Nat), (dir ≤ 1) ∧ (k ≤ 63) ∧ (s.busOpen (0x25020 + 0x40 * k))) ∧
    (∃ (s : State) (dir : Nat) (k : Nat) (x : RecRun) (b : RecBlock) (rest : List RecBlock),
      let live := s.on DMA.STATUS_HOST_LOST = false;
      let wr := s.get (DMA.REC_WR_IDX k);
      let room := idxDist wr (s.get (DMA.REC_RD_IDX k)) < s.setBlk 0 k;
      (dir ≤ 1) ∧ (k ≤ 63) ∧ (s.recRun k = some x) ∧ (x.full = b :: rest) ∧ (s.get (DMA.REC_STATE k) = 1) ∧ (live) ∧ (b.lost = false) ∧
      (s.absent 7 = false) ∧ (s.injecting 15 = false) ∧ (room)) ∧
    (∃ (s : State) (dir : Nat) (k : Nat) (x : RecRun) (b : RecBlock) (rest : List RecBlock),
      let live := s.on DMA.STATUS_HOST_LOST = false;
      let wr := s.get (DMA.REC_WR_IDX k);
      let room := idxDist wr (s.get (DMA.REC_RD_IDX k)) < s.setBlk 0 k;
      (dir ≤ 1) ∧ (k ≤ 63) ∧ (s.recRun k = some x) ∧ (x.full = b :: rest) ∧ (s.get (DMA.REC_STATE k) = 1) ∧ (live) ∧ (b.lost = false) ∧
      (s.absent 7 = false) ∧ (s.injecting 15 = false) ∧ (room)) ∧
    (∃ (s : State) (dir : Nat) (k : Nat) (x : RecRun) (b : RecBlock) (rest : List RecBlock),
      let live := s.on DMA.STATUS_HOST_LOST = false;
      let wr := s.get (DMA.REC_WR_IDX k);
      let room := idxDist wr (s.get (DMA.REC_RD_IDX k)) < s.setBlk 0 k;
      (dir ≤ 1) ∧ (k ≤ 63) ∧ (s.recRun k = some x) ∧ (x.full = b :: rest) ∧ (s.get (DMA.REC_STATE k) = 1) ∧ (live) ∧ (b.lost = false) ∧
      (s.absent 7 = false) ∧ (s.injecting 15 = false) ∧ (¬ room)) ∧
    (∃ (s : State) (dir : Nat) (k : Nat) (x : PlayRun) (bytes : List Byte),
      let live := s.on DMA.STATUS_HOST_LOST = false;
      let n := s.blockLen 1 k;
      let b := padTo n bytes;
      let whole := s.on SYS.SEAL_PLAY_HOST_SEAL = false ∨ leAt b (n - 4) 4 = crc32c (b.take (n - 4));
      (dir ≤ 1) ∧ (k ≤ 63) ∧ (s.dma.play.find? (fun y => y.set == k) = some x) ∧ (s.get (DMA.PLAY_STATE k) = 1) ∧ (live) ∧
      (s.get (DMA.PLAY_RD_IDX k) ≠ s.get (DMA.PLAY_WR_IDX k)) ∧ (x.blocks.length < 2) ∧ (s.injecting 6 = false) ∧ (whole) ∧
      (s.playBad k x.last b = false)) ∧
    (∃ (s : State) (dir : Nat) (k : Nat) (x : PlayRun) (bytes : List Byte),
      let live := s.on DMA.STATUS_HOST_LOST = false;
      let n := s.blockLen 1 k;
      let b := padTo n bytes;
      let whole := s.on SYS.SEAL_PLAY_HOST_SEAL = false ∨ leAt b (n - 4) 4 = crc32c (b.take (n - 4));
      (dir ≤ 1) ∧ (k ≤ 63) ∧ (s.dma.play.find? (fun y => y.set == k) = some x) ∧ (s.get (DMA.PLAY_STATE k) = 1) ∧ (live) ∧
      (s.get (DMA.PLAY_RD_IDX k) ≠ s.get (DMA.PLAY_WR_IDX k)) ∧ (x.blocks.length < 2) ∧ (s.injecting 6 = false) ∧ (whole) ∧
      (s.playBad k x.last b = true)) ∧
    (∃ (s : State) (dir : Nat) (k : Nat) (x : PlayRun) (bytes : List Byte),
      let live := s.on DMA.STATUS_HOST_LOST = false;
      let n := s.blockLen 1 k;
      let b := padTo n bytes;
      let whole := s.on SYS.SEAL_PLAY_HOST_SEAL = false ∨ leAt b (n - 4) 4 = crc32c (b.take (n - 4));
      (dir ≤ 1) ∧ (k ≤ 63) ∧ (s.dma.play.find? (fun y => y.set == k) = some x) ∧ (s.get (DMA.PLAY_STATE k) = 1) ∧ (live) ∧
      (s.get (DMA.PLAY_RD_IDX k) ≠ s.get (DMA.PLAY_WR_IDX k)) ∧ (x.blocks.length < 2) ∧ (s.injecting 6 = false) ∧ (¬ whole)) :=
  ⟨⟨hostUp [(DMA.REC_PERIODS 63, 16)], 0, 0, 63, 0x80000000, by (dsimp only; decide +kernel)⟩,
   ⟨hostUp [(DMA.PLAY_PERIODS 0, 16)], 1, 1, 0, 0xB00003FF, by (dsimp only; decide +kernel)⟩,
   ⟨hostUp [(DMA.PLAY_CHANNELS 0, 2)], 1, 1, 0, 0xB00003FF, by (dsimp only; decide +kernel)⟩,
   ⟨recording true 1, 0, 63, 0, by (dsimp only; decide +kernel)⟩,
   ⟨playing 1, 1, 5, 0x7FFFFFFF, by (dsimp only; decide +kernel)⟩,
   ⟨recording true 1, 0, 63, 2, by (dsimp only; decide +kernel)⟩,
   ⟨recording true 1, 0, 63, 3, by (dsimp only; decide +kernel)⟩,
   ⟨playing 0, 0, 5, by decide +kernel⟩,
   ⟨recording true 1, 0, 63, ⟨63, 32, [], false, false, [⟨16, List.replicate 32 7#8, true, false⟩], true, true⟩, ⟨16, List.replicate 32 7#8,
      true, false⟩, [], by (dsimp only; decide +kernel)⟩,
   ⟨recording false 1, 0, 63, ⟨63, 32, [], false, false, [⟨16, List.replicate 32 7#8, false, false⟩], true, true⟩, ⟨16, List.replicate 32 7#8,
      false, false⟩, [], by (dsimp only; decide +kernel)⟩,
   ⟨recording false 0xFFFFFFFE, 0, 63, ⟨63, 32, [], false, false, [⟨16, List.replicate 32 7#8, false, false⟩], true, true⟩, ⟨16,
      List.replicate 32 7#8, false, false⟩, [], by (dsimp only; decide +kernel)⟩,
   ⟨playing 1, 0, 5, ⟨5, [], none, false⟩, playBlock 5, by (dsimp only; decide +kernel)⟩,
   ⟨playing 1, 0, 5, ⟨5, [], none, false⟩, playBlock 4, by (dsimp only; decide +kernel)⟩,
   ⟨playing 1, 0, 5, ⟨5, [], none, false⟩, (playBlock 5).set 0 1, by (dsimp only; decide +kernel)⟩⟩

/-- A ready unit with orbit link n in this state, enabled unless it is 0. -/
def orbUp (n st : Nat) (l : List (Fld × Nat)) : State := up ((ORB.LINK_LINK_STATE n, st) :: (ORB.LINK_EN n, if st = 0 then 0 else 1) :: l)

/-- The first values of a block. -/
def blockVals : List Int := [-5, 7]

/-- A TIME frame has left on link n. -/
def timeSent (n : Nat) (t3 : Int) : State :=
  let s := orbUp n 3 [(ORB.LINK_ASYM n, 0xFFFFFFFF)]
  s.setLink n { s.link n with txTime := some t3 }

/-- A moon. -/
def moonUp (l : List (Fld × Nat)) : State := up ((ORB.STATUS_ROLE_STRAP, 1) :: l)

/-- A packet that asks for the NOP. -/
def packet49 : List Byte := requestBytes 0x0101 ⟨49, 7, false, false, false, false, false, false, 0, 2, false, 1000, false⟩ []

theorem meets_OrbitLinks :
    (∃ (s : State) (r : Req) (n : Nat) (q : Nat) (asym : Nat) (fwd : Nat),
      let st := s.linkState n;
      (n < 4) ∧ (q < 8) ∧ (asym < 2 ^ 32) ∧ (fwd < 8) ∧ (s.barred 0x0904 r = none) ∧ (s.get (ORB.LINK_EN n) = 0) ∧ (st = 0) ∧
      (s.linkMayStart n = true)) ∧
    (∃ (s : State) (r : Req) (n : Nat) (q : Nat) (asym : Nat) (fwd : Nat),
      let st := s.linkState n;
      (n < 4) ∧ (q < 8) ∧ (asym < 2 ^ 32) ∧ (fwd < 8) ∧ (s.barred 0x0904 r = none) ∧ (s.get (ORB.LINK_EN n) = 0) ∧ (st = 0) ∧
      (s.linkMayStart n = true)) ∧
    (∃ (s : State) (n : Nat) (q : Nat) (v : Word),
      let st := s.linkState n;
      (n < 4) ∧ (q < 8) ∧ (s.busOpen (0x1C0100 + 0x80 * n)) ∧ (v.toNat.testBit 31 = true) ∧ (s.get (ORB.LINK_EN n) = 0) ∧ (st = 0) ∧
      (s.linkMayStart n = true)) ∧
    (∃ (s : State) (n : Nat) (q : Nat) (v : Word),
      let st := s.linkState n;
      (n < 4) ∧ (q < 8) ∧ (s.busOpen (0x1C0100 + 0x80 * n)) ∧ (v.toNat.testBit 31 = false) ∧ (st = 3)) ∧
    (∃ (s : State) (n : Nat) (q : Nat), (n < 4) ∧ (q < 8) ∧ (s.busOpen (0x1C0110 + 0x80 * n)) ∧
      ((∀ m, m < 4 → ∀ g, g < 8 → m ≠ n → fwdTarget m (s.get (ORB.LINK_FWD m g)) = none))) ∧
    (∃ (s : State) (n : Nat) (q : Nat),
      let st := s.linkState n;
      (n < 4) ∧ (q < 8) ∧ (st = 1) ∧ (s.boot.down.contains (3, 5 + n) = false)) ∧
    (∃ (s : State) (n : Nat) (q : Nat) (eui : Nat) (role : Nat) (index : Nat),
      let st := s.linkState n;
      (n < 4) ∧ (q < 8) ∧ (eui < 2 ^ 64) ∧ (role < 4) ∧ (index < 16) ∧ (st = 2)) ∧
    (∃ (s : State) (n : Nat) (q : Nat),
      let st := s.linkState n;
      (n < 4) ∧ (q < 8) ∧ (st = 3) ∧ (n ≠ 3)) ∧
    (∃ (s : State) (n : Nat) (q : Nat),
      let st := s.linkState n;
      (n < 4) ∧ (q < 8) ∧ (st = 3) ∧ (n ≠ 3)) ∧
    (∃ (s : State) (n : Nat) (q : Nat),
      let st := s.linkState n;
      (n < 4) ∧ (q < 8) ∧ (st = 3)) ∧
    (∃ (s : State) (n : Nat) (q : Nat) (tag : Nat) (vals : List Int) (sealw : Nat),
      let st := s.linkState n;
      let p := nearPeriod s.media tag;
      let l := if s.isMoon ∧ s.on ORB.STATUS_UPB_VALID ∧ n = s.get ORB.STATUS_UPB then s.get ORB.STATUS_UPA else n;
      let held := s.orb.slots.any (fun x => x.link == l && x.group == q && x.period == p);
      (n < 4) ∧ (q < 8) ∧ (st = 3) ∧ (s.fwdTo n q = none) ∧ (s.injecting 4 = false) ∧ (sealw = blockSeal 4 q p vals) ∧ (held = false) ∧
      ((∀ x, s.anvil.ran = some x → x ≤ p))) ∧
    (∃ (s : State) (n : Nat) (q : Nat) (tag : Nat) (vals : List Int) (sealw : Nat),
      let st := s.linkState n;
      let p := nearPeriod s.media tag;
      let l := if s.isMoon ∧ s.on ORB.STATUS_UPB_VALID ∧ n = s.get ORB.STATUS_UPB then s.get ORB.STATUS_UPA else n;
      let held := s.orb.slots.any (fun x => x.link == l && x.group == q && x.period == p);
      (n < 4) ∧ (q < 8) ∧ (st = 3) ∧ (s.fwdTo n q = none) ∧ (s.injecting 4 = false) ∧ (sealw = blockSeal 4 q p vals) ∧ (held = true)) ∧
    (∃ (s : State) (n : Nat) (q : Nat) (tag : Nat) (vals : List Int) (sealw : Nat),
      let st := s.linkState n;
      let p := nearPeriod s.media tag;
      (n < 4) ∧ (q < 8) ∧ (st = 3) ∧ (s.fwdTo n q = none) ∧ (s.injecting 4 = false) ∧ (sealw ≠ blockSeal 4 q p vals)) ∧
    (∃ (s : State) (n : Nat) (q : Nat),
      let st := s.linkState n;
      (n < 4) ∧ (q < 8) ∧ (st = 3)) ∧
    (∃ (s : State) (n : Nat) (q : Nat) (t3 : Int),
      let st := s.linkState n;
      (n < 4) ∧ (q < 8) ∧ (st = 3) ∧ (s.isMoon = false) ∧ (n ≠ 3) ∧ ((s.link n).txTime = some t3)) :=
  ⟨⟨orbUp 3 0 [], q3, 3, 0, 0xFFFFFFFF, 4, by (dsimp only; decide +kernel)⟩,
   ⟨orbUp 3 0 [], q3, 3, 0, 0, 7, by (dsimp only; decide +kernel)⟩,
   ⟨orbUp 3 0 [], 3, 0, 0x80000000, by (dsimp only; decide +kernel)⟩,
   ⟨orbUp 3 3 [(ORB.LINK_BLOCK_LOCK 3, 1)], 3, 0, 0x7FFFFFFF, by (dsimp only; decide +kernel)⟩,
   ⟨orbUp 2 3 [], 2, 0, by decide +kernel⟩,
   ⟨orbUp 3 1 [], 3, 0, by (dsimp only; decide +kernel)⟩,
   ⟨orbUp 3 2 [], 3, 0, 2 ^ 64 - 1, 3, 15, by (dsimp only; decide +kernel)⟩,
   ⟨orbUp 2 3 [(ORB.LINK_BLOCK_LOCK 2, 1)], 2, 0, by (dsimp only; decide +kernel)⟩,
   ⟨orbUp 2 3 [(ORB.LINK_BLOCK_LOCK 2, 1)], 2, 0, by (dsimp only; decide +kernel)⟩,
   ⟨orbUp 3 3 [], 3, 0, by (dsimp only; decide +kernel)⟩,
   ⟨orbUp 3 3 [], 3, 7, 20, blockVals, blockSeal 4 7 20 blockVals, by (dsimp only; decide +kernel)⟩,
   ⟨(fun (s : State) => { s with orb := { s.orb with slots := [⟨3, 7, 20, []⟩] } }) (orbUp 3 3 []), 3, 7, 20, blockVals,
      blockSeal 4 7 20 blockVals, by (dsimp only; decide +kernel)⟩,
   ⟨orbUp 3 3 [], 3, 7, 20, blockVals, 5, by (dsimp only; decide +kernel)⟩,
   ⟨orbUp 3 3 [], 3, 0, by (dsimp only; decide +kernel)⟩,
   ⟨timeSent 2 500, 2, 0, 500, by (dsimp only; decide +kernel)⟩⟩

theorem meets_JoiningACluster :
    (∃ (s : State) (r : Req) (n : Nat) (d : Nat) (eui : Nat) (en : Nat),
      let st := s.get (ORB.MOON_STATE d);
      (n < 4) ∧ (1 ≤ d) ∧ (d ≤ 15) ∧ (eui < 2 ^ 64) ∧ (en < 2) ∧ (s.barred 0x0902 r = none) ∧ (st = 0) ∧ (s.on (ORB.MOON_EN d) = false) ∧
      ((∀ m, m < 4 → s.linkState m ≠ 3))) ∧
    (∃ (s : State) (n : Nat) (d : Nat) (eui : Nat) (hops : Nat),
      let st := s.get (ORB.MOON_STATE d);
      let up := s.linkState n = 3;
      (n < 4) ∧ (1 ≤ d) ∧ (d ≤ 15) ∧ (up) ∧ (s.isMoon = false) ∧ (hops ≤ 5) ∧ (st = 0) ∧ (s.on (ORB.MOON_EN d) = true) ∧ (s.moonEui d = eui) ∧
      ((∀ m, m < d → 1 ≤ m → s.on (ORB.MOON_EN m) = false))) ∧
    (∃ (s : State) (n : Nat) (d : Nat), (n < 4) ∧ (1 ≤ d) ∧ (d ≤ 15) ∧ (2 ≤ s.linkState n)) ∧
    (∃ (s : State) (r : Req) (n : Nat) (d : Nat), (n < 4) ∧ (1 ≤ d) ∧ (d ≤ 15) ∧ (s.barred 0x0903 r = none)) ∧
    (∃ (s : State) (r : Req) (n : Nat) (d : Nat), (n < 4) ∧ (1 ≤ d) ∧ (d ≤ 15) ∧ (s.barred 0x0903 r = none)) ∧
    (∃ (s : State) (n : Nat) (d : Nat), (n < 4) ∧ (1 ≤ d) ∧ (d ≤ 15) ∧ (s.nextStart = some d) ∧ (s.isMoon = false) ∧
      (s.on SYS.STATUS_READY = true)) ∧
    (∃ (s : State) (n : Nat) (d : Nat),
      let st := s.get (ORB.MOON_STATE d);
      (n < 4) ∧ (1 ≤ d) ∧ (d ≤ 15) ∧ (s.isMoon = false) ∧ (st = 2)) ∧
    (∃ (s : State) (n : Nat) (d : Nat) (family : Nat),
      let join := s.get ORB.STATUS_JOIN_STATE;
      (n < 4) ∧ (1 ≤ d) ∧ (d ≤ 15) ∧ (family < 2) ∧ (s.isMoon = true) ∧ (join = 2) ∧ (s.on SYS.STATUS_READY = true) ∧
      (s.on TIME.STATUS_MEDIA_VALID = false)) ∧
    (∃ (s : State) (n : Nat) (d : Nat),
      let st := s.get (ORB.MOON_STATE d);
      let up := s.linkState n = 3;
      (n < 4) ∧ (1 ≤ d) ∧ (d ≤ 15) ∧ (up) ∧ (s.isMoon = false) ∧ (st = 3)) ∧
    (∃ (s : State) (n : Nat) (d : Nat),
      let st := s.get (ORB.MOON_STATE d);
      (n < 4) ∧ (1 ≤ d) ∧ (d ≤ 15) ∧ (s.isMoon = false) ∧ (st = 4)) ∧
    (∃ (s : State) (n : Nat) (d : Nat),
      let st := s.get (ORB.MOON_STATE d);
      (n < 4) ∧ (1 ≤ d) ∧ (d ≤ 15) ∧ (s.isMoon = false) ∧ (1 ≤ st) ∧ (st ≤ 3)) ∧
    (∃ (s : State) (n : Nat) (d : Nat),
      let join := s.get ORB.STATUS_JOIN_STATE;
      (n < 4) ∧ (1 ≤ d) ∧ (d ≤ 15) ∧ (s.isMoon = true) ∧ (s.uplinkUp 0 = false) ∧ (s.uplinkUp 1 = false) ∧ (join = 4)) ∧
    (∃ (s : State) (n : Nat) (d : Nat),
      let join := s.get ORB.STATUS_JOIN_STATE;
      (n < 4) ∧ (1 ≤ d) ∧ (d ≤ 15) ∧ (s.isMoon = true) ∧ (s.uplinkUp 0 = false) ∧ (s.uplinkUp 1 = false) ∧ (1 ≤ join) ∧ (join ≤ 3)) ∧
    (∃ (s : State) (n : Nat) (d : Nat),
      let join := s.get ORB.STATUS_JOIN_STATE;
      (n < 4) ∧ (1 ≤ d) ∧ (d ≤ 15) ∧ (s.isMoon = true) ∧ (join = 0)) ∧
    (∃ (s : State) (n : Nat) (d : Nat),
      let join := s.get ORB.STATUS_JOIN_STATE;
      (n < 4) ∧ (1 ≤ d) ∧ (d ≤ 15) ∧ (s.isMoon = true) ∧ (join = 1) ∧ (s.boot.parked = false)) ∧
    (∃ (s : State) (n : Nat) (d : Nat) (via : Nat) (b : List Byte),
      let up := s.linkState n = 3;
      (n < 4) ∧ (1 ≤ d) ∧ (d ≤ 15) ∧ (via < 4) ∧ (b.length + 6 ≤ 2048) ∧ (up) ∧ (s.isMoon = false) ∧ (s.get (ORB.LINK_PEER_INDEX n) = 0) ∧
      (s.roomIn 49 b = true)) ∧
    (∃ (s : State) (n : Nat) (d : Nat) (via : Nat) (b : List Byte),
      let up := s.linkState n = 3;
      (n < 4) ∧ (1 ≤ d) ∧ (d ≤ 15) ∧ (via < 4) ∧ (b.length + 6 ≤ 2048) ∧ (up) ∧ (s.isMoon = false) ∧ (s.get (ORB.LINK_PEER_INDEX n) = 0) ∧
      (d ≠ s.ownIndex) ∧ (s.linkState via = 3)) ∧
    (∃ (s : State) (n : Nat) (d : Nat),
      let up := s.linkState n = 3;
      (n < 4) ∧ (1 ≤ d) ∧ (d ≤ 15) ∧ (up) ∧ (s.upward = false) ∧ (s.hasRoom 0 2 = true)) ∧
    (∃ (s : State) (n : Nat) (d : Nat),
      let up := s.linkState n = 3;
      (n < 4) ∧ (1 ≤ d) ∧ (d ≤ 15) ∧ (up) ∧ (s.upward = true)) :=
  ⟨⟨up [], q3, 0, 15, 2 ^ 64 - 1, 1, by (dsimp only; decide +kernel)⟩,
   ⟨orbUp 3 3 [(ORB.MOON_EN 15, 1), (ORB.MOON_EUI_LO 15, 77), (ORB.MOON_EUI_HI 15, 1)], 3, 15, 2 ^ 32 + 77, 5, by (dsimp only; decide +kernel)⟩,
   ⟨orbUp 3 2 [], 3, 1, by decide +kernel⟩,
   ⟨up [(ORB.MOON_STATE 15, 1)], q3, 0, 15, by decide +kernel⟩,
   ⟨up [(ORB.MOON_STATE 15, 2)], q3, 0, 15, by decide +kernel⟩,
   ⟨up [(ORB.MOON_STATE 15, 1), (ORB.CTRL_START_AUTO, 1)], 0, 15, by decide +kernel⟩,
   ⟨up [(ORB.MOON_STATE 15, 2)], 0, 15, by (dsimp only; decide +kernel)⟩,
   ⟨moonUp [(ORB.STATUS_JOIN_STATE, 2), (TIME.STATUS_MEDIA_VALID, 0)], 0, 1, 1, by (dsimp only; decide +kernel)⟩,
   ⟨orbUp 3 3 [(ORB.MOON_STATE 15, 3)], 3, 15, by (dsimp only; decide +kernel)⟩,
   ⟨up [(ORB.MOON_STATE 15, 4)], 0, 15, by (dsimp only; decide +kernel)⟩,
   ⟨up [(ORB.MOON_STATE 15, 1)], 0, 15, by (dsimp only; decide +kernel)⟩,
   ⟨moonUp [(ORB.STATUS_JOIN_STATE, 4)], 0, 15, by (dsimp only; decide +kernel)⟩,
   ⟨moonUp [(ORB.STATUS_JOIN_STATE, 3), (TIME.PORT_ENABLE 0, 1)], 0, 15, by (dsimp only; decide +kernel)⟩,
   ⟨moonUp [(ORB.STATUS_JOIN_STATE, 0)], 3, 15, by (dsimp only; decide +kernel)⟩,
   ⟨moonUp [(ORB.STATUS_JOIN_STATE, 1)], 3, 15, by (dsimp only; decide +kernel)⟩,
   ⟨orbUp 3 3 [], 3, 1, 3, packet49, by (dsimp only; decide +kernel)⟩,
   ⟨orbUp 3 3 [], 3, 15, 3, packet49, by (dsimp only; decide +kernel)⟩,
   ⟨orbUp 3 3 [], 3, 15, by (dsimp only; decide +kernel)⟩,
   ⟨moonUp [(ORB.STATUS_JOIN_STATE, 4), (ORB.LINK_LINK_STATE 0, 3), (ORB.LINK_LINK_STATE 3, 3)], 3, 15, by (dsimp only; decide +kernel)⟩⟩

/-- A ready unit of a pair in this role. -/
def pairAt (role : Nat) (l : List (Fld × Nat)) (f : PairState → PairState) : State :=
  let s := up ((PAIR.STATUS_ROLE, role) :: (PAIR.CTRL_PAIR_EN, if role = 0 then 0 else 1) :: l)
  { s with pair := f s.pair }

/-- The bytes of a pulse with this first and second byte and this echo. -/
def pulseOf (first second echo : Nat) : List Byte :=
  let b := le 1 first ++ le 1 second ++ le 4 9 ++ le 4 echo ++ le 4 0
  b ++ le 2 (crc16 b)

/-- A unit whose schedule has begun, in SERVICE, with set 0 on. -/
def temperUp (l : List (Fld × Nat)) (f : TestState → TestState) : State :=
  let s := up ((LIFE.STATUS_LC_STATE, 4) :: (TEST.SETS_EN, 7) :: l)
  { s with test := f { s.test with sched := true } }

/-- A slice of set 0 on its spare unit, and a commanded run. -/
def slice0 : Slice := ⟨0, 16, 254, 0, false, false, 0⟩
def run3 : CmdRun := ⟨3, 7, 0x0A03, 3, 3, 0, true, 0, 0xFFFF, false, false, 0, false, [], []⟩

theorem meets_PairRoles :
    (∃ (s : State) (r : Req),
      let role := s.get PAIR.STATUS_ROLE;
      (s.barred 0x0910 r = none) ∧ (s.isMoon = false) ∧ (role = 0) ∧ (s.on PAIR.CTRL_PAIR_EN = false)) ∧
    (∃ (s : State) (v : Word),
      let role := s.get PAIR.STATUS_ROLE;
      (s.busOpen 0x1D0000) ∧ (s.isMoon = false) ∧ (role = 0) ∧ (s.on PAIR.CTRL_PAIR_EN = false) ∧ (v.toNat.testBit 8 = true) ∧
      (v.toNat.testBit 4 = false) ∧ (v.toNat.testBit 0 = false)) ∧
    (∃ (s : State),
      let role := s.get PAIR.STATUS_ROLE;
      (role ≠ 0) ∧ (s.pair.stopped = false)) ∧
    (∃ (s : State) (b : List Byte),
      let role := s.get PAIR.STATUS_ROLE;
      let pulse := fun (b : List Byte) => b.length = 16 ∧ crc16 (b.take 14) = leAt b 14 2;
      (role ≠ 0) ∧ (¬ pulse b)) ∧
    (∃ (s : State) (b : List Byte),
      let role := s.get PAIR.STATUS_ROLE;
      let pulse := fun (b : List Byte) => b.length = 16 ∧ crc16 (b.take 14) = leAt b 14 2;
      (role ≠ 0) ∧ (¬ pulse b)) ∧
    (∃ (s : State) (b : List Byte),
      let role := s.get PAIR.STATUS_ROLE;
      let pulse := fun (b : List Byte) => b.length = 16 ∧ crc16 (b.take 14) = leAt b 14 2;
      (role ≠ 0) ∧ (pulse b)) ∧
    (∃ (s : State) (b : List Byte),
      let role := s.get PAIR.STATUS_ROLE;
      let pulse := fun (b : List Byte) => b.length = 16 ∧ crc16 (b.take 14) = leAt b 14 2;
      (role ≠ 0) ∧ (pulse b)) ∧
    (∃ (s : State) (b : List Byte),
      let role := s.get PAIR.STATUS_ROLE;
      let pulse := fun (b : List Byte) => b.length = 16 ∧ crc16 (b.take 14) = leAt b 14 2;
      (role ≠ 0) ∧ (pulse b)) ∧
    (∃ (s : State),
      let role := s.get PAIR.STATUS_ROLE;
      (role = 1) ∧ (s.get PAIR.STATUS_SIDE = 0)) ∧
    (∃ (s : State),
      let role := s.get PAIR.STATUS_ROLE;
      (role = 3)) ∧
    (∃ (s : State),
      let role := s.get PAIR.STATUS_ROLE;
      (role = 5) ∧ (s.pair.conf.isSome = true) ∧ (s.pair.conf = s.pair.lastRx)) ∧
    (∃ (s : State),
      let role := s.get PAIR.STATUS_ROLE;
      (role = 4)) ∧
    (∃ (s : State) (r : Req),
      let role := s.get PAIR.STATUS_ROLE;
      (role = 1 ∨ role = 6) ∧ (s.barred 0x0912 r = none)) ∧
    (∃ (s : State) (r : Req),
      let role := s.get PAIR.STATUS_ROLE;
      (role = 1 ∨ role = 6) ∧ (s.barred 0x0912 r = none)) ∧
    (∃ (s : State),
      let role := s.get PAIR.STATUS_ROLE;
      (role = 1 ∨ role = 6) ∧ (s.busOpen 0x1D0000) ∧ (s.isMoon = false) ∧ (s.on PAIR.CTRL_PAIR_EN = true)) ∧
    (∃ (s : State) (r : Req),
      let role := s.get PAIR.STATUS_ROLE;
      let mayResign := role = 3 ∧ s.pair.peerSynced = true ∧ ∃ l, s.pair.lease = some l ∧ s.cycles < l;
      (mayResign) ∧ (s.barred 0x0911 r = none)) ∧
    (∃ (s : State),
      let role := s.get PAIR.STATUS_ROLE;
      let mayResign := role = 3 ∧ s.pair.peerSynced = true ∧ ∃ l, s.pair.lease = some l ∧ s.cycles < l;
      (mayResign) ∧ (s.busOpen 0x1D0000) ∧ (s.isMoon = false) ∧ (s.on PAIR.CTRL_PAIR_EN = true)) ∧
    (∃ (s : State),
      let role := s.get PAIR.STATUS_ROLE;
      (role = 4) ∧ (s.get PAIR.RESYNC_PHASE = 1)) ∧
    (∃ (s : State),
      let role := s.get PAIR.STATUS_ROLE;
      (role = 4) ∧ (s.get PAIR.RESYNC_PHASE = 2) ∧ (16 ≤ s.pair.timeRun)) ∧
    (∃ (s : State),
      let role := s.get PAIR.STATUS_ROLE;
      (role = 4) ∧ (s.get PAIR.RESYNC_PHASE = 3)) ∧
    (∃ (s : State),
      let role := s.get PAIR.STATUS_ROLE;
      (role = 4) ∧ (s.get PAIR.RESYNC_PHASE = 4) ∧ (48 ≤ s.pair.matched)) ∧
    (∃ (s : State) (r : Req),
      let role := s.get PAIR.STATUS_ROLE;
      (s.barred 0x0914 r = none) ∧ (role = 5)) :=
  ⟨⟨pairAt 0 [] id, q3, by (dsimp only; decide +kernel)⟩,
   ⟨pairAt 0 [] id, 0x100, by (dsimp only; decide +kernel)⟩,
   ⟨pairAt 3 [] id, by (dsimp only; decide +kernel)⟩,
   ⟨pairAt 5 [] id, pulseOf 3 0 0 ++ [0], by (dsimp only; decide +kernel)⟩,
   ⟨pairAt 1 [] id, (pulseOf 3 0 0).set 15 0, by (dsimp only; decide +kernel)⟩,
   ⟨pairAt 1 [] id, pulseOf 3 0 0, by (dsimp only; decide +kernel)⟩,
   ⟨pairAt 2 [] (fun p => { p with sent := [(44, 0)] }), pulseOf 5 1 44, by (dsimp only; decide +kernel)⟩,
   ⟨pairAt 5 [] id, pulseOf 0x83 0 0, by (dsimp only; decide +kernel)⟩,
   ⟨pairAt 1 [(PAIR.STATUS_SIDE, 0)] id, by (dsimp only; decide +kernel)⟩,
   ⟨pairAt 3 [] id, by (dsimp only; decide +kernel)⟩,
   ⟨pairAt 5 [] (fun p => { p with conf := some 5, lastRx := some 5 }), by (dsimp only; decide +kernel)⟩,
   ⟨pairAt 4 [(PAIR.STATUS_PEER_SEEN, 1)] id, by (dsimp only; decide +kernel)⟩,
   ⟨pairAt 1 [] id, q3, by (dsimp only; decide +kernel)⟩,
   ⟨pairAt 6 [] id, q3, by (dsimp only; decide +kernel)⟩,
   ⟨pairAt 6 [] id, by (dsimp only; decide +kernel)⟩,
   ⟨pairAt 3 [] (fun p => { p with lease := some 6400, peerSynced := true }), q3, ⟨⟨by decide +kernel, by decide +kernel, 6400,
      by decide +kernel⟩, by decide +kernel⟩⟩,
   ⟨pairAt 3 [] (fun p => { p with lease := some 6400, peerSynced := true }), ⟨⟨by decide +kernel, by decide +kernel, 6400, by decide +kernel⟩,
      by decide +kernel⟩⟩,
   ⟨pairAt 4 [(PAIR.RESYNC_PHASE, 1)] id, by (dsimp only; decide +kernel)⟩,
   ⟨pairAt 4 [(PAIR.RESYNC_PHASE, 2)] (fun p => { p with timeRun := 16 }), by (dsimp only; decide +kernel)⟩,
   ⟨pairAt 4 [(PAIR.RESYNC_PHASE, 3)] id, by (dsimp only; decide +kernel)⟩,
   ⟨pairAt 4 [(PAIR.RESYNC_PHASE, 4)] (fun p => { p with matched := 48 }), by (dsimp only; decide +kernel)⟩,
   ⟨pairAt 5 [] id, q3, by (dsimp only; decide +kernel)⟩⟩

theorem meets_PairMirrorAndDigests :
    (∃ (s : State) (g : Nat) (tag : Nat) (vals : List Int) (sealw : Nat),
      let p := nearPeriod s.media tag;
      (s.standingBy = true) ∧ (s.linkState 3 = 3) ∧ (g < 48 ∨ (84 ≤ g ∧ g ≤ 100)) ∧ (sealw = blockSeal 2 g p vals)) ∧
    (∃ (s : State) (g : Nat) (tag : Nat) (vals : List Int) (sealw : Nat),
      let p := nearPeriod s.media tag;
      (s.standingBy = true) ∧ (s.linkState 3 = 3) ∧ (g < 48 ∨ (84 ≤ g ∧ g ≤ 100)) ∧ (sealw ≠ blockSeal 2 g p vals)) ∧
    (∃ (s : State) (b : List Byte), (s.standingBy = true) ∧ (s.linkState 3 = 3) ∧ (leAt b 0 1 = 3) ∧ (s.cmd.inflight = [])) ∧
    (∃ (s : State) (b : List Byte), (s.standingBy = true) ∧ (s.linkState 3 = 3) ∧ (leAt b 0 1 = 0) ∧ (leAt (b.drop 9) 0 4 = 0x100800) ∧
      (leAt (b.drop 9) 4 4 = 0) ∧ (s.cmd.inflight = []) ∧ (s.on (QUE.BLW_EN 0) = true)) ∧
    (∃ (s : State) (pass : Nat) (digest : Nat) (own : Nat), (s.standingBy = true) ∧ (s.linkState 3 = 3) ∧ (s.pair.digests = [(pass, own)]) ∧
      (digest = own)) ∧
    (∃ (s : State) (pass : Nat) (digest : Nat) (own : Nat), (s.standingBy = true) ∧ (s.linkState 3 = 3) ∧ (s.pair.digests = [(pass, own)]) ∧
      (digest ≠ own)) ∧
    (∃ (s : State) (pass : Nat) (digest : Nat) (own : Nat), (s.standingBy = true) ∧ (s.linkState 3 = 3) ∧ (s.pair.digests = [(pass, own)]) ∧
      (digest ≠ own)) :=
  ⟨⟨pairAt 5 [(ORB.LINK_LINK_STATE 3, 3)] id, 47, 20, [-5, 7], blockSeal 2 47 20 [-5, 7], by (dsimp only; decide +kernel)⟩,
   ⟨pairAt 5 [(ORB.LINK_LINK_STATE 3, 3)] id, 47, 20, [-5, 7], 5, by (dsimp only; decide +kernel)⟩,
   ⟨(fun (s : State) => { s with cmd := { s.cmd with sessions := [sess] } }) (pairAt 4 [(ORB.LINK_LINK_STATE 3, 3)] id),
      le 1 3 ++ le 8 0 ++ le 1 32, by decide +kernel⟩,
   ⟨pairAt 4 [(ORB.LINK_LINK_STATE 3, 3), (QUE.BLW_EN 0, 1)] id, le 1 0 ++ le 8 0 ++ le 4 0x100800 ++ le 4 0, by decide +kernel⟩,
   ⟨pairAt 5 [(ORB.LINK_LINK_STATE 3, 3)] (fun p => { p with digests := [(9, 77)] }), 9, 77, 77, by decide +kernel⟩,
   ⟨pairAt 5 [(ORB.LINK_LINK_STATE 3, 3)] (fun p => { p with digests := [(9, 77)] }), 9, 78, 77, by decide +kernel⟩,
   ⟨pairAt 5 [(ORB.LINK_LINK_STATE 3, 3)] (fun p => { p with digests := [(9, 77)], differ := 47 }), 9, 78, 77, by decide +kernel⟩⟩

theorem meets_TemperSlicesAndRuns :
    (∃ (s : State) (r : Req) (sets : Nat) (gap : Nat), (sets < 8) ∧ (gap < 1024) ∧ (s.barred 0x0A02 r = none) ∧ (1 ≤ s.lifecycle) ∧
      (s.lifecycle ≤ 4)) ∧
    (∃ (s : State) (r : Req) (set : Nat) (unit : Nat) (seed : Nat),
      let free := s.test.slice = none ∧ s.test.run = none ∧ s.test.rep = none;
      (set ≤ 6) ∧ (unit < setUnits set) ∧ (unit < 32) ∧ (seed < 2 ^ 32) ∧ (s.barred 0x0A03 r = none) ∧ (free) ∧ (s.lifecycle = 4) ∧ (set ≠ 1) ∧
      ((if 3 ≤ set then s.targetIdle set unit = true else s.role set unit = 1))) ∧
    (∃ (s : State) (r : Req) (set : Nat) (unit : Nat) (seed : Nat),
      let free := s.test.slice = none ∧ s.test.run = none ∧ s.test.rep = none;
      (set ≤ 6) ∧ (unit < setUnits set) ∧ (unit < 32) ∧ (seed < 2 ^ 32) ∧ (s.barred 0x0A03 r = none) ∧ (free) ∧ (s.lifecycle = 4) ∧ (set ≠ 1) ∧
      ((if 3 ≤ set then s.targetIdle set unit = true else s.role set unit = 1))) ∧
    (∃ (s : State) (r : Req) (x : CmdRun),
      let quietEnd := s.test.writes = [] ∧ s.cmd.inflight = [];
      (s.test.run = some x) ∧ (quietEnd) ∧ (s.barred 0x0A04 r = none)) ∧
    (∃ (s : State) (x : Nat) (u : Nat),
      let free := s.test.slice = none ∧ s.test.run = none ∧ s.test.rep = none;
      (free) ∧ (s.schedules = true) ∧ (s.turnUnit x = some u) ∧
      ([s.test.turn % 3, (s.test.turn + 1) % 3, (s.test.turn + 2) % 3].find? (fun y => (s.turnUnit y).isSome) = some x)) ∧
    (∃ (s : State) (x : Nat) (u : Nat),
      let free := s.test.slice = none ∧ s.test.run = none ∧ s.test.rep = none;
      (free) ∧ (s.schedules = true) ∧ (s.turnUnit x = some u) ∧
      ([s.test.turn % 3, (s.test.turn + 1) % 3, (s.test.turn + 2) % 3].find? (fun y => (s.turnUnit y).isSome) = some x)) ∧
    (∃ (s : State) (x : Nat) (u : Nat),
      let free := s.test.slice = none ∧ s.test.run = none ∧ s.test.rep = none;
      (free) ∧ (s.schedules = true) ∧ (s.turnUnit x = some u) ∧
      ([s.test.turn % 3, (s.test.turn + 1) % 3, (s.test.turn + 2) % 3].find? (fun y => (s.turnUnit y).isSome) = some x)) ∧
    (∃ (s : State) (c : Slice) (sig : Nat) (expect : Nat),
      let quietEnd := s.test.writes = [] ∧ s.cmd.inflight = [];
      (s.test.slice = some c) ∧ (s.test.run = none) ∧ (quietEnd) ∧ (c.set = 0) ∧ (c.cmd = false) ∧ (c.mode = 0) ∧ (sig < 2 ^ 64) ∧
      (expect < 2 ^ 64) ∧ (sig = expect) ∧ (c.rep = false) ∧ (s.get (TEST.SET_UNIT 0) = c.unit) ∧ (s.role 0 c.unit = 2) ∧ (c.index + 1 < 256)) ∧
    (∃ (s : State) (c : Slice) (sig : Nat) (expect : Nat),
      let quietEnd := s.test.writes = [] ∧ s.cmd.inflight = [];
      (s.test.slice = some c) ∧ (s.test.run = none) ∧ (quietEnd) ∧ (c.set = 0) ∧ (c.cmd = false) ∧ (c.mode = 0) ∧ (sig < 2 ^ 64) ∧
      (expect < 2 ^ 64) ∧ (sig ≠ expect) ∧ (c.rep = false)) ∧
    (∃ (s : State) (c : Slice) (sig : Nat) (expect : Nat),
      let quietEnd := s.test.writes = [] ∧ s.cmd.inflight = [];
      (s.test.slice = some c) ∧ (s.test.run = none) ∧ (quietEnd) ∧ (c.set = 0) ∧ (c.cmd = false) ∧ (c.mode = 0) ∧ (sig < 2 ^ 64) ∧
      (expect < 2 ^ 64) ∧ (sig ≠ expect) ∧ (c.rep = true)) ∧
    (∃ (s : State) (c : Slice),
      let quietEnd := s.test.writes = [] ∧ s.cmd.inflight = [];
      (s.test.slice = some c) ∧ (s.test.run = none) ∧ (quietEnd) ∧ (c.cmd = false)) ∧
    (∃ (s : State) (c : Slice), (s.test.rep = some c) ∧ (s.test.slice = none)) ∧
    (∃ (s : State) (x : CmdRun), (s.test.run = some x) ∧ (x.wait = false) ∧ (s.test.slice = none) ∧ (s.test.rep = none)) :=
  ⟨⟨up [], q3, 7, 1023, by decide +kernel⟩,
   ⟨temperUp [(ORB.LINK_EN 3, 0)] id, q3, 6, 3, 0xFFFFFFFF, by (dsimp only; decide +kernel)⟩,
   ⟨temperUp [(STRM.HAMMER_ROLE 16, 1)] id, q3, 0, 16, 0xFFFFFFFF, by (dsimp only; decide +kernel)⟩,
   ⟨temperUp [(TEST.STATUS_CMD_RUN, 1)] (fun x => { x with run := some run3 }), q3, run3, by (dsimp only; decide +kernel)⟩,
   ⟨temperUp [(STRM.HAMMER_ROLE 16, 2), (TEST.SET_UNIT 0, 16), (TEST.SET_NEXT_SLICE 0, 200)] id, 0, 16, by (dsimp only; decide +kernel)⟩,
   ⟨temperUp [(STRM.HAMMER_ROLE 16, 1), (TEST.SET_UNIT 0, 16), (TEST.SET_NEXT_SLICE 0, 200)] id, 0, 16, by (dsimp only; decide +kernel)⟩,
   ⟨temperUp [(QUE.BANK_ROLE 8, 1)] (fun x => { x with turn := 1 }), 1, 8, by (dsimp only; decide +kernel)⟩,
   ⟨temperUp [(STRM.HAMMER_ROLE 16, 2), (TEST.SET_UNIT 0, 16), (TEST.STATUS_SLICE_ACTIVE, 1)] (fun x => { x with slice := some slice0 }), slice0,
      2 ^ 64 - 1, 2 ^ 64 - 1, by (dsimp only; decide +kernel)⟩,
   ⟨temperUp [(STRM.HAMMER_ROLE 16, 2), (TEST.SET_UNIT 0, 16), (TEST.STATUS_SLICE_ACTIVE, 1)] (fun x => { x with slice := some slice0 }), slice0,
      2 ^ 64 - 1, 0, by (dsimp only; decide +kernel)⟩,
   ⟨temperUp [(STRM.HAMMER_ROLE 16, 2), (TEST.SET_UNIT 0, 16), (TEST.STATUS_SLICE_ACTIVE,
      1)] (fun x => { x with slice := some { slice0 with rep := true } }), { slice0 with rep := true }, 2 ^ 64 - 1, 0,
      by (dsimp only; decide +kernel)⟩,
   ⟨temperUp [(STRM.HAMMER_ROLE 16, 2), (TEST.SET_UNIT 0, 16), (TEST.STATUS_SLICE_ACTIVE, 1)] (fun x => { x with slice := some slice0 }), slice0,
      by (dsimp only; decide +kernel)⟩,
   ⟨temperUp [(STRM.HAMMER_ROLE 16, 2)] (fun x => { x with rep := some slice0 }), slice0, by decide +kernel⟩,
   ⟨temperUp [] (fun x => { x with run := some run3 }), run3, by decide +kernel⟩⟩

/-- A ready unit in this life-cycle state. -/
def lifeUp (lc : Nat) (l : List (Fld × Nat)) (f : LifeState → LifeState) : State :=
  let s := up ((LIFE.STATUS_LC_STATE, lc) :: l)
  { s with life := f s.life }

/-- The neutral point's encoding as the owner's key and as R, with S of 0: a signature that RFC 8032 accepts for every message. -/
def onePoint : List Byte := 1#8 :: List.replicate 31 0#8
def goodCert : Nat := ofLe (List.replicate 40 5#8 ++ onePoint ++ List.replicate 32 0#8)

/-- An image of no sections, of level 2 and fully signed in form. -/
def smallImage : List Byte := [0x48, 0x43, 0x46, 0x47, 1, 0, 2, 2] ++ List.replicate 16 0#8 ++ le 4 96 ++ List.replicate 68 0#8

theorem meets_CalendarAndLifetime :
    (∃ (s : State) (r : Req) (sec : Nat) (off : Nat), (sec < 2 ^ 48) ∧ (off < 2 ^ 16) ∧ (s.barred 0x0B04 r = none)) ∧
    (∃ (s : State), (s.on LIFE.CTRL_CAL_SYNC_EN = true) ∧ (s.on TIME.STATUS_MEDIA_VALID = true) ∧ (s.tracedLock = true) ∧ (s.syncDue = true)) ∧
    (∃ (s : State), (s.on LIFE.STATUS_VBAK_LOW = false)) ∧
    (∃ (x : Int), (-32768 ≤ x) ∧ (x ≤ 32767)) ∧
    (∃ (x : Int), (-32768 ≤ x) ∧ (x ≤ 32767)) ∧
    (∃ (x : Int), (-32768 ≤ x) ∧ (x ≤ 32767)) :=
  ⟨⟨up [], q3, 2 ^ 48 - 1, 0xFFFF, by decide +kernel⟩,
   ⟨{ up [(LIFE.CTRL_CAL_SYNC_EN, 1), (TIME.STATUS_MEDIA_VALID, 1), (CLK.DPLL_STATE 0, 3), (CLK.DPLL_SEL_VALID 0, 1), (CLK.DPLL_SEL_REF 0, 4), (CLK.TRACE, 16)] with ctr := 7 * ctrPerSec }, by decide +kernel⟩,
   ⟨up [], by decide +kernel⟩,
   ⟨32767, by decide +kernel⟩,
   ⟨-32768, by decide +kernel⟩,
   ⟨101, by decide +kernel⟩⟩

theorem meets_LifeCycleKeysAndImages :
    (∃ (s : State) (r : Req), (s.barred 0x0B05 r = none)) ∧
    (∃ (s : State) (r : Req),
      let lc := s.lifecycle;
      let quietEnd := s.test.writes = [] ∧ s.cmd.inflight = [];
      (s.barred 0x0B06 r = none) ∧ (quietEnd) ∧ (lc = 2)) ∧
    (∃ (s : State) (r : Req),
      let lc := s.lifecycle;
      let quietEnd := s.test.writes = [] ∧ s.cmd.inflight = [];
      (s.barred 0x0B06 r = none) ∧ (quietEnd) ∧ (lc = 1) ∧ (s.test.run = none) ∧ (s.test.slice = none)) ∧
    (∃ (s : State) (r : Req),
      let lc := s.lifecycle;
      let quietEnd := s.test.writes = [] ∧ s.cmd.inflight = [];
      (s.barred 0x0B06 r = none) ∧ (quietEnd) ∧ (lc = 3)) ∧
    (∃ (s : State),
      let lc := s.lifecycle;
      let quietEnd := s.test.writes = [] ∧ s.cmd.inflight = [];
      (lc = 4) ∧ (s.get LIFE.SERVICE_LEFT = 0) ∧ (quietEnd) ∧ (s.test.run = none)) ∧
    (∃ (s : State) (r : Req) (k : Nat),
      let lc := s.lifecycle;
      (k < 2 ^ 256) ∧ (lc = 1) ∧ (s.test.run = none) ∧ (s.barred 0x0B07 r = none)) ∧
    (∃ (s : State) (r : Req) (c : Nat), (c < 2 ^ 832) ∧ (s.barred 0x0B08 r = none) ∧
      (edVerify s.life.owner ((le 104 c).take 40) ((le 104 c).drop 40) = true)) ∧
    (∃ (s : State) (r : Req) (c : Nat), (c < 2 ^ 832) ∧ (s.barred 0x0B08 r = none) ∧
      (edVerify s.life.owner ((le 104 c).take 40) ((le 104 c).drop 40) = false)) ∧
    (∃ (s : State) (r : Req) (slot : Nat) (priv : Nat) (k : Nat),
      let lc := s.lifecycle;
      (slot < 4) ∧ (priv < 3) ∧ (k < 2 ^ 256) ∧ (lc = 1 ∨ lc = 2 ∨ lc = 4) ∧ (s.cmd.sessions.filter (fun x => x.slot == slot) = []) ∧
      (s.barred 0x0B09 r = none)) ∧
    (∃ (s : State) (r : Req) (eui : Nat),
      let lc := s.lifecycle;
      (eui < 2 ^ 64) ∧ (lc = 2 ∨ lc = 4) ∧ (s.barred 0x0B0A r = none)) ∧
    (∃ (s : State) (r : Req), (s.barred 0x0B0B r = none) ∧ (s.canSign = true)) ∧
    (∃ (s : State) (r : Req), (s.barred 0x0B0B r = none) ∧ (s.canSign = false)) ∧
    (∃ (s : State) (r : Req) (off : Nat), (off < 2 ^ 20) ∧ (s.barred 0x0B0D r = none)) ∧
    (∃ (s : State) (r : Req) (off : Nat), (off < 2 ^ 20) ∧ (s.barred 0x0B0D r = none)) ∧
    (∃ (s : State) (r : Req) (k : Nat),
      let img := unitAt s.life.cfg k [];
      (k < 2) ∧ (s.barred 0x0B0E r = none) ∧ (imgLayout img = false ∨ imgLevel img ≤ s.blMax)) ∧
    (∃ (s : State) (r : Req) (k : Nat),
      let img := unitAt s.life.cfg k [];
      (k < 2) ∧ (s.barred 0x0B0E r = none) ∧ (imgLayout img = true) ∧ (s.blMax < imgLevel img)) ∧
    (∃ (s : State) (r : Req) (off : Nat) (n : Nat),
      let lc := s.lifecycle;
      (lc ≠ 5) ∧ (s.on LIFE.STATUS_FW_TRIAL = false) ∧ (off < 2 ^ 21) ∧ (off + n ≤ 2 ^ 21) ∧ (s.barred 0x0B0F r = none)) ∧
    (∃ (s : State) (r : Req) (off : Nat) (n : Nat),
      let lc := s.lifecycle;
      (lc ≠ 5) ∧ (s.on LIFE.STATUS_FW_TRIAL = false) ∧ (off < 2 ^ 21) ∧ (off + n ≤ 2 ^ 21) ∧ (s.barred 0x0B0F r = none)) ∧
    (∃ (s : State) (r : Req) (off : Nat) (n : Nat),
      let lc := s.lifecycle;
      (lc ≠ 5) ∧ (s.on LIFE.STATUS_FW_TRIAL = false) ∧ (off < 2 ^ 21) ∧ (off + n ≤ 2 ^ 21) ∧ (s.barred 0x0B0F r = none)) ∧
    (∃ (s : State) (r : Req),
      let lc := s.lifecycle;
      (lc ≠ 5) ∧ (s.on LIFE.STATUS_FW_TRIAL = false) ∧ (s.slotResult s.fwTarget = 0) ∧ (s.barred 0x0B10 r = none)) ∧
    (∃ (s : State) (r : Req), (s.on LIFE.STATUS_FW_TRIAL = true) ∧ (s.get LIFE.STATUS_FW_SLOT = s.life.preferred) ∧ (s.barred 0x0B11 r = none)) ∧
    (∃ (s : State), (s.on LIFE.STATUS_FW_TRIAL = true) ∧ (s.get LIFE.STATUS_FW_SLOT = s.life.preferred) ∧ (s.on SYS.STATUS_READY = true)) :=
  ⟨⟨lifeUp 5 [] id, q3, by decide +kernel⟩,
   ⟨lifeUp 2 [] id, q3, by (dsimp only; decide +kernel)⟩,
   ⟨lifeUp 1 [(LIFE.STATUS_CERT_VALID, 1)] (fun x => { x with owner := [1], unitSeed := [2], cert := [3] }), q3, by (dsimp only; decide +kernel)⟩,
   ⟨lifeUp 3 [] id, q3, by (dsimp only; decide +kernel)⟩,
   ⟨lifeUp 4 [(LIFE.SERVICE_LEFT, 0)] id, by (dsimp only; decide +kernel)⟩,
   ⟨lifeUp 1 [] id, q3, 2 ^ 256 - 1, by (dsimp only; decide +kernel)⟩,
   ⟨lifeUp 2 [] (fun x => { x with owner := onePoint }), q3, goodCert, by decide +kernel⟩,
   ⟨lifeUp 2 [] (fun x => { x with owner := onePoint }), q3, goodCert + 2 ^ 576, by decide +kernel⟩,
   ⟨lifeUp 1 [] id, q3, 3, 2, 2 ^ 256 - 1, by (dsimp only; decide +kernel)⟩,
   ⟨lifeUp 2 [] id, q3, 2 ^ 64 - 1, by (dsimp only; decide +kernel)⟩,
   ⟨lifeUp 3 [(LIFE.STATUS_CERT_VALID, 1)] (fun x => { x with unitSeed := List.replicate 32 1#8 }), q3, by decide +kernel⟩,
   ⟨lifeUp 3 [] id, q3, by decide +kernel⟩,
   ⟨lifeUp 3 [] id, q3, 2 ^ 20 - 1, by decide +kernel⟩,
   ⟨lifeUp 3 [] id, q3, 0, by decide +kernel⟩,
   ⟨lifeUp 3 [] id, q3, 1, by (dsimp only; decide +kernel)⟩,
   ⟨lifeUp 3 [(SYS.DEVICE_ID_BLMAX, 1)] (fun x => { x with cfg := #v[[], smallImage] }), q3, 1, by (dsimp only; decide +kernel)⟩,
   ⟨lifeUp 3 [] id, q3, 100, 3, by (dsimp only; decide +kernel)⟩,
   ⟨lifeUp 3 [] id, q3, 0, 8, by (dsimp only; decide +kernel)⟩,
   ⟨lifeUp 3 [] id, q3, 0, 8, by (dsimp only; decide +kernel)⟩,
   ⟨lifeUp 3 [] (fun x => { x with fw := #v[⟨[1], 1, 0, 255, true⟩, ⟨[2], 1, 0, 255, true⟩] }), q3, by (dsimp only; decide +kernel)⟩,
   ⟨lifeUp 3 [(LIFE.STATUS_FW_TRIAL, 1), (LIFE.STATUS_FW_SLOT, 1)] (fun x => { x with preferred := 1 }), q3, by decide +kernel⟩,
   ⟨lifeUp 3 [(LIFE.STATUS_FW_TRIAL, 1), (LIFE.STATUS_FW_SLOT, 1)] (fun x => { x with preferred := 1 }), by decide +kernel⟩⟩

/-- A unit in its start-up, in this row. -/
def rowAt (n : Nat) (l : List (Fld × Nat)) : State := l.foldl (fun s x => s.set x.1 x.2) (State.reset.set SYS.STATUS_STEP n)

/-- A unit whose start or reset stands as `f` says. -/
def bootAt (s : State) (f : BootState → BootState) : State := { s with boot := f s.boot }

theorem meets_StartRowsInOrder :
    (∃ (s : State), (s.boot.porst = true)) ∧
    (∃ (s : State),
      let row := fun (n : Nat) => s.boot.parked = false ∧ s.isMoon = false ∧ s.get SYS.STATUS_STEP = n;
      (row 1)) ∧
    (∃ (s : State),
      let row := fun (n : Nat) => s.boot.parked = false ∧ s.isMoon = false ∧ s.get SYS.STATUS_STEP = n;
      (row 2) ∧ (s.on CLK.XO_OK = true)) ∧
    (∃ (s : State),
      let row := fun (n : Nat) => s.boot.parked = false ∧ s.isMoon = false ∧ s.get SYS.STATUS_STEP = n;
      (row 3) ∧ (s.boot.wrst = false)) ∧
    (∃ (s : State),
      let row := fun (n : Nat) => s.boot.parked = false ∧ s.isMoon = false ∧ s.get SYS.STATUS_STEP = n;
      (row 4)) ∧
    (∃ (s : State),
      let row := fun (n : Nat) => s.boot.parked = false ∧ s.isMoon = false ∧ s.get SYS.STATUS_STEP = n;
      (row 5)) ∧
    (∃ (s : State),
      let row := fun (n : Nat) => s.boot.parked = false ∧ s.isMoon = false ∧ s.get SYS.STATUS_STEP = n;
      (row 6)) ∧
    (∃ (s : State) (k : Nat),
      let row := fun (n : Nat) => s.boot.parked = false ∧ s.isMoon = false ∧ s.get SYS.STATUS_STEP = n;
      (row 7) ∧ (s.chooseSlot = .inl k)) ∧
    (∃ (s : State) (k : Nat),
      let row := fun (n : Nat) => s.boot.parked = false ∧ s.isMoon = false ∧ s.get SYS.STATUS_STEP = n;
      (row 7) ∧ (s.chooseSlot = .inr k)) ∧
    (∃ (s : State),
      let row := fun (n : Nat) => s.boot.parked = false ∧ s.isMoon = false ∧ s.get SYS.STATUS_STEP = n;
      (row 8) ∧ (s.life.aonDead = false)) ∧
    (∃ (s : State),
      let row := fun (n : Nat) => s.boot.parked = false ∧ s.isMoon = false ∧ s.get SYS.STATUS_STEP = n;
      (row 9)) ∧
    (∃ (s : State),
      let row := fun (n : Nat) => s.boot.parked = false ∧ s.isMoon = false ∧ s.get SYS.STATUS_STEP = n;
      (row 10)) ∧
    (∃ (s : State),
      let row := fun (n : Nat) => s.boot.parked = false ∧ s.isMoon = false ∧ s.get SYS.STATUS_STEP = n;
      (row 11)) ∧
    (∃ (s : State), (s.boot.held = true)) ∧
    (∃ (s : State), (s.boot.held = true)) :=
  ⟨⟨bootAt State.reset (fun b => { b with porst := true }), by decide +kernel⟩,
   ⟨rowAt 1 [], by (dsimp only; decide +kernel)⟩,
   ⟨rowAt 2 [(CLK.XO_OK, 1)], by (dsimp only; decide +kernel)⟩,
   ⟨bootAt (rowAt 3 []) (fun b => { b with wrst := false }), by (dsimp only; decide +kernel)⟩,
   ⟨rowAt 4 [], by (dsimp only; decide +kernel)⟩,
   ⟨rowAt 5 [], by (dsimp only; decide +kernel)⟩,
   ⟨rowAt 6 [], by (dsimp only; decide +kernel)⟩,
   ⟨rowAt 7 [], 0, by (dsimp only; decide +kernel)⟩,
   ⟨(fun (s : State) => { s with life := { s.life with fw := Vector.replicate 2 ⟨[], 0, 0, 0, false⟩ } }) (rowAt 7 []), 1,
      by (dsimp only; decide +kernel)⟩,
   ⟨rowAt 8 [], by (dsimp only; decide +kernel)⟩,
   ⟨rowAt 9 [], by (dsimp only; decide +kernel)⟩,
   ⟨rowAt 10 [], by (dsimp only; decide +kernel)⟩,
   ⟨rowAt 11 [], by (dsimp only; decide +kernel)⟩,
   ⟨bootAt (rowAt 0 [(CLK.XO_OK, 1)]) (fun b => { b with held := true, wrst := true }), by decide +kernel⟩,
   ⟨bootAt (rowAt 0 [(CLK.XO_OK, 0)]) (fun b => { b with held := true, wrst := true }), by decide +kernel⟩⟩

theorem meets_ResetsByCommandPinAndFault :
    (∃ (s : State), (s.boot.wrst = false) ∧ (s.boot.porst = false) ∧ ((s.boot.kind = 0 → s.get SYS.STATUS_STEP ≠ 1 ∧
      s.get SYS.STATUS_STEP ≠ 2)) ∧ (s.boot.dormant = false) ∧ (s.boot.phase = 0)) ∧
    (∃ (s : State) (r : Req) (cause : Nat), (cause < 2) ∧ (s.barred 0x0140 r = none)) ∧
    (∃ (s : State), (s.boot.arm = some (0, 3))) ∧
    (∃ (s : State), (s.boot.arm = some (1, 4))) ∧
    (∃ (s : State), (7 ≤ s.get SYS.STATUS_STEP) ∧ (s.on SYS.STATUS_READY = false) ∧ (s.on SYS.STATUS_RECOVERY = false) ∧ (s.boot.parked = false)) ∧
    (∃ (s : State) (v : Word), (s.busOpen 0x3C) ∧ (v.toNat / 2 ^ 16 = 0x5752) ∧ (v.toNat % 2 = 1)) ∧
    (∃ (s : State) (rail : Nat), (rail ≤ 5) ∧ (s.boot.porst = false)) :=
  ⟨⟨bootAt (up []) (fun b => { b with kind := 1, wrst := false, porst := false }), by decide +kernel⟩,
   ⟨up [], q3, 1, by decide +kernel⟩,
   ⟨bootAt (up []) (fun b => { b with arm := some (0, 3) }), by decide +kernel⟩,
   ⟨bootAt (up []) (fun b => { b with arm := some (1, 4) }), by decide +kernel⟩,
   ⟨rowAt 7 [], by decide +kernel⟩,
   ⟨up [], 0x57520001, by decide +kernel⟩,
   ⟨bootAt (up []) (fun b => { b with porst := false }), 5, by decide +kernel⟩⟩

theorem meets_SuppliesDormancyAndHostReset :
    (∃ (s : State) (rail : Nat), (rail ≤ 5) ∧ (s.bit SYS.RAIL_WARN rail = false) ∧ (s.boot.dormant = false)) ∧
    (∃ (s : State) (rail : Nat), (rail ≤ 5) ∧ (s.bit SYS.RAIL_WARN rail = true)) ∧
    (∃ (s : State) (rail : Nat), (rail ≤ 5) ∧ (s.bit SYS.RAIL_WARN rail = true)) ∧
    (∃ (s : State) (r : Req), (s.barred 0x0142 r = none) ∧ (s.on PAIR.CTRL_PAIR_EN = false) ∧ (s.isMoon = false) ∧ (s.on ORB.JOINED = false) ∧
      ((s.port 2).link = 2) ∧ (s.wakeArmed = true) ∧ (s.boot.phase = 0)) ∧
    (∃ (s : State), (s.boot.phase = 1)) ∧
    (∃ (s : State), (s.boot.phase = 2) ∧ (s.boot.wake = false)) ∧
    (∃ (s : State), (s.boot.dormant = true) ∧ (s.on PORT.WAKE_LINK_WAKE = true)) ∧
    (∃ (s : State) (unit : Nat), (s.get SYS.STATUS_STEP = 4) ∧ (unit < 9)) ∧
    (∃ (s : State) (unit : Nat), (s.get SYS.STATUS_STEP = 5) ∧ (unit < 9) ∧ (s.get (QUE.BANK_ROLE unit) ≠ 4)) :=
  ⟨⟨up [], 5, by decide +kernel⟩,
   ⟨up [(SYS.RAIL_WARN, 32)], 5, by decide +kernel⟩,
   ⟨up [(SYS.RAIL_WARN, 1), (SYS.RAIL_IN_RANGE, 1)], 0, by decide +kernel⟩,
   ⟨(fun (s : State) => s.setPort 2 { s.port 2 with link := 2 }) (up [(PORT.WAKE_LINK_WAKE, 1)]), q3, by decide +kernel⟩,
   ⟨bootAt (up []) (fun b => { b with phase := 1 }), by decide +kernel⟩,
   ⟨bootAt (up []) (fun b => { b with phase := 2 }), by decide +kernel⟩,
   ⟨bootAt (up [(PORT.WAKE_LINK_WAKE, 1)]) (fun b => { b with dormant := true }), by decide +kernel⟩,
   ⟨rowAt 4 [], 8, by decide +kernel⟩,
   ⟨rowAt 5 [(QUE.BANK_ROLE 8, 0)], 8, by decide +kernel⟩⟩

/-- A request with a wait of 70 ms and a parameter, sealed. -/
def askTlvs : List Tlv := [⟨1, 2, 0x1234⟩, ⟨0xF001, 2, 70⟩]
def askReq : Req := { q3 with waitMs := waitOf askTlvs, noWait := Params.has askTlvs 0xF002, sealed := true, tag := 511, seq := 2 ^ 32 - 1 }

theorem meets_RequestPacketsReadBack :
    (∃ (op : Nat) (r : Req) (ts : List Tlv), (op < 2 ^ 16) ∧ (isN5 op = false) ∧ (r.tag < 512) ∧ (r.seq < 2 ^ 32) ∧ (r.device < 16) ∧
      (r.waitMs = waitOf ts) ∧ (r.noWait = Params.has ts 0xF002) ∧ ((∀ x ∈ ts, x.ty < 2 ^ 16 ∧ x.len < 2 ^ 16 ∧ x.val < 256 ^ x.len)) ∧
      ((ts.flatMap tlvBytes).length ≤ 65532)) :=
  ⟨0x0301, askReq, askTlvs, by decide +kernel⟩

theorem meets_ReplyPacketsReadBack :
    (∃ (op : Nat) (tagWord : Nat) (r : Reply), (op < 2 ^ 16) ∧ (tagWord < 2 ^ 16) ∧ (r.status < 2 ^ 16) ∧ (r.partMask < 2 ^ 32) ∧
      ((replyPayload r).length < 2 ^ 16) ∧ ((r.status = 0 → r.errTlv = 0 ∧ r.errOffset = 0 ∧ r.undoFail = 0 ∧ r.partStatus = [])) ∧
      ((r.status ≠ 0 → r.errTlv < 2 ^ 16 ∧ r.errOffset < 2 ^ 16 ∧ r.undoFail < 2 ^ 32 ∧ r.payload = [] ∧ ∀ x ∈ r.partStatus, x < 2 ^ 16))) ∧
    (∃ (op : Nat) (tagWord : Nat) (r : Reply), (op < 2 ^ 16) ∧ (tagWord < 2 ^ 16) ∧ (r.status < 2 ^ 16) ∧ (r.partMask < 2 ^ 32) ∧
      ((replyPayload r).length < 2 ^ 16) ∧ ((r.status = 0 → r.errTlv = 0 ∧ r.errOffset = 0 ∧ r.undoFail = 0 ∧ r.partStatus = [])) ∧
      ((r.status ≠ 0 → r.errTlv < 2 ^ 16 ∧ r.errOffset < 2 ^ 16 ∧ r.undoFail < 2 ^ 32 ∧ r.payload = [] ∧ ∀ x ∈ r.partStatus, x < 2 ^ 16))) :=
  ⟨⟨0xFFFF, 0xFFFF, ⟨0x0021, 5, 0xFFFF, 12, 2, [1, 0xFFFF], []⟩, by decide +kernel⟩,
   ⟨0x0101, 7, Reply.ok [1, 2, 3], by decide +kernel⟩⟩

theorem meets_NoReplyRequestsReplyNothing :
    (∃ (s : State) (ch : Nat) (f : InFlight) (rep : Reply), (s.inFlight ch f.req.tag = some f) ∧ (f.req.channel = ch) ∧ (f.req.noReply = true) ∧
      (s.waitOf ch f.req.tag = none) ∧ (s.mirrors = false) ∧ ((∀ g ∈ s.cmd.inflight, g.started = true)) ∧ (s.sessionOn ch = none) ∧
      (s.cmd.results = [⟨ch, f.req.tag, f.opcode, rep⟩]) ∧ ((replyPayload rep).length ≤ 65532) ∧ (ch < 256)) ∧
    (∃ (s : State) (ch : Nat) (f : InFlight) (rep : Reply), (s.inFlight ch f.req.tag = some f) ∧ (f.req.channel = ch) ∧ (f.req.noReply = true) ∧
      (s.waitOf ch f.req.tag = none) ∧ (s.mirrors = false) ∧ ((∀ g ∈ s.cmd.inflight, g.started = true)) ∧ (s.sessionOn ch = none) ∧
      (s.cmd.results = [⟨ch, f.req.tag, f.opcode, rep⟩]) ∧ ((replyPayload rep).length ≤ 65532) ∧ (ch < 256)) :=
  ⟨⟨inFlightNop true [⟨3, 7, 0x0101, Reply.ok []⟩], 3, nopFlight true, Reply.ok [], by decide +kernel⟩,
   ⟨inFlightNop true [⟨3, 7, 0x0101, Reply.err Status.badParam⟩], 3, nopFlight true, Reply.err Status.badParam, by decide +kernel⟩⟩

/-! ## Well-formedness: each check refuses an ill-formed term -/

theorem test_wf_accepts : (Instr.nop q3 [⟨1, 2, 0xFFFF⟩]).wf = true := by decide
theorem test_wf_channel : (Instr.nop { q3 with channel := 50 } []).wf = false := by decide
theorem test_wf_tag : (Instr.nop { q3 with tag := 512 } []).wf = false := by decide
theorem test_wf_seq : (Instr.nop { q3 with seq := 2 ^ 32 } []).wf = false := by decide
theorem test_wf_device : (Instr.nop { q3 with device := 16 } []).wf = false := by decide
theorem test_wf_wait_zero : (Instr.nop { q3 with waitMs := 0 } []).wf = false := by decide
theorem test_wf_wait_long : (Instr.nop { q3 with waitMs := 60001 } []).wf = false := by decide
theorem test_wf_tlv_type : (Instr.nop q3 [⟨65536, 1, 0⟩]).wf = false := by decide
theorem test_wf_tlv_length : (Instr.nop q3 [⟨1, 65536, 0⟩]).wf = false := by decide
theorem test_wf_tlv_value : (Instr.nop q3 [⟨1, 1, 256⟩]).wf = false := by decide
theorem test_wf_n5_padding : (Instr.n5Route q3 [0, 0, 0]).wf = false := by decide
theorem test_wf_source : (Instr.ringEnWrite 2 0 0).wf = false := by decide

/-! ## Values that the spec gives -/

/-- R240. -/
theorem test_seal_of_nine_bytes : crc32c [0x31, 0x32, 0x33, 0x34, 0x35, 0x36, 0x37, 0x38, 0x39] = 0xE3069283 := by decide +kernel

/-- R445. -/
theorem test_check_of_nine_bytes : crc16 [0x31, 0x32, 0x33, 0x34, 0x35, 0x36, 0x37, 0x38, 0x39] = 0x29B1 := by decide +kernel

/-- The example of R70: 1,800,000,000.25 s. -/
def atExample : State := { State.reset with ctr := 1800000000 * ctrPerSec + ctrPerSec / 4 }
theorem test_short_time : atExample.shortTime = 0xA29AB280 := by decide +kernel
theorem test_media48 : atExample.media48 = 86400000012000 := by decide +kernel
theorem test_media96 : atExample.mediaAt 2 atExample.ctr % 2 ^ 32 = 0x229E5DC0 := by decide +kernel

/-- The example of R271: 0.25 under FADE over 16 passes. -/
theorem test_fade : [1, 8, 15, 16, 48].map (fun j => concealed 2 16 j 0x40000000) = [0x3C000000, 0x20000000, 0x04000000, 0, 0] := by decide +kernel

/-- The first passes of its resumption. -/
theorem test_resume : (loadPhase 2 16 8 48 none [0] (some [0x40000000])).1 = [0x08000000] := by decide +kernel

/-- The example of R340: WARN 40,000, SHUT 48,000, G_MIN 0.25, H 44,000. -/
theorem test_quench_target :
    (up [(AMP.SEN_WARN 0, 40000), (AMP.SEN_SHUT 0, 48000), (AMP.SEN_G_MIN 0, 0x040000)]).quenchTarget 0 44000 = 0x0A0000 := by decide +kernel

/-- Chapter 1: EVENT_GAP of device 3 reads 0x3101. -/
theorem test_event_device : leAt ((up [(ORB.STATUS_OWN_INDEX, 3)]).eventRec 0x0101 1 0 []).hdr 4 2 = 0x3101 := by decide +kernel

/-- RFC 8032, 7.1, test 1, which the spec names by reference only: an empty message. -/
theorem test_ed25519 :
    edPublic ((be 32 0x9d61b19deffd5a60ba844af492ec2cc44449c5697b326919703bac031cae7f60)) =
      be 32 0xd75a980182b10ab7d54bfed3c964073a0ee172f3daa62325af021a68f707511a := by decide +kernel

end Sys2Proof.Tests
end

