-- ==== Sys2Proof/Proofs/Reset.lean ====
section

namespace Sys2Proof.Machine
/-- Settles O60: each clause is a value of the reset state. -/
theorem resetState : Obligations.ResetState := by
  unfold Obligations.ResetState
  refine ⟨rfl, fun _ => rfl, rfl, rfl, by decide, ?_, rfl, rfl, rfl, rfl, rfl, rfl⟩
  intro i hi
  simp [State.reset, State.queue, unitAt, hi]
end Sys2Proof.Machine

end

