-- ==== Sys2Proof/Proofs/HostWrites.lean ====
section

namespace Sys2Proof.Machine

/-! ## Register fields that a step writes -/

/-- `t` is `s` but for the register file, and no field reads otherwise but those whose keys are in `l`. -/
structure State.Writes (l : List Fld) (s t : State) : Prop where
  rest : t = { s with regs := t.regs }
  get : ∀ f : Fld, (∀ g ∈ l, g.key ≠ f.key) → t.get f = s.get f

namespace State.Writes

variable {l m : List Fld} {s t u : State}

theorem refl (l : List Fld) (s : State) : Writes l s s := ⟨rfl, fun _ _ => rfl⟩

theorem trans (a : Writes l s t) (b : Writes l t u) : Writes l s u := by
  refine ⟨?_, fun f h => (b.get f h).trans (a.get f h)⟩
  have h := b.rest
  rw [a.rest] at h
  exact h

theorem mono (h : ∀ g ∈ l, g ∈ m) (a : Writes l s t) : Writes m s t :=
  ⟨a.rest, fun f hf => a.get f (fun g hg => hf g (h g hg))⟩

theorem set {f : Fld} (h : f ∈ l) (s : State) (v : Nat) : Writes l s (s.set f v) :=
  ⟨rfl, fun _ hg => State.get_set_of_ne _ (hg f h) _⟩

theorem foldl {α : Type} {g : State → α → State} {xs : List α} (h : ∀ s, ∀ a ∈ xs, Writes l s (g s a)) (s : State) :
    Writes l s (xs.foldl g s) := by
  induction xs generalizing s with
  | nil => exact refl l s
  | cons a xs ih =>
    exact (h s a (List.mem_cons_self ..)).trans (ih (fun s b hb => h s b (List.mem_cons_of_mem _ hb)) _)

theorem amp (a : Writes l s t) : t.amp = s.amp := by rw [a.rest]
theorem cmd (a : Writes l s t) : t.cmd = s.cmd := by rw [a.rest]
theorem boot (a : Writes l s t) : t.boot = s.boot := by rw [a.rest]
theorem test (a : Writes l s t) : t.test = s.test := by rw [a.rest]

theorem keepsBut (a : Writes l s t) : s.keepsBut t l := fun f _ _ h => a.get f h

end State.Writes

/-- A field that raising an event does not touch has no key of an event. -/
theorem eventKey_of_quiet {f : Fld} (hl : f.lo < 32) (hq : f.quiet) : eventKey f.key = false := by
  obtain ⟨hque, hmsi⟩ := hq
  refine queueKey_false ?_ hl
  simp only [queueOff, Bool.or_eq_false_iff, Bool.and_eq_false_iff, decide_eq_false_iff_not, beq_eq_false_iff_ne]
  omega

theorem State.keepsBut_event {s t u : State} {l : List Fld} (h : s.keepsBut t l) (e : State.EventStep eventKey t u) :
    s.keepsBut u l :=
  fun g hlo hq hg => (e.get g (eventKey_of_quiet hlo hq)).trans (h g hlo hq hg)

/-! ## The way of a host write (R13, R17, R424, R444, R480) -/

theorem State.mirrors_congr {s t : State} (hr : t.get PAIR.STATUS_ROLE = s.get PAIR.STATUS_ROLE)
    (hu : t.get PAIR.STATUS_MIRROR_UP = s.get PAIR.STATUS_MIRROR_UP) : t.mirrors = s.mirrors := by
  simp [State.mirrors, State.on, hr, hu]

theorem State.mirror_of_alone {s : State} (h : s.mirrors = false) (k : Nat) (b : List Byte) : s.mirror k b = s := by
  simp [State.mirror, h]

theorem wordOff {off : Nat} (h : off % 4 = 0) : off / 4 * 4 = off := by omega

theorem State.busWrite_dormant {s : State} (h : s.boot.dormant = true) (source off w : Nat) : s.busWrite source off w = s := by
  simp [State.busWrite, State.busGate, h]

/-- A write that meets nothing, and after which no peer is driven, is that of its block. -/
theorem State.busWrite_open {s : State} {source off w : Nat} (ho : s.busOpen off) (h4 : off % 4 = 0) (hlt : off < 0x200000)
    (hm : (s.regWrite source off w).mirrors = false) : s.busWrite source off w = s.regWrite source off w := by
  obtain ⟨hd, hr, hl, hh, -⟩ := ho
  have hlt' : ¬ 2097152 ≤ off := by omega
  simp [State.busWrite, State.busGate, wordOff h4, hd, hr, hl, hh, hlt', State.busApply, blockWrite, State.mirror_of_alone hm]

/-- Before READY a write above the blocks of the host interface is refused. -/
theorem State.busWrite_notReady {s : State} {source off w : Nat} (hd : s.boot.dormant = false) (hr : s.on SYS.STATUS_READY = false)
    (h4 : off % 4 = 0) (hlo : 0x40000 ≤ off) (hlt : off < 0x200000) : s.busWrite source off w = s.cfgReject source off := by
  have hlt' : ¬ 2097152 ≤ off := by omega
  simp [State.busWrite, State.busGate, wordOff h4, hd, hr, hlt', hlo]

/-- A limited register without a W1C or W1S field takes no write. -/
theorem State.busWrite_limited {s : State} {source off w : Nat} (hd : s.boot.dormant = false) (hr : s.on SYS.STATUS_READY = true)
    (hl : s.writeLimited off = true) (h1 : hasW1 off = false) (h4 : off % 4 = 0) (hlt : off < 0x200000) :
    s.busWrite source off w = s.cfgReject source off := by
  have hlt' : ¬ 2097152 ≤ off := by omega
  simp [State.busWrite, State.busGate, wordOff h4, hd, hr, hlt', hl, h1]

theorem State.busWrite_held {s : State} {source off w : Nat} (hd : s.boot.dormant = false) (hr : s.on SYS.STATUS_READY = true)
    (hl : s.writeLimited off = false) (hh : s.writeHeld off = true) (h4 : off % 4 = 0) (hlt : off < 0x200000) :
    s.busWrite source off w = { s with test := { s.test with writes := s.test.writes ++ [(source, off, w)] } } := by
  have hlt' : ¬ 2097152 ≤ off := by omega
  simp [State.busWrite, State.busGate, wordOff h4, hd, hr, hlt', hl, hh]

/-! ## Which block takes a word (R37) -/

/-- The word at `off` is LO or HI of a quantity that is written LO first (R19). -/
def inSplit (off : Nat) : Bool := splitWrites.any (fun x => x.1.off == off || x.2.1 == off)

theorem find_lo_of_inSplit {off : Nat} (h : inSplit off = false) : splitWrites.find? (fun x => x.1.off == off) = none := by
  simp only [inSplit, List.any_eq_false, Bool.or_eq_true, not_or] at h
  exact List.find?_eq_none.2 (fun x hx => (h x hx).1)

theorem find_hi_of_inSplit {off : Nat} (h : inSplit off = false) : splitWrites.find? (fun x => x.2.1 == off) = none := by
  simp only [inSplit, List.any_eq_false, Bool.or_eq_true, not_or] at h
  exact List.find?_eq_none.2 (fun x hx => (h x hx).2)

/-- The flags of the blocks whose INT word RegisterAccess names, and their enables. -/
def intFlags : List Fld := [TIME.INT, CLK.INT, STRM.INT, QUE.INT, ANVIL.INT, TDM.INT, ORB.INT, TEST.INT, LIFE.INT]
def intEnables : List Fld :=
  [TIME.INT_EN, CLK.INT_EN, STRM.INT_EN, QUE.INT_EN, ANVIL.INT_EN, TDM.INT_EN, ORB.INT_EN, TEST.INT_EN, LIFE.INT_EN]

theorem inSplit_int : ∀ f ∈ intFlags ++ intEnables, inSplit f.off = false := by decide +kernel

theorem fieldsAt_flags : ∀ f ∈ intFlags, fieldsAt (blockFields f.off) f.off = [(f, .w1c, .none)] := by decide +kernel
theorem fieldsAt_enables : ∀ f ∈ intEnables, fieldsAt (blockFields f.off) f.off = [(f, .rw, .live)] := by decide +kernel

theorem regWrite_int (s : State) (source w : Nat) {f : Fld} (h : f ∈ intFlags ++ intEnables) :
    s.regWrite source f.off w = s.plainWrite true source f.off w := by
  have hs := inSplit_int f h
  simp only [intFlags, intEnables, List.cons_append, List.nil_append, List.mem_cons, List.not_mem_nil, or_false] at h
  rcases h with rfl | rfl | rfl | rfl | rfl | rfl | rfl | rfl | rfl | rfl | rfl | rfl | rfl | rfl | rfl | rfl | rfl | rfl <;>
  · simp only [TIME.INT, CLK.INT, STRM.INT, QUE.INT, ANVIL.INT, TDM.INT, ORB.INT, TEST.INT, LIFE.INT, TIME.INT_EN, CLK.INT_EN, STRM.INT_EN,
      QUE.INT_EN, ANVIL.INT_EN, TDM.INT_EN, ORB.INT_EN, TEST.INT_EN, LIFE.INT_EN] at hs ⊢
    simp [State.regWrite, find_lo_of_inSplit hs, find_hi_of_inSplit hs, State.writeTime, State.writeClk, State.writeStrm, State.writeQue, State.writeAnvil,
      State.writeTdm, State.writeOrb, setCtrlOff, wordIdx]

end Sys2Proof.Machine

end

