-- ==== Sys2Proof/Proofs/IntWords.lean ====
section

namespace Sys2Proof.Machine

/-! ## Words of one field -/

theorem sub_and_eq_ldiff (a b : Nat) : a - (a &&& b) = Nat.ldiff a b := by
  induction a using Nat.binaryRec generalizing b with
  | zero => simp [Nat.ldiff]
  | bit c m ih =>
    cases b using Nat.bitCasesOn with
    | bit d n =>
      have hle : m &&& n ≤ m := Nat.and_le_left
      rw [Nat.land_bit, Nat.ldiff_bit, ← ih]
      cases c <;> cases d <;> simp [Nat.bit_val] <;> omega

/-- The bits of `a` that `b` does not have. -/
theorem testBit_sub_and (a b i : Nat) : (a - (a &&& b)).testBit i = (a.testBit i && !b.testBit i) := by
  rw [sub_and_eq_ldiff, Nat.testBit_ldiff]

/-- A word that holds one W1C field clears in it the bits written 1. -/
theorem State.plainWrite_w1c {s : State} {f : Fld} {u : Upd} (hf : fieldsAt (blockFields f.off) f.off = [(f, .w1c, u)]) (idle : Bool)
    (source w : Nat) : s.plainWrite idle source f.off w = s.set f (s.get f - (s.get f &&& f.part w)) := by
  simp [State.plainWrite, State.writeWord, hf, wordStatic, State.writeFld]

/-- A word that holds one live RW field takes its part of the word. -/
theorem State.plainWrite_live {s : State} {f : Fld} (hf : fieldsAt (blockFields f.off) f.off = [(f, .rw, .live)]) (idle : Bool)
    (source w : Nat) : s.plainWrite idle source f.off w = s.set f (f.part w) := by
  simp [State.plainWrite, State.writeWord, hf, wordStatic, State.writeFld, State.write]

theorem int_facts : ∀ f ∈ intFlags ++ intEnables,
    f.off % 4 = 0 ∧ f.off < 0x200000 ∧ f.lo = 0 ∧ 0x40000 ≤ f.off ∧ ¬ (0x1D0000 ≤ f.off ∧ f.off < 0x1E0000) ∧
      f.key ≠ PAIR.STATUS_ROLE.key ∧ f.key ≠ PAIR.STATUS_MIRROR_UP.key := by decide +kernel

theorem hasW1_enables : ∀ f ∈ intEnables, hasW1 f.off = false := by decide +kernel

theorem State.mirrors_set {s : State} {f : Fld} (hr : f.key ≠ PAIR.STATUS_ROLE.key) (hu : f.key ≠ PAIR.STATUS_MIRROR_UP.key) (v : Nat) :
    (s.set f v).mirrors = s.mirrors :=
  State.mirrors_congr (State.get_set_of_ne s hr v) (State.get_set_of_ne s hu v)

/-- A host write of an INT or INT_EN word that meets nothing is its block's plain write, where that sets the one field. -/
theorem State.busWrite_int {s : State} {f : Fld} (hf : f ∈ intFlags ++ intEnables) (ho : s.busOpen f.off) {source w v : Nat}
    (hp : s.plainWrite true source f.off w = s.set f v) : s.busWrite source f.off w = s.set f v := by
  obtain ⟨h4, hlt, -, -, -, hrole, hup⟩ := int_facts f hf
  have hr : s.regWrite source f.off w = s.set f v := (regWrite_int s source w hf).trans hp
  rw [State.busWrite_open ho h4 hlt ?_, hr]
  rw [hr, State.mirrors_set hrole hup]
  exact ho.2.2.2.2

theorem intWrite_clears (s : State) (source : Nat) (v : Word) {f : Fld} (hf : f ∈ intFlags) (ho : s.busOpen f.off) :
    ∃ t, Machine.exec (.registerWrite source f.off v) s = .next t ∧ t = { s with regs := t.regs } ∧ s.keepsBut t [f] ∧
      ∀ i, i < f.w → t.bit f i = (s.bit f i && !v.toNat.testBit i) := by
  have hm : f ∈ intFlags ++ intEnables := List.mem_append_left _ hf
  have hw := State.busWrite_int hm ho (State.plainWrite_w1c (fieldsAt_flags f hf) true source v.toNat)
  have hs := State.Writes.set (List.mem_singleton_self f) s (s.get f - (s.get f &&& f.part v.toNat))
  refine ⟨_, congrArg Host.Outcome.next hw, hs.rest, hs.keepsBut, fun i hi => ?_⟩
  have hlo : f.lo = 0 := (int_facts f hm).2.2.1
  simp [State.bit, Nat.testBit_mod_two_pow, hi, testBit_sub_and, Fld.part, hlo]

theorem intEnWrite_sets (s : State) (source : Nat) (v : Word) {f : Fld} (hf : f ∈ intEnables) (ho : s.busOpen f.off) :
    ∃ t, Machine.exec (.registerWrite source f.off v) s = .next t ∧ t = { s with regs := t.regs } ∧ s.turns t f (v.toNat % 2 ^ f.w) := by
  have hm : f ∈ intFlags ++ intEnables := List.mem_append_right _ hf
  have hw := State.busWrite_int hm ho (State.plainWrite_live (fieldsAt_enables f hf) true source v.toNat)
  have hs := State.Writes.set (List.mem_singleton_self f) s (f.part v.toNat)
  refine ⟨_, congrArg Host.Outcome.next hw, hs.rest, ?_, hs.keepsBut⟩
  have hlo : f.lo = 0 := (int_facts f hm).2.2.1
  simp [Fld.part, hlo]

/-! ## A refused write (R17) -/

/-- The fields that the record of a refused write sets. -/
def rejectFlds : List Fld := [SYS.REJ_OFFSET, SYS.REJ_SOURCE, SYS.REJ_VALID, SYS.CFG_REJECT_TIME, SYS.CFG_REJECT_CNT, SYS.INT]

/-- The record of a refused write, before its event. -/
def State.noteReject (s : State) (source off : Nat) : State :=
  (((((s.set SYS.REJ_VALID 1).set SYS.REJ_SOURCE source).set SYS.REJ_OFFSET off).set SYS.CFG_REJECT_TIME s.shortTime).count
    SYS.CFG_REJECT_CNT).setBit SYS.INT SYS.INT_CFG_REJECT true

/-- A refused write leaves its record, and perhaps an event behind it. -/
theorem State.cfgReject_cases (s : State) (source off : Nat) :
    s.cfgReject source off = s.noteReject source off ∨
      ∃ c b u d, s.cfgReject source off = ((s.noteReject source off).holdoffMark c u).raise c b u d := by
  unfold State.cfgReject
  extract_lets s1 s2 s3
  split
  · exact Or.inr ⟨_, _, _, _, rfl⟩
  · exact Or.inl rfl

theorem State.noteReject_writes (s : State) (source off : Nat) : State.Writes rejectFlds s (s.noteReject source off) := by
  unfold State.noteReject
  refine ((((State.Writes.set ?_ s _).trans (State.Writes.set ?_ _ _)).trans (State.Writes.set ?_ _ _)).trans (State.Writes.set ?_ _ _)).trans
    ((State.Writes.set ?_ _ _).trans (State.Writes.set ?_ _ _)) <;> simp [rejectFlds]

/-- The fields of the record read what it notes. -/
theorem State.get_noteReject (s : State) {source : Nat} (h : source < 2) (off : Nat) :
    let t := s.noteReject source off
    t.get SYS.REJ_OFFSET = off % 2 ^ SYS.REJ_OFFSET.w ∧ t.get SYS.REJ_SOURCE = source ∧ t.on SYS.REJ_VALID = true ∧
      t.get SYS.CFG_REJECT_TIME = s.shortTime % 2 ^ 32 ∧
      t.get SYS.CFG_REJECT_CNT = (s.get SYS.CFG_REJECT_CNT + 1) % 2 ^ SYS.CFG_REJECT_CNT.w ∧ t.bit SYS.INT SYS.INT_CFG_REJECT = true := by
  have hsrc : source % 2 ^ SYS.REJ_SOURCE.w = source := Nat.mod_eq_of_lt (by simp only [SYS.REJ_SOURCE]; omega)
  refine ⟨?_, ?_, ?_, ?_, ?_, State.bit_setBit_self _ _ _ (by decide)⟩ <;>
    unfold State.noteReject State.setBit State.count State.countBy <;>
    simp (disch := decide) only [State.on, State.get_set_of_ne, State.get_set_self]
  · exact hsrc
  · decide
  · rfl


/-- What a refused write is to leave: its record in SYS, and nothing else but what an event may change. -/
def State.rejected (s t : State) (source off : Nat) : Prop :=
  s.sameUnits t ∧ t.get SYS.REJ_OFFSET = off % 2 ^ SYS.REJ_OFFSET.w ∧
    t.get SYS.REJ_SOURCE = source ∧ t.on SYS.REJ_VALID = true ∧ t.get SYS.CFG_REJECT_TIME = s.shortTime % 2 ^ 32 ∧
    t.get SYS.CFG_REJECT_CNT = (s.get SYS.CFG_REJECT_CNT + 1) % 2 ^ SYS.CFG_REJECT_CNT.w ∧ t.bit SYS.INT SYS.INT_CFG_REJECT = true ∧
    s.keepsBut t rejectFlds

/-- An event behind a step that changed registers and noted a time leaves the units as they are. -/
theorem State.sameUnits_event {s u t : State} {P : Nat → Bool} (r : RegFile) (l : List Holdoff) (hu : u = { s with regs := r, holdoff := l })
    (h : State.EventStep P u t) : s.sameUnits t := by
  subst hu
  have hheld : t.held = s.held := h.held
  have hoff : t.holdoff = l := h.holdoff
  have hcmd : t.cmd = s.cmd := h.cmd
  unfold State.sameUnits
  rw [hheld, hoff, hcmd]
  exact h.rest

theorem State.cfgReject_rejected (s : State) {source : Nat} (h : source < 2) (off : Nat) : s.rejected (s.cfgReject source off) source off := by
  obtain ⟨hoff, hsrc, hval, htime, hcnt, hint⟩ := s.get_noteReject h off
  have hw := s.noteReject_writes source off
  rcases s.cfgReject_cases source off with heq | ⟨c, b, u, d, heq⟩ <;> rw [heq]
  · refine ⟨?_, hoff, hsrc, hval, htime, hcnt, hint, hw.keepsBut⟩
    unfold State.sameUnits
    rw [hw.rest]
  · have he := State.raise_event ((s.noteReject source off).holdoffMark c u) c b u d
    have hget : ∀ f ∈ rejectFlds, (((s.noteReject source off).holdoffMark c u).raise c b u d).get f = (s.noteReject source off).get f :=
      fun f hf => he.get f (by revert f; decide)
    refine ⟨State.sameUnits_event ((s.noteReject source off).holdoffMark c u).regs ((s.noteReject source off).holdoffMark c u).holdoff rfl he, ?_, ?_, ?_, ?_, ?_, ?_,
      State.keepsBut_event (t := (s.noteReject source off).holdoffMark c u) hw.keepsBut he⟩
    · rw [hget _ (by decide), hoff]
    · rw [hget _ (by decide), hsrc]
    · unfold State.on at hval ⊢; rw [hget _ (by decide), hval]
    · rw [hget _ (by decide), htime]
    · rw [hget _ (by decide), hcnt]
    · unfold State.bit at hint ⊢; rw [hget _ (by decide), hint]

end Sys2Proof.Machine

end

