-- ==== Sys2Proof/Proofs/SplitWords.lean ====
section

namespace Sys2Proof.Machine

/-! ## BASE of a ring (R18, R19, R402) -/

theorem splitWrites_ring : ∀ i < 65,
    splitWrites.find? (fun x => x.1.off == 0x21004 + 0x40 * i) = some (DMA.RING_BASE_LO i, 0x21008 + 0x40 * i, .static) ∧
    splitWrites.find? (fun x => x.1.off == 0x21008 + 0x40 * i) = none ∧
    splitWrites.find? (fun x => x.2.1 == 0x21008 + 0x40 * i) = some (DMA.RING_BASE_LO i, 0x21008 + 0x40 * i, .static) := by
  decide +kernel

theorem fieldsAt_ring : ∀ i < 65,
    fieldsAt DMA.fields (0x21004 + 0x40 * i) = [(DMA.RING_BASE_LO i, .rw, .static)] ∧
    fieldsAt DMA.fields (0x21008 + 0x40 * i) = [(DMA.RING_BASE_HI i, .rw, .static)] := by
  decide +kernel

theorem instOf_add {base stride i o : Nat} (ho : o < stride) : instOf base stride (base + stride * i + o) = (i, o) := by
  have hs : 0 < stride := by omega
  have h : base + stride * i + o - base = o + stride * i := by omega
  simp [instOf, h, Nat.add_mul_div_left _ _ hs, Nat.div_eq_of_lt ho, Nat.mod_eq_of_lt ho]

theorem instOf_ring (i : Nat) : instOf 0x21000 0x40 (0x21004 + 0x40 * i) = (i, 4) ∧ instOf 0x21000 0x40 (0x21008 + 0x40 * i) = (i, 8) := by
  have h4 := instOf_add (base := 0x21000) (stride := 0x40) (i := i) (o := 4) (by omega)
  have h8 := instOf_add (base := 0x21000) (stride := 0x40) (i := i) (o := 8) (by omega)
  exact ⟨by rw [← h4]; congr 1; omega, by rw [← h8]; congr 1; omega⟩

/-- The words of BASE of ring i are idle while the ring is DISABLED. -/
theorem State.splitIdle_ring (s : State) {i : Nat} (hi : i ≤ 64) :
    s.splitIdle (0x21004 + 0x40 * i) = (s.get (DMA.RING_STATE i) == 0) ∧
      s.splitIdle (0x21008 + 0x40 * i) = (s.get (DMA.RING_STATE i) == 0) := by
  obtain ⟨h4, h8⟩ := instOf_ring i
  have hr4 : 0x21000 ≤ 0x21004 + 0x40 * i ∧ 0x21004 + 0x40 * i < 0x24000 := by omega
  have hr8 : 0x21000 ≤ 0x21008 + 0x40 * i ∧ 0x21008 + 0x40 * i < 0x24000 := by omega
  exact ⟨by rw [State.splitIdle, if_pos hr4, h4], by rw [State.splitIdle, if_pos hr8, h8]⟩

theorem blockFields_dma {off : Nat} (h : 0x20000 ≤ off) (h' : off < 0x30000) : blockFields off = DMA.fields := by
  have h1 : ¬ off < 0x10000 := by omega
  have h2 : ¬ off < 0x20000 := by omega
  simp only [blockFields, h1, h2, h', if_true, if_false]

/-- A write of BASE_LO of a ring: held for BASE_HI while the ring is DISABLED; otherwise refused where it would change it. -/
theorem State.regWrite_baseLo (s : State) (source w : Nat) {i : Nat} (hi : i ≤ 64) :
    s.regWrite source (0x21004 + 0x40 * i) w =
      if s.get (DMA.RING_STATE i) = 0 then s.setLo (DMA.RING_BASE_LO i) ((DMA.RING_BASE_LO i).part w)
      else if (DMA.RING_BASE_LO i).part w = s.get (DMA.RING_BASE_LO i) then s else s.cfgReject source (0x21004 + 0x40 * i) := by
  have hfind := (splitWrites_ring i (by omega)).1
  have hflds := (fieldsAt_ring i (by omega)).1
  have hblk := blockFields_dma (off := 0x21004 + 0x40 * i) (by omega) (by omega)
  have hoff := wordOff (off := 0x21004 + 0x40 * i) (by omega)
  have hidle := (s.splitIdle_ring hi).1
  unfold State.regWrite
  simp only [hoff, hfind, hblk, hflds]
  by_cases hst : s.get (DMA.RING_STATE i) = 0 <;> simp [State.loWrite, hidle, hst]

/-- A write of BASE_HI of a DISABLED ring: BASE_LO comes into force with it. -/
theorem State.regWrite_baseHi (s : State) (source w : Nat) {i : Nat} (hi : i ≤ 64) (hst : s.get (DMA.RING_STATE i) = 0) :
    s.regWrite source (0x21008 + 0x40 * i) w =
      (s.joinLo (DMA.RING_BASE_LO i) .live).set (DMA.RING_BASE_HI i) ((DMA.RING_BASE_HI i).part w) := by
  obtain ⟨-, hlo, hhi⟩ := splitWrites_ring i (by omega)
  have hflds := (fieldsAt_ring i (by omega)).2
  have hblk := blockFields_dma (off := 0x21008 + 0x40 * i) (by omega) (by omega)
  have hoff := wordOff (off := 0x21008 + 0x40 * i) (by omega)
  have hidle := (s.splitIdle_ring hi).2
  have hinst := (instOf_ring i).2
  have hidx : 8 ≠ (hostIndex i).off - (0x21000 + 0x40 * i) := by
    unfold hostIndex
    split <;> simp [DMA.RING_PI, DMA.RING_CI] <;> omega
  have hget : (s.joinLo (DMA.RING_BASE_LO i) .live).get (DMA.RING_STATE i) = 0 := by
    rw [State.get_congr (State.regs_joinLo s _ _), hst]
  have h1 : ¬ 0x21008 + 0x40 * i < 0x10000 := by omega
  have h2 : ¬ 0x21008 + 0x40 * i < 0x20000 := by omega
  have h3 : 0x21008 + 0x40 * i < 0x30000 := by omega
  have h4 : 0x21000 ≤ 0x21008 + 0x40 * i ∧ 0x21008 + 0x40 * i < 0x21000 + 65 * 0x40 := by omega
  unfold State.regWrite
  simp only [hoff, hlo, hhi, State.hiJoin, State.hiBarred, Option.any, hidle, hst, if_true, h1, h2, h3, if_false, State.writeDma, if_pos h4, hinst,
    beq_self_eq_true, Bool.not_true, Bool.and_false, Bool.false_and, Bool.false_eq_true]
  simp [hidx, hget, State.plainWrite, hblk, State.writeWord, hflds, wordStatic, State.writeFld, State.write]

end Sys2Proof.Machine

end

