-- ==== Sys2Proof/Proofs/RingBase.lean ====
section

namespace Sys2Proof.Machine

theorem State.eff_of_any {s : State} {f : Fld} (h : s.held.any (fun h => h.key == f.key) = false) : s.eff f = s.get f := by
  have hn : s.held.find? (fun h => h.key == f.key) = none := by
    simpa [List.find?_eq_none] using h
  simp [State.eff, hn]

/-- Marking the waiting writes of a key with another class changes no value in force. -/
theorem find_held_map (l : List Held) (k j : Nat) (u : Upd) :
    ((l.map (fun h => if h.key = j then { h with upd := u } else h)).find? (fun h => h.key == k)).map Held.val =
      (l.find? (fun h => h.key == k)).map Held.val := by
  induction l with
  | nil => rfl
  | cons h t ih =>
    by_cases hj : h.key = j <;> by_cases hk : h.key = k <;> simp_all

theorem State.eff_congr {s t : State} {f : Fld} (hg : t.get f = s.get f)
    (hh : (t.held.find? (fun h => h.key == f.key)).map Held.val = (s.held.find? (fun h => h.key == f.key)).map Held.val) :
    t.eff f = s.eff f := by
  unfold State.eff
  cases ht : t.held.find? (fun h => h.key == f.key) <;> cases hs : s.held.find? (fun h => h.key == f.key) <;> simp_all

/-- LO of a split quantity: the register takes the value, and the value in force stays (R19). -/
theorem State.setLo_eq (s : State) (f : Fld) (v : Nat) : s.setLo f v = { s.set f v with held := (s.setLo f v).held } := by
  unfold State.setLo
  split <;> rfl

theorem State.get_setLo (s : State) (f g : Fld) (v : Nat) : (s.setLo f v).get g = (s.set f v).get g := by
  rw [State.setLo_eq]; rfl

/-- A later write that joins a waiting one leaves the value in force. -/
theorem State.eff_of_rewritten {s t : State} {f : Fld} {u : Upd} (h : s.held.any (fun h => h.key == f.key) = true)
    (ht : t.held = s.held.map (fun h => if h.key = f.key then { h with upd := u } else h)) : t.eff f = s.eff f := by
  have hsome : (s.held.find? (fun h => h.key == f.key)).isSome = true := by simpa using h
  have hmap := find_held_map s.held f.key f.key u
  unfold State.eff
  rw [ht]
  cases hs : s.held.find? (fun h => h.key == f.key) with
  | none => simp [hs] at hsome
  | some y =>
    rw [hs] at hmap
    obtain ⟨z, hz, hv⟩ := Option.map_eq_some_iff.1 hmap
    rw [hz]
    exact hv

/-- A first write that waits keeps the value in force. -/
theorem State.eff_of_waiting {s t : State} {f : Fld} {u : Upd} (h : s.held.any (fun h => h.key == f.key) = false)
    (ht : t.held = s.held ++ [⟨f.key, s.get f, u⟩]) : t.eff f = s.eff f := by
  have hn : s.held.find? (fun h => h.key == f.key) = none := by simpa [List.find?_eq_none] using h
  rw [State.eff_of_any h, State.eff, ht]
  simp [List.find?_append, hn]

theorem State.eff_setLo_self (s : State) (f : Fld) (v : Nat) : (s.setLo f v).eff f = s.eff f := by
  unfold State.setLo
  split
  · exact State.eff_of_rewritten ‹_› rfl
  · exact State.eff_of_waiting (Bool.eq_false_of_not_eq_true ‹_›) rfl

theorem State.eff_joinLo_live (s : State) (f : Fld) : (s.joinLo f .live).eff f = s.get f := by
  have hf : (s.joinLo f .live).held.any (fun h => h.key == f.key) = false := by
    simp [State.joinLo, List.any_filter]
  rw [State.eff_of_any hf]
  exact State.get_congr (State.regs_joinLo s f .live) f

theorem State.eff_set_of_ne {s : State} {f g : Fld} (h : f.key ≠ g.key) (v : Nat) : (s.set f v).eff g = s.eff g :=
  State.eff_congr (State.get_set_of_ne s h v) rfl

theorem State.busOpen_congr {s t : State} {off : Nat} (ho : s.busOpen off) (hboot : t.boot = s.boot) (htest : t.test = s.test)
    (hget : ∀ f ∈ [SYS.STATUS_READY, ORB.STATUS_ROLE_STRAP, ORB.STATUS_JOIN_STATE, PAIR.STATUS_ROLE, PAIR.STATUS_MIRROR_UP],
      t.get f = s.get f) : t.busOpen off := by
  simp only [List.mem_cons, List.not_mem_nil, or_false, forall_eq_or_imp, forall_eq] at hget
  obtain ⟨hready, hstrap, hjoin, hrole, hup⟩ := hget
  simpa only [State.busOpen, State.writeLimited, State.writeHeld, State.inCluster, State.isMoon, State.standsBy, State.mirrors, State.on,
    hboot, htest, hready, hstrap, hjoin, hrole, hup] using ho

/-- The fields of BASE have keys of their own. -/
theorem ring_keys : ∀ i < 65, ∀ f ∈ [DMA.RING_BASE_LO i, DMA.RING_BASE_HI i],
    (∀ g ∈ [SYS.STATUS_READY, ORB.STATUS_ROLE_STRAP, ORB.STATUS_JOIN_STATE, PAIR.STATUS_ROLE, PAIR.STATUS_MIRROR_UP, DMA.RING_STATE i],
      f.key ≠ g.key) ∧ (DMA.RING_BASE_LO i).key ≠ (DMA.RING_BASE_HI i).key := by decide +kernel

/-- A host write of BASE_LO of a running ring that would change it is refused. -/
theorem baseLoWrite_refused {s : State} {source : Nat} (hs : source < 2) (v : Word) {i : Nat} (hi : i ≤ 64)
    (ho : s.busOpen (0x21004 + 0x40 * i)) (hst : s.get (DMA.RING_STATE i) ≠ 0)
    (hne : v.toNat / 2 ^ 12 % 2 ^ 20 ≠ s.get (DMA.RING_BASE_LO i)) :
    ∃ t, Machine.exec (.registerWrite source (0x21004 + 0x40 * i) v) s = .next t ∧ s.rejected t source (0x21004 + 0x40 * i) := by
  have hrej := s.cfgReject_rejected hs (0x21004 + 0x40 * i)
  have hw : s.regWrite source (0x21004 + 0x40 * i) v.toNat = s.cfgReject source (0x21004 + 0x40 * i) := by
    rw [State.regWrite_baseLo s source v.toNat hi, if_neg hst]
    exact if_neg hne
  obtain ⟨-, -, -, -, -, -, -, hkeep⟩ := id hrej
  have hm : (s.regWrite source (0x21004 + 0x40 * i) v.toNat).mirrors = false := by
    rw [hw, State.mirrors_congr (s := s)]
    · exact ho.2.2.2.2
    · exact hkeep _ (by decide) (by unfold Fld.quiet; decide) (by decide)
    · exact hkeep _ (by decide) (by unfold Fld.quiet; decide) (by decide)
  exact ⟨_, congrArg Host.Outcome.next ((State.busWrite_open ho (by omega) (by omega) hm).trans hw), hrej⟩

/-- A host write of BASE_LO of a DISABLED ring reads as written, and BASE stays in force until BASE_HI is written (R19). -/
theorem baseLoWrite_held {s : State} (source : Nat) (v : Word) {i : Nat} (hi : i ≤ 64) (ho : s.busOpen (0x21004 + 0x40 * i))
    (hst : s.get (DMA.RING_STATE i) = 0) :
    let t := s.setLo (DMA.RING_BASE_LO i) (v.toNat / 2 ^ 12 % 2 ^ 20)
    Machine.exec (.registerWrite source (0x21004 + 0x40 * i) v) s = .next t ∧
      s.turns t (DMA.RING_BASE_LO i) (v.toNat / 2 ^ 12 % 2 ^ 20) ∧ t.ringBase i = s.ringBase i := by
  obtain ⟨hne, hhi⟩ := ring_keys i (by omega) (DMA.RING_BASE_LO i) (by simp)
  intro t
  have hget : ∀ g, t.get g = (s.set (DMA.RING_BASE_LO i) (v.toNat / 2 ^ 12 % 2 ^ 20)).get g := fun g => State.get_setLo _ _ _ _
  have hw : s.regWrite source (0x21004 + 0x40 * i) v.toNat = t := by
    rw [State.regWrite_baseLo s source v.toNat hi, if_pos hst]; rfl
  have hm : t.mirrors = false := by
    rw [State.mirrors_congr (s := s)]
    · exact ho.2.2.2.2
    · rw [hget, State.get_set_of_ne _ (hne _ (by simp))]
    · rw [hget, State.get_set_of_ne _ (hne _ (by simp))]
  refine ⟨congrArg Host.Outcome.next ((State.busWrite_open ho (by omega) (by omega) (hw ▸ hm)).trans hw), ⟨?_, ?_⟩, ?_⟩
  · rw [hget, State.get_set_self]
    exact Nat.mod_eq_of_lt (Nat.mod_lt _ (Nat.two_pow_pos _))
  · intro g _ _ hg
    rw [hget, State.get_set_of_ne _ (hg _ (List.mem_singleton_self _))]
  · unfold State.ringBase
    rw [hget, State.get_set_of_ne _ hhi, State.eff_setLo_self]

/-- BASE_HI written behind it brings both into force. -/
theorem baseHiWrite_joins {t : State} (source : Nat) (hi' : Word) {i : Nat} (hi : i ≤ 64) (ho : t.busOpen (0x21008 + 0x40 * i))
    (hst : t.get (DMA.RING_STATE i) = 0) :
    ∃ u, Machine.exec (.registerWrite source (0x21008 + 0x40 * i) hi') t = .next u ∧ u = { t with regs := u.regs, held := u.held } ∧
      t.turns u (DMA.RING_BASE_HI i) hi'.toNat ∧ u.ringBase i = hi'.toNat * 2 ^ 32 + t.get (DMA.RING_BASE_LO i) * 2 ^ 12 := by
  obtain ⟨hne, hlo⟩ := ring_keys i (by omega) (DMA.RING_BASE_HI i) (by simp)
  have hpart : (DMA.RING_BASE_HI i).part hi'.toNat = hi'.toNat := by
    have := hi'.isLt
    simp only [Fld.part, DMA.RING_BASE_HI, pow_zero, Nat.div_one]
    exact Nat.mod_eq_of_lt this
  have hw := State.regWrite_baseHi t source hi'.toNat hi hst
  rw [hpart] at hw
  have hjoin : ∀ g, (t.joinLo (DMA.RING_BASE_LO i) .live).get g = t.get g := fun g => State.get_congr (State.regs_joinLo _ _ _) g
  have hm : (t.regWrite source (0x21008 + 0x40 * i) hi'.toNat).mirrors = false := by
    rw [hw, State.mirrors_set (hne _ (by simp)) (hne _ (by simp)), State.mirrors_congr (hjoin _) (hjoin _)]
    exact ho.2.2.2.2
  refine ⟨_, congrArg Host.Outcome.next ((State.busWrite_open ho (by omega) (by omega) hm).trans hw), rfl, ⟨?_, ?_⟩, ?_⟩
  · rw [State.get_set_self]
    exact Nat.mod_eq_of_lt hi'.isLt
  · intro g _ _ hg
    rw [State.get_set_of_ne _ (hg _ (List.mem_singleton_self _)), hjoin]
  · unfold State.ringBase
    rw [State.get_set_self, State.eff_set_of_ne hlo.symm, State.eff_joinLo_live]
    congr 2
    exact Nat.mod_eq_of_lt hi'.isLt

end Sys2Proof.Machine

end

