-- ==== Sys2Proof/Proofs/Reads.lean ====
section

namespace Sys2Proof.Machine

/-! ## Steps beside the unit in hand: a port's frames and counters, the engine's settings, and events -/

/-- `t` differs from `s` in registers whose keys `P` accepts, in queues, pending interrupt messages and hold-off times, and in the ports and the
engine's own data. -/
structure State.Side (P : Nat → Bool) (s t : State) : Prop where
  rest : t = { s with regs := t.regs, que := t.que, dma := { s.dma with msi := t.dma.msi }, holdoff := t.holdoff, ports := t.ports,
                      svc := t.svc }
  get : ∀ f : Fld, P f.key = false → t.get f = s.get f

namespace State.Side

variable {P Q : Nat → Bool} {s t u : State}

theorem refl (P : Nat → Bool) (s : State) : Side P s s := ⟨rfl, fun _ _ => rfl⟩

theorem trans (a : Side P s t) (b : Side P t u) : Side P s u := by
  refine ⟨?_, fun f h => (b.get f h).trans (a.get f h)⟩
  have h := b.rest
  rw [a.rest] at h
  exact h

theorem mono (h : ∀ k, P k = true → Q k = true) (a : Side P s t) : Side Q s t :=
  ⟨a.rest, fun f hf => a.get f (by
    cases hp : P f.key
    · rfl
    · exact absurd (h _ hp) (by simp [hf]))⟩

theorem set (s : State) {f : Fld} (h : P f.key = true) (v : Nat) : Side P s (s.set f v) :=
  ⟨rfl, fun g hg => State.get_set_of_ne _ (fun e => by rw [e, hg] at h; cases h) _⟩

theorem event (h : State.EventStep P s t) : Side P s t := by
  refine ⟨?_, h.get⟩
  have hports := h.ports
  have hsvc := h.svc
  have hoff := h.holdoff
  rw [hports, hsvc, hoff]
  exact h.rest

theorem setPort (P : Nat → Bool) (s : State) (p : Nat) (x : PortState) : Side P s (s.setPort p x) := ⟨rfl, fun _ _ => rfl⟩
theorem setPsvc (P : Nat → Bool) (s : State) (p : Nat) (x : PortSvc) : Side P s (s.setPsvc p x) := ⟨rfl, fun _ _ => rfl⟩

theorem ite {c : Prop} [Decidable c] (a : Side P s t) (b : Side P s u) : Side P s (if c then t else u) := by
  split
  · exact a
  · exact b

theorem foldl {α : Type} {g : State → α → State} {xs : List α} (h : ∀ s, ∀ a ∈ xs, Side P s (g s a)) (s : State) :
    Side P s (xs.foldl g s) := by
  induction xs generalizing s with
  | nil => exact refl P s
  | cons a xs ih =>
    exact (h s a (List.mem_cons_self ..)).trans (ih (fun s b hb => h s b (List.mem_cons_of_mem _ hb)) _)

end State.Side

/-- Keys of a port's block, and those an event changes. -/
def portKey (k : Nat) : Bool := eventKey k || inOffs 0x40000 0x80000 k

theorem portKey_of {f : Fld} (hlo : 0x40000 ≤ f.off) (hhi : f.off < 0x80000) (hl : f.lo < 32) : portKey f.key = true := by
  have h : inOffs 0x40000 0x80000 f.key = true := decide_eq_true (by unfold Fld.key; omega)
  simp [portKey, h]

theorem State.raise_side (s : State) (c b u : Nat) (d : List Byte) : State.Side portKey s (s.raise c b u d) :=
  (State.Side.event (State.raise_event s c b u d)).mono (fun k h => by simp [portKey, h])

theorem State.portEvent_side (s : State) {p : Nat} (hp : p < 4) (bit code : Nat) (d : List Byte) :
    State.Side portKey s (s.portEvent p bit code d) := by
  have hk : portKey (PORT.INT p).key = true := portKey_of (by simp only [PORT.INT]; omega) (by simp only [PORT.INT]; omega) (by simp [PORT.INT])
  unfold State.portEvent State.signalRise State.signal
  exact State.Side.ite (State.Side.refl _ _) (State.Side.ite ((State.Side.set s hk _).trans (State.raise_side _ _ _ _ _)) (State.Side.set s hk _))

theorem State.statBy_side (s : State) {p n : Nat} (hp : p < 4) (hn : n < 64) (k : Nat) : State.Side portKey s (s.statBy p n k) := by
  have hs : portKey (PORT.STAT p n).key = true :=
    portKey_of (by simp only [PORT.STAT]; omega) (by simp only [PORT.STAT]; omega) (by simp [PORT.STAT])
  have hl : portKey (PORT.STAT_HALF_LO p).key = true :=
    portKey_of (by simp only [PORT.STAT_HALF_LO]; omega) (by simp only [PORT.STAT_HALF_LO]; omega) (by simp [PORT.STAT_HALF_LO])
  have hh : portKey (PORT.STAT_HALF_HI p).key = true :=
    portKey_of (by simp only [PORT.STAT_HALF_HI]; omega) (by simp only [PORT.STAT_HALF_HI]; omega) (by simp [PORT.STAT_HALF_HI])
  have hcount : State.Side portKey s (s.countBy (PORT.STAT p n) k) := State.Side.set s hs _
  unfold State.statBy
  exact State.Side.ite hcount ((hcount.trans (State.Side.ite (State.Side.set _ hl _) (State.Side.set _ hh _))).trans
    (State.portEvent_side _ hp _ _ _))

theorem State.settlePause_side (s : State) {p : Nat} (hp : p < 4) : State.Side portKey s (s.settlePause p) := by
  unfold State.settlePause
  exact State.Side.ite ((State.Side.setPort _ _ _ _).trans (State.statBy_side _ hp (by decide) _)) (State.Side.refl _ _)

/-! ## Reads (R14, R16, R19) -/

/-- What a read brings up to date, but for the pauses of the ports. -/
def State.showLive (s : State) : State :=
  let s := ((s.set TIME.MEDIA48_LO s.media48).set TIME.MEDIA48_HI (s.media48 / 2 ^ 32)).set TIME.SHORT s.shortTime
  let s := (s.set TIME.MEDIA44_LO s.media44).set TIME.MEDIA44_HI (s.media44 / 2 ^ 32)
  let stat := s.intStat
  let s := (((s.setOn CMD.STATUS_MB_IN_FREE (nth stat 0 false)).setOn CMD.STATUS_MB_OUT_READY (nth stat 1 false)).setOn
    CMD.STATUS_EVT_LEVEL (nth stat 2 false)).setOn CMD.STATUS_EVT_PENDING (nth stat 3 false)
  (s.pairLive.calLive).showCopy

theorem State.refresh_eq (s : State) : s.refresh = [0, 1, 2, 3].foldl State.settlePause s.showLive := rfl

/-- The fields that a read brings up to date. -/
def liveFlds : List Fld :=
  [TIME.MEDIA48_LO, TIME.MEDIA48_HI, TIME.SHORT, TIME.MEDIA44_LO, TIME.MEDIA44_HI, CMD.STATUS_MB_IN_FREE, CMD.STATUS_MB_OUT_READY,
    CMD.STATUS_EVT_LEVEL, CMD.STATUS_EVT_PENDING, PAIR.LEASE_LEFT, PAIR.PULSE_AGE, PAIR.STATUS_PEER_SEEN, LIFE.CAL_SUB, LIFE.CAL_SEC_LO,
    LIFE.CAL_SEC_HI, QUE.COPY_LINE]

theorem State.showLive_writes (s : State) : State.Writes liveFlds s s.showLive := by
  have w : ∀ (t : State) (f : Fld) (v : Nat), f ∈ liveFlds → State.Writes liveFlds t (t.set f v) := fun t f v h => State.Writes.set h t v
  unfold State.showLive
  extract_lets s1 s2 stat s3
  have h1 : State.Writes liveFlds s s1 := ((w _ _ _ (by decide)).trans (w _ _ _ (by decide))).trans (w _ _ _ (by decide))
  have h2 : State.Writes liveFlds s1 s2 := (w _ _ _ (by decide)).trans (w _ _ _ (by decide))
  have h3 : State.Writes liveFlds s2 s3 :=
    (((w _ _ _ (by decide)).trans (w _ _ _ (by decide))).trans (w _ _ _ (by decide))).trans (w _ _ _ (by decide))
  have hpair : State.Writes liveFlds s3 s3.pairLive := ((w _ _ _ (by decide)).trans (w _ _ _ (by decide))).trans (w _ _ _ (by decide))
  have hcal : State.Writes liveFlds s3.pairLive s3.pairLive.calLive :=
    ((w _ _ _ (by decide)).trans (w _ _ _ (by decide))).trans (w _ _ _ (by decide))
  exact ((((h1.trans h2).trans h3).trans hpair).trans hcal).trans (w _ _ _ (by decide))

theorem State.refresh_side (s : State) : State.Side portKey s.showLive s.refresh := by
  rw [State.refresh_eq]
  exact State.Side.foldl (fun s p hp => s.settlePause_side (by simp at hp; omega)) _

/-- A field that is neither live nor a port's reads after the refresh as before. -/
theorem State.get_refresh (s : State) {f : Fld} (hp : portKey f.key = false) (hl : ∀ g ∈ liveFlds, g.key ≠ f.key) :
    s.refresh.get f = s.get f := (s.refresh_side.get f hp).trans (s.showLive_writes.get f hl)

theorem State.latch_refresh (s : State) : s.refresh.latch = s.latch := by rw [s.refresh_side.rest, s.showLive_writes.rest]
theorem State.test_refresh (s : State) : s.refresh.test = s.test := by rw [s.refresh_side.rest, s.showLive_writes.rest]
theorem State.ctr_refresh (s : State) : s.refresh.ctr = s.ctr := by rw [s.refresh_side.rest, s.showLive_writes.rest]
theorem State.cycles_refresh (s : State) : s.refresh.cycles = s.cycles := by rw [s.refresh_side.rest, s.showLive_writes.rest]

/-- MEDIA48 shows the counter (R69). -/
theorem State.media48_refresh (s : State) :
    s.refresh.get TIME.MEDIA48_LO = s.media48 % 2 ^ 32 ∧ s.refresh.get TIME.MEDIA48_HI = s.media48 / 2 ^ 32 % 2 ^ 32 := by
  rw [s.refresh_side.get _ (by decide), s.refresh_side.get _ (by decide)]
  unfold State.showLive State.pairLive State.calLive State.showCopy State.setOn
  simp (disch := decide) only [State.get_set_of_ne, State.get_set_self]
  exact ⟨rfl, rfl⟩

/-- The LO words of ERR_ADDR and MEDIA48 with their fields, and the HI of each. -/
def loReads : List (Fld × Fld) := [(DMA.ERR_ADDR_LO, DMA.ERR_ADDR_HI), (TIME.MEDIA48_LO, TIME.MEDIA48_HI)]

theorem loReads_find : ∀ x ∈ loReads,
    splitReads.find? (fun y => y.1 == x.1.off) = some (x.1.off, x.2.off) ∧ splitReads.find? (fun y => y.1 == x.2.off) = none := by
  decide +kernel

theorem loReads_fields : ∀ x ∈ loReads,
    fieldsAt (blockFields x.1.off) x.1.off = [(x.1, .ro, .none)] ∧ fieldsAt (blockFields x.2.off) x.2.off = [(x.2, .ro, .none)] := by
  decide +kernel

theorem loReads_plain : ∀ x ∈ loReads, ∀ f ∈ [x.1, x.2],
    f.off / 4 * 4 = f.off ∧ f.off ≠ 0x20004 ∧ f.off ≠ 0x80010 ∧ f.off ≠ 0x1F0010 ∧ f.off ≠ 0x10014 ∧ wordIdx 0x101020 0x40 11 f.off = none ∧
      ¬ (0x1A0000 ≤ f.off ∧ f.off < 0x1C0000) ∧ ¬ (0x40000 ≤ f.off ∧ f.off < 0x80000) ∧ f.off < 0x200000 ∧ f.lo = 0 := by decide +kernel

/-- A word of one RO field reads that field, where no write of it is held. -/
theorem State.wordAt_ro {s : State} (hw : s.test.writes = []) {x : Fld × Fld} (hx : x ∈ loReads) {f : Fld} (hf : f ∈ [x.1, x.2]) :
    s.wordAt f.off = s.get f := by
  obtain ⟨-, -, -, -, -, -, hamp, hport, hlt, hlo⟩ := loReads_plain x hx f hf
  have hflds : fieldsAt (blockFields f.off) f.off = [(f, .ro, .none)] := by
    obtain ⟨h1, h2⟩ := loReads_fields x hx
    simp only [List.mem_cons, List.not_mem_nil, or_false] at hf
    rcases hf with rfl | rfl
    · exact h1
    · exact h2
  have hheld : s.heldWord f.off = none := by simp [State.heldWord, hw]
  have hstat : s.statWord f.off = none := by
    simp only [State.statWord]
    exact if_neg (fun h => hport ⟨h.1, h.2.1⟩)
  have hamp' : ¬ (0x1A0000 ≤ f.off ∧ f.off < 0x1C0000 ∧ s.isNi = true) := fun h => hamp ⟨h.1, h.2.1⟩
  have hdisp : ¬ (0x40000 ≤ f.off ∧ f.off < 0x80000 ∧ f.off % 0x10000 = 0x34) := fun h => hport ⟨h.1, h.2.1⟩
  unfold State.wordAt
  rw [if_neg hamp', hheld, hstat]
  simp [hdisp, hlt, State.word, hflds, hlo]

/-- A read of LO returns it, and latches HI. -/
theorem regRead_lo {s : State} (hw : s.test.writes = []) {x : Fld × Fld} (hx : x ∈ loReads) :
    s.regRead x.1.off = (s.refresh.get x.1, s.refresh.latchAs x.2.off (s.refresh.get x.2)) := by
  obtain ⟨h4, h1, h2, h3, h5, hidx, -⟩ := loReads_plain x hx x.1 (by simp)
  have hw' : s.refresh.test.writes = [] := by rw [State.test_refresh, hw]
  have hlo := State.wordAt_ro hw' hx (f := x.1) (by simp)
  have hhi := State.wordAt_ro hw' hx (f := x.2) (by simp)
  simp only [State.regRead, h4, h1, h2, h3, h5, if_false, hidx, (loReads_find x hx).1, hlo, hhi]

/-- A read of HI returns what LO latched. -/
theorem regRead_hi {s : State} {x : Fld × Fld} (hx : x ∈ loReads) {v : Nat}
    (hl : s.latch.find? (fun y => y.1 == x.2.off) = some (x.2.off, v)) : (s.regRead x.2.off).1 = v := by
  obtain ⟨h4, h1, h2, h3, h5, hidx, -⟩ := loReads_plain x hx x.2 (by simp)
  simp only [State.regRead, h4, h1, h2, h3, h5, if_false, hidx, (loReads_find x hx).2, State.latch_refresh, hl]

theorem State.find_latchAs (s : State) (off v : Nat) : (s.latchAs off v).latch.find? (fun y => y.1 == off) = some (off, v) := by
  have hnone : (s.latch.filter (fun y => y.1 != off)).find? (fun y => y.1 == off) = none := by simp [List.find?_eq_none]
  simp [State.latchAs, List.find?_append, hnone]

end Sys2Proof.Machine

end

