-- ==== Sys2Proof/Proofs/RegisterAccess.lean ====
section

namespace Sys2Proof.Machine

/-! ## O42 -/

theorem State.ctr_latchAs (s : State) (off v : Nat) : (s.latchAs off v).ctr = s.ctr := rfl
theorem State.cycles_latchAs (s : State) (off v : Nat) : (s.latchAs off v).cycles = s.cycles := rfl

theorem exec_splitLoRead {s t : State} {off v : Nat} (h : s.regRead off = (v, t)) :
    ∃ u, Machine.exec (.splitLoRead off) s = .next u ∧ u.rd = v ∧ u.ctr = t.ctr ∧ u.cycles = t.cycles ∧ u.latch = t.latch := by
  have he : Machine.exec (.splitLoRead off) s = execSplitLoRead off s := rfl
  rw [he, execSplitLoRead, h]
  exact ⟨_, rfl, rfl, rfl, rfl, rfl⟩

/-- A read of LO returns it, and the next read of HI returns what HI held then, whatever the counter has moved to. -/
theorem splitLoRead_latches {s : State} (hw : s.test.writes = []) {x : Fld × Fld} (hx : x ∈ loReads) :
    ∃ t, Machine.exec (.splitLoRead x.1.off) s = .next t ∧ t.rd = s.refresh.get x.1 ∧ t.ctr = s.ctr ∧ t.cycles = s.cycles ∧
      ∀ y, ∃ u, Machine.exec (.splitLoRead x.2.off) { t with ctr := y } = .next u ∧ u.rd = s.refresh.get x.2 := by
  obtain ⟨t, ht, hrd, hctr, hcyc, hlatch⟩ := exec_splitLoRead (regRead_lo hw hx)
  refine ⟨t, ht, hrd, ?_, ?_, fun y => ?_⟩
  · rw [hctr, State.ctr_latchAs, s.ctr_refresh]
  · rw [hcyc, State.cycles_latchAs, s.cycles_refresh]
  · obtain ⟨u, hu, hurd, -⟩ := exec_splitLoRead (s := { t with ctr := y }) (off := x.2.off) rfl
    refine ⟨u, hu, hurd.trans (regRead_hi hx ?_)⟩
    have hfind := s.refresh.find_latchAs x.2.off (s.refresh.get x.2)
    rwa [← hlatch] at hfind

theorem splitLoRead_errAddr {s : State} (hw : s.test.writes = []) :
    ∃ t, Machine.exec (.splitLoRead 0x20010) s = .next t ∧ t.rd = s.get DMA.ERR_ADDR_LO ∧
      ∃ u, Machine.exec (.splitLoRead 0x20014) t = .next u ∧ u.rd = s.get DMA.ERR_ADDR_HI := by
  obtain ⟨t, ht, hrd, -, -, hhi⟩ := splitLoRead_latches hw (x := (DMA.ERR_ADDR_LO, DMA.ERR_ADDR_HI)) (by simp [loReads])
  obtain ⟨u, hu, hurd⟩ := hhi t.ctr
  refine ⟨t, ht, hrd.trans ?_, u, hu, hurd.trans ?_⟩ <;> exact s.get_refresh (by decide) (by decide)

theorem splitLoRead_media48 {s : State} (hw : s.test.writes = []) :
    ∃ t, Machine.exec (.splitLoRead 0x80024) s = .next t ∧ t.rd = s.media48 % 2 ^ 32 ∧ t.ctr = s.ctr ∧ t.cycles = s.cycles ∧
      ∀ x, ∃ u, Machine.exec (.splitLoRead 0x80028) { t with ctr := x } = .next u ∧ u.rd = s.media48 / 2 ^ 32 % 2 ^ 32 := by
  obtain ⟨t, ht, hrd, hctr, hcyc, hhi⟩ := splitLoRead_latches hw (x := (TIME.MEDIA48_LO, TIME.MEDIA48_HI)) (by simp [loReads])
  refine ⟨t, ht, hrd.trans s.media48_refresh.1, hctr, hcyc, fun x => ?_⟩
  obtain ⟨u, hu, hurd⟩ := hhi x
  exact ⟨u, hu, hurd.trans s.media48_refresh.2⟩

/-- On a standby every word outside the host interface and the PAIR block is limited (R444). -/
theorem State.writeLimited_of_standsBy {s : State} (h : s.standsBy = true) {off : Nat} (hlo : 0x40000 ≤ off)
    (hp : ¬ (0x1D0000 ≤ off ∧ off < 0x1E0000)) : s.writeLimited off = true := by
  simp [State.writeLimited, h]
  omega

theorem intEnWrite_notReady {s : State} {source : Nat} (hs : source < 2) (v : Word) {f : Fld} (hf : f ∈ intEnables)
    (hd : s.boot.dormant = false) (hr : s.on SYS.STATUS_READY = false) :
    ∃ t, Machine.exec (.registerWrite source f.off v) s = .next t ∧ s.rejected t source f.off := by
  obtain ⟨h4, hlt, -, hlo, -⟩ := int_facts f (List.mem_append_right _ hf)
  exact ⟨_, congrArg Host.Outcome.next (State.busWrite_notReady hd hr h4 hlo hlt), s.cfgReject_rejected hs f.off⟩

theorem intEnWrite_standby {s : State} {source : Nat} (hs : source < 2) (v : Word) {f : Fld} (hf : f ∈ intEnables)
    (hd : s.boot.dormant = false) (hr : s.on SYS.STATUS_READY = true) (hb : s.standsBy = true) :
    ∃ t, Machine.exec (.registerWrite source f.off v) s = .next t ∧ s.rejected t source f.off := by
  obtain ⟨h4, hlt, -, hlo, hp, -⟩ := int_facts f (List.mem_append_right _ hf)
  have hl := State.writeLimited_of_standsBy hb hlo hp
  exact ⟨_, congrArg Host.Outcome.next (State.busWrite_limited hd hr hl (hasW1_enables f hf) h4 hlt), s.cfgReject_rejected hs f.off⟩

theorem State.setLo_rest (s : State) (f : Fld) (v : Nat) : s.setLo f v = { s with regs := (s.setLo f v).regs, held := (s.setLo f v).held } := by
  unfold State.setLo
  split <;> rfl

/-- LO and then HI of the BASE of a DISABLED ring: LO is held, and HI brings both into force. -/
theorem baseWrites_disabled {s : State} (source : Nat) (v : Word) {i : Nat} (hi : i ≤ 64) (ho : s.busOpen (0x21004 + 0x40 * i))
    (hst : s.get (DMA.RING_STATE i) = 0) :
    let low := v.toNat / 2 ^ 12 % 2 ^ 20
    ∃ t, Machine.exec (.registerWrite source (0x21004 + 0x40 * i) v) s = .next t ∧ t = { s with regs := t.regs, held := t.held } ∧
      s.turns t (DMA.RING_BASE_LO i) low ∧ t.ringBase i = s.ringBase i ∧
      ∀ hi : Word, s.busOpen (0x21008 + 0x40 * i) →
        ∃ u, Machine.exec (.registerWrite source (0x21008 + 0x40 * i) hi) t = .next u ∧ u = { t with regs := u.regs, held := u.held } ∧
          t.turns u (DMA.RING_BASE_HI i) hi.toNat ∧ u.ringBase i = hi.toNat * 2 ^ 32 + low * 2 ^ 12 := by
  obtain ⟨hexec, ⟨hlow, hkeep⟩, hbase⟩ := baseLoWrite_held source v hi ho hst
  obtain ⟨hne, -⟩ := ring_keys i (by omega) (DMA.RING_BASE_LO i) (by simp)
  intro low
  have hget : ∀ g, (DMA.RING_BASE_LO i).key ≠ g.key → (s.setLo (DMA.RING_BASE_LO i) low).get g = s.get g :=
    fun g hg => (State.get_setLo _ _ _ _).trans (State.get_set_of_ne _ hg _)
  have heq : s.setLo (DMA.RING_BASE_LO i) low = { s with regs := (s.setLo (DMA.RING_BASE_LO i) low).regs, held := (s.setLo (DMA.RING_BASE_LO i) low).held } :=
    State.setLo_rest ..
  refine ⟨_, hexec, heq, ⟨hlow, hkeep⟩, hbase, fun v' ho' => ?_⟩
  have hboot : (s.setLo (DMA.RING_BASE_LO i) low).boot = s.boot := by rw [heq]
  have htest : (s.setLo (DMA.RING_BASE_LO i) low).test = s.test := by rw [heq]
  have hopen := State.busOpen_congr ho' hboot htest (fun f hf => hget f (hne f (by simp at hf ⊢; tauto)))
  have hstate := (hget (DMA.RING_STATE i) (hne _ (by simp))).trans hst
  obtain ⟨u, hu, hrest, hturn, hub⟩ := baseHiWrite_joins source v' hi hopen hstate
  exact ⟨u, hu, hrest, hturn, by rw [hub, hlow]⟩

/-- Settles O42. -/
theorem registerAccess : Obligations.RegisterAccess := by
  unfold Obligations.RegisterAccess
  intro s source v hs
  refine ⟨fun f hf ho _ => intWrite_clears s source v hf ho, fun f hf ho => intEnWrite_sets s source v hf ho,
    fun off hd => congrArg Host.Outcome.next (State.busWrite_dormant hd source off v.toNat),
    fun f hf hd hr => intEnWrite_notReady hs v hf hd hr, fun f hf hd hr hb => intEnWrite_standby hs v hf hd hr hb,
    fun i hi ho => ⟨fun hst hlow => baseLoWrite_refused hs v hi ho hst hlow, fun hst => baseWrites_disabled source v hi ho hst⟩,
    fun off h4 hlt hd hr hl hh => congrArg Host.Outcome.next (State.busWrite_held hd hr hl hh h4 hlt),
    fun hw => ⟨splitLoRead_errAddr hw, splitLoRead_media48 hw⟩⟩

end Sys2Proof.Machine

end

