-- ==== Sys2Proof/Proofs/Parameters.lean ====
section

namespace Sys2Proof.Machine

/-! ## A command's parameters (R355, R356, R365) -/

/-- A parameter within its bounds passes. -/
theorem tlvOk_of {sch : List PSpec} {t : Tlv} {q : PSpec} (hq : sch.find? (fun p => p.ty == t.ty) = some q) (hlen : q.len = t.len)
    (hv : q.lo ≤ t.val ∧ t.val ≤ q.hi) (hs : q.sgn = 0) : tlvOk sch t = true := by
  simp [tlvOk, hq, hlen, hv.1, hv.2, hs]

/-- A signed parameter that fits its field passes. -/
theorem tlvOk_signed {sch : List PSpec} {t : Tlv} {q : PSpec} (hq : sch.find? (fun p => p.ty == t.ty) = some q) (hlen : q.len = t.len)
    (hv : q.lo ≤ t.val ∧ t.val ≤ q.hi) (hs : (signedCode q.sgn q.len t.val).isSome = true) : tlvOk sch t = true := by
  simp [tlvOk, hq, hlen ▸ hs, hlen, hv.1, hv.2]

theorem firstBad_none {sch : List PSpec} {p : List Tlv} (hok : ∀ t ∈ p, tlvOk sch t = true) {before : List Tlv} {off : Nat}
    (hnd : ((before ++ p).map Tlv.ty).Nodup) : firstBad sch before p off = none := by
  induction p generalizing before off with
  | nil => rfl
  | cons t p ih =>
    have hfresh : before.any (fun u => u.ty == t.ty) = false := by
      simp only [List.map_append, List.map_cons, List.nodup_append, List.mem_map] at hnd
      simp only [List.any_eq_false, beq_iff_eq]
      exact fun u hu he => hnd.2.2 u.ty ⟨u, hu, rfl⟩ t.ty (List.mem_cons_self ..) he
    have hrest := ih (fun u hu => hok u (List.mem_cons_of_mem _ hu)) (before := before ++ [t]) (off := off + Tlv.size t)
      (by simpa using hnd)
    simp [firstBad, hok t (List.mem_cons_self ..), tlvRepeats, hfresh, hrest]

/-- Parameters that pass one by one, each type once and none that must be present left out, are not refused. -/
theorem State.refuses_none {s : State} {r : Req} {op : Nat} {sch : List PSpec} {p : Params} {tys : List Nat} (hb : s.barred op r = none)
    (hok : ∀ t ∈ p, tlvOk sch t = true) (hty : p.map Tlv.ty = tys) (hnd : tys.Nodup)
    (hreq : sch.all (fun q => !q.req || Params.has p q.ty) = true) : s.refuses r op sch p = none := by
  subst hty
  simp only [State.refuses, hb, checkParams, firstBad_none hok (before := []) hnd]
  exact if_pos hreq

theorem runCmd_of {op : Nat} {sch : List PSpec} {body : Params → State → Reply × State} {r : Req} {p : Params} {s s' : State} {rep : Reply}
    (h : s.refuses r op sch p = none) (hb : body p s = (rep, s')) : runCmd op sch body r p s = .next (s'.finish r op rep) := by
  simp [runCmd, h, hb]

/-! ## Fields a command writes (R18) -/

/-- The write of a field waits for a boundary under these classes. -/
def Upd.waits (u : Upd) : Bool := match u with
  | .none | .live | .static => false
  | _ => true

theorem State.write_eq (s : State) (f : Fld) (u : Upd) (v : Nat) : s.write f u v = if u.waits then s.setB f u v else s.set f v := by
  cases u <;> rfl

theorem State.setB_rest (s : State) (f : Fld) (u : Upd) (v : Nat) :
    s.setB f u v = { s with regs := (s.setB f u v).regs, held := (s.setB f u v).held } := by
  unfold State.setB
  split
  · rfl
  · split <;> rfl

theorem State.get_setB (s : State) (f g : Fld) (u : Upd) (v : Nat) (hg : f.key = g.key → f = g) : (s.setB f u v).get g = (s.set f v).get g := by
  unfold State.setB
  split
  · rfl
  · split
    · rename_i hv
      by_cases hk : f.key = g.key
      · obtain rfl := hg hk
        rw [State.get_set_self, hv]
      · exact (State.get_set_of_ne s hk v).symm
    · rfl

/-- A write under a boundary class leaves every value in force. -/
theorem State.eff_setB (s : State) (f g : Fld) (u : Upd) (v : Nat) (hg : f.key = g.key → f = g) : (s.setB f u v).eff g = s.eff g := by
  unfold State.setB
  split
  · rename_i h
    by_cases hk : f.key = g.key
    · obtain rfl := hg hk
      exact State.eff_of_rewritten h rfl
    · exact State.eff_congr (State.get_set_of_ne s hk v) (find_held_map s.held g.key f.key u)
  · rename_i h
    split
    · rfl
    · by_cases hk : f.key = g.key
      · obtain rfl := hg hk
        exact State.eff_of_waiting (Bool.eq_false_of_not_eq_true h) rfl
      · exact State.eff_congr (State.get_set_of_ne s hk v) (by simp [List.find?_append, hk])

end Sys2Proof.Machine

end

