-- ==== Sys2Proof/Proofs/FieldWrites.lean ====
section

namespace Sys2Proof.Machine

/-- One field of a command, written where its parameter is there. -/
def writeOne (p : Params) (s : State) (f : PFld) : State :=
  match Params.val? p f.ty with
  | some v => s.write f.fld f.upd v
  | none => s

theorem writeFlds_cons (s : State) (p : Params) (f : PFld) (fs : List PFld) : writeFlds s p (f :: fs) = writeFlds (writeOne p s f) p fs := rfl

theorem State.get_write_self (s : State) (f : Fld) (u : Upd) (v : Nat) : (s.write f u v).get f = v % 2 ^ f.w := by
  rw [State.write_eq]
  split
  · rw [State.get_setB _ _ _ _ _ (fun _ => rfl), State.get_set_self]
  · exact State.get_set_self s f v

theorem State.get_setB_of_ne (s : State) {f g : Fld} (h : f.key ≠ g.key) (u : Upd) (v : Nat) : (s.setB f u v).get g = s.get g :=
  (State.get_setB s f g u v (fun e => absurd e h)).trans (State.get_set_of_ne s h v)

theorem State.get_write_of_ne (s : State) {f g : Fld} (h : f.key ≠ g.key) (u : Upd) (v : Nat) : (s.write f u v).get g = s.get g := by
  rw [State.write_eq]
  split
  · exact State.get_setB_of_ne s h u v
  · exact State.get_set_of_ne s h v

theorem State.write_rest (s : State) (f : Fld) (u : Upd) (v : Nat) :
    s.write f u v = { s with regs := (s.write f u v).regs, held := (s.write f u v).held } := by
  rw [State.write_eq]
  split
  · exact State.setB_rest s f u v
  · rfl

theorem get_writeOne_of_ne (p : Params) (s : State) {f : PFld} {g : Fld} (h : f.fld.key ≠ g.key) : (writeOne p s f).get g = s.get g := by
  unfold writeOne
  split
  · exact State.get_write_of_ne s h _ _
  · rfl

/-- A field that the command does not write reads as before. -/
theorem get_writeFlds_of_ne (p : Params) {fs : List PFld} {g : Fld} (h : ∀ f ∈ fs, Params.val? p f.ty = none ∨ f.fld.key ≠ g.key) (s : State) :
    (writeFlds s p fs).get g = s.get g := by
  induction fs generalizing s with
  | nil => rfl
  | cons f fs ih =>
    rw [writeFlds_cons, ih (fun f hf => h f (List.mem_cons_of_mem _ hf))]
    rcases h f (List.mem_cons_self ..) with hv | hk
    · simp [writeOne, hv]
    · exact get_writeOne_of_ne p s hk

/-- A field whose parameter is there reads that value, cut to its width. -/
theorem get_writeFlds (p : Params) {fs : List PFld} (hnd : (fs.map (fun f => f.fld.key)).Nodup) {f : PFld} (hf : f ∈ fs) {v : Nat}
    (hv : Params.val? p f.ty = some v) (s : State) : (writeFlds s p fs).get f.fld = v % 2 ^ f.fld.w := by
  induction fs generalizing s with
  | nil => cases hf
  | cons g fs ih =>
    rw [List.map_cons, List.nodup_cons, List.mem_map] at hnd
    rw [writeFlds_cons]
    rcases List.mem_cons.1 hf with rfl | hf'
    · rw [get_writeFlds_of_ne p (fun h hh => Or.inr (fun he => hnd.1 ⟨h, hh, he⟩)), writeOne, hv]
      exact State.get_write_self s f.fld f.upd v
    · exact ih hnd.2 hf' _

/-- The field at place `i` reads the value of its parameter, where that fits. -/
theorem get_writeFlds_at {p : Params} {fs : List PFld} (hnd : (fs.map (fun f => f.fld.key)).Nodup) (s : State) (i : Nat) {f : PFld}
    (hf : fs[i]? = some f) {v : Nat} (hv : Params.val? p f.ty = some v) (hlt : v < 2 ^ f.fld.w) : (writeFlds s p fs).get f.fld = v :=
  (get_writeFlds p hnd (List.mem_of_getElem? hf) hv s).trans (Nat.mod_eq_of_lt hlt)

theorem writeFlds_rest (p : Params) (fs : List PFld) (s : State) :
    writeFlds s p fs = { s with regs := (writeFlds s p fs).regs, held := (writeFlds s p fs).held } := by
  induction fs generalizing s with
  | nil => rfl
  | cons f fs ih =>
    have hone : writeOne p s f = { s with regs := (writeOne p s f).regs, held := (writeOne p s f).held } := by
      unfold writeOne
      split
      · exact State.write_rest s f.fld f.upd _
      · rfl
    have hfs := ih (writeOne p s f)
    rw [hone] at hfs
    rw [writeFlds_cons, hone]
    exact hfs

/-- Fields that take effect at once are written in the registers alone. -/
theorem writeFlds_writes (p : Params) {fs : List PFld} (h : ∀ f ∈ fs, f.upd.waits = false) (s : State) :
    State.Writes (fs.map PFld.fld) s (writeFlds s p fs) :=
  State.Writes.foldl (fun s f hf => by
    have hset : ∀ v, s.write f.fld f.upd v = s.set f.fld v := fun v => by rw [State.write_eq, h f hf]; rfl
    split
    · rw [hset]
      exact State.Writes.set (List.mem_map_of_mem hf) s _
    · exact State.Writes.refl _ s) s

/-- Writes that wait for a boundary leave the values in force. -/
theorem eff_writeFlds (p : Params) {fs : List PFld} (h : ∀ f ∈ fs, f.upd.waits = true ∨ Params.val? p f.ty = none) {g : Fld}
    (hg : ∀ f ∈ fs, f.fld.key = g.key → f.fld = g) (s : State) : (writeFlds s p fs).eff g = s.eff g := by
  induction fs generalizing s with
  | nil => rfl
  | cons f fs ih =>
    rw [writeFlds_cons, ih (fun f hf => h f (List.mem_cons_of_mem _ hf)) (fun f hf => hg f (List.mem_cons_of_mem _ hf)), writeOne]
    cases hv : Params.val? p f.ty with
    | none => rfl
    | some v =>
      have hw : f.upd.waits = true := (h f (List.mem_cons_self ..)).resolve_right (by simp [hv])
      dsimp only
      rw [State.write_eq, if_pos hw]
      exact State.eff_setB s f.fld g f.upd v (hg f (List.mem_cons_self ..))

/-- No class-S field is named: the block need not be idle. -/
theorem changesStatic_none {s : State} {p : Params} {fs : List PFld} (h : ∀ f ∈ fs, f.upd ≠ .static ∨ Params.val? p f.ty = none) :
    changesStatic s p fs = none := by
  unfold changesStatic
  rw [Option.map_eq_none_iff, List.find?_eq_none]
  intro f hf
  rcases h f hf with hu | hv
  · simp [hu]
  · simp [hv]

theorem setFlds_of {idle : Bool} {fs : List PFld} {p : Params} {s : State} (h : idle = true ∨ changesStatic s p fs = none) :
    setFlds idle fs p s = (Reply.ok [], writeFlds s p fs) := by
  unfold setFlds
  rcases h with h | h
  · simp [h]
  · simp [h]

end Sys2Proof.Machine

end

