-- ==== Sys2Proof/Proofs/AmpFrequency.lean ====
section

namespace Sys2Proof.Machine

/-! ## Settings of the amplifier (R346, R349) -/

/-- On a part without an amplifier its settings answer NOT_IN_STATE (R2). -/
theorem ampSettings_ni {s : State} (h : s.isNi = true) (r : Req) (p : List Tlv) :
    Machine.exec (.ampFreqSet r p) s = .next (s.finish r 0x0801 (Reply.err Status.notInState)) ∧
    Machine.exec (.ampChSet r p) s = .next (s.finish r 0x0802 (Reply.err Status.notInState)) ∧
    Machine.exec (.ampCoefSet r p) s = .next (s.finish r 0x0803 (Reply.err Status.notInState)) ∧
    Machine.exec (.ampQuenchSet r p) s = .next (s.finish r 0x0808 (Reply.err Status.notInState)) :=
  ⟨if_pos h, if_pos h, if_pos h, if_pos h⟩

theorem ampCmd_of {op : Nat} {sch : List PSpec} {body : Params → State → Reply × State} {r : Req} {p : Params} {s s' : State} {rep : Reply}
    (hn : s.isNi = false) (h : s.refuses r op sch p = none) (hb : body p s = (rep, s')) :
    ampCmd op sch body r p s = .next (s'.finish r op rep) := by
  rw [ampCmd, if_neg (by simp [hn]), runCmd_of h hb]

/-! ### AMP_FREQ_SET -/

/-- The parameters of AMP_FREQ_SET. -/
def freqParams : List PSpec :=
  [popt 1 2 0 2047, popt 2 2 0 2047, popt 3 2 0 2047, popt 4 1 0 255, popt 5 2 0 0xFFFF, prep 6 1 0 15, prep 7 1 0 1,
    prep 8 4 0 0x7FFFF, prep 9 1 0 255, popt 10 1 0 1]

/-- AMP_FREQ_SET without a carrier entry, every channel idle: the fields are written, and RUN starts a choice. -/
theorem execAmpFreqSet_of {s : State} {r : Req} {p : List Tlv} (hn : s.isNi = false) (hp : s.refuses r 0x0801 freqParams p = none)
    (he : entryRuns [6, 7, 8, 9] p = some []) (hi : s.ampAllIdle = true) :
    Machine.exec (.ampFreqSet r p) s = .next (if Params.val p 10 = 1 then
        ((writeFlds s p freqFlds).set AMP.FREQ_BUSY 1).addWait ⟨r, 0x0801, 5, 10, [0], [0], [waiting], [0], [], 0, []⟩
      else (writeFlds s p freqFlds).finish r 0x0801 (Reply.ok [])) := by
  have hexec : Machine.exec (.ampFreqSet r p) s = execAmpFreqSet r p s := rfl
  unfold freqParams at hp
  rw [hexec]
  simp only [execAmpFreqSet, hn, Bool.false_eq_true, if_false, hp, he, hi, Bool.not_true, Bool.false_and, and_false, or_self,
    Option.isNone_some, Option.getD_some, List.foldl_nil]
  split <;> rfl

theorem freqFlds_plain : ∀ f ∈ freqFlds, f.upd.waits = false := by decide
theorem freqFlds_nodup : (freqFlds.map (fun f => f.fld.key)).Nodup := by decide

/-- The periods, the step and the guard band as parameters. -/
def freqTlvs (lo hi pref step guard' : Nat) : List Tlv := [⟨1, 2, lo⟩, ⟨2, 2, hi⟩, ⟨3, 2, pref⟩, ⟨4, 1, step⟩, ⟨5, 2, guard'⟩]

/-- The periods, the step and the guard band are written as they are (R332). -/
theorem ampFreqSet_writes {s : State} {r : Req} {lo hi pref step guard' : Nat} (hn : s.isNi = false) (hi' : s.ampAllIdle = true)
    (hb : s.barred 0x0801 r = none) (hlo : lo < 2048) (hhi : hi < 2048) (hpref : pref < 2048) (hstep : step < 256) (hg : guard' < 2 ^ 16) :
    ∃ t, Machine.exec (.ampFreqSet r (freqTlvs lo hi pref step guard')) s = .next t ∧
      s.records t r 0x0801 (Reply.ok []) ∧ t = { s with regs := t.regs, cmd := t.cmd } ∧
      t.get AMP.P_MIN = lo ∧ t.get AMP.P_MAX = hi ∧ t.get AMP.P_PREF = pref ∧ t.get AMP.P_STEP = step ∧ t.get AMP.GUARD = guard' ∧
      s.keepsBut t [AMP.P_MIN, AMP.P_MAX, AMP.P_PREF, AMP.P_STEP, AMP.GUARD] := by
  have hp : s.refuses r 0x0801 freqParams (freqTlvs lo hi pref step guard') = none := by
    refine State.refuses_none (tys := [1, 2, 3, 4, 5]) hb ?_ rfl (by decide) rfl
    simp only [freqTlvs, List.forall_mem_cons, List.not_mem_nil, false_implies, implies_true, and_true]
    refine ⟨tlvOk_of rfl rfl ⟨Nat.zero_le _, ?_⟩ rfl, tlvOk_of rfl rfl ⟨Nat.zero_le _, ?_⟩ rfl, tlvOk_of rfl rfl ⟨Nat.zero_le _, ?_⟩ rfl,
      tlvOk_of rfl rfl ⟨Nat.zero_le _, ?_⟩ rfl, tlvOk_of rfl rfl ⟨Nat.zero_le _, ?_⟩ rfl⟩ <;> simp only [popt] <;> omega
  have hexec := execAmpFreqSet_of hn hp rfl hi'
  rw [show Params.val (freqTlvs lo hi pref step guard') 10 = 0 from rfl, if_neg (by decide)] at hexec
  have hw := writeFlds_writes (freqTlvs lo hi pref step guard') freqFlds_plain s
  have hget := get_writeFlds_at (p := freqTlvs lo hi pref step guard') freqFlds_nodup s
  refine ⟨_, hexec, ?_, ?_, hget 0 rfl rfl hlo, hget 1 rfl rfl hhi, hget 2 rfl rfl hpref, hget 3 rfl rfl hstep, hget 4 rfl rfl hg, hw.keepsBut⟩
  · unfold State.records State.finish
    rw [hw.rest]
  · unfold State.finish
    rw [hw.rest]

/-- RUN starts a choice, whose end the reply waits for. -/
theorem ampFreqSet_runs {s : State} {r : Req} (hn : s.isNi = false) (hi : s.ampAllIdle = true) (hb : s.barred 0x0801 r = none) :
    ∃ t, Machine.exec (.ampFreqSet r [⟨10, 1, 1⟩]) s = .next t ∧ s.turns t AMP.FREQ_BUSY 1 ∧ t = { s with regs := t.regs, cmd := t.cmd } ∧
      t.cmd = { s.cmd with waits := s.cmd.waits ++ [⟨r, 0x0801, 5, 10, [0], [0], [waiting], [0], [], 0, []⟩] } := by
  have hp : s.refuses r 0x0801 freqParams [⟨10, 1, 1⟩] = none := State.refuses_none hb (by decide) rfl (by decide) rfl
  have hexec := execAmpFreqSet_of hn hp rfl hi
  rw [if_pos (by decide)] at hexec
  have hw : State.Writes [AMP.FREQ_BUSY] s (s.set AMP.FREQ_BUSY 1) := State.Writes.set (by simp) s 1
  exact ⟨_, hexec, ⟨State.get_set_self s AMP.FREQ_BUSY 1, hw.keepsBut⟩, rfl, rfl⟩

end Sys2Proof.Machine

end

