-- ==== Sys2Proof/Proofs/AmpRegisters.lean ====
section

namespace Sys2Proof.Machine

/-! ### The registers FREQ_CTRL and SWAP -/

theorem State.rowWrite_of {s : State} {ok : Prop} [Decidable ok] (h : ok) {source off w : Nat} :
    s.rowWrite ok source off w = .next (s.busWrite source off w) := congrArg Host.Outcome.next (if_pos h)

/-- A word of the AMP block that is no half of a split quantity goes to the block. -/
theorem State.regWrite_amp (s : State) (source w : Nat) {off : Nat} (h4 : off % 4 = 0) (hlo : 0x1A0000 ≤ off) (hhi : off < 0x1C0000)
    (hs : inSplit off = false) : s.regWrite source off w = s.writeAmp source off w := by
  unfold State.regWrite
  simp only [wordOff h4, find_lo_of_inSplit hs, find_hi_of_inSplit hs, Option.any_none, Bool.false_eq_true, if_false]
  repeat rw [if_neg (by omega)]
  rw [if_pos hhi]

/-- A host write of such a word that meets nothing, and leaves the pair's status alone, is the block's. -/
theorem State.busWrite_amp {s : State} {source w off v : Nat} {f : Fld} (ho : s.busOpen off) (h4 : off % 4 = 0) (hlo : 0x1A0000 ≤ off)
    (hhi : off < 0x1C0000) (hs : inSplit off = false) (hr : f.key ≠ PAIR.STATUS_ROLE.key) (hu : f.key ≠ PAIR.STATUS_MIRROR_UP.key)
    (hw : ∃ c, s.writeAmp source off w = { s.set f v with cmd := c }) : s.busWrite source off w = s.writeAmp source off w := by
  obtain ⟨c, hc⟩ := hw
  have hreg := State.regWrite_amp s source w h4 hlo hhi hs
  rw [State.busWrite_open ho h4 (by omega) ?_, hreg]
  rw [hreg, hc]
  exact (State.mirrors_set hr hu v).trans ho.2.2.2.2

/-- FREQ_CTRL is written with RUN 1 while every channel is idle (R332). -/
theorem freqSelRun_starts {s : State} (source : Nat) (v : Word) (hn : s.isNi = false) (hv : v.toNat.testBit 0 = true) (ho : s.busOpen 0x1A001C)
    (hi : s.ampAllIdle = true) :
    ∃ t, Machine.exec (.freqSelRun source v) s = .next t ∧ t = { s with regs := t.regs } ∧ s.turns t AMP.FREQ_BUSY 1 := by
  have hv' : (BitVec.ofNat 32 v.toNat).toNat.testBit 0 = true := by rwa [BitVec.ofNat_toNat, BitVec.setWidth_eq]
  have hw : s.writeAmp source 0x1A001C v.toNat = s.set AMP.FREQ_BUSY 1 := by
    simp only [State.writeAmp, hn, hostFreqSelRun, hv', hi, nextOf, Bool.false_eq_true, if_false, if_true, Bool.not_true, or_self]
  have hbus := State.busWrite_amp (f := AMP.FREQ_BUSY) (v := 1) ho (by decide) (by decide) (by decide) (by decide +kernel) (by decide) (by decide)
    ⟨s.cmd, hw⟩
  have hwrites : State.Writes [AMP.FREQ_BUSY] s (s.set AMP.FREQ_BUSY 1) := State.Writes.set (by simp) s 1
  have hexec : Machine.exec (.freqSelRun source v) s = .next (s.busWrite source 0x1A001C v.toNat) :=
    State.rowWrite_of trivial
  rw [hbus, hw] at hexec
  exact ⟨_, hexec, rfl, State.get_set_self s AMP.FREQ_BUSY 1, hwrites.keepsBut⟩

theorem inSplit_swap : ∀ n < 8, inSplit (0x1A0488 + 0x100 * n) = false := by decide +kernel

theorem coefPend_keys : ∀ n < 8, (AMP.CH_COEF_PEND n).key ≠ PAIR.STATUS_ROLE.key ∧ (AMP.CH_COEF_PEND n).key ≠ PAIR.STATUS_MIRROR_UP.key := by
  decide +kernel

/-- SWAP of a channel is written 1: its shadow bank is asked for (R329). -/
theorem coefSwapWrite_asks {s : State} (source : Nat) (v : Word) {n : Nat} (h : n < 8) (hn : s.isNi = false) (hv : v.toNat.testBit 0 = true)
    (ho : s.busOpen (0x1A0488 + 0x100 * n)) :
    ∃ t, Machine.exec (.coefSwapWrite source n v) s = .next t ∧ t = { s with regs := t.regs, cmd := { s.cmd with waits := t.cmd.waits } } ∧
      s.turns t (AMP.CH_COEF_PEND n) 1 := by
  have hv' : (BitVec.ofNat 32 v.toNat).toNat.testBit 0 = true := by rwa [BitVec.ofNat_toNat, BitVec.setWidth_eq]
  have hinst : instOf 0x1A0400 0x100 (0x1A0488 + 0x100 * n) = (n, 0x88) := by
    have hadd : 0x1A0488 + 0x100 * n = 0x1A0400 + 0x100 * n + 0x88 := by omega
    rw [hadd]
    exact instOf_add (by decide)
  have hw : s.writeAmp source (0x1A0488 + 0x100 * n) v.toNat = (s.ampSwap n).ampWaits := by
    have h1 : ¬ 0x1A0488 + 0x100 * n = 0x1A001C := by omega
    have h2 : ¬ (0x1A0100 ≤ 0x1A0488 + 0x100 * n ∧ 0x1A0488 + 0x100 * n < 0x1A0180) := by omega
    have h3 : 0x1A0400 ≤ 0x1A0488 + 0x100 * n ∧ 0x1A0488 + 0x100 * n < 0x1A0C00 := by omega
    have hni : ¬ s.isNi = true := by simp [hn]
    have hon : n < 8 ∧ (!s.isNi) = true := ⟨h, by simp [hn]⟩
    simp only [State.writeAmp, if_neg hni, if_neg h1, if_neg h2, if_pos h3, hinst]
    rw [if_neg (by decide), if_neg (by decide), if_pos (by decide)]
    simp only [hostCoefSwapWrite, State.onAmp, if_pos hon, hv', if_true, nextOf]
  obtain ⟨hrole, hup⟩ := coefPend_keys n h
  have hbus := State.busWrite_amp (f := AMP.CH_COEF_PEND n) (v := 1) ho (by omega) (by omega) (by omega) (inSplit_swap n h) hrole hup
    ⟨(s.ampSwap n).ampWaits.cmd, hw⟩
  have hwrites : State.Writes [AMP.CH_COEF_PEND n] s (s.ampSwap n) := State.Writes.set (by simp) s 1
  have hexec : Machine.exec (.coefSwapWrite source n v) s = .next (s.busWrite source (0x1A0488 + 0x100 * n) v.toNat) :=
    State.rowWrite_of (Nat.lt_succ_iff.1 h)
  rw [hbus, hw] at hexec
  exact ⟨_, hexec, rfl, State.get_set_self s (AMP.CH_COEF_PEND n) 1, hwrites.keepsBut⟩

end Sys2Proof.Machine

end

