-- ==== Sys2Proof/Proofs/AmpCoefficients.lean ====
section

namespace Sys2Proof.Machine

/-! ### The shadow banks of the coefficients (R329) -/

/-- The coefficients of channel `n`. -/
def coefOf (n : Nat) : List Fld := List.flatten [(List.range 15).map (AMP.CH_BQ n), [AMP.CH_KP_I n, AMP.CH_KI_I n, AMP.CH_FF n]]

theorem mem_coefOf_bq (n : Nat) {j : Nat} (h : j < 15) : AMP.CH_BQ n j ∈ coefOf n := by
  simp only [coefOf, List.flatten_cons, List.mem_append, List.mem_map, List.mem_range]
  exact Or.inl ⟨j, h, rfl⟩

theorem coefOf_facts : ∀ n < 8, ∀ f ∈ coefOf n,
    inOffs (0x1A0400 + 0x100 * n) (0x1A0500 + 0x100 * n) f.key = true ∧ (AMP.CH_COEF_PEND n).key ≠ f.key := by decide +kernel

/-- A boundary at which every waiting write of the field ends puts what the register reads in force. -/
theorem State.eff_boundary {s : State} {u : Upd} {p : Nat → Bool} {f : Fld} (hall : ∀ h ∈ s.held, h.upd = u) (hp : p f.key = true) :
    (s.boundary u p).eff f = s.get f := by
  refine State.eff_of_any ?_
  rw [List.any_eq_false]
  intro h hh hk
  obtain ⟨hmem, hkeep⟩ := List.mem_filter.1 hh
  simp [hall h hmem, beq_iff_eq.1 hk, hp] at hkeep

/-- The swap puts every coefficient written in force and clears the loop (R329). -/
theorem coefSwapApply_swaps {s : State} {n : Nat} (h : n < 8) (hn : s.isNi = false) (hp : s.on (AMP.CH_COEF_PEND n) = true)
    (hc : s.on AMP.STATUS_PWM_OK = true) (hall : ∀ h ∈ s.held, h.upd = .swap) :
    ∃ t, Machine.exec (.coefSwapApply n) s = .next t ∧
      t = { s with regs := t.regs, held := t.held, amp := t.amp, cmd := { s.cmd with waits := t.cmd.waits } } ∧
      s.turns t (AMP.CH_COEF_PEND n) 0 ∧ (∀ f ∈ coefOf n, t.eff f = s.get f) ∧
      t.ampCh n = { s.ampCh n with bq := List.replicate 3 ⟨0, 0, 0, 0⟩, acc := 0 } := by
  let u := (s.boundary .swap (inOffs (0x1A0400 + 0x100 * n) (0x1A0500 + 0x100 * n))).set (AMP.CH_COEF_PEND n) 0
  have hexec : Machine.exec (.coefSwapApply n) s =
      .next (u.setAmpCh n { u.ampCh n with bq := List.replicate 3 ⟨0, 0, 0, 0⟩, acc := 0 }).ampWaits := by
    have hon : n < 8 ∧ (!s.isNi) = true := ⟨h, by simp [hn]⟩
    have he : Machine.exec (.coefSwapApply n) s = execCoefSwapApply n s := rfl
    rw [he, execCoefSwapApply, State.onAmp, if_pos hon, if_pos ⟨hp, hc⟩]
  have hget : State.Writes [AMP.CH_COEF_PEND n] (s.boundary .swap (inOffs (0x1A0400 + 0x100 * n) (0x1A0500 + 0x100 * n))) u :=
    State.Writes.set (by simp) _ 0
  refine ⟨_, hexec, rfl, ⟨State.get_set_self _ (AMP.CH_COEF_PEND n) 0, hget.keepsBut⟩, fun f hf => ?_, State.ampCh_setAmpCh_self u h _⟩
  obtain ⟨hin, hne⟩ := coefOf_facts n h f hf
  have heff : u.eff f = s.get f := (State.eff_set_of_ne hne 0).trans (State.eff_boundary hall hin)
  exact heff

/-- A signed parameter of 24 bits in 4 bytes fits where it is sign-extended. -/
theorem signedCode_of {g : Nat} (h : g < 2 ^ 23 ∨ (2 ^ 32 - 2 ^ 23 ≤ g ∧ g < 2 ^ 32)) : (signedCode 24 4 g).isSome = true := by
  have hi : -((2 ^ (24 - 1) : Nat) : Int) ≤ toSigned (8 * 4) g ∧ toSigned (8 * 4) g < ((2 ^ (24 - 1) : Nat) : Int) := by
    unfold toSigned
    dsimp only
    split <;> omega
  simp only [signedCode]
  rw [if_pos hi]
  rfl

/-! ### AMP_COEF_SET -/

/-- The parameters of AMP_COEF_SET. -/
def coefParams : List PSpec := List.flatten [[preq 1 1 0 7], (List.range 15).map (fun j => popt (2 + j) 4 0 0xFFFFFFFF),
  [popt 17 4 0 0xFFFFFFFF, popt 18 4 0 0xFFFFFFFF, psig 19 4 24, psig 20 4 24, popt 21 2 0 0xFFFF, popt 22 1 0 1]]

/-- The coefficients of channel `n` as parameters, with SWAP. -/
def coefTlvs (n : Nat) (c : Nat → Nat) (kp ki ff : Nat) : List Tlv :=
  List.flatten [[⟨1, 1, n⟩], (List.range 15).map (fun j => ⟨2 + j, 4, c j⟩), [⟨17, 4, kp⟩, ⟨18, 4, ki⟩, ⟨19, 4, ff⟩, ⟨22, 1, 1⟩]]

theorem coefParams_bq : ∀ j < 15, coefParams.find? (fun q => q.ty == 2 + j) = some (popt (2 + j) 4 0 0xFFFFFFFF) := by decide

theorem coefTlvs_bq (n : Nat) (c : Nat → Nat) (kp ki ff : Nat) : ∀ j < 15, Params.val? (coefTlvs n c kp ki ff) (2 + j) = some (c j) := by
  intro j hj
  interval_cases j <;> rfl

/-- A field of AMP_COEF_SET is a coefficient of the shadow bank, or VGAIN or DMAX. -/
theorem coefFlds_cases {n : Nat} {f : PFld} (hf : f ∈ coefFlds n) : (f.upd = .swap ∧ f.fld ∈ coefOf n) ∨ f.ty = 20 ∨ f.ty = 21 := by
  simp only [coefFlds, List.flatten_cons, List.flatten_nil, List.append_nil, List.mem_append, List.mem_map, List.mem_range, List.mem_cons,
    List.not_mem_nil, or_false] at hf
  rcases hf with ⟨j, hj, rfl⟩ | rfl | rfl | rfl | rfl | rfl
  · exact Or.inl ⟨rfl, mem_coefOf_bq n hj⟩
  · exact Or.inl ⟨rfl, by simp [coefOf]⟩
  · exact Or.inl ⟨rfl, by simp [coefOf]⟩
  · exact Or.inl ⟨rfl, by simp [coefOf]⟩
  · exact Or.inr (Or.inl rfl)
  · exact Or.inr (Or.inr rfl)

theorem coefFlds_keys : ∀ n < 8, ((coefFlds n).map (fun f => f.fld.key)).Nodup ∧
    ∀ f ∈ coefFlds n, ∀ g ∈ coefOf n, f.fld.key = g.key → f.fld = g := by decide +kernel

theorem coefTlvs_ok {s : State} {r : Req} {n : Nat} {c : Nat → Nat} {kp ki ff : Nat} (hb : s.barred 0x0803 r = none) (h : n < 8)
    (hc : ∀ j, c j < 2 ^ 32) (hkp : kp < 2 ^ 32) (hki : ki < 2 ^ 32) (hff : ff < 2 ^ 23 ∨ (2 ^ 32 - 2 ^ 23 ≤ ff ∧ ff < 2 ^ 32)) :
    s.refuses r 0x0803 coefParams (coefTlvs n c kp ki ff) = none := by
  refine State.refuses_none (tys := List.flatten [[1], (List.range 15).map (fun j => 2 + j), [17, 18, 19, 22]]) hb ?_ rfl (by decide) rfl
  simp only [coefTlvs, List.flatten_cons, List.flatten_nil, List.append_nil, List.forall_mem_append, List.forall_mem_map, List.mem_range,
    List.forall_mem_cons, List.not_mem_nil, false_implies, implies_true, and_true]
  refine ⟨tlvOk_of rfl rfl ⟨Nat.zero_le _, ?_⟩ rfl, fun j hj => tlvOk_of (coefParams_bq j hj) rfl ⟨Nat.zero_le _, ?_⟩ rfl,
    tlvOk_of rfl rfl ⟨Nat.zero_le _, ?_⟩ rfl, tlvOk_of rfl rfl ⟨Nat.zero_le _, ?_⟩ rfl,
    tlvOk_signed rfl rfl ⟨Nat.zero_le _, ?_⟩ (signedCode_of hff), tlvOk_of rfl rfl (by decide) rfl⟩
  · exact Nat.lt_succ_iff.1 h
  · exact Nat.le_sub_one_of_lt (hc j)
  · exact Nat.le_sub_one_of_lt hkp
  · exact Nat.le_sub_one_of_lt hki
  · exact Nat.le_sub_one_of_lt (show ff < 2 ^ 32 by omega)

/-- The coefficients given are all of the shadow bank: none of them is VGAIN or DMAX. -/
theorem coefTlvs_shadow {n : Nat} {c : Nat → Nat} {kp ki ff : Nat} : ∀ f ∈ coefFlds n,
    (f.upd = .swap ∧ f.fld ∈ coefOf n) ∨ Params.val? (coefTlvs n c kp ki ff) f.ty = none := by
  intro f hf
  rcases coefFlds_cases hf with hs | ht | ht
  · exact Or.inl hs
  · exact Or.inr (by rw [ht]; rfl)
  · exact Or.inr (by rw [ht]; rfl)

/-- AMP_COEF_SET with SWAP that names no static field. -/
theorem execAmpCoefSet_of {s : State} {r : Req} {p : List Tlv} (hn : s.isNi = false) (hp : s.refuses r 0x0803 coefParams p = none)
    (hs : ∀ f ∈ coefFlds (Params.val p 1), f.upd ≠ .static ∨ Params.val? p f.ty = none) (hw : Params.val p 22 = 1) :
    Machine.exec (.ampCoefSet r p) s = .next (((writeFlds s p (coefFlds (Params.val p 1))).ampSwap (Params.val p 1)).addWait
      ⟨r, 0x0803, 6, 22, [0], [Params.val p 1], [waiting], [0], [], 0, []⟩) := by
  have he : Machine.exec (.ampCoefSet r p) s = execAmpCoefSet r p s := rfl
  unfold coefParams at hp
  rw [he]
  simp only [execAmpCoefSet, hn, Bool.false_eq_true, if_false, hp, setFlds_of (Or.inr (changesStatic_none hs)), hw]
  exact if_pos (by simp [Reply.ok])

/-- What a write of coefficients to the shadow bank, and the request for the swap, leave. -/
theorem ampSwap_coefs (s : State) {p : Params} {n : Nat} (h : n < 8)
    (hp : ∀ f ∈ coefFlds n, (f.upd = .swap ∧ f.fld ∈ coefOf n) ∨ Params.val? p f.ty = none) :
    let t := (writeFlds s p (coefFlds n)).ampSwap n
    t = { s with regs := t.regs, held := t.held } ∧ t.on (AMP.CH_COEF_PEND n) = true ∧
      (∀ f ∈ coefFlds n, f.fld ∈ coefOf n → ∀ v, Params.val? p f.ty = some v → t.get f.fld = v % 2 ^ f.fld.w) ∧
      (∀ f ∈ coefOf n, t.eff f = s.eff f) ∧ s.keepsBut t (AMP.CH_COEF_PEND n :: coefOf n) := by
  obtain ⟨hnd, hinj⟩ := coefFlds_keys n h
  refine ⟨?_, ?_, fun f hf hc v hv => ?_, fun g hg => ?_, fun g _ _ hg => ?_⟩
  · unfold State.ampSwap State.set
    rw [writeFlds_rest p (coefFlds n) s]
  · simp [State.on, State.ampSwap, AMP.CH_COEF_PEND]
  · exact (State.get_set_of_ne _ (coefOf_facts n h f.fld hc).2 1).trans (get_writeFlds p hnd hf hv s)
  · exact (State.eff_set_of_ne (coefOf_facts n h g hg).2 1).trans
      (eff_writeFlds p (fun f hf => (hp f hf).imp (fun hs => by rw [hs.1]; rfl) id) (fun f hf => hinj f hf g hg) s)
  · refine (State.get_set_of_ne _ (hg _ (List.mem_cons_self ..)) 1).trans (get_writeFlds_of_ne p (fun f hf => ?_) s)
    exact (hp f hf).symm.imp id (fun hs => hg f.fld (List.mem_cons_of_mem _ hs.2))

/-- The coefficients go to the shadow bank, and the reply waits for the swap that SWAP asks for. -/
theorem ampCoefSet_asks {s : State} {r : Req} {n : Nat} {c : Nat → Nat} {kp ki ff : Nat} (h : n < 8) (hc : ∀ j, c j < 2 ^ 32)
    (hkp : kp < 2 ^ 32) (hki : ki < 2 ^ 32) (hff : ff < 2 ^ 23 ∨ (2 ^ 32 - 2 ^ 23 ≤ ff ∧ ff < 2 ^ 32)) (hn : s.isNi = false)
    (hb : s.barred 0x0803 r = none) :
    ∃ t, Machine.exec (.ampCoefSet r (coefTlvs n c kp ki ff)) s = .next t ∧ t = { s with regs := t.regs, held := t.held, cmd := t.cmd } ∧
      t.cmd = { s.cmd with waits := s.cmd.waits ++ [⟨r, 0x0803, 6, 22, [0], [n], [waiting], [0], [], 0, []⟩] } ∧
      t.on (AMP.CH_COEF_PEND n) = true ∧ (∀ j, j < 15 → t.get (AMP.CH_BQ n j) = c j) ∧ t.get (AMP.CH_KP_I n) = kp ∧
      t.get (AMP.CH_KI_I n) = ki ∧ t.get (AMP.CH_FF n) = ff % 2 ^ 24 ∧ (∀ f, f ∈ coefOf n → t.eff f = s.eff f) ∧
      s.keepsBut t (AMP.CH_COEF_PEND n :: coefOf n) := by
  have hp := coefTlvs_ok (c := c) (kp := kp) (ki := ki) hb h hc hkp hki hff
  have hn1 : Params.val (coefTlvs n c kp ki ff) 1 = n := rfl
  have hexec := execAmpCoefSet_of hn hp (fun f hf => (coefTlvs_shadow f (hn1 ▸ hf)).imp (fun hs => by simp [hs.1]) id) rfl
  rw [hn1] at hexec
  obtain ⟨hrest, hpend, hget, heff, hkeep⟩ := ampSwap_coefs s h (coefTlvs_shadow (c := c) (kp := kp) (ki := ki) (ff := ff))
  have hbq : ∀ j < 15, (⟨2 + j, AMP.CH_BQ n j, .swap⟩ : PFld) ∈ coefFlds n := by
    intro j hj
    simp only [coefFlds, List.flatten_cons, List.mem_append, List.mem_map, List.mem_range]
    exact Or.inl ⟨j, hj, rfl⟩
  generalize (writeFlds s (coefTlvs n c kp ki ff) (coefFlds n)).ampSwap n = u at *
  refine ⟨_, hexec, ?_, ?_, hpend, fun j hj => ?_, ?_, ?_, ?_, heff, hkeep⟩
  · unfold State.addWait
    rw [hrest]
  · unfold State.addWait
    rw [hrest]
  · exact (hget _ (hbq j hj) (mem_coefOf_bq n hj) _ (coefTlvs_bq n c kp ki ff j hj)).trans (Nat.mod_eq_of_lt (hc j))
  · exact (hget ⟨17, AMP.CH_KP_I n, .swap⟩ (by simp [coefFlds]) (by simp [coefOf]) _ rfl).trans (Nat.mod_eq_of_lt hkp)
  · exact (hget ⟨18, AMP.CH_KI_I n, .swap⟩ (by simp [coefFlds]) (by simp [coefOf]) _ rfl).trans (Nat.mod_eq_of_lt hki)
  · exact hget ⟨19, AMP.CH_FF n, .swap⟩ (by simp [coefFlds]) (by simp [coefOf]) _ rfl

end Sys2Proof.Machine

end

