-- ==== Sys2Proof/Proofs/AmpCfgErr.lean ====
section

namespace Sys2Proof.Machine

/-! ### CFG_ERR (R333) -/

/-- CFG_ERR of every channel. -/
def cfgErrs : List Fld := (List.range 8).map AMP.CH_CFG_ERR

/-- What CFG_ERR of channel `n` is computed from. -/
def cfgErrInputs (n : Nat) : List Fld :=
  [AMP.SEN_REC (n / 2), AMP.SEN_WARN (n / 2), AMP.SEN_SHUT (n / 2), AMP.CH_DEADTIME n, AMP.CH_STATE n, AMP.FREQ_SEL_P]

theorem State.ampCfgErr_congr {s t : State} {n : Nat} (ha : t.amp = s.amp) (hg : ∀ f ∈ cfgErrInputs n, t.get f = s.get f) :
    t.ampCfgErr n = s.ampCfgErr n := by
  simp only [cfgErrInputs, List.forall_mem_cons, List.not_mem_nil, false_implies, implies_true, and_true] at hg
  obtain ⟨hrec, hwarn, hshut, hdead, hstate, hsel⟩ := hg
  simp only [State.ampCfgErr, State.ampPeriod, State.ampRuns, State.ampState, State.ampCh, ha, hrec, hwarn, hshut, hdead, hstate, hsel]
  rfl

theorem cfgErr_keys : ∀ m < 8, (∀ n < 8, ∀ f ∈ cfgErrInputs n, (AMP.CH_CFG_ERR m).key ≠ f.key) ∧
    ∀ n < 8, (AMP.CH_CFG_ERR m).key = (AMP.CH_CFG_ERR n).key → m = n := by decide +kernel

/-- Storing one CFG_ERR changes no other's inputs. -/
theorem State.ampCfgErr_setOn (s : State) {m n : Nat} (hm : m < 8) (hn : n < 8) (b : Bool) :
    (s.setOn (AMP.CH_CFG_ERR m) b).ampCfgErr n = s.ampCfgErr n :=
  State.ampCfgErr_congr rfl (fun f hf => State.get_set_of_ne s ((cfgErr_keys m hm).1 n hn f hf) _)

theorem State.ampCfg_foldl (ns : List Nat) (hns : ∀ n ∈ ns, n < 8) (s : State) {m : Nat} (hm : m < 8) :
    (m ∈ ns ∨ s.on (AMP.CH_CFG_ERR m) = s.ampCfgErr m) →
      (ns.foldl (fun s n => s.setOn (AMP.CH_CFG_ERR n) (s.ampCfgErr n)) s).on (AMP.CH_CFG_ERR m) = s.ampCfgErr m := by
  induction ns generalizing s with
  | nil => simp
  | cons n ns ih =>
    intro h
    have hn : n < 8 := hns n (List.mem_cons_self ..)
    have hstep := ih (fun k hk => hns k (List.mem_cons_of_mem _ hk)) (s.setOn (AMP.CH_CFG_ERR n) (s.ampCfgErr n))
    rw [State.ampCfgErr_setOn s hn hm] at hstep
    rw [List.foldl_cons]
    by_cases hmn : n = m
    · subst hmn
      exact hstep (Or.inr (State.on_setOn_self s _ _ rfl))
    · refine hstep ?_
      rcases h with h | h
      · exact Or.inl ((List.mem_cons.1 h).resolve_left (Ne.symm hmn))
      · exact Or.inr ((State.on_setOn_of_ne s (fun e => hmn ((cfgErr_keys n hn).2 m hm e)) _).trans h)

/-- CFG_ERR of every channel reads as its settings have it. -/
theorem State.on_ampCfg (s : State) {m : Nat} (hm : m < 8) : s.ampCfg.on (AMP.CH_CFG_ERR m) = s.ampCfgErr m :=
  State.ampCfg_foldl (List.range 8) (fun _ h => List.mem_range.1 h) s hm (Or.inl (List.mem_range.2 hm))

theorem State.ampCfg_writes (s : State) : State.Writes cfgErrs s s.ampCfg := by
  unfold State.ampCfg
  refine State.Writes.foldl (fun t n hn => ?_) s
  unfold State.setOn
  exact State.Writes.set (List.mem_map_of_mem hn) t _

/-- CFG_ERR follows the state it is in. -/
theorem State.ampCfgErr_ampCfg (s : State) {m : Nat} (hm : m < 8) : s.ampCfg.ampCfgErr m = s.ampCfgErr m := by
  refine State.ampCfgErr_congr s.ampCfg_writes.amp (fun f hf => s.ampCfg_writes.get f (fun g hg => ?_))
  obtain ⟨n, hn, rfl⟩ := List.mem_map.1 hg
  exact (cfgErr_keys n (List.mem_range.1 hn)).1 m hm f hf

/-- A command's fields are written, and CFG_ERR follows. -/
theorem ampCfg_writeFlds (s : State) (p : Params) {fs : List PFld} (hu : ∀ f ∈ fs, f.upd.waits = false) :
    State.Writes (cfgErrs ++ fs.map PFld.fld) s (writeFlds s p fs).ampCfg :=
  ((writeFlds_writes p hu s).mono (fun _ h => List.mem_append_right _ h)).trans
    ((State.ampCfg_writes _).mono (fun _ h => List.mem_append_left _ h))

/-- A field that is no CFG_ERR reads the value that the command wrote. -/
theorem get_ampCfg_writeFlds {p : Params} {fs : List PFld} (hnd : (fs.map (fun f => f.fld.key)).Nodup)
    (hk : ∀ f ∈ fs, ∀ g ∈ cfgErrs, g.key ≠ f.fld.key) (s : State) (i : Nat) {f : PFld} (hf : fs[i]? = some f) {v : Nat}
    (hv : Params.val? p f.ty = some v) : (writeFlds s p fs).ampCfg.get f.fld = v % 2 ^ f.fld.w :=
  ((State.ampCfg_writes _).get _ (hk f (List.mem_of_getElem? hf))).trans (get_writeFlds p hnd (List.mem_of_getElem? hf) hv s)

end Sys2Proof.Machine

end

