-- ==== Sys2Proof/Proofs/AmpChannelSet.lean ====
section

namespace Sys2Proof.Machine

/-! ### AMP_CH_SET -/

/-- The parameters of AMP_CH_SET. -/
def chParams : List PSpec := List.flatten [[preq 1 1 0 7, popt 2 1 0 1, popt 3 1 0 1, popt 4 1 0 1, popt 5 1 0 7, popt 6 1 0 3, popt 7 1 0 255,
    popt 8 1 0 255, psig 9 4 24, popt 10 2 0 0xFFFF, popt 11 1 0 15, popt 12 1 0 255, popt 13 2 0 0xFFF, popt 14 2 0 0xFFFF, popt 15 2 0 0xFFFF],
  [popt 16 2 0 0xFFF, popt 17 2 0 0x3FF, popt 18 2 0 0x3FF, popt 19 2 0 0xFFFF, popt 20 2 0 0xFFFF, popt 21 1 0 255, popt 22 1 0 255]]

theorem ampChFlds_plain (n : Nat) : ∀ f ∈ ampChFlds n, f.upd.waits = false := by
  simp only [ampChFlds, List.forall_mem_cons, List.not_mem_nil, false_implies, implies_true, and_true]
  decide

theorem ampChFlds_keys : ∀ n < 8, ((ampChFlds n).map (fun f => f.fld.key)).Nodup ∧
    ∀ f ∈ ampChFlds n, ∀ g ∈ cfgErrs, g.key ≠ f.fld.key := by decide +kernel

/-- AMP_CH_SET of an idle channel, without EN and MUTE. -/
theorem execAmpChSet_of {s : State} {r : Req} {p : List Tlv} (hn : s.isNi = false) (hp : s.refuses r 0x0802 chParams p = none)
    (hen : Params.val? p 2 = none) (hmute : Params.val? p 3 = none) (hi : s.ampIdle (Params.val p 1) = true) :
    Machine.exec (.ampChSet r p) s =
      .next ((writeFlds s p (ampChFlds (Params.val p 1))).ampCfg.ampWaits.finish r 0x0802 (Reply.ok [])) := by
  have he : Machine.exec (.ampChSet r p) s = execAmpChSet r p s := rfl
  rw [he]
  unfold execAmpChSet
  refine ampCmd_of hn hp ?_
  simp only [hen, hmute, hi, reduceCtorEq, false_and, if_false, setFlds_of (Or.inl (Bool.true_or _))]
  exact if_neg (fun h => h rfl)

/-- The fields of an idle channel are written, and CFG_ERR follows. -/
theorem ampChSet_writes {s : State} {r : Req} {p : List Tlv} {n : Nat} (h : n < 8) (hn : s.isNi = false)
    (hp : s.refuses r 0x0802 chParams p = none) (h1 : Params.val p 1 = n) (hen : Params.val? p 2 = none) (hmute : Params.val? p 3 = none)
    (hi : s.ampIdle n = true) :
    ∃ t, Machine.exec (.ampChSet r p) s = .next t ∧ t = { s with regs := t.regs, cmd := t.cmd } ∧
      t.cmd = { s.cmd with waits := t.cmd.waits, results := s.cmd.results ++ [⟨r.channel, r.tag, 0x0802, Reply.ok []⟩] } ∧
      (∀ (i : Nat) (f : PFld) (v : Nat), (ampChFlds n)[i]? = some f → Params.val? p f.ty = some v → t.get f.fld = v % 2 ^ f.fld.w) ∧
      (∀ m, m < 8 → t.on (AMP.CH_CFG_ERR m) = t.ampCfgErr m) ∧ s.keepsBut t (cfgErrs ++ (ampChFlds n).map PFld.fld) := by
  subst h1
  obtain ⟨hnd, hk⟩ := ampChFlds_keys _ h
  have hw := ampCfg_writeFlds s p (ampChFlds_plain (Params.val p 1))
  have hget := fun i f v hf hv => get_ampCfg_writeFlds hnd hk s i (f := f) (p := p) hf (v := v) hv
  have hon : ∀ m < 8, (writeFlds s p (ampChFlds (Params.val p 1))).ampCfg.on (AMP.CH_CFG_ERR m) =
      (writeFlds s p (ampChFlds (Params.val p 1))).ampCfg.ampCfgErr m :=
    fun m hm => (State.on_ampCfg _ hm).trans (State.ampCfgErr_ampCfg _ hm).symm
  have hexec := execAmpChSet_of hn hp hen hmute hi
  generalize (writeFlds s p (ampChFlds (Params.val p 1))).ampCfg = u at *
  refine ⟨_, hexec, ?_, ?_, hget, hon, hw.keepsBut⟩
  · unfold State.finish State.ampWaits State.settleWaits
    rw [hw.rest]
  · unfold State.finish State.ampWaits State.settleWaits
    rw [hw.rest]

/-! ### AMP_QUENCH_SET -/

/-- The parameters of AMP_QUENCH_SET. -/
def quenchParams : List PSpec := [preq 1 1 0 3, popt 2 2 0 0xFFFF, popt 3 2 0 0xFFFF, popt 4 2 0 0xFFFF, popt 5 1 0 1, psig 6 4 24]

/-- The fields of a sensor that it writes. -/
def quenchFlds (i : Nat) : List PFld := [⟨2, AMP.SEN_WARN i, .live⟩, ⟨3, AMP.SEN_SHUT i, .live⟩, ⟨4, AMP.SEN_REC i, .live⟩,
  ⟨5, AMP.SEN_DIR i, .static⟩, ⟨6, AMP.SEN_G_MIN i, .live⟩]

theorem quenchFlds_plain (i : Nat) : ∀ f ∈ quenchFlds i, f.upd.waits = false := by
  simp only [quenchFlds, List.forall_mem_cons, List.not_mem_nil, false_implies, implies_true, and_true]
  decide

theorem quenchFlds_keys : ∀ i < 4, ((quenchFlds i).map (fun f => f.fld.key)).Nodup ∧
    ∀ f ∈ quenchFlds i, ∀ g ∈ cfgErrs, g.key ≠ f.fld.key := by decide +kernel

/-- A sensor's settings as parameters. -/
def quenchTlvs (i warn shut rec' dir gm : Nat) : List Tlv := [⟨1, 1, i⟩, ⟨2, 2, warn⟩, ⟨3, 2, shut⟩, ⟨4, 2, rec'⟩, ⟨5, 1, dir⟩, ⟨6, 4, gm⟩]

theorem execAmpQuenchSet_of {s : State} {r : Req} {i warn shut rec' dir gm : Nat} (hn : s.isNi = false)
    (hp : s.refuses r 0x0808 quenchParams (quenchTlvs i warn shut rec' dir gm) = none) (hrw : rec' < warn) (hws : warn < shut)
    (ha : s.ampIdle (2 * i) = true) (hb : s.ampIdle (2 * i + 1) = true) :
    Machine.exec (.ampQuenchSet r (quenchTlvs i warn shut rec' dir gm)) s =
      .next ((writeFlds s (quenchTlvs i warn shut rec' dir gm) (quenchFlds i)).ampCfg.finish r 0x0808 (Reply.ok [])) := by
  have he : Machine.exec (.ampQuenchSet r (quenchTlvs i warn shut rec' dir gm)) s =
    execAmpQuenchSet r (quenchTlvs i warn shut rec' dir gm) s := rfl
  have hset : setFlds (s.ampIdle (2 * i) && s.ampIdle (2 * i + 1)) (quenchFlds i) (quenchTlvs i warn shut rec' dir gm) s =
    (Reply.ok [], writeFlds s (quenchTlvs i warn shut rec' dir gm) (quenchFlds i)) := setFlds_of (Or.inl (by rw [ha, hb]; rfl))
  rw [he]
  unfold execAmpQuenchSet
  refine ampCmd_of hn hp ?_
  have hord : ¬ (!decide (rec' < warn ∧ warn < shut)) = true := by simp [hrw, hws]
  refine (if_neg hord).trans ?_
  exact congrArg (fun x => (x.1, State.ampCfg x.2)) hset

/-- The settings of a sensor both of whose channels are idle are written, and CFG_ERR follows (R339). -/
theorem ampQuenchSet_writes {s : State} {r : Req} {i warn shut rec' dir gm : Nat} (h : i < 4) (hrw : rec' < warn) (hws : warn < shut)
    (hs : shut < 2 ^ 16) (hd : dir < 2) (hg : gm < 2 ^ 23 ∨ (2 ^ 32 - 2 ^ 23 ≤ gm ∧ gm < 2 ^ 32)) (hn : s.isNi = false)
    (hb : s.barred 0x0808 r = none) (hia : s.ampIdle (2 * i) = true) (hib : s.ampIdle (2 * i + 1) = true) :
    ∃ t, Machine.exec (.ampQuenchSet r (quenchTlvs i warn shut rec' dir gm)) s = .next t ∧
      s.records t r 0x0808 (Reply.ok []) ∧ t = { s with regs := t.regs, cmd := t.cmd } ∧ t.get (AMP.SEN_WARN i) = warn ∧
      t.get (AMP.SEN_SHUT i) = shut ∧ t.get (AMP.SEN_REC i) = rec' ∧ t.get (AMP.SEN_DIR i) = dir ∧ t.get (AMP.SEN_G_MIN i) = gm % 2 ^ 24 ∧
      s.keepsBut t (cfgErrs ++ (quenchFlds i).map PFld.fld) := by
  have hp : s.refuses r 0x0808 quenchParams (quenchTlvs i warn shut rec' dir gm) = none := by
    refine State.refuses_none (tys := [1, 2, 3, 4, 5, 6]) hb ?_ rfl (by decide) rfl
    simp only [quenchTlvs, List.forall_mem_cons, List.not_mem_nil, false_implies, implies_true, and_true]
    refine ⟨tlvOk_of rfl rfl ⟨Nat.zero_le _, ?_⟩ rfl, tlvOk_of rfl rfl ⟨Nat.zero_le _, ?_⟩ rfl, tlvOk_of rfl rfl ⟨Nat.zero_le _, ?_⟩ rfl,
      tlvOk_of rfl rfl ⟨Nat.zero_le _, ?_⟩ rfl, tlvOk_of rfl rfl ⟨Nat.zero_le _, ?_⟩ rfl,
      tlvOk_signed rfl rfl ⟨Nat.zero_le _, ?_⟩ (signedCode_of hg)⟩ <;> simp only [preq, popt, psig] <;> omega
  obtain ⟨hnd, hk⟩ := quenchFlds_keys i h
  have hexec := execAmpQuenchSet_of hn hp hrw hws hia hib
  have hw := ampCfg_writeFlds s (quenchTlvs i warn shut rec' dir gm) (quenchFlds_plain i)
  have hget := fun j f v hf hv => get_ampCfg_writeFlds hnd hk s j (f := f) (p := quenchTlvs i warn shut rec' dir gm) hf (v := v) hv
  generalize (writeFlds s (quenchTlvs i warn shut rec' dir gm) (quenchFlds i)).ampCfg = u at *
  have hat := fun j f v hf hv (hlt : v < 2 ^ f.fld.w) => (hget j f v hf hv).trans (Nat.mod_eq_of_lt hlt)
  have hwarn := lt_trans hws hs
  have hgwarn := hat 0 _ _ rfl rfl hwarn
  have hgshut := hat 1 _ _ rfl rfl hs
  have hgrec := hat 2 _ _ rfl rfl (lt_trans hrw hwarn)
  have hgdir := hat 3 _ _ rfl rfl hd
  have hggain := hget 4 _ _ rfl rfl
  refine ⟨_, hexec, ?_, ?_, hgwarn, hgshut, hgrec, hgdir, hggain, hw.keepsBut⟩
  · unfold State.records State.finish
    rw [hw.rest]
  · unfold State.finish
    rw [hw.rest]

end Sys2Proof.Machine

end

