-- ==== Sys2Proof/Proofs/AmpChoice.lean ====
section

namespace Sys2Proof.Machine

/-! ### The choice of the switching frequency (R332) -/

/-- The tighter of what was found so far and carrier `c`. -/
def tighter (p : Nat) (a : Option (Int × Nat)) (c : Nat × Nat × Nat) : Option (Int × Nat) :=
  let m := marginOf p c.2.1 c.2.2
  match a with
  | none => some (m, c.1)
  | some (b, i) => if m < b then some (m, c.1) else some (b, i)

theorem tightest_eq (cs : List (Nat × Nat × Nat)) (p : Nat) : tightest cs p = cs.foldl (tighter p) none := rfl

/-- The margin found is at most that of every carrier looked at, and at most the one it started from. -/
theorem foldl_tighter (p : Nat) (cs : List (Nat × Nat × Nat)) (b : Int) (i : Nat) :
    ∃ m w, cs.foldl (tighter p) (some (b, i)) = some (m, w) ∧ m ≤ b ∧ ∀ c ∈ cs, m ≤ marginOf p c.2.1 c.2.2 := by
  induction cs generalizing b i with
  | nil => exact ⟨b, i, rfl, le_refl b, fun _ hc => by cases hc⟩
  | cons c cs ih =>
    rw [List.foldl_cons]
    simp only [tighter]
    split
    · rename_i hlt
      obtain ⟨m, w, hm, hle, hall⟩ := ih (marginOf p c.2.1 c.2.2) c.1
      exact ⟨m, w, hm, le_trans hle (le_of_lt hlt), List.forall_mem_cons.2 ⟨hle, hall⟩⟩
    · rename_i hge
      obtain ⟨m, w, hm, hle, hall⟩ := ih b i
      exact ⟨m, w, hm, hle, List.forall_mem_cons.2 ⟨le_trans hle (not_lt.1 hge), hall⟩⟩

/-- The tightest carrier has the least margin, and there is none only without carriers. -/
theorem tightest_cases (cs : List (Nat × Nat × Nat)) (p : Nat) :
    (cs = [] ∧ tightest cs p = none) ∨ ∃ m w, tightest cs p = some (m, w) ∧ ∀ c ∈ cs, m ≤ marginOf p c.2.1 c.2.2 := by
  rw [tightest_eq]
  cases cs with
  | nil => exact Or.inl ⟨rfl, rfl⟩
  | cons c cs =>
    obtain ⟨m, w, hm, hle, hall⟩ := foldl_tighter p cs (marginOf p c.2.1 c.2.2) c.1
    exact Or.inr ⟨m, w, hm, List.forall_mem_cons.2 ⟨hle, hall⟩⟩

/-- Without a carrier the preferred period is chosen, and is clear. -/
theorem State.chooseP_alone {s : State} (h : s.carriers = []) : s.chooseP =
    (clampNat (clampNat 320 1536 (s.get AMP.P_MIN)) (clampNat 320 1536 (s.get AMP.P_MAX)) (s.get AMP.P_PREF), true, none) := by
  simp [State.chooseP, h, State.candidates, tightest]

/-- A clear choice keeps the guard band from every carrier. -/
theorem State.chooseP_clear {s : State} (h : s.chooseP.2.1 = true) :
    ∀ c ∈ s.carriers, ((s.get AMP.GUARD * 100 * s.chooseP.1 : Nat) : Int) ≤ marginOf s.chooseP.1 c.2.1 c.2.2 := by
  intro c hc
  unfold State.chooseP at h ⊢
  dsimp only at h ⊢
  split at h
  · rename_i p hp
    dsimp only
    have hclear := List.find?_some hp
    rcases tightest_cases s.carriers p with ⟨hnil, -⟩ | ⟨m, w, hm, hall⟩
    · rw [hnil] at hc
      cases hc
    · rw [hm] at hclear
      exact le_trans (of_decide_eq_true hclear) (hall c hc)
  · split at h <;> cases h

/-- The fields that the end of a choice writes. -/
def choiceFlds : List Fld := [AMP.FREQ_BUSY, AMP.FREQ_SEL_P, AMP.FREQ_CLEAR, AMP.FREQ_WORST, AMP.FREQ_SEL_MARGIN]

/-- The choice stands in the registers. -/
def State.noteChoice (s : State) (p : Nat) (clear : Bool) (worst : Nat) (margin : Int) : State :=
  ((((s.set AMP.FREQ_BUSY 0).set AMP.FREQ_SEL_P p).setOn AMP.FREQ_CLEAR clear).set AMP.FREQ_WORST worst).seti AMP.FREQ_SEL_MARGIN margin

theorem State.get_noteChoice (s : State) (p : Nat) (clear : Bool) (worst : Nat) (margin : Int) :
    let t := s.noteChoice p clear worst margin
    t.get AMP.FREQ_BUSY = 0 ∧ t.get AMP.FREQ_SEL_P = p % 2 ^ 11 ∧ t.get AMP.FREQ_CLEAR = (if clear then 1 else 0) ∧
      t.get AMP.FREQ_WORST = worst % 2 ^ 5 ∧
      t.get AMP.FREQ_SEL_MARGIN = ofSigned 32 (clampInt (-(2 ^ 31 : Nat)) (((2 ^ 31 : Nat) : Int) - 1) margin) % 2 ^ 32 := by
  refine ⟨?_, ?_, ?_, ?_, ?_⟩ <;> unfold State.noteChoice State.seti State.setOn <;>
    simp (disch := decide) only [State.get_set_of_ne, State.get_set_self]
  · rfl
  · rfl
  · cases clear <;> rfl
  · rfl
  · rfl

/-- The margin and the entry that a choice reports: of no carrier, the greatest margin and no entry. -/
def State.choiceMargin (s : State) : Int × Nat × State :=
  match s.chooseP.2.2 with
  | some (m, w) => ((s.freeDiv m s.chooseP.1).1, w, (s.freeDiv m s.chooseP.1).2)
  | none => (0x7FFFFFFF, 0x1F, s)

/-- The end of a choice: it stands in the registers, INT and an event say so, and the replies that wait for it end. -/
theorem execFreqSelectDone_eq {s : State} (hn : s.isNi = false) (hb : s.on AMP.FREQ_BUSY = true) :
    ∃ d, Machine.exec .freqSelectDone s = .next
      (((s.choiceMargin.2.2.noteChoice s.chooseP.1 s.chooseP.2.1 s.choiceMargin.2.1 s.choiceMargin.1).ampCfg.ampEvent AMP.INT_FREQ 0x0808 0 d).ampWaits) := by
  have he : Machine.exec .freqSelectDone s = execFreqSelectDone s := rfl
  rw [he]
  unfold execFreqSelectDone State.choiceMargin
  rw [if_neg (by simp [hn, hb])]
  obtain ⟨p, clear, t⟩ := s.chooseP
  cases t with
  | none => exact ⟨_, rfl⟩
  | some x => exact ⟨_, rfl⟩

theorem choiceFlds_facts : ∀ f ∈ choiceFlds, (∀ g ∈ cfgErrs, g.key ≠ f.key) ∧ AMP.INT.key ≠ f.key ∧ eventKey f.key = false := by
  decide +kernel

/-- CFG_ERR and the event leave the choice as it stands. -/
theorem State.get_choiceDone (s : State) {f : Fld} (hf : f ∈ choiceFlds) (d : List Byte) :
    (s.ampCfg.ampEvent AMP.INT_FREQ 0x0808 0 d).ampWaits.get f = s.get f := by
  obtain ⟨hcfg, hint, hev⟩ := choiceFlds_facts f hf
  exact (State.get_signal s.ampCfg AMP.INT AMP.INT_EN AMP.INT_FREQ 0x0808 13 0 d hint hev).trans (s.ampCfg_writes.get f hcfg)

/-- The end of a choice (R332). -/
theorem freqSelectDone_chooses {s : State} (hn : s.isNi = false) (hb : s.on AMP.FREQ_BUSY = true) :
    ∃ t, Machine.exec .freqSelectDone s = .next t ∧ t.on AMP.FREQ_BUSY = false ∧ t.bit AMP.INT AMP.INT_FREQ = true ∧
      (s.carriers = [] → t.get AMP.FREQ_CLEAR = 1 ∧ t.get AMP.FREQ_WORST = 0x1F ∧ t.get AMP.FREQ_SEL_MARGIN = 0x7FFFFFFF ∧
        t.get AMP.FREQ_SEL_P = clampNat (clampNat 320 1536 (s.get AMP.P_MIN)) (clampNat 320 1536 (s.get AMP.P_MAX)) (s.get AMP.P_PREF) % 2 ^ 11) ∧
      (t.get AMP.FREQ_CLEAR = 1 → ∃ p : Nat, t.get AMP.FREQ_SEL_P = p % 2 ^ 11 ∧
        ∀ c, c ∈ s.carriers → ((s.get AMP.GUARD * 100 * p : Nat) : Int) ≤ marginOf p c.2.1 c.2.2) := by
  obtain ⟨d, hexec⟩ := execFreqSelectDone_eq hn hb
  obtain ⟨hbusy, hp, hclear, hworst, hmargin⟩ :=
    s.choiceMargin.2.2.get_noteChoice s.chooseP.1 s.chooseP.2.1 s.choiceMargin.2.1 s.choiceMargin.1
  have hget := fun f (hf : f ∈ choiceFlds) =>
    (s.choiceMargin.2.2.noteChoice s.chooseP.1 s.chooseP.2.1 s.choiceMargin.2.1 s.choiceMargin.1).get_choiceDone hf d
  have hint : ∀ u : State, (u.ampEvent AMP.INT_FREQ 0x0808 0 d).ampWaits.bit AMP.INT AMP.INT_FREQ = true :=
    fun u => State.bit_signal u AMP.INT AMP.INT_EN AMP.INT_FREQ 0x0808 13 0 d (by decide) (by decide)
  rw [← hget _ (by decide)] at hbusy hp hclear hworst hmargin
  refine ⟨_, hexec, decide_eq_false (by rw [hbusy]; simp), hint _, fun hc => ?_, fun hc => ⟨s.chooseP.1, hp, ?_⟩⟩
  · have hch := State.chooseP_alone hc
    have hcm : s.choiceMargin = (0x7FFFFFFF, 0x1F, s) := by simp [State.choiceMargin, hch]
    rw [hclear, hworst, hmargin, hp, hcm, hch]
    exact ⟨rfl, rfl, by dsimp only; decide, rfl⟩
  · refine State.chooseP_clear ?_
    rw [hclear] at hc
    by_contra hno
    simp [hno] at hc

end Sys2Proof.Machine

end

