-- ==== Sys2Proof/Proofs/AmplifierSettings.lean ====
section

namespace Sys2Proof.Machine

/-- Settles O29. -/
theorem amplifierSettings : Obligations.AmplifierSettings := by
  unfold Obligations.AmplifierSettings
  intro s r n h
  refine ⟨fun hn p => ampSettings_ni hn r p, fun hn hi hb => ⟨fun lo hi' pref step guard' hlo hhi hpref hstep hg => ?_, ampFreqSet_runs hn hi hb⟩,
    fun source v hn hv ho hi => freqSelRun_starts source v hn hv ho hi, fun hn hb => freqSelectDone_chooses hn hb, ?_,
    fun c kp ki ff hc hkp hki hff hn hb => ampCoefSet_asks h hc hkp hki hff hn hb,
    fun source v hn hv ho => coefSwapWrite_asks source v h hn hv ho, fun hn hp hc hall => ?_,
    fun i warn shut rec' dir gm hi hrw hws hs hd hg hn hb hia hib => ?_⟩
  · exact ampFreqSet_writes hn hi hb hlo hhi hpref hstep hg
  · intro md ph fa ff dt vg dm rn sn il rm cm sr zt mr dth dti om bc hmd hph hfa hff hdt hvg hdm hrn hsn hil hrm hcm hsr hzt hmr hdth hdti hom hbc
      hn hb hi
    have hp : s.refuses r 0x0802 chParams [⟨1, 1, n⟩, ⟨4, 1, md⟩, ⟨5, 1, ph⟩, ⟨6, 1, fa⟩, ⟨7, 1, ff⟩, ⟨8, 1, dt⟩, ⟨9, 4, vg⟩, ⟨10, 2, dm⟩,
        ⟨11, 1, rn⟩, ⟨12, 1, sn⟩, ⟨13, 2, il⟩, ⟨14, 2, rm⟩, ⟨15, 2, cm⟩, ⟨16, 2, sr⟩, ⟨17, 2, zt⟩, ⟨18, 2, mr⟩, ⟨19, 2, dth⟩, ⟨20, 2, dti⟩,
        ⟨21, 1, om⟩, ⟨22, 1, bc⟩] = none := by
      refine State.refuses_none (tys := [1, 4, 5, 6, 7, 8, 9, 10, 11, 12, 13, 14, 15, 16, 17, 18, 19, 20, 21, 22]) hb ?_ rfl (by decide) rfl
      simp only [List.forall_mem_cons, List.not_mem_nil, false_implies, implies_true, and_true]
      refine ⟨tlvOk_of rfl rfl ⟨Nat.zero_le _, ?_⟩ rfl, tlvOk_of rfl rfl ⟨Nat.zero_le _, ?_⟩ rfl, tlvOk_of rfl rfl ⟨Nat.zero_le _, ?_⟩ rfl,
        tlvOk_of rfl rfl ⟨Nat.zero_le _, ?_⟩ rfl, tlvOk_of rfl rfl ⟨Nat.zero_le _, ?_⟩ rfl, tlvOk_of rfl rfl ⟨Nat.zero_le _, ?_⟩ rfl,
        tlvOk_signed rfl rfl ⟨Nat.zero_le _, ?_⟩ (signedCode_of hvg), tlvOk_of rfl rfl ⟨Nat.zero_le _, ?_⟩ rfl, tlvOk_of rfl rfl ⟨Nat.zero_le _, ?_⟩ rfl,
        tlvOk_of rfl rfl ⟨Nat.zero_le _, ?_⟩ rfl, tlvOk_of rfl rfl ⟨Nat.zero_le _, ?_⟩ rfl, tlvOk_of rfl rfl ⟨Nat.zero_le _, ?_⟩ rfl,
        tlvOk_of rfl rfl ⟨Nat.zero_le _, ?_⟩ rfl, tlvOk_of rfl rfl ⟨Nat.zero_le _, ?_⟩ rfl, tlvOk_of rfl rfl ⟨Nat.zero_le _, ?_⟩ rfl,
        tlvOk_of rfl rfl ⟨Nat.zero_le _, ?_⟩ rfl, tlvOk_of rfl rfl ⟨Nat.zero_le _, ?_⟩ rfl, tlvOk_of rfl rfl ⟨Nat.zero_le _, ?_⟩ rfl,
        tlvOk_of rfl rfl ⟨Nat.zero_le _, ?_⟩ rfl, tlvOk_of rfl rfl ⟨Nat.zero_le _, ?_⟩ rfl⟩ <;> simp only [preq, popt, psig] <;> omega
    obtain ⟨t, ht, hrest, hcmd, hget, hcfg, hkeep⟩ := ampChSet_writes h hn hp rfl rfl rfl hi
    have hat := fun j f v hf hv (hlt : v < 2 ^ f.fld.w) => (hget j f v hf hv).trans (Nat.mod_eq_of_lt hlt)
    refine ⟨t, ht, hrest, hcmd, (hat 0 _ _ rfl rfl hmd :), (hat 1 _ _ rfl rfl hph :), (hat 2 _ _ rfl rfl hfa :), (hat 3 _ _ rfl rfl hff :),
      (hat 4 _ _ rfl rfl hdt :), (hget 5 _ _ rfl rfl :), (hat 6 _ _ rfl rfl hdm :), (hat 7 _ _ rfl rfl hrn :), (hat 8 _ _ rfl rfl hsn :),
      (hat 9 _ _ rfl rfl hil :),
      (hat 10 _ _ rfl rfl hrm :), (hat 11 _ _ rfl rfl hcm :), (hat 12 _ _ rfl rfl hsr :), (hat 13 _ _ rfl rfl hzt :), (hat 14 _ _ rfl rfl hmr :),
      (hat 15 _ _ rfl rfl hdth :), (hat 16 _ _ rfl rfl hdti :), (hat 17 _ _ rfl rfl hom :), (hat 18 _ _ rfl rfl hbc :), hcfg, hkeep⟩
  · obtain ⟨t, ht, hrest, hturn, heff, hch⟩ := coefSwapApply_swaps h hn hp hc hall
    exact ⟨t, ht, hrest, hturn, fun j hj => heff _ (mem_coefOf_bq n hj), heff _ (by simp [coefOf]), heff _ (by simp [coefOf]),
      heff _ (by simp [coefOf]), hch⟩
  · obtain ⟨t, ht, hrec, hrest, hwarn, hshut, hre, hdir, hgain, hkeep⟩ := ampQuenchSet_writes hi hrw hws hs hd hg hn hb hia hib
    exact ⟨t, ht, hrec, hrest, hwarn, hshut, hre, hdir, hgain, hkeep⟩

end Sys2Proof.Machine

end

