-- ==== Sys2Proof/Proofs/Memtest.lean ====
section

namespace Sys2Proof.Machine

/-! ## NC512 commands (R388) -/

theorem n5Run_inr {op n : Nat} {f : List Byte → State → Reply ⊕ State} {r : Req} {p : List Byte} {s t : State} (hb : s.barred op r = none)
    (hl : p.length = (n + 3) / 4 * 4) (hf : f p s = .inr t) : n5Run op n f r p s = .next t := by
  simp [n5Run, hb, hl, hf]

theorem n5Run_inl {op n : Nat} {f : List Byte → State → Reply ⊕ State} {r : Req} {p : List Byte} {s : State} {rep : Reply}
    (hb : s.barred op r = none) (hl : p.length = (n + 3) / 4 * 4) (hf : f p s = .inl rep) : n5Run op n f r p s = .next (s.finish r op rep) := by
  simp [n5Run, hb, hl, hf]

/-- Parameters of another length than the layout's (R388; the model's choice, log entry 44). -/
theorem n5Run_badLength {op n : Nat} {f : List Byte → State → Reply ⊕ State} {r : Req} {p : List Byte} {s : State}
    (hb : s.barred op r = none) (hl : p.length ≠ (n + 3) / 4 * 4) :
    n5Run op n f r p s = .next (s.finish r op (Reply.err Status.badLength)) := by
  simp [n5Run, hb, hl]

/-! ### N5_MEMTEST (R484) -/

/-- The registers of a run that is accepted (R478). -/
def State.noteRun (s : State) (x : CmdRun) : State :=
  ((((((s.set TEST.RUN_SET x.set).set TEST.RUN_UNIT x.unit).set TEST.RUN_MODE x.mode).setOn TEST.RUN_REFERENCE x.ref).set TEST.RUN_DONE 0).set
    TEST.RUN_OUTCOME 1).set TEST.STATUS_CMD_RUN 1

theorem State.beginRun_eq (s : State) (x : CmdRun) : s.beginRun x = ({ s.noteRun x with test := { s.test with run := some x } }).prepareRun := rfl

/-- The fields of a bank's run. -/
def runFlds : List Fld :=
  [TEST.RUN_SET, TEST.RUN_UNIT, TEST.RUN_MODE, TEST.RUN_REFERENCE, TEST.RUN_DONE, TEST.RUN_OUTCOME, TEST.STATUS_CMD_RUN]

theorem State.noteRun_writes (s : State) (x : CmdRun) : State.Writes runFlds s (s.noteRun x) := by
  unfold State.noteRun State.setOn
  refine ((((((State.Writes.set ?_ s _).trans (State.Writes.set ?_ _ _)).trans (State.Writes.set ?_ _ _)).trans (State.Writes.set ?_ _ _)).trans
    (State.Writes.set ?_ _ _)).trans (State.Writes.set ?_ _ _)).trans (State.Writes.set ?_ _ _) <;> simp [runFlds]

theorem bankRole_keys : ∀ u < 9, (∀ g ∈ runFlds, g.key ≠ (roleFld 1 u).key) ∧
    ∀ f ∈ [TEST.STATUS_CMD_RUN, TEST.RUN_OUTCOME], ∀ g ∈ [TEST.SET_UNIT 1, TEST.SET_NEXT_SLICE 1, roleFld 1 u], g.key ≠ f.key := by decide +kernel

/-- The run of N5_MEMTEST on bank `u`, which may still wait for its bank. -/
def bankRun (r : Req) (u : Nat) (wait : Bool) : CmdRun :=
  ⟨r.channel, r.tag, 0x1050, 1, u, 2, true, 0, 0xFFFF, false, false, 0, wait, [], []⟩

/-- On a spare bank that no slice is on it is ready at once, and the bank's role becomes TEST (R478). -/
theorem State.prepareRun_bank {s : State} {r : Req} {u : Nat} (hrun : s.test.run = some (bankRun r u true)) (hrole : s.role 1 u = 1)
    (hs : s.test.slice = none) :
    s.prepareRun = { (s.dropRun 1).set (roleFld 1 u) 2 with
      test := { ((s.dropRun 1).set (roleFld 1 u) 2).test with run := some (bankRun r u false) } } := by
  have hset : ¬ 3 ≤ 1 := by decide
  unfold State.prepareRun
  simp only [hrun, bankRun, Bool.not_true, Bool.false_eq_true, if_false, hset, hrole, hs, false_or, true_or, if_true, OfNat.one_ne_ofNat]

/-- The run of N5_MEMTEST on a spare bank begins. -/
theorem State.beginRun_bank {s : State} {r : Req} {u : Nat} (hu : u < 9) (hrole : s.role 1 u = 1) (hs : s.test.slice = none) :
    ∃ t, s.beginRun (bankRun r u true) = t ∧ t.cmd = s.cmd ∧ t.test = { s.test with run := some (bankRun r u false) } ∧
      t.on TEST.STATUS_CMD_RUN = true ∧ t.get TEST.RUN_OUTCOME = 1 ∧ t.role 1 u = 2 := by
  obtain ⟨hkeys, hafter⟩ := bankRole_keys u hu
  have hnote := s.noteRun_writes (bankRun r u true)
  have hcmd : (s.noteRun (bankRun r u true)).get TEST.STATUS_CMD_RUN = 1 := State.get_set_self _ TEST.STATUS_CMD_RUN 1
  have hout : (s.noteRun (bankRun r u true)).get TEST.RUN_OUTCOME = 1 := by
    unfold State.noteRun
    simp (disch := decide) only [State.get_set_of_ne, State.get_set_self]
    rfl
  rw [State.beginRun_eq]
  generalize s.noteRun (bankRun r u true) = n at *
  have hprep := State.prepareRun_bank (s := { n with test := { s.test with run := some (bankRun r u true) } }) rfl ((hnote.get _ hkeys).trans hrole) hs
  have hw : State.Writes [TEST.SET_UNIT 1, TEST.SET_NEXT_SLICE 1, roleFld 1 u] n ((n.dropRun 1).set (roleFld 1 u) 2) :=
    ((State.Writes.set (by simp) n _).trans (State.Writes.set (by simp) _ _)).trans (State.Writes.set (by simp) _ _)
  have hon := (hw.get _ (hafter _ (.head _))).trans hcmd
  have hout' := (hw.get _ (hafter _ (.tail _ (.head _)))).trans hout
  refine ⟨_, hprep, hnote.cmd, rfl, ?_, hout', State.get_set_self _ (roleFld 1 u) 2⟩
  exact decide_eq_true (fun h0 => absurd (hon.symm.trans h0) (by decide))

theorem bitsOf_two_pow : ∀ u < 9, bitsOf 9 (2 ^ u) = [u] ∧ 2 ^ u < 512 := by decide

/-- N5_MEMTEST of one spare bank. -/
theorem n5Memtest_begins {s : State} {r : Req} {b : List Byte} (hl : b.length = 4) (hb : s.barred 0x1050 r = none) (ha : s.runAllowed 1 = true)
    (hr : s.test.run = none) (hs : s.test.slice = none) {u : Nat} (hu : u < 9) (hm : leAt b 0 2 = 2 ^ u) (hrole : s.role 1 u = 1) :
    ∃ t, Machine.exec (.n5Memtest r b) s = .next t ∧ t.cmd = s.cmd ∧
      t.test = { s.test with run := some ⟨r.channel, r.tag, 0x1050, 1, u, 2, true, 0, 0xFFFF, false, false, 0, false, [], []⟩ } ∧
      t.on TEST.STATUS_CMD_RUN = true ∧ t.get TEST.RUN_OUTCOME = 1 ∧ t.role 1 u = 2 := by
  obtain ⟨hbits, hlt⟩ := bitsOf_two_pow u hu
  obtain ⟨t, ht, hrest⟩ := State.beginRun_bank (r := r) hu hrole hs
  have he : Machine.exec (.n5Memtest r b) s = execN5Memtest r b s := rfl
  refine ⟨t, he.trans ?_, hrest⟩
  unfold execN5Memtest
  refine n5Run_inr hb hl ?_
  have hlt' : ¬ 512 ≤ 2 ^ u := by omega
  simp only [hm, hlt', if_false, ha, hr, Option.isSome_none, Bool.not_true, Bool.false_eq_true, or_self, hbits, ← ht, bankRun]

/-- N5_MEMTEST of no bank (log entry 51). -/
theorem n5Memtest_empty {s : State} {r : Req} {b : List Byte} (hl : b.length = 4) (hb : s.barred 0x1050 r = none) (ha : s.runAllowed 1 = true)
    (hr : s.test.run = none) (hm : leAt b 0 2 = 0) :
    ∃ t rep, Machine.exec (.n5Memtest r b) s = .next t ∧ s.records t r 0x1050 rep ∧ t = { s with cmd := t.cmd } ∧ rep.status = 0 := by
  have he : Machine.exec (.n5Memtest r b) s = execN5Memtest r b s := rfl
  refine ⟨s.finish r 0x1050 ⟨0, 0, 0, 0, 0, [], []⟩, _, he.trans ?_, rfl, rfl, rfl⟩
  unfold execN5Memtest
  refine n5Run_inl hb hl ?_
  simp only [hm, ha, hr, Option.isSome_none, Bool.not_true, Bool.false_eq_true, or_self, if_false]
  rfl

end Sys2Proof.Machine

end

