-- ==== Sys2Proof/Proofs/MixSet.lean ====
section

namespace Sys2Proof.Machine

/-! ### N5_MIX_SET (R390) -/

theorem State.mirrorEntries_of_alone {s : State} (h : s.mirrors = false) (due n : Nat) (es : List TblEntry) : s.mirrorEntries due n es = s := by
  induction n generalizing es with
  | zero => rfl
  | succ n ih =>
    unfold State.mirrorEntries
    split
    · rfl
    · rw [State.mirror_of_alone h, ih]

/-- A commit that no peer is told of. -/
theorem State.addCommit_of_alone {s : State} (h : s.mirrors = false) (list chan : Nat) (es more : List TblEntry) (reply : Option Result) :
    s.addCommit list chan es more reply =
      { s with anvil := { s.anvil with commits := s.anvil.commits ++ [⟨list, es, s.cycles, s.duePass, chan, reply, more⟩] } } :=
  State.mirrorEntries_of_alone (s := { s with anvil := { s.anvil with commits := s.anvil.commits ++ [⟨list, es, s.cycles, s.duePass, chan, reply, more⟩] } })
    h _ _ _

theorem State.future_of_none {s : State} (h : s.anvil.commits = []) : s.future = s := by simp [State.future, h]

/-- BUS_SET whose entries stand the check and go in one commit. -/
theorem execBusSet_of {s : State} {r : Req} {p : List Tlv} {runs : List (List Tlv)} {es : List TblEntry} (hp : s.refuses r 0x0604 busSetParams p = none)
    (hr : entryRuns [4, 5, 6] p = some runs) (hc : s.anvil.commits = []) (hm : s.mirrors = false) (he : s.busEntries p runs = .inr es)
    (hlen : es.length ≤ 1024) (hchk : (s.applyEntries s es).tblCheck.1 = 0) :
    execBusSet r p s = .next { s with anvil := { s.anvil with commits := s.anvil.commits ++
      [⟨1, es, s.cycles, s.duePass, r.channel, some ⟨r.channel, r.tag, 0x0604, Reply.ok []⟩, []⟩] } } := by
  unfold execBusSet
  have hcut : cutEntries es = (es, []) := if_pos hlen
  simp only [hp, hr, State.future_of_none hc, he, hchk, ne_eq, not_true_eq_false, if_false, hcut, State.addCommit_of_alone hm]

/-- A gain in Q2.14 as the 24 bits of Q3.20. -/
theorem n5Gain_mod (x : Nat) : n5Gain x % 2 ^ 32 % 2 ^ 24 = ofSigned 24 (toSigned 16 x * 64) := by
  unfold n5Gain ofSigned
  omega

/-- Such a gain stands sign-extended in its TLV. -/
theorem n5Gain_signed (x : Nat) : n5Gain x % 2 ^ 32 < 2 ^ 23 ∨ (2 ^ 32 - 2 ^ 23 ≤ n5Gain x % 2 ^ 32 ∧ n5Gain x % 2 ^ 32 < 2 ^ 32) := by
  unfold n5Gain ofSigned toSigned
  dsimp only
  split <;> omega

/-- The parameters of BUS_SET for a bus without terms, and the run of one term. -/
def mixTlvs (bus en : Nat) : List Tlv := [tlv 1 1 bus, tlv 2 1 en, tlv 3 1 0]
def mixRun (src gain : Nat) : List Tlv := [tlv 4 2 src, tlv 5 4 (n5Gain gain), tlv 6 2 0]

theorem mixTlvs_ok {s : State} {r : Req} (hb : s.barred 0x0604 r = none) (bus : Nat) :
    s.refuses r 0x0604 busSetParams (mixTlvs bus 0) = none := by
  refine State.refuses_none (tys := [1, 2, 3]) hb ?_ rfl (by decide) rfl
  simp only [mixTlvs, tlv, List.forall_mem_cons, List.not_mem_nil, false_implies, implies_true, and_true]
  exact ⟨tlvOk_of rfl rfl ⟨Nat.zero_le _, Nat.le_sub_one_of_lt (Nat.mod_lt _ (by decide))⟩ rfl, tlvOk_of rfl rfl (by decide) rfl,
    tlvOk_of rfl rfl (by decide) rfl⟩

theorem mixRun_ok {s : State} {r : Req} (hb : s.barred 0x0604 r = none) (bus gain : Nat) {src : Nat} (hs : src < 512) :
    s.refuses r 0x0604 busSetParams (mixTlvs bus 1 ++ mixRun src gain) = none := by
  refine State.refuses_none (tys := [1, 2, 3, 4, 5, 6]) hb ?_ rfl (by decide) rfl
  simp only [mixTlvs, mixRun, tlv, List.cons_append, List.nil_append, List.forall_mem_cons, List.not_mem_nil, false_implies, implies_true, and_true]
  exact ⟨tlvOk_of rfl rfl ⟨Nat.zero_le _, Nat.le_sub_one_of_lt (Nat.mod_lt _ (by decide))⟩ rfl, tlvOk_of rfl rfl (by decide) rfl,
    tlvOk_of rfl rfl (by decide) rfl, tlvOk_of rfl rfl ⟨Nat.zero_le _, le_trans (Nat.mod_le _ _) (by simp only [prep]; omega)⟩ rfl,
    tlvOk_signed rfl rfl ⟨Nat.zero_le _, Nat.le_sub_one_of_lt (Nat.mod_lt _ (by decide))⟩ (signedCode_of (n5Gain_signed gain)),
    tlvOk_of rfl rfl (by decide) rfl⟩

/-- No term: the bus keeps its terms and is not enabled. -/
theorem busEntries_none {s : State} {bus : Nat} (h : bus < 256) :
    s.busEntries (mixTlvs bus 0) [] = .inr [⟨2, bus, s.get (BUS.TERM_COUNT bus) * 2 ^ 16 + s.get (BUS.TERM_BASE bus), 0, 0, false, none⟩] := by
  have hv : Params.val (mixTlvs bus 0) 1 = bus := Nat.mod_eq_of_lt h
  have h2 : Params.val? (mixTlvs bus 0) 2 = some 0 := rfl
  have h3 : Params.val? (mixTlvs bus 0) 3 = some 0 := rfl
  simp [State.busEntries, hv, h2, h3]

/-- One term in the range that the bus has. -/
theorem busEntries_one {s : State} {bus src gain : Nat} (h : bus < 256) (hs : src < 512) (hc : 1 ≤ s.get (BUS.TERM_COUNT bus)) :
    s.busEntries (mixTlvs bus 1 ++ mixRun src gain) [mixRun src gain] =
      .inr [⟨1, s.get (BUS.TERM_BASE bus), src, ofSigned 24 (toSigned 16 gain * 64), 0, false, none⟩,
        ⟨2, bus, 2 ^ 31 + 2 ^ 16 + s.get (BUS.TERM_BASE bus), 0, 0, false, none⟩] := by
  have hv : Params.val (mixTlvs bus 1 ++ mixRun src gain) 1 = bus := Nat.mod_eq_of_lt h
  have h2 : Params.val? (mixTlvs bus 1 ++ mixRun src gain) 2 = some 1 := rfl
  have h3 : Params.val? (mixTlvs bus 1 ++ mixRun src gain) 3 = some 0 := rfl
  have h4 : Params.val? (mixRun src gain) 4 = some src := congrArg some (Nat.mod_eq_of_lt (by omega : src < 2 ^ 16))
  have h5 : Params.val? (mixRun src gain) 5 = some (n5Gain gain % 2 ^ 32) := rfl
  have h6 : Params.val? (mixRun src gain) 6 = some 0 := rfl
  simp only [State.busEntries, hv, h2, h3, List.length_singleton, if_pos hc, termRun, List.zipIdx_cons, List.zipIdx_nil,
    List.map_cons, List.map_nil, h4, h5, h6, Option.getD_some, n5Gain_mod]
  simp

/-- N5_MIX_SET whose BUS_SET adds a commit. -/
theorem n5MixSet_of {s t : State} {r : Req} {b : List Byte} (hb : s.barred 0x1004 r = none) (hl : b.length = (2 + 4 * leAt b 1 1 + 3) / 4 * 4)
    (hbus : leAt b 0 1 ≤ 63) (hn : leAt b 1 1 ≤ 16)
    (hs : ((List.range (leAt b 1 1)).map (fun k => n5Source (leAt b (2 + 4 * k) 2))).all Option.isSome = true)
    (he : execBusSet r (mixTlvs (leAt b 0 1) (if leAt b 1 1 = 0 then 0 else 1) ++
      (((List.range (leAt b 1 1)).map (fun k => n5Source (leAt b (2 + 4 * k) 2))).filterMap id).zipIdx.flatMap
        (fun x => mixRun x.1 (leAt b (4 + 4 * x.2) 2))) s = .next t) :
    Machine.exec (.n5MixSet r b) s = .next t := by
  have hexec : Machine.exec (.n5MixSet r b) s = execN5MixSet r b s := rfl
  rw [hexec]
  unfold execN5MixSet
  refine n5Run_inr hb hl ?_
  have hno : ¬ (63 < leAt b 0 1 ∨ 16 < leAt b 1 1 ∨
      (!((List.range (leAt b 1 1)).map (fun k => n5Source (leAt b (2 + 4 * k) 2))).all Option.isSome) = true) := by
    rw [hs]
    simp [hbus, hn]
  exact (if_neg hno).trans (congrArg (fun o => Sum.inr (nextOf s o)) he)

theorem n5MixSet_none {s : State} {r : Req} {b : List Byte} (hb : s.barred 0x1004 r = none) (hb' : s.barred 0x0604 r = none)
    (hc : s.anvil.commits = []) (hm : s.mirrors = false) (hbus : leAt b 0 1 ≤ 63) (hn : leAt b 1 1 = 0) (hl : b.length = 4)
    (hchk : (s.applyEntries s [⟨2, leAt b 0 1, s.get (BUS.TERM_COUNT (leAt b 0 1)) * 2 ^ 16 + s.get (BUS.TERM_BASE (leAt b 0 1)), 0, 0, false,
      none⟩]).tblCheck.1 = 0) :
    Machine.exec (.n5MixSet r b) s = .next { s with anvil := { s.anvil with commits := s.anvil.commits ++
      [⟨1, [⟨2, leAt b 0 1, s.get (BUS.TERM_COUNT (leAt b 0 1)) * 2 ^ 16 + s.get (BUS.TERM_BASE (leAt b 0 1)), 0, 0, false, none⟩], s.cycles,
        s.duePass, r.channel, some ⟨r.channel, r.tag, 0x0604, Reply.ok []⟩, []⟩] } } := by
  refine n5MixSet_of hb (by rw [hn, hl]) hbus (by omega) (by rw [hn]; rfl) ?_
  rw [hn]
  exact execBusSet_of (mixTlvs_ok hb' (leAt b 0 1)) rfl hc hm (busEntries_none (by omega)) (by simp) hchk

theorem n5MixSet_one {s : State} {r : Req} {b : List Byte} (hb : s.barred 0x1004 r = none) (hb' : s.barred 0x0604 r = none)
    (hc : s.anvil.commits = []) (hm : s.mirrors = false) (hbus : leAt b 0 1 ≤ 63) (hn : leAt b 1 1 = 1) (hl : b.length = 8)
    (hsrc : leAt b 2 2 < 512) (hcount : 1 ≤ s.get (BUS.TERM_COUNT (leAt b 0 1)))
    (hchk : (s.applyEntries s [⟨1, s.get (BUS.TERM_BASE (leAt b 0 1)), leAt b 2 2, ofSigned 24 (toSigned 16 (leAt b 4 2) * 64), 0, false, none⟩,
      ⟨2, leAt b 0 1, 2 ^ 31 + 2 ^ 16 + s.get (BUS.TERM_BASE (leAt b 0 1)), 0, 0, false, none⟩]).tblCheck.1 = 0) :
    Machine.exec (.n5MixSet r b) s = .next { s with anvil := { s.anvil with commits := s.anvil.commits ++
      [⟨1, [⟨1, s.get (BUS.TERM_BASE (leAt b 0 1)), leAt b 2 2, ofSigned 24 (toSigned 16 (leAt b 4 2) * 64), 0, false, none⟩,
          ⟨2, leAt b 0 1, 2 ^ 31 + 2 ^ 16 + s.get (BUS.TERM_BASE (leAt b 0 1)), 0, 0, false, none⟩], s.cycles,
        s.duePass, r.channel, some ⟨r.channel, r.tag, 0x0604, Reply.ok []⟩, []⟩] } } := by
  have hone : n5Source (leAt b 2 2) = some (leAt b 2 2) := if_pos hsrc
  have hsrcs : (List.range 1).map (fun k => n5Source (leAt b (2 + 4 * k) 2)) = [some (leAt b 2 2)] := by
    rw [List.range_one, List.map_singleton, ← hone]
  refine n5MixSet_of hb (by rw [hn, hl]) hbus (by omega) (by rw [hn, hsrcs]; rfl) ?_
  rw [hn, hsrcs]
  exact execBusSet_of (mixRun_ok hb' (leAt b 0 1) (leAt b 4 2) hsrc) rfl hc hm (busEntries_one (by omega) hsrc hcount) (by simp) hchk

end Sys2Proof.Machine

end

