-- ==== Sys2Proof/Proofs/ClockRef.lean ====
section

namespace Sys2Proof.Machine

/-! ### N5_CLOCK_REF (R390) -/

/-- From `s` to `t` the command processor stays, and so does every field whose key `P` does not accept. -/
structure State.Calm (P : Nat → Bool) (s t : State) : Prop where
  cmd : t.cmd = s.cmd
  get : ∀ f : Fld, P f.key = false → t.get f = s.get f

namespace State.Calm

variable {P Q : Nat → Bool} {s t u : State}

theorem refl (P : Nat → Bool) (s : State) : Calm P s s := ⟨rfl, fun _ _ => rfl⟩

theorem trans (a : Calm P s t) (b : Calm P t u) : Calm P s u := ⟨b.cmd.trans a.cmd, fun f h => (b.get f h).trans (a.get f h)⟩

theorem mono (h : ∀ k, P k = true → Q k = true) (a : Calm P s t) : Calm Q s t :=
  ⟨a.cmd, fun f hf => a.get f (Bool.eq_false_of_not_eq_true (fun hp => absurd (h _ hp) (by simp [hf])))⟩

theorem set {f : Fld} (h : P f.key = true) (s : State) (v : Nat) : Calm P s (s.set f v) :=
  ⟨rfl, fun _ hg => State.get_set_of_ne _ (fun e => by rw [e, hg] at h; cases h) _⟩

/-- A step that leaves the registers and the command processor. -/
theorem of_eq (P : Nat → Bool) {s t : State} (hr : t.regs = s.regs) (hc : t.cmd = s.cmd) : Calm P s t :=
  ⟨hc, fun f _ => State.get_congr hr f⟩

theorem event (h : State.EventStep P s t) : Calm P s t := ⟨h.cmd, h.get⟩

theorem of_side (h : State.Side P s t) : Calm P s t := ⟨by rw [h.rest], h.get⟩

theorem of_writes {l : List Fld} (a : State.Writes l s t) (h : ∀ f ∈ l, P f.key = true) : Calm P s t :=
  ⟨a.cmd, fun f hf => a.get f (fun g hg e => by have := h g hg; rw [e, hf] at this; cases this)⟩

theorem ite {c : Prop} [Decidable c] (a : Calm P s t) (b : Calm P s u) : Calm P s (if c then t else u) := by
  split
  · exact a
  · exact b

theorem foldl {α : Type} {g : State → α → State} {xs : List α} (h : ∀ s, ∀ a ∈ xs, Calm P s (g s a)) (s : State) : Calm P s (xs.foldl g s) := by
  induction xs generalizing s with
  | nil => exact refl P s
  | cons a xs ih => exact (h s a (List.mem_cons_self ..)).trans (ih (fun s b hb => h s b (List.mem_cons_of_mem _ hb)) _)

/-- An event that sets a flag of a block's INT. -/
theorem signal {int : Fld} (hi : P int.key = true) (he : ∀ k, eventKey k = true → P k = true) (s : State) (en : Fld) (i c b u : Nat)
    (d : List Byte) : Calm P s (s.signal int en i c b u d) := by
  unfold State.signal
  exact ite ((set hi s _).trans ((event (State.raise_event _ c b u d)).mono he)) (set hi s _)

end State.Calm

/-- What follows the ranks of DPLL0: its status fields, the block's flags and events. -/
def dpllKey (k : Nat) : Bool :=
  eventKey k || [CLK.INT, CLK.DPLL_WTR_RUN 0, CLK.DPLL_REF_DISAGREE 0, CLK.DPLL_HO_IN_SPEC 0].any (fun f => f.key == k)

theorem State.disagree_calm (s : State) : State.Calm dpllKey s (s.disagree 0) := by
  unfold State.disagree
  extract_lets l k v diff now was s1
  have h1 : State.Calm dpllKey s s1 := State.Calm.set (by decide) s _
  exact State.Calm.ite (h1.trans (State.Calm.signal (by decide) (fun k hk => by simp [dpllKey, hk]) _ _ _ _ _ _ _)) h1

/-- The ranks of DPLL0 are written. -/
def State.putRanks (s : State) (v : Nat) : State := (List.range 8).foldl (fun s n => s.set (CLK.DPLL_RANK 0 n) (v / 16 ^ n)) s

/-- Of fields written one after the other, each reads the value written to it. -/
theorem State.get_foldl_set {α : Type} {F : α → Fld} {V : α → Nat} {xs : List α} (hnd : (xs.map (fun a => (F a).key)).Nodup) {a : α} (ha : a ∈ xs)
    (s : State) : (xs.foldl (fun s a => s.set (F a) (V a)) s).get (F a) = V a % 2 ^ (F a).w := by
  induction xs generalizing s with
  | nil => cases ha
  | cons b xs ih =>
    rw [List.map_cons, List.nodup_cons, List.mem_map] at hnd
    rcases List.mem_cons.1 ha with rfl | ha'
    · have hrest : State.Writes (xs.map F) (s.set (F a) (V a)) (xs.foldl (fun s a => s.set (F a) (V a)) (s.set (F a) (V a))) :=
        State.Writes.foldl (fun s b hb => State.Writes.set (List.mem_map_of_mem hb) s _) _
      rw [List.foldl_cons, hrest.get _ ?_, State.get_set_self]
      intro g hg he
      obtain ⟨c, hc, rfl⟩ := List.mem_map.1 hg
      exact hnd.1 ⟨c, hc, he⟩
    · exact ih hnd.2 ha' _

theorem rank_keys : ((List.range 8).map (fun n => (CLK.DPLL_RANK 0 n).key)).Nodup := by decide +kernel

theorem State.get_putRanks (s : State) (v : Nat) {n : Nat} (hn : n < 8) : (s.putRanks v).get (CLK.DPLL_RANK 0 n) = v / 16 ^ n % 16 := by
  have hw : 2 ^ (CLK.DPLL_RANK 0 n).w = 16 := rfl
  have hget := State.get_foldl_set (F := CLK.DPLL_RANK 0) (V := fun n => v / 16 ^ n) rank_keys (List.mem_range.2 hn) s
  rw [hw] at hget
  unfold State.putRanks
  rw [hget]

theorem State.setDpll_calm (P : Nat → Bool) (s : State) (d : Nat) (x : DpllState) : State.Calm P s (s.setDpll d x) := State.Calm.of_eq P rfl rfl

theorem State.ranksWrite_calm (s : State) (v : Nat) : State.Calm dpllKey (s.putRanks v) (s.ranksWrite 0 v) := by
  unfold State.ranksWrite State.putRanks
  extract_lets s1 s2
  have h2 : State.Calm dpllKey s1 s2 :=
    State.Calm.foldl (fun s n _ => State.Calm.ite (State.Calm.refl _ _) (State.setDpll_calm _ _ _ _)) s1
  have h3 : State.Calm dpllKey s2 ((s2.setDpll 0 { s2.dpll 0 with moved := true }).wtrRun 0) :=
    (State.setDpll_calm _ _ _ _).trans (State.Calm.set (by decide) _ _)
  exact (h2.trans h3).trans (State.disagree_calm _)

/-- CFG_ERR of every port and ASRC_CH of every group. -/
def tdmStatusFlds : List Fld := (List.range 32).map TDM.P_CFG_ERR ++ (List.range 4).map TDM.G_ASRC_CH

theorem State.tdmStatus_writes (s : State) : State.Writes tdmStatusFlds s s.tdmStatus := by
  unfold State.tdmStatus State.setOn
  refine State.Writes.trans (State.Writes.foldl (fun t p hp => ?_) s) (State.Writes.foldl (fun t g hg => ?_) _)
  · exact State.Writes.set (List.mem_append_left _ (List.mem_map_of_mem hp)) t _
  · exact State.Writes.set (List.mem_append_right _ (List.mem_map_of_mem hg)) t _

/-- Digits to the base 16 in one number, and back. -/
theorem digits_of_sum (m : Nat) {a : Nat → Nat} (ha : ∀ n < m, a n < 16) : ∀ n < m, ((List.range m).map (fun n => a n * 16 ^ n)).sum / 16 ^ n % 16 = a n := by
  induction m generalizing a with
  | zero => exact fun n hn => absurd hn (Nat.not_lt_zero n)
  | succ m ih =>
    intro n hn
    have hsplit : ((List.range (m + 1)).map (fun n => a n * 16 ^ n)).sum = a 0 + 16 * ((List.range m).map (fun n => a (n + 1) * 16 ^ n)).sum := by
      rw [List.range_succ_eq_map, List.map_cons, List.sum_cons, pow_zero, mul_one, List.map_map, ← List.sum_map_mul_left]
      congr 2
      exact List.map_congr_left (fun k _ => by simp only [Function.comp_apply, Nat.succ_eq_add_one]; ring)
    have h0 := ha 0 (Nat.succ_pos m)
    rw [hsplit]
    cases n with
    | zero => rw [pow_zero, Nat.div_one]; omega
    | succ n =>
      rw [pow_succ', ← Nat.div_div_eq_div_mul, Nat.add_mul_div_left _ _ (by decide), Nat.div_eq_of_lt h0, Nat.zero_add]
      exact ih (fun k hk => ha (k + 1) (Nat.succ_lt_succ hk)) n (Nat.lt_of_succ_lt_succ hn)

/-- The ranks of references 0 to 6, and the exclusion of reference 7, as DPLL_SET's parameters. -/
def clockTlvs (b : List Byte) : List Tlv :=
  tlv 1 1 0 :: tlv 4 1 15 :: (List.range 7).map (fun k => tlv (5 + k) 1 (leAt b (6 - k) 1))

/-- The rank that they give reference `n`. -/
def clockRank (b : List Byte) (n : Nat) : Nat := if n = 7 then 15 else leAt b n 1

theorem clockRank_lt {b : List Byte} (h : ∀ n, n < 7 → leAt b n 1 < 16) : ∀ n < 8, clockRank b n < 16 := by
  intro n hn
  unfold clockRank
  split
  · decide
  · exact h n (by omega)

theorem clockTlvs_val (b : List Byte) : ∀ n < 8, Params.val? (clockTlvs b) (11 - n) = some (clockRank b n % 2 ^ 8) := by
  intro n hn
  interval_cases n <;> rfl

theorem clockTlvs_ok {s : State} {r : Req} {b : List Byte} (hb : s.barred 0x0304 r = none) (h : ∀ n, n < 7 → leAt b n 1 < 16) :
    s.refuses r 0x0304 dpllSetParams (clockTlvs b) = none := by
  have hfind : ∀ k < 7, dpllSetParams.find? (fun q => q.ty == 5 + k) = some (popt (5 + k) 1 0 15) := by decide
  refine State.refuses_none (tys := [1, 4, 5, 6, 7, 8, 9, 10, 11]) hb ?_ rfl (by decide) rfl
  simp only [clockTlvs, List.forall_mem_cons, List.forall_mem_map, List.mem_range]
  refine ⟨tlvOk_of rfl rfl (by decide) rfl, tlvOk_of rfl rfl (by decide) rfl, fun k hk => tlvOk_of (hfind k hk) rfl ⟨Nat.zero_le _, ?_⟩ rfl⟩
  exact le_trans (Nat.mod_le _ _) (Nat.le_of_lt_succ (h (6 - k) (by omega)))

/-- The word of the ranks. -/
theorem State.ranksOf_clock (s : State) {b : List Byte} (h : ∀ n, n < 7 → leAt b n 1 < 16) :
    s.ranksOf 0 (clockTlvs b) = ((List.range 8).map (fun n => clockRank b n * 16 ^ n)).sum := by
  unfold State.ranksOf
  congr 1
  refine List.map_congr_left (fun n hn => ?_)
  have hn' := List.mem_range.1 hn
  rw [clockTlvs_val b n hn', Option.getD_some, Nat.mod_eq_of_lt (lt_trans (clockRank_lt h n hn') (by decide))]

/-- DPLL_SET of DPLL0's ranks alone. -/
theorem dpllSetBody_clock (s : State) (b : List Byte) : ∃ u : State, u.cmd = s.cmd ∧
    dpllSetBody (clockTlvs b) s = (Reply.ok [], ((u.ranksWrite 0 (u.ranksOf 0 (clockTlvs b))).wtrRun 0).hoInSpec 0) := by
  have h2 : Params.val? (clockTlvs b) 2 = none := rfl
  have h3 : Params.val? (clockTlvs b) 3 = none := rfl
  have h13 : Params.val? (clockTlvs b) 13 = none := rfl
  have hany : (List.range 8).any (fun n => Params.has (clockTlvs b) (4 + n)) = true := rfl
  have hd : Params.val (clockTlvs b) 1 = 0 := rfl
  refine ⟨((writeFlds s (clockTlvs b) (dpllSetFlds 0)).set (CLK.DPLL_FAMILY 0) (s.get (CLK.DPLL_FAMILY 0))).tdmStatus, ?_, ?_⟩
  · rw [(State.tdmStatus_writes _).cmd, State.cmd_set, writeFlds_rest]
  · simp only [dpllSetBody, hd, h2, h3, h13, hany, Option.getD_none, bne_self_eq_false, Bool.false_and, Bool.false_eq_true, if_false, if_true,
      reduceCtorEq, and_false]

theorem rank_calm : ∀ n < 8, dpllKey (CLK.DPLL_RANK 0 n).key = false := by decide +kernel

theorem State.cmd_putRanks (s : State) (v : Nat) : (s.putRanks v).cmd = s.cmd := by
  unfold State.putRanks
  exact (State.Calm.foldl (P := fun _ => true) (fun s n _ => State.Calm.set rfl s _) s).cmd

/-- The ranks and all that follows them. -/
theorem State.ranksDone_calm (s : State) (v : Nat) : State.Calm dpllKey (s.putRanks v) (((s.ranksWrite 0 v).wtrRun 0).hoInSpec 0) :=
  ((s.ranksWrite_calm v).trans (State.Calm.set (by decide) _ _)).trans (State.Calm.set (by decide) _ _)

/-- DPLL_SET of the ranks alone leaves them as given. -/
theorem dpllSet_clock {s : State} {r : Req} {b : List Byte} (h : ∀ n, n < 7 → leAt b n 1 < 16) (hb : s.barred 0x0304 r = none) :
    ∃ u : State, execDpllSet r (clockTlvs b) s = .next (u.finish r 0x0304 (Reply.ok [])) ∧ u.cmd = s.cmd ∧
      ∀ n < 8, u.get (CLK.DPLL_RANK 0 n) = clockRank b n := by
  obtain ⟨u, hu, hbody⟩ := dpllSetBody_clock s b
  have hcalm := u.ranksDone_calm (u.ranksOf 0 (clockTlvs b))
  refine ⟨_, runCmd_of (clockTlvs_ok hb h) hbody, hcalm.cmd.trans ((State.cmd_putRanks _ _).trans hu), fun n hn => ?_⟩
  rw [hcalm.get _ (rank_calm n hn), State.get_putRanks _ _ hn, State.ranksOf_clock u h]
  exact digits_of_sum 8 (clockRank_lt h) n hn

/-- N5_CLOCK_REF sets the ranks of DPLL0, and excludes reference 7. -/
theorem n5ClockRef_ranks {s : State} {r : Req} {b : List Byte} (hl : b.length = 8) (h : ∀ n, n < 7 → leAt b n 1 < 16)
    (hb : s.barred 0x1030 r = none) (hb' : s.barred 0x0304 r = none) :
    ∃ t, Machine.exec (.n5ClockRef r b) s = .next t ∧ s.records t r 0x0304 (Reply.ok []) ∧ ∀ n < 8, t.get (CLK.DPLL_RANK 0 n) = clockRank b n := by
  obtain ⟨u, hset, hcmd, hrank⟩ := dpllSet_clock (r := r) h hb'
  have he : Machine.exec (.n5ClockRef r b) s = execN5ClockRef r b s := rfl
  refine ⟨u.finish r 0x0304 (Reply.ok []), ?_, ?_, hrank⟩
  · rw [he]
    unfold execN5ClockRef
    exact n5Run_inr hb hl (congrArg (fun o => Sum.inr (nextOf s o)) hset)
  · unfold State.records State.finish
    rw [hcmd]

end Sys2Proof.Machine

end

