-- ==== Sys2Proof/Proofs/TdmInputs.lean ====
section

namespace Sys2Proof.Machine

/-! ### N5_TDM_PORT (R390) -/

/-- A command's second half follows where the first has recorded OK and left the rest of the command processor. -/
theorem State.andThen_ok {s u : State} {a b : State → State} {r : Req} {op : Nat} {l : List Byte} (ha : a s = u.finish r op (Reply.ok l))
    (hc : u.cmd = s.cmd) : s.andThen a b = b u := by
  have hdrop : (u.finish r op (Reply.ok l)).cmd.results.drop s.cmd.results.length = [⟨r.channel, r.tag, op, Reply.ok l⟩] := by
    simp [State.finish, hc]
  have hback : ({ u.finish r op (Reply.ok l) with cmd := { (u.finish r op (Reply.ok l)).cmd with results := s.cmd.results } } : State) = u := by
    rw [← hc]
    rfl
  unfold State.andThen
  simp only [ha, hdrop]
  rw [if_pos (by rfl), hback]

/-- What bars a request is read in these fields. -/
def barFlds : List Fld := [LIFE.STATUS_LC_STATE, SYS.STATUS_RECOVERY, ORB.STATUS_ROLE_STRAP, ORB.STATUS_JOIN_STATE, PAIR.STATUS_ROLE]

theorem State.barred_congr {s t : State} (hc : t.cmd = s.cmd) (hb : t.boot = s.boot) (hg : ∀ f ∈ barFlds, t.get f = s.get f) (op : Nat) (r : Req) :
    t.barred op r = s.barred op r := by
  simp only [barFlds, List.forall_mem_cons, List.not_mem_nil, false_implies, implies_true, and_true] at hg
  obtain ⟨hlc, hrec, hstrap, hjoin, hrole⟩ := hg
  simp only [State.barred, State.chanPriv, State.on, State.inCluster, State.isMoon, State.standsBy, hc, hb, hlc, hrec, hstrap, hjoin, hrole]
  rfl

theorem State.noStart_congr {s t : State} (ht : t.test = s.test) (hg : ∀ f ∈ barFlds, t.get f = s.get f) (set unit : Nat) :
    t.noStart set unit = s.noStart set unit := by
  simp only [State.noStart, State.lifecycle, State.on, State.underRun, ht, hg LIFE.STATUS_LC_STATE (by simp [barFlds]),
    hg SYS.STATUS_RECOVERY (by simp [barFlds])]

/-- What CFG_ERR and the room of a port's group are computed from, but for the ports' states. -/
def tdmInputs : List Fld := List.flatten
  [(List.range 32).flatMap (fun p => [TDM.P_FORMAT p, TDM.P_SLOTS p, TDM.P_SW p, TDM.P_WL p, TDM.P_RX_MASK p, TDM.P_TX_MASK p]),
    (List.range 4).flatMap (fun g => [TDM.G_MODE g, TDM.G_CLK_SRC g, TDM.G_RATE g, TDM.G_LEAD g, TDM.G_FAMILY g]),
    (List.range 4).flatMap (fun d => [CLK.DPLL_ENABLE d, CLK.DPLL_FAMILY d])]

theorem port_mem_tdmInputs {p : Nat} (h : p < 32) :
    ∀ f ∈ [TDM.P_FORMAT p, TDM.P_SLOTS p, TDM.P_SW p, TDM.P_WL p, TDM.P_RX_MASK p, TDM.P_TX_MASK p], f ∈ tdmInputs :=
  fun _ hf => List.mem_flatten.2 ⟨_, .head _, List.mem_flatMap.2 ⟨p, List.mem_range.2 h, hf⟩⟩

theorem group_mem_tdmInputs {g : Nat} (h : g < 4) :
    ∀ f ∈ [TDM.G_MODE g, TDM.G_CLK_SRC g, TDM.G_RATE g, TDM.G_LEAD g, TDM.G_FAMILY g], f ∈ tdmInputs :=
  fun _ hf => List.mem_flatten.2 ⟨_, .tail _ (.head _), List.mem_flatMap.2 ⟨g, List.mem_range.2 h, hf⟩⟩

theorem dpll_mem_tdmInputs {d : Nat} (h : d < 4) : ∀ f ∈ [CLK.DPLL_ENABLE d, CLK.DPLL_FAMILY d], f ∈ tdmInputs :=
  fun _ hf => List.mem_flatten.2 ⟨_, .tail _ (.tail _ (.head _)), List.mem_flatMap.2 ⟨d, List.mem_range.2 h, hf⟩⟩

section
variable {s t : State} (h : ∀ f ∈ tdmInputs, t.get f = s.get f)
include h

theorem State.tdmSlots_congr {p : Nat} (hp : p < 32) : t.tdmSlots p = s.tdmSlots p := by
  have hf := fun f hf => h f (port_mem_tdmInputs hp f hf)
  simp only [State.tdmSlots, hf (TDM.P_FORMAT p) (by simp), hf (TDM.P_SLOTS p) (by simp)]

theorem State.tdmBpf_congr {p : Nat} (hp : p < 32) : t.tdmBpf p = s.tdmBpf p := by
  simp only [State.tdmBpf, State.tdmSw, State.tdmSlots_congr h hp, h _ (port_mem_tdmInputs hp (TDM.P_SW p) (by simp))]

theorem State.tdmConverts_congr {g : Nat} (hg : g < 4) : t.tdmConverts g = s.tdmConverts g := by
  have hf := fun f hf => h f (group_mem_tdmInputs hg f hf)
  simp only [State.tdmConverts, hf (TDM.G_MODE g) (by simp), hf (TDM.G_CLK_SRC g) (by simp)]

theorem State.tdmBase_congr {g : Nat} (hg : g < 4) : t.tdmBase g = s.tdmBase g := by
  have hf := fun f hf => h f (group_mem_tdmInputs hg f hf)
  simp only [State.tdmBase, State.on, State.base, hf (TDM.G_MODE g) (by simp), hf (TDM.G_FAMILY g) (by simp),
    h _ (dpll_mem_tdmInputs (d := 0) (by decide) (CLK.DPLL_FAMILY 0) (by simp))]
  rfl

theorem State.tdmCfgErr_congr {p : Nat} (hp : p < 32) : t.tdmCfgErr p = s.tdmCfgErr p := by
  have hg : p / 8 < 4 := by omega
  have hf := fun f hf => h f (group_mem_tdmInputs hg f hf)
  have hq := fun f hf => h f (port_mem_tdmInputs hp f hf)
  have hsrc : s.get (TDM.G_CLK_SRC (p / 8)) < 4 := State.get_lt s (TDM.G_CLK_SRC (p / 8))
  have hd := fun f hf => h f (dpll_mem_tdmInputs hsrc f hf)
  have hlead : s.tdmLead (p / 8) < 32 := by
    have := State.get_lt s (TDM.G_LEAD (p / 8))
    simp only [State.tdmLead, TDM.G_LEAD] at this ⊢
    omega
  have hlead' : t.tdmLead (p / 8) = s.tdmLead (p / 8) := by simp only [State.tdmLead, hf (TDM.G_LEAD (p / 8)) (by simp)]
  have hd0 := h _ (dpll_mem_tdmInputs (d := 0) (by decide) (CLK.DPLL_FAMILY 0) (by simp))
  simp only [State.tdmCfgErr, State.tdmK, State.tdmFollows, State.on, hlead', State.tdmSlots_congr h hp, State.tdmBpf_congr h hp,
    State.tdmBpf_congr h hlead, State.tdmBase_congr h hg, hf (TDM.G_MODE (p / 8)) (by simp), hf (TDM.G_CLK_SRC (p / 8)) (by simp),
    hf (TDM.G_RATE (p / 8)) (by simp), hq (TDM.P_WL p) (by simp), hq (TDM.P_SW p) (by simp), hd _ (.head _), hd _ (.tail _ (.head _)), hd0]
  rfl

theorem State.tdmNoRoom_congr (hst : ∀ p < 32, t.get (TDM.P_STATE p) = s.get (TDM.P_STATE p)) {p : Nat} (hp : p < 32) :
    t.tdmNoRoom p = s.tdmNoRoom p := by
  have hg : p / 8 < 4 := by omega
  have hq := fun q (hq : q < 32) f hf => h f (port_mem_tdmInputs hq f hf)
  have hch : ∀ q < 32, ∀ rx tx, t.tdmChans q rx tx = s.tdmChans q rx tx := fun q hq rx tx => by
    simp only [State.tdmChans, State.tdmSlots_congr h hq]
  have hask : t.tdmGroupAsked (p / 8) = s.tdmGroupAsked (p / 8) := by
    unfold State.tdmGroupAsked
    have hfil : (List.range 8).filter (fun i => t.get (TDM.P_STATE (8 * (p / 8) + i)) != 0) =
        (List.range 8).filter (fun i => s.get (TDM.P_STATE (8 * (p / 8) + i)) != 0) :=
      List.filter_congr (fun i hi => by rw [hst _ (by have := List.mem_range.1 hi; omega)])
    rw [hfil]
    congr 1
    refine List.map_congr_left (fun i hi => ?_)
    have hi' : 8 * (p / 8) + i < 32 := by have := List.mem_range.1 (List.mem_of_mem_filter hi); omega
    rw [hch _ hi', hq _ hi' (TDM.P_RX_MASK _) (by simp), hq _ hi' (TDM.P_TX_MASK _) (by simp)]
  simp only [State.tdmNoRoom, State.tdmConverts_congr h hg, hst p hp, hask, hch p hp, hq p hp (TDM.P_RX_MASK p) (by simp),
    hq p hp (TDM.P_TX_MASK p) (by simp)]

end

end Sys2Proof.Machine

end

