-- ==== Sys2Proof/Proofs/TdmPortSet.lean ====
section

namespace Sys2Proof.Machine

/-- The fields of TDM_PORT_SET. -/
def tdmPortFlds (n : Nat) : List PFld := [⟨2, TDM.P_FORMAT n, .static⟩, ⟨3, TDM.P_SLOTS n, .static⟩, ⟨4, TDM.P_SW n, .static⟩,
  ⟨5, TDM.P_WL n, .static⟩, ⟨6, TDM.P_DELAY n, .static⟩, ⟨7, TDM.P_FS_WIDTH n, .static⟩, ⟨8, TDM.P_FSYNC_POL n, .static⟩,
  ⟨9, TDM.P_BCLK_POL n, .static⟩, ⟨10, TDM.P_TX_IDLE n, .static⟩, ⟨11, TDM.P_ZC_TIMEOUT n, .live⟩]

/-- The parameters of TDM_PORT_SET. -/
def tdmPortParams : List PSpec := [preq 1 1 0 31, popt 2 1 0 3, popt 3 1 0 63, popt 4 1 0 3, popt 5 1 0 3, popt 6 1 0 1, popt 7 1 0 3,
  popt 8 1 0 1, popt 9 1 0 1, popt 10 1 0 1, popt 11 2 0 1023]

theorem tdmPortFlds_plain (n : Nat) : ∀ f ∈ tdmPortFlds n, f.upd.waits = false := by
  simp only [tdmPortFlds, List.forall_mem_cons, List.not_mem_nil, false_implies, implies_true, and_true]
  decide

/-- TDM_PORT_SET of a DISABLED port writes its configuration. -/
theorem execTdmPortSet_of {s : State} {r : Req} {p : List Tlv} (hp : s.refuses r 0x0702 tdmPortParams p = none)
    (hs : s.get (TDM.P_STATE (Params.val p 1)) = 0) :
    execTdmPortSet r p s = .next ((writeFlds s p (tdmPortFlds (Params.val p 1))).tdmStatus.finish r 0x0702 (Reply.ok [])) := by
  unfold execTdmPortSet
  refine runCmd_of hp ?_
  have hset : setFlds (s.get (TDM.P_STATE (Params.val p 1)) == 0) (tdmPortFlds (Params.val p 1)) p s =
    (Reply.ok [], writeFlds s p (tdmPortFlds (Params.val p 1))) := setFlds_of (Or.inl (by simp [hs]))
  exact congrArg (fun x => (x.1, State.tdmStatus x.2)) hset

/-- The configuration of N5_TDM_PORT as parameters of TDM_PORT_SET. -/
def tdmTlvs (p fmt slots width : Nat) : List Tlv := [tlv 1 1 p, tlv 2 1 fmt, tlv 3 1 slots, tlv 4 1 width, tlv 5 1 width]

theorem tdmTlvs_ok {s : State} {r : Req} {p fmt slots width : Nat} (hb : s.barred 0x0702 r = none) (hp : p < 16) (hf : fmt < 4) (hs : slots ≤ 8)
    (hw : width < 3) : s.refuses r 0x0702 tdmPortParams (tdmTlvs p fmt slots width) = none := by
  refine State.refuses_none (tys := [1, 2, 3, 4, 5]) hb ?_ rfl (by decide) rfl
  simp only [tdmTlvs, tlv, List.forall_mem_cons, List.not_mem_nil, false_implies, implies_true, and_true]
  refine ⟨tlvOk_of rfl rfl ⟨Nat.zero_le _, ?_⟩ rfl, tlvOk_of rfl rfl ⟨Nat.zero_le _, ?_⟩ rfl, tlvOk_of rfl rfl ⟨Nat.zero_le _, ?_⟩ rfl,
    tlvOk_of rfl rfl ⟨Nat.zero_le _, ?_⟩ rfl, tlvOk_of rfl rfl ⟨Nat.zero_le _, ?_⟩ rfl⟩ <;> simp only [preq, popt] <;> omega

/-- The fields of a port that its start and stop change. -/
def tdmRunFlds (p : Nat) : List Fld := [TDM.INT, TDM.RUNNING, TDM.P_PORT_EN p, TDM.P_STATE p]

/-- Keys of what the start or stop of port `p` changes, its events with it. -/
def tdmRunKey (p k : Nat) : Bool := eventKey k || (tdmRunFlds p ++ tdmStatusFlds).any (fun f => f.key == k)

theorem tdmRunKey_inputs : ∀ p < 16, ∀ f ∈ tdmInputs, tdmRunKey p f.key = false := by decide +kernel

theorem tdmSet_keys : ∀ p < 16, ((tdmPortFlds p).map (fun f => f.fld.key)).Nodup ∧
    (∀ f ∈ (tdmPortFlds p).map PFld.fld, ∀ g ∈ tdmStatusFlds, g.key ≠ f.key) ∧
    ∀ f ∈ [TDM.P_STATE p, TDM.P_PORT_EN p, TDM.G_MODE (p / 8), TDM.G_CLK_SRC (p / 8)] ++ barFlds,
      ∀ g ∈ (tdmPortFlds p).map PFld.fld ++ tdmStatusFlds, g.key ≠ f.key := by decide +kernel

theorem tdmRun_keys : ∀ p < 16, (TDM.RUNNING.key ≠ (TDM.P_STATE p).key ∧ TDM.INT.key ≠ (TDM.P_STATE p).key ∧
    eventKey (TDM.P_STATE p).key = false) ∧
    (TDM.RUNNING.key ≠ (TDM.P_PORT_EN p).key ∧ TDM.INT.key ≠ (TDM.P_PORT_EN p).key ∧ eventKey (TDM.P_PORT_EN p).key = false) ∧
    (TDM.P_STATE p).key ≠ (TDM.P_PORT_EN p).key ∧
    ∀ g ∈ tdmStatusFlds, g.key ≠ (TDM.P_STATE p).key ∧ g.key ≠ (TDM.P_PORT_EN p).key := by decide +kernel

end Sys2Proof.Machine

end

