-- ==== Sys2Proof/Proofs/TdmRun.lean ====
section

namespace Sys2Proof.Machine

theorem tdmRunKey_of {p : Nat} {f : Fld} (hf : f ∈ tdmRunFlds p ++ tdmStatusFlds) : tdmRunKey p f.key = true := by
  unfold tdmRunKey
  rw [Bool.or_eq_true, List.any_eq_true]
  exact Or.inr ⟨f, hf, beq_self_eq_true _⟩

theorem State.tdmStatus_calm (s : State) (p : Nat) : State.Calm (tdmRunKey p) s s.tdmStatus :=
  State.Calm.of_writes s.tdmStatus_writes (fun _ hf => tdmRunKey_of (List.mem_append_right _ hf))

theorem State.setTdmPort_calm (P : Nat → Bool) (s : State) (p : Nat) (x : TdmPort) : State.Calm P s (s.setTdmPort p x) := State.Calm.of_eq P rfl rfl

/-- A change of a port's state. -/
theorem State.tdmState_calm (s : State) (p st : Nat) : State.Calm (tdmRunKey p) s (s.tdmState p st) := by
  unfold State.tdmState
  extract_lets old s1
  refine State.Calm.ite (State.Calm.refl _ _) ?_
  have h1 : State.Calm (tdmRunKey p) s s1 :=
    (State.Calm.set (f := TDM.P_STATE p) (tdmRunKey_of (by simp [tdmRunFlds])) s st).trans
      (State.Calm.set (f := TDM.RUNNING) (tdmRunKey_of (by simp [tdmRunFlds])) _ _)
  exact h1.trans (State.Calm.signal (tdmRunKey_of (by simp [tdmRunFlds])) (fun k hk => by simp [tdmRunKey, hk]) _ _ _ _ _ _ _)

/-- A port that is not in state `st` comes into it; its PORT_EN stays. -/
theorem State.get_tdmState (s : State) {p st : Nat} (hp : p < 16) (hst : st < 8) (hne : s.get (TDM.P_STATE p) ≠ st) :
    (s.tdmState p st).get (TDM.P_STATE p) = st ∧ (s.tdmState p st).get (TDM.P_PORT_EN p) = s.get (TDM.P_PORT_EN p) := by
  obtain ⟨⟨hr, hi, he⟩, ⟨hr', hi', he'⟩, hk, -⟩ := tdmRun_keys p hp
  unfold State.tdmState State.setBit
  simp only [if_neg hne]
  refine ⟨?_, ?_⟩
  · rw [State.get_signal _ _ _ _ _ _ _ _ hi he, State.get_set_of_ne _ hr, State.get_set_self]
    exact Nat.mod_eq_of_lt hst
  · rw [State.get_signal _ _ _ _ _ _ _ _ hi' he', State.get_set_of_ne _ hr', State.get_set_of_ne _ hk]

/-- PORT_EN of a DISABLED port is written 1: it starts, unless its configuration, its group or its room bars it. -/
theorem State.tdmStart_of {s : State} {p : Nat} (h0 : s.get (TDM.P_STATE p) = 0) (hc : s.tdmCfgErr p = false)
    (hm : s.get (TDM.G_MODE (p / 8)) ≠ 0) (hr : s.tdmNoRoom p = false) : s.tdmStart p = ((s.tdmState p 1).tdmEnter p).tdmStatus := by
  unfold State.tdmStart
  simp [h0, hc, hm, hr]

/-- Such a port is STARTING, with PORT_EN 1. -/
theorem State.tdmStart_starts {s : State} {p : Nat} (hp : p < 16) (h0 : s.get (TDM.P_STATE p) = 0) (hc : s.tdmCfgErr p = false)
    (hm : s.get (TDM.G_MODE (p / 8)) ≠ 0) (hr : s.tdmNoRoom p = false) :
    State.Calm (tdmRunKey p) s ((s.set (TDM.P_PORT_EN p) 1).tdmStart p) ∧ ((s.set (TDM.P_PORT_EN p) 1).tdmStart p).get (TDM.P_STATE p) = 1 ∧
      ((s.set (TDM.P_PORT_EN p) 1).tdmStart p).get (TDM.P_PORT_EN p) = 1 := by
  obtain ⟨-, -, -, hst⟩ := tdmRun_keys p hp
  have hcalm := State.Calm.set (P := tdmRunKey p) (f := TDM.P_PORT_EN p) (tdmRunKey_of (by simp [tdmRunFlds])) s 1
  have hin : ∀ f ∈ tdmInputs, (s.set (TDM.P_PORT_EN p) 1).get f = s.get f := fun f hf => hcalm.get f (tdmRunKey_inputs p hp f hf)
  have hstates : ∀ q < 32, (s.set (TDM.P_PORT_EN p) 1).get (TDM.P_STATE q) = s.get (TDM.P_STATE q) :=
    fun q _ => State.get_set_of_ne s (by simp only [Fld.key, TDM.P_PORT_EN, TDM.P_STATE]; omega) 1
  have hstart : (s.set (TDM.P_PORT_EN p) 1).tdmStart p = (((s.set (TDM.P_PORT_EN p) 1).tdmState p 1).tdmEnter p).tdmStatus := by
    refine State.tdmStart_of ((hstates p (by omega)).trans h0) ?_ ?_ ?_
    · rwa [State.tdmCfgErr_congr hin (by omega)]
    · rwa [hin _ (group_mem_tdmInputs (g := p / 8) (by omega) _ (.head _))]
    · rwa [State.tdmNoRoom_congr hin hstates (by omega)]
  obtain ⟨hstate, hen⟩ := (s.set (TDM.P_PORT_EN p) 1).get_tdmState (st := 1) hp (by decide) (by rw [hstates p (by omega), h0]; decide)
  rw [hstart]
  refine ⟨((hcalm.trans (State.tdmState_calm _ p 1)).trans (State.setTdmPort_calm _ _ _ _)).trans (State.tdmStatus_calm _ p), ?_, ?_⟩
  · exact ((State.tdmStatus_writes _).get _ (fun g hg => (hst g hg).1)).trans hstate
  · exact ((State.tdmStatus_writes _).get _ (fun g hg => (hst g hg).2)).trans (hen.trans (State.get_set_self s (TDM.P_PORT_EN p) 1))

/-- The attempt to start a DISABLED port: it starts, or nothing changes. -/
theorem State.startPart_cases {s : State} {p : Nat} (hp : p < 16) (h0 : s.get (TDM.P_STATE p) = 0) (he : s.get (TDM.P_PORT_EN p) = 0) :
    State.Calm (tdmRunKey p) s (State.startPart p s).2 ∧
      (State.startPart p s).2.get (TDM.P_STATE p) = (State.startPart p s).2.get (TDM.P_PORT_EN p) ∧
      (s.tdmCfgErr p = false → s.get (TDM.G_MODE (p / 8)) ≠ 0 → s.noStart 3 (p / 8) = false → s.tdmNoRoom p = false →
        (State.startPart p s).2.get (TDM.P_PORT_EN p) = 1) := by
  have hsame : s.get (TDM.P_STATE p) = s.get (TDM.P_PORT_EN p) := h0.trans he.symm
  unfold State.startPart
  by_cases hc : s.tdmCfgErr p = true
  · rw [if_pos hc]
    exact ⟨State.Calm.refl _ _, hsame, fun h => by simp [hc] at h⟩
  rw [if_neg hc]
  by_cases hm : s.get (TDM.G_MODE (p / 8)) = 0 ∨ s.noStart 3 (p / 8) = true
  · rw [if_pos hm]
    exact ⟨State.Calm.refl _ _, hsame, fun _ h1 h2 => by simp [h1, h2] at hm⟩
  rw [if_neg hm]
  by_cases hr : s.tdmNoRoom p = true
  · rw [if_pos hr]
    exact ⟨State.Calm.refl _ _, hsame, fun _ _ _ h => by simp [hr] at h⟩
  rw [if_neg hr]
  obtain ⟨hcalm, hstate, hen⟩ := State.tdmStart_starts hp h0 (Bool.eq_false_of_not_eq_true hc) (fun h => hm (Or.inl h))
    (Bool.eq_false_of_not_eq_true hr)
  exact ⟨hcalm, hstate.trans hen.symm, fun _ _ _ _ => hen⟩

/-! The commands -/

theorem bitsOf_port : ∀ p < 16, bitsOf 32 (2 ^ p % 2 ^ (8 * 4)) = [p] := by decide

theorem tdmBitmap_ok {s : State} {r : Req} {op p : Nat} (hb : s.barred op r = none) :
    s.refuses r op [preq 1 4 0 0xFFFFFFFF] [tlv 1 4 (2 ^ p)] = none := by
  refine State.refuses_none (tys := [1]) hb ?_ rfl (by decide) rfl
  simp only [tlv, List.forall_mem_cons, List.not_mem_nil, false_implies, implies_true, and_true]
  exact tlvOk_of rfl rfl ⟨Nat.zero_le _, Nat.le_sub_one_of_lt (Nat.mod_lt _ (by decide))⟩ rfl

/-- Once the part of TDM_START or TDM_STOP has been tried, the reply that waits changes nothing of the port. -/
theorem State.tdmReply_port {u v : State} {p : Nat} (hp : p < 16) (hc : State.Calm (tdmRunKey p) u v) {w : Wait} {t : State}
    (ht : (v.addWait w).tdmWaits.tdmStatus = t) :
    (∀ f ∈ tdmInputs, t.get f = u.get f) ∧ (∀ f ∈ [TDM.P_STATE p, TDM.P_PORT_EN p], t.get f = v.get f) ∧ t.tdmCfgErr p = u.tdmCfgErr p := by
  subst ht
  have hin : ∀ f ∈ tdmInputs, (v.addWait w).tdmWaits.tdmStatus.get f = u.get f := fun f hf =>
    ((State.tdmStatus_calm (v.addWait w).tdmWaits p).get f (tdmRunKey_inputs p hp f hf)).trans (hc.get f (tdmRunKey_inputs p hp f hf))
  obtain ⟨-, -, -, hst⟩ := tdmRun_keys p hp
  refine ⟨hin, fun f hf => (State.tdmStatus_writes (v.addWait w).tdmWaits).get f (fun g hg => ?_), State.tdmCfgErr_congr hin (by omega)⟩
  simp only [List.mem_cons, List.not_mem_nil, or_false] at hf
  rcases hf with rfl | rfl
  · exact (hst g hg).1
  · exact (hst g hg).2

/-- TDM_START of one port. -/
theorem execTdmStart_of {s : State} {r : Req} {p : Nat} (hp : p < 16) (hb : s.barred 0x0704 r = none) :
    ∃ w t, execTdmStart r [tlv 1 4 (2 ^ p)] s = .next t ∧ ((State.startPart p s).2.addWait w).tdmWaits.tdmStatus = t := by
  have hv : Params.val [tlv 1 4 (2 ^ p)] 1 = 2 ^ p % 2 ^ (8 * 4) := rfl
  unfold execTdmStart
  simp only [tdmBitmap_ok hb, hv, bitsOf_port p hp, runParts]
  exact ⟨_, _, rfl, rfl⟩

/-- TDM_STOP of one port that is DISABLED. -/
theorem execTdmStop_of {s : State} {r : Req} {p : Nat} (hp : p < 16) (hb : s.barred 0x0705 r = none) (h0 : s.get (TDM.P_STATE p) = 0) :
    ∃ w t, execTdmStop r [tlv 1 4 (2 ^ p)] s = .next t ∧ ((s.set (TDM.P_PORT_EN p) 0).addWait w).tdmWaits.tdmStatus = t := by
  have hv : Params.val [tlv 1 4 (2 ^ p)] 1 = 2 ^ p % 2 ^ (8 * 4) := rfl
  have hst : (s.set (TDM.P_PORT_EN p) 0).get (TDM.P_STATE p) = 0 :=
    (State.get_set_of_ne s (tdmRun_keys p hp).2.2.1.symm 0).trans h0
  have hpart : State.stopPart p s = (0, s.set (TDM.P_PORT_EN p) 0) := by
    unfold State.stopPart
    simp [hst]
  unfold execTdmStop
  simp only [tdmBitmap_ok hb, hv, bitsOf_port p hp, runParts, hpart]
  exact ⟨_, _, rfl, rfl⟩

end Sys2Proof.Machine

end

