-- ==== Sys2Proof/Proofs/TdmPort.lean ====
section

namespace Sys2Proof.Machine

/-- TDM_PORT_SET of a DISABLED port: its configuration reads as given, and of the rest only CFG_ERR and ASRC_CH may follow. -/
theorem tdmPortSet_sets {s : State} {r : Req} {p fmt slots width : Nat} (hp : p < 16) (hf : fmt < 4) (hs : slots ≤ 8) (hw : width < 3)
    (hb : s.barred 0x0702 r = none) (h0 : s.get (TDM.P_STATE p) = 0) :
    ∃ u : State, execTdmPortSet r (tdmTlvs p fmt slots width) s = .next (u.finish r 0x0702 (Reply.ok [])) ∧
      State.Writes ((tdmPortFlds p).map PFld.fld ++ tdmStatusFlds) s u ∧ u.get (TDM.P_FORMAT p) = fmt ∧ u.get (TDM.P_SLOTS p) = slots ∧
      u.get (TDM.P_SW p) = width ∧ u.get (TDM.P_WL p) = width := by
  obtain ⟨hnd, hkeys, -⟩ := tdmSet_keys p hp
  have hv : Params.val (tdmTlvs p fmt slots width) 1 = p := Nat.mod_eq_of_lt (by omega : p < 2 ^ 8)
  have hexec := execTdmPortSet_of (tdmTlvs_ok hb hp hf hs hw) (hv.symm ▸ h0)
  rw [hv] at hexec
  have hget : ∀ (i : Nat) (f : PFld) (v : Nat), (tdmPortFlds p)[i]? = some f → Params.val? (tdmTlvs p fmt slots width) f.ty = some (v % 2 ^ 8) →
      v < 2 ^ 8 → v < 2 ^ f.fld.w → (writeFlds s (tdmTlvs p fmt slots width) (tdmPortFlds p)).tdmStatus.get f.fld = v := by
    intro i f v hi hv hlt hw
    have hmem := List.mem_of_getElem? hi
    rw [(State.tdmStatus_writes _).get _ (hkeys _ (List.mem_map_of_mem hmem)), get_writeFlds _ hnd hmem hv, Nat.mod_eq_of_lt hlt, Nat.mod_eq_of_lt hw]
  have hfmt := hget 0 _ fmt rfl rfl (by omega) hf
  have hslots := hget 1 _ slots rfl rfl (by omega) (show slots < 2 ^ 6 by omega)
  have hsw := hget 2 _ width rfl rfl (by omega) (show width < 2 ^ 2 by omega)
  have hwl := hget 3 _ width rfl rfl (by omega) (show width < 2 ^ 2 by omega)
  have hwrites := ((writeFlds_writes (tdmTlvs p fmt slots width) (tdmPortFlds_plain p) s).mono (fun _ h => List.mem_append_left tdmStatusFlds h)).trans
    ((State.tdmStatus_writes _).mono (fun _ h => List.mem_append_right _ h))
  exact ⟨_, hexec, hwrites, hfmt, hslots, hsw, hwl⟩

/-- N5_TDM_PORT of a DISABLED port is TDM_PORT_SET, and then the start or stop of the port. -/
theorem n5TdmPort_of {s u : State} {r : Req} {b : List Byte} (hl : b.length = 8) (hp : leAt b 0 1 < 16) (hf : leAt b 1 1 < 4) (h2 : 2 ≤ leAt b 2 1)
    (hs : leAt b 2 1 ≤ 8) (hw : leAt b 3 1 < 3) (he : leAt b 4 1 < 2) (hb : s.barred 0x1020 r = none)
    (hset : execTdmPortSet r (tdmTlvs (leAt b 0 1) (leAt b 1 1) (leAt b 2 1) (leAt b 3 1)) s = .next (u.finish r 0x0702 (Reply.ok [])))
    (hc : u.cmd = s.cmd) :
    Machine.exec (.n5TdmPort r b) s = .next (nextOf u (if leAt b 4 1 = 1 then execTdmStart r [tlv 1 4 (2 ^ leAt b 0 1)] u
      else execTdmStop r [tlv 1 4 (2 ^ leAt b 0 1)] u)) := by
  have hexec : Machine.exec (.n5TdmPort r b) s = execN5TdmPort r b s := rfl
  rw [hexec]
  unfold execN5TdmPort
  refine n5Run_inr hb hl ?_
  have hno : ¬ (15 < leAt b 0 1 ∨ 3 < leAt b 1 1 ∨ leAt b 2 1 < 2 ∨ 8 < leAt b 2 1 ∨ 2 < leAt b 3 1 ∨ 1 < leAt b 4 1) := by omega
  exact (if_neg hno).trans (congrArg Sum.inr (State.andThen_ok (congrArg (nextOf s) hset) hc))

/-- N5_TDM_PORT writes a DISABLED port's configuration and then starts or stops it. -/
theorem n5TdmPort_sets {s : State} {r : Req} {b : List Byte} (hl : b.length = 8) (hp : leAt b 0 1 < 16) (hf : leAt b 1 1 < 4) (h2 : 2 ≤ leAt b 2 1)
    (hs : leAt b 2 1 ≤ 8) (hw : leAt b 3 1 < 3) (he : leAt b 4 1 < 2) (hb : s.barred 0x1020 r = none) (hset : s.barred 0x0702 r = none)
    (hstart : s.barred 0x0704 r = none) (hstop : s.barred 0x0705 r = none) (h0 : s.get (TDM.P_STATE (leAt b 0 1)) = 0)
    (hen : s.get (TDM.P_PORT_EN (leAt b 0 1)) = 0) :
    ∃ t, Machine.exec (.n5TdmPort r b) s = .next t ∧ t.get (TDM.P_FORMAT (leAt b 0 1)) = leAt b 1 1 ∧ t.get (TDM.P_SLOTS (leAt b 0 1)) = leAt b 2 1 ∧
      t.get (TDM.P_SW (leAt b 0 1)) = leAt b 3 1 ∧ t.get (TDM.P_WL (leAt b 0 1)) = leAt b 3 1 ∧
      t.get (TDM.P_STATE (leAt b 0 1)) = t.get (TDM.P_PORT_EN (leAt b 0 1)) ∧ (leAt b 4 1 = 0 → t.get (TDM.P_PORT_EN (leAt b 0 1)) = 0) ∧
      (leAt b 4 1 = 1 → t.tdmCfgErr (leAt b 0 1) = false → s.get (TDM.G_MODE (leAt b 0 1 / 8)) ≠ 0 → s.noStart 3 (leAt b 0 1 / 8) = false →
        s.tdmConverts (leAt b 0 1 / 8) = false → t.get (TDM.P_PORT_EN (leAt b 0 1)) = 1) := by
  obtain ⟨u, hu, hwrites, hfmt, hslots, hsw, hwl⟩ := tdmPortSet_sets (r := r) hp hf hs hw hset h0
  have hexec := n5TdmPort_of hl hp hf h2 hs hw he hb hu hwrites.cmd
  generalize leAt b 0 1 = p at *
  obtain ⟨-, -, hkeep⟩ := tdmSet_keys p hp
  have hsame := fun f hf => hwrites.get f (hkeep f hf)
  have hbarred : ∀ f ∈ barFlds, u.get f = s.get f := fun f hf => hsame f (List.mem_append_right _ hf)
  have hbar := State.barred_congr hwrites.cmd hwrites.boot hbarred
  have hstate := (hsame (TDM.P_STATE p) (by simp)).trans h0
  have hport := (hsame (TDM.P_PORT_EN p) (by simp)).trans hen
  have hmode := hsame (TDM.G_MODE (p / 8)) (by simp)
  have hcfg := port_mem_tdmInputs (p := p) (by omega)
  by_cases h1 : leAt b 4 1 = 1
  · obtain ⟨w, t, hw', ht⟩ := execTdmStart_of (s := u) (r := r) hp ((hbar _ r).trans hstart)
    obtain ⟨hcalm, heq, hruns⟩ := State.startPart_cases hp hstate hport
    obtain ⟨hin, hpt, herr⟩ := State.tdmReply_port hp hcalm ht
    rw [if_pos h1, hw'] at hexec
    have hpen := hpt (TDM.P_PORT_EN p) (by simp)
    refine ⟨t, hexec, (hin _ (hcfg _ (by simp))).trans hfmt, (hin _ (hcfg _ (by simp))).trans hslots, (hin _ (hcfg _ (by simp))).trans hsw,
      (hin _ (hcfg _ (by simp))).trans hwl, ((hpt (TDM.P_STATE p) (by simp)).trans heq).trans hpen.symm, fun h => by omega, fun _ hok hm hn hconv => ?_⟩
    rw [herr] at hok
    refine hpen.trans (hruns hok (hmode ▸ hm) ((State.noStart_congr hwrites.test hbarred _ _).trans hn) ?_)
    have hconv' : u.tdmConverts (p / 8) = false := by rwa [State.tdmConverts, hmode, hsame (TDM.G_CLK_SRC (p / 8)) (by simp)]
    rw [State.tdmNoRoom, hconv', Bool.false_and, Bool.false_and]
  · obtain ⟨w, t, hw', ht⟩ := execTdmStop_of (s := u) (r := r) hp ((hbar _ r).trans hstop) hstate
    have hcalm := State.Calm.set (P := tdmRunKey p) (f := TDM.P_PORT_EN p) (tdmRunKey_of (by simp [tdmRunFlds])) u 0
    obtain ⟨hin, hpt, -⟩ := State.tdmReply_port hp hcalm ht
    rw [if_neg h1, hw'] at hexec
    have hpen := (hpt (TDM.P_PORT_EN p) (by simp)).trans (State.get_set_self u (TDM.P_PORT_EN p) 0)
    have hst := (hpt (TDM.P_STATE p) (by simp)).trans ((State.get_set_of_ne u (tdmRun_keys p hp).2.2.1.symm 0).trans hstate)
    exact ⟨t, hexec, (hin _ (hcfg _ (by simp))).trans hfmt, (hin _ (hcfg _ (by simp))).trans hslots, (hin _ (hcfg _ (by simp))).trans hsw,
      (hin _ (hcfg _ (by simp))).trans hwl, hst.trans hpen.symm, fun _ => hpen, fun h => absurd h h1⟩

end Sys2Proof.Machine

end

