-- ==== Sys2Proof/Proofs/StreamStart.lean ====
section

namespace Sys2Proof.Machine

/-! ### The start of a stream (R175, R181) -/

/-- The fields of a stream's entry that its start changes beside ENABLE. -/
def startFlds (dir i : Nat) : List Fld := List.flatten
  [[stopFld dir i 0, stopFld dir i 1, laneFld dir i 0, laneFld dir i 1],
    if dir = 0 then [RXE.PLACED_ONCE i, RXE.STARVED i, RXE.LEG_A_UP i, RXE.LEG_B_UP i]
    else [TXE.LEG_DEST_MAC_LO i 0, TXE.LEG_DEST_MAC_HI i 0, TXE.LEG_DEST_MAC_LO i 1, TXE.LEG_DEST_MAC_HI i 1]]

/-- Keys of what a stream's start changes beside ENABLE: its entry, the ports' blocks for the frames that it sends, and the blocks of the loads and the
pool. -/
def startKey (dir i k : Nat) : Bool := portKey k || inOffs 0xC0000 0x110000 k || (startFlds dir i).any (fun f => f.key == k)

theorem State.Calm.start {dir i : Nat} {f : Fld} (hf : f ∈ startFlds dir i) (s : State) (v : Nat) : State.Calm (startKey dir i) s (s.set f v) := by
  refine State.Calm.set ?_ s v
  simp only [startKey, Bool.or_eq_true, List.any_eq_true]
  exact Or.inr ⟨f, hf, beq_self_eq_true _⟩

theorem State.Calm.load {dir i : Nat} {f : Fld} (hlo : 0xC0000 ≤ f.off) (hhi : f.off < 0x110000) (hl : f.lo < 32) (s : State) (v : Nat) :
    State.Calm (startKey dir i) s (s.set f v) := by
  have h : inOffs 0xC0000 0x110000 f.key = true := decide_eq_true (by unfold Fld.key; omega)
  exact State.Calm.set (by simp [startKey, h]) s v

theorem State.Calm.port {dir i : Nat} {s t : State} (h : State.Side portKey s t) : State.Calm (startKey dir i) s t :=
  (State.Calm.of_side h).mono (fun k hk => by simp [startKey, hk])

theorem lane_mem_startFlds (dir i : Nat) : ∀ f ∈ [stopFld dir i 0, stopFld dir i 1, laneFld dir i 0, laneFld dir i 1], f ∈ startFlds dir i :=
  fun _ hf => List.mem_flatten.2 ⟨_, .head _, hf⟩

theorem State.showLoads_calm (dir i : Nat) (s : State) : State.Calm (startKey dir i) s s.showLoads := by
  unfold State.showLoads
  refine State.Calm.foldl (fun s h hh => ?_) s
  have hh := List.mem_range.1 hh
  exact (State.Calm.load (by simp only [STRM.HAMMER_LOAD]; omega) (by simp only [STRM.HAMMER_LOAD]; omega) (by simp [STRM.HAMMER_LOAD]) s _).trans
    (State.Calm.load (by simp only [STRM.HAMMER_INFLIGHT]; omega) (by simp only [STRM.HAMMER_INFLIGHT]; omega) (by simp [STRM.HAMMER_INFLIGHT]) _ _)

theorem State.takeLanes_calm (dir i : Nat) (lanes : List Nat) (s : State) : State.Calm (startKey dir i) s (s.takeLanes dir i lanes) := by
  have hmem := lane_mem_startFlds dir i
  exact (((State.Calm.start (hmem _ (by simp)) s 0).trans (State.Calm.start (hmem _ (by simp)) _ 0)).trans
    (State.Calm.start (hmem _ (by simp)) _ _)).trans (State.Calm.start (hmem _ (by simp)) _ _)

theorem State.legs_lt {s : State} {dir i : Nat} : ∀ l ∈ s.legs dir i, l < 2 := by
  unfold State.legs
  split <;> simp

/-! The frames that it sends -/

theorem State.sendService_side (s : State) {p : Nat} (hp : p < 4) (b : List Byte) : State.Side portKey s (s.sendService p b) := by
  unfold State.sendService
  exact State.Side.ite (State.Side.ite (State.statBy_side s hp (by decide) 1) (State.Side.setPort _ _ _ _)) (State.Side.refl _ _)

theorem State.askNeighbour_side (s : State) {p : Nat} (hp : p < 4) (v6 : Bool) (ip : Nat) : State.Side portKey s (s.askNeighbour p v6 ip) :=
  State.Side.ite (s.sendService_side hp _) (s.sendService_side hp _)

theorem State.sendReport_side (s : State) {p : Nat} (hp : p < 4) (g : Group) (leave : Bool) : State.Side portKey s (s.sendReport p g leave) := by
  have hsend := fun b => s.sendService_side hp b
  unfold State.sendReport
  extract_lets f g mac ty srcs sum src
  exact State.Side.ite (State.Side.ite (hsend _) (State.Side.ite (hsend _) (hsend _))) (State.Side.ite (hsend _) (State.Side.ite (hsend _) (hsend _)))

/-- A stream's leg joins its group. -/
theorem State.joinGroup_side (s : State) {p : Nat} (hp : p < 4) (ip addr mode : Nat) (sources : List Nat) :
    State.Side portKey s (s.joinGroup p ip addr 0 mode sources) := by
  have hsend : ∀ (x : PortSvc) (g : Group), State.Side portKey s ((s.setPsvc p x).sendReport p g false) := fun x g =>
    (State.Side.setPsvc _ s p x).trans (State.sendReport_side _ hp g false)
  unfold State.joinGroup
  simp only [if_true]
  split
  · exact State.Side.ite (State.Side.setPsvc _ s p _) (hsend _ _)
  · exact hsend _ _

theorem State.legGroup_side (s : State) (i l : Nat) : State.Side portKey s (s.legGroup true i l) := by
  have hp : s.get (RXE.LEG_PORT i l) < 4 := lt_trans (State.get_lt s (RXE.LEG_PORT i l)) (by decide : 2 ^ 1 < 4)
  unfold State.legGroup
  exact State.Side.ite (s.joinGroup_side hp _ _ _ _) (State.Side.refl _ _)

theorem mac_mem_startFlds {i l : Nat} (hl : l < 2) : TXE.LEG_DEST_MAC_LO i l ∈ startFlds 1 i ∧ TXE.LEG_DEST_MAC_HI i l ∈ startFlds 1 i := by
  interval_cases l <;> simp [startFlds]

theorem State.resolveLeg_calm (s : State) (i : Nat) {l : Nat} (hl : l < 2) : State.Calm (startKey 1 i) s (s.resolveLeg i l) := by
  obtain ⟨hlo, hhi⟩ := mac_mem_startFlds (i := i) hl
  have hp : s.get (TXE.LEG_PORT i l) < 4 := lt_trans (State.get_lt s (TXE.LEG_PORT i l)) (by decide : 2 ^ 1 < 4)
  have hmac : ∀ v w, State.Calm (startKey 1 i) s ((s.set (TXE.LEG_DEST_MAC_LO i l) v).set (TXE.LEG_DEST_MAC_HI i l) w) := fun v w =>
    (State.Calm.start hlo s v).trans (State.Calm.start hhi _ w)
  unfold State.resolveLeg
  refine State.Calm.ite (State.Calm.refl _ _) ?_
  extract_lets hop
  split
  · exact hmac _ _
  · exact (hmac _ _).trans (State.Calm.port (State.askNeighbour_side _ hp _ _))

/-! The start -/

/-- ENABLE of a stream's entry. -/
def enableFld (dir i : Nat) : Fld := if dir = 0 then RXE.ENABLE i else TXE.ENABLE i

theorem State.noteLines_rest (s : State) (ls : List (Nat × Nat)) : (s.noteLines ls).regs = s.regs ∧ (s.noteLines ls).cmd = s.cmd := by
  unfold State.noteLines
  split <;> exact ⟨rfl, rfl⟩

/-- A receive stream gets its ring. -/
def State.takeRing (s : State) (i : Nat) : State :=
  let z := s.ringSize i
  let run : RxRun := ⟨i, ⟨z.1, z.2.1, s.freePages.take z.2.2, []⟩, ⟨none, none⟩, ⟨none, none⟩, 0, none,
    List.replicate (s.get (RXE.CHANNELS i)) emptyCs, false⟩
  let old := fun (f : Flight) => if f.dir = 0 ∧ f.stream = i then { f with seq := 1 } else f
  let u := { s with strm := { s.strm with rx := insertRun RxRun.stream run s.strm.rx, flights := s.strm.flights.map old } }
  let v := u.noteLines (run.ring.recordLines (u.get (RXE.CHANNELS i)))
  { v with anvil := { v.anvil with conc := v.anvil.conc.filter (fun c => c.stream != i) } }

/-- Its legs join their groups. -/
def State.joinLegs (s : State) (i : Nat) : State := (s.legs 0 i).foldl (fun s l => s.legGroup true i l) s

/-- The state of an entry whose receive stream starts. -/
def State.freshRx (s : State) (i : Nat) : State :=
  (((s.set (RXE.PLACED_ONCE i) 0).set (RXE.STARVED i) 0).set (RXE.LEG_A_UP i) 0).set (RXE.LEG_B_UP i) 0

theorem State.rxStart_eq (s : State) (i : Nat) (lanes : List Nat) :
    s.rxStart i lanes = (((((s.takeRing i).set (RXE.ENABLE i) 1).freshRx i).takeLanes 0 i lanes).joinLegs i).poolFree.showLoads := rfl

theorem State.takeRing_rest (s : State) (i : Nat) : (s.takeRing i).regs = s.regs ∧ (s.takeRing i).cmd = s.cmd :=
  State.noteLines_rest _ _

theorem rx_mem_startFlds (i : Nat) : ∀ f ∈ [RXE.PLACED_ONCE i, RXE.STARVED i, RXE.LEG_A_UP i, RXE.LEG_B_UP i], f ∈ startFlds 0 i := by
  simp [startFlds]

/-- A receive stream's start sets ENABLE. -/
theorem State.rxStart_calm (s : State) (i : Nat) (lanes : List Nat) :
    ∃ u : State, u.regs = s.regs ∧ u.cmd = s.cmd ∧ State.Calm (startKey 0 i) (u.set (RXE.ENABLE i) 1) (s.rxStart i lanes) := by
  have hset := fun f hf (t : State) (v : Nat) => State.Calm.start (rx_mem_startFlds i f hf) t v
  obtain ⟨hregs, hcmd⟩ := s.takeRing_rest i
  have hfresh : ∀ t : State, State.Calm (startKey 0 i) t (t.freshRx i) := fun t =>
    (((hset _ (by simp) t 0).trans (hset _ (by simp) _ 0)).trans (hset _ (by simp) _ 0)).trans (hset _ (by simp) _ 0)
  have hjoin : ∀ t : State, State.Calm (startKey 0 i) t (t.joinLegs i) := fun t =>
    State.Calm.foldl (fun t l _ => State.Calm.port (t.legGroup_side i l)) t
  rw [State.rxStart_eq]
  exact ⟨s.takeRing i, hregs, hcmd, ((((hfresh _).trans (State.takeLanes_calm 0 i lanes _)).trans (hjoin _)).trans
    (State.Calm.load (by decide) (by decide) (by decide) _ _)).trans (State.showLoads_calm 0 i _)⟩

/-- A transmit stream's start sets ENABLE. -/
theorem State.txStart_calm (s : State) (i : Nat) (lanes : List Nat) :
    ∃ u : State, u.regs = s.regs ∧ u.cmd = s.cmd ∧ State.Calm (startKey 1 i) (u.set (TXE.ENABLE i) 1) (s.txStart i lanes) := by
  unfold State.txStart
  extract_lets run rest x s1 s2
  have h2 : State.Calm (startKey 1 i) (s1.set (TXE.ENABLE i) 1) s2 := State.takeLanes_calm 1 i lanes _
  have hmacs : State.Calm (startKey 1 i) s2 ((s2.legs 1 i).foldl (State.resolveLeg · i ·) s2) :=
    State.Calm.foldl (fun t l hl => t.resolveLeg_calm i (State.legs_lt l hl)) s2
  exact ⟨s1, rfl, rfl, (h2.trans hmacs).trans (State.showLoads_calm 1 i _)⟩

/-- The start of a stream. -/
def State.streamStart (s : State) (dir i : Nat) (lanes : List Nat) : State := if dir = 0 then s.rxStart i lanes else s.txStart i lanes

/-- It sets ENABLE, and leaves the command processor and the entry's settings. -/
theorem State.streamStart_calm (s : State) {dir : Nat} (hd : dir < 2) (i : Nat) (lanes : List Nat) :
    ∃ u : State, u.regs = s.regs ∧ u.cmd = s.cmd ∧ State.Calm (startKey dir i) (u.set (enableFld dir i) 1) (s.streamStart dir i lanes) := by
  obtain rfl | rfl : dir = 0 ∨ dir = 1 := by omega
  · exact s.rxStart_calm i lanes
  · exact s.txStart_calm i lanes

end Sys2Proof.Machine

end

