-- ==== Sys2Proof/Proofs/StreamEnable.lean ====
section

namespace Sys2Proof.Machine

/-! ### STREAM_ENABLE of one disabled stream (R175, R181) -/

theorem State.entry_on (s : State) {dir : Nat} (hd : dir < 2) (i : Nat) : (s.entry dir i).on = s.on (enableFld dir i) := by
  obtain rfl | rfl : dir = 0 ∨ dir = 1 := by omega
  · rfl
  · rfl

/-- A stream that finds no lane fails a check. -/
theorem State.enableCheck_of_noLanes {s : State} {dir i : Nat} (h : s.pickLanes dir i = none) : (s.enableCheck dir i).1 ≠ 0 := by
  unfold State.enableCheck
  split_ifs <;> simp_all [Status.notInState, Status.badParam, Status.noResource]

/-- A stream whose slots are taken, or which would exceed the budget of R7, fails a check. -/
theorem State.enableCheck_of_taken {s : State} {dir i : Nat} (h : s.slotsTaken dir i = true) : (s.enableCheck dir i).1 ≠ 0 := by
  unfold State.enableCheck
  split_ifs <;> simp_all [Status.notInState, Status.badParam, Status.noResource]

/-- The enable of a disabled stream fails a check and changes nothing, or starts it. -/
theorem State.enableStream_cases {s : State} {dir i : Nat} (h : (s.entry dir i).on = false) :
    (∃ st err, st ≠ 0 ∧ s.enableStream dir i true = (st, err, s)) ∨
      ∃ lanes, s.slotsTaken dir i = false ∧ s.enableStream dir i true = (0, 0, s.streamStart dir i lanes) := by
  have hno := s.enableCheck_of_noLanes (dir := dir) (i := i)
  have htaken := s.enableCheck_of_taken (dir := dir) (i := i)
  unfold State.enableStream
  simp only [h, Bool.not_true, Bool.false_eq_true, if_false]
  generalize s.enableCheck dir i = c at hno htaken ⊢
  obtain ⟨st, err⟩ := c
  cases hl : s.pickLanes dir i with
  | none => exact Or.inl ⟨st, err, hno hl, rfl⟩
  | some lanes =>
    by_cases h0 : st = 0
    · exact Or.inr ⟨lanes, Bool.eq_false_of_not_eq_true (fun ht => htaken ht h0), if_pos h0⟩
    · exact Or.inl ⟨st, err, h0, if_neg h0⟩

/-- The disable of a disabled stream changes nothing. -/
theorem State.enableStream_off {s : State} {dir i : Nat} (h : (s.entry dir i).on = false) : s.enableStream dir i false = (0, 0, s) := by
  simp [State.enableStream, h]

/-- The reply of STREAM_ENABLE of one disabled stream, with its status and the offset of its index. -/
def enableWait (r : Req) (dir i st off : Nat) : Wait := ⟨r, 0x0503, 10, 3, [0], [i], [st], [off], [0], dir, []⟩

def enableParams : List PSpec := [preq 1 1 0 1, preq 2 1 0 1, { prep 3 2 0 511 with req := true }]

theorem enableTlvs_ok {s : State} {r : Req} {dir en i : Nat} (hb : s.barred 0x0503 r = none) (hd : dir < 2) (he : en < 2) (hi : i < 512) :
    s.refuses r 0x0503 enableParams [tlv 1 1 dir, tlv 2 1 en, tlv 3 2 i] = none := by
  refine State.refuses_none (tys := [1, 2, 3]) hb ?_ rfl (by decide) rfl
  simp only [tlv, List.forall_mem_cons, List.not_mem_nil, false_implies, implies_true, and_true]
  refine ⟨tlvOk_of rfl rfl ⟨Nat.zero_le _, ?_⟩ rfl, tlvOk_of rfl rfl ⟨Nat.zero_le _, ?_⟩ rfl, tlvOk_of rfl rfl ⟨Nat.zero_le _, ?_⟩ rfl⟩ <;>
    simp only [preq, prep] <;> omega

theorem execStreamEnable_of {s : State} {r : Req} {dir en i : Nat} (hb : s.barred 0x0503 r = none) (hd : dir < 2) (he : en < 2) (hi : i < 512)
    (hoff : (s.entry dir i).on = false) :
    ∃ off, execStreamEnable r [tlv 1 1 dir, tlv 2 1 en, tlv 3 2 i] s =
      .next ((s.enableStream dir i (decide (en = 1))).2.2.addWait (enableWait r dir i (s.enableStream dir i (decide (en = 1))).1 off)) := by
  have h1 : Params.val [tlv 1 1 dir, tlv 2 1 en, tlv 3 2 i] 1 = dir := Nat.mod_eq_of_lt (by omega : dir < 2 ^ 8)
  have h2 : Params.val [tlv 1 1 dir, tlv 2 1 en, tlv 3 2 i] 2 = en := Nat.mod_eq_of_lt (by omega : en < 2 ^ 8)
  have h3 : Params.all [tlv 1 1 dir, tlv 2 1 en, tlv 3 2 i] 3 = [i] := congrArg (fun x => [x]) (Nat.mod_eq_of_lt (by omega : i < 2 ^ 16))
  have hok := enableTlvs_ok hb hd he hi
  refine ⟨Params.offsetOf [tlv 1 1 dir, tlv 2 1 en, tlv 3 2 i] 3 0 0, ?_⟩
  unfold execStreamEnable
  rw [enableParams] at hok
  simp only [hok, h1, h2, h3, List.length_singleton, List.map_cons, List.map_nil, hoff, runParts]
  rfl

/-- An enable whose status is NO_RESOURCE beyond the budget leaves the part as it was; any other stands. -/
theorem State.unlessBudget_addWait {s t : State} {dir i : Nat} (hc : t.cmd = s.cmd) (r : Req) (st off : Nat) :
    s.unlessBudget (t.addWait (enableWait r dir i st off)) dir i =
      if st = Status.noResource ∧ 2048 < t.units dir + (t.entry dir i).ch * (t.entry dir i).k then s.addWait (enableWait r dir i st off)
      else t.addWait (enableWait r dir i st off) := by
  have hdrop : (t.addWait (enableWait r dir i st off)).cmd.waits.drop s.cmd.waits.length = [enableWait r dir i st off] := by
    simp [State.addWait, hc]
  have hback : ({ s with cmd := { s.cmd with waits := (t.addWait (enableWait r dir i st off)).cmd.waits } } : State) =
      s.addWait (enableWait r dir i st off) := by
    unfold State.addWait
    rw [hc]
  unfold State.unlessBudget
  rw [hdrop, hback]
  exact if_congr (by rw [enableWait, List.singleton_inj]; rfl) rfl rfl

end Sys2Proof.Machine

end

