-- ==== Sys2Proof/Proofs/StreamSettings.lean ====
section

namespace Sys2Proof.Machine

/-! ### The settings of N5_STREAM_RX and N5_STREAM_TX -/

/-- The fields of an entry that they write. -/
def streamFlds (dir i : Nat) : List Fld :=
  if dir = 0 then [RXE.ENC i, RXE.CHANNELS i, RXE.SPP i, RXE.BASE_SLOT i, RXE.LEG_VALID i 0, RXE.LEG_IPV6 i 0, RXE.LEG_PORT i 0,
    RXE.LEG_UDP_DPORT i 0, RXE.LEG_DEST_IP i 0 0, RXE.LEG_DEST_IP i 0 1, RXE.LEG_DEST_IP i 0 2, RXE.LEG_DEST_IP i 0 3]
  else [TXE.ENC i, TXE.CHANNELS i, TXE.SPP i, TXE.BASE_SLOT i, TXE.LEG_VALID i 0, TXE.LEG_IPV6 i 0, TXE.LEG_PORT i 0,
    TXE.LEG_UDP_DPORT i 0, TXE.LEG_DEST_IP i 0 0, TXE.LEG_DEST_IP i 0 1, TXE.LEG_DEST_IP i 0 2, TXE.LEG_DEST_IP i 0 3]

/-- The values that they give these. -/
def streamVals (b : List Byte) : List Nat :=
  [leAt b 3 1, leAt b 2 1, leAt b 4 2, leAt b 16 2, 1, 0, leAt b 6 1, leAt b 12 2, leAt b 8 4, 0, 0, 0]

def streamSets (dir : Nat) (b : List Byte) : List (Fld × Nat) := (streamFlds dir (leAt b 0 2)).zip (streamVals b)

/-- Their parameters are within their bounds. -/
structure StreamArgs (b : List Byte) : Prop where
  length : b.length = 20
  index : leAt b 0 2 < 128
  some_channel : 1 ≤ leAt b 2 1
  channels : leAt b 2 1 ≤ 64
  encoding : leAt b 3 1 < 2
  spp : leAt b 4 2 < 2048
  port : leAt b 6 1 < 2
  enable : leAt b 14 1 < 2
  slots : leAt b 16 2 + leAt b 2 1 ≤ 512

/-- The entry's settings as parameters of STREAM_RX_SET and STREAM_TX_SET. -/
def streamTlvs (dir : Nat) (b : List Byte) : List Tlv :=
  if dir = 0 then [tlv 1 2 (leAt b 0 2), tlv 8 1 (leAt b 3 1), tlv 10 2 (leAt b 2 1), tlv 11 2 (leAt b 4 2), tlv 12 2 (leAt b 16 2), tlv 26 1 1,
    tlv 30 1 0, tlv 31 1 (leAt b 6 1), tlv 32 2 (leAt b 12 2), tlv 33 4 (swapBytes 4 (leAt b 8 4))]
  else [tlv 1 2 (leAt b 0 2), tlv 6 1 (leAt b 3 1), tlv 8 2 (leAt b 2 1), tlv 9 2 (leAt b 4 2), tlv 10 2 (leAt b 16 2), tlv 20 1 1,
    tlv 21 1 0, tlv 22 1 (leAt b 6 1), tlv 32 2 (leAt b 12 2), tlv 33 4 (swapBytes 4 (leAt b 8 4))]

/-- A field's parameter has its TYPE and its length. -/
theorem streamTlv_of {dir i v ty : Nat} {f : Fld} (h : ((entryFlds dir i).find? (fun x => x.fld == f)).map PFld.ty = some ty) :
    streamTlv dir i v f = some (tlv ty (fieldLen f.w) v) := by
  obtain ⟨x, hx, rfl⟩ := Option.map_eq_some_iff.1 h
  simp [streamTlv, hx]

/-- The settings with their TYPEs. -/
def streamTys (dir : Nat) : List Nat := if dir = 0 then [8, 10, 11, 12, 26, 30, 31, 32] else [6, 8, 9, 10, 20, 21, 22, 32]

theorem streamFlds_tys : ∀ dir < 2, ∀ i < 128, ∀ x ∈ (streamFlds dir i).zip (streamTys dir),
    ((entryFlds dir i).find? (fun y => y.fld == x.1)).map PFld.ty = some x.2 := by decide +kernel

theorem ofLe_lt (l : List Byte) : ofLe l < 256 ^ l.length := by
  induction l with
  | nil => decide
  | cons a t ih =>
    have ha := a.isLt
    rw [ofLe, List.length_cons, pow_succ]
    omega

theorem leAt_lt (b : List Byte) (k n : Nat) : leAt b k n < 256 ^ n :=
  lt_of_lt_of_le (ofLe_lt _) (Nat.pow_le_pow_right (by decide) (List.length_take_le _ _))

theorem swapBytes_digits (v : Nat) : swapBytes 4 v = v / 2 ^ 24 % 256 + 256 * (v / 2 ^ 16 % 256 + 256 * (v / 2 ^ 8 % 256 + 256 * (v % 256))) := by
  have hle : le 4 v = [BitVec.ofNat 8 (v >>> 0), BitVec.ofNat 8 (v >>> 8), BitVec.ofNat 8 (v >>> 16), BitVec.ofNat 8 (v >>> 24)] := rfl
  simp [swapBytes, ofBe, hle, ofLe, Nat.shiftRight_eq_div_pow]

/-- Four bytes in the other order. -/
theorem swapBytes_four {a b c d : Nat} (ha : a < 256) (hb : b < 256) (hc : c < 256) (hd : d < 256) :
    swapBytes 4 (a + 256 * (b + 256 * (c + 256 * d))) = d + 256 * (c + 256 * (b + 256 * a)) := by
  have h0 : (a + 256 * (b + 256 * (c + 256 * d))) % 256 = a := by omega
  have h1 : (a + 256 * (b + 256 * (c + 256 * d))) / 2 ^ 8 % 256 = b := by omega
  have h2 : (a + 256 * (b + 256 * (c + 256 * d))) / 2 ^ 16 % 256 = c := by omega
  have h3 : (a + 256 * (b + 256 * (c + 256 * d))) / 2 ^ 24 % 256 = d := by omega
  rw [swapBytes_digits, h0, h1, h2, h3]

/-- The order of four bytes reversed twice. -/
theorem swapBytes_swapBytes {v : Nat} (h : v < 2 ^ 32) : swapBytes 4 (swapBytes 4 v % 2 ^ 32) = v := by
  obtain ⟨a, b, c, d, ha, hb, hc, hd, rfl⟩ : ∃ a b c d, a < 256 ∧ b < 256 ∧ c < 256 ∧ d < 256 ∧ v = a + 256 * (b + 256 * (c + 256 * d)) :=
    ⟨v % 256, v / 256 % 256, v / 65536 % 256, v / 16777216, by omega, by omega, by omega, by omega, by omega⟩
  rw [swapBytes_four ha hb hc hd, Nat.mod_eq_of_lt (by omega), swapBytes_four hd hc hb ha]

variable {b : List Byte}

/-- The parameters' values fit their lengths. -/
theorem StreamArgs.mods (h : StreamArgs b) : leAt b 0 2 % 2 ^ 16 = leAt b 0 2 ∧ leAt b 3 1 % 2 ^ 8 = leAt b 3 1 ∧ leAt b 2 1 % 2 ^ 16 = leAt b 2 1 ∧
    leAt b 4 2 % 2 ^ 16 = leAt b 4 2 ∧ leAt b 16 2 % 2 ^ 16 = leAt b 16 2 ∧ leAt b 6 1 % 2 ^ 8 = leAt b 6 1 ∧ leAt b 12 2 % 2 ^ 16 = leAt b 12 2 := by
  obtain ⟨-, hi, -, hc, he, hs, hp, -, hf⟩ := h
  have hd := leAt_lt b 12 2
  omega

theorem entryWrites_stream {dir : Nat} (hd : dir < 2) (h : StreamArgs b) :
    entryWrites dir (leAt b 0 2) (streamTlvs dir b) = (streamSets dir b).map (fun x => (x.1, Upd.static, x.2)) := by
  obtain ⟨-, hm3, hm2, hm4, hm16, hm6, hm12⟩ := h.mods
  have hip := swapBytes_swapBytes (leAt_lt b 8 4)
  obtain rfl | rfl : dir = 0 ∨ dir = 1 := by omega
  · have he : entryWrites 0 (leAt b 0 2) (streamTlvs 0 b) = ((streamFlds 0 (leAt b 0 2)).zip [leAt b 3 1 % 2 ^ 8, leAt b 2 1 % 2 ^ 16, leAt b 4 2 % 2 ^ 16,
      leAt b 16 2 % 2 ^ 16, 1, 0, leAt b 6 1 % 2 ^ 8, leAt b 12 2 % 2 ^ 16, swapBytes 4 (swapBytes 4 (leAt b 8 4) % 2 ^ 32), 0, 0, 0]).map
        (fun x => (x.1, Upd.static, x.2)) := rfl
    rw [he, hm3, hm2, hm4, hm16, hm6, hm12, hip]
    rfl
  · have he : entryWrites 1 (leAt b 0 2) (streamTlvs 1 b) = ((streamFlds 1 (leAt b 0 2)).zip [leAt b 3 1 % 2 ^ 8, leAt b 2 1 % 2 ^ 16, leAt b 4 2 % 2 ^ 16,
      leAt b 16 2 % 2 ^ 16, 1, 0, leAt b 6 1 % 2 ^ 8, leAt b 12 2 % 2 ^ 16, swapBytes 4 (swapBytes 4 (leAt b 8 4) % 2 ^ 32), 0, 0, 0]).map
        (fun x => (x.1, Upd.static, x.2)) := rfl
    rw [he, hm3, hm2, hm4, hm16, hm6, hm12, hip]
    rfl

end Sys2Proof.Machine

end

