-- ==== Sys2Proof/Proofs/StreamSet.lean ====
section

namespace Sys2Proof.Machine

/-- The bounds of the parameters that they use: TYPE, length, least and greatest value. -/
def streamBounds (dir : Nat) : List (Nat × Nat × Nat × Nat) :=
  if dir = 0 then [(1, 2, 0, 511), (8, 1, 0, 3), (10, 2, 1, 256), (11, 2, 0, 2047), (12, 2, 0, 2047), (26, 1, 0, 1), (30, 1, 0, 1), (31, 1, 0, 1),
    (32, 2, 0, 65535), (33, 4, 0, 2 ^ 128 - 1)]
  else [(1, 2, 0, 511), (6, 1, 0, 3), (8, 2, 1, 256), (9, 2, 0, 2047), (10, 2, 0, 2047), (20, 1, 0, 1), (21, 1, 0, 1), (22, 1, 0, 1),
    (32, 2, 0, 65535), (33, 4, 0, 2 ^ 128 - 1)]

theorem entrySchema_bounds : ∀ dir < 2, ∀ x ∈ streamBounds dir,
    ((entrySchema dir).find? (fun q => q.ty == x.1)).map (fun q => (q.len, q.lo, q.hi, q.sgn)) = some (x.2.1, x.2.2.1, x.2.2.2, 0) := by
  decide +kernel

theorem tlvOk_entry {dir ty len lo hi v : Nat} (hd : dir < 2) (hb : (ty, len, lo, hi) ∈ streamBounds dir) (hlo : lo ≤ v) (hhi : v ≤ hi) :
    tlvOk (entrySchema dir) ⟨ty, len, v⟩ = true := by
  obtain ⟨q, hq, he⟩ := Option.map_eq_some_iff.1 (entrySchema_bounds dir hd _ hb)
  obtain ⟨rfl, rfl, rfl, hs⟩ : q.len = len ∧ q.lo = lo ∧ q.hi = hi ∧ q.sgn = 0 := by simpa using he
  exact tlvOk_of hq rfl ⟨hlo, hhi⟩ hs

theorem exists_of_forall₂ {α β : Type} {R : α → β → Prop} {l : List α} {m : List β} (h : List.Forall₂ R l m) {a : α} (ha : a ∈ l) :
    ∃ c ∈ m, R a c := by
  induction h with
  | nil => cases ha
  | cons hr _ ih =>
    rcases List.mem_cons.1 ha with rfl | ha'
    · exact ⟨_, List.mem_cons_self .., hr⟩
    · obtain ⟨c, hc, hac⟩ := ih ha'
      exact ⟨c, List.mem_cons_of_mem _ hc, hac⟩

/-- The entry with its settings. -/
def State.putStream (s : State) (dir : Nat) (b : List Byte) : State := (streamSets dir b).foldl (fun s x => s.set x.1 x.2) s

/-- The command that sets a stream's entry, and its opcode. -/
def execStreamSet (dir : Nat) (r : Req) (p : List Tlv) (s : State) : Out := if dir = 0 then execStreamRxSet r p s else execStreamTxSet r p s
def streamOp (dir : Nat) : Nat := if dir = 0 then 0x0501 else 0x0502

section
variable {s : State} {r : Req} {dir : Nat} {b : List Byte} (hd : dir < 2) (h : StreamArgs b)
include hd h

/-- The parameters and their bounds, in order. -/
theorem streamTlvs_bounds : List.Forall₂ (fun t x => t.ty = x.1 ∧ t.len = x.2.1 ∧ x.2.2.1 ≤ t.val ∧ t.val ≤ x.2.2.2) (streamTlvs dir b)
    (streamBounds dir) := by
  have hip := Nat.mod_lt (swapBytes 4 (leAt b 8 4)) (by decide : 0 < 2 ^ 32)
  have hdp := Nat.mod_lt (leAt b 12 2) (by decide : 0 < 2 ^ 16)
  obtain ⟨-, hi, hch1, hch, henc, hspp, hport, -, hslot⟩ := h
  obtain rfl | rfl : dir = 0 ∨ dir = 1 := by omega
  · simp only [streamTlvs, streamBounds, tlv, if_true, List.forall₂_cons, List.Forall₂.nil, true_and, and_true]
    omega
  · simp only [streamTlvs, streamBounds, tlv, one_ne_zero, if_false, List.forall₂_cons, List.Forall₂.nil, true_and, and_true]
    omega

theorem streamTlvs_ok (hb : s.barred (streamOp dir) r = none) : s.refuses r (streamOp dir) (entrySchema dir) (streamTlvs dir b) = none := by
  have hok : ∀ t ∈ streamTlvs dir b, tlvOk (entrySchema dir) t = true := fun t ht => by
    obtain ⟨⟨ty, len, lo, hi⟩, hx, hty, hlen, hlo, hhi⟩ := exists_of_forall₂ (streamTlvs_bounds hd h) ht
    obtain ⟨_, _, v⟩ := t
    obtain rfl : _ = ty := hty
    obtain rfl : _ = len := hlen
    exact tlvOk_entry hd hx hlo hhi
  obtain rfl | rfl : dir = 0 ∨ dir = 1 := by omega
  · exact State.refuses_none (tys := [1, 8, 10, 11, 12, 26, 30, 31, 32, 33]) hb hok rfl (by decide) rfl
  · exact State.refuses_none (tys := [1, 6, 8, 9, 10, 20, 21, 22, 32, 33]) hb hok rfl (by decide) rfl

theorem streamTlvs_vals : Params.val (streamTlvs dir b) 1 = leAt b 0 2 ∧ Params.val? (streamTlvs dir b) 2 = none := by
  have hi := h.mods.1
  obtain rfl | rfl : dir = 0 ∨ dir = 1 := by omega
  · exact ⟨hi, rfl⟩
  · exact ⟨hi, rfl⟩

/-- STREAM_RX_SET and STREAM_TX_SET of a disabled stream write the settings. -/
theorem execStreamSet_of (hb : s.barred (streamOp dir) r = none) (hoff : (s.entry dir (leAt b 0 2)).on = false) :
    execStreamSet dir r (streamTlvs dir b) s = .next ((s.putStream dir b).finish r (streamOp dir) (Reply.ok [])) := by
  have hok := streamTlvs_ok hd h hb
  obtain ⟨h1, h2⟩ := streamTlvs_vals hd h
  have hbody : streamSetBody dir (streamTlvs dir b) s = (Reply.ok [], s.putStream dir b) := by
    simp only [streamSetBody, h1, h2, hoff, Bool.false_and, Bool.false_eq_true, if_false, entryWrites_stream hd h, List.foldl_map]
    rfl
  obtain rfl | rfl : dir = 0 ∨ dir = 1 := by omega
  · exact runCmd_of hok hbody
  · exact runCmd_of hok hbody

end

end Sys2Proof.Machine

end

