-- ==== Sys2Proof/Proofs/StreamEntry.lean ====
section

namespace Sys2Proof.Machine

/-- CHANNELS and RATE of a stream's entry. -/
def chanFld (dir i : Nat) : Fld := if dir = 0 then RXE.CHANNELS i else TXE.CHANNELS i
def rateFld (dir i : Nat) : Fld := if dir = 0 then RXE.RATE i else TXE.RATE i

theorem State.entry_size (s : State) {dir : Nat} (hd : dir < 2) (i : Nat) :
    (s.entry dir i).ch = s.get (chanFld dir i) ∧ (s.entry dir i).k = rateK (s.get (rateFld dir i)) := by
  obtain rfl | rfl : dir = 0 ∨ dir = 1 := by omega
  · exact ⟨rfl, rfl⟩
  · exact ⟨rfl, rfl⟩

theorem streamFlds_keys : ∀ dir < 2, ∀ i < 128, ((streamFlds dir i).map Fld.key).Nodup ∧
    (∀ f ∈ streamFlds dir i, startKey dir i f.key = false ∧ (enableFld dir i).key ≠ f.key) ∧
    startKey dir i (enableFld dir i).key = false ∧ ∀ g ∈ streamFlds dir i, g.key ≠ (rateFld dir i).key := by decide +kernel

/-- The 4,096 keys of a stream's entry. -/
def entryKeys (dir i : Nat) : Nat := 32768 + 8192 * dir + i

theorem entryKeys_of {dir : Nat} (hd : dir < 2) (i : Nat) : ∀ f ∈ chanFld dir i :: rateFld dir i :: streamFlds dir i, f.key / 4096 = entryKeys dir i := by
  obtain rfl | rfl : dir = 0 ∨ dir = 1 := by omega
  · simp only [chanFld, rateFld, streamFlds, if_true, List.forall_mem_cons, List.not_mem_nil, false_implies, implies_true, and_true, Fld.key, entryKeys,
      RXE.ENC, RXE.CHANNELS, RXE.RATE, RXE.SPP, RXE.BASE_SLOT, RXE.LEG_VALID, RXE.LEG_IPV6, RXE.LEG_PORT, RXE.LEG_UDP_DPORT, RXE.LEG_DEST_IP]
    omega
  · simp only [chanFld, rateFld, streamFlds, one_ne_zero, if_false, List.forall_mem_cons, List.not_mem_nil, false_implies, implies_true, and_true,
      Fld.key, entryKeys, TXE.ENC, TXE.CHANNELS, TXE.RATE, TXE.SPP, TXE.BASE_SLOT, TXE.LEG_VALID, TXE.LEG_IPV6, TXE.LEG_PORT, TXE.LEG_UDP_DPORT,
      TXE.LEG_DEST_IP]
    omega

section
variable {s : State} {dir : Nat} {b : List Byte}

theorem State.putStream_writes (s : State) (dir : Nat) (b : List Byte) : State.Writes (streamFlds dir (leAt b 0 2)) s (s.putStream dir b) :=
  State.Writes.foldl (fun s x hx => State.Writes.set (List.of_mem_zip (show (x.1, x.2) ∈ _ from hx)).1 s x.2) s

variable (hd : dir < 2)
include hd

theorem chan_mem_streamSets : (chanFld dir (leAt b 0 2), leAt b 2 1) ∈ streamSets dir b := by
  obtain rfl | rfl : dir = 0 ∨ dir = 1 := by omega
  · exact .tail _ (.head _)
  · exact .tail _ (.head _)

/-- The enabled streams, this one not among them, take the units that they took. -/
theorem State.units_putStream (hno : leAt b 0 2 ∉ s.streams dir) : (s.putStream dir b).units dir = s.units dir := by
  have hw := s.putStream_writes dir b
  have hstrm : (s.putStream dir b).streams dir = s.streams dir := by
    unfold State.streams
    rw [hw.rest]
  unfold State.units
  rw [hstrm]
  congr 1
  refine List.map_congr_left (fun o ho => ?_)
  have hne : o ≠ leAt b 0 2 := fun e => hno (e ▸ ho)
  have hsame : ∀ f ∈ [chanFld dir o, rateFld dir o], (s.putStream dir b).get f = s.get f := fun f hf => by
    refine hw.get f (fun g hg e => hne ?_)
    have hgo := entryKeys_of hd _ g (.tail _ (.tail _ hg))
    have hfo := entryKeys_of hd o f (by simp only [List.mem_cons, List.not_mem_nil, or_false] at hf ⊢; tauto)
    rw [e, hfo] at hgo
    unfold entryKeys at hgo
    omega
  obtain ⟨hch, hk⟩ := (s.putStream dir b).entry_size hd o
  obtain ⟨hch', hk'⟩ := s.entry_size hd o
  rw [hch, hk, hch', hk', hsame _ (by simp), hsame _ (by simp)]

/-- They leave what bars a request. -/
theorem State.barred_putStream (s : State) (op : Nat) (r : Req) : (s.putStream dir b).barred op r = s.barred op r := by
  have hw := s.putStream_writes dir b
  have hbar : ∀ f ∈ barFlds, f.key / 4096 < 32768 := by decide
  refine State.barred_congr hw.cmd hw.boot (fun f hf => hw.get f (fun g hg e => ?_)) op r
  have hg := entryKeys_of hd _ g (.tail _ (.tail _ hg))
  have hf := hbar f hf
  rw [e] at hg
  unfold entryKeys at hg
  omega

variable (h : StreamArgs b)
include h

/-- The settings fit their fields. -/
theorem streamSets_fit : ∀ x ∈ streamSets dir b, x.2 < 2 ^ x.1.w := by
  have hip := leAt_lt b 8 4
  have hdp := leAt_lt b 12 2
  obtain ⟨-, hi, hch1, hch, henc, hspp, hport, -, hslot⟩ := h
  obtain rfl | rfl : dir = 0 ∨ dir = 1 := by omega
  · simp only [streamSets, streamFlds, if_true, streamVals, List.zip_cons_cons, List.zip_nil_left, List.forall_mem_cons, List.not_mem_nil, false_implies,
      implies_true, and_true, RXE.ENC, RXE.CHANNELS, RXE.SPP, RXE.BASE_SLOT, RXE.LEG_VALID, RXE.LEG_IPV6, RXE.LEG_PORT, RXE.LEG_UDP_DPORT,
      RXE.LEG_DEST_IP]
    omega
  · simp only [streamSets, streamFlds, one_ne_zero, if_false, streamVals, List.zip_cons_cons, List.zip_nil_left, List.forall_mem_cons, List.not_mem_nil,
      false_implies, implies_true, and_true, TXE.ENC, TXE.CHANNELS, TXE.SPP, TXE.BASE_SLOT, TXE.LEG_VALID, TXE.LEG_IPV6, TXE.LEG_PORT,
      TXE.LEG_UDP_DPORT, TXE.LEG_DEST_IP]
    omega

/-- The settings read as written. -/
theorem State.get_putStream (s : State) : ∀ x ∈ streamSets dir b, (s.putStream dir b).get x.1 = x.2 := by
  intro x hx
  obtain ⟨hnd, -⟩ := streamFlds_keys dir hd _ h.index
  have hfst : (streamSets dir b).map (fun x => x.1.key) = (streamFlds dir (leAt b 0 2)).map Fld.key := by
    have hlen : (streamFlds dir (leAt b 0 2)).length ≤ (streamVals b).length := by
      unfold streamFlds
      split <;> exact Nat.le_refl _
    have hzip := congrArg (List.map Fld.key) (List.map_fst_zip hlen)
    rwa [List.map_map] at hzip
  rw [State.putStream, State.get_foldl_set (F := Prod.fst) (V := Prod.snd) (hfst ▸ hnd) hx, Nat.mod_eq_of_lt (streamSets_fit hd h x hx)]

/-- They leave ENABLE, and give the channels of the entry at its rate. -/
theorem State.entry_putStream (s : State) : ((s.putStream dir b).entry dir (leAt b 0 2)).on = (s.entry dir (leAt b 0 2)).on ∧
    ((s.putStream dir b).entry dir (leAt b 0 2)).ch = leAt b 2 1 ∧
    ((s.putStream dir b).entry dir (leAt b 0 2)).k = (s.entry dir (leAt b 0 2)).k := by
  obtain ⟨-, hkeep, -, hkeep'⟩ := streamFlds_keys dir hd _ h.index
  have hw := s.putStream_writes dir b
  have hon := hw.get (enableFld dir (leAt b 0 2)) (fun g hg => (hkeep g hg).2.symm)
  have hrate := hw.get (rateFld dir (leAt b 0 2)) hkeep'
  have hchan := s.get_putStream hd h _ (chan_mem_streamSets hd)
  generalize s.putStream dir b = u at *
  refine ⟨?_, (u.entry_size hd _).1.trans hchan, ?_⟩
  · rw [State.entry_on _ hd, State.entry_on _ hd, State.on, State.on, hon]
  · rw [(u.entry_size hd _).2, (s.entry_size hd _).2, hrate]

end

end Sys2Proof.Machine

end

