-- ==== Sys2Proof/Proofs/StreamCommand.lean ====
section

namespace Sys2Proof.Machine

section
variable {s : State} {r : Req} {dir : Nat} {b : List Byte} (hd : dir < 2) (h : StreamArgs b)
include hd h

theorem streamTlv_at (k : Nat) {f : Fld} {ty : Nat} (hk : ((streamFlds dir (leAt b 0 2)).zip (streamTys dir))[k]? = some (f, ty)) (v : Nat) :
    streamTlv dir (leAt b 0 2) v f = some (tlv ty (fieldLen f.w) v) :=
  streamTlv_of (streamFlds_tys dir hd _ h.index _ (List.mem_of_getElem? hk))

/-- The parameters that N5_STREAM_RX and N5_STREAM_TX give STREAM_RX_SET and STREAM_TX_SET. -/
theorem streamTlvs_eq : tlv 1 2 (leAt b 0 2) :: ((streamSets dir b).take 8).filterMap (fun x => streamTlv dir (leAt b 0 2) x.2 x.1) ++
    [tlv 33 4 (swapBytes 4 (leAt b 8 4))] = streamTlvs dir b := by
  have hat := fun k f ty hk v => streamTlv_at hd h k (f := f) (ty := ty) hk v
  obtain rfl | rfl : dir = 0 ∨ dir = 1 := by omega
  · simp only [streamSets, streamFlds, if_true, streamVals, List.zip_cons_cons, List.take_succ_cons, List.take_zero, List.filterMap_cons,
      List.filterMap_nil, hat 0 _ _ rfl, hat 1 _ _ rfl, hat 2 _ _ rfl, hat 3 _ _ rfl, hat 4 _ _ rfl, hat 5 _ _ rfl, hat 6 _ _ rfl, hat 7 _ _ rfl]
    rfl
  · simp only [streamSets, streamFlds, one_ne_zero, if_false, streamVals, List.zip_cons_cons, List.take_succ_cons, List.take_zero, List.filterMap_cons,
      List.filterMap_nil, hat 0 _ _ rfl, hat 1 _ _ rfl, hat 2 _ _ rfl, hat 3 _ _ rfl, hat 4 _ _ rfl, hat 5 _ _ rfl, hat 6 _ _ rfl, hat 7 _ _ rfl]
    rfl

/-- The settings of a disabled stream, and then STREAM_ENABLE on them, unless the budget of R7 would be exceeded. -/
theorem n5Stream_of {op : Nat} {t : State} (hb : s.barred op r = none) (hset : s.barred (streamOp dir) r = none)
    (hoff : (s.entry dir (leAt b 0 2)).on = false)
    (ht : execStreamEnable r [tlv 1 1 dir, tlv 2 1 (leAt b 14 1), tlv 3 2 (leAt b 0 2)] (s.putStream dir b) = .next t) :
    n5Stream op dir r b s = .next (s.unlessBudget t dir (leAt b 0 2)) := by
  have hdone := execStreamSet_of hd h hset hoff
  have hc := (s.putStream_writes dir b).cmd
  have ht' := congrArg (nextOf (s.putStream dir b)) ht
  rw [← streamTlvs_eq hd h] at hdone
  generalize hts : tlv 1 2 (leAt b 0 2) :: ((streamSets dir b).take 8).filterMap (fun x => streamTlv dir (leAt b 0 2) x.2 x.1) ++
    [tlv 33 4 (swapBytes 4 (leAt b 8 4))] = ts at hdone
  have hthen := State.andThen_ok (a := fun s => nextOf s (execStreamSet dir r ts s))
    (b := fun s => nextOf s (execStreamEnable r [tlv 1 1 dir, tlv 2 1 (leAt b 14 1), tlv 3 2 (leAt b 0 2)] s))
    (congrArg (nextOf s) hdone) hc
  subst hts
  obtain ⟨hl, hi, hch1, hch, henc, hspp, hport, hen, hslot⟩ := h
  have hno : ¬ (127 < leAt b 0 2 ∨ leAt b 2 1 = 0 ∨ 64 < leAt b 2 1 ∨ 1 < leAt b 3 1 ∨ 2047 < leAt b 4 2 ∨ 1 < leAt b 6 1 ∨ 1 < leAt b 14 1 ∨
    512 < leAt b 16 2 + leAt b 2 1) := by omega
  unfold n5Stream
  refine n5Run_inr hb hl ((if_neg hno).trans (congrArg Sum.inr ?_))
  refine congrArg (fun x => s.unlessBudget x dir (leAt b 0 2)) (Eq.trans ?_ ht')
  obtain rfl | rfl : dir = 0 ∨ dir = 1 := by omega
  · exact hthen
  · exact hthen

end

end Sys2Proof.Machine

end

