-- ==== Sys2Proof/Proofs/StreamBudget.lean ====
section

namespace Sys2Proof.Machine

/-- The enable of a disabled stream: what it keeps, and how its status tells whether the stream runs. -/
theorem State.enableStream_keeps {s : State} {dir i : Nat} (hd : dir < 2) (hi : i < 128) (hoff : (s.entry dir i).on = false) (on : Bool) :
    (s.enableStream dir i on).2.2.cmd = s.cmd ∧ (∀ f ∈ streamFlds dir i, (s.enableStream dir i on).2.2.get f = s.get f) ∧
      ((s.enableStream dir i on).2.2.entry dir i).on = (on && (s.enableStream dir i on).1 == 0) ∧
      (on = false → (s.enableStream dir i on).1 = 0) ∧ ((s.enableStream dir i on).1 ≠ 0 → (s.enableStream dir i on).2.2 = s) := by
  cases on with
  | false =>
    rw [State.enableStream_off hoff]
    exact ⟨rfl, fun _ _ => rfl, hoff, fun _ => rfl, fun _ => rfl⟩
  | true =>
    rcases State.enableStream_cases hoff with ⟨st, err, hne, he⟩ | ⟨lanes, -, he⟩
    · rw [he]
      exact ⟨rfl, fun _ _ => rfl, by simp [hoff, hne], fun h => absurd h (by decide), fun _ => rfl⟩
    · obtain ⟨-, hkeep, hen, -⟩ := streamFlds_keys dir hd i hi
      obtain ⟨u, hregs, hcmd, hcalm⟩ := s.streamStart_calm hd i lanes
      have hon : (s.streamStart dir i lanes).get (enableFld dir i) = 1 % 2 ^ (enableFld dir i).w := (hcalm.get _ hen).trans (State.get_set_self u _ 1)
      have hw : (enableFld dir i).w = 1 := by unfold enableFld; split <;> rfl
      rw [he]
      refine ⟨hcalm.cmd.trans hcmd, fun f hf => ?_, ?_, fun h => absurd h (by decide), fun h => absurd rfl h⟩
      · rw [hcalm.get f (hkeep f hf).1, State.get_set_of_ne _ (hkeep f hf).2, State.get_congr hregs]
      · rw [State.entry_on _ hd, State.on, hon, hw]
        rfl

/-- The enable that N5_STREAM_RX and N5_STREAM_TX apply to the entry with its settings: its status, its ERR and the state. -/
def State.streamEnabled (s : State) (dir : Nat) (b : List Byte) : Nat × Nat × State :=
  (s.putStream dir b).enableStream dir (leAt b 0 2) (decide (leAt b 14 1 = 1))

/-- The units of the enabled streams with those that the command asks for (R7). -/
def State.unitsAsked (s : State) (dir : Nat) (b : List Byte) : Nat := s.units dir + leAt b 2 1 * (s.entry dir (leAt b 0 2)).k

section
variable {s : State} {r : Req} {dir op : Nat} {b : List Byte} (hd : dir < 2) (h : StreamArgs b)
include hd h

/-- The units of the entry with its settings. -/
theorem State.units_asked (hno : leAt b 0 2 ∉ s.streams dir) : (s.putStream dir b).units dir +
    ((s.putStream dir b).entry dir (leAt b 0 2)).ch * ((s.putStream dir b).entry dir (leAt b 0 2)).k = s.unitsAsked dir b := by
  obtain ⟨-, hch, hk⟩ := s.entry_putStream hd h
  rw [hch, hk, s.units_putStream hd hno, State.unitsAsked]

variable (hoff : (s.entry dir (leAt b 0 2)).on = false)
include hoff

theorem State.streamEnabled_keeps : (s.streamEnabled dir b).2.2.cmd = s.cmd ∧ (∀ x ∈ streamSets dir b, (s.streamEnabled dir b).2.2.get x.1 = x.2) ∧
    ((s.streamEnabled dir b).2.2.entry dir (leAt b 0 2)).on = (decide (leAt b 14 1 = 1) && (s.streamEnabled dir b).1 == 0) ∧
    (leAt b 14 1 ≠ 1 → (s.streamEnabled dir b).1 = 0) ∧ ((s.streamEnabled dir b).1 ≠ 0 → (s.streamEnabled dir b).2.2 = s.putStream dir b) := by
  obtain ⟨hon, -, -⟩ := s.entry_putStream hd h
  obtain ⟨hcmd, hget, hrun, hzero, hback⟩ := State.enableStream_keeps hd h.index (hon.trans hoff) (decide (leAt b 14 1 = 1))
  refine ⟨hcmd.trans (s.putStream_writes dir b).cmd, fun x hx => ?_, hrun, fun hne => hzero (decide_eq_false hne), hback⟩
  exact (hget x.1 (List.of_mem_zip (show (x.1, x.2) ∈ _ from hx)).1).trans (s.get_putStream hd h x hx)

variable (hb : s.barred op r = none) (hset : s.barred (streamOp dir) r = none) (hen : s.barred 0x0503 r = none) (hno : leAt b 0 2 ∉ s.streams dir)
include hb hset hen hno

/-- The whole command: beyond the budget an enable that is refused with NO_RESOURCE leaves the part as it was. -/
theorem n5Stream_eq : ∃ off, n5Stream op dir r b s =
    .next (if (s.streamEnabled dir b).1 = Status.noResource ∧ 2048 < s.unitsAsked dir b
      then s.addWait (enableWait r dir (leAt b 0 2) (s.streamEnabled dir b).1 off)
      else (s.streamEnabled dir b).2.2.addWait (enableWait r dir (leAt b 0 2) (s.streamEnabled dir b).1 off)) := by
  obtain ⟨hcmd, -, -, -, hback⟩ := State.streamEnabled_keeps hd h hoff
  obtain ⟨hon, -, -⟩ := s.entry_putStream hd h
  have hi : leAt b 0 2 < 512 := lt_trans h.index (by decide)
  have hasked := State.units_asked hd h hno
  obtain ⟨off, hexec⟩ := execStreamEnable_of (en := leAt b 14 1) ((s.barred_putStream hd 0x0503 r).trans hen) hd h.enable hi (hon.trans hoff)
  refine ⟨off, (n5Stream_of hd h hb hset hoff hexec).trans (congrArg _ ((State.unlessBudget_addWait hcmd r _ off).trans ?_))⟩
  refine if_congr (and_congr_right (fun hst => ?_)) rfl rfl
  have hput : (s.streamEnabled dir b).2.2 = s.putStream dir b := hback (ne_of_eq_of_ne hst (by decide))
  rw [← hasked, ← hput]

/-- Within the budget, or without an enable, the settings are written and ENABLE says whether the enable's status is 0. -/
theorem n5Stream_within (hw : leAt b 14 1 = 0 ∨ s.unitsAsked dir b ≤ 2048) : ∃ t st off, n5Stream op dir r b s = .next t ∧
    t.cmd.waits.getLast? = some (enableWait r dir (leAt b 0 2) st off) ∧ t.cmd.results = s.cmd.results ∧
    (leAt b 14 1 = 0 → st = 0 ∧ (t.entry dir (leAt b 0 2)).on = false) ∧ (leAt b 14 1 = 1 → (t.entry dir (leAt b 0 2)).on = (st == 0)) ∧
    ∀ x ∈ streamSets dir b, t.get x.1 = x.2 := by
  obtain ⟨off, he⟩ := n5Stream_eq hd h hoff hb hset hen hno
  obtain ⟨hcmd, hget, hon, hzero, -⟩ := State.streamEnabled_keeps hd h hoff
  have hstay : ¬ ((s.streamEnabled dir b).1 = Status.noResource ∧ 2048 < s.unitsAsked dir b) := by
    rintro ⟨hst, hlt⟩
    have h0 := hzero (by omega)
    rw [hst] at h0
    exact absurd h0 (by decide)
  rw [if_neg hstay] at he
  refine ⟨_, _, off, he, List.getLast?_concat .., (congrArg CmdState.results hcmd :), fun h0 => ⟨hzero (by omega), ?_⟩, fun h1 => ?_, hget⟩
  · exact hon.trans (by rw [h0]; rfl)
  · exact hon.trans (by rw [h1]; rfl)

/-- Beyond the budget the enable is refused, and with NO_RESOURCE nothing has changed. -/
theorem n5Stream_beyond (h1 : leAt b 14 1 = 1) (hw : 2048 < s.unitsAsked dir b) : ∃ t st off, n5Stream op dir r b s = .next t ∧ st ≠ 0 ∧
    (t.entry dir (leAt b 0 2)).on = false ∧ t.cmd.waits.getLast? = some (enableWait r dir (leAt b 0 2) st off) ∧
    (st = Status.noResource → t = { s with cmd := t.cmd }) := by
  obtain ⟨off, he⟩ := n5Stream_eq hd h hoff hb hset hen hno
  obtain ⟨hon, -, -⟩ := s.entry_putStream hd h
  have hput := hon.trans hoff
  have htaken : (s.putStream dir b).slotsTaken dir (leAt b 0 2) = true := by
    unfold State.slotsTaken
    dsimp only
    rw [State.units_asked hd h hno, decide_eq_true hw, Bool.or_true]
  have hen1 : s.streamEnabled dir b = (s.putStream dir b).enableStream dir (leAt b 0 2) true := by rw [State.streamEnabled, h1]; rfl
  rcases State.enableStream_cases hput with ⟨st, err, hne, hfail⟩ | ⟨lanes, hfree, -⟩
  · rw [hen1, hfail] at he
    by_cases hst : st = Status.noResource
    · rw [if_pos ⟨hst, hw⟩] at he
      exact ⟨_, st, off, he, hne, hoff, List.getLast?_concat .., fun _ => rfl⟩
    · rw [if_neg (fun hh => hst hh.1)] at he
      exact ⟨_, st, off, he, hne, hput, List.getLast?_concat .., fun hh => absurd hh hst⟩
  · rw [htaken] at hfree
    cases hfree

end

end Sys2Proof.Machine

end

