-- ==== Sys2Proof/Proofs/Nc512Commands.lean ====
section

namespace Sys2Proof.Machine

theorem State.on_of_get {s : State} {f : Fld} (h : s.get f = 1) : s.on f = true := decide_eq_true (by rw [h]; decide)

/-- The fields of a receive entry as given. -/
theorem streamSets_rx {t : State} {b : List Byte} (h : ∀ x ∈ streamSets 0 b, t.get x.1 = x.2) : t.get (RXE.CHANNELS (leAt b 0 2)) = leAt b 2 1 ∧
    t.get (RXE.ENC (leAt b 0 2)) = leAt b 3 1 ∧ t.get (RXE.SPP (leAt b 0 2)) = leAt b 4 2 ∧ t.get (RXE.LEG_PORT (leAt b 0 2) 0) = leAt b 6 1 ∧
    t.get (RXE.LEG_DEST_IP (leAt b 0 2) 0 0) = leAt b 8 4 ∧ t.get (RXE.LEG_UDP_DPORT (leAt b 0 2) 0) = leAt b 12 2 ∧
    t.get (RXE.BASE_SLOT (leAt b 0 2)) = leAt b 16 2 ∧ t.on (RXE.LEG_VALID (leAt b 0 2) 0) = true := by
  have hat := fun k f v (hk : (streamSets 0 b)[k]? = some (f, v)) => h (f, v) (List.mem_of_getElem? hk)
  exact ⟨hat 1 _ _ rfl, hat 0 _ _ rfl, hat 2 _ _ rfl, hat 6 _ _ rfl, hat 8 _ _ rfl, hat 7 _ _ rfl, hat 3 _ _ rfl, State.on_of_get (hat 4 _ _ rfl)⟩

/-- The fields of a transmit entry as given. -/
theorem streamSets_tx {t : State} {b : List Byte} (h : ∀ x ∈ streamSets 1 b, t.get x.1 = x.2) : t.get (TXE.CHANNELS (leAt b 0 2)) = leAt b 2 1 ∧
    t.get (TXE.ENC (leAt b 0 2)) = leAt b 3 1 ∧ t.get (TXE.SPP (leAt b 0 2)) = leAt b 4 2 ∧ t.get (TXE.LEG_PORT (leAt b 0 2) 0) = leAt b 6 1 ∧
    t.get (TXE.LEG_DEST_IP (leAt b 0 2) 0 0) = leAt b 8 4 ∧ t.get (TXE.LEG_UDP_DPORT (leAt b 0 2) 0) = leAt b 12 2 ∧
    t.get (TXE.BASE_SLOT (leAt b 0 2)) = leAt b 16 2 ∧ t.on (TXE.LEG_VALID (leAt b 0 2) 0) = true := by
  have hat := fun k f v (hk : (streamSets 1 b)[k]? = some (f, v)) => h (f, v) (List.mem_of_getElem? hk)
  exact ⟨hat 1 _ _ rfl, hat 0 _ _ rfl, hat 2 _ _ rfl, hat 6 _ _ rfl, hat 8 _ _ rfl, hat 7 _ _ rfl, hat 3 _ _ rfl, State.on_of_get (hat 4 _ _ rfl)⟩

theorem n5Route_badLength {s : State} {r : Req} {b : List Byte} (hb : s.barred 0x1001 r = none) (hl : b.length ≠ 8) :
    Machine.exec (.n5Route r b) s = .next (s.finish r 0x1001 (Reply.err Status.badLength)) := by
  have he : Machine.exec (.n5Route r b) s = execN5Route r b s := rfl
  rw [he]
  unfold execN5Route
  exact n5Run_badLength hb hl

/-- Settles O41: each command by the command of its own that the model gives it; the streams' budget by the check of the slots. -/
theorem nc512Commands : Obligations.Nc512Commands := by
  unfold Obligations.Nc512Commands
  intro s r b x sized
  refine ⟨?mix, ?streams, ?port, ?clock, ?memtest, ?length⟩
  case mix =>
    intro hb hb' hc hm hbus base count waits none' term bus
    exact ⟨fun hn hl hchk => n5MixSet_none hb hb' hc hm hbus hn hl hchk,
      fun hn hl hsrc hcount hchk => n5MixSet_one hb hb' hc hm hbus hn hl hsrc hcount hchk⟩
  case streams =>
    intro i hl hi hch1 hch henc hspp hport hen hslot hbar outcome refused
    have h : StreamArgs b := ⟨hl, hi, hch1, hch, henc, hspp, hport, hen, hslot⟩
    refine ⟨fun hb hset hoff hno => ⟨fun hw => ?_, fun h1 hw => ?_⟩, fun hb hset hoff hno => ⟨fun hw => ?_, fun h1 hw => ?_⟩⟩
    · obtain ⟨t, st, off, he, hlast, hres, h0, h1, hget⟩ := n5Stream_within (dir := 0) (by decide) h hoff hb hset hbar hno hw
      exact ⟨t, he, ⟨st, off, hlast, h0, h1, hres⟩, streamSets_rx hget⟩
    · obtain ⟨t, st, off, he, hne, hon, hlast, hsame⟩ := n5Stream_beyond (dir := 0) (by decide) h hoff hb hset hbar hno h1 hw
      exact ⟨t, st, he, ⟨hne, hon, off, hlast⟩, hsame⟩
    · obtain ⟨t, st, off, he, hlast, hres, h0, h1, hget⟩ := n5Stream_within (dir := 1) (by decide) h hoff hb hset hbar hno hw
      exact ⟨t, he, ⟨st, off, hlast, h0, h1, hres⟩, streamSets_tx hget⟩
    · obtain ⟨t, st, off, he, hne, hon, hlast, hsame⟩ := n5Stream_beyond (dir := 1) (by decide) h hoff hb hset hbar hno h1 hw
      exact ⟨t, st, he, ⟨hne, hon, off, hlast⟩, hsame⟩
  case port =>
    intro p hl hp hf h2 hs hw he hb hset hstart hstop h0 hen
    exact n5TdmPort_sets hl hp hf h2 hs hw he hb hset hstart hstop h0 hen
  case clock =>
    intro hl h hb hb'
    obtain ⟨t, he, hrec, hrank⟩ := n5ClockRef_ranks hl h hb hb'
    exact ⟨t, he, hrec, fun n hn => (hrank n (by omega)).trans (if_neg (by omega)), hrank 7 (by decide)⟩
  case memtest =>
    intro hl hb ha hr hs
    exact ⟨fun u hu hm hrole => n5Memtest_begins hl hb ha hr hs hu hm hrole, fun hm => n5Memtest_empty hl hb ha hr hm⟩
  case length =>
    intro hl hb
    exact n5Route_badLength hb hl

end Sys2Proof.Machine

end

