-- ==== Sys2Proof/Proofs/IdleStep.lean ====
section

namespace Sys2Proof.Machine

/-- A record's first entry longer than the 2,048 bytes that one frame of an orbit link takes (R426). -/
def longRecord : QItem := ⟨List.replicate 2049 0#8, []⟩

/-- A moon that holds index 1, its CORE clock running and its uplink UP, with that record alone in the EVENT queue. -/
def longRecordMoon : State :=
  let s := ((((State.reset.set SYS.STATUS_STEP 10).set ORB.STATUS_ROLE_STRAP 1).set ORB.STATUS_JOIN_STATE 1).set ORB.STATUS_OWN_INDEX 1).set
    (ORB.LINK_LINK_STATE 0) 3
  s.setQueue 0 ⟨[], [⟨.head longRecord, false⟩], none⟩

theorem longRecordMoon_upward : longRecordMoon.upward = true ∧ longRecordMoon.coreRuns = true ∧ longRecordMoon.bellowsOf 0 = none := by
  decide +kernel

/-- Its frame takes the record in two pieces, so that the last frame sent does not hold the whole record. -/
theorem longRecordMoon_sent : (longRecordMoon.cycle.link longRecordMoon.uplink).sent.getLast? ≠
    some ⟨4, 0, unitAt (longRecordMoon.link longRecordMoon.uplink).seqs 4 0, longRecord.hdr⟩ := by
  decide +kernel

/-- Refutes O3: the statement takes any first entry for a record, and one of more than 2,048 bytes leaves in two EVENT frames. -/
theorem not_idleStepIsOneCoreCycle : ¬ Obligations.IdleStepIsOneCoreCycle := by
  unfold Obligations.IdleStepIsOneCoreCycle
  intro h
  obtain ⟨t, hstep, -, -, -, -, -, -, hrecord, -⟩ := h longRecordMoon rfl
  obtain rfl : longRecordMoon.cycle = t := Host.Outcome.next.inj hstep
  obtain ⟨hup, hcore, hbellows⟩ := longRecordMoon_upward
  obtain ⟨-, hsent, -⟩ := hrecord longRecord false [] hup hcore rfl rfl (by simp) hbellows
  exact longRecordMoon_sent hsent

end Sys2Proof.Machine

end

