-- ==== Sys2Proof/Proofs/TimeSteps.lean ====
section

namespace Sys2Proof.Machine

/-! ## Steps of the time engine -/

/-- Keys of the fields of `l`, and those an event changes. -/
def among (l : List Fld) (k : Nat) : Bool := eventKey k || l.any (fun f => f.key == k)

theorem among_of_mem {l : List Fld} {f : Fld} (h : f ∈ l) : among l f.key = true := by
  simp only [among, Bool.or_eq_true, List.any_eq_true]
  exact Or.inr ⟨f, h, beq_self_eq_true _⟩

theorem among_of_event {l : List Fld} (k : Nat) (h : eventKey k = true) : among l k = true := by simp [among, h]

theorem among_mono {l m : List Fld} (h : ∀ f ∈ l, f ∈ m) (k : Nat) (hk : among l k = true) : among m k = true := by
  simp only [among, Bool.or_eq_true, List.any_eq_true] at hk ⊢
  exact hk.imp_right (fun ⟨f, hf, he⟩ => ⟨f, h f hf, he⟩)

/-- A field that no event touches and that has no key of `l` is not among them. -/
theorem among_false {l : List Fld} {f : Fld} (hl : f.lo < 32) (hq : f.quiet) (h : ∀ g ∈ l, g.key ≠ f.key) : among l f.key = false := by
  simp only [among, eventKey_of_quiet hl hq, Bool.false_or, List.any_eq_false, beq_iff_eq]
  exact h

/-- What the servo and the port states leave of an PTP port: its parent, the masters it hears and its last offset. None of them finds an exchange valid. -/
structure PtpPort.Keeps (x y : PtpPort) : Prop where
  parent : y.parent = x.parent
  foreign : y.foreign = x.foreign
  lastOfs : y.lastOfs = x.lastOfs
  recent : y.recent = true → x.recent = true

theorem PtpPort.Keeps.refl (x : PtpPort) : PtpPort.Keeps x x := ⟨rfl, rfl, rfl, id⟩

theorem PtpPort.Keeps.trans {x y z : PtpPort} (a : PtpPort.Keeps x y) (b : PtpPort.Keeps y z) : PtpPort.Keeps x z :=
  ⟨b.parent.trans a.parent, b.foreign.trans a.foreign, b.lastOfs.trans a.lastOfs, a.recent ∘ b.recent⟩

theorem State.ptp_setPtp_of_ne (s : State) {p q : Nat} (h : p ≠ q) (x : PtpPort) : (s.setPtp p x).ptp q = s.ptp q :=
  unitAt_setIfInBounds_of_ne h s.time.ports x _

theorem State.ptp_congr {s t : State} (h : t.time.ports = s.time.ports) (q : Nat) : t.ptp q = s.ptp q := by simp only [State.ptp, h]

/-- Putting an PTP port that keeps its master keeps every PTP port. -/
theorem State.keeps_setPtp {s : State} {p : Nat} {x : PtpPort} (h : (s.ptp p).Keeps x) (q : Nat) : (s.ptp q).Keeps ((s.setPtp p x).ptp q) := by
  by_cases hq : p = q
  · subst hq
    by_cases hp : p < 2
    · rwa [State.ptp_setPtp_self s hp]
    · have hnone : (s.setPtp p x).ptp p = s.ptp p := by simp [State.ptp, State.setPtp, unitAt, hp]
      rw [hnone]
      exact PtpPort.Keeps.refl _
  · rw [State.ptp_setPtp_of_ne s hq]
    exact PtpPort.Keeps.refl _

/-- From `s` to `t` a field reads otherwise only where `P` accepts its key, flags of TIME.INT that are set stay set, the PTP ports keep their masters, and the
command processor, the count of cycles and an armed load stay. -/
structure State.Steers (P : Nat → Bool) (s t : State) : Prop where
  get : ∀ f : Fld, P f.key = false → t.get f = s.get f
  flag : ∀ i, i < 11 → s.bit TIME.INT i = true → t.bit TIME.INT i = true
  ptp : ∀ q, (s.ptp q).Keeps (t.ptp q)
  cmd : t.cmd = s.cmd
  cycles : t.cycles = s.cycles
  pps : t.time.pps = s.time.pps

namespace State.Steers

variable {P Q : Nat → Bool} {s t u : State}

theorem trans (a : Steers P s t) (b : Steers P t u) : Steers P s u :=
  ⟨fun f h => (b.get f h).trans (a.get f h), fun i hi h => b.flag i hi (a.flag i hi h), fun q => (a.ptp q).trans (b.ptp q), b.cmd.trans a.cmd,
    b.cycles.trans a.cycles, b.pps.trans a.pps⟩

theorem mono (h : ∀ k, P k = true → Q k = true) (a : Steers P s t) : Steers Q s t :=
  ⟨fun f hf => a.get f (Bool.eq_false_of_not_eq_true (fun hp => absurd (h _ hp) (by simp [hf]))), a.flag, a.ptp, a.cmd, a.cycles, a.pps⟩

/-- A step that leaves the registers, the PTP ports, the command processor, the count of cycles and the armed load. -/
theorem of_eq (P : Nat → Bool) (hr : t.regs = s.regs) (hp : t.time.ports = s.time.ports) (hc : t.cmd = s.cmd) (hy : t.cycles = s.cycles)
    (hl : t.time.pps = s.time.pps) : Steers P s t :=
  ⟨fun f _ => State.get_congr hr f, fun i _ h => by rwa [State.bit, State.get_congr hr], fun q => by rw [State.ptp_congr hp]; exact .refl _, hc, hy, hl⟩

theorem refl (P : Nat → Bool) (s : State) : Steers P s s := of_eq P rfl rfl rfl rfl rfl

theorem set {f : Fld} (h : P f.key = true) (hi : f.key ≠ TIME.INT.key) (s : State) (v : Nat) : Steers P s (s.set f v) :=
  ⟨fun _ hg => State.get_set_of_ne _ (fun e => by rw [e, hg] at h; cases h) _,
    fun i _ hb => by rwa [State.bit, State.get_set_of_ne s hi], fun q => .refl _, rfl, rfl, rfl⟩

theorem setPtp (P : Nat → Bool) {p : Nat} {x : PtpPort} (h : (s.ptp p).Keeps x) : Steers P s (s.setPtp p x) :=
  ⟨fun _ _ => rfl, fun _ _ hb => hb, State.keeps_setPtp h, rfl, rfl, rfl⟩

theorem event {R : Nat → Bool} (h : State.EventStep R s t) (hR : ∀ k, R k = true → P k = true) (hi : R TIME.INT.key = false) : Steers P s t :=
  ⟨fun f hf => h.get f (Bool.eq_false_of_not_eq_true (fun hr => absurd (hR _ hr) (by simp [hf]))),
    fun i _ hb => by rwa [State.bit, h.get _ hi], fun q => by rw [State.ptp_congr (by rw [h.time])]; exact .refl _, h.cmd, h.cycles, by rw [h.time]⟩

theorem ite {c : Prop} [Decidable c] (a : Steers P s t) (b : Steers P s u) : Steers P s (if c then t else u) := by
  split
  · exact a
  · exact b

theorem foldl {α : Type} {g : State → α → State} {xs : List α} (h : ∀ s, ∀ a ∈ xs, Steers P s (g s a)) (s : State) : Steers P s (xs.foldl g s) := by
  induction xs generalizing s with
  | nil => exact refl P s
  | cons a xs ih => exact (h s a (List.mem_cons_self ..)).trans (ih (fun s b hb => h s b (List.mem_cons_of_mem _ hb)) _)

end State.Steers

/-- Setting a flag keeps the others of its register. -/
theorem State.bit_setBit_of_bit (s : State) (f : Fld) (i : Nat) {j : Nat} (hj : j < f.w) (h : s.bit f j = true) :
    (s.setBit f i true).bit f j = true := by
  simp only [State.bit] at h
  simp [State.bit, State.setBit, Nat.testBit_mod_two_pow, hj, Nat.testBit_or, h]

/-- The flag of a signal is set, and an event raised where it is enabled. -/
theorem State.Steers.signal {P : Nat → Bool} {int : Fld} (hi : P int.key = true) (he : ∀ k, eventKey k = true → P k = true)
    (hint : int = TIME.INT ∨ int.key ≠ TIME.INT.key) (s : State) (en : Fld) (i c b u : Nat) (d : List Byte) :
    State.Steers P s (s.signal int en i c b u d) := by
  have hset : State.Steers P s (s.setBit int i true) := by
    rcases hint with rfl | hne
    · exact ⟨fun _ hg => State.get_set_of_ne _ (fun e => by rw [e, hg] at hi; cases hi) _,
        fun j hj hb => s.bit_setBit_of_bit TIME.INT i hj hb, fun q => .refl _, rfl, rfl, rfl⟩
    · exact State.Steers.set hi hne s _
  unfold State.signal
  exact State.Steers.ite (hset.trans (State.Steers.event (State.raise_event _ c b u d) he (by decide))) hset

/-- Such a step that changes nothing but registers, queues, pending messages and the time engine. -/
structure State.TimeStep (P : Nat → Bool) (s t : State) : Prop extends State.Steers P s t where
  rest : t = { s with regs := t.regs, que := t.que, dma := { s.dma with msi := t.dma.msi }, time := t.time }

namespace State.TimeStep

variable {P Q : Nat → Bool} {s t u : State}

theorem trans (a : TimeStep P s t) (b : TimeStep P t u) : TimeStep P s u := by
  refine ⟨a.toSteers.trans b.toSteers, ?_⟩
  have h := b.rest
  rw [a.rest] at h
  exact h

theorem mono (h : ∀ k, P k = true → Q k = true) (a : TimeStep P s t) : TimeStep Q s t := ⟨a.toSteers.mono h, a.rest⟩

theorem refl (P : Nat → Bool) (s : State) : TimeStep P s s := ⟨.refl P s, rfl⟩

theorem set {f : Fld} (h : P f.key = true) (hi : f.key ≠ TIME.INT.key) (s : State) (v : Nat) : TimeStep P s (s.set f v) := ⟨.set h hi s v, rfl⟩

theorem setPtp (P : Nat → Bool) {p : Nat} {x : PtpPort} (h : (s.ptp p).Keeps x) : TimeStep P s (s.setPtp p x) := ⟨.setPtp P h, rfl⟩

/-- Values of the engine beside its PTP ports and the armed load. -/
theorem engine (P : Nat → Bool) (s : State) {x : TimeState} (hp : x.ports = s.time.ports) (hl : x.pps = s.time.pps) :
    TimeStep P s { s with time := x } :=
  ⟨.of_eq P rfl hp rfl rfl hl, rfl⟩

theorem ite {c : Prop} [Decidable c] (a : TimeStep P s t) (b : TimeStep P s u) : TimeStep P s (if c then t else u) := by
  split
  · exact a
  · exact b

/-- No unit but the engine is touched. -/
theorem timeOnly (a : TimeStep P s t) : s.sameButEvents { t with time := s.time } := by
  unfold State.sameButEvents
  rw [a.rest]

theorem keepsBut {l : List Fld} (a : TimeStep (among l) s t) : s.keepsBut t l := fun f hl hq h => a.get f (among_false hl hq h)

end State.TimeStep

theorem State.signal_rest (s : State) (int en : Fld) (i c b u : Nat) (d : List Byte) : s.sameButEvents (s.signal int en i c b u d) := by
  have h := (State.raise_event (s.setBit int i true) c b u d).rest
  unfold State.signal State.sameButEvents
  dsimp only
  split
  · exact h
  · rfl

theorem State.TimeStep.signal {P : Nat → Bool} {int : Fld} (hi : P int.key = true) (he : ∀ k, eventKey k = true → P k = true)
    (hint : int = TIME.INT ∨ int.key ≠ TIME.INT.key) (s : State) (en : Fld) (i c b u : Nat) (d : List Byte) :
    State.TimeStep P s (s.signal int en i c b u d) := by
  refine ⟨.signal hi he hint s en i c b u d, ?_⟩
  have h := s.signal_rest int en i c b u d
  rw [State.time_signal]
  exact h

/-- A flag of TIME.INT is signalled. -/
theorem State.signal_time {l : List Fld} (h : TIME.INT ∈ l) (s : State) (i c b u : Nat) (d : List Byte) :
    State.TimeStep (among l) s (s.signal TIME.INT TIME.INT_EN i c b u d) :=
  .signal (among_of_mem h) among_of_event (Or.inl rfl) s _ i c b u d

/-- Such a step behind a write of registers and of the engine's data touches no other unit. -/
theorem State.TimeStep.timeOnly_of {P : Nat → Bool} {s t u : State} (hu : u = { s with regs := u.regs, time := u.time }) (h : State.TimeStep P u t) :
    s.sameButEvents { t with time := s.time } := by
  unfold State.sameButEvents
  rw [h.rest, hu]

/-- A command that leaves the command processor adds its outcome to it. -/
theorem State.cmd_finish_of {s t : State} (h : t.cmd = s.cmd) (r : Req) (op : Nat) (rep : Reply) :
    (t.finish r op rep).cmd = { s.cmd with results := s.cmd.results ++ [⟨r.channel, r.tag, op, rep⟩] } := by
  rw [State.finish, h]

end Sys2Proof.Machine

end

