-- ==== Sys2Proof/Proofs/ServoSteps.lean ====
section

namespace Sys2Proof.Machine

/-! ## The servo and the port states (R55, R75, R80) -/

/-- The fields of INCR and its report (R66). -/
def incrFlds : List Fld := [TIME.INCR_LO, TIME.INCR_HI, TIME.FREQ_ADJ]

/-- The fields that a change of the servo's state or of its port may write. -/
def servoFlds : List Fld :=
  TIME.INT :: TIME.STATUS_SERVO_STATE :: TIME.STATUS_DISCIPLINED :: TIME.STATUS_LOCKED :: TIME.STATUS_ACTIVE_PORT :: incrFlds

/-- The fields that a change of the state of port p may write. -/
def portStateFlds (p : Nat) : List Fld := TIME.PORT_STATE p :: TIME.PORT_EXCH_DISCARD p :: servoFlds

/-- A field other than TIME.INT is written. -/
theorem State.TimeStep.write {l : List Fld} {f : Fld} (h : f ∈ l) (hi : f.key ≠ TIME.INT.key) (s : State) (v : Nat) :
    State.TimeStep (among l) s (s.set f v) := .set (among_of_mem h) hi s v

theorem State.setIncr_step (s : State) (v : Int) : State.TimeStep (among incrFlds) s (s.setIncr v) := by
  unfold State.setIncr
  refine .ite ?_ (.refl _ s)
  extract_lets n x s1 s2
  have h1 : State.TimeStep (among incrFlds) s s1 := .engine _ s rfl rfl
  have h2 : State.TimeStep (among incrFlds) s1 s2 := (State.TimeStep.write (by simp [incrFlds]) (by decide) s1 _).trans
    (.write (by simp [incrFlds]) (by decide) _ _)
  exact (h1.trans h2).trans (.write (by simp [incrFlds]) (by decide) s2 _)

theorem State.clearRuns_step (l : List Fld) (s : State) : State.TimeStep (among l) s s.clearRuns := .engine _ s rfl rfl

/-- What follows the entry into a servo state other than TRACK writes INCR and flags. -/
def State.servoEntered (s : State) (old n : Nat) : State :=
  let s := s.clearRuns
  let s := if old = 2 ∧ n = 1 then s.signal TIME.INT TIME.INT_EN TIME.INT_UNLOCKED 0x0202 7 2 s.servoDetail else s
  let s := if n = 3 ∨ n = 4 then s.holdY else s
  if n = 4 then s.signal TIME.INT TIME.INT_EN TIME.INT_MASTER_LOST 0x0206 7 2 [BitVec.ofNat 8 (s.get TIME.STATUS_ACTIVE_PORT)] else s

theorem State.servoEnter_eq {s : State} {n : Nat} (h2 : n ≠ 2) (hne : s.get TIME.STATUS_SERVO_STATE ≠ n) : s.servoEnter n =
    (((s.set TIME.STATUS_SERVO_STATE n).setOn TIME.STATUS_DISCIPLINED (n != 0)).setOn TIME.STATUS_LOCKED (n == 2)).servoEntered
      (s.get TIME.STATUS_SERVO_STATE) n := by
  simp only [State.servoEnter, State.servoEntered, if_neg hne, if_neg h2]

theorem State.servoEntered_step (s : State) (old n : Nat) : State.TimeStep (among (TIME.INT :: incrFlds)) s (s.servoEntered old n) := by
  have hsig := fun (u : State) i c b v d => State.signal_time (l := TIME.INT :: incrFlds) (by simp) u i c b v d
  unfold State.servoEntered
  extract_lets s1 s2 s3
  have h1 : State.TimeStep (among (TIME.INT :: incrFlds)) s s1 := s.clearRuns_step _
  have h2 : State.TimeStep (among (TIME.INT :: incrFlds)) s1 s2 := .ite (hsig s1 _ _ _ _ _) (.refl _ s1)
  have h3 : State.TimeStep (among (TIME.INT :: incrFlds)) s2 s3 :=
    .ite ((s2.setIncr_step _).mono (among_mono (fun _ hf => List.mem_cons_of_mem _ hf))) (.refl _ s2)
  exact ((h1.trans h2).trans h3).trans (.ite (hsig s3 _ _ _ _ _) (.refl _ s3))

theorem State.servoEnter_step (s : State) {n : Nat} (h2 : n ≠ 2) : State.TimeStep (among servoFlds) s (s.servoEnter n) := by
  by_cases hne : s.get TIME.STATUS_SERVO_STATE = n
  · rw [State.servoEnter, if_pos hne]
    exact s.clearRuns_step _
  · rw [State.servoEnter_eq h2 hne]
    exact ((((State.TimeStep.write (by simp [servoFlds]) (by decide) s _).trans (.write (by simp [servoFlds]) (by decide) _ _)).trans
      (.write (by simp [servoFlds]) (by decide) _ _))).trans
      ((State.servoEntered_step _ _ _).mono (among_mono (by simp [servoFlds, incrFlds])))

/-- The servo is in the state it enters. -/
theorem State.servoState_servoEnter (s : State) {n : Nat} (hn : n < 8) (h2 : n ≠ 2) : (s.servoEnter n).get TIME.STATUS_SERVO_STATE = n := by
  by_cases hne : s.get TIME.STATUS_SERVO_STATE = n
  · rw [State.servoEnter, if_pos hne, ← hne]
    rfl
  · rw [State.servoEnter_eq h2 hne, (State.servoEntered_step _ _ _).get _ (by decide)]
    unfold State.setOn
    rw [State.get_set_of_ne _ (by decide), State.get_set_of_ne _ (by decide), State.get_set_self]
    exact Nat.mod_eq_of_lt hn

/-- The entry into HOLD is the loss of the master (R75). -/
theorem State.masterLost_servoEnter {s : State} (h : s.get TIME.STATUS_SERVO_STATE ≠ 4) :
    (s.servoEnter 4).bit TIME.INT TIME.INT_MASTER_LOST = true := by
  rw [State.servoEnter_eq (by decide) h]
  unfold State.servoEntered
  exact State.bit_signal _ _ _ _ _ _ _ _ (by decide) (by decide)

theorem State.gmChanged_step {l : List Fld} (h : TIME.INT ∈ l) (s : State) (p gm : Nat) : State.TimeStep (among l) s (s.gmChanged p gm) :=
  State.signal_time h s _ _ _ _ _

/-- ACTIVE_PORT is switched, its flag set, and the new grandmaster told where it is another. -/
theorem State.switchPort_cases (s : State) (p cause : Nat) : ∃ u : State,
    u = ((s.set TIME.STATUS_ACTIVE_PORT p).clearRuns.signal TIME.INT TIME.INT_EN TIME.INT_PORT_SWITCH 0x0205 7 2
      [BitVec.ofNat 8 (s.get TIME.STATUS_ACTIVE_PORT), BitVec.ofNat 8 p, BitVec.ofNat 8 cause]) ∧
    (s.switchPort p cause = u ∨ ∃ gm, s.switchPort p cause = u.gmChanged p gm) := by
  refine ⟨_, rfl, ?_⟩
  unfold State.switchPort
  extract_lets old s1 s2
  split
  · split
    · exact Or.inl rfl
    · exact Or.inr ⟨_, rfl⟩
  · exact Or.inl rfl

theorem State.switchPort_step (s : State) (p cause : Nat) : State.TimeStep (among servoFlds) s (s.switchPort p cause) := by
  obtain ⟨u, hu, h⟩ := s.switchPort_cases p cause
  have hs : State.TimeStep (among servoFlds) s u := by
    rw [hu]
    exact ((State.TimeStep.write (by simp [servoFlds]) (by decide) s p).trans (State.clearRuns_step _ _)).trans
      (State.signal_time (by simp [servoFlds]) _ _ _ _ _ _)
  rcases h with h | ⟨gm, h⟩ <;> rw [h]
  · exact hs
  · exact hs.trans (u.gmChanged_step (by simp [servoFlds]) p gm)

theorem State.activePort_switchPort (s : State) {p : Nat} (hp : p < 2) (cause : Nat) :
    (s.switchPort p cause).get TIME.STATUS_ACTIVE_PORT = p ∧ (s.switchPort p cause).bit TIME.INT TIME.INT_PORT_SWITCH = true := by
  obtain ⟨u, hu, h⟩ := s.switchPort_cases p cause
  have hget : u.get TIME.STATUS_ACTIVE_PORT = p := by
    rw [hu, State.get_signal _ _ _ _ _ _ _ _ (by decide) (by decide)]
    exact (State.get_set_self s _ p).trans (Nat.mod_eq_of_lt hp)
  have hbit : u.bit TIME.INT TIME.INT_PORT_SWITCH = true := by
    rw [hu]
    exact State.bit_signal _ _ _ _ _ _ _ _ (by decide) (by decide)
  rcases h with h | ⟨gm, h⟩ <;> rw [h]
  · exact ⟨hget, hbit⟩
  · have hgm := u.gmChanged_step (l := [TIME.INT]) (by simp) p gm
    exact ⟨(hgm.get _ (by decide)).trans hget, hgm.flag _ (by decide) hbit⟩

theorem State.settleExit_step (s : State) (cause : Nat) : State.TimeStep (among servoFlds) s (s.settleExit cause) :=
  (State.signal_time (by simp [servoFlds]) s _ _ _ _ _).trans (State.servoEnter_step _ (by decide))

theorem State.settleExit_acquires (s : State) (cause : Nat) :
    (s.settleExit cause).get TIME.STATUS_SERVO_STATE = 1 ∧ (s.settleExit cause).bit TIME.INT TIME.INT_SETTLE_EXIT = true :=
  ⟨State.servoState_servoEnter _ (by decide) (by decide),
    (State.servoEnter_step _ (by decide)).flag _ (by decide) (State.bit_signal _ _ _ _ _ _ _ _ (by decide) (by decide))⟩

theorem State.lossCheck_step (s : State) : State.TimeStep (among servoFlds) s s.lossCheck := by
  unfold State.lossCheck
  exact .ite (.refl _ s) (.ite ((s.switchPort_step _ _).trans (State.servoEnter_step _ (by decide))) (s.servoEnter_step (by decide)))

/-! ### Port states -/

theorem portStateFlds_keys : ∀ p < 2, (TIME.PORT_STATE p).key ≠ TIME.INT.key ∧ (TIME.PORT_EXCH_DISCARD p).key ≠ TIME.INT.key ∧
    eventKey (TIME.PORT_STATE p).key = false ∧ (∀ f ∈ TIME.PORT_EXCH_DISCARD p :: servoFlds, f.key ≠ (TIME.PORT_STATE p).key) := by decide +kernel

theorem State.dropHeld_step {l : List Fld} (s : State) {p : Nat} (hp : p < 2) (h : TIME.PORT_EXCH_DISCARD p ∈ l) :
    State.TimeStep (among l) s (s.dropHeld p) :=
  (State.TimeStep.write h (portStateFlds_keys p hp).2.1 s _).trans (.setPtp _ ⟨rfl, rfl, rfl, id⟩)

/-- What follows the event of the new state `n` of port p, `old` having been that before. -/
def State.portStateTail (s : State) (p old n : Nat) : State :=
  let x := s.ptp p
  if n = 8 ∨ n = 9 then
    if old = 8 ∨ old = 9 then s else s.setPtp p { x with lockRun := 0 }
  else
    let s := (s.dropHeld p)
    let x := s.ptp p
    let s := s.setPtp p { x.forget with recent := false, lockRun := 0, confirmed := false }
    if p = s.get TIME.STATUS_ACTIVE_PORT then s.lossCheck else s

theorem State.portStateTail_step (s : State) {p : Nat} (hp : p < 2) (old n : Nat) :
    State.TimeStep (among (TIME.PORT_EXCH_DISCARD p :: servoFlds)) s (s.portStateTail p old n) := by
  have hservo : ∀ f ∈ servoFlds, f ∈ TIME.PORT_EXCH_DISCARD p :: servoFlds := fun _ hf => List.mem_cons_of_mem _ hf
  unfold State.portStateTail
  extract_lets x s1 y z s2
  have h1 : State.TimeStep (among (TIME.PORT_EXCH_DISCARD p :: servoFlds)) s s1 := s.dropHeld_step hp (by simp)
  have h2 : State.TimeStep (among (TIME.PORT_EXCH_DISCARD p :: servoFlds)) s1 s2 := .setPtp _ ⟨rfl, rfl, rfl, fun h => nomatch h⟩
  exact .ite (.ite (.refl _ s) (.setPtp _ ⟨rfl, rfl, rfl, id⟩))
    (.ite ((h1.trans h2).trans (s2.lossCheck_step.mono (among_mono hservo))) (h1.trans h2))

/-- The event of a new state of port p. -/
def State.portStateEvent (s : State) (p old n : Nat) : State :=
  s.signal TIME.INT TIME.INT_EN TIME.INT_PTP_STATE 0x0207 7 p [BitVec.ofNat 8 old, BitVec.ofNat 8 n]

theorem State.portStateEntered_step (s : State) {p : Nat} (hp : p < 2) (old n : Nat) :
    State.TimeStep (among (TIME.PORT_EXCH_DISCARD p :: servoFlds)) s ((s.portStateEvent p old n).portStateTail p old n) :=
  (State.signal_time (by simp [servoFlds]) s _ _ _ _ _).trans (State.portStateTail_step _ hp old n)

/-- The state that a port is put in, for that asked for: DISABLED on a moon in the cluster, PASSIVE for a master on a unit that stands by. -/
def State.portStateFor (s : State) (n : Nat) : Nat :=
  let n := if s.isMoon && s.on ORB.STATUS_JOIN_STATE then 3 else n
  if (n = 5 ∨ n = 6) ∧ (s.get PAIR.STATUS_ROLE = 4 ∨ s.get PAIR.STATUS_ROLE = 5) then 7 else n

theorem State.setPortState_eq (s : State) (p n : Nat) : s.setPortState p n =
    if s.get (TIME.PORT_STATE p) = s.portStateFor n then s
    else ((s.set (TIME.PORT_STATE p) (s.portStateFor n)).portStateEvent p (s.get (TIME.PORT_STATE p)) (s.portStateFor n)).portStateTail p
      (s.get (TIME.PORT_STATE p)) (s.portStateFor n) := rfl

theorem State.setPortState_step (s : State) {p : Nat} (hp : p < 2) (n : Nat) : State.TimeStep (among (portStateFlds p)) s (s.setPortState p n) := by
  rw [State.setPortState_eq]
  exact .ite (.refl _ s) ((State.TimeStep.write (by simp [portStateFlds]) (portStateFlds_keys p hp).1 s _).trans
    ((State.portStateEntered_step _ hp _ _).mono (among_mono (by simp +contextual [portStateFlds]))))

/-- A port is in the state that it is put in. -/
theorem State.portState_setPortState (s : State) {p : Nat} (hp : p < 2) {n m : Nat} (hn : s.portStateFor n = m) (hm : m < 16) :
    (s.setPortState p n).get (TIME.PORT_STATE p) = m := by
  rw [State.setPortState_eq, hn]
  split
  · assumption
  · obtain ⟨-, -, hevent, hkeys⟩ := portStateFlds_keys p hp
    have hkey : among (TIME.PORT_EXCH_DISCARD p :: servoFlds) (TIME.PORT_STATE p).key = false := by
      simp only [among, hevent, Bool.false_or, List.any_eq_false, beq_iff_eq]
      exact hkeys
    rw [(State.portStateEntered_step _ hp _ _).get _ hkey, State.get_set_self]
    exact Nat.mod_eq_of_lt hm

/-- A change of the state sets its flag. -/
theorem State.ptpState_setPortState (s : State) {p : Nat} (hp : p < 2) {n : Nat} (hne : s.get (TIME.PORT_STATE p) ≠ s.portStateFor n) :
    (s.setPortState p n).bit TIME.INT TIME.INT_PTP_STATE = true := by
  rw [State.setPortState_eq, if_neg hne]
  exact (State.portStateTail_step _ hp _ _).flag _ (by decide) (State.bit_signal _ _ _ _ _ _ _ _ (by decide) (by decide))

/-- What the state that a port is put in depends on. -/
def unitFlds : List Fld := [ORB.STATUS_ROLE_STRAP, ORB.STATUS_JOIN_STATE, PAIR.STATUS_ROLE]

theorem State.portStateFor_congr {s t : State} (hg : ∀ f ∈ unitFlds, t.get f = s.get f) (n : Nat) : t.portStateFor n = s.portStateFor n := by
  simp only [unitFlds, List.forall_mem_cons, List.not_mem_nil, false_implies, implies_true, and_true] at hg
  obtain ⟨hstrap, hjoin, hrole⟩ := hg
  simp only [State.portStateFor, State.isMoon, State.on, hstrap, hjoin, hrole]
  rfl

/-- A unit that is no moon in the cluster puts a port in the state asked for, but that no port masters on one that stands by. -/
theorem State.portStateFor_of_alone {s : State} (h : (s.isMoon && s.on ORB.STATUS_JOIN_STATE) = false) (n : Nat) :
    s.portStateFor n = if (n = 5 ∨ n = 6) ∧ s.standsBy = true then 7 else n := by
  simp only [State.portStateFor, h, State.standsBy, Bool.false_eq_true, if_false, Bool.or_eq_true, beq_iff_eq]

end Sys2Proof.Machine

end

