-- ==== Sys2Proof/Proofs/Announce.lean ====
section

namespace Sys2Proof.Machine

/-! ## Announce (R55) -/

theorem portKeys_quiet : ∀ p < 2, (∀ f ∈ unitFlds, among (portStateFlds p) f.key = false) ∧ (TIME.PORT_ANN_RX p).key ≠ TIME.INT.key ∧
    among (portStateFlds p) (TIME.PORT_ANN_RX p).key = false ∧ among [TIME.INT] (TIME.PORT_STATE p).key = false ∧
    ∀ f ∈ [TIME.PORT_ENABLE p, TIME.PORT_SLAVE_ONLY p, TIME.PORT_STATE p] ++ unitFlds, (TIME.PORT_ANN_RX p).key ≠ f.key := by decide +kernel

theorem unitFlds_quiet : ∀ f ∈ unitFlds, among [TIME.INT] f.key = false := by decide

/-- A port in LISTENING takes its parent and becomes UNCALIBRATED. -/
theorem State.takeParent_listening {s : State} {p : Nat} (hp : p < 2) (h : s.get (TIME.PORT_STATE p) = 4) (hn : s.portStateFor 8 = 8)
    (a : Announce) : let t := s.takeParent p a
    State.TimeStep (among (portStateFlds p)) (s.setPtp p { s.ptp p with parent := some a, traced := a.traceable }) t ∧
      t.get (TIME.PORT_STATE p) = 8 ∧ t.bit TIME.INT TIME.INT_PTP_STATE = true := by
  unfold State.takeParent
  extract_lets x st same newGm t u v r
  have hu : State.TimeStep (among [TIME.INT]) t u := .ite (t.gmChanged_step (by simp) p a.gm) (.refl _ t)
  obtain ⟨hunit, -, -, hstate, -⟩ := portKeys_quiet p hp
  have hst : st = 4 := h
  have hn' : u.portStateFor 8 = 8 := (State.portStateFor_congr (fun f hf => hu.get f (unitFlds_quiet f hf)) 8).trans hn
  have hold : u.get (TIME.PORT_STATE p) = 4 := (hu.get _ hstate).trans h
  have hv : v = u := if_neg (by rw [hst]; decide)
  have hr : r = u.setPortState p 8 := (if_neg (by simp [hst])).trans (by rw [hv])
  rw [hr]
  exact ⟨(hu.mono (among_mono (by simp [portStateFlds, servoFlds]))).trans (u.setPortState_step hp 8),
    State.portState_setPortState u hp hn' (by decide), State.ptpState_setPortState u hp (by rw [hold, hn']; decide)⟩

section
variable {s : State} {p : Nat} {a : Announce} (hp : p < 2) (hn : (s.isMoon && s.on ORB.STATUS_JOIN_STATE) = false)
include hp hn

/-- A slave-only port in LISTENING that hears the best master takes it as its parent. -/
theorem announceRx_takesParent (hen : s.on (TIME.PORT_ENABLE p) = true) (hst : s.get (TIME.PORT_STATE p) = 4)
    (hdom : a.domain = s.get (TIME.PORT_DOMAIN p)) (hgm : a.gm ≠ s.life.ident.eui) (hsteps : a.steps < 255)
    (hslave : s.on (TIME.PORT_SLAVE_ONLY p) = true)
    (hbest : (s.setPtp p { s.ptp p with foreign := noteForeign s.cycles (s.ptp p).window a (s.ptp p).foreign }).bestForeign p = some a)
    (hutc : a.utcValid = false) :
    ∃ t, Machine.exec (.announceRx p a) s = .next t ∧ s.sameButEvents { t with time := s.time } ∧ t.get (TIME.PORT_STATE p) = 8 ∧
      (t.ptp p).parent = some a ∧ (t.ptp p).foreign = noteForeign s.cycles (s.ptp p).window a (s.ptp p).foreign ∧
      t.get (TIME.PORT_ANN_RX p) = (s.get (TIME.PORT_ANN_RX p) + 1) % 2 ^ 32 ∧ t.bit TIME.INT TIME.INT_PTP_STATE = true := by
  obtain ⟨-, -, hann, -, hkeys⟩ := portKeys_quiet p hp
  let heard := (s.count (TIME.PORT_ANN_RX p)).setPtp p
    { s.ptp p with foreign := noteForeign s.cycles (s.ptp p).window a (s.ptp p).foreign }
  have hget : ∀ f ∈ [TIME.PORT_ENABLE p, TIME.PORT_SLAVE_ONLY p, TIME.PORT_STATE p] ++ unitFlds, heard.get f = s.get f :=
    fun f hf => State.get_set_of_ne s (hkeys f hf) _
  have hfor : heard.portStateFor 8 = 8 := by
    rw [State.portStateFor_congr (fun f hf => hget f (List.mem_append_right _ hf)), State.portStateFor_of_alone hn]
    rfl
  obtain ⟨hstep, hstate, hbit⟩ := State.takeParent_listening (s := heard) hp ((hget _ (by simp)).trans hst) hfor a
  have hbmca : heard.bmca p = heard.takeParent p a := by
    have hbest' : heard.bestForeign p = some a := hbest
    have hslave' : heard.on (TIME.PORT_SLAVE_ONLY p) = true := by rw [State.on, hget _ (by simp)]; exact hslave
    simp only [State.bmca, hbest', hslave', if_true]
  have hexec : Machine.exec (.announceRx p a) s = .next (heard.takeParent p a) := by
    have he : Machine.exec (.announceRx p a) s = execAnnounceRx p a s := rfl
    have hrun : p < 2 ∧ s.on (TIME.PORT_ENABLE p) = true ∧ 4 ≤ s.get (TIME.PORT_STATE p) ∧ a.domain = s.get (TIME.PORT_DOMAIN p) :=
      ⟨hp, hen, hst.ge, hdom⟩
    have hours : ¬ (a.gm = s.life.ident.eui ∨ 255 ≤ a.steps) := by omega
    rw [he, ← hbmca]
    unfold execAnnounceRx
    rw [if_pos hrun]
    refine (if_neg hours).trans (congrArg Host.Outcome.next (if_neg ?_))
    simp [hutc]
  have hptp := hstep.ptp p
  rw [State.ptp_setPtp_self _ hp] at hptp
  refine ⟨_, hexec, hstep.timeOnly_of rfl, hstate, hptp.parent, ?_, ?_, hbit⟩
  · rw [hptp.foreign]
    exact congrArg PtpPort.foreign (State.ptp_setPtp_self _ hp _)
  · exact (hstep.get _ hann).trans (State.get_count_self s _)

/-- A port whose parent is silent, with no other qualified master, listens where it is slaveOnly, and otherwise is MASTER, or PASSIVE on a unit that
stands by. -/
theorem announceReceiptTimeout_losesParent (hen : s.on (TIME.PORT_ENABLE p) = true) (hst : s.get (TIME.PORT_STATE p) = 9)
    (hpar : (s.ptp p).parent = some a)
    (hbest : (s.setPtp p { s.ptp p with parent := none, foreign := (s.ptp p).foreign.filter (fun f => f.msg.src != a.src) }).bestForeign p = none) :
    ∃ t, Machine.exec (.announceReceiptTimeout p) s = .next t ∧ (t.ptp p).parent = none ∧
      t.get (TIME.PORT_STATE p) = if s.on (TIME.PORT_SLAVE_ONLY p) then 4 else if s.standsBy then 7 else 6 := by
  let left := s.setPtp p { s.ptp p with parent := none, foreign := (s.ptp p).foreign.filter (fun f => f.msg.src != a.src) }
  have hexec : Machine.exec (.announceReceiptTimeout p) s = .next (left.setPortState p (if s.on (TIME.PORT_SLAVE_ONLY p) then 4 else 6)) := by
    have he : Machine.exec (.announceReceiptTimeout p) s = execAnnounceReceiptTimeout p s := rfl
    have hbest' : left.bestForeign p = none := hbest
    have hrun : p < 2 ∧ s.on (TIME.PORT_ENABLE p) = true ∧ (s.get (TIME.PORT_STATE p) = 4 ∨ s.get (TIME.PORT_STATE p) = 7 ∨
        s.get (TIME.PORT_STATE p) = 8 ∨ s.get (TIME.PORT_STATE p) = 9) := ⟨hp, hen, by simp [hst]⟩
    rw [he]
    unfold execAnnounceReceiptTimeout
    rw [if_pos hrun]
    simp only [hpar]
    rw [show State.bestForeign _ p = none from hbest']
    rfl
  refine ⟨_, hexec, ?_, ?_⟩
  · rw [((left.setPortState_step hp _).ptp p).parent]
    exact congrArg PtpPort.parent (State.ptp_setPtp_self s hp _)
  · have hfor := fun n => (State.portStateFor_congr (s := s) (t := left) (fun f _ => rfl) n).trans (State.portStateFor_of_alone hn n)
    by_cases hslave : s.on (TIME.PORT_SLAVE_ONLY p) = true
    · rw [if_pos hslave, if_pos hslave]
      exact State.portState_setPortState left hp (hfor 4) (by decide)
    · rw [if_neg hslave, if_neg hslave]
      refine State.portState_setPortState left hp ((hfor 6).trans ?_) (by split <;> decide)
      simp

/-- The qualification of a port in PRE_MASTER ends. -/
theorem ptpQualificationTimeout_masters (hst : s.get (TIME.PORT_STATE p) = 5) (hs : s.standsBy = false) :
    ∃ t, Machine.exec (.ptpQualificationTimeout p) s = .next t ∧ t.get (TIME.PORT_STATE p) = 6 := by
  refine ⟨s.setPortState p 6, congrArg Host.Outcome.next (if_pos ⟨hp, hst⟩), ?_⟩
  exact State.portState_setPortState s hp ((State.portStateFor_of_alone hn 6).trans (if_neg (by simp [hs]))) (by decide)

end

end Sys2Proof.Machine

end

