-- ==== Sys2Proof/Proofs/PtpGroups.lean ====
section

namespace Sys2Proof.Machine

/-! ## The groups of a PTP port (R379) and PTP_PORT_SET (R54, R55, R84) -/

/-- A step that sends reports and sets filter entries of the ports leaves every link as it is. -/
structure State.Reports (s t : State) : Prop extends State.Side portKey s t where
  link : ∀ q, (t.port q).link = (s.port q).link

namespace State.Reports

variable {s t u : State}

theorem refl (s : State) : Reports s s := ⟨.refl _ s, fun _ => rfl⟩

theorem trans (a : Reports s t) (b : Reports t u) : Reports s u := ⟨a.toSide.trans b.toSide, fun q => (b.link q).trans (a.link q)⟩

theorem ite {c : Prop} [Decidable c] (a : Reports s t) (b : Reports s u) : Reports s (if c then t else u) := by
  split
  · exact a
  · exact b

theorem of_ports (h : State.Side portKey s t) (hp : t.ports = s.ports) : Reports s t :=
  ⟨h, fun q => by simp only [State.port, hp]⟩

theorem setPsvc (s : State) (p : Nat) (x : PortSvc) : Reports s (s.setPsvc p x) := ⟨.setPsvc _ s p x, fun _ => rfl⟩

end State.Reports

@[simp] theorem State.ports_statBy (s : State) (p n k : Nat) : (s.statBy p n k).ports = s.ports := by
  unfold State.statBy
  extract_lets f top s1 s2
  have h2 : s2.ports = s.ports := by
    unfold s2
    split <;> rfl
  split
  · rfl
  · rw [State.portEvent, State.ports_signalRise, h2]

theorem State.port_setPort_of_ne (s : State) {p q : Nat} (h : p ≠ q) (x : PortState) : (s.setPort p x).port q = s.port q :=
  unitAt_setIfInBounds_of_ne h s.ports x _

theorem State.sendService_reports (s : State) {p : Nat} (hp : p < 4) (b : List Byte) : State.Reports s (s.sendService p b) := by
  refine ⟨s.sendService_side hp b, fun q => ?_⟩
  unfold State.sendService
  split
  · split
    · rw [State.port, State.stat, State.ports_statBy]
      rfl
    · by_cases hq : p = q
      · subst hq
        rw [State.port_setPort_self _ hp]
      · rw [State.port_setPort_of_ne _ hq]
  · rfl

theorem State.sendReport_reports (s : State) {p : Nat} (hp : p < 4) (g : Group) (leave : Bool) : State.Reports s (s.sendReport p g leave) := by
  have hsend := fun b => s.sendService_reports hp b
  unfold State.sendReport
  extract_lets f g mac ty srcs sum src
  exact .ite (.ite (hsend _) (.ite (hsend _) (hsend _))) (.ite (hsend _) (.ite (hsend _) (hsend _)))

theorem State.setEntry_reports (s : State) {p e : Nat} (hp : p < 4) (he : e < 16) (mac : Nat) (on : Bool) :
    State.Reports s (s.setEntry p e mac on) := by
  have hlo : portKey (PORT.MATCH_ADDR_LO p e).key = true :=
    portKey_of (by simp only [PORT.MATCH_ADDR_LO]; omega) (by simp only [PORT.MATCH_ADDR_LO]; omega) (by simp [PORT.MATCH_ADDR_LO])
  have hhi : portKey (PORT.MATCH_ADDR_HI p e).key = true :=
    portKey_of (by simp only [PORT.MATCH_ADDR_HI]; omega) (by simp only [PORT.MATCH_ADDR_HI]; omega) (by simp [PORT.MATCH_ADDR_HI])
  have hen : portKey (PORT.MATCH_EN p e).key = true :=
    portKey_of (by simp only [PORT.MATCH_EN]; omega) (by simp only [PORT.MATCH_EN]; omega) (by simp [PORT.MATCH_EN])
  exact .of_ports (((State.Side.set s hlo _).trans (.set _ hhi _)).trans (.set _ hen _)) rfl

theorem State.entryFor_lt {s : State} {p mac e : Nat} (h : s.entryFor p mac = some e) : e < 16 := by
  unfold State.entryFor at h
  split at h
  · rename_i he
    obtain rfl := Option.some.inj h
    exact List.mem_range.1 (List.mem_of_find?_eq_some he)
  · exact List.mem_range.1 (List.mem_of_find?_eq_some h)

theorem State.joinGroup_reports (s : State) {p : Nat} (hp : p < 4) (ip addr reason mode : Nat) (sources : List Nat) :
    State.Reports s (s.joinGroup p ip addr reason mode sources) := by
  unfold State.joinGroup
  extract_lets x s1 old
  have h1 : State.Reports s s1 := by
    refine .ite (.refl s) ?_
    split
    · exact s.setEntry_reports hp (State.entryFor_lt ‹_›) _ _
    · exact .refl s
  have hput := fun y => h1.trans (.setPsvc s1 p y)
  split
  · exact (hput _).trans (.ite (.refl _) (State.sendReport_reports _ hp _ _))
  · exact (hput _).trans (State.sendReport_reports _ hp _ _)

theorem State.dropGroup_reports (s : State) {p : Nat} (hp : p < 4) (g : Group) : State.Reports s (s.dropGroup p g) := by
  unfold State.dropGroup
  extract_lets x old rest s1 mac s2
  have h1 : State.Reports s s1 := .setPsvc s p _
  have h2 : State.Reports s1 s2 := by
    refine .ite (.refl s1) ?_
    split
    · exact .ite (.refl s1) (s1.setEntry_reports hp (List.mem_range.1 (List.mem_of_find?_eq_some ‹_›)) _ _)
    · exact .refl s1
  exact .ite (.setPsvc s p _) (.ite ((h1.trans h2).trans (.ite (.refl _) (State.sendReport_reports _ hp _ _)))
    ((h1.trans h2).trans (State.sendReport_reports _ hp _ _)))

theorem State.ptpGroup_reports (s : State) {p : Nat} (hp : p < 2) (join : Bool) : State.Reports s (s.ptpGroup p join) := by
  have hp4 : p < 4 := by omega
  unfold State.ptpGroup
  split
  refine .ite (s.joinGroup_reports hp4 _ _ _ _ _) ?_
  unfold State.leaveGroup
  split
  · exact .refl s
  · exact s.dropGroup_reports hp4 _

end Sys2Proof.Machine

end

