-- ==== Sys2Proof/Proofs/PtpPortStates.lean ====
section

namespace Sys2Proof.Machine

/-- ENABLE alone, for a port. -/
def ptpEnableTlvs (p en : Nat) : List Tlv := [⟨1, 1, p⟩, ⟨2, 1, en⟩]

theorem ptpEnableTlvs_ok {s : State} {r : Req} {p en : Nat} (hb : s.barred 0x0202 r = none) (hp : p < 2) (he : en < 2) :
    s.refuses r 0x0202 ptpPortSetParams (ptpEnableTlvs p en) = none := by
  refine State.refuses_none (tys := [1, 2]) hb ?_ rfl (by decide) rfl
  simp only [ptpEnableTlvs, List.forall_mem_cons, List.not_mem_nil, false_implies, implies_true, and_true]
  refine ⟨tlvOk_of rfl rfl ⟨Nat.zero_le _, ?_⟩ rfl, tlvOk_of rfl rfl ⟨Nat.zero_le _, ?_⟩ rfl⟩ <;> simp only [preq, popt] <;> omega

/-- Keys of the PTP ports' settings, of the ports' blocks and of events. -/
def ptpSetKey (k : Nat) : Bool := portKey k || inOffs 0x80100 0x80200 k

/-- A step that writes settings of the PTP ports and sends reports: the command processor and every link stay. -/
structure State.Settles (s t : State) : Prop extends State.Calm ptpSetKey s t where
  link : ∀ q, (t.port q).link = (s.port q).link

theorem State.Settles.trans {s t u : State} (a : State.Settles s t) (b : State.Settles t u) : State.Settles s u :=
  ⟨a.toCalm.trans b.toCalm, fun q => (b.link q).trans (a.link q)⟩

theorem State.Settles.set {f : Fld} (hlo : 0x80100 ≤ f.off) (hhi : f.off < 0x80200) (hl : f.lo < 32) (s : State) (v : Nat) :
    State.Settles s (s.set f v) := by
  have h : inOffs 0x80100 0x80200 f.key = true := decide_eq_true (by unfold Fld.key; omega)
  exact ⟨.set (by simp [ptpSetKey, h]) s v, fun _ => rfl⟩

theorem State.Settles.reports {s t : State} (h : State.Reports s t) : State.Settles s t :=
  ⟨(State.Calm.of_side h.toSide).mono (fun k hk => by simp [ptpSetKey, hk]), h.link⟩

theorem State.Settles.ite {s t u : State} {c : Prop} [Decidable c] (a : State.Settles s t) (b : State.Settles s u) :
    State.Settles s (if c then t else u) := by
  split
  · exact a
  · exact b

theorem State.Settles.refl (s : State) : State.Settles s s := ⟨.refl _ s, fun _ => rfl⟩

theorem ptpSetFlds_offs : ∀ p < 2, ∀ f ∈ [TIME.PORT_PROFILE p, TIME.PORT_DOMAIN p, TIME.PORT_LOG_SYNC p, TIME.PORT_LOG_DREQ p,
    TIME.PORT_SLAVE_ONLY p, TIME.PORT_ONE_STEP p, TIME.PORT_IPV6 p], 0x80100 ≤ f.off ∧ f.off < 0x80200 ∧ f.lo < 32 := by decide +kernel

theorem ptpSetKey_quiet : ∀ p < 2, (∀ f ∈ unitFlds, ptpSetKey f.key = false) ∧ (∀ f ∈ unitFlds, (TIME.PORT_ENABLE p).key ≠ f.key) ∧
    among (portStateFlds p) (TIME.PORT_ENABLE p).key = false := by decide +kernel

/-- A port is set on no moon (R434). -/
theorem State.isMoon_of_portSet {s : State} {r : Req} (hb : s.barred 0x0202 r = none) : s.isMoon = false := by
  refine Bool.eq_false_of_not_eq_true (fun hm => ?_)
  unfold State.barred at hb
  simp [hm] at hb
  split at hb <;> cases hb

/-- DISABLED is what any unit puts a port in that asks for it. -/
theorem State.portStateFor_disabled (s : State) : s.portStateFor 3 = 3 := by
  simp [State.portStateFor]

theorem ptpPortSetBody_enable {s : State} {p en : Nat} (hp : p < 2) (h : en = 0 ∨ s.get (TIME.PORT_ENABLE p) = 0) :
    ∃ u : State, State.Settles s u ∧ ptpPortSetBody (ptpEnableTlvs p en) s = (Reply.ok [],
      if en = 0 then ((u.set (TIME.PORT_ENABLE p) en).setPtp p { u.ptp p with parent := none, foreign := [] }).setPortState p 3
      else (u.set (TIME.PORT_ENABLE p) en).ptpStart p) := by
  unfold ptpPortSetBody
  extract_lets n x prof newProf v6 en' was
  rw [if_neg (by exact Bool.false_ne_true), if_neg (by exact Bool.false_ne_true), if_neg (by exact Bool.false_ne_true)]
  split
  extract_lets dom ann syn drq rct moved s1 s2 oldV6 s3 s4 s5 s6 s7
  have hset : ∀ f ∈ [TIME.PORT_PROFILE n, TIME.PORT_DOMAIN n, TIME.PORT_LOG_SYNC n, TIME.PORT_LOG_DREQ n, TIME.PORT_SLAVE_ONLY n,
      TIME.PORT_ONE_STEP n, TIME.PORT_IPV6 n], ∀ (t : State) (v : Nat), State.Settles t (t.set f v) := fun f hf t v =>
    have hoff := ptpSetFlds_offs p hp f hf
    State.Settles.set hoff.1 hoff.2.1 hoff.2.2 t v
  have h1 : State.Settles s s1 := ⟨.of_eq _ rfl rfl, fun _ => rfl⟩
  have h2 : State.Settles s1 s2 :=
    (((hset _ (by simp) _ _).trans (hset _ (by simp) _ _)).trans (hset _ (by simp) _ _)).trans (hset _ (by simp) _ _)
  have h3 : State.Settles s2 s3 := (hset _ (by simp) _ _).trans (hset _ (by simp) _ _)
  have h4 : State.Settles s3 s4 := .ite (.reports (s3.ptpGroup_reports hp false)) (.refl s3)
  have h5 : State.Settles s4 s5 := hset _ (by simp) _ _
  have h6 : State.Settles s5 s6 := .ite (.reports (s5.ptpGroup_reports hp true)) (.refl s5)
  refine ⟨s6, ((((h1.trans h2).trans h3).trans h4).trans h5).trans h6, ?_⟩
  have hen : en' = en := rfl
  rw [hen]
  split
  · rfl
  · rename_i hne
    have hstart : (decide (was = 0) || moved) = true := by simp [show was = 0 from h.resolve_left hne]
    rw [if_pos hstart]
    rfl

section
variable {s : State} {r : Req} {p : Nat} (hp : p < 2) (hb : s.barred 0x0202 r = none)
include hp hb

theorem execPtpPortSet_enable {en : Nat} (he : en < 2) (h : en = 0 ∨ s.get (TIME.PORT_ENABLE p) = 0) :
    ∃ u : State, State.Settles s u ∧ Machine.exec (.ptpPortSet r (ptpEnableTlvs p en)) s = .next ((
      if en = 0 then ((u.set (TIME.PORT_ENABLE p) en).setPtp p { u.ptp p with parent := none, foreign := [] }).setPortState p 3
      else (u.set (TIME.PORT_ENABLE p) en).ptpStart p).finish r 0x0202 (Reply.ok [])) := by
  obtain ⟨u, hu, hbody⟩ := ptpPortSetBody_enable hp h
  exact ⟨u, hu, runCmd_of (ptpEnableTlvs_ok hb hp he) hbody⟩

/-- A disabled port is enabled: it listens where its link is up, and is FAULTY where it is down. -/
theorem ptpPortSet_starts (hen : s.on (TIME.PORT_ENABLE p) = false) :
    ∃ t, Machine.exec (.ptpPortSet r (ptpEnableTlvs p 1)) s = .next t ∧
      t.cmd = { s.cmd with results := s.cmd.results ++ [⟨r.channel, r.tag, 0x0202, Reply.ok []⟩] } ∧ t.on (TIME.PORT_ENABLE p) = true ∧
      t.get (TIME.PORT_STATE p) = if (s.port p).link = 2 then 4 else 2 := by
  obtain ⟨u, hu, hexec⟩ := execPtpPortSet_enable hp hb (by decide : 1 < 2) (Or.inr (by simpa [State.on] using hen))
  obtain ⟨hkeys, hset, hkey⟩ := ptpSetKey_quiet p hp
  have hmoon : s.isMoon = false := State.isMoon_of_portSet hb
  let idle := (u.set (TIME.PORT_ENABLE p) 1).setPtp p { u.ptp p with parent := none, foreign := [] }
  have hidle : ∀ f ∈ unitFlds, idle.get f = s.get f := fun f hf => (State.get_set_of_ne u (hset f hf) 1).trans (hu.get f (hkeys f hf))
  have hfor : ∀ (t : State), State.TimeStep (among (portStateFlds p)) idle t → ∀ n, n ≠ 5 → n ≠ 6 → t.portStateFor n = n := fun t ht n h5 h6 => by
    have hcongr := State.portStateFor_congr (s := s) (t := t)
      (fun f hf => (ht.get f ((portKeys_quiet p hp).1 f hf)).trans (hidle f hf)) n
    rw [hcongr, State.portStateFor_of_alone (by simp [hmoon])]
    exact if_neg (by simp [h5, h6])
  have hlink : ∀ (t : State), State.TimeStep (among (portStateFlds p)) idle t → (t.port p).link = (s.port p).link := fun t ht => by
    rw [← hu.link p, ht.rest]
    rfl
  have hstep := idle.setPortState_step hp 1
  have hstart : (u.set (TIME.PORT_ENABLE p) 1).ptpStart p = (idle.setPortState p 1).setPortState p (if (s.port p).link = 2 then 4 else 2) := by
    rw [← hlink _ hstep]
    unfold State.ptpStart
    exact (apply_ite (fun n => (idle.setPortState p 1).setPortState p n) _ _ _).symm
  rw [if_neg (by decide), hstart] at hexec
  have hall := hstep.trans (State.setPortState_step (idle.setPortState p 1) hp (if (s.port p).link = 2 then 4 else 2))
  refine ⟨_, hexec, ?_, ?_, ?_⟩
  · exact State.cmd_finish_of (hall.cmd.trans hu.cmd) r _ _
  · rw [State.on, State.get_finish, hall.get _ hkey]
    exact decide_eq_true (by rw [State.get_setPtp, State.get_set_self]; exact Nat.one_ne_zero)
  · exact State.portState_setPortState _ hp (hfor _ hstep _ (by split <;> decide) (by split <;> decide)) (by split <;> decide)

/-- An enabled port is disabled. -/
theorem ptpPortSet_stops :
    ∃ t, Machine.exec (.ptpPortSet r (ptpEnableTlvs p 0)) s = .next t ∧
      t.cmd = { s.cmd with results := s.cmd.results ++ [⟨r.channel, r.tag, 0x0202, Reply.ok []⟩] } ∧ t.on (TIME.PORT_ENABLE p) = false ∧
      t.get (TIME.PORT_STATE p) = 3 ∧ (t.ptp p).parent = none := by
  obtain ⟨u, hu, hexec⟩ := execPtpPortSet_enable hp hb (by decide : 0 < 2) (Or.inl rfl)
  obtain ⟨-, -, hkey⟩ := ptpSetKey_quiet p hp
  rw [if_pos rfl] at hexec
  have hstep := State.setPortState_step ((u.set (TIME.PORT_ENABLE p) 0).setPtp p { u.ptp p with parent := none, foreign := [] }) hp 3
  refine ⟨_, hexec, ?_, ?_, ?_, ?_⟩
  · exact State.cmd_finish_of (hstep.cmd.trans hu.cmd) r _ _
  · rw [State.on, State.get_finish, hstep.get _ hkey, State.get_setPtp, State.get_set_self]
    simp
  · exact State.portState_setPortState _ hp (State.portStateFor_disabled _) (by decide)
  · refine ((hstep.ptp p).parent).trans ?_
    exact congrArg PtpPort.parent (State.ptp_setPtp_self _ hp _)

end

/-- Settles O5: the port states follow from what puts a port in a state. -/
theorem ptpPortStates : Obligations.PtpPortStates := by
  unfold Obligations.PtpPortStates
  intro s p a r hp timeOnly state noMoon heard others answers
  refine ⟨?announce, ?timeout, ?qualified, ?enable, ?disable⟩
  case announce =>
    intro hn hen hst hdom hgm hsteps hslave hbest hutc
    exact announceRx_takesParent hp hn hen hst hdom hgm hsteps hslave hbest hutc
  case timeout =>
    intro hn hen hst hpar hbest
    exact announceReceiptTimeout_losesParent hp hn hen hst hpar hbest
  case qualified =>
    intro hn hst hs
    exact ptpQualificationTimeout_masters hp hn hst hs
  case enable =>
    intro hb hen
    exact ptpPortSet_starts hp hb hen
  case disable =>
    intro hb _
    exact ptpPortSet_stops hp hb

end Sys2Proof.Machine

end

