-- ==== Sys2Proof/Proofs/ServoTimeouts.lean ====
section

namespace Sys2Proof.Machine

/-! ## Host writes of the TIME block -/

/-- A word of the TIME block that is no half of a split quantity goes to the block. -/
theorem State.regWrite_time (s : State) (source w : Nat) {off : Nat} (h4 : off % 4 = 0) (hlo : 0x80000 ≤ off) (hhi : off < 0xA0000)
    (hs : inSplit off = false) : s.regWrite source off w = s.writeTime source off w := by
  unfold State.regWrite
  simp only [wordOff h4, find_lo_of_inSplit hs, find_hi_of_inSplit hs, Option.any_none, Bool.false_eq_true, if_false]
  repeat rw [if_neg (by omega)]
  rw [if_pos hhi]

/-- The status of the pair that says whether a write is mirrored. -/
def pairFlds : List Fld := [PAIR.STATUS_ROLE, PAIR.STATUS_MIRROR_UP]

/-- A host write of such a word that meets nothing, and leaves the pair's status alone, is the block's. -/
theorem State.busWrite_time {s t : State} {source w off : Nat} (ho : s.busOpen off) (h4 : off % 4 = 0) (hlo : 0x80000 ≤ off) (hhi : off < 0xA0000)
    (hs : inSplit off = false) (hw : s.writeTime source off w = t) (hg : ∀ f ∈ pairFlds, t.get f = s.get f) : s.busWrite source off w = t := by
  have hreg := (State.regWrite_time s source w h4 hlo hhi hs).trans hw
  rw [State.busWrite_open ho h4 (by omega) ?_, hreg]
  rw [hreg, State.mirrors_congr (hg _ (by simp [pairFlds])) (hg _ (by simp [pairFlds]))]
  exact ho.2.2.2.2

/-! ## The servo (R75, R79) -/

/-- Outside MONITOR, a servo that DPLL0 and MODE let discipline the counter goes on. -/
theorem State.servoFollow_disciplines {s : State} (h0 : s.get TIME.STATUS_SERVO_STATE ≠ 0) (href : s.get (CLK.DPLL_SEL_REF 0) = 6)
    (hvalid : s.on (CLK.DPLL_SEL_VALID 0) = true) (hst : s.get (CLK.DPLL_STATE 0) = 1 ∨ s.get (CLK.DPLL_STATE 0) = 2) (hauto : s.modeAuto = true) :
    s.servoFollow = s := by
  have hon : (s.get (CLK.DPLL_STATE 0) == 1 || s.get (CLK.DPLL_STATE 0) == 2) = true := by simpa using hst
  simp only [State.servoFollow, if_neg h0, href, hvalid, hon, hauto, beq_self_eq_true, Bool.and_self, if_true]

/-- In MONITOR, a servo whose reference is not selected stays there. -/
theorem State.servoFollow_monitors {s : State} (h0 : s.get TIME.STATUS_SERVO_STATE = 0) (hvalid : s.on (CLK.DPLL_SEL_VALID 0) = false) :
    s.servoFollow = s := by
  simp only [State.servoFollow, if_pos h0, hvalid, Bool.false_and, Bool.false_eq_true, if_false]

/-- What the servo follows. -/
def followedFlds : List Fld := [CLK.DPLL_SEL_REF 0, CLK.DPLL_SEL_VALID 0, CLK.DPLL_STATE 0, TIME.CTRL_MODE, ORB.STATUS_ROLE_STRAP]

theorem servoFlds_quiet : ∀ f ∈ followedFlds ++ pairFlds ++ [TIME.SERVO_PC_TIMEOUT, TIME.SERVO_PC_EN], among servoFlds f.key = false := by decide +kernel

theorem State.lossCheck_holds {s : State} (h : s.get TIME.STATUS_SERVO_STATE = 1 ∨ s.get TIME.STATUS_SERVO_STATE = 2 ∨ s.get TIME.STATUS_SERVO_STATE = 3)
    {p : Nat} (ha : s.get TIME.STATUS_ACTIVE_PORT = p) (hr : (s.ptp p).recent = false) (he : s.eligible (1 - p) = false) :
    s.lossCheck = s.servoEnter 4 := by
  have halive : s.alive p = false := by simp [State.alive, hr]
  have hrun : ¬ (s.get TIME.STATUS_SERVO_STATE = 0 ∨ s.get TIME.STATUS_SERVO_STATE = 4 ∨ s.alive p = true) := by
    rintro (h0 | h4 | hal)
    · omega
    · omega
    · exact Bool.false_ne_true (halive.symm.trans hal)
  simp only [State.lossCheck, ha, if_neg hrun, he, Bool.false_and, Bool.false_eq_true, if_false]

/-- The active port loses its exchanges, and no other port is eligible: HOLD. -/
theorem exchangeLoss_holds {s : State} {p : Nat} (hp : p < 2)
    (h : s.get TIME.STATUS_SERVO_STATE = 1 ∨ s.get TIME.STATUS_SERVO_STATE = 2 ∨ s.get TIME.STATUS_SERVO_STATE = 3)
    (ha : s.get TIME.STATUS_ACTIVE_PORT = p) (he : s.eligible (1 - p) = false) (href : s.get (CLK.DPLL_SEL_REF 0) = 6)
    (hvalid : s.on (CLK.DPLL_SEL_VALID 0) = true) (hst : s.get (CLK.DPLL_STATE 0) = 1 ∨ s.get (CLK.DPLL_STATE 0) = 2)
    (hmode : s.get TIME.CTRL_MODE = 0) (hheld : s.held = []) (hmoon : s.isMoon = false) :
    ∃ t, Machine.exec (.exchangeLoss p) s = .next t ∧ t.get TIME.STATUS_SERVO_STATE = 4 ∧ (t.ptp p).recent = false ∧
      t.bit TIME.INT TIME.INT_MASTER_LOST = true ∧ t.get TIME.STATUS_ACTIVE_PORT = p := by
  let lost := s.setPtp p { s.ptp p with recent := false }
  have hself : (lost.ptp p).recent = false := congrArg PtpPort.recent (State.ptp_setPtp_self s hp _)
  have hother : lost.eligible (1 - p) = false := by
    have hne : lost.ptp (1 - p) = s.ptp (1 - p) := State.ptp_setPtp_of_ne s (by omega) _
    simp only [State.eligible, State.alive, hne] at he ⊢
    exact he
  have hstep : State.TimeStep (among servoFlds) lost (lost.servoEnter 4) := lost.servoEnter_step (by decide)
  have hget : ∀ f ∈ followedFlds, (lost.servoEnter 4).get f = s.get f := fun f hf => hstep.get f (servoFlds_quiet f (by simp [hf]))
  have hactive : (lost.servoEnter 4).get TIME.STATUS_ACTIVE_PORT = p := by
    have hne : lost.get TIME.STATUS_SERVO_STATE ≠ 4 := by
      have : lost.get TIME.STATUS_SERVO_STATE = s.get TIME.STATUS_SERVO_STATE := rfl
      omega
    rw [State.servoEnter_eq (by decide) hne, (State.servoEntered_step _ _ _).get _ (by decide)]
    unfold State.setOn
    rw [State.get_set_of_ne _ (by decide), State.get_set_of_ne _ (by decide), State.get_set_of_ne _ (by decide)]
    exact ha
  have hauto : (lost.servoEnter 4).modeAuto = true := by
    have hheld' : (lost.servoEnter 4).held = [] := by rw [hstep.rest]; exact hheld
    have heff : (lost.servoEnter 4).eff TIME.CTRL_MODE = 0 := by
      rw [State.eff_of_any (by rw [hheld']; rfl), hget _ (by simp [followedFlds]), hmode]
    have hmoon' : (lost.servoEnter 4).isMoon = false := by
      rw [State.isMoon, State.on, hget _ (by simp [followedFlds])]
      exact hmoon
    simp [State.modeAuto, heff, hmoon']
  have hfollow : (lost.servoEnter 4).servoFollow = lost.servoEnter 4 := by
    refine State.servoFollow_disciplines ?_ ?_ ?_ ?_ hauto
    · rw [State.servoState_servoEnter _ (by decide) (by decide)]
      decide
    · rw [hget _ (by simp [followedFlds]), href]
    · rw [State.on, hget _ (by simp [followedFlds])]
      exact hvalid
    · rw [hget _ (by simp [followedFlds])]
      exact hst
  have hexec : Machine.exec (.exchangeLoss p) s = .next (lost.servoEnter 4) := by
    have he : Machine.exec (.exchangeLoss p) s = execExchangeLoss p s := rfl
    have hloss : lost.lossCheck = lost.servoEnter 4 := State.lossCheck_holds h ha hself hother
    rw [he, execExchangeLoss, if_pos hp, ← hfollow, ← hloss]
  refine ⟨_, hexec, State.servoState_servoEnter _ (by decide) (by decide), ?_, State.masterLost_servoEnter ?_, hactive⟩
  · exact Bool.eq_false_of_not_eq_true (fun hr => Bool.false_ne_true (hself.symm.trans ((hstep.ptp p).recent hr)))
  · intro h4
    have : s.get TIME.STATUS_SERVO_STATE = 4 := h4
    omega

/-- PATH_SETTLE ends on its timeout. -/
theorem pathSettleTimeout_acquires {s : State} (h : s.get TIME.STATUS_SERVO_STATE = 3) (ht : s.get TIME.SERVO_PC_TIMEOUT ≠ 0) :
    ∃ t, Machine.exec .pathSettleTimeout s = .next t ∧ s.sameButEvents { t with time := s.time } ∧ t.get TIME.STATUS_SERVO_STATE = 1 ∧
      t.bit TIME.INT TIME.INT_SETTLE_EXIT = true :=
  ⟨s.settleExit 1, congrArg Host.Outcome.next (if_pos ⟨h, ht⟩), (s.settleExit_step 1).timeOnly, s.settleExit_acquires 1⟩

theorem State.resume_settles {s : State} (h : s.get TIME.STATUS_SERVO_STATE = 3) : s.resume = s.settleExit 0 := if_pos h

/-- A command that is one step of the engine answers, and touches no other unit. -/
theorem State.TimeStep.timeOnly_finish {P : Nat → Bool} {s t : State} (h : State.TimeStep P s t) (r : Req) (op : Nat) (rep : Reply) :
    s.sameButEvents { t.finish r op rep with time := s.time, cmd := s.cmd } := by
  have ht := h.timeOnly
  rw [← h.cmd]
  exact ht

/-- PATH_SETTLE ends on PATH_RESUME. -/
theorem pathResume_acquires {s : State} {r : Req} (h : s.get TIME.STATUS_SERVO_STATE = 3) (hb : s.barred 0x0206 r = none) :
    ∃ t, Machine.exec (.pathResume r []) s = .next t ∧
      t.cmd = { s.cmd with results := s.cmd.results ++ [⟨r.channel, r.tag, 0x0206, Reply.ok []⟩] } ∧
      s.sameButEvents { t with time := s.time, cmd := s.cmd } ∧ t.get TIME.STATUS_SERVO_STATE = 1 := by
  have hok : s.refuses r 0x0206 [] [] = none := State.refuses_none (tys := []) hb (by simp) rfl (by decide) rfl
  have hexec : Machine.exec (.pathResume r []) s = .next ((s.settleExit 0).finish r 0x0206 (Reply.ok [])) := by
    have he : Machine.exec (.pathResume r []) s = execPathResume r [] s := rfl
    rw [he, ← State.resume_settles h]
    exact runCmd_of hok (if_pos h)
  have hstep := s.settleExit_step 0
  exact ⟨_, hexec, State.cmd_finish_of hstep.cmd r _ _, hstep.timeOnly_finish r _ _, (s.settleExit_acquires 0).1⟩

theorem pcCfg_keys : inSplit 0x80070 = false ∧ ∀ f ∈ [TIME.SERVO_PC_TIMEOUT, TIME.SERVO_PC_MATCH, TIME.SERVO_PC_COUNT, TIME.SERVO_PC_EN],
    f.key ≠ TIME.STATUS_SERVO_STATE.key ∧ ∀ g ∈ pairFlds, f.key ≠ g.key := by decide +kernel

/-- RESUME, bit 2, is in the word that the write of PC_CFG puts, and touches none of the bits beside it. -/
theorem resumeBit {n : Nat} (h : n < 2 ^ 32) : (BitVec.ofNat 32 (n ||| 4)).toNat = n ||| 4 ∧ (n ||| 4).testBit 2 = true ∧
    (n ||| 4) / 2 ^ 16 = n / 2 ^ 16 ∧ (n ||| 4) % 2 = n % 2 := by
  refine ⟨?_, by rw [Nat.testBit_or]; exact Bool.or_true _, ?_, ?_⟩
  · rw [BitVec.toNat_ofNat, Nat.mod_eq_of_lt (Nat.or_lt_two_pow h (by decide))]
  · rw [← Nat.shiftRight_eq_div_pow, Nat.shiftRight_or_distrib, ← Nat.shiftRight_eq_div_pow]
    simp
  · have := Nat.or_mod_two_pow (a := n) (b := 4) (n := 1)
    simpa using this

/-- PATH_SETTLE ends on a write of RESUME, whose other fields are written too. -/
theorem pcResumeWrite_acquires {s : State} (source : Nat) (v : Word) (h : s.get TIME.STATUS_SERVO_STATE = 3) (ho : s.busOpen 0x80070) :
    ∃ t, Machine.exec (.pcResumeWrite source v) s = .next t ∧ s.sameButEvents { t with time := s.time } ∧ t.get TIME.STATUS_SERVO_STATE = 1 ∧
      t.get TIME.SERVO_PC_TIMEOUT = v.toNat / 2 ^ 16 ∧ t.get TIME.SERVO_PC_EN = v.toNat % 2 := by
  obtain ⟨hword, hbit, hhi, hlo⟩ := resumeBit v.isLt
  obtain ⟨hsplit, hkeys⟩ := pcCfg_keys
  simp only [List.forall_mem_cons, List.not_mem_nil, false_implies, implies_true, and_true] at hkeys
  obtain ⟨⟨ht, htp⟩, ⟨hm, hmp⟩, ⟨hc, hcp⟩, he, hep⟩ := hkeys
  let w := v.toNat ||| 4
  let put := (((s.set TIME.SERVO_PC_TIMEOUT (w / 2 ^ 16)).set TIME.SERVO_PC_MATCH (w / 2 ^ 8)).set TIME.SERVO_PC_COUNT (w / 16)).set TIME.SERVO_PC_EN w
  have hstate : put.get TIME.STATUS_SERVO_STATE = 3 := by
    rw [State.get_set_of_ne _ he, State.get_set_of_ne _ hc, State.get_set_of_ne _ hm, State.get_set_of_ne _ ht, h]
  have hpair : ∀ g ∈ pairFlds, put.get g = s.get g := fun g hg => by
    rw [State.get_set_of_ne _ (hep g hg), State.get_set_of_ne _ (hcp g hg), State.get_set_of_ne _ (hmp g hg), State.get_set_of_ne _ (htp g hg)]
  have hw : s.writeTime source 0x80070 w = put.settleExit 0 := by
    have hrun : (0x80070 = 0x80070 ∧ w.testBit 2 = true) := ⟨rfl, hbit⟩
    rw [State.writeTime, if_neg (fun h => absurd h.1 (by decide)), if_neg (by decide), if_pos hrun, ← State.resume_settles hstate]
    unfold hostPcResumeWrite
    rw [hword]
    rfl
  have hstep := put.settleExit_step 0
  have hbus := State.busWrite_time ho (by decide) (by decide) (by decide) hsplit hw
    (fun g hg => (hstep.get g (servoFlds_quiet g (by simp [hg]))).trans (hpair g hg))
  refine ⟨_, (State.rowWrite_of trivial).trans (congrArg Host.Outcome.next hbus), hstep.timeOnly_of rfl, (put.settleExit_acquires 0).1, ?_, ?_⟩
  · rw [hstep.get _ (servoFlds_quiet _ (by simp)), State.get_set_of_ne _ (by decide), State.get_set_of_ne _ (by decide),
      State.get_set_of_ne _ (by decide), State.get_set_self, hhi]
    exact Nat.mod_eq_of_lt (by have := v.isLt; simp only [TIME.SERVO_PC_TIMEOUT]; omega)
  · rw [hstep.get _ (servoFlds_quiet _ (by simp)), State.get_set_self]
    exact hlo

end Sys2Proof.Machine

end

