-- ==== Sys2Proof/Proofs/ServoCommands.lean ====
section

namespace Sys2Proof.Machine

/-! ## The commands that act on the servo (R84) -/

/-- SERVO_PORT_SELECT of an eligible port other than the active one. -/
theorem servoPortSelect_switches {s : State} {r : Req} {p : Nat} (hp : p < 2) (hb : s.barred 0x0207 r = none) (he : s.eligible p = true)
    (hne : p ≠ s.get TIME.STATUS_ACTIVE_PORT) :
    ∃ t, Machine.exec (.servoPortSelect r [⟨1, 1, p⟩]) s = .next t ∧
      t.cmd = { s.cmd with results := s.cmd.results ++ [⟨r.channel, r.tag, 0x0207, Reply.ok []⟩] } ∧
      s.sameButEvents { t with time := s.time, cmd := s.cmd } ∧ t.get TIME.STATUS_ACTIVE_PORT = p ∧
      t.bit TIME.INT TIME.INT_PORT_SWITCH = true := by
  have hok : s.refuses r 0x0207 [preq 1 1 0 1] [⟨1, 1, p⟩] = none := by
    refine State.refuses_none (tys := [1]) hb ?_ rfl (by decide) rfl
    simp only [List.forall_mem_cons, List.not_mem_nil, false_implies, implies_true, and_true]
    exact tlvOk_of rfl rfl ⟨Nat.zero_le _, by simp only [preq]; omega⟩ rfl
  have hexec : Machine.exec (.servoPortSelect r [⟨1, 1, p⟩]) s = .next ((s.switchPort p 2).finish r 0x0207 (Reply.ok [])) := by
    have hx : Machine.exec (.servoPortSelect r [⟨1, 1, p⟩]) s = execServoPortSelect r [⟨1, 1, p⟩] s := rfl
    rw [hx]
    exact runCmd_of hok ((if_pos he).trans (congrArg (Prod.mk _) (if_neg hne)))
  have hstep := s.switchPort_step p 2
  exact ⟨_, hexec, State.cmd_finish_of hstep.cmd r _ _, hstep.timeOnly_finish r _ _, s.activePort_switchPort hp 2⟩

/-! ### SERVO_SET -/

/-- After a write that waits, what waits under the field's key waits for that class. -/
theorem State.held_setB (s : State) (f : Fld) (u : Upd) (v : Nat) : ∀ h ∈ (s.setB f u v).held, h.key = f.key → h.upd = u := by
  unfold State.setB
  split
  · intro h hh hk
    obtain ⟨g, -, rfl⟩ := List.mem_map.1 hh
    by_cases hg : g.key = f.key
    · simp [hg]
    · rw [if_neg hg] at hk
      exact absurd hk hg
  · rename_i hany
    have hnone : ∀ h ∈ s.held, h.key ≠ f.key := by simpa using hany
    split
    · exact fun h hh hk => absurd hk (hnone h hh)
    · intro h hh hk
      rcases List.mem_append.1 hh with hh | hh
      · exact absurd hk (hnone h hh)
      · rw [List.mem_singleton.1 hh]

/-- At the boundary of its class the written value is in force. -/
theorem State.eff_boundary_of_held {s : State} {u : Upd} {p : Nat → Bool} {f : Fld} (h : ∀ x ∈ s.held, x.key = f.key → x.upd = u)
    (hp : p f.key = true) : (s.boundary u p).eff f = s.get f := by
  refine (State.eff_of_any ?_).trans (State.get_boundary s u p f)
  simp only [State.boundary, List.any_eq_false, List.mem_filter, beq_iff_eq]
  rintro x ⟨hx, hnot⟩ hk
  simp [h x hx hk, hk, hp] at hnot

/-- The gain KI of TRACK and LOCK_N. -/
def servoTlvs (ki n : Nat) : List Tlv := [⟨8, 2, ki⟩, ⟨10, 1, n⟩]

theorem servoTlvs_ok {s : State} {r : Req} {ki n : Nat} (hb : s.barred 0x0203 r = none) (hki : ki < 2 ^ 16) (hn : n < 2 ^ 8) :
    s.refuses r 0x0203 servoSetParams (servoTlvs ki n) = none := by
  refine State.refuses_none (tys := [8, 10]) hb ?_ rfl (by decide) rfl
  simp only [servoTlvs, List.forall_mem_cons, List.not_mem_nil, false_implies, implies_true, and_true]
  refine ⟨tlvOk_of rfl rfl ⟨Nat.zero_le _, ?_⟩ rfl, tlvOk_of rfl rfl ⟨Nat.zero_le _, ?_⟩ rfl⟩ <;> simp only [popt] <;> omega

/-- The gain, whose boundary is at hand in MONITOR, and LOCK_N are in force at once. -/
theorem servoSet_writes {s : State} {r : Req} {ki n : Nat} (hb : s.barred 0x0203 r = none) (hki : ki < 2 ^ 16) (hn : n < 2 ^ 8)
    (h0 : s.get TIME.STATUS_SERVO_STATE = 0) (hvalid : s.on (CLK.DPLL_SEL_VALID 0) = false) :
    ∃ t, Machine.exec (.servoSet r (servoTlvs ki n)) s = .next t ∧
      t.cmd = { s.cmd with results := s.cmd.results ++ [⟨r.channel, r.tag, 0x0203, Reply.ok []⟩] } ∧
      t = { s with regs := t.regs, held := t.held, cmd := t.cmd } ∧ t.get TIME.SERVO_TRK_KI = ki ∧ t.eff TIME.SERVO_TRK_KI = ki ∧
      t.get TIME.SERVO_LOCK_N = n ∧ s.keepsBut t [TIME.SERVO_TRK_KI, TIME.SERVO_LOCK_N] := by
  let put := (s.setB TIME.SERVO_TRK_KI .servo ki).set TIME.SERVO_LOCK_N n
  have hwrite : writeFlds s (servoTlvs ki n) servoSetFlds = put := rfl
  have hkeep : ∀ f : Fld, TIME.SERVO_TRK_KI.key ≠ f.key → TIME.SERVO_LOCK_N.key ≠ f.key → put.get f = s.get f := fun f hk hl =>
    (State.get_set_of_ne _ hl n).trans (State.get_setB_of_ne s hk _ ki)
  have hki' : put.get TIME.SERVO_TRK_KI = ki := by
    rw [State.get_set_of_ne _ (by decide), State.get_setB _ _ _ _ _ (fun _ => rfl), State.get_set_self]
    exact Nat.mod_eq_of_lt hki
  have hrest : put = { s with regs := put.regs, held := put.held } := by
    have h := State.setB_rest s TIME.SERVO_TRK_KI .servo ki
    exact congrArg (fun t : State => t.set TIME.SERVO_LOCK_N n) h
  let keys := (servoSetFlds.filter (fun f => Params.has (servoTlvs ki n) f.ty)).map (fun f => f.fld.key)
  let done := put.boundary .servo (fun k => keys.contains k)
  have hstate : done.get TIME.STATUS_SERVO_STATE = 0 := (hkeep _ (by decide) (by decide)).trans h0
  have happly : put.servoApply (fun k => keys.contains k) = done := by
    have hb0 : put.get TIME.STATUS_SERVO_STATE = 0 := hstate
    have hvalid' : done.on (CLK.DPLL_SEL_VALID 0) = false := by
      rw [State.on, show done.get (CLK.DPLL_SEL_VALID 0) = s.get (CLK.DPLL_SEL_VALID 0) from hkeep _ (by decide) (by decide)]
      exact hvalid
    rw [State.servoApply, if_pos (Or.inl hb0)]
    exact State.servoFollow_monitors hstate hvalid'
  have hexec : Machine.exec (.servoSet r (servoTlvs ki n)) s = .next (done.finish r 0x0203 (Reply.ok [])) := by
    have hx : Machine.exec (.servoSet r (servoTlvs ki n)) s = execServoSet r (servoTlvs ki n) s := rfl
    rw [hx, ← happly, ← hwrite]
    exact runCmd_of (servoTlvs_ok hb hki hn) (congrArg (Prod.mk _) (if_neg (fun h => absurd (show 0 = 1 from h.1) (by decide))))
  refine ⟨_, hexec, State.cmd_finish_of (by rw [show done.cmd = put.cmd from rfl, hrest]) r _ _, ?_, hki', ?_, ?_, ?_⟩
  · unfold State.finish done State.boundary
    rw [hrest]
  · have hheld : ∀ x ∈ put.held, x.key = TIME.SERVO_TRK_KI.key → x.upd = .servo := State.held_setB s _ _ _
    exact (State.eff_boundary_of_held hheld rfl).trans hki'
  · exact (State.get_set_self _ _ n).trans (Nat.mod_eq_of_lt hn)
  · exact fun f _ _ hf => hkeep f (hf _ (by simp)) (hf _ (by simp))

/-! ### ASYM_SET -/

/-- A signed parameter of 32 bits in 4 bytes always fits. -/
theorem signedCode_full (a : Nat) : (signedCode 32 4 a).isSome = true := by
  have hi : -((2 ^ (32 - 1) : Nat) : Int) ≤ toSigned (8 * 4) a ∧ toSigned (8 * 4) a < ((2 ^ (32 - 1) : Nat) : Int) := by
    unfold toSigned
    dsimp only
    split <;> omega
  simp only [signedCode]
  rw [if_pos hi]
  rfl

theorem asym_keys : ∀ p < 2, (TIME.PORT_ASYM p).w = 32 := by decide

/-- ASYM_SET writes the delay asymmetry, which takes effect at the next exchange. -/
theorem asymSet_writes {s : State} {r : Req} {p a : Nat} (hp : p < 2) (hb : s.barred 0x0204 r = none) (ha : a < 2 ^ 32) :
    ∃ t, Machine.exec (.asymSet r [⟨1, 1, p⟩, ⟨2, 4, a⟩]) s = .next t ∧
      t.cmd = { s.cmd with results := s.cmd.results ++ [⟨r.channel, r.tag, 0x0204, Reply.ok []⟩] } ∧
      t = { s with regs := t.regs, held := t.held, cmd := t.cmd } ∧ s.turns t (TIME.PORT_ASYM p) a ∧
      t.eff (TIME.PORT_ASYM p) = s.eff (TIME.PORT_ASYM p) := by
  have hok : s.refuses r 0x0204 [preq 1 1 0 1, { psig 2 4 32 with req := true }] [⟨1, 1, p⟩, ⟨2, 4, a⟩] = none := by
    refine State.refuses_none (tys := [1, 2]) hb ?_ rfl (by decide) rfl
    simp only [List.forall_mem_cons, List.not_mem_nil, false_implies, implies_true, and_true]
    refine ⟨tlvOk_of rfl rfl ⟨Nat.zero_le _, by simp only [preq]; omega⟩ rfl, tlvOk_signed rfl rfl ⟨Nat.zero_le _, ?_⟩ ?_⟩
    · simp only [psig]
      omega
    · exact signedCode_full a
  have hexec : Machine.exec (.asymSet r [⟨1, 1, p⟩, ⟨2, 4, a⟩]) s = .next ((s.setB (TIME.PORT_ASYM p) .offset a).finish r 0x0204 (Reply.ok [])) := by
    have hx : Machine.exec (.asymSet r [⟨1, 1, p⟩, ⟨2, 4, a⟩]) s = execAsymSet r [⟨1, 1, p⟩, ⟨2, 4, a⟩] s := rfl
    rw [hx]
    exact runCmd_of hok rfl
  have hrest := State.setB_rest s (TIME.PORT_ASYM p) .offset a
  refine ⟨_, hexec, State.cmd_finish_of (by rw [hrest]) r _ _, ?_, ⟨?_, fun f _ _ hf => ?_⟩, ?_⟩
  · unfold State.finish
    rw [hrest]
  · rw [State.get_finish, State.get_setB _ _ _ _ _ (fun _ => rfl), State.get_set_self, asym_keys p hp]
    exact Nat.mod_eq_of_lt ha
  · exact State.get_setB_of_ne s (hf _ (by simp)) _ _
  · exact State.eff_setB s _ _ _ _ (fun _ => rfl)

/-! ### CLOCK_QUALITY_SET -/

/-- A clockClass for a condition, clockAccuracy, offsetScaledLogVariance, timeSource and TRACEABLE. -/
def qualityTlvs (c cls acc var src trace : Nat) : List Tlv :=
  [⟨1, 1, c⟩, ⟨2, 1, cls⟩, ⟨3, 1, acc⟩, ⟨4, 2, var⟩, ⟨5, 1, src⟩, ⟨6, 1, trace⟩]

theorem clockQualitySet_writes {s : State} {r : Req} {c cls acc var src trace : Nat} (hb : s.barred 0x0209 r = none) (hc : c ≤ 3) (hcls : cls ≤ 255)
    (hacc : acc ≤ 255) (hvar : var < 2 ^ 16) (hsrc : src ≤ 255) (htrace : trace ≤ 255) (hlen : s.time.cls.length = 4) :
    ∃ t, Machine.exec (.clockQualitySet r (qualityTlvs c cls acc var src trace)) s = .next t ∧
      t.cmd = { s.cmd with results := s.cmd.results ++ [⟨r.channel, r.tag, 0x0209, Reply.ok []⟩] } ∧
      t = { s with regs := t.regs, time := t.time, cmd := t.cmd } ∧ t.time.cls[c]? = some (some cls) ∧
      t.time = { s.time with cls := t.time.cls, accuracy := acc, variance := var, timeSource := src } ∧ s.turns t CLK.TRACE trace := by
  let params : List PSpec := [popt 1 1 0 3, popt 2 1 0 255, popt 3 1 0 255, popt 4 2 0 0xFFFF, popt 5 1 0 255, popt 6 1 0 255]
  have hok : s.refuses r 0x0209 params (qualityTlvs c cls acc var src trace) = none := by
    refine State.refuses_none (tys := [1, 2, 3, 4, 5, 6]) hb ?_ rfl (by decide) rfl
    simp only [qualityTlvs, List.forall_mem_cons, List.not_mem_nil, false_implies, implies_true, and_true]
    refine ⟨tlvOk_of rfl rfl ⟨Nat.zero_le _, hc⟩ rfl, tlvOk_of rfl rfl ⟨Nat.zero_le _, hcls⟩ rfl, tlvOk_of rfl rfl ⟨Nat.zero_le _, hacc⟩ rfl,
      tlvOk_of rfl rfl ⟨Nat.zero_le _, Nat.le_of_lt_succ hvar⟩ rfl, tlvOk_of rfl rfl ⟨Nat.zero_le _, hsrc⟩ rfl,
      tlvOk_of rfl rfl ⟨Nat.zero_le _, htrace⟩ rfl⟩
  let quality : TimeState := { s.time with cls := s.time.cls.set c (some cls), accuracy := acc, variance := var, timeSource := src }
  have hexec : Machine.exec (.clockQualitySet r (qualityTlvs c cls acc var src trace)) s =
      .next ((({ s with time := quality } : State).set CLK.TRACE trace).finish r 0x0209 (Reply.ok [])) := by
    have hx : Machine.exec (.clockQualitySet r (qualityTlvs c cls acc var src trace)) s =
      execClockQualitySet r (qualityTlvs c cls acc var src trace) s := rfl
    rw [hx]
    exact runCmd_of hok rfl
  refine ⟨_, hexec, rfl, rfl, ?_, rfl, ?_, fun f _ _ hf => ?_⟩
  · exact List.getElem?_set_self (by omega)
  · exact (State.get_set_self _ _ trace).trans (Nat.mod_eq_of_lt (by simp only [CLK.TRACE]; omega))
  · exact State.get_set_of_ne _ (hf _ (by simp)) trace

/-- Settles O6: the servo's transitions follow from what its entry into a state does, the commands from what they write. -/
theorem servoTransitions : Obligations.ServoTransitions := by
  unfold Obligations.ServoTransitions
  intro s p source ki a c cls acc var src r v hp timeOnly st answers
  refine ⟨?loss, ?timeout, ?resume, ?resumeWrite, ?select, ?servoSet, ?asym, ?quality⟩
  case loss =>
    intro hst ha he href hvalid hdpll hmode hheld hmoon
    exact exchangeLoss_holds hp hst ha he href hvalid hdpll hmode hheld hmoon
  case timeout =>
    intro hst ht
    exact pathSettleTimeout_acquires hst ht
  case resume =>
    intro hst hb
    exact pathResume_acquires hst hb
  case resumeWrite =>
    intro hst ho
    exact pcResumeWrite_acquires source v hst ho
  case select =>
    intro hb he hne
    exact servoPortSelect_switches hp hb he hne
  case servoSet =>
    intro hb hki hst hvalid
    exact servoSet_writes hb hki (Nat.mod_lt _ (by decide)) hst hvalid
  case asym =>
    intro hb ha
    exact asymSet_writes hp hb ha
  case quality =>
    intro hb hc hcls hacc hvar hsrc hlen
    exact clockQualitySet_writes hb hc hcls hacc hvar hsrc (Nat.le_of_lt_succ (Nat.mod_lt _ (by decide))) hlen

end Sys2Proof.Machine

end

