-- ==== Sys2Proof/Proofs/TimeLoads.lean ====
section

namespace Sys2Proof.Machine

/-! ## A step of the counter (R74, R564, R116) -/

/-- The fields a load of the time writes, and those its step of the counter does, but PLACED_ONCE of the receive streams. -/
def loadFlds : List Fld := [TIME.INT, TIME.PORT_EXCH_DISCARD 0, TIME.PORT_EXCH_DISCARD 1, TIME.STATUS_MEDIA_VALID, TIME.LOAD_PPS_SRC,
  TIME.LOAD_SET_SEC_LO, TIME.LOAD_SET_SEC_HI, TIME.LOAD_SET_NS, CLK.INT, CLK.OUT_MISALIGNED, STRM.NOT_VALID_DROP]

/-- Keys of these fields and of the stream tables. -/
def loadKeys (k : Nat) : Bool := among loadFlds k || decide ((RXE.PLACED_ONCE 0).key ≤ k)

theorem loadKeys_of_mem {f : Fld} (h : f ∈ loadFlds) : loadKeys f.key = true := by simp [loadKeys, among_of_mem h]

theorem loadKeys_of_event (k : Nat) (h : eventKey k = true) : loadKeys k = true := by simp [loadKeys, among_of_event k h]

theorem loadKeys_placedOnce (i : Nat) : loadKeys (RXE.PLACED_ONCE i).key = true := by
  have h : (RXE.PLACED_ONCE 0).key ≤ (RXE.PLACED_ONCE i).key := by
    simp only [Fld.key, RXE.PLACED_ONCE]
    omega
  simp [loadKeys, h]

/-- Fields that decide about a load, and those that say where it stands. -/
theorem loadKeys_false : ∀ f ∈ TIME.STATUS_SET_PENDING :: pairFlds, loadKeys f.key = false := by decide +kernel

/-- A step of the block in which the counter stands. -/
structure State.Trails (s t : State) : Prop extends State.Steers loadKeys s t where
  ctr : t.ctr = s.ctr

namespace State.Trails

variable {s t u : State}

theorem trans (a : Trails s t) (b : Trails t u) : Trails s u := ⟨a.toSteers.trans b.toSteers, b.ctr.trans a.ctr⟩

theorem refl (s : State) : Trails s s := ⟨.refl _ s, rfl⟩

theorem set (f : Fld) (h : f ∈ loadFlds) (hi : f.key ≠ TIME.INT.key) (s : State) (v : Nat) : Trails s (s.set f v) :=
  ⟨.set (loadKeys_of_mem h) hi s v, rfl⟩

theorem foldl {α : Type} {g : State → α → State} (xs : List α) (h : ∀ s a, Trails s (g s a)) (s : State) : Trails s (xs.foldl g s) :=
  ⟨.foldl (fun s a _ => (h s a).toSteers) s, List.foldlRecOn xs g (motive := fun t => t.ctr = s.ctr) rfl (fun t ht a _ => (h t a).ctr.trans ht)⟩

/-- The flag of a signal of the block, or of Hearth. -/
theorem signal {int : Fld} (h : int ∈ loadFlds) (hint : int = TIME.INT ∨ int.key ≠ TIME.INT.key) (s : State) (en : Fld) (i c b u : Nat)
    (d : List Byte) : Trails s (s.signal int en i c b u d) :=
  ⟨.signal (loadKeys_of_mem h) loadKeys_of_event hint s en i c b u d, State.ctr_signal ..⟩

end State.Trails

theorem State.forgetStamps_trails (s : State) {p : Nat} (hp : TIME.PORT_EXCH_DISCARD p ∈ loadFlds)
    (hi : (TIME.PORT_EXCH_DISCARD p).key ≠ TIME.INT.key) : State.Trails s (s.forgetStamps p) := by
  unfold State.forgetStamps
  exact (State.Trails.set _ hp hi s _).trans ⟨.setPtp _ ⟨rfl, rfl, rfl, id⟩, rfl⟩

theorem State.noteLines_trails (s : State) (ls : List (Nat × Nat)) : State.Trails s (s.noteLines ls) := by
  unfold State.noteLines
  split
  · exact ⟨.of_eq _ rfl rfl rfl rfl rfl, rfl⟩
  · exact .refl s

theorem State.noteRing_trails (s : State) (r : RxRun) : State.Trails s (s.noteRing r) := by
  unfold State.noteRing
  split
  · exact s.noteLines_trails _
  · exact .refl s

theorem State.flushMedia_trails (s : State) : State.Trails s s.flushMedia := by
  unfold State.flushMedia
  extract_lets n strm flown
  have hflown : State.Trails s flown := ⟨.of_eq _ rfl rfl rfl rfl rfl, rfl⟩
  exact hflown.trans (.set STRM.NOT_VALID_DROP (by decide) (by decide) _ _)

theorem State.mediaJump_trails (s : State) : State.Trails s s.mediaJump := by
  unfold State.mediaJump
  extract_lets flushed streams noted strm emptied
  have hflush : State.Trails s flushed := s.flushMedia_trails
  have hnote : State.Trails flushed noted := .foldl _ (fun s r => (s.noteRing_trails r).trans (State.noteLines_trails _ _)) _
  have hempty : State.Trails noted emptied := ⟨.of_eq _ rfl rfl rfl rfl rfl, rfl⟩
  refine ((hflush.trans hnote).trans hempty).trans (.foldl _ (fun s i => ?_) _)
  split
  · refine ⟨.set (loadKeys_placedOnce i) ?_ s 0, rfl⟩
    simp only [Fld.key, RXE.PLACED_ONCE, TIME.INT]
    omega
  · exact .refl s

theorem State.misalignAll_trails (s : State) (step : Int) : State.Trails s (s.misalignAll step) :=
  .foldl _ (fun s _ => (State.Trails.set CLK.OUT_MISALIGNED (by decide) (by decide) s _).trans (.signal (by decide) (Or.inr (by decide)) _ _ _ _ _ _ _)) s

theorem State.mediaValid_trails (s : State) : State.Trails s s.mediaValid := by
  unfold State.mediaValid
  split
  · exact .refl s
  · exact (State.Trails.set TIME.STATUS_MEDIA_VALID (by decide) (by decide) s 1).trans ⟨.of_eq _ rfl rfl rfl rfl rfl, rfl⟩

/-- What a step by `delta` leaves, whose flag is set. -/
theorem State.stepCtr_steers (s : State) (delta : Int) :
    State.Steers loadKeys s (s.stepCtr delta) ∧ (s.stepCtr delta).ctr = (((s.ctr : Int) + delta) % (ctrRange : Int)).toNat ∧
      (s.stepCtr delta).bit TIME.INT TIME.INT_STEPPED = true := by
  unfold State.stepCtr
  extract_lets moved forgot time clk ran ns flagged
  have hmoved : State.Steers loadKeys s moved := .of_eq _ rfl rfl rfl rfl rfl
  have hforgot : State.Trails moved forgot :=
    (State.forgetStamps_trails _ (by decide) (by decide)).trans (State.forgetStamps_trails _ (by decide) (by decide))
  have hran : State.Trails forgot ran := ⟨.of_eq _ rfl rfl rfl rfl rfl, rfl⟩
  have hflagged : State.Trails ran flagged := ran.mediaJump_trails.trans (.signal (by decide) (Or.inl rfl) _ _ _ _ _ _ _)
  have hend := flagged.misalignAll_trails ns
  have hall := ((hforgot.trans hran).trans hflagged).trans hend
  exact ⟨hmoved.trans hall.toSteers, hall.ctr, hend.flag _ (by decide) (State.bit_signal _ _ _ _ _ _ _ _ (by decide) (by decide))⟩

/-- The counter after a load of seconds and nanoseconds, its fraction cleared. -/
def loadCtr (sec ns : Nat) : Nat := (sec * 1000000000 + ns) * 2 ^ 32 % ctrRange

/-- A load puts the value in the counter, and raises STEPPED. -/
theorem State.loadTime_steers (s : State) (sec ns : Nat) (force validate : Bool) :
    State.Steers loadKeys s (s.loadTime sec ns force validate) ∧ (s.loadTime sec ns force validate).ctr = loadCtr sec ns ∧
      (s.loadTime sec ns force validate).bit TIME.INT TIME.INT_STEPPED = true := by
  unfold State.loadTime
  extract_lets forced target stepped
  have hforced : State.Trails s forced := by
    unfold forced
    split
    · exact .set TIME.STATUS_MEDIA_VALID (by decide) (by decide) s 0
    · exact .refl s
  obtain ⟨hstep, hctr, hflag⟩ := forced.stepCtr_steers ((target : Int) - (forced.ctr : Nat))
  have hload : stepped.ctr = loadCtr sec ns := by
    rw [hctr, add_sub_cancel]
    exact Int.toNat_natCast _
  have hend : State.Trails stepped (if validate then stepped.mediaValid else stepped) := by
    split
    · exact stepped.mediaValid_trails
    · exact .refl _
  exact ⟨(hforced.toSteers.trans hstep).trans hend.toSteers, hend.ctr.trans hload, hend.flag _ (by decide) hflag⟩

/-! ## A write of SET_CTRL (R82) -/

/-- What decides whether a load is permitted. -/
def permitFlds : List Fld := [TIME.STATUS_MEDIA_VALID, TIME.STATUS_DISCIPLINED, TIME.CTRL_MODE, ORB.STATUS_ROLE_STRAP]

theorem State.loadPermitted_set {s : State} {f : Fld} (h : ∀ g ∈ permitFlds, f.key ≠ g.key) (v : Nat) (force : Bool) :
    (s.set f v).loadPermitted force = s.loadPermitted force := by
  have hget : ∀ g ∈ permitFlds, (s.set f v).get g = s.get g := fun g hg => State.get_set_of_ne s (h g hg) v
  have heff : (s.set f v).eff TIME.CTRL_MODE = s.eff TIME.CTRL_MODE := State.eff_set_of_ne (h _ (by decide)) v
  unfold State.loadPermitted State.modeAuto State.isMoon State.on
  rw [heff, hget _ (by decide), hget _ (by decide), hget _ (by decide)]

/-- A write of SET_CTRL with APPLY, where the load is permitted. -/
theorem State.setCtrl_applies {s : State} {source w : Nat} (h0 : w.testBit 0 = true) (h1 : w.testBit 1 = false) (h6 : w.testBit 6 = false)
    (hp : s.loadPermitted (w.testBit 3) = true) :
    State.Steers loadKeys s (s.setCtrl source w) ∧ (s.setCtrl source w).ctr = loadCtr s.setSec (s.get TIME.LOAD_SET_NS) ∧
      (s.setCtrl source w).bit TIME.INT TIME.INT_STEPPED = true := by
  let put := s.set TIME.LOAD_PPS_SRC (w / 16)
  have hset : State.Trails s put := .set _ (by decide) (by decide) s _
  have hperm : put.loadPermitted (w.testBit 3) = true := (State.loadPermitted_set (by decide) _ _).trans hp
  have hrun : s.setCtrl source w = put.loadTime put.setSec (put.get TIME.LOAD_SET_NS) (w.testBit 3) (w.testBit 2) := by
    unfold State.setCtrl
    simp only [h0, h1, h6, Bool.and_false, Bool.false_eq_true, if_false, if_true]
    exact if_pos hperm
  have hns : put.get TIME.LOAD_SET_NS = s.get TIME.LOAD_SET_NS := State.get_set_of_ne _ (by decide) _
  have hsec : put.setSec = s.setSec := by
    unfold State.setSec put
    rw [State.get_set_of_ne _ (by decide), State.get_set_of_ne _ (by decide)]
  rw [hrun, hns, hsec]
  obtain ⟨hsteers, hctr, hflag⟩ := put.loadTime_steers s.setSec (s.get TIME.LOAD_SET_NS) (w.testBit 3) (w.testBit 2)
  exact ⟨hset.toSteers.trans hsteers, hctr, hflag⟩

/-- A write of SET_CTRL with APPLY, where it is not. -/
theorem State.setCtrl_refuses {s : State} {source w : Nat} (h0 : w.testBit 0 = true) (h1 : w.testBit 1 = false) (h6 : w.testBit 6 = false)
    (hp : s.loadPermitted (w.testBit 3) = false) :
    s.setCtrl source w = (s.set TIME.LOAD_PPS_SRC (w / 16)).cfgReject source setCtrlOff := by
  have hperm : ¬ (s.set TIME.LOAD_PPS_SRC (w / 16)).loadPermitted (w.testBit 3) = true := by
    rw [State.loadPermitted_set (by decide), hp]
    decide
  unfold State.setCtrl
  simp only [h0, h1, h6, Bool.and_false, Bool.false_eq_true, if_false, if_true]
  exact if_neg hperm

theorem setCtrl_split : inSplit setCtrlOff = false := by decide +kernel

/-- A host write of SET_CTRL that leaves the pair's status alone. -/
theorem State.busWrite_setCtrl {s t : State} {source w : Nat} (ho : s.busOpen setCtrlOff) (hw : s.setCtrl source w = t)
    (hg : ∀ f ∈ pairFlds, t.get f = s.get f) : s.rowWrite True source setCtrlOff w = .next t := by
  have htime : s.writeTime source setCtrlOff w = t := by
    rw [← hw, State.writeTime, if_neg (fun h => absurd h.1 (by decide)), if_pos rfl]
  exact (State.rowWrite_of trivial).trans
    (congrArg Host.Outcome.next (State.busWrite_time ho (by decide) (by decide) (by decide) setCtrl_split htime hg))

/-- A word with another bit set: its other bits are the word's. -/
theorem testBit_or_two_pow (v k : Nat) : (v ||| 2 ^ k).testBit k = true ∧ ∀ i, i ≠ k → (v ||| 2 ^ k).testBit i = v.testBit i := by
  refine ⟨by simp [Nat.testBit_or], fun i hi => ?_⟩
  simp [Nat.testBit_or, Nat.testBit_two_pow_of_ne (Ne.symm hi)]

end Sys2Proof.Machine

end

