-- ==== Sys2Proof/Proofs/SettingTheTime.lean ====
section

namespace Sys2Proof.Machine

/-! ## TIME_SET (R82, R84) -/

/-- Seconds, nanoseconds and APPLY. -/
def loadTlvs (sec ns : Nat) : List Tlv := [⟨1, 8, sec⟩, ⟨2, 4, ns⟩, ⟨3, 0, 0⟩]

theorem loadTlvs_ok {s : State} {r : Req} {sec ns : Nat} (hb : s.barred 0x0205 r = none) (hsec : sec < 2 ^ 48) (hns : ns ≤ 999999999) :
    s.refuses r 0x0205 timeSetParams (loadTlvs sec ns) = none := by
  refine State.refuses_none (tys := [1, 2, 3]) hb ?_ rfl (by decide) rfl
  simp only [loadTlvs, List.forall_mem_cons, List.not_mem_nil, false_implies, implies_true, and_true]
  exact ⟨tlvOk_of rfl rfl ⟨Nat.zero_le _, Nat.le_pred_of_lt hsec⟩ rfl, tlvOk_of rfl rfl ⟨Nat.zero_le _, hns⟩ rfl, rfl⟩

/-- APPLY is there, APPLY_PPS and FORCE are not. -/
theorem loadTlvs_has (sec ns : Nat) :
    Params.has (loadTlvs sec ns) 3 = true ∧ Params.has (loadTlvs sec ns) 4 = false ∧ Params.has (loadTlvs sec ns) 6 = false := ⟨rfl, rfl, rfl⟩

/-- SET_SEC and SET_NS written. -/
def State.putTime (s : State) (sec ns : Nat) : State :=
  ((s.set TIME.LOAD_SET_SEC_LO (sec % 2 ^ 32)).set TIME.LOAD_SET_SEC_HI (sec / 2 ^ 32)).set TIME.LOAD_SET_NS ns

theorem State.putTime_trails (s : State) (sec ns : Nat) : State.Trails s (s.putTime sec ns) :=
  ((State.Trails.set _ (by decide) (by decide) s _).trans (.set _ (by decide) (by decide) _ _)).trans (.set _ (by decide) (by decide) _ _)

theorem State.loadPermitted_putTime (s : State) (sec ns : Nat) (force : Bool) :
    (s.putTime sec ns).loadPermitted force = s.loadPermitted force :=
  ((State.loadPermitted_set (by decide) _ _).trans (State.loadPermitted_set (by decide) _ _)).trans (State.loadPermitted_set (by decide) _ _)

theorem State.get_putTime {s : State} {sec ns : Nat} (hsec : sec < 2 ^ 48) (hns : ns ≤ 999999999) :
    (s.putTime sec ns).setSec = sec ∧ (s.putTime sec ns).get TIME.LOAD_SET_NS = ns := by
  unfold State.setSec State.putTime
  simp (disch := decide) only [State.get_set_of_ne, State.get_set_self]
  simp only [TIME.LOAD_SET_SEC_LO, TIME.LOAD_SET_SEC_HI, TIME.LOAD_SET_NS]
  omega

/-- The word with APPLY and a source of pulses. -/
theorem applyWord {src : Nat} (h : src < 4) :
    (1 + 16 * src).testBit 0 = true ∧ (1 + 16 * src).testBit 1 = false ∧ (1 + 16 * src).testBit 3 = false ∧ (1 + 16 * src).testBit 6 = false := by
  interval_cases src <;> decide

/-- What a load of the time is to leave: the counter at its value, STEPPED set, and the fields no load writes. -/
structure State.Loads (s t : State) (sec ns : Nat) : Prop extends State.Steers loadKeys s t where
  ctr : t.ctr = loadCtr sec ns
  stepped : t.bit TIME.INT TIME.INT_STEPPED = true

/-- TIME_SET with APPLY, where the load is permitted. -/
theorem timeSet_loads {s : State} {r : Req} {sec ns : Nat} (hb : s.barred 0x0205 r = none) (hsec : sec < 2 ^ 48) (hns : ns ≤ 999999999)
    (hp : s.loadPermitted false = true) :
    ∃ t, State.Loads s t sec ns ∧ Machine.exec (.timeSet r (loadTlvs sec ns)) s = .next (t.finish r 0x0205 (Reply.ok [])) := by
  let put := s.putTime sec ns
  let src := put.get TIME.LOAD_PPS_SRC
  have hsrc : src < 4 := State.get_lt put TIME.LOAD_PPS_SRC
  obtain ⟨h0, h1, h3, h6⟩ := applyWord hsrc
  obtain ⟨hsec', hns'⟩ := State.get_putTime (s := s) hsec hns
  have hperm : put.loadPermitted ((1 + 16 * src).testBit 3) = true := by rw [h3, State.loadPermitted_putTime, hp]
  obtain ⟨hsteers, hctr, hflag⟩ := State.setCtrl_applies (source := 2) h0 h1 h6 hperm
  rw [hsec', hns'] at hctr
  have hx : Machine.exec (.timeSet r (loadTlvs sec ns)) s = execTimeSet r (loadTlvs sec ns) s := rfl
  have hbody : timeSetBody (loadTlvs sec ns) s = (Reply.ok [], put.setCtrl 2 (1 + 16 * src)) := by
    obtain ⟨ha, hpps, hforce⟩ := loadTlvs_has sec ns
    simp only [timeSetBody, ha, hpps, hforce, hp, Bool.and_false, Bool.not_true, Bool.false_eq_true, if_false]
    rfl
  exact ⟨_, ⟨(s.putTime_trails sec ns).toSteers.trans hsteers, hctr, hflag⟩, hx.trans (runCmd_of (loadTlvs_ok hb hsec hns) hbody)⟩

/-- TIME_SET with APPLY, where it is not, writes nothing. -/
theorem timeSet_refuses {s : State} {r : Req} {sec ns : Nat} (hb : s.barred 0x0205 r = none) (hsec : sec < 2 ^ 48) (hns : ns ≤ 999999999)
    (hp : s.loadPermitted false = false) :
    Machine.exec (.timeSet r (loadTlvs sec ns)) s = .next (s.finish r 0x0205 (Reply.err Status.notInState)) := by
  have hx : Machine.exec (.timeSet r (loadTlvs sec ns)) s = execTimeSet r (loadTlvs sec ns) s := rfl
  have hbody : timeSetBody (loadTlvs sec ns) s = (Reply.err Status.notInState, s) := by
    obtain ⟨ha, hpps, hforce⟩ := loadTlvs_has sec ns
    simp only [timeSetBody, ha, hpps, hforce, hp, Bool.and_false, Bool.false_eq_true, if_false, Bool.true_or, Bool.not_false, Bool.and_self, if_true]
  exact hx.trans (runCmd_of (loadTlvs_ok hb hsec hns) hbody)

/-! ## The host's writes of SET_CTRL -/

/-- APPLY, where the load is permitted. -/
theorem timeSetApply_loads {s : State} {source : Nat} {v : Word} (ho : s.busOpen setCtrlOff) (h1 : v.toNat.testBit 1 = false)
    (h6 : v.toNat.testBit 6 = false) (hp : s.loadPermitted (v.toNat.testBit 3) = true) :
    ∃ t, Machine.exec (.timeSetApply source v) s = .next t ∧ State.Loads s t s.setSec (s.get TIME.LOAD_SET_NS) := by
  obtain ⟨hset, hkeep⟩ := testBit_or_two_pow v.toNat 0
  obtain ⟨hsteers, hctr, hflag⟩ := State.setCtrl_applies (s := s) (source := source) hset ((hkeep 1 (by decide)).trans h1)
    ((hkeep 6 (by decide)).trans h6) ((congrArg s.loadPermitted (hkeep 3 (by decide))).trans hp)
  exact ⟨_, State.busWrite_setCtrl ho rfl (fun f hf => hsteers.get f (loadKeys_false f (List.mem_cons_of_mem _ hf))), hsteers, hctr, hflag⟩

/-- The record of a refused write counts it and names its offset, whoever wrote. -/
theorem State.get_noteReject_counts (s : State) (source off : Nat) :
    (s.noteReject source off).get SYS.CFG_REJECT_CNT = (s.get SYS.CFG_REJECT_CNT + 1) % 2 ^ 32 ∧
      (s.noteReject source off).get SYS.REJ_OFFSET = off % 2 ^ SYS.REJ_OFFSET.w := by
  unfold State.noteReject State.setBit State.count State.countBy
  simp (disch := decide) only [State.get_set_of_ne, State.get_set_self]
  exact ⟨rfl, trivial⟩

/-- A refused write leaves the counter and what its record does not hold. -/
theorem State.cfgReject_counts (s : State) (source off : Nat) :
    let t := s.cfgReject source off
    t.ctr = s.ctr ∧ t.get SYS.CFG_REJECT_CNT = (s.get SYS.CFG_REJECT_CNT + 1) % 2 ^ 32 ∧ t.get SYS.REJ_OFFSET = off % 2 ^ SYS.REJ_OFFSET.w ∧
      ∀ f ∈ pairFlds, t.get f = s.get f := by
  obtain ⟨hcnt, hoff⟩ := s.get_noteReject_counts source off
  have hpair : ∀ f ∈ pairFlds, (s.noteReject source off).get f = s.get f := fun f hf =>
    (s.noteReject_writes source off).get f (by revert f; decide)
  rcases s.cfgReject_cases source off with heq | ⟨c, b, u, d, heq⟩ <;> simp only [heq]
  · exact ⟨rfl, hcnt, hoff, hpair⟩
  · have he := State.raise_event ((s.noteReject source off).holdoffMark c u) c b u d
    exact ⟨he.ctr, (he.get _ (by decide)).trans hcnt, (he.get _ (by decide)).trans hoff,
      fun f hf => (he.get f (by revert f; decide)).trans (hpair f hf)⟩

/-- APPLY, where the load is not permitted. -/
theorem timeSetApply_refuses {s : State} {source : Nat} {v : Word} (ho : s.busOpen setCtrlOff) (h1 : v.toNat.testBit 1 = false)
    (h6 : v.toNat.testBit 6 = false) (hp : s.loadPermitted (v.toNat.testBit 3) = false) :
    ∃ t, Machine.exec (.timeSetApply source v) s = .next t ∧ t.ctr = s.ctr ∧
      t.get SYS.CFG_REJECT_CNT = (s.get SYS.CFG_REJECT_CNT + 1) % 2 ^ 32 ∧ t.get SYS.REJ_OFFSET = setCtrlOff := by
  obtain ⟨hset, hkeep⟩ := testBit_or_two_pow v.toNat 0
  let put := s.set TIME.LOAD_PPS_SRC ((v.toNat ||| 1) / 16)
  have hput : ∀ f : Fld, TIME.LOAD_PPS_SRC.key ≠ f.key → put.get f = s.get f := fun f hf => State.get_set_of_ne _ hf _
  have hw : s.setCtrl source (v.toNat ||| 1) = put.cfgReject source setCtrlOff := State.setCtrl_refuses hset ((hkeep 1 (by decide)).trans h1)
    ((hkeep 6 (by decide)).trans h6) ((congrArg s.loadPermitted (hkeep 3 (by decide))).trans hp)
  obtain ⟨hctr, hcnt, hoff, hpair⟩ := put.cfgReject_counts source setCtrlOff
  refine ⟨_, State.busWrite_setCtrl ho hw (fun f hf => (hpair f hf).trans (hput f (by revert f; decide))), hctr, ?_, hoff⟩
  rw [hcnt, hput _ (by decide)]

/-- Before a write of SET_CTRL arms a load: its source is written, and CANCEL drops the load before it. -/
def State.cleared (s : State) (w : Nat) : State :=
  if w.testBit 6 then (s.set TIME.LOAD_PPS_SRC (w / 16)).dropPps else s.set TIME.LOAD_PPS_SRC (w / 16)

/-- Two states that a write of the source, and one of SET_PENDING, leads to. -/
theorem State.cleared_cases (s : State) (w : Nat) :
    s.cleared w = s.set TIME.LOAD_PPS_SRC (w / 16) ∨ s.cleared w = (s.set TIME.LOAD_PPS_SRC (w / 16)).dropPps := by
  unfold State.cleared
  split
  · exact Or.inr rfl
  · exact Or.inl rfl

theorem State.get_cleared {s : State} {f : Fld} (hd : TIME.STATUS_SET_PENDING.key ≠ f.key) (hs : TIME.LOAD_PPS_SRC.key ≠ f.key) (w : Nat) :
    (s.cleared w).get f = s.get f := by
  have hput : (s.set TIME.LOAD_PPS_SRC (w / 16)).get f = s.get f := State.get_set_of_ne _ hs _
  rcases s.cleared_cases w with h | h <;> rw [h]
  · exact hput
  · exact (State.get_set_of_ne _ hd 0).trans hput

theorem State.loadPermitted_cleared (s : State) (w : Nat) (force : Bool) : (s.cleared w).loadPermitted force = s.loadPermitted force := by
  have hput : (s.set TIME.LOAD_PPS_SRC (w / 16)).loadPermitted force = s.loadPermitted force := State.loadPermitted_set (by decide) _ _
  rcases s.cleared_cases w with h | h <;> rw [h]
  · exact hput
  · exact (State.loadPermitted_set (by decide) _ _).trans hput

theorem State.source_cleared (s : State) (w : Nat) : (s.cleared w).get TIME.LOAD_PPS_SRC = w / 16 % 4 := by
  have hput : (s.set TIME.LOAD_PPS_SRC (w / 16)).get TIME.LOAD_PPS_SRC = w / 16 % 4 := State.get_set_self _ _ _
  rcases s.cleared_cases w with h | h <;> rw [h]
  · exact hput
  · exact (State.get_set_of_ne _ (by decide) 0).trans hput

/-- The armed load is all of the engine that it changes. -/
theorem State.cleared_rest (s : State) (w : Nat) :
    s.cleared w = { s with regs := (s.cleared w).regs, time := { s.time with pps := (s.cleared w).time.pps } } := by
  rcases s.cleared_cases w with h | h <;> rw [h] <;> rfl

/-- A write of SET_CTRL with APPLY_PPS alone, where the load is permitted. -/
theorem State.setCtrl_arms {s : State} {source w : Nat} (h0 : w.testBit 0 = false) (h1 : w.testBit 1 = true)
    (hp : s.loadPermitted (w.testBit 3) = true) : s.setCtrl source w = (s.cleared w).armPps (w.testBit 3) (w.testBit 2) source := by
  unfold State.setCtrl
  simp only [h0, h1, Bool.false_and, Bool.false_eq_true, if_false, if_true]
  exact if_pos ((s.loadPermitted_cleared w _).trans hp)

/-- A bit below the source of pulses leaves it. -/
theorem source_or_two (v : Nat) : (v ||| 2) / 16 = v / 16 := by
  simp only [show (16 : Nat) = 2 ^ 4 from rfl, ← Nat.shiftRight_eq_div_pow, Nat.shiftRight_or_distrib]
  simp

/-- APPLY_PPS arms the load. -/
theorem timeSetApplyPps_arms {s : State} {source : Nat} {v : Word} (ho : s.busOpen setCtrlOff) (h0 : v.toNat.testBit 0 = false)
    (hp : s.loadPermitted (v.toNat.testBit 3) = true) :
    ∃ t, Machine.exec (.timeSetApplyPps source v) s = .next t ∧ t.on TIME.STATUS_SET_PENDING = true ∧ t.ctr = s.ctr ∧
      t.time = { s.time with pps := some ⟨s.setSec, s.get TIME.LOAD_SET_NS, v.toNat / 16 % 4, v.toNat.testBit 3, v.toNat.testBit 2, source⟩ } ∧
      t = { s with regs := t.regs, time := t.time } := by
  obtain ⟨hset, hkeep⟩ := testBit_or_two_pow v.toNat 1
  have h2 : (v.toNat ||| 2).testBit 2 = v.toNat.testBit 2 := hkeep 2 (by decide)
  have h3 : (v.toNat ||| 2).testBit 3 = v.toNat.testBit 3 := hkeep 3 (by decide)
  have hw := State.setCtrl_arms (s := s) (source := source) (w := v.toNat ||| 2) ((hkeep 0 (by decide)).trans h0) hset (by rw [h3, hp])
  rw [h2, h3] at hw
  have hrest := s.cleared_rest (v.toNat ||| 2)
  have hctr : (s.cleared (v.toNat ||| 2)).ctr = s.ctr := by rw [hrest]
  refine ⟨_, State.busWrite_setCtrl ho hw (fun f hf => ?_), State.on_of_get (State.get_set_self _ _ 1), hctr, ?_, ?_⟩
  · exact (State.get_set_of_ne _ (by revert f; decide) 1).trans (State.get_cleared (by revert f; decide) (by revert f; decide) _)
  · have hsec : (s.cleared (v.toNat ||| 2)).setSec = s.setSec := by
      unfold State.setSec
      rw [State.get_cleared (by decide) (by decide), State.get_cleared (by decide) (by decide)]
    unfold State.armPps
    rw [hsec, State.get_cleared (by decide) (by decide), State.source_cleared, source_or_two, hrest]
    rfl
  · unfold State.armPps
    rw [hrest]
    rfl

/-- CANCEL drops it. -/
theorem timeSetCancel_drops {s : State} {source : Nat} {v : Word} (ho : s.busOpen setCtrlOff) (h0 : v.toNat.testBit 0 = false)
    (h1 : v.toNat.testBit 1 = false) (h2 : v.toNat.testBit 2 = false) :
    ∃ t, Machine.exec (.timeSetCancel source v) s = .next t ∧ t.on TIME.STATUS_SET_PENDING = false ∧ t.ctr = s.ctr ∧
      t.time = { s.time with pps := none } ∧ t = { s with regs := t.regs, time := t.time } ∧
      s.keepsBut t [TIME.STATUS_SET_PENDING, TIME.LOAD_PPS_SRC] := by
  obtain ⟨hset, hkeep⟩ := testBit_or_two_pow v.toNat 6
  let put := s.set TIME.LOAD_PPS_SRC ((v.toNat ||| 64) / 16)
  have hw : s.setCtrl source (v.toNat ||| 64) = put.dropPps := by
    have e0 : (v.toNat ||| 64).testBit 0 = false := (hkeep 0 (by decide)).trans h0
    have e1 : (v.toNat ||| 64).testBit 1 = false := (hkeep 1 (by decide)).trans h1
    have e2 : (v.toNat ||| 64).testBit 2 = false := (hkeep 2 (by decide)).trans h2
    have e6 : (v.toNat ||| 64).testBit 6 = true := hset
    unfold State.setCtrl
    simp only [e0, e1, e2, e6, Bool.false_and, Bool.false_eq_true, if_false, if_true]
    rfl
  have hget : ∀ f : Fld, TIME.STATUS_SET_PENDING.key ≠ f.key → TIME.LOAD_PPS_SRC.key ≠ f.key → put.dropPps.get f = s.get f := fun f hd hs =>
    (State.get_set_of_ne _ hd 0).trans (State.get_set_of_ne _ hs _)
  refine ⟨_, State.busWrite_setCtrl ho hw (fun f hf => hget f (by revert f; decide) (by revert f; decide)), ?_, rfl, rfl, rfl, ?_⟩
  · exact decide_eq_false (by rw [show put.dropPps.get TIME.STATUS_SET_PENDING = 0 from State.get_set_self _ _ 0]; decide)
  · exact fun f _ _ hf => hget f (hf _ (by simp)) (hf _ (by simp))

/-- VALIDATE sets MEDIA_VALID. -/
theorem timeValidate_validates {s : State} {source : Nat} {v : Word} (ho : s.busOpen setCtrlOff) (h0 : v.toNat.testBit 0 = false)
    (h1 : v.toNat.testBit 1 = false) (h6 : v.toNat.testBit 6 = false) :
    ∃ t, Machine.exec (.timeValidate source v) s = .next t ∧ t.on TIME.STATUS_MEDIA_VALID = true ∧ t.ctr = s.ctr ∧
      t = { s with regs := t.regs, strm := t.strm } ∧ s.keepsBut t [TIME.STATUS_MEDIA_VALID, TIME.LOAD_PPS_SRC] := by
  obtain ⟨hset, hkeep⟩ := testBit_or_two_pow v.toNat 2
  let put := s.set TIME.LOAD_PPS_SRC ((v.toNat ||| 4) / 16)
  have hw : s.setCtrl source (v.toNat ||| 4) = put.mediaValid := by
    have e0 : (v.toNat ||| 4).testBit 0 = false := (hkeep 0 (by decide)).trans h0
    have e1 : (v.toNat ||| 4).testBit 1 = false := (hkeep 1 (by decide)).trans h1
    have e2 : (v.toNat ||| 4).testBit 2 = true := hset
    have e6 : (v.toNat ||| 4).testBit 6 = false := (hkeep 6 (by decide)).trans h6
    unfold State.setCtrl
    simp only [e0, e1, e2, e6, Bool.false_and, Bool.false_eq_true, if_false, if_true]
    rfl
  have hget : ∀ f : Fld, TIME.STATUS_MEDIA_VALID.key ≠ f.key → TIME.LOAD_PPS_SRC.key ≠ f.key → put.mediaValid.get f = s.get f := by
    intro f hm hs
    have hput : put.get f = s.get f := State.get_set_of_ne _ hs _
    unfold State.mediaValid
    split
    · exact hput
    · exact (State.get_set_of_ne _ hm 1).trans hput
  refine ⟨_, State.busWrite_setCtrl ho hw (fun f hf => hget f (by revert f; decide) (by revert f; decide)), ?_, ?_, ?_, ?_⟩
  · unfold State.mediaValid
    split
    · assumption
    · exact State.on_of_get (State.get_set_self _ _ 1)
  · exact put.mediaValid_trails.ctr
  · unfold State.mediaValid
    split <;> rfl
  · exact fun f _ _ hf => hget f (hf _ (by simp)) (hf _ (by simp))

/-! ## The edge, its timeout and a read of the time -/

theorem State.pending_dropPps (s : State) : s.dropPps.get TIME.STATUS_SET_PENDING = 0 := State.get_set_self _ _ 0

/-- The edge makes the armed load. -/
theorem ppsEdgeLoad_loads {s : State} {l : PpsLoad} (h : s.time.pps = some l) (hp : s.loadPermitted l.force = true) :
    ∃ t, Machine.exec (.ppsEdgeLoad l.src) s = .next t ∧ State.Loads s.dropPps t l.sec l.ns := by
  have hperm : s.dropPps.loadPermitted l.force = true := (State.loadPermitted_set (by decide) _ _).trans hp
  have hx : Machine.exec (.ppsEdgeLoad l.src) s = execPpsEdgeLoad l.src s := rfl
  have hrun : execPpsEdgeLoad l.src s = .next (s.dropPps.loadTime l.sec l.ns l.force l.validate) := by
    simp only [execPpsEdgeLoad, h, ne_eq, not_true_eq_false, if_false, if_pos hperm]
  obtain ⟨hsteers, hctr, hflag⟩ := s.dropPps.loadTime_steers l.sec l.ns l.force l.validate
  exact ⟨_, hx.trans hrun, hsteers, hctr, hflag⟩

/-- Two seconds without an edge drop it. -/
theorem applyPpsTimeout_drops {s : State} {l : PpsLoad} (h : s.time.pps = some l) :
    ∃ t, Machine.exec .applyPpsTimeout s = .next t ∧ s.sameButEvents { t with time := s.time } ∧ t.time = { s.time with pps := none } ∧
      t.on TIME.STATUS_SET_PENDING = false ∧ t.bit TIME.INT TIME.INT_SET_TIMEOUT = true := by
  have hx : Machine.exec .applyPpsTimeout s = execApplyPpsTimeout s := rfl
  have hrun : execApplyPpsTimeout s = .next (s.dropPps.signal TIME.INT TIME.INT_EN TIME.INT_SET_TIMEOUT 0x020B 7 2 []) := by
    simp only [execApplyPpsTimeout, h]
  have hstep := State.signal_time (l := [TIME.INT]) (by decide) s.dropPps TIME.INT_SET_TIMEOUT 0x020B 7 2 []
  refine ⟨_, hx.trans hrun, hstep.timeOnly_of rfl, State.time_signal .., ?_, State.bit_signal _ _ _ _ _ _ _ _ (by decide) (by decide)⟩
  exact decide_eq_false (by rw [hstep.get _ (by decide), State.pending_dropPps]; decide)

/-- A read of NOW_FRAC latches the time. -/
theorem timeNowRead_latches (s : State) :
    ∃ t, Machine.exec .timeNowRead s = .next t ∧ t = { s with rd := t.rd, regs := t.regs } ∧ t.rd = s.ctr / 2 ^ 16 % 2 ^ 16 ∧
      t.get TIME.NOW_NS = s.ctr / 2 ^ 32 % 1000000000 ∧ t.get TIME.NOW_SEC_LO = s.ctr / 2 ^ 32 / 1000000000 % 2 ^ 32 ∧
      s.keepsBut t [TIME.NOW_NS, TIME.NOW_SEC_LO, TIME.NOW_SEC_HI] := by
  let ns := s.ctr / 2 ^ 32
  let put := (((s.set TIME.NOW_NS (ns % 1000000000)).set TIME.NOW_SEC_LO (ns / 1000000000 % 2 ^ 32)).set TIME.NOW_SEC_HI (ns / 1000000000 / 2 ^ 32))
  have hns : put.get TIME.NOW_NS = ns % 1000000000 := by
    unfold put
    rw [State.get_set_of_ne _ (by decide), State.get_set_of_ne _ (by decide), State.get_set_self]
    exact Nat.mod_eq_of_lt ((Nat.mod_lt _ (by decide)).trans (by decide))
  have hlo : put.get TIME.NOW_SEC_LO = ns / 1000000000 % 2 ^ 32 := by
    unfold put
    rw [State.get_set_of_ne _ (by decide), State.get_set_self]
    exact Nat.mod_mod _ _
  refine ⟨_, rfl, rfl, rfl, hns, hlo, fun f _ _ hf => ?_⟩
  have hput : put.get f = s.get f :=
    ((State.get_set_of_ne _ (hf _ (by simp)) _).trans (State.get_set_of_ne _ (hf _ (by simp)) _)).trans (State.get_set_of_ne _ (hf _ (by simp)) _)
  exact hput

/-- Settles O7: each write of SET_CTRL is a load, an armed load or none, and a load is a step of the counter to its value. -/
theorem settingTheTime : Obligations.SettingTheTime := by
  unfold Obligations.SettingTheTime
  intro s source sec ns n r v l b at' stepped answers
  refine ⟨?set, ?setRefused, ?apply, ?applyRefused, ?arm, ?cancel, ?validate, ?edge, ?timeout, timeNowRead_latches s⟩
  case set =>
    intro hb hsec hns hp
    obtain ⟨t, hl, hexec⟩ := timeSet_loads hb hsec hns hp
    have hpending : t.get TIME.STATUS_SET_PENDING = s.get TIME.STATUS_SET_PENDING := hl.get _ (loadKeys_false _ (by simp))
    exact ⟨_, hexec, State.cmd_finish_of hl.cmd r _ _, ⟨hl.ctr, hl.stepped, hl.pps⟩, hl.cycles, hpending⟩
  case setRefused =>
    intro hb hsec hns hp
    exact timeSet_refuses hb hsec hns hp
  case apply =>
    intro ho h1 h6 hp
    obtain ⟨t, hexec, hl⟩ := timeSetApply_loads ho h1 h6 hp
    exact ⟨t, hexec, ⟨hl.ctr, hl.stepped, hl.pps⟩, hl.cmd⟩
  case applyRefused =>
    intro ho h1 h6 hp
    exact timeSetApply_refuses ho h1 h6 hp
  case arm =>
    intro ho h0 hp
    exact timeSetApplyPps_arms ho h0 hp
  case cancel =>
    intro ho h0 h1 h2
    exact timeSetCancel_drops ho h0 h1 h2
  case validate =>
    intro ho h0 h1 h6
    exact timeValidate_validates ho h0 h1 h6
  case edge =>
    rintro h rfl hp
    obtain ⟨t, hexec, hl⟩ := ppsEdgeLoad_loads h hp
    have hpending : t.get TIME.STATUS_SET_PENDING = 0 := (hl.get _ (loadKeys_false _ (by simp))).trans s.pending_dropPps
    exact ⟨t, hexec, hl.ctr, hl.pps, decide_eq_false (by rw [hpending]; decide), hl.stepped⟩
  case timeout =>
    intro h
    exact applyPpsTimeout_drops h

end Sys2Proof.Machine

end

