-- ==== Sys2Proof/Proofs/ServoExchanges.lean ====
section

namespace Sys2Proof.Machine

/-! ## Signed fields -/

theorem toSigned_ofSigned {w : Nat} (hw : 0 < w) {i : Int} (hlo : -(2 ^ (w - 1) : Nat) ≤ i) (hhi : i < (2 ^ (w - 1) : Nat)) :
    toSigned w (ofSigned w i) = i := by
  have hpow : 2 ^ w = 2 * 2 ^ (w - 1) := by rw [← Nat.pow_succ', Nat.succ_eq_add_one, Nat.sub_add_cancel hw]
  unfold toSigned ofSigned
  rw [hpow]
  generalize 2 ^ (w - 1) = m at *
  dsimp only
  rcases lt_or_ge i 0 with hneg | hpos
  · have hmod : i % ((2 * m : Nat) : Int) = i + (2 * m : Nat) := by
      rw [← Int.add_emod_right, Int.emod_eq_of_lt] <;> omega
    rw [hmod]
    split <;> (rw [Nat.mod_eq_of_lt (by omega)] at *; omega)
  · rw [Int.emod_eq_of_lt hpos (by omega)]
    split <;> (rw [Nat.mod_eq_of_lt (by omega)] at *; omega)

/-- A signed number within the field's range reads as it was stored. -/
theorem State.geti_seti (s : State) {f : Fld} (hf : f.w = 32) {i : Int} (hi : i.natAbs < 2 ^ 31) : (s.seti f i).geti f = i := by
  have hclamp : clampInt (-(2 ^ (f.w - 1) : Nat)) (((2 ^ (f.w - 1) : Nat) : Int) - 1) i = i := by
    unfold clampInt
    rw [hf]
    split
    · omega
    · split <;> omega
  have hrange : ofSigned f.w i % 2 ^ f.w = ofSigned f.w i := by
    refine Nat.mod_eq_of_lt ?_
    rw [hf]
    unfold ofSigned
    omega
  unfold State.geti State.seti
  rw [State.get_set_self, hclamp, hrange]
  exact toSigned_ofSigned (by omega) (by rw [hf]; omega) (by rw [hf]; omega)

theorem State.geti_congr {s t : State} {f : Fld} (h : t.get f = s.get f) : t.geti f = s.geti f := by rw [State.geti, State.geti, h]

/-! ## What the servo does with an exchange (R72, R75) -/

/-- Keys that the servo writes. -/
def steerKeys (k : Nat) : Bool := among servoFlds k || loadKeys k

theorem steerKeys_of_servo (k : Nat) (h : among servoFlds k = true) : steerKeys k = true := by simp [steerKeys, h]

theorem steerKeys_of_load (k : Nat) (h : loadKeys k = true) : steerKeys k = true := by simp [steerKeys, h]

/-- A step of the servo. -/
theorem State.TimeStep.steers {s t : State} (h : State.TimeStep (among servoFlds) s t) : State.Steers steerKeys s t := h.toSteers.mono steerKeys_of_servo

theorem State.mediaValid_steers (s : State) : State.Steers steerKeys s s.mediaValid := s.mediaValid_trails.toSteers.mono steerKeys_of_load

/-- A field of the servo is written. -/
theorem State.set_steers {f : Fld} (h : f ∈ servoFlds) (hi : f.key ≠ TIME.INT.key) (s : State) (v : Nat) : State.Steers steerKeys s (s.set f v) :=
  (State.TimeStep.write h hi s v).steers

/-- The registers of TRACK, and its runs begun. -/
def State.tracking (s : State) : State :=
  (((s.set TIME.STATUS_SERVO_STATE 2).setOn TIME.STATUS_DISCIPLINED true).setOn TIME.STATUS_LOCKED true).clearRuns

/-- The entry into TRACK raises LOCKED and sets MEDIA_VALID. -/
theorem State.servoEnter_track {s : State} (h : s.get TIME.STATUS_SERVO_STATE ≠ 2) :
    s.servoEnter 2 = (s.tracking.signal TIME.INT TIME.INT_EN TIME.INT_LOCKED 0x0201 7 2 s.tracking.servoDetail).mediaValid := by
  have h21 : ¬ ((2 : Nat) = 1) := by decide
  have h23 : ¬ ((2 : Nat) = 3 ∨ (2 : Nat) = 4) := by decide
  have h24 : ¬ ((2 : Nat) = 4) := by decide
  simp only [State.servoEnter, if_neg h, h21, and_false, if_false, if_true, if_neg h23, if_neg h24]
  rfl

theorem State.tracking_steers (s : State) : State.Steers steerKeys s s.tracking := by
  have hstate : State.Steers steerKeys s (s.set TIME.STATUS_SERVO_STATE 2) := State.set_steers (by simp [servoFlds]) (by decide) s 2
  have hset : ∀ f ∈ [TIME.STATUS_DISCIPLINED, TIME.STATUS_LOCKED], ∀ u : State, State.Steers steerKeys u (u.setOn f true) := fun f hf u =>
    State.set_steers (by revert f; simp [servoFlds]) (by revert f; decide) u 1
  exact ((hstate.trans (hset _ (by simp) _)).trans (hset _ (by simp) _)).trans (State.TimeStep.steers (State.clearRuns_step _ _))

theorem State.servoEnter_steers (s : State) (n : Nat) : State.Steers steerKeys s (s.servoEnter n) := by
  by_cases h2 : n = 2
  · subst h2
    by_cases h : s.get TIME.STATUS_SERVO_STATE = 2
    · rw [State.servoEnter, if_pos h]
      exact (s.clearRuns_step _).steers
    · rw [State.servoEnter_track h]
      exact (s.tracking_steers.trans (State.TimeStep.steers (State.signal_time (by simp [servoFlds]) _ _ _ _ _ _))).trans (State.mediaValid_steers _)
  · exact (s.servoEnter_step h2).steers

theorem State.setIncr_steers (s : State) (v : Int) : State.Steers steerKeys s (s.setIncr v) :=
  State.TimeStep.steers ((s.setIncr_step v).mono (among_mono (by simp +contextual [servoFlds])))

/-- Runs and the integral are the engine's own. -/
theorem State.engine_steers (s : State) {x : TimeState} (hp : x.ports = s.time.ports) (hl : x.pps = s.time.pps) :
    State.Steers steerKeys s { s with time := x } := .of_eq _ rfl hp rfl rfl hl

theorem State.servoCompute_steers (s : State) (th : Int) : State.Steers steerKeys s (s.servoCompute th) := by
  unfold State.servoCompute
  extract_lets ls acq kp ki slew range p iNew y time
  have hintegrated : State.Steers steerKeys s { s with time := { time with integral := iNew } } := s.engine_steers rfl rfl
  exact .ite (hintegrated.trans (State.setIncr_steers _ _)) (s.setIncr_steers _)

theorem State.settleCheck_steers (s : State) (was : Bool) : State.Steers steerKeys s (s.settleCheck was) := by
  unfold State.settleCheck
  exact .ite ((s.switchPort_step _ _).steers.trans (State.settleExit_step _ _).steers) (.refl _ s)

/-- The active port is chosen, its integral preloaded, and ACQUIRE entered. -/
theorem State.acquire_steers (s : State) (a : Nat) : State.Steers steerKeys s ((s.set TIME.STATUS_ACTIVE_PORT a).preloadI.servoEnter 1) := by
  have hset : State.Steers steerKeys s (s.set TIME.STATUS_ACTIVE_PORT a) := State.set_steers (by simp [servoFlds]) (by decide) s a
  have hload : State.Steers steerKeys (s.set TIME.STATUS_ACTIVE_PORT a) (s.set TIME.STATUS_ACTIVE_PORT a).preloadI := State.engine_steers _ rfl rfl
  exact (hset.trans hload).trans (State.servoEnter_steers _ 1)

theorem State.servoFollow_steers (s : State) : State.Steers steerKeys s s.servoFollow := by
  unfold State.servoFollow
  extract_lets st onRef auto a
  exact .ite (.ite (s.acquire_steers a) (.refl _ s)) (.ite (.refl _ s) (s.servoEnter_steers 0))

/-- A run of the servo is counted, and perhaps another state entered. -/
theorem State.Steers.counts {s t : State} (h : State.Steers steerKeys s t) {x : TimeState} (hp : x.ports = t.time.ports) (hl : x.pps = t.time.pps) {n : Nat}
    {c : Prop} [Decidable c] : State.Steers steerKeys s (if c then ({ t with time := x } : State).servoEnter n else { t with time := x }) :=
  .ite ((h.trans (t.engine_steers hp hl)).trans (State.servoEnter_steers _ n)) (h.trans (t.engine_steers hp hl))

/-- An exchange in MONITOR that makes no step: the run of small offsets, and MEDIA_VALID at its end. -/
def State.monitorRun (s : State) (small : Bool) (lockN : Nat) : State :=
  let n := if small then s.time.runMonitor + 1 else 0
  let s := { s with time := { s.time with runMonitor := n } }
  if lockN ≤ n then s.mediaValid else s

/-- One in ACQUIRE, the integral and INCR computed: the run of small offsets, and TRACK at its end. -/
def State.lockRun (s : State) (small : Bool) (lockN : Nat) : State :=
  let n := if small then s.time.runLock + 1 else 0
  let s := { s with time := { s.time with runLock := n } }
  if lockN ≤ n then s.servoEnter 2 else s

/-- One in TRACK: the run of large offsets, and ACQUIRE at its end. -/
def State.unlockRun (s : State) (th : Int) : State :=
  let n := if within th (s.get TIME.SERVO_THR_UNLOCK) then 0 else s.time.runUnlock + 1
  let s := { s with time := { s.time with runUnlock := n } }
  if 4 ≤ n then s.servoEnter 1 else s

theorem State.monitorRun_steers (s : State) (small : Bool) (lockN : Nat) : State.Steers steerKeys s (s.monitorRun small lockN) := by
  unfold State.monitorRun
  dsimp only
  have hrun : ∀ n, State.Steers steerKeys s { s with time := { s.time with runMonitor := n } } := fun n => s.engine_steers rfl rfl
  exact .ite ((hrun _).trans (State.mediaValid_steers _)) (hrun _)

theorem State.lockRun_steers (s : State) (small : Bool) (lockN : Nat) : State.Steers steerKeys s (s.lockRun small lockN) := by
  unfold State.lockRun
  dsimp only
  refine (State.Steers.refl _ s).counts ?_ ?_ <;> rfl

theorem State.unlockRun_steers (s : State) (th : Int) : State.Steers steerKeys s (s.unlockRun th) := by
  unfold State.unlockRun
  dsimp only
  refine (State.Steers.refl _ s).counts ?_ ?_ <;> rfl

theorem State.servoExchange_steers (s : State) (p : Nat) (was : Bool) (th : Int) : State.Steers steerKeys s (s.servoExchange p was th) := by
  have hactive : ∀ a, State.Steers steerKeys s (s.set TIME.STATUS_ACTIVE_PORT a) := State.set_steers (by simp [servoFlds]) (by decide) s
  have hcomputed := s.servoCompute_steers th
  unfold State.servoExchange
  refine .ite (.ite ?_ (.ite ?_ ?_)) (.ite ?_ (.ite ?_ (.ite ?_ (.ite ?_ ?_))))
  · exact .refl _ s
  · exact (s.stepCtr_steers _).1.mono steerKeys_of_load
  · exact s.monitorRun_steers _ _
  · exact (hactive _).trans (State.servoEnter_steers _ 1)
  · exact s.settleCheck_steers was
  · exact hcomputed.trans (State.lockRun_steers _ _ _)
  · exact hcomputed.trans (State.unlockRun_steers _ th)
  · exact .refl _ s

end Sys2Proof.Machine

end

