-- ==== Sys2Proof/Proofs/Exchanges.lean ====
section

namespace Sys2Proof.Machine

/-! ## An exchange that completes (R64, R85) -/

/-- What an offset computation begins with: the asymmetry's boundary and, on the active port, the servo's. -/
def State.followed (s : State) (p : Nat) : State :=
  let s := s.boundary .offset (fun k => k == (TIME.PORT_ASYM p).key)
  if p == s.get TIME.STATUS_ACTIVE_PORT then (s.boundary .servo (fun _ => true)).servoFollow else s

/-- The offset and the delay of port p in its registers, and what the run of small offsets makes of its state. -/
def State.judged (s : State) (p : Nat) (th mpd : Int) : State :=
  let s := s.putOfs (TIME.PORT_OFS_NS p) (TIME.PORT_OFS_FRAC p) th
  let s := s.putOfs (TIME.PORT_MPD_NS p) (TIME.PORT_MPD_FRAC p) mpd
  let x := s.ptp p
  let run := if within th (s.get TIME.SERVO_THR_LOCK) then x.lockRun + 1 else 0
  let s := s.setPtp p { x with lockRun := run }
  if s.get (TIME.PORT_STATE p) = 8 ∧ atLeast1 (s.get TIME.SERVO_LOCK_N) ≤ run then s.setPortState p 9 else s

/-- An exchange under no suspicion is counted used, noted in its PTP port, and handed to the servo. -/
def State.noteUsed (s : State) (p : Nat) (th mpd : Int) : State :=
  let s := (s.dropHeld p).count (TIME.PORT_EXCH_USED p)
  let x := s.ptp p
  let base := x.baseline ++ [(th, mpd)]
  s.setPtp p { x with baseline := base.drop (base.length - 8), lastOfs := th, recent := true, lastAt := s.cycles }

/-- Twice the offset of R64. -/
def State.offsetOf (s : State) (p : Nat) (dp : DelayPair) (t1 t2 c : Int) : Int := t2 - t1 - c - (dp.t4 - dp.t3 - dp.corr) - 2 * s.geti (TIME.PORT_ASYM p)

theorem State.exchange_eq {s : State} {p : Nat} {dp : DelayPair} (h : (s.ptp p).pair = some dp) {t1 t2 c th mpd : Int}
    (hth : (s.followed p).offsetOf p dp t1 t2 c = th) (hmpd : t2 - t1 - c + (dp.t4 - dp.t3 - dp.corr) = mpd)
    (hsus : ((s.followed p).judged p th mpd).suspect (((s.followed p).judged p th mpd).ptp p) th mpd = false) :
    ∃ was, s.exchange p t1 t2 c =
      let t := (((s.followed p).judged p th mpd).noteUsed p th mpd).servoExchange p was th
      if p == s.get TIME.STATUS_ACTIVE_PORT then t.endUpdate else t := by
  subst hth hmpd
  refine ⟨(s.boundary .offset (fun k => k == (TIME.PORT_ASYM p).key)).eligible p, ?_⟩
  unfold State.exchange
  rw [h]
  exact congrArg (fun v : State => if p == s.get TIME.STATUS_ACTIVE_PORT then v.endUpdate else v) (if_neg (ne_true_of_eq_false hsus))

/-- Keys that an exchange writes beside OFS_NS and EXCH_USED. -/
def exchangeKeys (p k : Nat) : Bool :=
  among (TIME.PORT_OFS_FRAC p :: TIME.PORT_MPD_FRAC p :: TIME.PORT_MPD_NS p :: portStateFlds p) k || loadKeys k

theorem exchangeKeys_of_mem {p : Nat} {f : Fld} (h : f ∈ TIME.PORT_OFS_FRAC p :: TIME.PORT_MPD_FRAC p :: TIME.PORT_MPD_NS p :: portStateFlds p) :
    exchangeKeys p f.key = true := by
  simp [exchangeKeys, among_of_mem h]

theorem exchangeKeys_of_state (p k : Nat) (h : among (portStateFlds p) k = true) : exchangeKeys p k = true := by
  have h' := among_mono (m := TIME.PORT_OFS_FRAC p :: TIME.PORT_MPD_FRAC p :: TIME.PORT_MPD_NS p :: portStateFlds p) (by simp +contextual) k h
  simp [exchangeKeys, h']

theorem exchangeKeys_of_steer (p k : Nat) (h : steerKeys k = true) : exchangeKeys p k = true := by
  simp only [steerKeys, Bool.or_eq_true] at h
  rcases h with h | h
  · exact exchangeKeys_of_state p k (among_mono (by simp +contextual [portStateFlds]) k h)
  · simp [exchangeKeys, h]

/-- What an exchange leaves but for OFS_NS and EXCH_USED. -/
def exchangeKept (p : Nat) : List Fld := [TIME.PORT_ASYM p, TIME.PORT_FUP_RX p, TIME.SERVO_PC_EN]

theorem exchangeKeys_kept : ∀ p < 2, (∀ f ∈ TIME.PORT_OFS_NS p :: TIME.PORT_EXCH_USED p :: exchangeKept p, exchangeKeys p f.key = false) ∧
    (∀ f ∈ TIME.PORT_OFS_NS p :: exchangeKept p, (TIME.PORT_EXCH_USED p).key ≠ f.key) ∧
    (∀ f ∈ TIME.PORT_EXCH_USED p :: exchangeKept p, (TIME.PORT_OFS_NS p).key ≠ f.key) ∧
    (∀ f ∈ [TIME.PORT_OFS_FRAC p, TIME.PORT_MPD_FRAC p, TIME.PORT_MPD_NS p], f.key ≠ TIME.INT.key) ∧ (TIME.PORT_OFS_NS p).w = 32 := by
  decide +kernel

theorem State.followed_steers (s : State) (p : Nat) : State.Steers (exchangeKeys p) s (s.followed p) := by
  have hbound : ∀ (t : State) u k, State.Steers (exchangeKeys p) t (t.boundary u k) := fun t u k => .of_eq _ rfl rfl rfl rfl rfl
  unfold State.followed
  exact .ite ((hbound _ _ _).trans ((hbound _ _ _).trans ((State.servoFollow_steers _).mono (exchangeKeys_of_steer p)))) (hbound s _ _)

theorem State.judged_steers (s : State) {p : Nat} (hp : p < 2) (th mpd : Int) :
    State.Steers (exchangeKeys p) (s.seti (TIME.PORT_OFS_NS p) (th / ns17)) (s.judged p th mpd) := by
  obtain ⟨-, -, -, hint, -⟩ := exchangeKeys_kept p hp
  have hput : ∀ f ∈ [TIME.PORT_OFS_FRAC p, TIME.PORT_MPD_FRAC p, TIME.PORT_MPD_NS p], ∀ (u : State) v, State.Steers (exchangeKeys p) u (u.set f v) :=
    fun f hf u v => .set (exchangeKeys_of_mem (by revert hf; simp only [List.mem_cons, List.not_mem_nil]; tauto)) (hint f hf) u v
  unfold State.judged
  extract_lets ofs both x run ran
  have hofs : State.Steers (exchangeKeys p) (s.seti (TIME.PORT_OFS_NS p) (th / ns17)) ofs := hput _ (by simp) _ _
  have hmpd : State.Steers (exchangeKeys p) ofs both := (hput _ (by simp) _ _).trans (hput (TIME.PORT_MPD_FRAC p) (by simp) _ _)
  have hrun : State.Steers (exchangeKeys p) both ran := .setPtp _ ⟨rfl, rfl, rfl, id⟩
  have hall := (hofs.trans hmpd).trans hrun
  exact .ite (hall.trans ((ran.setPortState_step hp 9).toSteers.mono (exchangeKeys_of_state p))) hall

/-- What an exchange is to leave. -/
structure State.Exchanged (p : Nat) (th : Int) (s t : State) : Prop where
  ofs : (th / ns17).natAbs < 2 ^ 31 → t.geti (TIME.PORT_OFS_NS p) = th / ns17
  lastOfs : (t.ptp p).lastOfs = th
  used : t.get (TIME.PORT_EXCH_USED p) = (s.get (TIME.PORT_EXCH_USED p) + 1) % 2 ^ 32
  kept : ∀ f ∈ exchangeKept p, t.get f = s.get f

theorem State.noteUsed_facts (s : State) {p : Nat} (hp : p < 2) (th mpd : Int) :
    ((s.noteUsed p th mpd).ptp p).lastOfs = th ∧
      (s.noteUsed p th mpd).get (TIME.PORT_EXCH_USED p) = (s.get (TIME.PORT_EXCH_USED p) + 1) % 2 ^ 32 ∧
      ∀ f ∈ TIME.PORT_OFS_NS p :: exchangeKept p, (s.noteUsed p th mpd).get f = s.get f := by
  obtain ⟨hkept, hused, -, -, -⟩ := exchangeKeys_kept p hp
  have hdrop : State.Steers (exchangeKeys p) s (s.dropHeld p) :=
    (s.dropHeld_step (l := portStateFlds p) hp (by simp [portStateFlds])).toSteers.mono (exchangeKeys_of_state p)
  refine ⟨congrArg PtpPort.lastOfs (State.ptp_setPtp_self _ hp _), ?_, fun f hf => ?_⟩
  · have hcount : (s.noteUsed p th mpd).get (TIME.PORT_EXCH_USED p) = ((s.dropHeld p).get (TIME.PORT_EXCH_USED p) + 1) % 2 ^ 32 :=
      State.get_count_self _ _
    rw [hcount, hdrop.get _ (hkept _ (by simp))]
  · have hcount : (s.noteUsed p th mpd).get f = (s.dropHeld p).get f := State.get_set_of_ne _ (hused f hf) _
    rw [hcount, hdrop.get _ (hkept f (by revert hf; simp only [List.mem_cons]; tauto))]

theorem State.endUpdate_steers (P : Nat → Bool) (s : State) : State.Steers P s s.endUpdate := by
  have hclear : ∀ (u : State) q, State.Steers P u (u.setPtp q { u.ptp q with confirmed := false }) := fun u q => .setPtp P ⟨rfl, rfl, rfl, id⟩
  exact (hclear s 0).trans (hclear _ 1)

/-- An exchange with a delay pair, where paths are not checked, is used. -/
theorem State.exchange_uses {s : State} {p : Nat} {dp : DelayPair} (hp : p < 2) (h : (s.ptp p).pair = some dp) (hpc : s.on TIME.SERVO_PC_EN = false)
    (t1 t2 c : Int) : State.Exchanged p (s.offsetOf p dp t1 t2 c) s (s.exchange p t1 t2 c) := by
  obtain ⟨hkept, -, hns, -, hw⟩ := exchangeKeys_kept p hp
  have hfollow := s.followed_steers p
  have hth : (s.followed p).offsetOf p dp t1 t2 c = s.offsetOf p dp t1 t2 c := by
    rw [State.offsetOf, State.offsetOf, State.geti_congr (hfollow.get _ (hkept _ (by simp [exchangeKept])))]
  let th := s.offsetOf p dp t1 t2 c
  let mpd := t2 - t1 - c + (dp.t4 - dp.t3 - dp.corr)
  have hjudge := (s.followed p).judged_steers hp th mpd
  have hread : ∀ f ∈ TIME.PORT_EXCH_USED p :: exchangeKept p, ((s.followed p).judged p th mpd).get f = s.get f := fun f hf => by
    have hset : ((s.followed p).seti (TIME.PORT_OFS_NS p) (th / ns17)).get f = (s.followed p).get f := State.get_set_of_ne _ (hns f hf) _
    have hk : exchangeKeys p f.key = false := hkept f (List.mem_cons_of_mem _ hf)
    rw [hjudge.get f hk, hset, hfollow.get f hk]
  have hsus : ((s.followed p).judged p th mpd).suspect (((s.followed p).judged p th mpd).ptp p) th mpd = false := by
    have hoff : ((s.followed p).judged p th mpd).on TIME.SERVO_PC_EN = false := by
      rw [State.on, hread _ (by simp [exchangeKept])]
      exact hpc
    simp only [State.suspect, hoff, Bool.false_and]
  obtain ⟨was, heq⟩ := State.exchange_eq h hth rfl hsus
  let noted := ((s.followed p).judged p th mpd).noteUsed p th mpd
  obtain ⟨hlast, hused, hnoted⟩ := State.noteUsed_facts ((s.followed p).judged p th mpd) hp th mpd
  have hend : State.Steers (exchangeKeys p) noted (s.exchange p t1 t2 c) := by
    have hservo := (noted.servoExchange_steers p was th).mono (exchangeKeys_of_steer p)
    rw [heq]
    exact .ite (hservo.trans (State.endUpdate_steers _ _)) hservo
  refine ⟨fun hr => ?_, (hend.ptp p).lastOfs.trans hlast, ?_, fun f hf => ?_⟩
  · have hofs : ((s.followed p).judged p th mpd).geti (TIME.PORT_OFS_NS p) = th / ns17 := by
      rw [State.geti_congr (hjudge.get _ (hkept _ (by simp)))]
      exact State.geti_seti _ hw hr
    rw [State.geti_congr (hend.get _ (hkept _ (by simp))), State.geti_congr (hnoted _ (by simp)), hofs]
  · rw [hend.get _ (hkept _ (by simp)), hused, hread _ (by simp)]
  · rw [hend.get _ (hkept _ (by simp [hf])), hnoted f (by simp [hf]), hread f (by simp [hf])]

end Sys2Proof.Machine

end

