-- ==== Sys2Proof/Proofs/PtpReceived.lean ====
section

namespace Sys2Proof.Machine

/-! ## Messages received (R57, R63 to R65) -/

/-- A counter of port p counts, and its PTP port changes: no other unit is touched. -/
theorem State.count_setPtp_facts (s : State) {p : Nat} (hp : p < 2) {f : Fld} (hw : f.w = 32) (x : PtpPort) :
    let t := (s.count f).setPtp p x
    s.sameButEvents { t with time := s.time } ∧ s.turns t f ((s.get f + 1) % 2 ^ 32) ∧ t.ptp p = x ∧ t.ptp (1 - p) = s.ptp (1 - p) := by
  refine ⟨rfl, ⟨?_, fun g _ _ hg => State.get_set_of_ne _ (hg f (by simp)) _⟩, State.ptp_setPtp_self _ hp x, State.ptp_setPtp_of_ne _ (by omega) x⟩
  have hself : (s.count f).get f = (s.get f + 1) % 2 ^ 32 := by rw [State.get_count_self, hw]
  exact hself

/-- Counting a message changes nothing that its handling reads. -/
theorem rxCountKeys : ∀ p < 2, (∀ f ∈ [TIME.PORT_RX_LAT p, TIME.PORT_ASYM p, TIME.SERVO_PC_EN], (TIME.PORT_SYNC_RX p).key ≠ f.key) ∧
    (∀ f ∈ [TIME.PORT_ASYM p, TIME.SERVO_PC_EN, TIME.PORT_EXCH_DISCARD p], (TIME.PORT_FUP_RX p).key ≠ f.key) := by
  decide

/-- A two-step Sync waits for its Follow_Up with its receive stamp. -/
theorem syncRx_waits {s : State} {p : Nat} {m : PtpMsg} (raw : Int) (hp : p < 2) (h : s.slaving p = true ∧ s.fromParent p m = true)
    (h2 : m.twoStep = true) (hroom : (s.ptp p).stamps < 16) :
    ∃ t, Machine.exec (.syncRx p m raw) s = .next t ∧ s.sameButEvents { t with time := s.time } ∧
      s.turns t (TIME.PORT_SYNC_RX p) ((s.get (TIME.PORT_SYNC_RX p) + 1) % 2 ^ 32) ∧
      t.ptp p = { s.ptp p with syncs := (s.ptp p).syncs ++ [⟨m.src, m.seq, m.corr, raw - s.geti (TIME.PORT_RX_LAT p)⟩] } ∧
      t.ptp (1 - p) = s.ptp (1 - p) := by
  have hlat : (s.count (TIME.PORT_SYNC_RX p)).geti (TIME.PORT_RX_LAT p) = s.geti (TIME.PORT_RX_LAT p) :=
    State.geti_congr (State.get_set_of_ne _ ((rxCountKeys p hp).1 _ (by simp)) _)
  have hx : Machine.exec (.syncRx p m raw) s = execSyncRx p m raw s := rfl
  refine ⟨_, ?_, s.count_setPtp_facts hp rfl _⟩
  rw [hx, execSyncRx, if_pos (by rw [h.1, h.2]; rfl), ← hlat]
  exact (if_neg (Nat.not_le.2 hroom)).trans (if_pos h2)

/-- A one-step Sync completes an exchange where a delay pair is known. -/
theorem syncRx_exchanges {s : State} {p : Nat} {m : PtpMsg} {dp : DelayPair} (raw : Int) (hp : p < 2)
    (h : s.slaving p = true ∧ s.fromParent p m = true) (h2 : m.twoStep = false) (hroom : (s.ptp p).stamps < 16)
    (hpair : (s.ptp p).pair = some dp) (hpc : s.on TIME.SERVO_PC_EN = false) :
    ∃ t, Machine.exec (.syncRx p m raw) s = .next t ∧
      State.Exchanged p (s.offsetOf p dp (t16 m.time) (raw - s.geti (TIME.PORT_RX_LAT p)) m.corr) (s.count (TIME.PORT_SYNC_RX p)) t := by
  have hget : ∀ f ∈ [TIME.PORT_RX_LAT p, TIME.PORT_ASYM p, TIME.SERVO_PC_EN], (s.count (TIME.PORT_SYNC_RX p)).get f = s.get f :=
    fun f hf => State.get_set_of_ne _ ((rxCountKeys p hp).1 f hf) _
  have hlat : (s.count (TIME.PORT_SYNC_RX p)).geti (TIME.PORT_RX_LAT p) = s.geti (TIME.PORT_RX_LAT p) := State.geti_congr (hget _ (by simp))
  have hasym : (s.count (TIME.PORT_SYNC_RX p)).geti (TIME.PORT_ASYM p) = s.geti (TIME.PORT_ASYM p) := State.geti_congr (hget _ (by simp))
  have hpc' : (s.count (TIME.PORT_SYNC_RX p)).on TIME.SERVO_PC_EN = false := by rw [State.on, hget _ (by simp)]; exact hpc
  have hx : Machine.exec (.syncRx p m raw) s = execSyncRx p m raw s := rfl
  have huse := State.exchange_uses (s := s.count (TIME.PORT_SYNC_RX p)) hp hpair hpc' (t16 m.time) (raw - s.geti (TIME.PORT_RX_LAT p)) m.corr
  rw [State.offsetOf, hasym] at huse
  refine ⟨_, ?_, huse⟩
  rw [hx, execSyncRx, if_pos (by rw [h.1, h.2]; rfl), ← hlat]
  exact (if_neg (Nat.not_le.2 hroom)).trans (if_neg (by rw [h2]; decide))

/-- The Follow_Up of a Sync that waits is counted, and the Sync waits no more. -/
def State.matched (s : State) (p : Nat) (y : PendSync) : State :=
  (s.count (TIME.PORT_FUP_RX p)).setPtp p { s.ptp p with syncs := (s.ptp p).syncs.erase y }

theorem followUpRx_matches {s : State} {p : Nat} {m : PtpMsg} {y : PendSync} (h : s.slaving p = true ∧ s.fromParent p m = true)
    (hy : (s.ptp p).syncs.find? (fun z => z.src == m.src && z.seq == m.seq) = some y) :
    Machine.exec (.followUpRx p m) s = .next ((s.matched p y).exchange p (t16 m.time) y.t2 (y.corr + m.corr)) := by
  have hx : Machine.exec (.followUpRx p m) s = execFollowUpRx p m s := rfl
  rw [hx, execFollowUpRx, if_pos (by rw [h.1, h.2]; rfl)]
  simp only [hy]
  rfl

/-- A Follow_Up completes an exchange where a delay pair is known. -/
theorem followUpRx_exchanges {s : State} {p : Nat} {m : PtpMsg} {y : PendSync} {dp : DelayPair} (hp : p < 2)
    (h : s.slaving p = true ∧ s.fromParent p m = true) (hy : (s.ptp p).syncs.find? (fun z => z.src == m.src && z.seq == m.seq) = some y)
    (hpair : (s.ptp p).pair = some dp) (hpc : s.on TIME.SERVO_PC_EN = false) :
    ∃ t, Machine.exec (.followUpRx p m) s = .next t ∧
      State.Exchanged p (s.offsetOf p dp (t16 m.time) y.t2 (y.corr + m.corr)) (s.matched p y) t := by
  have hself : (s.matched p y).ptp p = { s.ptp p with syncs := (s.ptp p).syncs.erase y } := State.ptp_setPtp_self _ hp _
  have hget : ∀ f ∈ [TIME.PORT_ASYM p, TIME.SERVO_PC_EN, TIME.PORT_EXCH_DISCARD p], (s.matched p y).get f = s.get f :=
    fun f hf => State.get_set_of_ne _ ((rxCountKeys p hp).2 f hf) _
  have hpc' : (s.matched p y).on TIME.SERVO_PC_EN = false := by rw [State.on, hget _ (by simp)]; exact hpc
  have hpair' : ((s.matched p y).ptp p).pair = some dp := by rw [hself]; exact hpair
  have huse := State.exchange_uses hp hpair' hpc' (t16 m.time) y.t2 (y.corr + m.corr)
  rw [State.offsetOf, State.geti_congr (hget (TIME.PORT_ASYM p) (by simp))] at huse
  exact ⟨_, followUpRx_matches h hy, huse⟩

/-- Without a delay pair it is discarded. -/
theorem followUpRx_discards {s : State} {p : Nat} {m : PtpMsg} {y : PendSync} (hp : p < 2)
    (h : s.slaving p = true ∧ s.fromParent p m = true) (hy : (s.ptp p).syncs.find? (fun z => z.src == m.src && z.seq == m.seq) = some y)
    (hpair : (s.ptp p).pair = none) :
    ∃ t, Machine.exec (.followUpRx p m) s = .next t ∧ s.sameButEvents { t with time := s.time } ∧
      t.ptp p = { s.ptp p with syncs := (s.ptp p).syncs.erase y } ∧
      t.get (TIME.PORT_EXCH_DISCARD p) = (s.get (TIME.PORT_EXCH_DISCARD p) + 1) % 2 ^ 32 := by
  have hself : (s.matched p y).ptp p = { s.ptp p with syncs := (s.ptp p).syncs.erase y } := State.ptp_setPtp_self _ hp _
  have hget : (s.matched p y).get (TIME.PORT_EXCH_DISCARD p) = s.get (TIME.PORT_EXCH_DISCARD p) := State.get_set_of_ne _ ((rxCountKeys p hp).2 _ (by simp)) _
  have hnone : ((s.matched p y).ptp p).pair = none := by rw [hself]; exact hpair
  have hdrop : (s.matched p y).exchange p (t16 m.time) y.t2 (y.corr + m.corr) = (s.matched p y).count (TIME.PORT_EXCH_DISCARD p) := by
    unfold State.exchange
    rw [hnone]
  refine ⟨_, (followUpRx_matches h hy).trans (congrArg Host.Outcome.next hdrop), rfl, hself, ?_⟩
  rw [State.get_count_self, hget]
  rfl

/-- A Sync that has waited its interval is discarded. -/
theorem followUpTimeout_discards {s : State} {p seq : Nat} {y : PendSync} (hp : p < 2) (hy : (s.ptp p).syncs.find? (fun z => z.seq == seq) = some y) :
    ∃ t, Machine.exec (.followUpTimeout p seq) s = .next t ∧ s.sameButEvents { t with time := s.time } ∧
      t.ptp p = { s.ptp p with syncs := (s.ptp p).syncs.erase y } ∧
      s.turns t (TIME.PORT_EXCH_DISCARD p) ((s.get (TIME.PORT_EXCH_DISCARD p) + 1) % 2 ^ 32) := by
  have hx : Machine.exec (.followUpTimeout p seq) s = execFollowUpTimeout p seq s := rfl
  obtain ⟨htime, hturn, hself, -⟩ := s.count_setPtp_facts hp (f := TIME.PORT_EXCH_DISCARD p) rfl { s.ptp p with syncs := (s.ptp p).syncs.erase y }
  refine ⟨_, ?_, htime, hself, hturn⟩
  rw [hx, execFollowUpTimeout, if_pos hp]
  simp only [hy]

/-- A Delay_Resp makes the delay pair of its request. -/
theorem delayRespRx_pairs {s : State} {p : Nat} {m : PtpMsg} {t3 : Int} (hp : p < 2) (h : s.slaving p = true ∧ s.fromParent p m = true)
    (hd : (s.ptp p).dreqs.find? (fun z => z.1 == m.seq) = some (m.seq, t3)) :
    ∃ t, Machine.exec (.delayRespRx p m true) s = .next t ∧ s.sameButEvents { t with time := s.time } ∧
      s.turns t (TIME.PORT_DRESP_RX p) ((s.get (TIME.PORT_DRESP_RX p) + 1) % 2 ^ 32) ∧ (t.ptp p).pair = some ⟨t3, t16 m.time, m.corr⟩ ∧
      (t.ptp p).dreqs = (s.ptp p).dreqs.erase (m.seq, t3) := by
  have hx : Machine.exec (.delayRespRx p m true) s = execDelayRespRx p m true s := rfl
  obtain ⟨htime, hturn, hself, -⟩ := s.count_setPtp_facts hp (f := TIME.PORT_DRESP_RX p) rfl
    { s.ptp p with dreqs := (s.ptp p).dreqs.erase (m.seq, t3), pair := some ⟨t3, t16 m.time, m.corr⟩ }
  refine ⟨_, ?_, htime, hturn, congrArg PtpPort.pair hself, congrArg PtpPort.dreqs hself⟩
  rw [hx, execDelayRespRx, if_pos (by rw [h.1, h.2]; rfl)]
  simp only [hd]

theorem delayPairExpiry_clears (s : State) {p : Nat} (hp : p < 2) :
    ∃ t, Machine.exec (.delayPairExpiry p) s = .next t ∧ t = { s with time := t.time } ∧ t.ptp p = { s.ptp p with pair := none } ∧
      t.ptp (1 - p) = s.ptp (1 - p) :=
  ⟨_, congrArg Host.Outcome.next (if_pos hp), rfl, State.ptp_setPtp_self _ hp _, State.ptp_setPtp_of_ne _ (by omega) _⟩

end Sys2Proof.Machine

end

