-- ==== Sys2Proof/Proofs/SendingConditions.lean ====
section

namespace Sys2Proof.Machine

/-! ## What a port may send depends on (R137, R138, R141) -/

/-- A field outside the TIME block. -/
def Fld.outsideTime (f : Fld) : Prop := f.lo < 32 ∧ (f.off < 0x80000 ∨ 0xA0000 ≤ f.off)

/-- `t` differs from `s` in the TIME block and the time engine only, as far as sending reads it. -/
structure State.SendsAlike (s t : State) : Prop where
  get : ∀ f : Fld, f.outsideTime → t.get f = s.get f
  held : t.held = s.held
  ctr : t.ctr = s.ctr
  strm : t.strm = s.strm
  stream : ∀ q, (t.port q).stream = (s.port q).stream

/-- The fields of the table of transmit stream i that say when it launches. -/
def launchFlds (i : Nat) : List Fld := [TXE.ENABLE i, TXE.WIDE i, TXE.REDUNDANT i, TXE.ENC i, TXE.RATE i, TXE.CHANNELS i, TXE.SPP i, TXE.BASE_SLOT i,
  TXE.LAUNCH_OFS i, TXE.LEG_A_STOPPED i, TXE.LEG_B_STOPPED i]

theorem launchFlds_outside {i : Nat} {f : Fld} (h : f ∈ launchFlds i) : f.outsideTime := by
  simp only [launchFlds, List.mem_cons, List.not_mem_nil, or_false] at h
  unfold Fld.outsideTime
  rcases h with rfl | rfl | rfl | rfl | rfl | rfl | rfl | rfl | rfl | rfl | rfl <;>
    simp only [TXE.ENABLE, TXE.WIDE, TXE.REDUNDANT, TXE.ENC, TXE.RATE, TXE.CHANNELS, TXE.SPP, TXE.BASE_SLOT, TXE.LAUNCH_OFS, TXE.LEG_A_STOPPED,
      TXE.LEG_B_STOPPED] <;> omega

theorem legPort_outside (i l : Nat) : (TXE.LEG_PORT i l).outsideTime := by
  simp only [Fld.outsideTime, TXE.LEG_PORT]
  omega

/-- The fields of port p that say whether a frame may leave. -/
def txFlds (p : Nat) : List Fld := [PORT.LINK_UP p, PORT.TX_MAX_LEN p, PORT.TX_PAUSED p, PORT.PAUSE_MODE p, PORT.LINE_MODE p, PORT.SPEED p,
  PORT.LAUNCH_GUARD p, CLK.DPLL_FAMILY 0]

theorem txFlds_outside : ∀ p < 2, ∀ f ∈ txFlds p, f.lo < 32 ∧ (f.off < 0x80000 ∨ 0xA0000 ≤ f.off) := by decide

namespace State.SendsAlike

variable {s t : State}

theorem of_time (h : t = { s with time := t.time }) : SendsAlike s t := by
  rw [h]
  exact ⟨fun _ _ => rfl, rfl, rfl, rfl, fun _ => rfl⟩

/-- What waits in a port's PTP partition is not read. -/
theorem of_partition (s : State) {p : Nat} (hp : p < 4) (l : List PtpFrame) : SendsAlike s (s.setPort p { s.port p with ptp := l }) := by
  refine ⟨fun _ _ => rfl, rfl, rfl, rfl, fun q => ?_⟩
  by_cases hq : p = q
  · subst hq
    rw [State.port_setPort_self s hp]
  · rw [State.port_setPort_of_ne s hq]

theorem launch (h : SendsAlike s t) {i : Nat} {f : Fld} (hf : f ∈ launchFlds i) : t.get f = s.get f := h.get f (launchFlds_outside hf)

theorem tx (h : SendsAlike s t) {p : Nat} (hp : p < 2) {f : Fld} (hf : f ∈ txFlds p) : t.get f = s.get f := h.get f (txFlds_outside p hp f hf)

theorem entry (h : SendsAlike s t) (i : Nat) : t.entry 1 i = s.entry 1 i := by
  simp only [State.entry, one_ne_zero, if_false, State.on, h.launch (i := i) (f := TXE.ENABLE i) (by simp [launchFlds]),
    h.launch (i := i) (f := TXE.WIDE i) (by simp [launchFlds]), h.launch (i := i) (f := TXE.REDUNDANT i) (by simp [launchFlds]),
    h.launch (i := i) (f := TXE.ENC i) (by simp [launchFlds]), h.launch (i := i) (f := TXE.RATE i) (by simp [launchFlds]),
    h.launch (i := i) (f := TXE.CHANNELS i) (by simp [launchFlds]), h.launch (i := i) (f := TXE.SPP i) (by simp [launchFlds]),
    h.launch (i := i) (f := TXE.BASE_SLOT i) (by simp [launchFlds])]

theorem liveLegs (h : SendsAlike s t) (i : Nat) : t.liveLegs 1 i = s.liveLegs 1 i := by
  have hstop : ∀ l, t.get (stopFld 1 i l) = s.get (stopFld 1 i l) := by
    intro l
    refine h.launch (i := i) ?_
    unfold stopFld
    simp only [one_ne_zero, if_false]
    split <;> simp [launchFlds]
  simp only [State.liveLegs, State.legs, h.entry, State.on, hstop]

theorem launchNs (h : SendsAlike s t) {p : Nat} (hp : p < 2) (i m : Nat) : t.launchNs i m = s.launchNs i m := by
  simp only [State.launchNs, h.entry, State.base, h.tx hp (f := CLK.DPLL_FAMILY 0) (by simp [txFlds]),
    h.launch (i := i) (f := TXE.LAUNCH_OFS i) (by simp [launchFlds])]

theorem announced (h : SendsAlike s t) {p : Nat} (hp : p < 2) : t.announced p = s.announced p := by
  simp only [State.announced, h.stream, h.strm, h.launchNs hp, h.liveLegs, h.get _ (legPort_outside _ _), State.nowNs, h.ctr] <;> rfl

theorem psPerByte (h : SendsAlike s t) {p : Nat} (hp : p < 2) : t.psPerByte p = s.psPerByte p := by
  simp only [State.psPerByte, h.tx hp (f := PORT.LINE_MODE p) (by simp [txFlds]), h.tx hp (f := PORT.SPEED p) (by simp [txFlds])]

theorem guardOk (h : SendsAlike s t) {p : Nat} (hp : p < 2) (n : Nat) : t.guardOk p n = s.guardOk p n := by
  simp only [State.guardOk, h.announced hp, h.ctr, h.psPerByte hp, h.tx hp (f := PORT.LAUNCH_GUARD p) (by simp [txFlds])]

theorem pausedStream (h : SendsAlike s t) {p : Nat} (hp : p < 2) : t.pausedStream p = s.pausedStream p := by
  simp only [State.pausedStream, State.on, State.eff, h.held, h.tx hp (f := PORT.TX_PAUSED p) (by simp [txFlds]),
    h.tx hp (f := PORT.PAUSE_MODE p) (by simp [txFlds])]

theorem streamDue (h : SendsAlike s t) {p : Nat} (hp : p < 2) : t.streamDue p = s.streamDue p := by
  simp only [State.streamDue, h.stream, h.pausedStream hp, State.nowNs, h.ctr] <;> rfl

theorem txTooLong (h : SendsAlike s t) {p : Nat} (hp : p < 2) (b : List Byte) : t.txTooLong p b = s.txTooLong p b := by
  simp only [State.txTooLong, h.tx hp (f := PORT.TX_MAX_LEN p) (by simp [txFlds])]

theorem linkUp (h : SendsAlike s t) {p : Nat} (hp : p < 2) : t.on (PORT.LINK_UP p) = s.on (PORT.LINK_UP p) := by
  simp only [State.on, h.tx hp (f := PORT.LINK_UP p) (by simp [txFlds])]

end State.SendsAlike

end Sys2Proof.Machine

end

