-- ==== Sys2Proof/Proofs/PtpDepartures.lean ====
section

namespace Sys2Proof.Machine

/-! ## A message leaves (R58 to R60, R137, R148) -/

theorem State.sameButEvents_trans {s t u : State} (a : s.sameButEvents t) (b : t.sameButEvents u) : s.sameButEvents u := by
  unfold State.sameButEvents at a b ⊢
  rw [a] at b
  exact b

theorem State.sameButEvents_ite {s t u : State} {c : Prop} [Decidable c] (a : s.sameButEvents t) (b : s.sameButEvents u) :
    s.sameButEvents (if c then t else u) := by
  split
  · exact a
  · exact b

theorem State.portEvent_rest (s : State) (p bit code : Nat) (d : List Byte) : s.sameButEvents (s.portEvent p bit code d) := by
  unfold State.portEvent State.signalRise
  exact State.sameButEvents_ite rfl (s.signal_rest _ _ _ _ _ _ _)

theorem State.statBy_rest (s : State) (p n k : Nat) : s.sameButEvents (s.statBy p n k) := by
  unfold State.statBy
  extract_lets f top counted halved
  have hcounted : s.sameButEvents counted := rfl
  have hhalved : counted.sameButEvents halved := State.sameButEvents_ite rfl rfl
  exact State.sameButEvents_ite rfl (State.sameButEvents_trans (State.sameButEvents_trans hcounted hhalved) (halved.portEvent_rest _ _ _ _))

/-- The counters of a frame that leaves touch nothing but the port's block and what an event may. -/
theorem State.txCount_facts (s : State) {p : Nat} (hp : p < 2) (len dst : Nat) :
    s.sameButEvents (s.txCount p len dst) ∧ State.Side portKey s (s.txCount p len dst) := by
  have hcast : (if dst = bcastMac then Stat.TX_BCAST else if isGroup dst then Stat.TX_MCAST else Stat.TX_UCAST) < 64 := by
    split
    · decide
    · split <;> decide
  have h4 : p < 4 := by omega
  unfold State.txCount State.stat
  exact ⟨State.sameButEvents_trans (State.sameButEvents_trans (s.statBy_rest _ _ _) (State.statBy_rest _ _ _ _)) (State.statBy_rest _ _ _ _),
    ((s.statBy_side h4 (by decide) _).trans (State.statBy_side _ h4 (by decide) _)).trans (State.statBy_side _ h4 hcast _)⟩

/-- A message as it leaves: counted, its frame and FCS on the line with its stamp, and noted as the last of its kind. -/
def State.ptpGone (s : State) (o : PtpSent) (d : Int) : State :=
  let s := s.txCount o.port (o.bytes.length + 4) (beAt o.bytes 0 6)
  let s := s.setPort o.port { s.port o.port with sent := some (o.bytes ++ fcs o.bytes, d) }
  { s with time := { s.time with sent := s.time.sent.filter (fun y => !(y.port == o.port && y.kind == o.kind)) ++ [o] } }

/-- `t` is `s` but for registers, queues, pending messages, the time engine and the ports. -/
def State.Transmits (s t : State) : Prop :=
  t = { s with regs := t.regs, que := t.que, dma := { s.dma with msi := t.dma.msi }, time := t.time, ports := t.ports }

theorem State.Transmits.trans {s t u : State} (a : s.Transmits t) (b : t.Transmits u) : s.Transmits u := by
  unfold State.Transmits at a b ⊢
  rw [a] at b
  exact b

theorem State.Transmits.txOnly {s t : State} (h : s.Transmits t) : s.sameButEvents { t with time := s.time, ports := s.ports } := by
  unfold State.sameButEvents
  rw [h]

theorem State.Transmits.of_events {s t : State} (h : s.sameButEvents t) : s.Transmits t := by
  unfold State.Transmits
  rw [h]

/-- What the departure of `o` is to leave. -/
structure State.Gone (s t : State) (o : PtpSent) (d : Int) : Prop where
  rest : s.Transmits t
  last : t.time.sent.getLast? = some o
  port : t.port o.port = { s.port o.port with sent := some (o.bytes ++ fcs o.bytes, d) }
  others : ∀ k, k ≠ o.port → t.port k = s.port k

theorem State.ptpGone_gone (s : State) {o : PtpSent} (hp : o.port < 2) (d : Int) :
    State.Gone s (s.ptpGone o d) o d ∧ (∀ q, (s.ptpGone o d).ptp q = s.ptp q) ∧
      ∀ f : Fld, portKey f.key = false → (s.ptpGone o d).get f = s.get f := by
  obtain ⟨hrest, hside⟩ := s.txCount_facts hp (o.bytes.length + 4) (beAt o.bytes 0 6)
  have hports : ∀ q, (s.txCount o.port (o.bytes.length + 4) (beAt o.bytes 0 6)).port q = s.port q := by
    intro q
    rw [hrest]
    rfl
  have htime : (s.txCount o.port (o.bytes.length + 4) (beAt o.bytes 0 6)).time = s.time := by rw [hrest]
  refine ⟨⟨?_, ?_, ?_, fun k hk => ?_⟩, fun q => ?_, fun f hf => hside.get f hf⟩
  · have hsent : (s.txCount o.port (o.bytes.length + 4) (beAt o.bytes 0 6)).Transmits (s.ptpGone o d) := rfl
    exact (State.Transmits.of_events hrest).trans hsent
  · exact List.getLast?_concat
  · have hself : (s.ptpGone o d).port o.port = _ := State.port_setPort_self _ (by omega : o.port < 4) _
    rw [hself, hports]
  · have hne : (s.ptpGone o d).port k = _ := State.port_setPort_of_ne _ (Ne.symm hk) _
    rw [hne, hports]
  · have hptp : (s.ptpGone o d).ptp q = (s.txCount o.port (o.bytes.length + 4) (beAt o.bytes 0 6)).ptp q := rfl
    exact hptp.trans (State.ptp_congr (by rw [htime]) q)

namespace State.Gone

variable {s t u : State} {o : PtpSent} {d : Int}

/-- A change of an PTP port stays beside a departure. -/
theorem setPtp (h : Gone s t o d) (q : Nat) (x : PtpPort) : Gone s (t.setPtp q x) o d :=
  ⟨h.rest.trans rfl, h.last, h.port, h.others⟩

/-- So does a register. -/
theorem set (h : Gone s t o d) (f : Fld) (v : Nat) : Gone s (t.set f v) o d := ⟨h.rest.trans rfl, h.last, h.port, h.others⟩

/-- What comes before it leaves the ports. -/
theorem before (hu : s.Transmits u) (hports : u.ports = s.ports) (h : Gone u t o d) : Gone s t o d := by
  have hport : ∀ q, u.port q = s.port q := fun q => by rw [State.port, State.port, hports]
  exact ⟨hu.trans h.rest, h.last, by rw [h.port, hport], fun k hk => (h.others k hk).trans (hport k)⟩

end State.Gone

/-- A message that is neither a Sync nor a Delay_Req leaves nothing else behind. -/
theorem State.ptpDepart_plain (s : State) {o : PtpSent} (h0 : o.kind ≠ 0) (h2 : o.kind ≠ 2) (d : Int) : s.ptpDepart o d = s.ptpGone o d := by
  have hk : (o.kind == 0) = false := by simp [h0]
  simp only [State.ptpDepart, State.ptpGone, hk, Bool.false_and, Bool.false_eq_true, if_false, h0, false_and, h2]

/-- A one-step Sync takes its departure time. -/
theorem State.ptpDepart_oneStep (s : State) {o : PtpSent} (h0 : o.kind = 0) (h1 : s.on (TIME.PORT_ONE_STEP o.port) = true) (d : Int) :
    let stamped := { o with time := d / 65536, corr := o.corr + d % 65536 }
    s.ptpDepart o d = s.ptpGone { stamped with bytes := s.ptpFrame stamped } d := by
  simp only [State.ptpDepart, State.ptpGone, h0, h1, beq_self_eq_true, Bool.and_self, if_true, Bool.not_true, Bool.false_eq_true, and_false, if_false,
    OfNat.zero_ne_ofNat]

/-- A two-step one leaves it for the Follow_Up. -/
theorem State.ptpDepart_twoStep (s : State) {o : PtpSent} (h0 : o.kind = 0) (h1 : s.on (TIME.PORT_ONE_STEP o.port) = false) (d : Int) :
    s.ptpDepart o d = (s.ptpGone o d).setPtp o.port { (s.ptpGone o d).ptp o.port with followUp := some (o.seq, d) } := by
  simp only [State.ptpDepart, State.ptpGone, h0, h1, Bool.and_false, Bool.false_eq_true, if_false, Bool.not_false, and_self, if_true]

/-- A Delay_Req is stamped as t3 where 15 stamps at most are held. -/
theorem State.ptpDepart_delayReq (s : State) {o : PtpSent} {d : Int} (h2 : o.kind = 2) (hroom : ((s.ptpGone o d).ptp o.port).stamps < 16) :
    s.ptpDepart o d = ((s.ptpGone o d).count (TIME.PORT_DREQ_TX o.port)).setPtp o.port
      { (s.ptpGone o d).ptp o.port with dreqs := ((s.ptpGone o d).ptp o.port).dreqs ++ [(o.seq, d)] } := by
  have hk : (o.kind == 0) = false := by simp [h2]
  have hnot0 : o.kind ≠ 0 := by omega
  have hgo : ¬ 16 ≤ ((s.ptpGone o d).ptp o.port).stamps := Nat.not_le.2 hroom
  have hrun : s.ptpDepart o d = if 16 ≤ ((s.ptpGone o d).ptp o.port).stamps then ((s.ptpGone o d).count (TIME.PORT_DREQ_TX o.port)).stampOverflow o.port
      else ((s.ptpGone o d).count (TIME.PORT_DREQ_TX o.port)).setPtp o.port
        { (s.ptpGone o d).ptp o.port with dreqs := ((s.ptpGone o d).ptp o.port).dreqs ++ [(o.seq, d)] } := by
    simp only [State.ptpDepart, hk, Bool.false_and, Bool.false_eq_true, if_false]
    exact (if_neg (fun h => hnot0 h.1)).trans (if_pos h2)
  rw [hrun, if_neg hgo]

/-! ## The PTP partition (R137, R141) -/

theorem State.setPort_port (s : State) (p : Nat) : s.setPort p (s.port p) = s := by
  have hports : s.ports.setIfInBounds p (s.port p) = s.ports := by
    ext i hi
    by_cases h : p = i
    · subst h
      simp [State.port, unitAt, hi]
    · simp [h]
  unfold State.setPort
  rw [hports]

theorem State.setPort_setPort (s : State) (p : Nat) (x y : PortState) : (s.setPort p x).setPort p y = s.setPort p y := by
  have hports : (s.ports.setIfInBounds p x).setIfInBounds p y = s.ports.setIfInBounds p y := by
    ext i hi
    by_cases h : p = i
    · subst h
      simp
    · simp [h]
  unfold State.setPort
  simp only [hports]

/-- Message `o` finds port p UP and its partition empty, and may enter it. -/
structure State.PtpEnters (s : State) (p : Nat) (o : PtpSent) : Prop where
  up : s.on (PORT.LINK_UP p) = true
  empty : (s.port p).ptp = []
  short : s.txTooLong p o.bytes = false
  room : o.bytes.length + 4 ≤ ptpRoom

/-- Neither a frame nor a pause nor a launch holds it there. -/
structure State.PtpFree (s : State) (p : Nat) (o : PtpSent) : Prop extends State.PtpEnters s p o where
  quiet : (s.port p).pauses = []
  due : s.streamDue p = false
  paused : s.pausedStream p = false
  guard : s.guardOk p (o.bytes.length + 4) = true

/-- Message `o` alone in the partition of port p. -/
def State.enqueued (s : State) (p : Nat) (o : PtpSent) : State := s.setPort p { s.port p with ptp := [⟨o, false⟩] }

theorem State.sendPtp_enters {s : State} {p : Nat} {o : PtpSent} (h : s.PtpEnters p o) (raw : Int) : s.sendPtp p o raw =
    if !(s.port p).pauses.isEmpty || (s.enqueued p o).streamDue p || (s.enqueued p o).pausedStream p then s.enqueued p o
    else ((s.enqueued p o).startPtp p raw).getD ((s.enqueued p o).deferPtp p) := by
  have hroom : ¬ ptpRoom < 0 + o.bytes.length + 4 := by have := h.room; omega
  simp only [State.sendPtp, h.up, h.short, h.empty, List.map_nil, List.sum_nil, if_neg hroom, List.nil_append, List.isEmpty_nil, Bool.not_true,
    Bool.false_eq_true, if_false, Bool.false_or]
  rfl

theorem State.port_enqueued (s : State) {p : Nat} (hp : p < 2) (o : PtpSent) : (s.enqueued p o).port p = { s.port p with ptp := [⟨o, false⟩] } :=
  State.port_setPort_self s (by omega) _

/-- The partition emptied, the port is as it was. -/
theorem State.enqueued_taken {s : State} {p : Nat} {o : PtpSent} (hp : p < 2) (h : (s.port p).ptp = []) :
    (s.enqueued p o).setPort p { (s.enqueued p o).port p with ptp := [] } = s := by
  have hport : { (s.enqueued p o).port p with ptp := [] } = s.port p := by
    rw [State.port_enqueued s hp, ← h]
  rw [hport, State.enqueued, State.setPort_setPort, State.setPort_port]

/-- A message that nothing holds back leaves at once. -/
theorem State.sendPtp_departs {s : State} {p : Nat} {o : PtpSent} (hp : p < 2) (h : s.PtpFree p o) (raw : Int) :
    s.sendPtp p o raw = s.ptpDepart o (raw + s.geti (TIME.PORT_TX_LAT p)) := by
  have halike : State.SendsAlike s (s.enqueued p o) := .of_partition s (by omega) _
  have hpaused : (s.enqueued p o).pausedStream p = false := (halike.pausedStream hp).trans h.paused
  have hguard : (s.enqueued p o).guardOk p (o.bytes.length + 4) = true := (halike.guardOk hp _).trans h.guard
  have hstart : (s.enqueued p o).startPtp p raw = some (s.ptpDepart o (raw + s.geti (TIME.PORT_TX_LAT p))) := by
    have hptp : ((s.enqueued p o).port p).ptp = [⟨o, false⟩] := by rw [State.port_enqueued s hp]
    simp only [State.startPtp, hptp, hpaused, hguard, Bool.not_false, Bool.and_self, if_true, State.enqueued_taken hp h.empty, State.txLat, if_pos hp]
    rfl
  rw [State.sendPtp_enters h.toPtpEnters, hstart, h.quiet, halike.streamDue hp, h.due, hpaused]
  rfl

/-- While PTP is paused it waits. -/
theorem State.sendPtp_waits {s : State} {p : Nat} {o : PtpSent} (hp : p < 2) (h : s.PtpEnters p o) (hpaused : s.pausedStream p = true) (raw : Int) :
    s.sendPtp p o raw = s.enqueued p o := by
  have halike : State.SendsAlike s (s.enqueued p o) := .of_partition s (by omega) _
  rw [State.sendPtp_enters h, halike.pausedStream hp, hpaused, Bool.or_true, if_pos rfl]

/-- What sending reads is alike before and after a step of the time engine. -/
theorem State.PtpFree.of_alike {s t : State} {p : Nat} {o : PtpSent} (hp : p < 2) (h : State.SendsAlike s t) (hports : t.ports = s.ports)
    (hf : s.PtpFree p o) : t.PtpFree p o := by
  have hport : t.port p = s.port p := by rw [State.port, State.port, hports]
  exact ⟨⟨(h.linkUp hp).trans hf.up, by rw [hport, hf.empty], (h.txTooLong hp _).trans hf.short, hf.room⟩, by rw [hport, hf.quiet],
    (h.streamDue hp).trans hf.due, (h.pausedStream hp).trans hf.paused, (h.guardOk hp _).trans hf.guard⟩

end Sys2Proof.Machine

end

