-- ==== Sys2Proof/Proofs/PtpSent.lean ====
section

namespace Sys2Proof.Machine

/-! ## Frames and messages sent (R57, R60 to R62) -/

/-- The fields that a message other than an Announce carries. -/
def frameFlds (p : Nat) : List Fld := [TIME.PORT_DOMAIN p, TIME.PORT_LOG_DREQ p, TIME.PORT_LOG_SYNC p, TIME.PORT_ONE_STEP p, TIME.PORT_IPV6 p,
  PORT.STATION_MAC_HI p, PORT.STATION_MAC_LO p]

/-- `t` differs from `s` in nothing that such a message of port p carries. -/
structure State.FramesAlike (p : Nat) (s t : State) : Prop where
  get : ∀ f ∈ frameFlds p, t.get f = s.get f
  dscp : (t.ptp p).dscp = (s.ptp p).dscp
  logAnnounce : (t.ptp p).logAnnounce = (s.ptp p).logAnnounce
  life : t.life = s.life
  svc : t.svc = s.svc

namespace State.FramesAlike

variable {s t : State} {m : PtpSent}

theorem message (h : FramesAlike m.port s t) (h4 : m.kind ≠ 4) : t.ptpMessage m = s.ptpMessage m := by
  have hget := h.get
  simp only [frameFlds, List.forall_mem_cons, List.not_mem_nil, false_implies, implies_true, and_true] at hget
  obtain ⟨hdomain, hdreq, hsync, hone, -⟩ := hget
  simp only [State.ptpMessage, State.on, if_neg h4, hdomain, hdreq, hsync, hone, h.life, h.logAnnounce]

theorem frame (h : FramesAlike m.port s t) (h4 : m.kind ≠ 4) : t.ptpFrame m = s.ptpFrame m := by
  have hget := h.get
  simp only [frameFlds, List.forall_mem_cons, List.not_mem_nil, false_implies, implies_true, and_true] at hget
  obtain ⟨-, -, -, hone, hv6, hhi, hlo⟩ := hget
  have hplain : t.ptpMessage { m with time := 0, corr := 0 } = s.ptpMessage { m with time := 0, corr := 0 } :=
    message (m := { m with time := 0, corr := 0 }) h h4
  simp only [State.ptpFrame, State.on, State.psvc, State.ip4, State.linkLocal, State.stationMac, h.message h4, hplain,
    hone, hv6, hhi, hlo, h.dscp, h.svc] <;> rfl

theorem make {p : Nat} (h : FramesAlike p s t) {kind : Nat} (h4 : kind ≠ 4) (seq : Nat) (time corr : Int) (req : Nat) :
    t.ptpMake p kind seq time corr req = s.ptpMake p kind seq time corr req := by
  have hframe := frame (m := ⟨p, kind, seq, time, corr, 0, req, []⟩) h h4
  simp only [State.ptpMake, if_neg h4, hframe]

end State.FramesAlike

/-- A change of the PTP port that keeps its DSCP and its Announce interval. -/
theorem State.FramesAlike.setPtp (s : State) {p : Nat} (hp : p < 2) {x : PtpPort} (hd : x.dscp = (s.ptp p).dscp) (hl : x.logAnnounce = (s.ptp p).logAnnounce) :
    State.FramesAlike p s (s.setPtp p x) :=
  ⟨fun _ _ => rfl, by rw [State.ptp_setPtp_self s hp, hd], by rw [State.ptp_setPtp_self s hp, hl], rfl, rfl⟩

theorem dreqKeys : ∀ p < 2, portKey (TIME.PORT_DREQ_TX p).key = false ∧ portKey (TIME.PORT_DREQ_RX p).key = false ∧
    ∀ f ∈ TIME.PORT_TX_LAT p :: frameFlds p, (TIME.PORT_DREQ_RX p).key ≠ f.key := by
  decide +kernel

/-- What a message leaves that is neither a Sync nor a Delay_Req, sent with nothing in its way. -/
theorem State.sendPtp_plain {s : State} {p : Nat} {o : PtpSent} (hp : p < 2) (ho : o.port = p) (h0 : o.kind ≠ 0) (h2 : o.kind ≠ 2) (h : s.PtpFree p o)
    (raw : Int) :
    State.Gone s (s.sendPtp p o raw) o (raw + s.geti (TIME.PORT_TX_LAT p)) ∧ (∀ q, (s.sendPtp p o raw).ptp q = s.ptp q) ∧
      ∀ f : Fld, portKey f.key = false → (s.sendPtp p o raw).get f = s.get f := by
  rw [State.sendPtp_departs hp h, State.ptpDepart_plain s h0 h2]
  exact s.ptpGone_gone (ho ▸ hp) _

/-- A message leaves likewise where the PTP port has counted it. -/
theorem State.sendPtp_setPtp {s : State} {p : Nat} {o : PtpSent} (hp : p < 2) (x : PtpPort) (h : s.PtpFree p o) (raw : Int) :
    (s.setPtp p x).sendPtp p o raw = (s.setPtp p x).ptpDepart o (raw + s.geti (TIME.PORT_TX_LAT p)) :=
  State.sendPtp_departs (s := s.setPtp p x) hp (h.of_alike hp (.of_time rfl) rfl) raw

/-- A Delay_Req is kept with t3, and leaves. -/
theorem delayReqTx_departs {s : State} {p : Nat} (raw : Int) (hp : p < 2) (hs : s.slaving p = true) (hroom : (s.ptp p).stamps < 16)
    (hf : s.PtpFree p (s.ptpMake p 2 (s.ptp p).seqDreq 0 0 0)) :
    ∃ t, Machine.exec (.delayReqTx p raw) s = .next t ∧ t.get (TIME.PORT_DREQ_TX p) = (s.get (TIME.PORT_DREQ_TX p) + 1) % 2 ^ 32 ∧
      (t.ptp p).dreqs = (s.ptp p).dreqs ++ [((s.ptp p).seqDreq, raw + s.geti (TIME.PORT_TX_LAT p))] ∧
      State.Gone s t (s.ptpMake p 2 (s.ptp p).seqDreq 0 0 0) (raw + s.geti (TIME.PORT_TX_LAT p)) := by
  let o := s.ptpMake p 2 (s.ptp p).seqDreq 0 0 0
  let d := raw + s.geti (TIME.PORT_TX_LAT p)
  let u := s.setPtp p { s.ptp p with seqDreq := ((s.ptp p).seqDreq + 1) % 65536 }
  have hu : u.ptp p = { s.ptp p with seqDreq := ((s.ptp p).seqDreq + 1) % 65536 } := State.ptp_setPtp_self s hp _
  obtain ⟨hgone, hptp, hget⟩ := u.ptpGone_gone (o := o) hp d
  have hstamps : ((u.ptpGone o d).ptp o.port).stamps < 16 := by
    rw [hptp, show u.ptp o.port = u.ptp p from rfl, hu]
    exact hroom
  have hdep : u.sendPtp p o raw = ((u.ptpGone o d).count (TIME.PORT_DREQ_TX p)).setPtp p
      { (u.ptpGone o d).ptp p with dreqs := ((u.ptpGone o d).ptp p).dreqs ++ [((s.ptp p).seqDreq, d)] } :=
    (State.sendPtp_setPtp (o := o) hp _ hf raw).trans (u.ptpDepart_delayReq (o := o) rfl hstamps)
  have hx : Machine.exec (.delayReqTx p raw) s = .next (u.sendPtp p o raw) := if_pos hs
  refine ⟨_, hx.trans (congrArg Host.Outcome.next hdep), ?_, ?_, ?_⟩
  · have hcount : (((u.ptpGone o d).count (TIME.PORT_DREQ_TX p)).get (TIME.PORT_DREQ_TX p)) = (s.get (TIME.PORT_DREQ_TX p) + 1) % 2 ^ 32 := by
      have hsame : u.get (TIME.PORT_DREQ_TX p) = s.get (TIME.PORT_DREQ_TX p) := rfl
      rw [State.get_count_self, hget _ (dreqKeys p hp).1, hsame]
      rfl
    exact hcount
  · refine (congrArg PtpPort.dreqs (State.ptp_setPtp_self _ hp _)).trans ?_
    rw [hptp, hu]
  · exact State.Gone.before (u := u) rfl rfl ((hgone.set _ _).setPtp p _)

/-- A MASTER port answers a Delay_Req with its receive stamp. -/
theorem delayReqRx_answers {s : State} {p seq src : Nat} {corr raw : Int} (hp : p < 2) (hm : s.get (TIME.PORT_STATE p) = 6)
    (he : s.on (TIME.PORT_ENABLE p) = true) (hsec : (s.ptp p).dreqSec ≠ s.ctr / ctrPerSec) {t4 : Int} (ht4 : t4 = raw - s.geti (TIME.PORT_RX_LAT p))
    (hf : s.PtpFree p (s.ptpMake p 3 seq (t4 / 65536) (corr - t4 % 65536) src)) :
    ∃ t, Machine.exec (.delayReqRx p (s.get (TIME.PORT_DOMAIN p)) seq src corr raw) s = .next t ∧
      t.get (TIME.PORT_DREQ_RX p) = (s.get (TIME.PORT_DREQ_RX p) + 1) % 2 ^ 32 ∧
      State.Gone s t (s.ptpMake p 3 seq (t4 / 65536) (corr - t4 % 65536) src) (s.nowStamp + s.geti (TIME.PORT_TX_LAT p)) := by
  obtain ⟨-, hkey, hkeys⟩ := dreqKeys p hp
  let o := s.ptpMake p 3 seq (t4 / 65536) (corr - t4 % 65536) src
  let counted := s.count (TIME.PORT_DREQ_RX p)
  let u := counted.setPtp p { s.ptp p with dreqSec := s.ctr / ctrPerSec, dreqCount := 0 + 1 }
  have hget : ∀ f ∈ TIME.PORT_TX_LAT p :: frameFlds p, u.get f = s.get f := fun f hf => State.get_set_of_ne _ (hkeys f hf) _
  have hself : u.ptp p = { s.ptp p with dreqSec := s.ctr / ctrPerSec, dreqCount := 0 + 1 } := State.ptp_setPtp_self counted hp _
  have hframes : State.FramesAlike p s u :=
    ⟨fun f hf => hget f (List.mem_cons_of_mem _ hf), by rw [hself], by rw [hself], rfl, rfl⟩
  have hmake : u.ptpMake p 3 seq (t4 / 65536) (corr - t4 % 65536) src = o := hframes.make (by decide) _ _ _ _
  have halike : State.SendsAlike s u := by
    refine ⟨fun f hf => State.get_set_of_ne _ ?_ _, rfl, rfl, rfl, fun _ => rfl⟩
    obtain ⟨hlo, hoff⟩ := hf
    simp only [Fld.key, TIME.PORT_DREQ_RX]
    omega
  have hlat : u.geti (TIME.PORT_TX_LAT p) = s.geti (TIME.PORT_TX_LAT p) := State.geti_congr (hget _ (by simp))
  obtain ⟨hgone, -, hread⟩ := State.sendPtp_plain (s := u) (o := o) hp rfl (show (3 : Nat) ≠ 0 by decide) (show (3 : Nat) ≠ 2 by decide)
    (hf.of_alike hp halike rfl) u.nowStamp
  rw [hlat] at hgone
  have hx : Machine.exec (.delayReqRx p (s.get (TIME.PORT_DOMAIN p)) seq src corr raw) s = .next (u.sendPtp p o u.nowStamp) := by
    have he' : Machine.exec (.delayReqRx p (s.get (TIME.PORT_DOMAIN p)) seq src corr raw) s =
      execDelayReqRx p (s.get (TIME.PORT_DOMAIN p)) seq src corr raw s := rfl
    rw [he', execDelayReqRx, if_pos ⟨hp, he, hm, rfl⟩]
    dsimp only
    rw [if_neg hsec, if_neg (by decide), ← hmake, ht4]
  refine ⟨_, hx, ?_, State.Gone.before (u := u) rfl rfl hgone⟩
  rw [hread _ hkey]
  exact State.get_count_self s _

/-- What a plain message leaves where the PTP port has counted it. -/
theorem State.setPtp_plain {s : State} {p : Nat} {o : PtpSent} (hp : p < 2) (x : PtpPort) (ho : o.port = p) (h0 : o.kind ≠ 0) (h2 : o.kind ≠ 2)
    (h : s.PtpFree p o) (raw : Int) :
    State.Gone s ((s.setPtp p x).sendPtp p o raw) o (raw + s.geti (TIME.PORT_TX_LAT p)) ∧ ((s.setPtp p x).sendPtp p o raw).ptp p = x := by
  obtain ⟨hgone, hptp, -⟩ := State.sendPtp_plain (s := s.setPtp p x) hp ho h0 h2 (h.of_alike hp (.of_time rfl) rfl) raw
  exact ⟨State.Gone.before (u := s.setPtp p x) rfl rfl hgone, (hptp p).trans (State.ptp_setPtp_self s hp x)⟩

theorem announceTx_departs {s : State} {p : Nat} (hp : p < 2) (hm : s.get (TIME.PORT_STATE p) = 6)
    (hf : s.PtpFree p (s.ptpMake p 4 (s.ptp p).seqAnnounce 0 0 0)) :
    ∃ t, Machine.exec (.announceTx p) s = .next t ∧
      State.Gone s t (s.ptpMake p 4 (s.ptp p).seqAnnounce 0 0 0) (s.nowStamp + s.geti (TIME.PORT_TX_LAT p)) ∧
      (t.ptp p).seqAnnounce = ((s.ptp p).seqAnnounce + 1) % 65536 := by
  have hx : Machine.exec (.announceTx p) s = execAnnounceTx p s := rfl
  obtain ⟨hgone, hptp⟩ := State.setPtp_plain hp { s.ptp p with seqAnnounce := ((s.ptp p).seqAnnounce + 1) % 65536 } rfl
    (show (4 : Nat) ≠ 0 by decide) (show (4 : Nat) ≠ 2 by decide) hf s.nowStamp
  exact ⟨_, hx.trans (if_pos ⟨hp, hm⟩), hgone, congrArg PtpPort.seqAnnounce hptp⟩

/-- While PTP is paused an Announce waits in the partition. -/
theorem announceTx_waits {s : State} {p : Nat} (hp : p < 2) (hm : s.get (TIME.PORT_STATE p) = 6)
    (h : s.PtpEnters p (s.ptpMake p 4 (s.ptp p).seqAnnounce 0 0 0)) (hpaused : s.pausedStream p = true) :
    ∃ t, Machine.exec (.announceTx p) s = .next t ∧ t = { s with time := t.time, ports := t.ports } ∧ t.time.sent = s.time.sent ∧
      t.port p = { s.port p with ptp := [⟨s.ptpMake p 4 (s.ptp p).seqAnnounce 0 0 0, false⟩] } := by
  let u := s.setPtp p { s.ptp p with seqAnnounce := ((s.ptp p).seqAnnounce + 1) % 65536 }
  have hx : Machine.exec (.announceTx p) s = execAnnounceTx p s := rfl
  have hu : u.PtpEnters p (s.ptpMake p 4 (s.ptp p).seqAnnounce 0 0 0) := ⟨h.up, h.empty, h.short, h.room⟩
  have hwait := State.sendPtp_waits hp hu hpaused s.nowStamp
  exact ⟨_, (hx.trans (if_pos ⟨hp, hm⟩)).trans (congrArg Host.Outcome.next hwait), rfl, rfl, State.port_enqueued u hp _⟩

/-- A Sync with the departure stamp `d` written into it. -/
def State.stampedSync (s : State) (o : PtpSent) (d : Int) : PtpSent :=
  let stamped := { o with time := d / 65536, corr := d % 65536 }
  { stamped with bytes := s.ptpFrame stamped }

/-- A one-step Sync takes its departure time. -/
theorem syncTx_stamps {s : State} {p : Nat} (raw : Int) (hp : p < 2) (hm : s.get (TIME.PORT_STATE p) = 6) (h1 : s.on (TIME.PORT_ONE_STEP p) = true)
    (hf : s.PtpFree p (s.ptpMake p 0 (s.ptp p).seqSync 0 0 0)) :
    ∃ t, Machine.exec (.syncTx p raw) s = .next t ∧
      State.Gone s t (s.stampedSync (s.ptpMake p 0 (s.ptp p).seqSync 0 0 0) (raw + s.geti (TIME.PORT_TX_LAT p)))
        (raw + s.geti (TIME.PORT_TX_LAT p)) ∧
      (t.ptp p).followUp = (s.ptp p).followUp := by
  let o := s.ptpMake p 0 (s.ptp p).seqSync 0 0 0
  let d := raw + s.geti (TIME.PORT_TX_LAT p)
  let x : PtpPort := { s.ptp p with seqSync := ((s.ptp p).seqSync + 1) % 65536 }
  let u := s.setPtp p x
  have hx : Machine.exec (.syncTx p raw) s = execSyncTx p raw s := rfl
  have hframe : u.ptpFrame { o with time := d / 65536, corr := d % 65536 } = s.ptpFrame { o with time := d / 65536, corr := d % 65536 } :=
    State.FramesAlike.frame (State.FramesAlike.setPtp s hp rfl rfl) (show (0 : Nat) ≠ 4 by decide)
  have hdep : u.ptpDepart o d = u.ptpGone (s.stampedSync o d) d := by
    have h := u.ptpDepart_oneStep (o := o) rfl h1 d
    have hcorr : o.corr + d % 65536 = d % 65536 := Int.zero_add _
    rw [h, hcorr, hframe]
    rfl
  obtain ⟨hgone, hptp, -⟩ := u.ptpGone_gone (o := s.stampedSync o d) hp d
  refine ⟨_, (hx.trans (if_pos ⟨hp, hm⟩)).trans (congrArg Host.Outcome.next ((State.sendPtp_setPtp hp x hf raw).trans hdep)),
    State.Gone.before (u := u) rfl rfl hgone, ?_⟩
  rw [hptp, State.ptp_setPtp_self s hp]

/-- A two-step Sync leaves its departure time for the Follow_Up. -/
theorem syncTx_follows {s : State} {p : Nat} (raw : Int) (hp : p < 2) (hm : s.get (TIME.PORT_STATE p) = 6) (h1 : s.on (TIME.PORT_ONE_STEP p) = false)
    (hf : s.PtpFree p (s.ptpMake p 0 (s.ptp p).seqSync 0 0 0)) :
    ∃ t, Machine.exec (.syncTx p raw) s = .next t ∧
      State.Gone s t (s.ptpMake p 0 (s.ptp p).seqSync 0 0 0) (raw + s.geti (TIME.PORT_TX_LAT p)) ∧
      (t.ptp p).followUp = some ((s.ptp p).seqSync, raw + s.geti (TIME.PORT_TX_LAT p)) := by
  let o := s.ptpMake p 0 (s.ptp p).seqSync 0 0 0
  let d := raw + s.geti (TIME.PORT_TX_LAT p)
  let x : PtpPort := { s.ptp p with seqSync := ((s.ptp p).seqSync + 1) % 65536 }
  let u := s.setPtp p x
  have hx : Machine.exec (.syncTx p raw) s = execSyncTx p raw s := rfl
  have hdep := u.ptpDepart_twoStep (o := o) rfl h1 d
  obtain ⟨hgone, -, -⟩ := u.ptpGone_gone (o := o) hp d
  exact ⟨_, (hx.trans (if_pos ⟨hp, hm⟩)).trans (congrArg Host.Outcome.next ((State.sendPtp_setPtp hp x hf raw).trans hdep)),
    State.Gone.before (u := u) rfl rfl (hgone.setPtp _ _), congrArg PtpPort.followUp (State.ptp_setPtp_self _ hp _)⟩

/-- The Follow_Up carries it. -/
theorem followUpTx_departs {s : State} {p seq : Nat} {d : Int} (hp : p < 2) (hd : (s.ptp p).followUp = some (seq, d))
    (hf : s.PtpFree p (s.ptpMake p 1 seq (d / 65536) (d % 65536) 0)) :
    ∃ t, Machine.exec (.followUpTx p) s = .next t ∧
      State.Gone s t (s.ptpMake p 1 seq (d / 65536) (d % 65536) 0) (s.nowStamp + s.geti (TIME.PORT_TX_LAT p)) ∧ (t.ptp p).followUp = none := by
  have hx : Machine.exec (.followUpTx p) s = execFollowUpTx p s := rfl
  obtain ⟨hgone, hptp⟩ := State.setPtp_plain hp { s.ptp p with followUp := none } rfl (show (1 : Nat) ≠ 0 by decide) (show (1 : Nat) ≠ 2 by decide) hf
    s.nowStamp
  refine ⟨_, ?_, hgone, congrArg PtpPort.followUp hptp⟩
  simp only [hx, execFollowUpTx, if_pos hp, hd]

end Sys2Proof.Machine

end

