-- ==== Sys2Proof/Proofs/PtpMessages.lean ====
section

namespace Sys2Proof.Machine

/-- What the departure of `o` from port p leaves, as the obligation says it. -/
theorem State.Gone.leaves {s t : State} {o : PtpSent} {d : Int} {p : Nat} (h : State.Gone s t o d) (ho : o.port = p) :
    t.time.sent.getLast? = some o ∧ t.port p = { s.port p with sent := some (o.bytes ++ fcs o.bytes, d) } ∧
      ∀ k, k ≤ 3 → k ≠ p → t.port k = s.port k := by
  subst ho
  exact ⟨h.last, h.port, fun k _ hk => h.others k hk⟩

/-- Settles O4: a message received is an exchange or waits for one, and a message sent with nothing in its way is a departure from the port. -/
theorem ptpMessagesAndExchanges : Obligations.PtpMessagesAndExchanges := by
  unfold Obligations.PtpMessagesAndExchanges
  intro s p seq src m raw corr t3 dp y hp timeOnly mine t2 departs th master now txOnly free goes left sync stamped
  have hfree : ∀ {o : PtpSent}, free → goes o → s.PtpFree p o := by
    rintro o ⟨hup, hempty, hquiet, hdue, hpaused⟩ ⟨hshort, hroom, hguard⟩
    exact ⟨⟨hup, hempty, hshort, hroom⟩, hquiet, hdue, hpaused, hguard⟩
  refine ⟨?syncWaits, ?syncUsed, ?followUpUsed, ?followUpDropped, ?timeout, ?delayReq, ?delayResp, delayPairExpiry_clears s hp, ?answer, ?announce,
    ?paused, ?oneStep, ?twoStep, ?followUp⟩
  case syncWaits =>
    intro hm h2 hroom
    exact syncRx_waits raw hp hm h2 hroom
  case syncUsed =>
    intro hm h2 hroom hpair hpc hrange
    obtain ⟨t, hexec, hx⟩ := syncRx_exchanges raw hp hm h2 hroom hpair hpc
    refine ⟨t, hexec, hx.ofs hrange, hx.lastOfs, hx.used.trans ?_⟩
    rw [show (s.count (TIME.PORT_SYNC_RX p)).get (TIME.PORT_EXCH_USED p) = s.get (TIME.PORT_EXCH_USED p) from
      State.get_set_of_ne _ (by simp only [Fld.key, TIME.PORT_SYNC_RX, TIME.PORT_EXCH_USED]; omega) _]
  case followUpUsed =>
    intro hm hy hpair hpc hrange
    obtain ⟨t, hexec, hx⟩ := followUpRx_exchanges hp hm hy hpair hpc
    refine ⟨t, hexec, hx.ofs hrange, ?_⟩
    rw [hx.kept _ (by simp [exchangeKept])]
    exact State.get_count_self s _
  case followUpDropped =>
    intro hm hy hpair
    exact followUpRx_discards hp hm hy hpair
  case timeout =>
    intro hy
    exact followUpTimeout_discards hp hy
  case delayReq =>
    intro hs hroom hf hg
    obtain ⟨t, hexec, hcount, hdreqs, hgone⟩ := delayReqTx_departs raw hp hs hroom (hfree hf hg)
    exact ⟨t, hexec, hgone.rest.txOnly, hcount, hdreqs, hgone.leaves rfl⟩
  case delayResp =>
    intro hm hd
    exact delayRespRx_pairs hp hm hd
  case answer =>
    intro hm he hsec hf hg
    obtain ⟨t, hexec, hcount, hgone⟩ := delayReqRx_answers hp hm he hsec rfl (hfree hf hg)
    exact ⟨t, hexec, hgone.rest.txOnly, hcount, hgone.leaves rfl⟩
  case announce =>
    intro hm hf hg
    obtain ⟨t, hexec, hgone, hseq⟩ := announceTx_departs hp hm (hfree hf hg)
    exact ⟨t, hexec, hgone.rest.txOnly, hgone.leaves rfl, hseq⟩
  case paused =>
    intro hm hup hempty hpaused hshort hroom
    exact announceTx_waits hp hm ⟨hup, hempty, hshort, hroom⟩ hpaused
  case oneStep =>
    intro hm h1 hf hg
    obtain ⟨t, hexec, hgone, hfollow⟩ := syncTx_stamps raw hp hm h1 (hfree hf hg)
    exact ⟨t, hexec, hgone.rest.txOnly, hgone.leaves rfl, hfollow⟩
  case twoStep =>
    intro hm h1 hf hg
    obtain ⟨t, hexec, hgone, hfollow⟩ := syncTx_follows raw hp hm h1 (hfree hf hg)
    exact ⟨t, hexec, hgone.rest.txOnly, hgone.leaves rfl, hfollow⟩
  case followUp =>
    intro hd hf hg
    obtain ⟨t, hexec, hgone, hfollow⟩ := followUpTx_departs hp hd (hfree hf hg)
    exact ⟨t, hexec, hgone.rest.txOnly, hgone.leaves rfl, hfollow⟩

end Sys2Proof.Machine

end

