-- ==== Sys2Proof/Proofs/HearthSteps.lean ====
section

namespace Sys2Proof.Machine

/-! ## Steps of Hearth -/

/-- From `s` to `t` a field reads otherwise only where `P` accepts its key, flags of CLK.INT that are set stay set, and INCR stays where `P` does not
accept its register. -/
structure State.Hearth (P : Nat → Bool) (s t : State) : Prop where
  get : ∀ f : Fld, P f.key = false → t.get f = s.get f
  flag : ∀ i, i < 10 → s.bit CLK.INT i = true → t.bit CLK.INT i = true
  incr : P TIME.INCR_LO.key = false → t.time.incr = s.time.incr

namespace State.Hearth

variable {P Q : Nat → Bool} {s t u : State}

theorem trans (a : Hearth P s t) (b : Hearth P t u) : Hearth P s u :=
  ⟨fun f h => (b.get f h).trans (a.get f h), fun i hi h => b.flag i hi (a.flag i hi h), fun h => (b.incr h).trans (a.incr h)⟩

theorem mono (h : ∀ k, P k = true → Q k = true) (a : Hearth P s t) : Hearth Q s t := by
  have hf : ∀ k, Q k = false → P k = false := fun k hq => Bool.eq_false_of_not_eq_true (fun hp => absurd (h k hp) (by simp [hq]))
  exact ⟨fun f hq => a.get f (hf _ hq), a.flag, fun hq => a.incr (hf _ hq)⟩

/-- A step that leaves the registers and INCR. -/
theorem of_eq (P : Nat → Bool) (hr : t.regs = s.regs) (hi : t.time.incr = s.time.incr) : Hearth P s t :=
  ⟨fun f _ => State.get_congr hr f, fun i _ h => by rwa [State.bit, State.get_congr hr], fun _ => hi⟩

theorem refl (P : Nat → Bool) (s : State) : Hearth P s s := of_eq P rfl rfl

/-- A step that leaves CLK.INT as it is. -/
theorem of_get (hg : ∀ f : Fld, P f.key = false → t.get f = s.get f) (hint : t.get CLK.INT = s.get CLK.INT)
    (hi : P TIME.INCR_LO.key = false → t.time.incr = s.time.incr) : Hearth P s t :=
  ⟨hg, fun i _ h => by rwa [State.bit, hint], hi⟩

theorem set {f : Fld} (h : P f.key = true) (hi : f.key ≠ CLK.INT.key) (s : State) (v : Nat) : Hearth P s (s.set f v) :=
  of_get (fun _ hg => State.get_set_of_ne _ (fun e => by rw [e, hg] at h; cases h) _) (State.get_set_of_ne _ hi _) (fun _ => rfl)

theorem event (h : State.EventStep eventKey s t) (he : ∀ k, eventKey k = true → P k = true) : Hearth P s t :=
  of_get (fun f hf => h.get f (Bool.eq_false_of_not_eq_true (fun hk => absurd (he _ hk) (by simp [hf])))) (h.get _ (by decide))
    (fun _ => by rw [h.time])

/-- The flag of a signal is set, and an event raised where it is enabled. -/
theorem signal {int : Fld} (hi : P int.key = true) (he : ∀ k, eventKey k = true → P k = true) (hint : int = CLK.INT ∨ int.key ≠ CLK.INT.key)
    (s : State) (en : Fld) (i c b u : Nat) (d : List Byte) : Hearth P s (s.signal int en i c b u d) := by
  have hset : Hearth P s (s.setBit int i true) := by
    rcases hint with rfl | hne
    · exact ⟨fun _ hg => State.get_set_of_ne _ (fun e => by rw [e, hg] at hi; cases hi) _, fun j hj hb => s.bit_setBit_of_bit CLK.INT i hj hb,
        fun _ => rfl⟩
    · exact set hi hne s _
  unfold State.signal
  dsimp only
  split
  · exact hset.trans (event (State.raise_event _ c b u d) he)
  · exact hset

theorem ite {c : Prop} [Decidable c] (a : Hearth P s t) (b : Hearth P s u) : Hearth P s (if c then t else u) := by
  split
  · exact a
  · exact b

theorem foldl {α : Type} {g : State → α → State} {xs : List α} (h : ∀ s, ∀ a ∈ xs, Hearth P s (g s a)) (s : State) : Hearth P s (xs.foldl g s) := by
  induction xs generalizing s with
  | nil => exact refl P s
  | cons a xs ih => exact (h s a (List.mem_cons_self ..)).trans (ih (fun s b hb => h s b (List.mem_cons_of_mem _ hb)) _)

/-- A field that reads as before is set where it was. -/
theorem on (a : Hearth P s t) {f : Fld} (h : P f.key = false) : t.on f = s.on f := by rw [State.on, State.on, a.get f h]

end State.Hearth

/-- Such a step that changes nothing but registers, queues, pending messages and Hearth's own data. -/
structure State.ClkStep (P : Nat → Bool) (s t : State) : Prop extends State.Hearth P s t where
  rest : t = { s with regs := t.regs, que := t.que, dma := { s.dma with msi := t.dma.msi }, clk := t.clk }

namespace State.ClkStep

variable {P Q : Nat → Bool} {s t u : State}

theorem trans (a : ClkStep P s t) (b : ClkStep P t u) : ClkStep P s u := by
  refine ⟨a.toHearth.trans b.toHearth, ?_⟩
  have h := b.rest
  rw [a.rest] at h
  exact h

theorem mono (h : ∀ k, P k = true → Q k = true) (a : ClkStep P s t) : ClkStep Q s t := ⟨a.toHearth.mono h, a.rest⟩

theorem refl (P : Nat → Bool) (s : State) : ClkStep P s s := ⟨.refl P s, rfl⟩

/-- Hearth's own data is put. -/
theorem clk (P : Nat → Bool) (s : State) (x : ClkState) : ClkStep P s { s with clk := x } := ⟨.of_eq P rfl rfl, rfl⟩

theorem setRefSt (P : Nat → Bool) (s : State) (n : Nat) (x : RefState) : ClkStep P s (s.setRefSt n x) := clk P s _

theorem setDpll (P : Nat → Bool) (s : State) (d : Nat) (x : DpllState) : ClkStep P s (s.setDpll d x) := clk P s _

theorem cksPins (P : Nat → Bool) (s : State) : ClkStep P s s.cksPins := clk P s _

theorem ite {c : Prop} [Decidable c] (a : ClkStep P s t) (b : ClkStep P s u) : ClkStep P s (if c then t else u) := by
  split
  · exact a
  · exact b

theorem foldl {α : Type} {g : State → α → State} {xs : List α} (h : ∀ s, ∀ a ∈ xs, ClkStep P s (g s a)) (s : State) :
    ClkStep P s (xs.foldl g s) := by
  induction xs generalizing s with
  | nil => exact refl P s
  | cons a xs ih => exact (h s a (List.mem_cons_self ..)).trans (ih (fun s b hb => h s b (List.mem_cons_of_mem _ hb)) _)

/-- Fields other than CLK.INT are written. -/
theorem of_writes {l m : List Fld} (a : State.Writes l s t) (h : ∀ f ∈ l, f ∈ m) (hi : ∀ f ∈ l, f.key ≠ CLK.INT.key) : ClkStep (among m) s t := by
  refine ⟨.of_get (fun f hf => a.get f (fun g hg e => ?_)) (a.get _ hi) (fun _ => by rw [a.rest]), ?_⟩
  · have := among_of_mem (h g hg)
    rw [e, hf] at this
    cases this
  · have hr := a.rest
    rw [hr]

theorem put {l : List Fld} {f : Fld} (h : f ∈ l) (hi : f.key ≠ CLK.INT.key) (s : State) (v : Nat) : ClkStep (among l) s (s.set f v) :=
  ⟨.set (among_of_mem h) hi s v, rfl⟩

/-- No unit but Hearth is touched. -/
theorem clkOnly (a : ClkStep P s t) : s.sameButEvents { t with clk := s.clk } := by
  unfold State.sameButEvents
  rw [a.rest]

/-- Behind a write of fields, where Hearth's own data stays. -/
theorem behind_writes {l : List Fld} (a : ClkStep P t u) (b : State.Writes l s t) (hclk : u.clk = t.clk) : s.sameButEvents u := by
  have h := a.rest
  rw [hclk, b.rest] at h
  exact h

/-- Nor is another touched where a command answers. -/
theorem clkOnly_finish (a : ClkStep P s t) (r : Req) (op : Nat) (rep : Reply) : s.sameButEvents { t.finish r op rep with cmd := s.cmd, clk := s.clk } := by
  unfold State.sameButEvents State.finish
  rw [a.rest]

end State.ClkStep

/-- A flag of CLK.INT is signalled. -/
theorem State.signal_clk {l : List Fld} (h : CLK.INT ∈ l) (s : State) (i c b u : Nat) (d : List Byte) :
    State.ClkStep (among l) s (s.signal CLK.INT CLK.INT_EN i c b u d) := by
  refine ⟨.signal (among_of_mem h) among_of_event (Or.inl rfl) s _ i c b u d, ?_⟩
  have hrest := s.signal_rest CLK.INT CLK.INT_EN i c b u d
  rw [State.clk_signal]
  exact hrest

/-- A flag of CLK.INT reads set once it is signalled. -/
theorem State.flag_signal_clk (s : State) {i : Nat} (hi : i < 10) (c b u : Nat) (d : List Byte) :
    (s.signal CLK.INT CLK.INT_EN i c b u d).bit CLK.INT i = true :=
  State.bit_signal _ _ _ _ _ _ _ _ hi (by decide)

/-- Bit `i` of a field reads as it was put. -/
theorem State.bit_setBit (s : State) (f : Fld) {i : Nat} (hi : i < f.w) (b : Bool) : (s.setBit f i b).bit f i = b := by
  cases b with
  | true => exact s.bit_setBit_self f i hi
  | false =>
    simp only [State.bit, State.setBit, State.get_set_self, Nat.testBit_mod_two_pow, hi, decide_true, Bool.true_and, Bool.false_eq_true, if_false]
    by_cases h : (s.get f).testBit i = true
    · have hand : s.get f &&& 2 ^ i = 2 ^ i := by rw [Nat.and_two_pow, h]; simp
      rw [if_pos h, ← hand, sub_and_eq_ldiff, Nat.testBit_ldiff]
      simp
    · rw [if_neg h]
      exact Bool.eq_false_of_not_eq_true h

theorem State.bit_congr {s t : State} {f : Fld} (h : t.get f = s.get f) (i : Nat) : t.bit f i = s.bit f i := by rw [State.bit, State.bit, h]

theorem State.on_congr {s t : State} {f : Fld} (h : t.get f = s.get f) : t.on f = s.on f := by rw [State.on, State.on, h]

theorem State.refSt_congr {s t : State} (h : t.clk = s.clk) (n : Nat) : t.refSt n = s.refSt n := by rw [State.refSt, State.refSt, h]

theorem State.dpll_congr {s t : State} (h : t.clk = s.clk) (d : Nat) : t.dpll d = s.dpll d := by rw [State.dpll, State.dpll, h]

/-! ### What follows a reference (R96, R100) -/

def sumFlds : List Fld := [CLK.SUM_ENABLED, CLK.SUM_ACTIVE, CLK.SUM_QUALIFIED, CLK.SUM_SUSPECT]

def disagreeFlds : List Fld := CLK.INT :: (List.range 4).map CLK.DPLL_REF_DISAGREE

theorem disagree_keys : ∀ d < 4, CLK.DPLL_REF_DISAGREE d ∈ disagreeFlds ∧ (CLK.DPLL_REF_DISAGREE d).key ≠ CLK.INT.key := by decide +kernel

theorem State.disagree_step {l : List Fld} (hint : CLK.INT ∈ l) {d : Nat} (hd : d < 4) (h : CLK.DPLL_REF_DISAGREE d ∈ l) (s : State) :
    State.ClkStep (among l) s (s.disagree d) := by
  unfold State.disagree
  extract_lets sel k v diff now was s1
  have h1 : State.ClkStep (among l) s s1 := .put h (disagree_keys d hd).2 s _
  exact .ite (h1.trans (s1.signal_clk hint _ _ _ _ _)) h1

@[simp] theorem State.clk_disagree (s : State) (d : Nat) : (s.disagree d).clk = s.clk := by
  unfold State.disagree
  extract_lets sel k v diff now was s1
  split
  · exact State.clk_signal ..
  · rfl

theorem State.disagreeAll_step (s : State) : State.ClkStep (among disagreeFlds) s s.disagreeAll :=
  .foldl (fun s d hd => s.disagree_step (List.mem_cons_self ..) (List.mem_range.1 hd) (disagree_keys d (List.mem_range.1 hd)).1) s

@[simp] theorem State.clk_disagreeAll (s : State) : s.disagreeAll.clk = s.clk :=
  List.foldlRecOn (List.range 4) State.disagree (motive := fun t => t.clk = s.clk) rfl (fun t ht d _ => (t.clk_disagree d).trans ht)

theorem State.refSum_writes (s : State) (n : Nat) : State.Writes sumFlds s (s.refSum n) := by
  unfold State.refSum State.setBit
  exact (((State.Writes.set (by simp [sumFlds]) s _).trans (.set (by simp [sumFlds]) _ _)).trans (.set (by simp [sumFlds]) _ _)).trans
    (.set (by simp [sumFlds]) _ _)

@[simp] theorem State.clk_refSum (s : State) (n : Nat) : (s.refSum n).clk = s.clk := rfl

/-- The summary shows activity and SUSPECT of the reference. -/
theorem State.bit_refSum (s : State) {n : Nat} (hn : n < 8) : (s.refSum n).bit CLK.SUM_ACTIVE n = s.on (CLK.REF_ACTIVE n) ∧
    (s.refSum n).bit CLK.SUM_SUSPECT n = s.on (CLK.REF_SUSPECT n) := by
  have hkeys : ∀ n < 8, CLK.SUM_ENABLED.key ≠ (CLK.REF_SUSPECT n).key ∧ CLK.SUM_ACTIVE.key ≠ (CLK.REF_SUSPECT n).key ∧
      CLK.SUM_QUALIFIED.key ≠ (CLK.REF_SUSPECT n).key := by decide +kernel
  obtain ⟨hen, hact, -⟩ := hkeys n hn
  unfold State.refSum
  refine ⟨?_, ?_⟩
  · rw [State.setBit, State.bit_congr (State.get_set_of_ne _ (by decide) _), State.setBit, State.bit_congr (State.get_set_of_ne _ (by decide) _)]
    exact State.bit_setBit _ _ hn _
  · rw [State.bit_setBit _ _ hn]
    unfold State.setBit
    rw [State.on_congr (State.get_set_of_ne _ hact _), State.on_congr (State.get_set_of_ne _ hen _)]

/-! ### States of a reference (R93, R95) -/

/-- What entering a qualification state writes. -/
def refStateFlds (n : Nat) : List Fld := CLK.REF_QSTATE n :: (sumFlds ++ disagreeFlds)

/-- What the loss of activity writes. -/
def refLostFlds (n : Nat) : List Fld :=
  [CLK.REF_ACTIVE n, CLK.REF_LAST_CAUSE n, CLK.REF_DISQ_CNT n, CLK.REF_ACT_LOSS_CNT n] ++ refStateFlds n

/-- The fields of reference `n` that keep their values while its state changes. -/
def refKept (n : Nat) : List Fld :=
  [CLK.REF_ENABLE n, CLK.REF_ACTIVE n, CLK.REF_LAST_CAUSE n, CLK.REF_ACT_LOSS_CNT n, CLK.REF_PPS_REJECT n, CLK.REF_TYPE n, CLK.REF_FREQ_OFS n,
    CLK.REF_IN_ACCEPT n, CLK.REF_SUSPECT n]

theorem refState_keys : ∀ n < 8, (∀ f ∈ refKept n, among (refStateFlds n) f.key = false) ∧
    (∀ f ∈ CLK.REF_QSTATE n :: sumFlds, f.key ≠ CLK.INT.key) ∧
    among (sumFlds ++ disagreeFlds) (CLK.REF_QSTATE n).key = false ∧ (CLK.REF_QSTATE n).key ≠ (CLK.REF_ACTIVE n).key ∧
    ∀ f ∈ sumFlds, among disagreeFlds f.key = false := by decide +kernel

/-- What follows a qualification state that was put. -/
theorem State.refFollow_step (s : State) (n : Nat) : State.ClkStep (among (sumFlds ++ disagreeFlds)) s (s.refSum n).disagreeAll :=
  (State.ClkStep.of_writes (s.refSum_writes n) (fun _ hf => List.mem_append_left _ hf) (by decide)).trans
    ((State.disagreeAll_step _).mono (among_mono (fun _ hf => List.mem_append_right _ hf)))

theorem State.refQState_step (s : State) {n : Nat} (hn : n < 8) (q : Nat) : State.ClkStep (among (refStateFlds n)) s (s.refQState n q) := by
  obtain ⟨-, hint, -⟩ := refState_keys n hn
  exact ((State.ClkStep.put (by simp [refStateFlds]) (hint _ (by simp)) s q).trans (.setRefSt _ _ n _)).trans
    ((State.refFollow_step _ n).mono (among_mono (fun _ hf => List.mem_cons_of_mem _ hf)))

/-- A reference is in the state that it is put in. -/
theorem State.qstate_refQState (s : State) {n : Nat} (hn : n < 8) {q : Nat} (hq : q < 8) : (s.refQState n q).get (CLK.REF_QSTATE n) = q := by
  obtain ⟨-, -, hself, -⟩ := refState_keys n hn
  refine ((State.refFollow_step _ n).get _ hself).trans ?_
  exact (State.get_set_self s _ q).trans (Nat.mod_eq_of_lt hq)

/-- Its timers and windows are cleared. -/
theorem State.refSt_refQState (s : State) {n : Nat} (hn : n < 8) (q : Nat) : (s.refQState n q).refSt n =
    { RefState.reset with ofs := (s.refSt n).ofs, rejectRun := if q ≤ 1 then 0 else (s.refSt n).rejectRun } := by
  unfold State.refQState
  rw [State.refSt_congr (State.clk_disagreeAll _), State.refSt_congr (State.clk_refSum _ n)]
  exact State.refSt_setRefSt_self _ hn _

theorem State.sumActive_refQState (s : State) {n : Nat} (hn : n < 8) (q : Nat) : (s.refQState n q).bit CLK.SUM_ACTIVE n = s.on (CLK.REF_ACTIVE n) := by
  obtain ⟨-, -, -, hact, hsum⟩ := refState_keys n hn
  unfold State.refQState
  rw [State.bit_congr ((State.disagreeAll_step _).get _ (hsum _ (by simp [sumFlds]))), (State.bit_refSum _ hn).1]
  exact State.on_congr (State.get_set_of_ne s hact q)

/-- What a disqualification writes. -/
def refDisqFlds (n : Nat) : List Fld := [CLK.INT, CLK.REF_LAST_CAUSE n, CLK.REF_DISQ_CNT n]

theorem refLost_keys : ∀ n < 8, (CLK.REF_LAST_CAUSE n).key ≠ CLK.INT.key ∧ (CLK.REF_DISQ_CNT n).key ≠ CLK.INT.key ∧
    (CLK.REF_ACTIVE n).key ≠ CLK.INT.key ∧ (CLK.REF_ACT_LOSS_CNT n).key ≠ CLK.INT.key ∧ (CLK.REF_ACT_LOSS_CNT n).key ≠ (CLK.REF_ACTIVE n).key ∧
    (CLK.REF_ACT_LOSS_CNT n).key ≠ (CLK.REF_LAST_CAUSE n).key ∧ (CLK.REF_LAST_CAUSE n).key ≠ (CLK.REF_DISQ_CNT n).key ∧
    among (refDisqFlds n) (CLK.REF_ACTIVE n).key = false ∧ among (refDisqFlds n) (CLK.REF_ACT_LOSS_CNT n).key = false ∧
    among [CLK.INT] (CLK.REF_LAST_CAUSE n).key = false := by decide +kernel

theorem State.refDisqualify_step (s : State) {n : Nat} (hn : n < 8) (cause : Nat) :
    State.ClkStep (among (refDisqFlds n)) s (s.refDisqualify n cause) := by
  obtain ⟨hcause, hcnt, -⟩ := refLost_keys n hn
  exact (((State.ClkStep.put (by simp [refDisqFlds]) hcause s cause).trans (.put (by simp [refDisqFlds]) hcnt _ _)).trans (.clk _ _ _)).trans
    (State.signal_clk (by simp [refDisqFlds]) _ _ _ _ _ _)

/-- The cause of a disqualification is recorded and signalled. -/
theorem State.refDisqualify_records (s : State) {n : Nat} (hn : n < 8) {cause : Nat} (hc : cause < 2 ^ (CLK.REF_LAST_CAUSE n).w) :
    (s.refDisqualify n cause).get (CLK.REF_LAST_CAUSE n) = cause ∧ (s.refDisqualify n cause).bit CLK.INT CLK.INT_DISQ = true := by
  obtain ⟨-, -, -, -, -, -, hne, -, -, hquiet⟩ := refLost_keys n hn
  refine ⟨?_, State.flag_signal_clk _ (by decide) _ _ _ _⟩
  refine ((State.signal_clk (List.mem_singleton_self _) _ _ _ _ _ _).get _ hquiet).trans ?_
  exact (State.get_set_of_ne _ hne.symm _).trans ((State.get_set_self s _ cause).trans (Nat.mod_eq_of_lt hc))

/-- The state in which a reference that loses its activity becomes INACTIVE. -/
def State.inactive (s : State) (n : Nat) : State :=
  let q := s.get (CLK.REF_QSTATE n)
  let t := if q = 3 then (s.set (CLK.REF_ACTIVE n) 0).refDisqualify n 1 else s.set (CLK.REF_ACTIVE n) 0
  if q = 2 ∨ q = 3 then t.count (CLK.REF_ACT_LOSS_CNT n) else t

theorem State.refLost_eq (s : State) (n : Nat) : s.refLost n = (s.inactive n).refQState n 1 := rfl

theorem State.inactive_step (s : State) {n : Nat} (hn : n < 8) : State.ClkStep (among (refLostFlds n)) s (s.inactive n) := by
  obtain ⟨-, -, hact, hcnt, -⟩ := refLost_keys n hn
  have h0 : State.ClkStep (among (refLostFlds n)) s (s.set (CLK.REF_ACTIVE n) 0) := .put (by simp [refLostFlds]) hact s 0
  have hdisq : ∀ f ∈ refDisqFlds n, f ∈ refLostFlds n := by simp [refDisqFlds, refLostFlds, refStateFlds, disagreeFlds]
  have h1 := State.ClkStep.ite (c := s.get (CLK.REF_QSTATE n) = 3) (h0.trans ((State.refDisqualify_step _ hn 1).mono (among_mono hdisq))) h0
  exact .ite (h1.trans (.put (by simp [refLostFlds]) hcnt _ _)) h1

/-- The loss of activity writes the reference's own status, and what follows it. -/
theorem State.refLost_step (s : State) {n : Nat} (hn : n < 8) : State.ClkStep (among (refLostFlds n)) s (s.refLost n) :=
  (s.inactive_step hn).trans ((State.refQState_step _ hn 1).mono (among_mono (fun _ hf => List.mem_append_right _ hf)))

theorem State.active_inactive (s : State) {n : Nat} (hn : n < 8) : (s.inactive n).on (CLK.REF_ACTIVE n) = false := by
  obtain ⟨-, -, -, -, hne, -, -, hquiet, -⟩ := refLost_keys n hn
  have h0 : (s.set (CLK.REF_ACTIVE n) 0).get (CLK.REF_ACTIVE n) = 0 := (State.get_set_self s _ 0).trans (Nat.zero_mod _)
  unfold State.inactive
  extract_lets q t
  have h1 : t.get (CLK.REF_ACTIVE n) = 0 := by
    change (if q = 3 then (s.set (CLK.REF_ACTIVE n) 0).refDisqualify n 1 else s.set (CLK.REF_ACTIVE n) 0).get _ = 0
    split
    · exact ((State.refDisqualify_step _ hn 1).get _ hquiet).trans h0
    · exact h0
  split
  · exact decide_eq_false (not_not_intro ((State.get_set_of_ne t hne _).trans h1))
  · exact decide_eq_false (not_not_intro h1)

/-- A reference that loses its activity is INACTIVE (R95). -/
theorem State.refLost_inactive (s : State) {n : Nat} (hn : n < 8) :
    (s.refLost n).get (CLK.REF_QSTATE n) = 1 ∧ (s.refLost n).on (CLK.REF_ACTIVE n) = false := by
  obtain ⟨hkept, -⟩ := refState_keys n hn
  refine ⟨State.qstate_refQState _ hn (by decide), ?_⟩
  exact ((State.refQState_step _ hn 1).on (hkept _ (by simp [refKept]))).trans (s.active_inactive hn)

/-- The record of a QUALIFIED reference that loses its activity (R93, R95). -/
theorem State.refLost_qualified {s : State} {n : Nat} (hn : n < 8) (hq : s.get (CLK.REF_QSTATE n) = 3) :
    (s.refLost n).get (CLK.REF_LAST_CAUSE n) = 1 ∧ (s.refLost n).bit CLK.INT CLK.INT_DISQ = true ∧
      (s.refLost n).get (CLK.REF_ACT_LOSS_CNT n) = (s.get (CLK.REF_ACT_LOSS_CNT n) + 1) % 2 ^ (CLK.REF_ACT_LOSS_CNT n).w := by
  obtain ⟨hkept, -⟩ := refState_keys n hn
  obtain ⟨-, -, -, hint, hact, hcause, -, -, hquiet, -⟩ := refLost_keys n hn
  have hw : 1 < 2 ^ (CLK.REF_LAST_CAUSE n).w := Nat.one_lt_two_pow (Nat.succ_ne_zero _)
  obtain ⟨hrec, hflag⟩ := (s.set (CLK.REF_ACTIVE n) 0).refDisqualify_records hn hw
  have heq : s.inactive n = ((s.set (CLK.REF_ACTIVE n) 0).refDisqualify n 1).count (CLK.REF_ACT_LOSS_CNT n) := by
    simp only [State.inactive, hq, or_true, if_true]
  have hlast := (State.refQState_step (s.inactive n) hn 1)
  rw [State.refLost_eq]
  refine ⟨?_, ?_, ?_⟩
  · rw [hlast.get _ (hkept _ (by simp [refKept])), heq]
    exact (State.get_set_of_ne _ hcause _).trans hrec
  · refine hlast.flag _ (by decide) ?_
    rw [heq]
    exact (State.bit_congr (State.get_set_of_ne _ hint _) _).trans hflag
  · rw [hlast.get _ (hkept _ (by simp [refKept])), heq, State.get_count_self, (State.refDisqualify_step _ hn 1).get _ hquiet,
      State.get_set_of_ne _ hact.symm]

end Sys2Proof.Machine

end

