-- ==== Sys2Proof/Proofs/HearthReferences.lean ====
section

namespace Sys2Proof.Machine

/-! ## Activity (R93, R95) -/

theorem refActivityGain_qualifies {s : State} {n : Nat} (hn : n < 8) (hen : s.on (CLK.REF_ENABLE n) = true) (h6 : n = 6 → s.ref6Active = true)
    (h7 : n = 7 → s.ref7Offered = true) (hxo : s.on CLK.XO_OK = true) (herr : s.get (CLK.REF_CFG_ERR n) = 0) (hq : s.get (CLK.REF_QSTATE n) < 2) :
    ∃ t, Machine.exec (.refActivityGain n) s = .next t ∧ s.sameButEvents { t with clk := s.clk } ∧ t.get (CLK.REF_QSTATE n) = 2 ∧
      t.on (CLK.REF_ACTIVE n) = true ∧
      t.refSt n = { RefState.reset with ofs := (s.refSt n).ofs, rejectRun := (s.refSt n).rejectRun } ∧ t.bit CLK.SUM_ACTIVE n = true := by
  obtain ⟨hkept, -⟩ := refState_keys n hn
  obtain ⟨-, -, hact, -⟩ := refLost_keys n hn
  let put := s.set (CLK.REF_ACTIVE n) 1
  have hstep : State.ClkStep (among (refLostFlds n)) s (put.refQState n 2) :=
    (State.ClkStep.put (by simp [refLostFlds]) hact s 1).trans
      ((put.refQState_step hn 2).mono (among_mono (fun _ hf => List.mem_append_right _ hf)))
  have hput : put.on (CLK.REF_ACTIVE n) = true := State.on_of_get (State.get_set_self s _ 1)
  refine ⟨_, if_pos ⟨hn, hen, hxo, herr, hq, not_or_of_imp h6, not_or_of_imp h7⟩, hstep.clkOnly, put.qstate_refQState hn (by decide), ?_,
    put.refSt_refQState hn 2, (put.sumActive_refQState hn 2).trans hput⟩
  exact ((put.refQState_step hn 2).on (hkept _ (by simp [refKept]))).trans hput

theorem refActivityLoss_disqualifies {s : State} {n : Nat} (hn : n < 8) (hen : s.on (CLK.REF_ENABLE n) = true) (h6 : n = 6 → s.ref6Active = false)
    (hq : s.get (CLK.REF_QSTATE n) = 3) :
    ∃ t, Machine.exec (.refActivityLoss n) s = .next t ∧ s.sameButEvents { t with clk := s.clk } ∧ t.get (CLK.REF_QSTATE n) = 1 ∧
      t.on (CLK.REF_ACTIVE n) = false ∧ t.get (CLK.REF_LAST_CAUSE n) = 1 ∧ t.bit CLK.INT CLK.INT_DISQ = true ∧
      t.get (CLK.REF_ACT_LOSS_CNT n) = (s.get (CLK.REF_ACT_LOSS_CNT n) + 1) % 2 ^ (CLK.REF_ACT_LOSS_CNT n).w := by
  have hvirtual : (!(n == 6 && s.ref6Active)) = true := by
    by_cases h : n = 6
    · simp [h6 h]
    · simp [h]
  obtain ⟨hinactive, hact⟩ := s.refLost_inactive hn
  obtain ⟨hcause, hflag, hcount⟩ := State.refLost_qualified hn hq
  exact ⟨_, if_pos ⟨hn, hen, hvirtual⟩, (s.refLost_step hn).clkOnly, hinactive, hact, hcause, hflag, hcount⟩

/-! ## Edges off their instant (R93) -/

theorem ppsEdgeReject_counts {s : State} {n : Nat} {used : Bool} (hn : n < 4) (hen : s.on (CLK.REF_ENABLE n) = true)
    (hty : s.get (CLK.REF_TYPE n) = 3) (hrun : used = false → (s.refSt n).rejectRun < 2) :
    ∃ t, Machine.exec (.ppsEdgeReject n used) s = .next t ∧ t = { s with regs := t.regs, clk := t.clk } ∧
      t.refSt n = { s.refSt n with rejectRun := if used then 1 else (s.refSt n).rejectRun + 1 } ∧
      s.turns t (CLK.REF_PPS_REJECT n) ((s.get (CLK.REF_PPS_REJECT n) + 1) % 2 ^ 32) := by
  let t := (s.count (CLK.REF_PPS_REJECT n)).setRefSt n { s.refSt n with rejectRun := if used then 1 else (s.refSt n).rejectRun + 1 }
  have hfew : ¬ 3 ≤ (if used then 1 else (s.refSt n).rejectRun + 1) := by
    cases used with
    | true => rw [if_pos rfl]; decide
    | false => have := hrun rfl; simp only [Bool.false_eq_true, if_false]; omega
  have hexec : Machine.exec (.ppsEdgeReject n used) s = .next t := (if_pos ⟨hn, hen, hty⟩).trans (if_neg hfew)
  refine ⟨t, hexec, rfl, State.refSt_setRefSt_self _ (by omega) _, State.get_count_self s _, fun f _ _ hf => ?_⟩
  exact State.get_set_of_ne _ (hf _ (List.mem_singleton_self _)) _

theorem ppsEdgeReject_loses {s : State} {n : Nat} (hn : n < 4) (hen : s.on (CLK.REF_ENABLE n) = true) (hty : s.get (CLK.REF_TYPE n) = 3)
    (hrun : (s.refSt n).rejectRun = 2) :
    ∃ t, Machine.exec (.ppsEdgeReject n false) s = .next t ∧ s.sameButEvents { t with clk := s.clk } ∧ t.get (CLK.REF_QSTATE n) = 1 ∧
      t.on (CLK.REF_ACTIVE n) = false ∧ t.get (CLK.REF_PPS_REJECT n) = (s.get (CLK.REF_PPS_REJECT n) + 1) % 2 ^ 32 := by
  have hkeys : ∀ n < 4, (CLK.REF_PPS_REJECT n).key ≠ CLK.INT.key ∧ among (refLostFlds n) (CLK.REF_PPS_REJECT n).key = false := by decide +kernel
  obtain ⟨hint, hquiet⟩ := hkeys n hn
  have hn8 : n < 8 := by omega
  let counted := s.count (CLK.REF_PPS_REJECT n)
  have hthird : 3 ≤ (if false then 1 else (s.refSt n).rejectRun + 1) := by simp [hrun]
  have hexec : Machine.exec (.ppsEdgeReject n false) s = .next (counted.refLost n) := (if_pos ⟨hn, hen, hty⟩).trans (if_pos hthird)
  obtain ⟨hinactive, hact⟩ := counted.refLost_inactive hn8
  have hstep : State.ClkStep (among (CLK.REF_PPS_REJECT n :: refLostFlds n)) s (counted.refLost n) :=
    (State.ClkStep.put (List.mem_cons_self ..) hint s _).trans
      ((counted.refLost_step hn8).mono (among_mono (fun _ hf => List.mem_cons_of_mem _ hf)))
  exact ⟨_, hexec, hstep.clkOnly, hinactive, hact, ((counted.refLost_step hn8).get _ hquiet).trans (State.get_count_self s _)⟩

/-! ## Gates of the frequency monitor (R94 to R96) -/

/-- What the close of a gate writes before it is judged. -/
def gateFlds (n : Nat) : List Fld := [CLK.REF_FREQ_OFS n, CLK.REF_IN_ACCEPT n, CLK.REF_OUT_REJECT n]

/-- The state in which a gate with the mean offset `m` is judged. -/
def State.gated (s : State) (n : Nat) (m : Int) : State :=
  let acc := capPpt (s.get (CLK.REF_ACCEPT n))
  let rej := max acc (capPpt (s.get (CLK.REF_REJECT n)))
  let t := ((s.seti (CLK.REF_FREQ_OFS n) m).setOn (CLK.REF_IN_ACCEPT n) (decide (m.natAbs ≤ acc))).setOn (CLK.REF_OUT_REJECT n)
    (decide (rej < m.natAbs))
  t.setRefSt n { s.refSt n with ofs := m }

/-- What a gate is judged by. -/
def gateKept (n : Nat) : List Fld :=
  [CLK.REF_QSTATE n, CLK.REF_SUSPECT n, CLK.REF_QUAL_TIME n, CLK.REF_FREQ n, CLK.REF_TYPE n, CLK.REF_SRC 7, CLK.REF_FREQ 7]

theorem gate_keys : ∀ n < 8, (∀ f ∈ gateFlds n, f.key ≠ CLK.INT.key) ∧ (∀ g ∈ gateKept n, ∀ f ∈ gateFlds n, f.key ≠ g.key) ∧
    ((gateFlds n).map Fld.key).Nodup ∧ (∀ f ∈ gateFlds n, among (CLK.REF_QUAL_CNT n :: refStateFlds n) f.key = false) ∧
    (∀ f ∈ gateFlds n, among disagreeFlds f.key = false) ∧ (CLK.REF_QUAL_CNT n).key ≠ CLK.INT.key ∧
    among disagreeFlds (CLK.REF_QSTATE n).key = false ∧ among [CLK.INT] (CLK.REF_QSTATE n).key = false := by decide +kernel

/-- The gate's length depends on the reference's own type and frequency. -/
theorem State.gateMs_congr {s t : State} {n : Nat} (hty : t.get (CLK.REF_TYPE n) = s.get (CLK.REF_TYPE n))
    (hfreq : t.get (CLK.REF_FREQ n) = s.get (CLK.REF_FREQ n)) (hsrc : t.get (CLK.REF_SRC 7) = s.get (CLK.REF_SRC 7))
    (h7 : t.get (CLK.REF_FREQ 7) = s.get (CLK.REF_FREQ 7)) : t.gateMs n = s.gateMs n := by
  by_cases h6 : n = 6
  · simp only [State.gateMs, h6, true_or, if_true]
  · have hrate : t.refFreq n = s.refFreq n := by simp only [State.refFreq, hty, hfreq, hsrc, h7, if_neg h6]
    have hcompare : t.compareRate n = s.compareRate n := by rw [State.compareRate, State.compareRate, hrate]
    rw [State.gateMs, State.gateMs, hcompare]

theorem State.get_gated (s : State) (n : Nat) (m : Int) {f : Fld} (h : ∀ g ∈ gateFlds n, g.key ≠ f.key) : (s.gated n m).get f = s.get f :=
  (State.get_set_of_ne _ (h _ (by simp [gateFlds])) _).trans ((State.get_set_of_ne _ (h _ (by simp [gateFlds])) _).trans
    (State.get_set_of_ne _ (h _ (by simp [gateFlds])) _))

theorem State.gated_kept (s : State) {n : Nat} (hn : n < 8) (m : Int) {f : Fld} (h : f ∈ gateKept n) : (s.gated n m).get f = s.get f := by
  obtain ⟨-, hkept, -⟩ := gate_keys n hn
  exact s.get_gated n m (hkept f h)

theorem State.gateMs_gated (s : State) {n : Nat} (hn : n < 8) (m : Int) : (s.gated n m).gateMs n = s.gateMs n :=
  State.gateMs_congr (s.gated_kept hn m (by simp [gateKept])) (s.gated_kept hn m (by simp [gateKept])) (s.gated_kept hn m (by simp [gateKept]))
    (s.gated_kept hn m (by simp [gateKept]))

theorem State.gated_step (s : State) {n : Nat} (hn : n < 8) (m : Int) : State.ClkStep (among (gateFlds n)) s (s.gated n m) := by
  obtain ⟨hkeys, -⟩ := gate_keys n hn
  have hput : ∀ f ∈ gateFlds n, ∀ u v, State.ClkStep (among (gateFlds n)) u (u.set f v) := fun f hf u v => .put hf (hkeys f hf) u v
  exact (((hput _ (by simp [gateFlds]) s _).trans (hput _ (by simp [gateFlds]) _ _)).trans (hput _ (by simp [gateFlds]) _ _)).trans
    (.setRefSt _ _ n _)

/-- The mean offset reads in FREQ_OFS, and IN_ACCEPT says whether it lies within ACCEPT. -/
theorem State.measured_gated (s : State) {n : Nat} (hn : n < 8) {m : Int} (hm : m.natAbs < 2 ^ 31) :
    (s.gated n m).geti (CLK.REF_FREQ_OFS n) = m ∧ (s.gated n m).on (CLK.REF_IN_ACCEPT n) = decide (m.natAbs ≤ capPpt (s.get (CLK.REF_ACCEPT n))) := by
  obtain ⟨-, -, hnd, -⟩ := gate_keys n hn
  simp only [gateFlds, List.map_cons, List.map_nil, List.nodup_cons, List.mem_cons, List.not_mem_nil, or_false, not_or] at hnd
  obtain ⟨⟨hofsIn, hofsOut⟩, hinOut, -⟩ := hnd
  refine ⟨?_, ?_⟩
  · refine (State.geti_congr ?_).trans (State.geti_seti s rfl hm)
    exact (State.get_set_of_ne _ (Ne.symm hofsOut) _).trans (State.get_set_of_ne _ (Ne.symm hofsIn) _)
  · refine (State.on_congr (State.get_set_of_ne _ (Ne.symm hinOut) _)).trans ?_
    by_cases h : m.natAbs ≤ capPpt (s.get (CLK.REF_ACCEPT n))
    · rw [decide_eq_true h]
      exact State.on_of_get (State.get_set_self _ _ 1)
    · rw [decide_eq_false h]
      exact decide_eq_false (not_not_intro ((State.get_set_self _ _ 0).trans (Nat.zero_mod _)))

/-- A gate of a QUALIFYING reference goes to its timer. -/
theorem freqGateClose_of_qualifying {s : State} {n : Nat} (ofs : Int) (hn : n < 8) (hen : s.on (CLK.REF_ENABLE n) = true)
    (hact : s.on (CLK.REF_ACTIVE n) = true) (hbase : s.on CLK.CTRL_FM_BASE = false) (hq : s.get (CLK.REF_QSTATE n) = 2) :
    Machine.exec (.freqGateClose n ofs) s = .next ((s.gated n (s.measured n ofs)).qualGate n
      (decide ((s.measured n ofs).natAbs ≤ capPpt (s.get (CLK.REF_ACCEPT n))))).disagreeAll := by
  have hstate : (s.gated n (s.measured n ofs)).get (CLK.REF_QSTATE n) = 2 := (s.gated_kept hn _ (by simp [gateKept])).trans hq
  refine (if_pos ⟨hn, hen, hact⟩).trans ?_
  simp only [hbase, Bool.false_and, Bool.false_eq_true, if_false]
  refine congrArg (fun t : State => Host.Outcome.next t.disagreeAll) ?_
  change (match (s.gated n (s.measured n ofs)).get (CLK.REF_QSTATE n) with
    | 2 => _
    | 3 => _
    | _ => _) = _
  rw [hstate]
  rfl

theorem capPpt_le (n : Nat) : capPpt n ≤ 100000000 := by
  unfold capPpt
  split <;> omega

theorem freqGateClose_qualifies {s : State} {n : Nat} {ofs : Int} (hn : n < 8) (hen : s.on (CLK.REF_ENABLE n) = true)
    (hact : s.on (CLK.REF_ACTIVE n) = true) (hbase : s.on CLK.CTRL_FM_BASE = false) (hq : s.get (CLK.REF_QSTATE n) = 2)
    (hacc : (s.measured n ofs).natAbs ≤ capPpt (s.get (CLK.REF_ACCEPT n))) (hsus : s.on (CLK.REF_SUSPECT n) = false)
    (htime : s.get (CLK.REF_QUAL_TIME n) * 100 ≤ (s.refSt n).qualMs.getD 0 + s.gateMs n) :
    ∃ t, Machine.exec (.freqGateClose n ofs) s = .next t ∧ s.sameButEvents { t with clk := s.clk } ∧
      t.geti (CLK.REF_FREQ_OFS n) = s.measured n ofs ∧ t.get (CLK.REF_QSTATE n) = 3 ∧ t.on (CLK.REF_IN_ACCEPT n) = true ∧
      t.bit CLK.INT CLK.INT_QUAL = true := by
  obtain ⟨-, -, -, hquiet, -, hcnt, hstate, hstate'⟩ := gate_keys n hn
  have hm : (s.measured n ofs).natAbs < 2 ^ 31 := by have := capPpt_le (s.get (CLK.REF_ACCEPT n)); omega
  obtain ⟨hofs, hin⟩ := s.measured_gated hn hm
  let g := s.gated n (s.measured n ofs)
  have hdone : g.get (CLK.REF_QUAL_TIME n) * 100 ≤ (g.refSt n).qualMs.getD 0 + g.gateMs n := by
    rw [show g.gateMs n = s.gateMs n from s.gateMs_gated hn _, s.gated_kept hn _ (by simp [gateKept]),
      show g.refSt n = { s.refSt n with ofs := s.measured n ofs } from State.refSt_setRefSt_self _ hn _]
    exact htime
  have hsus' : g.on (CLK.REF_SUSPECT n) = false := (State.on_congr (s.gated_kept hn _ (by simp [gateKept]))).trans hsus
  let u := (g.count (CLK.REF_QUAL_CNT n)).refQState n 3
  let v := u.signal CLK.INT CLK.INT_EN CLK.INT_QUAL 0x0301 8 n (le 4 (u.get (CLK.REF_FREQ_OFS n)))
  have hqual : g.qualGate n true = v := by
    simp only [State.qualGate, hsus', Bool.not_true, Bool.false_and, Bool.or_self, Bool.false_eq_true, if_false, if_pos hdone]
    rfl
  have hexec : Machine.exec (.freqGateClose n ofs) s = .next v.disagreeAll := by
    rw [freqGateClose_of_qualifying ofs hn hen hact hbase hq, decide_eq_true hacc]
    exact congrArg (fun t : State => Host.Outcome.next t.disagreeAll) hqual
  have hint : CLK.INT ∈ CLK.REF_QUAL_CNT n :: refStateFlds n := by simp [refStateFlds, disagreeFlds]
  have huv : State.ClkStep (among [CLK.INT]) u v := State.signal_clk (List.mem_singleton_self _) _ _ _ _ _ _
  have hgu : State.ClkStep (among (CLK.REF_QUAL_CNT n :: refStateFlds n)) g u :=
    (State.ClkStep.put (List.mem_cons_self ..) hcnt g _).trans
      ((State.refQState_step _ hn 3).mono (among_mono (fun _ hf => List.mem_cons_of_mem _ hf)))
  have hgt : State.ClkStep (among (CLK.REF_QUAL_CNT n :: refStateFlds n)) g v.disagreeAll :=
    (hgu.trans (huv.mono (among_mono (by simpa using hint)))).trans
      (v.disagreeAll_step.mono (among_mono (fun f hf => by simp [refStateFlds, hf])))
  refine ⟨_, hexec, ?_, ?_, ?_, ?_, ?_⟩
  · have hall : State.ClkStep (fun _ => true) s v.disagreeAll := ((s.gated_step hn _).mono (fun _ _ => rfl)).trans (hgt.mono (fun _ _ => rfl))
    exact hall.clkOnly
  · exact (State.geti_congr (hgt.get _ (hquiet _ (by simp [gateFlds])))).trans hofs
  · rw [v.disagreeAll_step.get _ hstate, huv.get _ hstate']
    exact State.qstate_refQState _ hn (by decide)
  · rw [hgt.on (hquiet _ (by simp [gateFlds])), hin]
    exact decide_eq_true hacc
  · exact v.disagreeAll_step.flag _ (by decide) (State.flag_signal_clk _ (by decide) _ _ _ _)

theorem freqGateClose_restarts {s : State} {n : Nat} {ofs : Int} (hn : n < 8) (hen : s.on (CLK.REF_ENABLE n) = true)
    (hact : s.on (CLK.REF_ACTIVE n) = true) (hbase : s.on CLK.CTRL_FM_BASE = false) (hq : s.get (CLK.REF_QSTATE n) = 2)
    (hacc : capPpt (s.get (CLK.REF_ACCEPT n)) < (s.measured n ofs).natAbs) (hm : (s.measured n ofs).natAbs < 2 ^ 31) :
    ∃ t, Machine.exec (.freqGateClose n ofs) s = .next t ∧ s.sameButEvents { t with clk := s.clk } ∧
      t.geti (CLK.REF_FREQ_OFS n) = s.measured n ofs ∧ t.get (CLK.REF_QSTATE n) = 2 ∧ t.on (CLK.REF_IN_ACCEPT n) = false ∧
      (t.refSt n).qualMs = none := by
  obtain ⟨-, -, -, -, hquiet, -, hstate, -⟩ := gate_keys n hn
  obtain ⟨hofs, hin⟩ := s.measured_gated hn hm
  let g := s.gated n (s.measured n ofs)
  let v := g.setRefSt n { g.refSt n with qualMs := none }
  have hout : decide ((s.measured n ofs).natAbs ≤ capPpt (s.get (CLK.REF_ACCEPT n))) = false := decide_eq_false (by omega)
  have hexec : Machine.exec (.freqGateClose n ofs) s = .next v.disagreeAll := by
    rw [freqGateClose_of_qualifying ofs hn hen hact hbase hq, hout]
    rfl
  have hstep : State.ClkStep (fun _ => true) s v.disagreeAll := (((s.gated_step hn _).mono (fun _ _ => rfl)).trans
    (.setRefSt _ g n _)).trans (v.disagreeAll_step.mono (fun _ _ => rfl))
  refine ⟨_, hexec, hstep.clkOnly, ?_, ?_, ?_, ?_⟩
  · exact (State.geti_congr (v.disagreeAll_step.get _ (hquiet _ (by simp [gateFlds])))).trans hofs
  · exact (v.disagreeAll_step.get _ hstate).trans ((s.gated_kept hn _ (by simp [gateKept])).trans hq)
  · exact (v.disagreeAll_step.on (hquiet _ (by simp [gateFlds]))).trans (hin.trans hout)
  · rw [State.refSt_congr v.clk_disagreeAll, State.refSt_setRefSt_self _ hn]

/-! ## Drift (R97) -/

theorem driftWindowClose_opens {s : State} {n : Nat} (hn : n < 8) (hq : s.get (CLK.REF_QSTATE n) = 3) (hprev : (s.refSt n).prevDrift = none) :
    ∃ t, Machine.exec (.driftWindowClose n) s = .next t ∧ t = { s with clk := t.clk } ∧ t.refSt n =
      { s.refSt n with driftSum := 0, driftCount := 0, prevDrift := some ((s.refSt n).driftSum, (s.refSt n).driftCount) } := by
  refine ⟨_, (if_pos ⟨hn, hq⟩).trans ?_, rfl, State.refSt_setRefSt_self s hn _⟩
  simp only [hprev]

/-- What a drift beyond its limit writes. -/
def driftFlds (n : Nat) : List Fld := [CLK.INT, CLK.REF_DRIFT_RATE n, CLK.REF_SUSPECT n, CLK.REF_SUSPECT_CNT n] ++ sumFlds

theorem drift_keys : ∀ n < 8, (CLK.REF_DRIFT_RATE n).key ≠ CLK.INT.key ∧ (CLK.REF_SUSPECT n).key ≠ CLK.INT.key ∧
    (CLK.REF_SUSPECT_CNT n).key ≠ CLK.INT.key ∧ (CLK.REF_SUSPECT_CNT n).key ≠ (CLK.REF_SUSPECT n).key ∧
    (∀ f ∈ sumFlds, f.key ≠ (CLK.REF_SUSPECT n).key) ∧ among [CLK.INT] (CLK.REF_SUSPECT n).key = false ∧
    among (driftFlds n) (CLK.REF_DRIFT_ACT n).key = false ∧ among (driftFlds n) (CLK.REF_QSTATE n).key = false := by decide +kernel

theorem driftWindowClose_suspects {s : State} {n a d : Nat} {b c : Int} (hn : n < 8) (hq : s.get (CLK.REF_QSTATE n) = 3)
    (hprev : (s.refSt n).prevDrift = some (c, d)) (hsum : (s.refSt n).driftSum = b) (hcount : (s.refSt n).driftCount = a)
    (hlim : 0 < s.get (CLK.REF_DRIFT_LIM n)) (hover : s.get (CLK.REF_DRIFT_LIM n) * 1000 * a * d < (b * d - c * a).natAbs)
    (hdrift : s.on (CLK.REF_DRIFT_ACT n) = false) :
    ∃ t, Machine.exec (.driftWindowClose n) s = .next t ∧ s.sameButEvents { t with clk := s.clk } ∧ t.get (CLK.REF_QSTATE n) = 3 ∧
      t.on (CLK.REF_SUSPECT n) = true ∧ t.bit CLK.SUM_SUSPECT n = true ∧ t.bit CLK.INT CLK.INT_SUSPECT = true := by
  obtain ⟨hrate, hsus, hcnt, hcntSus, hsumSus, hquiet, hactQuiet, hqQuiet⟩ := drift_keys n hn
  let rate := divRound (b * d - c * a) (1000 * a * d)
  let opened := s.setRefSt n { s.refSt n with driftSum := 0, driftCount := 0, prevDrift := some (b, a) }
  let marked := (((opened.seti (CLK.REF_DRIFT_RATE n) rate).set (CLK.REF_SUSPECT n) 1).count (CLK.REF_SUSPECT_CNT n))
  let t := (marked.refSum n).signal CLK.INT CLK.INT_EN CLK.INT_SUSPECT 0x0303 8 n (leI 4 rate ++ leI 4 (divRound b a))
  have hsignal : State.ClkStep (among [CLK.INT]) (marked.refSum n) t := State.signal_clk (List.mem_singleton_self _) _ _ _ _ _ _
  have hmarked : State.ClkStep (among (driftFlds n)) s marked :=
    (((State.ClkStep.setRefSt _ s n _).trans (.put (by simp [driftFlds]) hrate _ _)).trans (.put (by simp [driftFlds]) hsus _ _)).trans
      (.put (by simp [driftFlds]) hcnt _ _)
  have hstep : State.ClkStep (among (driftFlds n)) s t :=
    (hmarked.trans (.of_writes (marked.refSum_writes n) (fun f hf => by simp [driftFlds, hf]) (by decide))).trans
      (hsignal.mono (among_mono (by simp [driftFlds])))
  have hon : (marked.refSum n).on (CLK.REF_SUSPECT n) = true :=
    (State.on_congr ((marked.refSum_writes n).get _ hsumSus)).trans
      ((State.on_congr (State.get_set_of_ne _ hcntSus _)).trans (State.on_of_get (State.get_set_self _ _ 1)))
  have hexec : Machine.exec (.driftWindowClose n) s = .next t := by
    have hact : t.on (CLK.REF_DRIFT_ACT n) = false := (hstep.on hactQuiet).trans hdrift
    subst hsum hcount
    refine (if_pos ⟨hn, hq⟩).trans ?_
    simp only [hprev]
    refine (if_neg (Nat.ne_of_gt hlim)).trans ((if_pos hover).trans ?_)
    exact congrArg Host.Outcome.next (if_neg (by rw [Bool.not_eq_true]; exact hact))
  refine ⟨t, hexec, hstep.clkOnly, (hstep.get _ hqQuiet).trans hq, (hsignal.on hquiet).trans hon, ?_, State.flag_signal_clk _ (by decide) _ _ _ _⟩
  have hsum : t.get CLK.SUM_SUSPECT = (marked.refSum n).get CLK.SUM_SUSPECT := hsignal.get _ (by decide +kernel)
  rw [State.bit_congr hsum, (marked.bit_refSum hn).2, ← (State.on_congr ((marked.refSum_writes n).get _ hsumSus)), hon]

end Sys2Proof.Machine

end

