-- ==== Sys2Proof/Proofs/HearthReferenceSettings.lean ====
section

namespace Sys2Proof.Machine

/-! ## Hearth's host writes -/

/-- `t` is `s` but for the register file and Hearth's own data, and no field reads otherwise but those whose keys are in `l`. -/
structure State.ClkWrites (l : List Fld) (s t : State) : Prop where
  rest : t = { s with regs := t.regs, clk := t.clk }
  get : ∀ f : Fld, (∀ g ∈ l, g.key ≠ f.key) → t.get f = s.get f

namespace State.ClkWrites

variable {l : List Fld} {s t u : State}

theorem refl (l : List Fld) (s : State) : ClkWrites l s s := ⟨rfl, fun _ _ => rfl⟩

theorem trans (a : ClkWrites l s t) (b : ClkWrites l t u) : ClkWrites l s u := by
  refine ⟨?_, fun f h => (b.get f h).trans (a.get f h)⟩
  have h := b.rest
  rw [a.rest] at h
  exact h

theorem clk (l : List Fld) (s : State) (x : ClkState) : ClkWrites l s { s with clk := x } := ⟨rfl, fun _ _ => rfl⟩

theorem of_writes (a : Writes l s t) : ClkWrites l s t :=
  ⟨by have h := a.rest; rw [h], a.get⟩

theorem foldl {α : Type} {g : State → α → State} {xs : List α} (h : ∀ s, ∀ a ∈ xs, ClkWrites l s (g s a)) (s : State) :
    ClkWrites l s (xs.foldl g s) := by
  induction xs generalizing s with
  | nil => exact refl l s
  | cons a xs ih => exact (h s a (List.mem_cons_self ..)).trans (ih (fun s b hb => h s b (List.mem_cons_of_mem _ hb)) _)

end State.ClkWrites

/-- A word of the CLK block that is no half of a split quantity goes to the block. -/
theorem State.regWrite_clk (s : State) (source w : Nat) {off : Nat} (h4 : off % 4 = 0) (hlo : 0xA0000 ≤ off) (hhi : off < 0xC0000)
    (hs : inSplit off = false) : s.regWrite source off w = s.writeClk source off w := by
  unfold State.regWrite
  simp only [wordOff h4, find_lo_of_inSplit hs, find_hi_of_inSplit hs, Option.any_none, Bool.false_eq_true, if_false]
  repeat rw [if_neg (by omega)]
  rw [if_pos hhi]

/-- A host write of such a word that meets nothing, and leaves the pair's status alone, is the block's. -/
theorem State.busWrite_clk {s t : State} {source w off : Nat} (ho : s.busOpen off) (h4 : off % 4 = 0) (hlo : 0xA0000 ≤ off) (hhi : off < 0xC0000)
    (hs : inSplit off = false) (hw : s.writeClk source off w = t) (hg : ∀ f ∈ pairFlds, t.get f = s.get f) : s.busWrite source off w = t := by
  have hreg := (State.regWrite_clk s source w h4 hlo hhi hs).trans hw
  have halone : t.mirrors = false := by
    obtain ⟨-, -, -, -, hmirrors⟩ := ho
    rw [State.mirrors_congr (hg _ (by simp [pairFlds])) (hg _ (by simp [pairFlds]))]
    exact hmirrors
  rw [State.busWrite_open ho h4 (by omega) (by rw [hreg]; exact halone), hreg]

/-! ## SUSPECT (R97) -/

theorem suspect_keys : ∀ n < 8, (∀ f ∈ CLK.REF_SUSPECT n :: sumFlds, f.key ≠ (CLK.REF_QSTATE n).key ∧ ∀ g ∈ pairFlds, f.key ≠ g.key) ∧
    (∀ f ∈ sumFlds, f.key ≠ (CLK.REF_SUSPECT n).key) ∧ (∀ k < 8, k ≠ n → (CLK.REF_SUSPECT k).key ≠ (CLK.REF_SUSPECT n).key) ∧
    inSplit (0xA011C + 0x40 * n) = false := by decide +kernel

theorem State.spoilSecond_writes (l : List Fld) (s : State) (n : Nat) : State.ClkWrites l s (s.spoilSecond n) :=
  .foldl (fun s d _ => by
    split
    · exact .clk l s _
    · exact .refl l s) s

theorem State.suspectClear_writes (s : State) (n : Nat) : State.Writes (CLK.REF_SUSPECT n :: sumFlds) s (s.suspectClear n) := by
  unfold State.suspectClear
  split
  · exact (State.Writes.set (List.mem_cons_self ..) s 0).trans ((State.refSum_writes _ n).mono (fun _ hf => List.mem_cons_of_mem _ hf))
  · exact .refl _ s

theorem State.suspect_suspectClear (s : State) {n : Nat} (hn : n < 8) : (s.suspectClear n).on (CLK.REF_SUSPECT n) = false := by
  obtain ⟨-, hsum, -⟩ := suspect_keys n hn
  unfold State.suspectClear
  split
  · rw [State.on_congr ((State.refSum_writes _ n).get _ hsum)]
    exact decide_eq_false (not_not_intro ((State.get_set_self s _ 0).trans (Nat.zero_mod _)))
  · next h => exact Bool.eq_false_of_not_eq_true h

/-- SUSPECT of reference n is cleared, the second in progress spoiled where it was set. -/
def State.unsuspect (s : State) (n : Nat) : State := (s.spoilSecond n).suspectClear n

theorem State.unsuspect_writes (s : State) (n : Nat) : State.ClkWrites (CLK.REF_SUSPECT n :: sumFlds) s (s.unsuspect n) :=
  (s.spoilSecond_writes _ n).trans (.of_writes (State.suspectClear_writes _ n))

/-- A write of 1 to SUSPECT in REFn_STATUS clears it. -/
theorem State.writeClk_suspectClear (s : State) (source : Nat) {n : Nat} (hn : n < 8) :
    s.writeClk source (0xA011C + 0x40 * n) (2 ^ (CLK.REF_SUSPECT n).lo) = s.unsuspect n := by
  have hrefs : 0xA0100 ≤ 0xA011C + 0x40 * n ∧ 0xA011C + 0x40 * n < 0xA0300 := by omega
  have hinst : instOf 0xA0100 0x40 (0xA011C + 0x40 * n) = (n, 0x1C) := by
    have hadd : 0xA011C + 0x40 * n = 0xA0100 + 0x40 * n + 0x1C := by omega
    rw [hadd]
    exact instOf_add (by decide)
  have hbit : (2 ^ (CLK.REF_SUSPECT n).lo).testBit (CLK.REF_SUSPECT n).lo = true := Nat.testBit_two_pow_self
  simp only [State.writeClk, if_pos hrefs, hinst]
  rw [if_neg (by decide), if_neg (by decide), if_pos (by decide), if_pos hbit]
  simp only [hostSuspectClearWrite, if_pos hn, nextOf, State.unsuspect]

theorem suspectClearWrite_clears {s : State} {source n : Nat} (hn : n < 8) (ho : s.busOpen (0xA011C + 0x40 * n)) :
    ∃ t, Machine.exec (.suspectClearWrite source n) s = .next t ∧ t = { s with regs := t.regs, clk := t.clk } ∧
      t.on (CLK.REF_SUSPECT n) = false ∧ t.get (CLK.REF_QSTATE n) = s.get (CLK.REF_QSTATE n) := by
  obtain ⟨hkeys, -, -, hsplit⟩ := suspect_keys n hn
  have hwrites := s.unsuspect_writes n
  have hw := s.writeClk_suspectClear source hn
  have hbus := State.busWrite_clk ho (by omega) (by omega) (by omega) hsplit hw (fun f hf => hwrites.get f (fun g hg => (hkeys g hg).2 f hf))
  refine ⟨_, (State.rowWrite_of hn).trans (congrArg _ hbus), hwrites.rest, State.suspect_suspectClear _ hn, ?_⟩
  exact hwrites.get _ (fun g hg => (hkeys g hg).1)

/-- Clearing SUSPECT of some references leaves that of the others. -/
theorem State.suspect_foldl_unsuspect {xs : List Nat} (h : ∀ n ∈ xs, n < 8) {k : Nat} (hk : k < 8) (s : State) :
    (xs.foldl State.unsuspect s).on (CLK.REF_SUSPECT k) = (s.on (CLK.REF_SUSPECT k) && !decide (k ∈ xs)) := by
  induction xs generalizing s with
  | nil => simp
  | cons n xs ih =>
    obtain ⟨-, hsum, hne, -⟩ := suspect_keys k hk
    rw [List.foldl_cons, ih (fun m hm => h m (List.mem_cons_of_mem _ hm))]
    by_cases hkn : k = n
    · subst hkn
      have hoff : (s.unsuspect k).on (CLK.REF_SUSPECT k) = false := State.suspect_suspectClear _ hk
      simp [hoff]
    · have hkeep : (s.unsuspect n).on (CLK.REF_SUSPECT k) = s.on (CLK.REF_SUSPECT k) := State.on_congr ((s.unsuspect_writes n).get _ (by
        intro g hg
        rcases List.mem_cons.1 hg with rfl | hg
        · exact hne n (h n (List.mem_cons_self ..)) (fun e => hkn e.symm)
        · exact hsum g hg))
      simp [hkeep, hkn]

theorem suspectClear_clears {s : State} {m : Nat} {r : Req} (hb : s.barred 0x0309 r = none) (hm : m ≤ 255) :
    ∃ t, Machine.exec (.suspectClear r [⟨1, 1, m⟩]) s = .next t ∧
      t.cmd = { s.cmd with results := s.cmd.results ++ [⟨r.channel, r.tag, 0x0309, Reply.ok []⟩] } ∧
      t = { s with regs := t.regs, clk := t.clk, cmd := t.cmd } ∧
      ∀ k, k < 8 → t.on (CLK.REF_SUSPECT k) = (s.on (CLK.REF_SUSPECT k) && !m.testBit k) := by
  let t := ((List.range 8).filter (fun n => m.testBit n)).foldl State.unsuspect s
  have hmem : ∀ n ∈ (List.range 8).filter (fun n => m.testBit n), n < 8 := fun n hn => List.mem_range.1 (List.mem_of_mem_filter hn)
  have hwrites : State.ClkWrites ((List.range 8).map CLK.REF_SUSPECT ++ sumFlds) s t := .foldl (fun u n hn => by
    have hn' := List.mem_of_mem_filter hn
    have h := u.unsuspect_writes n
    refine ⟨h.rest, fun f hf => h.get f (fun g hg => hf g ?_)⟩
    rcases List.mem_cons.1 hg with rfl | hg
    · exact List.mem_append_left _ (List.mem_map_of_mem hn')
    · exact List.mem_append_right _ hg) s
  have hok : s.refuses r 0x0309 [preq 1 1 0 255] [⟨1, 1, m⟩] = none := by
    refine State.refuses_none (tys := [1]) hb ?_ rfl (by decide) rfl
    simp only [List.mem_singleton, forall_eq]
    exact tlvOk_of rfl rfl ⟨Nat.zero_le _, hm⟩ rfl
  have hcmd : t.cmd = s.cmd := by rw [hwrites.rest]
  have hexec : Machine.exec (.suspectClear r [⟨1, 1, m⟩]) s = .next (t.finish r 0x0309 (Reply.ok [])) := by
    have hx : Machine.exec (.suspectClear r [⟨1, 1, m⟩]) s = execSuspectClear r [⟨1, 1, m⟩] s := rfl
    rw [hx]
    exact runCmd_of hok rfl
  refine ⟨_, hexec, State.cmd_finish_of hcmd r _ _, ?_, fun k hk => ?_⟩
  · have hrest := hwrites.rest
    change t.finish r 0x0309 _ = _
    unfold State.finish
    rw [hrest]
  · refine (State.suspect_foldl_unsuspect hmem hk s).trans ?_
    simp [hk]

/-! ## Enabling a reference (R91, R95, R119) -/

/-- What the statics of reference n are made of, besides TYPE. -/
def refModeFlds (n : Nat) : List Fld := [CLK.REF_EDGE n, CLK.REF_SRC 7, CLK.REF_PHASE_MODE n, CLK.REF_CFG_ERR n]

/-- What enabling reference n writes before its state. -/
def refCfgFlds (n : Nat) : List Fld := [CLK.REF_FREQ n, CLK.REF_TYPE n, CLK.REF_ENABLE n] ++ refModeFlds n

theorem refCfg_keys : ∀ n < 8, (∀ f ∈ refCfgFlds n, f.key ≠ CLK.INT.key ∧ ∀ g ∈ pairFlds, f.key ≠ g.key) ∧
    (∀ f ∈ refModeFlds n, f.key ≠ (CLK.REF_TYPE n).key ∧ f.key ≠ (CLK.REF_ENABLE n).key) ∧
    (CLK.REF_FREQ n).key ≠ (CLK.REF_TYPE n).key ∧ (CLK.REF_FREQ n).key ≠ (CLK.REF_ENABLE n).key ∧
    (CLK.REF_TYPE n).key ≠ (CLK.REF_ENABLE n).key ∧ (∀ g ∈ pairFlds, among (refStateFlds n) g.key = false) ∧
    inSplit (0xA0100 + 0x40 * n) = false := by decide +kernel

theorem State.refCfgErr_writes (s : State) (n : Nat) : State.Writes (refModeFlds n) s (s.refCfgErr n) := by
  have hset : State.Writes (refModeFlds n) s (s.setOn (CLK.REF_CFG_ERR n)
      (decide (n < 4) && !(refTypeOk (s.get (CLK.REF_TYPE n)) (s.get (CLK.REF_FREQ n))))) := .set (by simp [refModeFlds]) s _
  unfold State.refCfgErr
  dsimp only
  split
  · exact hset.trans (.set (by simp [refModeFlds]) _ _)
  · exact hset

/-- TYPE of a reference that has one. -/
def State.putType (s : State) (n type : Nat) : State := if n < 4 then s.set (CLK.REF_TYPE n) type else s

/-- Behind TYPE, the statics are written with CFG_ERR. -/
theorem State.refStatics_writes (s : State) (n type edge mode src : Nat) :
    State.Writes (refModeFlds n) (s.putType n type) (s.refStatics n type edge mode src) := by
  let e := (s.putType n type).set (CLK.REF_EDGE n) edge
  have he : State.Writes (refModeFlds n) (s.putType n type) e := .set (by simp [refModeFlds]) _ _
  let u := if n = 7 then e.set (CLK.REF_SRC 7) src else e
  have hu : State.Writes (refModeFlds n) (s.putType n type) u := by
    change State.Writes _ _ (if n = 7 then e.set (CLK.REF_SRC 7) src else e)
    split
    · exact he.trans (.set (by simp [refModeFlds]) e src)
    · exact he
  have hmode : ∀ v, State.Writes (refModeFlds n) (s.putType n type) ((u.set (CLK.REF_PHASE_MODE n) v).refCfgErr n) := fun v =>
    (hu.trans (.set (by simp [refModeFlds]) u v)).trans (State.refCfgErr_writes _ n)
  unfold State.refStatics
  dsimp only
  split
  · exact hmode _
  · exact hmode _

theorem State.putType_writes (s : State) (n type : Nat) : State.Writes [CLK.REF_TYPE n] s (s.putType n type) := by
  unfold State.putType
  split
  · exact .set (List.mem_singleton_self _) s type
  · exact .refl _ s

theorem State.refEnable_of_off {s : State} {n : Nat} (h : s.on (CLK.REF_ENABLE n) = false) :
    s.refEnable n true = ((s.set (CLK.REF_ENABLE n) 1).refCfgErr n).refQState n 1 := by
  simp [State.refEnable, h]

/-- The keys of what enabling writes before the state of the reference. -/
theorem State.cfg_step {s t : State} {n : Nat} (hn : n < 8) {l : List Fld} (h : State.Writes l s t) (hl : ∀ f ∈ l, f ∈ refCfgFlds n) :
    State.ClkStep (among (refCfgFlds n)) s t := by
  obtain ⟨hint, -⟩ := refCfg_keys n hn
  exact .of_writes h hl (fun f hf => (hint f (hl f hf)).1)

theorem refModeFlds_cfg (n : Nat) : ∀ f ∈ refModeFlds n, f ∈ refCfgFlds n := fun _ hf => List.mem_append_right _ hf

/-- A disabled reference is configured and enabled: it is INACTIVE. -/
theorem State.refEnable_refStatics {s : State} {n : Nat} (hn : n < 8) (hen : s.on (CLK.REF_ENABLE n) = false) (type edge mode src : Nat) :
    let t := (s.refStatics n type edge mode src).refEnable n true
    State.ClkStep (among (refCfgFlds n ++ refStateFlds n)) s t ∧ t.on (CLK.REF_ENABLE n) = true ∧ t.get (CLK.REF_QSTATE n) = 1 ∧
      t.get (CLK.REF_TYPE n) = (s.putType n type).get (CLK.REF_TYPE n) := by
  obtain ⟨-, hmode, -, -, htype, -⟩ := refCfg_keys n hn
  obtain ⟨hkept, -⟩ := refState_keys n hn
  let u := s.refStatics n type edge mode src
  have hstatics : State.Writes (refModeFlds n) (s.putType n type) u := s.refStatics_writes n type edge mode src
  have hoff : u.on (CLK.REF_ENABLE n) = false := by
    rw [State.on_congr (hstatics.get _ (fun f hf => (hmode f hf).2)), State.on_congr ((s.putType_writes n type).get _ (by simpa using htype))]
    exact hen
  let v := (u.set (CLK.REF_ENABLE n) 1).refCfgErr n
  have herr : State.Writes (refModeFlds n) (u.set (CLK.REF_ENABLE n) 1) v := State.refCfgErr_writes _ n
  have hv : State.ClkStep (among (refCfgFlds n)) s v :=
    ((State.cfg_step hn (s.putType_writes n type) (by simp [refCfgFlds])).trans (State.cfg_step hn hstatics (refModeFlds_cfg n))).trans
      ((State.cfg_step hn (.set (List.mem_singleton_self _) u 1) (by simp [refCfgFlds])).trans (State.cfg_step hn herr (refModeFlds_cfg n)))
  have hlast := v.refQState_step hn 1
  intro t
  have ht : t = v.refQState n 1 := State.refEnable_of_off hoff
  rw [ht]
  refine ⟨(hv.mono (among_mono (fun _ hf => List.mem_append_left _ hf))).trans (hlast.mono (among_mono (fun _ hf => List.mem_append_right _ hf))), ?_,
    State.qstate_refQState v hn (by decide), ?_⟩
  · rw [hlast.on (hkept _ (by simp [refKept])), State.on_congr (herr.get _ (fun f hf => (hmode f hf).2))]
    exact State.on_of_get (State.get_set_self u _ 1)
  · rw [hlast.get _ (hkept _ (by simp [refKept])), herr.get _ (fun f hf => (hmode f hf).1), State.get_set_of_ne u htype.symm,
      hstatics.get _ (fun f hf => (hmode f hf).1)]

/-- The parameters that enable reference n. -/
def refEnableTlvs (n : Nat) : List Tlv := [⟨1, 1, n⟩, ⟨2, 1, 1⟩]

theorem refSet_enables {s : State} {n : Nat} {r : Req} (hn : n < 8) (hb : s.barred 0x0302 r = none) (hen : s.on (CLK.REF_ENABLE n) = false)
    (hty : n < 4 → refTypeOk (s.get (CLK.REF_TYPE n)) (s.get (CLK.REF_FREQ n)) = true) :
    ∃ t, Machine.exec (.refSet r (refEnableTlvs n)) s = .next t ∧
      t.cmd = { s.cmd with results := s.cmd.results ++ [⟨r.channel, r.tag, 0x0302, Reply.ok []⟩] } ∧
      s.sameButEvents { t with cmd := s.cmd, clk := s.clk } ∧ t.on (CLK.REF_ENABLE n) = true ∧ t.get (CLK.REF_QSTATE n) = 1 ∧
      t.get (CLK.REF_TYPE n) = s.get (CLK.REF_TYPE n) := by
  obtain ⟨-, -, hfreqType, hfreqEn, -⟩ := refCfg_keys n hn
  let f := s.set (CLK.REF_FREQ n) (s.get (CLK.REF_FREQ n))
  have hfen : f.on (CLK.REF_ENABLE n) = false := (State.on_congr (State.get_set_of_ne s hfreqEn _)).trans hen
  have hftype : f.get (CLK.REF_TYPE n) = s.get (CLK.REF_TYPE n) := State.get_set_of_ne s hfreqType _
  obtain ⟨hstep, hon, hq, htype⟩ := State.refEnable_refStatics hn hfen (s.get (CLK.REF_TYPE n)) (s.get (CLK.REF_EDGE n))
    (s.get (CLK.REF_PHASE_MODE n)) (s.get (CLK.REF_SRC n))
  have hall := (State.cfg_step hn (.set (List.mem_singleton_self _) s _) (by simp [refCfgFlds])).mono
    (among_mono (fun _ hf => List.mem_append_left (refStateFlds n) hf)) |>.trans hstep
  have hok : s.refuses r 0x0302 refSetParams (refEnableTlvs n) = none := by
    refine State.refuses_none (tys := [1, 2]) hb ?_ rfl (by decide) rfl
    simp only [refEnableTlvs, List.mem_cons, List.not_mem_nil, or_false, forall_eq_or_imp, forall_eq]
    exact ⟨tlvOk_of rfl rfl ⟨Nat.zero_le _, Nat.le_of_lt_succ hn⟩ rfl, tlvOk_of rfl rfl (by decide) rfl⟩
  have hexec : Machine.exec (.refSet r (refEnableTlvs n)) s = .next (((f.refStatics n (s.get (CLK.REF_TYPE n)) (s.get (CLK.REF_EDGE n))
      (s.get (CLK.REF_PHASE_MODE n)) (s.get (CLK.REF_SRC n))).refEnable n true).finish r 0x0302 (Reply.ok [])) := by
    have hgood : ¬ (n < 4 ∧ (!refTypeOk (s.get (CLK.REF_TYPE n)) (s.get (CLK.REF_FREQ n))) = true) := fun ⟨h4, hbad⟩ => by simp [hty h4] at hbad
    have hidle : ∀ b, ¬ (s.on (CLK.REF_ENABLE n) && b) = true := fun b => by simp [hen]
    have hx : Machine.exec (.refSet r (refEnableTlvs n)) s = execRefSet r (refEnableTlvs n) s := rfl
    rw [hx]
    exact runCmd_of hok ((if_neg hgood).trans (if_neg (hidle _)))
  have hcmd := hall.rest
  refine ⟨_, hexec, State.cmd_finish_of (by rw [hcmd]) r _ _, ?_, hon, hq, htype.trans ?_⟩
  · exact hall.clkOnly_finish r _ _
  · unfold State.putType
    split
    · rw [State.get_set_self, Nat.mod_eq_of_lt (State.get_lt s _)]
    · exact hftype

theorem instOf_ref (n : Nat) : instOf 0xA0100 0x40 (0xA0100 + 0x40 * n) = (n, 0) := by
  have hadd := instOf_add (base := 0xA0100) (stride := 0x40) (i := n) (o := 0) (by decide)
  rwa [Nat.add_zero] at hadd

/-- A write of REFn_CFG goes to the reference. -/
theorem State.writeClk_refCfg (s : State) (source : Nat) {n : Nat} (hn : n < 8) (v : Word) :
    s.writeClk source (0xA0100 + 0x40 * n) v.toNat = nextOf s (hostRefEnableWrite source n (BitVec.ofNat 32 v.toNat) s) := by
  have hrefs : 0xA0100 ≤ 0xA0100 + 0x40 * n ∧ 0xA0100 + 0x40 * n < 0xA0300 := by omega
  simp only [State.writeClk, if_pos hrefs, instOf_ref, if_true]

/-- Such a write with ENABLE 1, of a disabled reference. -/
theorem hostRefEnableWrite_enables {s : State} (source : Nat) {n : Nat} (hn : n < 8) (hen : s.on (CLK.REF_ENABLE n) = false) {v : Word}
    (hv : v.toNat % 2 = 1) :
    hostRefEnableWrite source n v s = .next ((s.refStatics n (v.toNat / 16 % 8) (v.toNat / 128 % 2) (v.toNat / 256 % 2)
      (v.toNat / 4096 % 16)).refEnable n true) := by
  have hbit : v.toNat.testBit 0 = true := by simp [hv]
  simp only [hostRefEnableWrite, if_pos hn, hen, Bool.false_and, Bool.false_eq_true, if_false, hbit]

theorem refEnableWrite_enables {s : State} {source n : Nat} {v : Word} (hn : n < 8) (ho : s.busOpen (0xA0100 + 0x40 * n))
    (hen : s.on (CLK.REF_ENABLE n) = false) (hv : v.toNat % 2 = 1) :
    ∃ t, Machine.exec (.refEnableWrite source n v) s = .next t ∧ s.sameButEvents { t with clk := s.clk } ∧ t.on (CLK.REF_ENABLE n) = true ∧
      t.get (CLK.REF_QSTATE n) = 1 ∧ (n < 4 → t.get (CLK.REF_TYPE n) = v.toNat / 16 % 8) := by
  obtain ⟨hcfg, -, -, -, -, hstate, hsplit⟩ := refCfg_keys n hn
  obtain ⟨hstep, hon, hq, htype⟩ := State.refEnable_refStatics hn hen (v.toNat / 16 % 8) (v.toNat / 128 % 2) (v.toNat / 256 % 2)
    (v.toNat / 4096 % 16)
  have hpair : ∀ f ∈ pairFlds, among (refCfgFlds n ++ refStateFlds n) f.key = false := fun f hf => by
    have hst := hstate f hf
    simp only [among, Bool.or_eq_false_iff, List.any_append] at hst ⊢
    exact ⟨hst.1, by simpa using fun g hg => (hcfg g hg).2 f hf, hst.2⟩
  have hw : s.writeClk source (0xA0100 + 0x40 * n) v.toNat = (s.refStatics n (v.toNat / 16 % 8) (v.toNat / 128 % 2) (v.toNat / 256 % 2)
      (v.toNat / 4096 % 16)).refEnable n true := by
    rw [s.writeClk_refCfg source hn, BitVec.ofNat_toNat, BitVec.setWidth_eq, hostRefEnableWrite_enables source hn hen hv, nextOf]
  have hbus := State.busWrite_clk ho (by omega) (by omega) (by omega) hsplit hw (fun f hf => hstep.get f (hpair f hf))
  refine ⟨_, (State.rowWrite_of hn).trans (congrArg _ hbus), hstep.clkOnly, hon, hq, fun h4 => htype.trans ?_⟩
  rw [State.putType, if_pos h4, State.get_set_self]
  exact Nat.mod_mod _ 8

/-! ## Limits (R118) -/

theorem monSet_writes {s : State} {n a m : Nat} {r : Req} (hn : n < 8) (hb : s.barred 0x0303 r = none) (ha : a < 2 ^ 27) (hm : m < 2 ^ 16) :
    ∃ t, Machine.exec (.monSet r [⟨1, 1, n⟩, ⟨2, 4, a⟩, ⟨5, 2, m⟩]) s = .next t ∧ s.records t r 0x0303 (Reply.ok []) ∧ s.sameUnits t ∧
      t.get (CLK.REF_ACCEPT n) = a ∧ t.get (CLK.REF_PERSIST n) = m := by
  have hkeys : ∀ n < 8, ((monSetFlds n).map (fun f => f.fld.key)).Nodup ∧ among disagreeFlds (CLK.REF_ACCEPT n).key = false ∧
      among disagreeFlds (CLK.REF_PERSIST n).key = false := by decide +kernel
  obtain ⟨hnd, hacc, hper⟩ := hkeys n hn
  let p : List Tlv := [⟨1, 1, n⟩, ⟨2, 4, a⟩, ⟨5, 2, m⟩]
  let put := writeFlds s p (monSetFlds n)
  have hok : s.refuses r 0x0303 monSetParams p = none := by
    refine State.refuses_none (tys := [1, 2, 5]) hb ?_ rfl (by decide) rfl
    simp only [p, List.mem_cons, List.not_mem_nil, or_false, forall_eq_or_imp, forall_eq]
    refine ⟨tlvOk_of rfl rfl ⟨Nat.zero_le _, Nat.le_of_lt_succ hn⟩ rfl, tlvOk_of rfl rfl ⟨Nat.zero_le _, ?_⟩ rfl,
      tlvOk_of rfl rfl ⟨Nat.zero_le _, ?_⟩ rfl⟩ <;> simp only [popt] <;> omega
  have hexec : Machine.exec (.monSet r p) s = .next (put.disagreeAll.finish r 0x0303 (Reply.ok [])) := by
    have hx : Machine.exec (.monSet r p) s = execMonSet r p s := rfl
    rw [hx]
    exact runCmd_of hok rfl
  have hput : State.Writes ((monSetFlds n).map PFld.fld) s put := writeFlds_writes p (by simp [monSetFlds, Upd.waits]) s
  have hstep : s.sameButEvents put.disagreeAll := put.disagreeAll_step.behind_writes hput put.clk_disagreeAll
  have hcmd : put.disagreeAll.cmd = s.cmd := by
    unfold State.sameButEvents at hstep
    rw [hstep]
  refine ⟨_, hexec, State.cmd_finish_of hcmd r _ _, ?_, ?_, ?_⟩
  · unfold State.sameButEvents at hstep
    unfold State.sameUnits State.finish
    rw [hstep]
  · rw [State.get_finish, put.disagreeAll_step.get _ hacc]
    exact get_writeFlds_at hnd s 0 (f := ⟨2, CLK.REF_ACCEPT n, .live⟩) rfl rfl ha
  · rw [State.get_finish, put.disagreeAll_step.get _ hper]
    exact get_writeFlds_at hnd s 3 (f := ⟨5, CLK.REF_PERSIST n, .live⟩) rfl rfl hm

end Sys2Proof.Machine

end

