-- ==== Sys2Proof/Proofs/HearthReferencesQualify.lean ====
section

namespace Sys2Proof.Machine

/-- Settles O8: each clause is the step of one command, by what a qualification state, a loss of activity and a disqualification write. -/
theorem referencesQualifyAndFail : Obligations.ReferencesQualifyAndFail := by
  unfold Obligations.ReferencesQualifyAndFail
  intro s n source a m d b c ofs used r v hn clkOnly q en m0 answers
  refine ⟨?gain, ?loss, ?edge, ?edges, ?gateIn, ?gateOut, ?driftFirst, ?drift, ?clearWrite, ?clear, ?set, ?setWrite, ?limits⟩
  case gain => exact fun hen h6 h7 hxo herr hq => refActivityGain_qualifies hn hen h6 h7 hxo herr hq
  case loss => exact fun hen h6 hq => refActivityLoss_disqualifies hn hen h6 hq
  case edge => exact fun hen h4 hty hrun => ppsEdgeReject_counts h4 hen hty hrun
  case edges => exact fun hen h4 hty hrun => ppsEdgeReject_loses h4 hen hty hrun
  case gateIn => exact fun hen hact hbase hq hacc hsus htime => freqGateClose_qualifies hn hen hact hbase hq hacc hsus htime
  case gateOut => exact fun hen hact hbase hq hacc hm => freqGateClose_restarts hn hen hact hbase hq hacc hm
  case driftFirst => exact fun hq hprev => driftWindowClose_opens hn hq hprev
  case drift => exact fun hq hprev hsum hcount hlim hover hact => driftWindowClose_suspects hn hq hprev hsum hcount hlim hover hact
  case clearWrite => exact fun ho => suspectClearWrite_clears hn ho
  case clear => exact fun hb hm => suspectClear_clears hb hm
  case set => exact fun hb hen hty => refSet_enables hn hb (Bool.eq_false_of_not_eq_true hen) hty
  case setWrite => exact fun ho hen hv => refEnableWrite_enables hn ho (Bool.eq_false_of_not_eq_true hen) hv
  case limits => exact fun hb ha hm => monSet_writes hn hb ha hm

end Sys2Proof.Machine

end

