-- ==== Sys2Proof/Proofs/HearthDplls.lean ====
section

namespace Sys2Proof.Machine

/-! ## Steps of a DPLL -/

/-- A step of Hearth in which a DPLL but DPLL0, which the servo and the counter follow, touches no other unit. -/
structure State.DpllStep (d : Nat) (P : Nat → Bool) (s t : State) : Prop extends State.Hearth P s t where
  rest : d ≠ 0 → t = { s with regs := t.regs, que := t.que, dma := { s.dma with msi := t.dma.msi }, clk := t.clk, freeCtr := t.freeCtr }

namespace State.DpllStep

variable {d : Nat} {P Q : Nat → Bool} {s t u : State}

theorem trans (a : DpllStep d P s t) (b : DpllStep d P t u) : DpllStep d P s u := by
  refine ⟨a.toHearth.trans b.toHearth, fun hd => ?_⟩
  have h := b.rest hd
  rw [a.rest hd] at h
  exact h

theorem mono (h : ∀ k, P k = true → Q k = true) (a : DpllStep d P s t) : DpllStep d Q s t := ⟨a.toHearth.mono h, a.rest⟩

theorem refl (d : Nat) (P : Nat → Bool) (s : State) : DpllStep d P s s := ⟨.refl P s, fun _ => rfl⟩

theorem of_clk (a : State.ClkStep P s t) : DpllStep d P s t := by
  refine ⟨a.toHearth, fun _ => ?_⟩
  have h := a.rest
  rw [h]

theorem put {l : List Fld} {f : Fld} (h : f ∈ l) (hi : f.key ≠ CLK.INT.key) (s : State) (v : Nat) : DpllStep d (among l) s (s.set f v) :=
  .of_clk (.put h hi s v)

theorem ite {c : Prop} [Decidable c] (a : DpllStep d P s t) (b : DpllStep d P s u) : DpllStep d P s (if c then t else u) := by
  split
  · exact a
  · exact b

/-- No unit but Hearth is touched. -/
theorem clkOnly (a : DpllStep d P s t) (hd : d ≠ 0) : s.sameButEvents { t with clk := s.clk, freeCtr := s.freeCtr } := by
  unfold State.sameButEvents
  rw [a.rest hd]

end State.DpllStep

/-- A step of the time engine, seen from Hearth. -/
theorem State.Hearth.of_time {l : List Fld} {s t : State} (h : State.TimeStep (among l) s t) (hint : among l CLK.INT.key = false)
    (hincr : among l TIME.INCR_LO.key = true) : State.Hearth (among l) s t :=
  .of_get h.get (h.get _ hint) (fun hq => absurd hincr (by simp [hq]))

theorem State.servoFollow_step (s : State) : State.TimeStep (among servoFlds) s s.servoFollow := by
  unfold State.servoFollow
  extract_lets st onRef auto a
  let active := s.set TIME.STATUS_ACTIVE_PORT a
  have hset : State.TimeStep (among servoFlds) s active := .write (by simp [servoFlds]) (by decide) s a
  have hload : State.TimeStep (among servoFlds) active active.preloadI := .engine _ active rfl rfl
  have hacquire : State.TimeStep (among servoFlds) s (active.preloadI.servoEnter 1) :=
    (hset.trans hload).trans (State.servoEnter_step _ (by decide))
  have hmonitor : State.TimeStep (among servoFlds) s (s.servoEnter 0) := s.servoEnter_step (by decide)
  exact .ite (.ite hacquire (.refl _ s)) (.ite (.refl _ s) hmonitor)

theorem State.clk_servoFollow (s : State) : s.servoFollow.clk = s.clk :=
  (congrArg (fun t : State => t.clk) s.servoFollow_step.rest).trans rfl

@[simp] theorem State.dpll_cksPins (s : State) (d : Nat) : s.cksPins.dpll d = s.dpll d := by
  have h : s.cksPins.clk.dplls = s.clk.dplls := by
    unfold State.cksPins
    dsimp only
    split_ifs <;> rfl
  rw [State.dpll, State.dpll, h]

/-! ### Fields that a DPLL writes -/

/-- What a change of state writes. -/
def dpllStateFlds (d : Nat) : List Fld := [CLK.INT, CLK.DPLL_STATE d, CLK.DPLL_LOCK_LOSS_CNT d] ++ servoFlds

/-- What the end of an evaluation writes. -/
def dpllTailFlds (d : Nat) : List Fld := [CLK.INT, CLK.DPLL_WTR_RUN d, CLK.DPLL_REF_DISAGREE d]

/-- What entering ACQUIRE writes. -/
def acquireFlds (d : Nat) : List Fld := [CLK.DPLL_HO_AGE d, CLK.DPLL_BW d, CLK.DPLL_HO_IN_SPEC d] ++ dpllStateFlds d

/-- Fields of a DPLL other than the flags. -/
def dpllOwnFlds (d : Nat) : List Fld :=
  [CLK.DPLL_STATE d, CLK.DPLL_LOCK_LOSS_CNT d, CLK.DPLL_WTR_RUN d, CLK.DPLL_REF_DISAGREE d, CLK.DPLL_HO_AGE d, CLK.DPLL_BW d,
    CLK.DPLL_HO_IN_SPEC d, CLK.DPLL_SEL_VALID d, CLK.DPLL_SEL_REF d, CLK.DPLL_SWITCH_CNT d, CLK.DPLL_FREQ d, CLK.DPLL_PHASE_ERR d,
    CLK.DPLL_HO_VALID d, CLK.DPLL_HO_FREQ d]

theorem dpllOwn_int : ∀ d < 4, ∀ f ∈ dpllOwnFlds d, f.key ≠ CLK.INT.key := by decide +kernel

theorem servo_quiet : among servoFlds CLK.INT.key = false ∧ among servoFlds TIME.INCR_LO.key = true ∧ among [CLK.INT] TIME.INCR_LO.key = false := by
  decide +kernel

/-- A field of a DPLL is written. -/
theorem State.putDpll {d : Nat} (hd : d < 4) {l : List Fld} {f : Fld} (hf : f ∈ dpllOwnFlds d) (h : f ∈ l) (s : State) (v : Nat) :
    State.DpllStep d (among l) s (s.set f v) := .put h (dpllOwn_int d hd f hf) s v

/-! ### Changes of state (R103) -/

/-- DPLL d in its new state, before the servo and the pins follow DPLL0. -/
def State.dpllMoved (s : State) (d st : Nat) : State :=
  let old := s.get (CLK.DPLL_STATE d)
  let s := s.set (CLK.DPLL_STATE d) st
  let s := if st = old then s else
    let s := if old = 2 ∧ st ≠ 0 then (s.count (CLK.DPLL_LOCK_LOSS_CNT d)).setBit CLK.INT CLK.INT_LOCK_LOSS true else s
    let sel := if s.on (CLK.DPLL_SEL_VALID d) then s.get (CLK.DPLL_SEL_REF d) else 0xFF
    s.signal CLK.INT CLK.INT_EN CLK.INT_STATE 0x0305 8 d [BitVec.ofNat 8 old, BitVec.ofNat 8 st, BitVec.ofNat 8 sel]
  let x := s.dpll d
  s.setDpll d { x with secLocked := x.secLocked && st == 2, dwell := 0, bad := 0 }

theorem State.dpllState_eq (s : State) (d st : Nat) :
    s.dpllState d st = if d = 0 then (s.dpllMoved d st).servoFollow.cksPins else s.dpllMoved d st := rfl

theorem dpllState_keys : ∀ d < 4, among servoFlds (CLK.DPLL_STATE d).key = false ∧ among servoFlds (CLK.DPLL_LOCK_LOSS_CNT d).key = false ∧
    among [CLK.INT, CLK.DPLL_LOCK_LOSS_CNT d] (CLK.DPLL_STATE d).key = false ∧ among [CLK.INT] (CLK.DPLL_LOCK_LOSS_CNT d).key = false ∧
    (CLK.DPLL_STATE d).key ≠ (CLK.DPLL_LOCK_LOSS_CNT d).key := by decide +kernel

/-- The loss of lock is counted and flagged. -/
def State.lockLost (s : State) (d : Nat) : State := (s.count (CLK.DPLL_LOCK_LOSS_CNT d)).setBit CLK.INT CLK.INT_LOCK_LOSS true

theorem State.Hearth.setFlag {P : Nat → Bool} (h : P CLK.INT.key = true) (s : State) (i : Nat) : State.Hearth P s (s.setBit CLK.INT i true) :=
  ⟨fun _ hg => State.get_set_of_ne _ (fun e => by rw [e, hg] at h; cases h) _, fun _ hj hb => s.bit_setBit_of_bit CLK.INT i hj hb, fun _ => rfl⟩

theorem State.lockLost_step (s : State) {d : Nat} (hd : d < 4) : State.ClkStep (among [CLK.INT, CLK.DPLL_LOCK_LOSS_CNT d]) s (s.lockLost d) :=
  (State.ClkStep.put (by simp) (dpllOwn_int d hd _ (by simp [dpllOwnFlds])) s _).trans ⟨.setFlag (among_of_mem (by simp)) _ _, rfl⟩

/-- The signal of a change of state. -/
def State.stateSignal (s : State) (d old st : Nat) : State :=
  let sel := if s.on (CLK.DPLL_SEL_VALID d) then s.get (CLK.DPLL_SEL_REF d) else 0xFF
  s.signal CLK.INT CLK.INT_EN CLK.INT_STATE 0x0305 8 d [BitVec.ofNat 8 old, BitVec.ofNat 8 st, BitVec.ofNat 8 sel]

/-- STATE is written, its loss of lock recorded, and its change signalled. -/
def State.stateWritten (s : State) (d st : Nat) : State :=
  let old := s.get (CLK.DPLL_STATE d)
  let t := s.set (CLK.DPLL_STATE d) st
  if st = old then t else (if old = 2 ∧ st ≠ 0 then t.lockLost d else t).stateSignal d old st

theorem State.dpllMoved_eq (s : State) (d st : Nat) : s.dpllMoved d st = (s.stateWritten d st).setDpll d
    { (s.stateWritten d st).dpll d with secLocked := ((s.stateWritten d st).dpll d).secLocked && st == 2, dwell := 0, bad := 0 } := rfl

theorem State.clk_stateWritten (s : State) (d st : Nat) : (s.stateWritten d st).clk = s.clk := by
  unfold State.stateWritten State.stateSignal
  dsimp only
  split
  · rfl
  · rw [State.clk_signal]
    split <;> rfl

/-- Behind STATE, only the record of the change is written. -/
theorem State.stateWritten_step (s : State) {d : Nat} (hd : d < 4) (st : Nat) :
    State.ClkStep (among [CLK.INT, CLK.DPLL_LOCK_LOSS_CNT d]) (s.set (CLK.DPLL_STATE d) st) (s.stateWritten d st) := by
  unfold State.stateWritten
  extract_lets old t
  exact .ite (.refl _ t) ((State.ClkStep.ite (t.lockLost_step hd) (.refl _ t)).trans (State.signal_clk (by simp) _ _ _ _ _ _))

theorem State.dpllMoved_step (s : State) {d : Nat} (hd : d < 4) (st : Nat) :
    State.ClkStep (among (dpllStateFlds d)) s (s.dpllMoved d st) :=
  ((State.ClkStep.put (by simp [dpllStateFlds]) (dpllOwn_int d hd _ (by simp [dpllOwnFlds])) s st).trans
    ((s.stateWritten_step hd st).mono (among_mono (by simp [dpllStateFlds])))).trans (.setDpll _ _ d _)

/-- What follows DPLL0 writes nothing of Hearth's. -/
theorem State.dpllState_follows (s : State) (d st : Nat) : State.Hearth (among servoFlds) (s.dpllMoved d st) (s.dpllState d st) := by
  obtain ⟨hint, hincr, -⟩ := servo_quiet
  rw [State.dpllState_eq]
  exact .ite ((State.Hearth.of_time (State.servoFollow_step _) hint hincr).trans (.of_eq _ rfl rfl)) (.refl _ _)

theorem State.dpllState_step (s : State) {d : Nat} (hd : d < 4) (st : Nat) : State.DpllStep d (among (dpllStateFlds d)) s (s.dpllState d st) := by
  refine ⟨(s.dpllMoved_step hd st).toHearth.trans ((s.dpllState_follows d st).mono (among_mono (fun _ hf => List.mem_append_right _ hf))), fun h0 => ?_⟩
  rw [State.dpllState_eq, if_neg h0]
  have h := (s.dpllMoved_step hd st).rest
  rw [h]

theorem State.state_dpllState (s : State) {d : Nat} (hd : d < 4) {st : Nat} (h : st < 8) : (s.dpllState d st).get (CLK.DPLL_STATE d) = st := by
  obtain ⟨hservo, -, hrecord, -⟩ := dpllState_keys d hd
  rw [(s.dpllState_follows d st).get _ hservo]
  exact ((s.stateWritten_step hd st).get _ hrecord).trans ((State.get_set_self s _ st).trans (Nat.mod_eq_of_lt h))

theorem State.dpll_dpllState (s : State) {d : Nat} (hd : d < 4) (st : Nat) :
    (s.dpllState d st).dpll d = { s.dpll d with secLocked := (s.dpll d).secLocked && st == 2, dwell := 0, bad := 0 } := by
  have hmoved : (s.dpllMoved d st).dpll d = { s.dpll d with secLocked := (s.dpll d).secLocked && st == 2, dwell := 0, bad := 0 } := by
    rw [State.dpllMoved_eq, State.dpll_setDpll_self _ hd, State.dpll_congr (s.clk_stateWritten d st)]
  rw [State.dpllState_eq]
  split
  · refine Eq.trans ?_ hmoved
    rw [State.dpll_cksPins]
    exact State.dpll_congr (State.clk_servoFollow _) d
  · exact hmoved

/-- A change of state is flagged. -/
theorem State.flag_dpllState {s : State} {d st : Nat} (h : st ≠ s.get (CLK.DPLL_STATE d)) : (s.dpllState d st).bit CLK.INT CLK.INT_STATE = true := by
  refine (s.dpllState_follows d st).flag _ (by decide) ?_
  have hw : (s.stateWritten d st).bit CLK.INT CLK.INT_STATE = true := by
    unfold State.stateWritten
    rw [if_neg h]
    exact State.flag_signal_clk _ (by decide) _ _ _ _
  exact hw

/-- DPLL d leaves LOCKED for ACQUIRE or HOLDOVER: the loss of lock is flagged and counted (R103). -/
theorem State.lockLoss_dpllState {s : State} {d st : Nat} (hd : d < 4) (hold : s.get (CLK.DPLL_STATE d) = 2) (h0 : st ≠ 0) (h2 : st ≠ 2) :
    (s.dpllState d st).bit CLK.INT CLK.INT_LOCK_LOSS = true ∧
      (s.dpllState d st).get (CLK.DPLL_LOCK_LOSS_CNT d) = (s.get (CLK.DPLL_LOCK_LOSS_CNT d) + 1) % 2 ^ (CLK.DPLL_LOCK_LOSS_CNT d).w := by
  obtain ⟨-, hservo, -, hquiet, hne⟩ := dpllState_keys d hd
  have hcnt := dpllOwn_int d hd (CLK.DPLL_LOCK_LOSS_CNT d) (by simp [dpllOwnFlds])
  let t := s.set (CLK.DPLL_STATE d) st
  have hw : s.stateWritten d st = (t.lockLost d).stateSignal d 2 st := by
    unfold State.stateWritten
    rw [hold, if_neg h2, if_pos ⟨rfl, h0⟩]
  have hsignal : State.ClkStep (among [CLK.INT]) (t.lockLost d) (s.stateWritten d st) := by
    rw [hw]
    exact State.signal_clk (List.mem_singleton_self _) _ _ _ _ _ _
  refine ⟨(s.dpllState_follows d st).flag _ (by decide) ?_, ((s.dpllState_follows d st).get _ hservo).trans ?_⟩
  · exact hsignal.flag _ (by decide) (State.bit_setBit _ _ (by decide) true)
  · refine (hsignal.get _ hquiet).trans ((State.get_set_of_ne _ hcnt.symm _).trans ?_)
    rw [State.get_count_self, State.get_set_of_ne s hne]

/-! ### ACQUIRE and the end of an evaluation (R99, R100) -/

theorem State.acquire_eq (s : State) (d : Nat) (track : Bool) : s.acquire d track =
    (s.set (CLK.DPLL_BW d) (if track then (s.bwCodes d (s.get (CLK.DPLL_SEL_REF d))).2 else (s.bwCodes d (s.get (CLK.DPLL_SEL_REF d))).1)).dpllState d 1 := rfl

theorem State.acquire_step (s : State) {d : Nat} (hd : d < 4) (track : Bool) : State.DpllStep d (among (acquireFlds d)) s (s.acquire d track) :=
  (State.putDpll hd (by simp [dpllOwnFlds]) (by simp [acquireFlds]) s _).trans
    ((State.dpllState_step _ hd 1).mono (among_mono (fun _ hf => List.mem_append_right _ hf)))

theorem State.wtrRun_step (s : State) {d : Nat} (hd : d < 4) : State.DpllStep d (among (dpllTailFlds d)) s (s.wtrRun d) :=
  State.putDpll hd (by simp [dpllOwnFlds]) (by simp [dpllTailFlds]) s _

/-- The end of an evaluation. -/
def State.evaluated (s : State) (d : Nat) : State := ((s.wtrRun d).disagree d).cksPins

theorem State.evaluated_step (s : State) {d : Nat} (hd : d < 4) : State.DpllStep d (among (dpllTailFlds d)) s (s.evaluated d) :=
  ((s.wtrRun_step hd).trans (.of_clk (State.disagree_step (by simp [dpllTailFlds]) hd (by simp [dpllTailFlds]) _))).trans (.of_clk (.cksPins _ _))

theorem State.dpll_evaluated (s : State) (d : Nat) : (s.evaluated d).dpll d = s.dpll d := by
  unfold State.evaluated
  rw [State.dpll_cksPins]
  exact State.dpll_congr (State.clk_disagree (s.wtrRun d) d) d

end Sys2Proof.Machine

end

