-- ==== Sys2Proof/Proofs/HearthSelection.lean ====
section

namespace Sys2Proof.Machine

/-! ## Evaluations (R99, R101) -/

theorem State.boundary_of_none {s : State} (h : s.held = []) (u : Upd) (p : Nat → Bool) : s.boundary u p = s := by
  unfold State.boundary
  rw [h, List.filter_nil, ← h]

theorem State.eff_of_none {s : State} (h : s.held = []) (f : Fld) : s.eff f = s.get f := State.eff_of_any (by simp [h])

/-- A fold that keeps its value or takes the next of the list ends on one of the list. -/
theorem foldl_takes {g : Option Nat → Nat → Option Nat} (hg : ∀ a r x, g a r = some x → a = some x ∨ x = r) {l : List Nat} {a : Option Nat} {x : Nat}
    (h : l.foldl g a = some x) : a = some x ∨ x ∈ l := by
  induction l generalizing a with
  | nil => exact Or.inl h
  | cons r l ih =>
    rcases ih h with h | h
    · exact (hg _ _ _ h).imp id (fun e => by simp [e])
    · exact Or.inr (List.mem_cons_of_mem _ h)

/-- The reference chosen is selectable. -/
theorem State.choose_mem {s : State} {d k r : Nat} (h : s.choose d k = some r) : r ∈ s.selectables d := by
  unfold State.choose at h
  have hstep := foldl_takes (l := (s.selectables d).filter (fun r => s.rank d r == k)) (a := none) (x := r) (fun a r x hx => ?_) h
  · rcases hstep with h0 | hmem
    · cases h0
    · exact List.mem_of_mem_filter hmem
  · cases a with
    | none => exact Or.inr (Option.some.inj hx).symm
    | some a =>
      dsimp only at hx
      split at hx
      · exact Or.inr (Option.some.inj hx).symm
      · exact Or.inl hx

/-- In AUTO with no reference selected, the reference of the lowest rank is. -/
theorem State.selection_auto {s : State} {d k r : Nat} (hmode : s.eff (CLK.DPLL_MODE d) = 0) (hsel : s.on (CLK.DPLL_SEL_VALID d) = false)
    (hrank : lowestRank s d (s.selectables d) = some k) (hchoose : s.choose d k = some r) : s.selection d = (some r, false) := by
  simp [State.selection, hmode, hsel, hrank, hchoose]

/-- Reference `r` is selected, where none was. -/
def State.selected (s : State) (d r : Nat) : State :=
  let cause := if (s.dpll d).moved then 2 else 0
  let s := s.setDpll d { s.dpll d with moved := false, lastSel := some r, held := none }
  let s := (s.setOn (CLK.DPLL_SEL_VALID d) true).set (CLK.DPLL_SEL_REF d) r
  (s.count (CLK.DPLL_SWITCH_CNT d)).signal CLK.INT CLK.INT_EN CLK.INT_SWITCH 0x0306 8 d
    [BitVec.ofNat 8 0xFF, BitVec.ofNat 8 r, BitVec.ofNat 8 cause]

/-- What a selection writes. -/
def selectFlds (d : Nat) : List Fld := [CLK.INT, CLK.DPLL_SEL_VALID d, CLK.DPLL_SEL_REF d, CLK.DPLL_SWITCH_CNT d]

theorem select_keys : ∀ d < 4, among [CLK.INT] (CLK.DPLL_SEL_VALID d).key = false ∧ among [CLK.INT] (CLK.DPLL_SEL_REF d).key = false ∧
    (CLK.DPLL_SWITCH_CNT d).key ≠ (CLK.DPLL_SEL_VALID d).key ∧ (CLK.DPLL_SWITCH_CNT d).key ≠ (CLK.DPLL_SEL_REF d).key ∧
    (CLK.DPLL_SEL_REF d).key ≠ (CLK.DPLL_SEL_VALID d).key ∧
    (∀ f ∈ [CLK.DPLL_SEL_VALID d, CLK.DPLL_SEL_REF d], among (acquireFlds d) f.key = false ∧ among (dpllTailFlds d) f.key = false) ∧
    (CLK.DPLL_HO_IN_SPEC d).key ≠ (CLK.DPLL_STATE d).key ∧ among (dpllTailFlds d) (CLK.DPLL_STATE d).key = false := by decide +kernel

theorem State.selected_step (s : State) {d : Nat} (hd : d < 4) (r : Nat) : State.DpllStep d (among (selectFlds d)) s (s.selected d r) :=
  ((((State.DpllStep.of_clk (.setDpll _ s d _)).trans (State.putDpll hd (by simp [dpllOwnFlds]) (by simp [selectFlds]) _ _)).trans
    (State.putDpll hd (by simp [dpllOwnFlds]) (by simp [selectFlds]) _ _)).trans
      (State.putDpll hd (by simp [dpllOwnFlds]) (by simp [selectFlds]) _ _)).trans (.of_clk (State.signal_clk (by simp [selectFlds]) _ _ _ _ _ _))

/-- A selection shows in SEL_VALID and SEL_REF, is noted, and is flagged. -/
theorem State.selected_shows (s : State) {d r : Nat} (hd : d < 4) (hr : r < 8) : (s.selected d r).on (CLK.DPLL_SEL_VALID d) = true ∧
    (s.selected d r).get (CLK.DPLL_SEL_REF d) = r ∧ ((s.selected d r).dpll d).lastSel = some r ∧
    (s.selected d r).bit CLK.INT CLK.INT_SWITCH = true := by
  obtain ⟨hvalid, href, hcntValid, hcntRef, hrefValid, -⟩ := select_keys d hd
  unfold State.selected
  extract_lets cause x s1 s2
  have hsignal := State.signal_clk (List.mem_singleton_self CLK.INT) (s2.count (CLK.DPLL_SWITCH_CNT d)) CLK.INT_SWITCH 0x0306 8 d
    [BitVec.ofNat 8 0xFF, BitVec.ofNat 8 r, BitVec.ofNat 8 cause]
  refine ⟨?_, ?_, ?_, State.flag_signal_clk _ (by decide) _ _ _ _⟩
  · rw [hsignal.on hvalid]
    exact State.on_of_get ((State.get_set_of_ne _ hcntValid _).trans ((State.get_set_of_ne _ hrefValid _).trans (State.get_set_self s1 _ 1)))
  · rw [hsignal.get _ href]
    exact (State.get_set_of_ne _ hcntRef _).trans ((State.get_set_self _ _ r).trans (Nat.mod_eq_of_lt hr))
  · rw [State.dpll_congr (State.clk_signal ..)]
    exact congrArg DpllState.lastSel (State.dpll_setDpll_self s hd _)

/-- ACQUIRE is entered from FREERUN, HOLDOVER or another reference. -/
def State.reacquired (s : State) (d : Nat) : State := ((s.set (CLK.DPLL_HO_AGE d) 0).acquire d false).hoInSpec d

theorem State.reacquired_step (s : State) {d : Nat} (hd : d < 4) : State.DpllStep d (among (acquireFlds d)) s (s.reacquired d) :=
  ((State.putDpll hd (by simp [dpllOwnFlds]) (by simp [acquireFlds]) s 0).trans (State.acquire_step _ hd false)).trans
    (State.putDpll hd (by simp [dpllOwnFlds]) (by simp [acquireFlds]) _ _)

theorem State.evaluate_selects {s : State} {d k r : Nat} (hen : s.on (CLK.DPLL_ENABLE d) = true) (hxo : s.on CLK.XO_OK = true) (hheld : s.held = [])
    (hst : s.get (CLK.DPLL_STATE d) = 0) (hmode : s.get (CLK.DPLL_MODE d) = 0) (hsel : s.on (CLK.DPLL_SEL_VALID d) = false)
    (hrank : lowestRank s d (s.selectables d) = some k) (hchoose : s.choose d k = some r) :
    s.evaluate d = ((s.selected d r).reacquired d).evaluated d := by
  have hm : s.eff (CLK.DPLL_MODE d) = 0 := (State.eff_of_none hheld _).trans hmode
  unfold State.evaluate
  simp only [hen, hxo, Bool.not_true, Bool.or_self, Bool.false_eq_true, if_false, State.boundary_of_none hheld,
    State.selection_auto hm hsel hrank hchoose, hm, hst, hsel, Option.isSome_some, if_true, reduceCtorEq, true_or]
  rfl

theorem selectionEvaluation_acquires {s : State} {d k r : Nat} (hd : d < 4) (hxo : s.on CLK.XO_OK = true) (hen : s.on (CLK.DPLL_ENABLE d) = true)
    (hheld : s.held = []) (hst : s.get (CLK.DPLL_STATE d) = 0) (hmode : s.get (CLK.DPLL_MODE d) = 0) (hsel : s.on (CLK.DPLL_SEL_VALID d) = false)
    (hrank : lowestRank s d (s.selectables d) = some k) (hchoose : s.choose d k = some r) :
    ∃ t, Machine.exec (.selectionEvaluation d) s = .next t ∧ (d ≠ 0 → s.sameButEvents { t with clk := s.clk, freeCtr := s.freeCtr }) ∧
      t.get (CLK.DPLL_STATE d) = 1 ∧ t.on (CLK.DPLL_SEL_VALID d) = true ∧ t.get (CLK.DPLL_SEL_REF d) = r ∧ (t.dpll d).lastSel = some r ∧
      t.bit CLK.INT CLK.INT_SWITCH = true := by
  obtain ⟨-, -, -, -, -, hquiet, hspec, htail⟩ := select_keys d hd
  have hr : r < 8 := List.mem_range.1 (List.mem_of_mem_filter (State.choose_mem hchoose))
  obtain ⟨hvalid, href, hlast, hflag⟩ := s.selected_shows hd hr
  let u := s.selected d r
  have hacquired := u.reacquired_step hd
  have hdone := (u.reacquired d).evaluated_step hd
  have hexec : Machine.exec (.selectionEvaluation d) s = .next ((u.reacquired d).evaluated d) :=
    congrArg Host.Outcome.next ((if_pos hd).trans (State.evaluate_selects hen hxo hheld hst hmode hsel hrank hchoose))
  have hall : State.DpllStep d (fun _ => true) s ((u.reacquired d).evaluated d) :=
    (((s.selected_step hd r).mono (fun _ _ => rfl)).trans (hacquired.mono (fun _ _ => rfl))).trans (hdone.mono (fun _ _ => rfl))
  have hkept : ∀ f ∈ [CLK.DPLL_SEL_VALID d, CLK.DPLL_SEL_REF d], ((u.reacquired d).evaluated d).get f = u.get f := fun f hf =>
    (hdone.get f (hquiet f hf).2).trans (hacquired.get f (hquiet f hf).1)
  refine ⟨_, hexec, hall.clkOnly, ?_, ?_, ?_, ?_, hdone.flag _ (by decide) (hacquired.flag _ (by decide) hflag)⟩
  · refine (hdone.get _ htail).trans ((State.get_set_of_ne _ hspec _).trans ?_)
    rw [State.acquire_eq]
    exact State.state_dpllState _ hd (by decide)
  · exact (State.on_congr (hkept _ (by simp))).trans hvalid
  · exact (hkept _ (by simp)).trans href
  · rw [State.dpll_evaluated, show (u.reacquired d).dpll d = ((u.set (CLK.DPLL_HO_AGE d) 0).acquire d false).dpll d from rfl, State.acquire_eq,
      State.dpll_dpllState _ hd]
    exact hlast

theorem wtrExpiry_restores {s : State} {d r : Nat} (hd : d < 4) (hr : r < 8) (hsel : s.selectable d r = true) :
    ∃ t, Machine.exec (.wtrExpiry d r) s = .next t ∧ t = { s with regs := t.regs, clk := t.clk } ∧
      t.dpll d = { s.dpll d with wtrDone := (s.dpll d).wtrDone ||| 2 ^ r } ∧ s.keepsBut t [CLK.DPLL_WTR_RUN d] := by
  refine ⟨_, if_pos ⟨hd, hr, hsel⟩, rfl, State.dpll_setDpll_self s hd _, fun f _ _ hf => ?_⟩
  exact State.get_set_of_ne _ (hf _ (List.mem_singleton_self _)) _

end Sys2Proof.Machine

end

