-- ==== Sys2Proof/Proofs/HearthCompares.lean ====
section

namespace Sys2Proof.Machine

/-! ## Compares (R102 to R107) -/

/-- What the compare rate of reference `r` is made of, with `a` the active port. -/
def rateFlds (r a : Nat) : List Fld :=
  [CLK.REF_TYPE r, CLK.REF_FREQ r, CLK.REF_SRC 7, CLK.REF_FREQ 7, TIME.STATUS_ACTIVE_PORT, TIME.PORT_LOG_SYNC a]

theorem State.compareRate_congr {s t : State} {r : Nat} (h : ∀ f ∈ rateFlds r (s.get TIME.STATUS_ACTIVE_PORT), t.get f = s.get f) :
    t.compareRate r = s.compareRate r := by
  simp only [rateFlds, List.mem_cons, List.not_mem_nil, or_false, forall_eq_or_imp, forall_eq] at h
  obtain ⟨hty, hfreq, hsrc, hfreq7, hport, hsync⟩ := h
  have hinterval : t.logSync (t.get TIME.STATUS_ACTIVE_PORT) = s.logSync (s.get TIME.STATUS_ACTIVE_PORT) := by
    rw [hport]
    exact State.geti_congr hsync
  have hrate : t.refFreq r = s.refFreq r := by simp only [State.refFreq, hty, hfreq, hsrc, hfreq7, hinterval]
  rw [State.compareRate, State.compareRate, hrate]

/-- DPLL d behind the measurement of a compare: the phase error, and the output frequency as a free value within PULL_MAX of the reference's. -/
def State.phaseMeasured (s : State) (d : Nat) (diff : Int) : State :=
  let r := s.get (CLK.DPLL_SEL_REF d)
  let err := diff - s.phaseTarget d r diff
  let x := s.dpll d
  let s := s.setDpll d { x with held := some (x.held.getD diff), freqSum := x.freqSum + s.geti (CLK.DPLL_FREQ d), freqN := x.freqN + 1 }
  let s := s.seti (CLK.DPLL_PHASE_ERR d) err
  let pull := s.pullMax d
  let (v, s) := s.fresh 32
  s.seti (CLK.DPLL_FREQ d) (clampInt (-100000000) 100000000 ((s.refSt r).ofs - pull + ((v % (2 * pull + 1) : Nat) : Int)))

/-- What a compare decides on. -/
def State.compared (s : State) (d r : Nat) (err : Int) : State :=
  let inThr := decide (err.natAbs ≤ s.get (CLK.DPLL_LOCK_THR d) * 1000)
  let x := s.dpll d
  if s.get (CLK.DPLL_STATE d) = 1 then
    let n := if inThr then x.dwell + 1 else 0
    let code := s.get (CLK.DPLL_BW d)
    let (_, trk) := s.bwCodes d r
    let (a, b) := s.compareRate r
    if s.dwellUs d code * a ≤ n * 1000000 * b ∧ inThr then
      if code ≤ trk then s.dpllState d 2
      else (s.setDpll d { x with dwell := 0 }).set (CLK.DPLL_BW d) (code - 1)
    else s.setDpll d { x with dwell := n }
  else
    let n := if s.get (CLK.DPLL_UNLOCK_THR d) * 1000 < err.natAbs then x.bad + 1 else 0
    if 8 ≤ n then s.acquire d true
    else (s.set (CLK.DPLL_BW d) (s.bwCodes d r).2).setDpll d { x with bad := n }

theorem State.compare_eq {s : State} (h : s.held = []) (d : Nat) (diff : Int) : s.compare d diff =
    (s.phaseMeasured d diff).compared d (s.get (CLK.DPLL_SEL_REF d)) (diff - s.phaseTarget d (s.get (CLK.DPLL_SEL_REF d)) diff) := by
  unfold State.compare
  simp only [State.boundary_of_none h]
  rfl

/-- What a compare decides by. -/
def compareFlds (d r a : Nat) : List Fld :=
  [CLK.DPLL_STATE d, CLK.DPLL_UNLOCK_THR d, CLK.DPLL_LOCK_THR d, CLK.DPLL_BW d, CLK.DPLL_LOCK_TIME d, CLK.DPLL_TRK_BW d, CLK.DPLL_ACQ_BW d,
    CLK.DPLL_LOCK_LOSS_CNT d] ++ rateFlds r a

theorem compare_keys : ∀ d < 4, (CLK.DPLL_FREQ d).key ≠ (CLK.DPLL_PHASE_ERR d).key ∧
    ∀ r < 8, ∀ a < 2, ∀ f ∈ compareFlds d r a, among [CLK.DPLL_PHASE_ERR d, CLK.DPLL_FREQ d] f.key = false := by decide +kernel

theorem State.phaseMeasured_step (s : State) {d : Nat} (hd : d < 4) (diff : Int) :
    State.DpllStep d (among [CLK.DPLL_PHASE_ERR d, CLK.DPLL_FREQ d]) s (s.phaseMeasured d diff) := by
  have hfresh : ∀ u : State, State.DpllStep d (among [CLK.DPLL_PHASE_ERR d, CLK.DPLL_FREQ d]) u (u.fresh 32).2 := fun u => ⟨.of_eq _ rfl rfl, fun _ => rfl⟩
  exact (((State.DpllStep.of_clk (.setDpll _ s d _)).trans (State.putDpll hd (by simp [dpllOwnFlds]) (by simp) _ _)).trans (hfresh _)).trans
    (State.putDpll hd (by simp [dpllOwnFlds]) (by simp) _ _)

theorem State.get_phaseMeasured (s : State) {d : Nat} (hd : d < 4) (diff : Int) {f : Fld}
    (h : f ∈ compareFlds d (s.get (CLK.DPLL_SEL_REF d)) (s.get TIME.STATUS_ACTIVE_PORT)) : (s.phaseMeasured d diff).get f = s.get f := by
  obtain ⟨-, hkeys⟩ := compare_keys d hd
  exact (s.phaseMeasured_step hd diff).get f (hkeys _ (State.get_lt s (CLK.DPLL_SEL_REF d)) _ (State.get_lt s TIME.STATUS_ACTIVE_PORT) f h)

theorem State.phase_phaseMeasured (s : State) {d : Nat} (hd : d < 4) (diff : Int)
    (h : (diff - s.phaseTarget d (s.get (CLK.DPLL_SEL_REF d)) diff).natAbs < 2 ^ 31) :
    (s.phaseMeasured d diff).geti (CLK.DPLL_PHASE_ERR d) = diff - s.phaseTarget d (s.get (CLK.DPLL_SEL_REF d)) diff := by
  obtain ⟨hne, -⟩ := compare_keys d hd
  exact (State.geti_congr (State.get_set_of_ne _ hne _)).trans (State.geti_seti _ rfl h)

theorem State.dpll_phaseMeasured (s : State) {d : Nat} (hd : d < 4) (diff : Int) : (s.phaseMeasured d diff).dpll d =
    { s.dpll d with held := some ((s.dpll d).held.getD diff), freqSum := (s.dpll d).freqSum + s.geti (CLK.DPLL_FREQ d), freqN := (s.dpll d).freqN + 1 } :=
  State.dpll_setDpll_self s hd _

theorem State.bwCodes_phaseMeasured {s : State} (hheld : s.held = []) {d : Nat} (hd : d < 4) (diff : Int) :
    (s.phaseMeasured d diff).bwCodes d (s.get (CLK.DPLL_SEL_REF d)) = s.bwCodes d (s.get (CLK.DPLL_SEL_REF d)) := by
  have hheld' : (s.phaseMeasured d diff).held = [] := hheld
  have heff : ∀ f ∈ compareFlds d (s.get (CLK.DPLL_SEL_REF d)) (s.get TIME.STATUS_ACTIVE_PORT), (s.phaseMeasured d diff).eff f = s.eff f := fun f hf => by
    rw [State.eff_of_none hheld, State.eff_of_none hheld', s.get_phaseMeasured hd diff hf]
  rw [State.bwCodes, State.bwCodes, heff _ (by simp [compareFlds]), heff _ (by simp [compareFlds]),
    State.compareRate_congr (fun f hf => s.get_phaseMeasured hd diff (List.mem_append_right _ hf))]

/-- The counter follows DPLL0. -/
theorem State.followIncr_step (s : State) (d : Nat) : State.DpllStep d (among incrFlds) s (s.followIncr d) := by
  have hint : among incrFlds CLK.INT.key = false ∧ among incrFlds TIME.INCR_LO.key = true := by decide +kernel
  unfold State.followIncr
  split
  · next h =>
    obtain ⟨h0, -⟩ := h
    exact ⟨.of_time (s.setIncr_step _) hint.1 hint.2, fun hd => absurd h0 hd⟩
  · exact .refl d _ s

theorem State.dpll_followIncr (s : State) (d e : Nat) : (s.followIncr d).dpll e = s.dpll e := by
  unfold State.followIncr
  split
  · exact State.dpll_congr ((congrArg (fun t : State => t.clk) (s.setIncr_step _).rest).trans rfl) e
  · rfl

theorem incr_quiet : ∀ d < 4, among incrFlds (CLK.DPLL_STATE d).key = false ∧ among incrFlds (CLK.DPLL_PHASE_ERR d).key = false ∧
    among incrFlds (CLK.DPLL_LOCK_LOSS_CNT d).key = false ∧ among incrFlds (CLK.DPLL_FREQ d).key = false ∧
    among incrFlds (CLK.DPLL_HO_AGE d).key = false := by decide +kernel

/-- A compare of a DPLL in ACQUIRE or LOCKED. -/
theorem dpllCompare_of {s : State} {d : Nat} {err : Int} (hd : d < 4) (hxo : s.on CLK.XO_OK = true) (hen : s.on (CLK.DPLL_ENABLE d) = true)
    (hst : s.get (CLK.DPLL_STATE d) = 1 ∨ s.get (CLK.DPLL_STATE d) = 2) {t : State} (h : s.compare d err = t) :
    Machine.exec (.dpllCompare d err) s = .next (t.followIncr d) :=
  (if_pos ⟨hd, hen, hxo, hst⟩).trans (congrArg (fun t : State => Host.Outcome.next (t.followIncr d)) h)

theorem dpllCompare_stays {s : State} {d : Nat} {err : Int} (hd : d < 4) (hxo : s.on CLK.XO_OK = true) (hen : s.on (CLK.DPLL_ENABLE d) = true)
    (hheld : s.held = []) (hst : s.get (CLK.DPLL_STATE d) = 2)
    (hsmall : (err - s.phaseTarget d (s.get (CLK.DPLL_SEL_REF d)) err).natAbs ≤ s.get (CLK.DPLL_UNLOCK_THR d) * 1000)
    (hfits : (err - s.phaseTarget d (s.get (CLK.DPLL_SEL_REF d)) err).natAbs < 2 ^ 31) :
    ∃ t, Machine.exec (.dpllCompare d err) s = .next t ∧ (d ≠ 0 → s.sameButEvents { t with clk := s.clk, freeCtr := s.freeCtr }) ∧
      t.get (CLK.DPLL_STATE d) = 2 ∧ t.geti (CLK.DPLL_PHASE_ERR d) = err - s.phaseTarget d (s.get (CLK.DPLL_SEL_REF d)) err ∧ (t.dpll d).bad = 0 := by
  have hkeys : ∀ d < 4, (CLK.DPLL_BW d).key ≠ (CLK.DPLL_STATE d).key ∧ (CLK.DPLL_BW d).key ≠ (CLK.DPLL_PHASE_ERR d).key := by decide +kernel
  obtain ⟨hstate, hphase⟩ := hkeys d hd
  obtain ⟨hincrState, hincrPhase, -⟩ := incr_quiet d hd
  let u := s.phaseMeasured d err
  have hu2 : u.get (CLK.DPLL_STATE d) = 2 := (s.get_phaseMeasured hd err (by simp [compareFlds])).trans hst
  let v := (u.set (CLK.DPLL_BW d) (u.bwCodes d (s.get (CLK.DPLL_SEL_REF d))).2).setDpll d { u.dpll d with bad := 0 }
  have hcompare : s.compare d err = v := by
    have hthr : u.get (CLK.DPLL_UNLOCK_THR d) = s.get (CLK.DPLL_UNLOCK_THR d) := s.get_phaseMeasured hd err (by simp [compareFlds])
    rw [State.compare_eq hheld, State.compared]
    simp only [show (s.phaseMeasured d err).get (CLK.DPLL_STATE d) = 2 from hu2,
      show (s.phaseMeasured d err).get (CLK.DPLL_UNLOCK_THR d) = s.get (CLK.DPLL_UNLOCK_THR d) from hthr, if_neg (Nat.not_lt.2 hsmall)]
    rfl
  have hstep : State.DpllStep d (fun _ => true) s (v.followIncr d) := ((((s.phaseMeasured_step hd err).mono (fun _ _ => rfl)).trans
    ((State.putDpll hd (by simp [dpllOwnFlds]) (List.mem_singleton_self _) u _).mono (fun _ _ => rfl))).trans (.of_clk (.setDpll _ _ d _))).trans
      ((v.followIncr_step d).mono (fun _ _ => rfl))
  refine ⟨_, dpllCompare_of hd hxo hen (Or.inr hst) hcompare, hstep.clkOnly, ?_, ?_, ?_⟩
  · exact ((v.followIncr_step d).get _ hincrState).trans ((State.get_set_of_ne u hstate _).trans hu2)
  · refine (State.geti_congr ((v.followIncr_step d).get _ hincrPhase)).trans ((State.geti_congr (State.get_set_of_ne u hphase _)).trans ?_)
    exact s.phase_phaseMeasured hd err hfits
  · rw [State.dpll_followIncr]
    exact congrArg DpllState.bad (State.dpll_setDpll_self _ hd _)

theorem dpllCompare_loses {s : State} {d : Nat} {err : Int} (hd : d < 4) (hxo : s.on CLK.XO_OK = true) (hen : s.on (CLK.DPLL_ENABLE d) = true)
    (hheld : s.held = []) (hst : s.get (CLK.DPLL_STATE d) = 2)
    (hlarge : s.get (CLK.DPLL_UNLOCK_THR d) * 1000 < (err - s.phaseTarget d (s.get (CLK.DPLL_SEL_REF d)) err).natAbs) (hbad : (s.dpll d).bad = 7) :
    ∃ t, Machine.exec (.dpllCompare d err) s = .next t ∧ (d ≠ 0 → s.sameButEvents { t with clk := s.clk, freeCtr := s.freeCtr }) ∧
      t.get (CLK.DPLL_STATE d) = 1 ∧ t.bit CLK.INT CLK.INT_LOCK_LOSS = true ∧
      t.get (CLK.DPLL_LOCK_LOSS_CNT d) = (s.get (CLK.DPLL_LOCK_LOSS_CNT d) + 1) % 2 ^ (CLK.DPLL_LOCK_LOSS_CNT d).w := by
  have hkeys : ∀ d < 4, (CLK.DPLL_BW d).key ≠ (CLK.DPLL_STATE d).key ∧ (CLK.DPLL_BW d).key ≠ (CLK.DPLL_LOCK_LOSS_CNT d).key := by decide +kernel
  obtain ⟨hstate, hcount⟩ := hkeys d hd
  obtain ⟨hincrState, -, hincrCount, -⟩ := incr_quiet d hd
  let u := s.phaseMeasured d err
  have hu2 : u.get (CLK.DPLL_STATE d) = 2 := (s.get_phaseMeasured hd err (by simp [compareFlds])).trans hst
  let v := u.acquire d true
  have hcompare : s.compare d err = v := by
    have hthr : u.get (CLK.DPLL_UNLOCK_THR d) = s.get (CLK.DPLL_UNLOCK_THR d) := s.get_phaseMeasured hd err (by simp [compareFlds])
    have heighth : (u.dpll d).bad + 1 = 8 := by rw [show u.dpll d = _ from s.dpll_phaseMeasured hd err, hbad]
    rw [State.compare_eq hheld, State.compared]
    simp only [show (s.phaseMeasured d err).get (CLK.DPLL_STATE d) = 2 from hu2,
      show (s.phaseMeasured d err).get (CLK.DPLL_UNLOCK_THR d) = s.get (CLK.DPLL_UNLOCK_THR d) from hthr, if_pos hlarge,
      show ((s.phaseMeasured d err).dpll d).bad + 1 = 8 from heighth]
    rfl
  have hstep : State.DpllStep d (fun _ => true) s (v.followIncr d) := (((s.phaseMeasured_step hd err).mono (fun _ _ => rfl)).trans
    ((u.acquire_step hd true).mono (fun _ _ => rfl))).trans ((v.followIncr_step d).mono (fun _ _ => rfl))
  have hv : v = (u.set (CLK.DPLL_BW d) (u.bwCodes d (u.get (CLK.DPLL_SEL_REF d))).2).dpllState d 1 := State.acquire_eq u d true
  obtain ⟨hflag, hcnt⟩ := State.lockLoss_dpllState (s := u.set (CLK.DPLL_BW d) (u.bwCodes d (u.get (CLK.DPLL_SEL_REF d))).2) (st := 1) hd
    ((State.get_set_of_ne u hstate _).trans hu2) (by decide) (by decide)
  refine ⟨_, dpllCompare_of hd hxo hen (Or.inr hst) hcompare, hstep.clkOnly, ?_, ?_, ?_⟩
  · rw [(v.followIncr_step d).get _ hincrState, hv]
    exact State.state_dpllState _ hd (by decide)
  · exact (v.followIncr_step d).flag _ (by decide) (by rw [hv]; exact hflag)
  · rw [(v.followIncr_step d).get _ hincrCount, hv, hcnt, State.get_set_of_ne u hcount]
    rw [show u.get (CLK.DPLL_LOCK_LOSS_CNT d) = s.get (CLK.DPLL_LOCK_LOSS_CNT d) from s.get_phaseMeasured hd err (by simp [compareFlds])]

theorem dpllCompare_locks {s : State} {d : Nat} {err : Int} (hd : d < 4) (hxo : s.on CLK.XO_OK = true) (hen : s.on (CLK.DPLL_ENABLE d) = true)
    (hheld : s.held = []) (hst : s.get (CLK.DPLL_STATE d) = 1)
    (hsmall : (err - s.phaseTarget d (s.get (CLK.DPLL_SEL_REF d)) err).natAbs ≤ s.get (CLK.DPLL_LOCK_THR d) * 1000)
    (hcode : s.get (CLK.DPLL_BW d) ≤ (s.bwCodes d (s.get (CLK.DPLL_SEL_REF d))).2)
    (hdwell : s.dwellUs d (s.get (CLK.DPLL_BW d)) * (s.compareRate (s.get (CLK.DPLL_SEL_REF d))).1 ≤
      ((s.dpll d).dwell + 1) * 1000000 * (s.compareRate (s.get (CLK.DPLL_SEL_REF d))).2) :
    ∃ t, Machine.exec (.dpllCompare d err) s = .next t ∧ (d ≠ 0 → s.sameButEvents { t with clk := s.clk, freeCtr := s.freeCtr }) ∧
      t.get (CLK.DPLL_STATE d) = 2 ∧ t.bit CLK.INT CLK.INT_STATE = true := by
  obtain ⟨hincrState, -⟩ := incr_quiet d hd
  let u := s.phaseMeasured d err
  have hget : ∀ f ∈ compareFlds d (s.get (CLK.DPLL_SEL_REF d)) (s.get TIME.STATUS_ACTIVE_PORT), (s.phaseMeasured d err).get f = s.get f :=
    fun f hf => s.get_phaseMeasured hd err hf
  have hu1 : (s.phaseMeasured d err).get (CLK.DPLL_STATE d) = 1 := (hget _ (by simp [compareFlds])).trans hst
  let v := u.dpllState d 2
  have hcompare : s.compare d err = v := by
    have hd1 : ((s.phaseMeasured d err).dpll d).dwell = (s.dpll d).dwell := by rw [s.dpll_phaseMeasured hd err]
    have hrate : (s.phaseMeasured d err).compareRate (s.get (CLK.DPLL_SEL_REF d)) = s.compareRate (s.get (CLK.DPLL_SEL_REF d)) :=
      State.compareRate_congr (fun f hf => hget f (List.mem_append_right _ hf))
    have htime : (s.phaseMeasured d err).dwellUs d (s.get (CLK.DPLL_BW d)) = s.dwellUs d (s.get (CLK.DPLL_BW d)) := by
      rw [State.dwellUs, State.dwellUs, hget _ (by simp [compareFlds])]
    rw [State.compare_eq hheld, State.compared]
    simp only [hu1, if_true, hget (CLK.DPLL_BW d) (by simp [compareFlds]), hget (CLK.DPLL_LOCK_THR d) (by simp [compareFlds]), hd1, hrate, htime,
      State.bwCodes_phaseMeasured hheld hd err, decide_eq_true hsmall, and_true, if_pos hdwell, if_pos hcode]
    rfl
  have hstep : State.DpllStep d (fun _ => true) s (v.followIncr d) := (((s.phaseMeasured_step hd err).mono (fun _ _ => rfl)).trans
    ((u.dpllState_step hd 2).mono (fun _ _ => rfl))).trans ((v.followIncr_step d).mono (fun _ _ => rfl))
  refine ⟨_, dpllCompare_of hd hxo hen (Or.inl hst) hcompare, hstep.clkOnly, ?_, ?_⟩
  · exact ((v.followIncr_step d).get _ hincrState).trans (State.state_dpllState u hd (by decide))
  · exact (v.followIncr_step d).flag _ (by decide) (State.flag_dpllState (by rw [show u.get (CLK.DPLL_STATE d) = 1 from hu1]; decide))

end Sys2Proof.Machine

end

