-- ==== Sys2Proof/Proofs/HearthHoldover.lean ====
section

namespace Sys2Proof.Machine

/-! ## Seconds of HOLDOVER (R107, R110, R111) -/

/-- What is learnt of a second writes HO_VALID and HO_FREQ. -/
def learnFlds (d : Nat) : List Fld := [CLK.DPLL_HO_VALID d, CLK.DPLL_HO_FREQ d]

theorem State.learnHoldover_step (s : State) {d : Nat} (hd : d < 4) : State.DpllStep d (among (learnFlds d)) s (s.learnHoldover d) := by
  unfold State.learnHoldover
  extract_lets avg secs l t m
  have ht : State.DpllStep d (among (learnFlds d)) s t :=
    .ite (State.putDpll hd (by simp [dpllOwnFlds]) (by simp [learnFlds]) s 1) (.refl d _ s)
  exact .ite ht (ht.trans (State.putDpll hd (by simp [dpllOwnFlds]) (by simp [learnFlds]) _ _))

theorem State.clk_learnHoldover (s : State) (d : Nat) : (s.learnHoldover d).clk = s.clk ∧ (s.learnHoldover d).held = s.held := by
  unfold State.learnHoldover
  dsimp only
  split_ifs <;> exact ⟨rfl, rfl⟩

/-- A second of HOLDOVER counts in HO_AGE, and HO_IN_SPEC and its fall follow. -/
def State.aged (s : State) (d : Nat) : State :=
  let was := s.on (CLK.DPLL_HO_IN_SPEC d)
  let s := (s.countSat (CLK.DPLL_HO_AGE d)).hoInSpec d
  if was && !(s.on (CLK.DPLL_HO_IN_SPEC d)) then
    s.signal CLK.INT CLK.INT_EN CLK.INT_HO_SPEC 0x0307 8 d (le 4 (s.get (CLK.DPLL_HO_AGE d)))
  else s

/-- What such a second writes behind its frequency. -/
def agedFlds (d : Nat) : List Fld := [CLK.INT, CLK.DPLL_HO_AGE d, CLK.DPLL_HO_IN_SPEC d]

theorem holdover_keys : ∀ d < 4, among (learnFlds d) (CLK.DPLL_STEER d).key = false ∧ among (learnFlds d) (CLK.DPLL_PULL_MAX d).key = false ∧
    among (learnFlds d) (CLK.DPLL_FREQ d).key = false ∧ among (learnFlds d) (CLK.DPLL_STATE d).key = false ∧
    among (learnFlds d) (CLK.DPLL_HO_AGE d).key = false ∧ among (agedFlds d) (CLK.DPLL_FREQ d).key = false ∧
    among (agedFlds d) (CLK.DPLL_STATE d).key = false ∧ (CLK.DPLL_FREQ d).key ≠ (CLK.DPLL_STATE d).key ∧
    (CLK.DPLL_FREQ d).key ≠ (CLK.DPLL_HO_AGE d).key ∧ (CLK.DPLL_HO_IN_SPEC d).key ≠ (CLK.DPLL_HO_AGE d).key ∧
    among [CLK.INT] (CLK.DPLL_HO_AGE d).key = false := by decide +kernel

theorem State.countSat_eq (s : State) (f : Fld) : s.countSat f = s.set f (min (s.get f + 1) (2 ^ f.w - 1)) := by
  unfold State.countSat
  split
  · next h => rw [Nat.min_eq_left (by omega)]
  · next h => rw [Nat.min_eq_right (by omega)]

theorem State.aged_step (s : State) {d : Nat} (hd : d < 4) : State.DpllStep d (among (agedFlds d)) s (s.aged d) := by
  unfold State.aged
  extract_lets was t
  have ht : State.DpllStep d (among (agedFlds d)) s t := by
    change State.DpllStep d _ s ((s.countSat (CLK.DPLL_HO_AGE d)).hoInSpec d)
    rw [State.countSat_eq]
    exact (State.putDpll hd (by simp [dpllOwnFlds]) (by simp [agedFlds]) s _).trans (State.putDpll hd (by simp [dpllOwnFlds]) (by simp [agedFlds]) _ _)
  exact .ite (ht.trans (.of_clk (State.signal_clk (by simp [agedFlds]) _ _ _ _ _ _))) ht

/-- HO_AGE counts the seconds up to its largest value. -/
theorem State.age_aged (s : State) {d : Nat} (hd : d < 4) : (s.aged d).get (CLK.DPLL_HO_AGE d) = min (s.get (CLK.DPLL_HO_AGE d) + 1) (2 ^ 32 - 1) := by
  obtain ⟨-, -, -, -, -, -, -, -, -, hspec, hquiet⟩ := holdover_keys d hd
  have hcount : ((s.countSat (CLK.DPLL_HO_AGE d)).hoInSpec d).get (CLK.DPLL_HO_AGE d) = min (s.get (CLK.DPLL_HO_AGE d) + 1) (2 ^ 32 - 1) := by
    rw [State.countSat_eq]
    refine (State.get_set_of_ne _ hspec _).trans ((State.get_set_self s _ _).trans (Nat.mod_eq_of_lt ?_))
    exact lt_of_le_of_lt (Nat.min_le_right _ _) (by decide : 2 ^ 32 - 1 < 2 ^ 32)
  unfold State.aged
  dsimp only
  split
  · exact ((State.signal_clk (List.mem_singleton_self _) _ _ _ _ _ _).get _ hquiet).trans hcount
  · exact hcount

theorem State.pullMax_congr {s t : State} {d : Nat} (h : t.eff (CLK.DPLL_PULL_MAX d) = s.eff (CLK.DPLL_PULL_MAX d)) : t.pullMax d = s.pullMax d := by
  simp only [State.pullMax, h]

theorem State.steer_congr {s t : State} {d : Nat} (h : t.get (CLK.DPLL_STEER d) = s.get (CLK.DPLL_STEER d)) : t.steer d = s.steer d := by
  rw [State.steer, State.steer, State.geti_congr h]

/-- The second that ends is recorded, and learnt from. -/
def State.secondEnds (s : State) (d : Nat) : State :=
  let st := s.get (CLK.DPLL_STATE d)
  let x := s.dpll d
  let locked := x.secLocked && st == 2
  let clean := x.secClean && !(s.on (CLK.REF_SUSPECT (s.get (CLK.DPLL_SEL_REF d))))
  let sec : ClkSecond := ⟨locked, locked && clean, s.secondFreq d⟩
  (s.setDpll d { x with secs := sec :: x.secs, secLocked := st == 2, secClean := true, freqSum := 0, freqN := 0 }).learnHoldover d

theorem State.secondEnds_step (s : State) {d : Nat} (hd : d < 4) : State.DpllStep d (among (learnFlds d)) s (s.secondEnds d) :=
  (State.DpllStep.of_clk (.setDpll _ s d _)).trans (State.learnHoldover_step _ hd)

/-- The target of HOLDOVER, STEER and PULL_MAX stay. -/
theorem State.secondEnds_keeps (s : State) {d : Nat} (hd : d < 4) : ((s.secondEnds d).dpll d).target = (s.dpll d).target ∧
    (s.secondEnds d).steer d = s.steer d ∧ (s.secondEnds d).pullMax d = s.pullMax d ∧
    (s.secondEnds d).geti (CLK.DPLL_FREQ d) = s.geti (CLK.DPLL_FREQ d) := by
  obtain ⟨hsteer, hpull, hfreq, -⟩ := holdover_keys d hd
  have hstep := s.secondEnds_step hd
  refine ⟨?_, State.steer_congr (hstep.get _ hsteer), State.pullMax_congr (State.eff_congr (hstep.get _ hpull) ?_), State.geti_congr (hstep.get _ hfreq)⟩
  · rw [State.secondEnds, State.dpll_congr (State.clk_learnHoldover _ d).1, State.dpll_setDpll_self _ hd]
  · rw [State.secondEnds, (State.clk_learnHoldover _ d).2]
    rfl

theorem holdoverSecond_of {s : State} {d : Nat} (hd : d < 4) (hxo : s.on CLK.XO_OK = true) (hen : s.on (CLK.DPLL_ENABLE d) = true)
    (hst : s.get (CLK.DPLL_STATE d) = 3) : Machine.exec (.holdoverSecond d) s = .next ((((s.secondEnds d).seti (CLK.DPLL_FREQ d)
      (clampInt ((s.dpll d).target + s.steer d - s.pullMax d) ((s.dpll d).target + s.steer d + s.pullMax d)
        (slew1ppm (s.geti (CLK.DPLL_FREQ d)) ((s.dpll d).target + s.steer d)))).aged d).followIncr d) := by
  obtain ⟨htarget, hsteer, hpull, hfreq⟩ := s.secondEnds_keeps hd
  rw [← hfreq, ← htarget, ← hsteer, ← hpull]
  refine (if_pos ⟨hd, hen, hxo⟩).trans ?_
  simp only [hst, if_true, true_or, or_true, State.secondEnds]
  rfl

theorem holdoverSecond_ages {s : State} {d : Nat} {f : Int} (hd : d < 4) (hxo : s.on CLK.XO_OK = true) (hen : s.on (CLK.DPLL_ENABLE d) = true)
    (hst : s.get (CLK.DPLL_STATE d) = 3) (hf : clampInt ((s.dpll d).target + s.steer d - s.pullMax d) ((s.dpll d).target + s.steer d + s.pullMax d)
      (slew1ppm (s.geti (CLK.DPLL_FREQ d)) ((s.dpll d).target + s.steer d)) = f) (hfits : f.natAbs < 2 ^ 31) :
    ∃ t, Machine.exec (.holdoverSecond d) s = .next t ∧ (d ≠ 0 → s.sameButEvents { t with clk := s.clk, freeCtr := s.freeCtr }) ∧
      t.get (CLK.DPLL_STATE d) = 3 ∧ t.geti (CLK.DPLL_FREQ d) = f ∧
      t.get (CLK.DPLL_HO_AGE d) = min (s.get (CLK.DPLL_HO_AGE d) + 1) (2 ^ 32 - 1) := by
  obtain ⟨-, -, -, hlearnState, hlearnAge, hagedFreq, hagedState, hfreqState, hfreqAge, -⟩ := holdover_keys d hd
  obtain ⟨hincrState, -, -, hincrFreq, hincrAge⟩ := incr_quiet d hd
  let u := (s.secondEnds d).seti (CLK.DPLL_FREQ d) f
  have hexec := holdoverSecond_of hd hxo hen hst
  rw [hf] at hexec
  have hended := s.secondEnds_step hd
  have haged := u.aged_step hd
  have hfollow := (u.aged d).followIncr_step d
  have hstep : State.DpllStep d (fun _ => true) s ((u.aged d).followIncr d) := (((hended.mono (fun _ _ => rfl)).trans
    ((State.putDpll hd (by simp [dpllOwnFlds]) (List.mem_singleton_self _) _ _).mono (fun _ _ => rfl))).trans (haged.mono (fun _ _ => rfl))).trans
      (hfollow.mono (fun _ _ => rfl))
  refine ⟨_, hexec, hstep.clkOnly, ?_, ?_, ?_⟩
  · exact (hfollow.get _ hincrState).trans ((haged.get _ hagedState).trans ((State.get_set_of_ne _ hfreqState _).trans ((hended.get _ hlearnState).trans hst)))
  · refine (State.geti_congr (hfollow.get _ hincrFreq)).trans ((State.geti_congr (haged.get _ hagedFreq)).trans ?_)
    exact State.geti_seti _ rfl hfits
  · rw [hfollow.get _ hincrAge, u.age_aged hd, show u.get (CLK.DPLL_HO_AGE d) = s.get (CLK.DPLL_HO_AGE d) from
      (State.get_set_of_ne _ hfreqAge _).trans (hended.get _ hlearnAge)]

end Sys2Proof.Machine

end

