-- ==== Sys2Proof/Proofs/HearthElsewhere.lean ====
section

namespace Sys2Proof.Machine

/-! ## Steps that leave the TIME and CLK blocks -/

/-- A key outside the TIME and CLK blocks. -/
def farKey (k : Nat) : Bool := decide (k < 0x80000 * 32 ∨ 0xC0000 * 32 ≤ k)

theorem farKey_of_off {f : Fld} (h : 0xC0000 ≤ f.off) : farKey f.key = true :=
  decide_eq_true (Or.inr (by unfold Fld.key; omega))

theorem farKey_of_event (k : Nat) (h : eventKey k = true) : farKey k = true := by
  simp only [eventKey, queueKey, queueOff, Bool.or_eq_true, Bool.and_eq_true, decide_eq_true_eq, beq_iff_eq] at h
  exact decide_eq_true (by omega)

theorem farKey_int : farKey CLK.INT.key = false ∧ farKey TIME.INCR_LO.key = false := by decide

namespace State.Hearth

variable {s t : State}

/-- A field beyond the CLK block is written. -/
theorem far {f : Fld} (h : 0xC0000 ≤ f.off) (s : State) (v : Nat) : Hearth farKey s (s.set f v) :=
  .set (farKey_of_off h) (fun e => by have := farKey_of_off h; rw [e, farKey_int.1] at this; cases this) s v

theorem farSignal {int : Fld} (h : 0xC0000 ≤ int.off) (s : State) (en : Fld) (i c b u : Nat) (d : List Byte) :
    Hearth farKey s (s.signal int en i c b u d) :=
  .signal (farKey_of_off h) farKey_of_event (Or.inr (fun e => by have := farKey_of_off h; rw [e, farKey_int.1] at this; cases this)) s en i c b u d

theorem farWrites {l : List Fld} (a : State.Writes l s t) (h : ∀ f ∈ l, 0xC0000 ≤ f.off) : Hearth farKey s t := by
  have hne : ∀ f : Fld, farKey f.key = false → ∀ g ∈ l, g.key ≠ f.key := fun f hf g hg e => by
    have := farKey_of_off (h g hg)
    rw [e, hf] at this
    cases this
  exact .of_get (fun f hf => a.get f (hne f hf)) (a.get _ (hne _ farKey_int.1)) (fun _ => by rw [a.rest])

end State.Hearth

/-! ### The registers written -/

def haltFlds (p : Nat) : List Fld := [TDM.P_STATE p, TDM.P_HALTS p, TDM.P_ZC_WAIT p]
def groupClockFlds (g : Nat) : List Fld := [TDM.G_CLK_LOSS g, TDM.G_ASRC_STATE g, TDM.G_ASRC_UNLOCK g]
def ampMoveFlds (n : Nat) : List Fld :=
  [AMP.CH_STATE n, AMP.CH_CAUSE n, AMP.CH_LIMITING n, AMP.CH_MUTED n, AMP.CH_ZC_WAIT n, AMP.CH_LOCKOUTS n, AMP.CH_RETRY_CNT n]
def unitStatusFlds : List Fld :=
  [TDM.INT, TDM.RUNNING, AMP.INT, AMP.STATUS_LOCKED_OUT, AMP.STATUS_SWITCHING, AMP.STATUS_PWM_OK, LIFE.INT, PAIR.INT, PAIR.STATUS_DRIVE,
    PAIR.STATUS_ROLE, PAIR.STATUS_LEASE_VALID, PAIR.RESYNC_PHASE, PAIR.SILENCES]

theorem tdmPort_far (p : Nat) : ∀ f ∈ haltFlds p, 0xC0000 ≤ f.off := by
  simp only [haltFlds, List.mem_cons, List.not_mem_nil, or_false, forall_eq_or_imp, forall_eq, TDM.P_STATE, TDM.P_HALTS, TDM.P_ZC_WAIT]
  omega

theorem tdmGroup_far (g : Nat) : ∀ f ∈ groupClockFlds g, 0xC0000 ≤ f.off := by
  simp only [groupClockFlds, List.mem_cons, List.not_mem_nil, or_false, forall_eq_or_imp, forall_eq, TDM.G_CLK_LOSS, TDM.G_ASRC_STATE,
    TDM.G_ASRC_UNLOCK]
  omega

theorem ampCh_far (n : Nat) : ∀ f ∈ ampMoveFlds n, 0xC0000 ≤ f.off := by
  simp only [ampMoveFlds, List.mem_cons, List.not_mem_nil, or_false, forall_eq_or_imp, forall_eq, AMP.CH_STATE, AMP.CH_CAUSE, AMP.CH_LIMITING,
    AMP.CH_MUTED, AMP.CH_ZC_WAIT, AMP.CH_LOCKOUTS, AMP.CH_RETRY_CNT]
  omega

theorem unitStatus_far : ∀ f ∈ unitStatusFlds, 0xC0000 ≤ f.off := by decide

theorem State.putTdmPort_far (p : Nat) {f : Fld} (h : f ∈ haltFlds p) (s : State) (v : Nat) : State.Hearth farKey s (s.set f v) :=
  .far (tdmPort_far p f h) s v

theorem State.putTdmGroup_far (g : Nat) {f : Fld} (h : f ∈ groupClockFlds g) (s : State) (v : Nat) : State.Hearth farKey s (s.set f v) :=
  .far (tdmGroup_far g f h) s v

theorem State.putAmpCh_far (n : Nat) {f : Fld} (h : f ∈ ampMoveFlds n) (s : State) (v : Nat) : State.Hearth farKey s (s.set f v) :=
  .far (ampCh_far n f h) s v

theorem State.putStatus_far {f : Fld} (h : f ∈ unitStatusFlds) (s : State) (v : Nat) : State.Hearth farKey s (s.set f v) :=
  .far (unitStatus_far f h) s v

theorem State.signalStatus_far {int : Fld} (h : int ∈ unitStatusFlds) (s : State) (en : Fld) (i c b u : Nat) (d : List Byte) :
    State.Hearth farKey s (s.signal int en i c b u d) := .farSignal (unitStatus_far int h) s en i c b u d

/-! ### The fault history (R490, R500) -/

theorem State.wear_far (s : State) (r n : Nat) : State.Hearth farKey s (s.wear r n) := by
  have hoff : 0xC0000 ≤ (LIFE.WEAR r).off ∧ 0xC0000 ≤ (LIFE.WEAR_PCT r).off := by
    simp only [LIFE.WEAR, LIFE.WEAR_PCT]
    omega
  unfold State.wear
  extract_lets old w pct t
  have ht : State.Hearth farKey s t := (State.Hearth.far hoff.1 s _).trans (.far hoff.2 _ _)
  exact .ite (ht.trans (State.signalStatus_far (by simp [unitStatusFlds]) _ _ _ _ _ _ _)) ht

/-- The lifetime record is put. -/
theorem State.life_far (s : State) (x : LifeState) : State.Hearth farKey s { s with life := x } := .of_eq _ rfl rfl

theorem State.wearLife_far (s : State) (n : Nat) : State.Hearth farKey s (s.wearLife n) := by
  unfold State.wearLife
  extract_lets w x t
  have ht : State.Hearth farKey s t := s.life_far _
  exact ht.trans (t.wear_far 4 _)

theorem State.faultEvent_far (s : State) (c b u : Nat) (d : List Byte) : State.Hearth farKey s (s.faultEvent c b u d) := by
  unfold State.faultEvent State.faultRing
  extract_lets e l x
  exact (s.life_far _).trans (State.wearLife_far _ 1)

/-! ### Serial audio ports (R305, R307, R314) -/

theorem State.tdmStatus_far (s : State) : State.Hearth farKey s s.tdmStatus := .farWrites s.tdmStatus_writes (by decide +kernel)

theorem State.tdmState_far (s : State) (p st : Nat) : State.Hearth farKey s (s.tdmState p st) := by
  unfold State.tdmState State.setBit
  dsimp only
  exact .ite (.refl _ s) (((State.putTdmPort_far p (by simp [haltFlds]) s _).trans (State.putStatus_far (by simp [unitStatusFlds]) _ _)).trans
    (State.signalStatus_far (by simp [unitStatusFlds]) _ _ _ _ _ _ _))

/-- The data of the ports is put. -/
theorem State.tdm_far (s : State) (x : TdmState) : State.Hearth farKey s { s with tdm := x } := .of_eq _ rfl rfl

theorem State.setTdmPort_far (s : State) (p : Nat) (x : TdmPort) : State.Hearth farKey s (s.setTdmPort p x) := s.tdm_far _

theorem State.tdmWaits_far (s : State) : State.Hearth farKey s s.tdmWaits := .of_eq _ rfl rfl

theorem State.tdmHalt_far (s : State) (p : Nat) : State.Hearth farKey s (s.tdmHalt p) := by
  unfold State.tdmHalt
  extract_lets st x t u y
  have ht : State.Hearth farKey s t :=
    .ite (s.tdmState_far p 0) ((s.tdmState_far p 4).trans (State.putTdmPort_far p (by simp [haltFlds]) _ _))
  have hu : State.Hearth farKey t u := (State.putTdmPort_far p (f := TDM.P_ZC_WAIT p) (by simp [haltFlds]) t 0).trans (State.setTdmPort_far _ p _)
  exact .ite (.refl _ s) ((ht.trans hu).trans (u.tdm_far _))

theorem State.asrcState_far (s : State) (g st : Nat) : State.Hearth farKey s (s.asrcState g st) :=
  (State.putTdmGroup_far g (by simp [groupClockFlds]) s st).trans (State.signalStatus_far (by simp [unitStatusFlds]) _ _ _ _ _ _ _)

theorem State.asrcUnlock_far (s : State) (g : Nat) : State.Hearth farKey s (s.asrcUnlock g) :=
  .ite ((State.putTdmGroup_far g (by simp [groupClockFlds]) s _).trans (State.asrcState_far _ g 1)) (.refl _ s)

theorem State.asrcFollow_far (s : State) (g : Nat) : State.Hearth farKey s (s.asrcFollow g) := by
  have hset : ∀ (u : State) (v : Nat), State.Hearth farKey u (u.set (TDM.G_ASRC_STATE g) v) := fun u v =>
    State.putTdmGroup_far g (by simp [groupClockFlds]) u v
  unfold State.asrcFollow
  extract_lets t
  have ht : State.Hearth farKey s t := .ite (hset s 1) (.refl _ s)
  exact .ite (hset s 0) (.ite (ht.trans (t.asrcUnlock_far g)) (.ite (ht.trans (hset t 2)) ht))

theorem State.tdmClockLost_far (s : State) (g cause : Nat) : State.Hearth farKey s (s.tdmClockLost g cause) := by
  unfold State.tdmClockLost
  extract_lets t u
  have ht : State.Hearth farKey s t := .foldl (fun s p _ => s.tdmHalt_far p) s
  have hu : State.Hearth farKey t u := (State.putTdmGroup_far g (by simp [groupClockFlds]) t _).trans
    (State.signalStatus_far (by simp [unitStatusFlds]) _ _ _ _ _ _ _)
  exact (((ht.trans hu).trans (u.asrcUnlock_far g)).trans (State.tdmWaits_far _)).trans (State.tdmStatus_far _)

theorem State.tdmRestart_far (s : State) (p : Nat) : State.Hearth farKey s (s.tdmRestart p) :=
  .ite ((s.tdmState_far p 1).trans (State.setTdmPort_far _ p _)) (.refl _ s)

theorem State.tdmClockBack_far (s : State) (g : Nat) : State.Hearth farKey s (s.tdmClockBack g) := by
  have hports : State.Hearth farKey s ((groupPorts g).foldl State.tdmRestart s) := .foldl (fun s p _ => s.tdmRestart_far p) s
  exact .ite (hports.trans (State.asrcFollow_far _ g)) (.refl _ s)

theorem State.mediaStops_far (s : State) (d : Nat) : State.Hearth farKey s (s.mediaStops d) := .foldl (fun s g _ => s.tdmClockLost_far g 4) s

theorem State.mediaRuns_far (s : State) (d : Nat) : State.Hearth farKey s (s.mediaRuns d) := by
  have hgroups : State.Hearth farKey s ((s.mastersOf d).foldl State.tdmClockBack s) := .foldl (fun s g _ => s.tdmClockBack_far g) s
  exact hgroups.trans (State.tdmStatus_far _)

/-! ### The amplifier (R333, R337, R342) -/

theorem State.setAmpCh_far (s : State) (n : Nat) (x : AmpCh) : State.Hearth farKey s (s.setAmpCh n x) := .of_eq _ rfl rfl

theorem State.ampWaits_far (s : State) : State.Hearth farKey s s.ampWaits := .of_eq _ rfl rfl

theorem State.ampBits_far (s : State) (n : Nat) : State.Hearth farKey s (s.ampBits n) :=
  (State.putStatus_far (by simp [unitStatusFlds]) s _).trans (State.putStatus_far (by simp [unitStatusFlds]) _ _)

theorem State.ampMove_far (s : State) (n st : Nat) : State.Hearth farKey s (s.ampMove n st) :=
  .ite (.refl _ s) (((State.putAmpCh_far n (by simp [ampMoveFlds]) s st).trans (State.ampBits_far _ n)).trans
    (State.signalStatus_far (by simp [unitStatusFlds]) _ _ _ _ _ _ _))

theorem State.putAmp_far (s : State) (n : Nat) (x : AmpCh) : State.Hearth farKey s (s.putAmp n x) :=
  ((s.setAmpCh_far n x).trans (State.putAmpCh_far n (f := AMP.CH_MUTED n) (by simp [ampMoveFlds]) _ _)).trans
    (State.putAmpCh_far n (f := AMP.CH_ZC_WAIT n) (by simp [ampMoveFlds]) _ _)

theorem State.ampLeave_far (s : State) (n st : Nat) : State.Hearth farKey s (s.ampLeave n st) :=
  ((s.putAmp_far n _).trans (State.putAmpCh_far n (by simp [ampMoveFlds]) _ _)).trans (State.ampMove_far _ n st)

theorem State.ampBegin_far (s : State) (n row : Nat) : State.Hearth farKey s (s.ampBegin n row) :=
  ((s.putAmp_far n _).trans (State.putAmpCh_far n (by simp [ampMoveFlds]) _ _)).trans (State.ampMove_far _ n 1)

theorem State.ampTryStart_far (s : State) (n : Nat) : State.Hearth farKey s (s.ampTryStart n) :=
  .ite ((s.setAmpCh_far n _).trans (State.ampBegin_far _ n 0)) (.refl _ s)

theorem State.ampLockout_far (s : State) (n cause : Nat) : State.Hearth farKey s (s.ampLockout n cause) := by
  unfold State.ampLockout
  extract_lets t d
  have ht : State.Hearth farKey s t := (State.putAmpCh_far n (by simp [ampMoveFlds]) s _).trans (State.ampLeave_far _ n 5)
  exact ((ht.trans (State.putAmpCh_far n (by simp [ampMoveFlds]) t _)).trans (State.faultEvent_far _ _ _ _ _)).trans
    (State.signalStatus_far (by simp [unitStatusFlds]) _ _ _ _ _ _ _)

theorem State.ampRetryFail_far (s : State) (n : Nat) : State.Hearth farKey s (s.ampRetryFail n) := by
  unfold State.ampRetryFail
  rw [State.countSat_eq]
  exact (State.putAmpCh_far n (by simp [ampMoveFlds]) s _).trans (State.setAmpCh_far _ n _)

theorem State.ampRetry_far (s : State) (n : Nat) : State.Hearth farKey s (s.ampRetry n) := by
  unfold State.ampRetry
  extract_lets x t
  have ht : State.Hearth farKey s t := s.ampRetryFail_far n
  exact .ite (.ite (.refl _ s) (.ite (ht.trans (t.ampLockout_far n _)) ht)) ((s.setAmpCh_far n _).trans (State.ampBegin_far _ n 1))

theorem State.ampUnlock_far (s : State) (n : Nat) : State.Hearth farKey s (s.ampUnlock n) := by
  unfold State.ampUnlock
  extract_lets x t
  have ht : State.Hearth farKey s t := (State.putAmpCh_far n (f := AMP.CH_RETRY_CNT n) (by simp [ampMoveFlds]) s 0).trans (State.setAmpCh_far _ n _)
  exact .ite (.refl _ s) (.ite (s.setAmpCh_far n _) (.ite (ht.trans (t.ampBegin_far n 0)) (ht.trans (t.ampLeave_far n 0))))

theorem State.ampHalt_far (s : State) : State.Hearth farKey s s.ampHalt := by
  unfold State.ampHalt
  extract_lets halt
  have hhalt : ∀ (u : State) (n : Nat), State.Hearth farKey u (halt u n) := fun u n =>
    .ite ((State.putAmpCh_far n (by simp [ampMoveFlds]) u _).trans (State.ampLeave_far _ n 7)) (u.ampBits_far n)
  have hfold := State.Hearth.foldl (xs := List.range 8) (fun u n _ => hhalt u n) (s.set AMP.STATUS_PWM_OK 0)
  exact .ite (.refl _ s) (((State.putStatus_far (by simp [unitStatusFlds]) s 0).trans hfold).trans (State.ampWaits_far _))

theorem State.ampClockBack_far (s : State) : State.Hearth farKey s s.ampClockBack := by
  unfold State.ampClockBack
  extract_lets back
  have hback : ∀ (u : State) (n : Nat), State.Hearth farKey u (back u n) := fun u n => by
    have hunlock : State.Hearth farKey u (if (u.ampCh n).unlock then u.ampUnlock n else u) := .ite (u.ampUnlock_far n) (.refl _ u)
    exact hunlock.trans (.ite ((State.setAmpCh_far _ n _).trans (State.ampRetry_far _ n)) (State.ampTryStart_far _ n))
  have hfold := State.Hearth.foldl (xs := List.range 8) (fun u n _ => hback u n) (s.set AMP.STATUS_PWM_OK 1)
  exact .ite (.refl _ s) (((State.putStatus_far (by simp [unitStatusFlds]) s 1).trans hfold).trans (State.ampWaits_far _))

/-! ### A driving member of a pair (R446, R450) -/

/-- Such a key that is not that of ROLE. -/
def farBesideRole (k : Nat) : Bool := farKey k && !(k == PAIR.STATUS_ROLE.key)

theorem farBesideRole_of_event (k : Nat) (h : eventKey k = true) : farBesideRole k = true := by
  have hne : k ≠ PAIR.STATUS_ROLE.key := by
    rintro rfl
    exact absurd h (by decide)
  simp [farBesideRole, farKey_of_event k h, hne]

theorem farKey_of_besideRole (k : Nat) (h : farBesideRole k = true) : farKey k = true := (Bool.and_eq_true_iff.1 h).1

theorem role_besideRole : farBesideRole PAIR.STATUS_ROLE.key = false := by decide

theorem State.setDrive_step (s : State) (b : Bool) : State.Hearth farBesideRole s (s.setDrive b) := by
  unfold State.setDrive
  extract_lets t
  have ht : State.Hearth farBesideRole s t := .set (by decide) (by decide) s _
  have hpins : State.Hearth farBesideRole t ((List.range 8).foldl State.bellowsPin t) := .foldl (fun u n hn =>
    .event (u.bellowsPin_event (List.mem_range.1 hn)) farBesideRole_of_event) t
  have hport : ∀ (u : State) (p : Nat) (x : TdmPort), State.Hearth farBesideRole u (u.setTdmPort p x) := fun u p x => .of_eq _ rfl rfl
  have hdrive : ∀ u : State, State.Hearth farBesideRole u u.tdmDrive := fun u => .foldl (fun u p _ => hport u p _) u
  exact (ht.trans hpins).trans (hdrive _)

/-- A member that drives falls silent: it does not follow its peer before or behind. -/
theorem State.setRole_silent_far {s : State} (h : s.get PAIR.STATUS_ROLE = 2 ∨ s.get PAIR.STATUS_ROLE = 3) :
    State.Hearth farKey s (s.setRole 6) := by
  have hne : ¬ s.get PAIR.STATUS_ROLE = 6 := by omega
  have hwas : s.standingBy = false := by
    rcases h with h | h <;> simp [State.standingBy, h]
  let t := ((s.set PAIR.STATUS_ROLE 6).set PAIR.RESYNC_PHASE 0).set PAIR.STATUS_LEASE_VALID 0
  let u := t.signal PAIR.INT PAIR.INT_EN PAIR.INT_ROLE 0x0910 15 0 [BitVec.ofNat 8 (s.get PAIR.STATUS_ROLE), BitVec.ofNat 8 6]
  have htu : State.Hearth farBesideRole t u := .signal (by decide) farBesideRole_of_event (Or.inr (by decide)) t _ _ _ _ _ _
  have hrole : u.get PAIR.STATUS_ROLE = 6 := by
    rw [htu.get _ role_besideRole]
    exact (State.get_set_of_ne _ (by decide) _).trans ((State.get_set_of_ne _ (by decide) _).trans (State.get_set_self s _ 6))
  have hstays : u.standingBy = s.standingBy := by
    rw [hwas]
    simp [State.standingBy, hrole]
  have hu : s.setRole 6 = u := by
    unfold State.setRole
    rw [if_neg hne]
    exact if_pos hstays
  rw [hu]
  exact (((State.putStatus_far (by simp [unitStatusFlds]) s 6).trans (State.putStatus_far (by simp [unitStatusFlds]) _ _)).trans
    (State.putStatus_far (by simp [unitStatusFlds]) _ _)).trans (htu.mono farKey_of_besideRole)

/-- The loss of XO_IN, an internal fault, ends the drive of a member of a pair. -/
theorem State.pairFault_far (s : State) : State.Hearth farKey s s.pairFault := by
  unfold State.pairFault
  split
  · next h =>
    have hdrive := s.setDrive_step false
    have hrole : (s.setDrive false).get PAIR.STATUS_ROLE = 2 ∨ (s.setDrive false).get PAIR.STATUS_ROLE = 3 := by rwa [hdrive.get _ role_besideRole]
    have hsilent := (hdrive.mono farKey_of_besideRole).trans (State.setRole_silent_far hrole)
    have hpair : ∀ (u : State) (x : PairState), State.Hearth farKey u { u with pair := x } := fun u x => .of_eq _ rfl rfl
    unfold State.goSilent
    dsimp only
    rw [if_neg (by decide)]
    exact ((hsilent.trans (hpair _ _)).trans (State.faultEvent_far _ _ _ _ _)).trans (State.signalStatus_far (by simp [unitStatusFlds]) _ _ _ _ _ _ _)
  · exact .refl _ s

end Sys2Proof.Machine

end

