-- ==== Sys2Proof/Proofs/HearthXo.lean ====
section

namespace Sys2Proof.Machine

/-! ## The loss and the return of XO_IN (R89) -/

/-- A fold reaches `J` at `n`, from `I` kept until there, and keeps it. -/
theorem foldl_reaches {I J : State → Prop} {g : State → Nat → State} {n : Nat} {xs : List Nat} (hn : n ∈ xs)
    (hI : ∀ s, ∀ m ∈ xs, m ≠ n → I s → I (g s m)) (hat : ∀ s, I s → J (g s n)) (hJ : ∀ s, ∀ m ∈ xs, J s → J (g s m)) {s : State} (hs : I s) :
    J (xs.foldl g s) := by
  have hkeep : ∀ (ys : List Nat), (∀ m ∈ ys, m ∈ xs) → ∀ u, J u → J (ys.foldl g u) := by
    intro ys hys
    induction ys with
    | nil => exact fun u hu => hu
    | cons m ys ih =>
      exact fun u hu => ih (fun k hk => hys k (List.mem_cons_of_mem _ hk)) _ (hJ u m (hys m (List.mem_cons_self ..)) hu)
  have hreach : ∀ (ys : List Nat), (∀ m ∈ ys, m ∈ xs) → n ∈ ys → ∀ u, I u → J (ys.foldl g u) := by
    intro ys hys hmem
    induction ys with
    | nil => cases hmem
    | cons m ys ih =>
      intro u hu
      have hrest : ∀ k ∈ ys, k ∈ xs := fun k hk => hys k (List.mem_cons_of_mem _ hk)
      by_cases hm : m = n
      · subst hm
        exact hkeep ys hrest _ (hat u hu)
      · refine ih hrest ?_ _ (hI u m (hys m (List.mem_cons_self ..)) hm hu)
        exact (List.mem_cons.1 hmem).resolve_left (fun e => hm e.symm)
  exact hreach xs (fun _ hm => hm) hn s hs

/-- Another reference keeps its own fields while reference `m` is lost or starts again, and the counter and XO_OK keep theirs. -/
theorem refLost_others : ∀ m < 8, (∀ n < 8, among (refLostFlds m) (CLK.REF_ENABLE n).key = false ∧
      (m ≠ n → among (refLostFlds m) (CLK.REF_QSTATE n).key = false ∧ among (refLostFlds m) (CLK.REF_ACTIVE n).key = false)) ∧
    among (refLostFlds m) TIME.INCR_LO.key = false ∧ among (refLostFlds m) CLK.XO_OK.key = false := by decide +kernel

theorem State.refGone_step (s : State) {n : Nat} (hn : n < 8) : State.ClkStep (among (refLostFlds n)) s (s.refGone n) :=
  .ite (s.refLost_step hn) (.refl _ s)

/-- Every active reference is lost. -/
def State.refsGone (s : State) : State := (List.range 8).foldl State.refGone s

/-- A step of Hearth that leaves the counter's INCR and XO_OK. -/
def xoKey (k : Nat) : Bool := !(k == TIME.INCR_LO.key || k == CLK.XO_OK.key)

theorem State.Hearth.xo {P : Nat → Bool} {s t : State} (a : State.Hearth P s t) (hincr : P TIME.INCR_LO.key = false) (hxo : P CLK.XO_OK.key = false) :
    State.Hearth xoKey s t := by
  refine a.mono (fun k hk => ?_)
  have h1 : k ≠ TIME.INCR_LO.key := fun e => by rw [e, hincr] at hk; cases hk
  have h2 : k ≠ CLK.XO_OK.key := fun e => by rw [e, hxo] at hk; cases hk
  simp [xoKey, h1, h2]

theorem xoKey_kept : xoKey TIME.INCR_LO.key = false ∧ xoKey CLK.XO_OK.key = false := by decide

theorem State.refsGone_step (s : State) : State.Hearth xoKey s s.refsGone := .foldl (fun s m hm => by
  obtain ⟨-, hincr, hxo⟩ := refLost_others m (List.mem_range.1 hm)
  exact (s.refGone_step (List.mem_range.1 hm)).toHearth.xo hincr hxo) s

/-- An enabled reference that was active is INACTIVE. -/
theorem State.refsGone_inactive {s : State} {n : Nat} (hn : n < 8) (hen : s.on (CLK.REF_ENABLE n) = true) (hq : 2 ≤ s.get (CLK.REF_QSTATE n)) :
    s.refsGone.get (CLK.REF_QSTATE n) = 1 ∧ s.refsGone.on (CLK.REF_ACTIVE n) = false := by
  have hother : ∀ (u : State) (m : Nat), m < 8 → m ≠ n → (u.refGone m).get (CLK.REF_QSTATE n) = u.get (CLK.REF_QSTATE n) ∧
      (u.refGone m).on (CLK.REF_ACTIVE n) = u.on (CLK.REF_ACTIVE n) ∧ (u.refGone m).on (CLK.REF_ENABLE n) = u.on (CLK.REF_ENABLE n) := by
    intro u m hm hne
    obtain ⟨hfields, -⟩ := refLost_others m hm
    obtain ⟨henable, hrest⟩ := hfields n hn
    obtain ⟨hqstate, hactive⟩ := hrest hne
    have hstep := u.refGone_step hm
    exact ⟨hstep.get _ hqstate, hstep.on hactive, hstep.on henable⟩
  refine foldl_reaches (I := fun u => u.on (CLK.REF_ENABLE n) = true ∧ 2 ≤ u.get (CLK.REF_QSTATE n))
    (J := fun u => u.get (CLK.REF_QSTATE n) = 1 ∧ u.on (CLK.REF_ACTIVE n) = false) (List.mem_range.2 hn) ?_ ?_ ?_ ⟨hen, hq⟩
  · rintro u m hm hne ⟨hon, hge⟩
    obtain ⟨hqstate, -, henable⟩ := hother u m (List.mem_range.1 hm) hne
    exact ⟨henable.trans hon, hqstate ▸ hge⟩
  · rintro u ⟨hon, hge⟩
    rw [State.refGone, if_pos ⟨hon, hge⟩]
    exact u.refLost_inactive hn
  · rintro u m hm ⟨hone, hoff⟩
    by_cases hmn : m = n
    · subst hmn
      have hstays : u.refGone m = u := if_neg (fun h => by omega)
      rw [hstays]
      exact ⟨hone, hoff⟩
    · obtain ⟨hqstate, hactive, -⟩ := hother u m (List.mem_range.1 hm) hmn
      exact ⟨hqstate.trans hone, hactive.trans hoff⟩

theorem farKey_clk : ∀ n < 8, ∀ f ∈ [CLK.REF_ENABLE n, CLK.REF_QSTATE n, CLK.REF_ACTIVE n, CLK.XO_OK], farKey f.key = false ∧
    among [CLK.INT] f.key = false := by decide +kernel

theorem farKey_xo : farKey TIME.INCR_LO.key = false ∧ farKey CLK.XO_OK.key = false ∧ among [CLK.INT] TIME.INCR_LO.key = false ∧
    among [CLK.INT] CLK.XO_OK.key = false := by decide +kernel

/-- XO_IN lost, before the references lose their activity. -/
def State.xoLost (s : State) : State :=
  let s := ((((List.range 4).foldl State.mediaStops s).set CLK.XO_OK 0).faultEvent 0x0309 8 0 [])
  (s.signal CLK.INT CLK.INT_EN CLK.INT_XO_LOST 0x0309 8 0 []).cksPins

theorem execXoLoss_of {s : State} (h : s.on CLK.XO_OK = true) : Machine.exec .xoLoss s = .next s.xoLost.refsGone.ampHalt.pairFault := by
  have hx : Machine.exec .xoLoss s = execXoLoss s := rfl
  rw [hx, execXoLoss, h, Bool.not_true, if_neg Bool.false_ne_true]
  rfl

/-- What it leaves: the references, and the counter's INCR. -/
theorem State.xoLost_shows (s : State) : s.xoLost.on CLK.XO_OK = false ∧ s.xoLost.bit CLK.INT CLK.INT_XO_LOST = true ∧
    s.xoLost.time.incr = s.time.incr ∧ ∀ n < 8, s.xoLost.on (CLK.REF_ENABLE n) = s.on (CLK.REF_ENABLE n) ∧
      s.xoLost.get (CLK.REF_QSTATE n) = s.get (CLK.REF_QSTATE n) := by
  obtain ⟨hfarIncr, hfarXo, hincr, hxo⟩ := farKey_xo
  let a := (List.range 4).foldl State.mediaStops s
  let b := a.set CLK.XO_OK 0
  let c := b.faultEvent 0x0309 8 0 []
  let e := c.signal CLK.INT CLK.INT_EN CLK.INT_XO_LOST 0x0309 8 0 []
  have ha : State.Hearth farKey s a := .foldl (fun u d _ => u.mediaStops_far d) s
  have hc : State.Hearth farKey b c := b.faultEvent_far _ _ _ _
  have he : State.ClkStep (among [CLK.INT]) c e := State.signal_clk (List.mem_singleton_self _) _ _ _ _ _ _
  have hpins : State.Hearth (fun _ => false) e e.cksPins := .of_eq _ rfl rfl
  have hb : b.time.incr = a.time.incr := congrArg TimeState.incr (State.time_set a CLK.XO_OK 0)
  have hlost : s.xoLost = e.cksPins := rfl
  rw [hlost]
  have hshow : ∀ f : Fld, farKey f.key = false → among [CLK.INT] f.key = false → e.cksPins.get f = b.get f := fun f hf hi =>
    (hpins.get f rfl).trans ((he.get f hi).trans (hc.get f hf))
  refine ⟨?_, hpins.flag _ (by decide) (State.flag_signal_clk c (by decide) _ _ _ _), ?_, fun n hn => ?_⟩
  · exact decide_eq_false (not_not_intro ((hshow _ hfarXo hxo).trans ((State.get_set_self a _ 0).trans (Nat.zero_mod _))))
  · exact (hpins.incr rfl).trans ((he.incr hincr).trans ((hc.incr hfarIncr).trans (hb.trans (ha.incr hfarIncr))))
  · have hkeep : ∀ f ∈ [CLK.REF_ENABLE n, CLK.REF_QSTATE n], e.cksPins.get f = s.get f := fun f hf => by
      have hkeys : ∀ n < 8, ∀ f ∈ [CLK.REF_ENABLE n, CLK.REF_QSTATE n], CLK.XO_OK.key ≠ f.key := by decide +kernel
      obtain ⟨hfar, hint⟩ := farKey_clk n hn f (by revert f; simp +contextual)
      rw [hshow f hfar hint, State.get_set_of_ne a (hkeys n hn f hf), ha.get f hfar]
    exact ⟨State.on_congr (hkeep _ (by simp)), hkeep _ (by simp)⟩

theorem xoLoss_loses {s : State} (hxo : s.on CLK.XO_OK = true) :
    ∃ t, Machine.exec .xoLoss s = .next t ∧ t.on CLK.XO_OK = false ∧ t.bit CLK.INT CLK.INT_XO_LOST = true ∧
      (∀ n, n < 8 → s.on (CLK.REF_ENABLE n) = true → 2 ≤ s.get (CLK.REF_QSTATE n) → t.get (CLK.REF_QSTATE n) = 1 ∧ t.on (CLK.REF_ACTIVE n) = false) ∧
      t.time.incr = s.time.incr := by
  obtain ⟨hfarIncr, hfarXo, -⟩ := farKey_xo
  obtain ⟨hkeptIncr, hkeptXo⟩ := xoKey_kept
  obtain ⟨hoff, hflag, hincr, hrefs⟩ := s.xoLost_shows
  have hgone := s.xoLost.refsGone_step
  have hlast : State.Hearth farKey s.xoLost.refsGone s.xoLost.refsGone.ampHalt.pairFault := (State.ampHalt_far _).trans (State.pairFault_far _)
  refine ⟨_, execXoLoss_of hxo, ?_, hlast.flag _ (by decide) (hgone.flag _ (by decide) hflag), fun n hn hen hq => ?_, ?_⟩
  · exact (hlast.on hfarXo).trans ((hgone.on hkeptXo).trans hoff)
  · obtain ⟨henable, hqstate⟩ := hrefs n hn
    obtain ⟨hone, hinactive⟩ := State.refsGone_inactive hn (henable.trans hen) (le_of_le_of_eq hq hqstate.symm)
    exact ⟨(hlast.get _ (farKey_clk n hn _ (by simp)).1).trans hone, (hlast.on (farKey_clk n hn _ (by simp)).1).trans hinactive⟩
  · exact (hlast.incr hfarIncr).trans ((hgone.incr hkeptIncr).trans hincr)

/-! ### The return -/

/-- What the restart of a DPLL writes. -/
def restartFlds (d : Nat) : List Fld :=
  [CLK.DPLL_SEL_VALID d, CLK.DPLL_SEL_REF d, CLK.DPLL_FREQ d, CLK.DPLL_HO_AGE d, CLK.DPLL_HO_IN_SPEC d] ++ dpllStateFlds d

/-- The fields of DPLL d that its restart sets, and STEER. -/
def restartedFlds (d : Nat) : List Fld := [CLK.DPLL_STATE d, CLK.DPLL_SEL_VALID d, CLK.DPLL_FREQ d, CLK.DPLL_STEER d]

theorem restart_keys : ∀ e < 4, (∀ d < 4, among (restartFlds e) (CLK.DPLL_STEER d).key = false ∧
      (e ≠ d → ∀ f ∈ restartedFlds d, among (restartFlds e) f.key = false)) ∧
    (∀ n < 8, among (restartFlds e) (CLK.REF_ENABLE n).key = false) ∧ among (restartFlds e) CLK.XO_OK.key = false ∧
    among (dpllStateFlds e) (CLK.DPLL_SEL_VALID e).key = false ∧ (CLK.DPLL_SEL_REF e).key ≠ (CLK.DPLL_SEL_VALID e).key ∧
    (CLK.DPLL_HO_IN_SPEC e).key ≠ (CLK.DPLL_STATE e).key ∧ (CLK.DPLL_FREQ e).key ≠ (CLK.DPLL_STATE e).key ∧
    (∀ f ∈ [CLK.DPLL_FREQ e, CLK.DPLL_HO_AGE e, CLK.DPLL_HO_IN_SPEC e], f.key ≠ (CLK.DPLL_SEL_VALID e).key) := by decide +kernel

/-- DPLL d leaves for FREERUN. -/
theorem State.enterFreerun_step (s : State) {d : Nat} (hd : d < 4) : State.DpllStep d (among (restartFlds d)) s (s.enterFreerun d) :=
  have hstate : ∀ f ∈ dpllStateFlds d, f ∈ restartFlds d := fun _ hf => List.mem_append_right _ hf
  (((State.putDpll hd (f := CLK.DPLL_FREQ d) (by simp [dpllOwnFlds]) (by simp [restartFlds]) s _).trans
    (State.putDpll hd (f := CLK.DPLL_HO_AGE d) (by simp [dpllOwnFlds]) (by simp [restartFlds]) _ 0)).trans
      ((State.dpllState_step _ hd 0).mono (among_mono hstate))).trans
        (State.putDpll hd (f := CLK.DPLL_HO_IN_SPEC d) (by simp [dpllOwnFlds]) (by simp [restartFlds]) _ _)

theorem State.state_enterFreerun (s : State) {d : Nat} (hd : d < 4) : (s.enterFreerun d).get (CLK.DPLL_STATE d) = 0 := by
  obtain ⟨-, -, -, -, -, hspec, -, -⟩ := restart_keys d hd
  exact (State.get_set_of_ne _ hspec _).trans (State.state_dpllState _ hd (by decide))

theorem State.selValid_enterFreerun (s : State) {d : Nat} (hd : d < 4) : (s.enterFreerun d).get (CLK.DPLL_SEL_VALID d) = s.get (CLK.DPLL_SEL_VALID d) := by
  obtain ⟨-, -, -, hquiet, -, -, -, hkeys⟩ := restart_keys d hd
  refine (State.get_set_of_ne _ (hkeys _ (by simp)) _).trans (((State.dpllState_step _ hd 0).get _ hquiet).trans ?_)
  exact (State.get_set_of_ne _ (hkeys _ (by simp)) _).trans (State.get_set_of_ne _ (hkeys _ (by simp)) _)

theorem State.dpllRestart_step (s : State) {d : Nat} (hd : d < 4) : State.DpllStep d (among (restartFlds d)) s (s.dpllRestart d) :=
  ((((State.putDpll hd (f := CLK.DPLL_SEL_VALID d) (by simp [dpllOwnFlds]) (by simp [restartFlds]) s 0).trans
    (State.putDpll hd (f := CLK.DPLL_SEL_REF d) (by simp [dpllOwnFlds]) (by simp [restartFlds]) _ 0)).trans (State.enterFreerun_step _ hd)).trans
      (State.putDpll hd (f := CLK.DPLL_FREQ d) (by simp [dpllOwnFlds]) (by simp [restartFlds]) _ _)).trans (.of_clk (.setDpll _ _ d _))

theorem State.steer_natAbs (s : State) (d : Nat) : (s.steer d).natAbs < 2 ^ 31 := by
  unfold State.steer clampInt
  split
  · decide
  · split
    · decide
    · omega

/-- DPLL d stands in FREERUN with no reference, at nominal plus STEER `f`. -/
def State.restartedAt (s : State) (d : Nat) (f : Int) : Prop :=
  s.steer d = f ∧ s.get (CLK.DPLL_STATE d) = 0 ∧ s.on (CLK.DPLL_SEL_VALID d) = false ∧ s.geti (CLK.DPLL_FREQ d) = f

theorem State.restartedAt_congr {s t : State} {d : Nat} {f : Int} (h : ∀ g ∈ restartedFlds d, t.get g = s.get g) (hs : s.restartedAt d f) :
    t.restartedAt d f := by
  obtain ⟨hsteer, hstate, hvalid, hfreq⟩ := hs
  exact ⟨(State.steer_congr (h _ (by simp [restartedFlds]))).trans hsteer, (h _ (by simp [restartedFlds])).trans hstate,
    (State.on_congr (h _ (by simp [restartedFlds]))).trans hvalid, (State.geti_congr (h _ (by simp [restartedFlds]))).trans hfreq⟩

theorem State.dpllRestart_restarts (s : State) {d : Nat} (hd : d < 4) : (s.dpllRestart d).restartedAt d (s.steer d) := by
  obtain ⟨hfields, -, -, -, hrefValid, -, hfreqState, hfreqValid⟩ := restart_keys d hd
  let u := (s.set (CLK.DPLL_SEL_VALID d) 0).set (CLK.DPLL_SEL_REF d) 0
  let v := u.enterFreerun d
  have hv : v.steer d = s.steer d := by
    have hsel : ∀ d < 4, (CLK.DPLL_SEL_VALID d).key ≠ (CLK.DPLL_STEER d).key ∧ (CLK.DPLL_SEL_REF d).key ≠ (CLK.DPLL_STEER d).key := by decide +kernel
    obtain ⟨hselValid, hselRef⟩ := hsel d hd
    refine State.steer_congr (((u.enterFreerun_step hd).get _ (hfields d hd).1).trans ?_)
    exact (State.get_set_of_ne _ hselRef _).trans (State.get_set_of_ne s hselValid _)
  refine ⟨State.steer_congr ((s.dpllRestart_step hd).get _ (hfields d hd).1), ?_, ?_, ?_⟩
  · exact (State.get_set_of_ne v hfreqState _).trans (u.state_enterFreerun hd)
  · have hoff : u.get (CLK.DPLL_SEL_VALID d) = 0 := (State.get_set_of_ne _ hrefValid _).trans ((State.get_set_self s _ 0).trans (Nat.zero_mod _))
    refine decide_eq_false (not_not_intro ?_)
    exact (State.get_set_of_ne v (hfreqValid _ (by simp)) _).trans ((u.selValid_enterFreerun hd).trans hoff)
  · rw [← hv]
    exact State.geti_seti v rfl (v.steer_natAbs d)

/-- An enabled DPLL is among those that start again. -/
theorem State.restarts_restarted {s : State} {d : Nat} (hd : d < 4) {xs : List Nat} (hxs : ∀ e ∈ xs, e < 4) (hmem : d ∈ xs) :
    (xs.foldl State.dpllRestart s).restartedAt d (s.steer d) := by
  refine foldl_reaches (I := fun u => u.steer d = s.steer d) (J := fun u => u.restartedAt d (s.steer d)) hmem ?_ ?_ ?_ rfl
  · intro u e he _ hu
    obtain ⟨hfields, -⟩ := restart_keys e (hxs e he)
    exact (State.steer_congr ((u.dpllRestart_step (hxs e he)).get _ (hfields d hd).1)).trans hu
  · intro u hu
    rw [← hu]
    exact u.dpllRestart_restarts hd
  · intro u e he hu
    obtain ⟨hfields, -⟩ := restart_keys e (hxs e he)
    by_cases hed : e = d
    · subst hed
      obtain ⟨hsteer, -⟩ := hu
      rw [← hsteer]
      exact u.dpllRestart_restarts hd
    · exact State.restartedAt_congr (fun g hg => (u.dpllRestart_step (hxs e he)).get g ((hfields d hd).2 hed g hg)) hu

/-- Reference n starts again as INACTIVE. -/
def State.refRestart (s : State) (n : Nat) : State := (s.set (CLK.REF_ACTIVE n) 0).refQState n 1

theorem State.refRestart_step (s : State) {n : Nat} (hn : n < 8) : State.ClkStep (among (refLostFlds n)) s (s.refRestart n) := by
  obtain ⟨-, -, hact, -⟩ := refLost_keys n hn
  exact (State.ClkStep.put (by simp [refLostFlds]) hact s 0).trans
    ((State.refQState_step _ hn 1).mono (among_mono (fun _ hf => List.mem_append_right _ hf)))

/-- A reference that starts again is INACTIVE, whatever others do. -/
theorem State.refRestarts_inactive (s : State) {n : Nat} (hn : n < 8) {xs : List Nat} (hxs : ∀ m ∈ xs, m < 8) (hmem : n ∈ xs) :
    (xs.foldl State.refRestart s).get (CLK.REF_QSTATE n) = 1 := by
  have hat : ∀ u : State, (u.refRestart n).get (CLK.REF_QSTATE n) = 1 := fun u => State.qstate_refQState _ hn (by decide)
  refine foldl_reaches (I := fun _ => True) (J := fun u => u.get (CLK.REF_QSTATE n) = 1) hmem (fun _ _ _ _ _ => trivial) (fun u _ => hat u) ?_ trivial
  intro u m hm hu
  by_cases hmn : m = n
  · subst hmn
    exact hat u
  · obtain ⟨hfields, -⟩ := refLost_others m (hxs m hm)
    obtain ⟨-, hrest⟩ := hfields n hn
    exact ((u.refRestart_step (hxs m hm)).get _ (hrest hmn).1).trans hu

theorem refLost_restarted : ∀ m < 8, ∀ d < 4, ∀ f ∈ restartedFlds d, among (refLostFlds m) f.key = false := by decide +kernel

theorem farKey_restarted : ∀ d < 4, ∀ f ∈ restartedFlds d, farKey f.key = false := by decide +kernel

/-- XO_IN is back: the DPLLs and the references start again, then the audio groups and the amplifier. -/
def State.xoBack (s : State) : State :=
  let t := s.set CLK.XO_OK 1
  let u := ((List.range 4).filter (fun d => t.on (CLK.DPLL_ENABLE d))).foldl State.dpllRestart t
  let v := ((List.range 8).filter (fun n => u.on (CLK.REF_ENABLE n))).foldl State.refRestart u
  ((List.range 4).foldl State.mediaRuns v.cksPins).tdmWaits.ampClockBack

theorem execXoRestore_of {s : State} (h : s.on CLK.XO_OK = false) : Machine.exec .xoRestore s = .next s.xoBack := by
  have hx : Machine.exec .xoRestore s = execXoRestore s := rfl
  rw [hx, execXoRestore, h, if_neg Bool.false_ne_true]
  rfl

theorem xoRestore_restarts {s : State} {d : Nat} (hd : d < 4) (hen : s.on (CLK.DPLL_ENABLE d) = true) :
    ∃ t, Machine.exec .xoRestore (s.set CLK.XO_OK 0) = .next t ∧ t.on CLK.XO_OK = true ∧ t.get (CLK.DPLL_STATE d) = 0 ∧
      t.on (CLK.DPLL_SEL_VALID d) = false ∧ t.geti (CLK.DPLL_FREQ d) = s.steer d ∧
      ∀ n, n < 8 → s.on (CLK.REF_ENABLE n) = true → t.get (CLK.REF_QSTATE n) = 1 := by
  let s' := s.set CLK.XO_OK 0
  have hxo : s'.on CLK.XO_OK = false := decide_eq_false (not_not_intro ((State.get_set_self s _ 0).trans (Nat.zero_mod _)))
  let t := s'.set CLK.XO_OK 1
  have ht : ∀ f : Fld, CLK.XO_OK.key ≠ f.key → t.get f = s.get f := fun f hf => (State.get_set_of_ne s' hf 1).trans (State.get_set_of_ne s hf 0)
  have hkeys : (∀ d < 4, CLK.XO_OK.key ≠ (CLK.DPLL_ENABLE d).key ∧ CLK.XO_OK.key ≠ (CLK.DPLL_STEER d).key) ∧
      ∀ n < 8, CLK.XO_OK.key ≠ (CLK.REF_ENABLE n).key := by decide +kernel
  obtain ⟨hdpll, href⟩ := hkeys
  obtain ⟨henable, hsteer⟩ := hdpll d hd
  let ds := (List.range 4).filter (fun d => t.on (CLK.DPLL_ENABLE d))
  have hds : ∀ e ∈ ds, e < 4 := fun e he => List.mem_range.1 (List.mem_of_mem_filter he)
  have hmem : d ∈ ds := List.mem_filter.2 ⟨List.mem_range.2 hd, (State.on_congr (ht _ henable)).trans hen⟩
  let u := ds.foldl State.dpllRestart t
  have hu : u.restartedAt d (s.steer d) := by
    rw [← State.steer_congr (ht _ hsteer)]
    exact State.restarts_restarted hd hds hmem
  have huRefs : State.Hearth (fun k => ds.any (fun e => among (restartFlds e) k)) t u := .foldl (fun w e he => (w.dpllRestart_step (hds e he)).toHearth.mono
    (fun k hk => List.any_eq_true.2 ⟨e, he, hk⟩)) t
  have hnone : ∀ f : Fld, (∀ e < 4, among (restartFlds e) f.key = false) → ds.any (fun e => among (restartFlds e) f.key) = false := fun f hf =>
    List.any_eq_false.2 (fun e he => by rw [hf e (hds e he)]; exact Bool.false_ne_true)
  let ns := (List.range 8).filter (fun n => u.on (CLK.REF_ENABLE n))
  have hns : ∀ m ∈ ns, m < 8 := fun m hm => List.mem_range.1 (List.mem_of_mem_filter hm)
  let v := ns.foldl State.refRestart u
  have hv : State.Hearth (fun k => ns.any (fun m => among (refLostFlds m) k)) u v := .foldl (fun w m hm => (w.refRestart_step (hns m hm)).toHearth.mono
    (fun k hk => List.any_eq_true.2 ⟨m, hm, hk⟩)) u
  have hquiet : ∀ f : Fld, (∀ m < 8, among (refLostFlds m) f.key = false) → ns.any (fun m => among (refLostFlds m) f.key) = false := fun f hf =>
    List.any_eq_false.2 (fun m hm => by rw [hf m (hns m hm)]; exact Bool.false_ne_true)
  let z := ((List.range 4).foldl State.mediaRuns v.cksPins).tdmWaits.ampClockBack
  have hz : State.Hearth farKey v z := by
    have hpins : State.Hearth farKey v v.cksPins := .of_eq _ rfl rfl
    have hmedia : State.Hearth farKey v.cksPins ((List.range 4).foldl State.mediaRuns v.cksPins) := .foldl (fun w e _ => w.mediaRuns_far e) _
    exact ((hpins.trans hmedia).trans (State.tdmWaits_far _)).trans (State.ampClockBack_far _)
  have hlast : z.restartedAt d (s.steer d) := State.restartedAt_congr (fun g hg => (hz.get g (farKey_restarted d hd g hg)).trans
    (hv.get g (hquiet g (fun m hm => refLost_restarted m hm d hd g hg)))) hu
  obtain ⟨-, hstate, hvalid, hfreq⟩ := hlast
  refine ⟨z, execXoRestore_of hxo, ?_, hstate, hvalid, hfreq, fun n hn hon => ?_⟩
  · obtain ⟨-, hfar, -⟩ := farKey_xo
    rw [hz.on hfar, hv.on (hquiet _ (fun m hm => (refLost_others m hm).2.2)), huRefs.on (hnone _ (fun e he => (restart_keys e he).2.2.1))]
    exact State.on_of_get (State.get_set_self s' _ 1)
  · have hon' : u.on (CLK.REF_ENABLE n) = true := by
      rw [huRefs.on (hnone _ (fun e he => (restart_keys e he).2.1 n hn)), State.on_congr (ht _ (href n hn))]
      exact hon
    have hin : n ∈ ns := List.mem_filter.2 ⟨List.mem_range.2 hn, hon'⟩
    exact (hz.get _ (farKey_clk n hn _ (by simp)).1).trans (u.refRestarts_inactive hn hns hin)

end Sys2Proof.Machine

end

