-- ==== Sys2Proof/Proofs/HearthDpllsLock.lean ====
section

namespace Sys2Proof.Machine

/-- Settles O9: each clause is the step of one command, by what a change of a DPLL's state writes, and by what the other units leave of Hearth. -/
theorem dpllsSelectLockAndHold : Obligations.DpllsSelectLockAndHold := by
  unfold Obligations.DpllsSelectLockAndHold
  intro s d k r err hd hxo hen hheld st sel clkOnly aim f e
  refine ⟨?select, ?small, ?large, ?lock, ?second, ?restored, ?lost, ?back⟩
  case select => exact fun hst hmode hsel hrank hchoose => selectionEvaluation_acquires hd hxo hen hheld hst hmode hsel hrank hchoose
  case small => exact fun hst hsmall hfits => dpllCompare_stays hd hxo hen hheld hst hsmall hfits
  case large => exact fun hst hlarge hbad => dpllCompare_loses hd hxo hen hheld hst hlarge hbad
  case lock => exact fun hst hsmall hcode hdwell => dpllCompare_locks hd hxo hen hheld hst hsmall hcode hdwell
  case second => exact fun hst hfits => holdoverSecond_ages hd hxo hen hst rfl hfits
  case restored => exact fun hr hsel => wtrExpiry_restores hd hr hsel
  case lost => exact xoLoss_loses hxo
  case back => exact xoRestore_restarts hd hen

end Sys2Proof.Machine

end

