-- ==== Sys2Proof/Proofs/DpllSettings.lean ====
section

namespace Sys2Proof.Machine

/-- A ready unit whose DPLL2 is enabled and LOCKED. -/
def lockedDpll : State := ((State.reset.set SYS.STATUS_READY 1).set (CLK.DPLL_ENABLE 2) 1).set (CLK.DPLL_STATE 2) 2

theorem lockedDpll_open : lockedDpll.busOpen (0xA0400 + 0x80 * 2) ∧ (0#32).toNat % 2 = lockedDpll.get (CLK.DPLL_FAMILY 2) := by
  decide +kernel

/-- A host write of 0 to its DPLL2_CFG has ENABLE 0 in it, which stops DPLL2: it leaves LOCKED for FREERUN (R103). -/
theorem lockedDpll_disabled : lockedDpll.get (CLK.DPLL_STATE 2) = 2 ∧
    (lockedDpll.busWrite 0 (0xA0400 + 0x80 * 2) (0#32).toNat).get (CLK.DPLL_STATE 2) = 0 := by
  decide +kernel

/-- DPLL_MODE_WRITE is a host write of the whole word of DPLLd_CFG. -/
theorem dpllModeWrite_row (s : State) (source : Nat) {d : Nat} (hd : d < 4) (v : Word) :
    Machine.exec (.dpllModeWrite source d v) s = .next (s.busWrite source (0xA0400 + 0x80 * d) v.toNat) := State.rowWrite_of hd

/-- Refutes O10: the write of DPLLd_CFG that sets MODE carries ENABLE too, and one with ENABLE 0 to an enabled DPLL1 to DPLL3 stops it, so that its
STATE does not stay. -/
theorem not_dpllAndOutputSettings : ¬ Obligations.DpllAndOutputSettings := by
  unfold Obligations.DpllAndOutputSettings
  intro h
  obtain ⟨-, -, -, -, -, -, -, hmode, -⟩ := h lockedDpll 2 0 0 0 0 ⟨3, 7, false, false, false, false, false, false, 0, 0, false, 1000, false⟩ 0#32
    (by decide) (by decide) (by decide)
  obtain ⟨hopen, hfamily⟩ := lockedDpll_open
  obtain ⟨t, hexec, -, -, -, -, -, -, hstate⟩ := hmode hopen (Or.inr hfamily) rfl
  obtain rfl := Host.Outcome.next.inj ((dpllModeWrite_row lockedDpll 0 (by decide : 2 < 4) 0#32).symm.trans hexec)
  obtain ⟨hlocked, hfree⟩ := lockedDpll_disabled
  exact absurd (hfree.symm.trans (hstate.trans hlocked)) (by decide)

end Sys2Proof.Machine

end

