-- ==== Sys2Proof/Proofs/FrameDispatch.lean ====
section

namespace Sys2Proof.Machine

/-! ## The frame at the head of the receive buffer goes to the engine (R130, R132, R133) -/

/-- An item that has room is put behind the entries of its queue; while the bank of the spill region is absent, what then lies there is lost
(R218, R228). -/
theorem State.queue_push (s : State) {i : Nat} (h0 : i ≠ 0) (h : i < 11) (it : QItem) (hr : s.hasRoom i (itemEntries it).length = true) :
    (s.push i it).queue i =
      if s.absent 7 then Queue.loseSpill { s.queue i with ready := (s.queue i).ready ++ itemEntries it }
      else { s.queue i with ready := (s.queue i).ready ++ itemEntries it } := by
  unfold State.push
  rw [State.pushItem_of_room s it hr]
  exact (State.queue_foldl_raiseItem _ h0 _).trans (State.queue_putQueue_self s h _)

theorem State.queue_dropRx (s : State) (p i : Nat) : (s.dropRx p).queue i = s.queue i := by
  have hput : ∀ (u : State) (q : Nat), (u.queuePause p q).queue i = u.queue i := fun _ _ => rfl
  have hgen : ∀ u : State, (u.pauseGen p).queue i = u.queue i := by
    intro u
    unfold State.pauseGen
    extract_lets fill x
    split
    · split <;> rfl
    · split
      · exact hput u _
      · split
        · exact hput u _
        · rfl
  exact hgen _

/-- Frame `f` waits at the head of the receive buffer of port p, in front of `rest`: good, untagged, no control frame, no stream's, and passed by
the filter (R129 to R131). -/
structure State.HeadPasses (s : State) (p : Nat) (f : RxFrame) (rest : List RxFrame) : Prop where
  head : (s.port p).rx = f :: rest
  good : f.status = Rx.ok
  untagged : (headers f.bytes).tagged = false
  data : (headers f.bytes).etype ≠ 0x8808
  unclaimed : p < 2 → s.claim p (headers f.bytes) = none
  passed : s.filterOk p (headers f.bytes).dst = true

/-- Such a frame of a class that goes to the engine is offered to the engine queue of its port, and leaves the buffer. -/
theorem frameDispatch_toEngine {s : State} {p : Nat} {f : RxFrame} {rest : List RxFrame} (h : s.HeadPasses p f rest)
    (hd : s.destOf p (s.protoClass p (headers f.bytes)) = 1) :
    Machine.exec (.frameDispatch p) s =
      .next ((s.toEngine p (frameItem f (rxFlags 0 false false false) (s.protoClass p (headers f.bytes)))).dropRx p) := by
  have hclaim : (if p < 2 then s.claim p (headers f.bytes) else none) = none := by
    split
    · exact h.unclaimed ‹_›
    · rfl
  have hroute : s.routeFrame p f = some (s.dispatch p f (headers f.bytes)) := by
    simp only [State.routeFrame, h.good, h.untagged, hclaim, ne_eq, not_true_eq_false, if_false, Bool.false_and, Bool.false_eq_true]
  have hdispatch : s.dispatch p f (headers f.bytes) =
      s.toEngine p (frameItem f (rxFlags 0 false false false) (s.protoClass p (headers f.bytes))) := by
    simp [State.dispatch, h.data, h.passed, hd, h.untagged]
  have hexec : Machine.exec (.frameDispatch p) s = execFrameDispatch p s := rfl
  rw [hexec, execFrameDispatch]
  simp only [h.head, hroute, hdispatch]

/-- Where the engine queue has room, it then holds the frame behind its entries, with what lies in the spill region lost while that is absent. -/
theorem queue_frameDispatch {s : State} {p : Nat} {it : QItem} (hp : p ≤ 3) (hr : s.hasRoom (3 + p) (itemEntries it).length = true) :
    ((s.toEngine p it).dropRx p).queue (3 + p) =
      if s.absent 7 then Queue.loseSpill { s.queue (3 + p) with ready := (s.queue (3 + p)).ready ++ itemEntries it }
      else { s.queue (3 + p) with ready := (s.queue (3 + p)).ready ++ itemEntries it } := by
  have hput : s.toEngine p it = s.push (3 + p) it := by simp [State.toEngine, hr]
  rw [State.queue_dropRx, hput, State.queue_push s (by omega) (by omega) it hr]

/-! ### An engine queue that spills while its bank is absent -/

/-- A broadcast ARP frame of 64 bytes in a receive buffer. -/
def waitingArp : RxFrame :=
  ⟨be 6 0xFFFFFFFFFFFF ++ be 6 0x020000000001 ++ be 2 0x0806 ++ List.replicate 50 0#8, 0, Rx.ok, false⟩

/-- It waits on port 0; queue 3, the engine queue of that port, holds 32 entries, and the bank of the spill region is absent. -/
def fullHeads : State :=
  ((State.reset.setQueue 3 ⟨[], List.replicate 32 ⟨.cont, false⟩, none⟩).setPort 0 { PortState.reset with rx := [waitingArp] }).set
    QUE.STATUS_ABSENT_MAP 0x80

/-- The frame's item in the engine queue. -/
def waitingItem : QItem := frameItem waitingArp (rxFlags 0 false false false) (fullHeads.protoClass 0 (headers waitingArp.bytes))

theorem fullHeads_passes : fullHeads.HeadPasses 0 waitingArp [] := by
  have h : (fullHeads.port 0).rx = [waitingArp] ∧ (headers waitingArp.bytes).tagged = false ∧ (headers waitingArp.bytes).etype ≠ 0x8808 ∧
      fullHeads.claim 0 (headers waitingArp.bytes) = none ∧ fullHeads.filterOk 0 (headers waitingArp.bytes).dst = true := by decide +kernel
  obtain ⟨hhead, htag, htype, hclaim, hpass⟩ := h
  exact ⟨hhead, rfl, htag, htype, fun _ => hclaim, hpass⟩

theorem fullHeads_room : fullHeads.boot.dormant = false ∧ fullHeads.destOf 0 (fullHeads.protoClass 0 (headers waitingArp.bytes)) = 1 ∧
    fullHeads.hasRoom 3 (itemEntries waitingItem).length = true ∧ fullHeads.absent 7 = true := by decide +kernel

/-- The five entries that the item pushes from the head registers into the spill region are lost. -/
theorem fullHeads_loses : Queue.loseSpill { fullHeads.queue 3 with ready := (fullHeads.queue 3).ready ++ itemEntries waitingItem } ≠
    { fullHeads.queue 3 with ready := (fullHeads.queue 3).ready ++ itemEntries waitingItem } := by decide +kernel

/-- Were the frame just appended, nothing of the queue behind it would be lost. -/
theorem loses_nothing_of_framesThroughAPort (h : Obligations.FramesThroughAPort) {s : State} {p : Nat} {f : RxFrame} {it : QItem} (hp : p ≤ 3)
    (hit : it = frameItem f (rxFlags 0 false false false) (s.protoClass p (headers f.bytes))) (hawake : s.boot.dormant = false)
    (hpass : s.HeadPasses p f []) (hdest : s.destOf p (s.protoClass p (headers f.bytes)) = 1)
    (hroom : s.hasRoom (3 + p) (itemEntries it).length = true) (habsent : s.absent 7 = true) :
    Queue.loseSpill { s.queue (3 + p) with ready := (s.queue (3 + p)).ready ++ itemEntries it } =
      { s.queue (3 + p) with ready := (s.queue (3 + p)).ready ++ itemEntries it } := by
  subst hit
  obtain ⟨-, -, -, henters, -⟩ := h s p 0 ⟨[], false, false, 0⟩ f ⟨[], none, false, false, false⟩ 0 [] [] []
    ⟨⟨0, 0, 0, 0, 0, 0, 0, []⟩, false⟩ [] hp hawake
  obtain ⟨t, hexec, -, -, hqueue⟩ := henters
    ⟨hpass.head, hpass.good, hpass.untagged, hpass.data, hpass.unclaimed, hpass.passed⟩ hdest hroom
  obtain rfl := Host.Outcome.next.inj ((frameDispatch_toEngine hpass hdest).symm.trans hexec)
  rw [queue_frameDispatch hp hroom, if_pos habsent] at hqueue
  exact hqueue

/-- Refutes O11: an item that enters an engine queue with more than 32 entries is not just appended while the bank of the spill region is absent,
since the entries that then lie in that region are lost (R218, R228). -/
theorem not_framesThroughAPort : ¬ Obligations.FramesThroughAPort := by
  intro h
  obtain ⟨hawake, hdest, hroom, habsent⟩ := fullHeads_room
  exact fullHeads_loses (loses_nothing_of_framesThroughAPort h (by decide : 0 ≤ 3) rfl hawake fullHeads_passes hdest hroom habsent)

end Sys2Proof.Machine

end

