-- ==== Sys2Proof/Proofs/PortSteps.lean ====
section

namespace Sys2Proof.Machine

/-! ## Steps that leave the link and the settings of a port -/

/-- A field in the blocks of the four ports (R37). -/
abbrev Fld.inPorts (f : Fld) : Prop := f.lo < 32 ∧ 0x40000 ≤ f.off ∧ f.off < 0x80000

theorem eventKey_of_inPorts {f : Fld} (h : f.inPorts) : eventKey f.key = false := by
  obtain ⟨hlo, hmin, hmax⟩ := h
  exact eventKey_of_quiet hlo ⟨Or.inl (by omega), Or.inr (by omega)⟩

theorem key_ne_of_inPorts {f g : Fld} (hf : f.inPorts) (hg : g.lo < 32) (h : g.off < 0x40000 ∨ 0x80000 ≤ g.off) : g.key ≠ f.key :=
  key_ne_of_off hg hf.1 (by omega)

/-- The fields of port p that its frames, pauses and groups move: flags, halves, the two counters that go with them, and the engine's filter
entries. -/
def portMovingFlds (p : Nat) : List Fld :=
  [PORT.INT p, PORT.STAT_HALF_LO p, PORT.STAT_HALF_HI p, PORT.TX_PAUSED p, PORT.STAT p Stat.TX_PAUSED_US, PORT.STAT p Stat.TX_DISCARD] ++
    (List.range 16).flatMap (fun e => [PORT.MATCH_ADDR_LO p e, PORT.MATCH_ADDR_HI p e, PORT.MATCH_EN p e])

/-- The fields of `l` lie in the blocks of the ports, and are none of those that move in port p. -/
abbrev PortSettled (p : Nat) (l : List Fld) : Prop := ∀ f ∈ l, f.inPorts ∧ ∀ g ∈ portMovingFlds p, g.key ≠ f.key

theorem portInt_inPorts {p : Nat} (hp : p < 4) : (PORT.INT p).inPorts := by
  unfold Fld.inPorts
  simp only [PORT.INT]
  omega

/-- From `s` to `t` the fields of `l` and the link of port p stay, and flags of its INT that are set stay set. -/
structure State.Spares (p : Nat) (l : List Fld) (s t : State) : Prop where
  get : ∀ f ∈ l, t.get f = s.get f
  flag : ∀ i, i < 7 → s.bit (PORT.INT p) i = true → t.bit (PORT.INT p) i = true
  link : (t.port p).link = (s.port p).link

namespace State.Spares

variable {p : Nat} {l : List Fld} {s t u : State}

theorem refl (p : Nat) (l : List Fld) (s : State) : Spares p l s s := ⟨fun _ _ => rfl, fun _ _ h => h, rfl⟩

theorem trans (a : Spares p l s t) (b : Spares p l t u) : Spares p l s u :=
  ⟨fun f h => (b.get f h).trans (a.get f h), fun i hi h => b.flag i hi (a.flag i hi h), b.link.trans a.link⟩

theorem ite {c : Prop} [Decidable c] (a : Spares p l s t) (b : Spares p l s u) : Spares p l s (if c then t else u) := by
  split
  · exact a
  · exact b

theorem foldl {α : Type} {g : State → α → State} {xs : List α} (h : ∀ s, ∀ a ∈ xs, Spares p l s (g s a)) (s : State) :
    Spares p l s (xs.foldl g s) := by
  induction xs generalizing s with
  | nil => exact refl p l s
  | cons a xs ih => exact (h s a (List.mem_cons_self ..)).trans (ih (fun s b hb => h s b (List.mem_cons_of_mem _ hb)) _)

/-- A step that leaves INT and the port. -/
theorem of_get (hg : ∀ f ∈ l, t.get f = s.get f) (hint : t.get (PORT.INT p) = s.get (PORT.INT p)) (hport : (t.port p).link = (s.port p).link) :
    Spares p l s t := ⟨hg, fun i _ h => by rwa [State.bit, hint], hport⟩

theorem of_eq (hr : t.regs = s.regs) (hp : t.ports = s.ports) : Spares p l s t :=
  of_get (fun f _ => State.get_congr hr f) (State.get_congr hr _) (by rw [State.port, State.port, hp])

theorem set {f : Fld} (hf : ∀ g ∈ l, f.key ≠ g.key) (hi : f.key ≠ (PORT.INT p).key) (s : State) (v : Nat) : Spares p l s (s.set f v) :=
  of_get (fun g hg => State.get_set_of_ne s (hf g hg) v) (State.get_set_of_ne s hi v) rfl

theorem setPsvc (p : Nat) (l : List Fld) (s : State) (q : Nat) (x : PortSvc) : Spares p l s (s.setPsvc q x) := of_eq rfl rfl

theorem setPort (hp : p < 4) {x : PortState} (hx : x.link = (s.port p).link) : Spares p l s (s.setPort p x) :=
  of_get (fun _ _ => rfl) rfl (by rw [State.port_setPort_self s hp, hx])

/-- A field that moves in the port is written, but for its flags. -/
theorem move (hl : PortSettled p l) {f : Fld} (hf : f ∈ portMovingFlds p) (hi : f.key ≠ (PORT.INT p).key) (s : State) (v : Nat) :
    Spares p l s (s.set f v) :=
  set (fun g hg => (hl g hg).2 f hf) hi s v

/-- A flag of the port's INT is set. -/
theorem setFlag (hl : PortSettled p l) (s : State) (i : Nat) : Spares p l s (s.setBit (PORT.INT p) i true) :=
  ⟨fun f hf => State.get_set_of_ne s ((hl f hf).2 _ (by simp [portMovingFlds])) _, fun j hj h => s.bit_setBit_of_bit (PORT.INT p) i hj h, rfl⟩

section

variable (hp : p < 4) (hl : PortSettled p l)
include hp hl

/-- A step outside the blocks of the ports. -/
theorem outside (hg : ∀ f : Fld, f.inPorts → t.get f = s.get f) (hports : t.ports = s.ports) : Spares p l s t :=
  of_get (fun f hf => hg f (hl f hf).1) (hg _ (portInt_inPorts hp)) (by rw [State.port, State.port, hports])

theorem setOutside {f : Fld} (hlo : f.lo < 32) (hoff : f.off < 0x40000 ∨ 0x80000 ≤ f.off) (s : State) (v : Nat) : Spares p l s (s.set f v) :=
  outside hp hl (fun _ hg => State.get_set_of_ne s (key_ne_of_inPorts hg hlo hoff) v) rfl

theorem event (h : State.EventStep eventKey s t) : Spares p l s t :=
  outside hp hl (fun f hf => h.get f (eventKey_of_inPorts hf)) h.ports

theorem portEvent (s : State) (bit code : Nat) (d : List Byte) : Spares p l s (s.portEvent p bit code d) := by
  have hset := setFlag hl s bit
  unfold State.portEvent State.signalRise State.signal
  exact .ite (.refl p l s) (.ite (hset.trans (event hp hl (State.raise_event _ _ _ _ _))) hset)

/-- A counter that is none of `l` grows. -/
theorem statBy {n : Nat} (hn : ∀ f ∈ l, (PORT.STAT p n).key ≠ f.key) (s : State) (k : Nat) : Spares p l s (s.statBy p n k) := by
  have hne : ∀ f ∈ [PORT.STAT p n, PORT.STAT_HALF_LO p, PORT.STAT_HALF_HI p], f.key ≠ (PORT.INT p).key := by
    simp only [List.forall_mem_cons, List.not_mem_nil, false_implies, implies_true, and_true, Fld.key, PORT.STAT, PORT.STAT_HALF_LO,
      PORT.STAT_HALF_HI, PORT.INT]
    omega
  have hcount : Spares p l s (s.countBy (PORT.STAT p n) k) := set hn (hne _ (by simp)) s _
  unfold State.statBy
  exact .ite hcount ((hcount.trans (.ite (move hl (by simp [portMovingFlds]) (hne _ (by simp)) _ _)
    (move hl (by simp [portMovingFlds]) (hne _ (by simp)) _ _))).trans (portEvent hp hl _ _ _ _))

theorem discard (s : State) (k : Nat) : Spares p l s (s.statBy p Stat.TX_DISCARD k) :=
  statBy hp hl (fun f hf => (hl f hf).2 _ (by simp [portMovingFlds])) s k

/-- A step of the time engine. -/
theorem time {m : List Fld} (hm : ∀ g ∈ m, g.lo < 32 ∧ (g.off < 0x40000 ∨ 0x80000 ≤ g.off)) (h : State.TimeStep (among m) s t) :
    Spares p l s t := by
  refine outside hp hl (fun f hf => h.get f ?_) (by rw [h.rest])
  simp only [among, eventKey_of_inPorts hf, Bool.false_or, List.any_eq_false, beq_iff_eq]
  exact fun g hg => key_ne_of_inPorts hf (hm g hg).1 (hm g hg).2

/-- A step of Hearth. -/
theorem hearth {m : List Fld} (hm : ∀ g ∈ m, g.lo < 32 ∧ (g.off < 0x40000 ∨ 0x80000 ≤ g.off)) (h : State.ClkStep (among m) s t) :
    Spares p l s t := by
  refine outside hp hl (fun f hf => h.get f ?_) (by rw [h.rest])
  simp only [among, eventKey_of_inPorts hf, Bool.false_or, List.any_eq_false, beq_iff_eq]
  exact fun g hg => key_ne_of_inPorts hf (hm g hg).1 (hm g hg).2

end

end State.Spares

/-! ### What the engine sends, and its groups (R137, R379) -/

section

variable {p : Nat} {l : List Fld} (hp : p < 4) (hl : PortSettled p l)
include hp hl

theorem State.sendService_spares (s : State) (b : List Byte) : State.Spares p l s (s.sendService p b) := by
  unfold State.sendService
  exact .ite (.ite (.discard hp hl s 1) (.setPort hp rfl)) (.refl p l s)

theorem State.sendReport_spares (s : State) (g : Group) (leave : Bool) : State.Spares p l s (s.sendReport p g leave) := by
  have hsend := s.sendService_spares hp hl
  unfold State.sendReport
  extract_lets f g mac ty srcs sum src
  exact .ite (.ite (hsend _) (.ite (hsend _) (hsend _))) (.ite (hsend _) (.ite (hsend _) (hsend _)))

theorem State.reportChange_spares (s : State) (g : Group) (old : Nat × List Nat) : State.Spares p l s (s.reportChange p g old) :=
  .ite (.refl p l s) (s.sendReport_spares hp hl g false)

omit hp in
theorem State.setEntry_spares (s : State) {e : Nat} (he : e < 16) (mac : Nat) (on : Bool) : State.Spares p l s (s.setEntry p e mac on) := by
  have hmem : ∀ f ∈ [PORT.MATCH_ADDR_LO p e, PORT.MATCH_ADDR_HI p e, PORT.MATCH_EN p e], f ∈ portMovingFlds p ∧ f.key ≠ (PORT.INT p).key := by
    intro f hf
    refine ⟨List.mem_append_right _ (List.mem_flatMap.2 ⟨e, List.mem_range.2 he, hf⟩), ?_⟩
    simp only [List.mem_cons, List.not_mem_nil, or_false] at hf
    rcases hf with rfl | rfl | rfl <;> simp only [Fld.key, PORT.MATCH_ADDR_LO, PORT.MATCH_ADDR_HI, PORT.MATCH_EN, PORT.INT] <;> omega
  have hset := fun f (hf : f ∈ [PORT.MATCH_ADDR_LO p e, PORT.MATCH_ADDR_HI p e, PORT.MATCH_EN p e]) =>
    State.Spares.move hl (hmem f hf).1 (hmem f hf).2
  exact ((hset _ (by simp) s _).trans (hset _ (by simp) _ _)).trans (hset _ (by simp) _ _)

theorem State.joinGroup_spares (s : State) (ip addr reason mode : Nat) (sources : List Nat) :
    State.Spares p l s (s.joinGroup p ip addr reason mode sources) := by
  unfold State.joinGroup
  extract_lets x s1 old
  have hentry : State.Spares p l s s1 := by
    refine .ite (.refl p l s) ?_
    split
    · exact s.setEntry_spares hl (State.entryFor_lt ‹_›) _ _
    · exact .refl p l s
  split
  · exact (hentry.trans (.setPsvc p l s1 p _)).trans (State.reportChange_spares hp hl _ _ _)
  · exact (hentry.trans (.setPsvc p l s1 p _)).trans (State.sendReport_spares hp hl _ _ _)

theorem State.dropGroup_spares (s : State) (g : Group) : State.Spares p l s (s.dropGroup p g) := by
  unfold State.dropGroup
  extract_lets x old rest s1 mac s2
  have hput : State.Spares p l s s1 := .setPsvc p l s p _
  have hentry : State.Spares p l s1 s2 := by
    refine .ite (.refl p l s1) ?_
    split
    · exact .ite (.refl p l s1) (s1.setEntry_spares hl (List.mem_range.1 (List.mem_of_find?_eq_some ‹_›)) _ _)
    · exact .refl p l s1
  exact .ite (.setPsvc p l s p _) ((hput.trans hentry).trans
    (.ite (State.reportChange_spares hp hl _ _ _) (State.sendReport_spares hp hl _ _ _)))

theorem State.leaveGroup_spares (s : State) (ip addr reason : Nat) : State.Spares p l s (s.leaveGroup p ip addr reason) := by
  unfold State.leaveGroup
  split
  · exact .refl p l s
  · exact s.dropGroup_spares hp hl _

/-! ### Addresses (R378) -/

theorem State.ipEvent_spares (s : State) (code ip gained a : Nat) : State.Spares p l s (s.ipEvent code p ip gained a) :=
  .event hp hl (State.raise_event _ _ _ _ _)

theorem State.useV4_spares (s : State) (a : Nat) : State.Spares p l s (s.useV4 p a) := by
  unfold State.useV4
  extract_lets x old ip s1 s2
  have hput : State.Spares p l s s1 := .setPsvc p l s p _
  have hlost : State.Spares p l s1 s2 := .ite (.refl p l s1) (s1.ipEvent_spares hp hl _ _ _ _)
  exact .ite (.refl p l s) ((hput.trans hlost).trans (.ite (.refl p l s2) (s2.ipEvent_spares hp hl _ _ _ _)))

theorem State.startV4_spares (s : State) : State.Spares p l s (s.startV4 p) := by
  unfold State.startV4
  extract_lets s1 x ip s2
  have hput : State.Spares p l s s2 := (s.useV4_spares hp hl 0).trans (.setPsvc p l s1 p _)
  exact .ite (hput.trans (.setPsvc p l s2 p _)) (.ite (hput.trans (s2.sendService_spares hp hl _)) hput)

theorem State.tryV6_spares (s : State) (a : Nat) : State.Spares p l s (s.tryV6 p a) :=
  .ite (.refl p l s) (((State.Spares.setPsvc p l s p _).trans (State.joinGroup_spares hp hl _ _ _ _ _ _)).trans
    (State.sendService_spares hp hl _ _))

theorem State.dropV6_spares (s : State) (a : Nat) : State.Spares p l s (s.dropV6 p a) := by
  have hleft : ∀ x, State.Spares p l s ((s.setPsvc p x).leaveGroup p 6 (solicited a) 3) := fun x =>
    (State.Spares.setPsvc p l s p x).trans (State.leaveGroup_spares hp hl _ _ _ _)
  exact .ite ((hleft _).trans (State.ipEvent_spares hp hl _ _ _ _ _)) (hleft _)

theorem State.startV6_spares (s : State) : State.Spares p l s (s.startV6 p) := by
  unfold State.startV6
  extract_lets x held s1 want s2 s3
  have hdrop : ∀ xs : List Nat, State.Spares p l s (xs.foldl (fun s a => s.dropV6 p a) s) := fun xs =>
    .foldl (fun s a _ => s.dropV6_spares hp hl a) s
  have hjoin : State.Spares p l s2 s3 := .ite (s2.joinGroup_spares hp hl _ _ _ _ _) (.refl p l s2)
  exact .ite ((hdrop held).trans (.ite (.refl p l s1) (s1.leaveGroup_spares hp hl _ _ _)))
    (((hdrop _).trans hjoin).trans (.foldl (fun s a _ => s.tryV6_spares hp hl a) s3))

/-! ### PTP and Hearth follow the link (R55, R93) -/

theorem State.setPortState_spares (s : State) {q : Nat} (hq : q < 2) (n : Nat) :
    State.Spares p l s (s.setPortState q n) := by
  have hfar : ∀ q < 2, ∀ g ∈ portStateFlds q, g.lo < 32 ∧ (g.off < 0x40000 ∨ 0x80000 ≤ g.off) := by decide +kernel
  exact .time hp hl (hfar q hq) (s.setPortState_step hq n)

theorem State.ptpLink_spares (s : State) (q : Nat) (up : Bool) : State.Spares p l s (s.ptpLink q up) := by
  unfold State.ptpLink
  split
  · rename_i h
    obtain ⟨hq, -⟩ := h
    have hset := fun (u : State) n => u.setPortState_spares hp hl hq n
    split
    · unfold State.ptpStart
      extract_lets x s1 s2
      have hput : State.Spares p l s s1 := .of_eq rfl rfl
      exact (hput.trans (hset s1 1)).trans (.ite (hset s2 4) (hset s2 2))
    · exact hset s 2
  · exact .refl p l s

theorem State.refGone_spares (s : State) {n : Nat} (hn : n < 8) : State.Spares p l s (s.refGone n) := by
  have hfar : ∀ n < 8, ∀ g ∈ refLostFlds n, g.lo < 32 ∧ (g.off < 0x40000 ∨ 0x80000 ≤ g.off) := by decide +kernel
  exact .hearth hp hl (hfar n hn) (s.refGone_step hn)

end

end Sys2Proof.Machine

end

