-- ==== Sys2Proof/Proofs/PortLinkUp.lean ====
section

namespace Sys2Proof.Machine

/-! ## Counters and flags of a port (R147, R152) -/

/-- The flag of a port's event is set. -/
theorem State.bit_portEvent (s : State) {p : Nat} (hp : p < 4) {i : Nat} (hi : i < 7) (code : Nat) (d : List Byte) :
    (s.portEvent p i code d).bit (PORT.INT p) i = true := by
  unfold State.portEvent State.signalRise
  split
  · assumption
  · exact State.bit_signal _ _ _ _ _ _ _ _ hi (eventKey_of_inPorts (portInt_inPorts hp))

/-- A counter grows by what is counted. -/
theorem State.get_statBy_self (s : State) {p n : Nat} (hp : p < 4) (hn : n < 42) (k : Nat) :
    (s.statBy p n k).get (PORT.STAT p n) = (s.get (PORT.STAT p n) + k) % 2 ^ (PORT.STAT p n).w := by
  have hcount : (s.countBy (PORT.STAT p n) k).get (PORT.STAT p n) = (s.get (PORT.STAT p n) + k) % 2 ^ (PORT.STAT p n).w := State.get_set_self _ _ _
  have hin : (PORT.STAT p n).inPorts := by
    unfold Fld.inPorts
    simp only [PORT.STAT]
    omega
  have hlo : (PORT.STAT_HALF_LO p).key ≠ (PORT.STAT p n).key := by simp only [Fld.key, PORT.STAT, PORT.STAT_HALF_LO]; omega
  have hhi : (PORT.STAT_HALF_HI p).key ≠ (PORT.STAT p n).key := by simp only [Fld.key, PORT.STAT, PORT.STAT_HALF_HI]; omega
  have hint : (PORT.INT p).key ≠ (PORT.STAT p n).key := by simp only [Fld.key, PORT.STAT, PORT.INT]; omega
  have hevent : ∀ (u : State) (bit code : Nat) (d : List Byte), (u.portEvent p bit code d).get (PORT.STAT p n) = u.get (PORT.STAT p n) := by
    intro u bit code d
    unfold State.portEvent State.signalRise
    split
    · rfl
    · exact State.get_signal _ _ _ _ _ _ _ _ hint (eventKey_of_inPorts hin)
  unfold State.statBy
  extract_lets f top s1 s2
  split
  · exact hcount
  · rw [hevent, ← hcount]
    unfold s2
    split
    · exact State.get_set_of_ne _ hlo _
    · exact State.get_set_of_ne _ hhi _

/-! ## A link comes up (R126, R127) -/

/-- The status of a link that has come up: lock, speed, and what auto-negotiation and RS-FEC show. -/
def State.showLink (s : State) (p speed : Nat) : State :=
  let s := (s.set (PORT.LINK_UP p) 1).set (PORT.PCS_LOCK p) 1
  let s := s.set (PORT.SPEED p) (if s.get (PORT.LINE_MODE p) = 3 then min speed 2 else 2)
  let an := s.on (PORT.AN_EN p) && decide (2 ≤ s.get (PORT.LINE_MODE p))
  let fec := s.on (PORT.FEC_EN p) && s.get (PORT.LINE_MODE p) == 0
  (s.setOn (PORT.AN_DONE p) an).setOn (PORT.FEC_LOCK p) fec

/-- Its event. -/
def State.linkUpEvent (s : State) (p : Nat) : State :=
  s.portEvent p PORT.INT_LINK_UP 0x0401 [BitVec.ofNat 8 (s.get (PORT.LINE_MODE p)), BitVec.ofNat 8 (s.get (PORT.SPEED p))]

/-- Port p is UP, before addressing and PTP follow. -/
def State.cameUp (s : State) (p speed : Nat) : State := ((s.setPort p { s.port p with link := 2 }).showLink p speed).linkUpEvent p

theorem linkUp_of {s : State} {p speed : Nat} (hp : p ≤ 3) (hlink : (s.port p).link = 1)
    (hdown : s.boot.down.contains (3, if p < 2 then 3 + p else p - 1) = false) :
    Machine.exec (.linkUp p speed) s = if (s.cameUp p speed).get SYS.STATUS_STEP < 11 then .next (s.cameUp p speed)
      else .next (((if p < 2 then (s.cameUp p speed).ptpLink p true else s.cameUp p speed).startV4 p).startV6 p) := by
  have hexec : Machine.exec (.linkUp p speed) s = execLinkUp p speed s := rfl
  rw [hexec, execLinkUp, if_pos ⟨hp, hlink, by rw [hdown]; rfl⟩]
  rfl

/-- What LINK_UP and SPEED show while the link is up. -/
def linkShownFlds (p : Nat) : List Fld := [PORT.LINK_UP p, PORT.SPEED p]

theorem linkShown_settled : ∀ p < 4, PortSettled p (linkShownFlds p) := by decide +kernel

theorem State.showLink_writes (s : State) (p speed : Nat) :
    State.Writes [PORT.LINK_UP p, PORT.PCS_LOCK p, PORT.SPEED p, PORT.AN_DONE p, PORT.FEC_LOCK p] s (s.showLink p speed) :=
  (((((State.Writes.set (by simp) s _).trans (.set (by simp) _ _)).trans (.set (by simp) _ _)).trans (.set (by simp) _ _))).trans
    (.set (by simp) _ _)

theorem State.get_showLink (s : State) (p speed : Nat) : (s.showLink p speed).get (PORT.LINK_UP p) = 1 ∧
    (s.showLink p speed).get (PORT.SPEED p) = if s.get (PORT.LINE_MODE p) = 3 then min speed 2 else 2 := by
  unfold State.showLink State.setOn
  simp (disch := (simp only [Fld.key, PORT.LINK_UP, PORT.PCS_LOCK, PORT.SPEED, PORT.LINE_MODE, PORT.AN_DONE, PORT.FEC_LOCK]; omega)) only
    [State.get_set_of_ne, State.get_set_self]
  refine ⟨rfl, Nat.mod_eq_of_lt ?_⟩
  simp only [PORT.SPEED]
  split <;> omega

/-- Events behind a write of registers and ports touch no other unit. -/
theorem State.sameButEvents_withPorts {s u t : State} (hu : u = { s with regs := u.regs, ports := u.ports }) (h : u.sameButEvents t) :
    s.sameButEvents { t with ports := s.ports } := by
  unfold State.sameButEvents at h ⊢
  rw [h, hu]

theorem State.sameButEvents.port {s t : State} (h : s.sameButEvents t) (q : Nat) : t.port q = s.port q := by
  unfold State.sameButEvents at h
  rw [h]
  rfl

/-- Port p with its link, whose status is yet to be shown. -/
def State.linked (s : State) (p : Nat) : State := s.setPort p { s.port p with link := 2 }

/-- A port that finds its link is UP, and shows it. -/
theorem State.cameUp_shows (s : State) {p : Nat} (hp : p < 4) (speed : Nat) :
    s.sameButEvents { s.cameUp p speed with ports := s.ports } ∧ (s.cameUp p speed).port p = { s.port p with link := 2 } ∧
    (s.cameUp p speed).on (PORT.LINK_UP p) = true ∧ (s.cameUp p speed).bit (PORT.INT p) PORT.INT_LINK_UP = true ∧
    (s.cameUp p speed).get (PORT.SPEED p) = (if s.get (PORT.LINE_MODE p) = 3 then min speed 2 else 2) := by
  have hcame : s.cameUp p speed = ((s.linked p).showLink p speed).linkUpEvent p := rfl
  have hport : (s.linked p).port p = { s.port p with link := 2 } := State.port_setPort_self s hp _
  have hlinked : s.linked p = { s with ports := (s.linked p).ports } := rfl
  have hmode : (s.linked p).get (PORT.LINE_MODE p) = s.get (PORT.LINE_MODE p) := rfl
  rw [hcame]
  generalize s.linked p = u at *
  obtain ⟨hup, hspeed⟩ := u.get_showLink p speed
  have hwrites := (u.showLink_writes p speed).rest
  generalize u.showLink p speed = v at *
  have hevent : v.sameButEvents (v.linkUpEvent p) := v.portEvent_rest _ _ _ _
  have hkept : State.Spares p (linkShownFlds p) v (v.linkUpEvent p) := .portEvent hp (linkShown_settled p hp) v _ _ _
  have hports : v.ports = u.ports := by rw [hwrites]
  have hmoved : v = { s with regs := v.regs, ports := v.ports } := by rw [hports, hwrites, hlinked]
  refine ⟨State.sameButEvents_withPorts hmoved hevent, ?_, ?_, v.bit_portEvent hp (by decide) _ _, ?_⟩
  · rw [hevent.port, hwrites]
    exact hport
  · rw [State.on, hkept.get _ (by simp [linkShownFlds]), hup]
    rfl
  · rw [hkept.get _ (by simp [linkShownFlds]), hspeed, hmode]

theorem State.step_cameUp (s : State) {p : Nat} (hp : p < 4) (speed : Nat) : (s.cameUp p speed).get SYS.STATUS_STEP = s.get SYS.STATUS_STEP := by
  have hkeys : ∀ p < 4, ∀ g ∈ [PORT.LINK_UP p, PORT.PCS_LOCK p, PORT.SPEED p, PORT.AN_DONE p, PORT.FEC_LOCK p], g.key ≠ SYS.STATUS_STEP.key := by
    decide +kernel
  have hshown : ((s.setPort p { s.port p with link := 2 }).showLink p speed).get SYS.STATUS_STEP = s.get SYS.STATUS_STEP :=
    ((s.setPort p { s.port p with link := 2 }).showLink_writes p speed).get _ (hkeys p hp)
  exact ((State.portEvent_side _ hp _ _ _).get _ (by decide)).trans hshown

/-- Addressing and PTP start with row 11 of the start, and leave the link. -/
theorem State.linkFollowed_spares (s : State) {p : Nat} (hp : p < 4) :
    State.Spares p (linkShownFlds p) s (((if p < 2 then s.ptpLink p true else s).startV4 p).startV6 p) := by
  have hl := linkShown_settled p hp
  exact ((State.Spares.ite (s.ptpLink_spares hp hl p true) (.refl p _ s)).trans (State.startV4_spares hp hl _)).trans
    (State.startV6_spares hp hl _)

/-- Before row 11 nothing else follows. -/
theorem linkUp_early {s : State} {p : Nat} (hp : p ≤ 3) (speed : Nat) (hlink : (s.port p).link = 1)
    (hdown : s.boot.down.contains (3, if p < 2 then 3 + p else p - 1) = false) (hstep : s.get SYS.STATUS_STEP < 11) :
    ∃ t, Machine.exec (.linkUp p speed) s = .next t ∧ s.sameButEvents { t with ports := s.ports } ∧ t.port p = { s.port p with link := 2 } ∧
      t.on (PORT.LINK_UP p) = true ∧ t.bit (PORT.INT p) PORT.INT_LINK_UP = true ∧
      t.get (PORT.SPEED p) = (if s.get (PORT.LINE_MODE p) = 3 then min speed 2 else 2) := by
  have hp4 : p < 4 := by omega
  refine ⟨_, (linkUp_of hp hlink hdown).trans (if_pos ?_), s.cameUp_shows hp4 speed⟩
  rwa [s.step_cameUp hp4]

theorem linkUp_late {s : State} {p : Nat} (hp : p ≤ 3) (speed : Nat) (hlink : (s.port p).link = 1)
    (hdown : s.boot.down.contains (3, if p < 2 then 3 + p else p - 1) = false) (hstep : 11 ≤ s.get SYS.STATUS_STEP) :
    ∃ t, Machine.exec (.linkUp p speed) s = .next t ∧ (t.port p).link = 2 ∧ t.on (PORT.LINK_UP p) = true ∧
      t.bit (PORT.INT p) PORT.INT_LINK_UP = true ∧ t.get (PORT.SPEED p) = (if s.get (PORT.LINE_MODE p) = 3 then min speed 2 else 2) := by
  have hp4 : p < 4 := by omega
  obtain ⟨-, hport, hup, hflag, hspeed⟩ := s.cameUp_shows hp4 speed
  have hkept := (s.cameUp p speed).linkFollowed_spares hp4
  refine ⟨_, (linkUp_of hp hlink hdown).trans (if_neg ?_), ?_, ?_, hkept.flag _ (by decide) hflag, ?_⟩
  · rw [s.step_cameUp hp4]
    omega
  · rw [hkept.link, hport]
  · rwa [State.on, hkept.get _ (by simp [linkShownFlds])]
  · rw [hkept.get _ (by simp [linkShownFlds]), hspeed]

end Sys2Proof.Machine

end

