-- ==== Sys2Proof/Proofs/PortLinkDown.lean ====
section

namespace Sys2Proof.Machine

/-! ## The buffers of a port empty (R139, R141) -/

/-- Port p after its transmit buffer is flushed: SERVICE frames beyond the partition still wait (R137). -/
def PortState.flushed (x : PortState) : PortState :=
  { x with stream := [], ptp := [], service := (inPartition 24576 x.service).2, host := [], pauses := [], pausing := false }

/-- Frames of streams that are flushed count at their legs. -/
def State.dropsCounted (s : State) (p : Nat) : State := (s.port p).stream.foldl (fun s f => s.count (TXC.LINK_DROP f.stream f.leg)) s

/-- The host's items with frames that are flushed. -/
def State.hostItems (s : State) (p : Nat) : List TxItem :=
  s.dma.items.filter (fun o => o.port == p && (s.port p).host.any (fun f => f.host == some (48 + p, o.id)))

/-- The buffer is flushed, and the host's items are over. -/
def State.flushed (s : State) (p : Nat) : State :=
  (s.hostItems p).foldl (fun s it => s.itemDone it 2) ((s.dropsCounted p).setPort p (s.port p).flushed)

theorem State.flushTx_of (s : State) (p : Nat) : (s.flushTx p).2 = (s.flushed p).statBy p Stat.TX_DISCARD (s.flushTx p).1 := rfl

theorem State.ports_dropsCounted (s : State) (p : Nat) : (s.dropsCounted p).ports = s.ports := by
  unfold State.dropsCounted
  exact List.foldlRecOn (motive := fun (u : State) => u.ports = s.ports) (s.port p).stream _ rfl (fun u hu f _ => hu)

theorem State.ports_flushed (s : State) (p : Nat) : (s.flushed p).ports = ((s.dropsCounted p).setPort p (s.port p).flushed).ports := by
  unfold State.flushed
  exact List.foldlRecOn (motive := fun (u : State) => u.ports = ((s.dropsCounted p).setPort p (s.port p).flushed).ports) (s.hostItems p) _ rfl
    (fun u hu it _ => hu)

section

variable {p : Nat} {l : List Fld} (hp : p < 4) (hl : PortSettled p l)
include hp hl

theorem State.settlePause_spares (s : State) : State.Spares p l s (s.settlePause p) := by
  have hcount : ∀ (u : State) k, State.Spares p l u (u.statBy p Stat.TX_PAUSED_US k) :=
    .statBy hp hl (fun f hf => (hl f hf).2 _ (by simp [portMovingFlds]))
  unfold State.settlePause
  extract_lets x c
  have hport : State.Spares p l s (s.setPort p { x with pausedAt := s.cycles, pausedRem := c % cyclesPerUs }) := .setPort hp rfl
  exact .ite (hport.trans (hcount _ _)) (.refl p l s)

theorem State.loadTimer_spares (s : State) (q : Nat) : State.Spares p l s (s.loadTimer p q) := by
  have hne : (PORT.TX_PAUSED p).key ≠ (PORT.INT p).key := by simp only [Fld.key, PORT.TX_PAUSED, PORT.INT]; omega
  unfold State.loadTimer
  extract_lets s1 x s2
  have hport : State.Spares p l s1 s2 := .setPort hp rfl
  exact ((s.settlePause_spares hp hl).trans hport).trans (.move hl (by simp [portMovingFlds]) hne s2 _)

theorem State.flushTx_spares (s : State) : State.Spares p l s (s.flushTx p).2 := by
  have hdrops : State.Spares p l s (s.dropsCounted p) := by
    unfold State.dropsCounted
    have hfar : ∀ i leg, 0x80000 ≤ (TXC.LINK_DROP i leg).off := fun i leg => by simp only [TXC.LINK_DROP]; omega
    exact .foldl (fun u f _ => .setOutside hp hl (f := TXC.LINK_DROP f.stream f.leg) (by simp [TXC.LINK_DROP]) (Or.inr (hfar _ _)) u _) s
  have hempty : State.Spares p l (s.dropsCounted p) ((s.dropsCounted p).setPort p (s.port p).flushed) :=
    .setPort hp (by rw [State.port, State.port, s.ports_dropsCounted]; rfl)
  have hover : State.Spares p l ((s.dropsCounted p).setPort p (s.port p).flushed) (s.flushed p) := by
    unfold State.flushed
    exact .foldl (g := fun u it => u.itemDone it 2) (fun u it _ => .of_eq rfl rfl) _
  rw [s.flushTx_of p]
  exact ((hdrops.trans hempty).trans hover).trans (.discard hp hl _ _)

omit hl in
theorem State.advertise_spares (s : State) : State.Spares p l s (s.advertise p) := .setPort hp rfl

end

theorem State.port_flushTx (s : State) {p : Nat} (hp : p < 4) : (s.flushTx p).2.port p = (s.port p).flushed := by
  rw [State.port, s.flushTx_of p, State.ports_statBy, s.ports_flushed p]
  exact State.port_setPort_self (s.dropsCounted p) hp _

theorem State.settlePause_keeps (s : State) {p : Nat} (hp : p < 4) :
    ∃ a b, (s.settlePause p).port p = { s.port p with pausedAt := a, pausedRem := b } := by
  unfold State.settlePause
  split
  · refine ⟨s.cycles, ((s.port p).pausedRem + (s.cycles - (s.port p).pausedAt)) % cyclesPerUs, ?_⟩
    rw [State.port, State.ports_statBy]
    exact State.port_setPort_self s hp _
  · exact ⟨_, _, rfl⟩

/-- The pause timer and its accounts are all that loading it moves in the port. -/
theorem State.port_loadTimer (s : State) {p : Nat} (hp : p < 4) (q : Nat) : ∃ a b, (s.loadTimer p q).port p =
    { s.port p with timer := q, pausedAt := a, pausedRem := b } := by
  obtain ⟨a, b, hport⟩ := s.settlePause_keeps hp
  unfold State.loadTimer
  extract_lets s1 x s2
  refine ⟨if s1.on (PORT.TX_PAUSED p) then x.pausedAt else s1.cycles, b, (State.port_setPort_self s1 hp _).trans ?_⟩
  rw [show x = _ from hport]

/-! ## A link goes down (R127) -/

/-- Port p with its pause over and its transmit buffer flushed. -/
def State.emptied (s : State) (p : Nat) : State := ((s.loadTimer p 0).flushTx p).2

theorem State.emptied_spares {p : Nat} {l : List Fld} (hp : p < 4) (hl : PortSettled p l) (s : State) : State.Spares p l s (s.emptied p) :=
  (s.loadTimer_spares hp hl 0).trans (State.flushTx_spares hp hl _)

/-- The status of a link that has gone down. -/
def linkStatusFlds (p : Nat) : List Fld := [PORT.LINK_UP p, PORT.AN_DONE p, PORT.PCS_LOCK p, PORT.FEC_LOCK p]

/-- Port p leaves its state with a cause: what its status shows. -/
def State.showDown (s : State) (p cause : Nat) : State :=
  let s := (s.set (PORT.LINK_UP p) 0).set (PORT.AN_DONE p) 0
  if cause = 1 then s else (s.set (PORT.PCS_LOCK p) 0).set (PORT.FEC_LOCK p) 0

/-- Port p in its new state, and its status. -/
def State.leftLink (s : State) (p cause : Nat) : State := (s.setPort p { s.port p with link := if cause = 2 then 0 else 1 }).showDown p cause

/-- The SyncE reference of a media port goes with its lock. -/
def State.lockGone (s : State) (p cause : Nat) : State := if cause ≠ 1 ∧ p < 2 then s.refGone (4 + p) else s

def State.unlinked (s : State) (p cause : Nat) : State := ((s.leftLink p cause).lockGone p cause).advertise p

/-- The account of a link that was up, `n` frames of which are lost. -/
def State.downNoted (s : State) (p cause n : Nat) : State :=
  let s := (s.stat p Stat.LINK_DOWN).portEvent p PORT.INT_LINK_DOWN 0x0402 ([BitVec.ofNat 8 cause, 0, 0, 0] ++ le 4 n)
  if p < 2 then s.ptpLink p false else s

/-- A frame that was being received is lost with the link. -/
def State.brokenFrame (s : State) (p : Nat) (part : Bool) : State := if part then s.stat p Stat.RX_CODE_ERR else s

theorem State.linkDown_up {s : State} {p : Nat} (cause : Nat) (part : Bool) (hup : s.on (PORT.LINK_UP p) = true) : s.linkDown p cause part =
    (((s.brokenFrame p part).emptied p).unlinked p cause).downNoted p cause (((s.brokenFrame p part).loadTimer p 0).flushTx p).1 := by
  unfold State.linkDown
  simp only [hup, Bool.and_true, if_true]
  rfl

theorem State.linkDown_quiet {s : State} {p : Nat} (cause : Nat) (part : Bool) (hup : s.on (PORT.LINK_UP p) = false) : s.linkDown p cause part =
    (s.emptied p).unlinked p cause := by
  unfold State.linkDown
  simp only [hup, Bool.and_false, Bool.false_eq_true, if_false]
  rfl

theorem State.showDown_writes (s : State) (p cause : Nat) : State.Writes (linkStatusFlds p) s (s.showDown p cause) := by
  have hset : ∀ (u : State), ∀ f ∈ linkStatusFlds p, State.Writes (linkStatusFlds p) u (u.set f 0) := fun u f hf => .set hf u 0
  unfold State.showDown
  extract_lets s1
  have hboth : State.Writes (linkStatusFlds p) s s1 := (hset _ _ (by simp [linkStatusFlds])).trans (hset _ _ (by simp [linkStatusFlds]))
  split
  · exact hboth
  · exact (hboth.trans (hset _ _ (by simp [linkStatusFlds]))).trans (hset _ _ (by simp [linkStatusFlds]))

theorem State.on_showDown (s : State) (p cause : Nat) : (s.showDown p cause).on (PORT.LINK_UP p) = false := by
  have hzero : (s.showDown p cause).get (PORT.LINK_UP p) = 0 := by
    unfold State.showDown
    split <;> simp (disch := (simp only [Fld.key, PORT.LINK_UP, PORT.PCS_LOCK, PORT.AN_DONE, PORT.FEC_LOCK]; omega)) only
      [State.get_set_of_ne, State.get_set_self, Nat.zero_mod]
  rw [State.on, hzero]
  rfl

theorem State.ports_lockGone (s : State) {p : Nat} (hp : p < 4) (cause : Nat) : (s.lockGone p cause).ports = s.ports := by
  unfold State.lockGone
  split
  · rw [(s.refGone_step (show 4 + p < 8 by omega)).rest]
  · rfl

/-- What follows the status: the SyncE reference goes with the lock, and the PCS advertises anew. -/
theorem State.unlinked_spares {p : Nat} {l : List Fld} (hp : p < 4) (hl : PortSettled p l) (s : State) (cause : Nat) :
    State.Spares p l (s.leftLink p cause) (s.unlinked p cause) :=
  (State.Spares.ite (State.refGone_spares hp hl _ (by omega)) (.refl p l _)).trans (State.advertise_spares hp _)

/-- Port p in its new state: nothing else of it changes but the page it advertises. -/
theorem State.port_unlinked (s : State) {p : Nat} (hp : p < 4) (cause : Nat) : ∃ a, (s.unlinked p cause).port p =
    { s.port p with link := if cause = 2 then 0 else 1, advert := a } := by
  have hleft : ((s.leftLink p cause).lockGone p cause).port p = { s.port p with link := if cause = 2 then 0 else 1 } := by
    rw [State.port, State.ports_lockGone _ hp, State.leftLink, (State.showDown_writes _ p cause).rest]
    exact State.port_setPort_self s hp _
  exact ⟨_, (State.port_setPort_self _ hp _).trans (by rw [hleft])⟩

theorem State.unlinked_get {p : Nat} {l : List Fld} (hp : p < 4) (hl : PortSettled p l)
    (hstatus : ∀ f ∈ l, ∀ g ∈ linkStatusFlds p, g.key ≠ f.key) (s : State) (cause : Nat) :
    ∀ f ∈ l, (s.unlinked p cause).get f = s.get f := fun f hf =>
  ((s.unlinked_spares hp hl cause).get f hf).trans ((State.showDown_writes _ p cause).get f (hstatus f hf))

theorem linkUp_settled : ∀ p < 4, PortSettled p [PORT.LINK_UP p] := by decide +kernel

theorem lossCount_settled : ∀ p < 4, PortSettled p [PORT.STAT p Stat.LINK_DOWN] := by decide +kernel

theorem codeErr_settled : ∀ p < 4, PortSettled p [PORT.STAT p Stat.RX_CODE_ERR] := by decide +kernel

theorem lossCounts_apart : ∀ p < 4, (∀ g ∈ linkStatusFlds p, g.key ≠ (PORT.STAT p Stat.RX_CODE_ERR).key) ∧
    (∀ g ∈ linkStatusFlds p, g.key ≠ (PORT.STAT p Stat.LINK_DOWN).key) ∧
    (PORT.STAT p Stat.RX_CODE_ERR).key ≠ (PORT.STAT p Stat.LINK_DOWN).key := by decide +kernel

theorem State.on_unlinked (s : State) {p : Nat} (hp : p < 4) (cause : Nat) : (s.unlinked p cause).on (PORT.LINK_UP p) = false := by
  rw [State.on, (s.unlinked_spares hp (linkUp_settled p hp) cause).get _ (List.mem_singleton_self _)]
  exact State.on_showDown _ p cause

theorem State.downNoted_spares {p : Nat} {l : List Fld} (hp : p < 4) (hl : PortSettled p l)
    (hcount : ∀ f ∈ l, (PORT.STAT p Stat.LINK_DOWN).key ≠ f.key) (s : State) (cause n : Nat) : State.Spares p l s (s.downNoted p cause n) := by
  unfold State.downNoted
  extract_lets s1
  have hevent : State.Spares p l s s1 := (State.Spares.statBy hp hl hcount s 1).trans (.portEvent hp hl _ _ _ _)
  exact hevent.trans (.ite (s1.ptpLink_spares hp hl p false) (.refl p l s1))

theorem State.port_ptpLinkLost (s : State) (p q : Nat) : (s.ptpLink q false).port p = s.port p := by
  unfold State.ptpLink
  split
  · rename_i h
    obtain ⟨hq, -⟩ := h
    rw [State.port, if_neg Bool.false_ne_true, (s.setPortState_step hq 2).rest]
    rfl
  · rfl

theorem State.port_downNoted (s : State) (p cause n : Nat) : (s.downNoted p cause n).port p = s.port p := by
  have hcount : (s.stat p Stat.LINK_DOWN).port p = s.port p := by rw [State.port, State.stat, State.ports_statBy, ← State.port]
  have hevent := fun d => (State.portEvent_rest (s.stat p Stat.LINK_DOWN) p PORT.INT_LINK_DOWN 0x0402 d).port p
  unfold State.downNoted
  extract_lets s1
  rw [← hcount, ← hevent]
  split
  · exact s1.port_ptpLinkLost p p
  · rfl

theorem State.brokenFrame_spares {p : Nat} {l : List Fld} (hp : p < 4) (hl : PortSettled p l)
    (hcount : ∀ f ∈ l, (PORT.STAT p Stat.RX_CODE_ERR).key ≠ f.key) (s : State) (part : Bool) : State.Spares p l s (s.brokenFrame p part) :=
  .ite (.statBy hp hl hcount s 1) (.refl p l s)

theorem State.get_brokenFrame (s : State) {p : Nat} (hp : p < 4) (part : Bool) :
    (s.brokenFrame p part).get (PORT.STAT p Stat.RX_CODE_ERR) = (s.get (PORT.STAT p Stat.RX_CODE_ERR) + if part then 1 else 0) % 2 ^ 32 := by
  cases part with
  | false => exact (Nat.mod_eq_of_lt (s.get_lt (PORT.STAT p Stat.RX_CODE_ERR))).symm
  | true => exact s.get_statBy_self hp (by decide) 1

theorem State.port_brokenFrame (s : State) (p : Nat) (part : Bool) : (s.brokenFrame p part).port p = s.port p := by
  cases part with
  | false => rfl
  | true => exact congrArg (fun ports => unitAt ports p PortState.reset) (s.ports_statBy p Stat.RX_CODE_ERR 1)

/-- The account of a loss is in the flag and the counter. -/
theorem State.downNoted_flags (s : State) {p : Nat} (hp : p < 4) (cause n : Nat) :
    (s.downNoted p cause n).bit (PORT.INT p) PORT.INT_LINK_DOWN = true ∧
    (s.downNoted p cause n).get (PORT.STAT p Stat.LINK_DOWN) = (s.get (PORT.STAT p Stat.LINK_DOWN) + 1) % 2 ^ 32 := by
  have hl : PortSettled p [PORT.STAT p Stat.LINK_DOWN] := lossCount_settled p hp
  have hcount : (s.stat p Stat.LINK_DOWN).get (PORT.STAT p Stat.LINK_DOWN) = (s.get (PORT.STAT p Stat.LINK_DOWN) + 1) % 2 ^ 32 :=
    s.get_statBy_self hp (by decide) 1
  unfold State.downNoted
  extract_lets s1
  have hevent : s1.get (PORT.STAT p Stat.LINK_DOWN) = (s.stat p Stat.LINK_DOWN).get (PORT.STAT p Stat.LINK_DOWN) :=
    (State.Spares.portEvent hp hl _ _ _ _).get _ (List.mem_singleton_self _)
  have hrest : State.Spares p [PORT.STAT p Stat.LINK_DOWN] s1 (if p < 2 then s1.ptpLink p false else s1) :=
    .ite (s1.ptpLink_spares hp hl p false) (.refl p _ s1)
  exact ⟨hrest.flag _ (by decide) (State.bit_portEvent _ hp (by decide) _ _), (hrest.get _ (List.mem_singleton_self _)).trans (hevent.trans hcount)⟩

theorem linkLoss_of {s : State} {p cause : Nat} (hp : p ≤ 3) (hcause : cause ≤ 1) (hlink : (s.port p).link = 2) (part : Bool) :
    Machine.exec (.linkLoss p cause part) s = .next (s.linkDown p cause part) := by
  have hexec : Machine.exec (.linkLoss p cause part) s = execLinkLoss p cause part s := rfl
  rw [hexec, execLinkLoss, if_pos ⟨hp, hcause, hlink⟩]

/-- The fields of a link that is down, with its counters. -/
theorem State.linkDown_shows {s : State} {p cause : Nat} (hp : p < 4) (part : Bool) (hup : s.on (PORT.LINK_UP p) = true) :
    (s.linkDown p cause part).on (PORT.LINK_UP p) = false ∧ (s.linkDown p cause part).bit (PORT.INT p) PORT.INT_LINK_DOWN = true ∧
    (s.linkDown p cause part).get (PORT.STAT p Stat.RX_CODE_ERR) = (s.get (PORT.STAT p Stat.RX_CODE_ERR) + if part then 1 else 0) % 2 ^ 32 ∧
    (s.linkDown p cause part).get (PORT.STAT p Stat.LINK_DOWN) = (s.get (PORT.STAT p Stat.LINK_DOWN) + 1) % 2 ^ 32 := by
  have herr := codeErr_settled p hp
  have hloss := lossCount_settled p hp
  have hshown := linkUp_settled p hp
  obtain ⟨herrApart, hlossApart, herrLoss⟩ := lossCounts_apart p hp
  have hbroken := State.brokenFrame_spares hp hloss (by simpa using herrLoss) s part
  have hbefore := s.get_brokenFrame hp part
  rw [State.linkDown_up cause part hup]
  generalize (((s.brokenFrame p part).loadTimer p 0).flushTx p).1 = n
  generalize s.brokenFrame p part = u at *
  have hemptyErr := State.emptied_spares hp herr u
  have hemptyLoss := State.emptied_spares hp hloss u
  generalize u.emptied p = v at *
  have hup' := v.on_unlinked hp cause
  have hleftErr := v.unlinked_get hp herr (by simpa using herrApart) cause
  have hleftLoss := v.unlinked_get hp hloss (by simpa using hlossApart) cause
  generalize v.unlinked p cause = x at *
  obtain ⟨hflag, hcount⟩ := x.downNoted_flags hp cause n
  have hnotedErr := State.downNoted_spares hp herr (by simpa using herrLoss.symm) x cause n
  have hnotedUp := State.downNoted_spares hp hshown (by simpa using (hlossApart _ (List.mem_cons_self ..)).symm) x cause n
  simp only [List.forall_mem_singleton] at hleftErr hleftLoss
  refine ⟨?_, hflag, ?_, ?_⟩
  · rwa [State.on, hnotedUp.get _ (List.mem_singleton_self _)]
  · rw [hnotedErr.get _ (List.mem_singleton_self _), hleftErr, hemptyErr.get _ (List.mem_singleton_self _), hbefore]
  · rw [hcount, hleftLoss, hemptyLoss.get _ (List.mem_singleton_self _), hbroken.get _ (List.mem_singleton_self _)]

/-- A port whose link is lost: its state, and its buffers. -/
theorem State.port_linkDown {s : State} {p : Nat} (hp : p < 4) (cause : Nat) (part : Bool) : ∃ a b c, (s.linkDown p cause part).port p =
    { (s.port p).flushed with link := if cause = 2 then 0 else 1, timer := 0, pausedAt := a, pausedRem := b, advert := c } := by
  have hleft : ∀ u : State, ∃ a b c, ((u.emptied p).unlinked p cause).port p =
      { (u.port p).flushed with link := if cause = 2 then 0 else 1, timer := 0, pausedAt := a, pausedRem := b, advert := c } := by
    intro u
    obtain ⟨a, b, htimer⟩ := u.port_loadTimer hp 0
    obtain ⟨c, hlink⟩ := (u.emptied p).port_unlinked hp cause
    refine ⟨a, b, c, hlink.trans ?_⟩
    rw [State.emptied, State.port_flushTx _ hp, htimer]
    rfl
  cases hup : s.on (PORT.LINK_UP p) with
  | false =>
    rw [State.linkDown_quiet cause part hup]
    exact hleft s
  | true =>
    rw [State.linkDown_up cause part hup, State.port_downNoted, ← s.port_brokenFrame p part]
    exact hleft _

/-- R127, R139: a port that loses its link. -/
theorem linkLoss_flushes {s : State} {p cause : Nat} (hp : p ≤ 3) (hcause : cause ≤ 1) (part : Bool) (hlink : (s.port p).link = 2)
    (hup : s.on (PORT.LINK_UP p) = true) :
    ∃ t, Machine.exec (.linkLoss p cause part) s = .next t ∧ (t.port p).link = 1 ∧ t.on (PORT.LINK_UP p) = false ∧
      (t.port p).stream = [] ∧ (t.port p).ptp = [] ∧ (t.port p).host = [] ∧ (t.port p).pauses = [] ∧ (t.port p).rx = (s.port p).rx ∧
      (t.port p).service = (inPartition 24576 (s.port p).service).2 ∧ t.bit (PORT.INT p) PORT.INT_LINK_DOWN = true ∧
      t.get (PORT.STAT p Stat.RX_CODE_ERR) = (s.get (PORT.STAT p Stat.RX_CODE_ERR) + if part then 1 else 0) % 2 ^ 32 ∧
      t.get (PORT.STAT p Stat.LINK_DOWN) = (s.get (PORT.STAT p Stat.LINK_DOWN) + 1) % 2 ^ 32 := by
  have hp4 : p < 4 := by omega
  obtain ⟨a, b, c, hport⟩ := s.port_linkDown hp4 cause part
  obtain ⟨hdown, hflag, herr, hcount⟩ := s.linkDown_shows hp4 (cause := cause) part hup
  refine ⟨_, linkLoss_of hp hcause hlink part, ?_⟩
  rw [hport]
  exact ⟨if_neg (by omega), hdown, rfl, rfl, rfl, rfl, rfl, rfl, hflag, herr, hcount⟩

end Sys2Proof.Machine

end

