-- ==== Sys2Proof/Proofs/PassedParams.lean ====
section

namespace Sys2Proof.Machine

/-! ## What check 8 has seen (R355 to R357, R365) -/

theorem tlvOk_of_firstBad {sch : List PSpec} {p before : List Tlv} {off : Nat} (h : firstBad sch before p off = none) :
    ∀ t ∈ p, tlvOk sch t = true := by
  induction p generalizing before off with
  | nil => exact fun t ht => absurd ht List.not_mem_nil
  | cons a p ih =>
    unfold firstBad at h
    split at h
    · rename_i hok
      have ha : tlvOk sch a = true := (Bool.and_eq_true _ _ ▸ hok).1
      exact List.forall_mem_cons.2 ⟨ha, ih h⟩
    · cases h

/-- A request that is not refused is not barred, each of its parameters passes, and none it needs is missing. -/
theorem State.of_refuses {s : State} {r : Req} {op : Nat} {sch : List PSpec} {p : Params} (h : s.refuses r op sch p = none) :
    (∀ t ∈ p, tlvOk sch t = true) ∧ ∀ q ∈ sch, q.req = true → Params.has p q.ty = true := by
  unfold State.refuses checkParams at h
  split at h
  · cases h
  split at h
  · cases h
  next hbad =>
    split at h
    · rename_i hall
      exact ⟨tlvOk_of_firstBad hbad, fun q hq hreq => by simpa [hreq] using List.all_eq_true.1 hall q hq⟩
    · cases h

theorem Params.mem_of_val? {p : Params} {ty x : Nat} (h : Params.val? p ty = some x) : ∃ t ∈ p, t.ty = ty ∧ t.val = x := by
  obtain ⟨t, hfind, hval⟩ := Option.map_eq_some_iff.1 h
  exact ⟨t, List.mem_of_find?_eq_some hfind, by simpa using List.find?_some hfind, hval⟩

theorem Params.val?_of_has {p : Params} {ty : Nat} (h : Params.has p ty = true) : ∃ x, Params.val? p ty = some x := by
  obtain ⟨t, ht, hty⟩ := List.any_eq_true.1 h
  obtain ⟨u, hu⟩ := Option.isSome_iff_exists.1 ((List.find?_isSome (p := fun u => u.ty == ty)).2 ⟨t, ht, hty⟩)
  exact ⟨u.val, by rw [Params.val?, hu]; rfl⟩

/-- The value of a parameter that passed lies in its range. -/
theorem State.val?_range {s : State} {r : Req} {op : Nat} {sch : List PSpec} {p : Params} (h : s.refuses r op sch p = none) {q : PSpec}
    (hq : sch.find? (fun z => z.ty == q.ty) = some q) (hty : q.ty < 0xF000) {x : Nat} (hx : Params.val? p q.ty = some x) : q.lo ≤ x ∧ x ≤ q.hi := by
  obtain ⟨t, ht, heq, rfl⟩ := Params.mem_of_val? hx
  have hok := (State.of_refuses h).1 t ht
  have huniversal : universalOk t = false := by
    unfold universalOk
    rw [heq, beq_false_of_ne (show q.ty ≠ 0xF001 by omega), beq_false_of_ne (show q.ty ≠ 0xF002 by omega)]
    rfl
  unfold tlvOk at hok
  rw [huniversal, heq, hq] at hok
  simp only [Bool.false_or, Bool.and_eq_true, decide_eq_true_eq] at hok
  exact hok.1.2

/-- The value of a parameter that is needed is there, and lies in its range. -/
theorem State.val_range {s : State} {r : Req} {op : Nat} {sch : List PSpec} {p : Params} (h : s.refuses r op sch p = none) {q : PSpec}
    (hq : sch.find? (fun z => z.ty == q.ty) = some q) (hty : q.ty < 0xF000) (hreq : q.req = true) :
    q.lo ≤ Params.val p q.ty ∧ Params.val p q.ty ≤ q.hi := by
  obtain ⟨x, hx⟩ := Params.val?_of_has ((State.of_refuses h).2 q (List.mem_of_find?_eq_some hq) hreq)
  rw [Params.val, hx]
  exact s.val?_range h hq hty hx

end Sys2Proof.Machine

end

