-- ==== Sys2Proof/Proofs/PortSet.lean ====
section

namespace Sys2Proof.Machine

/-! ## Enabling and disabling a port (R127) -/

/-- The fields of `l` are none of those that a link going down shows or counts. -/
abbrev LinkApart (p : Nat) (l : List Fld) : Prop :=
  ∀ f ∈ l, ∀ g ∈ [PORT.STAT p Stat.RX_CODE_ERR, PORT.STAT p Stat.LINK_DOWN] ++ linkStatusFlds p, g.key ≠ f.key

section

variable {p : Nat} {l : List Fld} (hp : p < 4) (hl : PortSettled p l) (hapart : LinkApart p l)
include hp hl hapart

theorem State.linkDown_get (s : State) (cause : Nat) (part : Bool) : ∀ f ∈ l, (s.linkDown p cause part).get f = s.get f := by
  have hstatus : ∀ f ∈ l, ∀ g ∈ linkStatusFlds p, g.key ≠ f.key := fun f hf g hg => hapart f hf g (List.mem_append_right _ hg)
  have hleft : ∀ u : State, ∀ f ∈ l, ((u.emptied p).unlinked p cause).get f = u.get f := fun u f hf =>
    (State.unlinked_get hp hl hstatus _ cause f hf).trans ((State.emptied_spares hp hl u).get f hf)
  intro f hf
  cases hup : s.on (PORT.LINK_UP p) with
  | false =>
    rw [State.linkDown_quiet cause part hup]
    exact hleft s f hf
  | true =>
    have hbroken := State.brokenFrame_spares hp hl (fun g hg => hapart g hg _ (by simp)) s part
    rw [State.linkDown_up cause part hup, (State.downNoted_spares hp hl (fun g hg => hapart g hg _ (by simp)) _ _ _).get f hf, hleft _ f hf,
      hbroken.get f hf]

theorem State.portEnable_get (s : State) (on : Bool) : ∀ f ∈ l, (s.portEnable p on).get f = s.get f := by
  intro f hf
  unfold State.portEnable
  split
  · split
    · rfl
    · rfl
  · split
    · exact (s.flushTx_spares hp hl).get f hf
    · split
      · exact State.linkDown_get hp hl hapart { s with freeCtr := s.freeCtr + 1 } 2 _ f hf
      · exact s.linkDown_get hp hl hapart 2 false f hf

end

/-- A DISABLED port that is enabled is DOWN; a port that is disabled is DISABLED. -/
theorem State.link_portEnable (s : State) {p : Nat} (hp : p < 4) (on : Bool) : ((s.portEnable p on).port p).link =
    if on then (if (s.port p).link = 0 then 1 else (s.port p).link) else 0 := by
  have hdown : ∀ (u : State) part, ((u.linkDown p 2 part).port p).link = 0 := by
    intro u part
    obtain ⟨a, b, c, hport⟩ := u.port_linkDown hp 2 part
    rw [hport]
    rfl
  unfold State.portEnable
  split
  · split
    · have hset := State.port_setPort_self s hp { s.port p with link := 1 }
      rw [State.advertise, State.port_setPort_self _ hp, hset]
    · rfl
  · split
    · rename_i hzero
      rw [State.port_flushTx s hp]
      exact hzero
    · split
      · exact hdown { s with freeCtr := s.freeCtr + 1 } _
      · exact hdown s false

theorem State.portEnable_disabled {s : State} {p : Nat} (h : (s.port p).link = 0) :
    s.portEnable p true = (s.setPort p { s.port p with link := 1 }).advertise p := by
  rw [State.portEnable, if_pos rfl, if_pos h]

theorem State.portEnable_enabled {s : State} {p : Nat} (h : (s.port p).link ≠ 0) : s.portEnable p true = s := by
  rw [State.portEnable, if_pos rfl, if_neg h]

/-- A port that neither sends PAUSE nor holds its partner paused generates none (R142). -/
theorem State.pauseGen_quiet {s : State} {p : Nat} (hen : s.on (PORT.TX_PAUSE_EN p) = false) (hpausing : (s.port p).pausing = false) :
    s.pauseGen p = s := by
  simp [State.pauseGen, hen, hpausing]

theorem State.pauseGen_spares {p : Nat} (hp : p < 4) (l : List Fld) (s : State) : State.Spares p l s (s.pauseGen p) := by
  have hqueue : ∀ q, State.Spares p l s (s.queuePause p q) := fun q => .setPort hp rfl
  exact .ite (.ite (.setPort hp rfl) (.refl p l s)) (.ite (hqueue _) (.ite (hqueue 0) (.refl p l s)))

/-! ## PORT_SET (R153) -/

/-- PORT_EN, and the fields that PORT_SET writes. -/
def portSettings (p : Nat) : List Fld := PORT.PORT_EN p :: (portSetFlds p).map PFld.fld

theorem portSettings_settled : ∀ p < 4, PortSettled p (portSettings p) := by decide +kernel

theorem portSettings_apart : ∀ p < 4, LinkApart p (portSettings p) := by decide +kernel

theorem portSettings_nodup : ∀ p < 4, ((portSettings p).map Fld.key).Nodup := by decide +kernel

/-- What PORT_SET asks of PORT_EN. -/
def State.asksOn (s : State) (p : Nat) (pl : Params) : Bool := ((Params.val? pl 2).map (fun v => v == 1)).getD (s.on (PORT.PORT_EN p))

/-- PORT_SET whose parameters pass. -/
theorem portSetBody_of {s : State} {pl : List Tlv} {p : Nat} (hnamed : Params.val pl 1 = p)
    (hall : pl.all (fun z => !(portLacks p z.ty || (z.ty == 3 && !modeOk p z.val))) = true) (hstart : s.noStart 5 p = false)
    (hidle : s.portIdle p = true ∨ changesStatic s pl (portSetFlds p) = none) :
    portSetBody pl s = (Reply.ok [],
      (((writeFlds s pl (portSetFlds p)).setOn (PORT.PORT_EN p) (s.asksOn p pl)).portEnable p (s.asksOn p pl)).pauseGen p) := by
  have hfind : pl.find? (fun t => portLacks p t.ty || (t.ty == 3 && !modeOk p t.val)) = none := by
    rw [List.find?_eq_none]
    intro t ht
    simpa [imp_iff_not_or] using List.all_eq_true.1 hall t ht
  unfold portSetBody
  rw [hnamed]
  simp only [hfind, hstart, Bool.and_false, Bool.false_eq_true, if_false, setFlds_of hidle]
  rfl

/-- PORT_EN as PORT_SET leaves it. -/
theorem State.asksOn_value {s : State} {r : Req} {pl : List Tlv} (h : s.refuses r 0x0401 portSetParams pl = none) (p : Nat) :
    (if s.asksOn p pl then 1 else 0) = (Params.val? pl 2).getD (s.get (PORT.PORT_EN p)) := by
  unfold State.asksOn
  cases hv : Params.val? pl 2 with
  | none =>
    have hbit : s.get (PORT.PORT_EN p) < 2 := s.get_lt (PORT.PORT_EN p)
    simp only [Option.map_none, Option.getD_none, State.on, decide_eq_true_eq]
    split <;> omega
  | some v =>
    have hrange := s.val?_range h (q := popt 2 1 0 1) (by decide) (by decide) hv
    simp only [popt] at hrange
    simp only [Option.map_some, Option.getD_some, beq_iff_eq]
    split <;> omega

theorem portSet_writes {s : State} {r : Req} {pl : List Tlv} {p : Nat} (hp : p ≤ 3) (h : s.refuses r 0x0401 portSetParams pl = none)
    (hnamed : Params.val pl 1 = p) (hall : pl.all (fun z => !(portLacks p z.ty || (z.ty == 3 && !modeOk p z.val))) = true)
    (hstart : s.noStart 5 p = false) (hidle : s.portIdle p = true ∨ changesStatic s pl (portSetFlds p) = none) :
    ∃ t, Machine.exec (.portSet r pl) s = .next t ∧ t.cmd.results.getLast? = some ⟨r.channel, r.tag, 0x0401, Reply.ok []⟩ ∧
      t.get (PORT.PORT_EN p) = (Params.val? pl 2).getD (s.get (PORT.PORT_EN p)) ∧
      (∀ f ∈ portSetFlds p, ∀ x, Params.val? pl f.ty = some x → t.get f.fld = x % 2 ^ f.fld.w) ∧
      (t.get (PORT.PORT_EN p) = 1 → (t.port p).link = (if (s.port p).link = 0 then 1 else (s.port p).link)) ∧
      (t.get (PORT.PORT_EN p) = 0 → (t.port p).link = 0) := by
  have hp4 : p < 4 := by omega
  have hexec : Machine.exec (.portSet r pl) s = execPortSet r pl s := rfl
  have hbody := portSetBody_of hnamed hall hstart hidle
  have hl := portSettings_settled p hp4
  have hnd := portSettings_nodup p hp4
  have hon := s.asksOn_value h p
  generalize s.asksOn p pl = on at *
  have hwritten : ∀ f ∈ portSetFlds p, ∀ x, Params.val? pl f.ty = some x → (writeFlds s pl (portSetFlds p)).get f.fld = x % 2 ^ f.fld.w :=
    fun f hf x hx => get_writeFlds pl (by simpa [portSettings, Function.comp_def] using (List.nodup_cons.1 hnd).2) hf hx s
  have hport : (writeFlds s pl (portSetFlds p)).port p = s.port p := by rw [State.port, writeFlds_rest]; rfl
  generalize writeFlds s pl (portSetFlds p) = u at *
  have hen : (u.setOn (PORT.PORT_EN p) on).get (PORT.PORT_EN p) = if on then 1 else 0 := by
    cases on <;> exact State.get_set_self u _ _
  have hothers : ∀ f ∈ portSetFlds p, (u.setOn (PORT.PORT_EN p) on).get f.fld = u.get f.fld := fun f hf =>
    State.get_set_of_ne u (fun he => (List.nodup_cons.1 hnd).1 (List.mem_map.2 ⟨f.fld, List.mem_map_of_mem hf, he.symm⟩)) _
  have hlink := (u.setOn (PORT.PORT_EN p) on).link_portEnable hp4 on
  have hkept := (u.setOn (PORT.PORT_EN p) on).portEnable_get hp4 hl (portSettings_apart p hp4) on
  have hpause := ((u.setOn (PORT.PORT_EN p) on).portEnable p on).pauseGen_spares hp4 (portSettings p)
  generalize ((u.setOn (PORT.PORT_EN p) on).portEnable p on) = v at *
  have hget : ∀ f ∈ portSettings p, (v.pauseGen p).get f = (u.setOn (PORT.PORT_EN p) on).get f := fun f hf => (hpause.get f hf).trans (hkept f hf)
  have hvalue : (v.pauseGen p).get (PORT.PORT_EN p) = if on then 1 else 0 := (hget _ (List.mem_cons_self ..)).trans hen
  have hends : ((v.pauseGen p).port p).link = if on then (if (s.port p).link = 0 then 1 else (s.port p).link) else 0 := by
    rw [hpause.link, hlink, ← hport]
    rfl
  refine ⟨_, hexec.trans (runCmd_of h hbody), ?_, hvalue.trans hon, fun f hf x hx => ?_, fun hone => ?_, fun hzero => ?_⟩
  · exact List.getLast?_concat
  · exact (hget _ (List.mem_cons_of_mem _ (List.mem_map_of_mem hf))).trans ((hothers f hf).trans (hwritten f hf x hx))
  · have hon : on = true := by
      cases on
      · exact absurd (hvalue.symm.trans hone) (by decide)
      · rfl
    exact hends.trans (if_pos hon)
  · have hoff : on = false := by
      cases on
      · rfl
      · exact absurd (hvalue.symm.trans hzero) (by decide)
    rw [hoff] at hends
    exact hends

/-- PORT_EN = 1 alone on a port that is DISABLED and sends no PAUSE. -/
theorem portSet_enables {s : State} {r : Req} {p : Nat} (hp : p ≤ 3) (h : s.refuses r 0x0401 portSetParams [⟨1, 1, p⟩, ⟨2, 1, 1⟩] = none)
    (hlink : (s.port p).link = 0) (hstart : s.noStart 5 p = false)
    (hquiet : s.on (PORT.TX_PAUSE_EN p) = false) (hpausing : (s.port p).pausing = false) :
    ∃ t, Machine.exec (.portSet r [⟨1, 1, p⟩, ⟨2, 1, 1⟩]) s = .next t ∧ s.records t r 0x0401 (Reply.ok []) ∧
      t = { s with regs := t.regs, ports := t.ports, cmd := t.cmd } ∧ s.keepsBut t [PORT.PORT_EN p] := by
  have hp4 : p < 4 := by omega
  have hexec : Machine.exec (.portSet r [⟨1, 1, p⟩, ⟨2, 1, 1⟩]) s = execPortSet r [⟨1, 1, p⟩, ⟨2, 1, 1⟩] s := rfl
  have hlacks : ∀ p < 4, ([⟨1, 1, p⟩, ⟨2, 1, 1⟩] : List Tlv).all (fun z => !(portLacks p z.ty || (z.ty == 3 && !modeOk p z.val))) = true := by
    decide
  have hbody := portSetBody_of (s := s) (p := p) rfl (hlacks p hp4) hstart (Or.inr rfl)
  have hnone : writeFlds s [⟨1, 1, p⟩, ⟨2, 1, 1⟩] (portSetFlds p) = s := rfl
  have hask : s.asksOn p [⟨1, 1, p⟩, ⟨2, 1, 1⟩] = true := rfl
  rw [hnone, hask] at hbody
  have hapart : (PORT.PORT_EN p).key ≠ (PORT.TX_PAUSE_EN p).key := by simp only [Fld.key, PORT.PORT_EN, PORT.TX_PAUSE_EN]; omega
  have hdown : (s.setOn (PORT.PORT_EN p) true).portEnable p true =
      ((s.setOn (PORT.PORT_EN p) true).setPort p { s.port p with link := 1 }).advertise p := State.portEnable_disabled hlink
  have hsilent : ∀ x : PortState, x.pausing = false → (((s.setOn (PORT.PORT_EN p) true).setPort p x).advertise p).pauseGen p =
      ((s.setOn (PORT.PORT_EN p) true).setPort p x).advertise p := by
    intro x hx
    refine State.pauseGen_quiet ?_ ?_
    · exact (congrArg (fun n => decide (n ≠ 0)) (State.get_set_of_ne s hapart 1)).trans hquiet
    · rw [State.advertise, State.port_setPort_self _ hp4, State.port_setPort_self _ hp4]
      exact hx
  rw [hdown, hsilent { s.port p with link := 1 } hpausing] at hbody
  exact ⟨_, hexec.trans (runCmd_of h hbody), rfl, rfl, fun f _ _ hne => State.get_set_of_ne s (hne _ (List.mem_singleton_self _)) 1⟩

end Sys2Proof.Machine

end

