-- ==== Sys2Proof/Proofs/WordFields.lean ====
section

namespace Sys2Proof.Machine

/-! ## The fields of a word that is written (R13, R14, R18) -/

/-- A field of a word with its access type and update class. -/
abbrev WordFld := Fld × Ty × Upd

/-- Every field takes its part of word `w`, as its access type and its update class allow. -/
def State.writeParts (s : State) (idle : Bool) (w : Nat) (fs : List WordFld) : State := fs.foldl (fun s f => s.writeFld idle f w) s

theorem State.writeParts_cons (s : State) (idle : Bool) (w : Nat) (f : WordFld) (fs : List WordFld) :
    s.writeParts idle w (f :: fs) = (s.writeFld idle f w).writeParts idle w fs := rfl

theorem State.writeFld_rest (s : State) (idle : Bool) (f : WordFld) (w : Nat) :
    s.writeFld idle f w = { s with regs := (s.writeFld idle f w).regs, held := (s.writeFld idle f w).held } := by
  unfold State.writeFld
  split
  · split
    · rfl
    · exact State.write_rest s f.1 f.2.2 _
  all_goals rfl

theorem State.get_writeFld_of_ne (s : State) (idle : Bool) {f : WordFld} {g : Fld} (h : f.1.key ≠ g.key) (w : Nat) :
    (s.writeFld idle f w).get g = s.get g := by
  unfold State.writeFld
  split
  · split
    · rfl
    · exact s.get_write_of_ne h f.2.2 _
  · exact State.get_set_of_ne s h _
  · exact State.get_set_of_ne s h _
  all_goals rfl

/-- A field that is written as it is asked reads its part of the word. -/
theorem State.get_writeFld_self (s : State) {idle : Bool} {f : WordFld} (hrw : f.2.1 = .rw) (hfree : f.2.2 ≠ .static ∨ idle = true) (w : Nat) :
    (s.writeFld idle f w).get f.1 = f.1.part w := by
  have hopen : ¬ (f.2.2 = .static ∧ (!idle) = true) := by rcases hfree with h | h <;> simp [h]
  simp only [State.writeFld, hrw, if_neg hopen, State.get_write_self]
  exact Nat.mod_mod _ _

theorem State.writeParts_rest (s : State) (idle : Bool) (w : Nat) (fs : List WordFld) :
    s.writeParts idle w fs = { s with regs := (s.writeParts idle w fs).regs, held := (s.writeParts idle w fs).held } := by
  induction fs generalizing s with
  | nil => rfl
  | cons f fs ih =>
    have hfs := ih (s.writeFld idle f w)
    rw [s.writeFld_rest idle f w] at hfs
    rw [State.writeParts_cons, s.writeFld_rest idle f w]
    exact hfs

theorem State.get_writeParts_of_ne (s : State) (idle : Bool) (w : Nat) {fs : List WordFld} {g : Fld} (h : ∀ f ∈ fs, f.1.key ≠ g.key) :
    (s.writeParts idle w fs).get g = s.get g := by
  induction fs generalizing s with
  | nil => rfl
  | cons f fs ih =>
    rw [State.writeParts_cons, ih _ (fun f hf => h f (List.mem_cons_of_mem _ hf))]
    exact s.get_writeFld_of_ne idle (h f (List.mem_cons_self ..)) w

theorem State.get_writeParts (s : State) {idle : Bool} (w : Nat) {fs : List WordFld} (hnd : (fs.map (fun f => f.1.key)).Nodup) {f : WordFld}
    (hf : f ∈ fs) (hrw : f.2.1 = .rw) (hfree : f.2.2 ≠ .static ∨ idle = true) : (s.writeParts idle w fs).get f.1 = f.1.part w := by
  induction fs generalizing s with
  | nil => cases hf
  | cons g fs ih =>
    rw [List.map_cons, List.nodup_cons, List.mem_map] at hnd
    obtain ⟨hfresh, hnd⟩ := hnd
    rw [State.writeParts_cons]
    rcases List.mem_cons.1 hf with rfl | hf
    · rw [State.get_writeParts_of_ne _ idle w (fun h hh he => hfresh ⟨h, hh, he⟩)]
      exact s.get_writeFld_self hrw hfree w
    · exact ih _ hnd hf

/-- An idle block takes a word without CP fields whole. -/
theorem State.writeWord_idle {specs : List FldSpec} {off : Nat} (h : ∀ f ∈ fieldsAt specs off, f.2.1 ≠ .cp) (s : State) (source w : Nat) :
    s.writeWord specs true source off w = s.writeParts true w (fieldsAt specs off) := by
  have hcp : (fieldsAt specs off).any (fun f => f.2.1 == .cp) = false := List.any_eq_false.2 (fun f hf => by simpa using h f hf)
  simp only [State.writeWord, hcp, Bool.not_true, Bool.false_and, Bool.or_self, Bool.false_eq_true, if_false]
  rfl

theorem State.writeWord_cases (s : State) (specs : List FldSpec) (idle : Bool) (source off w : Nat) :
    s.writeWord specs idle source off w = s.writeParts idle w (fieldsAt specs off) ∨
      s.writeWord specs idle source off w = (s.writeParts idle w (fieldsAt specs off)).cfgReject source off := by
  unfold State.writeWord
  extract_lets fs bad s1
  cases bad
  · exact Or.inl rfl
  · exact Or.inr rfl

/-- The record of a refused write touches its own fields and its event's. -/
theorem State.get_cfgReject (s : State) (source off : Nat) {f : Fld} (h : ∀ g ∈ rejectFlds, g.key ≠ f.key) (hquiet : eventKey f.key = false) :
    (s.cfgReject source off).get f = s.get f := by
  have hnoted := (s.noteReject_writes source off).get f h
  rcases s.cfgReject_cases source off with heq | ⟨c, b, u, d, heq⟩
  · rw [heq, hnoted]
  · rw [heq]
    exact ((State.raise_event _ c b u d).get f hquiet).trans hnoted

end Sys2Proof.Machine

end

