-- ==== Sys2Proof/Proofs/PortCtrl.lean ====
section

namespace Sys2Proof.Machine

/-! ## CTRL of a port (R127, R146, R154) -/

/-- The fields of CTRL of port p. -/
def ctrlFlds (p : Nat) : List WordFld := fieldsAt PORT.fields (0x40000 + 0x10000 * p)

theorem ctrlFlds_nodup : ∀ p < 4, ((ctrlFlds p).map (fun f => f.1.key)).Nodup := by decide +kernel

theorem ctrlFlds_mem : ∀ p < 4, (PORT.PORT_EN p, Ty.rw, Upd.live) ∈ ctrlFlds p ∧ (PORT.LINE_MODE p, Ty.rw, Upd.static) ∈ ctrlFlds p ∧
    (PORT.STAT_SNAP_MODE p, Ty.rw, Upd.live) ∈ ctrlFlds p := by decide +kernel

theorem ctrlFlds_in : ∀ p < 4, ∀ f ∈ ctrlFlds p, f.2.1 ≠ .cp ∧ f.1.inPorts := by decide +kernel

/-- A step of a port: its registers, its buffers, and what an event may touch. -/
def State.portWork (s t : State) : Prop := s.sameButEvents { t with held := s.held, ports := s.ports }

theorem State.portWork_trans {s t u : State} (a : s.portWork t) (b : t.portWork u) : s.portWork u := by
  unfold State.portWork State.sameButEvents at a b ⊢
  have ht : t = { s with regs := t.regs, que := t.que, dma := { s.dma with msi := t.dma.msi }, held := t.held, ports := t.ports } :=
    congrArg (fun x : State => { x with held := t.held, ports := t.ports }) a
  rw [ht] at b
  exact congrArg (fun x : State => { x with held := s.held, ports := s.ports }) b

theorem State.portWork_ite {s t u : State} {c : Prop} [Decidable c] (a : s.portWork t) (b : s.portWork u) : s.portWork (if c then t else u) := by
  split
  · exact a
  · exact b

theorem State.portWork_setPort (s : State) (p : Nat) (x : PortState) : s.portWork (s.setPort p x) := rfl

theorem State.statBy_work (s : State) (p n k : Nat) : s.portWork (s.statBy p n k) := by
  have h := s.statBy_rest p n k
  unfold State.sameButEvents at h
  exact congrArg (fun x : State => { x with held := s.held, ports := s.ports }) h

theorem State.settlePause_work (s : State) (p : Nat) : s.portWork (s.settlePause p) := by
  unfold State.settlePause
  extract_lets x c
  have hput := s.portWork_setPort p { x with pausedAt := s.cycles, pausedRem := c % cyclesPerUs }
  exact State.portWork_ite (State.portWork_trans hput (State.statBy_work _ p _ _)) rfl

/-! ### The copy of the counters -/

/-- CTRL is written with word w: the counters are copied where it asks for it. -/
def State.snapped (s : State) (p w : Nat) : State := if w.testBit 14 && s.on (PORT.STAT_SNAP_MODE p) then s.snapStats p else s

theorem State.snapStats_spares {p : Nat} {l : List Fld} (hp : p < 4) (hl : PortSettled p l) (s : State) : State.Spares p l s (s.snapStats p) :=
  (s.settlePause_spares hp hl).trans (.setPort hp rfl)

theorem State.snapped_spares {p : Nat} {l : List Fld} (hp : p < 4) (hl : PortSettled p l) (s : State) (w : Nat) :
    State.Spares p l s (s.snapped p w) :=
  .ite (s.snapStats_spares hp hl) (.refl p l s)

theorem State.snapped_side (s : State) {p : Nat} (hp : p < 4) (w : Nat) : State.Side portKey s (s.snapped p w) :=
  State.Side.ite ((s.settlePause_side hp).trans (State.Side.setPort _ _ _ _)) (State.Side.refl _ _)

theorem State.snapped_work (s : State) (p w : Nat) : s.portWork (s.snapped p w) :=
  State.portWork_ite (State.portWork_trans (s.settlePause_work p) (State.portWork_setPort _ _ _)) rfl

theorem State.pauseGen_side (s : State) (p : Nat) : State.Side portKey s (s.pauseGen p) := by
  have hqueue : ∀ q, State.Side portKey s (s.queuePause p q) := fun q => .setPort _ _ _ _
  exact .ite (.ite (.setPort _ _ _ _) (.refl _ s)) (.ite (hqueue _) (.ite (hqueue 0) (.refl _ s)))

theorem State.pauseGen_work (s : State) (p : Nat) : s.portWork (s.pauseGen p) := by
  have hqueue : ∀ q, s.portWork (s.queuePause p q) := fun q => s.portWork_setPort p _
  exact State.portWork_ite (State.portWork_ite (s.portWork_setPort p _) rfl) (State.portWork_ite (hqueue _) (State.portWork_ite (hqueue 0) rfl))

/-- Pauses do not touch the copy, nor the counters. -/
theorem State.snap_pauseGen (s : State) {p : Nat} (hp : p < 4) : ((s.pauseGen p).port p).snap = (s.port p).snap ∧ (s.pauseGen p).regs = s.regs := by
  have hqueue : ∀ q, ((s.queuePause p q).port p).snap = (s.port p).snap := fun q => by rw [State.queuePause, State.port_setPort_self s hp]
  have hstop : ((s.setPort p { s.port p with pausing := false }).port p).snap = (s.port p).snap := by rw [State.port_setPort_self s hp]
  unfold State.pauseGen
  extract_lets fill x
  split
  · split
    · exact ⟨hstop, rfl⟩
    · exact ⟨rfl, rfl⟩
  · split
    · exact ⟨hqueue _, rfl⟩
    · split
      · exact ⟨hqueue 0, rfl⟩
      · exact ⟨rfl, rfl⟩

/-! ### The word itself -/

/-- A word that asks for PORT_EN = 1 and a line mode that the port supports, where nothing keeps the port from starting. -/
theorem State.portCtrl_enabling {s : State} {p w : Nat} (hstart : (s.noStart 5 p && !s.on (PORT.PORT_EN p)) = false)
    (hmode : modeOk p (w / 2 % 8) = true)
    (hw : w % 2 = 1) (source : Nat) : s.portCtrl source p w =
      ((s.writeWord PORT.fields (s.portIdle p || !s.on (PORT.PORT_EN p)) source (0x40000 + 0x10000 * p) w).portEnable p true).snapped p w := by
  unfold State.portCtrl
  simp only [hstart, hmode, hw, Bool.false_eq_true, if_false, if_true, Bool.not_true, Bool.or_self, BEq.rfl, Bool.and_true]
  rfl

theorem inSplit_ctrl : ∀ p < 4, inSplit (0x40000 + 0x10000 * p) = false := by decide +kernel

/-- A word of a port's block that is no half of a split quantity goes to the block. -/
theorem State.regWrite_port (s : State) (source w : Nat) {off : Nat} (h4 : off % 4 = 0) (hlo : 0x40000 ≤ off) (hhi : off < 0x80000)
    (hs : inSplit off = false) : s.regWrite source off w = s.writePort source off w := by
  unfold State.regWrite
  simp only [wordOff h4, find_lo_of_inSplit hs, find_hi_of_inSplit hs, Option.any_none, Bool.false_eq_true, if_false]
  repeat rw [if_neg (by omega)]
  rw [if_pos hhi]

theorem State.regWrite_ctrl (s : State) (source w : Nat) {p : Nat} (hp : p < 4) :
    s.regWrite source (0x40000 + 0x10000 * p) w = (s.portCtrl source p w).pauseGen p := by
  have hinst : instOf 0x40000 0x10000 (0x40000 + 0x10000 * p) = (p, 0) := instOf_add (i := p) (o := 0) (by omega)
  rw [s.regWrite_port source w (by omega) (by omega) (by omega) (inSplit_ctrl p hp), State.writePort, hinst]
  exact if_pos rfl

/-- A field outside the ports keeps its value when CTRL is written. -/
theorem State.get_ctrlWord (s : State) {p : Nat} (hp : p < 4) (idle : Bool) (source w : Nat) {f : Fld} (hlo : f.lo < 32)
    (hoff : f.off < 0x40000 ∨ 0x80000 ≤ f.off) (hreject : ∀ g ∈ rejectFlds, g.key ≠ f.key) (hquiet : eventKey f.key = false) :
    (s.writeWord PORT.fields idle source (0x40000 + 0x10000 * p) w).get f = s.get f := by
  have hparts : (s.writeParts idle w (ctrlFlds p)).get f = s.get f :=
    s.get_writeParts_of_ne idle w (fun g hg => (key_ne_of_inPorts (ctrlFlds_in p hp g hg).2 hlo hoff).symm)
  rcases s.writeWord_cases PORT.fields idle source (0x40000 + 0x10000 * p) w with h | h
  · rw [h]
    exact hparts
  · rw [h, State.get_cfgReject _ _ _ hreject hquiet]
    exact hparts

/-- What enabling a port does besides its link is in the port. -/
theorem State.portEnable_side (s : State) (p : Nat) : State.Side portKey s (s.portEnable p true) ∧ (s.portEnable p true).regs = s.regs := by
  unfold State.portEnable
  rw [if_pos rfl]
  split
  · exact ⟨(State.Side.setPort _ _ _ _).trans (.setPort _ _ _ _), rfl⟩
  · exact ⟨.refl _ s, rfl⟩

theorem pairStatus_facts : ∀ f ∈ [PAIR.STATUS_ROLE, PAIR.STATUS_MIRROR_UP], f.lo < 32 ∧ (f.off < 0x40000 ∨ 0x80000 ≤ f.off) ∧
    (∀ g ∈ rejectFlds, g.key ≠ f.key) ∧ eventKey f.key = false ∧ portKey f.key = false := by decide +kernel

/-- A host write of CTRL that enables the port, on an open bus. -/
theorem State.busWrite_ctrl {s : State} {source p w : Nat} (hp : p < 4) (ho : s.busOpen (0x40000 + 0x10000 * p))
    (hstart : (s.noStart 5 p && !s.on (PORT.PORT_EN p)) = false) (hmode : modeOk p (w / 2 % 8) = true) (hw : w % 2 = 1) :
    s.busWrite source (0x40000 + 0x10000 * p) w =
      (((s.writeWord PORT.fields (s.portIdle p || !s.on (PORT.PORT_EN p)) source (0x40000 + 0x10000 * p) w).portEnable p true).snapped
        p w).pauseGen p := by
  have hreg := (s.regWrite_ctrl source w hp).trans (congrArg (fun t => State.pauseGen t p) (s.portCtrl_enabling hstart hmode hw source))
  have hget : ∀ f ∈ [PAIR.STATUS_ROLE, PAIR.STATUS_MIRROR_UP], (s.regWrite source (0x40000 + 0x10000 * p) w).get f = s.get f := by
    intro f hf
    obtain ⟨hlo, hoff, hreject, hquiet, hside⟩ := pairStatus_facts f hf
    rw [hreg, (State.pauseGen_side _ p).get f hside, (State.snapped_side _ hp w).get f hside, (State.portEnable_side _ p).1.get f hside]
    exact s.get_ctrlWord hp _ source w hlo hoff hreject hquiet
  have halone : (s.regWrite source (0x40000 + 0x10000 * p) w).mirrors = false :=
    (State.mirrors_congr (hget _ (by simp)) (hget _ (by simp))).trans ho.2.2.2.2
  rw [State.busWrite_open ho (by omega) (by omega) halone, hreg]

/-! ### Enabling a port, and asking for the copy -/

/-- What CTRL sets that stays while frames and pauses go on. -/
def ctrlShown (p : Nat) : List Fld := [PORT.PORT_EN p, PORT.LINE_MODE p, PORT.STAT_SNAP_MODE p]

theorem ctrlShown_settled : ∀ p < 4, PortSettled p (ctrlShown p) := by decide +kernel

theorem reject_apart_ports : ∀ g ∈ rejectFlds, g.lo < 32 ∧ (g.off < 0x40000 ∨ 0x80000 ≤ g.off) := by decide

/-- The record of a refused write leaves the ports. -/
theorem State.get_cfgReject_inPorts (s : State) (source off : Nat) {f : Fld} (h : f.inPorts) : (s.cfgReject source off).get f = s.get f :=
  s.get_cfgReject source off (fun g hg => key_ne_of_inPorts h (reject_apart_ports g hg).1 (reject_apart_ports g hg).2) (eventKey_of_inPorts h)

/-- A live field of CTRL takes its part of the word, whether or not another field of it is refused. -/
theorem State.get_ctrlWord_live (s : State) {p : Nat} (hp : p < 4) (idle : Bool) (source w : Nat) {f : Fld} (hf : (f, Ty.rw, Upd.live) ∈ ctrlFlds p) :
    (s.writeWord PORT.fields idle source (0x40000 + 0x10000 * p) w).get f = f.part w := by
  have hparts : (s.writeParts idle w (ctrlFlds p)).get f = f.part w :=
    s.get_writeParts (f := (f, Ty.rw, Upd.live)) w (ctrlFlds_nodup p hp) hf rfl (Or.inl (show Upd.live ≠ Upd.static by decide))
  rcases s.writeWord_cases PORT.fields idle source (0x40000 + 0x10000 * p) w with h | h
  · rw [h]
    exact hparts
  · rw [h, State.get_cfgReject_inPorts _ _ _ (ctrlFlds_in p hp _ hf).2]
    exact hparts

theorem State.ports_writeParts (s : State) (idle : Bool) (w : Nat) (fs : List WordFld) : (s.writeParts idle w fs).ports = s.ports := by
  rw [s.writeParts_rest idle w fs]

/-- An idle port takes CTRL whole. -/
theorem State.ctrlWord_idle (s : State) {p : Nat} (hp : p < 4) (source w : Nat) :
    s.writeWord PORT.fields true source (0x40000 + 0x10000 * p) w = s.writeParts true w (ctrlFlds p) :=
  State.writeWord_idle (fun f hf => (ctrlFlds_in p hp f hf).1) s source w

theorem State.ports_ctrlWord (s : State) (idle : Bool) (source off w : Nat) : (s.writeWord PORT.fields idle source off w).ports = s.ports := by
  rcases s.writeWord_cases PORT.fields idle source off w with h | h
  · rw [h]
    exact s.ports_writeParts idle w _
  · rw [h, State.ports_cfgReject]
    exact s.ports_writeParts idle w _

/-- PORT_EN = 1 is written to CTRL of a DISABLED port. -/
theorem portEnableWrite_enables {s : State} {source p : Nat} {v : Word} (hp : p ≤ 3) (ho : s.busOpen (0x40000 + 0x10000 * p))
    (hlink : (s.port p).link = 0) (hen : s.on (PORT.PORT_EN p) = false) (hstart : s.noStart 5 p = false) (hw : v.toNat % 2 = 1)
    (hmode : modeOk p (v.toNat / 2 % 8) = true) :
    ∃ t, Machine.exec (.portEnableWrite source p v) s = .next t ∧ t.on (PORT.PORT_EN p) = true ∧ (t.port p).link = 1 ∧
      t.get (PORT.LINE_MODE p) = v.toNat / 2 % 8 ∧ s.sameButEvents { t with held := s.held, ports := s.ports } := by
  have hp4 : p < 4 := by omega
  have hexec : Machine.exec (.portEnableWrite source p v) s = execPortEnableWrite source p v s := rfl
  have hbus := State.busWrite_ctrl (source := source) hp4 ho (by rw [hstart, Bool.false_and]) hmode hw
  have hl := ctrlShown_settled p hp4
  obtain ⟨henMem, hmodeMem, -⟩ := ctrlFlds_mem p hp4
  rw [hen, Bool.not_false, Bool.or_true, s.ctrlWord_idle hp4] at hbus
  have henGet : (s.writeParts true v.toNat (ctrlFlds p)).get (PORT.PORT_EN p) = 1 :=
    (s.get_writeParts (f := (PORT.PORT_EN p, Ty.rw, Upd.live)) _ (ctrlFlds_nodup p hp4) henMem rfl (Or.inr rfl)).trans
      ((congrArg (· % 2) (Nat.div_one _)).trans hw)
  have hmodeGet : (s.writeParts true v.toNat (ctrlFlds p)).get (PORT.LINE_MODE p) = v.toNat / 2 % 8 :=
    s.get_writeParts (f := (PORT.LINE_MODE p, Ty.rw, Upd.static)) _ (ctrlFlds_nodup p hp4) hmodeMem rfl (Or.inr rfl)
  have hrest := s.writeParts_rest true v.toNat (ctrlFlds p)
  generalize s.writeParts true v.toNat (ctrlFlds p) = u at *
  have hlinkU : (u.port p).link = 0 := by
    rw [hrest]
    exact hlink
  have hwork : s.portWork (((u.portEnable p true).snapped p v.toNat).pauseGen p) := by
    have hparts : s.portWork u := by
      rw [hrest]
      rfl
    have henabled : u.portWork (u.portEnable p true) := by
      rw [State.portEnable_disabled hlinkU]
      exact State.portWork_trans (u.portWork_setPort p { u.port p with link := 1 }) (State.portWork_setPort _ _ _)
    exact State.portWork_trans (State.portWork_trans (State.portWork_trans hparts henabled) (State.snapped_work _ p _)) (State.pauseGen_work _ p)
  have hkept : State.Spares p (ctrlShown p) (u.portEnable p true) (((u.portEnable p true).snapped p v.toNat).pauseGen p) :=
    (State.snapped_spares hp4 hl _ _).trans (State.pauseGen_spares hp4 _ _)
  have hregs : ∀ f, (u.portEnable p true).get f = u.get f := State.get_congr (u.portEnable_side p).2
  refine ⟨_, hexec.trans ((State.rowWrite_of hp).trans (congrArg Host.Outcome.next hbus)), ?_, ?_, ?_, hwork⟩
  · rw [State.on, hkept.get _ (by simp [ctrlShown]), hregs, henGet]
    rfl
  · rw [hkept.link, u.link_portEnable hp4 true, if_pos rfl, if_pos hlinkU]
  · rw [hkept.get _ (by simp [ctrlShown]), hregs, hmodeGet]

/-- Setting STAT_SNAP in a word leaves what else it asks for. -/
theorem statSnap_word (w : Nat) : (w ||| 2 ^ 14) % 2 = w % 2 ∧ (w ||| 2 ^ 14) / 2 % 8 = w / 2 % 8 ∧ (w ||| 2 ^ 14).testBit 14 = true ∧
    (w ||| 2 ^ 14).testBit 13 = w.testBit 13 := by
  refine ⟨?_, ?_, ?_, ?_⟩
  · exact (Nat.or_mod_two_pow (n := 1)).trans (Nat.or_zero _)
  · rw [Nat.or_div_two]
    exact (Nat.or_mod_two_pow (n := 3)).trans (Nat.or_zero _)
  · rw [Nat.testBit_or, Nat.testBit_two_pow_self, Bool.or_true]
  · rw [Nat.testBit_or, Nat.testBit_two_pow_of_ne (by decide), Bool.or_false]

/-- The copy holds the counters as they stand after it. -/
theorem State.snap_snapStats (s : State) {p : Nat} (hp : p < 4) :
    ((s.snapStats p).port p).snap = (List.range 42).map (fun n => (s.snapStats p).get (PORT.STAT p n)) := by
  rw [State.snapStats, State.port_setPort_self _ hp]
  rfl

/-- STAT_SNAP is written to CTRL of a port that is enabled, with STAT_SNAP_MODE. -/
theorem statSnapWrite_copies {s : State} {source p : Nat} {v : Word} (hp : p ≤ 3) (ho : s.busOpen (0x40000 + 0x10000 * p))
    (hlink : (s.port p).link ≠ 0) (hen : s.on (PORT.PORT_EN p) = true) (hw : v.toNat % 2 = 1) (hmode13 : v.toNat.testBit 13 = true)
    (hmode : modeOk p (v.toNat / 2 % 8) = true) :
    ∃ t, Machine.exec (.statSnapWrite source p v) s = .next t ∧ t.on (PORT.STAT_SNAP_MODE p) = true ∧
      (t.port p).snap = (List.range 42).map (fun n => t.get (PORT.STAT p n)) ∧ (t.port p).link = (s.port p).link := by
  have hp4 : p < 4 := by omega
  have hexec : Machine.exec (.statSnapWrite source p v) s = execStatSnapWrite source p v s := rfl
  obtain ⟨hone, hline, hsnap, hkeep⟩ := statSnap_word v.toNat
  have hbus := State.busWrite_ctrl (source := source) hp4 ho (by rw [hen, Bool.not_true, Bool.and_false]) (hline ▸ hmode) (hone.trans hw)
  have hl := ctrlShown_settled p hp4
  generalize (s.portIdle p || !s.on (PORT.PORT_EN p)) = idle at hbus
  have hmodeGet := s.get_ctrlWord_live hp4 idle source (v.toNat ||| 2 ^ 14) (ctrlFlds_mem p hp4).2.2
  have hports := s.ports_ctrlWord idle source (0x40000 + 0x10000 * p) (v.toNat ||| 2 ^ 14)
  generalize s.writeWord PORT.fields idle source (0x40000 + 0x10000 * p) (v.toNat ||| 2 ^ 14) = u at *
  have hport : u.port p = s.port p := by rw [State.port, hports, ← State.port]
  have hmodeOn : u.on (PORT.STAT_SNAP_MODE p) = true := by
    have hbit : (v.toNat ||| 2 ^ 14) / 2 ^ 13 % 2 = 1 := by
      simpa [Nat.testBit_eq_decide_div_mod_eq] using hkeep.trans hmode13
    rw [State.on, hmodeGet]
    exact decide_eq_true (ne_of_eq_of_ne hbit Nat.one_ne_zero)
  have hcopy : (u.portEnable p true).snapped p (v.toNat ||| 2 ^ 14) = u.snapStats p := by
    rw [State.portEnable_enabled (hport ▸ hlink), State.snapped, hsnap, hmodeOn]
    rfl
  rw [hcopy] at hbus
  have hstats := u.snap_snapStats hp4
  have hspared := u.snapStats_spares hp4 hl
  generalize u.snapStats p = x at *
  obtain ⟨hkeptSnap, hregs⟩ := x.snap_pauseGen hp4
  have hpause := x.pauseGen_spares hp4 (ctrlShown p)
  refine ⟨_, hexec.trans ((State.rowWrite_of hp).trans (congrArg Host.Outcome.next hbus)), ?_, ?_, ?_⟩
  · rw [State.on, hpause.get _ (by simp [ctrlShown]), hspared.get _ (by simp [ctrlShown])]
    exact hmodeOn
  · rw [hkeptSnap, hstats]
    exact List.map_congr_left (fun n _ => (State.get_congr hregs _).symm)
  · rw [hpause.link, hspared.link, hport]

end Sys2Proof.Machine

end

