-- ==== Sys2Proof/Proofs/PortTables.lean ====
section

namespace Sys2Proof.Machine

/-! ## Commands that write fields at a frame boundary (R18) -/

/-- `t` is `s` but for the register file and the values that wait for their boundary, and no field reads otherwise but those whose keys are in `l`. -/
structure State.Fills (l : List Fld) (s t : State) : Prop where
  rest : t = { s with regs := t.regs, held := t.held }
  get : ∀ f : Fld, (∀ g ∈ l, g.key ≠ f.key) → t.get f = s.get f

namespace State.Fills

variable {l : List Fld} {s t u : State}

theorem refl (l : List Fld) (s : State) : Fills l s s := ⟨rfl, fun _ _ => rfl⟩

theorem trans (a : Fills l s t) (b : Fills l t u) : Fills l s u := by
  refine ⟨?_, fun f h => (b.get f h).trans (a.get f h)⟩
  have h := b.rest
  rw [a.rest] at h
  exact h

theorem mono {m : List Fld} (h : ∀ g ∈ l, g ∈ m) (a : Fills l s t) : Fills m s t := ⟨a.rest, fun f hf => a.get f (fun g hg => hf g (h g hg))⟩

theorem setB {f : Fld} (h : f ∈ l) (s : State) (u : Upd) (v : Nat) : Fills l s (s.setB f u v) :=
  ⟨State.setB_rest s f u v, fun _ hg => State.get_setB_of_ne s (hg f h) u v⟩

theorem of_writes (a : Writes l s t) : Fills l s t := ⟨by have h := a.rest; rw [h], a.get⟩

/-- A command that fills its fields is recorded, and touches nothing else. -/
theorem finish (a : Fills l s t) (r : Req) (op : Nat) (rep : Reply) :
    s.records (t.finish r op rep) r op rep ∧
    t.finish r op rep = { s with regs := (t.finish r op rep).regs, held := (t.finish r op rep).held, cmd := (t.finish r op rep).cmd } ∧
    s.keepsBut (t.finish r op rep) l := by
  have hrest := a.rest
  refine ⟨State.cmd_finish_of (by rw [hrest]) r op rep, ?_, fun f _ _ hne => a.get f hne⟩
  exact congrArg (fun x : State => { x with cmd := (t.finish r op rep).cmd }) hrest

end State.Fills

theorem State.get_setB_self (s : State) (f : Fld) (u : Upd) (v : Nat) : (s.setB f u v).get f = v % 2 ^ f.w :=
  (State.get_setB s f f u v (fun _ => rfl)).trans (State.get_set_self s f v)

/-- Six bytes in the other order. -/
theorem swapBytes_lt (v : Nat) : swapBytes 6 v < 2 ^ 48 := by
  have hlen : (le 6 v).reverse.length = 6 := by simp [le]
  calc swapBytes 6 v < 256 ^ (le 6 v).reverse.length := ofLe_lt _
    _ = 2 ^ 48 := by rw [hlen]; rfl

/-! ## FILTER_SET (R131) -/

/-- The address of entry e of port p, where one is given. -/
def State.filterAddr (s : State) (p e : Nat) : Option Nat → State
  | some v => (s.setB (PORT.MATCH_ADDR_LO p e) .rxFrame (swapBytes 6 v % 2 ^ 32)).setB (PORT.MATCH_ADDR_HI p e) .rxFrame (swapBytes 6 v / 2 ^ 32)
  | none => s

/-- Its enable, where one is given. -/
def State.filterEn (s : State) (p e : Nat) : Option Nat → State
  | some v => s.setB (PORT.MATCH_EN p e) .rxFrame v
  | none => s

def filterFlds (p e : Nat) : List Fld := [PORT.MATCH_EN p e, PORT.MATCH_ADDR_LO p e, PORT.MATCH_ADDR_HI p e]

theorem filterFlds_keys (p e : Nat) : (PORT.MATCH_ADDR_HI p e).key ≠ (PORT.MATCH_ADDR_LO p e).key ∧
    (PORT.MATCH_EN p e).key ≠ (PORT.MATCH_ADDR_LO p e).key ∧ (PORT.MATCH_EN p e).key ≠ (PORT.MATCH_ADDR_HI p e).key := by
  simp only [Fld.key, PORT.MATCH_ADDR_HI, PORT.MATCH_ADDR_LO, PORT.MATCH_EN]
  omega

theorem State.filterAddr_fills (s : State) (p e : Nat) (x : Option Nat) : State.Fills (filterFlds p e) s (s.filterAddr p e x) := by
  cases x with
  | none => exact .refl _ s
  | some v => exact (State.Fills.setB (by simp [filterFlds]) s _ _).trans (.setB (by simp [filterFlds]) _ _ _)

theorem State.filterEn_fills (s : State) (p e : Nat) (x : Option Nat) : State.Fills [PORT.MATCH_EN p e] s (s.filterEn p e x) := by
  cases x with
  | none => exact .refl _ s
  | some v => exact .setB (List.mem_singleton_self _) s _ _

theorem State.get_filterAddr (s : State) (p e v : Nat) : (s.filterAddr p e (some v)).get (PORT.MATCH_ADDR_LO p e) = swapBytes 6 v % 2 ^ 32 ∧
    (s.filterAddr p e (some v)).get (PORT.MATCH_ADDR_HI p e) = swapBytes 6 v / 2 ^ 32 := by
  have hlt := swapBytes_lt v
  refine ⟨?_, (State.get_setB_self _ _ _ _).trans (Nat.mod_eq_of_lt ?_)⟩
  · exact (State.get_setB_of_ne _ (filterFlds_keys p e).1 _ _).trans ((State.get_setB_self _ _ _ _).trans (Nat.mod_mod _ _))
  · simp only [PORT.MATCH_ADDR_HI]
    omega

theorem filterSet_of {s : State} {r : Req} {pl : List Tlv}
    (h : s.refuses r 0x0403 [preq 1 1 0 3, preq 2 1 16 31, popt 3 6 0 (2 ^ 48 - 1), popt 4 1 0 1] pl = none) :
    Machine.exec (.filterSet r pl) s = .next (((s.filterAddr (Params.val pl 1) (Params.val pl 2) (Params.val? pl 3)).filterEn (Params.val pl 1)
      (Params.val pl 2) (Params.val? pl 4)).finish r 0x0403 (Reply.ok [])) := by
  have hexec : Machine.exec (.filterSet r pl) s = execFilterSet r pl s := rfl
  rw [hexec, execFilterSet]
  refine runCmd_of h ?_
  cases Params.val? pl 3 <;> cases Params.val? pl 4 <;> rfl

theorem filterSet_fills {s : State} {r : Req} {pl : List Tlv} {p e : Nat}
    (h : s.refuses r 0x0403 [preq 1 1 0 3, preq 2 1 16 31, popt 3 6 0 (2 ^ 48 - 1), popt 4 1 0 1] pl = none)
    (hp : Params.val pl 1 = p) (he : Params.val pl 2 = e) :
    ∃ t, Machine.exec (.filterSet r pl) s = .next t ∧ s.records t r 0x0403 (Reply.ok []) ∧
      t = { s with regs := t.regs, held := t.held, cmd := t.cmd } ∧
      (∀ x, Params.val? pl 4 = some x → t.get (PORT.MATCH_EN p e) = x % 2 ^ (PORT.MATCH_EN p e).w) ∧
      (∀ x, Params.val? pl 3 = some x → t.get (PORT.MATCH_ADDR_LO p e) = swapBytes 6 x % 2 ^ 32 ∧
        t.get (PORT.MATCH_ADDR_HI p e) = swapBytes 6 x / 2 ^ 32) ∧
      s.keepsBut t [PORT.MATCH_EN p e, PORT.MATCH_ADDR_LO p e, PORT.MATCH_ADDR_HI p e] := by
  have hrun := filterSet_of h
  rw [hp, he] at hrun
  obtain ⟨-, hlo, hhi⟩ := filterFlds_keys p e
  have hen := (s.filterAddr p e (Params.val? pl 3)).filterEn_fills p e (Params.val? pl 4)
  have hfills := (s.filterAddr_fills p e (Params.val? pl 3)).trans (hen.mono (m := filterFlds p e) (by simp [filterFlds]))
  obtain ⟨hrecords, hrest, hkeeps⟩ := hfills.finish r 0x0403 (Reply.ok [])
  refine ⟨_, hrun, hrecords, hrest, fun x hx => ?_, fun x hx => ?_, hkeeps⟩
  · rw [hx]
    exact State.get_setB_self _ _ _ x
  · obtain ⟨hgetLo, hgetHi⟩ := s.get_filterAddr p e x
    rw [hx] at hen ⊢
    exact ⟨(hen.get _ (by simpa using hlo)).trans hgetLo, (hen.get _ (by simpa using hhi)).trans hgetHi⟩

/-! ## DISPATCH_SET (R132) -/

/-- Digit c of v in base 4 becomes d. -/
def putDigit (v c d : Nat) : Nat := v - v / 4 ^ c % 4 * 4 ^ c + d * 4 ^ c

/-- The digits below c, and those above it, stand as before. -/
theorem putDigit_eq (v c d : Nat) : putDigit v c d = v % 4 ^ c + 4 ^ c * (4 * (v / 4 ^ c / 4) + d) := by
  have hv := Nat.mod_add_div v (4 ^ c)
  rw [← Nat.div_add_mod (v / 4 ^ c) 4, Nat.mul_add, Nat.mul_comm (4 ^ c) (v / 4 ^ c % 4)] at hv
  rw [putDigit, Nat.mul_add, Nat.mul_comm (4 ^ c) d]
  omega

theorem putDigit_self (v c : Nat) {d : Nat} (hd : d < 4) : putDigit v c d / 4 ^ c % 4 = d := by
  have hpos : 0 < 4 ^ c := Nat.pow_pos (by decide)
  rw [putDigit_eq, Nat.add_mul_div_left _ _ hpos, Nat.div_eq_of_lt (Nat.mod_lt _ hpos)]
  omega

theorem putDigit_above (v c : Nat) {d : Nat} (hd : d < 4) : putDigit v c d / 4 ^ (c + 1) = v / 4 ^ (c + 1) := by
  have hpos : 0 < 4 ^ c := Nat.pow_pos (by decide)
  rw [Nat.pow_succ, ← Nat.div_div_eq_div_mul, ← Nat.div_div_eq_div_mul, putDigit_eq, Nat.add_mul_div_left _ _ hpos,
    Nat.div_eq_of_lt (Nat.mod_lt _ hpos)]
  omega

theorem putDigit_below (v c d : Nat) : putDigit v c d % 4 ^ c = v % 4 ^ c := by
  rw [putDigit_eq, Nat.add_mul_mod_self_left, Nat.mod_mod]

/-- A digit is read from the digits below any place above it. -/
theorem digit_mod (n : Nat) {k c : Nat} (h : k < c) : n % 4 ^ c / 4 ^ k % 4 = n / 4 ^ k % 4 := by
  have hpow : 4 ^ c = 4 ^ k * 4 ^ (c - k) := by rw [← Nat.pow_add, Nat.add_sub_cancel' h.le]
  rw [hpow, Nat.mod_mul_right_div_self]
  exact Nat.mod_mod_of_dvd _ (dvd_pow_self 4 (by omega))

theorem putDigit_of_ne (v : Nat) {c d k : Nat} (hd : d < 4) (h : k ≠ c) : putDigit v c d / 4 ^ k % 4 = v / 4 ^ k % 4 := by
  rcases Nat.lt_or_gt_of_ne h with hlt | hgt
  · rw [← digit_mod (putDigit v c d) hlt, putDigit_below, digit_mod v hlt]
  · have hpow : 4 ^ k = 4 ^ (c + 1) * 4 ^ (k - (c + 1)) := by rw [← Nat.pow_add, Nat.add_sub_cancel' hgt]
    rw [hpow, ← Nat.div_div_eq_div_mul, ← Nat.div_div_eq_div_mul, putDigit_above v c hd]

theorem putDigit_lt {v c d m : Nat} (hd : d < 4) (hc : c < m) (hv : v < 4 ^ m) : putDigit v c d < 4 ^ m := by
  have hpow : 4 ^ m = 4 ^ (m - (c + 1)) * 4 ^ (c + 1) := by rw [← Nat.pow_add, Nat.sub_add_cancel hc]
  have hpos : 0 < 4 ^ (c + 1) := Nat.pow_pos (by decide)
  rw [hpow] at hv ⊢
  rw [← Nat.div_lt_iff_lt_mul hpos, putDigit_above v c hd, Nat.div_lt_iff_lt_mul hpos]
  exact hv

/-- The parameters of DISPATCH_SET: port, class, destination. -/
abbrev dispatchParams : List PSpec := [preq 1 1 0 3, preq 2 1 0 11, preq 3 1 0 3]

theorem dispatchSet_of {s : State} {r : Req} {pl : List Tlv} (h : s.refuses r 0x0404 dispatchParams pl = none)
    (hfree : s.fixedClass (Params.val pl 1) (Params.val pl 2) = none) :
    Machine.exec (.dispatchSet r pl) s = .next ((s.setB (PORT.DISPATCH (Params.val pl 1)) .rxFrame
      (putDigit (s.get (PORT.DISPATCH (Params.val pl 1))) (Params.val pl 2) (Params.val pl 3))).finish r 0x0404 (Reply.ok [])) := by
  have hexec : Machine.exec (.dispatchSet r pl) s = execDispatchSet r pl s := rfl
  rw [hexec, execDispatchSet]
  exact runCmd_of h (by simp only [hfree, Option.isSome_none, Bool.false_eq_true, if_false, putDigit])

/-- A fixed entry is not changed. -/
theorem dispatchSet_fixed {s : State} {r : Req} {pl : List Tlv} (h : s.refuses r 0x0404 dispatchParams pl = none)
    (hfixed : (s.fixedClass (Params.val pl 1) (Params.val pl 2)).isSome = true) :
    Machine.exec (.dispatchSet r pl) s = .next (s.finish r 0x0404 (Reply.err Status.notInState)) := by
  have hexec : Machine.exec (.dispatchSet r pl) s = execDispatchSet r pl s := rfl
  rw [hexec, execDispatchSet]
  exact runCmd_of h (by simp only [hfixed, if_true])

theorem dispatchSet_fills {s : State} {r : Req} {pl : List Tlv} {p : Nat} (h : s.refuses r 0x0404 dispatchParams pl = none)
    (hp : Params.val pl 1 = p) (hfree : s.fixedClass p (Params.val pl 2) = none) :
    ∃ t, Machine.exec (.dispatchSet r pl) s = .next t ∧ s.records t r 0x0404 (Reply.ok []) ∧
      t = { s with regs := t.regs, held := t.held, cmd := t.cmd } ∧ t.get (PORT.DISPATCH p) / 4 ^ Params.val pl 2 % 4 = Params.val pl 3 ∧
      (∀ k, k ≤ 11 → k ≠ Params.val pl 2 → t.get (PORT.DISPATCH p) / 4 ^ k % 4 = s.get (PORT.DISPATCH p) / 4 ^ k % 4) ∧
      s.keepsBut t [PORT.DISPATCH p] := by
  have hc := s.val_range h (q := preq 2 1 0 11) rfl (by decide) rfl
  have hd := s.val_range h (q := preq 3 1 0 3) rfl (by decide) rfl
  simp only [preq] at hc hd
  have hd4 : Params.val pl 3 < 4 := by omega
  have hrun := dispatchSet_of h (hp ▸ hfree)
  rw [hp] at hrun
  have hlt : putDigit (s.get (PORT.DISPATCH p)) (Params.val pl 2) (Params.val pl 3) < 4 ^ 12 :=
    putDigit_lt hd4 (by omega) (s.get_lt (PORT.DISPATCH p))
  have hget := (State.get_setB_self s (PORT.DISPATCH p) .rxFrame _).trans (Nat.mod_eq_of_lt hlt)
  have hfills : State.Fills [PORT.DISPATCH p] s (s.setB (PORT.DISPATCH p) .rxFrame
      (putDigit (s.get (PORT.DISPATCH p)) (Params.val pl 2) (Params.val pl 3))) := .setB (List.mem_singleton_self _) s _ _
  obtain ⟨hrecords, hrest, hkeeps⟩ := hfills.finish r 0x0404 (Reply.ok [])
  refine ⟨_, hrun, hrecords, hrest, ?_, fun k _ hk => ?_, hkeeps⟩
  · exact (congrArg (fun n => n / 4 ^ Params.val pl 2 % 4) hget).trans (putDigit_self _ _ hd4)
  · exact (congrArg (fun n => n / 4 ^ k % 4) hget).trans (putDigit_of_ne _ hd4 hk)

end Sys2Proof.Machine

end

