-- ==== Sys2Proof/Proofs/WakeSet.lean ====
section

namespace Sys2Proof.Machine

/-! ## WAKE_SET (R149) -/

/-- The switches of the wake detector. -/
def wakeFlds : List PFld :=
  [⟨1, PORT.WAKE_MAGIC_EN, .live⟩, ⟨2, PORT.WAKE_DA_CHECK, .live⟩, ⟨3, PORT.WAKE_LINK_WAKE, .live⟩, ⟨4, PORT.WAKE_AWAKE_EVT, .live⟩]

/-- WAKE_MAC, where it is given. -/
def State.wakeMacSet (s : State) : Option Nat → State
  | some v => ((s.set PORT.WAKE_MAC_LO (swapBytes 6 v)).set PORT.WAKE_MAC_HI (swapBytes 6 v / 2 ^ 32)).joinLo PORT.WAKE_MAC_LO .live
  | none => s

/-- The words `F 0` to `F (n − 1)`, where a value for them is given. -/
def State.wakeWords (s : State) (F : Nat → Fld) (n : Nat) : Option Nat → State
  | some v => (List.range n).foldl (fun s k => s.set (F k) (v / 2 ^ (32 * k))) s
  | none => s

/-- The enable of filter e, where it is given. -/
def State.wakeEn (s : State) (e : Nat) : Option Nat → State
  | some v => s.setBit PORT.WAKE_FILT_EN e (v == 1)
  | none => s

/-- The parameters of WAKE_SET. -/
abbrev wakeParams : List PSpec :=
  [popt 1 1 0 1, popt 2 1 0 1, popt 3 1 0 1, popt 4 1 0 1, popt 5 6 0 (2 ^ 48 - 1), popt 6 1 0 7, popt 7 128 0 (2 ^ 1024 - 1),
    popt 8 16 0 (2 ^ 128 - 1), popt 9 1 0 1]

/-- The switches and WAKE_MAC that WAKE_SET writes. -/
def State.wakeHead (s : State) (pl : Params) : State := (writeFlds s pl wakeFlds).wakeMacSet (Params.val? pl 5)

/-- The pattern and the mask of filter e that it writes. -/
def State.wakeFilter (s : State) (pl : Params) (e : Nat) : State :=
  (s.wakeWords (PORT.WAKE_PATTERN e) 32 (Params.val? pl 7)).wakeWords (PORT.WAKE_MASK e) 4 (Params.val? pl 8)

theorem wakeSet_of {s : State} {r : Req} {pl : List Tlv} (h : s.refuses r 0x0406 wakeParams pl = none)
    (hfilter : Params.has pl 6 = true ∨ (Params.has pl 7 = false ∧ Params.has pl 8 = false ∧ Params.has pl 9 = false)) :
    Machine.exec (.wakeSet r pl) s = .next ((((s.wakeHead pl).wakeFilter pl (Params.val pl 6)).wakeEn (Params.val pl 6)
      (Params.val? pl 9)).finish r 0x0406 (Reply.ok [])) := by
  have hexec : Machine.exec (.wakeSet r pl) s = execWakeSet r pl s := rfl
  have hgiven : (!Params.has pl 6 && [7, 8, 9].any (fun t => Params.has pl t)) = false := by
    rcases hfilter with h6 | ⟨h7, h8, h9⟩
    · rw [h6]
      rfl
    · simp [h7, h8, h9]
  rw [hexec, execWakeSet]
  refine runCmd_of h ?_
  rw [if_neg (by rw [hgiven]; exact Bool.false_ne_true)]
  unfold State.wakeHead State.wakeFilter
  cases Params.val? pl 5 <;> cases Params.val? pl 7 <;> cases Params.val? pl 8 <;> cases Params.val? pl 9 <;> rfl

theorem wakeFlds_nodup : (wakeFlds.map (fun f => f.fld.key)).Nodup := by decide

theorem wakeFlds_fills (s : State) (pl : Params) : State.Fills (wakeFlds.map PFld.fld) s (writeFlds s pl wakeFlds) :=
  .of_writes (writeFlds_writes pl (by decide) s)

theorem State.joinLo_fills (s : State) (f : Fld) (u : Upd) (l : List Fld) : State.Fills l s (s.joinLo f u) := by
  refine ⟨?_, fun g _ => State.get_congr (s.regs_joinLo f u) g⟩
  unfold State.joinLo
  split <;> rfl

theorem State.wakeMacSet_fills (s : State) (x : Option Nat) : State.Fills [PORT.WAKE_MAC_LO, PORT.WAKE_MAC_HI] s (s.wakeMacSet x) := by
  cases x with
  | none => exact .refl _ s
  | some v =>
    have hlo : State.Writes [PORT.WAKE_MAC_LO, PORT.WAKE_MAC_HI] s (s.set PORT.WAKE_MAC_LO (swapBytes 6 v)) := .set (by simp) s _
    exact (State.Fills.of_writes (hlo.trans (.set (by simp) _ _))).trans (State.joinLo_fills _ _ _ _)

theorem State.get_wakeMacSet (s : State) (v : Nat) : (s.wakeMacSet (some v)).get PORT.WAKE_MAC_LO = swapBytes 6 v % 2 ^ 32 ∧
    (s.wakeMacSet (some v)).get PORT.WAKE_MAC_HI = swapBytes 6 v / 2 ^ 32 := by
  have hlt := swapBytes_lt v
  have hregs := State.get_congr (State.regs_joinLo ((s.set PORT.WAKE_MAC_LO (swapBytes 6 v)).set PORT.WAKE_MAC_HI (swapBytes 6 v / 2 ^ 32))
    PORT.WAKE_MAC_LO .live)
  refine ⟨(hregs _).trans ((State.get_set_of_ne _ (by decide) _).trans (State.get_set_self _ _ _)),
    (hregs _).trans ((State.get_set_self _ _ _).trans ?_)⟩
  exact Nat.mod_eq_of_lt (show _ < 2 ^ 16 by omega)

theorem State.wakeWords_fills (s : State) (F : Nat → Fld) (n : Nat) (x : Option Nat) : State.Fills ((List.range n).map F) s (s.wakeWords F n x) := by
  cases x with
  | none => exact .refl _ s
  | some v => exact .of_writes (.foldl (fun s k hk => .set (List.mem_map_of_mem hk) s _) s)

theorem State.get_wakeWords {F : Nat → Fld} {n : Nat} (hnd : ((List.range n).map (fun k => (F k).key)).Nodup) (s : State) (v : Nat)
    {k : Nat} (hk : k < n) : (s.wakeWords F n (some v)).get (F k) = v / 2 ^ (32 * k) % 2 ^ (F k).w :=
  State.get_foldl_set hnd (List.mem_range.2 hk) s

theorem State.wakeEn_fills (s : State) (e : Nat) (x : Option Nat) : State.Fills [PORT.WAKE_FILT_EN] s (s.wakeEn e x) := by
  cases x with
  | none => exact .refl _ s
  | some v => exact .of_writes (.set (List.mem_singleton_self _) s _)

/-! ### The fields that WAKE_SET writes are apart -/

/-- The words of the pattern and of the mask of filter e. -/
def patternFlds (e : Nat) : List Fld := (List.range 32).map (PORT.WAKE_PATTERN e)
def maskFlds (e : Nat) : List Fld := (List.range 4).map (PORT.WAKE_MASK e)

/-- The switches and WAKE_MAC. -/
def wakeHeadFlds : List Fld := wakeFlds.map PFld.fld ++ [PORT.WAKE_MAC_LO, PORT.WAKE_MAC_HI]

theorem wakeFlds_nodup_words : ∀ e < 8, ((List.range 32).map (fun k => (PORT.WAKE_PATTERN e k).key)).Nodup ∧
    ((List.range 4).map (fun k => (PORT.WAKE_MASK e k).key)).Nodup := by decide +kernel

theorem wakeFilter_apart : ∀ e < 8, (∀ f ∈ wakeHeadFlds, ∀ g ∈ patternFlds e ++ maskFlds e, g.key ≠ f.key) ∧
    (∀ f ∈ patternFlds e, ∀ g ∈ maskFlds e, g.key ≠ f.key) := by decide +kernel

theorem wakeEn_apart : ∀ e < 8, ∀ f ∈ wakeHeadFlds ++ (patternFlds e ++ maskFlds e), PORT.WAKE_FILT_EN.key ≠ f.key := by decide +kernel

theorem State.wakeFilter_fills (s : State) (pl : Params) (e : Nat) : State.Fills (patternFlds e ++ maskFlds e) s (s.wakeFilter pl e) :=
  ((s.wakeWords_fills (PORT.WAKE_PATTERN e) 32 _).mono (fun _ h => List.mem_append_left _ h)).trans
    ((State.wakeWords_fills _ (PORT.WAKE_MASK e) 4 _).mono (fun _ h => List.mem_append_right _ h))

theorem State.wakeHead_fills (s : State) (pl : Params) {l : List Fld} : State.Fills (wakeHeadFlds ++ l) s (s.wakeHead pl) :=
  ((wakeFlds_fills s pl).mono (fun _ h => List.mem_append_left _ (List.mem_append_left _ h))).trans
    ((State.wakeMacSet_fills _ (Params.val? pl 5)).mono (fun _ h => List.mem_append_left _ (List.mem_append_right _ h)))

/-- The switches and WAKE_MAC read what is given. -/
theorem State.get_wakeHead (s : State) {pl : Params} :
    (∀ f ∈ wakeFlds, ∀ x, Params.val? pl f.ty = some x → (s.wakeHead pl).get f.fld = x % 2 ^ f.fld.w) ∧
    (∀ x, Params.val? pl 5 = some x → (s.wakeHead pl).get PORT.WAKE_MAC_LO = swapBytes 6 x % 2 ^ 32 ∧
      (s.wakeHead pl).get PORT.WAKE_MAC_HI = swapBytes 6 x / 2 ^ 32) := by
  have hmac : ∀ f ∈ wakeFlds, ∀ g ∈ [PORT.WAKE_MAC_LO, PORT.WAKE_MAC_HI], g.key ≠ f.fld.key := by decide
  refine ⟨fun f hf x hx => ?_, fun x hx => ?_⟩
  · exact ((State.wakeMacSet_fills _ _).get _ (hmac f hf)).trans (get_writeFlds pl wakeFlds_nodup hf hx s)
  · rw [State.wakeHead, hx]
    exact State.get_wakeMacSet _ x

theorem State.get_wakeFilter (s : State) {pl : Params} {e : Nat} (he : e < 8) :
    (∀ x k, Params.val? pl 7 = some x → k < 32 → (s.wakeFilter pl e).get (PORT.WAKE_PATTERN e k) = x / 2 ^ (32 * k) % 2 ^ 32) ∧
    (∀ x k, Params.val? pl 8 = some x → k < 4 → (s.wakeFilter pl e).get (PORT.WAKE_MASK e k) = x / 2 ^ (32 * k) % 2 ^ 32) := by
  obtain ⟨hpattern, hmask⟩ := wakeFlds_nodup_words e he
  obtain ⟨-, hapart⟩ := wakeFilter_apart e he
  refine ⟨fun x k hx hk => ?_, fun x k hx hk => ?_⟩
  · rw [State.wakeFilter, hx, (State.wakeWords_fills _ (PORT.WAKE_MASK e) 4 _).get _ (hapart _ (List.mem_map_of_mem (List.mem_range.2 hk)))]
    exact State.get_wakeWords hpattern s x hk
  · rw [State.wakeFilter, hx]
    exact State.get_wakeWords hmask _ x hk

theorem wakeSet_fills {s : State} {r : Req} {pl : List Tlv} {e : Nat} (h : s.refuses r 0x0406 wakeParams pl = none)
    (hfilter : Params.has pl 6 = true ∨ (Params.has pl 7 = false ∧ Params.has pl 8 = false ∧ Params.has pl 9 = false)) (hval : Params.val pl 6 = e) :
    ∃ t, Machine.exec (.wakeSet r pl) s = .next t ∧ s.records t r 0x0406 (Reply.ok []) ∧
      t = { s with regs := t.regs, held := t.held, cmd := t.cmd } ∧
      (∀ f ∈ wakeFlds, ∀ x, Params.val? pl f.ty = some x → t.get f.fld = x % 2 ^ f.fld.w) ∧
      (∀ x, Params.val? pl 5 = some x → t.get PORT.WAKE_MAC_LO = swapBytes 6 x % 2 ^ 32 ∧ t.get PORT.WAKE_MAC_HI = swapBytes 6 x / 2 ^ 32) ∧
      (∀ x k, Params.val? pl 7 = some x → k < 32 → t.get (PORT.WAKE_PATTERN e k) = x / 2 ^ (32 * k) % 2 ^ 32) ∧
      (∀ x k, Params.val? pl 8 = some x → k < 4 → t.get (PORT.WAKE_MASK e k) = x / 2 ^ (32 * k) % 2 ^ 32) ∧
      (∀ x, Params.val? pl 9 = some x → t.bit PORT.WAKE_FILT_EN e = (x == 1)) := by
  have he : e < 8 := by
    rw [← hval, Params.val]
    cases hx : Params.val? pl 6 with
    | none => decide
    | some x => exact Nat.lt_succ_of_le (s.val?_range h (q := popt 6 1 0 7) rfl (by decide) hx).2
  have hrun := wakeSet_of h hfilter
  rw [hval] at hrun
  obtain ⟨hswitch, hmac⟩ := s.get_wakeHead (pl := pl)
  obtain ⟨hpattern, hmask⟩ := (s.wakeHead pl).get_wakeFilter (pl := pl) he
  have hfilt := (s.wakeHead pl).wakeFilter_fills pl e
  have hen := ((s.wakeHead pl).wakeFilter pl e).wakeEn_fills e (Params.val? pl 9)
  have hlast := fun f hf => hen.get f (List.forall_mem_singleton.2 (wakeEn_apart e he f hf))
  have hkept : ∀ f ∈ wakeHeadFlds, (((s.wakeHead pl).wakeFilter pl e).wakeEn e (Params.val? pl 9)).get f = (s.wakeHead pl).get f := fun f hf =>
    (hlast f (List.mem_append_left _ hf)).trans (hfilt.get f ((wakeFilter_apart e he).1 f hf))
  have hwords : ∀ f ∈ patternFlds e ++ maskFlds e, (((s.wakeHead pl).wakeFilter pl e).wakeEn e (Params.val? pl 9)).get f =
      ((s.wakeHead pl).wakeFilter pl e).get f := fun f hf => hlast f (List.mem_append_right _ hf)
  have hall : State.Fills (wakeHeadFlds ++ (patternFlds e ++ maskFlds e) ++ [PORT.WAKE_FILT_EN]) s
      (((s.wakeHead pl).wakeFilter pl e).wakeEn e (Params.val? pl 9)) :=
    (((s.wakeHead_fills pl).trans (hfilt.mono (fun _ h => List.mem_append_right _ h))).mono (fun _ h => List.mem_append_left _ h)).trans
      (hen.mono (fun _ h => List.mem_append_right _ h))
  obtain ⟨hrecords, hrest, -⟩ := hall.finish r 0x0406 (Reply.ok [])
  refine ⟨_, hrun, hrecords, hrest, fun f hf x hx => ?_, fun x hx => ?_, fun x k hx hk => ?_, fun x k hx hk => ?_, fun x hx => ?_⟩
  · exact (hkept _ (List.mem_append_left _ (List.mem_map_of_mem hf))).trans (hswitch f hf x hx)
  · obtain ⟨hlo, hhi⟩ := hmac x hx
    exact ⟨(hkept _ (List.mem_append_right _ (by simp))).trans hlo, (hkept _ (List.mem_append_right _ (by simp))).trans hhi⟩
  · exact (hwords _ (List.mem_append_left _ (List.mem_map_of_mem (List.mem_range.2 hk)))).trans (hpattern x k hx hk)
  · exact (hwords _ (List.mem_append_right _ (List.mem_map_of_mem (List.mem_range.2 hk)))).trans (hmask x k hx hk)
  · rw [hx]
    exact State.bit_setBit _ PORT.WAKE_FILT_EN he (x == 1)

end Sys2Proof.Machine

end

