-- ==== Sys2Proof/Proofs/LinksAndPorts.lean ====
section

namespace Sys2Proof.Machine

/-! ## Links, and the settings of a port (R126 to R154) -/

/-- Settles O12: each clause is the rule of its instruction, of a link that comes up or goes down, of PORT_SET, of a host write of CTRL, and of the
commands that write the tables of a port. -/
theorem linksAndPortSettings : Obligations.LinksAndPortSettings := by
  unfold Obligations.LinksAndPortSettings
  intro s p cause source speed e part r v pl hp w got named answers finds
  refine ⟨?earlyUp, ?lateUp, ?loss, ?set, ?enableAlone, ?enableWrite, ?snapWrite, ?filter, ?dispatch, ?dispatchFixed, ?wake⟩
  case earlyUp => exact fun hstep ⟨hlink, hdown⟩ => linkUp_early hp speed hlink hdown hstep
  case lateUp => exact fun hstep ⟨hlink, hdown⟩ => linkUp_late hp speed hlink hdown hstep
  case loss => exact fun hcause hlink hup => linkLoss_flushes hp hcause part hlink hup
  case set => exact fun h hnamed hall hstart hidle => portSet_writes hp h hnamed hall hstart hidle
  case enableAlone =>
    intro h _ hpl hlink _ hstart hquiet hpausing
    subst hpl
    exact portSet_enables hp h hlink hstart hquiet hpausing
  case enableWrite => exact fun ho hlink hen hstart hone hmode => portEnableWrite_enables hp ho hlink hen hstart hone hmode
  case snapWrite => exact fun ho hlink hen hone hsnap hmode => statSnapWrite_copies hp ho hlink hen hone hsnap hmode
  case filter => exact fun h hnamed he => filterSet_fills h hnamed he
  case dispatch => exact fun h hnamed hfree => dispatchSet_fills h hnamed hfree
  case dispatchFixed => exact fun h hnamed hfixed => dispatchSet_fixed h (hnamed ▸ hfixed)
  case wake =>
    intro h hfilter he
    obtain ⟨t, hrun, hrecords, hrest, hswitch, hmac, hpattern, hmask, hen⟩ := wakeSet_fills h hfilter he
    simp only [wakeFlds, List.forall_mem_cons] at hswitch
    obtain ⟨hmagic, hda, hlink, hawake, -⟩ := hswitch
    exact ⟨t, hrun, hrecords, hrest, hmagic, hda, hlink, hawake, hmac, hpattern, hmask, hen⟩

end Sys2Proof.Machine

end
